-- ==== Sys2Proof/Word.lean ====
section
/-! DEFINITION. The words of the machine (R1 to R3), four-lane values, and the one keyed table that
memory, registers and every population of records are held in. -/

namespace Sys2Proof

/-- Eight bits of memory. -/
abbrev Byte := BitVec 8

/-- A 16-bit half (R3). -/
abbrev Half := BitVec 16

/-- A 32-bit word (R3). -/
abbrev Word := BitVec 32

/-- A 64-bit dword (R3). -/
abbrev Dword := BitVec 64

/-- One value for each of the four lanes of a slice. -/
structure Quad (α : Type) where
  l0 : α
  l1 : α
  l2 : α
  l3 : α
  deriving DecidableEq, Repr, Inhabited

/-- The same value in the four lanes. -/
def Quad.all {α : Type} (x : α) : Quad α := ⟨x, x, x, x⟩

/-- The value of lane `i`; lanes are numbered 0 to 3, and a larger number reads lane 3. -/
def Quad.get {α : Type} (q : Quad α) (i : Nat) : α :=
  match i with
  | 0 => q.l0
  | 1 => q.l1
  | 2 => q.l2
  | _ => q.l3

/-- The four values that `f` gives the lanes 0 to 3. -/
def Quad.ofFn {α : Type} (f : Nat → α) : Quad α := ⟨f 0, f 1, f 2, f 3⟩

/-- `f` applied in each lane. -/
def Quad.map {α β : Type} (f : α → β) (q : Quad α) : Quad β := ⟨f q.l0, f q.l1, f q.l2, f q.l3⟩

/-- Lane `i` replaced by `x`. -/
def Quad.set {α : Type} (q : Quad α) (i : Nat) (x : α) : Quad α :=
  match i with
  | 0 => { q with l0 := x }
  | 1 => { q with l1 := x }
  | 2 => { q with l2 := x }
  | _ => { q with l3 := x }

/-- The four values in ascending lane order. -/
def Quad.toList {α : Type} (q : Quad α) : List α := [q.l0, q.l1, q.l2, q.l3]

/-- A table of records by number: pairs of a number and a record, the numbers strictly rising. -/
abbrev Tab (α : Type) := List (Nat × α)

/-- The record listed under `k`. -/
def Tab.get? {α : Type} : Tab α → Nat → Option α
  | [], _ => none
  | (j, x) :: t, k => if j = k then some x else Tab.get? t k

/-- The table with `x` listed under `k`; an earlier record under `k` is replaced. -/
def Tab.put {α : Type} : Tab α → Nat → α → Tab α
  | [], k, x => [(k, x)]
  | (j, y) :: t, k, x =>
    if k < j then (k, x) :: (j, y) :: t
    else if k = j then (k, x) :: t
    else (j, y) :: Tab.put t k x

/-- The table with nothing listed under `k`. -/
def Tab.erase {α : Type} : Tab α → Nat → Tab α
  | [], _ => []
  | (j, y) :: t, k => if j = k then Tab.erase t k else (j, y) :: Tab.erase t k

/-- The numbers of a table rise strictly. -/
def Tab.sorted {α : Type} : Tab α → Bool
  | [] => true
  | [_] => true
  | (j, _) :: (k, y) :: t => decide (j < k) && Tab.sorted ((k, y) :: t)

end Sys2Proof
end

