-- ==== Sys2Proof/Machine/Number.lean ====
section
/-! DEFINITION. Number formats and rounding (R63 to R82): the type codes of R44, exact values, and the one
function that rounds an exact value into a floating format. -/

namespace Sys2Proof.Machine

/-! ### Types (R44, R63) -/

/-- The types named by R44. -/
def typeNamed (t : Nat) : Bool :=
  (1 ≤ t && t ≤ 13) || (16 ≤ t && t ≤ 25)

/-- The type is s8, s16, s32 or s64. -/
def typeSigned (t : Nat) : Bool := 16 ≤ t && t ≤ 19

/-- The set INT of R113. -/
def typeInt (t : Nat) : Bool := 16 ≤ t && t ≤ 23

/-- The set W of R113. -/
def typeW (t : Nat) : Bool := t == 18 || t == 19 || (22 ≤ t && t ≤ 25)

/-- The set FP of R113. -/
def typeFP (t : Nat) : Bool := 1 ≤ t && t ≤ 4

/-- The set SF of R113. -/
def typeSF (t : Nat) : Bool := t == 1 || t == 3 || t == 4

/-- The set NF of R113. -/
def typeNF (t : Nat) : Bool := 5 ≤ t && t ≤ 9

/-- The block-scaled types mx8, mx6 and mx4 (R77). -/
def typeMX (t : Nat) : Bool := 10 ≤ t && t ≤ 12

/-- Bits of one element of a type (R44, R63, R65, R77); the element type's width for a block-scaled type. -/
def typeBits (t : Nat) : Nat :=
  match t with
  | 1 => 32 | 2 => 64 | 3 => 16 | 4 => 16
  | 5 => 8 | 6 => 8 | 7 => 6 | 8 => 6 | 9 => 4
  | 10 => 8 | 11 => 6 | 12 => 4 | 13 => 8
  | 16 => 8 | 17 => 16 | 18 => 32 | 19 => 64
  | 20 => 8 | 21 => 16 | 22 => 32 | 23 => 64
  | 24 => 32 | 25 => 64
  | _ => 32

/-- A 64-bit type, whose operands are pairs (R36, R114). -/
def typeWide (t : Nat) : Bool := typeBits t == 64

/-! ### Integers (R63, R64) -/

/-- The `w` low bits of `x` read as two's complement. -/
def sextInt (w : Nat) (x : Nat) : Int :=
  let y := x % 2 ^ w
  if y < 2 ^ (w - 1) then (y : Int) else (y : Int) - (2 ^ w : Nat)

/-- The element of type `t` in the low bits of a register image, as an exact integer (R63). -/
def elemInt (t : Nat) (x : Nat) : Int :=
  let w := typeBits t
  if typeSigned t then sextInt w x else ((x % 2 ^ w : Nat) : Int)

/-- An exact integer modulo 2^w. -/
def wrapNat (w : Nat) (x : Int) : Nat := (x % ((2 ^ w : Nat) : Int)).toNat

/-- The least and greatest value of an integer type (R63). -/
def intMin (t : Nat) : Int := if typeSigned t then -((2 ^ (typeBits t - 1) : Nat) : Int) else 0

/-- The greatest value of an integer type. -/
def intMax (t : Nat) : Int :=
  if typeSigned t then ((2 ^ (typeBits t - 1) : Nat) : Int) - 1 else ((2 ^ typeBits t : Nat) : Int) - 1

/-- An exact integer clamped between two bounds. -/
def clampInt (lo hi x : Int) : Int := if x < lo then lo else if hi < x then hi else x

/-- `fit` of R64 and R118: an exact integer wrapped, or clamped under saturation. -/
def fitInt (t : Nat) (sat : Bool) (x : Int) : Int :=
  if sat then clampInt (intMin t) (intMax t) x
  else elemInt t (wrapNat (typeBits t) x)

/-- The register image of an integer element (R63): sign-extended for s8 and s16, zero-filled otherwise. -/
def imageInt (t : Nat) (x : Int) : Nat :=
  if typeWide t then wrapNat 64 x
  else if typeSigned t then wrapNat 32 x
  else wrapNat (typeBits t) x

/-! ### Floating formats (R65) -/

/-- How a format encodes what is no number (R65): infinities and NaNs in the top exponent, one NaN, or
neither. -/
inductive Special where
  | ieee | nanOnly | none
  deriving DecidableEq, Repr

/-- A floating format (R65). -/
structure Fmt where
  eb : Nat
  fb : Nat
  bias : Nat
  special : Special
  deriving DecidableEq, Repr

/-- The floating format of a type code; f32 for a code that names none (R65). -/
def fmtOf (t : Nat) : Fmt :=
  match t with
  | 2 => ⟨11, 52, 1023, .ieee⟩
  | 3 => ⟨5, 10, 15, .ieee⟩
  | 4 => ⟨8, 7, 127, .ieee⟩
  | 5 => ⟨4, 3, 7, .nanOnly⟩
  | 6 => ⟨5, 2, 15, .ieee⟩
  | 7 => ⟨3, 2, 3, .none⟩
  | 8 => ⟨2, 3, 1, .none⟩
  | 9 => ⟨2, 1, 1, .none⟩
  | _ => ⟨8, 23, 127, .ieee⟩

/-- Whether NaNs of the type may be signalling (R66). -/
def fmtSignals (t : Nat) : Bool := typeFP t

/-- The exact value of an encoding: a NaN, an infinity, or (−1)^neg × m × 2^e. -/
inductive FVal where
  | nan (sig : Bool)
  | inf (neg : Bool)
  | num (neg : Bool) (m : Nat) (e : Int)
  deriving DecidableEq, Repr

/-- The five exceptions of R68. -/
structure Excs where
  inv : Bool := false
  dvz : Bool := false
  ovf : Bool := false
  unf : Bool := false
  inx : Bool := false
  deriving DecidableEq, Repr

/-- No exception. -/
def Excs.none : Excs := {}

/-- The exceptions of either. -/
def Excs.join (a b : Excs) : Excs :=
  ⟨a.inv || b.inv, a.dvz || b.dvz, a.ovf || b.ovf, a.unf || b.unf, a.inx || b.inx⟩

/-- Bits of the exponent field's all-ones value shifted to its place. -/
def Fmt.expMask (f : Fmt) : Nat := (2 ^ f.eb - 1) * 2 ^ f.fb

/-- The sign bit's weight. -/
def Fmt.signBit (f : Fmt) : Nat := 2 ^ (f.eb + f.fb)

/-- The magnitude bits of the largest finite value (R65). -/
def Fmt.maxBits (f : Fmt) : Nat :=
  match f.special with
  | .ieee => f.expMask - 1
  | .nanOnly => f.signBit - 2
  | .none => f.signBit - 1

/-- The canonical NaN of the format (R65, R66); +0 where the format has no NaN (R74). -/
def Fmt.canonNaN (f : Fmt) : Nat :=
  match f.special with
  | .ieee => f.expMask + 2 ^ (f.fb - 1)
  | .nanOnly => f.signBit - 1
  | .none => 0

/-- The exact value that an encoding stands for (R65, R66). -/
def decodeF (t : Nat) (x : Nat) : FVal :=
  let f := fmtOf t
  let mag := x % f.signBit
  let neg := (x / f.signBit) % 2 == 1
  let e := mag / 2 ^ f.fb
  let fr := mag % 2 ^ f.fb
  if f.special == .ieee && e == 2 ^ f.eb - 1 then
    if fr == 0 then .inf neg
    else .nan (fmtSignals t && fr < 2 ^ (f.fb - 1))
  else if f.special == .nanOnly && mag == f.signBit - 1 then .nan false
  else if e == 0 then .num neg fr (1 - (f.bias : Int) - f.fb)
  else .num neg (2 ^ f.fb + fr) ((e : Int) - f.bias - f.fb)

/-! ### Rounding (R71, R73) -/

/-- Number of bits of a natural number. -/
def bitLen (n : Nat) : Nat := if n = 0 then 0 else Nat.log2 n + 1

/-- The truncated multiple of 2^sh in `m`, and the decision to go to the neighbour of larger magnitude under a
mode (R71). `st` says that the exact magnitude lies strictly between `m` and `m + 1`; `w` is the random
word. Answers the rounded quotient and whether it is inexact. -/
def roundShift (mode w : Nat) (neg : Bool) (m : Nat) (st : Bool) (sh : Int) : Nat × Bool :=
  if sh ≤ 0 then
    let n := m * 2 ^ sh.natAbs
    if st then
      let up := match mode with | 3 => neg | 4 => !neg | _ => false
      (if up then n + 1 else n, true)
    else (n, false)
  else
    let k := sh.natAbs
    let far := bitLen m + 64 < k
    let n := if far then 0 else m / 2 ^ k
    let rem := if far then m else m % 2 ^ k
    let inexact := rem != 0 || st
    -- comparison of the discarded part with half an ulp
    let above := !far && (2 ^ (k - 1) < rem || (rem == 2 ^ (k - 1) && st))
    let tie := !far && rem == 2 ^ (k - 1) && !st
    let t := if far then 0 else rem * 2 ^ 32 / 2 ^ k
    let up := match mode with
      | 2 => false
      | 3 => neg && inexact
      | 4 => !neg && inexact
      | 5 => above || tie
      | 6 => inexact && 2 ^ 32 ≤ t + w
      | _ => above || (tie && n % 2 == 1)
    (if up then n + 1 else n, inexact)

/-- What an overflowing magnitude becomes (R73). -/
def overflowBits (f : Fmt) (mode : Nat) (sat neg : Bool) : Nat :=
  let s := if neg then f.signBit else 0
  match f.special with
  | .none => s + f.maxBits
  | .nanOnly => if sat then s + f.maxBits else f.canonNaN
  | .ieee =>
    if sat then s + f.maxBits
    else match mode with
      | 2 => s + f.maxBits
      | 3 => if neg then s + f.expMask else f.maxBits
      | 4 => if neg then s + f.maxBits else f.expMask
      | _ => s + f.expMask

/-- `round` of R6 for a finite value of magnitude `m` × 2^e, or between that and (`m` + 1) × 2^e where `st` holds:
the encoding and the exceptions (R68, R70, R71, R73). A zero magnitude keeps the sign given. -/
def roundF (t mode w : Nat) (sat neg : Bool) (m : Nat) (e : Int) (st : Bool) : Nat × Excs :=
  let f := fmtOf t
  let s := if neg then f.signBit else 0
  if m = 0 && !st then (s, Excs.none)
  else
    let lead := e + (bitLen m : Int) - 1
    let qU := lead - f.fb
    let qMin := 1 - (f.bias : Int) - f.fb
    let q := if qU < qMin then qMin else qU
    let (n, inexact) := roundShift mode w neg m st (q - e)
    -- above any exponent the formats have, the magnitude overflows whatever its fraction
    let bits := if 4096 < lead then f.signBit else (q - qMin).toNat * 2 ^ f.fb + n
    if f.maxBits < bits then
      (overflowBits f mode sat neg, { ovf := true, inx := true })
    else
      let (nU, _) := roundShift mode w neg m st (qU - e)
      let small := qU < qMin && !(qU + 1 = qMin && nU = 2 ^ (f.fb + 1))
      (s + bits, { unf := small && inexact, inx := inexact })

/-- An exact value delivered in a format (R73, R74, R75): infinities and NaNs as those rules say. `conv` says
that the operation is a conversion to a narrower format, whose infinite source follows the overflow table of R73 by the mode
and may signal invalid; an infinite result of arithmetic does not. -/
def deliver (t mode w : Nat) (sat conv : Bool) (v : FVal) : Nat × Excs :=
  let f := fmtOf t
  match v with
  | .nan sig => (f.canonNaN, { inv := sig || (conv && f.special == .none) })
  | .inf neg =>
    let s := if neg then f.signBit else 0
    match f.special with
    | .ieee => (if conv then overflowBits f mode sat neg else s + (if sat then f.maxBits else f.expMask), Excs.none)
    | .nanOnly => (if sat then s + f.maxBits else f.canonNaN, { inv := conv })
    | .none => (s + f.maxBits, { inv := conv })
  | .num neg m e => roundF t mode w sat neg m e false

/-- An exact value rounded to an integer of type `t` (R76): the value, beyond the range the nearer bound with
invalid and no inexact, and 0 with invalid for a NaN (R74). (DESIGN CHOICE, log 113) -/
def toIntVal (t mode w : Nat) (v : FVal) : Int × Excs :=
  match v with
  | .nan _ => (0, { inv := true })
  | .inf neg => (if neg then intMin t else intMax t, { inv := true })
  | .num neg m e =>
    if 128 < e + (bitLen m : Int) && m ≠ 0 then
      (if neg then intMin t else intMax t, { inv := true })
    else
      let (n, inexact) := roundShift mode w neg m false (-e)
      let x : Int := if neg then -(n : Int) else n
      if x < intMin t then (intMin t, { inv := true })
      else if intMax t < x then (intMax t, { inv := true })
      else (x, { inx := inexact })

/-! ### Exact arithmetic -/

/-- An exact signed value as a number: sign, magnitude and exponent, with the sign `z` for a zero. -/
def numOf (x : Int) (e : Int) (z : Bool) : FVal :=
  if x = 0 then .num z 0 0 else .num (decide (x < 0)) x.natAbs e

/-- The signed significand. -/
def signedMag (neg : Bool) (m : Nat) : Int := if neg then -(m : Int) else m

/-- The exact sum of two finite values; a zero sum of opposite signs is +0, −0 under rdn (R121). -/
def addExact (mode : Nat) (n1 : Bool) (m1 : Nat) (e1 : Int) (n2 : Bool) (m2 : Nat) (e2 : Int) : FVal :=
  if m1 = 0 && m2 = 0 then .num (if n1 == n2 then n1 else mode == 3) 0 0
  else if m1 = 0 then .num n2 m2 e2
  else if m2 = 0 then .num n1 m1 e1
  else
    let e := if e1 < e2 then e1 else e2
    let x := signedMag n1 (m1 * 2 ^ (e1 - e).natAbs) + signedMag n2 (m2 * 2 ^ (e2 - e).natAbs)
    numOf x e (mode == 3)

/-- The value is a signalling NaN. -/
def FVal.isSig : FVal → Bool
  | .nan s => s
  | _ => false

/-- The value is a NaN. -/
def FVal.isNaN : FVal → Bool
  | .nan _ => true
  | _ => false

/-- The value with its sign inverted. -/
def FVal.negate : FVal → FVal
  | .nan s => .nan s
  | .inf n => .inf (!n)
  | .num n m e => .num (!n) m e

/-- The sum of two values (R74): the exact result, and whether the operation is invalid. -/
def addVal (mode : Nat) (a b : FVal) : FVal × Bool :=
  match a, b with
  | .nan s, y => (.nan false, s || y.isSig)
  | x, .nan s => (.nan false, s || x.isSig)
  | .inf n, .inf k => if n == k then (.inf n, false) else (.nan false, true)
  | .inf n, _ => (.inf n, false)
  | _, .inf n => (.inf n, false)
  | .num n1 m1 e1, .num n2 m2 e2 => (addExact mode n1 m1 e1 n2 m2 e2, false)

/-- The product of two values (R74). -/
def mulVal (a b : FVal) : FVal × Bool :=
  match a, b with
  | .nan s, y => (.nan false, s || y.isSig)
  | x, .nan s => (.nan false, s || x.isSig)
  | .inf n, .inf k => (.inf (n != k), false)
  | .inf n, .num k m _ => if m = 0 then (.nan false, true) else (.inf (n != k), false)
  | .num k m _, .inf n => if m = 0 then (.nan false, true) else (.inf (n != k), false)
  | .num n1 m1 e1, .num n2 m2 e2 => (.num (n1 != n2) (m1 * m2) (e1 + e2), false)

/-- a × b + c as one exact value (R74, R121). -/
def fmaVal (mode : Nat) (a b c : FVal) : FVal × Bool :=
  match mulVal a b with
  | (.nan _, inv) => (.nan false, inv || c.isSig)
  | (p, _) =>
    match addVal mode p c with
    | (r, inv) => (r, inv)

/-- The result of an operation delivered: its exceptions and, where it was invalid, that one. -/
def deliverOp (t mode w : Nat) (sat : Bool) (r : FVal × Bool) : Nat × Excs :=
  let (bits, x) := deliver t mode w sat false r.1
  (bits, { x with inv := x.inv || r.2 })

/-- The integer square root, one bit at a time from bit `k` downward. -/
def isqrtAux (n : Nat) : Nat → Nat → Nat
  | 0, r => if (r + 1) * (r + 1) ≤ n then r + 1 else r
  | k + 1, r =>
    let r' := r + 2 ^ (k + 1)
    isqrtAux n k (if r' * r' ≤ n then r' else r)

/-- The integer square root. -/
def isqrt (n : Nat) : Nat := isqrtAux n (bitLen n / 2 + 1) 0

/-- a / b rounded once (R121): the quotient to at least 128 bits and whether a remainder is left. -/
def divF (t mode w : Nat) (sat : Bool) (a b : FVal) : Nat × Excs :=
  match a, b with
  | .nan s, y => deliverOp t mode w sat (.nan false, s || y.isSig)
  | x, .nan s => deliverOp t mode w sat (.nan false, s || x.isSig)
  | .inf _, .inf _ => deliverOp t mode w sat (.nan false, true)
  | .inf n, .num k _ _ => deliverOp t mode w sat (.inf (n != k), false)
  | .num n _ _, .inf k => deliverOp t mode w sat (.num (n != k) 0 0, false)
  | .num n1 m1 e1, .num n2 m2 e2 =>
    if m2 = 0 then
      if m1 = 0 then deliverOp t mode w sat (.nan false, true)
      else
        let (bits, x) := deliver t mode w sat false (.inf (n1 != n2))
        (bits, { x with dvz := true })
    else if m1 = 0 then deliverOp t mode w sat (.num (n1 != n2) 0 0, false)
    else
      let k := 128 + bitLen m2
      let q := m1 * 2 ^ k / m2
      let r := m1 * 2 ^ k % m2
      roundF t mode w sat (n1 != n2) q (e1 - e2 - k) (r != 0)

/-- √a rounded once (R121). -/
def sqrtF (t mode w : Nat) (sat : Bool) (a : FVal) : Nat × Excs :=
  match a with
  | .nan s => deliverOp t mode w sat (.nan false, s)
  | .inf true => deliverOp t mode w sat (.nan false, true)
  | .inf false => deliverOp t mode w sat (.inf false, false)
  | .num neg m e =>
    if m = 0 then deliverOp t mode w sat (.num neg 0 0, false)
    else if neg then deliverOp t mode w sat (.nan false, true)
    else
      let odd := (e % 2).toNat
      let n := m * 2 ^ odd * 2 ^ 256
      let r := isqrt n
      roundF t mode w sat false r ((e - odd) / 2 - 128) (r * r != n)

/-! ### Comparison -/

/-- The order of two values that are no NaNs, −0 equal to +0. -/
def cmpVal (a b : FVal) : Ordering :=
  match a, b with
  | .inf n, .inf k => if n == k then .eq else if n then .lt else .gt
  | .inf n, _ => if n then .lt else .gt
  | _, .inf k => if k then .gt else .lt
  | .num n1 m1 e1, .num n2 m2 e2 =>
    let e := if e1 < e2 then e1 else e2
    let x := signedMag n1 (m1 * 2 ^ (e1 - e).natAbs)
    let y := signedMag n2 (m2 * 2 ^ (e2 - e).natAbs)
    compare x y
  | _, _ => .eq

/-- The sign of a value. -/
def FVal.isNeg : FVal → Bool
  | .nan _ => false
  | .inf n => n
  | .num n _ _ => n

/-- The order of two values that are no NaNs, with −0 below +0 (R74). -/
def cmpZero (a b : FVal) : Ordering :=
  match cmpVal a b with
  | .eq => if a.isNeg == b.isNeg then .eq else if a.isNeg then .lt else .gt
  | o => o

/-- FMIN, FMAX, FMINN and FMAXN on two encodings (R74): the encoding selected, unrounded. -/
def minMaxF (t : Nat) (isMax number : Bool) (x y : Nat) : Nat × Excs :=
  let a := decodeF t x
  let b := decodeF t y
  let nan := (fmtOf t).canonNaN
  let inv := a.isSig || b.isSig
  let pick := match cmpZero a b with
    | .lt => if isMax then y else x
    | _ => if isMax then x else y
  if a.isNaN && b.isNaN then (nan, { inv := inv })
  else if a.isNaN then (if number then y else nan, { inv := inv })
  else if b.isNaN then (if number then x else nan, { inv := inv })
  else (pick, Excs.none)

end Sys2Proof.Machine
end

