-- ==== Sys2Proof/Syntax.lean ====
section
/-! DEFINITION. The abstract syntax: one constructor for each row of the opcode table. The first 185 rows
are instructions of the Turez set and carry the fields of their words (R30, R31); the others are the
steps that are no instruction of a slice (an engine's, a bay's, the dispatcher's, a host port's) and carry
what names the thing they act on. -/

namespace Sys2Proof

/-- The fields of the extension word (R31). -/
structure Ext where
  lc  : Bool
  sc  : BitVec 6
  gov : BitVec 5
  tov : BitVec 5
  rov : BitVec 3
  sat : Bool
  md  : BitVec 11
  deriving DecidableEq, Repr, Inhabited

/-- What follows the base word (R27): nothing, an extension word, or an extension word and a literal. -/
inductive Tail where
  | one
  | two (e : Ext)
  | three (e : Ext) (lit : Word)
  deriving DecidableEq, Repr, Inhabited

/-- The fields of an instruction beside its opcode (R30, R31). -/
structure Fields where
  y   : Bool
  n   : Bool
  dst : BitVec 6
  la  : Bool
  sa  : BitVec 6
  lb  : Bool
  sb  : BitVec 6
  tail : Tail
  deriving DecidableEq, Repr, Inhabited

/-- The extension word of an instruction, zero where it has none (R31, R46). -/
def Fields.ext (f : Fields) : Ext :=
  match f.tail with
  | .one => ⟨false, 0, 0, 0, 0, false, 0⟩
  | .two e => e
  | .three e _ => e

/-- The literal of a three-word form. -/
def Fields.lit? (f : Fields) : Option Word :=
  match f.tail with
  | .three _ l => some l
  | _ => none

/-- The length in words (R27). -/
def Fields.len (f : Fields) : Nat :=
  match f.tail with
  | .one => 1
  | .two _ => 2
  | .three _ _ => 3

/-- A Petixa packet, header and payload (R427). -/
structure Packet where
  type  : Byte
  flags : Byte
  src   : Half
  dst   : Half
  ctx   : Half
  seq   : Word
  len   : Half
  op    : Byte
  rsv   : Byte
  addr  : Dword
  keys  : Dword
  payload : List Byte
  nul   : Bool
  deriving DecidableEq, Repr, Inhabited

/-- What a member of a collective announces (R411). -/
structure Announce where
  op    : Nat
  type  : Nat
  chunk : Nat
  table : List Word
  deriving DecidableEq, Repr, Inhabited

/-- The bytes a slot whose member is outside this package contributes to a bale (R412). -/
structure SlotData where
  slot : Nat
  data : List Byte
  expo : List Byte
  deriving DecidableEq, Repr, Inhabited

/-- Where on a die an uncorrectable error is found (R184, R185): a sector of its memory, of a guest copy that it holds, or of a block's window in
a core store. -/
inductive EccPlace where
  | memory (pa : Nat)
  | guest (home pa : Nat)
  | window (bid line : Nat)
  deriving DecidableEq, Repr, Inhabited

/-- An instrument of the test access network and what of it is read (R471). -/
inductive Instrument where
  | core (core : Nat)
  | bay (bay : Nat)
  | channel (chan addr n : Nat)
  | engine
  | config
  deriving DecidableEq, Repr, Inhabited

/-- The rows of the opcode table. -/
inductive Instr where
  /-- IADD (R118). -/
  | iadd (f : Fields)
  /-- ISUB (R118). -/
  | isub (f : Fields)
  /-- IMUL (R118). -/
  | imul (f : Fields)
  /-- IMULH (R118). -/
  | imulh (f : Fields)
  /-- IMAD (R118). -/
  | imad (f : Fields)
  /-- IDIV (R118). -/
  | idiv (f : Fields)
  /-- IREM (R118). -/
  | irem (f : Fields)
  /-- IMIN (R118). -/
  | imin (f : Fields)
  /-- IMAX (R118). -/
  | imax (f : Fields)
  /-- IABS (R118). -/
  | iabs (f : Fields)
  /-- INEG (R118). -/
  | ineg (f : Fields)
  /-- IADDC (R118). -/
  | iaddc (f : Fields)
  /-- ISUBB (R118). -/
  | isubb (f : Fields)
  /-- AND (R118). -/
  | andB (f : Fields)
  /-- OR (R118). -/
  | orB (f : Fields)
  /-- XOR (R118). -/
  | xorB (f : Fields)
  /-- NOT (R118). -/
  | notB (f : Fields)
  /-- ANDN (R118). -/
  | andn (f : Fields)
  /-- SHL (R118). -/
  | shl (f : Fields)
  /-- SHR (R118). -/
  | shr (f : Fields)
  /-- SAR (R118). -/
  | sar (f : Fields)
  /-- ROT (R118). -/
  | rot (f : Fields)
  /-- BFE (R118). -/
  | bfe (f : Fields)
  /-- BFI (R118). -/
  | bfi (f : Fields)
  /-- POPC (R118). -/
  | popc (f : Fields)
  /-- CLZ (R118). -/
  | clz (f : Fields)
  /-- BREV (R118). -/
  | brev (f : Fields)
  /-- LEA (R118). -/
  | lea (f : Fields)
  /-- MOV (R106). -/
  | mov (f : Fields)
  /-- MOVI (R106). -/
  | movi (f : Fields)
  /-- FADD (R121). -/
  | fadd (f : Fields)
  /-- FSUB (R121). -/
  | fsub (f : Fields)
  /-- FMUL (R121). -/
  | fmul (f : Fields)
  /-- FFMA (R121). -/
  | ffma (f : Fields)
  /-- FMIN (R121). -/
  | fmin (f : Fields)
  /-- FMAX (R121). -/
  | fmax (f : Fields)
  /-- FMINN (R121). -/
  | fminn (f : Fields)
  /-- FMAXN (R121). -/
  | fmaxn (f : Fields)
  /-- FABS (R121). -/
  | fabs (f : Fields)
  /-- FNEG (R121). -/
  | fneg (f : Fields)
  /-- FCPYS (R121). -/
  | fcpys (f : Fields)
  /-- FDIV (R121). -/
  | fdiv (f : Fields)
  /-- FSQRT (R121). -/
  | fsqrt (f : Fields)
  /-- FRCP (R124). -/
  | frcp (f : Fields)
  /-- FRSQ (R124). -/
  | frsq (f : Fields)
  /-- FEX2 (R124). -/
  | fex2 (f : Fields)
  /-- FLG2 (R124). -/
  | flg2 (f : Fields)
  /-- FSINP (R124). -/
  | fsinp (f : Fields)
  /-- FCOSP (R124). -/
  | fcosp (f : Fields)
  /-- FTANH (R124). -/
  | ftanh (f : Fields)
  /-- FRND (R121). -/
  | frnd (f : Fields)
  /-- FSCL (R121). -/
  | fscl (f : Fields)
  /-- FEXPN (R121). -/
  | fexpn (f : Fields)
  /-- CVT (R127). -/
  | cvt (f : Fields)
  /-- CVTSR (R127). -/
  | cvtsr (f : Fields)
  /-- PACK (R128). -/
  | pack (f : Fields)
  /-- UNPK (R128). -/
  | unpk (f : Fields)
  /-- QNT (R129). -/
  | qnt (f : Fields)
  /-- DQNT (R130). -/
  | dqnt (f : Fields)
  /-- ICMP (R132). -/
  | icmp (f : Fields)
  /-- FCMP (R132). -/
  | fcmp (f : Fields)
  /-- FCLASS (R132). -/
  | fclass (f : Fields)
  /-- PAND (R132). -/
  | pand (f : Fields)
  /-- POR (R132). -/
  | por (f : Fields)
  /-- PXOR (R132). -/
  | pxor (f : Fields)
  /-- PNOT (R132). -/
  | pnot (f : Fields)
  /-- PMOV (R132). -/
  | pmov (f : Fields)
  /-- SEL (R133). -/
  | sel (f : Fields)
  /-- AFF (R107). -/
  | aff (f : Fields)
  /-- UNIF (R107). -/
  | unif (f : Fields)
  /-- SHAPE (R107). -/
  | shape (f : Fields)
  /-- SHFL (R139). -/
  | shfl (f : Fields)
  /-- BCAST (R139). -/
  | bcast (f : Fields)
  /-- VOTE (R140). -/
  | vote (f : Fields)
  /-- RDX (R141). -/
  | rdx (f : Fields)
  /-- SCAN (R141). -/
  | scan (f : Fields)
  /-- TOPK (R142). -/
  | topk (f : Fields)
  /-- LD (R205). -/
  | ld (f : Fields)
  /-- ST (R206). -/
  | st (f : Fields)
  /-- LDS (R205). -/
  | lds (f : Fields)
  /-- STS (R206). -/
  | sts (f : Fields)
  /-- LDU (R205). -/
  | ldu (f : Fields)
  /-- TLD (R207). -/
  | tld (f : Fields)
  /-- TST (R207). -/
  | tst (f : Fields)
  /-- LDA (R238). -/
  | lda (f : Fields)
  /-- STRL (R239). -/
  | strl (f : Fields)
  /-- RLD (R205). -/
  | rld (f : Fields)
  /-- RST (R206). -/
  | rst (f : Fields)
  /-- RATM (R434). -/
  | ratm (f : Fields)
  /-- PRF (R208). -/
  | prf (f : Fields)
  /-- PIN (R209). -/
  | pin (f : Fields)
  /-- UNPIN (R209). -/
  | unpin (f : Fields)
  /-- WAITC (R210). -/
  | waitc (f : Fields)
  /-- PRES (R211). -/
  | pres (f : Fields)
  /-- CLAIM (R291). -/
  | claim (f : Fields)
  /-- RELS (R291). -/
  | rels (f : Fields)
  /-- SLD (R292). -/
  | sld (f : Fields)
  /-- SLDS (R293). -/
  | slds (f : Fields)
  /-- MMA (R294). -/
  | mma (f : Fields)
  /-- MMAS (R295). -/
  | mmas (f : Fields)
  /-- MZERO (R296). -/
  | mzero (f : Fields)
  /-- ACLD (R296). -/
  | acld (f : Fields)
  /-- MBAT (R297). -/
  | mbat (f : Fields)
  /-- MWTB (R298). -/
  | mwtb (f : Fields)
  /-- DRN (R299). -/
  | drn (f : Fields)
  /-- DRNX (R300). -/
  | drnx (f : Fields)
  /-- DRNA_O (R303). -/
  | drnaO (f : Fields)
  /-- DRNA_U (R304). -/
  | drnaU (f : Fields)
  /-- BINIT (R268). -/
  | binit (f : Fields)
  /-- BEXP (R268). -/
  | bexp (f : Fields)
  /-- BARR (R268). -/
  | barr (f : Fields)
  /-- BWAIT (R269). -/
  | bwait (f : Fields)
  /-- BTRY (R269). -/
  | btry (f : Fields)
  /-- MWAIT (R270). -/
  | mwait (f : Fields)
  /-- ATOM (R271). -/
  | atom (f : Fields)
  /-- BINC (R271). -/
  | binc (f : Fields)
  /-- WINC (R271). -/
  | winc (f : Fields)
  /-- DECZ (R271). -/
  | decz (f : Fields)
  /-- FADDL (R271). -/
  | faddl (f : Fields)
  /-- TKT (R273). -/
  | tkt (f : Fields)
  /-- FATOM_O (R272). -/
  | fatomO (f : Fields)
  /-- FATOM_U (R272). -/
  | fatomU (f : Fields)
  /-- RED_O (R272). -/
  | redO (f : Fields)
  /-- RED_U (R272). -/
  | redU (f : Fields)
  /-- TKW (R273). -/
  | tkw (f : Fields)
  /-- TKA (R273). -/
  | tka (f : Fields)
  /-- COMMIT (R274). -/
  | commit (f : Fields)
  /-- GSYNC (R275). -/
  | gsync (f : Fields)
  /-- GJOIN (R169). -/
  | gjoin (f : Fields)
  /-- GLEAVE (R170). -/
  | gleave (f : Fields)
  /-- GRANK (R170). -/
  | grank (f : Fields)
  /-- GSIZE (R170). -/
  | gsize (f : Fields)
  /-- FENCE (R237). -/
  | fence (f : Fields)
  /-- CPY (R320). -/
  | cpy (f : Fields)
  /-- CPT (R321). -/
  | cpt (f : Fields)
  /-- CPG (R325). -/
  | cpg (f : Fields)
  /-- CPS (R325). -/
  | cps (f : Fields)
  /-- QFEN (R326). -/
  | qfen (f : Fields)
  /-- TOKW (R328). -/
  | tokw (f : Fields)
  /-- TOKT (R328). -/
  | tokt (f : Fields)
  /-- TOKR (R327). -/
  | tokr (f : Fields)
  /-- QCAN (R329). -/
  | qcan (f : Fields)
  /-- RGATH (R418). -/
  | rgath (f : Fields)
  /-- RRSC_O (R419). -/
  | rrscO (f : Fields)
  /-- RRSC_U (R419). -/
  | rrscU (f : Fields)
  /-- RHOF (R420). -/
  | rhof (f : Fields)
  /-- RAGR (R421). -/
  | ragr (f : Fields)
  /-- RANK (R423). -/
  | rank (f : Fields)
  /-- RBAR (R422). -/
  | rbar (f : Fields)
  /-- LNCH (R357). -/
  | lnch (f : Fields)
  /-- KREG (R335). -/
  | kreg (f : Fields)
  /-- KREG_DROP (R332). -/
  | kregDrop (f : Fields)
  /-- NODEQ (R356). -/
  | nodeq (f : Fields)
  /-- BRA (R164). -/
  | bra (f : Fields)
  /-- BRX (R164). -/
  | brx (f : Fields)
  /-- CALL (R164). -/
  | call (f : Fields)
  /-- CALLX (R164). -/
  | callx (f : Fields)
  /-- RET (R164). -/
  | ret (f : Fields)
  /-- IFM (R165). -/
  | ifm (f : Fields)
  /-- ELSM (R165). -/
  | elsm (f : Fields)
  /-- ENDM (R165). -/
  | endm (f : Fields)
  /-- BRKM (R165). -/
  | brkm (f : Fields)
  /-- EXIT (R167). -/
  | exit (f : Fields)
  /-- NOP (R167). -/
  | nop (f : Fields)
  /-- REGANG (R168). -/
  | regang (f : Fields)
  /-- MOVS_O (R108). -/
  | movsO (f : Fields)
  /-- MOVS_U (R108). -/
  | movsU (f : Fields)
  /-- SETM (R109). -/
  | setm (f : Fields)
  /-- GETM (R109). -/
  | getm (f : Fields)
  /-- REL (R110). -/
  | rel (f : Fields)
  /-- GROW (R111). -/
  | grow (f : Fields)
  /-- SHRINK (R111). -/
  | shrink (f : Fields)
  /-- POOLQ (R112). -/
  | poolq (f : Fields)
  /-- PQRY (R374). -/
  | pqry (f : Fields)
  /-- SETPK (R375). -/
  | setpk (f : Fields)
  /-- TLBFL (R376). -/
  | tlbfl (f : Fields)
  /-- TLBDR (R376). -/
  | tlbdr (f : Fields)
  /-- TRAP (R399). -/
  | trap (f : Fields)
  /-- TRET (R400). -/
  | tret (f : Fields)
  /-- ERRL (R401). -/
  | errl (f : Fields)
  /-- LAYW (R402). -/
  | layw (f : Fields)
  /-- LAYQ (R402). -/
  | layq (f : Fields)
  /-- LAYR (R402). -/
  | layr (f : Fields)
  /-- LAYE (R402). -/
  | laye (f : Fields)
  /-- BKPT (R399). -/
  | bkpt (f : Fields)
  /-- MONITOR_POLL (R249): A polling slice re-reads its element when the poll interval expires. -/
  | monitorPoll (bid sid : Nat)
  /-- WAIT_SATISFIED (R152): A waiting instruction's condition comes about and it completes. -/
  | waitSatisfied (bid sid : Nat)
  /-- CALL_SET_RELEASE (R168): A REGANG call set is released as one part when all members wait. -/
  | callSetRelease (bid sid : Nat)
  /-- GANG_SWITCH (R41): An issue port picks another part at a point where latches are empty. -/
  | gangSwitch (bid part : Nat)
  /-- FILL_LAND (R193): An element of an outstanding fill lands; the tag leaves P when the last lands. -/
  | fillLand (fill elem : Nat)
  /-- FILL_FAULT_DELIVERY (R194): A fill fault is delivered at the slice's next instruction boundary. -/
  | fillFaultDelivery (bid sid : Nat)
  /-- PARK_TIMEOUT (R190): A scratchpad park or fill exceeds the park limit. -/
  | parkTimeout (bid sid : Nat) (fill : Option Nat)
  /-- POOL_WAIT_SERVED (R96): A waiting pool request is served when words return. -/
  | poolWaitServed (die core : Nat)
  /-- REFILL (R97): A spilled block's registers are reloaded and its slices unparked. -/
  | refill (bid : Nat)
  /-- POOL_WAIT_QUANTUM (R98): A pool wait of one quantum makes the dispatcher save the youngest other block. -/
  | poolWaitQuantum (bid : Nat)
  /-- PHASE_CLOSE_COMPLETE (R220): Every bay's arrivals match a closed phase's counts. -/
  | phaseCloseComplete (die core : Nat)
  /-- UNSEQUENCED_REQUEST_APPLY (R224): A held off-die request is applied at its home once the home's clock covers its stamp. -/
  | unsequencedRequestApply (req : Nat)
  /-- SEQUENCED_MESSAGE_APPLY (R225): A die applies a held sequenced message when causally ready. -/
  | sequencedMessageApply (msg : Nat)
  /-- BAY_LINE_FILL (R182): Sectors requested for a bay line arrive from HBM or home. -/
  | bayLineFill (die line : Nat)
  /-- ECC_ERROR (R184): An uncorrectable error poisons a sector. -/
  | eccError (die : Nat) (place : EccPlace)
  /-- FLUSHING_READ_RETURN (R230): A flushing read on a host port returns. -/
  | flushingReadReturn (port flush : Nat)
  /-- ENTRY_TURN (R314): A queued engine entry starts running at its turn. -/
  | entryTurn (entry : Nat)
  /-- PIECE_WRITE (R313): An engine piece passes its verdicts and is written. -/
  | pieceWrite (entry : Nat)
  /-- PIECE_FAIL (R314): An engine piece fails and its entry fails. -/
  | pieceFail (entry : Nat)
  /-- ENTRY_COMPLETE (R316): A Done or Failed entry completes once its writes are performed and releases. -/
  | entryComplete (entry : Nat)
  /-- FENCE_ENTRY_COMPLETE (R326): A queue fence completes when all earlier entries have completed. -/
  | fenceEntryComplete (entry : Nat)
  /-- SLOT_FILL_LAND (R279): An SLD or SLDS fill lands in a slot. -/
  | slotFillLand (bid fill : Nat)
  /-- SLOT_FILL_FAULT (R281): A slot fill faults, zeroing its rows. -/
  | slotFillFault (bid fill : Nat)
  /-- SLOT_OPERAND_READ_END (R279): A stream entry finishes reading a slot. -/
  | slotOperandReadEnd (bid : Nat)
  /-- STREAM_ENTRY_BEGIN (R284): A matrix stream entry begins after the previous one finishes. -/
  | streamEntryBegin (bid : Nat)
  /-- STREAM_ENTRY_COMPLETE (R285): A matrix stream entry completes. -/
  | streamEntryComplete (bid : Nat)
  /-- DRNA_GRANT (R303): An ordered DRNA proceeds once lower-rank senders' additions are applied. -/
  | drnaGrant (bid : Nat)
  /-- DRNA_ADDITION (R302): A DRNA tile addition arrives and is applied at the target. -/
  | drnaAddition (add : Nat)
  /-- COLLECTIVE_TURN (R410): A collective entry starts running and announces itself. -/
  | collectiveTurn (entry : Nat)
  /-- COLLECTIVE_ANNOUNCE (R411): A member's announcement arrives and is compared. -/
  | collectiveAnnounce (entry slot : Nat) (ann : Announce)
  /-- BALE_LAND (R412): A collective bale lands at a member. -/
  | baleLand (entry bale : Nat) (ext : List SlotData)
  /-- WITHDRAW_NOTICE (R410): A member's withdraw notice arrives. -/
  | withdrawNotice (entry peer : Nat)
  /-- COLLECTIVE_DEADLINE (R410): No bale of a slot arrives within DEADLINE and the slot is missing. -/
  | collectiveDeadline (entry slot : Nat)
  /-- COLLECTIVE_COMPLETE (R413): A collective entry completes at its member with a release. -/
  | collectiveComplete (entry : Nat)
  /-- NODE_ACCEPT (R339): The launch queue accepts a node in queue order. -/
  | nodeAccept (die : Nat)
  /-- PREDECESSOR_COMPLETE (R339): A node's predecessor token completes. -/
  | predecessorComplete (node pred : Nat)
  /-- LEASE_GRANT (R340): All lease ranges of a node are granted and it becomes Running. -/
  | leaseGrant (node : Nat)
  /-- HOST_SIGNAL (R337): A host-signal node sends its posted write and flushing read. -/
  | hostSignal (node : Nat)
  /-- BLOCK_PLACEMENT (R344): The dispatcher places a waiting block on a core that fits. -/
  | blockPlacement (die : Nat)
  /-- QUANTUM_EXPIRY (R345): A waiting member has waited one quantum and a resident block is saved. -/
  | quantumExpiry (die bid : Nat)
  /-- DORMANT_SAVE (R250): The dispatcher saves a dormant block with its monitors armed. -/
  | dormantSave (bid : Nat)
  /-- BLOCK_RESTORE (R99): A saved block is restored to a core. -/
  | blockRestore (bid core : Nat)
  /-- ROUND_COMMIT (R261): An ordered round ends and its commit applies writes in block order. -/
  | roundCommit (node : Nat)
  /-- ROUND_TIMEOUT (R262): A round exceeds the round limit. -/
  | roundTimeout (node : Nat)
  /-- NODE_COMPLETION (R358): A Completing node becomes Done or Failed and releases at system scope. -/
  | nodeCompletion (node : Nat)
  /-- KERNEL_RECORD_FREE (R332): A Dropping kernel record becomes Free once no node names it. -/
  | kernelRecordFree (ctx idx : Nat)
  /-- LAYER_TURN (R389): A queued layer's turn comes and it starts arriving. -/
  | layerTurn (die : Nat)
  /-- LAYER_PAGE_LAND (R389): A layer page lands and becomes Resident. -/
  | layerPageLand (ctx layer page : Nat)
  /-- EVICTION_COMPLETE (R370): An evicting page's requests finish and it becomes Absent. -/
  | evictionComplete (ctx layer page : Nat)
  /-- CTXSTART (R380): A write of a record address to a Free slot starts a context. -/
  | ctxstart (die slot : Nat) (value : Dword)
  /-- CTXCTL_SWAP_OUT (R383): Command 1 starts a swap-out of the context. -/
  | ctxctlSwapOut (die slot : Nat)
  /-- CTXCTL_SWAP_IN (R383): Command 2 starts a swap-in of the context. -/
  | ctxctlSwapIn (die slot : Nat)
  /-- CTXCTL_END (R381): Command 3 ends the context or frees an Ended slot. -/
  | ctxctlEnd (die slot : Nat)
  /-- SWAP_OUT_SAVE_DONE (R383): The save of a swapping-out context completes. -/
  | swapOutSaveDone (ctx : Nat)
  /-- SWAP_IN_RESTORE_DONE (R383): The restore of a swapping-in context completes. -/
  | swapInRestoreDone (ctx : Nat)
  /-- TEARDOWN_DONE (R381): An ending context's teardown completes and it becomes Ended. -/
  | teardownDone (ctx : Nat)
  /-- BRIDGE_LOST (R405): No flit acknowledgement crosses a bridge for 2 us. -/
  | bridgeLost (bridge : Nat)
  /-- DIE_LOST (R405): A die fails and the ring begins wrapping. -/
  | dieLost (die : Nat)
  /-- WRAP_COMPLETE (R405): Turns are set up at the break and the ring is wrapped. -/
  | wrapComplete
  /-- FLIT_RECEIVE (R426): A Petixa flit is received and checked. -/
  | flitReceive (port : Nat) (flit : List Byte)
  /-- FLIT_NAK (R426): A NAK triggers replay from the sender's buffer. -/
  | flitNak (port seq : Nat)
  /-- PACKET_REQUEST (R430): A Petixa request packet is handled at the target. -/
  | packetRequest (port : Nat) (pkt : Packet)
  /-- PACKET_REPLY (R429): A Petixa reply packet arrives at the requester. -/
  | packetReply (port : Nat) (pkt : Packet)
  /-- REPLAY_TIMEOUT (R429): A pair's request has no reply for 20 us and is re-sent. -/
  | replayTimeout (die peer : Nat)
  /-- SWITCH_DOWN_NOTICE (R432): A switch's down notice arrives. -/
  | switchDownNotice (port peer : Nat) (whole : Bool)
  /-- PETIXA_RETRAIN (R26): A Petixa port retrains and updates its width. -/
  | petixaRetrain (port width : Nat)
  /-- COLD_RESET (R453): Power-on or PERST# on port 0 resets the package. -/
  | coldReset
  /-- WARM_RESET (R453): A PCIe hot reset on port 0 resets the package. -/
  | warmReset
  /-- PORT1_RESET (R453): PERST# or hot reset on port 1 resets only port 1's link and mailbox. -/
  | port1Reset
  /-- ACCEPT_WRITE (R461): A write to ACCEPT's upper dword commits the accepted features. -/
  | acceptWrite (port : Nat) (value : Dword)
  /-- PWR_WRITE (R466): A write to PWR sets the tolerance and deepest power state. -/
  | pwrWrite (port : Nat) (value : Dword)
  /-- BAY_MAP_WRITE (R361): A bay-map write, ignored unless the map stays a permutation. -/
  | bayMapWrite (die word : Nat) (value : Dword)
  /-- LPOOL_WRITE (R458): A write to LPOOL sets the layer pool size. -/
  | lpoolWrite (die : Nat) (value : Dword)
  /-- CONFIG_REGISTER_WRITE (R457): A write to any other configuration register is applied or ignored. -/
  | configRegisterWrite (port off : Nat) (data : List Byte)
  /-- MEMRD (R460): Mailbox command that reads physical memory at the home bay. -/
  | memrd (port : Nat) (tag : Byte)
  /-- MEMWR (R460): Mailbox command that writes physical memory under R231. -/
  | memwr (port : Nat) (tag : Byte)
  /-- CFGRD (R460): Mailbox command that reads one configuration dword. -/
  | cfgrd (port : Nat) (tag : Byte)
  /-- IMGLOAD (R460): Mailbox command that places an image chunk in staging. -/
  | imgload (port : Nat) (tag : Byte)
  /-- IMGCOMMIT (R456): Mailbox command that verifies the staged image and writes the flash. -/
  | imgcommit (port : Nat) (tag : Byte)
  /-- ATTEST (R464): Mailbox command that returns a signed measurement. -/
  | attest (port : Nat) (tag : Byte)
  /-- CERT (R460): Mailbox command that returns a DICE certificate. -/
  | cert (port : Nat) (tag : Byte)
  /-- FREEZE (R470): Mailbox command that freezes the package. -/
  | freeze (port : Nat) (tag : Byte)
  /-- RESET (R453): Mailbox command that performs a warm reset. -/
  | reset (port : Nat) (tag : Byte)
  /-- BAR2_WRITE (R435): A host write through BAR2 is applied at its home bay. -/
  | bar2Write (port off : Nat) (data : List Byte)
  /-- BAR2_READ (R435): A host read through BAR2 returns device memory. -/
  | bar2Read (port off n : Nat)
  /-- HOST_CXL_SNOOP (R436): A host snoop is served at the bay holding a CXL.cache line. -/
  | hostCxlSnoop (port addr : Nat)
  /-- FREEZE_N (R470): A low level on the FREEZE_N pin stops every clock. -/
  | freezeN
  /-- TAP_READOUT (R471): A test access instruction reads an instrument of a frozen part. -/
  | tapReadout (die : Nat) (inst : Instrument)
  /-- POWER_STATE_ENTRY (R466): The package enters the deepest allowed power state whose condition holds. -/
  | powerStateEntry
  /-- POWER_WAKE (R467): A wake event returns the package to Run. -/
  | powerWake
  /-- UNASSIGNED_OPCODE (R50): A fetched base word with LEN = 0b11 or an unassigned opcode raises ILLEGAL_OPCODE precisely. -/
  | unassignedOpcode (w : Word)
  /-- FETCH_FAULT (R29): An instruction fetch faults on a word of an instruction and raises the fetch fault with trap.addr at the faulting word. -/
  | fetchFault (cause : Half) (addr : Dword)
  /-- BAY_REQUEST_ARRIVAL (R212): A read, write or RMW request from a core arrives at its die's bay, takes its verdict and is performed, counting its phase arrival. -/
  | bayRequestArrival (req : Nat)
  /-- POWER_FAILURE (R456): Power fails, possibly during an IMGCOMMIT overwrite of the flash. -/
  | powerFailure (flashBytes : Nat)
  /-- THROTTLING (R468): The firmware throttles the vector and matrix islands to keep the 4,800 W limit, changing the island word. -/
  | throttling (die vector matrix : Nat)
  /-- CORRECTED_ECC_ERROR (R469): A corrected ECC error occurs and the telemetry counter CECC advances. -/
  | correctedEccError (die : Nat)
  deriving DecidableEq, Repr, Inhabited

/-- An instruction of the test access port that reads no instrument (R471). -/
inductive TapInstr where
  | idcode | bypass | boundaryScan
  deriving DecidableEq, Repr, Inhabited

/-- Which agent moves next: a part of a block issues its instruction (R147, R149), a step that is no instruction of a slice comes about, or
the outside does something that no row of the opcode table names. -/
inductive Move where
  | issue (bid part : Nat)
  | event (i : Instr)
  /-- The host stores a byte into its own memory behind a port (R230, R436). -/
  | hostStore (port addr : Nat) (x : Byte)
  /-- The host reads `n` bytes of BAR0 through a port (R457, R459, R467). -/
  | bar0Read (port off n : Nat)
  /-- A write to MBCMD starts a command, which stays in progress (R459). -/
  | mailboxStart (port : Nat) (op tag : Byte)
  /-- FREEZE_N is asserted while a command is in progress that has applied the bytes at these positions of its data (R470). -/
  | mailboxPart (port : Nat) (part : List Nat)
  /-- A collective entry reads and sends its contribution to bale `bale` of a member in another package (R411, R413). -/
  | collSend (entry peer bale : Nat)
  /-- A member in another package has taken or discarded a bale of an entry's contribution, with its saturation flag (R413, R416). -/
  | collTook (entry peer bale : Nat) (sat : Bool)
  /-- FREEZE_N is asserted when the first `n` steps of a bring-up have run after a reset (R453, R454, R470). -/
  | freezeInBringUp (n : Nat)
  /-- FREEZE_N is asserted during a change to a power state, once the dies below `n` have made it; on the way out of state 4, once `n` steps of
  the bring-up have run (R465, R470). -/
  | freezeInPower (st n : Nat)
  /-- An instruction of the test access port that reads no instrument (R471). -/
  | tap (k : TapInstr)
  /-- A request of a peer is accepted in its pair's order, to be performed later (R428, R430). -/
  | peerAccept (port : Nat) (pkt : Packet)
  /-- A target performs an accepted request, by the source's peer code and the request's number (R428). -/
  | peerPerform (die src : Nat) (seq : Word)
  deriving DecidableEq, Repr, Inhabited

end Sys2Proof
end

