-- ==== Sys2Proof/Config.lean ====
section
/-! DEFINITION. What the spec leaves open: free values, as constants with no body. Nothing in Lean can
evaluate one, so a statement that mentions one holds for every value of it. Each is named in the
assumption log. -/

namespace Sys2Proof

/-- Which agent moves when nothing is scheduled (R147, R149, R226: no order is given among agents). (DESIGN CHOICE, log 2) -/
opaque Config.freeMove : Nat → Move

/-- How many cycles of a die's arithmetic clock pass at a step, by step and die (R108, R116: timing is not given, and the counters of two
dies are not aligned). (DESIGN CHOICE, log 3) -/
opaque Config.freeCycles : Nat → Nat → Nat

/-- A choice that the spec leaves open (whether a cached copy is used, which of several comes first), by the step and by
what it is about; the machine asks only whether it is 0, or for its remainder where one of several comes first.
(DESIGN CHOICE, log 4) -/
opaque Config.freeChoice : Nat → Nat → Nat

/-- A value the spec says some instruction leaves open, by the step count. (DESIGN CHOICE, log 5) -/
opaque Config.freeDword : Nat → Dword

/-- The firmware image that the package flash holds when the part leaves manufacturing (R455). -/
opaque Config.factoryImage : List Byte

/-- The fused key hash of R455. (DESIGN CHOICE, log 10) -/
opaque Config.keyHash : List Byte

/-- The fused secret UDS of R463. (DESIGN CHOICE, log 10) -/
opaque Config.uds : List Byte

/-- The Alias key pair derived from CDI (R463): modulus and private exponent. (DESIGN CHOICE, log 10) -/
opaque Config.aliasKey : List Byte → Nat × Nat

/-- The DER bytes of the DeviceID certificate (R463). (DESIGN CHOICE, log 10) -/
opaque Config.deviceCert : List Byte

/-- The DER bytes of the Alias certificate for a measurement and a security version (R463). -/
opaque Config.aliasCert : List Byte → Nat → List Byte

/-- What a byte of host memory holds before anything is written to it, by port and address. (DESIGN CHOICE, log 6) -/
opaque Config.hostByte : Nat → Nat → Byte

/-- What a training or self-test of bring-up found (R454), by step and unit: for unit d below 8 the channels of die d that train; for
8 + d, 0 if die d fails its test; for 16 + p the width of Petixa port p; for 32 + b, 0 if bridge b does not train; for 40 + p, 0 if the link of host port p does not train; for 48, 0 if the
measurement fails, and for 49 the code that it leaves.
(DESIGN CHOICE, log 7) -/
opaque Config.training : Nat → Nat → Dword

/-- The telemetry fields POWER and TEMP (R469), for which the spec gives no rule. (DESIGN CHOICE, log 8) -/
opaque Config.freeTelemetry : Nat → Dword

/-- How many of the cycles that pass at a step are issuing cycles, by step and die (R469: timing is not given); no more than pass count.
(DESIGN CHOICE, log 8) -/
opaque Config.freeIssuing : Nat → Nat → Nat

/-- A byte read where the spec gives no contents: the device region, what lies at or above CAP, and a read of BAR0 across two dwords
(R362, R457, R471). (DESIGN CHOICE, log 110; DESIGN CHOICE, log 132) -/
opaque Config.freeByte : Nat → Nat → Byte

/-- The IDCODE of the test access port (R471). (DESIGN CHOICE, log 110) -/
opaque Config.idcode : Word

/-- How many bytes of the round log the state of one line takes (R353), which the spec does not give. (DESIGN CHOICE, log 9) -/
opaque Config.roundRecord : Nat

end Sys2Proof
end

