-- ==== Sys2Proof/Machine/State.lean ====
section
/-! DEFINITION. The state of one N8 package: everything the spec gives the machine, as plain data. -/

namespace Sys2Proof.Machine

/-! ### Memory -/

/-- Bytes by address: addresses strictly rising, no entry equal to zero, which is what an unlisted
address reads as. Zero is what R454 step 4 writes below CAP and R173 into a window. -/
abbrev Memory := List Host.Cell

/-- The canonical form: addresses strictly rising and no byte listed that is zero. -/
def Memory.wf (m : Memory) : Bool := Tab.sorted m && m.all (fun c => c.2 != 0)

/-! ### The slice (R85) -/

/-- The tag of a register or latch (R86), without E, which is `RegVal.empty` or an absent latch. -/
inductive Tag where
  | u | a | g
  deriving DecidableEq, Repr, Inhabited

/-- What a v register holds (R86): nothing; a tag and the value of each lane (R90); or a pending fill with the
shape it will take and the values its lanes hold meanwhile. -/
inductive RegVal where
  | empty
  | held (tag : Tag) (v : Quad Word)
  | pend (target : Tag) (v : Quad Word)
  deriving DecidableEq, Repr, Inhabited

/-- A filled bypass latch (R39, R100): 64 bits a lane and a tag. -/
structure Latch where
  tag : Tag
  v : Quad Dword
  deriving DecidableEq, Repr, Inhabited

/-- An entry of the mask stack (R143). -/
structure MaskEntry where
  outer : BitVec 4
  alt : BitVec 4
  deriving DecidableEq, Repr, Inhabited

/-- The state of a slice (R152). Parked and Saved hold whether the resume state is Waiting. -/
inductive RunState where
  | running
  | waiting
  | parked (waiting : Bool)
  | saved (waiting : Bool)
  | ended
  deriving DecidableEq, Repr, Inhabited

/-- The ordering scopes (R215, R236). -/
inductive Scope where
  | core | die | pkg | pod | sys
  deriving DecidableEq, Repr, Inhabited

/-- A vector clock: one 32-bit counter for each die (R222). -/
abbrev Clock := List Word

/-- A release that waits (R218): its scope, the close of the core's phase it waits for, the requests it
covers (those numbered below `upTo`) and the flushing reads it has sent. -/
structure RelWait where
  scope : Scope
  close : Option Nat
  upTo : Nat
  flushed : Bool
  flushes : List Nat
  deriving DecidableEq, Repr, Inhabited

/-- What an instruction that has begun and not completed has already done (R152). `fresh` is the start;
`pending` is a fill that the instruction waits for, or a mask; `satisfied` that its wait has come to its end; `synced` that it has
arrived at GSYNC on a handle (R275). A save sets a slice back to `fresh`, but for the arrival of GJOIN and the update of SETPK. `parked` waits on layers: each with
the trap.addr and trap.lanes that its cancellation gives (R391, R402); `lines` waits on scratchpad lines, likewise (R189,
R190); `barrier` is a BWAIT that waits on the object at an offset for a phase other than a parity, with what it has found (R244, R245): that the
phase has completed, or the cause of the object; `claiming` waits for a slot outside every reservation (R278); `round` waits at a round point of an ordered kernel (R260). -/
inductive Prog where
  | fresh
  | releasing (r : RelWait)
  | released (ok : Bool)
  | pending (acc : Nat)
  | satisfied (v : Dword)
  | acquiring (sample : Clock) (v : Dword)
  | synced (handle : Nat)
  | parked (on : List (Nat × Dword × BitVec 4))
  | lines (on : List (Nat × Dword × BitVec 4))
  | claiming
  | round
  | barrier (o q : Nat) (found : Option (Option Half))
  deriving DecidableEq, Repr, Inhabited

/-- A fill fault that waits for the slice's next instruction boundary (R194). -/
structure FillFault where
  reg : Nat
  cause : Half
  addr : Dword
  lanes : BitVec 4
  deriving DecidableEq, Repr, Inhabited

/-- The frame of the most recent trap and what the entry saved (R393, R394). -/
structure Frame where
  inTrap : Bool
  taken : Bool
  cause : Half
  addr : Dword
  pc : Dword
  next : Dword
  lanes : BitVec 4
  mode : Word
  mask : BitVec 4
  mstack : List MaskEntry
  latches : List (Option Latch)
  deriving DecidableEq, Repr, Inhabited

/-- One slice (R85, R143, R147, R393). `mstack` holds the newest entry first. `pend` says that the slice has
begun its part's instruction and not completed it. `crossHome` is the address of the cross-lane instruction whose
issue set the slice still belongs to while it runs in its trap entry (R136).
`relFail` says that a remote write failed since the last completed pod release (R218). `stamps` holds, by the number
of a byte of device memory, the stamp of the last value the slice read from it or wrote to it (R214). `issueNo` is the number
of its part's issue, under which the gang's counters count it (R195) and by which its port knows which part issued least recently (R149);
`clearing` says that the instruction it last began is latch-clearing (R40, R41), `cleared` that the one before it was, and `opc` gives its
opcode; `latchSources` holds the latches that a waiting latch-clearing instruction has read and emptied, [] where there are none. -/
structure Slice where
  pc : Dword
  mode : Word
  sticky : Bool
  preds : List (BitVec 4)
  mask : BitVec 4
  mstack : List MaskEntry
  part : Nat
  regs : Tab RegVal
  latches : List (Option Latch)
  ctr : Quad Dword
  retired : Dword
  frame : Frame
  run : RunState
  prog : Prog
  pend : Bool
  faults : List FillFault
  spilled : List Nat
  crossHome : Option Dword
  relFail : Bool
  stamps : Tab Clock
  issueNo : Nat
  clearing : Bool
  cleared : Bool
  latchSources : List (Option Latch)
  opc : Option Nat
  waitRounds : Nat
  deriving DecidableEq, Repr, Inhabited

/-! ### The block (R153) -/

/-- Presence of one window line (R187). -/
inductive PresState where
  | present | absent | abandoned
  deriving DecidableEq, Repr, Inhabited

/-- The presence record of one 128-byte line (R187). -/
structure Presence where
  state : PresState
  n : Nat
  since : BitVec 56
  deriving DecidableEq, Repr, Inhabited

/-- What a slot's format record says (R276). -/
inductive SlotFormat where
  | plain
  | mx (ty : Nat)
  | spVal (ty n g : Nat)
  | spMeta (ty n g : Nat)
  deriving DecidableEq, Repr, Inhabited

/-- A physical slot that the block holds (R276, R279). `name` is none once released; `f` counts the fills
outstanding and `k` the stream entries that have not finished reading it; `faulted` remembers R281's fault. -/
structure PSlot where
  name : Option Nat
  f : Nat
  k : Nat
  ready : Bool
  faulted : Bool
  format : SlotFormat
  rows : Memory
  scales : Memory
  deriving DecidableEq, Repr, Inhabited

/-- Where a part of an element is: own-package memory, host memory, a data line of the core cache that answers it, or the block's window,
read when the fill lands. -/
inductive Place where
  | own (d pa : Nat) (leaf : Dword)
  | host (p pa : Nat) (leaf : Dword)
  | hit (d pa : Nat) (bytes : List Byte)
  | win (off : Nat)
  deriving DecidableEq, Repr, Inhabited

/-- A part of an element with its place: the element's number, the part's number in it, its offset, address and size. -/
structure Placed where
  e : Nat
  part : Nat
  off : Nat
  va : Nat
  size : Nat
  place : Place
  deriving DecidableEq, Repr, Inhabited

/-- A fill of slot rows in flight (R280, R292, R293): the slots it fills, the format it sets (type 0 for a plain one), and
where the values and the metadata come from, row by row. -/
structure SlotFill where
  sid : Nat
  slot : Nat
  mslot : Option Nat
  row0 : Nat
  rows : Nat
  ty : Nat
  blocks : Nat
  n : Nat
  g : Nat
  src : List Placed
  msrc : List Placed
  addr : Nat
  maddr : Nat
  keys : Dword
  lanes : BitVec 4
  issue : Nat
  deriving DecidableEq, Repr, Inhabited

/-- A stream entry (R284, R308): its instruction with the effective type, rounding and saturation of its issue, its operands, the physical slots it reads (those of A, then those of B), its batch once closed, the
target block of a DRNA, the sequence number and rank of DRNA.o with the epoch of its group and the members of lower rank (R303), and the counter
value that an rsr drain reserved. The requests of its slice numbered below `after` come before it (R286); `src` are the places that its verdicts
gave, or what an ordered block's entry reads, as it stood at the issue (R351). `sent` says that a DRNA's addition is on its way. `parked` are the layers
and pages that an entry waits for which a restore has brought back, and `failed` the fault that the cancellation of one gives it (R389). -/
structure SEntry where
  opc : Nat
  f : Fields
  ty : Nat
  rnd : Nat
  sat : Bool
  tile : Word
  opa : Dword
  opb : Word
  slots : List Nat
  batch : Option Word
  seq : Nat
  rank : Nat
  epoch : Nat
  ahead : List Nat
  dst : Nat
  ctr : Dword
  sid : Nat
  lanes : BitVec 4
  keys : Dword
  src : List Placed
  after : Nat
  begun : Bool
  readEnded : Bool
  sent : Option Nat
  parked : List (Nat × Nat)
  failed : Option (Half × Nat)
  deriving DecidableEq, Repr, Inhabited

/-- A DRNA addition on its way (R302, R303): the sending and the target block, the group's handle, the epoch and
the sequence number, whether it is ordered and of integers, and the destination tile with its words in row-major order.
(DEDUCED, log 48) -/
structure Addition where
  src : Nat
  dst : Nat
  handle : Nat
  epoch : Nat
  seq : Nat
  ordered : Bool
  ints : Bool
  m : Nat
  n : Nat
  dtile : Word
  words : List Word
  deriving DecidableEq, Repr, Inhabited

/-- A group slot (R155, R158): a slice group's members are slice ids, a block group's are block numbers. `waiting`
holds the slices that wait in GJOIN, for a block group as block number × 256 + slice id; `epoch` counts the GSYNCs on the group that have
completed, which number the entries of DRNA.o afresh (R303). -/
structure Group where
  key : Word
  gen : Half
  state : Nat
  count : Nat
  current : List Nat
  published : List Nat
  waiting : List Nat
  ctx : Nat
  node : Nat
  epoch : Nat
  deriving DecidableEq, Repr, Inhabited

/-- Where a block stands (R153). -/
inductive BlockState where
  | resident | saved | retired
  deriving DecidableEq, Repr, Inhabited

/-- A reduction or ticket advance that an ordered block buffers until its round's commit (R260, R350). -/
structure BufOp where
  sid : Nat
  order : Nat
  die : Nat
  pa : Nat
  size : Nat
  op : Nat
  ty : Nat
  v : Dword
  va : Nat
  alloc : Bool
  deriving DecidableEq, Repr, Inhabited

/-- One byte an ordered block has written in its round (R349): its home address, the byte, the slice; the request number at which it was written
(R372), and whether the page's policy lets the bay hold it (R364). -/
structure BufByte where
  die : Nat
  pa : Nat
  byte : Byte
  sid : Nat
  va : Nat
  seq : Nat
  alloc : Bool
  deriving DecidableEq, Repr, Inhabited

/-- When a buffered write of an engine or a drain becomes a write of its ordered block (R351): when the block observes a token, or a
batch, which may still be open. -/
inductive LateTag where
  | token (t : Dword)
  | batch (n : Option Word)
  deriving DecidableEq, Repr, Inhabited

/-- A write of an engine entry or a drain of an ordered block that the block has not observed (R351). -/
structure Late where
  tag : LateTag
  sid : Nat
  die : Nat
  pa : Nat
  va : Nat
  data : List Byte
  seq : Nat
  alloc : Bool
  deriving DecidableEq, Repr, Inhabited

/-- A block (R153, R346). `drnaSeq` counts the DRNA.o issues by group handle and target rank, and `drnaApplied` lists those applied here by
handle, epoch, sequence number and sender (R303). `results` are the old values and oks that the round-point RMWs of a slice returned at the commit,
for the block's shadow (R354). -/
structure Block where
  ctx : Nat
  die : Nat
  core : Nat
  node : Nat
  kernel : Nat
  idx : Word
  nblocks : Word
  width : Nat
  nslices : Nat
  scratch : Nat
  acc : Nat
  slotLimit : Nat
  partw : Word
  entry : Dword
  trapEntry : Option Dword
  seed : Dword
  floor : Nat
  age : Nat
  state : BlockState
  error : Option Half
  slices : Tab Slice
  winBase : Nat
  accBase : Nat
  window : Memory
  winPoison : List Nat
  pres : Tab Presence
  accWords : Tab Word
  slots : Tab PSlot
  slotFills : Tab SlotFill
  stream : List SEntry
  nb : Word
  groups : Tab Group
  gtaken : List (Nat × Nat × Half)
  drnaSeq : List (Nat × Nat × Nat)
  drnaApplied : List (Nat × Nat × Nat × Nat)
  saveVa : Dword
  dormant : Bool
  spillSaved : Bool
  roundBytes : List BufByte
  roundOps : List BufOp
  late : List Late
  touched : List Nat
  results : List (Nat × Nat × Bool)
  shadowOf : Option Nat
  shadow : Option Nat
  digest : Dword
  causes : List Half
  stopped : Bool
  deriving DecidableEq, Repr, Inhabited

/-! ### Requests, fills and counters -/

/-- An element of a fill that has not landed (R193): the lane, the register of the run, what is known of
its value, and its fault. -/
structure FillElem where
  lane : Nat
  reg : Nat
  wide : Bool
  ty : Nat
  parts : List (Nat × Nat × Option Dword)
  addr : Dword
  shift : Nat
  fault : Option (Half × Dword)
  landed : Bool
  deriving DecidableEq, Repr, Inhabited

/-- An outstanding fill of registers (R91, R193). `whole` says that one value goes to all four lanes
(LDU). `words` are its Draining words: those of registers released while it was outstanding; a draining fill
belongs to no register any more (R93). `stamp` joins the stamps of values that an instruction waits for, which the die's seen clock
covers once it completes (R238, R240). `orphan` is the core whose pool it still takes words of after a save of its block (R99). -/
structure Fill where
  bid : Nat
  sid : Nat
  regs : List Nat
  target : Tag
  whole : Bool
  elems : List FillElem
  issue : Nat
  draining : Bool
  words : Nat
  orphan : Option (Nat × Nat)
  stamp : Clock
  born : Dword
  deriving DecidableEq, Repr, Inhabited

/-- One issue of a load or a store by a part that its gang's counter still holds (R195), with the bytes that a store has written so far
in poisoned sectors (R185). -/
structure Issue where
  bid : Nat
  gang : Nat
  load : Bool
  left : Nat
  cover : List Nat
  deriving DecidableEq, Repr, Inhabited

/-- What a request does where it is performed. A `watch` reads an element and, where the condition fails, arms a
monitor on it in the same step (R248). -/
inductive ReqOp where
  | read
  | write (data : List Byte)
  | rmw (op ty : Nat) (v c : Dword) (returns : Bool)
  | watch (cond ty : Nat) (v : Dword)
  deriving DecidableEq, Repr, Inhabited

/-- Where a request stands (R182, R224): on the way to its die's bay, or held at its home's ring port. -/
inductive ReqStage where
  | toBay | held
  deriving DecidableEq, Repr, Inhabited

/-- A request of a core that is not yet performed (R212, R220, R224, R359). `host` is the port of a host-space request,
whose `home` is the die that carries the port. `remote` marks RLD, RST and RATM to the own package, whose verdict the home
takes (R201). `fill` says where a value read goes: the fill, its element and the part of it; `issue` is the counter
that a store holds. `atHome` keeps the request off guest lines (R238); `alloc` says that a core cache line may be
filled (R179). -/
structure Req where
  stage : ReqStage
  op : ReqOp
  die : Nat
  core : Nat
  bid : Nat
  sid : Nat
  ctx : Nat
  va : Nat
  host : Option Nat
  home : Nat
  pa : Nat
  size : Nat
  keys : Dword
  leaf : Dword
  phase : Option Nat
  stamp : Clock
  fill : Option (Nat × Nat × Nat)
  issue : Option Nat
  atHome : Bool
  alloc : Bool
  remote : Bool
  deriving DecidableEq, Repr, Inhabited

/-- A sequenced message of the causal delivery (R223, R225): a guest update or a bare notice. `op` numbers the instruction or entry whose write it
is, 0 where the write is whole in itself; `clean` are the sectors whose poison the home has cleared with it (R185). -/
structure SeqMsg where
  src : Nat
  dst : Nat
  stamp : Clock
  pa : Nat
  data : List Byte
  core : Nat
  fromDie : Nat
  req : Nat
  op : Nat
  clean : List Nat
  deriving DecidableEq, Repr, Inhabited

/-! ### The core -/

/-- A line of the core cache (R179, R180): a data copy, or update-only partials with their operation
and type. -/
inductive CLineKind where
  | data (bytes : List Byte)
  | uo (op ty : Nat) (parts : Tab Dword)
  deriving DecidableEq, Repr, Inhabited

/-- A line of the core cache with what the verdict that filled it said (R367). `wr` gives the slice, as block number × 256 +
slice id, that last stored to a byte of it. -/
structure CLine where
  va : Nat
  ctx : Nat
  leaf : Dword
  home : Nat
  pa : Nat
  kind : CLineKind
  stamp : Clock
  wr : Tab Nat
  used : Nat
  deriving DecidableEq, Repr, Inhabited

/-- A wait for pool words (R96) or for room for a floor (R111). -/
structure PoolWait where
  bid : Nat
  sid : Nat
  words : Nat
  grow : Bool
  since : Dword
  deriving DecidableEq, Repr, Inhabited

/-- An entry of an issue port's register cache (R101): a register of a slice and its pool words. -/
structure RCEntry where
  bid : Nat
  part : Nat
  sid : Nat
  reg : Nat
  words : List Word
  deriving DecidableEq, Repr, Inhabited

/-- An issue port (R20, R101): its active set, as block number and part, and its register cache. -/
structure IssuePort where
  active : List (Nat × Nat)
  regCache : List RCEntry
  deriving DecidableEq, Repr, Inhabited

/-- An outstanding close of a core's phase (R220). -/
structure PhaseClose where
  phase : Nat
  serial : Nat
  deriving DecidableEq, Repr, Inhabited

/-- One core (R20): its partition word, phases, core cache, pool waiters and its four issue ports. `sent` counts the
writes of each phase sent to each bay, at phase × 64 + bay. `offStamp` is the join of the stamps that homes
returned for the core's off-die writes (R218). `portsWritten` holds the host ports that the core has written, each with the first number that
was free after its last write there (R218, R230). -/
structure Core where
  partw : Option Word
  openPhase : Nat
  closes : List PhaseClose
  serial : Nat
  sent : Tab Nat
  offStamp : Clock
  cache : List CLine
  waiters : List PoolWait
  ports : List IssuePort
  portsWritten : Tab Nat
  deriving DecidableEq, Repr, Inhabited

/-! ### The die -/

/-- What a home line's ORD mark says for a node (R352). -/
inductive OrdMark where
  | priv (block : Nat)
  | shared
  deriving DecidableEq, Repr, Inhabited

/-- A home line at its bay (R181): which sectors are valid and modified, which are asked for, its pins by
context, its ORD marks by node, its guest mask, the cores holding it update-only, and its stamp. -/
structure BayLine where
  dirty : Bool
  valid : BitVec 8
  modified : BitVec 8
  wanted : BitVec 8
  pins : Tab Nat
  ord : Tab OrdMark
  held : Bool
  guests : BitVec 8
  uo : List (Nat × Nat)
  stamp : Clock
  used : Nat
  deriving DecidableEq, Repr, Inhabited

/-- A sector of a guest line: its 128 bytes, its poison, the stamp of its most recently applied write (R223), and while it is poisoned the bytes
that have been written, with the number of what wrote them (R185). -/
structure GSector where
  bytes : List Byte
  poison : Bool
  stamp : Clock
  cover : List (Nat × Nat)
  deriving DecidableEq, Repr, Inhabited

/-- A guest line (R181, R361): another die's line held here, sector by sector. -/
structure Guest where
  ctx : Nat
  va : Nat
  home : Nat
  pa : Nat
  leaf : Dword
  secs : Tab GSector
  used : Nat
  deriving DecidableEq, Repr, Inhabited

/-- An armed monitor (R248, R250). -/
structure Monitor where
  bay : Nat
  ctx : Nat
  pa : Nat
  size : Nat
  ty : Nat
  cond : Nat
  value : Dword
  bid : Nat
  sid : Nat
  deriving DecidableEq, Repr, Inhabited

/-- A table entry or leaf cached at a bay (R366). -/
structure TEntry where
  bay : Nat
  ctx : Nat
  pa : Nat
  entry : Dword
  deriving DecidableEq, Repr, Inhabited

/-- The state of an engine entry or a token record (R314, R327). -/
inductive EState where
  | queued | running | ending (failed : Bool) | done | failed
  deriving DecidableEq, Repr, Inhabited

/-- A record of the token table (R311). `stamp` joins the stamps of what the completion releases (R232). -/
structure TokRec where
  gen : Word
  state : EState
  scope : Scope
  cause : Half
  bytes : Nat
  addr : Dword
  sat : Bool
  stamp : Clock
  deriving DecidableEq, Repr, Inhabited

/-- The state of a context (R378). -/
inductive CtxState where
  | free | starting | running | swappingOut | swapped | swappingIn | ending | ended
  deriving DecidableEq, Repr, Inhabited

/-- A context slot of a die (R378). -/
structure CtxSlot where
  start : Dword
  ctx : Option Nat
  state : CtxState
  cause : Half
  deriving DecidableEq, Repr, Inhabited

/-- The replay window a target keeps for one source die (R430), and the requests that it has accepted and not performed yet, oldest first, each
with the port it came through (R428). -/
structure Replay where
  expected : Word
  answers : Tab Packet
  held : List (Nat × Packet)
  deriving DecidableEq, Repr, Inhabited

/-- One die: configuration words (R25, R361, R458, R468, R469), clocks, bay lines and the engines' tables. -/
structure Die where
  lost : Bool
  sites : Dword
  spare : Nat
  chans : Dword
  ring : Nat
  brk : Nat
  pxa : Nat
  pxb : Nat
  bayMap : List Nat
  mapFixed : Bool
  lpool : Word
  islands : List Nat
  power : Dword
  issuing : Nat
  cecc : Nat
  uecc : Nat
  cycle : Dword
  vc : Clock
  seen : Clock
  lines : Tab BayLine
  guests : List Guest
  arrived : Tab Nat
  monitors : Tab Monitor
  tcache : List TEntry
  groups : Tab Group
  tokens : Tab TokRec
  freeTokens : List Nat
  unused : Nat
  launchQ : List Nat
  layerQ : List (Nat × Nat)
  arriving : List (Nat × Nat)
  waitingSet : List (Nat × Nat)
  ctxSlots : Tab CtxSlot
  shadow : Option Nat
  shadowMem : Tab (List Byte)
  poolFrames : List Nat
  cores : Tab Core
  replay : Tab Replay
  deriving DecidableEq, Repr, Inhabited

/-! ### Engines -/

/-- A side of a copy: a global address, or an offset in the issuing block's window. -/
inductive Side where
  | glob (va : Nat)
  | win (off : Nat)
  deriving DecidableEq, Repr, Inhabited

/-- A tensor record as read (R196). -/
structure TensorRec where
  base : Nat
  ty : Nat
  rank : Nat
  space : Bool
  pw : Nat
  psh : Nat
  fill : Half
  dims : List Nat
  boxes : List Nat
  strides : List Nat
  deriving DecidableEq, Repr, Inhabited

/-- A gather record as read (R324). -/
structure GatherRec where
  table : Nat
  index : Nat
  dense : Nat
  count : Nat
  rowb : Nat
  tlen : Nat
  offset : Nat
  window : Bool
  deriving DecidableEq, Repr, Inhabited

/-- A collective record as read (R407), with its rank table (R408) and the issuing instruction. -/
structure CollRec where
  op : Nat
  ty : Nat
  rcv : Bool
  src : Nat
  dst : Nat
  chunk : Nat
  boff : Word
  deadline : Nat
  key : Word
  kaddr : Nat
  sw : Bool
  dw : Bool
  slots : List Word
  mySlot : Nat
  deriving DecidableEq, Repr, Inhabited

/-- What an entry of a collective tells a member in another package (R411 to R413, R416): its announcement, a bale of its contribution with the
exponents, that it has taken a bale and with which saturation flag, or that it withdraws. -/
inductive CollWhat where
  | announce (a : Announce)
  | bale (index : Nat) (data expo : List Byte)
  | took (index : Nat) (sat : Bool)
  | withdraw
  deriving DecidableEq, Repr, Inhabited

/-- A message of a collective to another package; the spec does not give its form on the links. (DESIGN CHOICE, log 129) -/
structure CollMsg where
  ctx : Nat
  die : Nat
  key : Word
  slot : Nat
  peer : Nat
  what : CollWhat
  deriving DecidableEq, Repr, Inhabited

/-- How far a collective entry is (R410, R411): members that withdrew or died, slots that are missing, bales
written, slots heard of; `sent` the bales sent to members in other packages and `taken` those that they have taken; `clock` what RBAR's
announcement releases (R422). -/
structure CollProg where
  sent : List (Nat × Nat)
  taken : List (Nat × Nat)
  clock : Clock
  withdrawn : List Nat
  missing : List Nat
  bales : List Nat
  heard : List Nat
  started : Dword
  counted : Nat
  deriving DecidableEq, Repr, Inhabited

/-- The work of an engine entry (R309); `args` delivers a block's argument bytes (R344). -/
inductive EntryKind where
  | copy (src dst : Side) (len : Nat)
  | args (bytes : List Byte)
  | box (rec : TensorRec) (recv : List Nat) (origin : List Int) (doff boff : Nat)
  | gather (rec : GatherRec)
  | scatter (rec : GatherRec)
  | fence (queues : List (Nat × Nat))
  | ring (rec : CollRec) (prog : CollProg)
  deriving DecidableEq, Repr, Inhabited

/-- An engine entry (R309, R313, R314). `buf` holds what pod peers have answered for its piece, by address, and `faults` the causes they have answered; `onLayer` the layers and the pages it waits
for; `view` what an ordered block's entry reads where that differs from memory (R351); `ports` the host ports written and `flush` its
flushing reads once sent; `cover` the bytes written in poisoned sectors (R185). `owner` is the block whose copy queue, or the context whose ring
queue, it stands in. `lines` are the scratchpad lines it still owes bytes: block, line, bytes landed. `sent` says that its piece's writes to pod
peers are out, and `todo` holds what the piece then writes in the own package, translated before request `todoAt` (R372). -/
structure Entry where
  token : Dword
  ctx : Nat
  die : Nat
  queue : Nat
  owner : Nat
  node : Nat
  attached : Bool
  bid : Option Nat
  sid : Nat
  scope : Scope
  keys : Dword
  state : EState
  kind : EntryKind
  piece : Nat
  bytes : Nat
  cause : Half
  addr : Dword
  sat : Bool
  lines : List (Nat × Nat)
  view : List BufByte
  buf : Tab (List Byte)
  onLayer : List (Nat × Nat)
  stamp : Clock
  ports : List Nat
  cover : List Nat
  faults : Tab Half
  flush : Option (List Nat)
  cancelledBy : Option (Nat × Nat)
  sent : Bool
  todo : List (Placed × List Byte)
  todoAt : Nat
  deriving DecidableEq, Repr, Inhabited

/-! ### Graph nodes (R336) -/

/-- A lease range (R340). -/
structure Lease where
  base : Nat
  pages : Nat
  layer : Nat
  streamed : Bool
  deriving DecidableEq, Repr, Inhabited

/-- The body of a node (R337, R424). -/
inductive NodeBody where
  | kernel (handle nblocks : Word) (args : List Byte) (seed : Dword)
  | copy (src dst : Nat) (len : Nat) (scope : Scope)
  | coll (rec : Nat) (op ty : Nat) (scope : Scope) (queue : Nat)
  | signal (addr : Nat) (value : Dword)
  deriving DecidableEq, Repr, Inhabited

/-- The state of a node (R339). -/
inductive NodeState where
  | waiting | leasing | running | completing | done | failed
  deriving DecidableEq, Repr, Inhabited

/-- A graph node (R336, R339). `blocksDone` are (block id, cause of its error if any); `attachedFail` the first failed attached entry in the order
of issue, with its number; `entries` are the attached entries that have completed, by die and number, `ports` the host ports that they wrote and
`stamp` the join of their stamps (R234); `unstarted` the dies of a collective node that have not read their record yet (R424),
`parked` the layers and pages that such a die waits for and `partFailed` those dies whose layer's arrival was cancelled, with the page (R389); `limitStart` is the time from
which the round limit counts (R262). -/
structure Node where
  token : Dword
  ctx : Nat
  die : Nat
  proceed : Bool
  free : Bool
  preds : List Dword
  predDone : List (Option Bool)
  leases : List Lease
  dies : Nat
  quantum : Nat
  body : NodeBody
  state : NodeState
  accepted : Bool
  leased : Bool
  cancelled : Bool
  cursor : Nat
  placed : Nat
  blocksDone : List (Nat × Option Half)
  unplacedRetired : Nat
  attachedFail : Option (Nat × Half)
  unstarted : List Nat
  parked : List (Nat × Nat × Nat)
  partFailed : Tab Nat
  cause : Half
  flush : Option (List Nat)
  entries : List (Nat × Nat)
  ports : List Nat
  stamp : Clock
  bytes : Nat
  ordered : Bool
  rounds : Nat
  roundStart : Dword
  limitStart : Dword
  roundBlocks : List Nat
  deriving DecidableEq, Repr, Inhabited

/-! ### Contexts (R378) -/

/-- A kernel record (R332) and what the image's header gave (R60). -/
structure Kernel where
  gen : Half
  state : Nat
  off : Nat
  len : Nat
  codeOff : Nat
  codeLen : Nat
  entry : Nat
  trapEntry : Option Nat
  gang : Nat
  slotLimit : Nat
  slices : Nat
  partw : Word
  acc : Nat
  floor : Nat
  scratch : Nat
  ordered : Bool
  deriving DecidableEq, Repr, Inhabited

/-- The state of a layer (R388). -/
inductive LayerState where
  | absent | queued | arriving | resident | evicting
  deriving DecidableEq, Repr, Inhabited

/-- A layer of a model context (R387, R388). `need` is when it was last needed, `requested` when it was last requested, and
`again` says that it was requested while evicting. -/
structure Layer where
  state : LayerState
  landed : Nat
  reason : Nat
  seq : Word
  need : Nat
  requested : Nat
  again : Bool
  tokens : List Dword
  deriving DecidableEq, Repr, Inhabited

/-- A context (R379). `rlogUsed` counts the bytes of the round log in use, at node × 8 + die (R353). `groups` holds the block-group slots saved with
it, by die and slot (R159). -/
structure Ctx where
  id : Nat
  state : CtxState
  model : Bool
  prio : Nat
  first : Nat
  size : Nat
  esc : Nat
  bkoff : Bool
  logh : Bool
  eprio : Nat
  k : Dword
  kWork : Tab Dword
  root : Nat
  parkLim : Nat
  roundLim : Nat
  pinQuota : Nat
  layerQuota : Nat
  nlayer : Nat
  layTab : Nat
  image : Nat
  imageSize : Nat
  rlog : Nat
  rlogSize : Nat
  lroot : List Nat
  hroot : List Nat
  save : List (Nat × Nat)
  recDie : Nat
  recPa : Nat
  logCount : Dword
  cause : Half
  imap : List (Nat × Nat × Nat)
  kernels : Tab Kernel
  layers : Tab Layer
  saveUsed : List (Nat × Nat × Nat)
  started : Nat
  monLimit : List Nat
  rlogUsed : Tab Nat
  groups : List (Nat × Nat × Group)
  deriving DecidableEq, Repr, Inhabited

/-! ### Links, host and service -/

/-- A request outstanding to a pod peer (R429): its number among the requests of the package, what it is and where its reply goes. -/
structure Outstanding where
  num : Nat
  pkt : Packet
  bid : Nat
  sid : Nat
  fill : Option (Nat × Nat × Nat)
  issue : Option Nat
  entry : Option Nat
  deriving DecidableEq, Repr, Inhabited

/-- The requester's side of a pair of source die and peer (R428, R429). -/
structure Pair where
  next : Word
  out : List Outstanding
  rounds : Nat
  syn : Bool
  deriving DecidableEq, Repr, Inhabited

/-- The link layer of a Petixa port (R426): next sequence to send and to accept, the replay buffer, the flits that wait for room in it, the
bytes received toward the next packet of each virtual channel, and what is sent. -/
structure LinkPort where
  txSeq : Nat
  rxSeq : Nat
  buffer : List (List Byte)
  waiting : List (List Byte)
  sent : List (List Byte)
  rx : Tab (List Byte)
  deriving DecidableEq, Repr, Inhabited

/-- A mailbox engine (R459, R460). -/
structure Mailbox where
  tag : Byte
  op : Byte
  code : Nat
  tagDone : Byte
  state : Nat
  arg0 : Dword
  arg1 : Dword
  data : Memory
  staged : Bool
  deriving DecidableEq, Repr, Inhabited

/-- A host port (R230, R435, R436): the flushing reads that have not returned, the bytes of host memory that the part or
the host has written, the host lines of 64 bytes that the die's bays hold under CXL.cache, BAR2's size as a power of two, and the join of the stamps of the
host's writes through the port. -/
structure HostPort where
  linkUp : Bool
  flushes : List Nat
  mem : Tab Byte
  cxl : List Nat
  bar2Bits : Nat
  stamp : Clock
  mailbox : Mailbox
  deriving DecidableEq, Repr, Inhabited

/-- The state of the rings (R405). -/
inductive RingState where
  | whole
  | wrapping (code brk : Nat)
  | wrapped
  | split
  deriving DecidableEq, Repr, Inhabited

/-- What manufacturing fixed for a part (R10, R25, R26, R455, R461). -/
structure Fuses where
  pkg : Nat
  sites : List Dword
  spare : List Nat
  chans : List Dword
  ring : Nat
  brk : Nat
  px : List Nat
  offer : BitVec 128
  rollback : Nat
  deriving DecidableEq, Repr, Inhabited

/-- Why the machine stops. (DESIGN CHOICE, log 12) -/
inductive Fault where
  /-- An instruction was executed with no slice chosen that could execute it. Raised by every instruction's
  frame; safe, since the hardware executes no instruction outside a slice. -/
  | noSlice
  deriving DecidableEq, Repr

/-- Why there is no meaning. -/
inductive Refusal where
  /-- The instruction has no meaning in this model yet. Raised by refused arms of exec only; safe. -/
  | notModelled (mnemonic : String)
  deriving DecidableEq, Repr

/-- One package (see the sections above). `mem` holds device memory at die × 2^44 + physical address and
`poison` the poisoned sectors at that number divided by 128. `schedule` says which agents move next; `tick`
numbers the free values; `cur` is the slice whose instruction executes. -/
structure State where
  tick : Nat
  schedule : List Move
  cur : Option (Nat × Nat)
  issueNo : Nat
  nextId : Nat
  fuses : Fuses
  mem : Memory
  poison : List Nat
  dies : Tab Die
  blocks : Tab Block
  fills : Tab Fill
  issues : Tab Issue
  reqs : Tab Req
  msgs : Tab SeqMsg
  entries : Tab Entry
  nodes : Tab Node
  ctxs : Tab Ctx
  additions : Tab Addition
  pairs : Tab Pair
  collOut : List CollMsg
  links : Tab LinkPort
  ports : Tab HostPort
  ring : RingState
  offer : BitVec 128
  accept : BitVec 128
  acceptLow : Dword
  accepted : Bool
  pmax : Nat
  tol : Word
  pstate : Nat
  pchanges : Word
  frozen : Bool
  flash : List Byte
  staging : Memory
  measurement : List Byte
  svn : Nat
  hostOut : List Byte
  hostEp : List Bool
  tapOut : List Byte
  linkOut : List (Nat × Packet)
  deriving DecidableEq, Repr

/-! ### Reset (R453, and the reset columns of the spec) -/

/-- Eight counters of zero. -/
def Clock.zero : Clock := [0, 0, 0, 0, 0, 0, 0, 0]

/-- The channels that work, counted (NCHAN of R25). -/
def chanCount (chans : Dword) : Nat := ((List.range 64).filter (fun i => chans.getLsbD i)).length

/-- CAP of R362 for a number of channels: usable bytes of a die's memory. -/
def capOf (nchan : Nat) : Nat := nchan * 2016 / 512 * (512 * 2 ^ 20)

/-- A full part (R21): what manufacturing fixed. (PRESUMED, log 13) -/
def Fuses.full : Fuses :=
  { pkg := 0, sites := List.replicate 8 (BitVec.allOnes 64), spare := List.replicate 8 0,
    chans := List.replicate 8 (BitVec.allOnes 64), ring := 0, brk := 0, px := List.replicate 16 2,
    offer := 0x7F, rollback := 0 }

/-- Die `d` right after reset. (DESIGN CHOICE, log 15) -/
def Die.reset (f : Fuses) (d : Nat) : Die :=
  { lost := false, sites := f.sites.getD d 0, spare := f.spare.getD d 0, chans := f.chans.getD d 0,
    ring := f.ring, brk := f.brk, pxa := f.px.getD (2 * d) 0, pxb := f.px.getD (2 * d + 1) 0,
    bayMap := List.range 64, mapFixed := false,
    lpool := BitVec.ofNat 32 (capOf (chanCount (f.chans.getD d 0)) / 4 / 65536),
    islands := [2, 2, 2, 2, 2], power := 0, issuing := 0, cecc := 0, uecc := 0, cycle := 0,
    vc := Clock.zero, seen := Clock.zero, lines := [], guests := [], arrived := [], monitors := [],
    tcache := [], groups := [], tokens := [], freeTokens := [], unused := 0, launchQ := [], layerQ := [],
    arriving := [], waitingSet := [], ctxSlots := [], shadow := none, shadowMem := [], poolFrames := [],
    cores := [], replay := [] }

/-- A mailbox right after reset (R459). (DESIGN CHOICE, log 15) -/
def Mailbox.reset : Mailbox :=
  { tag := 0, op := 0, code := 0, tagDone := 0, state := 0, arg0 := 0, arg1 := 0, data := [], staged := false }

/-- A host port right after reset. (DESIGN CHOICE, log 15) -/
def HostPort.reset : HostPort :=
  { linkUp := true, flushes := [], mem := [], cxl := [], bar2Bits := 34, stamp := Clock.zero, mailbox := Mailbox.reset }

/-- A Petixa port right after reset (R426). (DESIGN CHOICE, log 15) -/
def LinkPort.reset : LinkPort := { txSeq := 0, rxSeq := 0, buffer := [], waiting := [], sent := [], rx := [] }

/-- The state with everything a reset clears cleared, for a part with these fuses and this flash (R453).
(DESIGN CHOICE, log 14) -/
def State.resetWith (f : Fuses) (flash : List Byte) : State :=
  { tick := 0, schedule := [], cur := none, issueNo := 0, nextId := 0, fuses := f, mem := [], poison := [],
    dies := (List.range 8).map (fun d => (d, Die.reset f d)),
    blocks := [], fills := [], issues := [], reqs := [], msgs := [], entries := [], nodes := [], ctxs := [],
    additions := [], pairs := [], collOut := [],
    links := (List.range 16).map (fun p => (p, LinkPort.reset)),
    ports := [(0, HostPort.reset), (1, HostPort.reset)],
    ring := if f.ring = 0 then .whole else .wrapped,
    offer := 0, accept := 0, acceptLow := 0, accepted := false, pmax := 4, tol := 0, pstate := 0,
    pchanges := 0, frozen := false, flash := flash, staging := [], measurement := [], svn := 0,
    hostOut := [], hostEp := [], tapOut := [], linkOut := [] }

/-- The package right after reset. (PRESUMED, log 13; DESIGN CHOICE, log 14) -/
def State.reset : State := State.resetWith Fuses.full Config.factoryImage

end Sys2Proof.Machine
end

