-- ==== Sys2Proof/Machine/Base.lean ====
section
/-! DEFINITION. The named reads and writes of the parts of the state, bytes and words of memory, clocks, and the
translation of addresses (R172, R359 to R369). -/

namespace Sys2Proof.Machine

/-! ### Parts of the state -/

/-- Die `d`; a number that names no die reads as one just reset. -/
def State.die (s : State) (d : Nat) : Die := (s.dies.get? d).getD (Die.reset s.fuses d)

/-- Die `d` changed. -/
def State.modDie (s : State) (d : Nat) (f : Die → Die) : State :=
  { s with dies := s.dies.put d (f (s.die d)) }

/-- A core with nothing on it. -/
def Core.idle : Core :=
  { partw := none, openPhase := 0, closes := [], serial := 0, sent := [], offStamp := Clock.zero, cache := [], waiters := [],
    ports := List.replicate 4 ⟨[], []⟩, portsWritten := [] }

/-- The entries of a block taken out of the active sets and the register caches of a core's ports (R101). -/
def Core.leavePorts (c : Core) (bid : Nat) : Core :=
  { c with ports := c.ports.map (fun p =>
      { active := p.active.filter (fun a => a.1 != bid), regCache := p.regCache.filter (fun e => e.bid != bid) }) }

/-- The register-cache entries of a block written back, which changes no value (R101). -/
def Core.writeBackRegs (c : Core) (bid : Nat) : Core :=
  { c with ports := c.ports.map (fun p => { p with regCache := p.regCache.filter (fun e => e.bid != bid) }) }

/-- Core `c` of die `d`. -/
def State.core (s : State) (d c : Nat) : Core := ((s.die d).cores.get? c).getD Core.idle

/-- Core `c` of die `d` changed. -/
def State.modCore (s : State) (d c : Nat) (f : Core → Core) : State :=
  s.modDie d (fun x => { x with cores := x.cores.put c (f (s.core d c)) })

/-- Block `bid` changed, if there is one. -/
def State.modBlock (s : State) (bid : Nat) (f : Block → Block) : State :=
  match s.blocks.get? bid with
  | some b => { s with blocks := s.blocks.put bid (f b) }
  | none => s

/-- Slice `sid` of block `bid`. -/
def State.slice? (s : State) (bid sid : Nat) : Option Slice :=
  (s.blocks.get? bid).bind (fun b => b.slices.get? sid)

/-- Slice `sid` of a block changed, if there is one. -/
def Block.modSlice (b : Block) (sid : Nat) (f : Slice → Slice) : Block :=
  match b.slices.get? sid with
  | some x => { b with slices := b.slices.put sid (f x) }
  | none => b

/-- Slice `sid` of block `bid` changed, if there is one. -/
def State.modSlice (s : State) (bid sid : Nat) (f : Slice → Slice) : State :=
  s.modBlock bid (fun b => b.modSlice sid f)

/-- The monitors of a block freed, at whatever bay they are armed (R250). -/
def State.freeMonitors (s : State) (bid : Nat) : State :=
  { s with dies := s.dies.map (fun d => (d.1, { d.2 with monitors := d.2.monitors.filter (fun m => m.2.bid != bid) })) }

/-- Context `c` changed, if there is one. -/
def State.modCtx (s : State) (c : Nat) (f : Ctx → Ctx) : State :=
  match s.ctxs.get? c with
  | some x => { s with ctxs := s.ctxs.put c (f x) }
  | none => s

/-- Node `n` changed, if there is one. -/
def State.modNode (s : State) (n : Nat) (f : Node → Node) : State :=
  match s.nodes.get? n with
  | some x => { s with nodes := s.nodes.put n (f x) }
  | none => s

/-- Engine entry `e` changed, if there is one. -/
def State.modEntry (s : State) (e : Nat) (f : Entry → Entry) : State :=
  match s.entries.get? e with
  | some x => { s with entries := s.entries.put e (f x) }
  | none => s

/-- Host port `p`. -/
def State.port (s : State) (p : Nat) : HostPort := (s.ports.get? p).getD HostPort.reset

/-- Host port `p` changed. -/
def State.modPort (s : State) (p : Nat) (f : HostPort → HostPort) : State :=
  { s with ports := s.ports.put p (f (s.port p)) }

/-- A fresh number for a request, a fill, an entry or the like, and the state that has used it. -/
def State.fresh (s : State) : Nat × State := (s.nextId, { s with nextId := s.nextId + 1 })

/-- The cores of a die that are enabled (R12), counted. -/
def Die.ncore (x : Die) : Nat := ((List.range 64).filter (fun i => x.sites.getLsbD i)).length

/-- CAP of a die (R362). -/
def Die.cap (x : Die) : Nat := capOf (chanCount x.chans)

/-- Feature `i` of R462 is accepted. -/
def State.feature (s : State) (i : Nat) : Bool := s.accepted && s.accept.getLsbD i

/-! ### Bytes -/

/-- The byte at an address. (DEDUCED, log 16) -/
def Memory.read (m : Memory) (a : Nat) : Byte := (Tab.get? m a).getD 0

/-- A byte written: zero is kept by listing nothing. -/
def Memory.write (m : Memory) (a : Nat) (x : Byte) : Memory :=
  if x = 0 then Tab.erase m a else Tab.put m a x

/-- `n` bytes from an address upward. -/
def Memory.readList (m : Memory) (a : Nat) : Nat → List Byte
  | 0 => []
  | n + 1 => m.read a :: Memory.readList m (a + 1) n

/-- Bytes written from an address upward. -/
def Memory.writeList (m : Memory) (a : Nat) : List Byte → Memory
  | [] => m
  | x :: xs => Memory.writeList (m.write a x) (a + 1) xs

/-- Bytes of a list replaced from an offset. -/
def patchBytes (bytes : List Byte) (off : Nat) (data : List Byte) : List Byte :=
  bytes.zipIdx.map (fun p => if off ≤ p.2 && p.2 < off + data.length then data.getD (p.2 - off) 0 else p.1)

/-- The unsigned value of little-endian bytes (R1). -/
def leNat : List Byte → Nat
  | [] => 0
  | x :: xs => x.toNat + 256 * leNat xs

/-- `n` little-endian bytes of a number (R1). -/
def leBytes : Nat → Nat → List Byte
  | 0, _ => []
  | n + 1, x => BitVec.ofNat 8 x :: leBytes n (x / 256)

/-- The unsigned value of `n` bytes of memory. -/
def Memory.readNat (m : Memory) (a n : Nat) : Nat := leNat (m.readList a n)

/-- Bits [hi:lo] of a number. -/
def bitsOf (x hi lo : Nat) : Nat := x / 2 ^ lo % 2 ^ (hi + 1 - lo)

/-- Bit `i` of a number. -/
def bitOf (x i : Nat) : Bool := x / 2 ^ i % 2 == 1

/-! ### Device memory -/

/-- The number under which a byte of a die's memory is held. -/
def physKey (die pa : Nat) : Nat := die * 2 ^ 44 + pa

/-- `n` bytes of a die's memory. -/
def State.physRead (s : State) (die pa n : Nat) : List Byte := s.mem.readList (physKey die pa) n

/-- Bytes written into a die's memory. -/
def State.physWrite (s : State) (die pa : Nat) (data : List Byte) : State :=
  { s with mem := s.mem.writeList (physKey die pa) data }

/-- The sector that holds a byte is poisoned (R184). -/
def State.poisoned (s : State) (die pa : Nat) : Bool := s.poison.contains (physKey die pa / 128)

/-- The sectors that a run of bytes touches, as sector numbers. -/
def sectorsOf (key n : Nat) : List Nat :=
  if n = 0 then []
  else (List.range ((key + n - 1) / 128 - key / 128 + 1)).map (fun i => key / 128 + i)

/-- The lowest poisoned byte among `n` bytes, as an offset from the first. -/
def State.firstPoison (s : State) (die pa n : Nat) : Option Nat :=
  let k := physKey die pa
  ((sectorsOf k n).find? (fun x => s.poison.contains x)).map (fun x => x * 128 - k)

/-- A write that covers all 128 bytes of a poisoned sector clears its poison (R185). -/
def State.clearPoison (s : State) (die pa n : Nat) : State :=
  let k := physKey die pa
  { s with poison := s.poison.filter (fun x => !(k ≤ x * 128 && x * 128 + 128 ≤ k + n)) }

/-! ### Clocks (R222) -/

/-- a ≥ b for two counters modulo 2^32 (R222). -/
def counterGe (a b : Word) : Bool := (a - b).toNat < 2 ^ 31

/-- One clock covers another (R222). -/
def Clock.covers (a b : Clock) : Bool :=
  (List.range 8).all (fun i => counterGe (a.getD i 0) (b.getD i 0))

/-- The componentwise maximum of two clocks. -/
def Clock.join (a b : Clock) : Clock :=
  (List.range 8).map (fun i => if counterGe (a.getD i 0) (b.getD i 0) then a.getD i 0 else b.getD i 0)

/-- Component `i` replaced. -/
def Clock.set (c : Clock) (i : Nat) (x : Word) : Clock :=
  (List.range 8).map (fun k => if k = i then x else c.getD k 0)

/-! ### Owners (R172) -/

/-- Who owns an address. -/
inductive Owner where
  | own (die : Nat)
  | host (port : Nat)
  | peer (pkg die : Nat)
  deriving DecidableEq, Repr

/-- The die that decides for an owner: host port 0 is on die 0 and port 1 on die 4 (R18). -/
def Owner.die : Owner → Nat
  | .own d => d
  | .host p => if p = 0 then 0 else 4
  | .peer _ d => d

/-- The owner of a global address, or NOT_MAPPED (R172). -/
def State.ownerOf (s : State) (ea : Nat) : Except Half Owner :=
  let pkg := bitsOf ea 63 53
  let die := bitsOf ea 52 50
  if pkg = 0x7FF || pkg = s.fuses.pkg then .ok (.own die)
  else if pkg = 0x7FE then (if die < 2 then .ok (.host die) else .error 0x0301)
  else if pkg ≤ 0x3FF then
    (if s.feature 2 then .ok (.peer pkg die) else .error 0x0301)
  else .error 0x0301

/-! ### Hop distance (R15, R16) -/

/-- The surviving dies from the break onward along ring E; all eight in order on a whole ring. -/
def State.chain (s : State) : List Nat :=
  let x := (s.dies.find? (fun d => !d.2.lost)).map (fun d => d.2)
  match x with
  | none => []
  | some x =>
    if x.ring = 0 then List.range 8
    else if x.ring = 1 then (List.range 8).map (fun i => (x.brk + 1 + i) % 8)
    else (List.range 7).map (fun i => (x.brk + 1 + i) % 8)

/-- The ring of the package is whole. -/
def State.ringWhole (s : State) : Bool :=
  match s.dies.find? (fun d => !d.2.lost) with
  | some d => d.2.ring == 0
  | none => false

/-- Hop distance (R15); 15 where no packet can go. While the rings are Wrapping, the distances of the rings before the break stand.
(DESIGN CHOICE, log 115) -/
def State.hops (s : State) (a b : Nat) : Nat :=
  if (s.die a).lost || (s.die b).lost then 15
  else if a = b then 0
  else if s.ringWhole then min ((b + 8 - a) % 8) ((a + 8 - b) % 8)
  else
    let i := s.chain.idxOf a
    let j := s.chain.idxOf b
    max i j - min i j

/-- Traffic of a die to another goes by ring E (R226): the way of the smaller hop distance, or ring E on a tie. -/
def State.eastward (s : State) (a b : Nat) : Bool :=
  if s.ringWhole then decide ((b + 8 - a) % 8 ≤ (a + 8 - b) % 8) else decide (s.chain.idxOf a < s.chain.idxOf b)

/-- A bridge that no longer carries anything: the one at the break, or one of those next to a lost die. -/
def deadBridge (ring brk b : Nat) : Bool := if ring = 1 then b == brk else if ring = 2 then b == brk || b == (brk + 7) % 8 else false

/-- While the rings are Wrapping, the waystations next to the break hold the traffic from die `a` to die `b` that is bound across it, and stall what
would be injected toward it (R405). -/
def State.barred (s : State) (a b : Nat) : Bool :=
  match s.ring with
  | .wrapping ring n =>
    if s.eastward a b then (List.range ((b + 8 - a) % 8)).any (fun i => deadBridge ring n ((a + i) % 8))
    else (List.range ((a + 8 - b) % 8)).any (fun i => deadBridge ring n ((b + i) % 8))
  | _ => false

/-! ### Translation (R363 to R366) -/

/-- What a walk found: the leaf, the physical address, and whether the image map gave it. -/
structure Leaf where
  entry : Dword
  pa : Nat
  big : Bool
  image : Bool
  deriving DecidableEq, Repr, Inhabited

/-- RES of a leaf (R364). -/
def leafRes (e : Dword) : Nat := bitsOf e.toNat 16 15
/-- POL of a leaf. -/
def leafPol (e : Dword) : Nat := bitsOf e.toNat 14 12
/-- KEY of a leaf. -/
def leafKey (e : Dword) : Nat := bitsOf e.toNat 11 7
/-- LAYER of a leaf. -/
def leafLayer (e : Dword) : Nat := bitsOf e.toNat 28 17
/-- LP of a leaf. -/
def leafLP (e : Dword) : Bool := e.getLsbD 29
/-- FRAME of an entry. -/
def entryFrame (e : Dword) : Nat := bitsOf e.toNat 59 32

/-- A choice that the spec leaves to the part, about the thing that `key` numbers, at this step. (DESIGN CHOICE, log 4) -/
def State.choose (s : State) (key : Nat) : Bool := Config.freeChoice s.tick key == 0

/-- One of `n` things that the spec leaves to the part, by a key. (DESIGN CHOICE, log 4; DESIGN CHOICE, log 25) -/
def State.pick (s : State) (key n : Nat) : Nat := if n = 0 then 0 else Config.freeChoice s.tick key % n

/-- One of the things of a list, where the spec does not say which. (DESIGN CHOICE, log 25) -/
def State.pickFrom {α : Type} (s : State) (key : Nat) : List α → Option α
  | [] => none
  | x :: xs => some ((x :: xs).getD (s.pick key (xs.length + 1)) x)

/-- The entry at a physical address as the translation unit of a bay has it: as memory holds it, POISON where the sector
is poisoned, or as the unit has cached it; where the two differ, either may be used (R365 step 1, R366). (DEDUCED, log 31) -/
def State.entryAt (s : State) (die bay ctx pa : Nat) : Except Half Dword :=
  let mem : Except Half Dword :=
    if s.poisoned die pa then .error 0x030C else .ok (BitVec.ofNat 64 (leNat (s.physRead die pa 8)))
  match (s.die die).tcache.find? (fun t => t.bay == bay && t.ctx == ctx && t.pa == pa) with
  | some t =>
    (match mem with
     | .ok e => if e = t.entry then .ok e else if s.choose (physKey die pa) then mem else .ok t.entry
     | .error _ => if s.choose (physKey die pa) then mem else .ok t.entry)
  | none => mem

/-- An entry cached at a bay, unless it is there already (R366). (DEDUCED, log 31) -/
def State.cacheEntry (s : State) (die bay ctx pa : Nat) (e : Dword) : State :=
  s.modDie die (fun x =>
    if x.tcache.any (fun t => t.bay == bay && t.ctx == ctx && t.pa == pa) then x
    else { x with tcache := ⟨bay, ctx, pa, e⟩ :: x.tcache })

/-- A table entry as R364 lays it out: no bit but V, T and the node's frame. -/
def tableEntryOk (e : Dword) (cap : Nat) : Bool :=
  e.toNat == entryFrame e * 2 ^ 32 + 3 && decide (entryFrame e * 65536 < cap)

/-- A leaf passes the checks of R365 step 1 at its level. -/
def leafOk (e : Dword) (level cap : Nat) (hostTree : Bool) : Bool :=
  bitsOf e.toNat 63 60 == 0 && bitsOf e.toNat 31 30 == 0 && decide (leafPol e ≤ 3)
    && (level == 3 || entryFrame e % 8192 == 0)
    && (hostTree || decide (entryFrame e * 65536 < cap))
    && (leafLP e || (leafRes e == 2 && leafLayer e == 0))
    && !(hostTree && leafLP e)

/-- The walk of R363 and R365 step 1 from a node at one level downward, at the translation unit of `bay`: the
state with the entries it cached, and the leaf or the cause. (DEDUCED, log 32) -/
def walkFrom (die bay ctx : Nat) (hostTree : Bool) (va : Nat) : Nat → State → Nat → Nat → State × Except Half Leaf
  | 0, s, _, _ => (s, .error 0x0301)
  | fuel + 1, s, level, node =>
    let idx := match level with | 1 => bitsOf va 49 42 | 2 => bitsOf va 41 29 | _ => bitsOf va 28 16
    let cap := (s.die die).cap
    let pa := node + 8 * idx
    match s.entryAt die bay ctx pa with
    | .error c => (s, .error c)
    | .ok e =>
      if !e.getLsbD 0 then (s, .error 0x0301)
      else if e.getLsbD 1 then
        if level = 3 || !tableEntryOk e cap then (s, .error 0x0301)
        else walkFrom die bay ctx hostTree va fuel (s.cacheEntry die bay ctx pa e) (level + 1) (entryFrame e * 65536)
      else if level = 1 || !leafOk e level cap hostTree then (s, .error 0x0301)
      else
        let off := if level = 2 then bitsOf va 28 0 else bitsOf va 15 0
        (s.cacheEntry die bay ctx pa e, .ok ⟨e, entryFrame e * 65536 + off, level == 2, false⟩)

/-- The walk from a context's root for an owner (R360, R363). (DEDUCED, log 32) -/
def State.walkTree (s : State) (ctx : Nat) (o : Owner) (va : Nat) : State × Except Half Leaf :=
  match s.ctxs.get? ctx with
  | none => (s, .error 0x0301)
  | some c =>
    let die := o.die
    let bay := (s.die die).bayMap.getD (bitsOf va 15 10) 0
    let (root, hostTree) := match o with
      | .host p => (c.hroot.getD p 0, true)
      | _ => (c.lroot.getD die 0, false)
    if root = 0 || (s.die die).cap ≤ root then (s, .error 0x0301)
    else walkFrom die bay ctx hostTree va 3 s 1 root

/-- The frame of an own-package address by a context's image map (R368). -/
def Ctx.imageFrame (c : Ctx) (va : Nat) : Option (Nat × Nat) :=
  let a := va % 2 ^ 53
  (c.imap.find? (fun p => p.1 == a / 65536)).map (fun p => (p.2.1, p.2.2 + a % 65536))

/-- Step 1 of R365: the image map first (R368), then the walk. -/
def State.walk (s : State) (ctx : Nat) (o : Owner) (va : Nat) : State × Except Half Leaf :=
  match o, (s.ctxs.get? ctx).bind (fun c => c.imageFrame va) with
  | .own _, some (_, pa) => (s, .ok ⟨0x0001005, pa, false, true⟩)
  | _, _ => s.walkTree ctx o va

/-- A frame is in the image map of some context that is neither Free nor Ended (R368). -/
def State.inImageFrame (s : State) (die pa : Nat) : Bool :=
  s.ctxs.any (fun c => c.2.state != .free && c.2.state != .ended
    && c.2.imap.any (fun p => p.2.1 == die && p.2.2 / 65536 == pa / 65536))

/-- The page of an address is leased: a lease of a Running or Completing node of the context covers it (R341). -/
def State.leased (s : State) (ctx va : Nat) : Bool :=
  let a := va % 2 ^ 53
  s.nodes.any (fun n => n.2.ctx == ctx && (n.2.state == .running || n.2.state == .completing)
    && n.2.leases.any (fun l => decide (l.base % 2 ^ 53 ≤ a) && decide (a < l.base % 2 ^ 53 + l.pages * 65536)))

/-- The kind of a request (R359). -/
inductive Access where
  | fetch | read | write | rmw
  deriving DecidableEq, Repr

/-- What the requester is where the verdict's steps differ (R365 steps 5 and 6). -/
inductive ReqClass where
  | slice | peer | start
  deriving DecidableEq, Repr

/-- The owner's verdict (R365): passed, arriving, or the cause. -/
inductive Verdict where
  | pass (l : Leaf)
  | arriving (l : Leaf)
  | fail (cause : Half)
  deriving DecidableEq, Repr

/-- Step 3 of R365 on the permission bits. -/
def permCause (k : Access) (e : Dword) : Option Half :=
  match k with
  | .fetch => if e.getLsbD 4 then none else some 0x0304
  | .read => if e.getLsbD 2 then none else some 0x0302
  | .write => if e.getLsbD 3 then none else some 0x0303
  | .rmw =>
    if !e.getLsbD 2 then some 0x0302
    else if !e.getLsbD 3 then some 0x0303
    else if !e.getLsbD 5 then some 0x0305 else none

/-- Step 4 of R365 on the key snapshot. -/
def keyCause (k : Access) (e keys : Dword) : Option Half :=
  let i := leafKey e
  if k != .write && keys.getLsbD (2 * i) then some 0x0307
  else if (k == .write || k == .rmw) && keys.getLsbD (2 * i + 1) then some 0x0308
  else none

/-- The owner's verdict on one address (R365, R368), with the entries the walk cached. (DEDUCED, log 30) -/
def State.verdict (s : State) (ctx : Nat) (o : Owner) (va : Nat) (k : Access) (keys : Dword)
    (cls : ReqClass) : State × Verdict :=
  match s.walk ctx o va with
  | (s, .error c) => (s, .fail c)
  | (s, .ok l) =>
    if l.image then
      if k == .write || k == .rmw then (s, .fail 0x0303) else (s, .pass l)
    else
      let e := l.entry
      let isOwn := match o with | .own _ => true | _ => false
      if e.getLsbD 6 then (s, .fail 0x0306)
      else if isOwn && (k == .write || k == .rmw) && s.inImageFrame o.die l.pa then (s, .fail 0x0303)
      else match permCause k e with
        | some c => (s, .fail c)
        | none => match keyCause k e keys with
          | some c => (s, .fail c)
          | none =>
            if isOwn && cls == .slice && !s.leased ctx va then (s, .fail 0x0309)
            else if leafRes e == 2 then (s, .pass l)
            else if cls == .slice then (s, .arriving l)
            else (s, .fail 0x0301)

/-- The snapshot of the key register that a slice's request carries (R369): its die's working copy. -/
def State.keysOf (s : State) (ctx die : Nat) : Dword :=
  match s.ctxs.get? ctx with
  | some c => (c.kWork.get? die).getD c.k
  | none => 0

/-! ### Privileged access (R359) -/

/-- Bytes of an own-package range through a context's tables with the privileged flag, page by page (R359, R365
step 1): the die, the place, the length, and whether a bay may take the page's lines (R364); die 8 where the walk fails. -/
def State.privPages (ctx : Nat) : Nat → State → Nat → Nat → List (Nat × Nat × Nat × Bool)
  | 0, _, _, _ => []
  | fuel + 1, s, va, n =>
    if n = 0 then []
    else
      let m := min n (65536 - va % 65536)
      let rest := fun s' => State.privPages ctx fuel s' (va + m) (n - m)
      match s.ownerOf va with
      | .ok (.own d) =>
        match s.walk ctx (.own d) va with
        | (s', .ok l) => (d, l.pa, m, leafPol l.entry != 3) :: rest s'
        | (s', .error _) => (8, 0, m, false) :: rest s'
      | _ => (8, 0, m, false) :: rest s

/-- Bytes read with the privileged flag. A page whose walk fails has a verdict (NOT_MAPPED, or POISON at a poisoned entry), but the spec does not say
what a save, a restore or a refill then does: each byte read is a free value. (DESIGN CHOICE, log 123) -/
def State.privRead (s : State) (ctx va n : Nat) : List Byte :=
  (State.privPages ctx (n / 65536 + 2) s va n).flatMap (fun p =>
    if p.1 < 8 then s.physRead p.1 p.2.1 p.2.2.1
    else (List.range p.2.2.1).map (fun i => (Config.freeDword (s.tick + 2 ^ 64 * (va + i + 1))).setWidth 8))

end Sys2Proof.Machine
end

