-- ==== Sys2Proof/Machine/Clock.lean ====
section
/-! DEFINITION. Which agent moves next and the passing of time (R108, R149, R470). -/

namespace Sys2Proof.Machine

/-- The next move: the one scheduled, or any (R147, R149). (DESIGN CHOICE, log 2) -/
def State.nextMove (s : State) : Move × State :=
  match s.schedule with
  | m :: ms => (m, { s with schedule := ms })
  | [] => (Config.freeMove s.tick, s)

/-- Time passes: the step is counted, and unless the part is frozen (R470) the cycle counters of the dies advance, each by the
cycles that it took there, so that no two are aligned (R108). (DESIGN CHOICE, log 3) -/
def State.passTime (s : State) : State :=
  { s with
    tick := s.tick + 1
    dies := if s.frozen then s.dies
            else s.dies.map (fun d => (d.1, { d.2 with
              cycle := d.2.cycle + BitVec.ofNat 64 (Config.freeCycles s.tick d.1), power := Config.freeTelemetry s.tick
              issuing := d.2.issuing + if s.pstate ≠ 0 then 0 else min (Config.freeCycles s.tick d.1) (Config.freeIssuing s.tick d.1) })) }

/-- A move that can come about while every clock stands still (R470, R471). (DEDUCED, log 11) -/
def Move.whileFrozen (m : Move) : Bool :=
  match m with
  | .event .coldReset => true
  | .event .warmReset => true
  | .event .port1Reset => true
  | .event (.powerFailure _) => true
  | .event (.tapReadout _ _) => true
  | .event (.bar2Read _ _ _) => true
  | .bar0Read _ _ _ => true
  | .hostStore _ _ _ => true
  | .freezeInBringUp _ => true
  | .tap _ => true
  | _ => false

end Sys2Proof.Machine
end

