-- ==== Sys2Proof/Machine/Rmw.lean ====
section
/-! DEFINITION. Read-modify-write on one element (R253 to R256, R267, R271): the new value of each operation, the
identities of the update-only partials, and the compares of monitors (R270). -/

namespace Sys2Proof.Machine

/-- The width in bytes of an element of a type. -/
def elemSize (t : Nat) : Nat := typeBits t / 8

/-- The operations beside those of R267: BINC, WINC, DECZ and FADDL (R271). -/
def opBinc : Nat := 16
/-- WINC. -/
def opWinc : Nat := 17
/-- DECZ. -/
def opDecz : Nat := 18
/-- FADDL. -/
def opFaddl : Nat := 19

/-- Integer minimum or maximum of two elements, as an image. -/
def intMinMax (t : Nat) (isMax : Bool) (a b : Nat) : Nat :=
  let x := elemInt t a
  let y := elemInt t b
  if isMax then (if x ≤ y then b else a) else (if y < x then b else a)

/-- The new element of an operation of R267 (and of R271 for codes from 16 on): from the old element, the operand, the compare's
replacement or, for FADDL, the limit. -/
def rmwNew (op t : Nat) (old v c : Nat) : Nat :=
  let m := 2 ^ typeBits t
  let old := old % m
  let v := v % m
  match op with
  | 0 =>
    if typeFP t then (deliverOp t 1 0 false (addVal 1 (decodeF t old) (decodeF t v))).1 % m
    else (old + v) % m
  | 1 => old &&& v
  | 2 => old ||| v
  | 3 => old ^^^ v
  | 4 => if typeFP t then (minMaxF t false false old v).1 % m else intMinMax t false old v
  | 5 => if typeFP t then (minMaxF t true false old v).1 % m else intMinMax t true old v
  | 6 => v
  | 7 => if old = v then c % m else old
  | 8 => (minMaxF t false true old v).1 % m
  | 9 => (minMaxF t true true old v).1 % m
  | 16 => if old < v then (old + 1) % m else old
  | 17 => if v ≤ old then 0 else old + 1
  | 18 => if old = 0 then 0 else old - 1
  | _ => if old + v ≤ c % m then old + v else old

/-- ok of FADDL (R271). -/
def faddlOk (t : Nat) (old v lim : Nat) : Bool :=
  let m := 2 ^ typeBits t
  decide (old % m + v % m ≤ lim % m)

/-- The identity of an operation and a type, from which a partial starts (R256). -/
def rmwIdentity (op t : Nat) : Nat :=
  let w := typeBits t
  if typeFP t then
    match op with
    | 0 => 2 ^ (w - 1)
    | 4 => (fmtOf t).expMask
    | 5 => (fmtOf t).signBit + (fmtOf t).expMask
    | _ => (fmtOf t).canonNaN
  else
    match op with
    | 0 => 0
    | 1 => 2 ^ w - 1
    | 4 => (intMax t).toNat
    | 5 => wrapNat w (intMin t)
    | _ => 0

/-- The compare of MWAIT (R267, R270): condition codes 0 to 5. -/
def waitCond (cond t : Nat) (x v : Nat) : Bool :=
  let m := 2 ^ typeBits t
  let a := x % m
  let b := v % m
  let p := elemInt t a
  let q := elemInt t b
  match cond with
  | 0 => a == b
  | 1 => a != b
  | 2 => decide (p < q)
  | 3 => decide (p ≤ q)
  | 4 => decide (q < p)
  | _ => decide (q ≤ p)

end Sys2Proof.Machine
end

