-- ==== Sys2Proof/Machine/Lines.lean ====
section
/-! DEFINITION. Bay lines and their ways (R181 to R186), monitors and their firing (R248), and writes applied at a home with the
stamp and the messages of R223. -/

namespace Sys2Proof.Machine

/-! ### Bay lines (R181 to R183) -/

/-- A bay line with nothing in it. -/
def BayLine.empty : BayLine :=
  { dirty := false, valid := 0, modified := 0, wanted := 0, pins := [], ord := [], held := false, guests := 0,
    uo := [], stamp := Clock.zero, used := 0 }

/-- The home line that holds a physical address. -/
def Die.line (x : Die) (pa : Nat) : BayLine := (x.lines.get? (pa / 1024)).getD BayLine.empty

/-- The home line that holds a physical address. -/
def State.line (s : State) (d pa : Nat) : BayLine := (s.die d).line pa

/-- A home line changed. -/
def State.modLine (s : State) (d pa : Nat) (f : BayLine → BayLine) : State :=
  s.modDie d (fun x => { x with lines := x.lines.put (pa / 1024) (f (x.line pa)) })

/-- The bay of an address at a die (R361). -/
def Die.bay (x : Die) (a : Nat) : Nat := x.bayMap.getD (bitsOf a 15 10) 0

/-- The sectors that `n` bytes at an address touch, as a mask of one line. -/
def sectorMask (pa n : Nat) : BitVec 8 :=
  ((List.range 8).filter (fun i => decide (pa % 1024 < (i + 1) * 128) && decide (i * 128 < pa % 1024 + max n 1))).foldl
    (fun m i => m ||| (1#8 <<< i)) 0

/-- The line takes a way of its set. -/
def BayLine.resident (l : BayLine) : Bool := l.valid != 0 || l.wanted != 0 || !l.pins.isEmpty || l.held

/-- The guest copies of one physical line at a die. -/
def Die.guestsOf (x : Die) (home pa : Nat) : List Guest :=
  x.guests.filter (fun g => g.home == home && g.pa == pa / 1024)

/-- Guest lines dropped at a die, the homes of lines no longer held there being notified (R182). -/
def State.dropGuests (s : State) (d : Nat) (p : Guest → Bool) : State :=
  let gone := (s.die d).guests.filter p
  let s1 := s.modDie d (fun x => { x with guests := x.guests.filter (fun g => !p g) })
  gone.foldl (fun s g =>
    if ((s.die d).guestsOf g.home (g.pa * 1024)).isEmpty then
      s.modLine g.home (g.pa * 1024) (fun l => { l with guests := l.guests &&& ~~~(1#8 <<< d) })
    else s) s1

/-- The guest copies of a home line invalidated at every die (R182, R257). -/
def State.dropLineGuests (s : State) (d pa : Nat) : State :=
  (List.range 8).foldl (fun s k => s.dropGuests k (fun g => g.home == d && g.pa == pa / 1024)) s

/-- The bytes of a write put into a guest sector (R225); writes of one instruction or entry `op` that cover all of it clear its poison, as the home
does (R185). -/
def GSector.update (q : GSector) (off : Nat) (data : List Byte) (st : Clock) (op : Nat) (clean : Bool) : GSector :=
  let cover := if q.poison && op != 0 then q.cover ++ (List.range data.length).map (fun i => (op, off + i)) else []
  let poison := q.poison && !clean && !(off == 0 && data.length == 128) && !(List.range 128).all (fun i => cover.contains (op, i))
  { bytes := patchBytes q.bytes off data, poison := poison, stamp := st, cover := if poison then cover else [] }

/-- The bytes of a write put into a guest line: `off` is the offset in the line. A sector whose stamp covers the write's holds it already, or a
later one (R213). -/
def Guest.update (g : Guest) (off : Nat) (data : List Byte) (st : Clock) (op : Nat) (clean : List Nat) (stale : GSector → Bool) : Guest :=
  { g with secs := g.secs.map (fun (p : Nat × GSector) =>
      let lo := max off (p.1 * 128)
      let hi := min (off + data.length) (p.1 * 128 + 128)
      if lo < hi && !stale p.2 then
        (p.1, p.2.update (lo - p.1 * 128) ((data.drop (lo - off)).take (hi - lo)) st op (clean.contains (physKey g.home (g.pa * 1024) / 128 + p.1)))
      else p) }

/-- The messages numbered from `n` on are those of one instruction or entry `op`; with the last of them to a sector of `clean` goes the word that
the home has cleared its poison (R185). -/
def State.tagMsgs (s : State) (n op : Nat) (clean : List Nat) : State :=
  let touches := fun (m : SeqMsg) (k : Nat) => (sectorsOf (physKey m.src m.pa) m.data.length).contains k
  { s with msgs := s.msgs.map (fun (m : Nat × SeqMsg) =>
      if m.1 < n then m
      else (m.1, { m.2 with op := op, clean := clean.filter (fun k => touches m.2 k
        && !s.msgs.any (fun q => decide (m.1 < q.1) && q.2.dst == m.2.dst && touches q.2 k)) })) }

/-- The writes since `s0` whose messages are numbered from `n` on are of one instruction or entry `op`. -/
def State.asOneWrite (s0 : State) (n op : Nat) (s : State) : State :=
  s.tagMsgs n op (s0.poison.filter (fun k => !s.poison.contains k))

/-- A home line leaves its way (R182): its guest holders are invalidated first. -/
def State.evictLine (s : State) (d line : Nat) : State :=
  (s.dropLineGuests d (line * 1024)).modLine d (line * 1024)
    (fun l => { l with valid := 0, modified := 0, wanted := 0, dirty := false })

/-- The lines that take ways of a set of a bay: home lines by number and guest lines by context and address, with the time
of their last use and whether they may be evicted (R183, R361). -/
def Die.waysUsed (x : Die) (bay set : Nat) : List (Nat × Bool × Option Nat) × List (Nat × Nat × Nat) :=
  ((x.lines.filter (fun l => l.2.resident && x.bay (l.1 * 1024) == bay && bitsOf (l.1 * 1024) 25 16 == set)).map
      (fun l => (l.2.used, l.2.pins.isEmpty && !l.2.held, some l.1)),
   (x.guests.filter (fun g => x.bay (g.va * 1024) == bay && bitsOf (g.va * 1024) 25 16 == set)).map
      (fun g => (g.used, g.ctx, g.va)))

/-- The entry of a list with the least first component. -/
def leastUsed {α : Type} : List (Nat × α) → Option (Nat × α)
  | [] => none
  | p :: ps => match leastUsed ps with
    | some q => if p.1 ≤ q.1 then some p else some q
    | none => some p

/-- Room made for one more line in a set of 16 ways (R182, R183): the state, and whether there is a way. -/
def State.makeWay (s : State) (d bay set : Nat) : State × Bool :=
  let (hs, gs) := (s.die d).waysUsed bay set
  if hs.length + gs.length < 16 then (s, true)
  else
    let h := leastUsed (hs.filter (fun p => p.2.1))
    let g := leastUsed gs
    match h, g with
    | none, none => (s, false)
    | some (_, _, some l), none => (s.evictLine d l, true)
    | none, some (_, c, va) => (s.dropGuests d (fun q => q.ctx == c && q.va == va), true)
    | some (u, _, some l), some (w, c, va) =>
      if u ≤ w then (s.evictLine d l, true) else (s.dropGuests d (fun q => q.ctx == c && q.va == va), true)
    | some (_, _, none), _ => (s, false)

/-- A way for a home line, which it may hold already (R183): the state, and whether there is one. -/
def State.wayFor (s : State) (d pa : Nat) : State × Bool :=
  if (s.line d pa).resident then (s, true) else s.makeWay d ((s.die d).bay pa) (bitsOf pa 25 16)

/-- A home line used: its sectors valid, and modified by a write (R182). `alloc` is false for the device-uncached policy, which
uses only a line that is already present (R364). -/
def State.touchLine (s : State) (d pa n : Nat) (write alloc : Bool) : State :=
  let m := sectorMask pa n
  let upd := fun (l : BayLine) => { l with
    valid := l.valid ||| m, modified := if write then l.modified ||| m else l.modified,
    dirty := l.dirty || write, used := s.tick }
  if (s.line d pa).resident then s.modLine d pa upd
  else if !alloc then s
  else match s.wayFor d pa with
    | (s1, true) => s1.modLine d pa upd
    | (s1, false) => s1

/-! ### Monitors (R248) -/

/-- The unsigned value of an element of a die's memory. -/
def State.physNat (s : State) (d pa n : Nat) : Nat := leNat (s.physRead d pa n)

/-- A monitor's compare holds. -/
def State.monitorHolds (s : State) (d : Nat) (m : Monitor) : Bool :=
  waitCond m.cond m.ty (s.physNat d m.pa m.size) m.value.toNat

/-- A saved dormant block is made ready for restore: its other monitors are freed, and it goes before the blocks that wait only
for a quantum (R250). -/
def State.wakeDormant (s : State) (bid : Nat) : State :=
  match s.blocks.get? bid with
  | none => s
  | some b =>
    if b.state = .saved && b.dormant then
      let s1 := s.modBlock bid (fun b => { b with dormant := false })
      (s1.freeMonitors bid).modDie b.die (fun x => { x with waitingSet := (1, bid) :: x.waitingSet })
    else s

/-- The package returns to state 0 (R465, R467): one state change, with every island on. -/
def State.toRun (s : State) : State :=
  if s.pstate = 0 then s
  else { s with pstate := 0, pchanges := s.pchanges + 1, dies := s.dies.map (fun (d : Nat × Die) => (d.1, { d.2 with islands := [2, 2, 2, 2, 2] })) }

/-- The monitors on any of `n` bytes whose compare holds fire and are freed (R248); one that fires wakes the package (R467). -/
def State.fireMonitors (s : State) (d pa n : Nat) : State :=
  let fired := (s.die d).monitors.filter (fun m =>
    decide (m.2.pa < pa + n) && decide (pa < m.2.pa + m.2.size) && s.monitorHolds d m.2)
  let s1 := s.modDie d (fun x => { x with monitors := x.monitors.filter (fun m => !fired.any (fun f => f.1 == m.1)) })
  fired.foldl (fun s m => s.wakeDormant m.2.bid) (if fired.isEmpty then s1 else s1.toRun)

/-! ### Writes at the home (R223) -/

/-- The dies that still work. -/
def State.liveDies (s : State) : List Nat := (List.range 8).filter (fun k => !(s.die k).lost)

/-- Bytes written at their home with the stamp that R223 gives, the guests' updates and notices sent, and the monitors
evaluated. `core`, `die` and `req` name the request that caused it, for the pod step of R218. -/
def State.applyWrite (s : State) (d pa : Nat) (data : List Byte) (die core req : Nat) (alloc : Bool) : State × Clock :=
  let s1 := ((s.physWrite d pa data).clearPoison d pa data.length).touchLine d pa data.length true alloc
  let l := s1.line d pa
  let vc := (s1.die d).vc
  let stamp := if l.guests = 0 then vc else vc.set d (vc.getD d 0 + 1)
  let s2 := s1.modLine d pa (fun l => { l with stamp := stamp })
  let s3 :=
    if l.guests = 0 then s2
    else
      let s3 := s2.modDie d (fun x => { x with vc := stamp })
      ((s3.liveDies).filter (fun k => k != d)).foldl (fun s k =>
        let (n, s) := s.fresh
        let m : SeqMsg := { src := d, dst := k, stamp := stamp, pa := pa,
                            data := if l.guests.getLsbD k then data else [], core := core, fromDie := die, req := req, op := 0, clean := [] }
        { s with msgs := s.msgs.put n m }) s3
  (s3.fireMonitors d pa data.length, stamp)

/-- A write of any length applied at a home, line by line, that no core's request caused; `alloc` says that the bay may take its lines. -/
def State.storeLines (alloc : Bool) : Nat → State → Nat → Nat → List Byte → State
  | 0, s, _, _, _ => s
  | fuel + 1, s, d, pa, data =>
    if data.isEmpty then s
    else
      let k := 1024 - pa % 1024
      State.storeLines alloc fuel (s.applyWrite d pa (data.take k) d 0xFF 0 alloc).1 d (pa + k) (data.drop k)

/-- Bytes written at their home by a unit of the part. -/
def State.store (s : State) (d pa : Nat) (data : List Byte) : State :=
  State.storeLines true (data.length / 1024 + 2) s d pa data

/-! ### Privileged writes (R359) -/

/-- Bytes written with the privileged flag; those of an unmapped page are lost. -/
def State.privWriteTo (s : State) : List (Nat × Nat × Nat × Bool) → List Byte → State
  | [], _ => s
  | (d, pa, m, alloc) :: ps, data =>
    let s' := if d < 8 then State.storeLines alloc (m / 1024 + 2) s d pa (data.take m) else s
    State.privWriteTo s' ps (data.drop m)

/-- Bytes written with the privileged flag from an address upward. -/
def State.privWrite (s : State) (ctx va : Nat) (data : List Byte) : State :=
  s.privWriteTo (State.privPages ctx (data.length / 65536 + 2) s va data.length) data

end Sys2Proof.Machine
end

