-- ==== Sys2Proof/Machine/Regs.lean ====
section
/-! DEFINITION. Registers, tags and the pool (R85 to R103). -/

namespace Sys2Proof.Machine

/-! ### Tags and values (R86) -/

/-- The code of a tag (R86). -/
def Tag.code : Tag → Nat
  | .u => 1 | .a => 2 | .g => 3

/-- The pool words of a tag (R86). -/
def Tag.words : Tag → Nat
  | .u => 1 | .a => 2 | .g => 4

/-- The tag code of a register's value: 0 for E and 4 for P (R86). -/
def RegVal.code : RegVal → Nat
  | .empty => 0 | .held t _ => t.code | .pend _ _ => 4

/-- The pool words of a register (R86). -/
def RegVal.words : RegVal → Nat
  | .empty => 0 | .held t _ => t.words | .pend t _ => t.words

/-- The value that each lane reads (R87); an empty register reads as zero (R91). (DEDUCED, log 21) -/
def RegVal.lanes : RegVal → Quad Word
  | .empty => Quad.all 0
  | .held _ v => v
  | .pend _ v => v

/-- The tag of a register that holds a value; an empty register counts as uniform (it reads as zero). (DEDUCED, log 21) -/
def RegVal.tag : RegVal → Tag
  | .empty => .u
  | .held t _ => t
  | .pend t _ => t

/-- The register is pending. -/
def RegVal.isPend : RegVal → Bool
  | .pend _ _ => true
  | _ => false

/-- Register `k` of a slice. -/
def Slice.reg (x : Slice) (k : Nat) : RegVal := (x.regs.get? k).getD .empty

/-- Register `k` set; an empty register is not listed. -/
def Slice.setReg (x : Slice) (k : Nat) (v : RegVal) : Slice :=
  if v = .empty then { x with regs := x.regs.erase k } else { x with regs := x.regs.put k v }

/-- `write_v` of R90: what register value a write leaves. `whole` is the exception of R90 for AFF, UNIF,
MOVS of a uniform selector, POOLQ and LDU, which write all lanes whenever one is active. -/
def writeV (act : BitVec 4) (whole : Bool) (v : Quad Word) (t : Tag) (old : RegVal) : RegVal :=
  if act = 0xF#4 || (whole && act ≠ 0) then (.held t v)
  else if act = 0 then (if old = .empty then .held .u (Quad.all 0) else old)
  else
    let o := old.lanes
    .held .g (Quad.ofFn (fun l => if act.getLsbD l then v.get l else o.get l))

/-- What a register becomes when a fill is issued to it (R91): P with the target shape; inactive lanes take 0
when it was empty and keep their values otherwise. -/
def fillV (t : Tag) (old : RegVal) : RegVal := .pend t old.lanes

/-! ### Latches (R39 to R41) -/

/-- Latch `j` of a slice. -/
def Slice.latch (x : Slice) (j : Nat) : Option Latch := (x.latches.getD j none)

/-- All latches empty. -/
def noLatches : List (Option Latch) := [none, none, none, none]

/-- The latches that an involuntary event saves (R41): those that a waiting latch-clearing instruction has read stand for it, since it executes
again. (DESIGN CHOICE, log 17) -/
def Slice.savedLatches (x : Slice) : List (Option Latch) := if x.latchSources.isEmpty then x.latches else x.latchSources

/-- A latch-clearing instruction that waits has read its latch sources and emptied the latches (R40). (DESIGN CHOICE, log 17) -/
def Slice.stowLatches (x : Slice) : Slice :=
  if x.run == .waiting && x.clearing && x.latches != noLatches then { x with latches := noLatches, latchSources := x.latches } else x

/-- A waiting instruction executes again with the latch sources that it has read (R152). -/
def Slice.takeLatches (x : Slice) : Slice := { x with latches := x.savedLatches, latchSources := [] }

/-- The latches emptied (R40). -/
def Slice.clearLatches (x : Slice) : Slice := { x with latches := noLatches }

/-- The latches shifted with `l` entering b0 (R39). -/
def Slice.shiftLatches (x : Slice) (l : Latch) : Slice :=
  { x with latches := [some l, x.latch 0, x.latch 1, x.latch 2] }

/-! ### The pool (R86, R94) -/

/-- Pool words of a slice's registers, those that stand spilled not counted. -/
def Slice.words (x : Slice) : Nat :=
  (x.regs.map (fun p => if x.spilled.contains p.1 then 0 else p.2.words)).sum

/-- Draining words of a block (R93), but for those that a save of it has left on another account (R99). -/
def State.drainOf (s : State) (bid : Nat) : Nat :=
  (s.fills.map (fun f => if f.2.bid == bid && f.2.orphan.isNone then f.2.words else 0)).sum

/-- used(b) of R94. -/
def State.usedOf (s : State) (bid : Nat) : Nat :=
  match s.blocks.get? bid with
  | none => 0
  | some b => (b.slices.map (fun p => p.2.words)).sum + s.drainOf bid

/-- The blocks resident on a core, by number. -/
def State.residents (s : State) (d c : Nat) : List (Nat × Block) :=
  s.blocks.filter (fun b => b.2.state == .resident && b.2.die == d && b.2.core == c)

/-- Draining words that blocks saved from a core have left to drain there (R99). -/
def State.orphanWords (s : State) (d c : Nat) : Nat :=
  (s.fills.map (fun f => if f.2.orphan == some (d, c) then f.2.words else 0)).sum

/-- H of R94: Draining words of retired blocks on a core, with those that saved blocks have left there. (DEDUCED, log 87) -/
def State.drainH (s : State) (d c : Nat) : Nat :=
  ((s.blocks.filter (fun b => b.2.state == .retired && b.2.die == d && b.2.core == c)).map
    (fun b => s.drainOf b.1)).sum + s.orphanWords d c

/-- S of R86: the words of a core's pool. -/
def State.poolSize (s : State) (d c : Nat) : Nat :=
  match (s.core d c).partw with
  | some w => bitsOf w.toNat 7 0 * 4096
  | none => 0

/-- The free words of R94, as an integer. -/
def State.freeWords (s : State) (d c : Nat) : Int :=
  (s.poolSize d c : Int) - ((s.residents d c).map (fun b => max b.2.floor (s.usedOf b.1))).sum - s.drainH d c

/-- The words that a request of block `bid` within its floor may take: those outside the reservations and
the use of the other blocks (R96, first case). -/
def State.reserveWords (s : State) (d c bid : Nat) : Int :=
  (s.poolSize d c : Int)
    - ((s.residents d c).map (fun b => if b.1 = bid then s.usedOf b.1 else max b.2.floor (s.usedOf b.1))).sum
    - s.drainH d c

/-- Σ floor over the resident blocks of a core, and H (R95, R111). -/
def State.floorSum (s : State) (d c : Nat) : Nat := ((s.residents d c).map (fun b => b.2.floor)).sum + s.drainH d c

/-- The registers that a spill goes through, highest slice and register first, those pending or spilled already left out (R91, R97). -/
def Block.spillWalk (b : Block) : List (Nat × Nat) :=
  (b.slices.reverse.filter (fun p => p.2.run != .ended)).flatMap (fun p =>
    ((List.range 60).reverse.filter (fun k => !(p.2.reg k).isPend && !p.2.spilled.contains k)).map (fun k => (p.1, k)))

/-- The registers of a block that a spill may move, highest slice and register first (R97). -/
def Block.movable (b : Block) : List (Nat × Nat) :=
  (b.slices.reverse).flatMap (fun p =>
    ((p.2.regs.reverse).filter (fun r => !r.2.isPend && r.2.words != 0 && !p.2.spilled.contains r.1)).map
      (fun r => (p.1, r.1)))

/-- The 16 bytes of a register's payload slot (R103). -/
def RegVal.payload : RegVal → List Byte
  | .held .u v => leBytes 16 v.l0.toNat
  | .held .a v => leBytes 16 (v.l0.toNat + 2 ^ 32 * (v.l1 - v.l0).toNat)
  | .held .g v => v.toList.flatMap (fun x => leBytes 4 x.toNat)
  | _ => leBytes 16 0

/-- The save-area address of the payload slot of a register (R103, R346). -/
def Block.payloadVa (b : Block) (sid k : Nat) : Nat :=
  b.saveVa.toNat + 0x111800 + sid * 0x500 + 0x100 + 16 * k

/-- The run state of a slice that is parked for a spill (R97, R152). -/
def RunState.park : RunState → RunState
  | .running => .parked false
  | .waiting => .parked true
  | r => r

/-- The run state of a parked slice after the refill (R152). -/
def RunState.unpark : RunState → RunState
  | .parked w => if w then .waiting else .running
  | r => r

/-- Registers moved to their save-area slots until used ≤ floor (R97); the slot of an empty register passed on the way is written as
zero (R91). -/
def State.moveRegs (s : State) (bid : Nat) : List (Nat × Nat) → State
  | [] => s
  | (sid, k) :: rest =>
    match s.blocks.get? bid with
    | none => s
    | some b =>
      if s.usedOf bid ≤ b.floor then s
      else
        match b.slices.get? sid with
        | none => s
        | some x =>
          let s1 := s.privWrite b.ctx (b.payloadVa sid k) (x.reg k).payload
          State.moveRegs (if x.reg k = .empty then s1 else s1.modSlice bid sid (fun y => { y with spilled := k :: y.spilled })) bid rest

/-- The slice waits in FENCE, LDA or STRL, whose wait a spill park abandons (R240). -/
def Slice.restarts (x : Slice) : Bool := x.run == .waiting && [some 0xB8, some 0x67, some 0x68].contains x.opc

/-- A slice parked for a spill (R97, R152, R240). -/
def Slice.parked (x : Slice) : Slice := { x with run := x.run.park, prog := if x.restarts then .fresh else x.prog }

/-- The fills whose values a parked block's restarting slices wait for go on without them (R240). -/
def State.drainWaits (s : State) (bid : Nat) (b : Block) : State :=
  { s with fills := s.fills.map (fun (f : Nat × Fill) =>
      if f.2.bid == bid && f.2.regs.isEmpty && (match b.slices.get? f.2.sid with | some x => x.restarts | none => false)
      then (f.1, { f.2 with draining := true }) else f) }

/-- R97: block `bid` parked, its register-cache entries written back, and its registers spilled. -/
def State.spill (s : State) (bid : Nat) : State :=
  match s.blocks.get? bid with
  | none => s
  | some b =>
    let s1 := (s.drainWaits bid b).modBlock bid (fun b => { b with slices := b.slices.map (fun p => (p.1, p.2.parked)) })
    let s2 := s1.modCore b.die b.core (fun c => c.writeBackRegs bid)
    let s3 := s2.moveRegs bid b.spillWalk
    s3.modBlock bid (fun b => { b with spillSaved := true })

/-- The youngest block of a list by age. -/
def youngest : List (Nat × Block) → Option Nat
  | [] => none
  | b :: bs =>
    match youngest bs with
    | none => some b.1
    | some k => match bs.find? (fun x => x.1 == k) with
      | some y => if y.2.age < b.2.age then some b.1 else some k
      | none => some b.1

/-- Blocks that a spill can take words from: above their floor with a register that can be moved. A block above its floor of which no
register can be moved is passed over and not parked. (DESIGN CHOICE, log 116) -/
def State.victims (s : State) (d c : Nat) : List (Nat × Block) :=
  (s.residents d c).filter (fun b => decide (b.2.floor < s.usedOf b.1) && !b.2.movable.isEmpty)

/-- A request for `n` words by a resident block (R96), with at most `fuel` spills: the state after the spills, and
whether the words are there. -/
def State.requestWords (bid n : Nat) : Nat → State → State × Bool
  | 0, s => (s, false)
  | fuel + 1, s =>
    match s.blocks.get? bid with
    | none => (s, true)
    | some b =>
      let used := s.usedOf bid
      let n1 := min n (b.floor - used)
      let n2 := n - n1
      if n1 ≠ 0 && s.reserveWords b.die b.core bid < n1 then
        match youngest ((s.victims b.die b.core).filter (fun v => v.1 != bid)) with
        | some v => State.requestWords bid n fuel (s.spill v)
        | none => (s, false)
      else if n2 ≠ 0 && s.freeWords b.die b.core < n2 then
        match youngest ((s.victims b.die b.core).filter (fun v => v.1 != bid && decide (b.age < v.2.age))) with
        | some v => State.requestWords bid n fuel (s.spill v)
        | none => (s, false)
      else (s, true)

/-! ### The order of requests (R96 to R98, R111) -/

/-- A block of a core is parked by a spill and older than another. -/
def State.olderParked (s : State) (d c age : Nat) : Bool :=
  (s.residents d c).any (fun b => b.2.spillSaved && decide (b.2.age < age))

/-- The words that a block has spilled. -/
def Block.spilledWords (b : Block) : Nat :=
  (b.slices.map (fun p => (p.2.spilled.map (fun k => (p.2.reg k).words)).sum)).sum

/-- The number under which a restored block as a whole waits for the words of its registers (R99): no slice has it. -/
def wholeBlock : Nat := 256

/-- A block that waits for the words of its registers after its restore (R99). -/
def State.restoring (s : State) (bid : Nat) (b : Block) : Bool :=
  (s.core b.die b.core).waiters.any (fun w => w.bid == bid && w.sid == wholeBlock)

/-- A parked block's refill is possible: the free words reach what it has spilled, and it is the oldest (R97). -/
def State.refillable (s : State) (bid : Nat) (b : Block) : Bool :=
  b.state == .resident && b.spillSaved && !s.restoring bid b && !s.olderParked b.die b.core b.age
    && decide ((b.spilledWords : Int) ≤ s.freeWords b.die b.core)

/-- A refill comes before any request of a younger block (R97). -/
def State.refillFirst (s : State) (d c age : Nat) : Bool :=
  (s.residents d c).any (fun v => decide (v.2.age < age) && s.refillable v.1 v.2)

/-- A waiting request can be served now (R96): its words are there or can be had by spilling, no older block's refill is possible, and no
older block waits for its refill at all unless the request lies within its block's floor (R97, R98). (DEDUCED, log 19) -/
def State.servable (s : State) (w : PoolWait) : Bool :=
  match s.blocks.get? w.bid with
  | some b =>
    b.state == .resident
      && (w.sid == wholeBlock || (match b.slices.get? w.sid with | some x => x.run == .waiting | none => false))
      && !s.refillFirst b.die b.core b.age
      && (if w.grow then decide (s.floorSum b.die b.core + w.words ≤ s.poolSize b.die b.core) && !s.olderParked b.die b.core b.age
          else (State.requestWords w.bid w.words 20 s).2
            && (decide (s.usedOf w.bid + w.words ≤ b.floor) || !s.olderParked b.die b.core b.age))
  | none => false

/-- The waiters of a core, oldest block first and in the order of their arrival within a block. (DEDUCED, log 19) -/
def State.waitOrder (s : State) (d c : Nat) : List PoolWait :=
  let age := fun (w : PoolWait) => match s.blocks.get? w.bid with | some b => b.age | none => 0
  (s.core d c).waiters.insertionSort (fun a b => age a ≤ age b)

/-- Another request, or an older block's refill, has the turn before a request of slice `sid` of a block: the allocator acts on one request
at a time, in arrival order, and on those that wait oldest block first (R96, R97). (DEDUCED, log 19) -/
def State.mustYield (s : State) (bid sid : Nat) : Bool :=
  match s.blocks.get? bid with
  | none => false
  | some b =>
    ((s.waitOrder b.die b.core).takeWhile (fun w => !(w.bid == bid && w.sid == sid))).any s.servable
      || s.refillFirst b.die b.core b.age

/-- A request of R96 by a slice: at most one spill for each resident block comes before its answer. -/
def State.alloc (s : State) (bid sid n : Nat) : State × Bool :=
  if n = 0 then (s, true)
  else if s.mustYield bid sid then (s, false)
  else State.requestWords bid n 20 s

/-- The registers released or given up by number: a pending register's fill goes on as a Draining entry (R93). -/
def State.dropRegs (s : State) (bid sid : Nat) (ks : List Nat) : State :=
  match s.slice? bid sid with
  | none => s
  | some x =>
    let pends := ks.filter (fun k => (x.reg k).isPend)
    let s1 := s.modSlice bid sid (fun y =>
      { ks.foldl (fun z k => z.setReg k .empty) y with spilled := y.spilled.filter (fun k => !ks.contains k) })
    pends.foldl (fun s k =>
      { s with fills := s.fills.map (fun f =>
          if f.2.bid == bid && f.2.sid == sid && f.2.regs.contains k then
            let rest := f.2.regs.filter (fun r => r != k)
            (f.1, { f.2 with regs := rest, words := f.2.words + f.2.target.words, draining := rest.isEmpty })
          else f) }) s1

end Sys2Proof.Machine
end

