-- ==== Sys2Proof/Machine/Ops.lean ====
section
/-! DEFINITION. The shared operations over the state: the error log (R396), tokens (R311), the end of entries, slices,
blocks, nodes and contexts (R153, R314, R339, R381), taking an exception (R393 to R395) and the return from one
(R400). -/

namespace Sys2Proof.Machine

/-! ### The error log (R396) -/

/-- A log entry (R396). -/
structure LogRec where
  cause : Half
  die : Nat
  core : Nat := 0xFF
  slice : Nat := 0xFFFF
  flags : Nat
  block : Nat := 0xFFFFFFFF
  lanes : Nat := 0
  pc : Nat := 0
  addr : Nat := 0
  deriving DecidableEq, Repr

/-- The 32 bytes of a log entry. -/
def LogRec.bytes (e : LogRec) : List Byte :=
  leBytes 2 e.cause.toNat ++ leBytes 1 e.die ++ leBytes 1 e.core ++ leBytes 2 e.slice ++ leBytes 2 e.flags
    ++ leBytes 4 e.block ++ leBytes 4 e.lanes ++ leBytes 8 e.pc ++ leBytes 8 e.addr

/-- One entry appended to a context's log, and LOGCOUNT raised (R396). -/
def State.log (s : State) (ctx : Nat) (e : LogRec) : State :=
  match s.ctxs.get? ctx with
  | none => s
  | some c =>
    let n := c.logCount
    let s1 := s.store c.recDie (c.recPa + 0x800 + 32 * (n.toNat % 64)) e.bytes
    let s2 := s1.store c.recDie (c.recPa + 0x7F8) (leBytes 8 (n + 1).toNat)
    s2.modCtx ctx (fun x => { x with logCount := x.logCount + 1 })

/-! ### Tokens (R310, R311) -/

/-- The token of a record (R310). -/
def makeToken (die queue idx ctx : Nat) (gen : Word) : Dword :=
  BitVec.ofNat 64 (die * 2 ^ 61 + queue * 2 ^ 58 + idx * 2 ^ 44 + ctx * 2 ^ 32 + gen.toNat)

/-- DIE of a token. -/
def tokDie (t : Dword) : Nat := bitsOf t.toNat 63 61
/-- QUEUE of a token. -/
def tokQueue (t : Dword) : Nat := bitsOf t.toNat 60 58
/-- INDEX of a token. -/
def tokIndex (t : Dword) : Nat := bitsOf t.toNat 57 44
/-- CTX of a token. -/
def tokCtx (t : Dword) : Nat := bitsOf t.toNat 43 32
/-- GEN of a token. -/
def tokGen (t : Dword) : Word := BitVec.ofNat 32 t.toNat

/-- The record of a token index: one not used since reset has generation 0 (R311). -/
def Die.tokRec (x : Die) (i : Nat) : TokRec :=
  (x.tokens.get? i).getD ⟨0, .done, .die, 0, 0, 0, false, Clock.zero⟩

/-- A free record of a die's token table exists (R311). -/
def Die.tokFree (x : Die) : Bool := decide (x.unused < 16384) || !x.freeTokens.isEmpty

/-- An issue takes the free record that completed longest ago and advances its generation, passing over 0 (R311). -/
def State.takeToken (s : State) (die queue ctx : Nat) (scope : Scope) : Dword × State :=
  let x := s.die die
  let i := if x.unused < 16384 then x.unused else x.freeTokens.headD 0
  let g0 := (x.tokRec i).gen + 1
  let g := if g0 = 0 then 1 else g0
  let r : TokRec := ⟨g, .queued, scope, 0, 0, 0, false, Clock.zero⟩
  (makeToken die queue i ctx g,
   s.modDie die (fun x => { x with
     tokens := x.tokens.put i r,
     unused := if x.unused < 16384 then x.unused + 1 else x.unused,
     freeTokens := if x.unused < 16384 then x.freeTokens else x.freeTokens.tail }))

/-- A token's record changed. -/
def State.modTok (s : State) (t : Dword) (f : TokRec → TokRec) : State :=
  s.modDie (tokDie t) (fun x => { x with tokens := x.tokens.put (tokIndex t) (f (x.tokRec (tokIndex t))) })

/-- A record completed: its state and cause stand, and it is free from now on (R311). The null token has none. -/
def State.finishToken (s : State) (t : Dword) (failed : Bool) (cause : Half) (bytes : Nat) (addr : Dword) : State :=
  if t = 0 then s
  else
    let s1 := s.modTok t (fun r =>
      { r with state := if failed then .failed else .done, cause := cause, bytes := bytes, addr := addr })
    s1.modDie (tokDie t) (fun x => { x with freeTokens := x.freeTokens ++ [tokIndex t] })


/-! ### Saved blocks (R191, R346, R384) -/

/-- Where a section of a packed image starts: those after the fixed part, GROUPS and STREAM, in their order (R384). -/
def packedAt (p : List Byte) (sec : Nat) : Nat := leNat ((p.drop (0x0C + 4 * sec)).take 4)

/-- Bytes of a section of a saved block: from its image in the shadow store, else from its save area, where the section lies at `va`
(R191, R383). -/
def State.savedRead (s : State) (bid : Nat) (b : Block) (sec va o n : Nat) : List Byte :=
  match (s.die b.die).shadowMem.get? bid with
  | some p => (p.drop (packedAt p sec + o)).take n
  | none => s.privRead b.ctx (va + o) n

/-- Bytes of a section of a saved block written where its image is (R191, R383). -/
def State.savedWrite (s : State) (bid : Nat) (b : Block) (sec va o : Nat) (data : List Byte) : State :=
  match (s.die b.die).shadowMem.get? bid with
  | some p => s.modDie b.die (fun x => { x with shadowMem := x.shadowMem.put bid (patchBytes p (packedAt p sec + o) data) })
  | none => s.privWrite b.ctx (va + o) data

/-! ### Scratchpad presence (R187, R188) -/

/-- The presence record of a window line. -/
def Block.presence (b : Block) (line : Nat) : Presence := (b.pres.get? line).getD ⟨.present, 0, 0⟩

/-- A presence record set; a line that has been Present throughout is not listed. -/
def Block.setPresence (b : Block) (line : Nat) (p : Presence) : Block :=
  if p = ⟨.present, 0, 0⟩ then { b with pres := b.pres.erase line }
  else { b with pres := b.pres.put line p }

/-- Absent-since of R187: bits [63:8] of the die's cycle counter. -/
def State.sinceNow (s : State) (die : Nat) : BitVec 56 := BitVec.ofNat 56 ((s.die die).cycle.toNat / 256)

/-- "Copy issued" of R188 on one line. -/
def Presence.issued (p : Presence) (now : BitVec 56) : Presence :=
  ⟨.absent, p.n + 1, if p.state = .absent then p.since else now⟩

/-- "A copy's last byte for the line lands" of R188. -/
def Presence.landed (p : Presence) : Presence :=
  match p.state with
  | .absent => if p.n ≤ 1 then { p with state := .present, n := 0 } else { p with n := p.n - 1 }
  | _ => { p with n := p.n - 1 }

/-- "Copy cancelled before its last byte for the line" of R188. -/
def Presence.cancelled (p : Presence) : Presence := { p with state := .abandoned, n := p.n - 1 }

/-- The place of a saved block's presence records in its save area (R346). -/
def Block.presenceVa (b : Block) : Nat :=
  let rg := 0x111800 + b.nslices * 0x500
  let w := (rg + b.nslices * 8 + 1023) / 1024 * 1024
  b.saveVa.toNat + w + b.scratch

/-- The place of a saved block's window in its save area (R346). -/
def Block.windowVa (b : Block) : Nat :=
  let rg := 0x111800 + b.nslices * 0x500
  b.saveVa.toNat + (rg + b.nslices * 8 + 1023) / 1024 * 1024

/-- The place of a saved block's accumulator region in its save area (R346). -/
def Block.accVa (b : Block) : Nat :=
  b.saveVa.toNat + (b.presenceVa - b.saveVa.toNat + b.scratch / 16 + 1023) / 1024 * 1024

/-- The eight bytes of a presence record (R191). -/
def Presence.bytes (p : Presence) : List Byte :=
  leBytes 8 ((match p.state with | .present => 0 | .absent => 1 | .abandoned => 2) + 4 * p.n + 256 * p.since.toNat)

/-- A presence record of R191 read back. -/
def Presence.ofNat (x : Nat) : Presence :=
  ⟨match bitsOf x 1 0 with | 0 => .present | 1 => .absent | _ => .abandoned, bitsOf x 5 2, BitVec.ofNat 56 (x / 256)⟩

/-- The presence record of a line of a saved block (R191). -/
def State.savedPresence (s : State) (bid : Nat) (b : Block) (line : Nat) : Presence :=
  Presence.ofNat (leNat (s.savedRead bid b 4 b.presenceVa (8 * line) 8))

/-- One presence record changed, in the core store or, while the block is saved, in the saved image (R191). A block
that has retired keeps only the counts of its outstanding copies (R192). -/
def State.modPresence (s : State) (bid line : Nat) (f : Presence → Presence) : State :=
  match s.blocks.get? bid with
  | none => s
  | some b =>
    if b.state = .saved then
      s.savedWrite bid b 4 b.presenceVa (8 * line) (f (s.savedPresence bid b line)).bytes
    else
      let p := f (b.presence line)
      let p := if b.state = .retired && p.n = 0 then ⟨.present, 0, 0⟩ else p
      s.modBlock bid (fun b => b.setPresence line p)

/-! ### Engine entries that end (R314) -/

/-- A fence entry, which is never cancelled (R326). -/
def EntryKind.isFence (k : EntryKind) : Bool := match k with | .fence _ => true | _ => false

/-- The peer is a die of this package. (DEDUCED, log 57) -/
def State.ownPeer (s : State) (peer : Nat) : Bool := peer / 8 == s.fuses.pkg

/-- The peer codes of a slot's members (R408). -/
def slotMembers (w : Word) : List Nat :=
  bitsOf w.toNat 13 0 :: (if w.getLsbD 15 then [bitsOf w.toNat 29 16] else [])

/-- A collective entry tells the members of a list in other packages (R411). (DESIGN CHOICE, log 129) -/
def State.tellPeers (s : State) (e : Entry) (peers : List Nat) (what : CollWhat) : State :=
  match e.kind with
  | .ring r _ => { s with collOut := s.collOut ++ (peers.filter (fun p => !s.ownPeer p)).map (fun p => ⟨e.ctx, e.die, r.key, r.mySlot, p, what⟩) }
  | _ => s

/-- A collective entry tells every member of its table in another package. -/
def State.tellMembers (s : State) (e : Entry) (what : CollWhat) : State :=
  match e.kind with
  | .ring r _ => s.tellPeers e (r.slots.flatMap slotMembers) what
  | _ => s

/-- An entry that fails, or that is cancelled: *abandon* of R314 on every line it still owes bytes. A fence is never cancelled (R326), and a
collective entry withdraws, unless what fails it is a missing rank (R411). -/
def State.failEntry (s : State) (eid : Nat) (cause : Half) (addr : Dword) : State :=
  match s.entries.get? eid with
  | none => s
  | some e =>
    if e.kind.isFence then s
    else match e.state with
    | .queued | .running =>
      let s0 := e.lines.foldl (fun s l => s.modPresence l.1 l.2 Presence.cancelled) s
      let s1 := if cause = 0x0703 then s0 else s0.tellMembers e .withdraw
      s1.modEntry eid (fun e => { e with state := .ending true, cause := cause, addr := addr, lines := [] })
    | _ => s

/-- A piece of an entry fails (R314): the cause is logged, the entry fails, and nothing further of the piece is written (R313). -/
def State.failPiece (s : State) (eid : Nat) (cause : Half) (addr : Dword) : State :=
  match s.entries.get? eid with
  | none => s
  | some e =>
    let (core, idx) := match e.bid.bind (fun b => s.blocks.get? b) with
      | some b => (b.core, b.idx.toNat)
      | none => (0xFF, 0xFFFFFFFF)
    let s1 := match e.state with
      | .queued | .running =>
        s.log e.ctx { cause := cause, die := e.die, core := core, slice := if e.bid.isSome then e.sid else 0xFFFF, flags := 4,
                      block := idx, pc := e.token.toNat, addr := addr.toNat }
      | _ => s
    (s1.modEntry eid (fun x => { x with sent := false, todo := [] })).failEntry eid cause addr

/-! ### Slices and blocks that end (R153, R167) -/

/-- The slices of a part, in ascending slice id. -/
def Block.partMembers (b : Block) (p : Nat) : List Nat :=
  (b.slices.filter (fun x => x.2.part == p && x.2.run != .ended)).map (fun x => x.1)

/-- A part given the lowest id of its members as its number (R145). -/
def Block.renumber (b : Block) (members : List Nat) : Block :=
  match members with
  | [] => b
  | m :: _ => members.foldl (fun b i => b.modSlice i (fun x => { x with part := m })) b

/-- A slice leaves its part and becomes a part of one; the rest are renumbered (R147). -/
def Block.leavePart (b : Block) (sid : Nat) : Block :=
  match b.slices.get? sid with
  | none => b
  | some x =>
    let rest := (b.partMembers x.part).filter (fun i => i != sid)
    (b.renumber rest).modSlice sid (fun y => { y with part := sid })

/-- A member removed from a group's current set and from its waiters; an empty group is Free (R158). `f` gives the
member that a waiter belongs to. -/
def Group.leave (g : Group) (f : Nat → Nat) (m : Nat) : Group :=
  let cur := g.current.filter (fun i => i != m)
  { g with current := cur, waiting := g.waiting.filter (fun i => f i != m),
           state := if cur.isEmpty then 0 else g.state }

/-- A block leaves a block group (R157). -/
def Group.leaveBlock (g : Group) (bid : Nat) : Group := g.leave (fun c => c / 256) bid

/-- A group after a block has ended (R157, R158): one of which it was no member is as it was. -/
def Group.without (g : Group) (bid : Nat) : Group := if g.state ≠ 0 && g.current.contains bid then g.leaveBlock bid else g

/-- A slice leaves every slice group of its block (R167). -/
def Block.leaveGroups (b : Block) (sid : Nat) : Block :=
  { b with groups := b.groups.map (fun g =>
      (g.1, if g.2.state ≠ 0 && g.2.current.contains sid then g.2.leave id sid else g.2)) }

/-- The live slices of a block. -/
def Block.live (b : Block) : List (Nat × Slice) := b.slices.filter (fun x => x.2.run != .ended)

/-- A slice's architectural state ends (R167): registers released, groups and part left. -/
def State.endSlice (s : State) (bid sid : Nat) : State :=
  let s1 := s.dropRegs bid sid (List.range 60)
  s1.modBlock bid (fun b =>
    ((b.leaveGroups sid).leavePart sid).modSlice sid (fun x =>
      { x with run := .ended, regs := [], latches := noLatches, latchSources := [], prog := .fresh, pend := false, faults := [],
               spilled := [], crossHome := none }))

/-- A physical slot released (R279, R287): its name unbound. -/
def PSlot.release (p : PSlot) : PSlot := { p with name := none }

/-- A block's slots with those that are Free dropped (R279). -/
def dropFreeSlots (t : Tab PSlot) : Tab PSlot := t.filter (fun p => p.2.name.isSome || p.2.f != 0 || p.2.k != 0)

/-- A stream entry no longer reads its slots (R279): each is counted once. -/
def Block.dropReads (b : Block) (e : SEntry) : Block :=
  let ks := e.slots.dedup
  { b with slots := dropFreeSlots (b.slots.map (fun p => (p.1, if ks.contains p.1 then { p.2 with k := p.2.k - 1 } else p.2))) }

/-- The stream entries that have not begun are discarded (R287). -/
def Block.discardStream (b : Block) : Block :=
  let gone := b.stream.filter (fun e => !e.begun)
  let b1 := gone.foldl (fun b e => b.dropReads e) b
  { b1 with stream := b.stream.filter (fun e => e.begun) }

/-- The mixing function of R354 and R355. -/
def mix64 (z0 : Dword) : Dword :=
  let z1 := (z0 ^^^ (z0 >>> 30)) * 0xBF58476D1CE4E5B9#64
  let z2 := (z1 ^^^ (z1 >>> 27)) * 0x94D049BB133111EB#64
  z2 ^^^ (z2 >>> 31)

/-- A line that a block accesses in its round (R352). -/
def Block.touch (b : Block) (d pa : Nat) : Block :=
  let k := physKey d pa / 1024
  if b.touched.contains k then b else { b with touched := k :: b.touched }

/-- Bytes written into a block's round buffer (R349), translated before request `n`. -/
def Block.roundWrite (b : Block) (n : Nat) (alloc : Bool) (sid d pa va : Nat) (data : List Byte) : Block :=
  let keep := b.roundBytes.filter (fun r => !(r.die == d && r.sid == sid && decide (pa ≤ r.pa) && decide (r.pa < pa + data.length)))
  let new := data.zipIdx.map (fun p => { die := d, pa := pa + p.2, byte := p.1, sid := sid, va := va + p.2, seq := n, alloc := alloc : BufByte })
  { b.touch d pa with roundBytes := keep ++ new }

/-- Writes of engines and drains become writes of their ordered block (R351). -/
def Block.observe (b : Block) (p : Late → Bool) : Block :=
  let b1 := (b.late.filter p).foldl (fun b w => b.roundWrite w.seq w.alloc w.sid w.die w.pa w.va w.data) b
  { b1 with late := b.late.filter (fun w => !p w) }

/-- The packed image of a block leaves its die's shadow store, which is free again with the last of them (R383, R384). -/
def State.dropShadowImage (s : State) (d bid : Nat) : State :=
  s.modDie d (fun x => { x with
    shadowMem := x.shadowMem.erase bid,
    shadow := if (x.shadowMem.get? bid).isSome && (x.shadowMem.erase bid).isEmpty then none else x.shadow })

/-- The presence records of a block's window, in the core store or in the saved image (R191). -/
def State.presences (s : State) (bid : Nat) (b : Block) : Tab Presence :=
  if b.state = .saved then (List.range ((b.scratch + 127) / 128)).map (fun l => (l, s.savedPresence bid b l)) else b.pres

/-- R153: a block retires, with an error or without; its window stays allocated while copies into it are outstanding (R192). -/
def State.endBlock (s : State) (bid : Nat) (err : Option Half) : State :=
  match s.blocks.get? bid with
  | none => s
  | some b0 =>
    if b0.state = .retired then s
    else
      let s1 := (b0.live.map (fun x => x.1)).foldl (fun s i => s.endSlice bid i) s
      let s2 := (s1.modBlock bid (fun b => (if err.isSome then b.discardStream else b).observe (fun _ => true))).modBlock bid (fun b => { b with
        state := .retired, error := err, groups := [],
        slots := dropFreeSlots (b.slots.map (fun p => (p.1, p.2.release))),
        pres := (s.presences bid b0).filter (fun p => p.2.n != 0) })
      let s3 := s2.modDie b0.die (fun x => { x with
        groups := x.groups.map (fun g => (g.1, g.2.without bid)),
        waitingSet := x.waitingSet.filter (fun w => !(w.1 == 1 && w.2 == bid)) })
      let s4 := ((s3.freeMonitors bid).dropShadowImage b0.die bid).modCore b0.die b0.core (fun c =>
        { c.leavePorts bid with waiters := c.waiters.filter (fun w => w.bid != bid) })
      let s5 := s4.modCtx b0.ctx (fun c => { c with
        saveUsed := c.saveUsed.filter (fun u => u.2.1 != b0.saveVa.toNat)
        groups := (c.groups.map (fun g => (g.1, g.2.1, g.2.2.without bid))).filter (fun g => g.2.2.state != 0) })
      let s6 := if err.isSome then
          (s5.entries.filter (fun e => e.2.bid == some bid && e.2.attached)).foldl
            (fun s e => s.failEntry e.1 0x0506 0) s5
        else s5
      if b0.shadowOf.isSome then s6
      else s6.modNode b0.node (fun n => { n with blocksDone := n.blocksDone ++ [(b0.idx.toNat, err)] })

/-! ### Nodes (R339) -/

/-- A failed attached entry of a number noted at its node: the first in the order of issue gives the node's cause (R339). -/
def Node.noteFail (x : Node) (k : Nat) (c : Half) : Node :=
  { x with attachedFail := match x.attachedFail with
      | some (j, d) => if j ≤ k then some (j, d) else some (k, c)
      | none => some (k, c) }

/-- A node ends in Failed and its token completes (R339). -/
def State.failNode (s : State) (n : Nat) (cause : Half) : State :=
  match s.nodes.get? n with
  | none => s
  | some x =>
    let s1 := s.modNode n (fun x => { x with state := .failed, cause := cause, leases := [], leased := false })
    s1.finishToken x.token true cause 0 0

/-- A node is cancelled (R339): a waiting or leasing one fails; a running one retires its unplaced blocks and
discards its saved ones. Answers whether this changed the node. -/
def State.cancelNode (s : State) (n : Nat) : State × Bool :=
  match s.nodes.get? n with
  | none => (s, false)
  | some x =>
    match x.state with
    | .waiting | .leasing => (s.failNode n 0x050C, true)
    | .running =>
      if x.cancelled then (s, false)
      else
        let total := match x.body with | .kernel _ k _ _ => k.toNat | _ => 0
        let s1 := s.modNode n (fun x => { x with
          cancelled := true, unplacedRetired := x.unplacedRetired + (total - x.placed), placed := max x.placed total })
        let saved := s1.blocks.filter (fun b => b.2.node == n && b.2.state == .saved)
        (saved.foldl (fun s b => s.endBlock b.1 (some 0x050C)) s1, true)
    | _ => (s, false)

/-! ### Contexts that end (R381, R382) -/

/-- A context moves to Ending with a cause (R381, R382): its blocks end with that cause and no log entry, resident and saved ones alike; its nodes
are cancelled, and its entries fail. One that is being saved or restored ends once that is done; the first cause counts. -/
def State.beginEnding (s : State) (ctx : Nat) (cause : Half) : State :=
  match s.ctxs.get? ctx with
  | none => s
  | some c =>
    match c.state with
    | .free => s
    | .ending => s
    | .ended => s
    | .swappingOut => s.modCtx ctx (fun c => { c with cause := if c.cause = 0 then cause else c.cause })
    | .swappingIn => s.modCtx ctx (fun c => { c with cause := if c.cause = 0 then cause else c.cause })
    | _ =>
      let s1 := s.modCtx ctx (fun c => { c with state := .ending, cause := cause })
      let s2 := (s1.blocks.filter (fun b => b.2.ctx == ctx)).foldl (fun s b => s.endBlock b.1 (some cause)) s1
      let s3 := (s2.nodes.filter (fun n => n.2.ctx == ctx)).foldl (fun s n => (s.cancelNode n.1).1) s2
      (s3.entries.filter (fun e => e.2.ctx == ctx)).foldl (fun s e => s.failEntry e.1 0x0506 0) s3

/-! ### Taking an exception (R393 to R395) -/

/-- A context is in a state. -/
def State.ctxIs (s : State) (ctx : Nat) (x : CtxState) : Bool := match s.ctxs.get? ctx with | some c => c.state == x | none => false

/-- *Escalation* (R395): the block ends with error, the cause is logged, and ESC is applied. -/
def State.escalate (s : State) (bid sid : Nat) (cause : Half) (addr pc : Dword) (lanes : BitVec 4) : State :=
  match s.blocks.get? bid with
  | none => s
  | some b =>
    let esc := match s.ctxs.get? b.ctx with | some c => c.esc | none => 0
    let s1 := s.log b.ctx { cause := cause, die := b.die, core := b.core, slice := sid, flags := 1,
                            block := b.idx.toNat, lanes := lanes.toNat, pc := pc.toNat, addr := addr.toNat }
    let s2 := s1.endBlock bid (some cause)
    match esc with
    | 0 => s2
    | 1 => (s2.cancelNode b.node).1
    | _ => if s2.ctxIs b.ctx .running then s2.beginEnding b.ctx cause else ((s2.cancelNode b.node).1).beginEnding b.ctx cause

/-- The frame that a trap writes, with what the slice saves (R393). -/
def Slice.trapFrame (x : Slice) (cause : Half) (addr : Dword) (lanes : BitVec 4) (len : Nat) : Frame :=
  { inTrap := true, taken := true, cause := cause, addr := addr, pc := x.pc,
    next := x.pc + BitVec.ofNat 64 (4 * len), lanes := lanes, mode := x.mode, mask := x.mask,
    mstack := x.mstack, latches := x.savedLatches }

/-- A slice as it enters its trap entry (R100, R144, R393). -/
def Slice.enterTrap (x : Slice) (entry : Dword) (cause : Half) (addr : Dword) (lanes : BitVec 4) (len : Nat) : Slice :=
  { x with frame := x.trapFrame cause addr lanes len, mode := 0, mask := 0xF, mstack := [], latches := noLatches,
           pc := entry, run := .running, prog := .fresh, pend := false, clearing := true, cleared := true, latchSources := [], opc := none }

/-- A slice abandons its wait (R152): what it had outstanding goes on without it, and its monitors are freed. -/
def State.abandonWait (s : State) (bid sid : Nat) : State :=
  let s1 := { s with fills := s.fills.map (fun (f : Nat × Fill) =>
    if f.2.bid == bid && f.2.sid == sid && f.2.regs.isEmpty then (f.1, { f.2 with draining := true }) else f) }
  { s1 with dies := s1.dies.map (fun (d : Nat × Die) =>
      (d.1, { d.2 with monitors := d.2.monitors.filter (fun m => !(m.2.bid == bid && m.2.sid == sid)) })) }

/-- A fault is taken by its slice (R393). `len` is the instruction's length in words; `cross` says that the
instruction is a cross-lane one, whose faulting slice stays in the issue set (R136). -/
def State.trap (s : State) (bid sid : Nat) (cause : Half) (addr : Dword) (lanes : BitVec 4) (len : Nat)
    (cross : Bool) : State :=
  match s.blocks.get? bid with
  | none => s
  | some b =>
    match b.slices.get? sid with
    | none => s
    | some x =>
      let s0 := s.modBlock bid (fun b => { b with causes := if b.causes.contains cause then b.causes else cause :: b.causes })
      match b.trapEntry with
      | none => s0.escalate bid sid cause addr x.pc lanes
      | some entry =>
        if x.frame.inTrap || cause = 0x0309 then s0.escalate bid sid cause addr x.pc lanes
        else
          let logh := match s.ctxs.get? b.ctx with | some c => c.logh | none => false
          let s1 := if logh then
              s0.log b.ctx { cause := cause, die := b.die, core := b.core, slice := sid, flags := 2,
                             block := b.idx.toNat, lanes := lanes.toNat, pc := x.pc.toNat, addr := addr.toNat }
            else s0
          let s2 := s1.modCore b.die b.core (fun c => { c with
            waiters := c.waiters.filter (fun w => !(w.bid == bid && w.sid == sid)) })
          (s2.abandonWait bid sid).modBlock bid (fun b =>
            let b1 := if cross then b else b.leavePart sid
            b1.modSlice sid (fun y =>
              { y.enterTrap entry cause addr lanes len with
                crossHome := if cross then some x.pc else none }))

/-- The slice after a return from its trap entry to an address (R400). -/
def Slice.leaveTrap (x : Slice) (target : Dword) : Slice :=
  { x with mode := x.frame.mode, mask := x.frame.mask, mstack := x.frame.mstack, latches := x.frame.latches,
           frame := { x.frame with inTrap := false }, pc := target }

end Sys2Proof.Machine
end

