-- ==== Sys2Proof/Machine/Operands.lean ====
section
/-! DEFINITION. Operand forms and the frame of an instruction: the checks of R52, the operands of R33 to R38, the guard and
the overrides of R43 to R46, the writes of R90, the latches of R39 and R40, and completion (R115). -/

namespace Sys2Proof.Machine

/-! ### The encoding table of an instruction -/

/-- What a source field names (R34, R36, R114): nothing; an operand of the effective type; one register; a pair; the
uniform forms of these (R88); a predicate (R131); a run of data registers (R204); a run of two elements (R434); the first of a
run whose rest the instruction reads itself (R198), and its uniform form; a register or latch named and not read (R107). -/
inductive Src where
  | no | ty | w32 | w64 | uty | u32 | u64 | pr | run | two | first | ufirst | raw
  deriving DecidableEq, Repr

/-- What the destination field names: nothing; a result of the effective type; one register; a pair; a predicate; a run of
registers (R204); a run of eight (R398). -/
inductive Dst where
  | no | ty | w32 | w64 | pd | run | eight
  deriving DecidableEq, Repr

/-- Where an instruction takes its type (R46): it has none; the effective type of R46; TOV alone (R105, R135). -/
inductive TyRule where
  | none
  | eff (ok : Nat → Bool)
  | tov (ok : Nat → Bool)

/-- Whether an instruction takes a rounding or a saturation: no; the effective one of R46; the extension word's alone
(R135). -/
inductive OvRule where
  | no | eff | ext
  deriving DecidableEq, Repr

/-- What the literal of a three-word form is (R37, R38): source b; a role of the entry's own. -/
inductive LitRole where
  | srcb | role
  deriving DecidableEq, Repr

/-- One row of the encoding tables of the spec. -/
structure Enc where
  opc : Nat
  lens : List Nat
  dst : Dst := .no
  sa : Src := .no
  sb : Src := .no
  sc : Src := .no
  types : TyRule := .none
  rov : OvRule := .no
  sat : OvRule := .no
  gov0 : Bool := false
  md : Nat := 0
  imm : Bool := false
  lit : LitRole := .srcb
  extra : Fields → Nat → Bool := fun _ _ => true

/-- MOD of an instruction as a number. -/
def modOf (f : Fields) : Nat := f.ext.md.toNat

/-! ### Overrides and the guard (R42 to R46) -/

/-- A code of GOV or mode.GUARD that is not reserved (R43). -/
def guardOk (g : Nat) : Bool := g ≤ 1 || (8 ≤ g && g ≤ 23)

/-- The effective guard's code (R46). -/
def effGuard (f : Fields) (mode : Word) : Nat :=
  if f.ext.gov.toNat ≠ 0 then f.ext.gov.toNat else bitsOf mode.toNat 4 0

/-- The lanes that a guard code selects (R43). -/
def guardLanes (g : Nat) (preds : List (BitVec 4)) : BitVec 4 :=
  if 8 ≤ g && g ≤ 15 then preds.getD (g - 8) 0
  else if 16 ≤ g && g ≤ 23 then ~~~(preds.getD (g - 16) 0)
  else 0xF

/-- The effective type's code under a row's rule (R46). -/
def Enc.typeOf (e : Enc) (f : Fields) (mode : Word) : Nat :=
  match e.types with
  | .none => 0
  | .eff _ => if f.ext.tov.toNat ≠ 0 then f.ext.tov.toNat else bitsOf mode.toNat 9 5
  | .tov _ => f.ext.tov.toNat

/-- The effective rounding under a row's rule (R45, R46). -/
def Enc.rndOf (e : Enc) (f : Fields) (mode : Word) : Nat :=
  let r := f.ext.rov.toNat
  match e.rov with
  | .no => 1
  | .ext => if r ≠ 0 then r else 1
  | .eff => if r ≠ 0 then r else if bitsOf mode.toNat 12 10 ≠ 0 then bitsOf mode.toNat 12 10 else 1

/-- The effective saturation under a row's rule (R46). -/
def Enc.satOf (e : Enc) (f : Fields) (mode : Word) : Bool :=
  match e.sat with
  | .no => false
  | .ext => f.ext.sat
  | .eff => f.ext.sat || mode.getLsbD 13

/-! ### Legal encodings (R32 to R38, R46) -/

/-- The latches empty at this instruction (R40). -/
def clearsLatches (opc : Nat) (y : Bool) : Bool :=
  y || (decide (0x60 ≤ opc) && !([0xEC, 0xED, 0xEE, 0xEF, 0xF0, 0xF3].contains opc))

/-- The vector count of MOD[1:0] (R204). -/
def countOf (f : Fields) : Nat := 2 ^ (modOf f % 4)

/-- How many registers a source spans under a type. -/
def Src.span (r : Src) (ty : Nat) (f : Fields) : Nat :=
  match r with
  | .no => 0 | .pr => 0 | .first => 1 | .ufirst => 1 | .raw => 1
  | .ty => if typeWide ty then 2 else 1
  | .uty => if typeWide ty then 2 else 1
  | .w32 => 1 | .u32 => 1
  | .w64 => 2 | .u64 => 2
  | .run => countOf f * (if typeWide ty then 2 else 1)
  | .two => if typeWide ty then 4 else 2

/-- A source field and its last-use bit are legal for its role (R32, R34, R36, R131, R204). -/
def Src.fieldOk (r : Src) (ty : Nat) (f : Fields) (x : Nat) (last : Bool) : Bool :=
  match r with
  | .no => x == 0 && !last
  | .pr => decide (x ≤ 7) && !last
  | .first => decide (x < 60)
  | .ufirst => decide (x < 60)
  | .run => x % Src.span .run ty f == 0 && decide (x + Src.span .run ty f ≤ 60)
  | .two => x % Src.span .two ty f == 0 && decide (x + Src.span .two ty f ≤ 60)
  | r => if 60 ≤ x then !last else (r.span ty f ≠ 2 || x % 2 == 0)

/-- How many registers a destination spans under a type. -/
def Dst.span (r : Dst) (ty : Nat) (f : Fields) : Nat :=
  match r with
  | .no => 0 | .pd => 0
  | .ty => if typeWide ty then 2 else 1
  | .w32 => 1
  | .w64 => 2
  | .run => countOf f * (if typeWide ty then 2 else 1)
  | .eight => 8

/-- The destination writes a v register. -/
def Dst.isReg (r : Dst) : Bool :=
  match r with
  | .no => false | .pd => false
  | _ => true

/-- A destination field is legal for its role (R33, R36, R204, R398). -/
def Dst.fieldOk (r : Dst) (ty : Nat) (f : Fields) (x : Nat) : Bool :=
  match r with
  | .no => x == 0
  | .pd => decide (x ≤ 7)
  | r => x % r.span ty f == 0 && decide (x + r.span ty f ≤ 60)

/-- The encoding passes step 6 of R52 (and step 5: the length). -/
def Enc.legal (e : Enc) (f : Fields) (mode : Word) : Bool :=
  let x := f.ext
  let ty := e.typeOf f mode
  let three := f.lit?.isSome
  let litB := three && e.lit == .srcb && (e.sb != .no || e.imm)
  e.lens.contains f.len
    && (!f.n || (f.dst == 0 && e.dst.isReg && !clearsLatches e.opc f.y))
    && e.dst.fieldOk ty f f.dst.toNat
    && e.sa.fieldOk ty f f.sa.toNat f.la
    && (if litB then f.sb == 0 && !f.lb
        else if e.imm then true else e.sb.fieldOk ty f f.sb.toNat f.lb)
    && e.sc.fieldOk ty f x.sc.toNat x.lc
    && (if e.gov0 then x.gov == 0 else guardOk x.gov.toNat)
    && (match e.types with
        | .none => x.tov == 0
        | .eff ok => ok ty
        | .tov ok => ok ty)
    && (match e.rov with
        | .no => x.rov == 0
        | _ => x.rov != 7)
    && (e.sat != .no || !x.sat)
    && (modOf f &&& e.md) == modOf f
    && e.extra f ty

/-! ### Reading operands (R34 to R38, R52 steps 7 to 9) -/

/-- An operand as read: its tag, the tag of the odd register of a pair, its four values, and the registers of a run. -/
structure Opd where
  tag : Tag
  tag1 : Tag
  v : Quad Dword
  run : List (Quad Word)
  deriving DecidableEq, Repr, Inhabited

/-- The operand that nothing names. -/
def Opd.none : Opd := ⟨.u, .u, Quad.all 0, []⟩

/-- The operand has tag U in every register (R88). -/
def Opd.uniform (o : Opd) : Bool := o.tag = .u && o.tag1 = .u

/-- Lane 0 of an operand, which is the value of a uniform one. -/
def Opd.scalar (o : Opd) : Nat := o.v.l0.toNat

/-- Two registers joined into 64-bit lanes. -/
def joinPair (lo hi : Quad Word) : Quad Dword :=
  Quad.ofFn (fun l => (hi.get l) ++ (lo.get l))

/-- The registers that a source names: none for a latch or a literal. -/
def srcRegs (r : Src) (ty : Nat) (f : Fields) (x : Nat) : List Nat :=
  if 60 ≤ x then [] else (List.range (r.span ty f)).map (fun i => x + i)

/-- A literal as source b (R38): its register image, widened for a 64-bit type. A literal that is a NaN in binary32 becomes the canonical
NaN of f64. (DESIGN CHOICE, log 121) -/
def litValue (wide : Bool) (ty : Nat) (l : Word) : Dword :=
  if !wide then l.setWidth 64
  else if ty = 19 then l.signExtend 64
  else if ty = 2 then BitVec.ofNat 64 (deliver 2 1 0 false false (decodeF 1 l.toNat)).1
  else l.setWidth 64

/-- What a source reads: a latch's entry (R36), a register, a pair or a run. (DEDUCED, log 21) -/
def Slice.source (x : Slice) (r : Src) (ty : Nat) (f : Fields) (k : Nat) : Opd :=
  if 60 ≤ k then
    match x.latch (k - 60) with
    | some l =>
      if r.span ty f = 2 then ⟨l.tag, l.tag, l.v, []⟩
      else ⟨l.tag, l.tag, l.v.map (fun w => w &&& 0xFFFFFFFF#64), []⟩
    | none => Opd.none
  else
    let n := r.span ty f
    let a := x.reg k
    if r = .run || r = .two then ⟨a.tag, a.tag, a.lanes.map (fun w => w.setWidth 64),
      (List.range n).map (fun i => (x.reg (k + i)).lanes)⟩
    else if n = 2 then
      let b := x.reg (k + 1)
      ⟨a.tag, b.tag, joinPair a.lanes b.lanes, []⟩
    else ⟨a.tag, a.tag, a.lanes.map (fun w => w.setWidth 64), []⟩

/-- The three sources of an instruction: role, field and last-use bit; source b is absent where a literal or an
immediate stands for it. -/
def Enc.sources (e : Enc) (f : Fields) : List (Src × Nat × Bool) :=
  let litB := f.lit?.isSome && e.lit == .srcb
  [(e.sa, f.sa.toNat, f.la),
   (if litB || e.imm then .no else e.sb, f.sb.toNat, f.lb),
   (e.sc, f.ext.sc.toNat, f.ext.lc)]

/-- The source reads a v register or a latch. -/
def Src.reads (r : Src) : Bool :=
  match r with
  | .no => false | .pr => false | .raw => false
  | _ => true

/-- What the checks of R52 steps 7 to 9 give. -/
inductive SrcCheck where
  | ok
  | stall
  | bad (cause : Half)
  deriving DecidableEq, Repr

/-- The operand must be uniform (R88). -/
def Src.mustUniform (r : Src) : Bool :=
  match r with
  | .uty => true | .u32 => true | .u64 => true | .ufirst => true
  | _ => false

/-- Step 9 for one source: its empty registers, then its tag. -/
def Slice.srcCause (x : Slice) (ty : Nat) (f : Fields) (p : Src × Nat × Bool) : Option Half :=
  if !p.1.reads then none
  else
    let ks := srcRegs p.1 ty f p.2.1
    if !x.mode.getLsbD 14 && ks.any (fun k => x.reg k = .empty) then some 0x0201
    else if p.1.mustUniform && !(x.source p.1 ty f p.2.1).uniform then some 0x0105
    else none

/-- Steps 7 to 9 of R52 over the sources in the order a, b, c. -/
def Slice.checkSources (x : Slice) (ty : Nat) (f : Fields) (ps : List (Src × Nat × Bool)) : SrcCheck :=
  if ps.any (fun p => p.1.reads && decide (60 ≤ p.2.1) && (x.latch (p.2.1 - 60)).isNone) then .bad 0x0103
  else if ps.any (fun p => p.1.reads && (srcRegs p.1 ty f p.2.1).any (fun k => (x.reg k).isPend)) then .stall
  else match ps.findSome? (x.srcCause ty f) with
    | some c => .bad c
    | none => .ok

/-- The registers released by last-use bits (R35). -/
def releasedRegs (ty : Nat) (f : Fields) (ps : List (Src × Nat × Bool)) : List Nat :=
  ps.flatMap (fun p => if p.2.2 && p.1.reads then srcRegs p.1 ty f p.2.1 else [])

/-- The sources read some empty register, which then sets the sticky status (R92). -/
def Slice.readsEmpty (x : Slice) (ty : Nat) (f : Fields) (ps : List (Src × Nat × Bool)) : Bool :=
  ps.any (fun p => p.1.reads && (srcRegs p.1 ty f p.2.1).any (fun k => x.reg k = .empty))

/-! ### The environment of a meaning, and what it answers -/

/-- What an instruction's meaning is given: the slice that executes it, its effective guard, type, rounding and saturation,
its operands and its MOD. -/
structure Env where
  bid : Nat
  sid : Nat
  b : Block
  x : Slice
  f : Fields
  act : BitVec 4
  ty : Nat
  rnd : Nat
  sat : Bool
  a : Opd
  o : Opd
  c : Opd
  md : Nat
  len : Nat
  deriving Inhabited

/-- One register result: the register, whether it is a pair, the four values, the tags of its registers, whether the
whole register is written (R90), and the lanes that are active for the write. -/
structure RegWrite where
  d : Nat
  wide : Bool
  v : Quad Dword
  t0 : Tag
  t1 : Tag
  whole : Bool
  act : BitVec 4
  deriving DecidableEq, Repr, Inhabited

/-- What a completing instruction does: register results, registers released beside the last-use ones, a predicate,
registers that become pending, what is read after the allocation, the effect on everything else, and the next pc where
control is transferred. -/
structure Out where
  regs : List RegWrite := []
  rels : List Nat := []
  pred : Option (Nat × BitVec 4) := none
  fills : List Nat := []
  fillTag : Tag := .g
  fix : State → List RegWrite → List RegWrite := fun _ r => r
  eff : State → State := fun s => s
  pc : Option Dword := none

/-- What a meaning answers: it completes, from the state it began in or from one it has changed; it raises a cause (R6),
likewise; or it waits (R152) with what it has done so far. -/
inductive Res where
  | done (o : Out)
  | doneIn (s : State) (o : Out)
  | raise (cause : Half) (addr : Dword) (lanes : BitVec 4)
  | raiseIn (s : State) (cause : Half) (addr : Dword) (lanes : BitVec 4)
  | wait (s : State)

/-- The slice that `cur` names, if it can execute: its block resident, itself neither parked, saved nor ended. -/
def State.curSlice (s : State) : Option (Nat × Nat × Block × Slice) :=
  match s.cur with
  | none => none
  | some (bid, sid) =>
    match s.blocks.get? bid with
    | none => none
    | some b =>
      match b.slices.get? sid with
      | none => none
      | some x =>
        if b.state = .resident && (x.run = .running || x.run = .waiting) then some (bid, sid, b, x) else none

/-! ### Completion -/

/-- The low words of four 64-bit values. -/
def loWords (v : Quad Dword) : Quad Word := v.map (fun w => w.setWidth 32)
/-- The high words of four 64-bit values. -/
def hiWords (v : Quad Dword) : Quad Word := v.map (fun (w : Dword) => w.extractLsb' 32 32)

/-- One register result written (R90); a 64-bit result is two (R90). -/
def Slice.applyWrite (x : Slice) (w : RegWrite) : Slice :=
  let x1 := x.setReg w.d (writeV w.act w.whole (loWords w.v) w.t0 (x.reg w.d))
  if w.wide then x1.setReg (w.d + 1) (writeV w.act w.whole (hiWords w.v) w.t1 (x.reg (w.d + 1))) else x1

/-- The registers that a result writes. -/
def RegWrite.targets (w : RegWrite) : List Nat := if w.wide then [w.d, w.d + 1] else [w.d]

/-- The tag of a latch for a pair of registers with two tags (R39). (DESIGN CHOICE, log 22) -/
def pairTag (t0 t1 : Tag) : Tag := if t0 = t1 then t0 else .g

/-- The latch that a completed result leaves (R39, R100). (DESIGN CHOICE, log 22) -/
def latchOf (n : Bool) (w : RegWrite) (x : Slice) : Latch :=
  if n then
    let t := if w.act = 0xF#4 then (if w.wide then pairTag w.t0 w.t1 else w.t0) else if w.act = 0 then .u else .g
    ⟨t, Quad.ofFn (fun l => if w.act.getLsbD l then (if w.wide then w.v.get l else w.v.get l &&& 0xFFFFFFFF#64) else 0)⟩
  else
    let a := x.reg w.d
    if w.wide then
      let b := x.reg (w.d + 1)
      ⟨pairTag a.tag b.tag, joinPair a.lanes b.lanes⟩
    else ⟨a.tag, a.lanes.map (fun w => w.setWidth 64)⟩

/-- A slice with its last-use registers and the others named released, and its results and pending registers in place. -/
def Slice.afterWrites (x : Slice) (n : Bool) (rels : List Nat) (o : Out) (regs : List RegWrite) : Slice :=
  let x1 := rels.foldl (fun y k => y.setReg k .empty) x
  let x2 := if n then x1 else regs.foldl (fun y w => y.applyWrite w) x1
  o.fills.foldl (fun y k => y.setReg k (fillV o.fillTag (y.reg k))) x2

/-- A slice waits at its instruction (R152). -/
def State.setWaiting (s : State) (bid sid : Nat) : State :=
  s.modSlice bid sid (fun x => { x with run := .waiting, pend := true })

/-- A request for pool words joins the waiters of its core (R96). -/
def State.joinWaiters (s : State) (bid sid n : Nat) (grow : Bool) : State :=
  match s.blocks.get? bid with
  | none => s
  | some b =>
    s.modCore b.die b.core (fun c =>
      if c.waiters.any (fun w => w.bid == bid && w.sid == sid) then c
      else { c with waiters := c.waiters ++ [⟨bid, sid, n, grow, (s.die b.die).cycle⟩] })

/-- A request leaves the waiters of its core. -/
def State.leaveWaiters (s : State) (bid sid : Nat) : State :=
  match s.blocks.get? bid with
  | none => s
  | some b => s.modCore b.die b.core (fun c =>
      { c with waiters := c.waiters.filter (fun w => !(w.bid == bid && w.sid == sid)) })

/-- The words that a completing instruction asks for beyond those its slice holds: `x` before, `y` after; the words of
a pending register given up stay used (R93). (DEDUCED, log 20) -/
def Slice.need (x y : Slice) (gone : List Nat) : Nat :=
  y.words + (gone.map (fun k => if (x.reg k).isPend then (x.reg k).words else 0)).sum - x.words

/-- The slice as an instruction leaves it when it completes: latches, pc, retired count (R27, R39, R40, R85).
(DEDUCED, log 29) -/
def Slice.retire (x : Slice) (opc : Nat) (f : Fields) (o : Out) (regs : List RegWrite) : Slice :=
  let x1 :=
    if clearsLatches opc f.y then x.clearLatches
    else match regs with
      | w :: _ => x.shiftLatches (latchOf f.n w x)
      | [] => x
  { x1 with
    pc := match o.pc with | some t => t | none => x.pc + BitVec.ofNat 64 (4 * f.len)
    preds := match o.pred with | some (k, v) => x.preds.set k v | none => x.preds
    retired := x.retired + 1, run := .running, pend := false, prog := .fresh }

/-- An instruction completes whose pool words have been taken: everything it does takes effect together (R90, R115). -/
def completeNow (opc : Nat) (f : Fields) (bid sid : Nat) (rels : List Nat) (sticky : Bool) (o : Out) (s : State) : State :=
  match s.slice? bid sid with
  | none => s
  | some x =>
    let s2 := s.dropRegs bid sid (o.rels.filter (fun k => (x.reg k).isPend))
    let s3 := s2.modSlice bid sid (fun y => { y.afterWrites f.n (rels ++ o.rels) o o.regs with sticky := y.sticky || sticky })
    let regs := o.fix s3 o.regs
    let s4 := s3.modSlice bid sid (fun y =>
      ((if f.n then y else regs.foldl (fun z w => z.applyWrite w) y)).retire opc f o regs)
    o.eff (s4.leaveWaiters bid sid)

/-- An instruction completes (R90, R115): its registers wait for a pending destination and for their pool words, then
everything it does takes effect together. (DEDUCED, log 20) -/
def complete (opc : Nat) (f : Fields) (bid sid : Nat) (rels : List Nat) (sticky : Bool) (o : Out) (s : State) : State :=
  match s.slice? bid sid with
  | none => s
  | some x =>
    let targets := (if f.n then [] else o.regs.flatMap RegWrite.targets) ++ o.fills
    if targets.any (fun k => (x.reg k).isPend && !(rels ++ o.rels).contains k) then s.setWaiting bid sid
    else
      let n := x.need (x.afterWrites f.n (rels ++ o.rels) o o.regs) o.rels
      match s.alloc bid sid n with
      | (s1, false) => (s1.joinWaiters bid sid n false).setWaiting bid sid
      | (s1, true) => completeNow opc f bid sid rels sticky o s1

/-- The environment of an instruction for a slice. -/
def Enc.env (e : Enc) (f : Fields) (bid sid : Nat) (b : Block) (x : Slice) : Env :=
  let ty := e.typeOf f x.mode
  let wideB := e.sb.span ty f == 2
  { bid := bid, sid := sid, b := b, x := x, f := f,
    act := if e.gov0 then x.mask else x.mask &&& guardLanes (effGuard f x.mode) x.preds,
    ty := ty, rnd := e.rndOf f x.mode, sat := e.satOf f x.mode,
    a := if e.sa.reads then x.source e.sa ty f f.sa.toNat else Opd.none,
    o := match f.lit?, e.lit with
      | some l, .srcb => ⟨.u, .u, Quad.all (litValue wideB ty l), []⟩
      | _, _ => if e.sb.reads && !e.imm then x.source e.sb ty f f.sb.toNat else Opd.none,
    c := if e.sc.reads then x.source e.sc ty f f.ext.sc.toNat else Opd.none,
    md := modOf f, len := f.len }

/-- The frame of an instruction (R52, R115) for the slice that `cur` names: its checks, its meaning `body`, and what the
meaning's answer does. -/
def runInstr (e : Enc) (f : Fields) (body : Env → State → Res) (s : State) : Host.Outcome State Fault Refusal :=
  match s.curSlice with
  | none => .fault .noSlice
  | some (bid, sid, b, x) =>
    if !e.legal f x.mode then .next (s.trap bid sid 0x0102 0 x.mask f.len false)
    else
      let ty := e.typeOf f x.mode
      let ps := e.sources f
      match x.checkSources ty f ps with
      | .bad c => .next (s.trap bid sid c 0 x.mask f.len false)
      | .stall => .next (s.setWaiting bid sid)
      | .ok =>
        match body (e.env f bid sid b x) s with
        | .raise c addr lanes => .next (s.trap bid sid c addr lanes f.len false)
        | .raiseIn s1 c addr lanes => .next (s1.trap bid sid c addr lanes f.len false)
        | .wait s1 => .next (s1.setWaiting bid sid)
        | .done o => .next (complete e.opc f bid sid (releasedRegs ty f ps) (x.readsEmpty ty f ps) o s)
        | .doneIn s1 o => .next (complete e.opc f bid sid (releasedRegs ty f ps) (x.readsEmpty ty f ps) o s1)

/-! ### Common answers -/

/-- A lane result of one register or a pair under the active lanes (R90). -/
def Env.write (v : Env) (wide : Bool) (vals : Quad Dword) (t : Tag) : RegWrite :=
  ⟨v.f.dst.toNat, wide, vals, t, t, false, v.act⟩

/-- One value in all four lanes with tag U, whatever M and the guard (R163). -/
def Env.writeUni (v : Env) (wide : Bool) (x : Dword) : RegWrite :=
  ⟨v.f.dst.toNat, wide, Quad.all x, .u, .u, true, 0xF⟩

/-- The instruction's address. -/
def Env.pc (v : Env) : Dword := v.x.pc

/-- The address of the next instruction (R27). -/
def Env.nextPc (v : Env) : Dword := v.x.pc + BitVec.ofNat 64 (4 * v.len)

/-- The active lanes in ascending order (R6). -/
def lanesOf (act : BitVec 4) : List Nat := (List.range 4).filter (fun l => act.getLsbD l)

/-- A lane is active in a set of lanes. -/
def laneSet (ls : List Nat) : BitVec 4 := ls.foldl (fun m l => m ||| (1#4 <<< l)) 0

/-- The seven-bit immediate of LB and SB (R37). -/
def imm7 (f : Fields) : Nat := (if f.lb then 64 else 0) + f.sb.toNat

/-- Source b of the opcodes of R37, zero-extended: the immediate or the literal. -/
def immValue (f : Fields) : Nat :=
  match f.lit? with
  | some l => l.toNat
  | none => imm7 f

end Sys2Proof.Machine
end

