-- ==== Sys2Proof/Machine/Flags.lean ====
section
/-! DEFINITION. What a result carries beside its value: its shape (R89), the exceptions of its lanes and the cause that they
raise (R69), the bits of a predicate (R132) and the stochastic words (R72). -/

namespace Sys2Proof.Machine

/-! ### Shapes (R89) -/

/-- U when every source is U and G otherwise: the last row of R89 and its 64-bit rule. -/
def shapeUG (os : List Opd) : Tag := if os.all Opd.uniform then .u else .g

/-- The affine rows of R89 apply: type s32, n32 or b32 and saturation 0. -/
def linear (v : Env) : Bool := (v.ty == 18 || v.ty == 22 || v.ty == 24) && !v.sat

/-- IADD and ISUB (R89). -/
def shapeAdd (v : Env) : Tag :=
  if !linear v then shapeUG [v.a, v.o]
  else match v.a.tag, v.o.tag with
    | .u, .u => .u
    | .g, _ => .g
    | _, .g => .g
    | _, _ => .a

/-- IMUL (R89). -/
def shapeMul (v : Env) : Tag :=
  if !linear v then shapeUG [v.a, v.o]
  else match v.a.tag, v.o.tag with
    | .u, .u => .u
    | .u, .a => .a
    | .a, .u => .a
    | _, _ => .g

/-- SHL, whose count must come from a U source for an affine result (R89, R119). -/
def shapeShl (v : Env) : Tag :=
  if !linear v then shapeUG [v.a, v.o]
  else match v.a.tag, v.o.tag with
    | .u, .u => .u
    | .a, .u => .a
    | _, _ => .g

/-- INEG (R89). -/
def shapeNeg (v : Env) : Tag := if linear v then v.a.tag else shapeUG [v.a]

/-! ### Exceptions (R68, R69) -/

/-- The exceptions that a lane detected and whose enable is set, by rank (R42, R69). -/
def Excs.get (x : Excs) (rank : Nat) : Bool :=
  match rank with
  | 0 => x.inv | 1 => x.dvz | 2 => x.ovf | 3 => x.unf | _ => x.inx

/-- The cause of the highest-ranked enabled exception of any active lane, with the lanes that detected it (R69). An exception of a
combining node (R136) has the slice's active lanes; a slice with none of them active detects it not. (DESIGN CHOICE, log 120) -/
def fpCause (mode : Word) (act : BitVec 4) (xs : Nat → Excs) : Option (Half × BitVec 4) :=
  (List.range 5).findSome? (fun r =>
    if mode.getLsbD (15 + r) then
      let ls := (lanesOf act).filter (fun l => (xs l).get r)
      if ls.isEmpty then none else some (BitVec.ofNat 16 (0x0801 + r), laneSet ls)
    else none)

/-! ### Lane results -/

/-- A result of a lane function in one register or a pair with a shape (R115). -/
def laneRes (v : Env) (wide : Bool) (g : Nat → Nat) (t : Tag) : Res :=
  .done { regs := [v.write wide (Quad.ofFn (fun l => BitVec.ofNat 64 (g l))) t] }

/-- The raw image of operand a in lane `l`. -/
def Env.al (v : Env) (l : Nat) : Nat := (v.a.v.get l).toNat
/-- The raw image of operand b in lane `l`. -/
def Env.bl (v : Env) (l : Nat) : Nat := (v.o.v.get l).toNat
/-- The raw image of operand c in lane `l`. -/
def Env.cl (v : Env) (l : Nat) : Nat := (v.c.v.get l).toNat

/-- A predicate result: bit l for each active lane, the others kept (R132). -/
def predRes (v : Env) (g : Nat → Bool) : Res :=
  let d := v.f.dst.toNat
  let old := v.x.preds.getD d 0
  let new := laneSet ((List.range 4).filter (fun l => if v.act.getLsbD l then g l else old.getLsbD l))
  .done { pred := some (d, new) }

/-- A predicate with one value in every bit, whatever M (R237). -/
def predAll (v : Env) (x : Bool) : Option (Nat × BitVec 4) := some (v.f.dst.toNat, if x then 0xF else 0)

/-! ### Stochastic words (R72) -/

/-- The generator of R72 for a counter already advanced. -/
def rsrWord (seed : Dword) (block thread : Nat) (ctr : Dword) : Nat :=
  let k := seed ^^^ BitVec.ofNat 64 (block * 1024) ^^^ BitVec.ofNat 64 thread
  (mix64 (k + ctr * 0x9E3779B97F4A7C15#64)).toNat % 2 ^ 32

/-- The word that lane `l` draws next, and the counter after it. -/
def Env.draw (v : Env) (l : Nat) : Nat × Dword :=
  let c := v.x.ctr.get l + 1
  (rsrWord v.b.seed v.b.idx.toNat (v.sid * 4 + l) c, c)

/-- The random word of a lane: drawn where the rounding is rsr. -/
def Env.word (v : Env) (l : Nat) : Nat := if v.rnd = 6 then (v.draw l).1 else 0

/-- The counters of the active lanes advanced by one where the rounding is rsr (R72). -/
def Env.advance (v : Env) (s : State) : State :=
  if v.rnd = 6 then
    s.modSlice v.bid v.sid (fun x => { x with
      ctr := Quad.ofFn (fun l => if v.act.getLsbD l then x.ctr.get l + 1 else x.ctr.get l) })
  else s

/-- The tag of a result that draws one word for each lane under rsr: it depends on the lane, and U holds one value for all four
(R72, R86), so it is G whatever its sources. (DEDUCED, log 26) -/
def Env.tagR (v : Env) (t : Tag) : Tag := if v.rnd = 6 then .g else t

/-- A floating lane result: raised where an enabled exception arose, delivered otherwise, one word drawn for each active
lane under rsr (R69, R72, R115). -/
def fpRes (v : Env) (wide : Bool) (g : Nat → Nat × Excs) (t : Tag) : Res :=
  match fpCause v.x.mode v.act (fun l => (g l).2) with
  | some (c, ls) => .raise c 0 ls
  | none => .done { regs := [v.write wide (Quad.ofFn (fun l => BitVec.ofNat 64 (g l).1)) (v.tagR t)], eff := v.advance }

end Sys2Proof.Machine
end

