-- ==== Sys2Proof/Machine/LaneFp.lean ====
section
/-! DEFINITION. Floating-point arithmetic (R120, R121), conversions (R126 to R130), compares, predicates and SEL (R131 to
R133). -/

namespace Sys2Proof.Machine

/-! ### Arithmetic (R120, R121) -/

/-- A row of R120. -/
def encFp (opc : Nat) (lens : List Nat) (sb sc : Src) (rnd sat : Bool) : Enc :=
  { opc := opc, lens := lens, dst := .ty, sa := .ty, sb := sb, sc := sc, types := .eff typeFP,
    rov := if rnd then .eff else .no, sat := if sat then .eff else .no }

/-- An arithmetic lane function of exact values, rounded once (R121). -/
def fpOp (g : Nat → FVal → FVal → FVal → FVal × Bool) (os : Env → List Opd) (v : Env) (_ : State) : Res :=
  fpRes v (typeWide v.ty) (fun l => deliverOp v.ty v.rnd (v.word l) v.sat
    (g v.rnd (decodeF v.ty (v.al l)) (decodeF v.ty (v.bl l)) (decodeF v.ty (v.cl l)))) (shapeUG (os v))

/-- The operands a and b. -/
def opsAB (v : Env) : List Opd := [v.a, v.o]

/-- FADD (R121). -/
def execFadd (f : Fields) (s : State) : Host.Outcome State Fault Refusal :=
  runInstr (encFp 0x20 [1, 2, 3] .ty .no true true) f (fpOp (fun r a b _ => addVal r a b) opsAB) s

/-- FSUB (R121). -/
def execFsub (f : Fields) (s : State) : Host.Outcome State Fault Refusal :=
  runInstr (encFp 0x21 [1, 2, 3] .ty .no true true) f (fpOp (fun r a b _ => addVal r a b.negate) opsAB) s

/-- FMUL (R121). -/
def execFmul (f : Fields) (s : State) : Host.Outcome State Fault Refusal :=
  runInstr (encFp 0x22 [1, 2, 3] .ty .no true true) f (fpOp (fun _ a b _ => mulVal a b) opsAB) s

/-- FFMA (R121). -/
def execFfma (f : Fields) (s : State) : Host.Outcome State Fault Refusal :=
  runInstr (encFp 0x23 [2, 3] .ty .ty true true) f
    (fpOp (fun r a b c => fmaVal r a b c) (fun v => [v.a, v.o, v.c])) s

/-- The four selections of R74 and R121. -/
def minMaxBody (isMax number : Bool) (v : Env) (_ : State) : Res :=
  fpRes v (typeWide v.ty) (fun l =>
    let w := typeBits v.ty
    minMaxF v.ty isMax number (v.al l % 2 ^ w) (v.bl l % 2 ^ w)) (shapeUG [v.a, v.o])

/-- FMIN (R121). -/
def execFmin (f : Fields) (s : State) : Host.Outcome State Fault Refusal :=
  runInstr (encFp 0x24 [1, 2, 3] .ty .no false false) f (minMaxBody false false) s
/-- FMAX (R121). -/
def execFmax (f : Fields) (s : State) : Host.Outcome State Fault Refusal :=
  runInstr (encFp 0x25 [1, 2, 3] .ty .no false false) f (minMaxBody true false) s
/-- FMINN (R121). -/
def execFminn (f : Fields) (s : State) : Host.Outcome State Fault Refusal :=
  runInstr (encFp 0x26 [1, 2, 3] .ty .no false false) f (minMaxBody false true) s
/-- FMAXN (R121). -/
def execFmaxn (f : Fields) (s : State) : Host.Outcome State Fault Refusal :=
  runInstr (encFp 0x27 [1, 2, 3] .ty .no false false) f (minMaxBody true true) s

/-- FABS, FNEG and FCPYS (R121): a sign put on the magnitude of a; a NaN gives the canonical NaN; nothing is signalled. -/
def signOp (g : Bool → Bool → Bool) (os : Env → List Opd) (v : Env) (_ : State) : Res :=
  let f := fmtOf v.ty
  laneRes v (typeWide v.ty) (fun l =>
    let a := v.al l
    if (decodeF v.ty a).isNaN then f.canonNaN
    else a % f.signBit + (if g (a / f.signBit % 2 == 1) (v.bl l / f.signBit % 2 == 1) then f.signBit else 0))
    (shapeUG (os v))

/-- FABS (R121). -/
def execFabs (f : Fields) (s : State) : Host.Outcome State Fault Refusal :=
  runInstr (encFp 0x28 [1, 2] .no .no false false) f (signOp (fun _ _ => false) (fun v => [v.a])) s
/-- FNEG (R121). -/
def execFneg (f : Fields) (s : State) : Host.Outcome State Fault Refusal :=
  runInstr (encFp 0x29 [1, 2] .no .no false false) f (signOp (fun a _ => !a) (fun v => [v.a])) s
/-- FCPYS (R121). -/
def execFcpys (f : Fields) (s : State) : Host.Outcome State Fault Refusal :=
  runInstr (encFp 0x2A [1, 2, 3] .ty .no false false) f (signOp (fun _ b => b) opsAB) s

/-- FDIV (R121). -/
def execFdiv (f : Fields) (s : State) : Host.Outcome State Fault Refusal :=
  runInstr (encFp 0x2B [1, 2, 3] .ty .no true true) f
    (fun v _ => fpRes v (typeWide v.ty) (fun l =>
      divF v.ty v.rnd (v.word l) v.sat (decodeF v.ty (v.al l)) (decodeF v.ty (v.bl l))) (shapeUG [v.a, v.o])) s

/-- FSQRT (R121). -/
def execFsqrt (f : Fields) (s : State) : Host.Outcome State Fault Refusal :=
  runInstr (encFp 0x2C [1, 2] .no .no true true) f
    (fun v _ => fpRes v (typeWide v.ty) (fun l =>
      sqrtF v.ty v.rnd (v.word l) v.sat (decodeF v.ty (v.al l))) (shapeUG [v.a])) s

/-- A value rounded to an integral value of its own type (R121). -/
def roundIntegral (t mode w : Nat) (bits : Nat) : Nat × Excs :=
  match decodeF t bits with
  | .nan sig => deliverOp t mode w false (.nan false, sig)
  | .inf n => deliverOp t mode w false (.inf n, false)
  | .num neg m e =>
    if 0 ≤ e then (bits % 2 ^ typeBits t, Excs.none)
    else
      let (n, inexact) := roundShift mode w neg m false (-e)
      ((roundF t mode w false neg n 0 false).1, { inx := inexact })

/-- FRND (R121). -/
def execFrnd (f : Fields) (s : State) : Host.Outcome State Fault Refusal :=
  runInstr (encFp 0x34 [1, 2] .no .no true false) f
    (fun v _ => fpRes v (typeWide v.ty) (fun l => roundIntegral v.ty v.rnd (v.word l) (v.al l)) (shapeUG [v.a])) s

/-- a × 2^k as an exact value. -/
def scaleVal (a : FVal) (k : Int) : FVal × Bool :=
  match a with
  | .nan s => (.nan false, s)
  | .inf n => (.inf n, false)
  | .num n m e => (.num n m (e + k), false)

/-- FSCL (R121): b is read as s32. -/
def execFscl (f : Fields) (s : State) : Host.Outcome State Fault Refusal :=
  runInstr (encFp 0x35 [1, 2, 3] .w32 .no true true) f
    (fun v _ => fpRes v (typeWide v.ty) (fun l =>
      deliverOp v.ty v.rnd (v.word l) v.sat (scaleVal (decodeF v.ty (v.al l)) (sextInt 32 (v.bl l)))) (shapeUG [v.a, v.o])) s

/-- FEXPN's result (R121). -/
def expnVal (a : FVal) : Nat × Excs :=
  match a with
  | .nan _ => (0, { inv := true })
  | .inf _ => (0x7FFFFFFF, { inv := true })
  | .num _ m e => if m = 0 then (0x80000000, { inv := true }) else (wrapNat 32 (e + (bitLen m : Int) - 1), Excs.none)

/-- FEXPN (R121): the result is 32-bit s32. -/
def execFexpn (f : Fields) (s : State) : Host.Outcome State Fault Refusal :=
  runInstr { encFp 0x36 [1, 2] .no .no false false with dst := .w32 } f
    (fun v _ => fpRes v false (fun l => expnVal (decodeF v.ty (v.al l))) (shapeUG [v.a])) s

/-! ### Conversion (R126, R127) -/

/-- The types of CVT: FP, NF or INT. -/
def typeCvt (t : Nat) : Bool := typeFP t || typeNF t || typeInt t

/-- The source type code of CVT and CVTSR in MOD[4:0]. -/
def cvtSrc (f : Fields) : Nat := modOf f % 32

/-- An infinity of format `src` is a value of `dst` too, which no wider format loses (R75). (DEDUCED, log 114) -/
def keepsInf (dst src : Nat) : Bool := (fmtOf dst).special == .ieee && decide (typeBits src ≤ typeBits dst)

/-- A floating value converted from format `src` to another, `dst` (R73, R75): an infinity that `dst` represents is exact. -/
def convertF (dst src mode w : Nat) (sat : Bool) (v : FVal) : Nat × Excs :=
  match v with
  | .inf _ => if keepsInf dst src then deliver dst mode w false false v else deliver dst mode w sat true v
  | v => deliver dst mode w sat true v

/-- One element converted from type `src` to type `dst` (R75, R76, R63, R127). -/
def convert (dst src mode w : Nat) (sat : Bool) (bits : Nat) : Nat × Excs :=
  if typeInt src then
    let x := elemInt src bits
    if typeInt dst then (imageInt dst (fitInt dst sat x), Excs.none)
    else deliver dst mode w sat true (intVal x)
  else
    let v := decodeF src bits
    if typeInt dst then
      let (x, ex) := toIntVal dst mode w v
      (imageInt dst x, ex)
    else if dst = src then
      match v with
      | .nan sig => ((fmtOf dst).canonNaN, { inv := sig })
      | _ => (bits % 2 ^ typeBits dst, Excs.none)
    else convertF dst src mode w sat v
where
  /-- An integer as an exact value. -/
  intVal (x : Int) : FVal := numOf x 0 false

/-- CVT (R127). -/
def execCvt (f : Fields) (s : State) : Host.Outcome State Fault Refusal :=
  runInstr { opc := 0x40, lens := [2], dst := .ty, sa := if typeWide (cvtSrc f) then .w64 else .w32,
             types := .eff typeCvt, rov := .eff, sat := .eff, md := 31,
             extra := fun f _ => typeCvt (cvtSrc f) } f
    (fun v _ => fpRes v (typeWide v.ty) (fun l => convert v.ty (cvtSrc v.f) v.rnd (v.word l) v.sat (v.al l)) (shapeUG [v.a])) s

/-- The destination types of CVTSR, narrower than its source. -/
def cvtsrOk (f : Fields) (t : Nat) : Bool :=
  (cvtSrc f == 1 || cvtSrc f == 2) && decide (typeBits t < typeBits (cvtSrc f))

/-- CVTSR (R127): CVT under rsr with the word of operand b. -/
def execCvtsr (f : Fields) (s : State) : Host.Outcome State Fault Refusal :=
  runInstr { opc := 0x41, lens := [2, 3], dst := .ty, sa := if typeWide (cvtSrc f) then .w64 else .w32, sb := .w32,
             types := .eff (fun t => typeSF t || typeNF t), sat := .eff, md := 31, extra := cvtsrOk } f
    (fun v _ => fpRes v false (fun l => convert v.ty (cvtSrc v.f) 6 (v.bl l % 2 ^ 32) v.sat (v.al l)) (shapeUG [v.a, v.o])) s

/-! ### PACK and UNPK (R128) -/

/-- The element types of R128. -/
def typePack (t : Nat) : Bool := [17, 21, 3, 4, 16, 20, 5, 6, 7, 8, 9].contains t

/-- k lies in the range of its row of R128. -/
def packOk (f : Fields) (t : Nat) : Bool :=
  let n := match typeBits t with | 16 => 2 | 8 => 4 | 6 => 4 | _ => 8
  decide (modOf f % 8 < n)

/-- PACK (R128). -/
def execPack (f : Fields) (s : State) : Host.Outcome State Fault Refusal :=
  runInstr { opc := 0x42, lens := [2, 3], dst := .w32, sa := .w32, sb := .w32, types := .eff typePack, md := 7,
             extra := packOk } f
    (fun v _ =>
      let w := typeBits v.ty
      laneRes v false (fun l => bfi (v.bl l) (v.al l % 2 ^ w) (w * (v.md % 8)) w) (shapeUG [v.a, v.o])) s
where
  /-- Bits [p + w − 1 : p] of x replaced by y. -/
  bfi (x y p w : Nat) : Nat := x - x / 2 ^ p % 2 ^ w * 2 ^ p + y * 2 ^ p

/-- UNPK (R128). -/
def execUnpk (f : Fields) (s : State) : Host.Outcome State Fault Refusal :=
  runInstr { opc := 0x43, lens := [2], dst := .w32, sa := .w32, types := .eff typePack, md := 7, extra := packOk } f
    (fun v _ =>
      let w := typeBits v.ty
      laneRes v false (fun l =>
        let x := v.al l / 2 ^ (w * (v.md % 8)) % 2 ^ w
        if typeSigned v.ty then wrapNat 32 (sextInt w x) else x) (shapeUG [v.a])) s

/-! ### The as8 format and DQNT (R79, R80, R129, R130) -/

/-- The quantisation of R80 with the agreed exponent k. -/
def quantAs8 (mode w : Nat) (k : Int) (bits : Nat) : Nat × Excs :=
  match decodeF 1 bits with
  | .nan _ => (0, { inv := true })
  | .inf neg => (wrapNat 32 (if neg then -127 else 127), { inv := true })
  | .num neg m e =>
    -- a magnitude at or above 2^160 is beyond the range whatever the exponent
    let (n, inexact) := roundShift mode w neg m false (k - e)
    if 127 < n then (wrapNat 32 (if neg then -127 else 127), { ovf := true, inx := true })
    else (wrapNat 32 (if neg then -(n : Int) else n), { inx := inexact })

/-- The element type of a block-scaled type (R77). -/
def mxElem (t : Nat) : Nat := match t with | 10 => 5 | 11 => 8 | _ => 9

/-- The value of a scaled element (R77): a NaN scale makes it NaN. -/
def mxVal (t elem scale : Nat) : FVal :=
  if scale = 255 then .nan false
  else match decodeF (mxElem t) elem with
    | .num n m e => .num n m (e + scale - 127)
    | v => v

/-- DQNT's forms: an MX type takes no source b (R126). -/
def encDqnt (f : Fields) (opc : Nat) (sat : OvRule) (mode : Word) : Enc :=
  let ty := if f.ext.tov.toNat ≠ 0 then f.ext.tov.toNat else bitsOf mode.toNat 9 5
  { opc := opc, lens := [2, 3], dst := .w32, sa := .w32, sb := if typeMX ty then .no else .u32,
    types := .eff (fun t => typeMX t || t == 13), rov := .eff, sat := sat,
    extra := fun f t => !typeMX t || (f.lit?.getD 0) == 0 }

/-- The mode register of the executing slice, which decides the form of QNT and DQNT where TOV is 0. -/
def State.curMode (s : State) : Word := match s.curSlice with | some (_, _, _, x) => x.mode | none => 0

/-- DQNT (R130). -/
def execDqnt (f : Fields) (s : State) : Host.Outcome State Fault Refusal :=
  runInstr (encDqnt f 0x45 .eff s.curMode) f
    (fun v _ => fpRes v false (fun l =>
      let a := v.al l
      if typeMX v.ty then
        let w := typeBits v.ty
        deliver 1 v.rnd (v.word l) v.sat false (mxVal v.ty (a % 2 ^ w) (bitsOf a 31 24))
      else
        let q := sextInt 8 a
        deliver 1 v.rnd (v.word l) v.sat false (numOf q (sextInt 8 (v.bl l)) false))
      (shapeUG (if typeMX v.ty then [v.a] else [v.a, v.o]))) s

/-! ### Compare, predicate, select (R131 to R133) -/

/-- A condition on an order (R131): 0 .eq to 5 .ge. -/
def condHolds (cc : Nat) (o : Ordering) : Bool :=
  match cc with
  | 0 => o == .eq | 1 => o != .eq | 2 => o == .lt | 3 => o != .gt | 4 => o == .gt | _ => o != .lt

/-- ICMP (R132). -/
def execIcmp (f : Fields) (s : State) : Host.Outcome State Fault Refusal :=
  runInstr { opc := 0x46, lens := [2, 3], dst := .pd, sa := .ty, sb := .ty,
             types := .eff (fun t => typeInt t || t == 24 || t == 25), md := 15,
             extra := fun f t => decide (modOf f % 16 ≤ 5) && (typeInt t || decide (modOf f % 16 ≤ 1)) } f
    (fun v _ => predRes v (fun l =>
      condHolds (v.md % 16) (compare (elemInt v.ty (v.al l)) (elemInt v.ty (v.bl l))))) s

/-- FCMP's condition (R132). -/
def fcmpHolds (cc : Nat) (a b : FVal) : Bool :=
  let un := a.isNaN || b.isNaN
  match cc with
  | 6 => !un
  | 7 => un
  | 1 => un || cmpVal a b != .eq
  | _ => !un && condHolds cc (cmpVal a b)

/-- FCMP (R132). -/
def execFcmp (f : Fields) (s : State) : Host.Outcome State Fault Refusal :=
  runInstr { opc := 0x47, lens := [2, 3], dst := .pd, sa := .ty, sb := .ty, types := .eff typeFP, md := 31,
             extra := fun f _ => decide (modOf f % 16 ≤ 7) } f
    (fun v _ =>
      let a := fun l => decodeF v.ty (v.al l)
      let b := fun l => decodeF v.ty (v.bl l)
      let ex := fun l => ({ inv := (a l).isSig || (b l).isSig || (bitOf v.md 4 && ((a l).isNaN || (b l).isNaN)) } : Excs)
      match fpCause v.x.mode v.act ex with
      | some (c, ls) => .raise c 0 ls
      | none => predRes v (fun l => fcmpHolds (v.md % 16) (a l) (b l))) s

/-- The class of a value (R132). -/
def classOf (t bits : Nat) : Nat :=
  let f := fmtOf t
  match decodeF t bits with
  | .nan sig => if sig then 0 else 1
  | .inf neg => if neg then 2 else 9
  | .num neg m _ =>
    if m = 0 then (if neg then 5 else 6)
    else if bits % f.signBit < 2 ^ f.fb then (if neg then 4 else 7)
    else if neg then 3 else 8

/-- FCLASS (R132). (DEDUCED, log 23) -/
def execFclass (f : Fields) (s : State) : Host.Outcome State Fault Refusal :=
  runInstr { opc := 0x48, lens := [2, 3], dst := .pd, sa := .ty, sb := .u32,
             types := .eff (fun t => typeFP t || typeNF t) } f
    (fun v _ =>
      if 1024 ≤ v.o.scalar then .raise 0x0102 0 v.act
      else predRes v (fun l => bitOf v.o.scalar (classOf v.ty (v.al l)))) s

/-- The row of PAND, POR and PXOR (R131). -/
def encPred (opc : Nat) : Enc := { opc := opc, lens := [1, 2], dst := .pd, sa := .pr, sb := .pr, md := 3 }

/-- A predicate combination, each operand inverted where MOD says (R132). -/
def predOp (g : Bool → Bool → Bool) (v : Env) (_ : State) : Res :=
  let pa := v.x.preds.getD v.f.sa.toNat 0
  let pb := v.x.preds.getD v.f.sb.toNat 0
  predRes v (fun l => g (pa.getLsbD l != bitOf v.md 0) (pb.getLsbD l != bitOf v.md 1))

/-- PAND (R132). -/
def execPand (f : Fields) (s : State) : Host.Outcome State Fault Refusal := runInstr (encPred 0x49) f (predOp (· && ·)) s
/-- POR (R132). -/
def execPor (f : Fields) (s : State) : Host.Outcome State Fault Refusal := runInstr (encPred 0x4A) f (predOp (· || ·)) s
/-- PXOR (R132). -/
def execPxor (f : Fields) (s : State) : Host.Outcome State Fault Refusal := runInstr (encPred 0x4B) f (predOp (· != ·)) s

/-- PNOT (R132). -/
def execPnot (f : Fields) (s : State) : Host.Outcome State Fault Refusal :=
  runInstr { opc := 0x4C, lens := [1, 2], dst := .pd, sa := .pr } f
    (fun v _ => predRes v (fun l => !(v.x.preds.getD v.f.sa.toNat 0).getLsbD l)) s

/-- PMOV (R132): MOD[2] takes a v register. -/
def execPmov (f : Fields) (s : State) : Host.Outcome State Fault Refusal :=
  runInstr { opc := 0x4D, lens := [1, 2], dst := .pd, sa := if bitOf (modOf f) 2 then .w32 else .pr, md := 4 } f
    (fun v _ => predRes v (fun l =>
      if bitOf v.md 2 then v.al l != 0 else (v.x.preds.getD v.f.sa.toNat 0).getLsbD l)) s

/-- SEL (R133): its shape is G. -/
def execSel (f : Fields) (s : State) : Host.Outcome State Fault Refusal :=
  runInstr { opc := 0x4E, lens := [2, 3], dst := .ty, sa := .ty, sb := .ty,
             types := .tov (fun t => t == 0 || t == 24 || t == 25), md := 15 } f
    (fun v _ =>
      let p := v.x.preds.getD (v.md % 8) 0
      laneRes v (typeWide v.ty) (fun l => if p.getLsbD l != bitOf v.md 3 then v.al l else v.bl l) .g) s

end Sys2Proof.Machine
end

