-- ==== Sys2Proof/Machine/CrossLane.lean ====
section
/-! DEFINITION. Cross-lane instructions (R134 to R142): the frame over the issue set, and SHFL, BCAST, VOTE, RDX, SCAN, TOPK and
QNT (R78, R129). -/

namespace Sys2Proof.Machine

/-! ### The frame (R134 to R137) -/

/-- The issue set of a slice (R134, R136): its part, without the slices that run in a trap entry taken at a cross-lane
instruction; such a slice is alone. -/
def Block.issueSet (b : Block) (sid : Nat) : List Nat :=
  match b.slices.get? sid with
  | none => []
  | some x =>
    if x.crossHome.isSome then [sid]
    else (b.partMembers x.part).filter (fun i =>
      match b.slices.get? i with | some y => y.crossHome.isNone | none => false)

/-- Some slice of the part is in a trap entry that a cross-lane instruction sent it to (R136). -/
def Block.crossAway (b : Block) (sid : Nat) : Bool :=
  match b.slices.get? sid with
  | none => false
  | some x => x.crossHome.isNone && (b.partMembers x.part).any (fun i =>
      match b.slices.get? i with | some y => y.crossHome.isSome | none => false)

/-- What one slice of an issue set shows before the set executes (R52, R136). -/
def Enc.crossCheck (e : Enc) (f : Fields) (x : Slice) : SrcCheck :=
  if !e.legal f x.mode then .bad 0x0102
  else x.checkSources (e.typeOf f x.mode) f (e.sources f)

/-- Every slice of a list waits at its instruction. -/
def State.allWait (s : State) (bid : Nat) (ids : List Nat) : State := ids.foldl (fun s i => s.setWaiting bid i) s

/-- The faulting slices raise their causes in ascending slice id and the others wait (R136); where the first of them ends the block,
the others still raise and log theirs. (DESIGN CHOICE, log 117) -/
def State.crossFault (s : State) (bid : Nat) (len : Nat) (ids : List Nat) (bad : List (Nat × Half × BitVec 4)) : State :=
  let s1 := s.allWait bid (ids.filter (fun i => !bad.any (fun p => p.1 == i)))
  bad.foldl (fun s p => s.trap bid p.1 p.2.1 0 p.2.2 len true) s1

/-- The pool words that one slice's writes ask for. -/
def Env.needOf (v : Env) (e : Enc) (o : Out) : Nat :=
  v.x.need (v.x.afterWrites v.f.n (releasedRegs v.ty v.f (e.sources v.f) ++ o.rels) o o.regs) o.rels

/-- A result's registers that are pending in the slice. -/
def Env.targetPend (v : Env) (o : Out) : Bool :=
  !v.f.n && (o.regs.flatMap RegWrite.targets).any (fun k => (v.x.reg k).isPend)

/-- The frame of a cross-lane instruction: all slices of the issue set execute it together or none does (R136, R137).
`body` answers each slice's result from the environments of all, and the exceptions each detected. A slice whose check fails raises before
the set waits for another's P source. (DESIGN CHOICE, log 117) -/
def runCross (e : Enc) (f : Fields) (body : List Env → Env → Out × (Nat → Excs)) (s : State) :
    Host.Outcome State Fault Refusal :=
  match s.curSlice with
  | none => .fault .noSlice
  | some (bid, sid, b, _) =>
    let ids := b.issueSet sid
    if b.crossAway sid then .next (s.allWait bid ids)
    else
      let sl := ids.filterMap (fun i => (b.slices.get? i).map (fun x => (i, x)))
      let bad := sl.filterMap (fun p => match e.crossCheck f p.2 with | .bad c => some (p.1, c, p.2.mask) | _ => none)
      if !bad.isEmpty then .next (s.crossFault bid f.len ids bad)
      else if sl.any (fun p => e.crossCheck f p.2 = .stall) then .next (s.allWait bid ids)
      else
        let envs := sl.map (fun p => e.env f bid p.1 b p.2)
        let res := envs.map (fun v => (v, body envs v))
        let exc := res.filterMap (fun r => (fpCause r.1.x.mode r.1.act r.2.2).map (fun c => (r.1.sid, c.1, c.2)))
        if !exc.isEmpty then .next (s.crossFault bid f.len ids exc)
        else if res.any (fun r => r.1.targetPend r.2.1) then .next (s.allWait bid ids)
        else
          match s.alloc bid sid (res.map (fun r => r.1.needOf e r.2.1)).sum with
          | (s1, false) => .next ((s1.joinWaiters bid sid (res.map (fun r => r.1.needOf e r.2.1)).sum false).allWait bid ids)
          | (s1, true) => .next (res.foldl (fun s r =>
              completeNow e.opc f bid r.1.sid (releasedRegs r.1.ty f (e.sources f))
                (r.1.x.readsEmpty r.1.ty f (e.sources f)) r.2.1 s) s1)

/-! ### Gang lanes (R84) -/

/-- The slices of a gang (R146). -/
def Env.gangSlices (v : Env) : Nat := v.b.width / 4

/-- The gang lane index of a lane (R84). -/
def Env.lane (v : Env) (l : Nat) : Nat := v.sid % v.gangSlices * 4 + l

/-- The gang lane `g` if it is present: its environment and lane (R134). -/
def gangLane (vs : List Env) (g : Nat) : Option (Env × Nat) :=
  match vs.find? (fun v => v.sid % v.gangSlices == g / 4) with
  | some v => if v.act.getLsbD (g % 4) then some (v, g % 4) else none
  | none => none

/-- Operand a of gang lane `g` if it is present. -/
def gangA (vs : List Env) (g : Nat) : Option Nat := (gangLane vs g).map (fun p => p.1.al p.2)

/-- The present gang lanes in ascending order. -/
def presentLanes (vs : List Env) (width : Nat) : List Nat := (List.range width).filter (fun g => (gangLane vs g).isSome)

/-- No exceptions in any lane. -/
def noExcs : Nat → Excs := fun _ => Excs.none

/-- A register result as the only effect. -/
def outReg (w : RegWrite) : Out := { regs := [w] }

/-- Four lane values from a function of the lane. -/
def quadNat (g : Nat → Nat) : Quad Dword := Quad.ofFn (fun l => BitVec.ofNat 64 (g l))

/-- cfg.width of the block that executes. -/
def State.curWidth (s : State) : Nat := match s.curSlice with | some (_, _, b, _) => b.width | none => 0

/-! ### SHFL, BCAST, VOTE (R138 to R140) -/

/-- The types of SHFL and BCAST. -/
def typeB (t : Nat) : Bool := t == 24 || t == 25

/-- The segment of SHFL (R138). -/
def segOf (md width : Nat) : Nat := match md / 4 % 8 with | 0 => width | k => 2 ^ (k + 1)

/-- The source lane of SHFL for gang lane `g` with lane operand `b` (R139). -/
def shflSrc (md width g b : Nat) : Option Nat :=
  let sg := segOf md width
  let o := g % sg
  let base := g - o
  match md % 4 with
  | 0 => some (base + b % sg)
  | 1 => if b ≤ o then some (g - b) else none
  | 2 => if o + b < sg then some (g + b) else none
  | _ => some (base + (o ^^^ (b % sg)))

/-- SHFL (R139). -/
def execShfl (f : Fields) (s : State) : Host.Outcome State Fault Refusal :=
  let w := s.curWidth
  runCross { opc := 0x52, lens := [2, 3], dst := .ty, sa := .ty, sb := .w32, types := .tov typeB, md := 31,
             extra := fun f _ => decide (modOf f / 4 % 8 ≤ 5) && decide (segOf (modOf f) w ≤ w) } f
    (fun vs v => (outReg (v.write (typeWide v.ty) (quadNat (fun l =>
      match shflSrc v.md v.b.width (v.lane l) (v.bl l % 2 ^ 32) with
      | some src => (gangA vs src).getD (v.al l)
      | none => v.al l)) .g), noExcs)) s

/-- BCAST (R139): where the slices of the issue set hold different values of b, each uses its own. (DESIGN CHOICE, log 118) -/
def execBcast (f : Fields) (s : State) : Host.Outcome State Fault Refusal :=
  runCross { opc := 0x53, lens := [2, 3], dst := .ty, sa := .ty, sb := .u32, types := .tov typeB } f
    (fun vs v => (outReg (v.write (typeWide v.ty)
      (Quad.all (BitVec.ofNat 64 ((gangA vs (v.o.scalar % v.b.width)).getD 0))) .u), noExcs)) s

/-- The bit of VOTE's predicate in a present lane. -/
def voteBit (f : Fields) (p : Env × Nat) : Bool := (p.1.x.preds.getD f.sa.toNat 0).getLsbD p.2

/-- VOTE (R140). -/
def execVote (f : Fields) (s : State) : Host.Outcome State Fault Refusal :=
  runCross { opc := 0x54, lens := [2], dst := if modOf f % 4 = 3 then .w64 else .pd, sa := .pr, md := 3 } f
    (fun vs v =>
      let ls := (presentLanes vs v.b.width).filterMap (gangLane vs)
      let bits := ls.map (voteBit f)
      if v.md % 4 = 3 then
        let x := ((presentLanes vs v.b.width).filter (fun g =>
          match gangLane vs g with | some p => voteBit f p | none => false)).foldl (fun n g => n + 2 ^ g) 0
        (outReg (v.write true (Quad.all (BitVec.ofNat 64 x)) .u), noExcs)
      else
        let r := match v.md % 4 with
          | 0 => bits.any id
          | 1 => bits.all id
          | _ => bits.all id || !bits.any id
        match predRes v (fun _ => r) with
        | .done o => (o, noExcs)
        | _ => ({}, noExcs)) s

/-! ### RDX, SCAN (R84, R141) -/

/-- Operation `op` with type `t` is accepted by RDX and SCAN (R138). -/
def redOk (f : Fields) (t : Nat) : Bool :=
  let op := modOf f % 8
  let nn := bitOf (modOf f) 3
  (typeInt t || typeW t || typeFP t)
    && decide (op ≤ 5)
    && (!typeFP t || decide (op ≤ 2))
    && (!(t == 24 || t == 25) || decide (3 ≤ op))
    && (!decide (3 ≤ op) || typeW t)
    && (!nn || (typeFP t && (op == 1 || op == 2)))
    && (!f.ext.sat || (op == 0 && typeInt t))

/-- One node of the tree: the lower-index child first, rounded once (R84, R141). -/
def redNode (t op rnd : Nat) (sat nn : Bool) (x y : Nat) : Nat × Excs :=
  let w := typeBits t
  let x := x % 2 ^ w
  let y := y % 2 ^ w
  if typeFP t then
    match op with
    | 0 => deliverOp t rnd 0 false (addVal rnd (decodeF t x) (decodeF t y))
    | 1 => minMaxF t false nn x y
    | _ => minMaxF t true nn x y
  else
    let a := elemInt t x
    let b := elemInt t y
    match op with
    | 0 => (imageInt t (fitInt t sat (a + b)), Excs.none)
    | 1 => (imageInt t (if a ≤ b then a else b), Excs.none)
    | 2 => (imageInt t (if a ≤ b then b else a), Excs.none)
    | 3 => (x &&& y, Excs.none)
    | 4 => (x ||| y, Excs.none)
    | _ => (x ^^^ y, Excs.none)

/-- The tree of R84 from a node downward. -/
def redTree (node : Nat → Nat → Nat × Excs) (leaf : Nat → Option Nat) : Nat → Nat → Option Nat × Excs
  | 0, n => (leaf n, Excs.none)
  | j + 1, n =>
    match redTree node leaf j (2 * n), redTree node leaf j (2 * n + 1) with
    | (some x, e1), (some y, e2) =>
      let (z, e3) := node x y
      (some z, (e1.join e2).join e3)
    | (some x, e1), (none, e2) => (some x, e1.join e2)
    | (none, e1), (r, e2) => (r, e1.join e2)

/-- A register image of an element of type `t`: RDX and SCAN pass a lone leaf on as an element (R63). -/
def elemImage (t x : Nat) : Nat := if typeSigned t then imageInt t (elemInt t x) else x % 2 ^ typeBits t

/-- The row of RDX and SCAN (R138). -/
def encRed (opc md : Nat) : Enc :=
  { opc := opc, lens := [2], dst := .ty, sa := .ty, types := .tov (fun t => typeInt t || typeW t || typeFP t),
    rov := .ext, sat := .ext, md := md, extra := fun f t => redOk f t && f.ext.rov != 6 }

/-- The tree over the present lanes below a bound. -/
def redRoot (vs : List Env) (v : Env) (bound : Nat) : Option Nat × Excs :=
  redTree (redNode v.ty (v.md % 8) v.rnd v.sat (bitOf v.md 3))
    (fun g => if g < bound then gangA vs g else none) (Nat.log2 v.b.width) 0

/-- RDX (R141). -/
def execRdx (f : Fields) (s : State) : Host.Outcome State Fault Refusal :=
  runCross (encRed 0x55 15) f
    (fun vs v =>
      let (r, ex) := redRoot vs v v.b.width
      (outReg (v.write (typeWide v.ty) (Quad.all (BitVec.ofNat 64 (elemImage v.ty (r.getD 0)))) .u), fun _ => ex)) s

/-- SCAN (R141). -/
def execScan (f : Fields) (s : State) : Host.Outcome State Fault Refusal :=
  runCross (encRed 0x56 31) f
    (fun vs v =>
      let bound := fun g => if bitOf v.md 4 then g else g + 1
      let ex := ((presentLanes vs v.b.width).map (fun g => (redRoot vs v (bound g)).2)).foldl Excs.join Excs.none
      (outReg (v.write (typeWide v.ty) (quadNat (fun l =>
        elemImage v.ty ((redRoot vs v (bound (v.lane l))).1.getD 0))) .g), fun _ => ex)) s

/-! ### TOPK (R142) -/

/-- The types of TOPK. -/
def typeTopk (t : Nat) : Bool := t == 18 || t == 22 || typeSF t

/-- Gang lane values `x` before `y` in the order of R142; equal values keep the order of their lanes. -/
def topkBefore (t : Nat) (isMin : Bool) (x y : Nat) : Bool :=
  if typeFP t then
    let a := decodeF t x
    let b := decodeF t y
    if a.isNaN then false
    else if b.isNaN then true
    else cmpZero a b == (if isMin then .lt else .gt)
  else compare (elemInt t x) (elemInt t y) == (if isMin then .lt else .gt)

/-- One present lane put into the order: after every lane that it does not come before. -/
def topkInsert (before : Nat → Nat → Bool) (p : Nat × Nat) : List (Nat × Nat) → List (Nat × Nat)
  | [] => [p]
  | q :: qs => if before p.2 q.2 then p :: q :: qs else q :: topkInsert before p qs

/-- The present lanes in the order of R142, lanes of equal value by ascending lane. -/
def topkOrder (vs : List Env) (v : Env) : List Nat :=
  ((presentLanes vs v.b.width).foldl (fun acc g =>
    match gangA vs g with
    | some x => topkInsert (topkBefore v.ty (bitOf v.md 1)) (g, x) acc
    | none => acc) []).map (fun p => p.1)

/-- TOPK (R142): where the slices of the issue set hold different values of b, each uses its own K. (DESIGN CHOICE, log 118) -/
def execTopk (f : Fields) (s : State) : Host.Outcome State Fault Refusal :=
  runCross { opc := 0x57, lens := [2, 3], dst := .w32, sa := .w32, sb := .u32, types := .tov typeTopk, md := 3 } f
    (fun vs v =>
      let ord := topkOrder vs v
      let k := min v.o.scalar v.b.width
      (outReg (v.write false (quadNat (fun l =>
        let g := v.lane l
        if bitOf v.md 0 then
          if g < k && g < ord.length then ord.getD g 0 else 0xFFFFFFFF
        else
          let r := ord.idxOf g
          if r < k && r < ord.length then r else 0xFFFFFFFF)) .g), noExcs)) s

/-! ### QNT (R78, R80, R129) -/

/-- The present lanes of a block of 32 gang lanes with their values. (DEDUCED, log 28) -/
def qntBlock (vs : List Env) (g : Nat) : List FVal :=
  ((List.range 32).map (fun i => g / 32 * 32 + i)).filterMap (fun h => (gangA vs h).map (decodeF 1))

/-- The largest magnitude's ⌊log2⌋, none for a block of zeros (R78). -/
def amaxLog : List FVal → Option Int
  | [] => none
  | .num _ m e :: vs =>
    let rest := amaxLog vs
    if m = 0 then rest
    else
      let k := e + (bitLen m : Int) - 1
      match rest with
      | some r => some (if r < k then k else r)
      | none => some k
  | _ :: vs => amaxLog vs

/-- emax of R78. -/
def mxEmax (t : Nat) : Int := if t = 10 then 8 else 2

/-- One element quantised with its block (R78): the register image and the exceptions. (DEDUCED, log 28) -/
def qntElem (t mode w : Nat) (block : List FVal) (x : FVal) : Nat × Excs :=
  if block.any (fun v => match v with | .num _ _ _ => false | _ => true) then (0xFF000000, { inv := true })
  else
    let k : Int := match amaxLog block with | some l => clampInt (-127) 127 (l - mxEmax t) | none => -127
    match x with
    | .num n m e =>
      let (b, ex) := roundF (mxElem t) mode w true n m (e - k) false
      (b + (k + 127).toNat * 2 ^ 24, ex)
    | _ => (0xFF000000, { inv := true })

/-- The row of QNT of an MX type (R126, R129, R135). -/
def encQntMx (width : Nat) : Enc :=
  { opc := 0x44, lens := [2, 3], dst := .w32, sa := .w32, types := .tov typeMX, rov := .ext,
    extra := fun f _ => (f.lit?.getD 0) == 0 && decide (32 ≤ width) }

/-- QNT (R129): of an MX type, which TOV must name (R135), a cross-lane instruction; of as8 a lane instruction, in which a TOV of 0
takes the slice's own mode.TYPE. An MX result has tag U where va is uniform and G otherwise, and a slice with no active lane writes
nothing but an E register; a TOV of any other type is refused in the frame of the cross-lane instruction. (DESIGN CHOICE, log 119) -/
def execQnt (f : Fields) (s : State) : Host.Outcome State Fault Refusal :=
  if f.ext.tov.toNat = 13 || f.ext.tov.toNat = 0 then
    runInstr { opc := 0x44, lens := [2, 3], dst := .w32, sa := .w32, sb := .u32, types := .eff (fun t => t == 13), rov := .eff } f
      (fun v _ => fpRes v false (fun l => quantAs8 v.rnd (v.word l) (sextInt 8 v.o.scalar) (v.al l)) (shapeUG [v.a, v.o])) s
  else
    runCross (encQntMx s.curWidth) f
      (fun vs v =>
        let r := fun l => qntElem v.ty v.rnd (v.word l) (qntBlock vs (v.lane l)) (decodeF 1 (v.al l))
        ({ regs := [v.write false (quadNat (fun l => (r l).1)) (v.tagR (shapeUG [v.a]))], eff := v.advance }, fun l => (r l).2)) s

end Sys2Proof.Machine
end

