-- ==== Sys2Proof/Machine/Flow.lean ====
section
/-! DEFINITION. Mode and special registers and the pool instructions (R104 to R112), control transfer, masks and parts (R143 to
R168), groups (R154 to R170), and the trap instructions (R398 to R401). -/

namespace Sys2Proof.Machine

/-- An instruction that only completes, with an effect. -/
def doneEff (g : State → State) : Res := .done { eff := g }

/-- An effect on the executing slice. -/
def Env.onSlice (v : Env) (g : Slice → Slice) : State → State := fun s => s.modSlice v.bid v.sid g

/-! ### MOVS, SETM, GETM, REL (R57, R108 to R110) -/

/-- The selectors of R57: width 64 for clk, trap.addr and trap.pc; none for a value outside the table. -/
def movsWide (sel : Nat) : Option Bool :=
  if sel ≤ 9 then some false
  else match sel with
    | 0x10 => some true | 0x20 => some false | 0x21 => some true | 0x22 => some true | 0x23 => some false
    | _ => none

/-- The value of a special register (R57, R108): `ordered` says that the form is MOVS.o. (DEDUCED, log 29) -/
def movsValue (v : Env) (s : State) (ordered : Bool) : Nat :=
  match v.md with
  | 1 => v.sid
  | 3 => v.b.idx.toNat
  | 4 => v.b.nblocks.toNat
  | 5 => v.b.core
  | 6 => v.b.die
  | 7 => s.fuses.pkg
  | 8 => v.sid / v.gangSlices
  | 9 => v.b.width
  | 0x10 => if ordered then v.x.retired.toNat else (s.die v.b.die).cycle.toNat
  | 0x20 => v.x.frame.cause.toNat
  | 0x21 => v.x.frame.addr.toNat
  | 0x22 => v.x.frame.pc.toNat
  | 0x23 => v.x.frame.lanes.toNat
  | _ => 0

/-- MOVS's result (R57, R90, R108): id.lane and id.thread are affine, every other selector uniform. -/
def movsBody (ordered : Bool) (v : Env) (s : State) : Res :=
  let d := v.f.dst.toNat
  if v.md = 0 then .done { regs := [v.write false (quadNat (fun l => l)) .a] }
  else if v.md = 2 then .done { regs := [v.write false (quadNat (fun l => 4 * v.sid + l)) .a] }
  else .done { regs := [⟨d, (movsWide v.md).getD false, Quad.all (BitVec.ofNat 64 (movsValue v s ordered)), .u, .u, true, v.act⟩] }

/-- The row of MOVS (R104). -/
def encMovs (opc : Nat) (f : Fields) : Enc :=
  { opc := opc, lens := [2], dst := if (movsWide (modOf f)).getD false then .w64 else .w32, md := 0x7FF,
    extra := fun f _ => (movsWide (modOf f)).isSome }

/-- MOVS.o (R108). -/
def execMovsO (f : Fields) (s : State) : Host.Outcome State Fault Refusal := runInstr (encMovs 0xEC f) f (movsBody true) s
/-- MOVS.u (R108). -/
def execMovsU (f : Fields) (s : State) : Host.Outcome State Fault Refusal := runInstr (encMovs 0xED f) f (movsBody false) s

/-- A value that SETM may write: no reserved code in any field (R42 to R45, R47). -/
def modeOk (x : Nat) : Bool :=
  decide (x < 2 ^ 20) && guardOk (bitsOf x 4 0) && (bitsOf x 9 5 == 0 || typeNamed (bitsOf x 9 5))
    && decide (bitsOf x 12 10 ≤ 6)

/-- SETM (R47, R109). -/
def execSetm (f : Fields) (s : State) : Host.Outcome State Fault Refusal :=
  runInstr { opc := 0xEE, lens := [1, 3], gov0 := true, imm := true, extra := fun f _ => modeOk (immValue f) } f
    (fun v _ => doneEff (v.onSlice (fun x => { x with mode := BitVec.ofNat 32 (immValue f) }))) s

/-- GETM (R109). -/
def execGetm (f : Fields) (s : State) : Host.Outcome State Fault Refusal :=
  runInstr { opc := 0xEF, lens := [1, 2], dst := .w32 } f
    (fun v _ => .done { regs := [v.write false (Quad.all (v.x.mode.setWidth 64)) .u] }) s

/-- The registers that REL names (R110). -/
def relRegs (f : Fields) : List Nat :=
  let m := (f.lit?.getD 0)
  let base := if bitOf (modOf f) 10 then 32 else 0
  ((List.range 32).filter (fun k => m.getLsbD k)).map (fun k => base + k)

/-- REL (R110). -/
def execRel (f : Fields) (s : State) : Host.Outcome State Fault Refusal :=
  runInstr { opc := 0xF0, lens := [3], gov0 := true, lit := .role, md := 0x400,
             extra := fun f _ => !bitOf (modOf f) 10 || decide ((f.lit?.getD 0).toNat < 2 ^ 28) } f
    (fun _ _ => .done { rels := relRegs f }) s

/-! ### GROW, SHRINK, POOLQ (R111, R112) -/

/-- The row of GROW and SHRINK (R104). -/
def encGrow (opc : Nat) : Enc := { opc := opc, lens := [1, 3], sb := .u32, gov0 := true }

/-- GROW (R111). (DEDUCED, log 23) -/
def execGrow (f : Fields) (s : State) : Host.Outcome State Fault Refusal :=
  runInstr (encGrow 0xF1) f (fun v s =>
    let d := v.o.scalar
    if d = 0 then .done {}
    else if s.poolSize v.b.die v.b.core < v.b.floor + d then .raise 0x0203 0 v.x.mask
    else if s.floorSum v.b.die v.b.core + d ≤ s.poolSize v.b.die v.b.core && !s.mustYield v.bid v.sid then
      doneEff (fun s => s.modBlock v.bid (fun b => { b with floor := b.floor + d }))
    else .wait (s.joinWaiters v.bid v.sid d true)) s

/-- The words that a slice's last-use bits release (R35, R94). -/
def Env.lastWords (v : Env) (e : Enc) : Nat :=
  ((releasedRegs v.ty v.f (e.sources v.f)).dedup.map (fun k => if v.x.spilled.contains k then 0 else (v.x.reg k).words)).sum

/-- SHRINK (R111): the operand's last use has released its words when the floor is compared (R35). (DEDUCED, log 23) -/
def execShrink (f : Fields) (s : State) : Host.Outcome State Fault Refusal :=
  runInstr (encGrow 0xF2) f (fun v s =>
    let d := v.o.scalar
    if v.b.floor < d || v.b.floor - d < s.usedOf v.bid - v.lastWords (encGrow 0xF2) then .raise 0x0202 0 v.x.mask
    else doneEff (fun s => s.modBlock v.bid (fun b => { b with floor := b.floor - d }))) s

/-- A POOLQ query on the state after the allocation for vd (R112); free words below zero wrap modulo 2^32. (DESIGN CHOICE, log 122) -/
def poolqValue (v : Env) (s : State) : Nat :=
  match v.md with
  | 0 => s.poolSize v.b.die v.b.core
  | 1 => wrapNat 32 (s.freeWords v.b.die v.b.core)
  | 2 => v.b.floor
  | 3 => s.usedOf v.bid
  | 4 => match s.slice? v.bid v.sid with | some x => x.words | none => 0
  | 5 => s.drainOf v.bid
  | _ => if v.x.sticky then 1 else 0

/-- POOLQ (R112). -/
def execPoolq (f : Fields) (s : State) : Host.Outcome State Fault Refusal :=
  runInstr { opc := 0xF3, lens := [2], dst := .w32, md := 7 } f
    (fun v _ =>
      .done { regs := [⟨v.f.dst.toNat, false, Quad.all 0, .u, .u, true, v.act⟩]
              fix := fun s rs => rs.map (fun r => { r with v := Quad.all (BitVec.ofNat 64 (poolqValue v s)) })
              eff := v.onSlice (fun x => if v.md = 7 then { x with sticky := false } else x) }) s

/-! ### The uniform branch rule and the transfers (R150, R151, R164) -/

/-- The outcome of R150 for a set T of selected lanes of M. -/
inductive BranchTaken where
  | yes | no | split
  deriving DecidableEq, Repr

/-- R150 for the lanes that the effective guard selects. -/
def Env.taken (v : Env) : BranchTaken :=
  if v.act = 0 then .no else if v.act = v.x.mask then .yes else .split

/-- A control transfer (R164): the target, and the return pair of a call. -/
def branchTo (v : Env) (target : Dword) (call : Bool) : Res :=
  match v.taken with
  | .split => .raise 0x0104 0 v.act
  | .no => .done {}
  | .yes =>
    if target.getLsbD 0 || target.getLsbD 1 then .raise 0x0102 0 v.act
    else .done { regs := if call then [v.writeUni true v.nextPc] else [], pc := some target }

/-- A literal offset aligned to words (R151). (DEDUCED, log 24) -/
def offsetOk (f : Fields) : Bool := (f.lit?.getD 0).toNat % 4 == 0

/-- The target of a literal offset from the base word's address (R164). -/
def Env.relTarget (v : Env) : Dword := v.x.pc + (v.f.lit?.getD 0).signExtend 64

/-- BRA (R164). -/
def execBra (f : Fields) (s : State) : Host.Outcome State Fault Refusal :=
  runInstr { opc := 0xE0, lens := [3], lit := .role, extra := fun f _ => offsetOk f } f
    (fun v _ => branchTo v v.relTarget false) s

/-- BRX (R164). -/
def execBrx (f : Fields) (s : State) : Host.Outcome State Fault Refusal :=
  runInstr { opc := 0xE1, lens := [1, 2], sa := .u64 } f (fun v _ => branchTo v v.a.v.l0 false) s

/-- CALL (R164). -/
def execCall (f : Fields) (s : State) : Host.Outcome State Fault Refusal :=
  runInstr { opc := 0xE2, lens := [3], dst := .w64, lit := .role, extra := fun f _ => offsetOk f } f
    (fun v _ => branchTo v v.relTarget true) s

/-- CALLX (R164). -/
def execCallx (f : Fields) (s : State) : Host.Outcome State Fault Refusal :=
  runInstr { opc := 0xE3, lens := [1, 2], dst := .w64, sa := .u64 } f (fun v _ => branchTo v v.a.v.l0 true) s

/-- RET (R164). -/
def execRet (f : Fields) (s : State) : Host.Outcome State Fault Refusal :=
  runInstr { opc := 0xE4, lens := [1, 2], sa := .u64 } f (fun v _ => branchTo v v.a.v.l0 false) s

/-! ### Masks (R165) -/

/-- The skip target, taken when M becomes 0 (R165). (DEDUCED, log 24) -/
def Env.skip (v : Env) (m : BitVec 4) : Option Dword :=
  if m = 0 && v.f.lit?.isSome then some v.relTarget else none

/-- A mask instruction's result: the new mask and stack. -/
def maskRes (v : Env) (m : BitVec 4) (st : List MaskEntry) (skips : Bool) : Res :=
  .done { eff := v.onSlice (fun x => { x with mask := m, mstack := st })
          pc := if skips then v.skip m else none }

/-- c of R165: the predicate or 0b1111, inverted with .inv. -/
def maskCond (v : Env) (all inv : Bool) : BitVec 4 :=
  let c := if all then 0xF#4 else v.x.preds.getD v.f.sa.toNat 0
  if inv then ~~~c else c

/-- IFM (R165). -/
def execIfm (f : Fields) (s : State) : Host.Outcome State Fault Refusal :=
  runInstr { opc := 0xE5, lens := [1, 2, 3], sa := if bitOf (modOf f) 1 then .no else .pr, gov0 := true, lit := .role, md := 3,
             extra := fun f _ => offsetOk f } f
    (fun v _ =>
      if v.x.mstack.length = 16 then .raise 0x0106 0 v.x.mask
      else
        let c := maskCond v (bitOf v.md 1) (bitOf v.md 0)
        let m := v.x.mask
        maskRes v (m &&& c) (⟨m, m &&& ~~~c⟩ :: v.x.mstack) true) s

/-- ELSM (R165). -/
def execElsm (f : Fields) (s : State) : Host.Outcome State Fault Refusal :=
  runInstr { opc := 0xE6, lens := [1, 3], gov0 := true, lit := .role, extra := fun f _ => offsetOk f } f
    (fun v _ =>
      match v.x.mstack with
      | [] => .raise 0x0106 0 v.x.mask
      | t :: st => maskRes v t.alt (⟨t.outer, 0⟩ :: st) true) s

/-- ENDM (R165). -/
def execEndm (f : Fields) (s : State) : Host.Outcome State Fault Refusal :=
  runInstr { opc := 0xE7, lens := [1], gov0 := true } f
    (fun v _ =>
      match v.x.mstack with
      | [] => .raise 0x0106 0 v.x.mask
      | t :: st => maskRes v t.outer st false) s

/-- Lanes L taken out of the top n entries (R165). -/
def breakStack (l : BitVec 4) : Nat → List MaskEntry → List MaskEntry
  | 0, st => st
  | _, [] => []
  | n + 1, t :: st => ⟨if n = 0 then t.outer else t.outer &&& ~~~l, t.alt &&& ~~~l⟩ :: breakStack l n st

/-- BRKM (R165). -/
def execBrkm (f : Fields) (s : State) : Host.Outcome State Fault Refusal :=
  runInstr { opc := 0xE8, lens := [2, 3], sa := .pr, gov0 := true, lit := .role, md := 0x3F,
             extra := fun f _ => offsetOk f && decide (1 ≤ modOf f % 32) && decide (modOf f % 32 ≤ 16) } f
    (fun v _ =>
      let n := v.md % 32
      if v.x.mstack.length < n then .raise 0x0106 0 v.x.mask
      else
        let l := v.x.mask &&& maskCond v false (bitOf v.md 5)
        maskRes v (v.x.mask &&& ~~~l) (breakStack l n v.x.mstack) true) s

/-! ### EXIT, NOP, REGANG (R167, R168) -/

/-- A slice exits (R167); with the last one the block retires (R153). -/
def State.exitSlice (s : State) (bid sid : Nat) : State :=
  let s1 := s.endSlice bid sid
  match s1.blocks.get? bid with
  | some b => if b.live.isEmpty then s1.endBlock bid none else s1
  | none => s1

/-- EXIT (R167). -/
def execExit (f : Fields) (s : State) : Host.Outcome State Fault Refusal :=
  runInstr { opc := 0xE9, lens := [1, 2] } f
    (fun v _ =>
      match v.taken with
      | .split => .raise 0x0104 0 v.act
      | .no => .done {}
      | .yes => doneEff (fun s => s.exitSlice v.bid v.sid)) s

/-- NOP (R167). -/
def execNop (f : Fields) (s : State) : Host.Outcome State Fault Refusal :=
  runInstr { opc := 0xEA, lens := [1, 2, 3], gov0 := true, lit := .role } f (fun _ _ => .done {}) s

/-- The slices that a mask names in the gang of a slice, those that exist and have not exited (R168). -/
def Block.named (b : Block) (sid m : Nat) : List Nat :=
  let w := b.width / 4
  ((List.range w).filter (fun i => bitOf m i)).filterMap (fun i =>
    let k := sid / w * w + i
    match b.slices.get? k with
    | some x => if x.run = .ended then none else some k
    | none => none)

/-- The mask with which a slice waits at a REGANG address. -/
def Slice.regangMask (x : Slice) (pc : Dword) : Option Nat :=
  if x.run = .waiting && x.pc = pc then (match x.prog with | .pending m => some m | _ => none) else none

/-- The call set of R168 grown from a list of slices, in at most `fuel` rounds. -/
def Block.callSet (b : Block) (pc : Dword) : Nat → List Nat → List Nat
  | 0, set => set
  | fuel + 1, set =>
    let more := set.flatMap (fun k => match b.slices.get? k with
      | some x => (match x.regangMask pc with | some m => b.named k m | none => [])
      | none => [])
    let new := (more.filter (fun k => !set.contains k)).dedup
    if new.isEmpty then set else Block.callSet b pc fuel (set ++ new)

/-- The call set of a slice, if every member waits at this address (R168). -/
def Block.callSetReady (b : Block) (sid : Nat) (pc : Dword) : Option (List Nat) :=
  let set := b.callSet pc 16 [sid]
  if set.all (fun k => match b.slices.get? k with | some x => (x.regangMask pc).isSome | none => false) then
    some (set.insertionSort (fun a b => a ≤ b))
  else none

/-- Slices joined into one part (R147, R168). -/
def Block.mergeParts (b : Block) (ids : List Nat) : Block := (ids.foldl (fun b i => b.leavePart i) b).renumber ids

/-- The slices of the gang of slice `sid` that wait at a REGANG address in a call set that is ready (R168). -/
def Block.callSetsReady (b : Block) (sid : Nat) (pc : Dword) : List Nat :=
  let w := b.width / 4
  (b.slices.filter (fun p => p.1 / w == sid / w && (p.2.regangMask pc).isSome && (b.callSetReady p.1 pc).isSome)).map (fun p => p.1)

/-- Another slice of the part has begun the instruction and not yet come to wait at it in this issue. -/
def Block.moreToCome (b : Block) (sid : Nat) : Bool :=
  match b.slices.get? sid with
  | none => false
  | some x => (b.partMembers x.part).any (fun i => i != sid &&
      (match b.slices.get? i with | some y => y.pend && y.run == .running && y.crossHome.isNone | none => false))

/-- The row of REGANG (R168). -/
def encRegang : Enc := { opc := 0xEB, lens := [1, 3], sb := .u32, gov0 := true }

/-- Slices that wait at REGANG complete it. -/
def State.endRegang (s : State) (bid : Nat) (f : Fields) (ids : List Nat) : State :=
  ids.foldl (fun s k =>
    let s := s.modSlice bid k Slice.takeLatches
    match s.slice? bid k with
    | some y => complete encRegang.opc f bid k (releasedRegs 0 f (encRegang.sources f)) (y.readsEmpty 0 f (encRegang.sources f)) {} s
    | none => s) s

/-- A slice waits at REGANG with mask `m`. -/
def State.atRegang (s : State) (v : Env) (m : Nat) : State :=
  (s.modSlice v.bid v.sid (fun x => { x with prog := .pending m })).setWaiting v.bid v.sid

/-- REGANG's steps (R168): the slice waits; with the last slice of its part to come to the REGANG, all slices of the gang whose call sets are
ready at this address are released as one part. (DEDUCED, log 23) -/
def regangBody (v : Env) (s : State) : Res :=
  let w := v.gangSlices
  if 2 ^ w ≤ v.o.scalar then .raise 0x0102 0 v.x.mask
  else
    let s1 := s.atRegang v (v.o.scalar ||| 2 ^ (v.sid % w))
    match s1.blocks.get? v.bid with
    | none => .wait s1
    | some b =>
      let ids := if b.moreToCome v.sid then [] else b.callSetsReady v.sid v.x.pc
      let others := ids.filter (fun k => k != v.sid)
      if ids.contains v.sid then doneEff (fun s => (s.endRegang v.bid v.f others).modBlock v.bid (fun b => b.mergeParts ids))
      else .wait ((s1.endRegang v.bid v.f others).modBlock v.bid (fun b => b.mergeParts ids))

/-- REGANG (R168). -/
def execRegang (f : Fields) (s : State) : Host.Outcome State Fault Refusal := runInstr encRegang f regangBody s

/-! ### Groups (R154 to R158, R169, R170) -/

/-- A handle of R154. -/
def makeHandle (blk : Bool) (gen : Half) (slot : Nat) : Nat := (if blk then 2 ^ 31 else 0) + gen.toNat * 256 + slot

/-- The Formed group that a handle names, or GROUP_HANDLE (R154): whether it is a block group, its slot and it. -/
def State.groupOf (s : State) (b : Block) (h : Nat) : Except Half (Bool × Nat × Group) :=
  let blk := bitOf h 31
  let slot := h % 256
  let t := if blk then (s.die b.die).groups else b.groups
  if bitsOf h 30 24 ≠ 0 || (!blk && 15 < slot) then .error 0x0108
  else match t.get? slot with
    | none => .error 0x0108
    | some g =>
      if g.gen.toNat ≠ bitsOf h 23 8 || g.state ≠ 2 || (blk && g.ctx ≠ b.ctx) then .error 0x0108
      else .ok (blk, slot, g)

/-- A group slot written back. -/
def State.putGroup (s : State) (bid : Nat) (blk : Bool) (slot : Nat) (g : Group) : State :=
  match s.blocks.get? bid with
  | none => s
  | some b =>
    if blk then s.modDie b.die (fun x => { x with groups := x.groups.put slot g })
    else s.modBlock bid (fun b => { b with groups := b.groups.put slot g })

/-- The group slots below `n` that are Free, with their last generations (R155). -/
def freeGroups (t : Tab Group) (n : Nat) : List (Nat × Half) :=
  (List.range n).filterMap (fun i => match t.get? i with
    | none => some (i, 0)
    | some g => if g.state = 0 then some (i, g.gen) else none)

/-- A Free group slot for a key, one of a list of those below `n`: slot 0 where all are Free, as in R170's worked case; otherwise R155 does not say
which. (DESIGN CHOICE, log 25) -/
def pickGroup (l : List (Nat × Half)) (n key : Nat) : Option (Nat × Half) :=
  match l with
  | [] => none
  | x :: xs =>
    if xs.length + 1 = n then some x else some ((x :: xs).getD (Config.freeChoice 0 (2 ^ 61 + key) % (xs.length + 1)) x)

/-- A sampled block's shadow, or the block that a shadow re-executes (R354). -/
def State.twin (s : State) (b : Block) : Option Block :=
  match b.shadow, b.shadowOf with
  | some k, _ => s.blocks.get? k
  | none, some m => s.blocks.get? m
  | none, none => none

/-- How often a list of slots taken names a key. -/
def takenOf (l : List (Nat × Nat × Half)) (key : Nat) : Nat := (l.filter (fun q => q.1 == key)).length

/-- The slots that block `w` has taken and its twin `b` has not yet (R160). -/
def Block.aheadOf (w b : Block) : List Nat :=
  (w.gtaken.zipIdx.filter (fun q => decide (takenOf b.gtaken q.1.1 ≤ takenOf (w.gtaken.take q.2) q.1.1))).map (fun q => q.1.2.1)

/-- What a GJOIN that needs a slot finds. -/
inductive GroupSlot where
  | limit
  | wait
  | at (slot : Nat) (gen : Half)
  deriving DecidableEq, Repr

/-- The slot for a new group of a key, with its last generation (R155). Block and shadow take the same slot and generation for the same group, counted by
key, in whatever order their slices come to them (R160): whichever is first takes a slot that is Free in both, and the other takes that one, once it is
Free. (DESIGN CHOICE, log 25) -/
def State.groupSlot (s : State) (b : Block) (blk : Bool) (t : Tab Group) (key : Nat) : GroupSlot :=
  let n := if blk then 256 else 16
  let free := freeGroups t n
  let pick := fun (l : List (Nat × Half)) => match pickGroup l n key with | some (k, g) => GroupSlot.at k g | none => .limit
  if free.isEmpty then .limit
  else match (if blk then none else s.twin b) with
    | none => pick free
    | some w =>
      match (w.gtaken.filter (fun q => q.1 == key))[takenOf b.gtaken key]? with
      | some (_, k, g) => if free.any (fun p => p.1 == k) then .at k (g - 1) else .wait
      | none =>
        let both := free.filter (fun p => (freeGroups w.groups n).any (fun q => q.1 == p.1) && !(w.aheadOf b).contains p.1)
        pick (if both.isEmpty then free else both)

/-- A new group put into its slot, which a block notes for its shadow, and a shadow for its block (R160). -/
def State.takeGroup (s : State) (bid : Nat) (blk : Bool) (slot : Nat) (g : Group) : State :=
  (s.putGroup bid blk slot g).modBlock bid (fun b =>
    if blk || (b.shadow.isNone && b.shadowOf.isNone) then b else { b with gtaken := b.gtaken ++ [(g.key.toNat, slot, g.gen)] })

/-- GJOIN's outcome for a member: it waits, or its group has formed. -/
def gjoinBody (v : Env) (s : State) : Res :=
  let blk := bitOf v.md 0
  let key : Word := BitVec.ofNat 32 v.a.scalar
  let cnt := v.o.scalar
  let me := if blk then v.bid else v.sid
  let code := if blk then v.bid * 256 + v.sid else v.sid
  let limit := if blk then min 64 v.b.nblocks.toNat else v.b.nslices
  let t := if blk then (s.die v.b.die).groups else v.b.groups
  let scopeOk := fun (g : Group) => g.key == key && (!blk || (g.ctx == v.b.ctx && g.node == v.b.node))
  if blk && v.b.shadowOf.isSome then
    doneEff (fun s => (s.modBlock v.bid (fun b => { b with stopped := true })).endBlock v.bid none)
  else if cnt = 0 || limit < cnt then .raise 0x010A 0 v.x.mask
  else match t.find? (fun p => scopeOk p.2 && p.2.waiting.contains code) with
    | some (slot, g) =>
      -- the arrival stands: complete once the group has formed
      if g.state = 2 then
        .done { regs := [v.writeUni false (BitVec.ofNat 64 (makeHandle blk g.gen slot))]
                eff := fun s => s.putGroup v.bid blk slot
                  { (match (if blk then (s.die v.b.die).groups else ((s.blocks.get? v.bid).map (fun b => b.groups)).getD []).get? slot with
                      | some g' => g' | none => g) with waiting := g.waiting.filter (fun c => c != code) } }
      else .wait s
    | none =>
      match t.find? (fun p => scopeOk p.2 && p.2.state == 1) with
      | some (slot, g) =>
        if g.count ≠ cnt then .raise 0x010A 0 v.x.mask
        else
          let cur := if g.current.contains me then g.current else g.current ++ [me]
          let g1 := { g with current := cur }
          if g1.current.length = g1.count then
            let g2 := { g1 with state := 2, published := cur }
            .done { regs := [v.writeUni false (BitVec.ofNat 64 (makeHandle blk g.gen slot))]
                    eff := fun s => s.putGroup v.bid blk slot g2 }
          else .wait (s.putGroup v.bid blk slot { g1 with waiting := code :: g1.waiting })
      | none =>
        let mine := (t.filter (fun p => p.2.state != 0 && p.2.ctx == v.b.ctx)).length
        match s.groupSlot v.b blk t key.toNat with
        | .limit => .raise 0x0107 0 v.x.mask
        | .wait => .wait s
        | .at slot gen =>
          if blk && 32 ≤ mine then .raise 0x0107 0 v.x.mask
          else
            let g : Group := { key := key, gen := gen + 1, state := if cnt = 1 then 2 else 1, count := cnt, current := [me],
                               published := if cnt = 1 then [me] else [],
                               waiting := if cnt = 1 then [] else [code], ctx := v.b.ctx, node := v.b.node, epoch := 0 }
            if cnt = 1 then
              .done { regs := [v.writeUni false (BitVec.ofNat 64 (makeHandle blk g.gen slot))]
                      eff := fun s => s.takeGroup v.bid blk slot g }
            else .wait (s.takeGroup v.bid blk slot g)

/-- GJOIN (R169). -/
def execGjoin (f : Fields) (s : State) : Host.Outcome State Fault Refusal :=
  runInstr { opc := 0xB4, lens := [1, 2, 3], dst := .w32, sa := .u32, sb := .u32, gov0 := true, md := 1 } f gjoinBody s

/-- GLEAVE (R170). -/
def execGleave (f : Fields) (s : State) : Host.Outcome State Fault Refusal :=
  runInstr { opc := 0xB5, lens := [1], sa := .u32, gov0 := true } f (fun v s =>
    match s.groupOf v.b v.a.scalar with
    | .error c => .raise c 0 v.x.mask
    | .ok (blk, slot, g) =>
      let me := if blk then v.bid else v.sid
      if !g.current.contains me then .raise 0x0109 0 v.x.mask
      else doneEff (fun s => s.putGroup v.bid blk slot (if blk then g.leaveBlock v.bid else g.leave id v.sid))) s

/-- The order in which a member counts for ranks: its slice id, or its block id (R157). -/
def State.memberOrder (s : State) (blk : Bool) (m : Nat) : Nat :=
  if blk then (match s.blocks.get? m with | some b => b.idx.toNat | none => 0) else m

/-- GRANK (R157, R170). -/
def execGrank (f : Fields) (s : State) : Host.Outcome State Fault Refusal :=
  runInstr { opc := 0xB6, lens := [1], dst := .w32, sa := .u32, gov0 := true } f (fun v s =>
    match s.groupOf v.b v.a.scalar with
    | .error c => .raise c 0 v.x.mask
    | .ok (blk, _, g) =>
      let me := if blk then v.bid else v.sid
      if !g.current.contains me then .raise 0x0109 0 v.x.mask
      else
        let r := (g.published.filter (fun m => decide (s.memberOrder blk m < s.memberOrder blk me))).length
        .done { regs := [v.writeUni false (BitVec.ofNat 64 r)] }) s

/-- GSIZE (R170). -/
def execGsize (f : Fields) (s : State) : Host.Outcome State Fault Refusal :=
  runInstr { opc := 0xB7, lens := [1], dst := .w32, sa := .u32, gov0 := true } f (fun v s =>
    match s.groupOf v.b v.a.scalar with
    | .error c => .raise c 0 v.x.mask
    | .ok (_, _, g) => .done { regs := [v.writeUni false (BitVec.ofNat 64 g.published.length)] }) s

/-! ### TRAP, BKPT, TRET, ERRL (R399 to R401) -/

/-- The row of TRAP and BKPT: a code of 0 to 255 (R398). -/
def encCode (opc : Nat) : Enc :=
  { opc := opc, lens := [1, 3], imm := true, extra := fun f _ => decide (immValue f ≤ 255) }

/-- TRAP (R399). -/
def execTrap (f : Fields) (s : State) : Host.Outcome State Fault Refusal :=
  runInstr (encCode 0xF8) f (fun v _ =>
    if v.act = 0 then .done {} else .raise (BitVec.ofNat 16 (0x1000 + immValue f)) 0 v.act) s

/-- BKPT (R399). -/
def execBkpt (f : Fields) (s : State) : Host.Outcome State Fault Refusal :=
  runInstr (encCode 0xFF) f (fun v s =>
    let off := match s.ctxs.get? v.b.ctx with | some c => c.bkoff | none => false
    if v.act = 0 || off then .done {} else .raise 0x010B (BitVec.ofNat 64 (immValue f)) v.act) s

/-- The return from a trap entry (R136, R400): a slice that returns to the cross-lane instruction whose issue set it never
left waits there again; one that goes elsewhere leaves the set. -/
def State.tret (s : State) (bid sid : Nat) (target : Dword) : State :=
  match s.slice? bid sid with
  | none => s
  | some x =>
    match x.crossHome with
    | some a =>
      if a = target then
        s.modSlice bid sid (fun y => { y.leaveTrap target with crossHome := none, run := .waiting, pend := true })
      else s.modBlock bid (fun b => (b.leavePart sid).modSlice sid (fun y => { y.leaveTrap target with crossHome := none }))
    | none => s.modSlice bid sid (fun y => y.leaveTrap target)

/-- TRET (R400). -/
def execTret (f : Fields) (s : State) : Host.Outcome State Fault Refusal :=
  runInstr { opc := 0xF9, lens := [1, 2], sa := if modOf f % 4 = 2 then .u64 else .no, gov0 := true, md := 3,
             extra := fun f _ => modOf f % 4 != 3 } f
    (fun v _ =>
      let target := match v.md with | 0 => v.x.frame.pc | 1 => v.x.frame.next | _ => v.a.v.l0
      if !v.x.frame.inTrap then .raise 0x010C 0 v.x.mask
      else if v.md = 2 && (target.getLsbD 0 || target.getLsbD 1) then .raise 0x0102 0 v.x.mask
      else doneEff (fun s => s.tret v.bid v.sid target)) s

/-- The words of log entry `n`, zero outside the last 64 (R401). -/
def State.logWords (s : State) (ctx : Nat) (n : Nat) : List Nat :=
  match s.ctxs.get? ctx with
  | none => List.replicate 8 0
  | some c =>
    if n < c.logCount.toNat && c.logCount.toNat ≤ n + 64 then
      (List.range 8).map (fun k => leNat (s.physRead c.recDie (c.recPa + 0x800 + 32 * (n % 64) + 4 * k) 4))
    else List.replicate 8 0

/-- ERRL (R401). -/
def execErrl (f : Fields) (s : State) : Host.Outcome State Fault Refusal :=
  let n := bitOf (modOf f) 0
  runInstr { opc := 0xFA, lens := [1, 2], dst := if n then .w64 else .eight, sa := if n then .no else .u64, gov0 := true, md := 1 } f
    (fun v s =>
      if bitOf v.md 0 then
        let c := match s.ctxs.get? v.b.ctx with | some c => c.logCount | none => 0
        .done { regs := [v.writeUni true c] }
      else
        let ws := s.logWords v.b.ctx v.a.scalar
        .done { regs := (List.range 8).map (fun k =>
          ⟨v.f.dst.toNat + k, false, Quad.all (BitVec.ofNat 64 (ws.getD k 0)), .u, .u, true, 0xF⟩) }) s

end Sys2Proof.Machine
end

