-- ==== Sys2Proof/Machine/Home.lean ====
section
/-! DEFINITION. The home bay: the recall of update-only copies (R257), and reads, writes and RMWs performed at a home (R182). -/

namespace Sys2Proof.Machine

/-- The update-only line of a core that holds a home line, if there is one. -/
def CLine.isUo (l : CLine) (home pa : Nat) : Bool :=
  match l.kind with
  | .uo _ _ _ => l.home == home && l.pa / 1024 == pa / 1024
  | .data _ => false

/-- One partial applied at the home (R254, R257): `l` is the line of the core that held it. -/
def State.applyPartial (s : State) (die core : Nat) (l : CLine) (op ty : Nat) (p : Nat × Dword) : State :=
  let n := elemSize ty
  if s.poisoned l.home p.1 then
    s.log l.ctx { cause := 0x030C, die := die, core := core, flags := 4, addr := l.va + (p.1 - l.pa) }
  else
    (s.applyWrite l.home p.1 (leBytes n (rmwNew op ty (s.physNat l.home p.1 n) p.2.toNat 0)) die core 0 true).1

/-- One update-only line sent home. -/
def State.applyUo (s : State) (die core : Nat) (l : CLine) : State :=
  match l.kind with
  | .uo op ty parts => parts.foldl (fun s p => s.applyPartial die core l op ty p) s
  | .data _ => s

/-- A core's update-only lines that meet a condition sent home and invalidated (R180, R257); the home line keeps the core in its set while
another of its sectors stays update-only there. -/
def State.flushUo (s : State) (die core : Nat) (p : CLine → Bool) : State :=
  let isU := fun (l : CLine) => (match l.kind with | .uo _ _ _ => true | .data _ => false) && p l
  let ls := (s.core die core).cache.filter isU
  let s1 := s.modCore die core (fun c => { c with cache := c.cache.filter (fun l => !isU l) })
  let s2 := ls.foldl (fun s l =>
    if (s.core die core).cache.any (fun k => k.isUo l.home l.pa) then s
    else s.modLine l.home l.pa (fun b => { b with uo := b.uo.filter (fun u => u != (die, core)) })) s1
  ls.foldl (fun s l => s.applyUo die core l) s2

/-- *Recall* (R257): the update-only copies of a home line combined, in ascending die and then core. -/
def State.recall (s : State) (d pa : Nat) : State :=
  (s.line d pa).uo.insertionSort (fun a b => a.1 < b.1 || (a.1 == b.1 && a.2 ≤ b.2)) |>.foldl
    (fun s u => s.flushUo u.1 u.2 (fun l => l.isUo d pa)) s

/-- A write at the home: the recall of R257, then the write (R182, R223). -/
def State.homeWrite (s : State) (d pa : Nat) (data : List Byte) (die core req : Nat) (alloc : Bool) : State × Clock :=
  (s.recall d pa).applyWrite d pa data die core req alloc

/-- Every update-only copy of the lines that `n` bytes touch recalled. -/
def State.recallRange (s : State) (d pa n : Nat) : State :=
  (List.range ((pa + n - 1) / 1024 - pa / 1024 + 1)).foldl (fun s i => s.recall d ((pa / 1024 + i) * 1024)) s

/-- A write of any length at the home that no core's request caused. (DEDUCED, log 43) -/
def State.homeStore (s : State) (d pa : Nat) (data : List Byte) : State :=
  (s.recallRange d pa data.length).store d pa data

/-- The same for bytes of a page whose policy says whether a bay may take their lines (R364). -/
def State.homeStoreAs (s : State) (alloc : Bool) (d pa : Nat) (data : List Byte) : State :=
  State.storeLines alloc (data.length / 1024 + 2) (s.recallRange d pa data.length) d pa data

/-- Bytes at their home once the update-only copies of their lines are recalled (R257). -/
def State.homeBytes (s : State) (d pa n : Nat) : State × List Byte :=
  let s1 := s.recallRange d pa n
  (s1, s1.physRead d pa n)

/-- A read at the home: the recall, the bytes and the line's stamp (R224). -/
def State.homeRead (s : State) (d pa n : Nat) (alloc : Bool) : State × List Byte × Clock :=
  let s1 := (s.recall d pa).touchLine d pa n false alloc
  (s1, s1.physRead d pa n, (s1.line d pa).stamp)

end Sys2Proof.Machine
end

