-- ==== Sys2Proof/Machine/Perform.lean ====
section
/-! DEFINITION. Requests of cores on their way and performed: the core cache (R179, R180), guest lines (R181, R182), the phase
counts (R220), the home (R212, R223, R224), the host port (R230), and what comes back: fill values (R193), the stamps a slice has
seen (R214, R225) and the counters of stores (R195). -/

namespace Sys2Proof.Machine

/-! ### What comes back -/

/-- Fill `fid` changed, if there is one. -/
def State.modFill (s : State) (fid : Nat) (f : Fill → Fill) : State :=
  match s.fills.get? fid with
  | some x => { s with fills := s.fills.put fid (f x) }
  | none => s

/-- Element `e` of a fill changed. -/
def Fill.modElem (x : Fill) (e : Nat) (f : FillElem → FillElem) : Fill :=
  { x with elems := x.elems.zipIdx.map (fun p => if p.2 = e then f p.1 else p.1) }

/-- A part of an element is known. -/
def FillElem.setPart (x : FillElem) (k : Nat) (v : Dword) : FillElem :=
  { x with parts := x.parts.zipIdx.map (fun p => if p.2 = k then (p.1.1, p.1.2.1, some v) else p.1) }

/-- Every part of an element is known, or it has faulted. -/
def FillElem.resolved (x : FillElem) : Bool := x.fault.isSome || x.parts.all (fun p => p.2.2.isSome)

/-- The value of an element from its parts: each part's offset within the element, size and value. -/
def FillElem.value (x : FillElem) : Nat :=
  (x.parts.map (fun p => (p.2.2.getD 0).toNat * 2 ^ (8 * p.1))).sum

/-- A value read comes back to a part of a fill. -/
def State.fillPart (s : State) (t : Option (Nat × Nat × Nat)) (v : Nat) : State :=
  match t with
  | none => s
  | some (fid, e, k) => s.modFill fid (fun x => x.modElem e (fun y => y.setPart k (BitVec.ofNat 64 v)))

/-- An element of a fill faults; the lowest address stands when both parts fault (R194). -/
def State.fillFaulted (s : State) (t : Option (Nat × Nat × Nat)) (cause : Half) (addr : Nat) : State :=
  match t with
  | none => s
  | some (fid, e, _) => s.modFill fid (fun x => x.modElem e (fun y =>
      { y with fault := match y.fault with
          | some (c, a) => if a.toNat ≤ addr then some (c, a) else some (cause, BitVec.ofNat 64 addr)
          | none => some (cause, BitVec.ofNat 64 addr) }))

/-- A slice of an issue has not completed it (R195). -/
def State.issueHeld (s : State) (i : Nat) (x : Issue) : Bool :=
  match s.blocks.get? x.bid with
  | none => false
  | some b => b.slices.any (fun y => y.2.issueNo == i && y.2.pend && y.2.run != .ended)

/-- One unit of a gang counter's issue ends; the issue stays counted while a slice has not completed it (R195). -/
def State.issueDone (s : State) (id : Option Nat) : State :=
  match id with
  | none => s
  | some i => match s.issues.get? i with
    | none => s
    | some x => if x.left ≤ 1 && !s.issueHeld i x then { s with issues := s.issues.erase i }
                else { s with issues := s.issues.put i { x with left := x.left - 1 } }

/-- The issues of a block of which nothing is outstanding and which every slice has completed are counted no more (R195). -/
def State.closeIssues (s : State) (bid : Nat) : State :=
  { s with issues := s.issues.filter (fun i => i.2.bid != bid || i.2.left != 0 || s.issueHeld i.1 i.2) }

/-- The stamp of what a slice read or wrote, byte by byte (R214). -/
def State.noteStamp (s : State) (bid sid d pa n : Nat) (st : Clock) : State :=
  s.modSlice bid sid (fun x => { x with
    stamps := (List.range n).foldl (fun t i => Tab.put t (physKey d (pa + i)) st) x.stamps })

/-- A value returned to a core of a die: the die's seen clock covers its stamp from now on (R225). -/
def State.noteSeen (s : State) (die : Nat) (st : Clock) : State := s.modDie die (fun x => { x with seen := x.seen.join st })

/-! ### The core cache (R179, R180) -/

/-- The data line of a core cache for a context and a virtual sector. -/
def CLine.isData (l : CLine) (ctx va : Nat) : Bool :=
  match l.kind with
  | .data _ => l.ctx == ctx && l.va == va / 128 * 128
  | .uo _ _ _ => false

/-- The core's update-only line for a context and a virtual sector sent home (R180). -/
def State.uoHome (s : State) (die core ctx va : Nat) : State :=
  s.flushUo die core (fun l => l.ctx == ctx && l.va == va / 128 * 128)

/-- The core's data line for a context and a virtual sector dropped. -/
def State.dropV (s : State) (die core ctx va : Nat) : State :=
  s.modCore die core (fun c => { c with cache := c.cache.filter (fun l => !l.isData ctx va) })

/-- Every data line of a core dropped that meets a condition (R180, R219). -/
def State.dropVs (s : State) (die core : Nat) (p : CLine → Bool) : State :=
  s.modCore die core (fun c => { c with cache := c.cache.filter (fun l =>
    match l.kind with | .data _ => !p l | .uo _ _ _ => true) })

/-- A store of this core into its data line (R180). -/
def CLine.store (l : CLine) (va : Nat) (data : List Byte) (who : Nat) : CLine :=
  match l.kind with
  | .data b => { l with kind := .data (patchBytes b (va - l.va) data),
                        wr := (List.range data.length).foldl (fun t i => Tab.put t (va - l.va + i) who) l.wr }
  | .uo _ _ _ => l

/-- A store of a slice updates its core's data line (R180). -/
def State.storeV (s : State) (die core ctx va : Nat) (data : List Byte) (who : Nat) : State :=
  s.modCore die core (fun c => { c with cache := c.cache.map (fun l => if l.isData ctx va then l.store va data who else l) })

/-- A line put into a core cache of 256 sets of 8 ways (R179); the way least recently used makes room, an update-only one by going
home. -/
def State.allocLine (s : State) (die core : Nat) (l : CLine) : State :=
  let set := l.va / 128 % 256
  let same := (s.core die core).cache.filter (fun k => k.va / 128 % 256 == set)
  let s1 :=
    if same.length < 8 then s
    else match leastUsed (same.map (fun k => (k.used, k.ctx, k.va))) with
      | some (_, c, va) => (s.uoHome die core c va).dropV die core c va
      | none => s
  s1.modCore die core (fun c => { c with cache := l :: c.cache })

/-- A request of a core that writes bytes of a sector and is not yet performed. -/
def Req.writes (r : Req) : Bool := match r.op with | .write _ => true | .rmw _ _ _ _ _ => true | _ => false

/-- Two requests touch a common byte of one home. (DEDUCED, log 35) -/
def Req.overlaps (a b : Req) : Bool :=
  a.home == b.home && a.host == b.host && decide (a.pa < b.pa + b.size) && decide (b.pa < a.pa + a.size)

/-- A sector's bytes as a core's new data line has them: with the stores of this core that are on their way (R180, R214). -/
def State.mergeStores (s : State) (die core home pa : Nat) (bytes : List Byte) : List Byte × Tab Nat :=
  (s.reqs.filter (fun r => r.2.die == die && r.2.core == core && r.2.home == home && r.2.host.isNone
      && decide (r.2.pa < pa + 128) && decide (pa < r.2.pa + r.2.size))).foldl
    (fun acc r => match r.2.op with
      | .write data => (patchBytes acc.1 (r.2.pa - pa) data,
          (List.range data.length).foldl (fun t i => Tab.put t (r.2.pa - pa + i) (r.2.bid * 256 + r.2.sid)) acc.2)
      | _ => acc) (bytes, [])

/-- A data line filled by a read that was served with this sector and stamp (R180); none while an RMW of the core to the sector is
on its way. -/
def State.fillV (s : State) (r : Req) (bytes : List Byte) (st : Clock) : State :=
  let pa := r.pa / 128 * 128
  let busy := s.reqs.any (fun q => q.2.die == r.die && q.2.core == r.core && q.2.home == r.home && q.2.host.isNone
      && q.2.pa / 128 == r.pa / 128 && (match q.2.op with | .rmw _ _ _ _ _ => true | _ => false))
  if !r.alloc || busy then s
  else
    let (b, wr) := s.mergeStores r.die r.core r.home pa bytes
    let l : CLine := { va := r.va / 128 * 128, ctx := r.ctx, leaf := r.leaf, home := r.home, pa := pa, kind := .data b,
                       stamp := st, wr := wr, used := s.tick }
    ((s.dropV r.die r.core r.ctx r.va).uoHome r.die r.core r.ctx r.va).allocLine r.die r.core l

/-- A place in device memory shares a byte with a run of bytes; a piece lies in one sector. -/
def Place.meets (p : Place) (home pa n : Nat) : Bool :=
  match p with
  | .own d a _ => d == home && decide (a / 128 ≤ (pa + n - 1) / 128) && decide (pa / 128 ≤ a / 128)
  | _ => false

/-- A byte of a copy is no older for the slice than what it has seen (R214): the stamp of the home's component covers it. -/
def freshByte (home : Nat) (st : Clock) (seen : Option Clock) : Bool :=
  match seen with
  | none => true
  | some c => counterGe (st.getD home 0) (c.getD home 0)

/-- Two blocks are on one core. -/
def State.sameCore (s : State) (a b : Nat) : Bool :=
  match s.blocks.get? a, s.blocks.get? b with
  | some x, some y => x.die == y.die && x.core == y.core
  | _, _ => false

/-- A block's die is the home. -/
def State.coreHome (s : State) (bid home : Nat) : Bool := match s.blocks.get? bid with | some b => b.die == home | none => false

/-- A data line may answer a read of `n` bytes by a slice without breaking R214: each byte was last stored by the slice itself, or
is covered by the line's stamp, stored by another slice of the core at most where its die is the home, and with no store of the core to
it on its way; and no earlier read of the slice of these bytes is still to be performed. (DEDUCED, log 33) -/
def State.vFresh (s : State) (l : CLine) (bid sid va n : Nat) : Bool :=
  match s.slice? bid sid with
  | none => false
  | some x =>
    let off := va - l.va
    let pa := l.pa + off
    !s.reqs.any (fun r => r.2.bid == bid && r.2.sid == sid && !r.2.writes && r.2.home == l.home && r.2.host.isNone
        && decide (r.2.pa < pa + n) && decide (pa < r.2.pa + r.2.size))
      && !(match s.blocks.get? bid with
        | some b => b.slotFills.any (fun f => f.2.sid == sid && (f.2.src ++ f.2.msrc).any (fun p => p.place.meets l.home pa n))
        | none => false)
      && (List.range n).all (fun i =>
      l.wr.get? (off + i) == some (bid * 256 + sid) ||
        (freshByte l.home l.stamp (x.stamps.get? (physKey l.home (l.pa + off + i)))
          && ((l.wr.get? (off + i)).isNone || s.coreHome bid l.home)
          && !s.reqs.any (fun r => s.sameCore r.2.bid bid && r.2.writes && r.2.home == l.home && r.2.host.isNone
              && decide (r.2.pa ≤ l.pa + off + i) && decide (l.pa + off + i < r.2.pa + r.2.size))))

/-! ### Guest lines (R181, R182) -/

/-- The guest line of a context and a virtual line address at a die. -/
def Die.guest? (x : Die) (ctx va : Nat) : Option Guest := x.guests.find? (fun g => g.ctx == ctx && g.va == va / 1024)

/-- The sector of a guest line that holds an address. -/
def Guest.sector (g : Guest) (pa : Nat) : Option GSector := g.secs.get? (pa % 1024 / 128)

/-- The bytes of a guest sector that a read takes. -/
def GSector.read (q : GSector) (pa n : Nat) : List Byte := (q.bytes.drop (pa % 128)).take n

/-- A guest copy of a sector made at die `die`, the home setting this die's guest bit (R182). -/
def State.fillGuest (s : State) (die ctx va : Nat) (leaf : Dword) (home pa : Nat) : State :=
  let base := pa / 128 * 128
  let q : GSector := { bytes := s.physRead home base 128, poison := s.poisoned home base, stamp := (s.line home pa).stamp, cover := [] }
  let put := fun (g : Guest) => { g with secs := g.secs.put (pa % 1024 / 128) q, used := s.tick }
  let mark := fun (s : State) => s.modLine home pa (fun l => { l with guests := l.guests ||| (1#8 <<< die) })
  match (s.die die).guest? ctx va with
  | some _ => mark (s.modDie die (fun x => { x with
      guests := x.guests.map (fun g => if g.ctx == ctx && g.va == va / 1024 then put g else g) }))
  | none =>
    match s.makeWay die ((s.die die).bay va) (bitsOf va 25 16) with
    | (s1, true) =>
      let g : Guest := { ctx := ctx, va := va / 1024, home := home, pa := pa / 1024, leaf := leaf, secs := [], used := s.tick }
      mark (s1.modDie die (fun x => { x with guests := put g :: x.guests }))
    | (s1, false) => s1

/-- What a guest line answers to a read: its bytes and stamp, where the kind and keys pass against its recorded bits (R367), the
sector is there and the slice has seen nothing newer (R214). (DEDUCED, log 33) -/
def State.guestRead (s : State) (r : Req) : Option (GSector × List Byte) :=
  match (s.die r.die).guest? r.ctx r.va with
  | none => none
  | some g =>
    if (permCause .read g.leaf).isSome || (keyCause .read g.leaf r.keys).isSome then none
    else match g.sector r.pa, s.slice? r.bid r.sid with
      | some q, some x =>
        if (List.range r.size).all (fun i => freshByte r.home q.stamp (x.stamps.get? (physKey r.home (r.pa + i)))) then
          some (q, q.read r.pa r.size)
        else none
      | _, _ => none

/-! ### The phases (R220) -/

/-- The index of a phase's count for a bay. -/
def phaseKey (p bay : Nat) : Nat := p * 64 + bay

/-- Arrivals of a core's writes of a phase at a bay of its die. -/
def Die.arrivals (x : Die) (core p bay : Nat) : Nat := (x.arrived.get? (core * 256 + phaseKey p bay)).getD 0

/-- A write or RMW of a core arrives at its die's bay (R220). -/
def State.arrive (s : State) (r : Req) : State :=
  match r.phase with
  | none => s
  | some p =>
    let k := r.core * 256 + phaseKey p ((s.die r.die).bay r.va)
    s.modDie r.die (fun x => { x with arrived := x.arrived.put k ((x.arrived.get? k).getD 0 + 1) })

/-- The core makes the next phase the open one and sends its counts (R220): the serial number of the close. -/
def State.closePhase (s : State) (die core : Nat) : State × Nat :=
  let c := s.core die core
  (s.modCore die core (fun c => { c with
     openPhase := (c.openPhase + 1) % 4, serial := c.serial + 1, closes := c.closes ++ [⟨c.openPhase, c.serial⟩] }),
   c.serial)

/-- Every bay's arrivals for a core and a phase equal the core's counts (R220). -/
def State.phaseMatched (s : State) (die core p : Nat) : Bool :=
  (List.range 64).all (fun b =>
    ((s.core die core).sent.get? (phaseKey p b)).getD 0 == (s.die die).arrivals core p b)

/-- The oldest close completes: the counters of its phase are reset (R220). -/
def State.completeClose (s : State) (die core : Nat) (p serial : Nat) : State :=
  let s1 := s.modCore die core (fun c => { c with
    closes := c.closes.filter (fun q => q.serial != serial),
    sent := c.sent.filter (fun q => q.1 / 64 != p) })
  s1.modDie die (fun x => { x with arrived := x.arrived.filter (fun q => !(q.1 / 256 == core && q.1 % 256 / 64 == p)) })

/-! ### The host port (R172, R230) -/

/-- A byte of host memory: what was last written there, by the part or by a move of the host (HOST_STORE). (DESIGN CHOICE, log 6) -/
def State.hostByte (s : State) (p a : Nat) : Byte := ((s.port p).mem.get? a).getD (Config.hostByte p a)

/-- Bytes of host memory. (DESIGN CHOICE, log 6; DEDUCED, log 108) -/
def State.hostRead (s : State) (p a n : Nat) : List Byte := (List.range n).map (fun i => s.hostByte p (a + i))

/-- A posted write through a host port. (DEDUCED, log 38; DEDUCED, log 108) -/
def State.hostWrite (s : State) (p a : Nat) (data : List Byte) : State :=
  s.modPort p (fun h => { h with mem := data.zipIdx.foldl (fun t b => Tab.put t (a + b.2) b.1) h.mem })

/-! ### Performing -/

/-- The number of the issue that a request is of, where it counts. -/
def State.issueOf (s : State) (r : Req) : Option Nat :=
  match r.issue, r.fill with
  | some i, _ => some i
  | none, some f => (s.fills.get? f.1).map (fun x => x.issue)
  | none, none => none

/-- Overlapping requests are performed in this order: those of one slice in its program order, reads among them, so that none returns a value
older than an earlier read's (R214), and the writes of one issue by ascending slice (R176, R252), in which order they are sent.
(DEDUCED, log 35) -/
def State.blockedReq (s : State) (id : Nat) (r : Req) : Bool :=
  s.reqs.any (fun q => decide (q.1 < id) && q.2.overlaps r && q.2.bid == r.bid
    && (q.2.sid == r.sid || ((q.2.writes || r.writes) && (s.issueOf q.2).isSome && s.issueOf q.2 == s.issueOf r)))
  || (match s.blocks.get? r.bid with
    | none => false
    | some b => b.slotFills.any (fun f => decide (f.1 < id) && f.2.sid == r.sid
        && (f.2.src ++ f.2.msrc).any (fun p => p.place.meets r.home r.pa r.size && r.host.isNone)))

/-- The request leaves. -/
def State.dropReq (s : State) (id : Nat) : State := { s with reqs := s.reqs.erase id }

/-- An RMW element performed at its home as one step (R251, R267, R271): the old value and, for FADDL, ok. -/
def State.homeRmw (s : State) (d pa op ty : Nat) (v c : Dword) (die core req : Nat) (alloc : Bool) : State × Nat × Bool × Clock :=
  let n := elemSize ty
  let s0 := s.recall d pa
  let old := s0.physNat d pa n
  let c := if op = opFaddl then s0.physNat d (pa + n) n else c.toNat
  let (s1, st) := s0.applyWrite d pa (leBytes n (rmwNew op ty old v.toNat c)) die core req alloc
  (s1, old, faddlOk ty old v.toNat c, st)

/-- Monitors of a bay that are in use (R249). -/
def Die.monitorsAt (x : Die) (bay : Nat) : Nat := (x.monitors.filter (fun m => m.2.bay == bay)).length

/-- A monitor armed, or MONITOR_LIMIT logged once for the context and the bay (R248, R249). Answers whether it is armed. -/
def State.armMonitor (s : State) (d ctx pa ty cond : Nat) (v : Dword) (bid sid : Nat) : State × Bool :=
  let bay := (s.die d).bay pa
  let key := d * 64 + bay
  if (s.die d).monitorsAt bay < 64 then
    let (n, s1) := s.fresh
    let m : Monitor := { bay := bay, ctx := ctx, pa := pa, size := elemSize ty, ty := ty, cond := cond, value := v, bid := bid, sid := sid }
    ((s1.modDie d (fun x => { x with monitors := x.monitors.put n m })).modCtx ctx
      (fun c => { c with monLimit := c.monLimit.filter (fun k => k != key) }), true)
  else
    match s.ctxs.get? ctx with
    | some c =>
      if c.monLimit.contains key then (s, false)
      else
        ((s.log ctx { cause := 0x0503, die := d, flags := 4, lanes := bay }).modCtx ctx
          (fun c => { c with monLimit := key :: c.monLimit }), false)
    | none => (s, false)

/-- The error-log entry of a request that a deferred cause drops (R203, R254). -/
def State.logReq (s : State) (r : Req) (cause : Half) (addr : Nat) : State :=
  match s.blocks.get? r.bid with
  | none => s
  | some b => s.log r.ctx { cause := cause, die := r.die, core := r.core, slice := r.sid, flags := 4, block := b.idx.toNat, addr := addr }

/-- The stamp of a performed write or RMW comes back: to the slice, and to the core when the home is another die (R218, R224). -/
def State.writeBack (s : State) (r : Req) (st : Clock) : State :=
  let s1 := (s.noteStamp r.bid r.sid r.home r.pa r.size st).issueDone r.issue
  if r.home = r.die then s1
  else s1.modCore r.die r.core (fun c => { c with offStamp := c.offStamp.join st })

/-- The stamp of a value that comes back to a core of a die: the die's seen clock covers it from now on, or once the instruction completes
that waits for the value (R225, R238, R240). -/
def State.noteRead (s : State) (r : Req) (st : Clock) : State :=
  match r.fill.bind (fun f => (s.fills.get? f.1).map (fun x => (f.1, x))) with
  | some (fid, x) =>
    if x.regs.isEmpty && !x.draining then s.modFill fid (fun y => { y with stamp := y.stamp.join st }) else s.noteSeen r.die st
  | none => s.noteSeen r.die st

/-- A value read comes back with its stamp. -/
def State.readBack (s : State) (r : Req) (v : Nat) (st : Clock) : State :=
  ((s.noteStamp r.bid r.sid r.home r.pa r.size st).noteRead r st).fillPart r.fill v

/-- The bytes that an instruction has written in a poisoned sector; one that it has covered whole is poisoned no more (R185). -/
def State.coverIssue (s : State) (r : Req) : State :=
  match r.issue with
  | none => s
  | some i => match s.issues.get? i with
    | none => s
    | some x =>
      if !s.poisoned r.home r.pa then s
      else
        let k := physKey r.home r.pa
        let all := (x.cover ++ (List.range r.size).map (fun j => k + j)).dedup
        let s1 := { s with issues := s.issues.put i { x with cover := all } }
        if (List.range 128).all (fun j => all.contains (k / 128 * 128 + j)) then s1.clearPoison r.home (r.pa / 128 * 128) 128 else s1

/-- A read of another die's memory makes a guest copy at its own die (R182). -/
def State.makesGuest (s : State) (r : Req) : Bool :=
  (match r.op with | .read => true | _ => false) && r.die != r.home && !r.atHome && !r.remote && leafPol r.leaf != 3
    && (s.line r.home r.pa).uo.isEmpty

/-- A request performed at its home (R182, R212, R254). -/
def State.performHome (s : State) (id : Nat) (r : Req) : State :=
  let s := s.dropReq id
  let alloc := leafPol r.leaf != 3
  match r.op with
  | .read =>
    match s.firstPoison r.home r.pa r.size with
    | some k => (s.recall r.home r.pa).fillFaulted r.fill 0x030C (r.va + k)
    | none =>
      let (s1, bytes, st) := s.homeRead r.home r.pa r.size alloc
      let s2 := if s.makesGuest r then s1.fillGuest r.die r.ctx r.va r.leaf r.home r.pa else s1
      let s3 := if r.fill.isSome then s2.readBack r (leNat bytes) st else s2.noteSeen r.die st
      if s3.poisoned r.home r.pa then s3 else s3.fillV r (s3.physRead r.home (r.pa / 128 * 128) 128) st
  | .write data =>
    let s0 := (s.coverIssue r).recall r.home r.pa
    let (s1, st) := s0.homeWrite r.home r.pa data r.die r.core id alloc
    (s.asOneWrite s0.nextId (match r.issue with | some i => 4 * i + 1 | none => 0) s1).writeBack r st
  | .rmw op ty v c returns =>
    if s.poisoned r.home r.pa then
      if returns then s.fillFaulted r.fill 0x030C r.va
      else (s.logReq r 0x030C r.va).issueDone r.issue
    else
      let (s1, old, ok, st) := s.homeRmw r.home r.pa op ty v c r.die r.core id alloc
      let s2 := s1.writeBack r st
      if returns then
        let s3 := (s2.noteRead r st).fillPart r.fill old
        match r.fill with
        | some (f, e, _) => if op = opFaddl then s3.fillPart (some (f, e, 1)) (if ok then 1 else 0) else s3
        | none => s3
      else s2
  | .watch cond ty v =>
    if s.poisoned r.home r.pa then (s.recall r.home r.pa).fillFaulted r.fill 0x030C r.va
    else
      let (s1, bytes, st) := s.homeRead r.home r.pa r.size alloc
      let x := leNat bytes
      let s2 := (s1.readBack r x st).dropV r.die r.core r.ctx r.va
      if waitCond cond ty x v.toNat then s2
      else (s2.armMonitor r.home r.ctx r.pa ty cond v r.bid r.sid).1

/-- A host request goes through CXL.cache (R436, R462): the feature is accepted, and the leaf's policy is normal or streaming.
(DEDUCED, log 108) -/
def State.byCxl (s : State) (leaf : Dword) : Bool := s.feature 1 && (leafPol leaf == 0 || leafPol leaf == 2)

/-- The bays of a port's die hold the host lines of `n` bytes (R436). (DEDUCED, log 108) -/
def State.holdCxl (s : State) (p pa n : Nat) : State :=
  s.modPort p (fun h => { h with cxl := (h.cxl ++ (List.range ((pa + n - 1) / 64 - pa / 64 + 1)).map (fun i => pa / 64 + i)).dedup })

/-- A host sector read by an engine: through CXL.cache where the leaf says so (R436). (DEDUCED, log 108) -/
def State.hostFetch (s : State) (p pa n : Nat) (leaf : Dword) : State × List Byte :=
  (if s.byCxl leaf then s.holdCxl p pa n else s, s.hostRead p pa n)

/-- A core has written a host port (R218, R230). -/
def State.notePort (s : State) (die core p : Nat) : State :=
  s.modCore die core (fun c => { c with portsWritten := c.portsWritten.put p s.nextId })

/-- A request performed at a host port (R212, R230, R436). (DEDUCED, log 38) -/
def State.performHost (s : State) (id p : Nat) (r : Req) : State :=
  let s := s.dropReq id
  let s := if s.byCxl r.leaf then s.holdCxl p r.pa r.size else s
  match r.op with
  | .read => s.fillPart r.fill (leNat (s.hostRead p r.pa r.size))
  | .write data =>
    let s1 := (s.hostWrite p r.pa data).issueDone r.issue
    if s.byCxl r.leaf then s1
    else s1.notePort r.die r.core p
  | _ => s

/-- A write of a slice fails at a peer: its next completed pod release says so (R229). -/
def State.failRelease (s : State) (bid sid : Nat) : State := s.modSlice bid sid (fun x => { x with relFail := true })

/-- A request that a deferred cause ends (R203, R229): a read or an RMW as a fill fault, a write dropped and logged; the slice's next pod
release fails after a write or an RMW. -/
def State.denyReq (s : State) (id : Nat) (r : Req) (cause : Half) : State :=
  let s := s.dropReq id
  match r.op with
  | .write _ => ((s.logReq r cause r.va).failRelease r.bid r.sid).issueDone r.issue
  | .rmw _ _ _ _ _ => (s.failRelease r.bid r.sid).fillFaulted r.fill cause r.va
  | _ => s.fillFaulted r.fill cause r.va

/-- The kind of a request. -/
def ReqOp.access (o : ReqOp) : Access :=
  match o with
  | .read => .read
  | .write _ => .write
  | .rmw _ _ _ _ _ => .rmw
  | .watch _ _ _ => .read

/-- The sets that a request makes a line in have a way for it (R183). -/
def State.waysFree (s : State) (r : Req) : Bool :=
  (leafPol r.leaf == 3 || (s.wayFor r.home r.pa).2)
    && (!s.makesGuest r || ((s.die r.die).guest? r.ctx r.va).isSome
        || (s.makeWay r.die ((s.die r.die).bay r.va) (bitsOf r.va 25 16)).2)

/-- A request performed at its home, or held there until its lines have ways (R183). -/
def State.performOrHold (s : State) (id : Nat) (r : Req) : State :=
  if s.waysFree r then s.performHome id r else { s with reqs := s.reqs.put id { r with stage := .held } }

/-- A request performed at its home; one of RLD, RST or RATM takes its verdict there first (R201, R203). -/
def State.performAt (s : State) (id : Nat) (r : Req) : State :=
  if r.remote then
    match s.verdict r.ctx (.own r.home) r.va r.op.access r.keys .peer with
    | (s1, .pass l) => s1.performOrHold id { r with pa := l.pa, leaf := l.entry }
    | (s1, .arriving _) => s1.denyReq id r 0x0301
    | (s1, .fail c) => s1.denyReq id r c
  else s.performOrHold id r

/-- The entries that a die's traffic takes in the hold buffer of the ring port at which it comes to a home (R226): requests that are held, and
sequenced messages that are not applied. -/
def State.heldFrom (s : State) (home src : Nat) : Nat :=
  (s.reqs.filter (fun r => r.2.stage == .held && r.2.home == home && r.2.die == src)).length
    + (s.msgs.filter (fun m => m.2.dst == home && m.2.src == src)).length

/-- The hold buffer takes one more entry of a die (R226): of its 64 reserved entries, or of the port's 64 shared ones. -/
def State.holdRoom (s : State) (home src : Nat) : Bool :=
  let port := s.eastward src home
  decide (s.heldFrom home src < 64)
    || decide ((((List.range 8).filter (fun k => k != home && s.eastward k home == port)).map (fun k => s.heldFrom home k - 64)).sum < 64)

/-- A request to another die stalls at its die while the home's ring port refuses it (R226), or while the break of rings that are Wrapping lies on its
way (R405). -/
def State.stalled (s : State) (r : Req) : Bool :=
  r.host.isNone && r.home != r.die && ((r.writes && !s.holdRoom r.home r.die) || s.barred r.die r.home)

/-- A request arrives at its die's bay (R182, R212, R220, R224): it is counted, and performed there, answered by a guest line, or
sent on to its home with the die's applied clock as its stamp. (DEDUCED, log 33) -/
def State.reqArrival (s : State) (id : Nat) : State :=
  match s.reqs.get? id with
  | none => s
  | some r =>
    if r.stage ≠ .toBay || s.blockedReq id r || s.stalled r then s
    else match r.host with
      | some p => s.performHost id p r
      | none =>
        let s1 := s.arrive r
        if r.home = r.die then s1.performAt id r
        else
          let held := if s.holdRoom r.home r.die then { s1 with reqs := s1.reqs.put id { r with stage := .held, stamp := (s1.die r.die).vc } } else s
          match r.op with
          | .read =>
            if r.atHome || r.remote then held
            else match s1.guestRead r with
              | none => held
              | some (q, bytes) =>
                if q.poison then (s1.dropReq id).fillFaulted r.fill 0x030C r.va
                else if bytes = s1.physRead r.home r.pa r.size || s1.choose (physKey r.home r.pa) then
                  ((s1.dropReq id).readBack r (leNat bytes) q.stamp).fillV r q.bytes q.stamp
                else held
          | _ => held

end Sys2Proof.Machine
end

