-- ==== Sys2Proof/Machine/Layers.lean ====
section
/-! DEFINITION. Layers (R387 to R391): the table, the layer word, requests, and the cancellation of an arrival; the leaves of layer
pages (R366, R370); and the length of the instruction at an address (R393). -/

namespace Sys2Proof.Machine

/-! ### The instruction at an address (R27, R393) -/

/-- What the fetch of a word gives: the word, the cause, or a page of a layer that is arriving (R365 step 6). -/
inductive FetchedWord where
  | word (w : Word)
  | fault (cause : Half)
  | arriving (leaf : Dword)
  deriving DecidableEq, Repr

/-- One word fetched with execute permission in a block's address space (R29); a poisoned word faults with POISON.
(DEDUCED, log 53) -/
def State.fetchWord (s : State) (b : Block) (pc : Dword) : State × FetchedWord :=
  match s.ownerOf pc.toNat with
  | .error c => (s, .fault c)
  | .ok (.peer _ _) => (s, .fault 0x030A)
  | .ok o =>
    match s.verdict b.ctx o pc.toNat .fetch (s.keysOf b.ctx b.die) .slice with
    | (s1, .fail c) => (s1, .fault c)
    | (s1, .arriving l) => (s1, .arriving l.entry)
    | (s1, .pass l) =>
      match o with
      | .host p => let (s2, bytes) := s1.hostFetch p l.pa 4 l.entry; (s2, .word (BitVec.ofNat 32 (leNat bytes)))
      | _ =>
        let s2 := s1.recall o.die l.pa
        if s2.poisoned o.die l.pa then (s2, .fault 0x030C) else (s2, .word (BitVec.ofNat 32 (leNat (s2.physRead o.die l.pa 4))))

/-- The word at a code address, where its fetch faults on nothing. -/
def State.wordAt (s : State) (b : Block) (pc : Dword) : Option Word :=
  match (s.fetchWord b pc).2 with
  | .word w => some w
  | _ => none

/-- The length in words of the instruction at an address: 1 where it is unknown (R28, R393). -/
def State.lenAt (s : State) (b : Block) (pc : Dword) : Nat :=
  match s.wordAt b pc with
  | some w => if bitsOf w.toNat 31 30 ≤ 2 then bitsOf w.toNat 31 30 + 1 else 1
  | none => 1

/-- A fault that a slice takes at its instruction without executing it (R152, R194). -/
def State.trapAt (s : State) (bid sid : Nat) (cause : Half) (addr : Dword) (lanes : BitVec 4) : State :=
  match s.blocks.get? bid, s.slice? bid sid with
  | some b, some x => s.trap bid sid cause addr lanes (s.lenAt b x.pc) false
  | _, _ => s

/-! ### Contexts that run -/

/-- A context's slices may issue, and its engines work (R378, R381). -/
def State.ctxRuns (s : State) (ctx : Nat) : Bool :=
  match s.ctxs.get? ctx with
  | some c => c.state == .running
  | none => false

/-- The node has not ended (R332, R339). -/
def Node.active (n : Node) : Bool := n.state != .done && n.state != .failed

/-- The context is resident: it has started, and neither is swapped out nor has ended (R360, R385). -/
def Ctx.resident (c : Ctx) : Bool := [CtxState.running, .swappingOut, .swappingIn, .ending].contains c.state

/-- A context is resident on a die. -/
def State.residentOn (s : State) (ctx d : Nat) : Bool :=
  match s.ctxs.get? ctx with
  | some c => c.resident && ((List.range c.size).map (fun i => (c.first + i) % 8)).contains d
  | none => false


/-! ### Leaves (R363, R366) -/

/-- Where the leaf of an own-package address stands, as memory holds it: the die, its place, the entry, and whether it is a
512 MiB leaf; none where the residency engine's privileged walk fails, at a check of step 1 or at a poisoned entry (R365). -/
def State.leafAt (s : State) (ctx va : Nat) : Option (Nat × Nat × Dword × Bool) :=
  let d := bitsOf va 52 50
  match s.ctxs.get? ctx with
  | none => none
  | some c =>
    let cap := (s.die d).cap
    let rd := fun (pa : Nat) => BitVec.ofNat 64 (leNat (s.physRead d pa 8))
    let table := fun (pa : Nat) => !s.poisoned d pa && (rd pa).getLsbD 0 && (rd pa).getLsbD 1 && tableEntryOk (rd pa) cap
    let leaf := fun (pa level : Nat) => !s.poisoned d pa && (rd pa).getLsbD 0 && !(rd pa).getLsbD 1 && leafOk (rd pa) level cap false
    let root := c.lroot.getD d 0
    let p1 := root + 8 * bitsOf va 49 42
    if root = 0 || cap ≤ root || !table p1 then none
    else
      let p2 := entryFrame (rd p1) * 65536 + 8 * bitsOf va 41 29
      if leaf p2 2 then some (d, p2, rd p2, true)
      else if !table p2 then none
      else
        let p3 := entryFrame (rd p2) * 65536 + 8 * bitsOf va 28 16
        if leaf p3 3 then some (d, p3, rd p3, false) else none

/-- RES and FRAME of a leaf. -/
def leafWith (e : Dword) (res frame : Nat) : Dword :=
  BitVec.ofNat 64 (bitsOf e.toNat 63 60 * 2 ^ 60 + frame * 2 ^ 32 + bitsOf e.toNat 31 17 * 2 ^ 17 + res * 2 ^ 15
    + bitsOf e.toNat 14 0)

/-- The residency engine rewrites a leaf: memory and the cached copies at all bays of the die in one step (R366). -/
def State.writeLeaf (s : State) (d pa : Nat) (e : Dword) : State :=
  (s.store d pa (leBytes 8 e.toNat)).modDie d (fun x => { x with
    tcache := x.tcache.map (fun t => if t.pa == pa then { t with entry := e } else t) })

/-! ### The layer table and word (R387, R388) -/

/-- A layer table entry (R387). -/
structure LayerRec where
  src : Nat
  dst : Nat
  pages : Nat
  lprio : Nat
  ok : Bool
  deriving DecidableEq, Repr

/-- The entry of layer `l` of a context; a number of NLAYER or above names none. -/
def State.layerRec (s : State) (ctx l : Nat) : LayerRec :=
  match s.ctxs.get? ctx with
  | none => ⟨0, 0, 0, 0, false⟩
  | some c =>
    if c.nlayer ≤ l then ⟨0, 0, 0, 0, false⟩ else
    let b := s.privRead ctx (c.layTab + 32 * l) 24
    let f := fun o n => leNat ((b.drop o).take n)
    let pages := f 0x10 4
    ⟨f 0 8, f 8 8, pages, f 0x14 1,
     f 8 8 % 65536 == 0 && decide (1 ≤ pages) && decide (pages < 2 ^ 24) && decide (f 0x14 1 ≤ 3) && f 0x15 3 == 0⟩

/-- The code of a layer's state (R388). -/
def LayerState.code : LayerState → Nat
  | .absent => 0 | .queued => 1 | .arriving => 2 | .resident => 3 | .evicting => 4

/-- The layer word (R388). -/
def Layer.word (l : Layer) : Nat := l.seq.toNat * 2 ^ 32 + l.landed % 2 ^ 24 * 256 + l.reason * 16 + l.state.code

/-- A layer that nothing has happened to. -/
def Layer.initial : Layer :=
  { state := .absent, landed := 0, reason := 0, seq := 0, need := 0, requested := 0, again := false, tokens := [] }

/-- Layer `l` of a context. -/
def State.layer (s : State) (ctx l : Nat) : Layer :=
  match s.ctxs.get? ctx with
  | some c => (c.layers.get? l).getD Layer.initial
  | none => Layer.initial

/-- A layer's record replaced: SEQ counts a change of its state, and the layer word is written (R388). -/
def State.putLayer (s : State) (ctx l : Nat) (y : Layer) : State :=
  let x := s.layer ctx l
  let y := if y.state = x.state then y else { y with seq := x.seq + 1 }
  let s1 := s.modCtx ctx (fun c => { c with layers := c.layers.put l y })
  if y.word = x.word then s1
  else match s.ctxs.get? ctx with
    | some c => if c.nlayer ≤ l then s1 else s1.privWrite ctx (c.layTab + 32 * l + 0x18) (leBytes 8 y.word)
    | none => s1

/-- The die whose residency engine serves a layer (R389). -/
def State.layerDie (s : State) (ctx l : Nat) : Nat :=
  match s.ctxs.get? ctx with
  | some c => if c.nlayer ≤ l then c.first else bitsOf (s.layerRec ctx l).dst 52 50
  | none => 0

/-- A *request* of a layer (R389). -/
def State.requestLayer (s : State) (ctx l : Nat) : State :=
  let x := s.layer ctx l
  match x.state with
  | .absent =>
    (s.putLayer ctx l { x with state := .queued, need := s.tick, requested := s.tick }).modDie (s.layerDie ctx l)
      (fun d => { d with layerQ := d.layerQ ++ [(ctx, l)] })
  | .queued => s.putLayer ctx l { x with requested := s.tick, need := s.tick }
  | .arriving => s.putLayer ctx l { x with requested := s.tick, need := s.tick }
  | .resident => s.putLayer ctx l { x with need := s.tick }
  | .evicting => s.putLayer ctx l { x with again := true, requested := s.tick }

/-- The layer of a leaf requested where its verdict is *arriving* and the layer is absent or evicting (R365 step 6). -/
def State.requestByLeaf (s : State) (ctx : Nat) (leaf : Dword) : State :=
  match (s.layer ctx (leafLayer leaf)).state with
  | .absent => s.requestLayer ctx (leafLayer leaf)
  | .evicting => s.requestLayer ctx (leafLayer leaf)
  | _ => s

/-! ### Pages of a layer (R370, R387) -/

/-- The virtual address of page `p` of a layer. -/
def LayerRec.pageVa (r : LayerRec) (p : Nat) : Nat := r.dst + p * 65536

/-- The leaf of page `p` of a layer, if it is as R387 asks: its place and the entry. -/
def State.pageLeaf (s : State) (ctx l p : Nat) : Option (Nat × Nat × Dword) :=
  match s.leafAt ctx ((s.layerRec ctx l).pageVa p) with
  | some (d, pa, e, big) => if !big && leafLP e && leafLayer e == l then some (d, pa, e) else none
  | none => none

/-- RES of a page of a layer; absent where the leaf is not as R387 asks. -/
def State.pageRes (s : State) (ctx l p : Nat) : Nat :=
  match s.pageLeaf ctx l p with
  | some (_, _, e) => leafRes e
  | none => 0

/-- A page of a layer set to a residency with a frame; a frame given up is free again. -/
def State.setPage (s : State) (ctx l p res frame : Nat) : State :=
  match s.pageLeaf ctx l p with
  | none => s
  | some (d, pa, e) =>
    let s1 := s.writeLeaf d pa (leafWith e res frame)
    if res = 0 then s1.modDie d (fun x => { x with poolFrames := x.poolFrames.filter (fun f => f != entryFrame e) }) else s1

/-- A token completes for a layer (R402). -/
def State.endLayerTokens (s : State) (ctx l : Nat) (failed : Bool) (cause : Half) : State :=
  let x := s.layer ctx l
  let s1 := x.tokens.foldl (fun s t => s.finishToken t failed cause (x.landed * 65536) 0) s
  s1.putLayer ctx l { x with tokens := [] }

/-- The page of an address has not landed. -/
def State.pageAway (s : State) (ctx va : Nat) : Bool :=
  match s.leafAt ctx va with
  | some (_, _, e, _) => leafRes e != 2
  | none => true

/-- The slice waits on its core, or would but for a spill (R97): its wait can come to a fault. -/
def Slice.waits (x : Slice) : Bool := x.run == .waiting || x.run == .parked true

/-- The slices that wait on a layer (R391, R402), with the trap.addr and trap.lanes of its cancellation; LAYW waits on no page, and its address is the layer id. A saved slice is
not told. -/
def State.layerWaiters (s : State) (ctx l : Nat) : List (Nat × Nat × Dword × BitVec 4) :=
  (s.blocks.filter (fun b => b.2.ctx == ctx)).flatMap (fun b =>
    b.2.slices.filterMap (fun x =>
      if x.2.waits then
        match x.2.prog with
        | .parked on => (on.find? (fun q => q.1 == l && (q.2.1.toNat == l || s.pageAway ctx q.2.1.toNat))).map (fun q => (b.1, x.1, q.2.1, q.2.2))
        | _ => none
      else none))

/-- A waiting slice takes a cause as the fault of its wait (R152, R391); it takes it as it takes any that it is told of (R194). -/
def Slice.waitFault (x : Slice) (cause : Half) (addr : Dword) (lanes : BitVec 4) : Slice :=
  { x with faults := x.faults ++ [⟨60, cause, addr, lanes⟩] }

/-- The engine entries that are parked on a page of a layer (R314, R365), with the page's address. -/
def State.layerEntries (s : State) (ctx l : Nat) : List (Nat × Nat) :=
  (s.entries.filter (fun e => e.2.ctx == ctx)).filterMap (fun e =>
    (e.2.onLayer.find? (fun q => q.1 == l && s.pageAway ctx (q.2 * 65536))).map (fun q => (e.1, q.2 * 65536)))

/-- Two ranges of addresses of the own package meet. -/
def Lease.meets (l : Lease) (va n : Nat) : Bool :=
  let a := va % 2 ^ 53
  let b := l.base % 2 ^ 53
  decide (b < a + n) && decide (a < b + l.pages * 65536)

/-- The stream entries and the parts of collective nodes that are parked on a page of a layer take LAYER_CANCELLED (R365, R389): each fails at its next
turn. A saved block's entry is not told. -/
def State.cancelParked (s : State) (ctx l : Nat) : State :=
  let hit := fun (on : List (Nat × Nat)) => leastUsed ((on.filter (fun q => q.1 == l && s.pageAway ctx q.2)).map (fun q => (q.2, ())))
  { s with
    blocks := s.blocks.map (fun (b : Nat × Block) => (b.1, if b.2.ctx != ctx || b.2.state != .resident then b.2 else
      { b.2 with stream := b.2.stream.map (fun e => match hit e.parked with
          | some (a, _) => { e with parked := [], failed := some (0x0601, a) }
          | none => e) }))
    nodes := s.nodes.map (fun (n : Nat × Node) => (n.1, if n.2.ctx != ctx then n.2 else
      let lost := n.2.unstarted.filterMap (fun d => (hit ((n.2.parked.filter (fun q => q.1 == d)).map (fun q => q.2))).map (fun h => (d, h.1)))
      { n.2 with partFailed := lost.foldl (fun t q => Tab.put t q.1 q.2) n.2.partFailed })) }

/-- The arrival of a queued or arriving layer cancelled (R389, R390): its Arriving pages go Absent, its waiters and the entries and node parts parked on
it take LAYER_CANCELLED, its tokens fail with that cause, or with LAYER_QUOTA where the layer's pages alone exceed the quota, and a Leasing range without
STREAMED over its pages fails. (DESIGN CHOICE, log 128) -/
def State.cancelLayer (s : State) (ctx l reason : Nat) : State :=
  let x := s.layer ctx l
  if x.state ≠ .queued && x.state ≠ .arriving then s
  else
    let r := s.layerRec ctx l
    let s1 := (List.range r.pages).foldl (fun s p => if s.pageRes ctx l p = 1 then s.setPage ctx l p 0 0 else s) s
    let d := s1.layerDie ctx l
    let s2 := s1.modDie d (fun y => { y with
      layerQ := y.layerQ.filter (fun q => q != (ctx, l)), arriving := y.arriving.filter (fun q => q != (ctx, l)) })
    let s3 := s2.putLayer ctx l { x with state := .absent, reason := reason }
    let alone := match s.ctxs.get? ctx with | some c => c.layerQuota != 0 && decide (c.layerQuota < r.pages) | none => false
    let s4 := s3.endLayerTokens ctx l true (if alone then 0x0603 else 0x0601)
    let s5 := (s4.layerWaiters ctx l).foldl (fun s w => s.modSlice w.1 w.2.1 (fun x => x.waitFault 0x0601 w.2.2.1 w.2.2.2)) s4
    let s6 := (s5.cancelParked ctx l |>.layerEntries ctx l).foldl (fun s e => s.failPiece e.1 0x0601 (BitVec.ofNat 64 e.2)) (s5.cancelParked ctx l)
    (s6.nodes.filter (fun n => n.2.ctx == ctx && n.2.state == .leasing
        && n.2.leases.any (fun e => !e.streamed && e.meets r.dst (r.pages * 65536)))).foldl
      (fun s n => s.failNode n.1 0x0601) s6

end Sys2Proof.Machine
end

