-- ==== Sys2Proof/Machine/Access.lean ====
section
/-! DEFINITION. The shared parts of memory instructions: elements and their parts (R175), the checks of R177, the verdicts (R178), the
scratchpad (R173, R189), the view and the buffer of an ordered block (R349), the requests sent (R180, R220), fills (R193) and the
gang counters (R195). -/

namespace Sys2Proof.Machine

/-! ### Elements -/

/-- An element that a lane reads or writes: its lane, its number in the lane's run, its address and its size. -/
structure MElem where
  lane : Nat
  k : Nat
  va : Nat
  size : Nat
  deriving DecidableEq, Repr, Inhabited

/-- A lane that fails a check, with the cause and the byte address at which it fails. -/
structure LaneFail where
  lane : Nat
  cause : Half
  addr : Nat
  deriving DecidableEq, Repr

/-- The cause of a failing step, its trap.addr and its trap.lanes (R177): that of the lowest failing lane. -/
def pickFail (fs : List LaneFail) : Option (Half × Dword × BitVec 4) :=
  match (leastUsed (fs.map (fun f => (f.lane, f.cause)))) with
  | none => none
  | some (l, c) =>
    let mine := (fs.filter (fun f => f.lane == l && f.cause == c)).map (fun f => (f.addr, ()))
    let addr := match leastUsed mine with | some (a, _) => a | none => 0
    some (c, BitVec.ofNat 64 addr, laneSet ((fs.filter (fun f => f.cause == c)).map (fun f => f.lane)))

/-- The signed byte offset of a literal. -/
def litOff (f : Fields) : Nat := ((f.lit?.getD 0).signExtend 64).toNat

/-- The literal as an integer. -/
def litInt (f : Fields) : Int := (f.lit?.getD 0).toInt

/-- The parts of an element that starts at `va`, from an offset of it on: one in each 128-byte sector. -/
def cutParts (va n : Nat) : Nat → Nat → List (Nat × Nat × Nat)
  | 0, _ => []
  | fuel + 1, off =>
    let a := (va + off) % 2 ^ 64
    let k := 128 - a % 128
    if n - off ≤ k then [(off, a, n - off)] else (off, a, k) :: cutParts va n fuel (off + k)

/-- The parts of an element, one in each 128-byte sector (R175): the offset within the element, the address and the size. -/
def partsOf (va n : Nat) : List (Nat × Nat × Nat) := cutParts va n (n / 128 + 2) 0

/-- Global elements of the active lanes: `count` elements of `size` bytes from the base pair and the literal (R172, R205). -/
def Env.globalElems (v : Env) (base : Quad Dword) (size count : Nat) (lanes : List Nat) : List MElem :=
  lanes.flatMap (fun l => (List.range count).map (fun k =>
    { lane := l, k := k, va := ((base.get l).toNat + litOff v.f + k * size) % 2 ^ 64, size := size }))

/-- What step 1 of R177 asks of a global access beside R172: the alignment, and whether it is an RMW (R251). -/
structure FormRule where
  align : Nat := 1
  rmw : Bool := false

/-- Step 1 of R177 on one global element. -/
def State.formFail (s : State) (q : FormRule) (e : MElem) : Option LaneFail :=
  let bad := fun c => some (LaneFail.mk e.lane c e.va)
  match s.ownerOf e.va with
  | .error c => bad c
  | .ok o =>
    match o with
    | .peer _ _ => bad 0x030A
    | _ =>
      if q.rmw && (match o with | .host _ => true | _ => false) then bad 0x0305
      else match s.ownerOf ((e.va + e.size - 1) % 2 ^ 64) with
        | .error _ => bad 0x030B
        | .ok p =>
          if p ≠ o then bad 0x030B
          else if e.va % q.align ≠ 0 then bad 0x030F
          else none

/-- Step 1 of R177 on a list of global elements. -/
def State.formFails (s : State) (q : FormRule) (es : List MElem) : List LaneFail := es.filterMap (s.formFail q)

/-! ### Ordered blocks (R347 to R353) -/

/-- The block runs in an ordered node (R347). -/
def State.isOrdered (s : State) (b : Block) : Bool :=
  match s.nodes.get? b.node with | some n => n.ordered | none => false

/-- A byte as an ordered block reads it (R349): its latest write of the round, which stands last in the buffer, or the byte at the
round's start. -/
def State.viewByte (s : State) (b : Block) (d pa : Nat) : Byte :=
  match (b.roundBytes.filter (fun r => r.die == d && r.pa == pa)).getLast? with
  | some r => r.byte
  | none => (s.physRead d pa 1).getD 0 0

/-- The update-only copies of an ordered block's lines recalled before it reads them: its view is of what their homes then hold (R257, R349). -/
def State.recallFor (s : State) (ordered : Bool) (ps : List Placed) : State :=
  if ordered then ps.foldl (fun s p => match p.place with | .own d pa _ => s.recall d pa | _ => s) s else s

/-- Bytes as an ordered block reads them. -/
def State.viewRead (s : State) (b : Block) (d pa n : Nat) : List Byte :=
  (List.range n).map (fun i => s.viewByte b d (pa + i))

/-- A poisoned sector among the bytes that an ordered block reads, unless its own writes of the round have covered the sector (R185, R349). -/
def State.viewPoison (s : State) (b : Block) (d pa n : Nat) : Bool :=
  (List.range n).any (fun i =>
    let base := (pa + i) / 128 * 128
    s.poisoned d (pa + i) && !(List.range 128).all (fun j => b.roundBytes.any (fun r => r.die == d && r.pa == base + j)))

/-- The line is private to a block in its round (R352). -/
def State.isPrivate (s : State) (b : Block) (d pa : Nat) : Bool :=
  (s.line d pa).ord.get? b.node == some (.priv b.idx.toNat)

/-- The home lines of the set of an address, other than its own, that are pinned or held (R183, R353). -/
def State.keptWays (s : State) (d pa : Nat) : List Nat :=
  (((s.die d).waysUsed ((s.die d).bay pa) (bitsOf pa 25 16)).1.filterMap (fun p => if p.2.1 then none else p.2.2)).filter
    (fun l => l != pa / 1024)

/-- A record of a context's round log taken for a node on a die; false where the die's share is full (R392). (DESIGN CHOICE, log 9) -/
def State.takeRecord (s : State) (ctx node d : Nat) : State × Bool :=
  match s.ctxs.get? ctx with
  | none => (s, true)
  | some c =>
    let key := node * 8 + d
    let used := ((c.rlogUsed.filter (fun u => u.1 % 8 == d)).map (fun u => u.2)).sum
    if c.rlogSize / max c.size 1 < Config.roundRecord + used then (s, false)
    else (s.modCtx ctx (fun c => { c with rlogUsed := c.rlogUsed.put key ((c.rlogUsed.get? key).getD 0 + Config.roundRecord) }), true)

/-- A line made to hold a round's state (R353): held in its bay, in a way of it, while its set then keeps one way neither pinned nor held, else
a record of the context's round log; false where the die's share of the log is full (R392). A device-uncached page is given no way, `alloc` false, and
its state goes to the log unless its line is there already (R364). (DESIGN CHOICE, log 9) -/
def State.holdLine (s : State) (b : Block) (d pa : Nat) (alloc : Bool) : State × Bool :=
  if (s.line d pa).held then (s, true)
  else if (alloc || (s.line d pa).resident) && (s.keptWays d pa).length < 15 then ((s.wayFor d pa).1.modLine d pa (fun l => { l with held := true }), true)
  else s.takeRecord b.ctx b.node d

/-- The lines of a block's writes made to hold its round's state, one after another; false where one finds its share of the log full
(R353, R392). -/
def State.holdAll (s : State) (b : Block) (ps : List Placed) : State × Bool :=
  ps.foldl (fun (acc : State × Bool) p => match p.place with
    | .own d pa leaf => if !acc.2 then acc else acc.1.holdLine b d pa (leafPol leaf != 3)
    | _ => acc) (s, true)

/-- The block has buffered something of a line in its round, or an engine or drain has for it (R351). -/
def Block.buffers (b : Block) (k : Nat) : Bool :=
  b.roundBytes.any (fun r => physKey r.die r.pa / 1024 == k) || b.roundOps.any (fun o => physKey o.die o.pa / 1024 == k)
    || b.late.any (fun w => physKey w.die w.pa / 1024 == k)

/-- A pin's set keeps one way neither pinned nor held, once one held line's state has moved to the round log of a context that has buffered it
(R353); false where that log has no room. (DESIGN CHOICE, log 9) -/
def State.pinRoom (s : State) (d pa : Nat) : State × Bool :=
  if (s.keptWays d pa).length < 15 then (s, true)
  else match (s.keptWays d pa).find? (fun l => (s.line d (l * 1024)).pins.isEmpty) with
    | none => (s, false)
    | some l => match s.blocks.find? (fun b => b.2.buffers (physKey d (l * 1024) / 1024)) with
      | none => (s.modLine d (l * 1024) (fun x => { x with held := false }), true)
      | some b => match s.takeRecord b.2.ctx b.2.node d with
        | (s1, true) => (s1.modLine d (l * 1024) (fun x => { x with held := false }), true)
        | (s1, false) => (s1, false)

/-! ### Verdicts (R178) -/


/-- What the judging of one part gives. -/
inductive Judge where
  | ok (p : Place)
  | arriving (leaf : Dword)
  | fail (c : Half)
  deriving DecidableEq, Repr

/-- The core's data line of an address. -/
def State.vLine (s : State) (v : Env) (va : Nat) : Option CLine :=
  (s.core v.b.die v.b.core).cache.find? (fun l => l.isData v.b.ctx va)

/-- A load fails the check against the bits that its core's data line recorded (R180, R367). -/
def State.lineFails (s : State) (v : Env) (va : Nat) : Bool :=
  match s.vLine v va with
  | none => false
  | some l => (permCause .read l.leaf).isSome || (keyCause .read l.leaf (s.keysOf v.b.ctx v.b.die)).isSome

/-- The core's data line that may answer a read (R180), and what it answers. -/
def State.lineHit (s : State) (v : Env) (va n : Nat) : Option (CLine × List Byte) :=
  match s.vLine v va with
  | none => none
  | some l =>
    if !s.vFresh l v.bid v.sid va n then none
    else match l.kind with
      | .data b => some (l, (b.drop (va - l.va)).take n)
      | .uo _ _ _ => none

/-- One part judged by its owner (R177 step 2, R365), or answered by the core cache where the access permits it (R180); a data line that
the load fails is dropped. (DEDUCED, log 30; DEDUCED, log 33) -/
def State.judge (s0 : State) (v : Env) (kind : Access) (cached : Bool) (va n : Nat) : State × Judge :=
  let s := if cached && s0.lineFails v va then s0.dropV v.b.die v.b.core v.b.ctx va else s0
  match s.ownerOf va with
  | .error c => (s, .fail c)
  | .ok o =>
    let keys := s.keysOf v.b.ctx v.b.die
    let (s1, r) := s.verdict v.b.ctx o va kind keys .slice
    let plain : Judge := match r with
      | .fail c => .fail c
      | .arriving l => .arriving l.entry
      | .pass l => match o with
        | .own d => .ok (.own d l.pa l.entry)
        | .host p => .ok (.host p l.pa l.entry)
        | .peer _ _ => .fail 0x030A
    match (if cached then s.lineHit v va n else none) with
    | none => (s1, plain)
    | some (l, bytes) =>
      let pa := l.pa + (va - l.va)
      let same := match plain with
        | .ok (.own d p _) => d == l.home && p == pa && s.physRead d p n == bytes && !s.poisoned d p
        | _ => false
      if same || s.choose va then (s, .ok (.hit l.home pa bytes))
      else (s1.dropV v.b.die v.b.core v.b.ctx va, plain)

/-- What the verdicts on all elements give: their places, or how the instruction ends here. -/
inductive Gate where
  | go (s : State) (ps : List Placed)
  | stop (r : Res)

/-- Parts of all elements. -/
def allParts (es : List MElem) : List (Nat × Nat × Nat × Nat × Nat × Nat) :=
  es.zipIdx.flatMap (fun q => (partsOf q.1.va q.1.size).zipIdx.map (fun p => (q.2, q.1.lane, p.2, p.1.1, p.1.2.1, p.1.2.2)))

/-- Step 2 of R177 over all elements (R178): every verdict is taken before anything is performed. (DEDUCED, log 30) -/
def State.gate (s : State) (v : Env) (kind : Access) (cached : Bool) (es : List MElem) : Gate :=
  let r := (allParts es).foldl (fun (acc : State × List (Nat × Nat × Nat × Nat × Nat × Nat × Judge)) p =>
      let (e, l, k, off, va, n) := p
      let (s1, j) := acc.1.judge v kind cached va n
      (s1, acc.2 ++ [(e, l, k, off, va, n, j)])) (s, [])
  let fails := r.2.filterMap (fun q => match q with
    | (_, l, _, _, va, _, .fail c) => some (LaneFail.mk l c va)
    | _ => none)
  match pickFail fails with
  | some (c, a, ls) => .stop (.raiseIn r.1 c a ls)
  | none =>
    let parks := r.2.filterMap (fun q => match q with
      | (_, l, _, _, va, _, .arriving leaf) => some (l, va / 65536 * 65536, leaf)
      | _ => none)
    if parks.isEmpty then
      .go r.1 (r.2.filterMap (fun q => match q with
        | (e, _, k, off, va, n, .ok pl) => some ⟨e, k, off, va, n, pl⟩
        | _ => none))
    else
      let s1 := parks.foldl (fun s p => s.requestByLeaf v.b.ctx p.2.2) r.1
      let on := (parks.map (fun p => (leafLayer p.2.2, BitVec.ofNat 64 p.2.1,
        laneSet ((parks.filter (fun q => q.2.1 == p.2.1)).map (fun q => q.1))))).dedup
      .stop (.wait (s1.modSlice v.bid v.sid (fun x => { x with prog := .parked on })))

/-- Step 1 and then step 2 of R177 for global elements. -/
def State.checkGlobal (s : State) (v : Env) (q : FormRule) (kind : Access) (cached : Bool) (es : List MElem) : Gate :=
  match pickFail (s.formFails q es) with
  | some (c, a, ls) => .stop (.raise c a ls)
  | none => s.gate v kind cached es

/-! ### The gang counters (R195) -/

/-- The gang of a slice in its block. -/
def Env.gang (v : Env) : Nat := v.sid / (v.b.width / 4)

/-- A gang's counter. -/
def State.gangCount (s : State) (bid gang : Nat) (load : Bool) : Nat :=
  (s.issues.filter (fun i => i.2.bid == bid && i.2.gang == gang && i.2.load == load)).length

/-- The issue may be counted: it is counted already, or the counter is below 63 (R195). -/
def State.counterRoom (s : State) (v : Env) (load : Bool) : Bool :=
  (s.issues.get? v.x.issueNo).isSome || decide (s.gangCount v.bid v.gang load < 63)

/-- A slice of a lower id has not completed the issue yet: its elements are performed first (R176, R252). One that waits at a round point has
elements of shared lines only to perform at the commit, and holds back no RMW on a private line (R260). (DEDUCED, log 35) -/
def Env.behind (v : Env) : Bool :=
  v.b.slices.any (fun y => decide (y.1 < v.sid) && y.2.part == v.x.part && y.2.issueNo == v.x.issueNo && y.2.pc == v.x.pc && y.2.pend
    && y.2.run != .ended && y.2.prog != .round)

/-- A store may be performed: its issue may be counted (R195), and it is its slice's turn (R176). -/
def State.storeRoom (s : State) (v : Env) : Bool := s.counterRoom v false && !v.behind

/-- `n` more units of the part's issue are outstanding; with none it is counted while another slice has not completed it (R195). -/
def State.countIssue (s : State) (v : Env) (load : Bool) (n : Nat) : State :=
  let (old, cover) := match s.issues.get? v.x.issueNo with | some i => (i.left, i.cover) | none => (0, [])
  { s with issues := s.issues.put v.x.issueNo ⟨v.bid, v.gang, load, old + n, cover⟩ }

/-! ### Requests sent (R180, R220) -/

/-- The core's count of its open phase for the bay of an address has room, or the core may close the phase (R220). -/
def State.phaseRoom (s : State) (v : Env) (n : Nat) : Bool :=
  let c := s.core v.b.die v.b.core
  (List.range 64).all (fun b => decide ((c.sent.get? (phaseKey c.openPhase b)).getD 0 + n ≤ 65535)) || decide (c.closes.length < 3)

/-- The ring ports of other dies take a slice's writes (R226). -/
def State.ringRoom (s : State) (v : Env) (ps : List Placed) : Bool :=
  ps.all (fun p => match p.place with
    | .own d _ _ => d == v.b.die || s.holdRoom d v.b.die
    | _ => true)

/-- A slice's writes can be sent: the phase has room (R220), and the ring ports of other dies take them (R226). -/
def State.sendRoom (s : State) (v : Env) (ps : List Placed) : Bool := s.phaseRoom v ps.length && s.ringRoom v ps

/-- The phase closed with no waiting release where a count would pass 65,535 (R220). -/
def State.openRoom (s : State) (v : Env) (n : Nat) : State :=
  let c := s.core v.b.die v.b.core
  if (List.range 64).all (fun b => decide ((c.sent.get? (phaseKey c.openPhase b)).getD 0 + n ≤ 65535)) then s
  else (s.closePhase v.b.die v.b.core).1

/-- A request of a slice for a part of an element. -/
def Env.request (v : Env) (s : State) (p : Placed) (op : ReqOp) : Req :=
  let (host, home, pa, leaf) := match p.place with
    | .own d pa leaf => (none, d, pa, leaf)
    | .host h pa leaf => (some h, if h = 0 then 0 else 4, pa, leaf)
    | .hit d pa _ => (none, d, pa, 0)
    | .win o => (none, v.b.die, o, 0)
  { stage := .toBay, op := op, die := v.b.die, core := v.b.core, bid := v.bid, sid := v.sid, ctx := v.b.ctx, va := p.va,
    host := host, home := home, pa := pa, size := p.size, keys := s.keysOf v.b.ctx v.b.die, leaf := leaf, phase := none,
    stamp := Clock.zero, fill := none, issue := none, atHome := false,
    alloc := host.isNone && (leafPol leaf == 0 || leafPol leaf == 2), remote := false }

/-- A request sent: a write or RMW of own-package memory carries the open phase and is counted (R220). -/
def State.send (s : State) (r : Req) : State :=
  let (n, s1) := s.fresh
  if r.writes && r.host.isNone && !r.remote then
    let p := (s1.core r.die r.core).openPhase
    let k := phaseKey p ((s1.die r.die).bay r.va)
    let s2 := s1.modCore r.die r.core (fun c => { c with sent := c.sent.put k ((c.sent.get? k).getD 0 + 1) })
    { s2 with reqs := s2.reqs.put n { r with phase := some p } }
  else { s1 with reqs := s1.reqs.put n r }

/-! ### Fills (R193) -/

/-- The register image of an element read (R63). -/
def loadImage (t x : Nat) : Nat := if typeSigned t then imageInt t (elemInt t x) else x

/-- The value of an element put into its registers: a raw insertion for a tensor image (R200), a register image otherwise. -/
def Slice.landElem (x : Slice) (whole : Bool) (regs : List Nat) (e : FillElem) : Slice :=
  let put := fun (y : Slice) (k : Nat) (g : Word → Word) =>
    if regs.contains k then
      match y.reg k with
      | .pend t v => { y with regs := y.regs.put k (.pend t (if whole then v.map g else v.set e.lane (g (v.get e.lane)))) }
      | _ => y
    else y
  if e.ty = 0 then
    let size := (e.parts.map (fun p => p.2.1)).sum
    let m := 2 ^ (8 * size) - 1
    put x e.reg (fun w =>
      (w &&& ~~~(BitVec.ofNat 32 (m * 2 ^ e.shift))) ||| BitVec.ofNat 32 (e.value % (m + 1) * 2 ^ e.shift))
  else
    let i := loadImage e.ty e.value
    let y := put x e.reg (fun _ => BitVec.ofNat 32 i)
    if e.wide then put y (e.reg + 1) (fun _ => BitVec.ofNat 32 (i / 2 ^ 32)) else y

/-- A fill whose elements have all landed or faulted ends (R91, R193, R194). -/
def State.finishFill (s : State) (fid : Nat) : State :=
  match s.fills.get? fid with
  | none => s
  | some x =>
    if !x.elems.all (fun e => e.landed) then s
    else
      let s1 := { s with fills := s.fills.erase fid }.issueDone (some x.issue)
      let bad := x.elems.filterMap (fun e => e.fault.map (fun f => (f.2.toNat, f.1, e.lane)))
      match leastUsed bad with
      | none => s1.modSlice x.bid x.sid (fun y => x.regs.foldl (fun y k => match y.reg k with
          | .pend t v => y.setReg k (.held t v)
          | _ => y) y)
      | some (a, c, _) =>
        s1.modSlice x.bid x.sid (fun y =>
          { x.regs.foldl (fun y k => y.setReg k .empty) y with
            faults := if x.regs.isEmpty then y.faults
                      else y.faults ++ [⟨x.regs.headD 0, c, BitVec.ofNat 64 a, laneSet (bad.map (fun b => b.2.2))⟩] })

/-- One element lands (R193): its value goes to its registers; with the last one the fill ends. -/
def State.landFill (s : State) (fid e : Nat) : State :=
  match s.fills.get? fid with
  | none => s
  | some x =>
    match x.elems[e]? with
    | none => s
    | some y =>
      if y.landed || !y.resolved || (x.regs.isEmpty && !x.draining) then s
      else
        let s1 := s.modFill fid (fun f => f.modElem e (fun y => { y with landed := true }))
        let s2 := if y.fault.isSome then s1 else s1.modSlice x.bid x.sid (fun z => z.landElem x.whole x.regs y)
        s2.finishFill fid

/-- An element of a fill for an element read: its registers, and its parts with what is known of them. -/
def MElem.toFill (e : MElem) (d ty : Nat) (ps : List Placed) (i : Nat) (known : Placed → Option Nat) : FillElem :=
  let wide := typeWide ty
  { lane := e.lane, reg := d + e.k * (if wide then 2 else 1), wide := wide, ty := ty,
    parts := (ps.filter (fun p => p.e == i)).map (fun p => (p.off, p.size, (known p).map (BitVec.ofNat 64))),
    addr := BitVec.ofNat 64 e.va, shift := 0, fault := none, landed := false }

/-- What is known of a part at issue: a data line's bytes, or an ordered block's view (R180, R349). -/
def State.knownPart (s : State) (v : Env) (ordered : Bool) (p : Placed) : Option Nat :=
  match p.place with
  | .hit _ _ b => some (leNat b)
  | .own d pa _ =>
    if ordered && !s.viewPoison ((s.blocks.get? v.bid).getD v.b) d pa p.size then
      some (leNat (s.viewRead ((s.blocks.get? v.bid).getD v.b) d pa p.size))
    else none
  | .host _ _ _ => none
  | .win _ => none

/-- A fill begun: its record, counted where the instruction counts as a load, and a request for each part that is not known. `mk`
completes a part's request. -/
def State.beginFill (s : State) (v : Env) (regs : List Nat) (target : Tag) (whole counted : Bool) (els : List FillElem)
    (ps : List Placed) (mk : Placed → Req → Req) : State × Nat :=
  let (n, s1) := s.fresh
  let x : Fill := { bid := v.bid, sid := v.sid, regs := regs, target := target, whole := whole, elems := els,
                    issue := if counted then v.x.issueNo else 0, draining := false, words := 0, orphan := none, stamp := Clock.zero, born := (s.die v.b.die).cycle }
  let s2 := if counted then ({ s1 with fills := s1.fills.put n x }).countIssue v true 1 else { s1 with fills := s1.fills.put n x }
  let todo := ps.filter (fun p => match els[p.e]? with
    | some e => (match e.parts[p.part]? with | some q => q.2.2.isNone | none => false)
    | none => false)
  let s3 := todo.foldl (fun s p =>
    let r := mk p (v.request s p .read)
    (s.uoHome v.b.die v.b.core v.b.ctx p.va).send { r with fill := some (n, p.e, p.part) }) s2
  (s3.finishFill n, n)

/-- The lines an ordered block touches (R352). -/
def State.touchAll (s : State) (v : Env) (ps : List Placed) : State :=
  s.modBlock v.bid (fun b => ps.foldl (fun b p => match p.place with
    | .own d pa _ => b.touch d pa
    | _ => b) b)

/-! ### The scratchpad (R173, R189) -/

/-- Scratchpad elements of the lanes: the exact sum of the offset and the literal (R173). -/
def Env.winElems (v : Env) (base : Quad Dword) (size count : Nat) (lanes : List Nat) : List (Nat × Nat × Int) :=
  lanes.flatMap (fun l => (List.range count).map (fun k =>
    (l, k, ((base.get l).toNat % 2 ^ 32 : Int) + litInt v.f + ((k * size : Nat) : Int))))

/-- An element lies in the window. -/
def Block.inWindow (b : Block) (o : Int) (n : Nat) : Bool := decide (0 ≤ o) && decide (o + n ≤ b.scratch)

/-- The window lines of an element with the byte at which it first touches each. -/
def winLines (o n : Nat) : List (Nat × Nat) :=
  (List.range ((o + n - 1) / 128 - o / 128 + 1)).map (fun i => (o / 128 + i, if i = 0 then o else (o / 128 + i) * 128))

/-- How scratchpad elements stand at steps 1 and 3 of R177. -/
inductive WinGate where
  | go (es : List MElem)
  | stop (r : Res)

/-- Step 3 of R177 (R189): an abandoned line raises, an absent one parks. -/
def State.presenceGate (s : State) (v : Env) (es : List MElem) : WinGate :=
  let touched := es.flatMap (fun e => (winLines e.va e.size).map (fun q => (e.lane, q.1, q.2)))
  let inState := fun (st : PresState) => touched.filter (fun q => (v.b.presence q.2.1).state == st)
  match pickFail ((inState .abandoned).map (fun q => LaneFail.mk q.1 0x030D q.2.2)) with
  | some (c, a, ls) => .stop (.raise c a ls)
  | none =>
    let away := inState .absent
    if away.isEmpty then .go es
    else
      let on := (away.map (fun q => (q.2.1, BitVec.ofNat 64 q.2.2,
        laneSet ((away.filter (fun r => r.2.1 == q.2.1)).map (fun r => r.1))))).dedup
      .stop (.wait (s.modSlice v.bid v.sid (fun x => { x with prog := .lines on })))

/-- Steps 1 and 3 of R177 for scratchpad elements. An element that lies partly outside fails at its first byte. (DESIGN CHOICE, log 124) -/
def State.winGate (s : State) (v : Env) (size : Nat) (es : List (Nat × Nat × Int)) : WinGate :=
  match pickFail ((es.filter (fun q => !v.b.inWindow q.2.2 size)).map
      (fun q => LaneFail.mk q.1 0x0310 (wrapNat 64 q.2.2))) with
  | some (c, a, ls) => .stop (.raise c a ls)
  | none => s.presenceGate v (es.map (fun q => ⟨q.1, q.2.1, q.2.2.toNat, size⟩))

/-- Poison in the core store under an element (R185): the failing lanes. -/
def Block.winPoisoned (b : Block) (es : List MElem) : List LaneFail :=
  es.filterMap (fun e =>
    ((winLines e.va e.size).find? (fun q => b.winPoison.contains q.1)).map (fun q => LaneFail.mk e.lane 0x030C q.2))

/-! ### Barrier objects and their waits (R242 to R245) -/

/-- A barrier object's fields (R242). -/
structure BarObj where
  xbytes : Nat
  abytes : Nat
  xarr : Nat
  aarr : Nat
  ctrl : Nat
  deriving DecidableEq, Repr

/-- The object at a window offset. -/
def Memory.barObj (m : Memory) (o : Nat) : BarObj :=
  ⟨m.readNat o 4, m.readNat (o + 4) 4, m.readNat (o + 8) 2, m.readNat (o + 10) 2, m.readNat (o + 12) 4⟩

/-- The object's 16 bytes. -/
def BarObj.bytes (x : BarObj) : List Byte :=
  leBytes 4 x.xbytes ++ leBytes 4 x.abytes ++ leBytes 2 x.xarr ++ leBytes 2 x.aarr ++ leBytes 4 x.ctrl

/-- The phase bit. -/
def BarObj.ph (x : BarObj) : Nat := x.ctrl % 2

/-- The checks of R243. -/
def BarObj.cause (x : BarObj) : Option Half :=
  if !bitOf x.ctrl 1 || x.ctrl / 8 != 0 || x.xarr == 0 || decide (1024 < x.xarr) || decide (x.xarr < x.aarr) then some 0x0504
  else if bitOf x.ctrl 2 then some 0x0502
  else none

/-- A waiting BWAIT examined as the window now stands (R244, R245): its wait comes to its end with a phase that has completed or an object that
fails R243, and what it found stands. -/
def Slice.examine (x : Slice) (w : Memory) : Slice :=
  match x.prog with
  | .barrier o q none =>
    let y := w.barObj o
    { x with prog := .barrier o q (match y.cause with
        | some c => some (some c)
        | none => if y.ph != q then some none else none) }
  | _ => x

/-- A BWAIT of the slice waits on an object of which some of `n` bytes from an offset are a part. -/
def Slice.waitsOn (x : Slice) (o n : Nat) : Bool :=
  match x.prog with
  | .barrier p _ none => decide (p < o + n) && decide (o < p + 16)
  | _ => false

/-- The BWAITs examined that wait on an object which a run of bytes is a part of. -/
def Block.examine (b : Block) (o n : Nat) : Block :=
  if b.slices.any (fun x => x.2.waitsOn o n) then
    { b with slices := b.slices.map (fun x => (x.1, if x.2.waitsOn o n then x.2.examine b.window else x.2)) }
  else b

/-- The elements that lie on no poisoned line. -/
def Block.winClean (b : Block) (es : List MElem) : List MElem := es.filter (fun e => (b.winPoisoned [e]).isEmpty)

/-- The poisoned window lines of which elements write a byte, with the bytes: the key of a byte is its offset above every number of a byte
of device memory. -/
def Block.poisonCover (b : Block) (ws : List (Nat × List Byte)) : List Nat :=
  (ws.flatMap (fun w => (List.range w.2.length).map (fun i => w.1 + i))).filter (fun o => b.winPoison.contains (o / 128)) |>.map (2 ^ 60 + ·)

/-- Bytes put into a window; bytes that cover a poisoned line clear its poison (R185). -/
def Block.winPut (b : Block) (o : Nat) (data : List Byte) : Block :=
  { b with window := b.window.writeList o data,
           winPoison := b.winPoison.filter (fun l => !(decide (o ≤ l * 128) && decide (l * 128 + 128 ≤ o + data.length))) }

/-- Several runs of bytes written by one drain cover a poisoned line together (R185). -/
def Block.winCovered (b : Block) (ws : List (Nat × List Byte)) : Block :=
  { b with winPoison := b.winPoison.filter (fun l => !(List.range 128).all (fun j =>
      ws.any (fun w => decide (w.1 ≤ l * 128 + j) && decide (l * 128 + j < w.1 + w.2.length)))) }

/-- Bytes written into a window; the BWAITs on an object that they touch are examined at once (R245). -/
def Block.winWrite (b : Block) (o : Nat) (data : List Byte) : Block := (b.winPut o data).examine o data.length

/-- A piece of a slot fill of the window read now, where it shares a byte with `n` bytes from an offset. -/
def Block.readPiece (b : Block) (o n : Nat) (p : Placed) : Placed :=
  match p.place with
  | .win k =>
    if k < o + n && o < k + p.size then
      { p with place := .hit 0 0 (if b.winPoison.contains (k / 128) then [] else b.window.readList k p.size) }
    else p
  | _ => p

/-- The slot fills that a slice has issued read what they still owe of a run of window bytes, before a later instruction of the slice writes
there (R214). (DEDUCED, log 45) -/
def Block.readAhead (b : Block) (sid o n : Nat) : Block :=
  { b with slotFills := b.slotFills.map (fun f => (f.1,
      if f.2.sid == sid then { f.2 with src := f.2.src.map (b.readPiece o n), msrc := f.2.msrc.map (b.readPiece o n) } else f.2)) }

/-- Bytes written into a window by an instruction of a slice. -/
def Block.winStore (b : Block) (sid o : Nat) (data : List Byte) : Block := (b.readAhead sid o data.length).winWrite o data

/-- The elements of a store written into the window of its block, whose BWAITs are then examined (R245). The gang counts the issue while another
slice has not completed it (R195). A line that the stores of one issue have covered is poisoned no more (R185). -/
def State.winStoreAll (s : State) (v : Env) (ws : List (Nat × List Byte)) : State :=
  let s1 := (s.countIssue v false 0).modBlock v.bid (fun b =>
    ws.foldl (fun b w => b.examine w.1 w.2.length)
      (ws.foldl (fun b w => b.winPut w.1 w.2) (ws.foldl (fun b w => b.readAhead v.sid w.1 w.2.length) b)))
  let new := ((s1.blocks.get? v.bid).getD v.b).poisonCover ws
  if new.isEmpty then s1
  else
    let (left, cover) := match s1.issues.get? v.x.issueNo with | some i => (i.left, i.cover) | none => (0, [])
    let all := (cover ++ new).dedup
    { s1 with issues := s1.issues.put v.x.issueNo ⟨v.bid, v.gang, false, left, all⟩ }.modBlock v.bid (fun b =>
      { b with winPoison := b.winPoison.filter (fun l => !(List.range 128).all (fun j => all.contains (2 ^ 60 + l * 128 + j))) })

end Sys2Proof.Machine
end

