-- ==== Sys2Proof/Machine/Order.lean ====
section
/-! DEFINITION. Release and acquire (R215 to R230), FENCE (R237), LDA (R238) and STRL (R239). -/

namespace Sys2Proof.Machine

/-! ### Scopes (R236) -/

/-- A scope by its code. -/
def scopeOf (c : Nat) : Option Scope :=
  match c with
  | 1 => some .core | 2 => some .die | 3 => some .pkg | 4 => some .pod | 5 => some .sys | _ => none

/-- The code of a scope (R236). -/
def Scope.code : Scope → Nat
  | .core => 1 | .die => 2 | .pkg => 3 | .pod => 4 | .sys => 5

/-! ### Release (R218) -/

/-- Every earlier load of a slice has landed or faulted; the fill `mine`, which the instruction itself waits for, is not an
earlier one. -/
def State.loadsLanded (s : State) (bid sid : Nat) (mine : Option Nat) : Bool :=
  !s.fills.any (fun f => f.2.bid == bid && f.2.sid == sid && mine != some f.1)
  && !(match s.blocks.get? bid with | some b => b.slotFills.any (fun f => f.2.sid == sid) | none => false)

/-- Every write or RMW that the core sent off its die before the release is applied (R218, package step). -/
def State.offDieDone (s : State) (die core upTo : Nat) : Bool :=
  !s.reqs.any (fun r => decide (r.1 < upTo) && r.2.die == die && r.2.core == core && r.2.writes && r.2.host.isNone
    && !r.2.remote && r.2.home != die)
  && (s.die die).vc.covers (s.core die core).offStamp

/-- The pod step of R218: the sequenced messages caused by the core's earlier writes are applied everywhere, and the slice's remote
writes are acknowledged or have failed. -/
def State.podDone (s : State) (die core bid sid upTo : Nat) : Bool :=
  !s.msgs.any (fun m => m.2.fromDie == die && m.2.core == core && decide (m.2.req < upTo))
  && !s.reqs.any (fun r => decide (r.1 < upTo) && r.2.remote && r.2.bid == bid && r.2.sid == sid)
  && !s.pairs.any (fun p => p.2.out.any (fun o => o.bid == bid && o.sid == sid))

/-- Writes of the core to host space that are not yet sent on their ports. -/
def State.hostSending (s : State) (die core upTo : Nat) : Bool :=
  s.reqs.any (fun r => decide (r.1 < upTo) && r.2.die == die && r.2.core == core && r.2.host.isSome && r.2.writes)

/-- A flushing read sent on each host port that the core has written (R230). (DEDUCED, log 38) -/
def State.sendFlushes (s : State) (die core : Nat) : State × List Nat :=
  (s.core die core).portsWritten.foldl (fun (acc : State × List Nat) p =>
    let (n, s1) := acc.1.fresh
    (s1.modPort p.1 (fun h => { h with flushes := h.flushes ++ [n] }), acc.2 ++ [n])) (s, [])

/-- A release of system scope has completed: the ports that the core has not written since its flushing reads are written no more. -/
def State.clearPorts (s : State) (die core : Nat) (flushes : List Nat) : State :=
  s.modCore die core (fun c => { c with portsWritten := c.portsWritten.filter (fun p => !flushes.any (fun n => decide (p.2 ≤ n))) })

/-- The flushing reads of a list have returned. -/
def State.flushesDone (s : State) (fs : List Nat) : Bool := !s.ports.any (fun p => p.2.flushes.any (fun i => fs.contains i))

/-- One pass over the steps of a release of a slice (R218): the state with what it has begun, the wait's record, and whether every
step has finished. -/
def State.releaseStep (s : State) (v : Env) (r : RelWait) : State × RelWait × Bool :=
  let d := v.b.die
  let c := v.b.core
  let k := r.scope.code
  if !s.loadsLanded v.bid v.sid none then (s, r, false)
  else if k < 2 then (s, r, true)
  else
    let (s1, r1) := match r.close with
      | some _ => (s, r)
      | none =>
        if (s.core d c).closes.length < 3 then
          let (s1, n) := s.closePhase d c
          (s1, { r with close := some n, upTo := s1.nextId })
        else (s, r)
    match r1.close with
    | none => (s1, r1, false)
    | some n =>
      if (s1.core d c).closes.any (fun q => q.serial == n) then (s1, r1, false)
      else if k < 3 then (s1, r1, true)
      else if !s1.offDieDone d c r1.upTo then (s1, r1, false)
      else if k < 4 then (s1, r1, true)
      else if !s1.podDone d c v.bid v.sid r1.upTo then (s1, r1, false)
      else if k < 5 then (s1, r1, true)
      else if r1.flushed then (if s1.flushesDone r1.flushes then (s1.clearPorts d c r1.flushes, r1, true) else (s1, r1, false))
      else if s1.hostSending d c r1.upTo then (s1, r1, false)
      else
        let (s2, fs) := s1.sendFlushes d c
        (s2, { r1 with flushed := true, flushes := fs }, fs.isEmpty)

/-- A release of a slice as far as it gets in this step: the state, and its status once it has completed (R218). -/
def State.release (s : State) (v : Env) (scope : Scope) : State × Option Bool :=
  let run := fun (r : RelWait) =>
    let (s1, r1, fin) := s.releaseStep v r
    if fin then
      let failed := match s1.slice? v.bid v.sid with | some x => x.relFail | none => false
      let wide := decide (4 ≤ scope.code)
      let ok := !(wide && failed)
      (s1.modSlice v.bid v.sid (fun x => { x with prog := .released ok }), some ok)
    else (s1.modSlice v.bid v.sid (fun x => { x with prog := .releasing r1 }), none)
  match v.x.prog with
  | .released ok => (s, some ok)
  | .releasing r => run r
  | _ => run { scope := scope, close := none, upTo := s.nextId, flushed := false, flushes := [] }

/-- The instruction of a release completes: one of pod scope or wider has reported the failures of the writes that it covers (R229). -/
def State.reported (s : State) (bid sid : Nat) (scope : Scope) : State :=
  if 4 ≤ scope.code then s.modSlice bid sid (fun x => { x with relFail := false }) else s

/-! ### Acquire (R219) -/

/-- An acquire of a slice as far as it gets in this step: at its start the V lines of the core are dropped and the seen clock is
sampled; it is done when the applied clock covers the sample, and then drops the lines that other slices filled
meanwhile. `x` is kept for the instruction that waits, and `mine` is the fill it waits for, whose stamps the sample covers (R238).
(DEDUCED, log 34) -/
def State.acquire (s : State) (v : Env) (scope : Scope) (x : Dword) (mine : Option Nat) : State × Bool :=
  let d := v.b.die
  let c := v.b.core
  let k := scope.code
  if !s.loadsLanded v.bid v.sid mine then (s, false)
  else if k < 2 then (s, true)
  else
    let sample := match v.x.prog with
      | .acquiring t _ => t
      | _ => match mine.bind s.fills.get? with
        | some f => (s.die d).seen.join f.stamp
        | none => (s.die d).seen
    let s1 := s.dropVs d c (fun _ => true)
    if k < 3 || (s.die d).vc.covers sample then (s1, true)
    else (s1.modSlice v.bid v.sid (fun y => { y with prog := .acquiring sample x }), false)

/-- The slice is in the acquire that ends its instruction. -/
def Slice.acquiring? (x : Slice) : Option Dword := match x.prog with | .acquiring _ w => some w | _ => none

/-- An acquire and then completion with `o`, from `s`; the acquire keeps `x`. -/
def acquireThen (v : Env) (scope : Scope) (x : Dword) (mine : Option Nat) (s : State) (o : Out) : Res :=
  match s.acquire v scope x mine with
  | (s1, true) => .doneIn s1 o
  | (s1, false) => .wait s1

/-! ### FENCE (R236, R237) -/

/-- The row of FENCE. -/
def encFence (f : Fields) : Enc :=
  { opc := 0xB8, lens := [2], dst := if bitOf (modOf f) 5 then .pd else .no, gov0 := true, md := 0x3F,
    extra := fun f _ =>
      let m := modOf f
      decide (1 ≤ m % 8) && decide (m % 8 ≤ 5) && m / 8 % 4 != 3
        && (!bitOf m 5 || (decide (4 ≤ m % 8) && m / 8 % 4 != 0)) }

/-- FENCE's steps: the release, the acquire, the status. -/
def fenceBody (v : Env) (s : State) : Res :=
  let scope := (scopeOf (v.md % 8)).getD .core
  let kind := v.md / 8 % 4
  let out := fun (ok : Bool) => ({ pred := if bitOf v.md 5 then predAll v ok else none,
                                   eff := fun s => if kind = 0 then s else s.reported v.bid v.sid scope } : Out)
  match v.x.acquiring? with
  | some w => acquireThen v scope w none s (out (w == 1))
  | none =>
    if kind = 0 then acquireThen v scope 1 none s (out true)
    else match s.release v scope with
      | (s1, none) => .wait s1
      | (s1, some ok) =>
        if kind = 1 then .doneIn s1 (out ok)
        else acquireThen v scope (if ok then 1 else 0) none s1 (out ok)

/-- FENCE (R237). -/
def execFence (f : Fields) (s : State) : Host.Outcome State Fault Refusal := runInstr (encFence f) f fenceBody s

/-! ### LDA (R238) -/

/-- The types of LDA and STRL (R236). -/
def typeOrd (t : Nat) : Bool := [18, 22, 24, 1, 19, 23, 25, 2].contains t

/-- The row of LDA. -/
def encLda : Enc :=
  { opc := 0x67, lens := [2, 3], dst := .ty, sa := .w64, types := .eff typeOrd, lit := .role, md := 7,
    extra := fun f _ => decide (1 ≤ modOf f % 8) && decide (modOf f % 8 ≤ 5) }

/-- The result of an instruction that waited for a fill of one element a lane: the register image of each lane. -/
def Fill.laneValue (x : Fill) (l : Nat) : Nat :=
  match x.elems.find? (fun e => e.lane == l) with
  | some e => if e.ty = 0 then e.value else loadImage e.ty e.value
  | none => 0

/-- The faults of a fill that an instruction waits for, as it raises them precisely. -/
def Fill.raised (x : Fill) : Option (Half × Dword × BitVec 4) :=
  pickFail (x.elems.filterMap (fun e => e.fault.map (fun p => LaneFail.mk e.lane p.1 p.2.toNat)))

/-- The fill of an instruction that waits is given up: its counter is lowered. -/
def State.discardFill (s : State) (fid : Nat) : State :=
  match s.fills.get? fid with
  | some x => { s with fills := s.fills.erase fid }.issueDone (some x.issue)
  | none => s

/-- The fill of an instruction that completes ends: the die's seen clock covers what it read (R225, R238). -/
def State.closeFill (s : State) (fid : Nat) : State :=
  match s.fills.get? fid with
  | some x => (match s.blocks.get? x.bid with
      | some b => s.noteSeen b.die x.stamp
      | none => s).discardFill fid
  | none => s

/-- What a waiting instruction finds of the fill it waits for. -/
inductive Await where
  | waiting
  | raised (c : Half) (a : Dword) (ls : BitVec 4)
  | ready (x : Fill)

/-- The fill that a waiting instruction waits for, once every element is known. -/
def State.await (s : State) (fid : Nat) : Await :=
  match s.fills.get? fid with
  | none => .waiting
  | some x =>
    if !x.elems.all FillElem.resolved then .waiting
    else match x.raised with
      | some (c, a, ls) => .raised c a ls
      | none => .ready x

/-- LDA's steps (R238): the values stay in the fill's record until the acquire is done and the instruction completes; an acquire keeps one more
than the fill's number, or 0 where no lane is active. -/
def ldaBody (v : Env) (s : State) : Res :=
  let scope := (scopeOf (v.md % 8)).getD .core
  let size := elemSize v.ty
  let wide := typeWide v.ty
  let k := scope.code
  let go := fun (fid : Nat) =>
    match s.await fid with
    | .waiting => Res.wait s
    | .raised c a ls => .raiseIn (s.discardFill fid) c a ls
    | .ready x => acquireThen v scope (BitVec.ofNat 64 (fid + 1)) (some fid) s
        { regs := [v.write wide (Quad.ofFn (fun l => BitVec.ofNat 64 (x.laneValue l))) .g], eff := fun s => s.closeFill fid }
  let none' := fun (s : State) => acquireThen v scope 0 none s { regs := [v.write wide (Quad.all 0) .g] }
  match v.x.prog with
  | .pending fid => go fid
  | .acquiring _ w => if w = 0 then none' s else go (w.toNat - 1)
  | _ =>
    if !s.counterRoom v true then .wait s
    else
      let es := v.globalElems v.a.v size 1 (lanesOf v.act)
      match s.checkGlobal v {} .read (k == 1 && !s.isOrdered v.b) es with
      | .stop r => r
      | .go s1 ps =>
        match pickFail ((es.filter (fun e => e.va % size != 0)).map (fun e => LaneFail.mk e.lane 0x030F e.va)) with
        | some (c, a, ls) => .raiseIn s1 c a ls
        | none =>
          if es.isEmpty then none' s1
          else
            let ord := s1.isOrdered v.b
            let s1 := s1.recallFor ord ps
            let els := es.zipIdx.map (fun q => q.1.toFill v.f.dst.toNat v.ty ps q.2 (s1.knownPart v ord))
            let (s2, fid) := (s1.touchAll v ps).beginFill v [] .g false true els ps
              (fun _ r => if k = 1 then r else { r with alloc := false, atHome := decide (4 ≤ k) })
            .wait (s2.modSlice v.bid v.sid (fun x => { x with prog := .pending fid }))

/-- LDA (R238). -/
def execLda (f : Fields) (s : State) : Host.Outcome State Fault Refusal := runInstr encLda f ldaBody s

/-! ### STRL (R239) -/

/-- The row of STRL. -/
def encStrl (f : Fields) : Enc :=
  { opc := 0x68, lens := [2, 3], dst := if bitOf (modOf f) 5 then .pd else .no, sa := .w64, sb := .ty,
    types := .eff typeOrd, lit := .role, md := 0x27,
    extra := fun f _ => decide (1 ≤ modOf f % 8) && decide (modOf f % 8 ≤ 5) && (!bitOf (modOf f) 5 || decide (4 ≤ modOf f % 8)) }

/-- The parts of a store that are performed: a shadow's writes in host space are not (R354). -/
def Env.applied (v : Env) (ps : List Placed) : List Placed :=
  if v.b.shadowOf.isSome then ps.filter (fun p => match p.place with | .host _ _ _ => false | _ => true) else ps

/-- A store of the parts of elements performed or sent (R180, R206, R220, R349): `data` gives the bytes of an element. -/
def State.storeParts (s : State) (v : Env) (ordered : Bool) (ps : List Placed) (data : Nat → List Byte) : State :=
  let ps := v.applied ps
  let n := (ps.filter (fun p => match p.place with | .own _ _ _ => !ordered | _ => true)).length
  ps.foldl (fun s p =>
    let bytes := ((data p.e).drop p.off).take p.size
    match p.place with
    | .own d pa leaf =>
      if ordered then
        ((s.modBlock v.bid (fun b => b.roundWrite s.nextId (leafPol leaf != 3) v.sid d pa p.va bytes)).holdLine v.b d pa (leafPol leaf != 3)).1
      else
        ((s.uoHome v.b.die v.b.core v.b.ctx p.va).storeV v.b.die v.b.core v.b.ctx p.va bytes (v.bid * 256 + v.sid)).send
          { v.request s p (.write bytes) with issue := some v.x.issueNo }
    | _ => s.send { v.request s p (.write bytes) with issue := some v.x.issueNo })
    ((s.openRoom v n).countIssue v false n)

/-- A write of an ordered block finds its die's share of the round log full (R392), the writes of one instruction taken together. -/
def State.logFull (s : State) (v : Env) (ps : List Placed) : Bool := !(s.holdAll v.b ps).2

/-- STRL's steps (R239). -/
def strlBody (v : Env) (s : State) : Res :=
  let scope := (scopeOf (v.md % 8)).getD .core
  let size := elemSize v.ty
  let es := v.globalElems v.a.v size 1 (lanesOf v.act)
  let out := fun (ok : Bool) (f : State → State) => ({ pred := if bitOf v.md 5 then predAll v ok else none,
                                                        eff := fun s => (f s).reported v.bid v.sid scope } : Out)
  match s.checkGlobal v {} .write false es with
  | .stop r => r
  | .go s1 ps =>
    match pickFail ((es.filter (fun e => e.va % size != 0)).map (fun e => LaneFail.mk e.lane 0x030F e.va)) with
    | some (c, a, ls) => .raiseIn s1 c a ls
    | none =>
      let ord := s1.isOrdered v.b
      if ord && s1.logFull v ps then .raiseIn s1 0x0604 0 v.act
      else match s1.release v scope with
        | (s2, none) => .wait s2
        | (s2, some false) => .doneIn s2 (out false id)
        | (s2, some true) =>
          if !s2.storeRoom v || !s2.sendRoom v ps then .wait s2
          else .doneIn s2 (out true (fun s =>
            s.storeParts v ord ps (fun e => leBytes size ((v.o.v.get ((es.getD e default).lane)).toNat))))

/-- STRL (R239). -/
def execStrl (f : Fields) (s : State) : Host.Outcome State Fault Refusal := runInstr (encStrl f) f strlBody s

end Sys2Proof.Machine
end

