-- ==== Sys2Proof/Machine/Layer.lean ====
section
/-! DEFINITION. The residency engine (R370, R386 to R391): arrivals, evictions and frames; LAYW, LAYQ, LAYR and LAYE (R402). -/

namespace Sys2Proof.Machine

/-! ### Leases over a page (R341, R370, R386) -/

/-- The leases of a context count: it is not swapped out (R386). -/
def State.leasesStand (s : State) (ctx : Nat) : Bool :=
  match s.ctxs.get? ctx with
  | some c => c.state == .running || c.state == .starting
  | none => false

/-- The lease count of a page: ranges of Running, Leasing or Completing nodes that cover it (R370). -/
def State.leaseCount (s : State) (ctx va : Nat) : Nat :=
  if !s.leasesStand ctx then 0
  else ((s.nodes.filter (fun n => n.2.ctx == ctx
      && (n.2.state == .running || n.2.state == .completing || n.2.state == .leasing))).map
    (fun n => (n.2.leases.filter (fun l => l.meets (va / 65536 * 65536) 1)).length)).sum

/-- Some page of a layer is leased. -/
def State.layerLeased (s : State) (ctx l : Nat) : Bool :=
  let r := s.layerRec ctx l
  (List.range r.pages).any (fun p => s.leaseCount ctx (r.pageVa p) != 0)

/-! ### Eviction (R370) -/

/-- A frame has a pinned or a held line. -/
def State.frameHeld (s : State) (d frame : Nat) : Bool :=
  (List.range 64).any (fun i =>
    let l := s.line d (frame * 65536 + i * 1024)
    !l.pins.isEmpty || l.held)

/-- A page may be chosen for eviction (R370): Resident, with no lease, no pinned and no held line. -/
def State.evictable (s : State) (ctx l p : Nat) : Bool :=
  match s.pageLeaf ctx l p with
  | some (d, _, e) =>
    leafRes e == 2 && s.leaseCount ctx ((s.layerRec ctx l).pageVa p) == 0 && !s.frameHeld d (entryFrame e)
  | none => false

/-- Every core's data lines of a frame dropped for a context. -/
def State.dropFrameV (s : State) (ctx d frame : Nat) : State :=
  s.dies.foldl (fun s k => k.2.cores.foldl (fun s c =>
    s.dropVs k.1 c.1 (fun l => l.ctx == ctx && l.home == d && l.pa / 65536 == frame)) s) s

/-- Eviction chosen for a page (R370, R389): its copies are dropped, and it is Evicting. (DEDUCED, log 65) -/
def State.startEvict (s : State) (ctx l p : Nat) : State :=
  match s.pageLeaf ctx l p with
  | none => s
  | some (d, _, e) =>
    let fr := entryFrame e
    let s1 := (List.range 64).foldl (fun s i =>
      (s.recall d (fr * 65536 + i * 1024)).dropLineGuests d (fr * 65536 + i * 1024)) s
    let s2 := (s1.dropFrameV ctx d fr).setPage ctx l p 3 fr
    let x := s2.layer ctx l
    s2.putLayer ctx l { x with landed := x.landed - 1, state := if x.state = .resident then .evicting else x.state }

/-- A request already translated to a frame is not yet performed; a write that an ordered block buffers is one until its round commits (R350, R370). -/
def State.frameBusy (s : State) (d frame : Nat) : Bool :=
  s.reqs.any (fun r => r.2.home == d && r.2.host.isNone && r.2.pa / 65536 == frame)
  || s.blocks.any (fun b =>
    (List.range 64).any (fun i => b.2.buffers (physKey d (frame * 65536 + i * 1024) / 1024))
    || b.2.slotFills.any (fun f => (f.2.src ++ f.2.msrc).any (fun p => p.place.meets d (frame * 65536) 65536))
    || b.2.stream.any (fun e => e.src.any (fun p => p.place.meets d (frame * 65536) 65536)))
  || s.entries.any (fun e => e.2.todo.any (fun q => q.1.place.meets d (frame * 65536) 65536))

/-! ### Frames (R390, R458) -/

/-- A free frame of a die's layer pool (R390 does not say which). -/
def State.freeFrame (s : State) (d : Nat) : Option Nat :=
  let x := s.die d
  let top := x.cap / 65536
  s.pickFrom (2 ^ 62 + d * 2 ^ 40 + x.poolFrames.length)
    (((List.range x.lpool.toNat).map (fun i => top - x.lpool.toNat + i)).filter (fun f => !x.poolFrames.contains f))

/-- The pages of a layer whose leaf stands on a die with a residency that meets a condition. -/
def State.layerPages (s : State) (ctx l d : Nat) (q : Nat → Bool) : List Nat :=
  (List.range (s.layerRec ctx l).pages).filter (fun p => match s.pageLeaf ctx l p with
    | some (k, _, e) => k == d && q (leafRes e)
    | none => false)

/-- Layer pages of a context that hold a frame of a die. -/
def State.framesOf (s : State) (ctx d : Nat) : Nat :=
  match s.ctxs.get? ctx with
  | none => 0
  | some c => ((List.range c.nlayer).map (fun l => (s.layerPages ctx l d (fun r => r != 0)).length)).sum

/-- The context has reached its LQUOTA on a die. -/
def State.quotaFull (s : State) (ctx d : Nat) : Bool :=
  match s.ctxs.get? ctx with
  | some c => c.layerQuota != 0 && decide (c.layerQuota ≤ s.framesOf ctx d)
  | none => false

/-- A page that may be freed, with what orders the choice (R390). -/
structure Victim where
  eprio : Nat
  ctx : Nat
  lprio : Nat
  need : Nat
  layer : Nat
  page : Nat
  deriving DecidableEq, Repr

/-- The order of R390. (DEDUCED, log 64) -/
def Victim.before (a b : Victim) : Bool :=
  let ka := [a.eprio, a.ctx, a.lprio, a.need, a.layer, a.page]
  let kb := [b.eprio, b.ctx, b.lprio, b.need, b.layer, b.page]
  match (ka.zip kb).find? (fun p => p.1 != p.2) with
  | some p => decide (p.1 < p.2)
  | none => true

/-- The pages of a die that qualify, of one context or of all. (DEDUCED, log 64) -/
def State.victimPages (s : State) (d : Nat) (only : Option Nat) : List Victim :=
  (s.ctxs.filter (fun c => (only.getD c.1) == c.1)).flatMap (fun c =>
    (List.range c.2.nlayer).flatMap (fun l =>
      let x := s.layer c.1 l
      if x.state = .resident || x.state = .absent then
        ((s.layerPages c.1 l d (fun r => r == 2)).filter (fun p => s.evictable c.1 l p)).map (fun p =>
          { eprio := c.2.eprio, ctx := c.1, lprio := (s.layerRec c.1 l).lprio, need := x.need, layer := l, page := p : Victim })
      else []))

/-- A page of a die is on its way out. (DEDUCED, log 64) -/
def State.evictingOn (s : State) (d : Nat) (only : Option Nat) : Bool :=
  (s.ctxs.filter (fun c => (only.getD c.1) == c.1)).any (fun c =>
    (List.range c.2.nlayer).any (fun l => !(s.layerPages c.1 l d (fun r => r == 3)).isEmpty))

/-- The arriving layer that a stronger context's arrival cancels (R390): the most recently requested one of a lower EPRIO.
(DEDUCED, log 64) -/
def State.weakerArrival (s : State) (d eprio : Nat) : Option (Nat × Nat) :=
  let ls := (s.die d).arriving.filter (fun q => match s.ctxs.get? q.1 with | some c => decide (c.eprio < eprio) | none => false)
  (ls.insertionSort (fun a b => (s.layer b.1 b.2).requested ≤ (s.layer a.1 a.2).requested)).head?

/-- An arrival that lacks room on a die frees a page, cancels another arrival, or waits (R390). -/
def State.makeRoom (s : State) (ctx d : Nat) (quota : Bool) : State :=
  let only := if quota then some ctx else none
  if s.evictingOn d only then s
  else match ((s.victimPages d only).insertionSort (fun a b => a.before b)).head? with
    | some v => s.startEvict v.ctx v.layer v.page
    | none =>
      if quota then s
      else match s.weakerArrival d (match s.ctxs.get? ctx with | some c => c.eprio | none => 0) with
        | some q => s.cancelLayer q.1 q.2 2
        | none => s

/-! ### Arrivals (R389) -/

/-- A layer all of whose pages are Resident is resident, and its tokens complete (R389, R402). -/
def State.settleLayer (s : State) (ctx l : Nat) : State :=
  let x := s.layer ctx l
  let r := s.layerRec ctx l
  if x.state = .arriving && (List.range r.pages).all (fun p => s.pageRes ctx l p == 2) then
    ((s.putLayer ctx l { x with state := .resident, need := s.tick }).modDie (s.layerDie ctx l)
      (fun d => { d with arriving := d.arriving.filter (fun q => q != (ctx, l)) })).endLayerTokens ctx l false 0
  else s

/-- The pages of an arriving layer from `p` up take frames in ascending order as far as there is room. (DEDUCED, log 66) -/
def State.assignFrames (ctx l : Nat) : Nat → Nat → State → State
  | 0, _, s => s
  | n + 1, p, s =>
    if (s.layer ctx l).state ≠ .arriving then s
    else match s.pageLeaf ctx l p with
      | none => s.cancelLayer ctx l 1
      | some (d, _, e) =>
        if leafRes e ≠ 0 then State.assignFrames ctx l n (p + 1) s
        else if s.quotaFull ctx d then s.makeRoom ctx d true
        else match s.freeFrame d with
          | none => s.makeRoom ctx d false
          | some f =>
            State.assignFrames ctx l n (p + 1)
              ((s.modDie d (fun x => { x with poolFrames := f :: x.poolFrames })).setPage ctx l p 1 f)

/-- An arriving layer goes on; a layer table entry that breaks R387 cancels it. (DEDUCED, log 66) -/
def State.advanceLayer (s : State) (ctx l : Nat) : State :=
  let r := s.layerRec ctx l
  if !s.leasesStand ctx then s
  else if !r.ok then s.cancelLayer ctx l 1
  else (State.assignFrames ctx l r.pages 0 s).settleLayer ctx l

/-- Every arriving layer of a die goes on, in the order of their turns. -/
def State.advanceAll (s : State) (die : Nat) : State :=
  (s.die die).arriving.foldl (fun s q => s.advanceLayer q.1 q.2) s

/-- LAYER_TURN (R389): at most four layers of a die arrive at once, in queue order; those of a swapped context pause (R386). -/
def execLayerTurn (die : Nat) (s : State) : Host.Outcome State Fault Refusal :=
  let s1 := s.advanceAll die
  if 4 ≤ (s1.die die).arriving.length then .next s1
  else match (s1.die die).layerQ.find? (fun q => s1.leasesStand q.1) with
    | none => .next s1
    | some q =>
      let s2 := s1.modDie die (fun d => { d with layerQ := d.layerQ.filter (fun r => r != q), arriving := d.arriving ++ [q] })
      let s3 := s2.putLayer q.1 q.2 { s2.layer q.1 q.2 with state := .arriving }
      .next (s3.advanceLayer q.1 q.2)

/-- The pieces of a source in host space at the physical addresses of the port, page by page. (DEDUCED, log 65) -/
def hostPages (ctx port : Nat) : Nat → State → Nat → Nat → Option (List (Nat × Nat))
  | 0, _, _, _ => none
  | fuel + 1, s, va, n =>
    if n = 0 then some []
    else
      let k := min n (65536 - va % 65536)
      match s.walk ctx (.host port) va with
      | (s1, .ok l) => (hostPages ctx port fuel s1 (va + k) (n - k)).map (fun ps => (l.pa, k) :: ps)
      | (_, .error _) => none

/-- The source bytes of a page, or none at a source fault (R389). -/
def State.layerSource (s : State) (ctx va : Nat) : Option (State × List Byte) :=
  match s.ownerOf va with
  | .ok (.own _) =>
    let ps := State.privPages ctx 3 s va 65536
    if ps.any (fun p => decide (8 ≤ p.1) || (s.firstPoison p.1 p.2.1 p.2.2.1).isSome) then none
    else
      let s1 := ps.foldl (fun s p => s.recallRange p.1 p.2.1 p.2.2.1) s
      some (s1, ps.flatMap (fun p => s1.physRead p.1 p.2.1 p.2.2.1))
  | .ok (.host port) =>
    (match hostPages ctx port 3 s va 65536 with
     | some ps => some (s, ps.flatMap (fun p => s.hostRead port p.1 p.2))
     | none => none)
  | _ => none

/-- LAYER_PAGE_LAND (R370, R389). A leaf that the walk does not find, or that breaks R387, cancels the arrival. The bytes take lines of a bay only where
the leaf's policy lets them (R364). -/
def execLayerPageLand (ctx layer page : Nat) (s : State) : Host.Outcome State Fault Refusal :=
  let x := s.layer ctx layer
  let r := s.layerRec ctx layer
  match s.pageLeaf ctx layer page with
  | none => .next (if x.state = .arriving && decide (page < r.pages) && s.leasesStand ctx then s.cancelLayer ctx layer 1 else s)
  | some (d, _, e) =>
    if x.state ≠ .arriving || leafRes e ≠ 1 || r.pages ≤ page || !s.leasesStand ctx then .next s
    else match s.layerSource ctx (r.src + page * 65536) with
      | none => .next (s.cancelLayer ctx layer 1)
      | some (s1, bytes) =>
        let s2 := ((s1.homeStoreAs (leafPol e != 3) d (entryFrame e * 65536) bytes).clearPoison d (entryFrame e * 65536) 65536).setPage ctx layer page 2 (entryFrame e)
        let s3 := s2.putLayer ctx layer { s2.layer ctx layer with landed := x.landed + 1 }
        .next ((s3.settleLayer ctx layer).advanceAll (s3.layerDie ctx layer))

/-- A layer none of whose pages is Evicting any more has been evicted; a request made meanwhile takes its effect (R389).
(DEDUCED, log 65) -/
def State.settleEvict (s : State) (ctx l : Nat) : State :=
  let x := s.layer ctx l
  let left := (List.range (s.layerRec ctx l).pages).any (fun p => s.pageRes ctx l p == 3)
  if x.state ≠ .evicting || left then s
  else
    let s1 := s.putLayer ctx l { x with state := .absent, again := false }
    if x.again then s1.requestLayer ctx l else s1

/-- A page of a layer leaves its frame and is Absent (R370): its lines are dropped. -/
def State.pageGone (s : State) (ctx layer page d fr : Nat) : State :=
  ((List.range 64).foldl (fun s i => s.evictLine d (fr * 64 + i)) (s.dropFrameV ctx d fr)).setPage ctx layer page 0 0

/-- What a teardown ends of a layer (R381): its arrival is cancelled, with reason 3; an eviction is completed, and the tokens of the requests that
came after it fail. -/
def State.endLayer (s : State) (ctx l : Nat) : State :=
  let x := s.layer ctx l
  if x.state ≠ .evicting then s.cancelLayer ctx l 3
  else
    let s1 := (List.range (s.layerRec ctx l).pages).foldl (fun (s : State) p => match s.pageLeaf ctx l p with
      | some (d, _, e) => if leafRes e = 3 then s.pageGone ctx l p d (entryFrame e) else s
      | none => s) s
    (s1.putLayer ctx l { s1.layer ctx l with state := .absent, again := false }).endLayerTokens ctx l true 0x0601

/-- EVICTION_COMPLETE (R370): the requests translated to the page are performed, and its lines are dropped. -/
def execEvictionComplete (ctx layer page : Nat) (s : State) : Host.Outcome State Fault Refusal :=
  match s.pageLeaf ctx layer page with
  | none => .next s
  | some (d, _, e) =>
    let fr := entryFrame e
    if leafRes e ≠ 3 || s.frameBusy d fr then .next s
    else .next (((s.pageGone ctx layer page d fr).settleEvict ctx layer).advanceAll d)

/-! ### The layer instructions (R398, R402) -/

/-- The places in queues that an entry of a kind takes (R309, R326): one for each queue that a fence stands in. -/
def EntryKind.places (k : EntryKind) : Nat := match k with | .fence qs => qs.length | _ => 1

/-- The entries of a context on a die over all of its queues (R309). -/
def State.entriesOf (s : State) (ctx die : Nat) : Nat :=
  ((s.entries.filter (fun e => e.2.ctx == ctx && e.2.die == die && (e.2.state == .queued || e.2.state == .running))).map
    (fun e => e.2.kind.places)).sum
  + (s.nodes.filter (fun n => n.2.ctx == ctx && n.2.die == die && n.2.state != .done && n.2.state != .failed)).length
  + (match s.ctxs.get? ctx with
     | some c => (c.layers.map (fun l => (l.2.tokens.filter (fun t => tokDie t == die)).length)).sum
     | none => 0)

/-- Entries in `n` places of queues may be issued: the context then holds at most 4,096 on the die, and a token record is free (R309, R311). -/
def State.roomFor (s : State) (ctx die n : Nat) : Bool := decide (s.entriesOf ctx die + n ≤ 4096) && (s.die die).tokFree

/-- An entry of one place may be issued. -/
def State.entryRoom (s : State) (ctx die : Nat) : Bool := s.roomFor ctx die 1

/-- The row of a layer instruction. -/
def encLayer (opc : Nat) (dst : Dst) (gov0 : Bool) : Enc := { opc := opc, lens := [1, 3], dst := dst, sb := .u32, gov0 := gov0 }

/-- The id is not that of a layer of the context (R398). -/
def State.layerBad (s : State) (ctx l : Nat) : Bool :=
  match s.ctxs.get? ctx with
  | some c => !c.model || decide (c.nlayer ≤ l)
  | none => true

/-- LAYE's effect on a layer and its result (R402). -/
def State.laye (s : State) (ctx l : Nat) : State × Bool :=
  if s.layerLeased ctx l then (s, false)
  else match (s.layer ctx l).state with
    | .queued => (s.cancelLayer ctx l 3, true)
    | .arriving => (s.cancelLayer ctx l 3, true)
    | .resident =>
      ((List.range (s.layerRec ctx l).pages).foldl (fun s p => if s.evictable ctx l p then s.startEvict ctx l p else s) s, true)
    | _ => (s, true)

/-- LAYW (R402). -/
def execLayw (f : Fields) (s : State) : Host.Outcome State Fault Refusal :=
  runInstr (encLayer 0xFB .no true) f
    (fun v s =>
      let l := v.o.scalar
      if v.x.acquiring?.isSome then acquireThen v .pkg 0 none s {}
      else if s.layerBad v.b.ctx l then .raise 0x0602 (BitVec.ofNat 64 l) v.x.mask
      else
        let st := (s.layer v.b.ctx l).state
        if st = .resident then acquireThen v .pkg 0 none s {}
        else
          let s1 := if st = .absent || st = .evicting then s.requestLayer v.b.ctx l else s
          .wait (s1.modSlice v.bid v.sid (fun x => { x with prog := .parked [(l, BitVec.ofNat 64 l, v.x.mask)] }))) s

/-- LAYQ (R402). -/
def execLayq (f : Fields) (s : State) : Host.Outcome State Fault Refusal :=
  runInstr (encLayer 0xFC .w64 true) f
    (fun v s =>
      let l := v.o.scalar
      if s.layerBad v.b.ctx l then .raise 0x0602 (BitVec.ofNat 64 l) v.x.mask
      else .done { regs := [v.writeUni true (BitVec.ofNat 64 (s.layer v.b.ctx l).word)] }) s

/-- An instruction that issues an entry completes (R311, R319): the token of the record that it takes goes to its pair, and `g` issues the
entry. -/
def tokenOut (v : Env) (queue : Nat) (scope : Scope) (g : Dword → State → State) : Out :=
  { regs := [v.writeUni true 0]
    fix := fun s _ => [v.writeUni true (s.takeToken v.b.die queue v.b.ctx scope).1]
    eff := fun s => let (t, s1) := s.takeToken v.b.die queue v.b.ctx scope; g t s1 }

/-- A residency token given to a layer: it completes at once where the layer is resident (R402). -/
def State.giveToken (s : State) (ctx l : Nat) (t : Dword) : State :=
  let x := s.layer ctx l
  if x.state = .resident then s.finishToken t false 0 (x.landed * 65536) 0
  else s.putLayer ctx l { x with tokens := x.tokens ++ [t] }

/-- LAYR (R402). -/
def execLayr (f : Fields) (s : State) : Host.Outcome State Fault Refusal :=
  runInstr (encLayer 0xFD .w64 false) f
    (fun v s =>
      let l := v.o.scalar
      if v.act = 0 then .done { regs := [v.writeUni true 0] }
      else if s.layerBad v.b.ctx l then .raise 0x0602 (BitVec.ofNat 64 l) v.act
      else if !s.entryRoom v.b.ctx v.b.die then .wait s
      else .done (tokenOut v 5 .pkg (fun t s => (s.requestLayer v.b.ctx l).giveToken v.b.ctx l t))) s

/-- LAYE (R402). -/
def execLaye (f : Fields) (s : State) : Host.Outcome State Fault Refusal :=
  runInstr (encLayer 0xFE .pd false) f
    (fun v s =>
      let l := v.o.scalar
      if v.act = 0 then .done {}
      else if s.layerBad v.b.ctx l then .raise 0x0602 (BitVec.ofNat 64 l) v.act
      else
        let (s1, ok) := s.laye v.b.ctx l
        .doneIn s1 { pred := predAll v ok }) s

end Sys2Proof.Machine
end

