-- ==== Sys2Proof/Machine/LoadStore.lean ====
section
/-! DEFINITION. Loads and stores (R204 to R207): LD, ST, LDS, STS, LDU, TLD, TST; and PRF, PIN, UNPIN, WAITC and PRES (R208 to
R211). -/

namespace Sys2Proof.Machine

/-! ### Common to loads and stores -/

/-- The memory types MT (R204). -/
def typeMT (t : Nat) : Bool := typeInt t || t == 24 || t == 25 || typeFP t || t == 5 || t == 6

/-- The registers of a run that starts at the destination (R204). -/
def Env.runRegs (v : Env) (count : Nat) : List Nat :=
  (List.range (count * (if typeWide v.ty then 2 else 1))).map (fun i => v.f.dst.toNat + i)

/-- The active lanes of registers made pending take 0 until their elements land. -/
def Slice.blankFill (x : Slice) (regs : List Nat) (act : BitVec 4) : Slice :=
  regs.foldl (fun y k => match y.reg k with
    | .pend t q => { y with regs := y.regs.put k (.pend t (Quad.ofFn (fun l => if act.getLsbD l then 0 else q.get l))) }
    | _ => y) x

/-- A load completes (R193, R205): its registers become pending, and its fill and requests begin. -/
def loadOut (v : Env) (regs : List Nat) (target : Tag) (whole : Bool) (els : List FillElem) (ps : List Placed) : Out :=
  { fills := regs, fillTag := target,
    eff := fun s =>
      let s1 := (s.touchAll v ps).modSlice v.bid v.sid (fun x => x.blankFill regs (if whole then 0xF else v.act))
      (s1.beginFill v regs target whole true els ps (fun _ r => r)).1 }

/-- The elements of a scratchpad load with their bytes, which are read at once (R212). -/
def Block.winFills (b : Block) (d ty : Nat) (es : List MElem) : List FillElem :=
  es.map (fun e => e.toFill d ty [⟨0, 0, 0, e.va, e.size, .hit 0 0 []⟩] 0
    (fun _ => some (b.window.readNat e.va e.size)))

/-- A load from the scratchpad (R189, R205). (DEDUCED, log 39) -/
def winLoad (v : Env) (s : State) (size count : Nat) (lanes : List Nat) (regs : List Nat) (target : Tag) (whole : Bool) : Res :=
  match s.winGate v size (v.winElems v.a.v size count lanes) with
  | .stop r => r
  | .go es =>
    match pickFail (v.b.winPoisoned es) with
    | some (c, a, ls) => .raise c a ls
    | none =>
      if !s.counterRoom v true then .wait s
      else .done (loadOut v regs target whole (v.b.winFills v.f.dst.toNat v.ty es) [])

/-- A load from global memory (R178, R205). (DEDUCED, log 39) -/
def globalLoad (v : Env) (s : State) (size count : Nat) (lanes : List Nat) (regs : List Nat) (target : Tag) (whole : Bool) : Res :=
  let es := v.globalElems v.a.v size count lanes
  match s.checkGlobal v {} .read (!s.isOrdered v.b) es with
  | .stop r => r
  | .go s1 ps =>
    if !s1.counterRoom v true then .wait s1
    else
      let s2 := s1.recallFor (s1.isOrdered v.b) ps
      let els := es.zipIdx.map (fun q => q.1.toFill v.f.dst.toNat v.ty ps q.2 (s2.knownPart v (s2.isOrdered v.b)))
      .doneIn s2 (loadOut v regs target whole els ps)

/-- The row of LD and LDS (R204). -/
def encLd (opc : Nat) (sa : Src) : Enc :=
  { opc := opc, lens := [1, 2, 3], dst := .run, sa := sa, types := .eff typeMT, lit := .role, md := 3,
    extra := fun f _ => modOf f % 4 != 3 }

/-- LD (R205). -/
def execLd (f : Fields) (s : State) : Host.Outcome State Fault Refusal :=
  runInstr (encLd 0x60 .w64) f (fun v s =>
    globalLoad v s (elemSize v.ty) (countOf f) (lanesOf v.act) (v.runRegs (countOf f)) .g false) s

/-- LDS (R205). -/
def execLds (f : Fields) (s : State) : Host.Outcome State Fault Refusal :=
  runInstr (encLd 0x62 .w32) f (fun v s =>
    winLoad v s (elemSize v.ty) (countOf f) (lanesOf v.act) (v.runRegs (countOf f)) .g false) s

/-- LDU (R204, R205): the lowest active lane's element to all four lanes. -/
def execLdu (f : Fields) (s : State) : Host.Outcome State Fault Refusal :=
  let win := bitOf (modOf f) 2
  runInstr { opc := 0x64, lens := [1, 2, 3], dst := .ty, sa := if win then .u32 else .u64, types := .eff typeMT, lit := .role, md := 4 } f
    (fun v s =>
      let ls := (lanesOf v.act).take 1
      if ls.isEmpty then .done { regs := [v.write (typeWide v.ty) (Quad.all 0) .u] }
      else if win then winLoad v s (elemSize v.ty) 1 ls (v.runRegs 1) .u true
      else globalLoad v s (elemSize v.ty) 1 ls (v.runRegs 1) .u true) s

/-- The bytes that a lane stores for element `k` of a data run (R206). -/
def Env.runData (v : Env) (o : Opd) (l k : Nat) : List Byte :=
  if typeWide v.ty then
    leBytes 4 ((o.run.getD (2 * k) (Quad.all 0)).get l).toNat ++ leBytes 4 ((o.run.getD (2 * k + 1) (Quad.all 0)).get l).toNat
  else leBytes (elemSize v.ty) ((o.run.getD k (Quad.all 0)).get l).toNat

/-- The row of ST and STS (R204). -/
def encSt (opc : Nat) (sa : Src) : Enc :=
  { opc := opc, lens := [1, 2, 3], sa := sa, sb := .run, types := .eff typeMT, lit := .role, md := 3,
    extra := fun f _ => modOf f % 4 != 3 }

/-- A store to global memory of elements with their bytes (R178, R206). -/
def globalStore (v : Env) (s : State) (es : List MElem) (data : MElem → List Byte) : Res :=
  match s.checkGlobal v {} .write false es with
  | .stop r => r
  | .go s1 ps =>
    let ord := s1.isOrdered v.b
    if ord && s1.logFull v ps then .raiseIn s1 0x0604 0 v.act
    else if !s1.storeRoom v || !s1.sendRoom v ps then .wait s1
    else .doneIn s1 { eff := fun s => s.storeParts v ord ps (fun e => data (es.getD e default)) }

/-- A store to the scratchpad (R189, R206). Barrier objects under the bytes are what the new bytes say (R245). -/
def winStore (v : Env) (s : State) (g : WinGate) (data : MElem → List Byte) : Res :=
  match g with
  | .stop r => r
  | .go es =>
    if !s.storeRoom v then .wait s
    else .done { eff := fun s => s.winStoreAll v (es.map (fun e => (e.va, data e))) }

/-- ST (R206). -/
def execSt (f : Fields) (s : State) : Host.Outcome State Fault Refusal :=
  runInstr (encSt 0x61 .w64) f (fun v s =>
    globalStore v s (v.globalElems v.a.v (elemSize v.ty) (countOf f) (lanesOf v.act)) (fun e => v.runData v.o e.lane e.k)) s

/-- STS (R206). -/
def execSts (f : Fields) (s : State) : Host.Outcome State Fault Refusal :=
  runInstr (encSt 0x63 .w32) f (fun v s =>
    winStore v s (s.winGate v (elemSize v.ty) (v.winElems v.a.v (elemSize v.ty) (countOf f) (lanesOf v.act)))
      (fun e => v.runData v.o e.lane e.k)) s

/-! ### Tensor records (R196 to R200) -/

/-- A tensor record from its 64 bytes (R196). -/
def TensorRec.ofBytes (b : List Byte) : TensorRec :=
  let f := fun o n => leNat ((b.drop o).take n)
  { base := f 0 8, ty := f 8 1 % 32, rank := f 8 1 / 32, space := bitOf (f 9 1) 0, pw := bitsOf (f 9 1) 3 1,
    psh := bitsOf (f 9 1) 6 4, fill := BitVec.ofNat 16 (f 0xA 2),
    dims := (List.range 7).map (fun i => f (0xC + 3 * i) 3),
    boxes := (List.range 7).map (fun i => f (0x21 + i) 1),
    strides := (List.range 7).map (fun i => if i = 0 then 0 else f (0x28 + 4 * (i - 1)) 4) }

/-- The checks of R197 that concern the record alone; `flag` is the reserved bit of byte 9. -/
def TensorRec.ok (r : TensorRec) (flag : Bool) (tyOk : Nat → Bool) : Bool :=
  tyOk r.ty && r.rank != 0 && !flag
    && (List.range 7).all (fun i =>
      if i < r.rank then r.dims.getD i 0 != 0
      else r.dims.getD i 0 == 0 && r.boxes.getD i 0 == 0 && r.strides.getD i 0 == 0)
    && decide (r.pw ≤ 3) && (r.space || r.pw == 0)
    && r.base % elemSize r.ty == 0 && (!r.space || decide (r.base < 2 ^ 32))

/-- The element types of a tensor record (R197). -/
def typeTensor (t : Nat) : Bool := typeFP t || t == 5 || t == 6 || typeInt t || t == 24 || t == 25

/-- Coordinates lie in bounds (R198). -/
def TensorRec.inBounds (r : TensorRec) (xs : List Int) : Bool :=
  xs.zipIdx.all (fun p => decide (0 ≤ p.1) && decide (p.1 < (r.dims.getD p.2 0 : Int)))

/-- The address of an element in bounds (R198). -/
def TensorRec.addrOf (r : TensorRec) (xs : List Int) : Nat :=
  r.base + (xs.getD 0 0).toNat * elemSize r.ty +
    ((List.range 7).map (fun i => if i = 0 then 0 else (xs.getD i 0).toNat * r.strides.getD i 0 * 16)).sum

/-- The swizzle of R199. -/
def TensorRec.permute (r : TensorRec) (o : Nat) : Nat :=
  let row := o / 2 ^ (7 + r.psh) % 2 ^ r.pw
  o / 128 * 128 + (o / 16 % 8 + 3 * row) % 8 * 16 + o % 16

/-- The fill value of an element out of bounds (R198). A NaN FILL keeps its bits for f32 and becomes the canonical NaN for f64.
(DESIGN CHOICE, log 121) -/
def TensorRec.fillValue (r : TensorRec) : Nat :=
  let x := r.fill.toNat
  let w := typeBits r.ty
  if w = 8 then x % 256
  else if w = 16 then x
  else if r.ty = 18 || r.ty = 19 then wrapNat w (sextInt 16 x)
  else if r.ty = 1 then x * 65536
  else if r.ty = 2 then (deliver 2 1 0 false false (decodeF 1 (x * 65536))).1
  else x

/-- Bytes of own-package memory that an instruction reads before it can act, "as an LD" (R185, R196): the state after the verdicts, and
the bytes, or how the instruction ends here. -/
inductive Fetched where
  | got (s : State) (bytes : List Byte)
  | stop (r : Res)

/-- A write of the slice to a byte of a piece is on its way: a read as an LD comes after it (R214). (DEDUCED, log 36) -/
def State.ownWriteAhead (s : State) (v : Env) (p : Placed) : Bool :=
  s.reqs.any (fun q => q.2.bid == v.bid && q.2.sid == v.sid && q.2.writes && (match p.place with
    | .own d pa _ => q.2.home == d && q.2.host.isNone && decide (q.2.pa < pa + p.size) && decide (pa < q.2.pa + q.2.size)
    | .host h pa _ => q.2.host == some h && decide (q.2.pa < pa + p.size) && decide (pa < q.2.pa + q.2.size)
    | _ => false))

/-- A read of `n` bytes at an address as an LD by the lanes of `act` (R185): verdicts first, poison raised precisely; a record in host space is
read there. (DEDUCED, log 36) -/
def State.readAsLd (s : State) (v : Env) (va n : Nat) (act : BitVec 4) : Fetched :=
  let l := (lanesOf act).headD 0
  let es := (List.range ((n + 7) / 8)).map (fun i => (⟨l, i, (va + 8 * i) % 2 ^ 64, min 8 (n - 8 * i)⟩ : MElem))
  let fix := fun (r : Res) => match r with
    | .raise c a _ => Res.raise c a act
    | .raiseIn s c a _ => Res.raiseIn s c a act
    | r => r
  match s.checkGlobal v {} .read false es with
  | .stop r => .stop (fix r)
  | .go s1 ps =>
    if ps.any (s1.ownWriteAhead v) then .stop (.wait s1) else
    let ord := s1.isOrdered v.b
    let s1 := s1.recallFor ord ps
    let bad := ps.filterMap (fun p => match p.place with
      | .own d pa _ => if ord && !s1.viewPoison v.b d pa p.size then none else (s1.firstPoison d pa p.size).map (fun k => (p.va + k, ()))
      | _ => none)
    match leastUsed bad with
    | some (a, _) => .stop (.raiseIn s1 0x030C (BitVec.ofNat 64 a) act)
    | none =>
      let r := ps.foldl (fun (acc : State × List Byte) p => match p.place with
        | .own d pa leaf =>
          if ord then (acc.1.modBlock v.bid (fun b => b.touch d pa), acc.2 ++ acc.1.viewRead v.b d pa p.size)
          else
            let (s2, bytes, st) := acc.1.homeRead d pa p.size (leafPol leaf != 3)
            ((s2.noteStamp v.bid v.sid d pa p.size st).noteSeen v.b.die st, acc.2 ++ bytes)
        | .host h pa leaf => let (s2, bytes) := acc.1.hostFetch h pa p.size leaf; (s2, acc.2 ++ bytes)
        | .hit _ _ b => (acc.1, acc.2 ++ b)
        | .win _ => acc) (s1, [])
      .got r.1 r.2

/-- An element of a lane's vector with its coordinates in or out of bounds (R198). -/
structure TElem where
  lane : Nat
  j : Nat
  addr : Option Nat
  deriving DecidableEq, Repr

/-- The coordinate registers of TLD, TST and CPT (R198). -/
def Slice.coords (x : Slice) (vb rank l : Nat) : List Int :=
  (List.range rank).map (fun i => ((x.reg (vb + i)).lanes.get l).toInt)

/-- What TLD and TST check and form before the access: the record, and each lane's elements. -/
inductive TensorGate where
  | go (s : State) (r : TensorRec) (es : List TElem)
  | stop (r : Res)

/-- R196 to R199 for TLD and TST: the record read and checked, the coordinate registers read under R52, the elements formed. -/
def State.tensorGate (s : State) (v : Env) : TensorGate :=
  let va := v.a.scalar
  let n := 2 ^ (v.md % 4)
  let vb := v.f.sb.toNat
  let bad := fun (s : State) => TensorGate.stop (.raiseIn s 0x0311 (BitVec.ofNat 64 va) v.act)
  if va % 64 ≠ 0 then bad s
  else match s.readAsLd v va 64 v.act with
    | .stop r => .stop r
    | .got s1 bytes =>
      let r := TensorRec.ofBytes bytes
      if !r.ok (bitOf (leNat ((bytes.drop 9).take 1)) 7) typeTensor || 8 < n * elemSize r.ty || 60 < vb + r.rank then bad s1
      else
        let ks := (List.range r.rank).map (fun i => vb + i)
        if ks.any (fun k => (v.x.reg k).isPend) then .stop (.wait s1)
        else if !v.x.mode.getLsbD 14 && ks.any (fun k => v.x.reg k = .empty) then .stop (.raiseIn s1 0x0201 0 v.x.mask)
        else
          let es := (lanesOf v.act).flatMap (fun l =>
            let xs := v.x.coords vb r.rank l
            (List.range n).map (fun (j : Nat) =>
              let ys := (xs.headD 0 + (j : Int)) :: xs.drop 1
              ⟨l, j, if r.inBounds ys then some (if r.space then r.permute (r.addrOf ys) else r.addrOf ys) else none⟩))
          .go s1 r es

/-- The coordinate registers that LB releases (R204), and whether an empty one was read. -/
def Env.coordRels (v : Env) (rank : Nat) : List Nat := if v.f.lb then (List.range rank).map (fun i => v.f.sb.toNat + i) else []

/-- Reading empty coordinate registers under ERZ sets the sticky status (R92). -/
def Env.coordSticky (v : Env) (rank : Nat) (s : State) : State :=
  if (List.range rank).any (fun i => v.x.reg (v.f.sb.toNat + i) = .empty) then
    s.modSlice v.bid v.sid (fun x => { x with sticky := true })
  else s

/-- The registers of a tensor image at a field: one, or an even pair for an image of 8 bytes (R200).
(DEDUCED, log 39; DEDUCED, log 40) -/
def imageRegs (d n size : Nat) : List Nat := if n * size = 8 then [d, d + 1] else [d]

/-- A pair named by a field is even and below v60 (R36). -/
def pairOk (d : Nat) : Bool := d % 2 == 0 && decide (d + 1 < 60)

/-- A fill element of a tensor image (R200): the register image of R63 where the vector is one element, else its bits.
(DEDUCED, log 40) -/
def TElem.toFill (e : TElem) (d n ty : Nat) (parts : List (Nat × Nat × Option Dword)) : FillElem :=
  let size := elemSize ty
  { lane := e.lane, reg := d + (8 * e.j * size) / 32, wide := typeWide ty && n == 1, ty := if n = 1 then ty else 0, parts := parts,
    addr := BitVec.ofNat 64 (e.addr.getD 0), shift := (8 * e.j * size) % 32, fault := none, landed := false }

/-- The row of TLD (R204). -/
def encTld : Enc :=
  { opc := 0x65, lens := [2], dst := .w32, sa := .u64, sb := .first, md := 3 }

/-- TLD (R207). -/
def execTld (f : Fields) (s : State) : Host.Outcome State Fault Refusal :=
  runInstr encTld f (fun v s =>
    match s.tensorGate v with
    | .stop r => r
    | .go s1 r es =>
      let n := 2 ^ (v.md % 4)
      let size := elemSize r.ty
      let d := v.f.dst.toNat
      let regs := imageRegs d n size
      if n * size = 8 && !pairOk d then .raiseIn s1 0x0102 0 v.x.mask
      else
        let fillImg := fun (e : TElem) => e.toFill d n r.ty [(0, size, some (BitVec.ofNat 64 r.fillValue))]
        let mes := (es.filter (fun e => e.addr.isSome)).map (fun e => (⟨e.lane, e.j, e.addr.getD 0 % 2 ^ 64, size⟩ : MElem))
        let out := fun (els : List FillElem) (ps : List Placed) =>
          let o := loadOut v regs .g false els ps
          { o with rels := v.coordRels r.rank, eff := fun s => v.coordSticky r.rank (o.eff s) }
        let inb := es.filter (fun e => e.addr.isSome)
        let oob := (es.filter (fun e => e.addr.isNone)).map fillImg
        if r.space then
          match s1.winGate v size (mes.map (fun e => (e.lane, e.k, (e.va : Int)))) with
          | .stop q => q
          | .go wes =>
            match pickFail (v.b.winPoisoned wes) with
            | some (c, a, ls) => .raiseIn s1 c a ls
            | none =>
              if !s1.counterRoom v true then .wait s1
              else .doneIn s1 (out ((inb.map (fun e => e.toFill d n r.ty
                [(0, size, some (BitVec.ofNat 64 (v.b.window.readNat (e.addr.getD 0) size)))])) ++ oob) [])
        else
          match s1.checkGlobal v {} .read (!s1.isOrdered v.b) mes with
          | .stop q => q
          | .go s2 ps =>
            if !s2.counterRoom v true then .wait s2
            else
              let s2 := s2.recallFor (s2.isOrdered v.b) ps
              let els := inb.zipIdx.map (fun q => q.1.toFill d n r.ty ((ps.filter (fun p => p.e == q.2)).map (fun p =>
                (p.off, p.size, (s2.knownPart v (s2.isOrdered v.b) p).map (BitVec.ofNat 64)))))
              .doneIn s2 (out (els ++ oob) ps)) s

/-- The data operand of TST as it stands: a register, a pair or a latch; none where it is empty or pending. -/
def Env.tstData (v : Env) (wide : Bool) : Opd := v.x.source (if wide then .w64 else .w32) 0 v.f v.f.ext.sc.toNat

/-- The row of TST (R204). The data operand's width is the record's: its latch or first register is checked before the record is read (R52,
R177), and the odd register of a pair after it. (DEDUCED, log 77) -/
def encTst : Enc :=
  { opc := 0x66, lens := [2], sa := .u64, sb := .first, sc := .w32, md := 3 }

/-- The checks of R52 on TST's data operand, whose width the record gives (R200). -/
def Env.tstCheck (v : Env) (wide : Bool) : SrcCheck :=
  let k := v.f.ext.sc.toNat
  let r : Src := if wide then .w64 else .w32
  if wide && k < 60 && !pairOk k then .bad 0x0102
  else v.x.checkSources 0 v.f [(r, k, v.f.ext.lc)]

/-- Reading an empty data register under ERZ sets the sticky status (R92). -/
def Env.tstSticky (v : Env) (wide : Bool) (s : State) : State :=
  if v.x.readsEmpty 0 v.f [(if wide then .w64 else .w32, v.f.ext.sc.toNat, v.f.ext.lc)] then
    s.modSlice v.bid v.sid (fun x => { x with sticky := true })
  else s

/-- TST (R207). -/
def execTst (f : Fields) (s : State) : Host.Outcome State Fault Refusal :=
  runInstr encTst f (fun v s =>
    match s.tensorGate v with
    | .stop r => r
    | .go s1 r es =>
      let n := 2 ^ (v.md % 4)
      let size := elemSize r.ty
      let wide := n * size = 8
      match v.tstCheck wide with
      | .bad c => .raiseIn s1 c 0 v.x.mask
      | .stall => .wait s1
      | .ok =>
        let img := v.tstData wide
        let data := fun (e : MElem) => leBytes size ((img.v.get e.lane).toNat / 2 ^ (8 * e.k * size))
        let mes := (es.filter (fun e => e.addr.isSome)).map (fun e => (⟨e.lane, e.j, e.addr.getD 0 % 2 ^ 64, size⟩ : MElem))
        let k := v.f.ext.sc.toNat
        let rels := v.coordRels r.rank ++ (if v.f.ext.lc then (if wide then [k, k + 1] else [k]) else [])
        let wrap := fun (q : Res) => match q with
          | .done o => Res.doneIn s1 { o with rels := rels, eff := fun s => v.tstSticky wide (v.coordSticky r.rank (o.eff s)) }
          | .doneIn s2 o => Res.doneIn s2 { o with rels := rels, eff := fun s => v.tstSticky wide (v.coordSticky r.rank (o.eff s)) }
          | q => q
        if r.space then
          wrap (winStore v s1 (s1.winGate v size (mes.map (fun e => (e.lane, e.k, (e.va : Int))))) data)
        else wrap (globalStore v s1 mes data)) s

/-! ### PRF (R208) -/

/-- PRF on one lane: the sectors asked for where the address translates and passes, and nothing otherwise. -/
def State.prefetch (s : State) (v : Env) (va : Nat) (core : Bool) : State :=
  match s.ownerOf va with
  | .ok (.own d) =>
    match s.verdict v.b.ctx (.own d) va .read (s.keysOf v.b.ctx v.b.die) .slice with
      | (s1, .pass l) =>
        let p : Placed := ⟨0, 0, 0, va, 1, .own d l.pa l.entry⟩
        if core || d ≠ v.b.die then s1.send { v.request s1 p .read with alloc := core && (v.request s1 p .read).alloc }
        else if leafPol l.entry = 3 then s1
        else match s1.wayFor d l.pa with
          | (s2, true) => s2.modLine d l.pa (fun b => { b with wanted := b.wanted ||| (sectorMask l.pa 1 &&& ~~~b.valid) })
          | (_, false) => s1.send { v.request s1 p .read with alloc := false }
      | _ => s
  | _ => s

/-- PRF (R208). -/
def execPrf (f : Fields) (s : State) : Host.Outcome State Fault Refusal :=
  runInstr { opc := 0x6C, lens := [1, 2, 3], sa := .w64, lit := .role, md := 1 } f
    (fun v _ => doneEff (fun s => (v.globalElems v.a.v 1 1 (lanesOf v.act)).foldl
      (fun s e => s.prefetch v e.va (bitOf v.md 0)) s)) s

/-! ### PIN, UNPIN (R186, R209) -/

/-- The lines that a context pins on a die. -/
def Die.pinnedBy (x : Die) (ctx : Nat) : Nat :=
  (x.lines.filter (fun l => l.2.pins.any (fun p => p.1 == ctx && p.2 != 0))).length

/-- The pin count of a line. -/
def BayLine.pinCount (l : BayLine) : Nat := (l.pins.map (fun p => p.2)).sum

/-- The pinned lines in the set of an address at its bay. -/
def Die.pinnedInSet (x : Die) (pa : Nat) : Nat :=
  (x.lines.filter (fun l => l.2.pinCount != 0 && x.bay (l.1 * 1024) == x.bay pa && bitsOf (l.1 * 1024) 25 16 == bitsOf pa 25 16)).length

/-- One pin request at the owning bay (R186): 0 OK, 1 BUSY, 2 QUOTA; 3 where it waits for a way (R183). A line that the issuing die holds
as a guest is busy (R182), as is a device-uncached line that is not there already, which a bay never takes (R364). (DESIGN CHOICE, log 127) -/
def State.pinOne (s : State) (v : Env) (va : Nat) : State × Nat :=
  match s.ownerOf va with
  | .ok (.own d) =>
    if d ≠ v.b.die && ((s.die v.b.die).guest? v.b.ctx va).isSome then (s, 1)
    else match s.verdict v.b.ctx (.own d) va .read (s.keysOf v.b.ctx v.b.die) .slice with
    | (s1, .pass l) =>
      let line := s1.line d l.pa
      let quota := match s1.ctxs.get? v.b.ctx with | some c => c.pinQuota | none => 0
      let holds := line.pins.any (fun p => p.1 == v.b.ctx && p.2 != 0)
      let full := decide (quota ≤ (s1.die d).pinnedBy v.b.ctx)
      let take := fun (s : State) => s.modLine d l.pa (fun b => { b with
        pins := b.pins.put v.b.ctx ((b.pins.get? v.b.ctx).getD 0 + 1),
        wanted := if b.pinCount = 0 then b.wanted ||| (0xFF &&& ~~~b.valid) else b.wanted })
      if line.pinCount = 255 then (s1, 1)
      else if leafPol l.entry == 3 && !line.resident then (s1, 1)
      else if line.pinCount ≠ 0 then (if !holds && full then (s1, 2) else (take s1, 0))
      else if 15 ≤ (s1.die d).pinnedInSet l.pa then (s1, 1)
      else if full then (s1, 2)
      else match s1.pinRoom d l.pa with
        | (_, false) => (s1, 3)
        | (s2, true) => match s2.wayFor d l.pa with
          | (s3, true) => (take s3, 0)
          | (_, false) => (s1, 3)
    | (s1, _) => (s1, 1)
  | _ => (s, 1)

/-- The pin requests of the active lanes in ascending order: the state and each lane's status. -/
def State.pinLanes (s : State) (v : Env) : State × Quad Dword :=
  (v.globalElems v.a.v 1 1 (lanesOf v.act)).foldl (fun (acc : State × Quad Dword) e =>
    let (s1, st) := acc.1.pinOne v e.va
    (s1, acc.2.set e.lane (BitVec.ofNat 64 st))) (s, Quad.all 0)

/-- PIN (R209). The statuses are those of the state in which the instruction completes. -/
def execPin (f : Fields) (s : State) : Host.Outcome State Fault Refusal :=
  let asV := bitOf (modOf f) 0
  runInstr { opc := 0x6D, lens := [2, 3], dst := if asV then .w32 else .pd, sa := .w64, lit := .role, md := 1 } f
    (fun v s =>
      let st := (s.pinLanes v).2
      let eff := fun s => (s.pinLanes v).1
      if (List.range 4).any (fun l => st.get l == 3) then .wait s
      else if asV then .done { regs := [v.write false st .g], eff := eff }
      else match predRes v (fun l => st.get l == 0) with
        | .done o => .done { o with eff := eff }
        | r => r) s

/-- UNPIN on one address: one of the context's pins removed. -/
def State.unpinOne (s : State) (v : Env) (va : Nat) : State :=
  match s.ownerOf va with
  | .ok (.own d) =>
    match s.walk v.b.ctx (.own d) va with
    | (s1, .ok l) =>
      if (s1.line d l.pa).pins.any (fun p => p.1 == v.b.ctx && p.2 != 0) then
        s1.modLine d l.pa (fun b =>
          let n := (b.pins.get? v.b.ctx).getD 0
          { b with pins := if n ≤ 1 then b.pins.erase v.b.ctx else b.pins.put v.b.ctx (n - 1) })
      else s1
    | (s1, .error _) => s1
  | _ => s

/-- UNPIN (R209). -/
def execUnpin (f : Fields) (s : State) : Host.Outcome State Fault Refusal :=
  runInstr { opc := 0x6E, lens := [1, 2, 3], sa := .w64, lit := .role } f
    (fun v _ => doneEff (fun s => (v.globalElems v.a.v 1 1 (lanesOf v.act)).foldl (fun s e => s.unpinOne v e.va) s)) s

/-! ### WAITC (R210) -/

/-- WAITC (R210). -/
def execWaitc (f : Fields) (s : State) : Host.Outcome State Fault Refusal :=
  runInstr { opc := 0x6F, lens := [2], gov0 := true, md := 0xFF, extra := fun f _ => modOf f / 64 % 4 != 3 } f
    (fun v s =>
      let n := v.md % 64
      let ld := decide (s.gangCount v.bid v.gang true ≤ n)
      let st := decide (s.gangCount v.bid v.gang false ≤ n)
      if (match v.md / 64 % 4 with | 0 => ld | 1 => st | _ => ld && st) then .done {} else .wait s) s

/-! ### PRES (R188, R211) -/

/-- The code of a presence state. -/
def PresState.code : PresState → Nat
  | .present => 0 | .absent => 1 | .abandoned => 2

/-- PRES.set on one line (R188). -/
def Presence.set (p : Presence) : Presence := if p.n = 0 then { p with state := .present } else p

/-- PRES.clr on one line (R188), which has no row for an Abandoned line that still has copies: it stays. (DESIGN CHOICE, log 125) -/
def Presence.clr (p : Presence) (now : BitVec 56) : Presence :=
  if p.state ≠ .absent && p.n = 0 then ⟨.absent, 0, now⟩ else p

/-- The row of PRES (R204): an offset that is uniform for .set and .clr, a destination for .q. -/
def encPres (f : Fields) : Enc :=
  let q := modOf f % 4
  { opc := 0x70, lens := [2, 3], dst := if q = 0 then .w32 else .no, sa := if q = 0 then .w32 else .u32, lit := .role,
    md := if q = 0 then 3 else 0x1FF, extra := fun _ _ => q != 3 }

/-- PRES (R211). A range that leaves the window gives its operand's offset as trap.addr. (DESIGN CHOICE, log 125) -/
def execPres (f : Fields) (s : State) : Host.Outcome State Fault Refusal :=
  runInstr (encPres f) f
    (fun v s =>
      let lanes := lanesOf v.act
      if v.md % 4 = 0 then
        let es := v.winElems v.a.v 1 1 lanes
        match pickFail ((es.filter (fun q => !v.b.inWindow q.2.2 1)).map (fun q => LaneFail.mk q.1 0x0310 (wrapNat 64 q.2.2))) with
        | some (c, a, ls) => .raise c a ls
        | none =>
          let st := fun l => match es.find? (fun q => q.1 == l) with
            | some q => (v.b.presence (q.2.2.toNat / 128)).state.code
            | none => 0
          laneRes v false st .g
      else if lanes.isEmpty then .done {}
      else
        let n := v.md / 4 % 128 + 1
        let o : Int := (v.a.scalar : Int) + litInt f
        if !decide (0 ≤ o) || !v.b.inWindow (o / 128 * 128) (n * 128) then .raise 0x0310 (BitVec.ofInt 64 o) v.act
        else
          let l0 := o.toNat / 128
          let now := s.sinceNow v.b.die
          doneEff (fun s => s.modBlock v.bid (fun b => (List.range n).foldl (fun b i =>
            b.setPresence (l0 + i) (if v.md % 4 = 1 then (b.presence (l0 + i)).set else (b.presence (l0 + i)).clr now)) b))) s

end Sys2Proof.Machine
end

