-- ==== Sys2Proof/Machine/Sync.lean ====
section
/-! DEFINITION. Barriers (R242 to R247, R268, R269), monitors (R248 to R250, R270), read-modify-write at memory (R251 to R258, R271,
R272), tickets (R259, R273), rounds' COMMIT (R260, R263, R274) and GSYNC (R275). -/

namespace Sys2Proof.Machine

/-! ### Barrier objects (R242 to R245) -/

/-- The test of R244: a phase whose arrivals and bytes are all counted completes. -/
def BarObj.test (x : BarObj) : BarObj :=
  if x.aarr = x.xarr && x.abytes = x.xbytes then
    { x with xbytes := 0, abytes := 0, aarr := 0, ctrl := if x.ph = 0 then x.ctrl + 1 else x.ctrl - 1 }
  else x

/-- BINIT's object (R245). -/
def BarObj.init (count : Nat) : BarObj := ⟨0, 0, count, 0, 2⟩

/-- Expected bytes and arrivals added (R245), or BARRIER_OVERFLOW. -/
def BarObj.add (x : BarObj) (n arrivals : Nat) : Option BarObj :=
  if 2 ^ 32 ≤ x.xbytes + n || (arrivals ≠ 0 && x.xarr ≤ x.aarr) then none
  else some { x with xbytes := x.xbytes + n, aarr := x.aarr + arrivals }.test

/-- A delivery of `n` bytes counted (R243, R245): the object, and the cause with which the entry fails. -/
def BarObj.deliver (x : BarObj) (n : Nat) : BarObj × Option Half :=
  match x.cause with
  | some c => (x, some c)
  | none =>
    if x.abytes + n ≤ x.xbytes then ({ x with abytes := x.abytes + n }.test, none)
    else ({ x with ctrl := x.ctrl + 4 }, some 0x0502)

/-- The place of the object that a barrier instruction names (R268): R173, the alignment, then R189. -/
def State.barGate (s : State) (v : Env) (act : BitVec 4) : WinGate :=
  let l := (lanesOf act).headD 0
  let o : Int := (v.a.scalar : Int) + litInt v.f
  if !v.b.inWindow o 16 then .stop (.raise 0x0310 (BitVec.ofInt 64 o) act)
  else if o % 16 ≠ 0 then .stop (.raise 0x030F (BitVec.ofInt 64 o) act)
  else match s.presenceGate v [⟨l, 0, o.toNat, 16⟩] with
    | .stop (.raise c a _) => .stop (.raise c a act)
    | g => g

/-- The object changed in the block's window by an instruction. -/
def State.putObj (s : State) (v : Env) (o : Nat) (x : BarObj) : State := s.modBlock v.bid (fun b => b.winStore v.sid o x.bytes)

/-- BINIT (R268). -/
def execBinit (f : Fields) (s : State) : Host.Outcome State Fault Refusal :=
  runInstr { opc := 0xA0, lens := [2, 3], sa := .u32, lit := .role, md := 0x3FF } f
    (fun v s =>
      if v.act = 0 then .done {}
      else match s.barGate v v.act with
        | .stop r => r
        | .go es => doneEff (fun s => s.putObj v (es.getD 0 default).va (BarObj.init (v.md + 1)))) s

/-- BEXP (R268). -/
def execBexp (f : Fields) (s : State) : Host.Outcome State Fault Refusal :=
  runInstr { opc := 0xA1, lens := [2, 3], sa := .u32, sb := .u32, lit := .role } f
    (fun v s =>
      if v.act = 0 then .done {}
      else match s.barGate v v.act with
        | .stop r => r
        | .go es =>
          let o := (es.getD 0 default).va
          let x := v.b.window.barObj o
          match x.cause with
          | some c => .raise c 0 v.act
          | none => match x.add v.o.scalar 0 with
            | none => .raise 0x0502 0 v.act
            | some y => doneEff (fun s => s.putObj v o y)) s

/-- The row of BARR (R266, R267). -/
def encBarr (f : Fields) : Enc :=
  { opc := 0xA2, lens := [2, 3], dst := if bitOf (modOf f) 4 then .w32 else .no, sa := .u32,
    sb := if bitOf (modOf f) 3 then .u32 else .no, lit := .role, md := 0x1F,
    extra := fun f _ => (modOf f % 8 == 1 || modOf f % 8 == 2) && (!bitOf (modOf f) 3 || f.sb != 0) }

/-- The instruction is in its release. -/
def Slice.releasing? (x : Slice) : Bool :=
  match x.prog with
  | .releasing _ => true
  | .released _ => true
  | _ => false

/-- The object that BARR names with the checks that it makes before its release (R268): those of `barGate` and of R243, which an instruction
that is in its release has made. -/
def State.barrGate (s : State) (v : Env) : WinGate :=
  if v.x.releasing? then .go [⟨0, 0, ((v.a.scalar : Int) + litInt v.f).toNat, 16⟩]
  else match s.barGate v v.act with
    | .stop r => .stop r
    | .go es => match (v.b.window.barObj (es.getD 0 default).va).cause with
      | some c => .stop (.raise c 0 v.act)
      | none => .go es

/-- BARR (R247, R268): the checks, the release, and the arrival on the object as it then stands, which is checked again. -/
def execBarr (f : Fields) (s : State) : Host.Outcome State Fault Refusal :=
  runInstr (encBarr f) f
    (fun v s =>
      if v.act = 0 then .done {}
      else match s.barrGate v with
        | .stop r => r
        | .go es =>
          let o := (es.getD 0 default).va
          let x := v.b.window.barObj o
          match s.release v ((scopeOf (v.md % 8)).getD .core) with
          | (s1, none) => .wait s1
          | (s1, some _) => match x.cause with
            | some c => .raiseIn s1 c 0 v.act
            | none => match x.add (if bitOf v.md 3 then v.o.scalar else 0) 1 with
              | none => .raiseIn s1 0x0502 0 v.act
              | some y => .doneIn s1
                  { regs := if bitOf v.md 4 then [v.writeUni false (BitVec.ofNat 64 x.ph)] else []
                    eff := fun s => s.putObj v o y }) s

/-- The row of BWAIT and BTRY (R266). -/
def encBwait (opc : Nat) (d : Dst) : Enc :=
  { opc := opc, lens := [2, 3], dst := d, sa := .u32, sb := .u32, gov0 := true, lit := .role, md := 7,
    extra := fun f _ => modOf f % 8 == 1 || modOf f % 8 == 2 }

/-- What BWAIT and BTRY share (R243, R267, R269): `f` gets whether the phase has completed. -/
def barTest (v : Env) (s : State) (f : Bool → Res) : Res :=
  if 1 < v.o.scalar then .raise 0x0102 0 v.x.mask
  else match s.barGate v v.x.mask with
    | .stop r => r
    | .go es =>
      let x := v.b.window.barObj (es.getD 0 default).va
      match x.cause with
      | some c => .raise c 0 v.x.mask
      | none => f (x.ph != v.o.scalar)

/-- A BWAIT or BTRY that has found PH ≠ q completes with its acquire (R269); while the acquire waits, what it has found stands whatever becomes of the
object. -/
def barFound (v : Env) (scope : Scope) (s : State) (o : Out) : Res :=
  match acquireThen v scope 1 none s o with
  | .wait s1 => .wait (s1.modSlice v.bid v.sid (fun x => if x.acquiring?.isSome then x else
      { x with prog := .barrier ((v.a.scalar : Int) + litInt v.f).toNat v.o.scalar (some none) }))
  | r => r

/-- BWAIT (R269): while it waits, what changes the object examines its wait (R244, R245). -/
def execBwait (f : Fields) (s : State) : Host.Outcome State Fault Refusal :=
  runInstr (encBwait 0xA3 .no) f
    (fun v s =>
      let scope := (scopeOf (v.md % 8)).getD .core
      match v.x.prog with
      | .acquiring _ w => acquireThen v scope w none s {}
      | .barrier _ _ (some none) => barFound v scope s {}
      | .barrier _ _ (some (some c)) => .raise c 0 v.x.mask
      | _ => barTest v s (fun done =>
          if done then barFound v scope s {}
          else .wait (s.modSlice v.bid v.sid (fun x => { x with
            prog := .barrier ((v.a.scalar : Int) + litInt v.f).toNat v.o.scalar none })))) s

/-- BTRY (R269). -/
def execBtry (f : Fields) (s : State) : Host.Outcome State Fault Refusal :=
  runInstr (encBwait 0xA4 .pd) f
    (fun v s =>
      let scope := (scopeOf (v.md % 8)).getD .core
      match v.x.prog with
      | .acquiring _ w => acquireThen v scope w none s { pred := predAll v true }
      | .barrier _ _ _ => barFound v scope s { pred := predAll v true }
      | _ => barTest v s (fun done =>
          if done then barFound v scope s { pred := predAll v true }
          else .done { pred := predAll v false })) s

/-! ### Elements acted on for the slice -/

/-- Causes raised for the lanes of `act` instead of the one element's lane. -/
def Res.forLanes (r : Res) (act : BitVec 4) : Res :=
  match r with
  | .raise c a _ => .raise c a act
  | .raiseIn s c a _ => .raiseIn s c a act
  | r => r

/-- One global element checked and judged for the slice (R251, R270). -/
def State.oneElem (s : State) (v : Env) (va size align : Nat) (kind : Access) (act : BitVec 4) : Gate :=
  match s.checkGlobal v { align := align, rmw := true } kind false [⟨(lanesOf act).headD 0, 0, va, size⟩] with
  | .stop r => .stop (r.forLanes act)
  | g => g

/-! ### MWAIT and TKW (R248, R249, R270, R273) -/

/-- A monitor of the slice is armed. -/
def State.monitored (s : State) (bid sid : Nat) : Bool :=
  s.dies.any (fun d => d.2.monitors.any (fun m => m.2.bid == bid && m.2.sid == sid))

/-- The slice waits at a round point (R260). -/
def State.atPoint (s : State) (v : Env) : State := s.modSlice v.bid v.sid (fun x => { x with prog := .round })

/-- The wait of MWAIT and TKW on one element: `chk` is the address and size that the checks of R270 cover, `va` the element. -/
def watchBody (v : Env) (s : State) (scope : Scope) (chk size va cond ty : Nat) (val : Dword) : Res :=
  let n := elemSize ty
  let send := fun (s : State) =>
    match s.oneElem v chk size size .read v.x.mask with
    | .stop r => r
    | .go s1 ps =>
      let ord := s1.isOrdered v.b
      if ord then .wait ((s1.touchAll v ps).atPoint v)
      else
        let ps1 := ps.map (fun p => { p with va := va, size := n, place := match p.place with
          | .own d pa leaf => .own d (pa + (va - chk)) leaf
          | q => q })
        let els : List FillElem := [{ lane := 0, reg := 0, wide := false, ty := 0, parts := [(0, n, none)], addr := BitVec.ofNat 64 va,
                                      shift := 0, fault := none, landed := false }]
        let (s2, fid) := s1.beginFill v [] .g false false els ps1
          (fun _ r => { r with op := .watch cond ty val, alloc := false, atHome := true })
        .wait (s2.modSlice v.bid v.sid (fun x => { x with prog := .pending fid }))
  let go := fun (fid : Nat) =>
    match s.await fid with
    | .waiting => .wait s
    | .raised c a _ => .raiseIn (s.discardFill fid) c a v.x.mask
    | .ready x =>
      if waitCond cond ty (match x.elems with | e :: _ => e.value | [] => 0) val.toNat then
        acquireThen v scope (BitVec.ofNat 64 (fid + 1)) (some fid) s { eff := fun s => s.closeFill fid }
      else if s.monitored v.bid v.sid then .wait s
      else send (s.discardFill fid)
  match v.x.prog with
  | .pending fid => go fid
  | .acquiring _ w => go (w.toNat - 1)
  | .satisfied _ =>
    -- the round's commit evaluates the compare (R261)
    match s.oneElem v chk size size .read v.x.mask with
    | .stop r => r
    | .go s1 ps => match ps with
      | ⟨_, _, _, _, _, .own d pa leaf⟩ :: _ =>
        match s1.firstPoison d (pa + (va - chk)) n with
        | some _ => .raiseIn s1 0x030C (BitVec.ofNat 64 va) v.x.mask
        | none =>
          let (s2, bytes, _) := s1.homeRead d (pa + (va - chk)) n (leafPol leaf != 3)
          if waitCond cond ty (leNat bytes) val.toNat then .doneIn (s2.dropVs v.b.die v.b.core (fun _ => true)) {}
          else .wait (s2.atPoint v)
      | _ => .wait s1
  | _ => send s

/-- The address of a uniform pair and the literal. -/
def Env.uniAddr (v : Env) : Nat := (v.a.scalar + litOff v.f) % 2 ^ 64

/-- MWAIT (R270). -/
def execMwait (f : Fields) (s : State) : Host.Outcome State Fault Refusal :=
  runInstr { opc := 0xA5, lens := [2, 3], sa := .u64, sb := .uty, types := .eff typeW, gov0 := true, lit := .role, md := 0x77,
             extra := fun f t =>
               let c := modOf f / 16 % 8
               (modOf f % 8 == 2 || modOf f % 8 == 3) && decide (c ≤ 5) && (decide (c ≤ 1) || typeInt t) } f
    (fun v s => watchBody v s ((scopeOf (v.md % 8)).getD .die) v.uniAddr (elemSize v.ty) v.uniAddr (v.md / 16 % 8) v.ty v.o.v.l0) s

/-- TKW (R273): MWAIT with .eq on TURN. -/
def execTkw (f : Fields) (s : State) : Host.Outcome State Fault Refusal :=
  runInstr { opc := 0xB0, lens := [2, 3], sa := .u64, sb := .u32, gov0 := true, lit := .role, md := 7,
             extra := fun f _ => modOf f % 8 == 2 || modOf f % 8 == 3 } f
    (fun v s => watchBody v s ((scopeOf (v.md % 8)).getD .die) v.uniAddr 8 (v.uniAddr + 4) 0 22 v.o.v.l0) s

/-! ### The shared procedure of the RMWs (R251 to R258, R271) -/

/-- What an RMW asks: its operation and type, whether it returns, its semantic and scope, whether it acts on the scratchpad, its
ordering form (.u), its elements' alignment, whether it waits for its results (R253, R271), its operands by lane, and whether it
is a round point on a shared line (R260). -/
structure RmwReq where
  op : Nat
  ty : Nat
  returns : Bool
  rel : Bool
  acq : Bool
  scope : Scope
  win : Bool
  unordered : Bool
  align : Nat
  hold : Bool
  vb : Nat → Nat
  vc : Nat → Nat
  point : Bool

/-- A fill element of an RMW's lane: FADDL's has ok as a second part. -/
def RmwReq.fillElem (q : RmwReq) (d : Nat) (e : MElem) (known : Option (Nat × Bool)) : FillElem :=
  { lane := e.lane, reg := d, wide := typeWide q.ty, ty := q.ty,
    parts := (0, e.size, known.map (fun k => BitVec.ofNat 64 k.1)) ::
      (if q.op = opFaddl then [(0, 0, known.map (fun k => if k.2 then 1 else 0))] else []),
    addr := BitVec.ofNat 64 e.va, shift := 0, fault := none, landed := false }

/-- The old value and ok of an RMW's lane, once known. -/
def FillElem.rmwResult (x : FillElem) : Nat × Bool :=
  (match x.parts with | p :: _ => (p.2.2.getD 0).toNat | [] => 0,
   match x.parts with | _ :: p :: _ => p.2.2 == some 1 | _ => false)

/-- One RMW element on a scratchpad window: the block, the old value and ok. -/
def RmwReq.onWindow (q : RmwReq) (sid : Nat) (b : Block) (e : MElem) : Block × Nat × Bool :=
  let n := elemSize q.ty
  let old := b.window.readNat e.va n
  let c := if q.op = opFaddl then b.window.readNat (e.va + n) n else q.vc e.lane
  (b.winStore sid e.va (leBytes n (rmwNew q.op q.ty old (q.vb e.lane) c)), old, faddlOk q.ty old (q.vb e.lane) c)

/-- RMW elements on a scratchpad window in the order of R252: the block and each lane's result. -/
def RmwReq.allOnWindow (q : RmwReq) (sid : Nat) (b : Block) (es : List MElem) : Block × List (Nat × Bool) :=
  es.foldl (fun acc e =>
    let (b1, old, ok) := q.onWindow sid acc.1 e
    (b1, acc.2 ++ [(old, ok)])) (b, [])

/-- The request of an RMW's element. -/
def RmwReq.request (q : RmwReq) (v : Env) (s : State) (p : Placed) (lane : Nat) : Req :=
  { v.request s p (.rmw q.op q.ty (BitVec.ofNat 64 (q.vb lane)) (BitVec.ofNat 64 (q.vc lane)) q.returns) with alloc := false }

/-- A RED.u element combined into the update-only line of its core (R256, R257). (DEDUCED, log 37) -/
def State.combine (s : State) (v : Env) (q : RmwReq) (p : Placed) (d pa : Nat) (leaf : Dword) (x : Nat) : State :=
  let die := v.b.die
  let core := v.b.core
  let base := p.va / 128 * 128
  let same := fun (l : CLine) => l.ctx == v.b.ctx && l.va == base
  let match? := (s.core die core).cache.any (fun l => same l && (match l.kind with | .uo op ty _ => op == q.op && ty == q.ty | .data _ => false))
  let s1 :=
    if match? then s
    else
      let s1 := (s.uoHome die core v.b.ctx p.va).dropV die core v.b.ctx p.va
      let l : CLine := { va := base, ctx := v.b.ctx, leaf := leaf, home := d, pa := pa / 128 * 128, kind := .uo q.op q.ty [],
                         stamp := Clock.zero, wr := [], used := s.tick }
      let s2 := (s1.dropLineGuests d pa).allocLine die core l
      s2.modLine d pa (fun b => if b.uo.contains (die, core) then b else { b with uo := b.uo ++ [(die, core)] })
  s1.modCore die core (fun c => { c with cache := c.cache.map (fun l =>
    if same l then match l.kind with
      | .uo op ty parts =>
        let old := match parts.get? pa with | some w => w.toNat | none => rmwIdentity op ty
        { l with kind := .uo op ty (parts.put pa (BitVec.ofNat 64 (rmwNew op ty old x 0))), used := s.tick }
      | .data _ => l
    else l) })

/-- A write or RMW of the slice to an element is on its way, which its RED.u to it follows (R214). (DEDUCED, log 37) -/
def State.ownBusy (s : State) (v : Env) (ps : List Placed) : Bool :=
  ps.any (fun p => match p.place with
    | .own d pa _ => s.reqs.any (fun r => r.2.bid == v.bid && r.2.sid == v.sid && r.2.writes && r.2.home == d && r.2.host.isNone
        && decide (r.2.pa < pa + p.size) && decide (pa < r.2.pa + r.2.size))
    | _ => false)

/-- The error-log entry of an element of a RED or TKA that a slice performs itself and that meets poison (R254). -/
def State.logPoison (s : State) (v : Env) (va : Nat) : State :=
  s.log v.b.ctx { cause := 0x030C, die := v.b.die, core := v.b.core, slice := v.sid, flags := 4, block := v.b.idx.toNat, addr := va }

/-- RMW elements that return nothing, performed or sent (R252, R256, R258, R260). One that an ordered block buffers meets poison only where the
commit performs it (R254, R350). -/
def RmwReq.perform (q : RmwReq) (v : Env) (ordered : Bool) (es : List MElem) (ps : List Placed) (s : State) : State :=
  ps.foldl (fun s p =>
    let l := (es.getD p.e default).lane
    match p.place with
    | .own d pa leaf =>
      if ordered then
        let b := (s.blocks.get? v.bid).getD v.b
        if s.isPrivate b d pa then
          let s := s.recall d pa
          if s.viewPoison b d pa p.size then (s.logPoison v p.va).modBlock v.bid (fun b => b.touch d pa)
          else
            let old := leNat (s.viewRead b d pa p.size)
            (s.holdLine b d pa (leafPol leaf != 3)).1.modBlock v.bid (fun b => b.roundWrite s.nextId (leafPol leaf != 3) v.sid d pa p.va
              (leBytes p.size (rmwNew q.op q.ty old (q.vb l) (q.vc l))))
        else
          let (n, s1) := s.fresh
          (s1.holdLine b d pa (leafPol leaf != 3)).1.modBlock v.bid (fun b => { b.touch d pa with
            roundOps := b.roundOps ++ [⟨v.sid, n, d, pa, p.size, q.op, q.ty, BitVec.ofNat 64 (q.vb l), p.va, leafPol leaf != 3⟩] })
      else if q.unordered && (leafPol leaf == 0 || leafPol leaf == 2) then
        s.combine v q p d pa leaf (q.vb l)
      else
        (((s.uoHome v.b.die v.b.core v.b.ctx p.va).dropV v.b.die v.b.core v.b.ctx p.va).countIssue v false 1).send
          { q.request v s p l with issue := some v.x.issueNo }
    | _ => s) ((s.openRoom v ps.length).countIssue v false 0)

/-- An RMW of a round's commit: performed at its home, or for a shadow, which returns what its block's returned and writes nothing (R354); with the
old value, ok and the bytes it leaves. `k` is the element's place among those of its instruction. -/
def State.commitRmw (s : State) (v : Env) (q : RmwReq) (alloc : Bool) (d pa n k vb vc : Nat) : State × Nat × Bool × List Byte :=
  match v.b.shadowOf.bind (fun m => s.blocks.get? m) with
  | none =>
    let (s1, old, ok, _) := s.homeRmw d pa q.op q.ty (BitVec.ofNat 64 vb) (BitVec.ofNat 64 vc) v.b.die v.b.core 0 alloc
    (s1, old, ok, s1.physRead d pa n)
  | some m =>
    let (old, ok) := match (m.results.filter (fun r => r.1 == v.sid)).drop k with
      | r :: _ => r.2
      | [] => (s.physNat d pa n, true)
    let c := if q.op = opFaddl then s.physNat d (pa + n) n else vc
    (s, old, ok, leBytes n (rmwNew q.op q.ty old vb c))

/-- The RMWs of an ordered block on private lines, or at a round's commit on memory itself, in the order of R252: the state and each
element's old value and ok, none for one that met poison (R254). -/
def RmwReq.performNow (q : RmwReq) (v : Env) (commit : Bool) (es : List MElem) (ps : List Placed) (s : State) :
    State × List (Option (Nat × Bool)) :=
  ps.foldl (fun (acc : State × List (Option (Nat × Bool))) p =>
    let s := acc.1
    let l := (es.getD p.e default).lane
    match p.place with
    | .own d pa leaf =>
      if commit && s.poisoned d pa then (s, acc.2 ++ [none])
      else if commit then
        let (s1, old, ok, new) := s.commitRmw v q (leafPol leaf != 3) d pa p.size acc.2.length (q.vb l) (q.vc l)
        (s1.modBlock v.bid (fun b => { b.roundWrite s.nextId true v.sid d pa p.va new with
          results := b.results ++ [(v.sid, old, ok)] }), acc.2 ++ [some (old, ok)])
      else
        let s := s.recall d pa
        let b := (s.blocks.get? v.bid).getD v.b
        if s.viewPoison b d pa p.size then (s, acc.2 ++ [none])
        else
        let old := leNat (s.viewRead b d pa p.size)
        let c := if q.op = opFaddl then leNat (s.viewRead b d (pa + p.size) p.size) else q.vc l
        ((s.holdLine b d pa (leafPol leaf != 3)).1.modBlock v.bid (fun b => b.roundWrite s.nextId (leafPol leaf != 3) v.sid d pa p.va
            (leBytes p.size (rmwNew q.op q.ty old (q.vb l) c))),
         acc.2 ++ [some (old, faddlOk q.ty old (q.vb l) c)])
    | _ => (s, acc.2 ++ [none])) (s, [])

/-- Elements of a fill from results known at once; one that met poison faults. -/
def RmwReq.knownElems (q : RmwReq) (d : Nat) (es : List MElem) (rs : List (Option (Nat × Bool))) : List FillElem :=
  es.zipIdx.map (fun p => match rs.getD p.2 none with
    | some r => q.fillElem d p.1 (some r)
    | none => { q.fillElem d p.1 none with fault := some (0x030C, BitVec.ofNat 64 p.1.va) })

/-- A held RMW completes: its fill ends, and its release has reported its failures (R229). -/
def RmwReq.closed (q : RmwReq) (v : Env) (fid : Nat) (s : State) : State :=
  if q.rel then (s.closeFill fid).reported v.bid v.sid q.scope else s.closeFill fid

/-- What a held RMW writes once its results are known: `mk` gives the registers, the predicate and the rest from the fill; a lane
that met poison leaves the register empty and takes a fill fault (R254). (DEDUCED, log 44) -/
def RmwReq.finish (q : RmwReq) (v : Env) (mk : Fill → Out) (precise : Bool) (fid : Nat) (s : State) : Res :=
  match s.fills.get? fid with
  | none => .wait s
  | some x =>
    if !x.elems.all FillElem.resolved then .wait s
    else
      match x.raised with
      | some (c, a, ls) =>
        if precise then .raiseIn (s.discardFill fid) c a ls
        else
          let regs := (mk x).regs.flatMap RegWrite.targets
          let o : Out := { rels := regs, eff := fun s => (q.closed v fid s).modSlice v.bid v.sid (fun y =>
            { y with faults := y.faults ++ [⟨regs.headD 0, c, a, ls⟩] }) }
          if q.acq then acquireThen v q.scope (BitVec.ofNat 64 (fid + 1)) (some fid) s o else .doneIn s o
      | none =>
        let o := { mk x with eff := q.closed v fid }
        if q.acq then acquireThen v q.scope (BitVec.ofNat 64 (fid + 1)) (some fid) s o else .doneIn s o

/-- The fill of an RMW that waits for its results, which its slice then waits for. (DEDUCED, log 44) -/
def RmwReq.startHold (q : RmwReq) (v : Env) (counted : Bool) (s : State) (els : List FillElem) (ps : List Placed) (es : List MElem) :
    State × Nat :=
  let (s1, fid) := s.beginFill v [] .g false counted els ps (fun p r =>
    { q.request v s p (es.getD p.e default).lane with fill := r.fill })
  (s1.modSlice v.bid v.sid (fun x => { x with prog := .pending fid }), fid)

/-- The fill of an instruction with no active lane. -/
def noFill (v : Env) : Fill :=
  { bid := v.bid, sid := v.sid, regs := [], target := .g, whole := false, elems := [], issue := 0, draining := false, words := 0, orphan := none, stamp := Clock.zero, born := 0 }

/-- The lines of an RMW's elements given up by its core before it is sent (R180, R257). -/
def RmwReq.giveUp (v : Env) (ps : List Placed) (s : State) : State :=
  ps.foldl (fun s p => (s.uoHome v.b.die v.b.core v.b.ctx p.va).dropV v.b.die v.b.core v.b.ctx p.va) (s.openRoom v ps.length)

/-- The shared procedure of R271: `mk` gives what completes an RMW that waits for its results. -/
def RmwReq.body (q : RmwReq) (v : Env) (mk : Fill → Out) (precise : Bool) (counted : Bool) (es0 : List MElem) (s : State) : Res :=
  let d := v.f.dst.toNat
  let wide := typeWide q.ty
  let regs := if wide then [d, d + 1] else [d]
  let startHold := q.startHold v counted
  let noLanes : Out := if q.returns then mk (noFill v) else {}
  match v.x.prog with
  | .pending fid => q.finish v mk precise fid s
  | .acquiring _ w => if w = 0 then acquireThen v q.scope 0 none s noLanes else q.finish v mk precise (w.toNat - 1) s
  | _ =>
    if q.win then
      match s.winGate v q.align (es0.map (fun e => (e.lane, 0, (e.va : Int)))) with
      | .stop r => r
      | .go es =>
        match (if q.rel then s.release v q.scope else (s, some true)) with
        | (s1, none) => .wait s1
        | (s1, some _) =>
          if v.behind then .wait s1
          else match pickFail (v.b.winPoisoned es) with
          | some (c, a, ls) => .raiseIn (s1.modBlock v.bid (fun b => (q.allOnWindow v.sid b (v.b.winClean es)).1)) c a ls
          | none =>
            if es.isEmpty then (if q.acq then acquireThen v q.scope 0 none s1 noLanes else .doneIn s1 noLanes)
            else if !q.returns then .doneIn s1 { eff := fun s => (s.countIssue v false 0).modBlock v.bid (fun b => (q.allOnWindow v.sid b es).1) }
            else if q.hold then
              let r := q.allOnWindow v.sid v.b es
              let (s2, fid) := startHold (s1.modBlock v.bid (fun _ => r.1)) (q.knownElems d es (r.2.map some)) [] es
              q.finish v mk precise fid s2
            else .doneIn s1 { fills := regs, fillTag := .g, eff := fun s =>
                let b := (s.blocks.get? v.bid).getD v.b
                let r := q.allOnWindow v.sid b es
                let s1 := s.modBlock v.bid (fun _ => r.1)
                (s1.beginFill v regs .g false false (q.knownElems d es (r.2.map some)) [] (fun _ r => r)).1 }
    else
      match s.checkGlobal v { align := q.align, rmw := true } .rmw false es0 with
      | .stop r => r
      | .go s0 ps =>
        let ord := s0.isOrdered v.b
        let isCommit := (match v.x.prog with | .satisfied _ => true | _ => false)
        let point := ord && q.point && ps.any (fun p => match p.place with
          | .own d pa _ => !s0.isPrivate v.b d pa
          | _ => false)
        if isCommit then
          let (s1, rs) := q.performNow v true es0 ps s0
          let (s2, fid) := startHold (s1.touchAll v ps) (q.knownElems d es0 rs) [] es0
          q.finish v mk precise fid s2
        else match (if q.rel then s0.release v q.scope else (s0, some true)) with
          | (s1, none) => .wait s1
          | (s1, some _) =>
            if es0.isEmpty then (if q.acq then acquireThen v q.scope 0 none s1 noLanes else .doneIn s1 noLanes)
            else if point then .wait ((s1.touchAll v ps).atPoint v)
            else if !q.returns then
              if ord && s1.logFull v ps then .raiseIn s1 0x0604 0 v.act
              else if !s1.storeRoom v || !s1.sendRoom v ps || (q.unordered && s1.ownBusy v ps) then .wait s1
              else .doneIn s1 { eff := q.perform v ord es0 ps }
            else if v.behind || (counted && !s1.counterRoom v true) then .wait s1
            else if ord && s1.logFull v ps then .raiseIn s1 0x0604 0 v.act
            else if ord then
              let (s2, rs) := q.performNow v false es0 ps s1
              let (s3, fid) := startHold (s2.touchAll v ps) (q.knownElems d es0 rs) [] es0
              q.finish v mk precise fid s3
            else if !s1.sendRoom v ps then .wait s1
            else
              let drop := RmwReq.giveUp v ps
              let els := es0.map (fun e => q.fillElem d e none)
              if q.hold then .wait (startHold (drop s1) els ps es0).1
              else .doneIn s1 { fills := regs, fillTag := .g, eff := fun s =>
                ((drop s).modSlice v.bid v.sid (fun x => x.blankFill regs v.act) |>.beginFill v regs .g false counted els ps
                  (fun p r => { q.request v s p (es0.getD p.e default).lane with fill := r.fill })).1 }

/-- The lane values that a held RMW writes. -/
def RmwReq.lanesOut (q : RmwReq) (v : Env) (x : Fill) : Out :=
  { regs := [v.write (typeWide q.ty) (Quad.ofFn (fun l => match x.elems.find? (fun e => e.lane == l) with
      | some e => BitVec.ofNat 64 (loadImage q.ty e.rmwResult.1)
      | none => 0)) .g] }

/-- The elements of an RMW: global, or in the window, where an element outside the window keeps its offset's 64-bit image for the
check of R173. -/
def Env.rmwElems (v : Env) (win : Bool) (size : Nat) : List MElem :=
  if win then (v.winElems v.a.v size 1 (lanesOf v.act)).map (fun q => ⟨q.1, q.2.1, if 0 ≤ q.2.2 then q.2.2.toNat else 2 ^ 63 + q.2.2.toNat, size⟩)
  else v.globalElems v.a.v size 1 (lanesOf v.act)

/-- Misaligned scratchpad elements (R251). -/
def Env.winMisaligned (v : Env) (align size : Nat) : Option Res :=
  let es := v.winElems v.a.v size 1 (lanesOf v.act)
  match pickFail (es.filterMap (fun q =>
      if !v.b.inWindow q.2.2 align then some (LaneFail.mk q.1 0x0310 (wrapNat 64 q.2.2))
      else if q.2.2 % (align : Int) ≠ 0 then some (LaneFail.mk q.1 0x030F (wrapNat 64 q.2.2)) else none)) with
  | some (c, a, ls) => some (.raise c a ls)
  | none => none

/-- The semantic and scope fields are legal (R267). -/
def semOk (m : Nat) : Bool :=
  let sem := m / 8 % 4
  let sc := m % 8
  if sem = 0 then sc == 0 else decide (1 ≤ sc) && decide (sc ≤ 3)

/-- The row of an RMW of R266 with the .s form. -/
def encRmw (opc : Nat) (f : Fields) (returns : Bool) (sb : Src) (sc : Src) (types : Nat → Bool) (md : Nat)
    (extra : Nat → Nat → Bool) (fp : Bool) : Enc :=
  { opc := opc, lens := [2, 3], dst := if returns then .ty else .no, sa := if bitOf (modOf f) 5 then .w32 else .w64, sb := sb, sc := sc,
    types := .eff types, rov := if fp then .ext else .no, lit := .role, md := md,
    extra := fun f t => semOk (modOf f) && extra (modOf f) t && (!fp || f.ext.rov == 0 || (f.ext.rov == 1 && typeFP t)) }

/-- The request that the fields of R266 name: `op` its operation, `returns`, `waits` for FADDL, `unordered` for a .u form, `point` for a
round point. -/
def rmwReq (op : Nat) (returns waits unordered point : Bool) (v : Env) : RmwReq :=
  let sem := v.md / 8 % 4
  { op := op, ty := v.ty, returns := returns, rel := sem = 2 || sem = 3, acq := sem = 1 || sem = 3,
    scope := (scopeOf (v.md % 8)).getD .core, win := bitOf v.md 5, unordered := unordered,
    align := if op = opFaddl then 2 * elemSize v.ty else elemSize v.ty,
    hold := waits || sem = 1 || sem = 3, vb := fun l => v.bl l, vc := fun l => v.cl l, point := point }

/-- An RMW with the fields of R266. -/
def rmwOf (op : Nat) (returns waits unordered point : Bool) (mk : RmwReq → Env → Fill → Out) (v : Env) (s : State) : Res :=
  let q := rmwReq op returns waits unordered point v
  match (if q.win && v.x.prog = .fresh then v.winMisaligned q.align q.align else none) with
  | some r => r
  | none => q.body v (mk q v) waits (!q.win) (v.rmwElems q.win (elemSize v.ty)) s

/-- ATOM (R271). -/
def execAtom (f : Fields) (s : State) : Host.Outcome State Fault Refusal :=
  let op := modOf f / 64 % 16
  runInstr (encRmw 0xA6 f true .ty (if op = 7 then .ty else .no) typeW 0x3FF
      (fun m t => decide (m / 64 % 16 ≤ 7) && (!(m / 64 % 16 == 4 || m / 64 % 16 == 5) || typeInt t)) false) f
    (rmwOf op true false false true RmwReq.lanesOut) s

/-- n32 and n64. -/
def typeN (t : Nat) : Bool := t == 22 || t == 23

/-- BINC (R271). -/
def execBinc (f : Fields) (s : State) : Host.Outcome State Fault Refusal :=
  runInstr (encRmw 0xA7 f true .ty .no typeN 0x3F (fun _ _ => true) false) f (rmwOf opBinc true false false true RmwReq.lanesOut) s
/-- WINC (R271). -/
def execWinc (f : Fields) (s : State) : Host.Outcome State Fault Refusal :=
  runInstr (encRmw 0xA8 f true .ty .no typeN 0x3F (fun _ _ => true) false) f (rmwOf opWinc true false false true RmwReq.lanesOut) s
/-- DECZ (R271). -/
def execDecz (f : Fields) (s : State) : Host.Outcome State Fault Refusal :=
  runInstr (encRmw 0xA9 f true .no .no typeN 0x3F (fun _ _ => true) false) f (rmwOf opDecz true false false true RmwReq.lanesOut) s

/-- FADDL's result (R271): the old values, and ok in the bits of the active lanes of pk. (DEDUCED, log 44) -/
def faddlOut (q : RmwReq) (v : Env) (x : Fill) : Out :=
  let k := v.md / 64 % 8
  let old := v.x.preds.getD k 0
  let ok := fun l => match x.elems.find? (fun e => e.lane == l) with | some e => e.rmwResult.2 | none => false
  { q.lanesOut v x with pred := some (k, laneSet ((List.range 4).filter (fun l => if v.act.getLsbD l then ok l else old.getLsbD l))) }

/-- FADDL (R271). -/
def execFaddl (f : Fields) (s : State) : Host.Outcome State Fault Refusal :=
  runInstr (encRmw 0xAA f true .ty .no typeN 0x1FF (fun _ _ => true) false) f (rmwOf opFaddl true true false true faddlOut) s

/-- The operations of FATOM (R267). -/
def fatomOk (m : Nat) (_ : Nat) : Bool := [0, 4, 5, 8, 9].contains (m / 64 % 16)

/-- FATOM.o (R272). -/
def execFatomO (f : Fields) (s : State) : Host.Outcome State Fault Refusal :=
  runInstr (encRmw 0xAC f true .ty .no typeFP 0x3FF fatomOk true) f
    (rmwOf (modOf f / 64 % 16) true false false true RmwReq.lanesOut) s
/-- FATOM.u (R272). -/
def execFatomU (f : Fields) (s : State) : Host.Outcome State Fault Refusal :=
  runInstr (encRmw 0xAD f true .ty .no typeFP 0x3FF fatomOk true) f
    (rmwOf (modOf f / 64 % 16) true false false true RmwReq.lanesOut) s

/-- The operations of RED by type, with the semantics it takes (R267). -/
def redOpOk (m t : Nat) : Bool :=
  let op := m / 64 % 16
  (m / 8 % 4 == 0 || m / 8 % 4 == 2) &&
    (if typeFP t then [0, 4, 5, 8, 9].contains op
     else decide (op ≤ 5) && (!(op == 4 || op == 5) || typeInt t))

/-- RED.o (R272). -/
def execRedO (f : Fields) (s : State) : Host.Outcome State Fault Refusal :=
  runInstr (encRmw 0xAE f false .ty .no (fun t => typeW t || typeFP t) 0x3FF redOpOk true) f
    (rmwOf (modOf f / 64 % 16) false false false false RmwReq.lanesOut) s
/-- RED.u (R256, R272). -/
def execRedU (f : Fields) (s : State) : Host.Outcome State Fault Refusal :=
  runInstr (encRmw 0xAF f false .ty .no (fun t => typeW t || typeFP t) 0x3FF redOpOk true) f
    (rmwOf (modOf f / 64 % 16) false false true false RmwReq.lanesOut) s

/-! ### Tickets (R259, R273) -/

/-- A ticket's RMW on one word of the pair (R259): the check covers the pair, 8 bytes aligned to 8. (DEDUCED, log 41) -/
def ticketRmw (v : Env) (s : State) (off : Nat) (q : RmwReq) (mk : Fill → Out) : Res :=
  let act := v.act
  let go := fun (s : State) => (q.body v mk false true [⟨(lanesOf act).headD 0, 0, (v.uniAddr + off) % 2 ^ 64, 4⟩] s).forLanes act
  match v.x.prog with
  | .pending _ => go s
  | .acquiring _ _ => go s
  | _ => match s.oneElem v v.uniAddr 8 8 .rmw act with
    | .stop r => r
    | .go s1 _ => go s1

/-- The request of a ticket instruction: an addition of one. -/
def ticketReq (returns rel : Bool) (scope : Scope) : RmwReq :=
  { op := 0, ty := 22, returns := returns, rel := rel, acq := false, scope := scope, win := false, unordered := false, align := 4,
    hold := returns, vb := fun _ => 1, vc := fun _ => 0, point := returns }

/-- TKT (R273). -/
def execTkt (f : Fields) (s : State) : Host.Outcome State Fault Refusal :=
  runInstr { opc := 0xAB, lens := [1, 2, 3], dst := .w32, sa := .u64, lit := .role } f
    (fun v s =>
      if v.act = 0 then .done {}
      else ticketRmw v s 0 (ticketReq true false .core) (fun x =>
        { regs := [v.writeUni false (match x.elems with | e :: _ => BitVec.ofNat 64 e.rmwResult.1 | [] => 0)] })) s

/-- TKA (R273). -/
def execTka (f : Fields) (s : State) : Host.Outcome State Fault Refusal :=
  runInstr { opc := 0xB1, lens := [2, 3], sa := .u64, lit := .role, md := 7,
             extra := fun f _ => modOf f % 8 == 2 || modOf f % 8 == 3 } f
    (fun v s =>
      if v.act = 0 then .done {}
      else ticketRmw v s 4 (ticketReq false true ((scopeOf (v.md % 8)).getD .die)) (fun _ => {})) s

/-! ### COMMIT (R263, R274) -/

/-- COMMIT (R274): a round point of an ordered kernel; elsewhere FENCE.ar.die. -/
def execCommit (f : Fields) (s : State) : Host.Outcome State Fault Refusal :=
  runInstr { opc := 0xB2, lens := [1], gov0 := true } f
    (fun v s =>
      if s.isOrdered v.b then (match v.x.prog with | .satisfied _ => .done {} | _ => .wait (s.atPoint v))
      else match v.x.acquiring? with
        | some w => acquireThen v .die w none s {}
        | none => match s.release v .die with
          | (s1, none) => .wait s1
          | (s1, some _) => acquireThen v .die 1 none s1 {}) s

/-! ### GSYNC (R275) -/

/-- A slice has arrived at GSYNC on a handle. -/
def Slice.arrivedAt (x : Slice) (h : Nat) : Bool :=
  (x.run = .waiting || x.run = .parked true) && x.prog == .synced h

/-- Every member of a group's current set has arrived at GSYNC (R275). -/
def State.allArrived (s : State) (bid : Nat) (blk : Bool) (h : Nat) (g : Group) : Bool :=
  if blk then g.current.all (fun m => match s.blocks.get? m with
      | some b => b.live.all (fun x => x.2.arrivedAt h)
      | none => true)
  else match s.blocks.get? bid with
    | some b => g.current.all (fun m => match b.slices.get? m with | some x => x.arrivedAt h | none => true)
    | none => false

/-- Every waiter of a group released (R275): the published set is the current one, each waiter's arrival is satisfied, and DRNA.o counts afresh
(R303). -/
def State.releaseGroup (s : State) (bid : Nat) (blk : Bool) (slot h : Nat) (g : Group) : State :=
  let s1 := s.putGroup bid blk slot { g with published := g.current, epoch := g.epoch + 1 }
  let free := fun (b : Block) => { b with
    slices := b.slices.map (fun x => (x.1, if x.2.arrivedAt h then { x.2 with prog := .satisfied 0 } else x.2))
    drnaSeq := b.drnaSeq.filter (fun q => q.1 != h) }
  if blk then g.current.foldl (fun s m => s.modBlock m free) s1
  else s1.modBlock bid free

/-- GSYNC (R275). -/
def gsyncBody (v : Env) (s : State) : Res :=
  let h := v.a.scalar
  let scope := (scopeOf (v.md % 8)).getD .core
  match v.x.prog with
  | .satisfied _ => acquireThen v scope 1 none s {}
  | .acquiring _ w => acquireThen v scope w none s {}
  | _ =>
    match s.groupOf v.b h with
    | .error c => .raise c 0 v.x.mask
    | .ok (blk, slot, g) =>
      let me := if blk then v.bid else v.sid
      if !g.current.contains me then .raise 0x0109 0 v.x.mask
      else if blk && v.md % 8 = 1 then .raise 0x0102 0 v.x.mask
      else
        let arrive := fun (s : State) =>
          let s1 := (s.modSlice v.bid v.sid (fun x => { x with prog := .synced h })).setWaiting v.bid v.sid
          if s1.allArrived v.bid blk h g && !(blk && s.isOrdered v.b) then
            acquireThen v scope 1 none ((s1.releaseGroup v.bid blk slot h g)) {}
          else .wait s1
        match v.x.prog with
        | .synced _ => arrive s
        | _ => match s.release v scope with
          | (s1, none) => .wait s1
          | (s1, some _) => arrive s1

/-- GSYNC (R275). -/
def execGsync (f : Fields) (s : State) : Host.Outcome State Fault Refusal :=
  runInstr { opc := 0xB3, lens := [2], sa := .u32, gov0 := true, md := 7,
             extra := fun f _ => decide (1 ≤ modOf f % 8) && decide (modOf f % 8 ≤ 3) } f gsyncBody s

end Sys2Proof.Machine
end

