-- ==== Sys2Proof/Machine/Tile.lean ====
section
/-! DEFINITION. The matrix instructions (R276 to R304): slots, tiles and the stream. What the stream does with its
entries afterwards is in Stream. -/

namespace Sys2Proof.Machine

/-! ### Common to the chapter -/

/-- The literal of an instruction, zero in a two-word form (R289). -/
def litNat (f : Fields) : Nat := (f.lit?.getD 0).toNat

/-- m of MOD[2:0] (R289). -/
def shapeM (f : Fields) : Nat := 16 * (bitsOf (modOf f) 2 0 + 1)

/-- n of MOD[5:3] (R289). -/
def shapeN (f : Fields) : Nat := 16 * (bitsOf (modOf f) 5 3 + 1)

/-- C of R277: elements per row of a slot. -/
def rowCap (t : Nat) : Nat :=
  match typeBits t with
  | 16 => 128
  | 8 => 256
  | 6 => 320
  | _ => 512

/-- The types of SLDS and MMAS (R289): f16, bf16, e4m3, e5m2, e2m1, s8 and n8. -/
def typeSparse (t : Nat) : Bool := [3, 4, 5, 6, 9, 16, 20].contains t

/-- The types of MMA (R277). -/
def typeMma (t : Nat) : Bool := typeSparse t || t == 7 || t == 8 || typeMX t

/-- PITCH of a tile word (R283). -/
def tilePitch (w : Word) : Nat := bitsOf w.toNat 27 16

/-- BASE of a tile word (R283). -/
def tileBase (w : Word) : Nat := bitsOf w.toNat 15 0

/-- The checks of a tile word for an m × n tile in a region of `acc` units (R283). -/
def tileCause (acc m n : Nat) (w : Word) : Option Half :=
  if bitsOf w.toNat 31 28 ≠ 0 then some 0x0102
  else if tilePitch w < n || 4096 * acc < tileBase w + (m - 1) * tilePitch w + n then some 0x0403
  else none

/-- The slot that a block has bound to a name, with its physical number. -/
def Block.slotOf (b : Block) (name : Nat) : Option (Nat × PSlot) := b.slots.find? (fun p => p.2.name == some name)

/-- A physical slot changed. -/
def Block.modSlot (b : Block) (k : Nat) (g : PSlot → PSlot) : Block :=
  match b.slots.get? k with
  | some p => { b with slots := b.slots.put k (g p) }
  | none => b

/-- The physical slots of a core that some block holds (R278). (DEDUCED, log 51) -/
def State.slotsTaken (s : State) (d c : Nat) : List Nat :=
  (s.blocks.filter (fun b => b.2.die == d && b.2.core == c && b.2.state != .saved)).flatMap (fun b => b.2.slots.map (fun p => p.1))

/-- A cause of the chapter: trap.addr zero, the active lanes (R290). -/
def Env.bad (v : Env) (s : State) (c : Half) : Res := .raiseIn s c 0 v.act

/-- The lowest active lane, which acts for the slice. -/
def Env.lane0 (v : Env) : Nat := (lanesOf v.act).headD 0

/-! ### CLAIM, RELS (R278, R279, R291) -/

/-- The row of CLAIM and RELS (R289). -/
def encClaim (opc : Nat) : Enc := { opc := opc, lens := [2, 3], sb := .u32 }

/-- A slot newly claimed (R279). -/
def PSlot.claimed (name : Nat) : PSlot :=
  { name := some name, f := 0, k := 0, ready := false, faulted := false, format := .plain, rows := [], scales := [] }

/-- Free slots of a core that no reservation of a resident block covers (R278). -/
def State.spareSlots (s : State) (d c : Nat) : Nat :=
  32 - (s.slotsTaken d c).length - ((s.residents d c).map (fun b => b.2.slotLimit - b.2.slots.length)).sum

/-- A claim of an older block waits on the core for a slot that no reservation covers (R278). -/
def State.olderClaim (s : State) (b : Block) : Bool :=
  (s.residents b.die b.core).any (fun q => decide (q.2.age < b.age)
    && q.2.slices.any (fun x => decide (x.2.run = .waiting) && x.2.prog == .claiming))

/-- CLAIM's steps. -/
def claimBody (v : Env) (s : State) : Res :=
  if v.act = 0 then .done {}
  else
    let name := v.o.scalar
    let h := v.b.slots.length
    let taken := s.slotsTaken v.b.die v.b.core
    let take : Res :=
      match (List.range 32).find? (fun k => !taken.contains k) with
      | none => .wait s
      | some k => doneEff (fun s => s.modBlock v.bid (fun b => { b with slots := b.slots.put k (PSlot.claimed name) }))
    if 31 < name then v.bad s 0x0102
    else if (v.b.slotOf name).isSome then v.bad s 0x0402
    else if h = 32 then v.bad s 0x0406
    else if h < v.b.slotLimit then take
    else if 0 < s.spareSlots v.b.die v.b.core && !s.olderClaim v.b then take
    else .wait (s.modSlice v.bid v.sid (fun x => { x with prog := .claiming }))

/-- CLAIM (R291). -/
def execClaim (f : Fields) (s : State) : Host.Outcome State Fault Refusal := runInstr (encClaim 0x80) f claimBody s

/-- RELS (R279, R291). -/
def execRels (f : Fields) (s : State) : Host.Outcome State Fault Refusal :=
  runInstr (encClaim 0x81) f (fun v s =>
    if v.act = 0 then .done {}
    else if 31 < v.o.scalar then v.bad s 0x0102
    else match v.b.slotOf v.o.scalar with
      | none => v.bad s 0x0401
      | some (k, _) => doneEff (fun s => s.modBlock v.bid (fun b =>
          let b1 := b.modSlot k PSlot.release
          { b1 with slots := dropFreeSlots b1.slots }))) s

/-! ### Sources and destinations of whole rows -/

/-- Rows of `n` bytes from a global address with a stride, as elements of the lowest active lane. -/
def Env.rowElems (v : Env) (base stride count n : Nat) : List MElem :=
  (List.range count).map (fun i => ⟨v.lane0, i, (base + i * stride) % 2 ^ 64, n⟩)

/-- What the checks of a source or destination of rows give: the pieces, or how the instruction ends here. -/
inductive Rows where
  | go (s : State) (ps : List Placed)
  | stop (r : Res)

/-- The pieces of a scratchpad row. (DEDUCED, log 42) -/
def rowPieces (e : MElem) : List Placed :=
  (partsOf e.va e.size).zipIdx.map (fun q => ⟨e.k, q.2, q.1.1, q.1.2.1, q.1.2.2, .win q.1.2.1⟩)

/-- A piece of device memory or of the window as an ordered block reads it at issue (R349). (DEDUCED, log 45) -/
def State.capture (s : State) (v : Env) (p : Placed) : Placed :=
  match p.place with
  | .own d pa _ =>
    { p with place := .hit d pa (if s.viewPoison ((s.blocks.get? v.bid).getD v.b) d pa p.size then []
        else s.viewRead ((s.blocks.get? v.bid).getD v.b) d pa p.size) }
  | .win o => v.b.readPiece o p.size p
  | _ => p


/-- Rows of one source or destination: the base, the stride, how many rows and their length. -/
structure RowSpec where
  base : Int
  stride : Nat
  count : Nat
  n : Nat
  deriving DecidableEq, Repr

/-- What the checks of two sources or destinations give together: the pieces of each, or how the instruction ends here. -/
inductive Rows2 where
  | go (s : State) (ps qs : List Placed)
  | stop (r : Res)

/-- The rows of a source as elements of a lane. -/
def RowSpec.elems (q : RowSpec) (lane : Nat) : List (Nat × Nat × Int × Nat) :=
  (List.range q.count).map (fun i => (lane, i, q.base + ((i * q.stride : Nat) : Int), q.n))

/-- The lowest byte at which a row leaves the window, if it does (R177). -/
def Block.rowFail (b : Block) (o : Int) (n : Nat) : Option Nat :=
  if b.inWindow o n then none
  else some (if 0 ≤ o ∧ o < (b.scratch : Int) then b.scratch else wrapNat 64 o)

/-- Step 1 of R177 on whole rows of device or host memory: each 128-byte part on its own, so that a row may cross owners, which R175 forbids
to elements alone. -/
def State.rowFails (s : State) (es : List MElem) : List LaneFail :=
  s.formFails {} (es.flatMap (fun e => (partsOf e.va e.size).map (fun p => { e with va := p.2.1, size := p.2.2 })))

/-- Two sources or destinations checked as one access (R177, R178, R189): each step on the rows of both, before the next step on any.
(DEDUCED, log 42) -/
def State.rowGates (s : State) (v : Env) (win : Bool) (kind : Access) (a b : RowSpec) : Rows2 :=
  let es := a.elems v.lane0 ++ b.elems v.lane0
  if win then
    match pickFail (es.filterMap (fun q => (v.b.rowFail q.2.2.1 q.2.2.2).map (LaneFail.mk q.1 0x0310))) with
    | some (c, x, _) => .stop (.raise c x v.act)
    | none => match s.presenceGate v (es.map (fun q => ⟨q.1, q.2.1, q.2.2.1.toNat, q.2.2.2⟩)) with
      | .stop r => .stop (r.forLanes v.act)
      | .go ms => .go s ((ms.take a.count).flatMap rowPieces) ((ms.drop a.count).flatMap rowPieces)
  else
    let ms := es.map (fun q => ⟨q.1, q.2.1, wrapNat 64 q.2.2.1, q.2.2.2⟩)
    match pickFail (s.rowFails ms) with
    | some (c, x, _) => .stop (.raise c x v.act)
    | none => match s.gate v kind false ms with
      | .stop r => .stop (r.forLanes v.act)
      | .go s1 ps =>
        .go s1 (ps.filter (fun p => decide (p.e < a.count)))
          ((ps.filter (fun p => decide (a.count ≤ p.e))).map (fun p => { p with e := p.e - a.count }))

/-- Rows of one source or destination checked as one access of the active lanes (R292, R296, R299). (DEDUCED, log 42) -/
def State.rowGate (s : State) (v : Env) (win : Bool) (kind : Access) (base : Int) (stride count n : Nat) : Rows :=
  match s.rowGates v win kind ⟨base, stride, count, n⟩ ⟨0, 0, 0, 0⟩ with
  | .go s1 ps _ => .go s1 ps
  | .stop r => .stop r

/-- The source of a fill as it is held: what an ordered block reads is fixed at issue. -/
def State.fillSource (s : State) (v : Env) (ps : List Placed) : List Placed :=
  if s.isOrdered v.b then ps.map (s.capture v) else ps

/-! ### SLD, SLDS (R292, R293) -/

/-- A slot as a fill into it is issued (R279). -/
def PSlot.issueFill (p : PSlot) (fmt : SlotFormat) : PSlot := { p with f := p.f + 1, ready := false, format := fmt }

/-- A fill of slots issued: it counts as a load (R195, R286). -/
def issueSlotFill (v : Env) (x : SlotFill) (fmt mfmt : SlotFormat) (s : State) : State :=
  let s1 := s.countIssue v true 1
  let s2 := s1.touchAll v (x.src ++ x.msrc)
  let (n, s3) := s2.fresh
  s3.modBlock v.bid (fun b =>
    let b1 := b.modSlot x.slot (fun p => p.issueFill fmt)
    let b2 := match x.mslot with | some k => b1.modSlot k (fun p => p.issueFill mfmt) | none => b1
    { b2 with slotFills := b2.slotFills.put n { x with issue := v.x.issueNo } })

/-- The row of SLD (R289). -/
def encSld (f : Fields) : Enc :=
  { opc := 0x82, lens := [3], sa := .u32, sb := if bitOf (modOf f) 0 then .u32 else .u64, sc := .u32,
    types := .tov (fun t => t == 0 || typeMX t), md := 1, lit := .role,
    extra := fun f _ => (litNat f &&& 0x000F7F7F) == litNat f }

/-- SLD's steps. (DEDUCED, log 51) -/
def sldBody (v : Env) (s : State) : Res :=
  if v.act = 0 then .done {}
  else
    let l := litNat v.f
    let row0 := bitsOf l 6 0
    let rows := bitsOf l 14 8 + 1
    let blocks := bitsOf l 19 16 + 1
    let name := v.a.scalar
    let n := if v.ty = 0 then 16 * blocks else blocks * (4 * typeBits v.ty) + blocks
    if 31 < name || 128 < row0 + rows || (v.ty ≠ 0 && rowCap v.ty / 32 < blocks) then v.bad s 0x0102
    else match v.b.slotOf name with
      | none => v.bad s 0x0401
      | some (k, p) =>
        if p.k ≠ 0 then v.bad s 0x0402
        else
          let base := v.o.scalar
          match s.rowGate v (bitOf v.md 0) .read base v.c.scalar rows n with
          | .stop r => r
          | .go s1 ps =>
            if p.f = 16 || !s1.counterRoom v true then .wait s1
            else
              let fmt := if v.ty = 0 then SlotFormat.plain else .mx v.ty
              let s1 := s1.recallFor (s1.isOrdered v.b) ps
              let x : SlotFill := {
                sid := v.sid, slot := k, mslot := none, row0 := row0, rows := rows, ty := v.ty, blocks := blocks,
                n := 0, g := 0, src := s1.fillSource v ps, msrc := [], addr := base, maddr := 0,
                keys := s1.keysOf v.b.ctx v.b.die, lanes := v.act, issue := 0 }
              .doneIn s1 { eff := issueSlotFill v x fmt fmt }

/-- SLD (R292). -/
def execSld (f : Fields) (s : State) : Host.Outcome State Fault Refusal := runInstr (encSld f) f sldBody s

/-- N of its code (R289). -/
def sparseN (c : Nat) : Nat := match c with | 0 => 6 | 1 => 8 | _ => 12

/-- The stride of value rows of a sparse operand (R293). -/
def sparseVs (ng w : Nat) : Nat := 16 * ((ng * w + 127) / 128)

/-- The stride of metadata rows of a sparse operand (R293). -/
def sparseMs (ng : Nat) : Nat := 16 * ((5 * ng + 127) / 128)

/-- The row of SLDS (R289). -/
def encSlds (f : Fields) : Enc :=
  let src : Src := if bitOf (modOf f) 2 then .u32 else .u64
  { opc := 0x83, lens := [3], sa := .u32, sb := src, sc := src, types := .eff typeSparse, md := 7, lit := .role,
    extra := fun f _ => (litNat f &&& 0x001F7F7F) == litNat f && modOf f % 4 != 3 }

/-- SLDS's steps. -/
def sldsBody (v : Env) (s : State) : Res :=
  if v.act = 0 then .done {}
  else
    let l := litNat v.f
    let row0 := bitsOf l 6 0
    let rows := bitsOf l 14 8 + 1
    let g := bitsOf l 20 16 + 1
    let n := sparseN (v.md % 4)
    let name := v.a.scalar
    if 31 < name || name % 2 ≠ 0 || 128 < row0 + rows || rowCap v.ty < n * g then v.bad s 0x0102
    else match v.b.slotOf name, v.b.slotOf (name + 1) with
      | some (k, p), some (km, pm) =>
        if p.k ≠ 0 || pm.k ≠ 0 then v.bad s 0x0402
        else
          let win := bitOf v.md 2
          let w := typeBits v.ty
          match s.rowGates v win .read ⟨v.o.scalar, sparseVs (n * g) w, rows, (n * g * w + 7) / 8⟩
              ⟨v.c.scalar, sparseMs (n * g), rows, (5 * n * g + 7) / 8⟩ with
          | .stop r => r
          | .go s2 ps ms =>
            if p.f = 16 || pm.f = 16 || !s2.counterRoom v true then .wait s2
            else
              let s2 := s2.recallFor (s2.isOrdered v.b) (ps ++ ms)
              let x : SlotFill := {
                sid := v.sid, slot := k, mslot := some km, row0 := row0, rows := rows, ty := v.ty, blocks := 0,
                n := n, g := g, src := s2.fillSource v ps, msrc := s2.fillSource v ms, addr := v.o.scalar, maddr := v.c.scalar,
                keys := s2.keysOf v.b.ctx v.b.die, lanes := v.act, issue := 0 }
              .doneIn s2 { eff := issueSlotFill v x (.spVal v.ty n g) (.spMeta v.ty n g) }
      | _, _ => v.bad s 0x0401

/-- SLDS (R293). -/
def execSlds (f : Fields) (s : State) : Host.Outcome State Fault Refusal := runInstr (encSlds f) f sldsBody s

/-! ### The stream (R284, R285) -/

/-- An entry of the executing slice before its operands are put in: the instruction with the type, the rounding and the saturation that
are effective at its issue. (DEDUCED, log 52) -/
def Env.entry (v : Env) (opc : Nat) (tile : Word) : SEntry :=
  { opc := opc, f := v.f, ty := v.ty, rnd := v.rnd, sat := v.sat, tile := tile, opa := 0, opb := 0, slots := [], batch := none,
    seq := 0, rank := 0, epoch := 0, ahead := [], dst := 0, ctr := 0, sid := v.sid, lanes := v.act, keys := 0, src := [], after := 0, begun := false, readEnded := false, parked := [], failed := none,
    sent := none }

/-- The block's stream has room for an entry (R284). -/
def Env.streamRoom (v : Env) : Bool := decide (v.b.stream.length < 64)

/-- An entry enters its block's stream. -/
def enterStream (v : Env) (e : SEntry) (s : State) : State :=
  s.modBlock v.bid (fun b => { b with stream := b.stream ++ [{ e with after := s.nextId, keys := s.keysOf v.b.ctx v.b.die }] })

/-! ### MMA, MMAS (R294, R295) -/

/-- Slots with one more reader (R279). -/
def readSlots (v : Env) (ks : List Nat) (s : State) : State :=
  s.modBlock v.bid (fun b => ks.dedup.foldl (fun b k => b.modSlot k (fun p => { p with k := p.k + 1 })) b)

/-- A slot may be read: it is Ready or In use (R279). -/
def PSlot.readable (p : PSlot) : Bool := p.ready || p.k != 0

/-- The row of MMA (R289). -/
def encMma : Enc :=
  { opc := 0x84, lens := [2, 3], sa := .u32, sb := .u32, sc := .u32, types := .eff typeMma, md := 0x7FF, lit := .role,
    extra := fun f _ => (litNat f &&& 0x000F7F7F) == litNat f }

/-- MMA's steps. (DEDUCED, log 51) -/
def mmaBody (v : Env) (s : State) : Res :=
  if v.act = 0 then .done {}
  else
    let l := litNat v.f
    let m := shapeM v.f
    let n := shapeN v.f
    let na := v.a.scalar
    let nb := v.o.scalar
    let tile := BitVec.ofNat 32 v.c.scalar
    if 31 < na || 31 < nb || 128 < bitsOf l 6 0 + m || 128 < bitsOf l 14 8 + n
        || rowCap v.ty < 32 * bitsOf l 19 16 + 32 * (bitsOf v.md 10 6 + 1) then v.bad s 0x0102
    else match v.b.slotOf na, v.b.slotOf nb with
      | some (ka, pa), some (kb, pb) =>
        match tileCause v.b.acc m n tile with
        | some c => v.bad s c
        | none =>
          if pa.f ≠ 0 || pb.f ≠ 0 then .wait s
          else
            let fmt := if typeMX v.ty then SlotFormat.mx v.ty else .plain
            if !pa.readable || !pb.readable || pa.format != fmt || pb.format != fmt then v.bad s 0x0405
            else if !v.streamRoom then .wait s
            else doneEff (fun s => enterStream v { v.entry 0x84 tile with slots := [ka, kb] } (readSlots v [ka, kb] s))
      | _, _ => v.bad s 0x0401

/-- MMA (R294). -/
def execMma (f : Fields) (s : State) : Host.Outcome State Fault Refusal := runInstr encMma f mmaBody s

/-- The row of MMAS (R289). -/
def encMmas : Enc :=
  { opc := 0x85, lens := [2, 3], sa := .u32, sb := .u32, sc := .u32, types := .eff typeSparse, md := 0x3F, lit := .role,
    extra := fun f _ => (litNat f &&& 0x00007F7F) == litNat f }

/-- How many slots B spans under A's format record (R295): one at least; none where the spans that R295 allows do not hold it. -/
def sparseSpan (fmt : SlotFormat) (ty nb : Nat) : Option Nat :=
  let q := match fmt with | .spVal _ _ g => (24 * g + rowCap ty - 1) / rowCap ty | _ => 1
  if 4 < q || 32 < nb + q then none else some q

/-- MMAS's steps. A name that is not bound is refused before any slot's state is looked at (R279). (DEDUCED, log 51) -/
def mmasBody (v : Env) (s : State) : Res :=
  if v.act = 0 then .done {}
  else
    let l := litNat v.f
    let m := shapeM v.f
    let n := shapeN v.f
    let na := v.a.scalar
    let nb := v.o.scalar
    let tile := BitVec.ofNat 32 v.c.scalar
    if 31 < na || na % 2 ≠ 0 || 31 < nb || 128 < bitsOf l 6 0 + m || 128 < bitsOf l 14 8 + n then v.bad s 0x0102
    else match v.b.slotOf na, v.b.slotOf (na + 1) with
      | some (ka, pa), some (km, pm) =>
        let span := sparseSpan pa.format v.ty nb
        let bs := (List.range (span.getD 1)).map (fun i => v.b.slotOf (nb + i))
        let qs := bs.filterMap (fun x => x)
        if bs.any (fun x => x.isNone) then v.bad s 0x0401
        else match tileCause v.b.acc m n tile with
        | some c => v.bad s c
        | none =>
          if pa.f ≠ 0 || pm.f ≠ 0 then .wait s
          else if !pa.readable || !pm.readable then v.bad s 0x0405
          else match pa.format, span with
            | .spVal t q g, some _ =>
              if t ≠ v.ty || pm.format != .spMeta t q g then v.bad s 0x0405
              else if qs.any (fun x => x.2.f != 0) then .wait s
              else if qs.any (fun x => !x.2.readable || x.2.format != .plain) then v.bad s 0x0405
              else if !v.streamRoom then .wait s
              else
                let ks := [ka, km] ++ qs.map (fun x => x.1)
                doneEff (fun s => enterStream v { v.entry 0x85 tile with slots := ks } (readSlots v ks s))
            | _, _ => v.bad s 0x0405
      | _, _ => v.bad s 0x0401

/-- MMAS (R295). -/
def execMmas (f : Fields) (s : State) : Host.Outcome State Fault Refusal := runInstr encMmas f mmasBody s

/-! ### MZERO, ACLD (R296) -/

/-- MZERO (R296). -/
def execMzero (f : Fields) (s : State) : Host.Outcome State Fault Refusal :=
  runInstr { opc := 0x86, lens := [2], sc := .u32, md := 0x3F } f (fun v s =>
    if v.act = 0 then .done {}
    else
      let tile := BitVec.ofNat 32 v.c.scalar
      match tileCause v.b.acc (shapeM f) (shapeN f) tile with
      | some c => v.bad s c
      | none => if !v.streamRoom then .wait s else doneEff (enterStream v (v.entry 0x86 tile))) s

/-- The row of ACLD (R289). -/
def encAcld (f : Fields) : Enc :=
  { opc := 0x87, lens := [2, 3], sa := if bitOf (modOf f) 6 then .u32 else .u64, sb := .u32, sc := .u32,
    types := .eff (fun t => t == 24 || t == 3 || t == 4), md := 0x7F, lit := .role }

/-- ACLD's steps. -/
def acldBody (v : Env) (s : State) : Res :=
  if v.act = 0 then .done {}
  else
    let m := shapeM v.f
    let n := shapeN v.f
    let tile := BitVec.ofNat 32 v.c.scalar
    let pitch := v.o.scalar
    let base : Int := v.a.scalar + litInt v.f
    if 65535 < pitch then v.bad s 0x0102
    else match tileCause v.b.acc m n tile with
      | some c => v.bad s c
      | none =>
        match s.rowGate v (bitOf v.md 6) .read base (16 * pitch) m (n * elemSize v.ty) with
        | .stop r => r
        | .go s1 ps =>
          if !v.streamRoom then .wait s1
          else
            let s1 := s1.recallFor (s1.isOrdered v.b) ps
            let e := { v.entry 0x87 tile with opa := BitVec.ofNat 64 v.a.scalar, opb := BitVec.ofNat 32 pitch,
                                                 src := if bitOf v.md 6 then [] else s1.fillSource v ps }
            .doneIn s1 { eff := fun s => enterStream v e (s.touchAll v ps) }

/-- ACLD (R296). -/
def execAcld (f : Fields) (s : State) : Host.Outcome State Fault Refusal := runInstr (encAcld f) f acldBody s

/-! ### MBAT, MWTB (R285, R297, R298) -/

/-- MBAT (R297). -/
def execMbat (f : Fields) (s : State) : Host.Outcome State Fault Refusal :=
  runInstr { opc := 0x88, lens := [1, 2], dst := .w32, gov0 := true } f (fun v _ =>
    let nb := v.b.nb + 1
    .done { regs := [v.writeUni false (nb.setWidth 64)],
            eff := fun s => s.modBlock v.bid (fun b => { b with
              nb := nb,
              stream := b.stream.map (fun e => if e.batch.isNone then { e with batch := some nb } else e),
              late := b.late.map (fun w => if w.tag == .batch none then { w with tag := .batch (some nb) } else w) }) }) s

/-- A batch number is at or before another (R298). -/
def batchUpTo (n k : Word) : Bool := decide ((n - k).toNat < 2 ^ 31)

/-- Batch `n` and every earlier one are complete (R285). -/
def Block.batchDone (b : Block) (n : Word) : Bool :=
  b.stream.all (fun e => match e.batch with
    | some k => !batchUpTo n k
    | none => true)

/-- MWTB's end: an ordered block observes the writes of the batches (R351). -/
def batchSeen (v : Env) (n : Word) (s : State) : State :=
  s.modBlock v.bid (fun b => b.observe (fun w => match w.tag with
    | .batch (some k) => batchUpTo n k
    | _ => false))

/-- MWTB (R298). -/
def execMwtb (f : Fields) (s : State) : Host.Outcome State Fault Refusal :=
  runInstr { opc := 0x89, lens := [2, 3], sb := .u32, md := 7, extra := fun f _ => modOf f == 1 || modOf f == 2 } f
    (fun v s =>
      if v.act = 0 then .done {}
      else
        let n := BitVec.ofNat 32 v.o.scalar
        let scope := (scopeOf v.md).getD .core
        if v.x.acquiring?.isSome then acquireThen v scope 0 none s { eff := batchSeen v n }
        else if 1 ≤ (n - v.b.nb).toNat && (n - v.b.nb).toNat < 2 ^ 31 then v.bad s 0x0408
        else if !v.b.batchDone n then .wait s
        else acquireThen v scope 0 none s { eff := batchSeen v n }) s

/-! ### DRN, DRNX (R299 to R301) -/

/-- The types of a drain (R299): of s32 words where `ints`, else of f32 words. -/
def typeDrain (ints : Bool) (t : Nat) : Bool :=
  if ints then [18, 17, 21, 16, 20, 1, 4].contains t else t == 1 || t == 3 || t == 4 || typeNF t || typeMX t

/-- Bytes of a row of `k` elements as a drain writes it (R67, R299). -/
def drainRow (t k : Nat) : Nat := (k * typeBits t + 7) / 8 + (if typeMX t then k / 32 else 0)

/-- The row of DRN and DRNX (R289). -/
def encDrn (x : Bool) (f : Fields) : Enc :=
  { opc := if x then 0x8B else 0x8A, lens := if x then [3] else [2, 3],
    sa := if bitOf (modOf f) 6 then .u32 else .u64, sb := .u32, sc := .u32,
    types := .eff (fun t => typeDrain (bitOf (modOf f) 8) t),
    rov := .eff, sat := .eff, md := 0x1FF, lit := .role }

/-- Where the primary copy of a drain begins (R299, R300). -/
def drainBase (x win : Bool) (opa : Nat) (f : Fields) : Int :=
  let d : Int := opa + (if x then 0 else litInt f)
  if win then d else (wrapNat 64 d : Nat)

/-- How many words an rsr drain draws (R301). -/
def drainWords (x : Bool) (f : Fields) (rnd : Nat) : Nat :=
  if rnd = 6 then shapeM f * shapeN f * (if x then 2 else 1) else 0

/-- The steps of DRN and DRNX. Of several causes an operand of no meaning by itself comes first, then the tile word, then the rows' places; every drain
holds lane 0's counter, which only one with random rounding uses. (DESIGN CHOICE, log 130; DESIGN CHOICE, log 131) -/
def drnBody (x : Bool) (v : Env) (s : State) : Res :=
  if v.act = 0 then .done {}
  else
    let m := shapeM v.f
    let n := shapeN v.f
    let win := bitOf v.md 6
    let tile := BitVec.ofNat 32 v.c.scalar
    let pw := v.o.scalar
    let p1 := 16 * (pw % 65536)
    let p2 := 16 * (pw / 65536)
    let d := drainBase x win v.a.scalar v.f
    if !x && 65535 < pw then v.bad s 0x0102
    else if typeMX v.ty && (n % 32 ≠ 0 || (x && m % 32 ≠ 0)) then v.bad s 0x0102
    else match tileCause v.b.acc m n tile with
      | some c => v.bad s c
      | none =>
        if d % 16 ≠ 0 || p1 < drainRow v.ty n || (x && p2 < drainRow v.ty m) then v.bad s 0x0102
        else match s.rowGates v win .write ⟨d, p1, m, drainRow v.ty n⟩
            ⟨d + litInt v.f, p2, if x then n else 0, drainRow v.ty m⟩ with
          | .stop r => r
          | .go s2 ps qs =>
            let ord := s2.isOrdered v.b
            if ord && s2.logFull v (ps ++ qs) then .raiseIn s2 0x0604 0 v.act
            else if !v.streamRoom then .wait s2
            else
              let e := { v.entry (if x then 0x8B else 0x8A) tile with
                opa := BitVec.ofNat 64 v.a.scalar, opb := BitVec.ofNat 32 pw, ctr := v.x.ctr.get 0,
                src := if win then [] else ps ++ qs.map (fun q => { q with e := q.e + m }) }
              let adv := fun (y : Slice) => { y with
                ctr := y.ctr.set 0 (y.ctr.get 0 + BitVec.ofNat 64 (drainWords x v.f v.rnd)) }
              let hold := fun (s : State) => if ord then (s.holdAll v.b (ps ++ qs)).1 else s
              .doneIn s2 { eff := fun s => enterStream v e ((hold (s.touchAll v (ps ++ qs))).modSlice v.bid v.sid adv) }

/-- DRN (R299). -/
def execDrn (f : Fields) (s : State) : Host.Outcome State Fault Refusal := runInstr (encDrn false f) f (drnBody false) s

/-- DRNX (R300). -/
def execDrnx (f : Fields) (s : State) : Host.Outcome State Fault Refusal := runInstr (encDrn true f) f (drnBody true) s

/-! ### DRNA (R302 to R304) -/

/-- The rank of a member: published members with a lower number (R157). -/
def State.rankOf (s : State) (blk : Bool) (g : Group) (m : Nat) : Nat :=
  (g.published.filter (fun k => decide (s.memberOrder blk k < s.memberOrder blk m))).length

/-- The published member of a rank. -/
def State.memberAt (s : State) (blk : Bool) (g : Group) (r : Nat) : Option Nat :=
  g.published.find? (fun m => s.rankOf blk g m == r)

/-- The row of DRNA (R289). -/
def encDrna (opc : Nat) : Enc :=
  { opc := opc, lens := [3], sa := .u32, sb := .u32, sc := .u32, types := .eff (fun t => t == 1 || t == 18), md := 0x3F, lit := .role }

/-- DRNA's steps. (DEDUCED, log 48) -/
def drnaBody (ordered : Bool) (v : Env) (s : State) : Res :=
  if v.act = 0 then .done {}
  else
    let h := v.a.scalar
    match s.groupOf v.b h with
    | .error c => v.bad s c
    | .ok (blk, _, g) =>
      match (if blk then s.memberAt true g v.o.scalar else none) with
      | none => v.bad s 0x0404
      | some m =>
        let tile := BitVec.ofNat 32 v.c.scalar
        let dt := BitVec.ofNat 32 (litNat v.f)
        if m = v.bid || !g.current.contains m then v.bad s 0x0404
        else match (tileCause v.b.acc (shapeM v.f) (shapeN v.f) tile).or (tileCause v.b.acc (shapeM v.f) (shapeN v.f) dt) with
          | some c => v.bad s c
          | none =>
            if !v.streamRoom then .wait s
            else
              let t := v.o.scalar
              let n := match v.b.drnaSeq.find? (fun q => q.1 == h && q.2.1 == t) with | some q => q.2.2 | none => 0
              let e := { v.entry (if ordered then 0x8C else 0x8D) tile with
                opa := BitVec.ofNat 64 h, opb := BitVec.ofNat 32 t,
                dst := m, seq := if ordered then n else 0, rank := if ordered then s.rankOf true g v.bid else 0, epoch := g.epoch,
                ahead := if ordered then g.published.filter (fun k => k != m && decide (s.rankOf true g k < s.rankOf true g v.bid)) else [] }
              let count := fun (b : Block) => if ordered then
                { b with drnaSeq := (h, t, n + 1) :: b.drnaSeq.filter (fun q => !(q.1 == h && q.2.1 == t)) } else b
              doneEff (fun s => enterStream v e (s.modBlock v.bid count))

/-- DRNA.o (R303). -/
def execDrnaO (f : Fields) (s : State) : Host.Outcome State Fault Refusal := runInstr (encDrna 0x8C) f (drnaBody true) s

/-- DRNA.u (R304). -/
def execDrnaU (f : Fields) (s : State) : Host.Outcome State Fault Refusal := runInstr (encDrna 0x8D) f (drnaBody false) s

end Sys2Proof.Machine
end

