-- ==== Sys2Proof/Machine/Stream.lean ====
section
/-! DEFINITION. The matrix engine (R279 to R288, R83): fills landing in slots, and what the stream does with its entries. -/

namespace Sys2Proof.Machine

/-! ### Reads and writes of the core's engines -/

/-- The applied clock of a home covers that of a die, so a request sent now could be applied there now (R224), and no break is on its way (R405). -/
def State.reaches (s : State) (die home : Nat) : Bool := die == home || (!s.barred die home && (s.die home).vc.covers (s.die die).vc)

/-- A piece of memory read for a slice by an engine of its core (R212, R286): its bytes, or the lowest poisoned address. -/
def State.pieceRead (s : State) (b : Block) (bid sid : Nat) (keys : Dword) (p : Placed) : State × Except Nat (List Byte) :=
  match p.place with
  | .hit _ _ bytes => (s, if bytes.isEmpty then .error p.va else .ok bytes)
  | .win o => (s, if b.winPoison.contains (o / 128) then .error p.va else .ok (b.window.readList o p.size))
  | .host h pa leaf => let (s1, bytes) := s.hostFetch h pa p.size leaf; (s1, .ok bytes)
  | .own d pa leaf =>
    match s.firstPoison d pa p.size with
    | some k => (s, .error (p.va + k))
    | none =>
      let r : Req := {
        stage := .toBay, op := .read, die := b.die, core := b.core, bid := bid, sid := sid, ctx := b.ctx, va := p.va,
        host := none, home := d, pa := pa, size := p.size, keys := keys, leaf := leaf, phase := none, stamp := Clock.zero,
        fill := none, issue := none, atHome := false, alloc := false, remote := false }
      let near := if d = b.die then none else s.guestRead r
      let home :=
        let (s1, bytes, st) := s.homeRead d pa p.size (leafPol leaf != 3)
        ((s1.noteStamp bid sid d pa p.size st).noteSeen b.die st, Except.ok bytes)
      match near with
      | some (q, bytes) =>
        if !q.poison && bytes != s.physRead d pa p.size && s.choose (physKey d pa) then
          ((s.noteStamp bid sid d pa p.size q.stamp).noteSeen b.die q.stamp, .ok bytes)
        else home
      | none => home

/-- Every home of a list of pieces can be reached from a die. -/
def State.reachAll (s : State) (die : Nat) (ps : List Placed) : Bool :=
  ps.all (fun p => match p.place with | .own d _ _ => s.reaches die d | _ => true)

/-- Pieces read in order: their bytes one after another, or the lowest poisoned address. -/
def State.piecesRead (s : State) (b : Block) (bid sid : Nat) (keys : Dword) (ps : List Placed) : State × Except Nat (List (List Byte)) :=
  let r := ps.foldl (fun (acc : State × List (List Byte) × List (Nat × Unit)) p =>
    match acc.1.pieceRead b bid sid keys p with
    | (s1, .ok bytes) => (s1, bytes :: acc.2.1, acc.2.2)
    | (s1, .error a) => (s1, [] :: acc.2.1, (a, ()) :: acc.2.2)) (s, [], [])
  match leastUsed r.2.2 with
  | some (a, _) => (s, .error a)
  | none => (r.1, .ok r.2.1.reverse)

/-- The bytes of row `i` of a list of pieces. -/
def rowOf (i : Nat) : List Placed → List (List Byte) → List Byte
  | p :: ps, d :: ds => if p.e = i then d ++ rowOf i ps ds else rowOf i ps ds
  | _, _ => []

/-- A piece written by an engine of a core (R212): the state and the stamp of a write in device memory. -/
def State.pieceWrite (s : State) (die core req : Nat) (p : Placed) (data : List Byte) : State :=
  match p.place with
  | .own d pa leaf =>
    let (s1, st) := s.homeWrite d pa data die core req (leafPol leaf != 3)
    if d = die then s1 else s1.modCore die core (fun c => { c with offStamp := c.offStamp.join st })
  | .host h pa leaf =>
    if s.byCxl leaf then (s.holdCxl h pa data.length).hostWrite h pa data else (s.hostWrite h pa data).notePort die core h
  | _ => s

/-- The poisoned sectors that several writes of one entry cover together are poisoned no more, here and, as the messages of the writes arrive, in
the guest copies (R185): `s0` is the state before them, and `op` numbers the entry. -/
def State.clearCovered (s0 : State) (op : Nat) (s : State) (ps : List Placed) : State :=
  let own := ps.filterMap (fun p => match p.place with | .own d pa _ => some (physKey d pa, p.size) | _ => none)
  s0.asOneWrite s0.nextId op { s with poison := s.poison.filter (fun k => !(List.range 128).all (fun i =>
      own.any (fun q => decide (q.1 ≤ k * 128 + i) && decide (k * 128 + i < q.1 + q.2)))) }

/-- The slice's earlier requests and fills are done (R286), those to pod peers among them. -/
def State.earlierDone (s : State) (b : Block) (bid sid upTo : Nat) : Bool :=
  !s.reqs.any (fun r => decide (r.1 < upTo) && r.2.bid == bid && r.2.sid == sid)
  && !s.fills.any (fun x => decide (x.1 < upTo) && x.2.bid == bid && x.2.sid == sid)
  && !b.slotFills.any (fun x => decide (x.1 < upTo) && x.2.sid == sid)
  && !s.pairs.any (fun p => p.2.out.any (fun o => decide (o.num < upTo) && o.bid == bid && o.sid == sid && o.entry.isNone))

/-- A fault found after issue (R288): to the issuing slice under R194, after those of its registers, or to the log where the
slice has ended. (DESIGN CHOICE, log 50) -/
def State.deliverFault (s : State) (bid sid : Nat) (cause : Half) (addr : Nat) (lanes : BitVec 4) : State :=
  match s.blocks.get? bid, s.slice? bid sid with
  | some b, some x =>
    if b.state = .retired || x.run = .ended then
      s.log b.ctx { cause := cause, die := b.die, core := b.core, slice := sid, flags := 4, block := b.idx.toNat,
                    lanes := lanes.toNat, addr := addr }
    else s.modSlice bid sid (fun y => { y with faults := y.faults ++ [⟨60, cause, BitVec.ofNat 64 addr, lanes⟩] })
  | _, _ => s

/-! ### Slot fills (R279 to R281) -/

/-- Rows of a slot written, the rest of each row zero. (DEDUCED, log 16) -/
def PSlot.putRows (p : PSlot) (row0 : Nat) (rows : List (List Byte)) : PSlot :=
  { p with rows := rows.zipIdx.foldl (fun m q =>
      m.writeList (256 * (row0 + q.2)) (q.1.take 256 ++ List.replicate (256 - q.1.length) 0)) p.rows }

/-- Rows of the scale array written. -/
def PSlot.putScales (p : PSlot) (row0 : Nat) (rows : List (List Byte)) : PSlot :=
  { p with scales := rows.zipIdx.foldl (fun m q =>
      m.writeList (16 * (row0 + q.2)) (q.1.take 16 ++ List.replicate (16 - q.1.length) 0x7F)) p.scales }

/-- A fill lands in a slot (R279, R281). -/
def PSlot.landed (p : PSlot) (fault : Bool) : PSlot :=
  let bad := p.faulted || fault
  if p.f ≤ 1 then { p with f := 0, ready := p.name.isSome && !bad, faulted := false }
  else { p with f := p.f - 1, faulted := bad }

/-- Index `u` of a metadata row (R293). -/
def metaIndex (row u : Nat) : Nat := row / 2 ^ (5 * u) % 32

/-- A metadata row is accepted (R293): in each group the indices rise strictly below 24. -/
def metaRowOk (row n g : Nat) : Bool :=
  (List.range g).all (fun i => (List.range n).all (fun j =>
    decide (metaIndex row (n * i + j) < 24)
      && (j == 0 || decide (metaIndex row (n * i + j - 1) < metaIndex row (n * i + j)))))

/-- The outcome of a fill whose bytes have come. -/
inductive SlotData where
  | rows (vals mets : List (List Byte))
  | fault (cause : Half) (addr : Nat)

/-- The bytes of a slot fill, or its fault (R281). (DEDUCED, log 45; DEDUCED, log 49) -/
def State.slotData (s : State) (b : Block) (bid : Nat) (x : SlotFill) : State × SlotData :=
  match s.piecesRead b bid x.sid x.keys (x.src ++ x.msrc) with
  | (s1, .error a) => (s1, .fault 0x030C a)
  | (s1, .ok ds) =>
    let k := x.src.length
    let vals := (List.range x.rows).map (fun i => rowOf i x.src (ds.take k))
    let mets := (List.range x.rows).map (fun i => rowOf i x.msrc (ds.drop k))
    if x.mslot.isNone then (s1, .rows vals [])
    else
      match (List.range x.rows).find? (fun i => !metaRowOk (leNat (mets.getD i [])) x.n x.g) with
      | some i => (s1, .fault 0x0407 (x.maddr + i * sparseMs (x.n * x.g)))
      | none => (s1, .rows vals mets)

/-- A fill may land: it is the oldest of its slots (R280), its slice's earlier requests are performed, and its homes are in reach.
(DEDUCED, log 45) -/
def State.slotReady (s : State) (b : Block) (bid fid : Nat) (x : SlotFill) : Bool :=
  !b.slotFills.any (fun y => decide (y.1 < fid) && (y.2.slot == x.slot || y.2.mslot == some x.slot
      || (x.mslot.isSome && (y.2.mslot == x.mslot || some y.2.slot == x.mslot))))
  && !s.reqs.any (fun r => decide (r.1 < fid) && r.2.bid == bid && r.2.sid == x.sid)
  && s.reachAll b.die (x.src ++ x.msrc)

/-- The first `k` bits of a row, as bytes. -/
def firstBits (k : Nat) (row : List Byte) : List Byte := leBytes 256 (leNat row % 2 ^ k)

/-- A fill's end: its slots' counts, and the gang's counter (R195). -/
def State.endSlotFill (s : State) (bid fid : Nat) (x : SlotFill) (fault : Bool) (g gm : PSlot → PSlot) : State :=
  (s.modBlock bid (fun b =>
    let b1 := b.modSlot x.slot (fun p => (g p).landed fault)
    let b2 := match x.mslot with | some k => b1.modSlot k (fun p => (gm p).landed fault) | none => b1
    { b2 with slots := dropFreeSlots b2.slots, slotFills := b2.slotFills.erase fid })).issueDone (some x.issue)

/-- A fill's bytes put into its slots (R292, R293). -/
def State.landSlotFill (s : State) (bid fid : Nat) (x : SlotFill) (vals mets : List (List Byte)) : State :=
  if x.mslot.isSome then
    s.endSlotFill bid fid x false (fun p => p.putRows x.row0 (vals.map (firstBits (x.n * x.g * typeBits x.ty))))
      (fun p => p.putRows x.row0 (mets.map (firstBits (5 * x.n * x.g))))
  else if x.ty = 0 then s.endSlotFill bid fid x false (fun p => p.putRows x.row0 vals) id
  else
    let k := x.blocks * (4 * typeBits x.ty)
    s.endSlotFill bid fid x false (fun p =>
      (p.putRows x.row0 (vals.map (fun d => d.take k))).putScales x.row0 (vals.map (fun d => d.drop k))) id

/-- A fill that faults: its rows become zero, and the fault is delivered unless its slots are released (R281).
(DESIGN CHOICE, log 50) -/
def State.faultSlotFill (s : State) (bid fid : Nat) (x : SlotFill) (cause : Half) (addr : Nat) : State :=
  let zero := fun (p : PSlot) => p.putRows x.row0 (List.replicate x.rows [])
  let named := fun (k : Nat) => match s.blocks.get? bid with
    | some b => (match b.slots.get? k with | some p => p.name.isSome | none => false)
    | none => false
  let live := named x.slot || (match x.mslot with | some k => named k | none => false)
  let s1 := s.endSlotFill bid fid x true zero zero
  if live then s1.deliverFault bid x.sid cause addr x.lanes else s1

/-- SLOT_FILL_LAND (R279) and SLOT_FILL_FAULT (R281): the event comes about where the bytes say so. -/
def State.slotFillEvent (s : State) (bid fid : Nat) (faulty : Bool) : State :=
  match s.blocks.get? bid with
  | none => s
  | some b =>
    match b.slotFills.get? fid with
    | none => s
    | some x =>
      if !s.slotReady b bid fid x then s
      else match s.slotData b bid x, faulty with
        | (s1, .rows vals mets), false => s1.landSlotFill bid fid x vals mets
        | (s1, .fault c a), true => s1.faultSlotFill bid fid x c a
        | _, _ => s

/-- SLOT_FILL_LAND (R279). -/
def execSlotFillLand (bid fill : Nat) (s : State) : Host.Outcome State Fault Refusal := .next (s.slotFillEvent bid fill false)

/-- SLOT_FILL_FAULT (R281). -/
def execSlotFillFault (bid fill : Nat) (s : State) : Host.Outcome State Fault Refusal := .next (s.slotFillEvent bid fill true)

/-! ### Accumulator words (R282, R283) -/

/-- A run of words put in place of what a table lists there; zero is what an unlisted word reads as. -/
def accPut (t : Tab Word) (k : Nat) (ws : List Word) : Tab Word :=
  t.filter (fun p => decide (p.1 < k))
    ++ (ws.zipIdx.map (fun q => (k + q.2, q.1))).filter (fun p => p.2 != 0)
    ++ t.filter (fun p => decide (k + ws.length ≤ p.1))

/-- `n` words of the region from word `k`. -/
def accRow (t : Tab Word) (k n : Nat) : List Word :=
  let r := t.filter (fun p => decide (k ≤ p.1) && decide (p.1 < k + n))
  (List.range n).map (fun j => (Tab.get? r (k + j)).getD 0)

/-- The words of an m × n tile, row by row. -/
def readTile (t : Tab Word) (w : Word) (m n : Nat) : List (List Word) :=
  (List.range m).map (fun i => accRow t (tileBase w + i * tilePitch w) n)

/-- Rows of words put into a tile. -/
def writeTile (t : Tab Word) (w : Word) (rows : List (List Word)) : Tab Word :=
  rows.zipIdx.foldl (fun t q => accPut t (tileBase w + q.2 * tilePitch w) q.1) t

/-! ### The product (R83, R294, R295) -/

/-- Element `k` of width `w` of a row's bits (R277). -/
def bitElem (row w k : Nat) : Nat := row / 2 ^ (w * k) % 2 ^ w

/-- The bits of a row of a slot. -/
def PSlot.rowBits (p : PSlot) (r : Nat) : Nat := leNat (p.rows.readList (256 * r) 256)

/-- The raw elements of a row of a plain or MX slot. -/
def PSlot.rawRow (p : PSlot) (t r k0 k : Nat) : List Nat :=
  let row := p.rowBits r
  (List.range k).map (fun i => bitElem row (typeBits t) (k0 + i))

/-- The values of raw elements; an element of an MX type takes its block's scale (R77, R277). -/
def PSlot.values (p : PSlot) (t r k0 : Nat) (xs : List Nat) : List FVal :=
  if typeMX t then xs.zipIdx.map (fun q => mxVal t q.1 (p.scales.read (16 * r + (k0 + q.2) / 32)).toNat)
  else xs.map (decodeF t)

/-- A row of the decompressed sparse operand (R293, R295). -/
def sparseRow (p pm : PSlot) (t n g r : Nat) : List Nat :=
  let row := p.rowBits r
  let mrow := pm.rowBits r
  (List.range (24 * g)).map (fun k =>
    match (List.range n).find? (fun j => metaIndex mrow (n * (k / 24) + j) == k % 24) with
    | some j => bitElem row (typeBits t) (n * (k / 24) + j)
    | none => 0)

/-- The exact sum of a chunk's products (R83). -/
def chunkSum (ps : List FVal) : FVal :=
  if ps.any FVal.isNaN then .nan false
  else
    let infs := ps.filterMap (fun p => match p with | .inf n => some n | _ => none)
    match infs with
    | n :: rest => if rest.all (fun k => k == n) then .inf n else .nan false
    | [] =>
      let ts := ps.filterMap (fun p => match p with | .num n m e => if m = 0 then none else some (n, m, e) | _ => none)
      let low := ts.foldl (fun (a : Int) q => if q.2.2 < a then q.2.2 else a) ((ts.headD (false, 0, 0)).2.2)
      let sum := (ts.map (fun q => signedMag q.1 (q.2.1 * 2 ^ (q.2.2 - low).toNat))).sum
      numOf sum low (ps.all (fun p => match p with | .num n m _ => n && m == 0 | _ => false))

/-- A list cut into chunks of 32. -/
def chunks32 {α : Type} : Nat → List α → List (List α)
  | 0, _ => []
  | n + 1, xs => if xs.isEmpty then [] else xs.take 32 :: chunks32 n (xs.drop 32)

/-- One output element of a floating product (R83): each chunk's exact sum added with one rounding. -/
def accFloat (acc : Word) (xs ys : List (List FVal)) : Word :=
  (xs.zip ys).foldl (fun a q =>
    BitVec.ofNat 32 (deliverOp 1 1 0 false
      (addVal 1 (decodeF 1 a.toNat) (chunkSum ((q.1.zip q.2).map (fun p => (mulVal p.1 p.2).1))))).1) acc

/-- One output element of an integer product (R83). -/
def accInt (acc : Word) (xs ys : List Int) : Word :=
  BitVec.ofNat 32 (wrapNat 32 ((acc.toNat : Int) + ((xs.zip ys).map (fun p => p.1 * p.2)).sum))

/-- A product of rows of A and columns of B added into a tile (R83). -/
def mmaTile (t : Nat) (tile : List (List Word)) (as bs : List (List FVal)) (ai bi : List (List Int)) : List (List Word) :=
  if typeInt t then
    (tile.zip ai).map (fun q => (q.1.zip bi).map (fun p => accInt p.1 q.2 p.2))
  else
    let ac := as.map (chunks32 32)
    let bc := bs.map (chunks32 32)
    (tile.zip ac).map (fun q => (q.1.zip bc).map (fun p => accFloat p.1 q.2 p.2))

/-- A slot of a block by its physical number. -/
def Block.slotAt (b : Block) (k : Nat) : PSlot := (b.slots.get? k).getD (PSlot.claimed 0)

/-- The operands of MMA and MMAS: A's rows and B's columns, as raw elements and as values. -/
def Block.mmaOperands (b : Block) (e : SEntry) : List (List Nat × List FVal) × List (List Nat × List FVal) :=
  let t := e.ty
  let l := litNat e.f
  let ar0 := bitsOf l 6 0
  let br0 := bitsOf l 14 8
  let m := shapeM e.f
  let n := shapeN e.f
  let sl := fun i => b.slotAt (e.slots.getD i 0)
  if e.opc = 0x84 then
    let k0 := 32 * bitsOf l 19 16
    let k := 32 * (bitsOf (modOf e.f) 10 6 + 1)
    let row := fun (p : PSlot) r => let xs := p.rawRow t r k0 k; (xs, p.values t r k0 xs)
    ((List.range m).map (fun i => row (sl 0) (ar0 + i)), (List.range n).map (fun j => row (sl 1) (br0 + j)))
  else
    match (sl 0).format with
    | .spVal _ q g =>
      let k := 24 * g
      let cap := rowCap t
      let as := (List.range m).map (fun i => let xs := sparseRow (sl 0) (sl 1) t q g (ar0 + i); (xs, xs.map (decodeF t)))
      let bs := (List.range n).map (fun j =>
        let xs := ((List.range ((k + cap - 1) / cap)).flatMap (fun c => (sl (2 + c)).rawRow t (br0 + j) 0 cap)).take k
        (xs, xs.map (decodeF t)))
      (as, bs)
    | _ => ([], [])

/-- The tile after MMA or MMAS (R294, R295). (DEDUCED, log 46) -/
def Block.mmaResult (b : Block) (e : SEntry) : Tab Word :=
  let t := e.ty
  let (as, bs) := b.mmaOperands e
  let old := readTile b.accWords e.tile (shapeM e.f) (shapeN e.f)
  writeTile b.accWords e.tile (mmaTile t old (as.map (fun q => q.2)) (bs.map (fun q => q.2))
    (as.map (fun q => q.1.map (elemInt t))) (bs.map (fun q => q.1.map (elemInt t))))

/-! ### Drains (R299 to R301) -/

/-- A row as a drain writes it (R67, R78, R299): `w` gives the word of each of its elements. -/
def drainBytes (t : Nat) (ints : Bool) (rnd : Nat) (sat : Bool) (row : List Word) (w : Nat → Nat) : List Byte :=
  let pack := fun (xs : List Nat) =>
    leBytes ((xs.length * typeBits t + 7) / 8)
      (xs.zipIdx.foldl (fun a q => a + (q.1 % 2 ^ typeBits t) * 2 ^ (typeBits t * q.2)) 0)
  if typeMX t then
    let vals := row.map (fun x => decodeF 1 x.toNat)
    let qs := vals.zipIdx.map (fun q => (qntElem t rnd (w q.2) ((vals.drop (q.2 / 32 * 32)).take 32) q.1).1)
    pack qs ++ (List.range (row.length / 32)).map (fun i => BitVec.ofNat 8 (bitsOf (qs.getD (32 * i) 0) 31 24))
  else pack (row.zipIdx.map (fun q => (convert t (if ints then 18 else 1) rnd (w q.2) sat q.1.toNat).1))

/-- The columns of a tile as rows. -/
def transposeTile (n : Nat) (rows : List (List Word)) : List (List Word) :=
  (List.range n).map (fun j => rows.map (fun r => r.getD j 0))

/-- The rows of both copies of a drain with the offset of each row's place from D (R299, R300). -/
def drainRows (b : Block) (e : SEntry) : List (Int × List Byte) :=
  let x := e.opc == 0x8B
  let t := e.ty
  let m := shapeM e.f
  let n := shapeN e.f
  let rnd := e.rnd
  let rows := readTile b.accWords e.tile m n
  let word := fun (i : Nat) => if rnd = 6 then rsrWord b.seed b.idx.toNat (e.sid * 4) (e.ctr + BitVec.ofNat 64 (i + 1)) else 0
  let conv := fun (row : List Word) (at0 : Nat) =>
    drainBytes t (bitOf (modOf e.f) 8) rnd e.sat row (fun i => word (at0 + i))
  let p1 := 16 * bitsOf e.opb.toNat 15 0
  let p2 := 16 * bitsOf e.opb.toNat 31 16
  rows.zipIdx.map (fun q => (((q.2 * p1 : Nat) : Int), conv q.1 (n * q.2)))
    ++ (if x then (transposeTile n rows).zipIdx.map (fun q => (litInt e.f + ((q.2 * p2 : Nat) : Int), conv q.1 (m * n + m * q.2))) else [])

/-- Where the pieces of an entry's rows lie: their places; nothing yet, where pages are arriving, with their layers; or the cause of the lowest
address. -/
inductive StreamPlaces where
  | go (s : State) (ps : List Placed)
  | wait (s : State) (on : List (Nat × Nat))
  | fail (s : State) (c : Half) (a : Nat)

/-- One piece of a row judged at the turn of an entry (R365). -/
def State.judgeAt (s : State) (b : Block) (e : SEntry) (kind : Access) (va : Nat) : State × Judge :=
  match s.ownerOf va with
  | .error c => (s, .fail c)
  | .ok (.peer _ _) => (s, .fail 0x030A)
  | .ok o => match s.verdict b.ctx o va kind e.keys .slice with
    | (s1, .fail c) => (s1, .fail c)
    | (s1, .arriving l) => (s1.requestByLeaf b.ctx l.entry, .arriving l.entry)
    | (s1, .pass l) => (s1, .ok (match o with | .host p => .host p l.pa l.entry | _ => .own o.die l.pa l.entry))

/-- The places of an entry's rows: those that the verdicts of its issue gave; an entry that a restore has brought back takes verdicts at its turn.
(DEDUCED, log 47) -/
def State.streamPlaces (s : State) (b : Block) (e : SEntry) (kind : Access) (rows : List (Nat × Nat × Nat)) : StreamPlaces :=
  if !e.src.isEmpty then .go s e.src
  else match e.failed with
  | some (c, a) => .fail s c a
  | none =>
    let ps := rows.flatMap (fun r => (partsOf r.2.1 r.2.2).zipIdx.map (fun q => (r.1, q.2, q.1.1, q.1.2.1, q.1.2.2)))
    let r := ps.foldl (fun (acc : State × List (Nat × Nat × Nat × Nat × Nat × Judge)) p =>
      let (i, k, off, va, n) := p
      let (s1, j) := acc.1.judgeAt b e kind va
      (s1, acc.2 ++ [(i, k, off, va, n, j)])) (s, [])
    match leastUsed (r.2.filterMap (fun q => match q with | (_, _, _, va, _, .fail c) => some (va, c) | _ => none)) with
    | some (a, c) => .fail r.1 c a
    | none =>
      let on := r.2.filterMap (fun q => match q with | (_, _, _, va, _, .arriving l) => some (leafLayer l, va) | _ => none)
      if !on.isEmpty then .wait r.1 on
      else .go r.1 (r.2.filterMap (fun q => match q with
        | (i, k, off, va, n, .ok pl) => some ⟨i, k, off, va, n, pl⟩
        | _ => none))

/-- A tile's words cleared. -/
def clearTile (t : Tab Word) (w : Word) (m n : Nat) : Tab Word := writeTile t w (List.replicate m (List.replicate n 0))

/-- An entry parks on the pages that its rows wait for (R389). -/
def State.parkEntry (s : State) (bid : Nat) (e : SEntry) (on : List (Nat × Nat)) : State :=
  s.modBlock bid (fun b => { b with stream := b.stream.map (fun q => if q = e then { q with parked := on } else q) })

/-- A write that an engine made for an ordered block (R351): it becomes the block's once the block observes it, or at once where the block has
retired. -/
def Block.lateWrite (b : Block) (w : Late) : Block :=
  if b.state = .retired then b.roundWrite w.seq w.alloc w.sid w.die w.pa w.va w.data else { b with late := b.late ++ [w] }

/-- A drain performed (R299, R300, R351), and whether it could be: its homes are in reach. A shadow's writes in host space are not applied (R354).
(DEDUCED, log 43; DEDUCED, log 47) -/
def State.drain (s : State) (bid : Nat) (b : Block) (e : SEntry) : State × Bool :=
  let rows := drainRows b e
  let d := drainBase (e.opc == 0x8B) (bitOf (modOf e.f) 6) e.opa.toNat e.f
  let clear := fun (s : State) => s.modBlock bid (fun b => if bitOf (modOf e.f) 7 then
    { b with accWords := clearTile b.accWords e.tile (shapeM e.f) (shapeN e.f) } else b)
  if bitOf (modOf e.f) 6 then
    let ws := rows.map (fun q => ((d + q.1).toNat, q.2))
    ((clear s).modBlock bid (fun b => (ws.foldl (fun b w => b.winWrite w.1 w.2) b).winCovered ws), true)
  else
    match s.streamPlaces b e .write (rows.zipIdx.map (fun q => (q.2, wrapNat 64 (d + q.1.1), q.1.2.length))) with
    | .wait s1 on => (s1.parkEntry bid e on, false)
    | .fail s1 c a => ((clear s1).deliverFault bid e.sid c a e.lanes, true)
    | .go s1 ps =>
      if !s1.reachAll b.die ps then (s1, false)
      else
        let s2 := clear s1
        let bytes := fun (p : Placed) => (((rows.getD p.e (0, [])).2).drop p.off).take p.size
        if s.isOrdered b then
          (ps.foldl (fun s p => match p.place with
            | .own h pa leaf =>
              (s.holdAll b [p]).1.modBlock bid (fun b => b.lateWrite ⟨.batch e.batch, e.sid, h, pa, p.va, bytes p, s.nextId, leafPol leaf != 3⟩)
            | _ => if b.shadowOf.isSome then s else s.pieceWrite b.die b.core e.after p (bytes p)) s2, true)
        else
          (s2.clearCovered (4 * e.after + 3) (ps.foldl (fun s p =>
            (s.dropV b.die b.core b.ctx p.va).pieceWrite b.die b.core e.after p (bytes p)) s2) ps, true)

/-! ### ACLD (R296) -/

/-- The words of a row of ACLD's source (R296). -/
def acldRow (t n : Nat) (bytes : List Byte) : List Word :=
  (List.range n).map (fun j =>
    let x := leNat ((bytes.drop (j * elemSize t)).take (elemSize t))
    BitVec.ofNat 32 (if t = 24 then x else (convert 1 t 1 0 false x).1))

/-- ACLD performed: the tile loaded, or zero with its fault delivered (R296); and whether it could be: its homes are in reach.
(DEDUCED, log 47) -/
def State.acload (s : State) (bid : Nat) (b : Block) (e : SEntry) : State × Bool :=
  let t := e.ty
  let m := shapeM e.f
  let n := shapeN e.f
  let len := n * elemSize t
  let base : Int := e.opa.toNat + litInt e.f
  let pitch := 16 * bitsOf e.opb.toNat 15 0
  let fault := fun (s : State) (c : Half) (a : Nat) =>
    (s.modBlock bid (fun b => { b with accWords := clearTile b.accWords e.tile m n })).deliverFault bid e.sid c a e.lanes
  let places :=
    if bitOf (modOf e.f) 6 then
      StreamPlaces.go s ((List.range m).flatMap (fun i => rowPieces ⟨0, i, (base + ((i * pitch : Nat) : Int)).toNat, len⟩))
    else s.streamPlaces b e .read ((List.range m).map (fun i => (i, wrapNat 64 (base + ((i * pitch : Nat) : Int)), len)))
  match places with
  | .wait s1 on => (s1.parkEntry bid e on, false)
  | .fail s1 c a => (fault s1 c a, true)
  | .go s1 ps =>
    if !s1.reachAll b.die ps then (s1, false)
    else match s1.piecesRead b bid e.sid e.keys ps with
      | (s2, .ok ds) =>
        (s2.modBlock bid (fun b => { b with
          accWords := writeTile b.accWords e.tile ((List.range m).map (fun i => acldRow t n (rowOf i ps ds))) }), true)
      | (s2, .error a) => (fault s2 0x030C a, true)

/-! ### The stream's events (R284, R285, R302, R303) -/

/-- The entry whose turn it is, with its place in the queue: the first that has not sent its addition. -/
def Block.turn (b : Block) : Option (Nat × SEntry) :=
  (b.stream.zipIdx.find? (fun q => q.1.sent.isNone)).map (fun q => (q.2, q.1))

/-- An entry of the stream changed. -/
def Block.setEntry (b : Block) (i : Nat) (e : SEntry) : Block := { b with stream := b.stream.set i e }

/-- The turn of a block's stream, where the block is not saved. -/
def State.streamTurn (s : State) (bid : Nat) : Option (Block × Nat × SEntry) :=
  match s.blocks.get? bid with
  | none => none
  | some b => if b.state = .saved then none else b.turn.map (fun q => (b, q.1, q.2))

/-- STREAM_ENTRY_BEGIN (R284, R286): an entry other than an ordered DRNA begins at its turn. -/
def execStreamEntryBegin (bid : Nat) (s : State) : Host.Outcome State Fault Refusal :=
  match s.streamTurn bid with
  | none => .next s
  | some (b, i, e) =>
    if e.begun || e.opc = 0x8C then .next s
    else if (e.opc = 0x87 || e.opc = 0x8A || e.opc = 0x8B) && !s.earlierDone b bid e.sid e.after then .next s
    else .next (s.modBlock bid (fun b => b.setEntry i { e with begun := true }))

/-- Every addition that an ordered DRNA waits for has been applied at its target (R303): those of the members of lower rank at its issue that
are in the current set. A target that has retired applies none, and an entry to it waits for none (R302). -/
def State.granted (s : State) (b : Block) (e : SEntry) : Bool :=
  match s.groupOf b e.opa.toNat with
  | .error _ => true
  | .ok (_, _, g) =>
    match s.blocks.get? e.dst with
    | none => true
    | some t => t.state == .retired || e.ahead.all (fun m => !g.current.contains m || t.drnaApplied.contains (e.opa.toNat, e.epoch, e.seq, m))

/-- DRNA_GRANT (R303). -/
def execDrnaGrant (bid : Nat) (s : State) : Host.Outcome State Fault Refusal :=
  match s.streamTurn bid with
  | none => .next s
  | some (b, i, e) =>
    if e.begun || e.opc ≠ 0x8C || !s.granted b e then .next s
    else .next (s.modBlock bid (fun b => b.setEntry i { e with begun := true }))

/-- SLOT_OPERAND_READ_END (R279, R83): MMA and MMAS have read their slots and summed their products. (DEDUCED, log 46) -/
def execSlotOperandReadEnd (bid : Nat) (s : State) : Host.Outcome State Fault Refusal :=
  match s.streamTurn bid with
  | none => .next s
  | some (b, i, e) =>
    if !e.begun || e.readEnded || !(e.opc = 0x84 || e.opc = 0x85) then .next s
    else .next (s.modBlock bid (fun _ =>
      ({ b with accWords := b.mmaResult e }.setEntry i { e with readEnded := true }).dropReads e))

/-- A DRNA reads its tile and sends it (R302 to R304). (DEDUCED, log 48) -/
def State.sendDrna (s : State) (bid : Nat) (b : Block) (i : Nat) (e : SEntry) : State :=
  let m := shapeM e.f
  let n := shapeN e.f
  let (k, s1) := s.fresh
  let a : Addition := {
    src := bid, dst := e.dst, handle := e.opa.toNat, epoch := e.epoch, seq := e.seq,
    ordered := e.opc == 0x8C, ints := e.ty == 18, m := m, n := n, dtile := BitVec.ofNat 32 (litNat e.f),
    words := (readTile b.accWords e.tile m n).flatMap id }
  { s1 with additions := s1.additions.put k a }.modBlock bid (fun b => b.setEntry i { e with sent := some k })

/-- STREAM_ENTRY_COMPLETE (R285): the entry's writes are performed and it leaves the stream; a DRNA's addition is sent. -/
def execStreamEntryComplete (bid : Nat) (s : State) : Host.Outcome State Fault Refusal :=
  match s.streamTurn bid with
  | none => .next s
  | some (b, i, e) =>
    let leave := fun (s : State) => s.modBlock bid (fun b => { b with stream := b.stream.eraseIdx i })
    if !e.begun then .next s
    else match e.opc with
      | 0x86 => .next (leave (s.modBlock bid (fun b => { b with
          accWords := clearTile b.accWords e.tile (shapeM e.f) (shapeN e.f) })))
      | 0x87 => (match s.acload bid b e with | (s1, true) => .next (leave s1) | (s1, false) => .next s1)
      | 0x8A => (match s.drain bid b e with | (s1, true) => .next (leave s1) | (s1, false) => .next s1)
      | 0x8B => (match s.drain bid b e with | (s1, true) => .next (leave s1) | (s1, false) => .next s1)
      | 0x8C => .next (s.sendDrna bid b i e)
      | 0x8D => .next (s.sendDrna bid b i e)
      | _ => if e.readEnded then .next (leave s) else .next s

/-- One word added (R302): to nearest even with no exception, or modulo 2^32. -/
def addWord (ints : Bool) (t x : Word) : Word :=
  if ints then t + x else BitVec.ofNat 32 (deliverOp 1 1 0 false (addVal 1 (decodeF 1 t.toNat) (decodeF 1 x.toNat))).1

/-- An addition put into a region. -/
def Addition.apply (a : Addition) (t : Tab Word) : Tab Word :=
  writeTile t a.dtile ((readTile t a.dtile a.m a.n).zipIdx.map (fun q =>
    q.1.zipIdx.map (fun p => addWord a.ints p.1 (a.words.getD (a.n * q.2 + p.2) 0))))

/-- The region of a saved block as its image holds it. -/
def State.savedAcc (s : State) (bid : Nat) (b : Block) : Tab Word :=
  let bytes := s.savedRead bid b 5 b.accVa 0 (b.acc * 0x4000)
  ((List.range (b.acc * 4096)).map (fun i => (i, BitVec.ofNat 32 (leNat ((bytes.drop (4 * i)).take 4))))).filter (fun p => p.2 != 0)

/-- An addition applied to the saved region (R302). -/
def State.addSaved (s : State) (bid : Nat) (b : Block) (a : Addition) : State :=
  let t := a.apply (s.savedAcc bid b)
  (List.range a.m).foldl (fun s i =>
    let k := tileBase a.dtile + i * tilePitch a.dtile
    s.savedWrite bid b 5 b.accVa (4 * k) ((accRow t k a.n).flatMap (fun w => leBytes 4 w.toNat))) s

/-- The entry that sent an addition completes. -/
def State.drnaDone (s : State) (add : Nat) (a : Addition) : State :=
  { s with additions := s.additions.erase add }.modBlock a.src (fun b => { b with
    stream := b.stream.filter (fun e => e.sent != some add) })

/-- DRNA_ADDITION (R302 to R304): an addition is applied between two entries of the target's stream. -/
def execDrnaAddition (add : Nat) (s : State) : Host.Outcome State Fault Refusal :=
  match s.additions.get? add with
  | none => .next s
  | some a =>
    let early := s.additions.any (fun q => decide (q.1 < add) && a.ordered && q.2.ordered && q.2.src == a.src && q.2.dst == a.dst
      && q.2.handle == a.handle)
    let s1 := s.drnaDone add a
    let lost :=
      let e : Option SEntry := (match s.blocks.get? a.src with
        | some b => b.stream.find? (fun e => e.sent == some add)
        | none => none)
      match e with
      | some e => s1.deliverFault a.src e.sid 0x0404 0 e.lanes
      | none => s1
    let mark := fun (s : State) => s.modBlock a.dst (fun b => if a.ordered then
      { b with drnaApplied := (a.handle, a.epoch, a.seq, a.src) :: b.drnaApplied } else b)
    let held := match s.blocks.get? a.src, s.blocks.get? a.dst with | some x, some y => s.barred x.die y.die | _, _ => false
    if early || held then .next s
    else match s.blocks.get? a.dst with
      | none => .next lost
      | some t =>
        match t.state with
        | .retired => .next lost
        | .saved => .next (mark (s1.addSaved a.dst t a))
        | .resident =>
          if (match t.turn with | some (_, e) => e.begun | none => false) then .next s
          else .next (mark (s1.modBlock a.dst (fun b => { b with accWords := a.apply b.accWords })))

end Sys2Proof.Machine
end

