-- ==== Sys2Proof/Machine/Link.lean ====
section
/-! DEFINITION. The pod links (R425 to R433): the packets of a pair of a die and a peer, the replies, the
replay window of a target, and the flits of a port. -/

namespace Sys2Proof

open Machine

/-! ### CRCs and bytes (R426, R427) -/

/-- One bit of a reflected CRC-32 step with the IEEE 802.3 polynomial. (PRESUMED, log 60) -/
def crc32Bits : Nat → Word → Word
  | 0, c => c
  | n + 1, c => crc32Bits n (if c.getLsbD 0 then (c >>> 1) ^^^ 0xEDB88320#32 else c >>> 1)

/-- CRC-32 with the IEEE 802.3 polynomial. (PRESUMED, log 60) -/
def crc32 (bs : List Byte) : Word :=
  ~~~(bs.foldl (fun c b => crc32Bits 8 (c ^^^ b.setWidth 32)) 0xFFFFFFFF#32)

/-- One bit of a CRC-64 step with the ECMA-182 polynomial. (PRESUMED, log 60) -/
def crc64Bits : Nat → Dword → Dword
  | 0, c => c
  | n + 1, c => crc64Bits n (if c.getLsbD 63 then (c <<< 1) ^^^ 0x42F0E1EBA9EA3693#64 else c <<< 1)

/-- CRC-64 with the ECMA-182 polynomial, from zero. (PRESUMED, log 60) -/
def crc64 (bs : List Byte) : Dword :=
  bs.foldl (fun c b => crc64Bits 8 (c ^^^ BitVec.ofNat 64 (b.toNat * 2 ^ 56))) 0

/-- The 32 bytes of a packet's header (R427). -/
def Packet.header (p : Packet) : List Byte :=
  [p.type, p.flags] ++ leBytes 2 p.src.toNat ++ leBytes 2 p.dst.toNat ++ leBytes 2 p.ctx.toNat ++ leBytes 4 p.seq.toNat
    ++ leBytes 2 p.len.toNat ++ [p.op, p.rsv] ++ leBytes 8 p.addr.toNat ++ leBytes 8 p.keys.toNat

/-- The bytes of a packet: header, payload padded to 16 bytes, trailer (R427). -/
def Packet.bytes (p : Packet) : List Byte :=
  let body := p.header ++ p.payload ++ List.replicate ((16 - p.payload.length % 16) % 16) 0
  body ++ leBytes 8 ((crc32 body).toNat + if p.nul then 2 ^ 32 else 0)

/-- A header read back. -/
def Packet.ofHeader (h : List Byte) : Packet :=
  let f := fun o n => leNat ((h.drop o).take n)
  { type := BitVec.ofNat 8 (f 0 1), flags := BitVec.ofNat 8 (f 1 1), src := BitVec.ofNat 16 (f 2 2), dst := BitVec.ofNat 16 (f 4 2),
    ctx := BitVec.ofNat 16 (f 6 2), seq := BitVec.ofNat 32 (f 8 4), len := BitVec.ofNat 16 (f 12 2), op := BitVec.ofNat 8 (f 14 1),
    rsv := BitVec.ofNat 8 (f 15 1), addr := BitVec.ofNat 64 (f 16 8), keys := BitVec.ofNat 64 (f 24 8), payload := [], nul := false }

/-- The payload bytes that a header announces. -/
def Packet.payloadLen (p : Packet) : Nat :=
  match p.type.toNat with
  | 1 => p.len.toNat
  | 2 => (if p.op.getLsbD 3 then 8 else 4) * (if p.op.toNat % 8 = 7 then 2 else 1)
  | 8 => p.len.toNat
  | 10 => if p.len = 0 then 8 else p.len.toNat
  | _ => 0

/-- The virtual channel of a packet (R428). -/
def Packet.vc (p : Packet) : Nat := if p.type.toNat ≤ 2 then 0 else if p.type.toNat = 3 then 2 else 1

/-- A reply to a request (R427): its LEN and KEYS. (DESIGN CHOICE, log 61) -/
def Packet.reply (p : Packet) (type len : Nat) (keys : Dword) (payload : List Byte) : Packet :=
  { p with type := BitVec.ofNat 8 type, flags := 0, len := BitVec.ofNat 16 len, op := 0, addr := 0, keys := keys, payload := payload }

/-- FAIL with a cause (R427). (DESIGN CHOICE, log 61) -/
def Packet.failReply (p : Packet) (c : Half) : Packet := p.reply 11 0 (c.setWidth 64) []

/-- The type under which an ATOMIC's operation acts (R427): its width, and for .min and .max its signedness. -/
def Packet.atomType (p : Packet) : Nat :=
  let signed := p.op.getLsbD 4
  if p.op.getLsbD 3 then (if signed then 19 else 23) else (if signed then 18 else 22)

end Sys2Proof

namespace Sys2Proof.Machine

/-! ### Pairs (R428, R429) -/

/-- The peer code of a die of a package (R201). -/
def peerCode (pkg die : Nat) : Nat := pkg * 8 + die

/-- The key of a pair of a die of this package and a peer. -/
def pairKey (die peer : Nat) : Nat := die * 8192 + peer

/-- A pair with nothing outstanding: its next request carries SYN (R429, R432). -/
def Pair.fresh : Pair := { next := 0, out := [], rounds := 0, syn := true }

/-- The pair of a die and a peer. -/
def State.pair (s : State) (die peer : Nat) : Pair := (s.pairs.get? (pairKey die peer)).getD Pair.fresh

/-- A pair changed. -/
def State.modPair (s : State) (die peer : Nat) (f : Pair → Pair) : State :=
  { s with pairs := s.pairs.put (pairKey die peer) (f (s.pair die peer)) }

/-- Width of a Petixa port: 0 when it is down (R25). -/
def State.portWidth (s : State) (p : Nat) : Nat :=
  if (s.die (p / 2)).lost then 0 else if p % 2 = 0 then (s.die (p / 2)).pxa else (s.die (p / 2)).pxb

/-- A Petixa port carries packets (R25, R462): it is not down, and the feature is accepted. -/
def State.portOpen (s : State) (p : Nat) : Bool := decide (p < 16) && s.portWidth p != 0 && s.feature 2

/-- A working port of a die, its first choice first (R425). -/
def State.portOfDie (s : State) (d pref : Nat) : Option Nat :=
  if s.portWidth (2 * d + pref) ≠ 0 then some (2 * d + pref)
  else if s.portWidth (2 * d + (1 - pref)) ≠ 0 then some (2 * d + (1 - pref)) else none

/-- The port on which requests of a die to a peer leave (R425): its own, or that of the nearest die of the package whose port works, the lower number
on a tie. -/
def State.portFor (s : State) (d peer : Nat) : Option Nat :=
  let pref := (peer / 8 + peer % 8) % 2
  match s.portOfDie d pref with
  | some p => some p
  | none =>
    let near := ((List.range 8).filter (fun k => s.hops d k < 15)).filterMap (fun k => (s.portOfDie k pref).map (fun p => (s.hops d k, p)))
    (leastUsed near).map (fun q => q.2)

/-! ### Flits (R426) -/

/-- A data flit of 246 packet bytes at most (R426). (DESIGN CHOICE, log 62) -/
def dataFlit (seq vc : Nat) (bytes : List Byte) : List Byte :=
  let h := leBytes 2 (seq % 4096 + vc * 4096) ++ bytes ++ List.replicate (246 - bytes.length) 0
  h ++ leBytes 8 (crc64 h).toNat

/-- The flits of a packet's bytes. (DESIGN CHOICE, log 62) -/
def flitsOf (vc : Nat) : Nat → Nat → List Byte → List (List Byte)
  | 0, _, _ => []
  | n + 1, seq, bs => if bs.isEmpty then [] else dataFlit seq vc (bs.take 246) :: flitsOf vc n (seq + 1) (bs.drop 246)

/-- The flits that wait are sent as far as the buffer of 1,024 has room (R426). (DESIGN CHOICE, log 63) -/
def LinkPort.fill (l : LinkPort) : LinkPort :=
  let fs := l.waiting.take (1024 - l.buffer.length)
  { l with buffer := l.buffer ++ fs, sent := l.sent ++ fs, waiting := l.waiting.drop fs.length }

/-- A packet leaves on a port: as a packet, and as flits that are kept for replay (R426). -/
def State.emit (s : State) (port : Nat) (p : Packet) : State :=
  let l := (s.links.get? port).getD LinkPort.reset
  let fs := flitsOf p.vc 3 l.txSeq p.bytes
  { s with
    linkOut := s.linkOut ++ [(port, p)]
    links := s.links.put port { l with txSeq := (l.txSeq + fs.length) % 4096, waiting := l.waiting ++ fs }.fill }

/-! ### Requests to peers (R425, R429) -/

/-- A request to a pod peer before it has a number. -/
structure PeerReq where
  die : Nat
  peer : Nat
  ctx : Nat
  type : Nat
  op : Nat
  len : Nat
  addr : Nat
  keys : Dword
  payload : List Byte
  bid : Nat
  sid : Nat
  fill : Option (Nat × Nat × Nat)
  issue : Option Nat
  entry : Option Nat
  deriving DecidableEq, Repr

/-- The sectors of two ranges of a peer's addresses meet. -/
def sectorsMeet (a n b m : Nat) : Bool := decide (a / 128 ≤ (b + m - 1) / 128) && decide (b / 128 ≤ (a + n - 1) / 128)

/-- A pair has room for a request, and no outstanding READ of its sectors holds it (R429). (DEDUCED, log 59) -/
def State.pairRoom (s : State) (r : PeerReq) : Bool :=
  let p := s.pair r.die r.peer
  decide (p.out.length < 256)
    && (r.type == 0 || !p.out.any (fun o => o.pkt.type == 0 && sectorsMeet o.pkt.addr.toNat o.pkt.len.toNat r.addr r.len))

/-- A request sent on its pair; the caller has seen that there is room. -/
def State.sendPeer (s : State) (r : PeerReq) : State :=
  let (n, s) := s.fresh
  let p := s.pair r.die r.peer
  let pkt : Packet :=
    { type := BitVec.ofNat 8 r.type, flags := if p.syn then 1 else 0, src := BitVec.ofNat 16 (peerCode s.fuses.pkg r.die),
      dst := BitVec.ofNat 16 r.peer, ctx := BitVec.ofNat 16 r.ctx, seq := p.next, len := BitVec.ofNat 16 r.len,
      op := BitVec.ofNat 8 r.op, rsv := 0, addr := BitVec.ofNat 64 r.addr, keys := r.keys, payload := r.payload, nul := false }
  let o : Outstanding := { num := n, pkt := pkt, bid := r.bid, sid := r.sid, fill := r.fill, issue := r.issue, entry := r.entry }
  let s1 := s.modPair r.die r.peer (fun p => { p with next := p.next + 1, out := p.out ++ [o], syn := false })
  match s.portFor r.die r.peer with
  | some port => s1.emit port pkt
  | none => s1

/-- The effect of a request that ends with a cause (R229, R432); an engine's waits for the other answers of its piece, since the lowest faulting
address is recorded (R314). -/
def State.failOut (s : State) (o : Outstanding) (cause : Half) : State :=
  match o.entry with
  | some e => s.modEntry e (fun x => { x with faults := x.faults.put (o.pkt.dst.toNat * 2 ^ 50 + o.pkt.addr.toNat) cause })
  | none =>
    if o.pkt.type = 2 then (s.failRelease o.bid o.sid).fillFaulted o.fill cause o.pkt.addr.toNat
    else if o.pkt.type = 1 then
      let s1 := match s.blocks.get? o.bid with
        | some b => s.log b.ctx { cause := cause, die := b.die, core := b.core, slice := o.sid, flags := 4, block := b.idx.toNat,
                                  addr := o.pkt.addr.toNat }
        | none => s
      (s1.failRelease o.bid o.sid).issueDone o.issue
    else s.fillFaulted o.fill cause o.pkt.addr.toNat

/-- Every outstanding request of a pair fails, and its next request carries SYN (R429, R432). -/
def State.failPair (s : State) (die peer : Nat) (cause : Half) : State :=
  let out := (s.pair die peer).out
  let s1 := s.modPair die peer (fun p => { p with out := [], rounds := 0, syn := true })
  out.foldl (fun s o => s.failOut o cause) s1

/-! ### Replies (R429) -/

/-- The bytes that a peer answered to an engine, kept by address until the piece is written. -/
def Entry.keep (e : Entry) (addr : Nat) (bytes : List Byte) : Entry := { e with buf := e.buf.put addr bytes }

/-- A reply that is not NUL comes to the requester (R429, R430). (DESIGN CHOICE, log 61) -/
def State.peerReply (s : State) (p : Packet) : State :=
  let die := p.src.toNat % 8
  let peer := p.dst.toNat
  match (s.pair die peer).out.find? (fun o => o.pkt.seq == p.seq) with
  | none => s
  | some o =>
    let s1 := s.modPair die peer (fun q => { q with out := q.out.filter (fun x => x.pkt.seq != p.seq), rounds := 0 })
    match p.type.toNat with
    | 8 =>
      (match o.entry with
       | some e => s1.modEntry e (fun x => x.keep (peer * 2 ^ 50 + o.pkt.addr.toNat) (p.payload.take p.len.toNat))
       | none => s1.fillPart o.fill (leNat (p.payload.take p.len.toNat)))
    | 9 => (match o.entry with | some _ => s1 | none => s1.issueDone o.issue)
    | 10 => s1.fillPart o.fill (leNat (p.payload.take p.len.toNat))
    | 11 =>
      let c : Half := p.keys.setWidth 16
      let s2 := s1.failOut o c
      if c = 0x0702 then s2.modPair die peer (fun q => { q with syn := true }) else s2
    | _ => s1

/-- PACKET_REPLY (R429, R431): NUL packets are discarded. -/
def execPacketReply (port : Nat) (pkt : Packet) (s : State) : Host.Outcome State Fault Refusal :=
  .next (if pkt.nul || !s.portOpen port || pkt.src.toNat / 8 ≠ s.fuses.pkg || pkt.type.toNat < 8 then s else s.peerReply pkt)

/-! ### The target (R430) -/

/-- The pieces of a request at the target's own addresses, one in each page. -/
def peerPieces : Nat → Nat → Nat → List (Nat × Nat)
  | 0, _, _ => []
  | fuel + 1, va, n =>
    if n = 0 then []
    else
      let k := min n (65536 - va % 65536)
      (va, k) :: peerPieces fuel (va + k) (n - k)

/-- The verdicts on a request's pieces (R365): where they are, or the first cause. -/
def State.peerVerdicts (s : State) (ctx die : Nat) (k : Access) (keys : Dword) :
    List (Nat × Nat) → State × Except Half (List (Nat × Nat × Dword))
  | [] => (s, .ok [])
  | (va, n) :: ps =>
    match s.verdict ctx (.own die) va k keys .peer with
    | (s1, .pass l) => (match s1.peerVerdicts ctx die k keys ps with
        | (s2, .ok qs) => (s2, .ok ((l.pa, n, l.entry) :: qs))
        | r => r)
    | (s1, .arriving _) => (s1, .error 0x0301)
    | (s1, .fail c) => (s1, .error c)

/-- Some piece of a request holds a poisoned sector. -/
def State.peerPoisoned (s : State) (die : Nat) (qs : List (Nat × Nat × Dword)) : Bool :=
  qs.any (fun q => (s.firstPoison die q.1 q.2.1).isSome)

/-- Pieces read at their home. -/
def State.peerRead (s : State) (die : Nat) : List (Nat × Nat × Dword) → State × List Byte
  | [] => (s, [])
  | q :: qs =>
    let s1 := s.recallRange die q.1 q.2.1
    let (s2, rest) := s1.peerRead die qs
    (s2, s1.physRead die q.1 q.2.1 ++ rest)

/-- Pieces written at their home. -/
def State.peerWrite (s : State) (die : Nat) : List (Nat × Nat × Dword) → List Byte → State
  | [], _ => s
  | q :: qs, data => (s.homeStoreAs (leafPol q.2.2 != 3) die q.1 (data.take q.2.1)).peerWrite die qs (data.drop q.2.1)

/-- A request performed at its target die: the reply (R430); NOT_MAPPED where its context is not resident there (R360). Nonzero reserved bits of its header are ignored (R5). (DESIGN CHOICE,
log 112) -/
def State.targetPerform (s : State) (p : Packet) : State × Packet :=
  let die := p.dst.toNat % 8
  let base := 0x7FF * 2 ^ 53 + die * 2 ^ 50 + p.addr.toNat % 2 ^ 50
  let ctx := p.ctx.toNat % 4096
  if !s.residentOn ctx die then (s, p.failReply 0x0301)
  else match p.type.toNat with
  | 0 =>
    (match s.peerVerdicts ctx die .read p.keys (peerPieces 3 base p.len.toNat) with
     | (s1, .error c) => (s1, p.failReply c)
     | (s1, .ok qs) =>
       if s1.peerPoisoned die qs then (s1, p.failReply 0x030C)
       else let (s2, bytes) := s1.peerRead die qs
            (s2, p.reply 8 p.len.toNat 0 bytes))
  | 1 =>
    (match s.peerVerdicts ctx die .write p.keys (peerPieces 3 base p.len.toNat) with
     | (s1, .error c) => (s1, p.failReply c)
     | (s1, .ok qs) => (s1.peerWrite die qs (p.payload.take p.len.toNat), p.reply 9 0 0 []))
  | _ =>
    let n := if p.op.getLsbD 3 then 8 else 4
    (match s.peerVerdicts ctx die .rmw p.keys [(base, n)] with
     | (s1, .ok ((pa, _, leaf) :: _)) =>
       if s1.poisoned die pa then (s1, p.failReply 0x030C)
       else
         let x := leNat (p.payload.take n)
         let y := leNat ((p.payload.drop n).take n)
         let cas := p.op.toNat % 8 == 7
         let (s2, old, _, _) := s1.homeRmw die pa (p.op.toNat % 8) p.atomType
           (BitVec.ofNat 64 x) (BitVec.ofNat 64 (if cas then y else 0)) die 0xFF 0 (leafPol leaf != 3)
         (s2, p.reply 10 n 0 (leBytes n old))
     | (s1, .ok []) => (s1, p.failReply 0x0301)
     | (s1, .error c) => (s1, p.failReply c))

/-- A reply of a WRITE or ATOMIC recorded, for the last 256 numbers (R430). -/
def Replay.record (w : Replay) (seq : Word) (p : Packet) (kept : Bool) : Replay :=
  { w with
    answers := if kept then Tab.put (w.answers.filter (fun q => decide ((w.expected - BitVec.ofNat 32 q.1).toNat ≤ 256))) seq.toNat p
      else w.answers }

/-- A request accepted (R430): the number after it is expected next. -/
def Replay.accept (w : Replay) (seq : Word) : Replay := { w with expected := seq + 1 }

/-- How many bytes of its target's memory a request touches. -/
def reqSpan (p : Packet) : Nat := if p.type = 2 then (if p.op.getLsbD 3 then 8 else 4) else p.len.toNat

/-- Some of a list of requests touches a sector that a request touches (R428). -/
def meetsAny (ps : List (Nat × Packet)) (p : Packet) : Bool :=
  ps.any (fun q => sectorsMeet (q.2.addr.toNat % 2 ^ 50) (reqSpan q.2) (p.addr.toNat % 2 ^ 50) (reqSpan p))

/-- A sequence number is one of the last 256 that a window has accepted (R430). -/
def Replay.recorded (w : Replay) (seq : Word) : Bool := seq != w.expected && decide ((w.expected - seq).toNat ≤ 256)

/-- A request at its target (R430): performed in order, answered again from the window, discarded when it is early, or refused as stale. A replayed
SYN that the window has recorded already is answered from it, since a lost reply never has an ATOMIC applied twice (R438). A request that is to be held,
or that meets the sectors of one that is held, is accepted and performed later (R428). (DESIGN CHOICE, log 63) -/
def State.targetRequest (s : State) (port : Nat) (hold : Bool) (p : Packet) : State × Option Packet :=
  let die := p.dst.toNat % 8
  let src := p.src.toNat
  let w? := (s.die die).replay.get? src
  let again := p.flags.getLsbD 1 && (match w? with | some w => w.recorded p.seq | none => false)
  let w? := if p.flags.getLsbD 0 && !again then some { (w?.getD ⟨p.seq, [], []⟩) with expected := p.seq, held := [] } else w?
  let keep := fun (s : State) (w : Replay) => s.modDie die (fun x => { x with replay := x.replay.put src w })
  match w? with
  | none => (s, some (p.failReply 0x0702))
  | some w =>
    if p.seq = w.expected then
      if hold || meetsAny w.held p then (keep s { w.accept p.seq with held := w.held ++ [(port, p)] }, none)
      else
        let (s1, r) := s.targetPerform p
        (keep s1 ((w.accept p.seq).record p.seq r (p.type != 0)), some r)
    else if w.recorded p.seq then
      if w.held.any (fun q => q.2.seq == p.seq) then (s, none)
      else if p.type = 0 then
        let (s1, r) := s.targetPerform p
        (keep s1 w, some r)
      else (s, some ((w.answers.get? p.seq.toNat).getD (p.failReply 0x0702)))
    else if (p.seq - w.expected).toNat < 2 ^ 31 then (s, none)
    else (s, some (p.failReply 0x0702))

/-- A request that reaches the package through a port. -/
def State.takeRequest (s : State) (port : Nat) (hold : Bool) (p : Packet) : State :=
  if p.nul || p.dst.toNat / 8 ≠ s.fuses.pkg || (s.die (p.dst.toNat % 8)).lost || 2 < p.type.toNat then s
  else match s.targetRequest port hold p with
    | (s1, some r) => s1.emit port r
    | (s1, none) => s1

/-- PACKET_REQUEST (R430). -/
def execPacketRequest (port : Nat) (pkt : Packet) (s : State) : Host.Outcome State Fault Refusal :=
  .next (if !s.portOpen port then s else s.takeRequest port false pkt)

/-- A request of a peer accepted, to be performed later (R428, R430). -/
def acceptPeer (port : Nat) (pkt : Packet) (s : State) : Host.Outcome State Fault Refusal :=
  .next (if !s.portOpen port then s else s.takeRequest port true pkt)

/-- An accepted request performed and answered (R428, R430): no older one that is held touches its sectors. -/
def performPeer (die src : Nat) (seq : Word) (s : State) : Host.Outcome State Fault Refusal :=
  match (s.die die).replay.get? src with
  | none => .next s
  | some w =>
    match w.held.dropWhile (fun q => q.2.seq != seq) with
    | [] => .next s
    | q :: _ =>
      if (s.die die).lost || meetsAny (w.held.takeWhile (fun q => q.2.seq != seq)) q.2 then .next s
      else
        let (s1, r) := s.targetPerform q.2
        let w1 := { w.record seq r (q.2.type != 0) with held := w.held.filter (fun x => x.2.seq != seq) }
        .next ((s1.modDie die (fun x => { x with replay := x.replay.put src w1 })).emit q.1 r)

/-! ### Timers and notices (R429, R432) -/

/-- REPLAY_TIMEOUT (R429): every unanswered request of a pair is sent again; after eight rounds they fail with REMOTE_DOWN. -/
def execReplayTimeout (die peer : Nat) (s : State) : Host.Outcome State Fault Refusal :=
  let p := s.pair die peer
  if p.out.isEmpty then .next s
  else if 8 ≤ p.rounds then .next (s.failPair die peer 0x0701)
  else
    let s1 := s.modPair die peer (fun p => { p with rounds := p.rounds + 1 })
    .next (p.out.foldl (fun s o =>
      match s.portFor die peer with
      | some port => s.emit port { o.pkt with flags := o.pkt.flags ||| 2 }
      | none => s) s1)

/-- PETIXA_RETRAIN (R26): a port trains at a width of 0, 1 or 2; without the feature the ports stay untrained (R462). -/
def execPetixaRetrain (port width : Nat) (s : State) : Host.Outcome State Fault Refusal :=
  if port ≥ 16 || width > 2 || (s.accepted && !s.feature 2) then .next s
  else .next (s.modDie (port / 2) (fun x => if port % 2 = 0 then { x with pxa := width } else { x with pxb := width }))

/-! ### Flits (R426) -/

/-- A packet handled as it comes complete from a port's flits. -/
def State.takePacket (s : State) (port : Nat) (p : Packet) : State :=
  if p.type.toNat ≤ 2 then s.takeRequest port false p
  else if 8 ≤ p.type.toNat && !p.nul && p.src.toNat / 8 = s.fuses.pkg then s.peerReply p
  else s

/-- Packets taken from the front of the bytes received on a virtual channel; bytes that are all zero, or that start with a header of zero length and
type 0, are padding up to the end of the flit. (DESIGN CHOICE, log 62) -/
def State.parseRx (port : Nat) : Nat → State → List Byte → State × List Byte
  | 0, s, bs => (s, bs)
  | fuel + 1, s, bs =>
    if bs.all (fun b => b == 0) then (s, [])
    else if bs.length < 32 then (s, bs)
    else
      let h := Packet.ofHeader (bs.take 32)
      if h.type = 0 && h.len = 0 then (s, [])
      else
        let n := h.payloadLen
        let m := 32 + (n + 15) / 16 * 16
        if bs.length < m + 8 then (s, bs)
        else
          let tr := leNat ((bs.drop m).take 8)
          let p := { h with payload := (bs.drop 32).take n, nul := bitOf tr 32 }
          let s1 := if tr % 2 ^ 32 = (crc32 (bs.take m)).toNat then s.takePacket port p else s
          State.parseRx port fuel s1 (bs.drop (m + 8))

/-- The link layer's ack or nak flit (R426): kind 1 or 2 with a sequence number. (DESIGN CHOICE, log 62) -/
def ctlFlit (kind seq : Nat) : List Byte :=
  let h := leBytes 2 (seq % 4096 + kind * 16384) ++ List.replicate 246 0
  h ++ leBytes 8 (crc64 h).toNat

/-- A port's record changed. (DESIGN CHOICE, log 63) -/
def State.modLink (s : State) (port : Nat) (f : LinkPort → LinkPort) : State :=
  { s with links := s.links.put port (f ((s.links.get? port).getD LinkPort.reset)) }

/-- The flits of a buffer from a sequence number on are sent again (R426). (DESIGN CHOICE, log 63) -/
def LinkPort.replayFrom (l : LinkPort) (seq : Nat) : LinkPort :=
  { l with sent := l.sent ++ l.buffer.dropWhile (fun f => leNat (f.take 2) % 4096 != seq % 4096) }

/-- An ack (R426): the buffer is freed up to its number, and the flits that wait take the room; a number that the buffer does not hold says nothing. -/
def LinkPort.acked (l : LinkPort) (seq : Nat) : LinkPort :=
  let left := l.buffer.dropWhile (fun f => leNat (f.take 2) % 4096 != seq)
  if left.isEmpty then l else { l with buffer := left.tail }.fill

/-- FLIT_NAK (R426): the flits from the number of the NAK on are replayed. -/
def execFlitNak (port seq : Nat) (s : State) : Host.Outcome State Fault Refusal :=
  .next (if !s.portOpen port then s else s.modLink port (fun l => l.replayFrom seq))

/-- FLIT_RECEIVE (R426): a flit with a bad CRC or out of sequence is NAKed; one in sequence is acknowledged and its bytes are taken; an ack
frees the buffer up to its number. -/
def execFlitReceive (port : Nat) (flit : List Byte) (s : State) : Host.Outcome State Fault Refusal :=
  let l := (s.links.get? port).getD LinkPort.reset
  let h := leNat (flit.take 2)
  let good := flit.length == 256 && leNat (flit.drop 248) == (crc64 (flit.take 248)).toNat
  if !s.portOpen port then .next s
  else if !good then .next (s.modLink port (fun l => { l with sent := l.sent ++ [ctlFlit 2 l.rxSeq] }))
  else match h / 16384 with
    | 0 =>
      if h % 4096 ≠ l.rxSeq then .next (s.modLink port (fun l => { l with sent := l.sent ++ [ctlFlit 2 l.rxSeq] }))
      else
        let vc := h / 4096 % 4
        let bs := (l.rx.get? vc).getD [] ++ (flit.drop 2).take 246
        let s1 := s.modLink port (fun l => { l with rxSeq := (l.rxSeq + 1) % 4096, sent := l.sent ++ [ctlFlit 1 l.rxSeq] })
        let (s2, rest) := State.parseRx port 8 s1 bs
        .next (s2.modLink port (fun l => { l with rx := l.rx.put vc rest }))
    | 1 => .next (s.modLink port (fun l => l.acked (h % 4096)))
    | 2 => .next (s.modLink port (fun l => l.replayFrom (h % 4096)))
    | _ => .next s

end Sys2Proof.Machine
end

