-- ==== Sys2Proof/Machine/Remote.lean ====
section
/-! DEFINITION. Access to pod peers: RLD and RST (R201 to R206) and RATM (R434). A peer of the own package is reached on the rings, a peer
of another package on the pair of the slice's die with it (R425). -/

namespace Sys2Proof.Machine

/-! ### Elements and passes (R201, R202) -/

/-- An element at a peer: its lane, its number in the lane's run, the peer, the offset at the peer and the size. -/
structure RElem where
  lane : Nat
  k : Nat
  peer : Nat
  off : Nat
  size : Nat
  deriving DecidableEq, Repr, Inhabited

/-- The elements of the active lanes (R201). -/
def Env.remoteElems (v : Env) (size count : Nat) : List RElem :=
  (lanesOf v.act).flatMap (fun l => (List.range count).map (fun k =>
    { lane := l, k := k, peer := (v.a.v.get l).toNat, off := ((v.o.v.get l).toNat + litOff v.f + k * size) % 2 ^ 64, size := size }))

/-- The elements in the order of the passes: by ascending peer, and by ascending lane within a pass (R202). -/
def passOrder (es : List RElem) : List RElem := es.insertionSort (fun a b => a.peer ≤ b.peer)

/-- Step 1 of R177 on an element at a peer (R201, R434, R462). -/
def State.remoteFail (s : State) (align : Nat) (e : RElem) : Option LaneFail :=
  let bad := fun c => some (LaneFail.mk e.lane c e.off)
  if 0x1FFF < e.peer || 2 ^ 50 ≤ e.off then bad 0x0301
  else if !s.ownPeer e.peer && !s.feature 2 then bad 0x0301
  else if 2 ^ 50 < e.off + e.size then bad 0x030B
  else if e.off % align ≠ 0 then bad 0x030F
  else none

/-- The address in the own package of an element at one of its dies. (DEDUCED, log 57) -/
def RElem.va (e : RElem) : Nat := 0x7FF * 2 ^ 53 + e.peer % 8 * 2 ^ 50 + e.off

/-- The element as an access of the own package. -/
def RElem.toMElem (e : RElem) : MElem := ⟨e.lane, e.k, e.va, e.size⟩

/-- Where a request to a die of the own package is sent; the verdict is the home's (R203). (DEDUCED, log 57) -/
def State.remotePlace (s : State) (ctx peer va : Nat) : Place :=
  match (s.walk ctx (.own (peer % 8)) va).2 with
  | .ok l => .own (peer % 8) l.pa l.entry
  | .error _ => .own (peer % 8) 0 0

/-- The parts of the elements at dies of the own package (R175). -/
def State.ownParts (s : State) (v : Env) (es : List RElem) : List Placed :=
  es.zipIdx.flatMap (fun q =>
    if s.ownPeer q.1.peer then
      (partsOf q.1.va q.1.size).zipIdx.map (fun p => ⟨q.2, p.2, p.1.1, p.1.2.1, p.1.2.2, s.remotePlace v.b.ctx q.1.peer p.1.2.1⟩)
    else [])

/-- The request of an element at a die of another package (R427). -/
def State.peerReq (s : State) (v : Env) (e : RElem) (type op : Nat) (payload : List Byte) : PeerReq :=
  { die := v.b.die, peer := e.peer, ctx := v.b.ctx, type := type, op := op, len := e.size, addr := e.off,
    keys := s.keysOf v.b.ctx v.b.die, payload := payload, bid := v.bid, sid := v.sid, fill := none, issue := none, entry := none }

/-- Every pair has room for its requests of an instruction (R429). (DEDUCED, log 59) -/
def State.pairsRoom (s : State) (rs : List PeerReq) : Bool :=
  rs.all (fun r => s.pairRoom r && decide ((s.pair r.die r.peer).out.length + (rs.filter (fun q => q.peer == r.peer)).length ≤ 256))

/-- An element of a fill from a peer: the parts at a die of the own package, or one of the whole element. -/
def State.remoteFillElem (s : State) (d ty : Nat) (ps : List Placed) (i : Nat) (e : RElem) : FillElem :=
  if s.ownPeer e.peer then { e.toMElem.toFill d ty ps i (fun _ => none) with addr := BitVec.ofNat 64 e.off }
  else { e.toMElem.toFill d ty [] i (fun _ => none) with parts := [(0, e.size, none)], addr := BitVec.ofNat 64 e.off }

/-- A fill from peers begun: the requests to the own package, and those to others. (DEDUCED, log 57) -/
def State.beginRemote (s : State) (v : Env) (regs : List Nat) (target : Tag) (els : List FillElem) (ps : List Placed)
    (mk : Placed → Req → Req) (rs : List (Nat × PeerReq)) : State × Nat :=
  let (s1, fid) := s.beginFill v regs target false true els ps (fun p r => { mk p r with remote := true, alloc := false })
  (rs.foldl (fun s q => s.sendPeer { q.2 with fill := some (fid, q.1, 0) }) s1, fid)

/-! ### RLD and RST -/

/-- RLD (R201 to R205). -/
def execRld (f : Fields) (s : State) : Host.Outcome State Fault Refusal :=
  runInstr { opc := 0x69, lens := [1, 2, 3], dst := .run, sa := .w32, sb := .w64, types := .eff typeMT, lit := .role, md := 3,
             extra := fun f _ => modOf f % 4 != 3 } f
    (fun v s =>
      let es := passOrder (v.remoteElems (elemSize v.ty) (countOf f))
      match pickFail (es.filterMap (s.remoteFail 1)) with
      | some (c, a, ls) => .raise c a ls
      | none =>
        let rs := es.zipIdx.filterMap (fun q => if s.ownPeer q.1.peer then none else some (q.2, s.peerReq v q.1 0 0 []))
        if !s.counterRoom v true || !s.pairsRoom (rs.map (fun r => r.2)) then .wait s
        else
          let regs := v.runRegs (countOf f)
          let ps := s.ownParts v es
          let els := es.zipIdx.map (fun q => s.remoteFillElem f.dst.toNat v.ty ps q.2 q.1)
          .done { fills := regs, fillTag := .g, eff := fun s =>
            ((s.modSlice v.bid v.sid (fun x => x.blankFill regs v.act)).beginRemote v regs .g els ps (fun _ r => r) rs).1 }) s

/-- RST (R201 to R206); a shadow's writes are not applied (R354). -/
def execRst (f : Fields) (s : State) : Host.Outcome State Fault Refusal :=
  runInstr { opc := 0x6A, lens := [2, 3], sa := .w32, sb := .w64, sc := .run, types := .eff typeMT, lit := .role, md := 3,
             extra := fun f _ => modOf f % 4 != 3 } f
    (fun v s =>
      let es := passOrder (v.remoteElems (elemSize v.ty) (countOf f))
      match pickFail (es.filterMap (s.remoteFail 1)) with
      | some (c, a, ls) => .raise c a ls
      | none =>
        let data := fun (i : Nat) => let e := es.getD i default; v.runData v.c e.lane e.k
        let rs := es.zipIdx.filterMap (fun q => if s.ownPeer q.1.peer then none else some (s.peerReq v q.1 1 0 (data q.2)))
        if v.b.shadowOf.isSome then .done {}
        else if !s.storeRoom v || !s.pairsRoom rs || !s.ringRoom v (s.ownParts v es) then .wait s
        else
          let ps := s.ownParts v es
          .done { eff := fun s =>
            let s1 := s.countIssue v false (ps.length + rs.length)
            let s2 := ps.foldl (fun s p => s.send { v.request s p (.write (((data p.e).drop p.off).take p.size)) with
              issue := some v.x.issueNo, alloc := false, remote := true }) s1
            rs.foldl (fun s r => s.sendPeer { r with issue := some v.x.issueNo }) s2 }) s

/-! ### RATM (R434) -/

/-- The semantic and scope that RATM takes (R267, R434). (DEDUCED, log 58) -/
def ratmSemOk (m : Nat) : Bool :=
  if m / 8 % 4 = 0 then m % 8 == 0 else m % 8 == 3 || m % 8 == 4

/-- The OP byte of an ATOMIC (R427): the operation, [3] for 64 bits, [4] for a signed compare. (DEDUCED, log 58) -/
def atomicOp (op ty : Nat) : Nat :=
  op + (if typeWide ty then 8 else 0) + (if (op = 4 || op = 5) && typeSigned ty then 16 else 0)

/-- The operands of RATM in a lane: the operand (.cas: the compare), and the new value of .cas. -/
def Env.ratmOps (v : Env) (cas : Bool) (l : Nat) : Nat × Nat :=
  if !cas then (v.cl l, 0)
  else (leNat (v.runData v.c l 0), leNat (v.runData v.c l 1))

/-- The row of RATM (R434): .cas reads a run of two elements. -/
def encRatm (f : Fields) : Enc :=
  { opc := 0x6B, lens := [2, 3], dst := .ty, sa := .w32, sb := .w64, sc := if modOf f / 64 % 16 = 7 then .two else .ty,
    types := .tov typeW, lit := .role, md := 0x3DF,
    extra := fun f t =>
      let op := modOf f / 64 % 16
      ratmSemOk (modOf f) && decide (op ≤ 7) && (!(op == 4 || op == 5) || typeInt t) }

/-- The request that RATM's fields name. -/
def ratmReq (v : Env) : RmwReq :=
  let op := v.md / 64 % 16
  let sem := v.md / 8 % 4
  { op := op, ty := v.ty, returns := true, rel := sem = 2 || sem = 3, acq := sem = 1 || sem = 3,
    scope := (scopeOf (v.md % 8)).getD .pkg, win := false, unordered := false, align := elemSize v.ty, hold := sem = 1 || sem = 3,
    vb := fun l => (v.ratmOps (op == 7) l).1, vc := fun l => (v.ratmOps (op == 7) l).2, point := false }

/-- The requests of RATM to dies of other packages, each with its element (R427); a shadow's only reads (R354). -/
def State.ratmRequests (s : State) (v : Env) (es : List RElem) : List (Nat × PeerReq) :=
  let op := v.md / 64 % 16
  let size := elemSize v.ty
  let pay := fun (l : Nat) =>
    leBytes size (v.ratmOps (op == 7) l).1 ++ (if op = 7 then leBytes size (v.ratmOps (op == 7) l).2 else [])
  es.zipIdx.filterMap (fun p =>
    if s.ownPeer p.1.peer then none
    else some (p.2, if v.b.shadowOf.isSome then s.peerReq v p.1 0 0 [] else s.peerReq v p.1 2 (atomicOp op v.ty) (pay p.1.lane)))

/-- The request of RATM to a die of the own package: `r` as the request carries it, but for a shadow's, which only reads (R354). -/
def Env.ratmOwn (v : Env) (r : Req) : Req := if v.b.shadowOf.isSome then { r with op := .read } else r

/-- RATM's steps (R253, R434). -/
def ratmBody (v : Env) (s : State) : Res :=
  let size := elemSize v.ty
  let d := v.f.dst.toNat
  let q := ratmReq v
  let tell := fun (s : State) => if q.rel then s.reported v.bid v.sid q.scope else s
  let none' := fun (s : State) => acquireThen v q.scope 0 none s { q.lanesOut v (noFill v) with eff := tell }
  match v.x.prog with
  | .pending fid => q.finish v (q.lanesOut v) false fid s
  | .acquiring _ w => if w = 0 then none' s else q.finish v (q.lanesOut v) false (w.toNat - 1) s
  | _ =>
    let es := passOrder (v.remoteElems size 1)
    match pickFail (es.filterMap (s.remoteFail size)) with
    | some (c, a, ls) => .raise c a ls
    | none =>
      match (if q.rel then s.release v q.scope else (s, some true)) with
      | (s1, none) => .wait s1
      | (s1, some _) =>
        let rs := s1.ratmRequests v es
        if q.hold && es.isEmpty then none' s1
        else if !s1.counterRoom v true || !s1.pairsRoom (rs.map (fun r => r.2)) || !s1.ringRoom v (s1.ownParts v es) then .wait s1
        else
          let ps := s1.ownParts v es
          let els := es.map (fun e => { q.fillElem d e.toMElem none with addr := BitVec.ofNat 64 e.off })
          let mk := fun (p : Placed) (r : Req) => v.ratmOwn { q.request v s1 p (es.getD p.e default).lane with fill := r.fill }
          let regs := if typeWide v.ty then [d, d + 1] else [d]
          if q.hold then
            let (s2, fid) := s1.beginRemote v [] .g els ps mk rs
            .wait (s2.modSlice v.bid v.sid (fun x => { x with prog := .pending fid }))
          else
            let send := fun (s : State) =>
              tell ((s.modSlice v.bid v.sid (fun x => x.blankFill regs v.act)).beginRemote v regs .g els ps mk rs).1
            .doneIn s1 { fills := regs, fillTag := .g, eff := send }

/-- RATM (R434). -/
def execRatm (f : Fields) (s : State) : Host.Outcome State Fault Refusal := runInstr (encRatm f) f ratmBody s

end Sys2Proof.Machine
end

