-- ==== Sys2Proof/Machine/Queue.lean ====
section
/-! DEFINITION. Queues, copies and tokens as instructions issue and observe them (R309 to R329): CPY, CPT, CPG, CPS, QFEN, TOKW, TOKT,
TOKR and QCAN. -/

namespace Sys2Proof.Machine

/-! ### Tokens (R312) -/

/-- What a token is taken for (R312). -/
inductive TokView where
  | null
  | record (r : TokRec)
  | stale
  deriving DecidableEq, Repr

/-- A token interpreted for a context; none where it raises TOKEN_INVALID. -/
def State.tokenView (s : State) (ctx : Nat) (t : Dword) : Option TokView :=
  if t = 0 then some .null
  else
    let part := match s.ctxs.get? ctx with | some c => (List.range c.size).map (fun i => (c.first + i) % 8) | none => []
    if tokGen t = 0 || tokCtx t ≠ ctx || !part.contains (tokDie t) || tokQueue t = 7 then none
    else
      let r := (s.die (tokDie t)).tokRec (tokIndex t)
      let d := (r.gen - tokGen t).toNat
      if d = 0 then some (.record r) else if d < 2 ^ 31 then some .stale else none

/-- STATE of the status word (R327). -/
def TokView.state : TokView → Nat
  | .null => 1
  | .stale => 3
  | .record r => match r.state with | .done => 1 | .failed => 2 | _ => 0

/-- The status word of TOKR (R327); that of a ring token, which `ring` says, has SAT in bit 2 (R416). -/
def TokView.word (ring : Bool) : TokView → Nat
  | .record r => min r.bytes 0xFFFFFFFF * 2 ^ 32 + (if r.state = .failed then r.cause.toNat * 65536 else 0)
      + (if ring && r.sat then 4 else 0) + (TokView.record r).state
  | v => v.state

/-- The token is of a ring queue (R309). -/
def tokRing (t : Dword) : Bool := tokQueue t == 2 || tokQueue t == 3

/-- The scope of the acquire that observing a token gives (R328). -/
def TokView.acquires : TokView → Option Scope
  | .null => none
  | .stale => some .pkg
  | .record r => some r.scope

/-- A token observed as complete: what its completion released is seen (R232), and an ordered block takes its writes (R351).
(DEDUCED, log 78) -/
def State.observeToken (s : State) (v : Env) (t : Dword) (w : TokView) : State :=
  let s1 := match w with | .record r => s.noteSeen v.b.die r.stamp | _ => s
  s1.modBlock v.bid (fun b => b.observe (fun l => l.tag == .token t))

/-- An instruction that has observed a complete token acquires at its scope and then completes with `o` (R328). -/
def tokenAcquire (v : Env) (s : State) (t : Dword) (w : TokView) (o : Out) : Res :=
  let s1 := s.observeToken v t w
  match w.acquires with
  | none => .doneIn s1 o
  | some sc => acquireThen v sc (BitVec.ofNat 64 sc.code) none s1 o

/-- TOKW (R328). -/
def execTokw (f : Fields) (s : State) : Host.Outcome State Fault Refusal :=
  runInstr { opc := 0xC5, lens := [2], sa := .u64, gov0 := true, md := 1 } f
    (fun v s =>
      let t := v.a.v.l0
      match v.x.acquiring? with
      | some w => acquireThen v ((scopeOf w.toNat).getD .pkg) w none s {}
      | none => match s.tokenView v.b.ctx t with
        | none => .raise 0x0505 0 v.x.mask
        | some w =>
          if w.state = 0 then .wait s
          else match w with
            | .record r => if r.state = .failed && !bitOf v.md 0 then .raise r.cause r.addr v.x.mask else tokenAcquire v s t w {}
            | _ => tokenAcquire v s t w {}) s

/-- TOKT (R328). -/
def execTokt (f : Fields) (s : State) : Host.Outcome State Fault Refusal :=
  runInstr { opc := 0xC6, lens := [2], dst := .pd, sa := .u64, gov0 := true } f
    (fun v s =>
      let t := v.a.v.l0
      match v.x.acquiring? with
      | some w => acquireThen v ((scopeOf w.toNat).getD .pkg) w none s { pred := predAll v true }
      | none => match s.tokenView v.b.ctx t with
        | none => .raise 0x0505 0 v.x.mask
        | some w =>
          if w.state = 0 then .done { pred := predAll v false }
          else tokenAcquire v s t w { pred := predAll v true }) s

/-- A residency token whose layer is still on its way reports what has landed of it (R402). -/
def State.landedSoFar (s : State) (ctx : Nat) (t : Dword) (w : TokView) : TokView :=
  match w, (s.ctxs.get? ctx).bind (fun c => c.layers.find? (fun l => l.2.tokens.contains t)) with
  | .record r, some l => .record { r with bytes := l.2.landed * 65536 }
  | w, _ => w

/-- TOKR (R327, R402). -/
def execTokr (f : Fields) (s : State) : Host.Outcome State Fault Refusal :=
  runInstr { opc := 0xC7, lens := [2], dst := .w64, sa := .u64, gov0 := true } f
    (fun v s => match s.tokenView v.b.ctx v.a.v.l0 with
      | none => .raise 0x0505 0 v.x.mask
      | some w => .done { regs := [v.writeUni true (BitVec.ofNat 64 ((s.landedSoFar v.b.ctx v.a.v.l0 w).word (tokRing v.a.v.l0)))] }) s

/-! ### Entries and queues (R309, R314) -/

/-- The entry stands in a queue of a die (R309, R326). -/
def Entry.inQueue (e : Entry) (die q owner : Nat) : Bool :=
  e.die == die && (match e.kind with
    | .fence qs => qs.contains (q, owner)
    | _ => e.queue == q && e.owner == owner)

/-- The entry is Queued or Running (R314). -/
def Entry.live (e : Entry) : Bool := e.state == .queued || e.state == .running

/-- A copy queue of a block has room (R309). -/
def State.queueRoom (s : State) (die q owner : Nat) : Bool :=
  decide (2 ≤ q) || decide ((s.entries.filter (fun e => e.2.live && e.2.inQueue die q owner)).length < 64)

/-- An entry as it is issued by a slice. -/
def Env.newEntry (v : Env) (s : State) (t : Dword) (queue owner : Nat) (scope : Scope) (det : Bool) (kind : EntryKind) : Entry :=
  { token := t, ctx := v.b.ctx, die := v.b.die, queue := queue, owner := owner, node := v.b.node, attached := !det,
    bid := some v.bid, sid := v.sid, scope := scope, keys := s.keysOf v.b.ctx v.b.die, state := .queued, kind := kind, piece := 0,
    bytes := 0, cause := 0, addr := 0, sat := false, lines := [],
    view := if s.isOrdered v.b then v.b.roundBytes else [], buf := [], onLayer := [], stamp := Clock.zero, ports := [], cover := [], faults := [], flush := none,
    cancelledBy := none, sent := false, todo := [], todoAt := 0 }

/-- The presence record of a window line, in the core store or in the saved image (R191). -/
def State.presenceAt (s : State) (bid line : Nat) : Presence :=
  match s.blocks.get? bid with
  | none => ⟨.present, 0, 0⟩
  | some b => if b.state = .saved then s.savedPresence bid b line else b.presence line

/-- The lines of `n` bytes of a window from an offset. -/
def windowLines (o n : Nat) : List Nat :=
  if n = 0 then [] else (List.range ((o + n - 1) / 128 - o / 128 + 1)).map (fun i => o / 128 + i)

/-- The lines of the windows of receivers that have not retired. -/
def State.destLines (s : State) (recv : List Nat) (o n : Nat) : List (Nat × Nat) :=
  (recv.filter (fun b => match s.blocks.get? b with | some x => x.state != .retired | none => false)).flatMap
    (fun b => (windowLines o n).map (fun l => (b, l)))

/-- Every line can take one more copy (R188). -/
def State.linesRoom (s : State) (ls : List (Nat × Nat)) : Bool := ls.all (fun l => decide ((s.presenceAt l.1 l.2).n < 15))

/-- "Copy issued" of R188 on a list of lines. -/
def State.issueLines (s : State) (die : Nat) (ls : List (Nat × Nat)) : State :=
  ls.foldl (fun s l => s.modPresence l.1 l.2 (fun p => p.issued (s.sinceNow die))) s

/-- The last check of R319 and the issue: the waits, the token, the entry and its lines. `rels` and `sticky` are those of registers
that the instruction read itself. -/
def issueEntry (v : Env) (s : State) (queue owner : Nat) (scope : Scope) (det : Bool) (kind : EntryKind) (ls : List (Nat × Nat))
    (rels : List Nat) (sticky : Bool) : Res :=
  if !s.queueRoom v.b.die queue owner || !s.roomFor v.b.ctx v.b.die kind.places || !s.linesRoom ls then .wait s
  else
    let o := tokenOut v queue scope (fun t s =>
      let (n, s1) := s.fresh
      let s2 := { s1 with entries := s1.entries.put n { v.newEntry s1 t queue owner scope det kind with lines := ls } }
      (s2.issueLines v.b.die ls).modSlice v.bid v.sid (fun x => { x with sticky := x.sticky || sticky }))
    .doneIn s { o with rels := rels }

/-- The null token is written where no lane is active (R319). -/
def nullToken (v : Env) : Res := .done { regs := [v.writeUni true 0] }

/-- A scope code of this chapter (R318). -/
def scopeOk (c hi : Nat) : Bool := decide (1 ≤ c) && decide (c ≤ hi)

/-! ### CPY (R320) -/

/-- The start of the stretch of one owner after the one that an address lies in (R172): a stretch is the part of a die, 2^50 bytes of the own
package, of a peer or of host space. -/
def nextStretch (va : Nat) : Nat := (va / 2 ^ 50 + 1) * 2 ^ 50

/-- Address formation of a range of at most 2^40 bytes: the lowest byte that no owner has, with its cause (R177). (DEDUCED, log 71) -/
def State.globFail (s : State) (va n : Nat) : Option (Half × Dword) :=
  let fail := fun (a : Nat) => match s.ownerOf (a % 2 ^ 64) with
    | .error c => some (c, BitVec.ofNat 64 a)
    | .ok _ => none
  (fail va).or (if nextStretch va < va + n then fail (nextStretch va) else none)

/-- Step 4 of R319 on one range. (DEDUCED, log 71) -/
def State.rangeFail (s : State) (b : Block) (x : Side) (n : Nat) : Option (Half × Dword) :=
  if n = 0 then none
  else match x with
    | .win o => if b.inWindow o n then none else some (0x0310, BitVec.ofNat 64 (max o b.scratch))
    | .glob va => s.globFail va n

/-- The row of CPY (R318). -/
def encCpy (f : Fields) : Enc :=
  { opc := 0xC0, lens := [2], dst := .w64, sa := if bitOf (modOf f) 5 then .u32 else .u64, sb := if bitOf (modOf f) 6 then .u32 else .u64,
    sc := .u32, md := 0x7F, extra := fun f _ => scopeOk (modOf f / 2 % 8) 5 }

/-- A side of a copy. -/
def sideOf (win : Bool) (o : Opd) : Side := if win then .win o.scalar else .glob o.scalar

/-- CPY (R320). -/
def execCpy (f : Fields) (s : State) : Host.Outcome State Fault Refusal :=
  runInstr (encCpy f) f
    (fun v s =>
      if v.act = 0 then nullToken v
      else
        let src := sideOf (bitOf v.md 5) v.a
        let dst := sideOf (bitOf v.md 6) v.o
        let n := v.c.scalar
        let scope := (scopeOf (v.md / 2 % 8)).getD .die
        match (s.rangeFail v.b src n).or (s.rangeFail v.b dst n) with
        | some (c, a) => .raise c a v.act
        | none =>
          match dst with
          | .glob _ =>
            if scope = .core then .raise 0x0102 0 v.act
            else issueEntry v s (v.md % 2) v.bid scope (bitOf v.md 4) (.copy src dst n) [] [] false
          | .win o =>
            issueEntry v s (v.md % 2) v.bid scope (bitOf v.md 4) (.copy src dst n) (s.destLines [v.bid] o n) [] false) s

/-! ### CPT (R321) -/

/-- Uniform registers read by the instruction itself under R52: their values, or how the instruction ends here. -/
inductive UniRegs where
  | got (vals : List Word)
  | stop (r : Res)

/-- Registers from `k` up read as uniform operands. -/
def Env.uniRegs (v : Env) (s : State) (k n : Nat) : UniRegs :=
  let ks := (List.range n).map (fun i => k + i)
  if ks.any (fun k => (v.x.reg k).isPend) then .stop (.wait s)
  else if !v.x.mode.getLsbD 14 && ks.any (fun k => v.x.reg k = .empty) then .stop (.raiseIn s 0x0201 0 v.x.mask)
  else if ks.any (fun k => (v.x.reg k).tag != .u) then .stop (.raiseIn s 0x0105 0 v.x.mask)
  else .got (ks.map (fun k => (v.x.reg k).lanes.l0))

/-- Some register of a run is empty, which then sets the sticky status (R92). -/
def Env.uniSticky (v : Env) (k n : Nat) : Bool := (List.range n).any (fun i => v.x.reg (k + i) = .empty)

/-- The row of CPT (R318). -/
def encCpt : Enc :=
  { opc := 0xC1, lens := [2, 3], dst := .w64, sa := .u64, sb := .ufirst, sc := .u64, lit := .role, md := 0x3F,
    extra := fun f _ =>
      let m := match f.lit? with | some l => l.toNat | none => 1
      scopeOk (modOf f / 2 % 8) 3 && decide (m < 65536) && (!bitOf (modOf f) 5 || m == 1) }

/-- The receivers of a CPT by its handle and mask (R321): blocks, or the cause. (DEDUCED, log 74) -/
def State.cptReceivers (s : State) (v : Env) (h mask : Nat) : Except Half (List Nat) :=
  match s.groupOf v.b h with
  | .error c => .error c
  | .ok (blk, _, g) =>
    if !blk || mask = 0 then .error 0x0102
    else
      let rs := (List.range 16).filter (fun i => bitOf mask i)
      if rs.any (fun r => decide (g.published.length ≤ r)) then .error 0x0109
      else .ok (rs.filterMap (s.memberAt true g))

/-- The bytes of a box (R321). -/
def TensorRec.boxBytes (r : TensorRec) : Nat :=
  elemSize r.ty * ((List.range r.rank).map (fun i => r.boxes.getD i 0 + 1)).prod

/-- The receivers of a CPT (R321): its own block, or those of its handle and mask. -/
def State.cptBlocks (s : State) (v : Env) : Except Half (List Nat) :=
  if bitOf v.md 5 then .ok [v.bid]
  else s.cptReceivers v v.o.scalar (match v.f.lit? with | some l => l.toNat | none => 1)

/-- CPT after its record and its receivers, with the coordinates: the delivery pair, the ranges and the issue. (DEDUCED, log 74) -/
def cptIssue (v : Env) (s : State) (r : TensorRec) (recv : List Nat) (xs : List Int) : Res :=
  let d := v.c.v.l0.toNat
  let doff := d % 2 ^ 21
  let boff := d / 2 ^ 32 % 2 ^ 21
  let n := r.boxBytes
  let out := fun (o n : Nat) => recv.findSome? (fun b => (s.blocks.get? b).bind (fun x => s.rangeFail x (.win o) n))
  if d ≠ doff + boff * 2 ^ 32 then .raiseIn s 0x0102 0 v.act
  else if boff % 16 ≠ 0 then .raiseIn s 0x030F (BitVec.ofNat 64 boff) v.act
  else match (out doff n).or (out boff 16) with
    | some (c, a) => .raiseIn s c a v.act
    | none =>
      let total := r.rank + if bitOf v.md 5 then 0 else 1
      issueEntry v s (v.md % 2) v.bid ((scopeOf (v.md / 2 % 8)).getD .die) (bitOf v.md 4) (.box r recv xs doff boff)
        (s.destLines recv doff n) (if v.f.lb then (List.range total).map (fun i => v.f.sb.toNat + i) else [])
        (v.uniSticky v.f.sb.toNat total)

/-- CPT (R321): the record, the coordinate registers that it names, the receivers, and the issue. (DEDUCED, log 74) -/
def execCpt (f : Fields) (s : State) : Host.Outcome State Fault Refusal :=
  runInstr encCpt f
    (fun v s =>
      let va := v.a.scalar
      if v.act = 0 then nullToken v
      else if va % 64 ≠ 0 then .raise 0x0311 (BitVec.ofNat 64 va) v.act
      else match s.readAsLd v va 64 v.act with
        | .stop r => r
        | .got s1 bytes =>
          let r := TensorRec.ofBytes bytes
          let k := v.f.sb.toNat + if bitOf v.md 5 then 0 else 1
          if !r.ok (bitOf (leNat ((bytes.drop 9).take 1)) 7) typeTensor || r.space || 2 ^ 20 < r.boxBytes || 60 < k + r.rank then
            .raiseIn s1 0x0311 (BitVec.ofNat 64 va) v.act
          else match v.uniRegs s1 k r.rank with
            | .stop q => q
            | .got xs => match s1.cptBlocks v with
              | .error c => .raiseIn s1 c 0 v.act
              | .ok recv => cptIssue v s1 r recv (xs.map BitVec.toInt)) s

/-! ### CPG, CPS (R324) -/

/-- A gather record from its 64 bytes. -/
def GatherRec.ofBytes (b : List Byte) : GatherRec :=
  let f := fun o n => leNat ((b.drop o).take n)
  { table := f 0 8, index := f 8 8, dense := f 0x10 8, count := f 0x18 4, rowb := f 0x1C 4, tlen := f 0x20 4, offset := f 0x24 4,
    window := bitOf (f 0x28 1) 0 }

/-- The checks of R324 on a record; `rest` is the value of bytes 0x28 on. -/
def GatherRec.ok (r : GatherRec) (rest : Nat) : Bool :=
  r.table % 8 == 0 && r.index % 4 == 0 && decide (1 ≤ r.count) && decide (r.count ≤ 2 ^ 20)
    && r.rowb % 16 == 0 && decide (16 ≤ r.rowb) && decide (r.rowb ≤ 2 ^ 20) && decide (1 ≤ r.tlen) && decide (r.tlen ≤ 2 ^ 28)
    && decide (rest ≤ 1) && (!r.window || decide (r.dense < 2 ^ 32))

/-- The dense side. -/
def GatherRec.side (r : GatherRec) : Side := if r.window then .win r.dense else .glob r.dense

/-- The row of CPG and CPS (R318). -/
def encCpg (opc : Nat) : Enc :=
  { opc := opc, lens := [2, 3], dst := .w64, sa := .u64, lit := .role, md := 0x1F, extra := fun f _ => scopeOk (modOf f / 2 % 8) 5 }

/-- CPG and CPS. -/
def cpgBody (gather : Bool) (v : Env) (s : State) : Res :=
  let va := v.uniAddr
  if v.act = 0 then nullToken v
  else if va % 64 ≠ 0 then .raise 0x0508 (BitVec.ofNat 64 va) v.act
  else match s.readAsLd v va 64 v.act with
    | .stop r => r
    | .got s1 bytes =>
      let r := GatherRec.ofBytes bytes
      let n := r.count * r.rowb
      let scope := (scopeOf (v.md / 2 % 8)).getD .die
      if !r.ok (leNat (bytes.drop 0x28)) then .raiseIn s1 0x0508 (BitVec.ofNat 64 va) v.act
      else match ((s1.rangeFail v.b r.side n).or (s1.rangeFail v.b (.glob r.index) (4 * r.count))).or
          (s1.rangeFail v.b (.glob r.table) (8 * r.tlen)) with
        | some (c, a) => .raiseIn s1 c a v.act
        | none =>
          if scope = .core && !(gather && r.window) then .raiseIn s1 0x0102 0 v.act
          else issueEntry v s1 (v.md % 2) v.bid scope (bitOf v.md 4) (if gather then .gather r else .scatter r)
            (if gather && r.window then s1.destLines [v.bid] r.dense n else []) [] false

/-- CPG (R324). -/
def execCpg (f : Fields) (s : State) : Host.Outcome State Fault Refusal := runInstr (encCpg 0xC2) f (cpgBody true) s

/-- CPS (R324). -/
def execCps (f : Fields) (s : State) : Host.Outcome State Fault Refusal := runInstr (encCpg 0xC3) f (cpgBody false) s

/-! ### QFEN (R326) -/

/-- The queues that QFEN's mask names. (DEDUCED, log 75) -/
def Env.fenceQueues (v : Env) : List (Nat × Nat) :=
  ((List.range 4).filter (fun q => bitOf v.md q)).map (fun q => (q, if q < 2 then v.bid else v.b.ctx))

/-- QFEN (R326). -/
def execQfen (f : Fields) (s : State) : Host.Outcome State Fault Refusal :=
  runInstr { opc := 0xC4, lens := [2], dst := .w64, md := 0xFF,
             extra := fun f _ => modOf f % 16 != 0 && scopeOk (modOf f / 16 % 8) 5 } f
    (fun v s =>
      if v.act = 0 then nullToken v
      else
        let qs := v.fenceQueues
        if !qs.all (fun q => s.queueRoom v.b.die q.1 q.2) then .wait s
        else issueEntry v s 6 v.bid ((scopeOf (v.md / 16 % 8)).getD .die) (bitOf v.md 7) (.fence qs) [] [] false) s

/-! ### QCAN (R329) -/

/-- The entry of a token that has not completed. -/
def State.entryOf (s : State) (t : Dword) : Option (Nat × Entry) := s.entries.find? (fun e => e.2.token == t && e.2.token != 0)

/-- The entry has not completed; an entry of a ring queue stays listed once it has, for the members that still ask about it. -/
def State.entryOpen (s : State) (eid : Nat) : Bool :=
  match s.entries.get? eid with
  | some e => e.state != .done && e.state != .failed
  | none => false

/-- The layer that a residency token belongs to. -/
def Ctx.layerOf (c : Ctx) (t : Dword) : Option Nat := (c.layers.find? (fun l => l.2.tokens.contains t)).map (fun l => l.1)

/-- QCAN on an entry of a copy or a ring queue: the entry fails, and QCAN waits until it is complete. -/
def qcanEntry (v : Env) (s : State) (eid : Nat) (e : Entry) : Res :=
  let mine := e.live
  let s1 := if mine then (s.failEntry eid 0x0506 0).modEntry eid (fun e => { e with cancelledBy := some (v.bid, v.sid) }) else s
  let caused := mine || e.cancelledBy == some (v.bid, v.sid)
  .wait (s1.modSlice v.bid v.sid (fun x => { x with prog := .pending (2 * eid + if caused then 1 else 0) }))

/-- QCAN on a token (R329, R339, R402, R410). -/
def qcanToken (v : Env) (s : State) (t : Dword) : Res :=
  let done := fun (s : State) (ok : Bool) => Res.doneIn s { pred := predAll v ok }
  match s.tokenView v.b.ctx t with
  | none => .raise 0x0505 0 v.act
  | some w =>
    if w.state ≠ 0 || tokQueue t = 6 then done s false
    else if tokQueue t = 4 then
      match s.nodes.find? (fun n => n.2.token == t) with
      | some (n, _) => let (s1, ok) := s.cancelNode n; done s1 ok
      | none => done s false
    else if tokQueue t = 5 then
      match (s.ctxs.get? v.b.ctx).bind (fun c => c.layerOf t) with
      | some l => let (s1, ok) := s.laye v.b.ctx l; done s1 ok
      | none => done s false
    else match s.entryOf t with
      | some (eid, e) => qcanEntry v s eid e
      | none => done s false

/-- QCAN (R329). -/
def execQcan (f : Fields) (s : State) : Host.Outcome State Fault Refusal :=
  runInstr { opc := 0xC8, lens := [2], dst := .pd, sa := .u64 } f
    (fun v s =>
      if v.act = 0 then .done {}
      else match v.x.prog with
        | .pending k =>
          if s.entryOpen (k / 2) then .wait s else .done { pred := predAll v (k % 2 == 1) }
        | _ => qcanToken v s v.a.v.l0) s

end Sys2Proof.Machine
end

