-- ==== Sys2Proof/Machine/Engine.lean ====
section
/-! DEFINITION. The copy engines (R313 to R317, R320 to R326): the turn of an entry, its pieces, its end and its completion. -/

namespace Sys2Proof.Machine

/-! ### Outcomes of an engine's accesses -/

/-- What an engine's access gives: a value; nothing yet; or a cause with its address. -/
inductive EngRes (α : Type) where
  | ok (x : α)
  | wait
  | fail (c : Half) (a : Nat)

/-- Several outcomes together (R313, R314): a wait, until every one has come; then the failure of the lowest address, else the values. -/
def EngRes.all {α : Type} (rs : List (EngRes α)) : EngRes (List α) :=
  if rs.any (fun r => match r with | .wait => true | _ => false) then .wait
  else match leastUsed (rs.filterMap (fun r => match r with | .fail c a => some (a, c) | _ => none)) with
  | some (a, c) => .fail c a
  | none => .ok (rs.filterMap (fun r => match r with | .ok x => some x | _ => none))

/-- Two outcomes together, as `EngRes.all` takes several. -/
def EngRes.and {α β : Type} (x : EngRes α) (y : EngRes β) : EngRes (α × β) :=
  match x, y with
  | .wait, _ => .wait
  | _, .wait => .wait
  | .fail c a, .fail d b => if a ≤ b then .fail c a else .fail d b
  | .fail c a, _ => .fail c a
  | _, .fail d b => .fail d b
  | .ok u, .ok w => .ok (u, w)

/-- An access for each element of a list, in order. -/
def State.mapEng {α β : Type} (s : State) (f : State → β → State × EngRes α) (xs : List β) : State × EngRes (List α) :=
  let r := xs.foldl (fun (acc : State × List (EngRes α)) x => let (s1, y) := f acc.1 x; (s1, acc.2 ++ [y])) (s, [])
  (r.1, EngRes.all r.2)

/-- A range of addresses by 128-byte sectors. -/
def sectorsAt : Nat → Nat → Nat → List (Nat × Nat)
  | 0, _, _ => []
  | fuel + 1, va, n =>
    if n = 0 then []
    else
      let k := min n (128 - va % 128)
      (va, k) :: sectorsAt fuel ((va + k) % 2 ^ 64) (n - k)

/-- The block number under which requests of engines stand at a pair: that of no block. -/
def noBlock : Nat := 2 ^ 64

/-- The core number of an engine's writes. -/
def engineCore : Nat := 0xFE

/-! ### Verdicts and reads (R313, R314) -/

/-- The verdict on a sector for an entry (R314): its place, a wait for a page of a layer, or the cause. (DEDUCED, log 71) -/
def State.engVerdict (s : State) (eid : Nat) (e : Entry) (k : Access) (o : Owner) (va n : Nat) : State × EngRes Placed :=
  match s.verdict e.ctx o va k e.keys .slice with
  | (s1, .fail c) => (s1, .fail c va)
  | (s1, .arriving l) =>
    let y := leafLayer l.entry
    ((s1.requestByLeaf e.ctx l.entry).modEntry eid (fun x => { x with
      onLayer := if x.onLayer.contains (y, va / 65536) then x.onLayer else x.onLayer ++ [(y, va / 65536)] }), .wait)
  | (s1, .pass l) =>
    let pl := match o with | .host p => Place.host p l.pa l.entry | _ => Place.own o.die l.pa l.entry
    (s1, .ok ⟨0, 0, 0, va, n, pl⟩)

/-- A sector of a pod peer read for an entry: what the peer answered, or the request (R313, R427). (DEDUCED, log 72) -/
def State.engPeerRead (s : State) (eid : Nat) (e : Entry) (pkg die va n : Nat) : State × EngRes (List Byte) :=
  let peer := peerCode pkg die
  let off := va % 2 ^ 50
  match e.buf.get? (peer * 2 ^ 50 + off), e.faults.get? (peer * 2 ^ 50 + off) with
  | _, some c => (s, .fail c va)
  | some bytes, none => (s, .ok bytes)
  | none, none =>
    let r : PeerReq := { die := e.die, peer := peer, ctx := e.ctx, type := 0, op := 0, len := n, addr := off, keys := e.keys, payload := [],
                         bid := noBlock, sid := 0, fill := none, issue := none, entry := some eid }
    let sent := (s.pair e.die peer).out.any (fun o => o.entry == some eid && o.pkt.addr.toNat == off)
    (if sent || !s.pairRoom r then s else s.sendPeer r, .wait)

/-- Bytes of a die's memory as an entry reads them: at the home or, where that can still be what it reads, from a guest line; an
ordered block's entry takes its view (R351). -/
def State.engMemRead (s : State) (e : Entry) (d pa va n : Nat) (leaf : Dword) : State × List Byte :=
  if !e.view.isEmpty then
    let s1 := s.recall d pa
    (s1, s1.viewRead { (default : Block) with roundBytes := e.view } d pa n)
  else
    let r : Req := {
      stage := .toBay, op := .read, die := e.die, core := engineCore, bid := e.bid.getD noBlock, sid := e.sid, ctx := e.ctx, va := va,
      host := none, home := d, pa := pa, size := n, keys := e.keys, leaf := leaf, phase := none, stamp := Clock.zero,
      fill := none, issue := none, atHome := false, alloc := false, remote := false }
    let home := let (s1, bytes, _) := s.homeRead d pa n (leafPol leaf != 3); (s1, bytes)
    match (if d = e.die then none else s.guestRead r) with
    | some (q, bytes) =>
      if !q.poison && bytes != s.physRead d pa n && s.choose (physKey d pa) then (s, bytes) else home
    | none => home

/-- A sector read for an entry (R313, R315). -/
def State.engSector (s : State) (eid : Nat) (e : Entry) (q : Nat × Nat) : State × EngRes (List Byte) :=
  match s.ownerOf q.1 with
  | .error c => (s, .fail c q.1)
  | .ok (.peer pkg die) => s.engPeerRead eid e pkg die q.1 q.2
  | .ok o =>
    match s.engVerdict eid e .read o q.1 q.2 with
    | (s1, .ok p) =>
      (match p.place with
       | .own d pa leaf =>
         if !s1.reaches e.die d then (s1, .wait)
         else match (if s1.viewPoison { (default : Block) with roundBytes := e.view } d pa q.2 then s1.firstPoison d pa q.2 else none) with
           | some k => (s1, .fail 0x030C (q.1 + k))
           | none => let (s2, bytes) := s1.engMemRead e d pa q.1 q.2 leaf; (s2, .ok bytes)
       | .host h pa leaf => let (s2, bytes) := s1.hostFetch h pa q.2 leaf; (s2, .ok bytes)
       | _ => (s1, .wait))
    | (s1, .wait) => (s1, .wait)
    | (s1, .fail c a) => (s1, .fail c a)

/-- A range of global addresses read for an entry. -/
def State.engRead (s : State) (eid : Nat) (e : Entry) (va n : Nat) : State × EngRes (List Byte) :=
  match s.mapEng (fun s q => s.engSector eid e q) (sectorsAt (n / 128 + 2) va n) with
  | (s1, .ok ds) => (s1, .ok ds.flatten)
  | (s1, .wait) => (s1, .wait)
  | (s1, .fail c a) => (s1, .fail c a)

/-- Bytes of a block's window, in the core store or in the saved image (R191). -/
def State.windowRead (s : State) (bid o n : Nat) : List Byte :=
  match s.blocks.get? bid with
  | none => List.replicate n 0
  | some b => if b.state = .saved then s.savedRead bid b 3 b.windowVa o n else b.window.readList o n

/-- Bytes of the issuing block's window read for an entry, subject to presence (R320). -/
def State.engWindow (s : State) (e : Entry) (o n : Nat) : EngRes (List Byte) :=
  match e.bid with
  | none => .wait
  | some bid =>
    let ls := windowLines o n
    let at? := fun (p : Nat → Bool) => (ls.find? p).map (fun l => max o (l * 128))
    match at? (fun l => (s.presenceAt bid l).state == .abandoned) with
    | some a => .fail 0x030D a
    | none =>
      if ls.any (fun l => (s.presenceAt bid l).state == .absent) then .wait
      else match at? (fun l => match s.blocks.get? bid with | some b => b.winPoison.contains l | none => false) with
        | some a => .fail 0x030C a
        | none => .ok (s.windowRead bid o n)

/-! ### The pieces of an entry (R313, R320, R322, R325) -/

/-- A stretch of a piece: where its bytes come from, and where they go. -/
structure Seg where
  src : Sum (List Byte) Side
  dst : Side
  n : Nat

/-- A side moved by an offset. -/
def Side.at (x : Side) (i : Nat) : Side :=
  match x with
  | .glob va => .glob ((va + i) % 2 ^ 64)
  | .win o => .win (o + i)

/-- The bytes of an entry's sequence (R313). -/
def EntryKind.total (k : EntryKind) : Nat :=
  match k with
  | .copy _ _ n => n
  | .args b => b.length
  | .box r _ _ _ _ => r.boxBytes
  | .gather r => r.count * r.rowb
  | .scatter r => r.count * r.rowb
  | _ => 0

/-- The piece that an entry stands at: its offset and size (R313). -/
def Entry.pieceSpan (e : Entry) : Nat × Nat := (e.piece * 4096, min 4096 (e.kind.total - e.piece * 4096))

/-- The coordinates in a box of an element by its number, dimension 0 fastest (R322). -/
def boxCoords : List Nat → Nat → List Nat
  | [], _ => []
  | b :: bs, i => i % (b + 1) :: boxCoords bs (i / (b + 1))

/-- Element `i` of a box: its bytes, or the address of its source (R198, R322). -/
def TensorRec.boxElem (r : TensorRec) (origin : List Int) (i : Nat) : Sum (List Byte) Side :=
  let xs := ((boxCoords (r.boxes.take r.rank) i).zip origin).map (fun p => p.2 + (p.1 : Int))
  if r.inBounds xs then .inr (.glob (r.addrOf xs % 2 ^ 64)) else .inl (leBytes (elemSize r.ty) r.fillValue)

/-- The stretches of a piece of a gather or scatter: the rows that it touches, with the part of each (R325). -/
def GatherRec.rowParts (r : GatherRec) (lo n : Nat) : List (Nat × Nat × Nat) :=
  (List.range ((lo + n - 1) / r.rowb - lo / r.rowb + 1)).map (fun k =>
    let i := lo / r.rowb + k
    let a := max lo (i * r.rowb)
    (i, a, min (lo + n) ((i + 1) * r.rowb) - a))

/-- One row of a gather or scatter through its index and table (R325): the address of its bytes, or none for an invalid row. -/
def State.gatherRow (s : State) (eid : Nat) (e : Entry) (r : GatherRec) (i : Nat) : State × EngRes (Option Nat) :=
  let ia := (r.index + 4 * i) % 2 ^ 64
  match s.engRead eid e ia 4 with
  | (s1, .wait) => (s1, .wait)
  | (s1, .fail c a) => (s1, .fail c a)
  | (s1, .ok xb) =>
    let x := leNat xb
    if r.tlen ≤ x then (s1, .fail 0x0507 ia)
    else
      let ta := (r.table + 8 * x) % 2 ^ 64
      match s1.engRead eid e ta 8 with
      | (s2, .wait) => (s2, .wait)
      | (s2, .fail c a) => (s2, .fail c a)
      | (s2, .ok tb) =>
        let t := leNat tb
        if bitsOf t 3 1 ≠ 0 then (s2, .fail 0x0507 ta)
        else (s2, .ok (if bitOf t 0 then some ((t / 16 * 16 + r.offset) % 2 ^ 64) else none))

/-- The stretch of one row's part (R325): none where nothing is written. -/
def GatherRec.seg (r : GatherRec) (gather : Bool) (q : Nat × Nat × Nat) (a : Option Nat) : Option Seg :=
  let dense := r.side.at q.2.1
  match a with
  | some a =>
    let m := Side.glob ((a + (q.2.1 - q.1 * r.rowb)) % 2 ^ 64)
    some (if gather then ⟨.inr m, dense, q.2.2⟩ else ⟨.inr dense, m, q.2.2⟩)
  | none => if gather then some ⟨.inl (List.replicate q.2.2 0), dense, q.2.2⟩ else none

/-- The stretches of the piece that an entry stands at. -/
def State.engSegs (s : State) (eid : Nat) (e : Entry) : State × EngRes (List Seg) :=
  let (lo, n) := e.pieceSpan
  match e.kind with
  | .copy src dst _ => (s, .ok [⟨.inr (src.at lo), dst.at lo, n⟩])
  | .args b => (s, .ok [⟨.inl ((b.drop lo).take n), .win lo, n⟩])
  | .box r _ origin doff _ =>
    let z := elemSize r.ty
    (s, .ok ((List.range (n / z)).map (fun k => ⟨r.boxElem origin (lo / z + k), .win (doff + lo + k * z), z⟩)))
  | .gather r => rows s r lo n true
  | .scatter r => rows s r lo n false
  | _ => (s, .ok [])
where
  rows (s : State) (r : GatherRec) (lo n : Nat) (gather : Bool) : State × EngRes (List Seg) :=
    let qs := r.rowParts lo n
    match s.mapEng (fun s q => s.gatherRow eid e r q.1) qs with
    | (s1, .ok as) => (s1, .ok ((qs.zip as).filterMap (fun p => r.seg gather p.1 p.2)))
    | (s1, .wait) => (s1, .wait)
    | (s1, .fail c a) => (s1, .fail c a)

/-- The bytes of a stretch. -/
def State.engSource (s : State) (eid : Nat) (e : Entry) (g : Seg) : State × EngRes (List Byte) :=
  match g.src with
  | .inl bytes => (s, .ok bytes)
  | .inr (.win o) => (s, s.engWindow e o g.n)
  | .inr (.glob va) => s.engRead eid e va g.n

/-- A sector that a piece writes: its place, or the peer's die and offset; with its place in the stretch. -/
structure EngDest where
  off : Nat
  n : Nat
  place : Option Placed
  peer : Nat
  addr : Nat

/-- The verdicts on a stretch's destination (R313). (DEDUCED, log 71) -/
def State.engDests (s : State) (eid : Nat) (e : Entry) (g : Seg) : State × EngRes (List EngDest) :=
  match g.dst with
  | .win _ => (s, .ok [])
  | .glob va =>
    s.mapEng (fun s q => match s.ownerOf q.1 with
      | .error c => (s, .fail c q.1)
      | .ok (.peer pkg die) => (s, .ok ⟨(q.1 + 2 ^ 64 - va) % 2 ^ 64, q.2, none, peerCode pkg die, q.1 % 2 ^ 50⟩)
      | .ok o => match s.engVerdict eid e .write o q.1 q.2 with
        | (s1, .ok p) => (s1, .ok ⟨(q.1 + 2 ^ 64 - va) % 2 ^ 64, q.2, some p, 0, 0⟩)
        | (s1, .wait) => (s1, .wait)
        | (s1, .fail c a) => (s1, .fail c a)) (sectorsAt (g.n / 128 + 2) va g.n)

/-- A piece all of whose verdicts passed, read in full: its stretches with their bytes and destinations. -/
abbrev Piece := List (Seg × List Byte × List EngDest)

/-- The request of a WRITE to a peer. -/
def Entry.peerWrite (e : Entry) (eid : Nat) (d : EngDest) (bytes : List Byte) : PeerReq :=
  { die := e.die, peer := d.peer, ctx := e.ctx, type := 1, op := 0, len := d.n, addr := d.addr, keys := e.keys,
    payload := (bytes.drop d.off).take d.n, bid := noBlock, sid := 0, fill := none, issue := none, entry := some eid }

/-- The requests of a piece to peers. -/
def Piece.peerReqs (p : Piece) (eid : Nat) (e : Entry) : List PeerReq :=
  p.flatMap (fun q => (q.2.2.filter (fun d => d.place.isNone)).map (fun d => e.peerWrite eid d q.2.1))

/-- The ordered block that issued an entry, while its node still commits rounds; a detached entry goes on after that (R317). -/
def State.orderedOf (s : State) (e : Entry) : Option (Nat × Block) :=
  (e.bid.bind (fun bid => (s.blocks.get? bid).map (fun b => (bid, b)))).filter (fun q => s.isOrdered q.2
    && (match s.nodes.get? q.2.node with | some x => x.active | none => false))

/-- The writes of an ordered block's piece find the block's share of the round log full (R392): the address of the first that does. -/
def State.logShort (s : State) (e : Entry) (ps : List Placed) : Option Nat :=
  match s.orderedOf e with
  | none => none
  | some (_, b) => if (s.holdAll b ps).2 then none
    else ((List.range ps.length).find? (fun i => !(s.holdAll b (ps.take (i + 1))).2)).map (fun i => (ps.getD i default).va)

/-- The piece that an entry stands at evaluated: verdicts, reads, and room for its writes (R313). (DEDUCED, log 72) -/
def State.engPiece (s : State) (eid : Nat) (e : Entry) : State × EngRes Piece :=
  match s.engSegs eid e with
  | (s1, .wait) => (s1, .wait)
  | (s1, .fail c a) => (s1, .fail c a)
  | (s1, .ok segs) =>
    let (s2, ds) := s1.mapEng (fun s g => s.engDests eid e g) segs
    let (s3, bs) := s2.mapEng (fun s g => s.engSource eid e g) segs
    match ds.and bs with
    | .wait => (s3, .wait)
    | .fail c a => (s3, .fail c a)
    | .ok (ds, bs) =>
      let p : Piece := segs.zip (bs.zip ds)
      let own := (ds.flatten).filterMap (fun d => d.place)
      if !s3.reachAll e.die own || !s3.pairsRoom (p.peerReqs eid e) then (s3, .wait)
      else match s3.logShort e own with
        | some a => (s3, .fail 0x0604 a)
        | none => (s3, .ok p)

/-! ### Writing (R313, R315, R322) -/

/-- Bytes delivered into a window, in the core store or in the saved image; a retired block's are discarded (R191, R192).
(DEDUCED, log 100) -/
def State.windowWrite (s : State) (bid o : Nat) (data : List Byte) : State :=
  match s.blocks.get? bid with
  | none => s
  | some b =>
    match b.state with
    | .resident => s.modBlock bid (fun b => b.winWrite o data)
    | .saved => s.savedWrite bid b 3 b.windowVa o data
    | .retired => s

/-- The entry is a shadow's, whose writes are not applied (R354). -/
def State.ofShadow (s : State) (e : Entry) : Bool :=
  match e.bid.bind (fun bid => s.blocks.get? bid) with | some b => b.shadowOf.isSome | none => false

/-- A sector written by an entry (R212, R313, R351): at its home, through a host port, or as a write of its ordered block, whose line then holds
the round's state (R353). -/
def State.engWrite (s : State) (eid : Nat) (e : Entry) (p : Placed) (data : List Byte) : State :=
  match p.place with
  | .own d pa leaf =>
    (match s.orderedOf e with
     | some (bid, b) => (s.holdAll b [p]).1.modBlock bid (fun b => b.lateWrite ⟨.token e.token, e.sid, d, pa, p.va, data, s.nextId, leafPol leaf != 3⟩)
     | none =>
       if s.ofShadow e then s else
       let (s1, st) := s.homeWrite d pa data e.die engineCore eid (leafPol leaf != 3)
       s1.modEntry eid (fun x => { x with stamp := x.stamp.join st }))
  | .host h pa leaf =>
    if s.ofShadow e then s
    else if s.byCxl leaf then (s.holdCxl h pa data.length).hostWrite h pa data
    else (s.hostWrite h pa data).modEntry eid (fun x => { x with ports := if x.ports.contains h then x.ports else h :: x.ports })
  | _ => s

/-- The windows that an entry's bytes go to. (DEDUCED, log 72) -/
def Entry.receivers (e : Entry) : List Nat :=
  match e.kind with
  | .box _ recv _ _ _ => recv
  | _ => e.bid.toList

/-- A stretch written. (DEDUCED, log 72) -/
def State.engStretch (s : State) (eid : Nat) (e : Entry) (q : Seg × List Byte × List EngDest) : State :=
  match q.1.dst with
  | .win o => e.receivers.foldl (fun s b => s.windowWrite b o q.2.1) s
  | .glob _ => q.2.2.foldl (fun s d => match d.place with
      | some p => s.engWrite eid e p ((q.2.1.drop d.off).take d.n)
      | none => if s.ofShadow e then s else s.sendPeer (e.peerWrite eid d q.2.1)) s

/-- The window range of an entry's destination. -/
def EntryKind.winStart (k : EntryKind) : Nat :=
  match k with
  | .copy _ (.win o) _ => o
  | .box _ _ _ doff _ => doff
  | .gather r => r.dense
  | _ => 0

/-- The poison of a window line cleared by an entry that has written all of it (R185). -/
def Block.lineWritten (b : Block) (line : Nat) : Block := { b with winPoison := b.winPoison.filter (fun l => l != line) }

/-- The lines of an entry that have all their bytes once the sequence is written up to `hi` (R188); one that the entry covers is
poisoned no more (R185). -/
def State.engLines (s : State) (eid : Nat) (e : Entry) (hi : Nat) : State :=
  let full := fun (l : Nat × Nat) => decide ((l.2 + 1) * 128 ≤ e.kind.winStart + hi) || hi == e.kind.total
  let covers := fun (l : Nat) => decide (e.kind.winStart ≤ l * 128) && decide ((l + 1) * 128 ≤ e.kind.winStart + hi)
  let done := e.lines.filter full
  let s1 := done.foldl (fun s l => s.modPresence l.1 l.2 Presence.landed) s
  let s2 := (done.filter (fun l => covers l.2)).foldl (fun s l => s.modBlock l.1 (fun b => b.lineWritten l.2)) s1
  s2.modEntry eid (fun x => { x with lines := e.lines.filter (fun l => !full l) })

/-- `n` bytes counted into the barrier object of a window (R245, R246): the cause where the delivery is refused.
(DEDUCED, log 73) -/
def State.countDelivery (s : State) (bid boff n : Nat) : State × Option Half :=
  match s.blocks.get? bid with
  | none => (s, none)
  | some b =>
    if b.state = .retired then (s, none)
    else
      let o := Memory.barObj (Memory.writeList [] 0 (s.windowRead bid boff 16)) 0
      let (x, c) := o.deliver n
      (s.windowWrite bid boff x.bytes, c)

/-- A piece counted at every receiver's barrier; the first refusal stands. -/
def State.engBarriers (s : State) (e : Entry) (n : Nat) : State × Option Half :=
  match e.kind with
  | .box _ recv _ _ boff =>
    recv.foldl (fun acc b => let (s1, c) := acc.1.countDelivery b boff n; (s1, acc.2.or c)) (s, none)
  | _ => (s, none)

/-- The bytes that an entry has written in poisoned sectors; a sector that it has covered whole is poisoned no more (R185). What an ordered
block's entry or a shadow's writes is not in memory (R351, R354). (DEDUCED, log 100) -/
def State.coverPoison (s : State) (eid : Nat) (e : Entry) (ps : List Placed) : State :=
  if s.ofShadow e || (s.orderedOf e).isSome then s else
  let keys := ps.flatMap (fun p => match p.place with
    | .own d pa _ => ((List.range p.size).map (fun i => physKey d pa + i)).filter (fun k => s.poison.contains (k / 128))
    | _ => [])
  let old := match s.entries.get? eid with | some e => e.cover | none => []
  let all := old ++ keys.filter (fun k => !old.contains k)
  let s1 := s.modEntry eid (fun x => { x with cover := all })
  { s1 with poison := s1.poison.filter (fun k => !(List.range 128).all (fun i => all.contains (k * 128 + i))) }

/-- An entry goes on to its next piece, with the places written (R313, R314): its bytes and lines are counted, and with the last piece it ends. A
delivery that a barrier refuses fails the entry, with the address 0, since no rule names one. (DEDUCED, log 43; DESIGN CHOICE, log 126) -/
def State.engAdvance (s : State) (eid : Nat) (e : Entry) (ps : List Placed) : State :=
  let (lo, n) := e.pieceSpan
  let hi := lo + n
  let s2 := s.coverPoison eid e ps
  let s3 := (s2.engLines eid e hi).modEntry eid (fun x => { x with
    piece := x.piece + 1, bytes := x.bytes + n, buf := [], onLayer := x.onLayer.filter (fun q => s.pageAway x.ctx (q.2 * 65536)),
    sent := false, todo := [], state := if e.kind.total ≤ hi && x.state = .running then .ending false else x.state })
  let s4 := if e.token = 0 then s3 else s3.modTok e.token (fun r => { r with bytes := r.bytes + n })
  match s4.engBarriers e n with
  | (s5, none) => s5
  | (s5, some c) => s5.modEntry eid (fun x => { x with state := .running }) |>.failPiece eid c 0

/-- The lowest fault that peers have answered for the piece that an entry has sent. -/
def Entry.peerFault (e : Entry) : Option (Nat × Half) := leastUsed e.faults

/-- The places of the own package that a piece writes. -/
def Piece.places (p : Piece) : List Placed := p.flatMap (fun q => q.2.2.filterMap (fun d => d.place))

/-- A piece that writes no pod peer performed. -/
def State.engPerform (s : State) (eid : Nat) (e : Entry) (p : Piece) : State :=
  s.asOneWrite s.nextId (4 * eid + 2) ((p.foldl (fun s q => s.engStretch eid e q) s).engAdvance eid e p.places)

/-- The writes of a piece to pod peers sent (R313): a peer's verdict comes with its answer, and the piece's writes in the own package wait for
all of them. (DEDUCED, log 72) -/
def State.engSend (s : State) (eid : Nat) (e : Entry) (p : Piece) : State :=
  let s1 := match s.orderedOf e with | some (_, b) => (s.holdAll b p.places).1 | none => s
  ((p.peerReqs eid e).foldl State.sendPeer s1).modEntry eid (fun x => { x with
    sent := true, todoAt := s1.nextId, todo := p.flatMap (fun q => q.2.2.filterMap (fun d => d.place.map (fun pl => (pl, (q.2.1.drop d.off).take d.n)))) })

/-- A piece whose writes to pod peers have all been answered performed in the own package; or failed with the lowest fault among the answers. -/
def State.engFinish (s : State) (eid : Nat) (e : Entry) : State :=
  match e.peerFault with
  | some (a, c) => s.failPiece eid c (BitVec.ofNat 64 a)
  | none =>
  s.asOneWrite s.nextId (4 * eid + 2) ((e.todo.foldl (fun s q => s.engWrite eid e q.1 q.2) s).engAdvance eid e (e.todo.map (fun q => q.1)))

/-! ### The events (R314, R316, R326) -/

/-- An entry's remote requests have all been answered. -/
def State.entryAcked (s : State) (eid : Nat) : Bool := !s.pairs.any (fun p => p.2.out.any (fun o => o.entry == some eid))

/-- The queues that an entry stands in. -/
def Entry.queues (e : Entry) : List (Nat × Nat) :=
  match e.kind with
  | .fence qs => qs
  | _ => [(e.queue, e.owner)]

/-- Every earlier entry of the entry's queues has performed its writes, and every earlier fence has completed (R314, R326). -/
def State.turnCame (s : State) (eid : Nat) (e : Entry) : Bool :=
  !s.entries.any (fun f => decide (f.1 < eid) && e.queues.any (fun q => f.2.inQueue e.die q.1 q.2)
    && (f.2.live || f.2.sent || !s.entryAcked f.1))

/-- The entry is one of a copy queue or run by a node. -/
def EntryKind.copies (k : EntryKind) : Bool :=
  match k with
  | .copy _ _ _ => true | .args _ => true | .box _ _ _ _ _ => true | .gather _ => true | .scatter _ => true
  | _ => false

/-- ENTRY_TURN (R314): an entry with no bytes ends at once (R320). -/
def execEntryTurn (entry : Nat) (s : State) : Host.Outcome State Fault Refusal :=
  match s.entries.get? entry with
  | none => .next s
  | some e =>
    if e.state = .queued && e.kind.copies && s.ctxRuns e.ctx && s.turnCame entry e then
      let st : EState := if e.kind.total = 0 then .ending false else .running
      let s1 := s.modEntry entry (fun x => { x with state := st })
      .next (if e.token = 0 then s1 else s1.modTok e.token (fun r => { r with state := .running }))
    else .next s

/-- The issuing slice's earlier requests are performed (R315). -/
def State.issuerDone (s : State) (eid : Nat) (e : Entry) : Bool :=
  match e.bid with
  | none => true
  | some bid => !s.reqs.any (fun r => decide (r.1 < eid) && r.2.bid == bid && r.2.sid == e.sid)

/-- The entry's engine can work on its piece now. -/
def State.engReady (s : State) (eid : Nat) (e : Entry) : Bool :=
  e.state == .running && e.kind.copies && s.ctxRuns e.ctx && s.issuerDone eid e && !e.sent

/-- PIECE_WRITE (R313, R314): a piece with writes to pod peers is performed once they are answered, which ends at its boundary whatever becomes
of the entry meanwhile. -/
def execPieceWrite (entry : Nat) (s : State) : Host.Outcome State Fault Refusal :=
  match s.entries.get? entry with
  | none => .next s
  | some e =>
    if e.sent then .next (if s.entryAcked entry then s.engFinish entry e else s)
    else if !s.engReady entry e then .next s
    else match s.engPiece entry e with
      | (s1, .ok p) => .next (if (p.peerReqs entry e).isEmpty || s1.ofShadow e then s1.engPerform entry e p else s1.engSend entry e p)
      | (s1, .wait) => .next s1
      | (_, .fail _ _) => .next s

/-- PIECE_FAIL (R314). -/
def execPieceFail (entry : Nat) (s : State) : Host.Outcome State Fault Refusal :=
  match s.entries.get? entry with
  | none => .next s
  | some e =>
    if !s.engReady entry e then .next s
    else match s.engPiece entry e with
      | (s1, .fail c a) => .next (s1.failPiece entry c (BitVec.ofNat 64 a))
      | _ => .next s

/-- The accesses of the issuing slice and of its core that came before an issue have taken effect at the scope (R218, R232). -/
def State.beforeIssueDone (s : State) (eid : Nat) (e : Entry) : Bool :=
  match e.bid with
  | none => true
  | some bid =>
    match s.blocks.get? bid with
    | none => true
    | some b =>
      let k := e.scope.code
      !s.reqs.any (fun r => decide (r.1 < eid) && r.2.bid == bid && r.2.sid == e.sid)
      && (k < 2 || !s.reqs.any (fun r => decide (r.1 < eid) && r.2.die == b.die && r.2.core == b.core && r.2.writes && r.2.home == b.die
            && r.2.host.isNone))
      && (k < 3 || s.offDieDone b.die b.core eid)
      && (k < 4 || s.podDone b.die b.core bid e.sid eid)

/-- An entry's own writes have taken effect at its scope (R316, R232): acknowledged by peers; at pod scope its sequenced messages are
applied everywhere. (DEDUCED, log 73) -/
def State.writesDone (s : State) (eid : Nat) (e : Entry) : Bool :=
  let mine := fun (req : Nat) => match e.kind with | .fence _ => decide (req < eid) | _ => req == eid
  s.entryAcked eid
  && (e.scope.code < 4 || !s.msgs.any (fun m => m.2.fromDie == e.die && m.2.core == engineCore && mine m.2.req))

/-- The host ports that an entry wrote, and those that the core of its issuing slice has written, which its completion releases too (R218, R232). -/
def State.entryPorts (s : State) (e : Entry) : List Nat :=
  let core := match e.bid.bind (fun k => s.blocks.get? k) with
    | some b => (s.core b.die b.core).portsWritten.map (fun (p : Nat × Nat) => p.1)
    | none => []
  e.ports ++ core.filter (fun p => !e.ports.contains p)

/-- Flushing reads sent on the host ports of an entry's release (R316). (DEDUCED, log 73) -/
def State.flushEntry (s : State) (eid : Nat) (e : Entry) : State :=
  let r := (s.entryPorts e).foldl (fun (acc : State × List Nat) p =>
    let (n, s1) := acc.1.fresh
    (s1.modPort p (fun h => { h with flushes := h.flushes ++ [n] }), acc.2 ++ [n])) (s, [])
  r.1.modEntry eid (fun x => { x with flush := some r.2 })

/-- What a later fence of its queues takes over from an entry that completes (R326). (DEDUCED, log 75) -/
def State.passToFences (s : State) (eid : Nat) (e : Entry) : State :=
  { s with entries := s.entries.map (fun (f : Nat × Entry) =>
      match f.2.kind with
      | .fence qs =>
        if eid < f.1 && f.2.die == e.die && e.queues.any (fun q => qs.contains q) then
          (f.1, { f.2 with stamp := f.2.stamp.join e.stamp, ports := f.2.ports ++ e.ports.filter (fun p => !f.2.ports.contains p) })
        else f
      | _ => f) }

/-- An entry that has ended completes once all of its effects stand at its scope (R232, R316): the token's record takes its outcome,
its node what failed, and it leaves its queue; an entry of a collective stays listed for the other members. -/
def State.completeEntry (s : State) (eid : Nat) (e : Entry) (failed : Bool) : State :=
  if !s.writesDone eid e || !s.beforeIssueDone eid e then s
  else if e.scope.code = 5 && e.flush.isNone then s.flushEntry eid e
  else if !s.flushesDone (e.flush.getD []) then s
  else
    let st := e.stamp.join (s.die e.die).vc
    let s1 := if e.token = 0 then s
      else (s.finishToken e.token failed e.cause e.bytes e.addr).modTok e.token (fun r => { r with stamp := st, sat := e.sat })
    let s2 := if e.attached then s1.modNode e.node (fun n => { (if failed then n.noteFail eid e.cause else n) with
        bytes := if e.token = 0 then e.bytes else n.bytes, entries := n.entries ++ [(e.die, eid)], stamp := n.stamp.join e.stamp
        ports := n.ports ++ e.ports.filter (fun p => !n.ports.contains p) }) else s1
    let s3 := s2.passToFences eid { e with stamp := st }
    match e.kind with
    | .ring _ _ => s3.modEntry eid (fun x => { x with state := if failed then .failed else .done })
    | _ => { s3 with entries := s3.entries.erase eid }

/-- ENTRY_COMPLETE (R316). -/
def execEntryComplete (entry : Nat) (s : State) : Host.Outcome State Fault Refusal :=
  match s.entries.get? entry with
  | none => .next s
  | some e => match e.kind.copies, e.state with
    | true, .ending failed => .next (if e.sent then s else s.completeEntry entry e failed)
    | _, _ => .next s

/-- FENCE_ENTRY_COMPLETE (R326): every earlier entry of the named queues has completed. -/
def execFenceEntryComplete (entry : Nat) (s : State) : Host.Outcome State Fault Refusal :=
  match s.entries.get? entry with
  | none => .next s
  | some e => match e.kind with
    | .fence qs =>
      if s.entries.any (fun f => decide (f.1 < entry) && qs.any (fun q => f.2.inQueue e.die q.1 q.2) && s.entryOpen f.1) then .next s
      else .next (s.completeEntry entry e false)
    | _ => .next s

end Sys2Proof.Machine
end

