-- ==== Sys2Proof/WellFormed.lean ====
section
/-! DEFINITION. Which terms of the syntax are instructions that an encoding may hold: the checks of R27, R32 to R36, R43 to R45 and
R335 that depend on nothing but the words. The checks that depend on a slice's mode or registers are the machine's (R52). -/

namespace Sys2Proof

/-- The opcode of an instruction of a slice (R48), the form bit where the opcode has two forms (R335), and its fields; none for a step that is
no instruction of a slice. -/
def Instr.parts? (i : Instr) : Option (Nat × Option Bool × Fields) :=
  match i with
  | .iadd f => some (0x00, none, f)
  | .isub f => some (0x01, none, f)
  | .imul f => some (0x02, none, f)
  | .imulh f => some (0x03, none, f)
  | .imad f => some (0x04, none, f)
  | .idiv f => some (0x05, none, f)
  | .irem f => some (0x06, none, f)
  | .imin f => some (0x07, none, f)
  | .imax f => some (0x08, none, f)
  | .iabs f => some (0x09, none, f)
  | .ineg f => some (0x0A, none, f)
  | .iaddc f => some (0x0B, none, f)
  | .isubb f => some (0x0C, none, f)
  | .andB f => some (0x0D, none, f)
  | .orB f => some (0x0E, none, f)
  | .xorB f => some (0x0F, none, f)
  | .notB f => some (0x10, none, f)
  | .andn f => some (0x11, none, f)
  | .shl f => some (0x12, none, f)
  | .shr f => some (0x13, none, f)
  | .sar f => some (0x14, none, f)
  | .rot f => some (0x15, none, f)
  | .bfe f => some (0x16, none, f)
  | .bfi f => some (0x17, none, f)
  | .popc f => some (0x18, none, f)
  | .clz f => some (0x19, none, f)
  | .brev f => some (0x1A, none, f)
  | .lea f => some (0x1B, none, f)
  | .mov f => some (0x1C, none, f)
  | .movi f => some (0x1D, none, f)
  | .fadd f => some (0x20, none, f)
  | .fsub f => some (0x21, none, f)
  | .fmul f => some (0x22, none, f)
  | .ffma f => some (0x23, none, f)
  | .fmin f => some (0x24, none, f)
  | .fmax f => some (0x25, none, f)
  | .fminn f => some (0x26, none, f)
  | .fmaxn f => some (0x27, none, f)
  | .fabs f => some (0x28, none, f)
  | .fneg f => some (0x29, none, f)
  | .fcpys f => some (0x2A, none, f)
  | .fdiv f => some (0x2B, none, f)
  | .fsqrt f => some (0x2C, none, f)
  | .frcp f => some (0x2D, none, f)
  | .frsq f => some (0x2E, none, f)
  | .fex2 f => some (0x2F, none, f)
  | .flg2 f => some (0x30, none, f)
  | .fsinp f => some (0x31, none, f)
  | .fcosp f => some (0x32, none, f)
  | .ftanh f => some (0x33, none, f)
  | .frnd f => some (0x34, none, f)
  | .fscl f => some (0x35, none, f)
  | .fexpn f => some (0x36, none, f)
  | .cvt f => some (0x40, none, f)
  | .cvtsr f => some (0x41, none, f)
  | .pack f => some (0x42, none, f)
  | .unpk f => some (0x43, none, f)
  | .qnt f => some (0x44, none, f)
  | .dqnt f => some (0x45, none, f)
  | .icmp f => some (0x46, none, f)
  | .fcmp f => some (0x47, none, f)
  | .fclass f => some (0x48, none, f)
  | .pand f => some (0x49, none, f)
  | .por f => some (0x4A, none, f)
  | .pxor f => some (0x4B, none, f)
  | .pnot f => some (0x4C, none, f)
  | .pmov f => some (0x4D, none, f)
  | .sel f => some (0x4E, none, f)
  | .aff f => some (0x4F, none, f)
  | .unif f => some (0x50, none, f)
  | .shape f => some (0x51, none, f)
  | .shfl f => some (0x52, none, f)
  | .bcast f => some (0x53, none, f)
  | .vote f => some (0x54, none, f)
  | .rdx f => some (0x55, none, f)
  | .scan f => some (0x56, none, f)
  | .topk f => some (0x57, none, f)
  | .ld f => some (0x60, none, f)
  | .st f => some (0x61, none, f)
  | .lds f => some (0x62, none, f)
  | .sts f => some (0x63, none, f)
  | .ldu f => some (0x64, none, f)
  | .tld f => some (0x65, none, f)
  | .tst f => some (0x66, none, f)
  | .lda f => some (0x67, none, f)
  | .strl f => some (0x68, none, f)
  | .rld f => some (0x69, none, f)
  | .rst f => some (0x6A, none, f)
  | .ratm f => some (0x6B, none, f)
  | .prf f => some (0x6C, none, f)
  | .pin f => some (0x6D, none, f)
  | .unpin f => some (0x6E, none, f)
  | .waitc f => some (0x6F, none, f)
  | .pres f => some (0x70, none, f)
  | .claim f => some (0x80, none, f)
  | .rels f => some (0x81, none, f)
  | .sld f => some (0x82, none, f)
  | .slds f => some (0x83, none, f)
  | .mma f => some (0x84, none, f)
  | .mmas f => some (0x85, none, f)
  | .mzero f => some (0x86, none, f)
  | .acld f => some (0x87, none, f)
  | .mbat f => some (0x88, none, f)
  | .mwtb f => some (0x89, none, f)
  | .drn f => some (0x8A, none, f)
  | .drnx f => some (0x8B, none, f)
  | .drnaO f => some (0x8C, none, f)
  | .drnaU f => some (0x8D, none, f)
  | .binit f => some (0xA0, none, f)
  | .bexp f => some (0xA1, none, f)
  | .barr f => some (0xA2, none, f)
  | .bwait f => some (0xA3, none, f)
  | .btry f => some (0xA4, none, f)
  | .mwait f => some (0xA5, none, f)
  | .atom f => some (0xA6, none, f)
  | .binc f => some (0xA7, none, f)
  | .winc f => some (0xA8, none, f)
  | .decz f => some (0xA9, none, f)
  | .faddl f => some (0xAA, none, f)
  | .tkt f => some (0xAB, none, f)
  | .fatomO f => some (0xAC, none, f)
  | .fatomU f => some (0xAD, none, f)
  | .redO f => some (0xAE, none, f)
  | .redU f => some (0xAF, none, f)
  | .tkw f => some (0xB0, none, f)
  | .tka f => some (0xB1, none, f)
  | .commit f => some (0xB2, none, f)
  | .gsync f => some (0xB3, none, f)
  | .gjoin f => some (0xB4, none, f)
  | .gleave f => some (0xB5, none, f)
  | .grank f => some (0xB6, none, f)
  | .gsize f => some (0xB7, none, f)
  | .fence f => some (0xB8, none, f)
  | .cpy f => some (0xC0, none, f)
  | .cpt f => some (0xC1, none, f)
  | .cpg f => some (0xC2, none, f)
  | .cps f => some (0xC3, none, f)
  | .qfen f => some (0xC4, none, f)
  | .tokw f => some (0xC5, none, f)
  | .tokt f => some (0xC6, none, f)
  | .tokr f => some (0xC7, none, f)
  | .qcan f => some (0xC8, none, f)
  | .rgath f => some (0xC9, none, f)
  | .rrscO f => some (0xCA, none, f)
  | .rrscU f => some (0xCB, none, f)
  | .rhof f => some (0xCC, none, f)
  | .ragr f => some (0xCD, none, f)
  | .rank f => some (0xCE, none, f)
  | .rbar f => some (0xCF, none, f)
  | .lnch f => some (0xD0, none, f)
  | .kreg f => some (0xD1, some false, f)
  | .kregDrop f => some (0xD1, some true, f)
  | .nodeq f => some (0xD2, none, f)
  | .bra f => some (0xE0, none, f)
  | .brx f => some (0xE1, none, f)
  | .call f => some (0xE2, none, f)
  | .callx f => some (0xE3, none, f)
  | .ret f => some (0xE4, none, f)
  | .ifm f => some (0xE5, none, f)
  | .elsm f => some (0xE6, none, f)
  | .endm f => some (0xE7, none, f)
  | .brkm f => some (0xE8, none, f)
  | .exit f => some (0xE9, none, f)
  | .nop f => some (0xEA, none, f)
  | .regang f => some (0xEB, none, f)
  | .movsO f => some (0xEC, none, f)
  | .movsU f => some (0xED, none, f)
  | .setm f => some (0xEE, none, f)
  | .getm f => some (0xEF, none, f)
  | .rel f => some (0xF0, none, f)
  | .grow f => some (0xF1, none, f)
  | .shrink f => some (0xF2, none, f)
  | .poolq f => some (0xF3, none, f)
  | .pqry f => some (0xF4, none, f)
  | .setpk f => some (0xF5, none, f)
  | .tlbfl f => some (0xF6, none, f)
  | .tlbdr f => some (0xF7, none, f)
  | .trap f => some (0xF8, none, f)
  | .tret f => some (0xF9, none, f)
  | .errl f => some (0xFA, none, f)
  | .layw f => some (0xFB, none, f)
  | .layq f => some (0xFC, none, f)
  | .layr f => some (0xFD, none, f)
  | .laye f => some (0xFE, none, f)
  | .bkpt f => some (0xFF, none, f)
  | .monitorPoll _ _ | .waitSatisfied _ _ | .callSetRelease _ _ | .gangSwitch _ _ | .fillLand _ _
  | .fillFaultDelivery _ _ | .parkTimeout _ _ _ | .poolWaitServed _ _ | .refill _ | .poolWaitQuantum _
  | .phaseCloseComplete _ _ | .unsequencedRequestApply _ | .sequencedMessageApply _ | .bayLineFill _ _
  | .eccError _ _ | .flushingReadReturn _ _ | .entryTurn _ | .pieceWrite _ | .pieceFail _ | .entryComplete _
  | .fenceEntryComplete _ | .slotFillLand _ _ | .slotFillFault _ _ | .slotOperandReadEnd _ | .streamEntryBegin _
  | .streamEntryComplete _ | .drnaGrant _ | .drnaAddition _ | .collectiveTurn _ | .collectiveAnnounce _ _ _
  | .baleLand _ _ _ | .withdrawNotice _ _ | .collectiveDeadline _ _ | .collectiveComplete _ | .nodeAccept _
  | .predecessorComplete _ _ | .leaseGrant _ | .hostSignal _ | .blockPlacement _ | .quantumExpiry _ _
  | .dormantSave _ | .blockRestore _ _ | .roundCommit _ | .roundTimeout _ | .nodeCompletion _ | .kernelRecordFree _ _
  | .layerTurn _ | .layerPageLand _ _ _ | .evictionComplete _ _ _ | .ctxstart _ _ _ | .ctxctlSwapOut _ _
  | .ctxctlSwapIn _ _ | .ctxctlEnd _ _ | .swapOutSaveDone _ | .swapInRestoreDone _ | .teardownDone _ | .bridgeLost _
  | .dieLost _ | .wrapComplete | .flitReceive _ _ | .flitNak _ _ | .packetRequest _ _ | .packetReply _ _
  | .replayTimeout _ _ | .switchDownNotice _ _ _ | .petixaRetrain _ _ | .coldReset | .warmReset | .port1Reset
  | .acceptWrite _ _ | .pwrWrite _ _ | .bayMapWrite _ _ _ | .lpoolWrite _ _ | .configRegisterWrite _ _ _ | .memrd _ _
  | .memwr _ _ | .cfgrd _ _ | .imgload _ _ | .imgcommit _ _ | .attest _ _ | .cert _ _ | .freeze _ _ | .reset _ _
  | .bar2Write _ _ _ | .bar2Read _ _ _ | .hostCxlSnoop _ _ | .freezeN | .tapReadout _ _ | .powerStateEntry
  | .powerWake | .unassignedOpcode _ | .fetchFault _ _ | .bayRequestArrival _ | .powerFailure _ | .throttling _ _ _
  | .correctedEccError _ => none

/-- The fields of an instruction of a slice. -/
def Instr.fields? (i : Instr) : Option Fields := i.parts?.map (fun p => p.2.2)

/-- OPC of an instruction of a slice (R48). -/
def Instr.code? (i : Instr) : Option Nat := i.parts?.map (fun p => p.1)

/-- The lengths in words that each opcode accepts, as its entry gives them, in the rows of R48; an unassigned opcode accepts none. -/
def opLengths : List (List (List Nat)) :=
  [[[1, 2, 3], [1, 2, 3], [1, 2, 3], [1, 2, 3], [2, 3], [1, 2, 3], [1, 2, 3], [1, 2, 3], [1, 2, 3], [1, 2], [1, 2],
    [2, 3], [2, 3], [1, 2, 3], [1, 2, 3], [1, 2, 3]],
   [[1, 2], [1, 2, 3], [1, 2, 3], [1, 2, 3], [1, 2, 3], [1, 2, 3], [1, 2, 3], [2, 3], [1, 2], [1, 2], [1, 2], [2,
    3], [1, 2], [1, 2, 3], [], []],
   [[1, 2, 3], [1, 2, 3], [1, 2, 3], [2, 3], [1, 2, 3], [1, 2, 3], [1, 2, 3], [1, 2, 3], [1, 2], [1, 2], [1, 2, 3],
    [1, 2, 3], [1, 2], [1, 2], [1, 2], [1, 2]],
   [[1, 2], [1, 2], [1, 2], [1, 2], [1, 2], [1, 2, 3], [1, 2], [], [], [], [], [], [], [], [], []],
   [[2], [2, 3], [2, 3], [2], [2, 3], [2, 3], [2, 3], [2, 3], [2, 3], [1, 2], [1, 2], [1, 2], [1, 2], [1, 2], [2,
    3], [1, 2, 3]],
   [[1, 2], [1, 2], [2, 3], [2, 3], [2], [2], [2], [2, 3], [], [], [], [], [], [], [], []],
   [[1, 2, 3], [1, 2, 3], [1, 2, 3], [1, 2, 3], [1, 2, 3], [2], [2], [2, 3], [2, 3], [1, 2, 3], [2, 3], [2, 3], [1,
    2, 3], [2, 3], [1, 2, 3], [2]],
   [[2, 3], [], [], [], [], [], [], [], [], [], [], [], [], [], [], []],
   [[2, 3], [2, 3], [3], [3], [2, 3], [2, 3], [2], [2, 3], [1, 2], [2, 3], [2, 3], [3], [3], [3], [], []],
   [[], [], [], [], [], [], [], [], [], [], [], [], [], [], [], []],
   [[2, 3], [2, 3], [2, 3], [2, 3], [2, 3], [2, 3], [2, 3], [2, 3], [2, 3], [2, 3], [2, 3], [1, 2, 3], [2, 3], [2,
    3], [2, 3], [2, 3]],
   [[2, 3], [2, 3], [1], [2], [1, 2, 3], [1], [1], [1], [2], [], [], [], [], [], [], []],
   [[2], [2, 3], [2, 3], [2, 3], [2], [2], [2], [2], [2], [2, 3], [2, 3], [2, 3], [2, 3], [2, 3], [1, 2, 3], [2,
    3]],
   [[2, 3], [2], [2], [], [], [], [], [], [], [], [], [], [], [], [], []],
   [[3], [1, 2], [3], [1, 2], [1, 2], [1, 2, 3], [1, 3], [1], [2, 3], [1, 2], [1, 2, 3], [1, 3], [2], [2], [1, 3],
    [1, 2]],
   [[3], [1, 3], [1, 3], [2], [2, 3], [2], [1, 2], [1, 2], [1, 3], [1, 2], [1, 2], [1, 3], [1, 3], [1, 3], [1, 3],
    [1, 3]]]

/-- The lengths of an opcode. -/
def lengthsOf (opc : Nat) : List Nat := (opLengths.getD (opc / 16) []).getD (opc % 16) []

/-- The opcodes whose instructions always write a predicate (R33). -/
def predOpcodes : List Nat := [0x46, 0x47, 0x48, 0x49, 0x4A, 0x4B, 0x4C, 0x4D, 0xA4, 0xC6, 0xC8, 0xFE]

/-- The opcodes that take source b as an immediate (R37). -/
def immOpcodes : List Nat := [0x1D, 0xEE, 0xF8, 0xFF]

/-- The checks, by name. -/
inductive WfCheck where
  | length | destination | lastUse | noWriteBack | guard | type | rounding | form
  deriving DecidableEq, Repr

/-- A type code that R44 names, or none. -/
def typeCodeOk (t : BitVec 5) : Bool := t == 0 || ((1 ≤ t.toNat && t.toNat ≤ 13) || (16 ≤ t.toNat && t.toNat ≤ 25))

/-- A guard code that R43 names. -/
def guardCodeOk (g : BitVec 5) : Bool := decide (g.toNat ≤ 1) || (decide (8 ≤ g.toNat) && decide (g.toNat ≤ 23))

/-- The checks that fields fail, for an instruction that accepts `lens`, writes a predicate or not, and has a form bit or not. -/
def Fields.failed (f : Fields) (lens : List Nat) (pred imm : Bool) (drop : Option Bool) : List WfCheck :=
  (if lens.contains f.len then [] else [.length])
    ++ (if f.dst.toNat ≤ (if pred then 7 else 59) then [] else [.destination])
    ++ (if (f.la && decide (60 ≤ f.sa.toNat)) || (f.lb && decide (60 ≤ f.sb.toNat) && !imm)
        || (f.ext.lc && decide (60 ≤ f.ext.sc.toNat)) then [.lastUse] else [])
    ++ (if f.n && (f.dst != 0 || f.y || pred) then [.noWriteBack] else [])
    ++ (if guardCodeOk f.ext.gov then [] else [.guard])
    ++ (if typeCodeOk f.ext.tov then [] else [.type])
    ++ (if f.ext.rov.toNat ≤ 6 then [] else [.rounding])
    ++ (match drop with
        | none => []
        | some b => if f.ext.md.getLsbD 0 = b then [] else [.form])

/-- The checks that a term of the syntax fails. A step that is no instruction of a slice has no words and fails none. -/
def Instr.failed (i : Instr) : List WfCheck :=
  match i.parts? with
  | none => []
  | some (c, drop, f) => f.failed (lengthsOf c) (predOpcodes.contains c) (immOpcodes.contains c) drop

/-- Well-formed: no check fails. -/
def Instr.wf (i : Instr) : Bool := i.failed.isEmpty

end Sys2Proof
end

