-- ==== Sys2Proof/Decode.lean ====
section
/-! DEFINITION. Decoding (R27 to R31, R48, R335) and encoding. -/

namespace Sys2Proof

/-! ### The opcode map (R48) -/

/-- KREG and KREG.drop share an opcode; MOD[0] selects (R335). -/
def kregForm (f : Fields) : Instr := if f.ext.md.getLsbD 0 then .kregDrop f else .kreg f

/-- A row of the opcode map. -/
abbrev OpRow := List (Option (Fields → Instr))

/-- Opcodes 0x00 to 0x0F. -/
def opRow0 : OpRow :=
    [some .iadd, some .isub, some .imul, some .imulh, some .imad, some .idiv, some .irem, some .imin, some
   .imax, some .iabs, some .ineg, some .iaddc, some .isubb, some .andB, some .orB, some .xorB]

/-- Opcodes 0x10 to 0x1F. -/
def opRow1 : OpRow :=
    [some .notB, some .andn, some .shl, some .shr, some .sar, some .rot, some .bfe, some .bfi, some .popc, some
   .clz, some .brev, some .lea, some .mov, some .movi, none, none]

/-- Opcodes 0x20 to 0x2F. -/
def opRow2 : OpRow :=
    [some .fadd, some .fsub, some .fmul, some .ffma, some .fmin, some .fmax, some .fminn, some .fmaxn, some
   .fabs, some .fneg, some .fcpys, some .fdiv, some .fsqrt, some .frcp, some .frsq, some .fex2]

/-- Opcodes 0x30 to 0x3F. -/
def opRow3 : OpRow :=
    [some .flg2, some .fsinp, some .fcosp, some .ftanh, some .frnd, some .fscl, some .fexpn, none, none, none,
   none, none, none, none, none, none]

/-- Opcodes 0x40 to 0x4F. -/
def opRow4 : OpRow :=
    [some .cvt, some .cvtsr, some .pack, some .unpk, some .qnt, some .dqnt, some .icmp, some .fcmp, some
   .fclass, some .pand, some .por, some .pxor, some .pnot, some .pmov, some .sel, some .aff]

/-- Opcodes 0x50 to 0x5F. -/
def opRow5 : OpRow :=
    [some .unif, some .shape, some .shfl, some .bcast, some .vote, some .rdx, some .scan, some .topk, none,
   none, none, none, none, none, none, none]

/-- Opcodes 0x60 to 0x6F. -/
def opRow6 : OpRow :=
    [some .ld, some .st, some .lds, some .sts, some .ldu, some .tld, some .tst, some .lda, some .strl, some
   .rld, some .rst, some .ratm, some .prf, some .pin, some .unpin, some .waitc]

/-- Opcodes 0x70 to 0x7F. -/
def opRow7 : OpRow :=
    [some .pres, none, none, none, none, none, none, none, none, none, none, none, none, none, none, none]

/-- Opcodes 0x80 to 0x8F. -/
def opRow8 : OpRow :=
    [some .claim, some .rels, some .sld, some .slds, some .mma, some .mmas, some .mzero, some .acld, some .mbat,
   some .mwtb, some .drn, some .drnx, some .drnaO, some .drnaU, none, none]

/-- Opcodes 0x90 to 0x9F. -/
def opRow9 : OpRow :=
    [none, none, none, none, none, none, none, none, none, none, none, none, none, none, none, none]

/-- Opcodes 0xA0 to 0xAF. -/
def opRowA : OpRow :=
    [some .binit, some .bexp, some .barr, some .bwait, some .btry, some .mwait, some .atom, some .binc, some
   .winc, some .decz, some .faddl, some .tkt, some .fatomO, some .fatomU, some .redO, some .redU]

/-- Opcodes 0xB0 to 0xBF. -/
def opRowB : OpRow :=
    [some .tkw, some .tka, some .commit, some .gsync, some .gjoin, some .gleave, some .grank, some .gsize, some
   .fence, none, none, none, none, none, none, none]

/-- Opcodes 0xC0 to 0xCF. -/
def opRowC : OpRow :=
    [some .cpy, some .cpt, some .cpg, some .cps, some .qfen, some .tokw, some .tokt, some .tokr, some .qcan,
   some .rgath, some .rrscO, some .rrscU, some .rhof, some .ragr, some .rank, some .rbar]

/-- Opcodes 0xD0 to 0xDF. -/
def opRowD : OpRow :=
    [some .lnch, some kregForm, some .nodeq, none, none, none, none, none, none, none, none, none, none, none,
   none, none]

/-- Opcodes 0xE0 to 0xEF. -/
def opRowE : OpRow :=
    [some .bra, some .brx, some .call, some .callx, some .ret, some .ifm, some .elsm, some .endm, some .brkm,
   some .exit, some .nop, some .regang, some .movsO, some .movsU, some .setm, some .getm]

/-- Opcodes 0xF0 to 0xFF. -/
def opRowF : OpRow :=
    [some .rel, some .grow, some .shrink, some .poolq, some .pqry, some .setpk, some .tlbfl, some .tlbdr, some
   .trap, some .tret, some .errl, some .layw, some .layq, some .layr, some .laye, some .bkpt]

/-- The opcode map: row h and column l of R48 give the opcode 0xhl. -/
def opRows : List OpRow :=
  [opRow0, opRow1, opRow2, opRow3, opRow4, opRow5, opRow6, opRow7, opRow8, opRow9, opRowA, opRowB, opRowC, opRowD, opRowE, opRowF]

/-- The instruction of an opcode with its fields; none where the opcode is unassigned. -/
def instrOf (opc : Nat) (f : Fields) : Option Instr :=
  match (opRows.getD (opc / 16) []).getD (opc % 16) none with
  | some g => some (g f)
  | none => none

/-! ### Words and fields (R30, R31) -/

/-- The extension word's fields (R31). -/
def extOf (w : Word) : Ext :=
  { lc := w.getLsbD 31, sc := w.extractLsb' 25 6, gov := w.extractLsb' 20 5, tov := w.extractLsb' 15 5,
    rov := w.extractLsb' 12 3, sat := w.getLsbD 11, md := w.extractLsb' 0 11 }

/-- OPC of a base word (R30). -/
def opcOf (w : Word) : Nat := (w.extractLsb' 22 8).toNat

/-- LEN of a base word (R27). -/
def lenOf (w : Word) : Nat := (w.extractLsb' 30 2).toNat

/-- The fields of a base word and what follows it (R30). -/
def fieldsOf (w : Word) (t : Tail) : Fields :=
  { y := w.getLsbD 21, n := w.getLsbD 20, dst := w.extractLsb' 14 6, la := w.getLsbD 13, sa := w.extractLsb' 7 6,
    lb := w.getLsbD 6, sb := w.extractLsb' 0 6, tail := t }

/-! ### Decoding -/

/-- Why bytes hold no instruction: too few of them; LEN = 0b11 (R28); an unassigned opcode (R52 step 4). -/
inductive Reject where
  | short
  | length
  | opcode
  deriving DecidableEq, Repr

/-- The instruction of a base word and its tail. -/
def decodeWith (w : Word) (t : Tail) : Except Reject Instr :=
  match instrOf (opcOf w) (fieldsOf w t) with
  | some i => .ok i
  | none => .error .opcode

/-- The instruction of a base word, where the two words after it are as given; only those that its length takes are looked at. -/
def decodeWords (w e l : Word) : Except Reject Instr :=
  match lenOf w with
  | 0 => decodeWith w .one
  | 1 => decodeWith w (.two (extOf e))
  | 2 => decodeWith w (.three (extOf e) l)
  | _ => .error .length

/-- A little-endian word from the front of a list of bytes (R1). -/
def takeWord (bs : List Byte) : Option (Word × List Byte) :=
  match bs with
  | a :: b :: c :: d :: r => some (d ++ c ++ b ++ a, r)
  | _ => none

/-- The instruction at the front of a list of bytes, with the bytes after it (R27). -/
def decode (bs : List Byte) : Except Reject (Instr × List Byte) :=
  match takeWord bs with
  | none => .error .short
  | some (w, r0) =>
    match lenOf w with
    | 0 => (decodeWith w .one).map (fun i => (i, r0))
    | 1 =>
      (match takeWord r0 with
       | none => .error .short
       | some (e, r1) => (decodeWith w (.two (extOf e))).map (fun i => (i, r1)))
    | 2 =>
      (match takeWord r0 with
       | none => .error .short
       | some (e, r1) =>
         match takeWord r1 with
         | none => .error .short
         | some (l, r2) => (decodeWith w (.three (extOf e) l)).map (fun i => (i, r2)))
    | _ => .error .length

/-- The four little-endian bytes of a word (R1). -/
def wordBytes (w : Word) : List Byte :=
  [w.extractLsb' 0 8, w.extractLsb' 8 8, w.extractLsb' 16 8, w.extractLsb' 24 8]

/-- The instruction that the decoder reads from an instruction whose bits are `w`, bit 0 the least significant of the base word and
the later words' bits counted on from it; the bits from `nbits` up are zero. -/
def decodeTableWord (nbits w : Nat) : Option Instr :=
  let v : BitVec 96 := BitVec.ofNat 96 (w % 2 ^ nbits)
  match decode (wordBytes (v.extractLsb' 0 32) ++ wordBytes (v.extractLsb' 32 32) ++ wordBytes (v.extractLsb' 64 32)) with
  | .ok (i, _) => some i
  | .error _ => none

/-! ### Encoding -/

/-- The base word of a length, an opcode and fields (R30). -/
def baseWord (opc : Nat) (f : Fields) : Word :=
  BitVec.ofNat 2 (f.len - 1) ++ BitVec.ofNat 8 opc ++ BitVec.ofBool f.y ++ BitVec.ofBool f.n ++ f.dst ++ BitVec.ofBool f.la ++ f.sa
    ++ BitVec.ofBool f.lb ++ f.sb

/-- The extension word of its fields (R31). -/
def extWord (x : Ext) : Word :=
  BitVec.ofBool x.lc ++ x.sc ++ x.gov ++ x.tov ++ x.rov ++ BitVec.ofBool x.sat ++ x.md

/-- The words of fields under an opcode (R27). -/
def Fields.words (f : Fields) (opc : Nat) : List Word :=
  match f.tail with
  | .one => [baseWord opc f]
  | .two x => [baseWord opc f, extWord x]
  | .three x l => [baseWord opc f, extWord x, l]

/-- The words of an instruction; none for a step that is no instruction of a slice. -/
def encode (i : Instr) : List Word :=
  match i.parts? with
  | some (c, _, f) => f.words c
  | none => []

/-- The row is an instruction of a slice, or what a fetch gives instead of one: it comes about by an issue only. -/
def Instr.isSlice (i : Instr) : Bool :=
  match i with
  | .unassignedOpcode _ => true
  | .fetchFault _ _ => true
  | i => i.parts?.isSome

/-- The bytes of an instruction in memory (R1, R27). -/
def encodeBytes (i : Instr) : List Byte := (encode i).flatMap wordBytes

end Sys2Proof
end

