-- ==== Sys2Proof/Machine/Ring.lean ====
section
/-! DEFINITION. Ranks and the ring collectives (R404, R407 to R424): records and rank tables, the ring instructions and RANK, and the life
of a collective entry. -/

namespace Sys2Proof.Machine

/-! ### Records and rank tables (R407 to R409) -/

/-- The operations of a collective (R424): RHOF is one operation with two sides. -/
def collRgath : Nat := 0
/-- RRSC.o. -/
def collRrscO : Nat := 1
/-- RRSC.u. -/
def collRrscU : Nat := 2
/-- RHOF. -/
def collRhof : Nat := 3
/-- RAGR. -/
def collRagr : Nat := 5
/-- RBAR. -/
def collRbar : Nat := 6

/-- RRSC in either order. -/
def collIsRrsc (op : Nat) : Bool := op == 1 || op == 2

/-- The slot of a table that names a peer. -/
def slotOf (slots : List Word) (peer : Nat) : Option Nat :=
  ((List.range slots.length).find? (fun j => (slotMembers (slots.getD j 0)).contains peer))

/-- A rank table's entries are as R408 asks: each names peers, coded as in R201 up to 0x1FFF, and no die twice. -/
def slotsOk (slots : List Word) : Bool :=
  slots.all (fun w => bitsOf w.toNat 31 30 == 0 && !w.getLsbD 14 && (slotMembers w).all (fun p => decide (p ≤ 0x1FFF)))
    && decide (slots.flatMap slotMembers).Nodup

/-- A rank table is well formed on this machine: without the Petixa feature it names dies of the own package only (R408, R462). -/
def State.tableOk (s : State) (slots : List Word) : Bool :=
  slotsOk slots && (s.feature 2 || (slots.flatMap slotMembers).all s.ownPeer)

/-- The table of the partition form: slot j is partition rank j (R408). -/
def State.partitionSlots (s : State) (ctx : Nat) : List Word :=
  match s.ctxs.get? ctx with
  | some c => (List.range c.size).map (fun i => BitVec.ofNat 32 (peerCode s.fuses.pkg ((c.first + i) % 8)))
  | none => []

/-- A record's fields as read, with what the reserved bits hold. -/
structure CollRaw where
  src : Nat
  dst : Nat
  chunk : Nat
  boff : Nat
  table : Nat
  deadline : Nat
  key : Nat
  kaddr : Nat
  flags : Nat
  rest : Nat
  deriving DecidableEq, Repr

/-- A record from its 64 bytes (R407). -/
def CollRaw.ofBytes (b : List Byte) : CollRaw :=
  let f := fun o n => leNat ((b.drop o).take n)
  { src := f 0 8, dst := f 8 8, chunk := f 0x10 4, boff := f 0x14 4, table := f 0x18 8, deadline := f 0x20 4, key := f 0x24 4,
    kaddr := f 0x28 8, flags := f 0x30 1, rest := f 0x31 15 }

/-- The bytes that a member reads at SRC. -/
def collSrcLen (op : Nat) (rcv : Bool) (slots chunk : Nat) : Nat :=
  if op = collRbar || rcv then 0 else if collIsRrsc op then slots * chunk else chunk

/-- The bytes that a member writes at DST. -/
def collDstLen (op : Nat) (rcv : Bool) (slots chunk : Nat) : Nat :=
  if op = collRgath then slots * chunk
  else if op = collRagr then chunk + chunk / 4
  else if op = collRbar || (op = collRhof && !rcv) then 0 else chunk

/-- A record's own fields are in range and as its instruction asks (R407, R409, R418 to R422), with the table apart. -/
def CollRaw.ok (r : CollRaw) (op ty : Nat) (rcv block : Bool) : Bool :=
  let as8 := collIsRrsc op && ty == 13
  let sw := bitOf r.flags 0
  let dw := bitOf r.flags 1
  r.rest == 0 && decide (r.flags < 8) && (op == collRhof || !bitOf r.flags 2)
    && bitsOf r.boff 30 21 == 0 && r.table % 16 == 0 && decide (r.deadline ≤ 1000000)
    && (if op = collRbar then r.src == 0 && r.dst == 0 && r.chunk == 0 && r.kaddr == 0 && r.flags == 0
        else decide (16 ≤ r.chunk) && decide (r.chunk ≤ 2 ^ 28) && r.chunk % 16 == 0 && (!as8 || r.chunk % 256 == 0))
    && (if as8 then r.kaddr != 0 else r.kaddr == 0)
    && (!(sw || dw) || block)
    && (!sw || decide (r.src < 2 ^ 32)) && (!dw || decide (r.dst < 2 ^ 32))
    && !(op == collRhof && rcv && r.src != 0) && !(op == collRhof && !rcv && r.dst != 0)

/-- A range lies in the own package. -/
def State.inOwnPackage (s : State) (va n : Nat) : Bool :=
  n == 0 || (match s.ownerOf va, s.ownerOf ((va + n - 1) % 2 ^ 64) with
    | .ok (.own _), .ok (.own _) => true
    | _, _ => false)

/-- The slots of RHOF's sides (R420). -/
def rhofOk (rcv wrap : Bool) (slot t : Nat) : Bool := wrap || (if rcv then slot != 0 else slot + 1 != t)

/-- What the checks of a collective give: the record to run, or the cause with its address. -/
inductive CollCheck where
  | ok (r : CollRec)
  | bad (c : Half) (a : Nat)

/-- The checks of R409 after the record and its table have been read. -/
def State.collCheck (s : State) (die : Nat) (b : Option Block) (op ty : Nat) (rcv : Bool) (scope : Scope) (va : Nat) (r : CollRaw)
    (slots : List Word) : CollCheck :=
  let me := peerCode s.fuses.pkg die
  let t := slots.length
  let sw := bitOf r.flags 0
  let dw := bitOf r.flags 1
  let sn := collSrcLen op rcv t r.chunk
  let dn := collDstLen op rcv t r.chunk
  let boff := r.boff % 2 ^ 21
  let noBar := bitOf r.boff 31
  match slotOf slots me with
  | none => .bad 0x0704 va
  | some slot =>
    if !s.tableOk slots || (op == collRhof && !rhofOk rcv (bitOf r.flags 2) slot t) then .bad 0x0704 va
    else if (!sw && !s.inOwnPackage r.src sn) || (!dw && !s.inOwnPackage r.dst dn)
        || (r.kaddr != 0 && !s.inOwnPackage r.kaddr (t * r.chunk / 256)) then .bad 0x0704 va
    else if scope.code < 4 && (slots.flatMap slotMembers).any (fun p => !s.ownPeer p) then .bad 0x0102 0
    else
      let out := fun (o n : Nat) => match b with | some b => !b.inWindow o n | none => true
      if sw && sn != 0 && out r.src sn then .bad 0x0310 r.src
      else if dw && dn != 0 && out r.dst dn then .bad 0x0310 r.dst
      else if dw && !noBar && dn != 0 && out boff 16 then .bad 0x0310 boff
      else if dw && !noBar && dn != 0 && boff % 16 != 0 then .bad 0x030F boff
      else .ok { op := op, ty := ty, rcv := rcv, src := r.src, dst := r.dst, chunk := r.chunk, boff := BitVec.ofNat 32 r.boff,
                 deadline := r.deadline, key := BitVec.ofNat 32 r.key, kaddr := r.kaddr, sw := sw, dw := dw,
                 slots := slots, mySlot := slot }

/-! ### The ring instructions (R417 to R422) -/

/-- The row of a ring instruction other than RANK. -/
def encRing (opc : Nat) (types : TyRule) (md : Nat) : Enc :=
  { opc := opc, lens := [2, 3], dst := .w64, sa := .u64, types := types, lit := .role, md := md,
    extra := fun f _ => let c := modOf f / 2 % 8; decide (3 ≤ c) && decide (c ≤ 5) }

/-- A rank table read as an LD (R409): its entries, none where the header is malformed, or how the instruction ends here. -/
inductive TableRead where
  | got (s : State) (slots : List Word)
  | malformed (s : State)
  | stop (r : Res)

/-- A rank table read. -/
def State.readTable (s : State) (v : Env) (va : Nat) (act : BitVec 4) : TableRead :=
  match s.readAsLd v va 16 act with
  | .stop r => .stop r
  | .got s1 h =>
    let t := leNat (h.take 4)
    if t = 0 || 4096 < t || leNat (h.drop 4) ≠ 0 then .malformed s1
    else match s1.readAsLd v ((va + 16) % 2 ^ 64) (4 * t) act with
      | .stop r => .stop r
      | .got s2 b => .got s2 ((List.range t).map (fun i => BitVec.ofNat 32 (leNat ((b.drop (4 * i)).take 4))))

/-- How far a collective is when it is issued. -/
def CollProg.fresh : CollProg :=
  { sent := [], taken := [], clock := Clock.zero, withdrawn := [], missing := [], bales := [], heard := [], started := 0, counted := 0 }

/-- A ring instruction: the record, the table, the checks, the issue (R409). -/
def ringBody (op : Nat) (rcv : Bool) (v : Env) (s : State) : Res :=
  let va := v.uniAddr
  let bad := fun (s : State) => Res.raiseIn s 0x0704 (BitVec.ofNat 64 va) v.act
  let scope := (scopeOf (v.md / 2 % 8)).getD .pkg
  if v.act = 0 then nullToken v
  else if va % 64 ≠ 0 then bad s
  else match s.readAsLd v va 64 v.act with
    | .stop r => r
    | .got s1 bytes =>
      let r := CollRaw.ofBytes bytes
      if !r.ok op v.ty rcv true then bad s1
      else
        let go := fun (s : State) (slots : List Word) =>
          match s.collCheck v.b.die (some v.b) op v.ty rcv scope va r slots with
          | .bad c a => Res.raiseIn s c (BitVec.ofNat 64 a) v.act
          | .ok q =>
            issueEntry v s (2 + v.md % 2) v.b.ctx scope (bitOf v.md 4) (.ring q CollProg.fresh)
              (if q.dw then s.destLines [v.bid] q.dst (collDstLen op rcv slots.length q.chunk) else []) [] false
        if r.table = 0 then go s1 (s1.partitionSlots v.b.ctx)
        else match s1.readTable v r.table v.act with
          | .stop q => q
          | .malformed s2 => bad s2
          | .got s2 slots => go s2 slots

/-- RGATH (R418). -/
def execRgath (f : Fields) (s : State) : Host.Outcome State Fault Refusal := runInstr (encRing 0xC9 .none 0x1F) f (ringBody collRgath false) s

/-- The types of RRSC (R417). -/
def typeRing (t : Nat) : Bool := t == 1 || t == 4 || t == 13

/-- RRSC.o (R419). -/
def execRrscO (f : Fields) (s : State) : Host.Outcome State Fault Refusal :=
  runInstr (encRing 0xCA (.tov typeRing) 0x1F) f (ringBody collRrscO false) s

/-- RRSC.u (R419). -/
def execRrscU (f : Fields) (s : State) : Host.Outcome State Fault Refusal :=
  runInstr (encRing 0xCB (.tov typeRing) 0x1F) f (ringBody collRrscU false) s

/-- RHOF (R420). -/
def execRhof (f : Fields) (s : State) : Host.Outcome State Fault Refusal :=
  runInstr (encRing 0xCC .none 0x3F) f (ringBody collRhof (bitOf (modOf f) 5)) s

/-- RAGR (R421). -/
def execRagr (f : Fields) (s : State) : Host.Outcome State Fault Refusal := runInstr (encRing 0xCD .none 0x1F) f (ringBody collRagr false) s

/-- RBAR (R422). -/
def execRbar (f : Fields) (s : State) : Host.Outcome State Fault Refusal := runInstr (encRing 0xCF .none 0x1F) f (ringBody collRbar false) s

/-! ### RANK (R404, R423) -/

/-- The loop length of a partition in bridge crossings (R404). -/
def State.loopLength (s : State) (c : Ctx) : Nat :=
  ((List.range c.size).map (fun i => s.hops ((c.first + i) % 8) ((c.first + (i + 1) % c.size) % 8))).sum

/-- RANK's pair (R423): the slot, and BK, WRAPPED, LOOP and COUNT. -/
def rankWord (slot : Nat) (bk wrapped : Bool) (loop count : Nat) : Nat :=
  slot + 2 ^ 32 * ((if bk then 2 ^ 25 else 0) + (if wrapped then 2 ^ 24 else 0) + loop % 256 * 2 ^ 16 + count)

/-- RANK and RANK.t (R423). -/
def rankBody (v : Env) (s : State) : Res :=
  let me := peerCode s.fuses.pkg v.b.die
  let wrapped := (s.die v.b.die).ring != 0
  if bitOf v.md 0 then
    let va := v.uniAddr
    let bad := fun (s : State) => Res.raiseIn s 0x0704 (BitVec.ofNat 64 va) v.x.mask
    if va % 16 ≠ 0 then bad s
    else match s.readTable v va v.x.mask with
      | .stop r => r
      | .malformed s1 => bad s1
      | .got s1 slots =>
        if !s.tableOk slots then bad s1
        else
          let w := match slotOf slots me with
            | some j => rankWord j (bitsOf (slots.getD j 0).toNat 13 0 != me) wrapped 0 slots.length
            | none => rankWord 0xFFFFFFFF false wrapped 0 slots.length
          .doneIn s1 { regs := [v.writeUni true (BitVec.ofNat 64 w)] }
  else match s.ctxs.get? v.b.ctx with
    | none => .done { regs := [v.writeUni true 0] }
    | some c => .done { regs := [v.writeUni true (BitVec.ofNat 64
        (rankWord ((v.b.die + 8 - c.first) % 8) false wrapped (s.loopLength c) c.size))] }

/-- RANK (R423). -/
def execRank (f : Fields) (s : State) : Host.Outcome State Fault Refusal :=
  let t := bitOf (modOf f) 0
  runInstr { opc := 0xCE, lens := [1, 2, 3], dst := .w64, sa := if t then .u64 else .no, gov0 := true, lit := .role, md := 1,
             extra := fun f _ => bitOf (modOf f) 0 || f.lit?.getD 0 == 0 } f rankBody s

/-! ### The members of a collective (R408, R410) -/

/-- The collective record and progress of an entry. -/
def Entry.coll? (e : Entry) : Option (CollRec × CollProg) := match e.kind with | .ring r p => some (r, p) | _ => none

/-- The progress of a collective entry changed. -/
def Entry.modProg (e : Entry) (f : CollProg → CollProg) : Entry :=
  match e.kind with | .ring r p => { e with kind := .ring r (f p) } | _ => e

/-- The entries of a key of a context on a die, in the order of issue. -/
def State.keyEntries (s : State) (ctx die : Nat) (key : Word) : List (Nat × Entry) :=
  s.entries.filter (fun e => e.2.ctx == ctx && e.2.die == die && (match e.2.kind with | .ring r _ => r.key == key | _ => false))

/-- Which collective of its key an entry belongs to: the count of earlier entries of the key on its die. -/
def State.collOrd (s : State) (eid : Nat) (e : Entry) (r : CollRec) : Nat :=
  ((s.keyEntries e.ctx e.die r.key).filter (fun q => decide (q.1 < eid))).length

/-- The entry of the same collective at a member of the own package. -/
def State.memberEntry (s : State) (eid : Nat) (e : Entry) (r : CollRec) (peer : Nat) : Option (Nat × Entry) :=
  if s.ownPeer peer then (s.keyEntries e.ctx (peer % 8) r.key)[s.collOrd eid e r]? else none

/-- What a member announces (R411). -/
def CollRec.announce (r : CollRec) : Announce := { op := r.op, type := r.ty, chunk := r.chunk, table := r.slots }

/-- The slot whose .snd member sends to the .rcv member of this one (R420). -/
def CollRec.sender (r : CollRec) : Nat := (r.mySlot + r.slots.length - 1) % r.slots.length

/-- A slot takes part in a member's collective: for RHOF its own and the other side's (R420). -/
def CollRec.takesPart (r : CollRec) (slot : Nat) : Bool :=
  decide (slot < r.slots.length)
    && (r.op != collRhof || slot == r.mySlot || slot == (if r.rcv then r.sender else (r.mySlot + 1) % r.slots.length))

/-- An output of the member depends on a slot (R411). -/
def CollRec.depends (r : CollRec) (slot : Nat) : Bool :=
  decide (slot < r.slots.length) &&
    (if r.op = collRhof then r.rcv && slot == r.sender else true)

/-! ### Bales (R412) -/

/-- One bale of a member's output: the chunk, the offset in it and the size; with the offset at DST. -/
structure Bale where
  chunk : Nat
  off : Nat
  n : Nat
  at' : Nat
  deriving DecidableEq, Repr

/-- The bales of `n` bytes of a chunk. -/
def chunkBales (chunk base n : Nat) : List Bale :=
  (List.range ((n + 0x7FFF) / 0x8000)).map (fun i => ⟨chunk, i * 0x8000, min 0x8000 (n - i * 0x8000), base + i * 0x8000⟩)

/-- A member's bales in ascending destination offset. -/
def CollRec.bales (r : CollRec) : List Bale :=
  if r.op = collRgath then (List.range r.slots.length).flatMap (fun c => chunkBales c (c * r.chunk) r.chunk)
  else chunkBales r.mySlot 0 (collDstLen r.op r.rcv r.slots.length r.chunk)

/-- The slots whose contribution a bale needs. -/
def CollRec.needs (r : CollRec) (b : Bale) : List Nat :=
  if r.op = collRgath then [b.chunk]
  else if r.op = collRhof then [r.sender]
  else List.range r.slots.length

/-- The range of a contributor's source that a bale takes. -/
def CollRec.range (r : CollRec) (b : Bale) : Nat × Nat :=
  if collIsRrsc r.op then (r.mySlot * r.chunk + b.off, b.n)
  else if r.op = collRagr then
    -- the magnitudes that the bale's bytes are made of
    let lo := if b.off < r.chunk then b.off / 4 else b.off - r.chunk
    let hi := if b.off + b.n ≤ r.chunk then (b.off + b.n - 1) / 4 else b.off + b.n - 1 - r.chunk
    let lo := if b.off < r.chunk && r.chunk < b.off + b.n then 0 else lo
    let hi := if b.off < r.chunk && r.chunk < b.off + b.n then r.chunk / 4 - 1 else hi
    (4 * lo, 4 * (hi + 1 - lo))
  else (b.off, b.n)

/-- The exponent bytes that a bale of an as8 reduction compares (R414): their place in the array at KADDR, and their number. -/
def CollRec.expoRange (r : CollRec) (b : Bale) : Nat × Nat :=
  if collIsRrsc r.op && r.ty == 13 then ((r.mySlot * r.chunk + b.off) / 256, (b.n + 255) / 256) else (0, 0)

/-- A slot's contribution to a bale: its bytes and its exponents. -/
structure Contribution where
  data : List Byte
  expo : List Byte
  deriving DecidableEq, Repr, Inhabited

/-- Source bytes of a member's entry (R413). -/
def State.collSource (s : State) (eid : Nat) (e : Entry) (r : CollRec) (o n : Nat) : State × EngRes (List Byte) :=
  if r.sw then (s, s.engWindow e (r.src + o) n) else s.engRead eid e ((r.src + o) % 2 ^ 64) n

/-- A member's contribution to a bale of another member's output. -/
def State.contribution (s : State) (eid : Nat) (e : Entry) (r q : CollRec) (b : Bale) : State × EngRes Contribution :=
  let (o, n) := q.range b
  let (ko, kn) := q.expoRange b
  match s.collSource eid e r o n with
  | (s1, .wait) => (s1, .wait)
  | (s1, .fail c a) => (s1, .fail c a)
  | (s1, .ok data) =>
    if kn = 0 then (s1, .ok ⟨data, []⟩)
    else match s1.engRead eid e ((r.kaddr + ko) % 2 ^ 64) kn with
      | (s2, .ok ks) => (s2, .ok ⟨data, ks⟩)
      | (s2, .wait) => (s2, .wait)
      | (s2, .fail c a) => (s2, .fail c a)

/-! ### Combining (R414, R415) -/

/-- The elements combined two at a time in an order and a grouping that are left to the part (R414). -/
def combineAny {α : Type} [Inhabited α] (pick : Nat → Nat → Nat) (f : α → α → α) : Nat → List α → α
  | 0, xs => xs.headD default
  | n + 1, xs =>
    match xs with
    | [] => default
    | [x] => x
    | _ =>
      let i := pick (2 * n) xs.length
      let rest := xs.eraseIdx i
      let j := pick (2 * n + 1) rest.length
      combineAny pick f n (rest.eraseIdx j ++ [f (xs.getD i default) (rest.getD j default)])

/-- One rounding of a floating combination in f32 (R414). -/
def addF32 (x y : Nat) : Nat := (deliverOp 1 1 0 false (addVal 1 (decodeF 1 x) (decodeF 1 y))).1

/-- A floating element of RRSC (R414); a lone NaN is converted too, so that it is canonical (R66, R74). -/
def combineFloat (ty : Nat) (comb : List Nat → Nat) (xs : List Nat) : Nat :=
  if ty = 1 then (deliver 1 1 0 false false (decodeF 1 (comb xs))).1
  else (deliver 4 1 0 false false (decodeF 1 (comb (xs.map (fun x => (deliver 1 1 0 false false (decodeF 4 x)).1))))).1

/-- An as8 element of RRSC (R81, R414): the value and whether a clamp occurred. A lone contribution of −128 is clamped too, since that
value is never delivered. -/
def combineAs8 (xs : List Int) : Int × Bool :=
  let clamp := fun (acc : Int × Bool) (y : Int) => let z := clampInt (-127) 127 (acc.1 + y); (z, acc.2 || z != acc.1 + y)
  match xs with
  | [] => (0, false)
  | [q] => clamp (0, false) q
  | q :: qs => qs.foldl clamp (q, false)

/-- Element `i` of a list of bytes. -/
def bytesElem (bs : List Byte) (size i : Nat) : Nat := leNat ((bs.drop (i * size)).take size)

/-- A bale of RRSC from the slots' contributions in slot order, `mine` being the member's own: the bytes and SAT. -/
def State.reduceBale (s : State) (r : CollRec) (b : Bale) (cs : List Contribution) (mine : Contribution) : List Byte × Bool :=
  if r.ty = 13 then
    let es := (List.range b.n).map (fun i => combineAs8 (cs.map (fun c => sextInt 8 (bytesElem c.data 1 i))))
    (es.map (fun e => BitVec.ofNat 8 (wrapNat 8 e.1)), es.any (fun e => e.2) || cs.any (fun c => c.expo != mine.expo))
  else
    let size := elemSize r.ty
    let comb := fun (i : Nat) (xs : List Nat) =>
      if r.op = collRrscU then combineAny (fun k n => s.pick ((b.at' + i) * 65536 + k) n) addF32 xs.length xs
      else match xs with
        | [] => 0
        | x :: ys => ys.foldl addF32 x
    ((List.range (b.n / size)).flatMap (fun i => leBytes size (combineFloat r.ty (comb i) (cs.map (fun c => bytesElem c.data size i)))),
     false)

/-- The largest magnitude of a group over the slots (R415): canonical NaN where one is a NaN. -/
def maxMagnitude (xs : List Nat) : Nat :=
  let ms := xs.map (fun x => x % 2 ^ 31)
  if ms.any (fun m => decide (0x7F800000 < m)) then 0x7FC00000 else ms.foldl max 0

/-- M / 2^k ≤ L for a finite M = m × 2^e. -/
def scaledLe (m : Nat) (e k : Int) (l : Nat) : Bool :=
  if k ≤ e then decide (m * 2 ^ (e - k).toNat ≤ l) else decide (m ≤ l * 2 ^ (k - e).toNat)

/-- The agreed exponent of R80 for a magnitude and P ranks, and whether the saturation flag is set. -/
def agreedK (mag p : Nat) : Int × Bool :=
  if mag = 0 then (-128, false)
  else if 0x7F800000 ≤ mag then (127, true)
  else
    let ex : Nat := mag / 2 ^ 23
    let m : Nat := if ex = 0 then mag % 2 ^ 23 else mag % 2 ^ 23 + 2 ^ 23
    let e : Int := if ex = 0 then -149 else (ex : Int) - 150
    match ((List.range 256).map (fun i => (i : Int) - 128)).find? (fun k => scaledLe m e k (127 / p)) with
    | some k => (k, false)
    | none => (127, true)

/-- A bale of RAGR (R415): the magnitudes as f32, then the exponents, cut to the bale; and SAT. -/
def ragrBale (r : CollRec) (b : Bale) (cs : List Contribution) : List Byte × Bool :=
  let (o, n) := r.range b
  let g0 := o / 4
  let ms := (List.range (n / 4)).map (fun i => maxMagnitude (cs.map (fun c => bytesElem c.data 4 i)))
  let ks := ms.map (fun m => agreedK m r.slots.length)
  let byte := fun (k : Nat) =>
    if k < r.chunk then BitVec.ofNat 8 (ms.getD (k / 4 - g0) 0 / 2 ^ (8 * (k % 4)))
    else BitVec.ofNat 8 (wrapNat 8 (ks.getD (k - r.chunk - g0) (0, false)).1)
  ((List.range b.n).map (fun i => byte (b.off + i)), ks.any (fun k => k.2))

/-- The bytes of a bale, and SAT. -/
def State.baleBytes (s : State) (r : CollRec) (b : Bale) (cs : List Contribution) (mine : Contribution) : List Byte × Bool :=
  if collIsRrsc r.op then s.reduceBale r b cs mine
  else if r.op = collRagr then ragrBale r b cs
  else ((cs.getD 0 default).data, false)

/-! ### The end of an entry (R411) -/

/-- A slot is missing (R410, R411): the entry fails with RANK_MISSING where an output depends on it. Outputs that do not are still
written, so the entry goes on until they are. -/
def State.slotMissing (s : State) (eid slot : Nat) (e : Entry) (r : CollRec) (p : CollProg) : State :=
  if p.missing.contains slot then s
  else
    let s1 := s.modEntry eid (fun x => x.modProg (fun q => { q with missing := slot :: q.missing }))
    if !r.depends slot || e.cause ≠ 0 then s1
    else
      let (core, idx) := match e.bid.bind (fun b => s.blocks.get? b) with | some b => (b.core, b.idx.toNat) | none => (0xFF, 0xFFFFFFFF)
      (s1.log e.ctx { cause := 0x0703, die := e.die, core := core, slice := if e.bid.isSome then e.sid else 0xFFFF, flags := 4,
                      block := idx, pc := e.token.toNat }).modEntry eid (fun x => { x with cause := 0x0703 })

/-- The entry's member has withdrawn (R411): it failed other than by a missing rank. -/
def Entry.hasWithdrawn (e : Entry) : Bool :=
  (match e.state with | .ending true => true | .failed => true | _ => false) && e.cause != 0x0703

/-- Every output that does not depend on a missing slot is written (R411). -/
def CollRec.outputsDone (r : CollRec) (p : CollProg) : Bool :=
  if r.op = collRbar then (List.range r.slots.length).all (fun j => p.heard.contains j)
  else r.bales.zipIdx.all (fun q => p.bales.contains q.2 || (r.needs q.1).any (fun j => p.missing.contains j))

/-- A member of the own package has taken, or discards, everything that a slot contributes (R411, R413). -/
def Entry.hasTaken (m : Entry) (slot : Nat) : Bool :=
  match m.state, m.kind with
  | .queued, _ => false
  | .running, .ring r p =>
    p.heard.contains slot && r.bales.zipIdx.all (fun q => p.bales.contains q.2 || !(r.needs q.1).contains slot
      || (r.needs q.1).any (fun j => p.missing.contains j))
  | _, _ => true

/-- The collective as the member of another slot that receives runs it. -/
def CollRec.atSlot (r : CollRec) (j : Nat) : CollRec := { r with mySlot := j, rcv := r.op == collRhof }

/-- The bales of another slot's members to which an entry contributes, by number. -/
def CollRec.given (r : CollRec) (j : Nat) : List Nat :=
  if r.op = collRbar then []
  else ((r.atSlot j).bales.zipIdx.filter (fun q => ((r.atSlot j).needs q.1).contains r.mySlot)).map (fun q => q.2)

/-- The slots whose members take an entry's contribution (R411, R420). -/
def CollRec.takers (r : CollRec) : List Nat :=
  if r.op = collRhof then (if r.rcv then [] else [(r.mySlot + 1) % r.slots.length]) else List.range r.slots.length

/-- Every member that has not withdrawn has taken or discarded the entry's contribution (R413). -/
def State.contributionTaken (s : State) (eid : Nat) (e : Entry) (r : CollRec) (p : CollProg) : Bool :=
  r.takers.all (fun j => (slotMembers (r.slots.getD j 0)).all (fun peer =>
    peer == peerCode s.fuses.pkg e.die || p.withdrawn.contains peer
      || (if s.ownPeer peer then (match s.memberEntry eid e r peer with | some (_, m) => m.hasTaken r.mySlot | none => false)
          else (r.given j).all (fun i => p.taken.contains (peer, i)))))

/-! ### The events (R410 to R413) -/

/-- The entries of the same key issued earlier on the die have completed (R410). -/
def State.keyTurn (s : State) (eid : Nat) (e : Entry) (r : CollRec) : Bool :=
  (s.keyEntries e.ctx e.die r.key).all (fun q => decide (eid ≤ q.1) || !s.entryOpen q.1)

/-- The slots all of whose members have withdrawn or died are missing (R410). -/
def State.slotsGone (s : State) (eid : Nat) (slots : List Nat) : State :=
  slots.foldl (fun s j => match (s.entries.get? eid).bind (fun e => e.coll?.map (fun q => (e, q))) with
    | some (e, r, p) =>
      if e.state = .running && (slotMembers (r.slots.getD j 0)).all (fun k => p.withdrawn.contains k) then s.slotMissing eid j e r p else s
    | none => s) s

/-- COLLECTIVE_TURN (R410, R411): the member announces itself. RBAR's announcement follows the accesses of its issuer that its release covers (R422). -/
def execCollectiveTurn (entry : Nat) (s : State) : Host.Outcome State Fault Refusal :=
  match s.entries.get? entry with
  | none => .next s
  | some e => match e.coll? with
    | none => .next s
    | some (r, _) =>
      if e.state = .queued && s.ctxRuns e.ctx && s.turnCame entry e && s.keyTurn entry e r && (r.op != collRbar || s.beforeIssueDone entry e) then
        let s1 := (s.modEntry entry (fun x => { x.modProg (fun p =>
          { p with started := (s.die e.die).cycle, heard := [r.mySlot], clock := e.stamp.join (s.die e.die).vc }) with
            state := .running })).tellMembers e (.announce r.announce)
        let s2 := if e.token = 0 then s1 else s1.modTok e.token (fun t => { t with state := .running })
        .next (s2.slotsGone entry (List.range r.slots.length))
      else .next s

/-- A running collective entry. -/
def State.running? (s : State) (entry : Nat) : Option (Entry × CollRec × CollProg) :=
  match s.entries.get? entry with
  | none => none
  | some e => match e.coll? with
    | none => none
    | some (r, p) => if e.state = .running && s.ctxRuns e.ctx then some (e, r, p) else none

/-- A member of a slot in the own package that has announced itself, where no break lies between (R405, R411). -/
def State.announcers (s : State) (eid : Nat) (e : Entry) (r : CollRec) (slot : Nat) : List Entry :=
  (slotMembers (r.slots.getD slot 0)).filterMap (fun peer =>
    if peer = peerCode s.fuses.pkg e.die then none
    else match s.memberEntry eid e r peer with
      | some (_, m) => (match m.kind with
        | .ring _ p => if p.heard.isEmpty || s.barred m.die e.die then none else some m
        | _ => none)
      | none => none)

/-- What a slot's members announce to an entry: those of the own package what their entries hold, others what comes. -/
def State.announces (s : State) (eid : Nat) (e : Entry) (r : CollRec) (slot : Nat) (ann : Announce) : Bool :=
  (slotMembers (r.slots.getD slot 0)).any (fun peer => !s.ownPeer peer)
    || (s.announcers eid e r slot).any (fun m => match m.kind with | .ring q _ => q.announce == ann | _ => false)

/-- What an announcement of RBAR lets its hearer acquire (R422): the clocks of the slot's members. -/
def State.heardClock (s : State) (eid : Nat) (e : Entry) (r : CollRec) (slot : Nat) : Clock :=
  if r.op ≠ collRbar then Clock.zero
  else (s.announcers eid e r slot).foldl (fun t m => match m.kind with | .ring _ p => t.join p.clock | _ => t) Clock.zero

/-- COLLECTIVE_ANNOUNCE (R411): an announcement that disagrees with the member's own fails the entry; a slot that takes no part has no say (R420). -/
def execCollectiveAnnounce (entry slot : Nat) (ann : Announce) (s : State) : Host.Outcome State Fault Refusal :=
  match s.running? entry with
  | none => .next s
  | some (e, r, _) =>
    if !r.takesPart slot || !s.announces entry e r slot ann then .next s
    else if ann ≠ r.announce then .next (s.failPiece entry 0x0705 0)
    else .next (s.modEntry entry (fun x => { x.modProg (fun p =>
      { p with heard := if p.heard.contains slot then p.heard else slot :: p.heard }) with stamp := x.stamp.join (s.heardClock entry e r slot) }))

/-- The contribution of a slot to a bale: of its running members in the own package, whose issuers' earlier stores are performed (R315), one that delivers
first, else what came from another package. -/
def State.slotContribution (s : State) (eid : Nat) (e : Entry) (r : CollRec) (b : Bale) (ext : List Sys2Proof.SlotData) (slot : Nat) :
    State × EngRes Contribution × Option Nat :=
  let near := (slotMembers (r.slots.getD slot 0)).filterMap (fun peer =>
    if peer = peerCode s.fuses.pkg e.die then some (eid, e)
    else match s.memberEntry eid e r peer with
      | some (k, m) => if m.state == .running && s.issuerDone k m && !s.barred m.die e.die then some (k, m) else none
      | none => none)
  let far := ext.find? (fun d => d.slot == slot && (slotMembers (r.slots.getD slot 0)).any (fun p => !s.ownPeer p)
    && d.data.length == (r.range b).2 && d.expo.length == (r.expoRange b).2)
  match near[s.pick (eid * 4096 + slot) near.length]?, far with
  | _, some d => (s, .ok ⟨d.data, d.expo⟩, none)
  | some (k, m), none => (match m.kind with
    | .ring q _ => let (s1, x) := s.contribution k m q r b; (s1, x, some k)
    | _ => (s, .wait, none))
  | none, none => (s, .wait, none)

/-- The slots' contributions to a bale in order; the first failure is that of the contributing member's entry. -/
def State.contributions (s : State) (eid : Nat) (e : Entry) (r : CollRec) (b : Bale) (ext : List Sys2Proof.SlotData) :
    List Nat → State × Except (Option (Nat × Half × Nat)) (List Contribution)
  | [] => (s, .ok [])
  | j :: js =>
    match s.slotContribution eid e r b ext j with
    | (s1, .wait, _) => (s1, .error none)
    | (s1, .fail c a, k) => (s1, .error (some (k.getD eid, c, a)))
    | (s1, .ok x, _) => (match s1.contributions eid e r b ext js with
      | (s2, .ok xs) => (s2, .ok (x :: xs))
      | q => q)

/-- The lines of a window all of whose bales have landed (R188, R412). -/
def State.collLines (s : State) (eid : Nat) (r : CollRec) : State :=
  match s.entries.get? eid with
  | none => s
  | some e => match e.coll? with
    | none => s
    | some (_, p) =>
      let full := fun (l : Nat × Nat) => r.bales.zipIdx.all (fun q => p.bales.contains q.2
        || decide ((l.2 + 1) * 128 ≤ r.dst + q.1.at') || decide (r.dst + q.1.at' + q.1.n ≤ l.2 * 128))
      ((e.lines.filter full).foldl (fun s l => s.modPresence l.1 l.2 Presence.landed) s).modEntry eid (fun x =>
        { x with lines := e.lines.filter (fun l => !full l) })

/-- The bales that have landed counted in ascending destination offset (R412); the first refusal stands. -/
def State.countBales (eid bid boff : Nat) (r : CollRec) : Nat → State → State × Option Half
  | 0, s => (s, none)
  | n + 1, s =>
    match (s.entries.get? eid).bind Entry.coll? with
    | none => (s, none)
    | some (_, p) =>
      match r.bales[p.counted]? with
      | none => (s, none)
      | some b =>
        if !p.bales.contains p.counted then (s, none)
        else
          let s1 := s.modEntry eid (fun x => x.modProg (fun q => { q with counted := q.counted + 1 }))
          match s1.countDelivery bid boff b.n with
          | (s2, some c) => (s2, some c)
          | (s2, none) => State.countBales eid bid boff r n s2

/-- A bale written at its member (R412): its sectors' verdicts, then its bytes. -/
def State.writeBale (s : State) (eid : Nat) (e : Entry) (r : CollRec) (b : Bale) (bytes : List Byte) : State × EngRes Unit :=
  if r.dw then (e.receivers.foldl (fun s k => s.windowWrite k (r.dst + b.at') bytes) s, .ok ())
  else
    let g : Seg := ⟨.inl bytes, .glob ((r.dst + b.at') % 2 ^ 64), bytes.length⟩
    match s.engDests eid e g with
    | (s1, .wait) => (s1, .wait)
    | (s1, .fail c a) => (s1, .fail c a)
    | (s1, .ok ds) =>
      if !s1.reachAll e.die (ds.filterMap (fun d => d.place)) then (s1, .wait)
      else
        let s2 := s1.engStretch eid e (g, bytes, ds)
        (s1.asOneWrite s1.nextId (4 * eid + 2) (s2.coverPoison eid e (ds.filterMap (fun d => d.place))), .ok ())

/-- The collective's saturation flag is every member's (R416): set in the entries of the own package that have not completed. -/
def State.collSat (s : State) (eid : Nat) (e : Entry) (r : CollRec) : State :=
  let ks := eid :: (r.slots.flatMap slotMembers).filterMap (fun peer => (s.memberEntry eid e r peer).map (fun q => q.1))
  ks.dedup.foldl (fun s k => match s.entries.get? k with
    | some m =>
      if !s.entryOpen k then s
      else
        let s1 := s.modEntry k (fun x => { x with sat := true })
        if m.token = 0 then s1 else s1.modTok m.token (fun t => { t with sat := true })
    | none => s) s

/-- A bale taken by its member (R411, R412). -/
def State.takeBale (s : State) (eid i : Nat) (r : CollRec) (b : Bale) (sat : Bool) : State :=
  let s1 := s.modEntry eid (fun x => { x.modProg (fun p => { p with bales := i :: p.bales }) with
    bytes := x.bytes + b.n, sat := x.sat || sat, onLayer := x.onLayer.filter (fun q => s.pageAway x.ctx (q.2 * 65536)) })
  let s2 := s1.collLines eid r
  match s2.entries.get? eid with
  | none => s2
  | some e =>
    let s2 := if sat then s2.collSat eid e r else s2
    let s3 := if e.token = 0 then s2 else s2.modTok e.token (fun t => { t with bytes := e.bytes, sat := e.sat })
    match (if r.dw && !bitOf r.boff.toNat 31 then e.bid else none) with
    | none => s3
    | some bid => match State.countBales eid bid (r.boff.toNat % 2 ^ 21) r (r.bales.length + 1) s3 with
      | (s4, none) => s4
      | (s4, some c) => s4.failPiece eid c 0

/-- BALE_LAND (R411, R412): a bale whose contributions have all come is combined and written; a copy already taken is discarded. -/
def execBaleLand (entry bale : Nat) (ext : List Sys2Proof.SlotData) (s : State) : Host.Outcome State Fault Refusal :=
  match s.running? entry with
  | none => .next s
  | some (e, r, p) => match r.bales[bale]? with
    | none => .next s
    | some b =>
      let need := r.needs b
      if p.bales.contains bale || !s.issuerDone entry e || !need.all (fun j => p.heard.contains j && !p.missing.contains j) then .next s
      else match s.contributions entry e r b ext need with
        | (s1, .error none) => .next s1
        | (s1, .error (some (k, c, a))) => .next (s1.failPiece k c (BitVec.ofNat 64 a))
        | (s1, .ok cs) =>
          let mine := if (r.expoRange b).2 = 0 then (s1, EngRes.ok default) else s1.contribution entry e r r b
          match mine with
          | (s2, .wait) => .next s2
          | (s2, .fail c a) => .next (s2.failPiece entry c (BitVec.ofNat 64 a))
          | (s2, .ok m) =>
            let (bytes, sat) := s2.baleBytes r b cs m
            match s2.writeBale entry e r b bytes with
            | (s3, .wait) => .next s3
            | (_, .fail c a) => .next (s2.failPiece entry c (BitVec.ofNat 64 a))
            | (s3, .ok ()) =>
              let far := (ext.filter (fun d => need.contains d.slot)).flatMap (fun d => slotMembers (r.slots.getD d.slot 0))
              .next ((s3.takeBale entry bale r b sat).tellPeers e far (.took bale sat))

/-! ### Members in other packages (R411, R413, R416) -/

/-- An entry reads and sends its contribution to a bale of a member in another package; its own verdict or poison fails it (R411, R413). -/
def State.collSend (s : State) (entry peer bale : Nat) : State :=
  match s.running? entry with
  | none => s
  | some (e, r, p) =>
    match slotOf r.slots peer with
    | none => s
    | some j => match (r.atSlot j).bales[bale]? with
      | none => s
      | some b =>
        if s.ownPeer peer || p.sent.contains (peer, bale) || p.withdrawn.contains peer || !r.takers.contains j || !(r.given j).contains bale
            || !s.issuerDone entry e then s
        else match s.contribution entry e r (r.atSlot j) b with
          | (s1, .wait) => s1
          | (s1, .fail c a) => s1.failPiece entry c (BitVec.ofNat 64 a)
          | (s1, .ok x) => (s1.tellPeers e [peer] (.bale bale x.data x.expo)).modEntry entry (fun y => y.modProg (fun q =>
              { q with sent := (peer, bale) :: q.sent }))

/-- A member in another package has taken or discarded a bale that an entry sent it (R413, R416). -/
def State.collTook (s : State) (entry peer bale : Nat) (sat : Bool) : State :=
  match s.running? entry with
  | none => s
  | some (e, r, p) =>
    if !p.sent.contains (peer, bale) || p.taken.contains (peer, bale) then s
    else
      let s1 := s.modEntry entry (fun y => y.modProg (fun q => { q with taken := (peer, bale) :: q.taken }))
      if sat then s1.collSat entry e r else s1

/-- Members of other packages have died (R410, R432): an entry that has sent one of them a bale not taken yet fails with REMOTE_DOWN, and for the others
their slots may be missing. (DESIGN CHOICE, log 129) -/
def State.membersDown (s : State) (hit : Nat → Bool) : State :=
  s.entries.foldl (fun s q => match (s.entries.get? q.1).bind (fun e => e.coll?.map (fun x => (e, x))) with
    | none => s
    | some (e, r, p) =>
      let dead := (r.slots.flatMap slotMembers).filter (fun k => hit k && !p.withdrawn.contains k)
      if dead.isEmpty || !e.live then s
      else if p.sent.any (fun x => dead.contains x.1 && !p.taken.contains x) then s.failPiece q.1 0x0701 0
      else (s.modEntry q.1 (fun x => x.modProg (fun y => { y with withdrawn := dead ++ y.withdrawn }))).slotsGone q.1 (dead.filterMap (slotOf r.slots))) s

/-- SWITCH_DOWN_NOTICE (R432): every outstanding request to a dead die, or to a dead package, fails, its members of collectives are gone, and the targets
drop their windows for it. -/
def execSwitchDownNotice (port peer : Nat) (whole : Bool) (s : State) : Host.Outcome State Fault Refusal :=
  let hit := fun (k : Nat) => if whole then k / 8 == peer / 8 else k == peer
  if port ≥ 16 then .next s
  else
    let s1 := (s.pairs.filter (fun p => hit (p.1 % 8192))).foldl (fun s p => s.failPair (p.1 / 8192) (p.1 % 8192) 0x0701) s
    .next ({ s1 with dies := s1.dies.map (fun (d : Nat × Die) => (d.1, { d.2 with replay := d.2.replay.filter (fun r => !hit r.1) })) }.membersDown hit)

/-- WITHDRAW_NOTICE (R410): a slot all of whose members have withdrawn is missing. -/
def execWithdrawNotice (entry peer : Nat) (s : State) : Host.Outcome State Fault Refusal :=
  match s.running? entry with
  | none => .next s
  | some (e, r, p) =>
    let came := if s.ownPeer peer then
        (match s.memberEntry entry e r peer with | some (_, m) => m.hasWithdrawn && !s.barred m.die e.die | none => false) else true
    match slotOf r.slots peer with
    | none => .next s
    | some j =>
      if !came || p.withdrawn.contains peer then .next s
      else .next ((s.modEntry entry (fun x => x.modProg (fun q => { q with withdrawn := peer :: p.withdrawn }))).slotsGone entry [j])

/-- COLLECTIVE_DEADLINE (R410): nothing of a slot has come within DEADLINE of the entry's turn. -/
def execCollectiveDeadline (entry slot : Nat) (s : State) : Host.Outcome State Fault Refusal :=
  match s.running? entry with
  | none => .next s
  | some (e, r, p) =>
    if r.deadline ≠ 0 && slot < r.slots.length && !p.heard.contains slot
        && decide (r.deadline * 1250 < (s.die e.die).cycle.toNat - p.started.toNat) then
      .next (s.slotMissing entry slot e r p)
    else .next s

/-- COLLECTIVE_COMPLETE (R413). An entry that a missing rank fails has not withdrawn: it ends once its other outputs are written and the other members
have what it contributes (R411). -/
def execCollectiveComplete (entry : Nat) (s : State) : Host.Outcome State Fault Refusal :=
  match s.entries.get? entry with
  | none => .next s
  | some e => match e.coll?, e.state with
    | some _, .ending failed => .next (s.completeEntry entry e failed)
    | some (r, p), .running =>
      if !s.ctxRuns e.ctx || !r.outputsDone p && e.cause = 0 then .next s
      else if e.cause ≠ 0 then
        (if r.op = collRbar || (r.outputsDone p && s.contributionTaken entry e r p) then .next (s.failEntry entry 0x0703 0) else .next s)
      else if s.contributionTaken entry e r p then .next (s.completeEntry entry e false)
      else .next s
    | _, _ => .next s

end Sys2Proof.Machine
end

