-- ==== Sys2Proof/Machine/Fetch.lean ====
section
/-! DEFINITION. The fetch of an instruction (R27 to R29, R52 steps 1 to 4) and the two outcomes of it that are no instruction. -/

namespace Sys2Proof.Machine

/-- What the fetch of an instruction gives: the instruction; a base word that is none (R28, R52 step 4); a cause with the address of the
word that faulted (R29); or the leaf and the page that it parks on. -/
inductive FetchRes where
  | run (i : Instr)
  | unassigned (w : Word)
  | fault (cause : Half) (addr : Dword)
  | park (leaf : Dword) (page : Nat)
  deriving DecidableEq, Repr

/-- The `n` words after the base word (R52 step 3), or what stops the fetch. -/
def State.fetchTail (b : Block) (pc : Dword) : Nat → Nat → State → State × Except FetchRes (List Word)
  | 0, _, s => (s, .ok [])
  | n + 1, k, s =>
    let a := pc + BitVec.ofNat 64 (4 * k)
    match s.fetchWord b a with
    | (s1, .fault c) => (s1, .error (.fault c a))
    | (s1, .arriving l) => (s1, .error (.park l (a.toNat / 65536 * 65536)))
    | (s1, .word w) => match State.fetchTail b pc n (k + 1) s1 with
      | (s2, .ok ws) => (s2, .ok (w :: ws))
      | r => r

/-- Steps 1 to 4 of R52 at an address. -/
def State.fetchAt (s : State) (b : Block) (pc : Dword) : State × FetchRes :=
  match s.fetchTail b pc 1 0 with
  | (s1, .error r) => (s1, r)
  | (s1, .ok ws) =>
    let w := ws.headD 0
    if lenOf w = 3 then (s1, .unassigned w)
    else match s1.fetchTail b pc (lenOf w) 1 with
      | (s2, .error r) => (s2, r)
      | (s2, .ok ts) => match decodeWords w (ts.getD 0 0) (ts.getD 1 0) with
        | .ok i => (s2, .run i)
        | .error _ => (s2, .unassigned w)

/-- Words one, two or three of an instruction, 1 for LEN = 0b11 (R28). -/
def lenWords (w : Word) : Nat := if lenOf w = 3 then 1 else lenOf w + 1

/-- UNASSIGNED_OPCODE (R28, R52 steps 2 and 4): ILLEGAL_OPCODE, for the lanes of M. -/
def execUnassignedOpcode (w : Word) (s : State) : Host.Outcome State Fault Refusal :=
  match s.curSlice with
  | none => .fault .noSlice
  | some (bid, sid, _, x) => .next (s.trap bid sid 0x0101 0 x.mask (lenWords w) false)

/-- FETCH_FAULT (R29, R52 steps 1 and 3): the cause with the address of the word that faulted, for the lanes of M. -/
def execFetchFault (cause : Half) (addr : Dword) (s : State) : Host.Outcome State Fault Refusal :=
  match s.curSlice with
  | none => .fault .noSlice
  | some (bid, sid, b, x) => .next (s.trap bid sid cause addr x.mask (s.lenAt b x.pc) false)

/-- The slice that executes waits for a page of a layer that its fetch meets (R391). -/
def State.fetchPark (s : State) (leaf : Dword) (page : Nat) : Host.Outcome State Fault Refusal :=
  match s.curSlice with
  | none => .fault .noSlice
  | some (bid, sid, b, x) =>
    .next (((s.requestByLeaf b.ctx leaf).modSlice bid sid (fun y =>
      { y with prog := .parked [(leafLayer leaf, BitVec.ofNat 64 page, x.mask)] })).setWaiting bid sid)

end Sys2Proof.Machine
end

