-- ==== Sys2Proof/Machine/Scan.lean ====
section
/-! DEFINITION. The scan of a kernel's code (R333, R472), its header (R60 to R62) and the checks of KREG (R334). -/

namespace Sys2Proof.Machine

/-! ### Which registers an instruction names, by its opcode -/

/-- The part of an encoding table that the scan uses: the destination, the sources, and whether the width of `.ty` and `.run` follows an
effective type; with `wide`, one that can be of 64 bits. -/
structure ScanRow where
  dst : Dst := .no
  sa : Src := .no
  sb : Src := .no
  sc : Src := .no
  eff : Bool := false
  wide : Bool := false

/-- Opcodes 0x00 to 0x1F (R117). -/
def scanInt (opc : Nat) (f : Fields) : ScanRow :=
  match opc with
  | 0x04 => { dst := .ty, sa := .ty, sb := .ty, sc := .ty, eff := true, wide := true }
  | 0x0B => { dst := if bitOf (modOf f) 0 then .w32 else .ty, sa := .ty, sb := .ty, sc := .w32, eff := true, wide := true }
  | 0x0C => { dst := if bitOf (modOf f) 0 then .w32 else .ty, sa := .ty, sb := .ty, sc := .w32, eff := true, wide := true }
  | 0x17 => { dst := .ty, sa := .ty, sb := .ty, sc := .w32, eff := true, wide := true }
  | 0x18 => { dst := .w32, sa := .ty, eff := true, wide := true }
  | 0x19 => { dst := .w32, sa := .ty, eff := true, wide := true }
  | 0x1B => { dst := .w64, sa := .w64, sb := .w32 }
  | 0x1C => { dst := .ty, sa := .ty }
  | 0x1D => { dst := .ty }
  | 0x1E => {}
  | 0x1F => {}
  | _ => { dst := .ty, sa := .ty, sb := if 0x12 ≤ opc && opc ≤ 0x16 then .w32 else .ty, eff := true, wide := true }

/-- Opcodes 0x20 to 0x3F (R120, R122). -/
def scanFp (opc : Nat) : ScanRow :=
  if 0x37 ≤ opc then {}
  else if 0x2D ≤ opc && opc ≤ 0x33 then { dst := .ty, sa := .ty, eff := true }
  else
    { dst := if opc = 0x36 then .w32 else .ty, sa := .ty, sb := if opc = 0x35 then .w32 else .ty,
      sc := if opc = 0x23 then .ty else .no, eff := true, wide := true }

/-- Opcodes 0x40 to 0x5F (R126, R131, R135, R138, R104). -/
def scanConv (opc : Nat) (f : Fields) : ScanRow :=
  match opc with
  | 0x40 => { dst := .ty, sa := if typeWide (cvtSrc f) then .w64 else .w32, eff := true, wide := true }
  | 0x41 => { dst := .w32, sa := if typeWide (cvtSrc f) then .w64 else .w32, sb := .w32 }
  | 0x42 => { dst := .w32, sa := .w32, sb := .w32 }
  | 0x43 => { dst := .w32, sa := .w32 }
  | 0x44 => { dst := .w32, sa := .w32, sb := .u32 }
  | 0x45 => { dst := .w32, sa := .w32, sb := .u32 }
  | 0x46 => { dst := .pd, sa := .ty, sb := .ty, eff := true, wide := true }
  | 0x47 => { dst := .pd, sa := .ty, sb := .ty, eff := true, wide := true }
  | 0x48 => { dst := .pd, sa := .ty, sb := .u32, eff := true, wide := true }
  | 0x4D => { dst := .pd, sa := if bitOf (modOf f) 2 then .w32 else .no }
  | 0x4E => { dst := .ty, sa := .ty, sb := .ty }
  | 0x4F => { dst := .w32, sa := .u32, sb := .u32 }
  | 0x50 => { dst := .w32, sa := .w32 }
  | 0x51 => { dst := .w32, sa := .raw }
  | 0x52 => { dst := .ty, sa := .ty, sb := .w32 }
  | 0x53 => { dst := .ty, sa := .ty, sb := .u32 }
  | 0x54 => { dst := if modOf f % 4 = 3 then .w64 else .pd }
  | 0x55 => { dst := .ty, sa := .ty }
  | 0x56 => { dst := .ty, sa := .ty }
  | 0x57 => { dst := .w32, sa := .w32, sb := .u32 }
  | _ => {}

/-- Opcodes 0x60 to 0x7F (R204, R236, R434). The destination of TLD and the data of TST follow a record (R472). -/
def scanMem (opc : Nat) (f : Fields) : ScanRow :=
  match opc with
  | 0x60 => { dst := .run, sa := .w64, eff := true, wide := true }
  | 0x61 => { sa := .w64, sb := .run, eff := true, wide := true }
  | 0x62 => { dst := .run, sa := .w32, eff := true, wide := true }
  | 0x63 => { sa := .w32, sb := .run, eff := true, wide := true }
  | 0x64 => { dst := .ty, sa := if bitOf (modOf f) 2 then .u32 else .u64, eff := true, wide := true }
  | 0x65 => { dst := if f.dst.toNat % 2 = 0 then .w64 else .w32, sa := .u64, sb := .raw }
  | 0x66 => { sa := .u64, sb := .raw, sc := .raw }
  | 0x67 => { dst := .ty, sa := .w64, eff := true, wide := true }
  | 0x68 => { dst := .pd, sa := .w64, sb := .ty, eff := true, wide := true }
  | 0x69 => { dst := .run, sa := .w32, sb := .w64, eff := true, wide := true }
  | 0x6A => { sa := .w32, sb := .w64, sc := .run, eff := true, wide := true }
  | 0x6B => { dst := .ty, sa := .w32, sb := .w64, sc := if modOf f / 64 % 16 = 7 then .two else .ty }
  | 0x6C => { sa := .w64 }
  | 0x6D => { dst := if bitOf (modOf f) 0 then .w32 else .pd, sa := .w64 }
  | 0x6E => { sa := .w64 }
  | 0x70 => { dst := if modOf f % 4 = 0 then .w32 else .no, sa := .w32 }
  | _ => {}

/-- Opcodes 0x80 to 0x9F (R289). -/
def scanTile (opc : Nat) (f : Fields) : ScanRow :=
  match opc with
  | 0x80 => { sb := .u32 }
  | 0x81 => { sb := .u32 }
  | 0x82 => { sa := .u32, sb := if bitOf (modOf f) 0 then .u32 else .u64, sc := .u32 }
  | 0x83 =>
    let r : Src := if bitOf (modOf f) 2 then .u32 else .u64
    { sa := .u32, sb := r, sc := r }
  | 0x84 => { sa := .u32, sb := .u32, sc := .u32 }
  | 0x85 => { sa := .u32, sb := .u32, sc := .u32 }
  | 0x86 => { sc := .u32 }
  | 0x88 => { dst := .w32 }
  | 0x89 => { sb := .u32 }
  | 0x8C => { sa := .u32, sb := .u32, sc := .u32 }
  | 0x8D => { sa := .u32, sb := .u32, sc := .u32 }
  | 0x87 => { sa := if bitOf (modOf f) 6 then .u32 else .u64, sb := .u32, sc := .u32 }
  | 0x8A => { sa := if bitOf (modOf f) 6 then .u32 else .u64, sb := .u32, sc := .u32 }
  | 0x8B => { sa := if bitOf (modOf f) 6 then .u32 else .u64, sb := .u32, sc := .u32 }
  | _ => {}

/-- Opcodes 0xA0 to 0xBF (R156, R236, R266). -/
def scanSync (opc : Nat) (f : Fields) : ScanRow :=
  let a : Src := if bitOf (modOf f) 5 then .w32 else .w64
  match opc with
  | 0xA0 => { sa := .u32 }
  | 0xA1 => { sa := .u32, sb := .u32 }
  | 0xA2 => { dst := if bitOf (modOf f) 4 then .w32 else .no, sa := .u32, sb := if bitOf (modOf f) 3 then .u32 else .no }
  | 0xA3 => { sa := .u32, sb := .u32 }
  | 0xA4 => { dst := .pd, sa := .u32, sb := .u32 }
  | 0xA5 => { sa := .u64, sb := .uty, eff := true, wide := true }
  | 0xA6 => { dst := .ty, sa := a, sb := .ty, sc := if modOf f / 64 % 16 = 7 then .ty else .no, eff := true, wide := true }
  | 0xAB => { dst := .w32, sa := .u64 }
  | 0xAE => { sa := a, sb := .ty, eff := true, wide := true }
  | 0xAF => { sa := a, sb := .ty, eff := true, wide := true }
  | 0xB0 => { sa := .u64, sb := .u32 }
  | 0xB1 => { sa := .u64 }
  | 0xB3 => { sa := .u32 }
  | 0xB4 => { dst := .w32, sa := .u32, sb := .u32 }
  | 0xB5 => { sa := .u32 }
  | 0xB6 => { dst := .w32, sa := .u32 }
  | 0xB7 => { dst := .w32, sa := .u32 }
  | _ => if 0xA7 ≤ opc && opc ≤ 0xAD then { dst := .ty, sa := a, sb := .ty, eff := true, wide := true } else {}

/-- Opcodes 0xC0 to 0xDF (R318, R335, R356, R357, R417). -/
def scanQueue (opc : Nat) (f : Fields) : ScanRow :=
  match opc with
  | 0xC0 => { dst := .w64, sa := if bitOf (modOf f) 5 then .u32 else .u64, sb := if bitOf (modOf f) 6 then .u32 else .u64, sc := .u32 }
  | 0xC1 => { dst := .w64, sa := .u64, sb := .raw, sc := .u64 }
  | 0xC4 => { dst := .w64 }
  | 0xC5 => { sa := .u64 }
  | 0xC6 => { dst := .pd, sa := .u64 }
  | 0xC8 => { dst := .pd, sa := .u64 }
  | 0xCE => { dst := .w64, sa := if bitOf (modOf f) 0 then .u64 else .no }
  | 0xD0 => { dst := .w64, sa := .u64 }
  | 0xD1 => if bitOf (modOf f) 0 then { sb := .u32 } else { dst := .w64, sa := .u64, sb := .u32 }
  | 0xD2 => { dst := .w32, sa := .u64 }
  | _ => if opc ≤ 0xCF then { dst := .w64, sa := .u64 } else {}

/-- Opcodes 0xE0 to 0xFF (R104, R162, R373, R398). -/
def scanFlow (opc : Nat) (f : Fields) : ScanRow :=
  match opc with
  | 0xE1 => { sa := .u64 }
  | 0xE2 => { dst := .w64 }
  | 0xE3 => { dst := .w64, sa := .u64 }
  | 0xE4 => { sa := .u64 }
  | 0xEB => { sb := .u32 }
  | 0xEC => { dst := if (movsWide (modOf f)).getD false then .w64 else .w32 }
  | 0xED => { dst := if (movsWide (modOf f)).getD false then .w64 else .w32 }
  | 0xEF => { dst := .w32 }
  | 0xF1 => { sb := .u32 }
  | 0xF2 => { sb := .u32 }
  | 0xF3 => { dst := .w32 }
  | 0xF4 => { dst := .w64, sa := .w64 }
  | 0xF5 => { dst := .w64, sa := .u64 }
  | 0xF6 => { sa := if modOf f = 1 then .no else .u32 }
  | 0xF7 => { sa := if modOf f = 1 then .no else .u32 }
  | 0xF9 => { sa := if modOf f % 4 = 2 then .u64 else .no }
  | 0xFA => if bitOf (modOf f) 0 then { dst := .w64 } else { dst := .eight, sa := .u64 }
  | 0xFB => { sb := .u32 }
  | 0xFC => { dst := .w64, sb := .u32 }
  | 0xFD => { dst := .w64, sb := .u32 }
  | 0xFE => { dst := .pd, sb := .u32 }
  | _ => {}

/-- The row of an opcode: nothing for an unassigned one. -/
def scanRow (opc : Nat) (f : Fields) : ScanRow :=
  if opc < 0x20 then scanInt opc f
  else if opc < 0x40 then scanFp opc
  else if opc < 0x60 then scanConv opc f
  else if opc < 0x80 then scanMem opc f
  else if opc < 0xA0 then scanTile opc f
  else if opc < 0xC0 then scanSync opc f
  else if opc < 0xE0 then scanQueue opc f
  else scanFlow opc f

/-! ### What an instruction writes and releases (R333, R472) -/

/-- A set of v registers. -/
abbrev RegSet := BitVec 60

/-- `n` registers from one upward. -/
def regRange (k n : Nat) : RegSet :=
  if 60 ≤ k then 0 else BitVec.ofNat 60 ((2 ^ n - 1) * 2 ^ k)

/-- The registers that an instruction adds to the live set: an unfixed width counts at its longest (R472). (DEDUCED, log 77) -/
def ScanRow.adds (r : ScanRow) (f : Fields) : RegSet :=
  let d := f.dst.toNat
  let tov := f.ext.tov.toNat
  let loose := r.eff && tov == 0
  if f.n then 0
  else match r.dst with
    | .ty => regRange d (if loose then (if r.wide && d % 2 == 0 then 2 else 1) else if typeWide tov then 2 else 1)
    | .run =>
      let c := countOf f
      regRange d (if loose then (if r.wide && d % (2 * c) == 0 && decide (d + 2 * c ≤ 60) then 2 * c else c)
        else if typeWide tov then 2 * c else c)
    | x => regRange d (x.span tov f)

/-- The registers that a source with its last-use bit removes: one of unfixed width only those that it releases in every case (R472). -/
def ScanRow.takes (r : ScanRow) (f : Fields) (x : Src) (k : Nat) (last : Bool) : RegSet :=
  let tov := f.ext.tov.toNat
  let ty := if r.eff && tov == 0 then 0 else tov
  if last then regRange k (x.span ty f) else 0

/-- The registers that an instruction removes. -/
def ScanRow.removes (r : ScanRow) (opc : Nat) (f : Fields) : RegSet :=
  r.takes f r.sa f.sa.toNat f.la
    ||| r.takes f r.sb f.sb.toNat f.lb
    ||| r.takes f r.sc f.ext.sc.toNat f.ext.lc
    ||| (if opc = 0xF0 then BitVec.ofNat 60 (((f.lit?.getD 0).toNat) * (if bitOf (modOf f) 10 then 2 ^ 32 else 1)) else 0)

/-! ### The code as a sequence (R27, R333, R334) -/

/-- An instruction of the code section: its offset in it, its opcode, its fields. -/
structure ScanIns where
  off : Nat
  opc : Nat
  f : Fields

/-- The code's words read as instructions: the sequence, or the offset of what fails (R334, CODE). (DEDUCED, log 77) -/
def scanCode : Nat → Nat → List Word → Except Nat (List ScanIns)
  | 0, _, _ => .ok []
  | fuel + 1, off, ws =>
    match ws with
    | [] => .ok []
    | w :: rest =>
      let n := lenOf w
      if n = 3 || rest.length < n then .error off
      else
        let t : Tail := match n, rest with
          | 1, e :: _ => .two (extOf e)
          | 2, e :: l :: _ => .three (extOf e) l
          | _, _ => .one
        (scanCode fuel (off + 4 * (n + 1)) (rest.drop n)).map (fun is => ⟨off, opcOf w, fieldsOf w t⟩ :: is)

/-- The literal target of an instruction of R333, as an offset in the code. -/
def ScanIns.target (i : ScanIns) : Option Int :=
  if [0xE0, 0xE2, 0xE5, 0xE6, 0xE8].contains i.opc then i.f.lit?.map (fun l => (i.off : Int) + l.toInt) else none

/-- The instruction has no successor after it in the sequence (R333). -/
def ScanIns.ends (i : ScanIns) : Bool := i.opc == 0xE1 || i.opc == 0xE4 || (i.opc == 0xE0 && i.f.ext.gov == 1)

/-- An unordered opcode (R49). -/
def ScanIns.unordered (i : ScanIns) : Bool := [0x8D, 0xAD, 0xAF, 0xCB, 0xED].contains i.opc

/-- The offset is that of a decoded instruction. -/
def startsAt (is : List ScanIns) (o : Int) : Bool := is.any (fun i => (i.off : Int) == o)

/-- The sets before and after each instruction, by its offset: one pass over the code; `pass` gives those of the pass before. -/
def livePass (is : List ScanIns) (trap : Option Nat) (after : List RegSet) : List RegSet :=
  let all := after.foldl (· ||| ·) 0
  let prev := (is.zip after)
  let fallen := (none :: (prev.map some)).map (fun p => match p with
    | some (i, a) => if i.ends then (0 : RegSet) else a
    | none => 0)
  (is.zip fallen).map (fun q =>
    let i := q.1
    let jumped := (prev.filter (fun p => p.1.target == some (i.off : Int))).foldl (fun s p => s ||| p.2) 0
    let before := q.2 ||| jumped ||| (if trap == some i.off then all else 0)
    let r := scanRow i.opc i.f
    (before &&& ~~~(r.removes i.opc i.f)) ||| r.adds i.f)

/-- The sets after every instruction, computed to the fixed point in at most `fuel` passes. -/
def liveFix (is : List ScanIns) (trap : Option Nat) : Nat → List RegSet → List RegSet
  | 0, a => a
  | fuel + 1, a =>
    let b := livePass is trap a
    if b = a then a else liveFix is trap fuel b

/-- The size of a set. -/
def setSize (s : RegSet) : Nat := ((List.range 60).filter (fun i => s.getLsbD i)).length

/-- LIVE (R333): each pass but the last adds a register to some set. -/
def liveOf (is : List ScanIns) (trap : Option Nat) : Nat :=
  ((liveFix is trap (60 * is.length + 1) (is.map (fun _ => 0))).map setSize).foldl max 0

/-! ### The image (R60, R61, R334) -/

/-- What the header of an image says (R60). -/
structure Header where
  codeOff : Nat
  codeLen : Nat
  entry : Nat
  trapEntry : Option Nat
  gang : Nat
  slots : Nat
  slices : Nat
  partw : Word
  acc : Nat
  promise : Nat
  floor : Nat
  scratch : Nat
  live : Nat
  deriving DecidableEq, Repr

/-- A field of an image. -/
def imgField (b : List Byte) (o n : Nat) : Nat := leNat ((b.drop o).take n)

/-- The header of an image. -/
def Header.ofBytes (b : List Byte) : Header :=
  let f := imgField b
  { codeOff := f 0x08 4, codeLen := f 0x0C 4, entry := f 0x24 4,
    trapEntry := if f 0x28 4 = 0xFFFFFFFF then none else some (f 0x28 4), gang := f 0x2C 1, slots := f 0x2D 1, slices := f 0x2E 2,
    partw := BitVec.ofNat 32 (f 0x30 4), acc := f 0x34 2, promise := f 0x36 2, floor := f 0x38 4, scratch := f 0x3C 4, live := f 0x40 4 }

/-- Pool units of a partition word (R62). -/
def partPool (w : Word) : Nat := bitsOf w.toNat 7 0
/-- Scratchpad units of a partition word. -/
def partScratch (w : Word) : Nat := bitsOf w.toNat 15 8
/-- Accumulator units of a partition word. -/
def partAcc (w : Word) : Nat := bitsOf w.toNat 23 16

/-- A partition word as R62 asks. -/
def partOk (w : Word) : Bool := decide (w.toNat < 2 ^ 24) && decide (partPool w + partScratch w + partAcc w ≤ 128)

/-- The HEADER row of R334. (DEDUCED, log 77) -/
def headerOk (b : List Byte) : Bool :=
  let f := imgField b
  let h := Header.ofBytes b
  let n := b.length
  decide (128 ≤ n) && f 0 4 == 0x314B384E && f 4 2 == 1 && f 6 2 == 128 && f 0x44 56 == 0
    && (h.gang == 16 || h.gang == 32 || h.gang == 64) && decide (1 ≤ h.slices) && decide (h.slices ≤ 256) && decide (h.slots ≤ 32)
    && decide (h.acc ≤ 16) && partOk h.partw && h.scratch % 128 == 0 && decide (h.promise ≤ 2) && decide (h.live ≤ 60)
    && decide (h.codeOff + h.codeLen ≤ n) && decide (f 0x10 4 + f 0x14 4 ≤ n) && decide (f 0x18 4 + 64 * f 0x1C 2 ≤ n)
    && decide (f 0x20 4 + 4 * f 0x1E 2 ≤ n)
    && (List.range (f 0x1E 2)).all (fun i => decide (f (f 0x20 4 + 4 * i) 4 < 4096))
    && h.codeOff % 4 == 0 && h.codeLen % 4 == 0 && h.entry % 4 == 0 && f 0x18 4 % 64 == 0
    && decide (h.entry < h.codeLen) && (match h.trapEntry with | some t => decide (t < h.codeLen) | none => true)

/-- The code words of an image. -/
def codeWords (b : List Byte) (h : Header) : List Word :=
  (List.range (h.codeLen / 4)).map (fun i => BitVec.ofNat 32 (imgField b (h.codeOff + 4 * i) 4))

/-- The checks of R334 but for SPACE: the status with the second word, or the header and whether the code is ordered.
(DEDUCED, log 77) -/
def checkImage (b : List Byte) : Except (Nat × Nat) (Header × Bool) :=
  let h := Header.ofBytes b
  if !headerOk b then .error (1, 0)
  else if (crc32 (b.take 0x7C)).toNat ≠ imgField b 0x7C 4 then .error (2, 0)
  else match scanCode (h.codeLen / 4) 0 (codeWords b h) with
    | .error o => .error (3, h.codeOff + o)
    | .ok is =>
      match is.find? (fun i => match i.target with | some t => !startsAt is t | none => false) with
      | some i => .error (4, h.codeOff + i.off)
      | none =>
        match (h.entry :: h.trapEntry.toList).find? (fun (p : Nat) => !startsAt is (p : Int)) with
        | some p => .error (4, h.codeOff + p)
        | none =>
          let ordered := !is.any ScanIns.unordered
          if liveOf is h.trapEntry ≠ h.live then .error (5, 0)
          else if h.live * 4 * h.slices < h.floor || 4096 * partPool h.partw < h.floor || 16384 * partScratch h.partw < h.scratch
              || partAcc h.partw < h.acc then .error (6, 0)
          else if h.promise ≠ 0 && (h.promise == 1) != ordered then .error (7, 0)
          else .ok (h, ordered)

end Sys2Proof.Machine
end

