-- ==== Sys2Proof/Machine/Kernel.lean ====
section
/-! DEFINITION. Registered kernels (R331 to R335), graph nodes (R336 to R339, R424), leases (R340), and the completion of nodes (R358): KREG,
LNCH, NODEQ and the events of a node. -/

namespace Sys2Proof.Machine

/-! ### Kernel records (R331, R332) -/

/-- The record that a handle names, if it is Registered and the handle valid (R332). -/
def Ctx.kernelOf (c : Ctx) (h : Word) : Option (Nat × Kernel) :=
  let i := bitsOf h.toNat 11 0
  match c.kernels.get? i with
  | some k => if k.state = 1 && k.gen.toNat == bitsOf h.toNat 27 12 && bitsOf h.toNat 31 28 == 0 then some (i, k) else none
  | none => none

/-- The first of some lists that holds something. -/
def firstFull {α : Type} : List (List α) → List α
  | [] => []
  | l :: ls => if l.isEmpty then firstFull ls else l

/-- The places of the image area with `n` free bytes (R334, SPACE): those at multiples of 64 bytes; where there is none, those right after an image,
at the next word if `n` bytes are free from there. (DESIGN CHOICE, log 76) -/
def Ctx.imagePlaces (c : Ctx) (n : Nat) : List Nat :=
  let used := (c.kernels.filter (fun k => k.2.state != 0)).map (fun k => (k.2.off, k.2.len))
  let fits := fun (o : Nat) => decide (o + n ≤ c.imageSize) && used.all (fun u => decide (o + n ≤ u.1) || decide (u.1 + u.2 ≤ o))
  let ends := used.map (fun u => u.1 + u.2)
  firstFull [((List.range (c.imageSize / 64 + 1)).map (fun i => i * 64)).filter fits, (ends.map (fun o => (o + 3) / 4 * 4)).filter fits,
             ends.filter fits]

/-- Where an image goes (R334 does not say which place). -/
def State.imageRoom (s : State) (c : Ctx) (n : Nat) : Option Nat := s.pickFrom (2 ^ 61 + 1024) (c.imagePlaces n)

/-- A Free kernel record (R332 does not say which). (DESIGN CHOICE, log 25) -/
def State.freeKernel (s : State) (c : Ctx) : Option Nat :=
  s.pickFrom (2 ^ 61 + 1025) ((List.range 4096).filter (fun i => match c.kernels.get? i with | some k => k.state == 0 | none => true))

/-- A kernel registered from its image (R331, R332): its record and its copy, and the handle. -/
def State.register (s : State) (ctx : Nat) (c : Ctx) (i o : Nat) (b : List Byte) (h : Header) (ordered : Bool) : State × Nat :=
  let g0 : Half := (match c.kernels.get? i with | some k => k.gen | none => 0) + 1
  let g := if g0 = 0 then 1 else g0
  let k : Kernel :=
    { gen := g, state := 1, off := o, len := b.length, codeOff := h.codeOff, codeLen := h.codeLen, entry := h.entry,
      trapEntry := h.trapEntry, gang := h.gang, slotLimit := h.slots, slices := h.slices, partw := h.partw, acc := h.acc,
      floor := h.floor, scratch := h.scratch, ordered := ordered }
  ((s.privWrite ctx (c.image + o) b).modCtx ctx (fun c => { c with kernels := c.kernels.put i k }), g.toNat * 4096 + i)

/-- The status pair of KREG. (DESIGN CHOICE, log 76) -/
def kregOut (v : Env) (status second : Nat) : Out := { regs := [v.writeUni true (BitVec.ofNat 64 (status + 2 ^ 32 * second))] }

/-- KREG's steps (R334, R335): once the record is taken, it waits until every die of the partition holds it. (DESIGN CHOICE, log 76) -/
def kregBody (v : Env) (s : State) : Res :=
  let hold := fun (s : State) (h : Nat) => s.modSlice v.bid v.sid (fun x => { x with prog := .pending h })
  if v.act = 0 then .done {}
  else match v.x.prog with
    | .pending h => if s.choose v.bid then .done (kregOut v 0 h) else .wait s
    | _ => match s.readAsLd v v.a.scalar v.o.scalar v.act with
      | .stop r => r
      | .got s1 b => match checkImage b with
        | .error (st, o) => .doneIn s1 (kregOut v st o)
        | .ok (h, ordered) => match s1.ctxs.get? v.b.ctx with
          | none => .doneIn s1 (kregOut v 8 0)
          | some c => match s1.imageRoom c b.length, s1.freeKernel c with
            | some o, some i =>
              let (s2, k) := s1.register v.b.ctx c i o b h ordered
              .wait (hold s2 k)
            | _, _ => .doneIn s1 (kregOut v 8 0)

/-- KREG (R335). -/
def execKreg (f : Fields) (s : State) : Host.Outcome State Fault Refusal :=
  runInstr { opc := 0xD1, lens := [2], dst := .w64, sa := .u64, sb := .u32, gov0 := true } f kregBody s

/-- KREG.drop (R332, R335). -/
def execKregDrop (f : Fields) (s : State) : Host.Outcome State Fault Refusal :=
  runInstr { opc := 0xD1, lens := [2], sb := .u32, gov0 := true, md := 1 } f
    (fun v s =>
      if v.act = 0 then .done {}
      else match (s.ctxs.get? v.b.ctx).bind (fun c => c.kernelOf (BitVec.ofNat 32 v.o.scalar)) with
        | none => .raise 0x050A 0 v.act
        | some (i, k) => .doneIn (s.modCtx v.b.ctx (fun c => { c with kernels := c.kernels.put i { k with state := 2 } })) {}) s


/-- The node names a kernel record. -/
def Node.names (n : Node) (i : Nat) (gen : Half) : Bool :=
  match n.body with
  | .kernel h _ _ _ => bitsOf h.toNat 11 0 == i && bitsOf h.toNat 27 12 == gen.toNat
  | _ => false

/-- KERNEL_RECORD_FREE (R332): a Dropping record that no node names any more is Free, and its bytes of the image area with it. -/
def execKernelRecordFree (ctx idx : Nat) (s : State) : Host.Outcome State Fault Refusal :=
  match (s.ctxs.get? ctx).bind (fun c => c.kernels.get? idx) with
  | none => .next s
  | some k =>
    if k.state ≠ 2 || s.nodes.any (fun n => n.2.ctx == ctx && n.2.active && n.2.names idx k.gen) then .next s
    else .next (s.modCtx ctx (fun c => { c with kernels := c.kernels.put idx { k with state := 0, off := 0, len := 0 } }))

/-! ### Node records (R336 to R338, R340, R424) -/

/-- A node record as read: its body holds no argument bytes yet. -/
structure NodeRec where
  proceed : Bool
  free : Bool
  preds : List Dword
  leases : List Lease
  dies : Nat
  quantum : Nat
  body : NodeBody
  args : Nat
  argb : Nat
  deriving DecidableEq, Repr

/-- A lease range from its 16 bytes (R340); none where a field is out of range. -/
def State.leaseOf (s : State) (b : List Byte) : Option Lease :=
  let base := imgField b 0 8
  let pages := imgField b 8 4
  let x := imgField b 12 4
  let own := match s.ownerOf base with | .ok (.own _) => true | _ => false
  if base % 65536 = 0 && own && pages != 0 && decide (x < 8192) && (bitOf x 12 || x == 0) then
    some { base := base, pages := pages, layer := x % 4096, streamed := bitOf x 12 }
  else none

/-- The body of a node record (R337, R424), with the argument block; none where a field is out of range. (DEDUCED, log 81) -/
def State.nodeBodyOf (s : State) (kind : Nat) (b : List Byte) : Option (NodeBody × Nat × Nat) :=
  let f := imgField b
  match kind with
  | 0 =>
    let n := f 0xD4 4
    let argb := f 0xE0 2
    if decide (1 ≤ n) && decide (n ≤ 2 ^ 24) && decide (argb ≤ 256) && argb % 16 == 0 && (argb == 0 || f 0xD8 8 % 16 == 0)
        && f 0xE2 6 == 0 && f 0xF0 16 == 0 then
      some (.kernel (BitVec.ofNat 32 (f 0xD0 4)) (BitVec.ofNat 32 n) [] (BitVec.ofNat 64 (f 0xE8 8)), f 0xD8 8, argb)
    else none
  | 1 => match scopeOf (f 0xE4 1) with
    | some sc =>
      if decide (2 ≤ f 0xE4 1) && decide (f 0xE4 1 ≤ 5) && f 0xE5 27 == 0 then some (.copy (f 0xD0 8) (f 0xD8 8) (f 0xE0 4) sc, 0, 0) else none
    | none => none
  | 2 => match scopeOf (f 0xDA 1) with
    | some sc =>
      let op := f 0xD8 1
      let ty := f 0xD9 1
      if f 0xD0 8 % 64 == 0 && decide (op ≤ 6) && (if collIsRrsc op then typeRing ty else ty == 0) && decide (3 ≤ f 0xDA 1)
          && decide (f 0xDA 1 ≤ 5) && decide (f 0xDB 1 ≤ 1) && f 0xDC 36 == 0 then
        some (.coll (f 0xD0 8) op ty sc (f 0xDB 1), 0, 0)
      else none
    | none => none
  | 3 => match s.ownerOf (f 0xD0 8) with
    | .ok (.host _) =>
      if f 0xD0 8 % 8 == 0 && f 0xE0 32 == 0 then some (.signal (f 0xD0 8) (BitVec.ofNat 64 (f 0xD8 8)), 0, 0) else none
    | _ => none
  | _ => none

/-- The dies of a context's partition as a mask. -/
def Ctx.dieMask (c : Ctx) : Nat := ((List.range c.size).map (fun i => 2 ^ ((c.first + i) % 8))).sum

/-- A list all of whose entries are there. -/
def allSome {α : Type} : List (Option α) → Option (List α)
  | [] => some []
  | none :: _ => none
  | some x :: r => (allSome r).map (fun y => x :: y)

/-- The fields of a node record against their ranges (R338 step 2). -/
def State.nodeRecOf (s : State) (c : Ctx) (b : List Byte) : Option NodeRec :=
  let f := imgField b
  let npred := f 2 1
  let nlease := f 3 1
  let dies := f 4 1
  let q := f 8 4
  let one := (List.range 8).any (fun d => dies == 2 ^ d)
  let tail := fun (o size n : Nat) => (b.drop (o + size * n)).take (size * (8 - n))
  if decide (1 < f 1 1 / 2) || decide (8 < npred) || decide (8 < nlease) || dies = 0 || dies &&& c.dieMask ≠ dies
      || ((f 0 1 == 1 || f 0 1 == 3) && !one) || f 5 3 ≠ 0 || f 12 4 ≠ 0 || !(q == 0 || (decide (100 ≤ q) && decide (q ≤ 100000)))
      || leNat (tail 0x10 8 npred) ≠ 0 || leNat (tail 0x50 16 nlease) ≠ 0 then none
  else match s.nodeBodyOf (f 0 1) b, allSome ((List.range nlease).map (fun i => s.leaseOf ((b.drop (0x50 + 16 * i)).take 16))) with
    | some (body, args, argb), some ls =>
      some { proceed := bitOf (f 1 1) 0, free := bitOf (f 1 1) 1,
             preds := (List.range npred).map (fun i => BitVec.ofNat 64 (f (0x10 + 8 * i) 8)), leases := ls, dies := dies,
             quantum := if q = 0 then 2000 else q, body := body, args := args, argb := argb }
    | _, _ => none

/-- Steps 2 to 4 of R338 on a record at an address: the record, or the cause with its address. (DEDUCED, log 79) -/
def State.nodeCheck (s : State) (ctx va : Nat) (b : List Byte) : Except (Half × Nat) NodeRec :=
  match s.ctxs.get? ctx with
  | none => .error (0x0509, va)
  | some c => match s.nodeRecOf c b with
    | none => .error (0x0509, va)
    | some r =>
      let bad := r.preds.any (fun t => (s.tokenView ctx t).isNone)
      match r.body with
      | .kernel h _ _ _ => (match c.kernelOf h with
        | none => .error (0x050A, 0)
        | some (_, k) => if k.scratch < r.argb then .error (0x0509, va) else if bad then .error (0x0505, 0) else .ok r)
      | _ => if bad then .error (0x0505, 0) else .ok r

/-- A node enters a die's launch queue (R338): it holds its argument bytes. (DEDUCED, log 79) -/
def State.launch (s : State) (ctx die : Nat) (t : Dword) (r : NodeRec) (args : List Byte) : State :=
  let (n, s1) := s.fresh
  let body := match r.body with | .kernel h k _ sd => NodeBody.kernel h k args sd | b => b
  let ordered := match r.body with
    | .kernel h _ _ _ => (match (s.ctxs.get? ctx).bind (fun c => c.kernelOf h) with | some (_, k) => k.ordered && !r.free | none => false)
    | _ => false
  let x : Node :=
    { token := t, ctx := ctx, die := die, proceed := r.proceed, free := r.free, preds := r.preds, predDone := r.preds.map (fun _ => none),
      leases := r.leases, dies := r.dies, quantum := r.quantum, body := body, state := .waiting, accepted := false, leased := false,
      cancelled := false, cursor := 0, placed := 0, blocksDone := [], unplacedRetired := 0, attachedFail := none, unstarted := [], parked := [], partFailed := [],
      cause := 0, flush := none, entries := [], ports := [], stamp := Clock.zero, bytes := 0, ordered := ordered, rounds := 0, roundStart := 0, limitStart := 0, roundBlocks := [] }
  { s1 with nodes := s1.nodes.put n x }.modDie die (fun d => { d with launchQ := d.launchQ ++ [n] })

/-- The token of a context's root node written to its error log (R380). -/
def State.logRoot (s : State) (ctx die : Nat) (t : Dword) : State := s.log ctx { cause := 0, die := die, flags := 8, pc := t.toNat }

/-- LNCH's steps (R338). -/
def lnchBody (v : Env) (s : State) : Res :=
  let va := (v.a.scalar + litOff v.f) % 2 ^ 64
  if v.act = 0 then nullToken v
  else if va % 64 ≠ 0 then .raise 0x0509 (BitVec.ofNat 64 va) v.act
  else match s.readAsLd v va 256 v.act with
    | .stop r => r
    | .got s1 b => match s1.nodeCheck v.b.ctx va b with
      | .error (c, a) => .raiseIn s1 c (BitVec.ofNat 64 a) v.act
      | .ok r => match s1.readAsLd v r.args r.argb v.act with
        | .stop q => q
        | .got s2 args =>
          if !s2.entryRoom v.b.ctx v.b.die then .wait s2
          else .doneIn s2 (tokenOut v 4 .sys (fun t s => s.launch v.b.ctx v.b.die t r args))

/-- LNCH (R357). -/
def execLnch (f : Fields) (s : State) : Host.Outcome State Fault Refusal :=
  runInstr { opc := 0xD0, lens := [2, 3], dst := .w64, sa := .u64, lit := .role } f lnchBody s

/-! ### NODEQ (R356) -/

/-- The code of a node's state. -/
def NodeState.code : NodeState → Nat
  | .waiting => 0 | .leasing => 1 | .running => 2 | .completing => 3 | .done => 4 | .failed => 5

/-- The blocks of a node that are no shadows (R354). -/
def State.nodeBlocks (s : State) (n : Nat) : List (Nat × Block) := s.blocks.filter (fun b => b.2.node == n && b.2.shadowOf.isNone)

/-- A query on a node. -/
def State.nodeQuery (s : State) (n : Nat) (x : Node) (q : Nat) : Nat :=
  let bs := s.nodeBlocks n
  match x.body with
  | .kernel _ _ _ _ =>
    (match q with
     | 0 => x.state.code
     | 1 => bs.length
     | 2 => x.blocksDone.length + x.unplacedRetired
     | 3 => (bs.filter (fun b => b.2.state == .resident)).length
     | 4 => (bs.filter (fun b => b.2.state == .saved)).length
     | _ => x.rounds)
  | _ => if q = 0 then x.state.code else 0

/-- NODEQ (R356). -/
def execNodeq (f : Fields) (s : State) : Host.Outcome State Fault Refusal :=
  runInstr { opc := 0xD2, lens := [2], dst := .w32, sa := .u64, gov0 := true, md := 0x7FF, extra := fun f _ => decide (modOf f ≤ 5) } f
    (fun v s =>
      let t := v.a.v.l0
      let out := fun (n : Nat) => Res.done { regs := [⟨v.f.dst.toNat, false, Quad.all (BitVec.ofNat 64 n), .u, .u, false, v.x.mask⟩] }
      if t ≠ 0 && tokQueue t ≠ 4 then .raise 0x0505 0 v.x.mask
      else match s.tokenView v.b.ctx t with
        | none => .raise 0x0505 0 v.x.mask
        | some .null => out (if v.md = 0 then 4 else 0)
        | some .stale => out (if v.md = 0 then 6 else 0)
        | some (.record _) => match s.nodes.find? (fun n => n.2.token == t) with
          | some (n, x) => out (s.nodeQuery n x v.md)
          | none => out (if v.md = 0 then 6 else 0)) s

/-! ### The life of a node (R339) -/

/-- The dies of a mask. (DEDUCED, log 81) -/
def diesOf (mask : Nat) : List Nat := (List.range 8).filter (fun d => bitOf mask d)

/-- The acquire of a node's dies (R219, R339): the data lines of every core that its blocks may run on are dropped.
(DEDUCED, log 80) -/
def State.nodeAcquire (s : State) (dies : Nat) : State :=
  (diesOf dies).foldl (fun s d => (s.die d).cores.foldl (fun s c => s.dropVs d c.1 (fun _ => true)) s) s

/-- A waiting node whose predecessors have all completed goes on (R339). (DEDUCED, log 78) -/
def State.predsDone (s : State) (n : Nat) (x : Node) : State :=
  if x.state ≠ .waiting || !x.accepted || x.predDone.any Option.isNone then s
  else if !x.proceed && x.predDone.contains (some true) then s.failNode n 0x050B
  else (s.nodeAcquire x.dies).modNode n (fun x => { x with state := .leasing })

/-- A root node that has had no token takes one (R311, R380). -/
def State.rootToken (s : State) (n die : Nat) (x : Node) : State :=
  if x.token ≠ 0 then s
  else
    let (t, s1) := s.takeToken die 4 x.ctx .sys
    (s1.modNode n (fun y => { y with token := t })).logRoot x.ctx die t

/-- A node of a launch queue can be accepted: its context runs, and it has a token or finds one free (R311). -/
def State.acceptable (s : State) (die n : Nat) : Bool :=
  match s.nodes.get? n with
  | some x => s.ctxRuns x.ctx && (x.token != 0 || (s.die die).tokFree)
  | none => true

/-- NODE_ACCEPT (R232, R339): the launch queue's first node of a context that runs is accepted. -/
def execNodeAccept (die : Nat) (s : State) : Host.Outcome State Fault Refusal :=
  match (s.die die).launchQ.find? (s.acceptable die) with
  | none => .next s
  | some n =>
    let s1 := match s.nodes.get? n with | some x => s.rootToken n die x | none => s
    let s2 := (s1.modDie die (fun d => { d with launchQ := d.launchQ.filter (fun m => m != n) })).modNode n
      (fun x => { x with accepted := true })
    match s2.nodes.get? n with
    | some x => .next (s2.predsDone n x)
    | none => .next s2

/-- PREDECESSOR_COMPLETE (R339): predecessor `pred` of a node is found complete. -/
def execPredecessorComplete (node pred : Nat) (s : State) : Host.Outcome State Fault Refusal :=
  match s.nodes.get? node with
  | none => .next s
  | some x =>
    if x.state ≠ .waiting || !x.accepted || !s.ctxRuns x.ctx || x.predDone.getD pred (some false) ≠ none then .next s
    else
      let w := (s.tokenView x.ctx (x.preds.getD pred 0)).getD .stale
      if w.state = 0 then .next s
      else
        let s1 := match w with
          | .record r => (diesOf x.dies).foldl (fun (s : State) d => s.noteSeen d r.stamp) s
          | _ => s
        let y := { x with predDone := x.predDone.set pred (some (w.state == 2)) }
        .next ((s1.modNode node (fun _ => y)).predsDone node y)

/-! ### Leases (R340) -/

/-- The pages of a range. -/
def Lease.pageVas (l : Lease) : List Nat := (List.range l.pages).map (fun i => (l.base + 65536 * i) % 2 ^ 64)

/-- A page under a lease that is taken: its own die and its leaf, or the cause. (DEDUCED, log 80) -/
def State.leasePage (s : State) (ctx va : Nat) : Except Half (Nat × Leaf) :=
  match s.ownerOf va with
  | .ok (.own d) => (match (s.walk ctx (.own d) va).2 with | .ok l => .ok (d, l) | .error c => .error c)
  | .ok _ => .error 0x0301
  | .error c => .error c

/-- The layers that a range asks for, or why it fails (R340, R389, R390). (DEDUCED, log 67) -/
def State.rangeLayers (s : State) (c : Ctx) (ctx : Nat) (l : Lease) : Except Half (List Nat) :=
  let ps := l.pageVas.map (fun va => s.leasePage ctx va)
  match ps.findSome? (fun p => match p with | .error e => some e | .ok _ => none) with
  | some e => .error e
  | none =>
    let lps := ps.filterMap (fun p => match p with | .ok (d, x) => if leafLP x.entry then some (d, x.entry) else none | .error _ => none)
    if c.layerQuota ≠ 0 && (List.range 8).any (fun d => decide (c.layerQuota < (lps.filter (fun p => p.1 == d)).length)) then .error 0x0603
    else if l.streamed then .ok [l.layer]
    else if lps.any (fun p => leafRes p.2 != 2 && decide (c.nlayer ≤ leafLayer p.2)) then .error 0x0601
    else .ok ((lps.map (fun p => leafLayer p.2)).dedup)

/-- Every page of the ranges without STREAMED is Resident. (DEDUCED, log 67) -/
def State.rangesResident (s : State) (ctx : Nat) (ls : List Lease) : Bool :=
  (ls.filter (fun l => !l.streamed)).all (fun l => l.pageVas.all (fun va => match s.leasePage ctx va with
    | .ok (_, x) => x.image || leafRes x.entry == 2
    | .error _ => false))

/-- The leases of a node taken: each range's layers are requested, or the node fails (R339, R340). (DEDUCED, log 80) -/
def State.takeLeases (s : State) (n : Nat) (x : Node) (c : Ctx) : State :=
  x.leases.foldl (fun s l =>
    match s.nodes.get? n with
    | some y =>
      if y.state ≠ .leasing then s
      else (match s.rangeLayers c x.ctx l with
        | .error e => s.failNode n e
        | .ok ks => ks.foldl (fun s k => s.requestLayer x.ctx k) s)
    | none => s) (s.modNode n (fun y => { y with leased := true }))

/-- The entry of an engine that a node runs (R337, R424): it has no token of its own. -/
def Node.entry (x : Node) (n die queue owner : Nat) (scope : Scope) (keys : Dword) (kind : EntryKind) : Entry :=
  { token := 0, ctx := x.ctx, die := die, queue := queue, owner := owner, node := n, attached := true, bid := none, sid := 0xFFFF,
    scope := scope, keys := keys, state := .queued, kind := kind, piece := 0, bytes := 0, cause := 0, addr := 0, sat := false, lines := [],
    view := [], buf := [], onLayer := [], stamp := Clock.zero, ports := [], cover := [], faults := [], flush := none, cancelledBy := none, sent := false, todo := [], todoAt := 0 }

/-- An entry put into its queue. -/
def State.putEntry (s : State) (e : Entry) : State :=
  let (k, s1) := s.fresh
  { s1 with entries := s1.entries.put k e }

/-- Bytes of memory that a unit reads for a context, verdict by verdict (R365): the bytes; the cause with the lowest address; or nothing yet, where
a page is arriving, whose layer is then requested (R365 step 6). (DEDUCED, log 82) -/
def State.unitRead (s : State) (ctx : Nat) (keys : Dword) (cls : ReqClass) (va n : Nat) : State × EngRes (List Byte) :=
  match s.mapEng (fun s q => match s.ownerOf q.1 with
      | .error c => (s, EngRes.fail c q.1)
      | .ok o => match s.verdict ctx o q.1 .read keys cls with
        | (s1, .fail c) => (s1, .fail c q.1)
        | (s1, .arriving l) => (s1.requestByLeaf ctx l.entry, .wait)
        | (s1, .pass l) => match o with
          | .own d =>
            let (s2, bytes) := s1.homeBytes d l.pa q.2
            (match s2.firstPoison d l.pa q.2 with
             | some k => (s2, .fail 0x030C (q.1 + k))
             | none => (s2, .ok bytes))
          | .host p => let (s2, bytes) := s1.hostFetch p l.pa q.2 l.entry; (s2, .ok bytes)
          | .peer _ _ => (s1, .fail 0x0301 q.1)) (sectorsAt (n / 128 + 2) va n) with
  | (s1, .ok ds) => (s1, .ok ds.flatten)
  | (s1, .wait) => (s1, .wait)
  | (s1, .fail c a) => (s1, .fail c a)

/-- The rank table of a node's collective record. (DEDUCED, log 82) -/
def State.unitTable (s : State) (ctx : Nat) (keys : Dword) (va : Nat) : State × EngRes (List Word) :=
  match s.unitRead ctx keys .slice va 16 with
  | (s1, .wait) => (s1, .wait)
  | (s1, .fail c a) => (s1, .fail c a)
  | (s1, .ok h) =>
    let t := leNat (h.take 4)
    if t = 0 || 4096 < t || leNat (h.drop 4) ≠ 0 then (s1, .fail 0x0704 va)
    else match s1.unitRead ctx keys .slice ((va + 16) % 2 ^ 64) (4 * t) with
      | (s2, .wait) => (s2, .wait)
      | (s2, .fail c a) => (s2, .fail c a)
      | (s2, .ok b) => (s2, .ok ((List.range t).map (fun i => BitVec.ofNat 32 (leNat ((b.drop (4 * i)).take 4)))))

/-- The entry of one die of a collective node (R409, R424), the cause that its record gives, or nothing yet. (DEDUCED, log 82) -/
def State.collEntry (s : State) (n : Nat) (x : Node) (die rank : Nat) (rec op ty : Nat) (scope : Scope) (queue : Nat) :
    State × EngRes Entry :=
  let keys := s.keysOf x.ctx die
  let va := (rec + 64 * rank) % 2 ^ 64
  let cop := if op = 4 then collRhof else op
  match s.unitRead x.ctx keys .slice va 64 with
  | (s1, .wait) => (s1, .wait)
  | (s1, .fail c a) => (s1, .fail c a)
  | (s1, .ok b) =>
    let r := CollRaw.ofBytes b
    if !r.ok cop ty (op == 4) false then (s1, .fail 0x0704 va)
    else match (if r.table = 0 then (s1, .ok (s1.partitionSlots x.ctx)) else s1.unitTable x.ctx keys r.table) with
      | (s2, .wait) => (s2, .wait)
      | (s2, .fail c a) => (s2, .fail c a)
      | (s2, .ok slots) => match s2.collCheck die none cop ty (op == 4) scope va r slots with
        | .bad c a => (s2, .fail c a)
        | .ok q => (s2, .ok (x.entry n die (2 + queue) x.ctx scope keys (.ring q CollProg.fresh)))

/-- A part of a node that an engine cannot be given fails at once, as an entry that fails does. (DEDUCED, log 82) -/
def State.nodePartFails (s : State) (n : Nat) (x : Node) (die : Nat) (c : Half) (addr : Nat) : State :=
  let (k, s1) := s.fresh
  (s1.log x.ctx { cause := c, die := die, flags := 4, addr := addr, pc := x.token.toNat }).modNode n (fun y => y.noteFail k c)

/-- The number that stands for a node as the owner of the queue of its own copy. (DEDUCED, log 81) -/
def nodeOwner (n : Nat) : Nat := 2 ^ 64 + n

/-- The blocks of a kernel node's launch. -/
def Node.total (x : Node) : Nat := match x.body with | .kernel _ k _ _ => k.toNat | _ => 0

/-- The current blocks of the 512 virtual cores (R347, R348): of each, the lowest-numbered block that has not retired. -/
def Node.currentBlocks (x : Node) : List Nat :=
  ((List.range 512).map (fun v => v + 512 * (x.blocksDone.filter (fun b => b.1 % 512 == v)).length)).filter (fun b => decide (b < x.total))

/-- A round of an ordered node starts (R348), and with it the time of its limit (R262). -/
def State.startRound (s : State) (n : Nat) : State :=
  s.modNode n (fun x => { x with
    roundBlocks := x.currentBlocks.filter (fun i => !x.cancelled
      || s.blocks.any (fun b => b.2.node == n && b.2.idx.toNat == i && b.2.state != .retired))
    roundStart := (s.die x.die).cycle, limitStart := (s.die x.die).cycle })

/-- The pages of layers that have not landed, with their layers, among those of a range. -/
def State.awayIn (s : State) (ctx va n : Nat) : List (Nat × Nat) :=
  ((List.range (n / 65536 + 2)).map (fun i => (va / 65536 + i) * 65536)).filterMap (fun p =>
    if va + n ≤ p then none
    else match s.leafAt ctx p with
      | some (_, _, e, _) => if leafLP e && leafRes e != 2 then some (leafLayer e, max p va) else none
      | none => none)

/-- The layers and pages that a part of a collective node waits for: those of its record or, once that is readable, of its rank table. -/
def State.awayFor (s : State) (x : Node) (die va : Nat) : List (Nat × Nat) :=
  match s.unitRead x.ctx (s.keysOf x.ctx die) .slice va 64 with
  | (s1, .ok b) =>
    let tab := (CollRaw.ofBytes b).table
    (match s1.unitRead x.ctx (s.keysOf x.ctx die) .slice tab 16 with
     | (s2, .ok h) => s2.awayIn x.ctx tab (16 + 4 * leNat (h.take 4))
     | _ => s1.awayIn x.ctx tab 16)
  | _ => s.awayIn x.ctx va 64

/-- The part of one die of a collective node begun (R424): its entry, or the cause that its record gives; it waits for a page that is arriving, and fails
where the arrival is cancelled (R389). (DEDUCED, log 82) -/
def State.beginPart (s : State) (n : Nat) (die : Nat) : State :=
  match s.nodes.get? n with
  | none => s
  | some x => match x.body with
    | .coll rec op ty scope queue =>
      let first := match s.ctxs.get? x.ctx with | some c => c.first | none => 0
      let begun := fun (s : State) => s.modNode n (fun y => { y with unstarted := y.unstarted.filter (fun d => d != die) })
      let rank := (die + 8 - first) % 8
      if let some a := x.partFailed.get? die then begun (s.nodePartFails n x die 0x0601 a) else
      (match s.collEntry n x die rank rec op ty scope queue with
       | (s1, .wait) =>
         let on := s1.awayFor x die ((rec + 64 * rank) % 2 ^ 64)
         s1.modNode n (fun y => { y with parked := y.parked.filter (fun q => q.1 != die) ++ on.map (fun q => (die, q)) })
       | (s1, .ok e) => begun (s1.putEntry e)
       | (s1, .fail c a) => begun (s1.nodePartFails n x die c a))
    | _ => s

/-- The parts of a collective node that have not begun go on (R424). (DEDUCED, log 82) -/
def State.beginParts (s : State) (n : Nat) : State :=
  match s.nodes.get? n with
  | none => s
  | some x =>
    if x.cancelled then s.modNode n (fun y => { y with unstarted := [] }) else x.unstarted.foldl (fun s d => s.beginPart n d) s

/-- A node enters Running (R342): the blocks of a kernel node join the waiting set, and other work goes to where it is done. -/
def State.startNode (s : State) (n : Nat) (x : Node) : State :=
  let s1 := s.modNode n (fun y => { y with state := .running })
  match x.body with
  | .kernel _ _ _ _ =>
    (if x.ordered then s1.startRound n else s1).modDie x.die (fun d => { d with waitingSet := d.waitingSet ++ [(0, n)] })
  | .copy src dst len scope =>
    let d := (diesOf x.dies).headD 0
    s1.putEntry (x.entry n d 0 (nodeOwner n) scope (s.keysOf x.ctx d) (.copy (.glob src) (.glob dst) len))
  | .coll _ _ _ _ _ => (s1.modNode n (fun y => { y with unstarted := diesOf y.dies })).beginParts n
  | .signal _ _ => s1

/-- LEASE_GRANT (R339, R340, R424): the leases are taken, and once every page of the ranges without STREAMED is Resident the node runs; the records
of a collective node that lie on an arriving page are read once it has landed. -/
def execLeaseGrant (node : Nat) (s : State) : Host.Outcome State Fault Refusal :=
  match s.nodes.get? node with
  | none => .next s
  | some x => match s.ctxs.get? x.ctx with
    | none => .next s
    | some c =>
      if x.state = .running && s.ctxRuns x.ctx then .next (s.beginParts node)
      else if x.state ≠ .leasing || !s.ctxRuns x.ctx || !(diesOf x.dies).all (fun d => (s.die d).vc.covers (s.die d).seen) then .next s
      else
        let s1 := if x.leased then s else s.takeLeases node x c
        match s1.nodes.get? node with
        | none => .next s1
        | some y => if y.state = .leasing && s1.rangesResident y.ctx y.leases then .next (s1.startNode node y) else .next s1

/-! ### Host signals (R337) -/

/-- HOST_SIGNAL (R337): the posted write and the flushing read after it. -/
def execHostSignal (node : Nat) (s : State) : Host.Outcome State Fault Refusal :=
  match s.nodes.get? node with
  | none => .next s
  | some x => match x.body with
    | .signal addr value =>
      if x.state ≠ .running || x.flush.isSome || x.attachedFail.isSome || !s.ctxRuns x.ctx then .next s
      else match s.ownerOf addr with
        | .ok (.host p) =>
          (match s.verdict x.ctx (.host p) addr .write (s.keysOf x.ctx x.die) .slice with
           | (s1, .pass l) =>
             let (n, s2) := s1.fresh
             let s3 := (s2.hostWrite p l.pa (leBytes 8 value.toNat)).modPort p (fun h => { h with flushes := h.flushes ++ [n] })
             .next (s3.modNode node (fun y => { y with flush := some [n], bytes := 8 }))
           | (s1, .arriving _) => .next (s1.nodePartFails node x x.die 0x0301 addr)
           | (s1, .fail c) => .next (s1.nodePartFails node x x.die c addr))
        | .ok _ => .next (s.nodePartFails node x x.die 0x0301 addr)
        | .error c => .next (s.nodePartFails node x x.die c addr)
    | _ => .next s

/-! ### Completion (R358) -/

/-- The node's own engine entries and those attached to it have completed (R317, R358). -/
def State.entriesDone (s : State) (n : Nat) : Bool := !s.entries.any (fun e => e.2.node == n && e.2.attached && s.entryOpen e.1)

/-- The last block has retired, or the copy, the collective or the signal has finished (R339). -/
def State.bodyDone (s : State) (n : Nat) (x : Node) : Bool :=
  match x.body with
  | .kernel _ k _ _ =>
    x.blocksDone.length + x.unplacedRetired == k.toNat && s.blocks.all (fun b => b.2.node != n || b.2.state == .retired)
  | .signal _ _ => x.attachedFail.isSome || (x.cancelled && x.flush.isNone) || (match x.flush with | some fs => s.flushesDone fs | none => false)
  | .coll _ _ _ _ _ => (x.cancelled || x.unstarted.isEmpty) && s.entriesDone n
  | .copy _ _ _ _ => s.entriesDone n

/-- The cores that the blocks of a node are or were on, in ascending order (R358). -/
def State.nodeCores (s : State) (n : Nat) : List (Nat × Nat) :=
  (((s.blocks.filter (fun b => b.2.node == n)).map (fun b => (b.2.die, b.2.core))).dedup).insertionSort
    (fun a b => decide (a.1 < b.1) || (a.1 == b.1 && decide (a.2 ≤ b.2)))

/-- Every write that the blocks of a node and its attached entries have made has taken effect at system scope but for the host's flushing reads
(R218, R234). (DEDUCED, log 83) -/
def State.nodeWritesDone (s : State) (n : Nat) : Bool :=
  let mine := fun (bid : Nat) => match s.blocks.get? bid with | some b => b.node == n | none => false
  !s.reqs.any (fun r => mine r.2.bid)
  && !s.pairs.any (fun p => p.2.out.any (fun o => mine o.bid))
  && (s.nodeCores n).all (fun c => !s.msgs.any (fun m => m.2.fromDie == c.1 && m.2.core == c.2)
    && (s.die c.1).vc.covers (s.core c.1 c.2).offStamp)
  && (match s.nodes.get? n with
    | none => true
    | some x => x.entries.all (fun e => (s.die e.1).vc.covers x.stamp
        && !s.msgs.any (fun m => m.2.fromDie == e.1 && m.2.core == engineCore && m.2.req == e.2)))

/-- The update-only copies of a node's cores recalled (R257, R358). (DEDUCED, log 83) -/
def State.nodeRecall (s : State) (n : Nat) : State := (s.nodeCores n).foldl (fun s c => s.flushUo c.1 c.2 (fun _ => true)) s

/-- The flushing reads of a node's completion sent on the ports that its cores and its attached entries have written (R234). (DEDUCED, log 83) -/
def State.nodeFlush (s : State) (n : Nat) : State :=
  let q := (s.nodeCores n).foldl (fun (acc : State × List Nat) c => let (s1, fs) := acc.1.sendFlushes c.1 c.2; (s1, acc.2 ++ fs)) (s, [])
  let ports := match s.nodes.get? n with | some x => x.ports | none => []
  let r := ports.foldl (fun (acc : State × List Nat) p =>
    let (k, s1) := acc.1.fresh
    (s1.modPort p (fun h => { h with flushes := h.flushes ++ [k] }), acc.2 ++ [k])) q
  r.1.modNode n (fun y => { y with flush := some r.2 })

/-- The block of the lowest number that ended with an error. -/
def Node.firstError (x : Node) : Option Half :=
  (((x.blocksDone.filter (fun b => b.2.isSome)).insertionSort (fun a b => decide (a.1 ≤ b.1))).head?).bind (fun b => b.2)

/-- CAUSE of a node that completes (R339): 0 where nothing failed. -/
def Node.outcome (x : Node) : Half :=
  match x.firstError with
  | some c => c
  | none => match x.attachedFail with
    | some (_, c) => c
    | none => if x.cancelled then 0x050C else 0

/-- BYTES of a node (R339). For a collective node the spec states none: a free value. (DESIGN CHOICE, log 5) -/
def State.nodeBytes (s : State) (x : Node) : Nat :=
  match x.body with
  | .kernel _ _ _ _ => (x.blocksDone.filter (fun b => b.2.isNone)).length
  | .coll _ _ _ _ _ => (Config.freeDword s.tick).toNat % 2 ^ 32
  | _ => x.bytes

/-- The ORD marks of a node cleared (R352). -/
def State.clearMarks (s : State) (n : Nat) : State :=
  { s with dies := s.dies.map (fun (d : Nat × Die) =>
      (d.1, { d.2 with lines := d.2.lines.map (fun (l : Nat × BayLine) => (l.1, { l.2 with ord := l.2.ord.erase n })) })) }

/-- All that a retired block writes has been committed (R351, R355). -/
def State.blockSettled (s : State) (bid : Nat) (b : Block) : Bool :=
  b.state == .retired && b.roundBytes.isEmpty && b.roundOps.isEmpty && b.stream.isEmpty
    && s.entries.all (fun e => e.2.bid != some bid || !e.2.attached || !s.entryOpen e.1)

/-- Block and shadow compared once both have retired (R355): a shadow stopped under R161 posts nothing. (DEDUCED, log 97) -/
def State.compareShadow (s : State) (bid : Nat) : State :=
  match s.blocks.get? bid with
  | none => s
  | some b =>
    match b.shadow.bind (fun k => (s.blocks.get? k).map (fun x => (k, x))) with
    | none => s
    | some (k, x) =>
      if s.blockSettled bid b && s.blockSettled k x then
        let s1 := s.modBlock bid (fun y => { y with shadow := none })
        if !x.stopped && (b.digest != x.digest || !b.causes.all x.causes.contains || !x.causes.all b.causes.contains) then
          s1.log b.ctx { cause := 0x0901, die := b.die, core := b.core, flags := 8, block := b.idx.toNat,
                         pc := b.digest.toNat, addr := x.digest.toNat }
        else s1
      else s

/-- Every sampled block of a node compared with its shadow, whichever of the two retired first. -/
def State.compareShadows (s : State) (n : Nat) : State :=
  ((s.blocks.filter (fun b => b.2.node == n && b.2.shadow.isSome)).map (fun b => b.1)).foldl State.compareShadow s

/-- A node ends (R339): its token completes as a release at system scope, and its leases are released. -/
def State.finishNode (s : State) (n : Nat) (x : Node) : State :=
  let c := x.outcome
  let bytes := s.nodeBytes x
  let st := (diesOf (x.dies ||| 2 ^ x.die)).foldl (fun a d => a.join (s.die d).vc) Clock.zero
  let s1 := ((s.clearMarks n).modNode n (fun y => { y with state := if c = 0 then .done else .failed, cause := c, leases := [], leased := false }))
  let s2 := (s1.finishToken x.token (c != 0) c bytes 0).modTok x.token (fun r => { r with stamp := st })
  s2.modDie x.die (fun d => { d with waitingSet := d.waitingSet.filter (fun w => !(w.1 == 0 && w.2 == n)) })

/-- The conditions of R358 on a node in Completing but for the writes of its blocks. -/
def State.nodeSettled (s : State) (n : Nat) (x : Node) : Bool :=
  s.blocks.all (fun b => b.2.node != n || (b.2.state == .retired && b.2.stream.isEmpty)) && s.entriesDone n
    && (!x.ordered || s.ctxIs x.ctx .ending || (x.roundBlocks.isEmpty && s.blocks.all (fun b => b.2.node != n || (b.2.roundBytes.isEmpty && b.2.roundOps.isEmpty))))

/-- NODE_COMPLETION (R339, R358): a running node whose work is done is Completing; a Completing one sends its copies home, waits for its
writes and then ends. -/
def execNodeCompletion (node : Nat) (s : State) : Host.Outcome State Fault Refusal :=
  match s.nodes.get? node with
  | none => .next s
  | some x =>
    if !s.ctxRuns x.ctx && !s.ctxIs x.ctx .ending then .next s
    else if x.state = .running then
      if s.bodyDone node x then .next (s.modNode node (fun y => { y with state := .completing })) else .next s
    else if x.state = .completing && s.nodeSettled node x then
      let s1 := s.nodeRecall node
      if !s1.nodeWritesDone node then .next s1
      else match x.flush with
        | none => .next (s1.nodeFlush node)
        | some fs => if s1.flushesDone fs then .next ((s1.compareShadows node).finishNode node x) else .next s1
    else .next s

end Sys2Proof.Machine
end

