-- ==== Sys2Proof/Machine/Start.lean ====
section
/-! DEFINITION. What a block and its slices are when they are placed (R85, R143, R146, R153). -/

namespace Sys2Proof.Machine

/-- An empty trap frame (R393). -/
def Frame.empty : Frame :=
  { inTrap := false, taken := false, cause := 0, addr := 0, pc := 0, next := 0, lanes := 0, mode := 0, mask := 0, mstack := [],
    latches := noLatches }

/-- A slice at its placement, in a part, at an address (R85, R143). -/
def Slice.placed (pc : Dword) (part : Nat) : Slice :=
  { pc := pc, mode := 0, sticky := false, preds := List.replicate 8 0, mask := 0xF, mstack := [], part := part, regs := [],
    latches := noLatches, ctr := Quad.all 0, retired := 0, frame := Frame.empty, run := .running, prog := .fresh, pend := false,
    faults := [], spilled := [], crossHome := none, relFail := false, stamps := [], issueNo := 0, clearing := true, cleared := true, latchSources := [], opc := none, waitRounds := 0 }

/-- The slices of a block at its placement, each gang one part (R146, R147). -/
def startSlices (pc : Dword) (width n : Nat) : Tab Slice :=
  (List.range n).map (fun i => (i, Slice.placed pc (i / (width / 4) * (width / 4))))

/-- A block at its placement: everything that does not come from its launch is empty. -/
def Block.placed (ctx die core node kernel : Nat) (idx nblocks : Word) (width nslices : Nat) (entry : Dword) : Block :=
  { ctx := ctx, die := die, core := core, node := node, kernel := kernel, idx := idx, nblocks := nblocks, width := width,
    nslices := nslices, scratch := 0, acc := 0, slotLimit := 0, partw := 0, entry := entry, trapEntry := none, seed := 0, floor := 0,
    age := 0, state := .resident, error := none, slices := startSlices entry width nslices, winBase := 0, accBase := 0, window := [],
    winPoison := [], pres := [], accWords := [], slots := [], slotFills := [], stream := [], nb := 0, groups := [], gtaken := [], drnaSeq := [],
    drnaApplied := [], saveVa := 0, dormant := false, spillSaved := false, roundBytes := [], roundOps := [],
    late := [], touched := [], results := [], shadowOf := none, shadow := none, digest := 0, causes := [], stopped := false }

end Sys2Proof.Machine
end

