-- ==== Sys2Proof/Machine/Issue.lean ====
section
/-! DEFINITION. How a part issues an instruction (R147 to R149, R152): the slices that execute it, and the split of the part when it
is done. The table of meanings is a parameter, since an event that completes a wait uses it as well. -/

namespace Sys2Proof.Machine

/-- A table of meanings. -/
abbrev Meanings := Instr → State → Host.Outcome State Fault Refusal

/-- What a fetch gave is executed for one slice. -/
def runFetched (ex : Meanings) (r : FetchRes) (bid sid : Nat) (s : State) : Host.Outcome State Fault Refusal :=
  let s1 := { s with cur := some (bid, sid) }
  match r with
  | .run i => ex i s1
  | .unassigned w => execUnassignedOpcode w s1
  | .fault c a => execFetchFault c a s1
  | .park leaf page => s1.fetchPark leaf page

/-- A slice has begun its part's instruction and can go on with it in this step. -/
def State.canExec (s : State) (bid sid : Nat) : Bool :=
  match s.blocks.get? bid, s.slice? bid sid with
  | some b, some x => b.state == .resident && x.pend && x.run == .running
  | _, _ => false

/-- What a fetch gave is executed for the slices of a list that still can. -/
def runAll (ex : Meanings) (r : FetchRes) (bid : Nat) : List Nat → State → Host.Outcome State Fault Refusal
  | [], s => .next s
  | sid :: rest, s =>
    if s.canExec bid sid then
      match runFetched ex r bid sid s with
      | .next s1 => runAll ex r bid rest s1
      | o => o
    else runAll ex r bid rest s

/-- The slices of a list with a given pc. -/
def Block.withPc (b : Block) (ids : List Nat) (pc : Dword) : List Nat :=
  ids.filter (fun i => match b.slices.get? i with | some x => x.pc == pc | none => false)

/-- A part divided into one part for each distinct pc of its slices (R147). -/
def Block.splitPart (b : Block) (ids : List Nat) : Block :=
  ((ids.filterMap (fun i => (b.slices.get? i).map (fun x => x.pc))).dedup).foldl (fun c pc => c.renumber (b.withPc ids pc)) b

/-- Every slice of a list has completed its instruction. -/
def Block.allDone (b : Block) (ids : List Nat) : Bool :=
  ids.all (fun i => match b.slices.get? i with | some x => !x.pend | none => true)

/-- The slices of a part that issue together: all of it but those away in a trap entry (R136). -/
def Block.issuers (b : Block) (part : Nat) : List Nat :=
  (b.partMembers part).filter (fun i => match b.slices.get? i with | some y => y.crossHome.isNone | none => false)

/-- The parts that slices of a list now belong to. -/
def Block.partsNow (b : Block) (ids : List Nat) : List Nat :=
  (ids.filterMap (fun i => (b.slices.get? i).bind (fun x => if x.run = .ended then none else some x.part))).dedup

/-- A part divided if every slice of it that issues has completed (R147). -/
def Block.settlePart (b : Block) (part : Nat) : Block :=
  let ids := b.issuers part
  if b.allDone ids then b.splitPart ids else b

/-! ### The issue ports (R20, R41, R101, R149) -/

/-- The pool words of a register (R86). -/
def RegVal.poolWords : RegVal → List Word
  | .held .u v => [v.l0]
  | .held .a v => [v.l0, v.l1 - v.l0]
  | .held .g v => v.toList
  | _ => []

/-- The register-cache entries of a part: six of the registers that it holds (R101). (DESIGN CHOICE, log 17) -/
def Block.cacheEntries (b : Block) (bid part : Nat) : List RCEntry :=
  ((b.partMembers part).flatMap (fun i => match b.slices.get? i with
    | some x => (x.regs.filter (fun r => !r.2.isPend)).map (fun r => ⟨bid, part, i, r.1, r.2.poolWords⟩)
    | none => [])).take 6

/-- A port's register cache brought up to what a block's registers hold (R101). -/
def IssuePort.refresh (p : IssuePort) (bid : Nat) (b : Block) : IssuePort :=
  { p with regCache := p.regCache.filter (fun e => e.bid != bid)
      ++ (p.active.filter (fun a => a.1 == bid)).flatMap (fun a => b.cacheEntries bid a.2) }

/-- The register caches of a block's core brought up to what its registers hold, which changes no value (R101). -/
def State.refreshPorts (s : State) (bid : Nat) : State :=
  match s.blocks.get? bid with
  | none => s
  | some b => if b.state = .resident then s.modCore b.die b.core (fun c => { c with ports := c.ports.map (fun p => p.refresh bid b) }) else s

/-- The parts of slices are divided once every slice of one has completed (R147), and their finished issues are counted no more (R195);
the latches of those that wait in a latch-clearing instruction are empty (R40); no slice executes any more. (DESIGN CHOICE, log 17; DEDUCED, log 18) -/
def State.settle (s : State) (bid : Nat) (ids : List Nat) : State :=
  (({ s with cur := none }.modBlock bid (fun b =>
    ids.foldl (fun b i => b.modSlice i Slice.stowLatches) ((b.partsNow ids).foldl (fun b p => b.settlePart p) b))).closeIssues bid).refreshPorts bid

/-- A slice is at an instruction boundary and may issue: running, nothing begun, no fault waiting (R194). -/
def Slice.ready (x : Slice) : Bool := x.run == .running && !x.pend && x.faults.isEmpty

/-- The slices that a move names: a part's, or with 256 added, the one slice that is away in a trap entry (R136).
(DESIGN CHOICE, log 17) -/
def Block.movers (b : Block) (part : Nat) : List Nat :=
  if part < 256 then b.issuers part
  else (b.slices.filter (fun p => p.1 == part - 256 && p.2.run != .ended && p.2.crossHome.isSome)).map (fun p => p.1)

/-- The part that a move is of. -/
def Block.partOfMove (b : Block) (m : Nat) : Nat :=
  if m < 256 then m else match b.slices.get? (m - 256) with | some x => x.part | none => m

/-- The moves that a block's slices can make: one for each part and one for each slice away in a trap entry. -/
def Block.moves (b : Block) : List Nat :=
  (b.live.map (fun p => if p.2.crossHome.isSome then 256 + p.1 else p.2.part)).dedup

/-- The number of the last issue of the slices of a move. -/
def Block.lastIssue (b : Block) (m : Nat) : Nat :=
  (b.movers m).foldl (fun n i => match b.slices.get? i with | some x => max n x.issueNo | none => n) 0

/-- A slice keeps its port: it is in the middle of a stream of instructions that has not come to a latch-clearing one, or its latches
are full (R40, R41). One that waits in a latch-clearing instruction, which has read and emptied the latches, or in the first instruction after
one, does not (R149). (DESIGN CHOICE, log 17) -/
def Slice.keepsPort (x : Slice) : Bool :=
  match x.run with
  | .running => !x.clearing || x.latches != noLatches
  | .waiting => !x.clearing && (!x.cleared || x.latches != noLatches)
  | _ => false

/-- A part of a move keeps its port. -/
def Block.keepsPort (b : Block) (m : Nat) : Bool :=
  (b.movers m).any (fun i => match b.slices.get? i with | some x => x.keepsPort | none => false)

/-- The port of a gang on its core; the spec does not say which. (DESIGN CHOICE, log 17) -/
def portOf (bid gang : Nat) : Nat := Config.freeChoice 0 (2 ^ 64 + bid * 256 + gang) % 4

/-- The port at which the slices of a move issue. -/
def Block.portOf (b : Block) (bid m : Nat) : Nat := Machine.portOf bid ((b.movers m).headD 0 / (b.width / 4))

/-- The moves on a core other than those of one part: block number, block and move. -/
def State.rivals (s : State) (d c bid part : Nat) : List (Nat × Block × Nat) :=
  (s.residents d c).flatMap (fun q => (q.2.moves.filter (fun m => !(q.1 == bid && q.2.partOfMove m == part))).map (fun m => (q.1, q.2, m)))

/-- Another part keeps the port of a move: a voluntary gang switch waits for a latch-clearing instruction of the part that issued last
there (R41). (DESIGN CHOICE, log 17) -/
def State.portKept (s : State) (bid : Nat) (b : Block) (m : Nat) : Bool :=
  (s.rivals b.die b.core bid (b.partOfMove m)).any (fun q =>
    q.2.1.keepsPort q.2.2
      && (decide (b.lastIssue m < q.2.1.lastIssue q.2.2)
          || (b.lastIssue m == q.2.1.lastIssue q.2.2
              && (!b.keepsPort m || decide (q.1 * 512 + q.2.2 < bid * 512 + m))))
      && q.2.1.portOf q.1 q.2.2 == b.portOf bid m)

/-- The slices of a move can issue: their block is on its core, its context runs, and each is at an instruction boundary. -/
def State.canIssue (s : State) (b : Block) (m : Nat) : Bool :=
  b.state == .resident && s.ctxRuns b.ctx && !(b.movers m).isEmpty
    && (b.movers m).all (fun i => match b.slices.get? i with | some x => x.ready | none => false)

/-- It is the turn of a move at its port: of the parts that can issue there, none issued less recently (R149). -/
def State.issueTurn (s : State) (bid : Nat) (b : Block) (m : Nat) : Bool :=
  s.canIssue b m && !s.portKept bid b m
    && (s.rivals b.die b.core bid (b.partOfMove m)).all (fun q =>
      !(decide (q.2.1.lastIssue q.2.2 < b.lastIssue m) && s.canIssue q.2.1 q.2.2 && !s.portKept q.1 q.2.1 q.2.2
        && q.2.1.portOf q.1 q.2.2 == b.portOf bid m))

/-- A part comes into an active set of eight; where the set is full, the least recent part that does not keep the port leaves, its
register-cache entries written back (R101). `live` says which parts there still are, and `keeps` which keep the port. -/
def IssuePort.enter (p : IssuePort) (a : Nat × Nat) (live keeps : Nat × Nat → Bool) : IssuePort :=
  let old := p.active.filter (fun x => x != a && live x)
  let out := if old.length < 8 then none else old.reverse.find? (fun x => !keeps x)
  let now := (a :: old.filter (fun x => some x != out)).take 8
  { active := now, regCache := p.regCache.filter (fun e => now.contains (e.bid, e.part)) }

/-- A part comes into the active set of its port (R101). -/
def State.enterPort (s : State) (bid : Nat) (b : Block) (part : Nat) : State :=
  let has := fun (g : Block → Nat → Bool) (x : Nat × Nat) => match s.blocks.get? x.1 with | some c => g c x.2 | none => false
  s.modCore b.die b.core (fun c => { c with
    ports := c.ports.modify (b.portOf bid part) (fun p =>
      p.enter (bid, part) (has (fun c q => !(c.partMembers q).isEmpty)) (has (fun c q => c.keepsPort q))) })

/-- The opcode of the instruction that a fetch gave, and whether it is latch-clearing (R40); none where it gave no instruction. -/
def FetchRes.begins? (r : FetchRes) : Option (Nat × Bool) :=
  match r with
  | .run i => i.parts?.map (fun p => (p.1, clearsLatches p.1 p.2.2.y))
  | _ => none

/-- The slices of an issue note the instruction that they begin (R41, R240). -/
def State.noteBegun (s : State) (bid : Nat) (ids : List Nat) (r : FetchRes) : State :=
  match r.begins? with
  | none => s
  | some (o, y) => s.modBlock bid (fun b => ids.foldl (fun b i => b.modSlice i (fun x => { x with cleared := x.clearing, clearing := y, opc := some o })) b)

/-- A part begins its next instruction under a number of its own (R195). -/
def State.beginIssue (s : State) (bid : Nat) (ids : List Nat) : State :=
  let n := s.issueNo + 1
  { s with issueNo := n }.modBlock bid (fun b =>
    ids.foldl (fun b i => b.modSlice i (fun x => { x with pend := true, issueNo := n, prog := .fresh })) b)

/-- The slices of an issue after they have executed: their parts are divided (R147), and they stand in the active sets of their port. -/
def State.afterIssue (s : State) (bid : Nat) (ids : List Nat) : State :=
  let s1 := match s.blocks.get? bid with
    | none => s
    | some b => if b.state = BlockState.resident then (b.partsNow ids).foldl (fun s p => s.enterPort bid b p) s else s
  s1.settle bid ids

/-- A part issues its instruction: one fetch, then each of its slices in ascending id. Where it is not its turn, nothing
happens. (DESIGN CHOICE, log 12; DESIGN CHOICE, log 17) -/
def issue (ex : Meanings) (bid part : Nat) (s : State) : Host.Outcome State Fault Refusal :=
  match s.blocks.get? bid with
  | none => .next s
  | some b =>
    let ids := b.movers part
    match ids with
    | [] => .next s
    | i :: _ =>
      if s.frozen || !s.issueTurn bid b part then .next s
      else match b.slices.get? i with
        | none => .next s
        | some x =>
          let (s1, r) := (s.beginIssue bid ids).fetchAt b x.pc
          match runAll ex r bid ids (s1.noteBegun bid ids r) with
          | .next s2 => .next (s2.afterIssue bid ids)
          | o => o

/-- An instruction has had an effect that only its completion makes known. -/
def Prog.begun : Prog → Bool
  | .pending _ => true
  | .acquiring _ _ => true
  | .satisfied _ => true
  | _ => false

/-- A slice may go on with its instruction: its context runs, or halts for a swap-out and the instruction completes first (R383). -/
def State.mayRerun (s : State) (ctx : Nat) (x : Slice) : Bool := s.ctxRuns ctx || (s.ctxIs ctx .swappingOut && x.prog.begun)

/-- A slice that waits executes its instruction again, to see whether the wait has come to its end (R152); with it, its part may.
(DEDUCED, log 18) -/
def rerunSlice (ex : Meanings) (bid sid : Nat) (s : State) : Host.Outcome State Fault Refusal :=
  match s.blocks.get? bid, s.slice? bid sid with
  | some b, some x =>
    if b.state != .resident || s.frozen || !s.mayRerun b.ctx x || x.run != .waiting || !x.faults.isEmpty then .next s
    else
      let (s1, r) := (s.modBlock bid (fun b => (b.partMembers x.part).foldl (fun b i => b.modSlice i Slice.takeLatches) b)).fetchAt b x.pc
      match runFetched ex r bid sid s1 with
      | .next s2 => .next (s2.settle bid (b.partMembers x.part))
      | o => o
  | _, _ => .next s

end Sys2Proof.Machine
end

