-- ==== Sys2Proof/Machine/LaneInt.lean ====
section
/-! DEFINITION. Integer, logic and address instructions (R117, R118), and MOV, MOVI, AFF, UNIF and SHAPE (R104 to R107). -/

namespace Sys2Proof.Machine

/-- A row of R117. -/
def encInt (opc : Nat) (lens : List Nat) (sb sc : Src) (ok : Nat → Bool) (sat : Bool) : Enc :=
  { opc := opc, lens := lens, dst := .ty, sa := .ty, sb := sb, sc := sc, types := .eff ok,
    sat := if sat then .eff else .no }

/-- An integer lane function of two operands (R118): the exact element of the result in each lane. -/
def intOp (g : Env → Int → Int → Int) (sh : Env → Tag) (v : Env) (_ : State) : Res :=
  laneRes v (typeWide v.ty) (fun l => imageInt v.ty (g v (elemInt v.ty (v.al l)) (elemInt v.ty (v.bl l)))) (sh v)

/-- The shape of the last row of R89 over a and b. -/
def shapeAB (v : Env) : Tag := shapeUG [v.a, v.o]

/-- IADD (R118). -/
def execIadd (f : Fields) (s : State) : Host.Outcome State Fault Refusal :=
  runInstr (encInt 0x00 [1, 2, 3] .ty .no typeInt true) f
    (intOp (fun v a b => fitInt v.ty v.sat (a + b)) shapeAdd) s

/-- ISUB (R118). -/
def execIsub (f : Fields) (s : State) : Host.Outcome State Fault Refusal :=
  runInstr (encInt 0x01 [1, 2, 3] .ty .no typeInt true) f
    (intOp (fun v a b => fitInt v.ty v.sat (a - b)) shapeAdd) s

/-- IMUL (R118). -/
def execImul (f : Fields) (s : State) : Host.Outcome State Fault Refusal :=
  runInstr (encInt 0x02 [1, 2, 3] .ty .no typeInt true) f
    (intOp (fun v a b => fitInt v.ty v.sat (a * b)) shapeMul) s

/-- IMULH (R118). -/
def execImulh (f : Fields) (s : State) : Host.Outcome State Fault Refusal :=
  runInstr (encInt 0x03 [1, 2, 3] .ty .no typeInt false) f
    (intOp (fun v a b => a * b / ((2 ^ typeBits v.ty : Nat) : Int)) shapeAB) s

/-- IMAD (R118): one reduction of the exact value. -/
def execImad (f : Fields) (s : State) : Host.Outcome State Fault Refusal :=
  runInstr (encInt 0x04 [2, 3] .ty .ty typeInt true) f
    (fun v _ => laneRes v (typeWide v.ty) (fun l => imageInt v.ty (fitInt v.ty v.sat
      (elemInt v.ty (v.al l) * elemInt v.ty (v.bl l) + elemInt v.ty (v.cl l)))) (shapeUG [v.a, v.o, v.c])) s

/-- The quotient of R118: toward zero; all ones for a zero divisor. -/
def divInt (ty : Nat) (sat : Bool) (a b : Int) : Int :=
  if b = 0 then elemInt ty (2 ^ typeBits ty - 1) else fitInt ty sat (a.tdiv b)

/-- IDIV (R118). -/
def execIdiv (f : Fields) (s : State) : Host.Outcome State Fault Refusal :=
  runInstr (encInt 0x05 [1, 2, 3] .ty .no typeInt true) f
    (intOp (fun v a b => divInt v.ty v.sat a b) shapeAB) s

/-- IREM (R118): the sign of a; a itself for a zero divisor. -/
def execIrem (f : Fields) (s : State) : Host.Outcome State Fault Refusal :=
  runInstr (encInt 0x06 [1, 2, 3] .ty .no typeInt false) f
    (intOp (fun _ a b => if b = 0 then a else a - b * a.tdiv b) shapeAB) s

/-- IMIN (R118). -/
def execImin (f : Fields) (s : State) : Host.Outcome State Fault Refusal :=
  runInstr (encInt 0x07 [1, 2, 3] .ty .no typeInt false) f
    (intOp (fun _ a b => if a ≤ b then a else b) shapeAB) s

/-- IMAX (R118). -/
def execImax (f : Fields) (s : State) : Host.Outcome State Fault Refusal :=
  runInstr (encInt 0x08 [1, 2, 3] .ty .no typeInt false) f
    (intOp (fun _ a b => if a ≤ b then b else a) shapeAB) s

/-- IABS (R118). -/
def execIabs (f : Fields) (s : State) : Host.Outcome State Fault Refusal :=
  runInstr (encInt 0x09 [1, 2] .no .no typeInt true) f
    (intOp (fun v a _ => fitInt v.ty v.sat (if a < 0 then -a else a)) (fun v => shapeUG [v.a])) s

/-- INEG (R118). -/
def execIneg (f : Fields) (s : State) : Host.Outcome State Fault Refusal :=
  runInstr (encInt 0x0A [1, 2] .no .no typeInt true) f
    (intOp (fun v a _ => fitInt v.ty v.sat (-a)) shapeNeg) s

/-- The types of IADDC and ISUBB. -/
def typeN3264 (t : Nat) : Bool := t == 22 || t == 23

/-- The encodings of IADDC and ISUBB (R117): with MOD[0] the result is 32-bit. -/
def encCarry (opc : Nat) (f : Fields) : Enc :=
  { opc := opc, lens := [2, 3], dst := if bitOf (modOf f) 0 then .w32 else .ty, sa := .ty, sb := .ty, sc := .w32,
    types := .eff typeN3264, md := 1 }

/-- IADDC (R118). -/
def execIaddc (f : Fields) (s : State) : Host.Outcome State Fault Refusal :=
  runInstr (encCarry 0x0B f) f (fun v _ =>
    let w := typeBits v.ty
    let sum := fun l => v.al l % 2 ^ w + v.bl l % 2 ^ w + v.cl l % 2
    let t := shapeUG [v.a, v.o, v.c]
    if bitOf v.md 0 then laneRes v false (fun l => if 2 ^ w ≤ sum l then 1 else 0) t
    else laneRes v (typeWide v.ty) (fun l => sum l % 2 ^ w) t) s

/-- ISUBB (R118). -/
def execIsubb (f : Fields) (s : State) : Host.Outcome State Fault Refusal :=
  runInstr (encCarry 0x0C f) f (fun v _ =>
    let w := typeBits v.ty
    let dif : Nat → Int := fun l => ((v.al l % 2 ^ w : Nat) : Int) - ((v.bl l % 2 ^ w : Nat) : Int) - ((v.cl l % 2 : Nat) : Int)
    let t := shapeUG [v.a, v.o, v.c]
    if bitOf v.md 0 then laneRes v false (fun l => if dif l < 0 then 1 else 0) t
    else laneRes v (typeWide v.ty) (fun l => wrapNat w (dif l)) t) s

/-- A bitwise lane function (R118). -/
def bitOp (g : Nat → Nat → Nat → Nat) (v : Env) (_ : State) : Res :=
  let w := typeBits v.ty
  laneRes v (typeWide v.ty) (fun l => g w (v.al l % 2 ^ w) (v.bl l % 2 ^ w) % 2 ^ w) (shapeAB v)

/-- AND (R118). -/
def execAnd (f : Fields) (s : State) : Host.Outcome State Fault Refusal :=
  runInstr (encInt 0x0D [1, 2, 3] .ty .no typeW false) f (bitOp (fun _ a b => a &&& b)) s

/-- OR (R118). -/
def execOr (f : Fields) (s : State) : Host.Outcome State Fault Refusal :=
  runInstr (encInt 0x0E [1, 2, 3] .ty .no typeW false) f (bitOp (fun _ a b => a ||| b)) s

/-- XOR (R118). -/
def execXor (f : Fields) (s : State) : Host.Outcome State Fault Refusal :=
  runInstr (encInt 0x0F [1, 2, 3] .ty .no typeW false) f (bitOp (fun _ a b => a ^^^ b)) s

/-- NOT (R118). -/
def execNot (f : Fields) (s : State) : Host.Outcome State Fault Refusal :=
  runInstr (encInt 0x10 [1, 2] .no .no typeW false) f (bitOp (fun w a _ => 2 ^ w - 1 - a)) s

/-- ANDN (R118): a AND NOT b. -/
def execAndn (f : Fields) (s : State) : Host.Outcome State Fault Refusal :=
  runInstr (encInt 0x11 [1, 2, 3] .ty .no typeW false) f (bitOp (fun w a b => a &&& (2 ^ w - 1 - b))) s

/-- The left shift of R118: zero for a count of the width or more. -/
def shlBits (w a n : Nat) : Nat := if w ≤ n then 0 else a * 2 ^ n % 2 ^ w

/-- The right shift of R118 with zero fill. -/
def shrBits (w a n : Nat) : Nat := if w ≤ n then 0 else a % 2 ^ w / 2 ^ n

/-- The arithmetic right shift of R118. -/
def sarBits (w a n : Nat) : Nat := wrapNat w (sextInt w a / ((2 ^ min n (w - 1) : Nat) : Int))

/-- The rotation of R118. -/
def rotBits (w a n : Nat) : Nat :=
  let k := n % w
  (a % 2 ^ w * 2 ^ k + a % 2 ^ w / 2 ^ (w - k)) % 2 ^ w

/-- A shift by b[7:0] (R118). -/
def shiftOp (g : Nat → Nat → Nat → Nat) (sh : Env → Tag) (v : Env) (_ : State) : Res :=
  let w := typeBits v.ty
  laneRes v (typeWide v.ty) (fun l => g w (v.al l % 2 ^ w) (v.bl l % 256)) (sh v)

/-- SHL (R118). -/
def execShl (f : Fields) (s : State) : Host.Outcome State Fault Refusal :=
  runInstr (encInt 0x12 [1, 2, 3] .w32 .no typeW false) f (shiftOp shlBits shapeShl) s

/-- SHR (R118). -/
def execShr (f : Fields) (s : State) : Host.Outcome State Fault Refusal :=
  runInstr (encInt 0x13 [1, 2, 3] .w32 .no typeW false) f (shiftOp shrBits shapeAB) s

/-- SAR (R118). -/
def execSar (f : Fields) (s : State) : Host.Outcome State Fault Refusal :=
  runInstr (encInt 0x14 [1, 2, 3] .w32 .no typeW false) f (shiftOp sarBits shapeAB) s

/-- ROT (R118). -/
def execRot (f : Fields) (s : State) : Host.Outcome State Fault Refusal :=
  runInstr (encInt 0x15 [1, 2, 3] .w32 .no typeW false) f (shiftOp rotBits shapeAB) s

/-- BFE's bits of a (R118): bits at the width or above read as the sign for a signed type and as zero otherwise. -/
def bfeBits (ty a b : Nat) : Nat :=
  let w := typeBits ty
  let len := min (bitsOf b 15 8) w
  let pos := b % 256
  let field := wrapNat len (elemInt ty a / ((2 ^ pos : Nat) : Int))
  if len = 0 then 0
  else if typeSigned ty then wrapNat w (sextInt len field) else field

/-- BFE (R118). -/
def execBfe (f : Fields) (s : State) : Host.Outcome State Fault Refusal :=
  runInstr (encInt 0x16 [1, 2, 3] .w32 .no typeW false) f
    (fun v _ => laneRes v (typeWide v.ty) (fun l => bfeBits v.ty (v.al l) (v.bl l)) (shapeAB v)) s

/-- BFI's replacement (R118): bits that would land at the width or above are dropped. -/
def bfiBits (w a b c : Nat) : Nat :=
  let len := min (bitsOf c 15 8) w
  let pos := c % 256
  if w ≤ pos then a
  else
    let mask := (2 ^ len - 1) * 2 ^ pos % 2 ^ w
    (a &&& (2 ^ w - 1 - mask)) ||| (b % 2 ^ len * 2 ^ pos % 2 ^ w)

/-- BFI (R118). -/
def execBfi (f : Fields) (s : State) : Host.Outcome State Fault Refusal :=
  runInstr (encInt 0x17 [2, 3] .ty .w32 typeW false) f
    (fun v _ =>
      let w := typeBits v.ty
      laneRes v (typeWide v.ty) (fun l => bfiBits w (v.al l % 2 ^ w) (v.bl l) (v.cl l)) (shapeUG [v.a, v.o, v.c])) s

/-- The number of one bits among the low `w` bits. -/
def popCount (w a : Nat) : Nat := ((List.range w).filter (fun i => bitOf a i)).length

/-- The rows of POPC and CLZ, whose result is 32-bit (R117, R118). -/
def encCount (opc : Nat) : Enc :=
  { opc := opc, lens := [1, 2], dst := .w32, sa := .ty, types := .eff typeW }

/-- POPC (R118). -/
def execPopc (f : Fields) (s : State) : Host.Outcome State Fault Refusal :=
  runInstr (encCount 0x18) f
    (fun v _ => laneRes v false (fun l => popCount (typeBits v.ty) (v.al l)) (shapeUG [v.a])) s

/-- CLZ (R118). -/
def execClz (f : Fields) (s : State) : Host.Outcome State Fault Refusal :=
  runInstr (encCount 0x19) f
    (fun v _ => laneRes v false (fun l => typeBits v.ty - bitLen (v.al l % 2 ^ typeBits v.ty)) (shapeUG [v.a])) s

/-- The bits of `a` in reverse order. -/
def revBits : Nat → Nat → Nat
  | 0, _ => 0
  | w + 1, a => a % 2 * 2 ^ w + revBits w (a / 2)

/-- BREV (R118). -/
def execBrev (f : Fields) (s : State) : Host.Outcome State Fault Refusal :=
  runInstr (encInt 0x1A [1, 2] .no .no typeW false) f
    (fun v _ => laneRes v (typeWide v.ty) (fun l => revBits (typeBits v.ty) (v.al l)) (shapeUG [v.a])) s

/-- LEA (R118). -/
def execLea (f : Fields) (s : State) : Host.Outcome State Fault Refusal :=
  runInstr { opc := 0x1B, lens := [2, 3], dst := .w64, sa := .w64, sb := .w32,
             types := .eff (fun t => t == 18 || t == 22), md := 7 } f
    (fun v _ => laneRes v true (fun l =>
      wrapNat 64 ((v.al l : Int) + elemInt v.ty (v.bl l) * ((2 ^ (v.md % 8) : Nat) : Int))) (shapeAB v)) s

/-! ### MOV, MOVI, AFF, UNIF, SHAPE (R104 to R107) -/

/-- MOV (R106): each register of a pair with its own tag. -/
def execMov (f : Fields) (s : State) : Host.Outcome State Fault Refusal :=
  runInstr { opc := 0x1C, lens := [1, 2], dst := .ty, sa := .ty, types := .tov (fun t => t == 0 || t == 25) } f
    (fun v _ => .done { regs := [⟨v.f.dst.toNat, typeWide v.ty, v.a.v, v.a.tag, v.a.tag1, false, v.act⟩] }) s

/-- The types of MOVI (R104). -/
def typeMovi (t : Nat) : Bool := [0, 18, 22, 24, 1, 19, 23, 25, 2].contains t

/-- MOVI's constant (R37, R38, R106): the immediate sign-extended as a bit pattern, or the literal. -/
def moviValue (f : Fields) (ty : Nat) : Dword :=
  match f.lit? with
  | some l => litValue (typeWide ty) ty l
  | none => BitVec.ofNat 64 (wrapNat (if typeWide ty then 64 else 32) (sextInt 7 (imm7 f)))

/-- MOVI (R106). -/
def execMovi (f : Fields) (s : State) : Host.Outcome State Fault Refusal :=
  runInstr { opc := 0x1D, lens := [1, 2, 3], dst := .ty, types := .tov typeMovi, imm := true } f
    (fun v _ => .done { regs := [v.write (typeWide v.ty) (Quad.all (moviValue f v.ty)) .u] }) s

/-- AFF (R107). -/
def execAff (f : Fields) (s : State) : Host.Outcome State Fault Refusal :=
  runInstr { opc := 0x4F, lens := [1, 2, 3], dst := .w32, sa := .u32, sb := .u32 } f
    (fun v _ => .done { regs :=
      [⟨v.f.dst.toNat, false, Quad.ofFn (fun l => BitVec.ofNat 64 ((v.al 0 + l * v.bl 0) % 2 ^ 32)), .a, .a, true, v.act⟩] }) s

/-- UNIF (R107). -/
def execUnif (f : Fields) (s : State) : Host.Outcome State Fault Refusal :=
  runInstr { opc := 0x50, lens := [1, 2], dst := .w32, sa := .w32, md := 1 } f
    (fun v _ =>
      match lanesOf v.act with
      | [] => .done { regs := [⟨v.f.dst.toNat, false, Quad.all 0, .u, .u, true, v.act⟩] }
      | l :: ls =>
        let bad := ls.filter (fun k => v.al k != v.al l)
        if bitOf v.md 0 && !bad.isEmpty then .raise 0x0105 0 (laneSet bad)
        else .done { regs := [⟨v.f.dst.toNat, false, Quad.all (v.a.v.get l), .u, .u, true, v.act⟩] }) s

/-- The code that SHAPE returns for a source (R107). -/
def Slice.shapeCode (x : Slice) (k : Nat) : Nat :=
  if 60 ≤ k then (match x.latch (k - 60) with | some l => l.tag.code | none => 0) else (x.reg k).code

/-- SHAPE (R107): reads no value; a last-use bit releases, and on a pending register its fill drains. -/
def execShape (f : Fields) (s : State) : Host.Outcome State Fault Refusal :=
  runInstr { opc := 0x51, lens := [1, 2], dst := .w32, sa := .raw } f
    (fun v _ =>
      let k := f.sa.toNat
      .done { regs := [v.write false (Quad.all (BitVec.ofNat 64 (v.x.shapeCode k))) .u],
              rels := if f.la then [k] else [] }) s

end Sys2Proof.Machine
end

