-- ==== Sys2Proof/Machine/Page.lean ====
section
/-! DEFINITION. PQRY (R374), SETPK (R369, R375), and the flushes TLBFL and TLBDR (R371, R372, R376). -/

namespace Sys2Proof.Machine

/-! ### PQRY (R374) -/

/-- The fields of a leaf in PQRY's word; a page of the image map reads as readable, executable and resident (R368).
(DEDUCED, log 68) -/
def Leaf.pqry (l : Leaf) : Nat :=
  if l.image then 2 ^ 2 + 2 ^ 4 + 2
  else
    let e := l.entry.toNat
    (if l.big then 2 ^ 52 else 0) + bitsOf e 28 17 * 2 ^ 16 + bitsOf e 29 29 * 2 ^ 15 + bitsOf e 14 12 * 2 ^ 12
      + bitsOf e 11 7 * 2 ^ 7 + bitsOf e 6 2 * 2 ^ 2 + bitsOf e 16 15

/-- The owner's fields of PQRY's word. -/
def pqryOwner (hops pkg die : Nat) (host : Bool) : Nat :=
  hops * 2 ^ 47 + (if host then 2 ^ 46 else 0) + pkg * 2 ^ 35 + die * 2 ^ 32

/-- PQRY's word for an address, with the entries that the walk cached. (DEDUCED, log 68) -/
def State.pqry (s : State) (ctx die ea : Nat) : State × Nat :=
  match s.ownerOf ea with
  | .error _ => (s, 2 ^ 56)
  | .ok (.peer p d) => (s, 2 * 2 ^ 56 + pqryOwner 15 p d false)
  | .ok o =>
    let host := match o with | .host _ => true | _ => false
    let own := pqryOwner (s.hops die o.die) s.fuses.pkg o.die host
    if (s.die o.die).lost then (s, 2 ^ 56 + own)
    else match s.walk ctx o ea with
      | (s1, .error _) => (s1, 2 ^ 56 + own)
      | (s1, .ok l) =>
        let leased := !host && (s1.leaseCount ctx ea != 0)
        (s1, own + l.pqry + if leased then 2 ^ 51 else 0)

/-- PQRY (R374): the query is made at issue, and its words are a fill. -/
def execPqry (f : Fields) (s : State) : Host.Outcome State Fault Refusal :=
  runInstr { opc := 0xF4, lens := [2, 3], dst := .w64, sa := .w64, lit := .role } f
    (fun v s =>
      if !s.counterRoom v true then .wait s
      else
        let d := f.dst.toNat
        .done { fills := [d, d + 1], fillTag := .g, eff := fun s =>
          let es := v.globalElems v.a.v 8 1 (lanesOf v.act)
          let r := es.foldl (fun (acc : State × List FillElem) e =>
            let (s1, w) := acc.1.pqry v.b.ctx v.b.die e.va
            (s1, acc.2 ++ [{ lane := e.lane, reg := d, wide := true, ty := 25, parts := [(0, 8, some (BitVec.ofNat 64 w))],
                             addr := BitVec.ofNat 64 e.va, shift := 0, fault := none, landed := false }])) (s, [])
          ((r.1.modSlice v.bid v.sid (fun x => x.blankFill [d, d + 1] v.act)).beginFill v [d, d + 1] .g false true r.2 []
            (fun _ q => q)).1 }) s

/-! ### SETPK (R369, R375) -/

/-- The dies of a context's partition, the first one first (R379). -/
def Ctx.dies (c : Ctx) : List Nat := (List.range c.size).map (fun i => (c.first + i) % 8)

/-- The working copy of K on a die. -/
def Ctx.kOn (c : Ctx) (d : Nat) : Dword := (c.kWork.get? d).getD c.k

/-- The master copy replaced; every working copy still holds what it held. -/
def Ctx.setK (c : Ctx) (k : Dword) : Ctx :=
  { c with k := k, kWork := c.dies.foldl (fun t d => Tab.put t d (c.kOn d)) c.kWork }

/-- The result goes to the working copies of the dies that it has reached by now, which the spec does not time.
(DEDUCED, log 69) -/
def State.spreadK (s : State) (ctx : Nat) : State :=
  s.modCtx ctx (fun c => { c with kWork := c.dies.foldl (fun t d => if s.choose (ctx * 8 + d) then Tab.put t d c.k else t) c.kWork })

/-- Every die of the partition holds the master's value. (DEDUCED, log 69) -/
def Ctx.kEverywhere (c : Ctx) : Bool := c.dies.all (fun d => c.kOn d == c.k)

/-- SETPK's new value (R375). -/
def setpkValue (m : Nat) (old x : Dword) : Dword :=
  match m with
  | 0 => x
  | 1 => old &&& x
  | _ => old ||| x

/-- A SETPK whose update has been made, waiting for the broadcast; a save leaves it as it is (R375). (DEDUCED, log 69) -/
def setpkWait (old : Dword) : Prog := .acquiring [] old

/-- SETPK's steps (R375). -/
def setpkBody (v : Env) (s : State) : Res :=
  match s.ctxs.get? v.b.ctx with
  | none => .wait s
  | some c =>
    let out := fun (old : Dword) => ({ regs := [v.writeUni true old] } : Out)
    match v.x.acquiring? with
    | some old =>
      let s1 := if c.kEverywhere then s else s.spreadK v.b.ctx
      (match s1.ctxs.get? v.b.ctx with
       | some c1 => if c1.kEverywhere then .doneIn s1 (out old) else .wait s1
       | none => .wait s1)
    | none =>
      let s1 := (s.modCtx v.b.ctx (fun c => c.setK (setpkValue v.md c.k v.a.v.l0))).spreadK v.b.ctx
      .wait (s1.modSlice v.bid v.sid (fun x => { x with prog := setpkWait c.k }))

/-- SETPK (R375). -/
def execSetpk (f : Fields) (s : State) : Host.Outcome State Fault Refusal :=
  runInstr { opc := 0xF5, lens := [2], dst := .w64, sa := .u64, gov0 := true, md := 3, extra := fun f _ => modOf f != 3 } f setpkBody s

/-! ### TLBFL and TLBDR (R371, R372, R376) -/

/-- The row of TLBFL and TLBDR: .die names a die, .pkg the partition (R373). -/
def encTlb (opc : Nat) (f : Fields) : Enc :=
  { opc := opc, lens := [1, 2], sa := if modOf f = 1 then .no else .u32, gov0 := true, md := 1 }

/-- The dies of the extent named, or none where the die operand is none of the partition (R373). -/
def Env.extent (v : Env) (s : State) : Option (List Nat) :=
  match s.ctxs.get? v.b.ctx with
  | none => none
  | some c => if v.md = 1 then some c.dies else if c.dies.contains v.a.scalar then some [v.a.scalar] else none

/-- What TLBFL drops (R371). (DEDUCED, log 70) -/
def State.flushTlb (s : State) (ctx : Nat) (part ext : List Nat) : State :=
  let s1 := ext.foldl (fun s d => s.modDie d (fun x => { x with tcache := x.tcache.filter (fun t => t.ctx != ctx) })) s
  let s2 := part.foldl (fun s d => s.dropGuests d (fun g => g.ctx == ctx && ext.contains g.home)) s1
  part.foldl (fun s d => (s.die d).cores.foldl (fun s c =>
    (s.flushUo d c.1 (fun l => l.ctx == ctx && ext.contains l.home)).dropVs d c.1 (fun l => l.ctx == ctx && ext.contains l.home)) s) s2

/-- TLBFL (R371, R376). -/
def execTlbfl (f : Fields) (s : State) : Host.Outcome State Fault Refusal :=
  runInstr (encTlb 0xF6 f) f
    (fun v s =>
      match v.extent s with
      | none => .raise 0x0102 0 v.x.mask
      | some ext => match s.release v .pkg with
        | (s1, none) => .wait s1
        | (s1, some _) =>
          let part := match s1.ctxs.get? v.b.ctx with | some c => c.dies | none => []
          .doneIn s1 { eff := fun s => s.flushTlb v.b.ctx part ext }) s

/-- The place was translated at a bay of a die of an extent: that of its owner (R172, R365). -/
def Placed.madeAt (p : Placed) (ext : List Nat) : Bool :=
  match p.place with
  | .own d _ _ => ext.contains d
  | .host h _ _ => ext.contains (Owner.host h).die
  | _ => false

/-- A block's slot fills, drains and loads translated before request `upTo` at a die of an extent are performed. -/
def Block.matrixDone (b : Block) (upTo : Nat) (ext : List Nat) : Bool :=
  !b.slotFills.any (fun q => decide (q.1 < upTo) && (q.2.src ++ q.2.msrc).any (fun p => p.madeAt ext))
    && !b.stream.any (fun e => decide (e.after ≤ upTo) && e.src.any (fun p => p.madeAt ext))

/-- An ordered block's buffered writes translated before request `upTo` at a die of an extent are performed. -/
def Block.bufferDone (b : Block) (upTo : Nat) (ext : List Nat) : Bool :=
  !b.roundBytes.any (fun r => decide (r.seq < upTo) && ext.contains r.die)
    && !b.roundOps.any (fun o => decide (o.order < upTo) && ext.contains o.die)
    && !b.late.any (fun w => decide (w.seq < upTo) && ext.contains w.die)

/-- The requests of a context numbered below `upTo` that were translated at a die of an extent are done (R372): a write that an ordered block has
buffered is one until its round commits. (DEDUCED, log 70) -/
def State.translatedDone (s : State) (ctx upTo : Nat) (ext : List Nat) : Bool :=
  !s.reqs.any (fun r => decide (r.1 < upTo) && r.2.ctx == ctx && !r.2.remote && ext.contains r.2.home)
  && !s.entries.any (fun e => e.2.ctx == ctx && decide (e.2.todoAt < upTo) && e.2.todo.any (fun q => q.1.madeAt ext))
  && s.blocks.all (fun b => b.2.ctx != ctx || (b.2.matrixDone upTo ext && b.2.bufferDone upTo ext))

/-- TLBDR (R372, R376). -/
def execTlbdr (f : Fields) (s : State) : Host.Outcome State Fault Refusal :=
  runInstr (encTlb 0xF7 f) f
    (fun v s =>
      match v.extent s with
      | none => .raise 0x0102 0 v.x.mask
      | some ext =>
        let upTo := match v.x.prog with | .pending n => n | _ => s.nextId
        if s.translatedDone v.b.ctx upTo ext then .done {}
        else .wait (s.modSlice v.bid v.sid (fun x => { x with prog := .pending upTo }))) s

end Sys2Proof.Machine
end

