-- ==== Sys2Proof/Machine/Special.lean ====
section
/-! DEFINITION. The special functions (R122 to R125): the fixed cases, and the algorithms in binary32 over the tables and
coefficients of R124. -/

namespace Sys2Proof.Machine

/-- T_rcp of R124, as binary32 encodings. -/
def tRcp : List Nat :=
  [0x3F7E03F8, 0x3F7A232D, 0x3F76603E, 0x3F72B9D6, 0x3F6F2EB7, 0x3F6BBDB3, 0x3F6865AC, 0x3F652598] ++
  [0x3F61FC78, 0x3F5EE95C, 0x3F5BEB62, 0x3F5901B2, 0x3F562B81, 0x3F53680D, 0x3F50B6A0, 0x3F4E168A] ++
  [0x3F4B8728, 0x3F4907DA, 0x3F46980C, 0x3F443730, 0x3F41E4BC, 0x3F3FA030, 0x3F3D6910, 0x3F3B3EE7] ++
  [0x3F392144, 0x3F370FBB, 0x3F3509E7, 0x3F330F63, 0x3F311FD4, 0x3F2F3ADE, 0x3F2D602B, 0x3F2B8F6A] ++
  [0x3F29C84A, 0x3F280A81, 0x3F2655C4, 0x3F24A9CF, 0x3F23065E, 0x3F216B31, 0x3F1FD80A, 0x3F1E4CAD] ++
  [0x3F1CC8E1, 0x3F1B4C70, 0x3F19D723, 0x3F1868C8, 0x3F17012E, 0x3F15A025, 0x3F144581, 0x3F12F114] ++
  [0x3F11A2B4, 0x3F105A38, 0x3F0F177A, 0x3F0DDA52, 0x3F0CA29C, 0x3F0B7034, 0x3F0A42F8, 0x3F091AC7] ++
  [0x3F07F781, 0x3F06D905, 0x3F05BF37, 0x3F04A9FA, 0x3F039930, 0x3F028CC0, 0x3F01848E, 0x3F008081]

/-- T_rsq of R124, as binary32 encodings. -/
def tRsq : List Nat :=
  [0x3F7E05EC, 0x3F7A33F9, 0x3F768CDC, 0x3F730D8A, 0x3F6FB345, 0x3F6C7B90, 0x3F69642A, 0x3F666B02] ++
  [0x3F638E39, 0x3F60CC16, 0x3F5E2305, 0x3F5B9193, 0x3F59166B, 0x3F56B051, 0x3F545E22, 0x3F521ED0] ++
  [0x3F4FF162, 0x3F4DD4ED, 0x3F4BC89B, 0x3F49CBA2, 0x3F47DD45, 0x3F45FCD6, 0x3F4429AF, 0x3F426337] ++
  [0x3F40A8DE, 0x3F3EFA1C, 0x3F3D5671, 0x3F3BBD67, 0x3F3A2E8C, 0x3F38A975, 0x3F372DBF, 0x3F35BB09] ++
  [0x3F339F19, 0x3F30EB96, 0x3F2E565C, 0x3F2BDD46, 0x3F297E62, 0x3F2737F0, 0x3F250855, 0x3F22EE1D] ++
  [0x3F20E7F5, 0x3F1EF4A4, 0x3F1D130E, 0x3F1B422C, 0x3F19810C, 0x3F17CED0, 0x3F162AA9, 0x3F1493D9] ++
  [0x3F1309AF, 0x3F118B87, 0x3F1018C6, 0x3F0EB0E0, 0x3F0D534F, 0x3F0BFF97, 0x3F0AB544, 0x3F0973E8] ++
  [0x3F083B1E, 0x3F070A87, 0x3F05E1C7, 0x3F04C08B, 0x3F03A682, 0x3F029362, 0x3F0186E2, 0x3F0080C1]

/-- T_ex2 of R124, as binary32 encodings. -/
def tEx2 : List Nat :=
  [0x3F800000, 0x3F8164D2, 0x3F82CD87, 0x3F843A29, 0x3F85AAC3, 0x3F871F62, 0x3F88980F, 0x3F8A14D5] ++
  [0x3F8B95C2, 0x3F8D1ADF, 0x3F8EA43A, 0x3F9031DC, 0x3F91C3D3, 0x3F935A2B, 0x3F94F4F0, 0x3F96942D] ++
  [0x3F9837F0, 0x3F99E046, 0x3F9B8D3A, 0x3F9D3EDA, 0x3F9EF532, 0x3FA0B051, 0x3FA27043, 0x3FA43516] ++
  [0x3FA5FED7, 0x3FA7CD94, 0x3FA9A15B, 0x3FAB7A3A, 0x3FAD583F, 0x3FAF3B79, 0x3FB123F6, 0x3FB311C4] ++
  [0x3FB504F3, 0x3FB6FD92, 0x3FB8FBAF, 0x3FBAFF5B, 0x3FBD08A4, 0x3FBF179A, 0x3FC12C4D, 0x3FC346CD] ++
  [0x3FC5672A, 0x3FC78D75, 0x3FC9B9BE, 0x3FCBEC15, 0x3FCE248C, 0x3FD06334, 0x3FD2A81E, 0x3FD4F35B] ++
  [0x3FD744FD, 0x3FD99D16, 0x3FDBFBB8, 0x3FDE60F5, 0x3FE0CCDF, 0x3FE33F89, 0x3FE5B907, 0x3FE8396A] ++
  [0x3FEAC0C7, 0x3FED4F30, 0x3FEFE4BA, 0x3FF28177, 0x3FF5257D, 0x3FF7D0DF, 0x3FFA83B3, 0x3FFD3E0C]

/-- T_lg1 of R124, as binary32 encodings. -/
def tLg1 : List Nat :=
  [0x3F800000, 0x3F7C0FC1, 0x3F783E10, 0x3F74898D, 0x3F70F0F1, 0x3F6D7304, 0x3F6A0EA1, 0x3F66C2B4] ++
  [0x3F638E39, 0x3F607038, 0x3F5D67C9, 0x3F5A740E, 0x3F579436, 0x3F54C77B, 0x3F520D21, 0x3F4F6475] ++
  [0x3F4CCCCD, 0x3F4A4588, 0x3F47CE0C, 0x3F4565C8, 0x3F430C31, 0x3F40C0C1, 0x3F3E82FA, 0x3F3C5264] ++
  [0x3F3A2E8C, 0x3F381703, 0x3F360B61, 0x3F340B41, 0x3F321643, 0x3F302C0B, 0x3F2E4C41, 0x3F2C7692] ++
  [0x3F2AAAAB, 0x3F28E83F, 0x3F272F05, 0x3F257EB5, 0x3F23D70A, 0x3F2237C3, 0x3F20A0A1, 0x3F1F1166] ++
  [0x3F1D89D9, 0x3F1C09C1, 0x3F1A90E8, 0x3F191F1A, 0x3F17B426, 0x3F164FDA, 0x3F14F209, 0x3F139A86] ++
  [0x3F124925, 0x3F10FDBC, 0x3F0FB824, 0x3F0E7835, 0x3F0D3DCB, 0x3F0C08C1, 0x3F0AD8F3, 0x3F09AE41] ++
  [0x3F088889, 0x3F0767AB, 0x3F064B8A, 0x3F053408, 0x3F042108, 0x3F03126F, 0x3F020821, 0x3F010204]

/-- T_lg2 of R124, as binary32 encodings. -/
def tLg2 : List Nat :=
  [0x00000000, 0x3CB73CB3, 0x3D35D690, 0x3D8759C9, 0x3DB31FB7, 0x3DDE420E, 0x3E0462C4, 0x3E195751] ++
  [0x3E2E00D1, 0x3E42615F, 0x3E567AEF, 0x3E6A4F70, 0x3E7DE0B5, 0x3E88983F, 0x3E92203D, 0x3E9B8925] ++
  [0x3EA4D3C2, 0x3EAE00D1, 0x3EB71110, 0x3EC0052D, 0x3EC8DDD3, 0x3ED19BAF, 0x3EDA3F60, 0x3EE2C97E] ++
  [0x3EEB3A9E, 0x3EF39355, 0x3EFBD42A, 0x3F01FED4, 0x3F060828, 0x3F0A0650, 0x3F0DF98A, 0x3F11E20E] ++
  [0x3F15C01A, 0x3F1993E4, 0x3F1D5DA0, 0x3F211D84, 0x3F24D3C3, 0x3F28808D, 0x3F2C2410, 0x3F2FBE7F] ++
  [0x3F335004, 0x3F36D8CA, 0x3F3A58FE, 0x3F3DD0C9, 0x3F41404E, 0x3F44A7BB, 0x3F480731, 0x3F4B5ED6] ++
  [0x3F4EAECF, 0x3F51F740, 0x3F553847, 0x3F58720A, 0x3F5BA4A5, 0x3F5ED038, 0x3F61F4E5, 0x3F6512C6] ++
  [0x3F6829FA, 0x3F6B3AA0, 0x3F6E44CF, 0x3F7148A2, 0x3F744636, 0x3F773DA2, 0x3F7A2F03, 0x3F7D1A71]

/-- C1 to C4 of R124, as binary32 encodings. -/
def ex2C : List Nat :=
  [0x3F317218, 0x3E75FDF0, 0x3D635847, 0x3C1D955B]

/-- D1 to D4 of R124, as binary32 encodings. -/
def lg2D : List Nat :=
  [0x3FB8AA3B, 0xBF38AA3B, 0x3EF6384F, 0xBEB8AA3B]

/-- S0 to S4 of R124, as binary32 encodings. -/
def sinS : List Nat :=
  [0x40490FDB, 0xC0A55DE7, 0x402335E3, 0xBF196966, 0x3DA83C1A]

/-- K1 to K5 of R124, as binary32 encodings. -/
def cosK : List Nat :=
  [0xC09DE9E6, 0x4081E0F8, 0xBFAAE9E4, 0x3E70FA83, 0xBCD368F9]

/-- E1 to E7 of R124, as binary32 encodings. -/
def tanE : List Nat :=
  [0xBEAAAAAB, 0x3E088889, 0xBD5D0DD1, 0x3CB327A4, 0xBC11371B, 0x3B6B69E8, 0xBABED1B2]

/-- L of R124, as binary32 encodings. -/
def tanL : List Nat :=
  [0x4038AA3B]

/-! ### Helpers of R124 -/

/-- The value of an entry of a table or of a coefficient list. -/
def cf (t : List Nat) (i : Nat) : FVal := decodeF 1 (t.getD i 0)

/-- A value rounded to f32 under rne. -/
def r32 (v : FVal) : FVal := decodeF 1 (deliver 1 1 0 false false v).1

/-- fm of R124. -/
def fm32 (a b : FVal) : FVal := r32 (mulVal a b).1
/-- fa of R124. -/
def fa32 (a b : FVal) : FVal := r32 (addVal 1 a b).1
/-- fma of R124. -/
def fma32 (a b c : FVal) : FVal := r32 (fmaVal 1 a b c).1
/-- fdv of R124. -/
def fdv32 (a b : FVal) : FVal := decodeF 1 (divF 1 1 0 false a b).1

/-- An integer as an exact value. -/
def intVal (x : Int) : FVal := numOf x 0 false

/-- One. -/
def oneVal : FVal := .num false 1 0

/-- scale of R124: y × 2^k rounded to f32 under rne, with its exceptions. -/
def scale32 (sat : Bool) (y : FVal) (k : Int) : Nat × Excs :=
  match y with
  | .num n m e => roundF 1 1 0 sat n m (e + k) false
  | v => deliver 1 1 0 sat false v

/-- A polynomial step p := fma(x, p, c) over a list of coefficients. -/
def horner (x : FVal) (p : FVal) (cs : List FVal) : FVal := cs.foldl (fun p c => fma32 x p c) p

/-- What an algorithm answers: the f32 encoding with the exceptions of scale, and whether R125 exempts the operand from
inexact. -/
structure SpecRes where
  bits : Nat
  exc : Excs
  exempt : Bool
  deriving Repr

/-- The final conversion to the destination type and the exceptions of R125: a final result of zero signals no underflow, and every
overflow is inexact too (R68). (DEDUCED, log 27) -/
def specFinish (ty : Nat) (sat : Bool) (r : SpecRes) : Nat × Excs :=
  let (b, x) := if ty = 1 then (r.bits, Excs.none) else deliver ty 1 0 sat true (decodeF 1 r.bits)
  let ovf := r.exc.ovf || x.ovf
  let unf := r.exc.unf || (x.unf && b % (fmtOf ty).signBit != 0)
  (b, { ovf := ovf, unf := unf, inx := !r.exempt || ovf || unf })

/-- An f32 value as a result with nothing from scale. -/
def plainRes (v : FVal) (exempt : Bool) : SpecRes := ⟨(deliver 1 1 0 false false v).1, Excs.none, exempt⟩

/-- The significand of split as a value in [1, 2). -/
def mantissa (m : Nat) : FVal := .num false m (-((bitLen m : Int) - 1))

/-- The exponent of split. -/
def expOf (m : Nat) (e : Int) : Int := e + (bitLen m : Int) - 1

/-- ⌊(m − 1) × n⌋ for the significand of split. -/
def fracIndex (m n : Nat) : Nat :=
  let p := 2 ^ (bitLen m - 1)
  (m - p) * n / p

/-- The magnitude is a power of two. -/
def isPow2 (m : Nat) : Bool := m == 2 ^ (bitLen m - 1)

/-- A value with a sign put on it. -/
def withSign (neg : Bool) (v : FVal) : FVal := if neg then v.negate else v

/-! ### The algorithms of R124 -/

/-- FRCP of a nonzero finite value; an exact power of two is the fixed case of R123. -/
def frcpAlg (sat neg : Bool) (m : Nat) (e : Int) : SpecRes :=
  let k := expOf m e
  if isPow2 m then
    let (b, x) := scale32 sat (withSign neg oneVal) (-k)
    ⟨b, x, true⟩
  else
    let mv := mantissa m
    let y0 := cf tRcp (fracIndex m 64)
    let h := fma32 mv.negate y0 oneVal
    let q := fma32 h (fma32 h h h) h
    let y := fma32 y0 q y0
    let (b, x) := scale32 sat (withSign neg y) (-k)
    ⟨b, x, false⟩

/-- 0.375, 0.3125 and 0.5 of FRSQ. -/
def rsqC : List FVal := [.num false 3 (-3), .num false 1 (-1)]

/-- FRSQ of a positive finite value; an exact power of four is the fixed case of R123. -/
def frsqAlg (sat : Bool) (m : Nat) (e0 : Int) : SpecRes :=
  let e := expOf m e0
  let o := (e % 2).toNat
  let k := (e - o) / 2
  if isPow2 m && o = 0 then
    let (b, x) := scale32 sat oneVal (-k)
    ⟨b, x, true⟩
  else
    let mm := match mantissa m with | .num n a b => FVal.num n a (b + o) | v => v
    let y0 := cf tRsq (32 * o + fracIndex m 32)
    let h := fm32 mm y0
    let d := fma32 h.negate y0 oneVal
    let p := fm32 d (horner d (.num false 5 (-4)) rsqC)
    let (b, x) := scale32 sat (fma32 y0 p y0) (-k)
    ⟨b, x, false⟩

/-- The value times 2^j rounded to an integer under rne. -/
def nearInt (neg : Bool) (m : Nat) (e j : Int) : Int :=
  let (n, _) := roundShift 1 0 neg m false (-(e + j))
  if neg then -(n : Int) else n

/-- FEX2's algorithm: the unscaled result and the exponent. -/
def fex2Alg (x : FVal) : FVal × Int :=
  match x with
  | .num neg m e =>
    let n := nearInt neg m e 6
    let k := n / 64
    let i := (n - 64 * k).toNat
    let f := (addVal 1 x (numOf (-n) (-6) false)).1
    let p := fm32 f (horner f (cf ex2C 3) [cf ex2C 2, cf ex2C 1, cf ex2C 0])
    (fma32 (cf tEx2 i) p (cf tEx2 i), k)
  | v => (v, 0)

/-- A finite value is an integer multiple of 2^−j. -/
def isMultiple (m : Nat) (e : Int) (j : Nat) : Bool :=
  m == 0 || decide (0 ≤ e + j) || m % 2 ^ (e + j).natAbs == 0

/-- FEX2 of a finite nonzero value (R123, R124). -/
def fex2Res (sat neg : Bool) (m : Nat) (e : Int) : SpecRes :=
  let x := FVal.num neg m e
  if cmpVal x (intVal 128) != .lt then
    let (b, c) := roundF 1 1 0 sat false 1 4000 false
    ⟨b, c, false⟩
  else if cmpVal x (intVal (-150)) != .gt then ⟨0, { unf := true, inx := true }, false⟩
  else
    let (y, k) := fex2Alg x
    let (b, c) := scale32 sat y k
    ⟨b, c, isMultiple m e 0⟩

/-- FLG2 of a positive finite value. -/
def flg2Alg (m : Nat) (e0 : Int) : SpecRes :=
  let e := expOf m e0
  let p := 2 ^ (bitLen m - 1)
  let j := ((m - p) * 128 + p) / (2 * p)
  let (j, mv, e) := if j = 64 then (0, (match mantissa m with | .num n a b => FVal.num n a (b - 1) | v => v), e + 1)
    else (j, mantissa m, e)
  let h := fma32 mv (cf tLg1 j) oneVal.negate
  let s := fm32 h (horner h (cf lg2D 3) [cf lg2D 2, cf lg2D 1, cf lg2D 0])
  plainRes (fa32 (fa32 (intVal e) (cf tLg2 j)) s) (isPow2 m)

/-- sin(πf) and cos(πf) of R124, and the quadrant. -/
def sinCos (neg : Bool) (m : Nat) (e : Int) : FVal × FVal × Nat :=
  let n := nearInt neg m e 1
  let f := (addVal 1 (.num neg m e) (numOf (-n) (-1) false)).1
  let u := fm32 f f
  let sv := fm32 f (horner u (cf sinS 4) [cf sinS 3, cf sinS 2, cf sinS 1, cf sinS 0])
  let cv := fma32 u (horner u (cf cosK 4) [cf cosK 3, cf cosK 2, cf cosK 1, cf cosK 0]) oneVal
  (sv, cv, (n % 4).toNat)

/-- A zero given a sign; any other value as it is. -/
def zeroSign (neg : Bool) (v : FVal) : FVal :=
  match v with
  | .num _ 0 _ => .num neg 0 0
  | v => v

/-- FSINP of a finite value: an exact zero takes the sign of x. -/
def fsinpAlg (neg : Bool) (m : Nat) (e : Int) : SpecRes :=
  let (sv, cv, q) := sinCos neg m e
  let r := match q with | 0 => sv | 1 => cv | 2 => sv.negate | _ => cv.negate
  plainRes (zeroSign neg r) (isMultiple m e 1)

/-- FCOSP of a finite value: never −0. -/
def fcospAlg (neg : Bool) (m : Nat) (e : Int) : SpecRes :=
  let (sv, cv, q) := sinCos neg m e
  let r := match q with | 0 => cv | 1 => sv.negate | 2 => cv.negate | _ => sv
  plainRes (zeroSign false r) (isMultiple m e 1)

/-- FTANH of a finite nonzero value (R123, R124). -/
def ftanhAlg (neg : Bool) (m : Nat) (e : Int) : SpecRes :=
  let x := FVal.num neg m e
  let ax := FVal.num false m e
  if cmpVal ax (.num false 19 (-1)) != .lt then plainRes (withSign neg oneVal) false
  else if cmpVal ax (.num false 1 (-12)) == .lt then plainRes x false
  else if cmpVal ax (.num false 1 (-1)) == .lt then
    let u := fm32 x x
    let p := horner u (cf tanE 6) [cf tanE 5, cf tanE 4, cf tanE 3, cf tanE 2, cf tanE 1, cf tanE 0]
    plainRes (fma32 x (fm32 u p) x) false
  else
    let (y, k) := fex2Alg (fm32 ax (cf tanL 0))
    let z := decodeF 1 (scale32 false y k).1
    plainRes (withSign neg (fa32 oneVal (fdv32 (.num false 2 0) (fa32 z oneVal)).negate)) false

/-! ### The functions with their fixed cases (R123) -/

/-- The seven special functions. -/
inductive SpecFn where
  | rcp | rsq | ex2 | lg2 | sinp | cosp | tanh
  deriving DecidableEq, Repr

/-- A fixed result that is a number or an infinity. -/
def fixedRes (ty : Nat) (sat : Bool) (v : FVal) (x : Excs) : Nat × Excs :=
  ((deliver ty 1 0 sat false v).1, x)

/-- A special function of one operand of type `ty` (R122 to R125). (DEDUCED, log 27) -/
def specFn (fn : SpecFn) (ty : Nat) (sat : Bool) (bits : Nat) : Nat × Excs :=
  let none' := Excs.none
  let inv : Excs := { inv := true }
  let dvz : Excs := { dvz := true }
  let fix := fixedRes ty sat
  match decodeF ty bits with
  | .nan sig => fix (.nan false) { inv := sig }
  | .inf neg =>
    match fn with
    | .rcp => fix (.num neg 0 0) none'
    | .rsq => if neg then fix (.nan false) inv else fix (.num false 0 0) none'
    | .ex2 => if neg then fix (.num false 0 0) none' else fix (.inf false) none'
    | .lg2 => if neg then fix (.nan false) inv else fix (.inf false) none'
    | .sinp => fix (.nan false) inv
    | .cosp => fix (.nan false) inv
    | .tanh => fix (.num neg 1 0) none'
  | .num neg m e =>
    if m = 0 then
      match fn with
      | .rcp => fix (.inf neg) dvz
      | .rsq => fix (.inf neg) dvz
      | .ex2 => fix oneVal none'
      | .lg2 => fix (.inf true) dvz
      | .sinp => fix (.num neg 0 0) none'
      | .cosp => fix oneVal none'
      | .tanh => fix (.num neg 0 0) none'
    else
      match fn with
      | .rcp => specFinish ty sat (frcpAlg sat neg m e)
      | .rsq => if neg then fix (.nan false) inv else specFinish ty sat (frsqAlg sat m e)
      | .ex2 => specFinish ty sat (fex2Res sat neg m e)
      | .lg2 => if neg then fix (.nan false) inv else specFinish ty sat (flg2Alg m e)
      | .sinp => specFinish ty sat (fsinpAlg neg m e)
      | .cosp => specFinish ty sat (fcospAlg neg m e)
      | .tanh => specFinish ty sat (ftanhAlg neg m e)

/-- The row of R122. -/
def encSpec (opc : Nat) : Enc :=
  { opc := opc, lens := [1, 2], dst := .ty, sa := .ty, types := .eff typeSF, sat := .eff }

/-- A special function as a lane instruction. -/
def specBody (fn : SpecFn) (v : Env) (_ : State) : Res :=
  fpRes v false (fun l => specFn fn v.ty v.sat (v.al l)) (shapeUG [v.a])

/-- FRCP (R124). -/
def execFrcp (f : Fields) (s : State) : Host.Outcome State Fault Refusal := runInstr (encSpec 0x2D) f (specBody .rcp) s
/-- FRSQ (R124). -/
def execFrsq (f : Fields) (s : State) : Host.Outcome State Fault Refusal := runInstr (encSpec 0x2E) f (specBody .rsq) s
/-- FEX2 (R124). -/
def execFex2 (f : Fields) (s : State) : Host.Outcome State Fault Refusal := runInstr (encSpec 0x2F) f (specBody .ex2) s
/-- FLG2 (R124). -/
def execFlg2 (f : Fields) (s : State) : Host.Outcome State Fault Refusal := runInstr (encSpec 0x30) f (specBody .lg2) s
/-- FSINP (R124). -/
def execFsinp (f : Fields) (s : State) : Host.Outcome State Fault Refusal := runInstr (encSpec 0x31) f (specBody .sinp) s
/-- FCOSP (R124). -/
def execFcosp (f : Fields) (s : State) : Host.Outcome State Fault Refusal := runInstr (encSpec 0x32) f (specBody .cosp) s
/-- FTANH (R124). -/
def execFtanh (f : Fields) (s : State) : Host.Outcome State Fault Refusal := runInstr (encSpec 0x33) f (specBody .tanh) s

end Sys2Proof.Machine
end

