-- ==== Sys2Proof/Machine/Resume.lean ====
section
/-! DEFINITION. The meanings of the instructions of a slice as one table, for the events that execute a waiting instruction again
(R152). A step that is no instruction of a slice changes nothing here. -/

namespace Sys2Proof.Machine

/-- An instruction of a slice executed again. (DEDUCED, log 18) -/
def rerun (i : Instr) (s : State) : Host.Outcome State Fault Refusal :=
  match i with
  | .iadd f => Sys2Proof.Machine.execIadd f s
  | .isub f => Sys2Proof.Machine.execIsub f s
  | .imul f => Sys2Proof.Machine.execImul f s
  | .imulh f => Sys2Proof.Machine.execImulh f s
  | .imad f => Sys2Proof.Machine.execImad f s
  | .idiv f => Sys2Proof.Machine.execIdiv f s
  | .irem f => Sys2Proof.Machine.execIrem f s
  | .imin f => Sys2Proof.Machine.execImin f s
  | .imax f => Sys2Proof.Machine.execImax f s
  | .iabs f => Sys2Proof.Machine.execIabs f s
  | .ineg f => Sys2Proof.Machine.execIneg f s
  | .iaddc f => Sys2Proof.Machine.execIaddc f s
  | .isubb f => Sys2Proof.Machine.execIsubb f s
  | .andB f => Sys2Proof.Machine.execAnd f s
  | .orB f => Sys2Proof.Machine.execOr f s
  | .xorB f => Sys2Proof.Machine.execXor f s
  | .notB f => Sys2Proof.Machine.execNot f s
  | .andn f => Sys2Proof.Machine.execAndn f s
  | .shl f => Sys2Proof.Machine.execShl f s
  | .shr f => Sys2Proof.Machine.execShr f s
  | .sar f => Sys2Proof.Machine.execSar f s
  | .rot f => Sys2Proof.Machine.execRot f s
  | .bfe f => Sys2Proof.Machine.execBfe f s
  | .bfi f => Sys2Proof.Machine.execBfi f s
  | .popc f => Sys2Proof.Machine.execPopc f s
  | .clz f => Sys2Proof.Machine.execClz f s
  | .brev f => Sys2Proof.Machine.execBrev f s
  | .lea f => Sys2Proof.Machine.execLea f s
  | .mov f => Sys2Proof.Machine.execMov f s
  | .movi f => Sys2Proof.Machine.execMovi f s
  | .fadd f => Sys2Proof.Machine.execFadd f s
  | .fsub f => Sys2Proof.Machine.execFsub f s
  | .fmul f => Sys2Proof.Machine.execFmul f s
  | .ffma f => Sys2Proof.Machine.execFfma f s
  | .fmin f => Sys2Proof.Machine.execFmin f s
  | .fmax f => Sys2Proof.Machine.execFmax f s
  | .fminn f => Sys2Proof.Machine.execFminn f s
  | .fmaxn f => Sys2Proof.Machine.execFmaxn f s
  | .fabs f => Sys2Proof.Machine.execFabs f s
  | .fneg f => Sys2Proof.Machine.execFneg f s
  | .fcpys f => Sys2Proof.Machine.execFcpys f s
  | .fdiv f => Sys2Proof.Machine.execFdiv f s
  | .fsqrt f => Sys2Proof.Machine.execFsqrt f s
  | .frcp f => Sys2Proof.Machine.execFrcp f s
  | .frsq f => Sys2Proof.Machine.execFrsq f s
  | .fex2 f => Sys2Proof.Machine.execFex2 f s
  | .flg2 f => Sys2Proof.Machine.execFlg2 f s
  | .fsinp f => Sys2Proof.Machine.execFsinp f s
  | .fcosp f => Sys2Proof.Machine.execFcosp f s
  | .ftanh f => Sys2Proof.Machine.execFtanh f s
  | .frnd f => Sys2Proof.Machine.execFrnd f s
  | .fscl f => Sys2Proof.Machine.execFscl f s
  | .fexpn f => Sys2Proof.Machine.execFexpn f s
  | .cvt f => Sys2Proof.Machine.execCvt f s
  | .cvtsr f => Sys2Proof.Machine.execCvtsr f s
  | .pack f => Sys2Proof.Machine.execPack f s
  | .unpk f => Sys2Proof.Machine.execUnpk f s
  | .qnt f => Sys2Proof.Machine.execQnt f s
  | .dqnt f => Sys2Proof.Machine.execDqnt f s
  | .icmp f => Sys2Proof.Machine.execIcmp f s
  | .fcmp f => Sys2Proof.Machine.execFcmp f s
  | .fclass f => Sys2Proof.Machine.execFclass f s
  | .pand f => Sys2Proof.Machine.execPand f s
  | .por f => Sys2Proof.Machine.execPor f s
  | .pxor f => Sys2Proof.Machine.execPxor f s
  | .pnot f => Sys2Proof.Machine.execPnot f s
  | .pmov f => Sys2Proof.Machine.execPmov f s
  | .sel f => Sys2Proof.Machine.execSel f s
  | .aff f => Sys2Proof.Machine.execAff f s
  | .unif f => Sys2Proof.Machine.execUnif f s
  | .shape f => Sys2Proof.Machine.execShape f s
  | .shfl f => Sys2Proof.Machine.execShfl f s
  | .bcast f => Sys2Proof.Machine.execBcast f s
  | .vote f => Sys2Proof.Machine.execVote f s
  | .rdx f => Sys2Proof.Machine.execRdx f s
  | .scan f => Sys2Proof.Machine.execScan f s
  | .topk f => Sys2Proof.Machine.execTopk f s
  | .ld f => Sys2Proof.Machine.execLd f s
  | .st f => Sys2Proof.Machine.execSt f s
  | .lds f => Sys2Proof.Machine.execLds f s
  | .sts f => Sys2Proof.Machine.execSts f s
  | .ldu f => Sys2Proof.Machine.execLdu f s
  | .tld f => Sys2Proof.Machine.execTld f s
  | .tst f => Sys2Proof.Machine.execTst f s
  | .lda f => Sys2Proof.Machine.execLda f s
  | .strl f => Sys2Proof.Machine.execStrl f s
  | .rld f => Sys2Proof.Machine.execRld f s
  | .rst f => Sys2Proof.Machine.execRst f s
  | .ratm f => Sys2Proof.Machine.execRatm f s
  | .prf f => Sys2Proof.Machine.execPrf f s
  | .pin f => Sys2Proof.Machine.execPin f s
  | .unpin f => Sys2Proof.Machine.execUnpin f s
  | .waitc f => Sys2Proof.Machine.execWaitc f s
  | .pres f => Sys2Proof.Machine.execPres f s
  | .claim f => Sys2Proof.Machine.execClaim f s
  | .rels f => Sys2Proof.Machine.execRels f s
  | .sld f => Sys2Proof.Machine.execSld f s
  | .slds f => Sys2Proof.Machine.execSlds f s
  | .mma f => Sys2Proof.Machine.execMma f s
  | .mmas f => Sys2Proof.Machine.execMmas f s
  | .mzero f => Sys2Proof.Machine.execMzero f s
  | .acld f => Sys2Proof.Machine.execAcld f s
  | .mbat f => Sys2Proof.Machine.execMbat f s
  | .mwtb f => Sys2Proof.Machine.execMwtb f s
  | .drn f => Sys2Proof.Machine.execDrn f s
  | .drnx f => Sys2Proof.Machine.execDrnx f s
  | .drnaO f => Sys2Proof.Machine.execDrnaO f s
  | .drnaU f => Sys2Proof.Machine.execDrnaU f s
  | .binit f => Sys2Proof.Machine.execBinit f s
  | .bexp f => Sys2Proof.Machine.execBexp f s
  | .barr f => Sys2Proof.Machine.execBarr f s
  | .bwait f => Sys2Proof.Machine.execBwait f s
  | .btry f => Sys2Proof.Machine.execBtry f s
  | .mwait f => Sys2Proof.Machine.execMwait f s
  | .atom f => Sys2Proof.Machine.execAtom f s
  | .binc f => Sys2Proof.Machine.execBinc f s
  | .winc f => Sys2Proof.Machine.execWinc f s
  | .decz f => Sys2Proof.Machine.execDecz f s
  | .faddl f => Sys2Proof.Machine.execFaddl f s
  | .tkt f => Sys2Proof.Machine.execTkt f s
  | .fatomO f => Sys2Proof.Machine.execFatomO f s
  | .fatomU f => Sys2Proof.Machine.execFatomU f s
  | .redO f => Sys2Proof.Machine.execRedO f s
  | .redU f => Sys2Proof.Machine.execRedU f s
  | .tkw f => Sys2Proof.Machine.execTkw f s
  | .tka f => Sys2Proof.Machine.execTka f s
  | .commit f => Sys2Proof.Machine.execCommit f s
  | .gsync f => Sys2Proof.Machine.execGsync f s
  | .gjoin f => Sys2Proof.Machine.execGjoin f s
  | .gleave f => Sys2Proof.Machine.execGleave f s
  | .grank f => Sys2Proof.Machine.execGrank f s
  | .gsize f => Sys2Proof.Machine.execGsize f s
  | .fence f => Sys2Proof.Machine.execFence f s
  | .cpy f => Sys2Proof.Machine.execCpy f s
  | .cpt f => Sys2Proof.Machine.execCpt f s
  | .cpg f => Sys2Proof.Machine.execCpg f s
  | .cps f => Sys2Proof.Machine.execCps f s
  | .qfen f => Sys2Proof.Machine.execQfen f s
  | .tokw f => Sys2Proof.Machine.execTokw f s
  | .tokt f => Sys2Proof.Machine.execTokt f s
  | .tokr f => Sys2Proof.Machine.execTokr f s
  | .qcan f => Sys2Proof.Machine.execQcan f s
  | .rgath f => Sys2Proof.Machine.execRgath f s
  | .rrscO f => Sys2Proof.Machine.execRrscO f s
  | .rrscU f => Sys2Proof.Machine.execRrscU f s
  | .rhof f => Sys2Proof.Machine.execRhof f s
  | .ragr f => Sys2Proof.Machine.execRagr f s
  | .rank f => Sys2Proof.Machine.execRank f s
  | .rbar f => Sys2Proof.Machine.execRbar f s
  | .lnch f => Sys2Proof.Machine.execLnch f s
  | .kreg f => Sys2Proof.Machine.execKreg f s
  | .kregDrop f => Sys2Proof.Machine.execKregDrop f s
  | .nodeq f => Sys2Proof.Machine.execNodeq f s
  | .bra f => Sys2Proof.Machine.execBra f s
  | .brx f => Sys2Proof.Machine.execBrx f s
  | .call f => Sys2Proof.Machine.execCall f s
  | .callx f => Sys2Proof.Machine.execCallx f s
  | .ret f => Sys2Proof.Machine.execRet f s
  | .ifm f => Sys2Proof.Machine.execIfm f s
  | .elsm f => Sys2Proof.Machine.execElsm f s
  | .endm f => Sys2Proof.Machine.execEndm f s
  | .brkm f => Sys2Proof.Machine.execBrkm f s
  | .exit f => Sys2Proof.Machine.execExit f s
  | .nop f => Sys2Proof.Machine.execNop f s
  | .regang f => Sys2Proof.Machine.execRegang f s
  | .movsO f => Sys2Proof.Machine.execMovsO f s
  | .movsU f => Sys2Proof.Machine.execMovsU f s
  | .setm f => Sys2Proof.Machine.execSetm f s
  | .getm f => Sys2Proof.Machine.execGetm f s
  | .rel f => Sys2Proof.Machine.execRel f s
  | .grow f => Sys2Proof.Machine.execGrow f s
  | .shrink f => Sys2Proof.Machine.execShrink f s
  | .poolq f => Sys2Proof.Machine.execPoolq f s
  | .pqry f => Sys2Proof.Machine.execPqry f s
  | .setpk f => Sys2Proof.Machine.execSetpk f s
  | .tlbfl f => Sys2Proof.Machine.execTlbfl f s
  | .tlbdr f => Sys2Proof.Machine.execTlbdr f s
  | .trap f => Sys2Proof.Machine.execTrap f s
  | .tret f => Sys2Proof.Machine.execTret f s
  | .errl f => Sys2Proof.Machine.execErrl f s
  | .layw f => Sys2Proof.Machine.execLayw f s
  | .layq f => Sys2Proof.Machine.execLayq f s
  | .layr f => Sys2Proof.Machine.execLayr f s
  | .laye f => Sys2Proof.Machine.execLaye f s
  | .bkpt f => Sys2Proof.Machine.execBkpt f s
  | .monitorPoll _ _ => .next s
  | .waitSatisfied _ _ => .next s
  | .callSetRelease _ _ => .next s
  | .gangSwitch _ _ => .next s
  | .fillLand _ _ => .next s
  | .fillFaultDelivery _ _ => .next s
  | .parkTimeout _ _ _ => .next s
  | .poolWaitServed _ _ => .next s
  | .refill _ => .next s
  | .poolWaitQuantum _ => .next s
  | .phaseCloseComplete _ _ => .next s
  | .unsequencedRequestApply _ => .next s
  | .sequencedMessageApply _ => .next s
  | .bayLineFill _ _ => .next s
  | .eccError _ _ => .next s
  | .flushingReadReturn _ _ => .next s
  | .entryTurn _ => .next s
  | .pieceWrite _ => .next s
  | .pieceFail _ => .next s
  | .entryComplete _ => .next s
  | .fenceEntryComplete _ => .next s
  | .slotFillLand _ _ => .next s
  | .slotFillFault _ _ => .next s
  | .slotOperandReadEnd _ => .next s
  | .streamEntryBegin _ => .next s
  | .streamEntryComplete _ => .next s
  | .drnaGrant _ => .next s
  | .drnaAddition _ => .next s
  | .collectiveTurn _ => .next s
  | .collectiveAnnounce _ _ _ => .next s
  | .baleLand _ _ _ => .next s
  | .withdrawNotice _ _ => .next s
  | .collectiveDeadline _ _ => .next s
  | .collectiveComplete _ => .next s
  | .nodeAccept _ => .next s
  | .predecessorComplete _ _ => .next s
  | .leaseGrant _ => .next s
  | .hostSignal _ => .next s
  | .blockPlacement _ => .next s
  | .quantumExpiry _ _ => .next s
  | .dormantSave _ => .next s
  | .blockRestore _ _ => .next s
  | .roundCommit _ => .next s
  | .roundTimeout _ => .next s
  | .nodeCompletion _ => .next s
  | .kernelRecordFree _ _ => .next s
  | .layerTurn _ => .next s
  | .layerPageLand _ _ _ => .next s
  | .evictionComplete _ _ _ => .next s
  | .ctxstart _ _ _ => .next s
  | .ctxctlSwapOut _ _ => .next s
  | .ctxctlSwapIn _ _ => .next s
  | .ctxctlEnd _ _ => .next s
  | .swapOutSaveDone _ => .next s
  | .swapInRestoreDone _ => .next s
  | .teardownDone _ => .next s
  | .bridgeLost _ => .next s
  | .dieLost _ => .next s
  | .wrapComplete => .next s
  | .flitReceive _ _ => .next s
  | .flitNak _ _ => .next s
  | .packetRequest _ _ => .next s
  | .packetReply _ _ => .next s
  | .replayTimeout _ _ => .next s
  | .switchDownNotice _ _ _ => .next s
  | .petixaRetrain _ _ => .next s
  | .coldReset => .next s
  | .warmReset => .next s
  | .port1Reset => .next s
  | .acceptWrite _ _ => .next s
  | .pwrWrite _ _ => .next s
  | .bayMapWrite _ _ _ => .next s
  | .lpoolWrite _ _ => .next s
  | .configRegisterWrite _ _ _ => .next s
  | .memrd _ _ => .next s
  | .memwr _ _ => .next s
  | .cfgrd _ _ => .next s
  | .imgload _ _ => .next s
  | .imgcommit _ _ => .next s
  | .attest _ _ => .next s
  | .cert _ _ => .next s
  | .freeze _ _ => .next s
  | .reset _ _ => .next s
  | .bar2Write _ _ _ => .next s
  | .bar2Read _ _ _ => .next s
  | .hostCxlSnoop _ _ => .next s
  | .freezeN => .next s
  | .tapReadout _ _ => .next s
  | .powerStateEntry => .next s
  | .powerWake => .next s
  | .unassignedOpcode _ => .next s
  | .fetchFault _ _ => .next s
  | .bayRequestArrival _ => .next s
  | .powerFailure _ => .next s
  | .throttling _ _ _ => .next s
  | .correctedEccError _ => .next s

end Sys2Proof.Machine
end

