-- ==== Sys2Proof/Machine/Waits.lean ====
section
/-! DEFINITION. What comes about for slices that wait: the end of a wait (R152), REGANG's release (R168), polls (R249), fill faults (R194),
the park limit (R190), the pool's waiters and refills (R96, R97), and the gang switch (R41, R101). -/

namespace Sys2Proof.Machine

/-! ### Waits that end (R152) -/

/-- A slice has a request for words outstanding (R96). -/
def State.inPoolWait (s : State) (bid sid : Nat) : Bool :=
  match s.blocks.get? bid with
  | some b => (s.core b.die b.core).waiters.any (fun w => w.bid == bid && w.sid == sid)
  | none => false

/-- WAIT_SATISFIED (R152). A wait for pool words comes to its end in the pool's order, at POOL_WAIT_SERVED. (DEDUCED, log 18) -/
def execWaitSatisfied (bid sid : Nat) (s : State) : Host.Outcome State Fault Refusal :=
  if s.inPoolWait bid sid then .next s else rerunSlice rerun bid sid s

/-- MONITOR_POLL (R249): a slice that waits with no monitor armed reads its element again. -/
def execMonitorPoll (bid sid : Nat) (s : State) : Host.Outcome State Fault Refusal :=
  if s.monitored bid sid || s.inPoolWait bid sid then .next s else rerunSlice rerun bid sid s

/-- CALL_SET_RELEASE (R168): a call set that has come to be complete is released by one of its members. -/
def execCallSetRelease (bid sid : Nat) (s : State) : Host.Outcome State Fault Refusal :=
  match s.blocks.get? bid, s.slice? bid sid with
  | some b, some x => if (b.callSetReady sid x.pc).isSome then rerunSlice rerun bid sid s else .next s
  | _, _ => .next s

/-! ### Faults delivered (R190, R194) -/

/-- FILL_FAULT_DELIVERY (R194): the slice takes its fault of the lowest register at its instruction boundary, or abandons its wait. -/
def execFillFaultDelivery (bid sid : Nat) (s : State) : Host.Outcome State Fault Refusal :=
  match s.blocks.get? bid, s.slice? bid sid with
  | some b, some x =>
    if b.state = .resident && (x.run = .waiting || (x.run = .running && !x.pend)) then
      match leastUsed (x.faults.map (fun f => (f.reg, f))) with
      | none => .next s
      | some (_, f) =>
        let s1 := s.modSlice bid sid (fun y => { y with faults := y.faults.erase f })
        .next ((s1.trapAt bid sid f.cause f.addr f.lanes).settle bid (b.partMembers x.part))
    else .next s
  | _, _ => .next s

/-- The park limit of a context in cycles of the 1.25 GHz clock (R190, R392). -/
def State.parkCycles (s : State) (ctx : Nat) : Nat :=
  match s.ctxs.get? ctx with
  | some c => (if c.parkLim = 0 then 10000 else c.parkLim) * 1250
  | none => 0

/-- A fill that has not landed within the park limit: the elements that are not known fault with PARK_TIMEOUT (R190).
(DEDUCED, log 55) -/
def State.timeOutFill (s : State) (bid sid fid : Nat) : State :=
  match s.fills.get? fid, s.blocks.get? bid with
  | some x, some b =>
    if x.bid == bid && x.sid == sid && decide (s.parkCycles b.ctx < (s.die b.die).cycle.toNat - x.born.toNat) then
      s.modFill fid (fun f => { f with elems := f.elems.map (fun e =>
        if e.landed || e.resolved then e else { e with fault := some (0x030E, e.addr) }) })
    else s
  | _, _ => s

/-- A slice that waits on scratchpad lines of which one has been Absent longer than the park limit takes PARK_TIMEOUT (R190); one that is parked for a
spill meanwhile takes it at its refill (R152). -/
def State.timeOutLines (s : State) (bid sid : Nat) : State :=
  match s.blocks.get? bid, s.slice? bid sid with
  | some b, some x =>
    if b.state ≠ .resident || !x.waits then s
    else match x.prog with
      | .lines on =>
        let late := on.filter (fun q =>
          let p := b.presence q.1
          p.state == .absent && decide (s.parkCycles b.ctx < (s.die b.die).cycle.toNat - p.since.toNat * 256))
        (match pickFail (late.flatMap (fun q => (lanesOf q.2.2).map (fun l => LaneFail.mk l 0x030E q.2.1.toNat))) with
         | some (c, a, ls) =>
           if x.run = .waiting then (s.trapAt bid sid c a ls).settle bid (b.partMembers x.part)
           else if x.faults.any (fun f => f.cause == c) then s
           else s.modSlice bid sid (fun y => y.waitFault c (a) ls)
         | none => s)
      | _ => s
  | _, _ => s

/-- PARK_TIMEOUT (R190): of a fill, or of a wait on scratchpad lines. (DEDUCED, log 55) -/
def execParkTimeout (bid sid : Nat) (fill : Option Nat) (s : State) : Host.Outcome State Fault Refusal :=
  match fill with
  | some fid => .next (s.timeOutFill bid sid fid)
  | none => .next (s.timeOutLines bid sid)

/-! ### The pool (R96, R97) -/

/-- A restored block takes the words of its registers and its slices go on (R99). (DEDUCED, log 87) -/
def State.takeWords (s : State) (bid n : Nat) : State :=
  ((State.requestWords bid n 20 s).1.modBlock bid (fun b => { b with
    slices := b.slices.map (fun p => (p.1, { p.2 with spilled := [], run := p.2.run.unpark })), spillSaved := false })).leaveWaiters bid wholeBlock

/-- POOL_WAIT_SERVED (R96): the first waiting request that can be served is. (DEDUCED, log 19) -/
def execPoolWaitServed (die core : Nat) (s : State) : Host.Outcome State Fault Refusal :=
  match (s.waitOrder die core).find? s.servable with
  | none => .next s
  | some w => if w.sid = wholeBlock then .next (s.takeWords w.bid w.words) else rerunSlice rerun w.bid w.sid s

/-- A register's value read back from its payload slot (R97, R103). (DEDUCED, log 54) -/
def RegVal.ofPayload (r : RegVal) (bytes : List Byte) : RegVal :=
  let w := fun k => BitVec.ofNat 32 (leNat ((bytes.drop (4 * k)).take 4))
  match r with
  | .held .u _ => .held .u (Quad.all (w 0))
  | .held .a _ => .held .a (Quad.ofFn (fun l => w 0 + BitVec.ofNat 32 l * w 1))
  | .held .g _ => .held .g (Quad.ofFn w)
  | r => r

/-- The spilled registers of a slice read back. (DEDUCED, log 54) -/
def State.readBackRegs (s : State) (b : Block) (sid : Nat) (x : Slice) : Slice :=
  { x.spilled.foldl (fun y k => { y with regs := y.regs.put k ((y.reg k).ofPayload (s.privRead b.ctx (b.payloadVa sid k) 16)) }) x with
    spilled := [], run := x.run.unpark }

/-- REFILL (R97): the oldest parked block of its core takes back the words it has spilled, and its slices go on.
(DEDUCED, log 54) -/
def execRefill (bid : Nat) (s : State) : Host.Outcome State Fault Refusal :=
  match s.blocks.get? bid with
  | none => .next s
  | some b =>
    if !s.refillable bid b then .next s
    else .next (s.modBlock bid (fun b => { b with
      slices := b.slices.map (fun p => (p.1, s.readBackRegs b p.1 p.2)), spillSaved := false }))

/-! ### The active set (R41, R101) -/

/-- GANG_SWITCH (R40, R41, R101): a part comes into the active set of its port, unless another part keeps that port: the latches of every
part that it may be switched from are empty already. (DESIGN CHOICE, log 17) -/
def execGangSwitch (bid part : Nat) (s : State) : Host.Outcome State Fault Refusal :=
  match s.blocks.get? bid with
  | none => .next s
  | some b =>
    if b.state ≠ .resident || (b.partMembers part).isEmpty || s.portKept bid b part then .next s
    else .next ((s.enterPort bid b part).refreshPorts bid)

end Sys2Proof.Machine
end

