-- ==== Sys2Proof/Machine/Save.lean ====
section
/-! DEFINITION. The image of a saved block (R103, R145, R159, R191, R306 to R308, R346, R394), its packed form (R384), and what a save and the
reading of an image do. -/

namespace Sys2Proof.Machine

/-! ### Records (R103, R145, R394) -/

/-- `n` zero bytes. -/
def zeroBytes (n : Nat) : List Byte := List.replicate n 0

/-- Bytes cut or filled with zeros to a length. -/
def padTo (n : Nat) (b : List Byte) : List Byte := (b ++ zeroBytes (n - b.length)).take n

/-- The MASK word (R145). -/
def maskWord (part depth : Nat) (m : BitVec 4) : Nat := part * 65536 + depth * 16 + m.toNat

/-- The mask stack, the bottom entry first (R145). -/
def mstackBytes (st : List MaskEntry) : List Byte :=
  padTo 16 (st.reverse.map (fun e => BitVec.ofNat 8 (e.outer.toNat + 16 * e.alt.toNat)))

/-- The codes of the latches (R103). -/
def latchCodes (ls : List (Option Latch)) : Nat :=
  ((List.range 4).map (fun j => (match ls.getD j none with | some l => l.tag.code | none => 0) * 16 ^ j)).sum

/-- The 128 bytes of the latches (R103). -/
def latchBytes (ls : List (Option Latch)) : List Byte :=
  (List.range 4).flatMap (fun j => match ls.getD j none with
    | some l => l.v.toList.flatMap (fun x => leBytes 8 x.toNat)
    | none => zeroBytes 32)

/-- A slice record (R103). `spill` gives the payload slot of a register that stands spilled; an ended slice holds no state.
(DEDUCED, log 84) -/
def Slice.record (x : Slice) (spill : Nat → List Byte) : List Byte :=
  if x.run = .ended then zeroBytes 0x500
  else
    leBytes 8 x.pc.toNat ++ leBytes 4 x.mode.toNat ++ leBytes 4 (if x.sticky then 1 else 0)
      ++ leBytes 4 (((List.range 8).map (fun k => (x.preds.getD k 0).toNat * 16 ^ k)).sum)
      ++ leBytes 4 (maskWord x.part x.mstack.length x.mask) ++ mstackBytes x.mstack
      ++ leBytes 24 (((List.range 60).map (fun k => (x.reg k).code * 8 ^ k)).sum)
      ++ leBytes 8 (latchCodes x.savedLatches) ++ latchBytes x.savedLatches ++ x.ctr.toList.flatMap (fun c => leBytes 8 c.toNat)
      ++ leBytes 8 x.retired.toNat ++ zeroBytes 16
      ++ (List.range 60).flatMap (fun k => if x.spilled.contains k then padTo 16 (spill k) else (x.reg k).payload) ++ zeroBytes 64

/-- A trap record (R394). -/
def Frame.record (f : Frame) : List Byte :=
  leBytes 4 ((if f.inTrap then 1 else 0) + if f.taken then 2 else 0) ++ leBytes 4 f.cause.toNat ++ leBytes 8 f.addr.toNat
    ++ leBytes 8 f.pc.toNat ++ leBytes 8 f.next.toNat ++ leBytes 4 f.lanes.toNat ++ leBytes 4 f.mode.toNat
    ++ leBytes 4 (maskWord 0 f.mstack.length f.mask) ++ leBytes 4 (latchCodes f.latches) ++ mstackBytes f.mstack
    ++ latchBytes f.latches ++ zeroBytes 64

/-- Members of a slice group as bits (R159). -/
def memberBytes (l : List Nat) : List Byte := leBytes 32 ((l.dedup.map (fun i => 2 ^ i)).sum)

/-- A slice-group record (R159). -/
def Group.record (g : Group) : List Byte :=
  leBytes 4 g.key.toNat ++ leBytes 2 g.gen.toNat ++ leBytes 2 g.state ++ leBytes 8 g.count ++ memberBytes g.current ++ memberBytes g.published

/-- The FORMAT, TYPE and SPARSE bytes of a slot record (R307). -/
def SlotFormat.bytes : SlotFormat → List Byte
  | .plain => [0, 0, 0]
  | .mx ty => leBytes 1 1 ++ leBytes 2 ty
  | .spVal ty n g => leBytes 1 2 ++ leBytes 1 ty ++ leBytes 1 ((if n = 6 then 0 else if n = 8 then 1 else 2) + 4 * (g - 1))
  | .spMeta ty n g => leBytes 1 3 ++ leBytes 1 ty ++ leBytes 1 ((if n = 6 then 0 else if n = 8 then 1 else 2) + 4 * (g - 1))

/-- A slot record (R307). -/
def PSlot.record (p : PSlot) : List Byte :=
  (match p.name with
   | some n => leBytes 1 (if p.ready || p.k != 0 then 2 else 1) ++ leBytes 1 n
   | none => leBytes 1 3 ++ leBytes 1 0xFF)
    ++ p.format.bytes ++ zeroBytes 27 ++ p.rows.readList 0 32768 ++ p.scales.readList 0 2048

/-- The place of a slot among those that a block holds, which is the index of its record (R307). (DEDUCED, log 85) -/
def Block.slotIndex (b : Block) (k : Nat) : Nat := (b.slots.map (fun p => p.1)).idxOf k

/-- An entry of a stream section (R308). (DEDUCED, log 52) -/
def Block.entryRecord (b : Block) (e : SEntry) : List Byte :=
  let opa := if e.opc = 0x84 || e.opc = 0x85 then
      b.slotIndex (e.slots.getD 0 0) + 256 * b.slotIndex (e.slots.getD (if e.opc = 0x84 then 1 else 2) 0)
    else e.opa.toNat
  padTo 12 ((e.f.words e.opc).flatMap wordBytes) ++ leBytes 4 (match e.batch with | some n => n.toNat | none => 0)
    ++ leBytes 8 opa ++ leBytes 4 e.opb.toNat ++ leBytes 4 e.tile.toNat
    ++ leBytes 4 (if e.opc = 0x8C then e.seq % 2 ^ 24 + e.rank * 2 ^ 24 else 0) ++ zeroBytes 4 ++ leBytes 8 e.ctr.toNat

/-! ### The image (R346) -/

/-- The sections of a saved block, in the order of R346, and the trap section. -/
structure SaveImage where
  fixed : List Byte
  groups : List Byte
  stream : List Byte
  slots : List (List Byte)
  regs : List Byte
  spilled : List Byte
  window : List Byte
  pres : List Byte
  acc : List Byte
  trap : List Byte
  deriving DecidableEq, Repr

/-- The slice of a block, one that has ended where it is not listed. -/
def Block.sliceOr (b : Block) (i : Nat) : Slice := (b.slices.get? i).getD { Slice.placed 0 0 with run := .ended }

/-- The image of a block. `spill` gives the payload slot of a register that stands spilled. (DEDUCED, log 84) -/
def Block.image (b : Block) (token : Dword) (dormant : Bool) (spill : Nat → Nat → List Byte) : SaveImage :=
  { fixed := padTo 0x100 (leBytes 4 b.idx.toNat ++ leBytes 4 b.kernel ++ leBytes 8 token.toNat ++ leBytes 4 b.floor
      ++ leBytes 4 ((if dormant then 1 else 0) + if b.shadowOf.isSome then 2 else 0))
    groups := (List.range 16).flatMap (fun i => ((b.groups.get? i).getD ⟨0, 0, 0, 0, [], [], [], 0, 0, 0⟩).record)
    stream := padTo 0xC10 (leBytes 4 b.nb.toNat ++ leBytes 12 b.stream.length ++ b.stream.flatMap b.entryRecord)
    slots := b.slots.map (fun p => p.2.record)
    regs := (List.range b.nslices).flatMap (fun i => (b.sliceOr i).record (spill i))
    spilled := (List.range b.nslices).flatMap (fun i => leBytes 8 (((b.sliceOr i).spilled.dedup.map (fun k => 2 ^ k)).sum))
    window := b.window.readList 0 b.scratch
    pres := (List.range (b.scratch / 128)).flatMap (fun l => (b.presence l).bytes)
    acc := (List.range (b.acc * 4096)).flatMap (fun i => leBytes 4 ((b.accWords.get? i).getD 0).toNat)
    trap := (List.range b.nslices).flatMap (fun i =>
      if (b.sliceOr i).run = .ended then zeroBytes 0x100 else (b.sliceOr i).frame.record) }

/-- RG of R346. -/
def Block.spilledAt (b : Block) : Nat := 0x111800 + b.nslices * 0x500

/-- The place of a block's trap section from its save area (R394). -/
def Block.trapAt (b : Block) : Nat := (b.accVa - b.saveVa.toNat + b.acc * 0x4000 + 1023) / 1024 * 1024

/-- The bytes that a block's save area takes with its trap section (R343, R346, R394). -/
def Block.saveSize (b : Block) : Nat := b.trapAt + b.nslices * 0x100

/-- The sections of an image with their places from the start of a save area (R346). -/
def SaveImage.parts (m : SaveImage) (b : Block) : List (Nat × List Byte) :=
  [(0, m.fixed), (0x100, m.groups), (0x600, m.stream), (0x1400, padTo 0x110400 m.slots.flatten), (0x111800, m.regs),
   (b.spilledAt, m.spilled), (b.windowVa - b.saveVa.toNat, m.window), (b.presenceVa - b.saveVa.toNat, m.pres),
   (b.accVa - b.saveVa.toNat, m.acc), (b.trapAt, m.trap)]

/-- An image written to its save area. -/
def State.writeImage (s : State) (b : Block) (m : SaveImage) : State :=
  (m.parts b).foldl (fun s p => s.privWrite b.ctx (b.saveVa.toNat + p.1) p.2) s

/-- The image in a block's save area. -/
def State.readImage (s : State) (b : Block) : SaveImage :=
  let rd := fun o n => s.privRead b.ctx (b.saveVa.toNat + o) n
  { fixed := rd 0 0x100, groups := rd 0x100 0x500, stream := rd 0x600 0xC10,
    slots := (List.range 32).map (fun i => rd (0x1400 + i * 0x8820) 0x8820), regs := rd 0x111800 (b.nslices * 0x500),
    spilled := rd b.spilledAt (b.nslices * 8), window := rd (b.windowVa - b.saveVa.toNat) b.scratch,
    pres := rd (b.presenceVa - b.saveVa.toNat) (b.scratch / 16), acc := rd (b.accVa - b.saveVa.toNat) (b.acc * 0x4000),
    trap := rd b.trapAt (b.nslices * 0x100) }

/-! ### The packed form (R384) -/

/-- Bytes filled with zeros to the next multiple of 128. -/
def padSection (b : List Byte) : List Byte := padTo ((b.length + 127) / 128 * 128) b

/-- Where each of a list of sections starts, from an offset. -/
def sectionStarts : Nat → List (List Byte) → List Nat
  | _, [] => []
  | o, b :: bs => o :: sectionStarts (o + (b.length + 127) / 128 * 128) bs

/-- The sections of an image after the fixed part, GROUPS and STREAM, in their order. -/
def SaveImage.tail (m : SaveImage) : List (List Byte) := [m.slots.flatten, m.regs, m.spilled, m.window, m.pres, m.acc, m.trap]

/-- The packed form of an image. (DEDUCED, log 84) -/
def SaveImage.pack (m : SaveImage) (va : Dword) : List Byte :=
  let head := m.fixed ++ m.groups ++ m.stream
  let at0 := 128 + (head.length + 127) / 128 * 128
  padSection (padTo 64 (leBytes 8 va.toNat ++ leBytes 4 m.slots.length ++ (sectionStarts at0 m.tail).flatMap (leBytes 4)))
    ++ padSection head ++ m.tail.flatMap padSection

/-- The image that a packed form holds. -/
def Block.unpack (b : Block) (p : List Byte) : SaveImage :=
  let rd := fun o n => (p.drop o).take n
  let off := fun i => leNat (rd (0x0C + 4 * i) 4)
  { fixed := rd 128 0x100, groups := rd 0x180 0x500, stream := rd 0x680 0xC10,
    slots := (List.range (leNat (rd 8 4))).map (fun i => rd (off 0 + i * 0x8820) 0x8820), regs := rd (off 1) (b.nslices * 0x500),
    spilled := rd (off 2) (b.nslices * 8), window := rd (off 3) b.scratch, pres := rd (off 4) (b.scratch / 16),
    acc := rd (off 5) (b.acc * 0x4000), trap := rd (off 6) (b.nslices * 0x100) }

/-! ### Reading an image (R103, R145, R159, R191, R306) -/

/-- The unsigned value of `n` bytes at an offset. -/
def nAt (b : List Byte) (o n : Nat) : Nat := leNat ((b.drop o).take n)

/-- A code of U, A or G. -/
def Tag.ofCode (c : Nat) : Option Tag :=
  match c with | 1 => some .u | 2 => some .a | 3 => some .g | _ => none

/-- Latches from their codes and bytes; none where a code is not one. -/
def latchesOf (codes : Nat) (b : List Byte) : Option (List (Option Latch)) :=
  if 65536 ≤ codes || (List.range 4).any (fun j => decide (3 < codes / 16 ^ j % 16)) then none
  else some ((List.range 4).map (fun j => (Tag.ofCode (codes / 16 ^ j % 16)).map (fun t =>
    ⟨t, Quad.ofFn (fun l => BitVec.ofNat 64 (nAt b (32 * j + 8 * l) 8))⟩)))

/-- The mask stack of a depth from its bytes, the newest entry first; none where a byte at or above the depth is not zero (R145). -/
def mstackOf (depth : Nat) (b : List Byte) : Option (List MaskEntry) :=
  if 16 < depth || ((b.take 16).drop depth).any (fun x => x != 0) then none
  else some ((b.take depth).reverse.map (fun x => ⟨x.extractLsb' 0 4, x.extractLsb' 4 4⟩))

/-- A slice read from its record and its trap record; what the records do not hold stays as it stood (R99, R103, R145, R394). `pay`
gives the payload of register `k`. -/
def Slice.ofRecord (x : Slice) (b t : List Byte) (pay : Nat → List Byte) : Option Slice :=
  let mw := nAt b 0x14 4
  let depth := bitsOf mw 8 4
  let tags := nAt b 0x28 24
  let fm := nAt t 0x28 4
  let code := fun k => tags / 8 ^ k % 8
  let bad := 1 < nAt b 0xC 4 || mw / 2 ^ 24 ≠ 0 || bitsOf mw 15 9 ≠ 0 || (depth = 0 && bitsOf mw 3 0 ≠ 15) || !modeOk (nAt b 8 4)
    || 2 ^ 180 ≤ tags || (List.range 60).any (fun k => decide (3 < code k))
    || nAt b 0x44 4 ≠ 0 || nAt b 0xF0 16 ≠ 0 || nAt b 0x4C0 64 ≠ 0
    || 3 < nAt t 0 4 || 2 ^ 16 ≤ nAt t 4 4 || 15 < nAt t 0x20 4 || !modeOk (nAt t 0x24 4) || 511 < fm || nAt t 0xC0 64 ≠ 0
  match bad, mstackOf depth ((b.drop 0x18).take 16), latchesOf (nAt b 0x40 4) (b.drop 0x48),
      mstackOf (bitsOf fm 8 4) ((t.drop 0x30).take 16), latchesOf (nAt t 0x2C 4) (t.drop 0x40) with
  | false, some st, some ls, some fst, some fls =>
    some { x with
      pc := BitVec.ofNat 64 (nAt b 0 8), mode := BitVec.ofNat 32 (nAt b 8 4), sticky := nAt b 0xC 4 == 1,
      preds := (List.range 8).map (fun k => BitVec.ofNat 4 (nAt b 0x10 4 / 16 ^ k)), mask := BitVec.ofNat 4 mw, mstack := st,
      part := bitsOf mw 23 16,
      regs := (List.range 60).filterMap (fun k => (Tag.ofCode (code k)).map (fun t =>
        (k, (RegVal.held t (Quad.all 0)).ofPayload (pay k)))),
      latches := ls, latchSources := [], ctr := Quad.ofFn (fun l => BitVec.ofNat 64 (nAt b (0xC8 + 8 * l) 8)), retired := BitVec.ofNat 64 (nAt b 0xE8 8),
      spilled := [],
      frame := { inTrap := nAt t 0 4 % 2 == 1, taken := bitOf (nAt t 0 4) 1, cause := BitVec.ofNat 16 (nAt t 4 4),
                 addr := BitVec.ofNat 64 (nAt t 8 8), pc := BitVec.ofNat 64 (nAt t 0x10 8), next := BitVec.ofNat 64 (nAt t 0x18 8),
                 lanes := BitVec.ofNat 4 (nAt t 0x20 4), mode := BitVec.ofNat 32 (nAt t 0x24 4), mask := BitVec.ofNat 4 fm,
                 mstack := fst, latches := fls } }
  | _, _, _, _, _ => none

/-- The numbers of the bits that are set, below `n`. -/
def bitsSet (n x : Nat) : List Nat := (List.range n).filter (fun i => bitOf x i)

/-- A slice group read from its record (R159). The arrivals of a saved GJOIN stay (R158): every member of a Forming group waits in GJOIN, and of one that
formed before the save those that had yet to go on. -/
def Group.ofRecord (g : Group) (b : List Byte) : Option Group :=
  if 2 < nAt b 6 1 || nAt b 7 1 ≠ 0 || nAt b 0xA 6 ≠ 0 then none
  else some { g with key := BitVec.ofNat 32 (nAt b 0 4), gen := BitVec.ofNat 16 (nAt b 4 2), state := nAt b 6 1, count := nAt b 8 2,
                     current := bitsSet 256 (nAt b 0x10 32), published := bitsSet 256 (nAt b 0x30 32),
                     waiting := if nAt b 6 1 = 1 then bitsSet 256 (nAt b 0x10 32) else g.waiting }

/-- A format from its bytes (R307). -/
def SlotFormat.ofBytes (kind ty sp : Nat) : Option SlotFormat :=
  let g := bitsOf sp 6 2 + 1
  let n := sparseN (bitsOf sp 1 0)
  match kind with
  | 0 => if ty = 0 && sp = 0 then some .plain else none
  | 1 => if typeMX ty && sp = 0 then some (.mx ty) else none
  | 2 => if typeSparse ty && sp < 128 && bitsOf sp 1 0 ≤ 2 then some (.spVal ty n g) else none
  | 3 => if typeSparse ty && sp < 128 && bitsOf sp 1 0 ≤ 2 then some (.spMeta ty n g) else none
  | _ => none

/-- The bytes of a list that are not zero, by position. -/
def memOf (b : List Byte) : Memory := (b.zipIdx.filter (fun p => p.1 != 0)).map (fun p => (p.2, p.1))

/-- A slot read from its record (R307): absent where the record is unused, none where it holds an undefined code. -/
def PSlot.ofRecord (b : List Byte) : Option (Option PSlot) :=
  let st := nAt b 0 1
  let name := nAt b 1 1
  if 3 < st || nAt b 5 27 ≠ 0 || (st = 0 && nAt b 1 4 ≠ 0) || ((st = 1 || st = 2) && 31 < name) || (st = 3 && name ≠ 0xFF) then none
  else if st = 0 then some none
  else (SlotFormat.ofBytes (nAt b 2 1) (nAt b 3 1) (nAt b 4 1)).map (fun f => some {
    name := if st = 3 then none else some name, f := 0, k := 0, ready := st != 1, faulted := false, format := f,
    rows := memOf ((b.drop 0x20).take 32768), scales := memOf ((b.drop 0x8020).take 2048) })

/-- The slots that a stream entry read from its record names (R308): those it had, unless the record was changed. `phys` gives the
physical slot of a record index. (DEDUCED, log 85) -/
def Block.entrySlots (b : Block) (e : SEntry) (opa : Nat) (phys : Nat → Option Nat) : Option (List Nat) :=
  let first := if e.opc = 0x84 then 1 else 2
  let a := bitsOf opa 4 0
  let f := bitsOf opa 12 8
  let idx := if b.slotIndex (e.slots.getD 0 0) = a && b.slotIndex (e.slots.getD first 0) = f then e.slots.map b.slotIndex
    else a :: ((if e.opc = 0x85 then [a + 1] else []) ++ (List.range (e.slots.length - first)).map (fun i => f + i))
  if e.opc ≠ 0x84 && e.opc ≠ 0x85 then some []
  else idx.foldr (fun i acc => match phys i, acc with | some k, some ks => some (k :: ks) | _, _ => none) (some [])

/-- A stream entry read from its record (R308); what the record does not hold is as it stood. (DEDUCED, log 85) -/
def Block.entryOfRecord (b : Block) (e : SEntry) (r : List Byte) (phys : Nat → Option Nat) : Option SEntry :=
  let w := fun k => BitVec.ofNat 32 (nAt r (4 * k) 4)
  let opa := nAt r 0x10 8
  match decodeWords (w 0) (w 1) (w 2) with
  | .error _ => none
  | .ok i =>
    match i.parts? with
    | none => none
    | some (c, _, f) =>
      if !([0x84, 0x85, 0x86, 0x87, 0x8A, 0x8B, 0x8C, 0x8D].contains c) || nAt r 0x24 4 ≠ 0 then none
      else match b.entrySlots { e with opc := c } opa phys with
        | none => none
        | some ks => some { e with
            opc := c, f := f, slots := ks, batch := if nAt r 0xC 4 = 0 then none else some (BitVec.ofNat 32 (nAt r 0xC 4)),
            opa := BitVec.ofNat 64 opa, opb := BitVec.ofNat 32 (nAt r 0x18 4), tile := BitVec.ofNat 32 (nAt r 0x1C 4),
            seq := nAt r 0x20 4 % 2 ^ 24, rank := nAt r 0x20 4 / 2 ^ 24, ctr := BitVec.ofNat 64 (nAt r 0x28 8), after := 0 }

/-- A stream entry of no slice that is known. -/
def SEntry.unknown : SEntry :=
  { opc := 0x86, f := default, tile := 0, opa := 0, opb := 0, slots := [], batch := none, seq := 0, rank := 0, dst := 0, ctr := 0, sid := 0,
    lanes := 0xF, keys := 0, src := [], epoch := 0, ahead := [], ty := 0, rnd := 0, sat := false, after := 0, begun := false, readEnded := false, sent := none, parked := [], failed := none }

/-- The stream read from its section. (DEDUCED, log 85) -/
def Block.streamOf (b : Block) (m : List Byte) (phys : Nat → Option Nat) : Option (List SEntry) :=
  if 64 < nAt m 4 4 || nAt m 8 8 ≠ 0 then none
  else allSome ((List.range (nAt m 4 4)).map (fun i =>
    b.entryOfRecord (b.stream.getD i SEntry.unknown) ((m.drop (0x10 + i * 0x30)).take 0x30) phys))

/-- The slots read from their records, bound to free physical slots in turn, with the slot of each record index. -/
def slotsOf (recs : List (List Byte)) (free : List Nat) : Option (Tab PSlot × (Nat → Option Nat)) :=
  (allSome (recs.map PSlot.ofRecord)).map (fun l =>
    let held := l.zipIdx.filterMap (fun p => p.1.map (fun q => (p.2, q)))
    let t := (held.zip free).map (fun p => (p.1.1, p.2, p.1.2))
    (t.foldl (fun (a : Tab PSlot) p => a.put p.2.1 p.2.2) [], fun i => (t.find? (fun p => p.1 == i)).map (fun p => p.2.1)))

/-- The presence records read from their section (R191). -/
def presenceOf (m : List Byte) (lines : Nat) : Option (Tab Presence) :=
  let rs := (List.range lines).map (fun i => (i, nAt m (8 * i) 8))
  if rs.any (fun r => bitsOf r.2 1 0 == 3 || bitsOf r.2 7 6 != 0) then none
  else some ((rs.map (fun r => (r.1, Presence.ofNat r.2))).filter (fun r => r.2 != ⟨.present, 0, 0⟩))

/-- The slices read from their records: an ended slice holds no state. -/
def Block.slicesOf (b : Block) (m : SaveImage) (spill : Nat → Nat → List Byte) : Option (Tab Slice) :=
  allSome (b.slices.map (fun q =>
    let r := (m.regs.drop (q.1 * 0x500)).take 0x500
    let sp := nAt m.spilled (8 * q.1) 8
    if q.2.run = .ended then some q
    else (q.2.ofRecord r ((m.trap.drop (q.1 * 0x100)).take 0x100)
        (fun k => if bitOf sp k then spill q.1 k else (r.drop (0x100 + 16 * k)).take 16)).map (fun y => (q.1, y))))

/-- The group slots read from their section. -/
def Block.groupsOf (b : Block) (m : List Byte) : Option (Tab Group) :=
  (allSome ((List.range 16).map (fun i =>
    (((b.groups.get? i).getD ⟨0, 0, 0, 0, [], [], [], b.ctx, b.node, 0⟩).ofRecord ((m.drop (i * 0x50)).take 0x50)).map (fun g => (i, g))))).map
    (fun (l : List (Nat × Group)) => l.filter (fun p => (m.drop (p.1 * 0x50)).take 0x50 != zeroBytes 0x50))

/-- A block read from its image (R99, R103, R306), its slots bound to `free`; none where a reserved field is not zero or a code is
undefined. (DEDUCED, log 84) -/
def Block.ofImage (b : Block) (m : SaveImage) (spill : Nat → Nat → List Byte) (free : List Nat) : Option Block :=
  let bad := 3 < nAt m.fixed 0x14 4 || nAt m.fixed 0x18 232 ≠ 0
  match bad, slotsOf m.slots free, b.slicesOf m spill, b.groupsOf m.groups, presenceOf m.pres (b.scratch / 128) with
  | false, some (slots, phys), some slices, some groups, some pres =>
    (b.streamOf m.stream phys).map (fun es =>
      { b with
        floor := nAt m.fixed 0x10 4, slices := slices, groups := groups, pres := pres, window := memOf m.window,
        accWords := ((List.range (b.acc * 4096)).map (fun i => (i, BitVec.ofNat 32 (nAt m.acc (4 * i) 4)))).filter (fun p => p.2 != 0),
        nb := BitVec.ofNat 32 (nAt m.stream 0 4), stream := es,
        slots := slots.map (fun p => (p.1, { p.2 with k := (es.filter (fun e => e.slots.contains p.1)).length })) })
  | _, _, _, _, _ => none

/-! ### The save (R99, R152, R306) -/

/-- Every live slice of a block waits with an armed monitor (R250). -/
def State.isDormant (s : State) (bid : Nat) : Bool :=
  match s.blocks.get? bid with
  | some b => b.state == .resident && !b.live.isEmpty && b.live.all (fun x => x.2.run == .waiting && s.monitored bid x.1)
  | none => false

/-- A group that a block's slices wait to leave GJOIN by has formed. -/
def State.joining (s : State) (bid : Nat) (b : Block) : Bool :=
  b.groups.any (fun g => g.2.state == 2 && !g.2.waiting.isEmpty)
    || (s.die b.die).groups.any (fun g => g.2.state == 2 && g.2.waiting.any (fun w => w / 256 == bid))

/-- A value read by LDA, MWAIT or TKW that the instruction has not completed with: a save discards it (R152).
(DEDUCED, log 86) -/
def Block.holdsRead (b : Block) (bid : Nat) (f : Fill) : Bool :=
  f.bid == bid && f.regs.isEmpty && !f.draining && f.elems.all FillElem.resolved
    && (match b.slices.get? f.sid with
        | some x => [some 0x67, some 0xA5, some 0xB0].contains x.opc
        | none => false)

/-- The values that a block's waiting slices have read discarded. -/
def State.dropHolds (s : State) (bid : Nat) : State :=
  match s.blocks.get? bid with
  | none => s
  | some b => (s.fills.filter (fun f => b.holdsRead bid f.2)).foldl (fun s f =>
      (s.discardFill f.1).modSlice bid f.2.sid (fun x => { x with prog := .fresh })) s

/-- A fill goes on draining through a save (R93, R99). -/
def State.isDraining (s : State) (fid : Nat) : Bool := match s.fills.get? fid with | some f => f.draining | none => true

/-- A block can be saved now (R99, R194, R195, R306): it is resident, its fills and counters are done and its requests with them, but for
fills that only drain and prefetches, and no issue is counted still (R195); its slices have taken their fill faults; no begun entry stands in its stream, and no slice of it stands at a wait
that has already come to its end. (DEDUCED, log 86) -/
def State.canSave (s0 : State) (bid : Nat) : Bool :=
  let s := s0.dropHolds bid
  match s.blocks.get? bid with
  | none => false
  | some b =>
    b.state == .resident && s.fills.all (fun f => f.2.bid != bid || f.2.draining) && s.issues.all (fun i => i.2.bid != bid || (i.2.left == 0 && !s.issueHeld i.1 i.2))
      && s.reqs.all (fun r => r.2.bid != bid || (match r.2.fill with | some p => s.isDraining p.1 | none => !r.2.writes))
      && s.msgs.all (fun m => m.2.fromDie != b.die || m.2.core != b.core)
      && s.pairs.all (fun p => p.2.out.all (fun o => o.bid != bid || o.entry.isSome
          || (match o.fill with | some q => s.isDraining q.1 | none => false)))
      && b.slotFills.isEmpty && b.stream.all (fun e => !e.begun) && !s.joining bid b
      && b.slices.all (fun x => x.2.faults.isEmpty && (match x.2.prog with | .satisfied _ => false | _ => true))

/-- The run state of a saved slice (R152). -/
def RunState.save : RunState → RunState
  | .running => .saved false
  | .waiting => .saved true
  | .parked w => .saved w
  | r => r

/-- The run state of a restored slice (R152). -/
def RunState.restore : RunState → RunState
  | .saved w => if w then .waiting else .running
  | r => r

/-- A wait abandoned by a save (R152): the instruction executes again, but a SETPK that has made its update waits on (R375). In an ordered
kernel a slice stands at its round point all the same, and the commit counts its arrival at a block group's GSYNC (R347). (DEDUCED, log 99) -/
def Prog.save (keep : Bool) : Prog → Prog
  | .acquiring [] v => .acquiring [] v
  | .round => .round
  | .synced h => if keep && bitOf h 31 then .synced h else .fresh
  | _ => .fresh

/-- A stream entry of a saved block: no place of memory that it was judged at stands any more, and no wait for a page. -/
def SEntry.unplaced (e : SEntry) : SEntry :=
  { e with src := e.src.filter (fun p => match p.place with | .hit _ _ _ => true | _ => false), parked := [], failed := none }

/-- A block saved, into its die's shadow store or into its save area (R99, R250, R306, R383, R384). (DEDUCED, log 86) -/
def State.saveBlock (s0 : State) (bid : Nat) (dormant packed : Bool) : State :=
  let s := s0.dropHolds bid
  match s.blocks.get? bid with
  | none => s
  | some b =>
    let tok := match s.nodes.get? b.node with | some n => n.token | none => 0
    let s := s.flushUo b.die b.core (fun _ => true)
    let m := b.image tok dormant (fun i k => if packed then zeroBytes 16 else s.privRead b.ctx (b.payloadVa i k) 16)
    let s1 := if packed then s.modDie b.die (fun x => { x with shadowMem := x.shadowMem.put bid (m.pack b.saveVa) })
      else s.writeImage b m
    let s2 := s1.modBlock bid (fun b => { b with
      state := .saved, dormant := dormant, spillSaved := false,
      slices := b.slices.map (fun x => (x.1, { x.2 with run := x.2.run.save, prog := x.2.prog.save (s1.isOrdered b) })),
      stream := b.stream.map SEntry.unplaced })
    let s3 := s2.modCore b.die b.core (fun c =>
      { c.leavePorts bid with waiters := c.waiters.filter (fun w => w.bid != bid) })
    let s4 := { s3 with issues := s3.issues.filter (fun i => i.2.bid != bid), fills := s3.fills.map (fun (f : Nat × Fill) =>
      (f.1, if f.2.bid == bid && f.2.orphan.isNone then { f.2 with orphan := some (b.die, b.core) } else f.2)) }
    (if dormant then s4 else s4.freeMonitors bid).modDie b.die (fun x => { x with
      waitingSet := if dormant then x.waitingSet else x.waitingSet ++ [(1, bid)] })

/-- The image of a saved block: in its die's shadow store where it is kept there, else in its save area. -/
def State.imageOf (s : State) (bid : Nat) (b : Block) : SaveImage :=
  match (s.die b.die).shadowMem.get? bid with
  | some p => b.unpack p
  | none => s.readImage b

end Sys2Proof.Machine
end

