-- ==== Sys2Proof/Machine/Place.lean ====
section
/-! DEFINITION. The dispatcher's placement of blocks (R342 to R347, R354): what fits where, the waiting set, placement and restore, and the saves that
make room (R98, R250, R345). -/

namespace Sys2Proof.Machine

/-! ### What fits (R343) -/

/-- What a block asks of a core; `held` counts the physical slots that a saved one has. -/
structure Ask where
  partw : Word
  nslices : Nat
  floor : Nat
  scratch : Nat
  acc : Nat
  slots : Nat
  held : Nat
  deriving DecidableEq, Repr

/-- The lowest multiple of `align` at which `size` units fit below `limit` beside those taken, each an offset and a size.
(DEDUCED, log 88) -/
def lowestFit (align size limit : Nat) (taken : List (Nat × Nat)) : Option Nat :=
  let up := fun (x : Nat) => (x + align - 1) / align * align
  let places := ((0 :: taken.map (fun t => up (t.1 + t.2))).insertionSort (fun a b => decide (a ≤ b)))
  places.find? (fun o => decide (o + size ≤ limit)
    && taken.all (fun t => decide (o + size ≤ t.1) || decide (t.1 + t.2 ≤ o) || size == 0 || t.2 == 0))

/-- The blocks that were last on a core. -/
def State.blocksOn (s : State) (d c : Nat) : List (Nat × Block) := s.blocks.filter (fun b => b.2.die == d && b.2.core == c)

/-- The partition word of a core stands (R174). -/
def State.wordHeld (s : State) (d c : Nat) : Bool :=
  (s.blocksOn d c).any (fun b => b.2.state != .retired || !b.2.pres.isEmpty) || s.drainH d c != 0

/-- The window and accumulator units that a block would take on a core, if every check but that of the save area passes (R343).
(DEDUCED, log 88) -/
def State.fits (s : State) (d c : Nat) (a : Ask) : Option (Nat × Nat) :=
  let res := s.residents d c
  let gone := (s.blocksOn d c).filter (fun b => b.2.state == .retired)
  let pool := bitsOf a.partw.toNat 7 0 * 4096
  let wins := (res.map (fun b => (b.2.winBase, b.2.scratch)))
    ++ (gone.filter (fun b => !b.2.pres.isEmpty)).map (fun b => (b.2.winBase, b.2.scratch))
  let accs := (res.map (fun b => (b.2.accBase, b.2.acc))) ++ (gone.filter (fun b => !b.2.stream.isEmpty)).map (fun b => (b.2.accBase, b.2.acc))
  if (s.die d).lost || (s.die d).ncore ≤ c || (s.wordHeld d c && (s.core d c).partw != some a.partw) || 16 ≤ res.length
      || 256 < (res.map (fun b => b.2.nslices)).sum + a.nslices || pool < (res.map (fun b => b.2.floor)).sum + s.drainH d c + a.floor
      || 32 < (res.map (fun b => b.2.slotLimit)).sum + a.slots || 32 < (s.slotsTaken d c).length + a.held then none
  else match lowestFit 128 a.scratch (bitsOf a.partw.toNat 15 8 * 16384) wins, lowestFit 1 a.acc (bitsOf a.partw.toNat 23 16) accs with
    | some w, some u => some (w, u)
    | _, _ => none

/-- The place of a save area in a context's save pool of a die (R343, R379): the lowest that fits. -/
def Ctx.saveRoom (c : Ctx) (d size : Nat) : Option Nat :=
  let pool := c.save.getD d (0, 0)
  (lowestFit 1024 size pool.2 ((c.saveUsed.filter (fun u => u.1 == d)).map (fun u => (u.2.1 - pool.1, u.2.2)))).map (fun o => pool.1 + o)

/-- A block takes its place on a core: the core's partition word, and its window and units. (DEDUCED, log 88) -/
def State.seat (s : State) (bid d c : Nat) (partw : Word) (w u : Nat) : State :=
  let (n, s1) := s.fresh
  (s1.modCore d c (fun k => { k with partw := some partw })).modBlock bid (fun b => { b with
    state := .resident, die := d, core := c, winBase := w, accBase := u, age := n })

/-! ### Placement (R344, R347, R354) -/

/-- The core list of a node (R342). -/
def State.coreList (s : State) (x : Node) : List (Nat × Nat) :=
  (diesOf x.dies).flatMap (fun d => (List.range (s.die d).ncore).map (fun c => (d, c)))

/-- The kernel record of a node. -/
def State.kernelOfNode (s : State) (x : Node) : Option (Ctx × Kernel) :=
  match x.body, s.ctxs.get? x.ctx with
  | .kernel h _ _ _, some c => (c.kernels.get? (bitsOf h.toNat 11 0)).map (fun k => (c, k))
  | _, _ => none

/-- A block of a node as it starts (R344). -/
def Node.newBlock (x : Node) (n idx d c : Nat) (cx : Ctx) (k : Kernel) : Block :=
  let code := cx.image + k.off + k.codeOff
  let (h, sd) := match x.body with | .kernel h _ _ sd => (h, sd) | _ => (0, 0)
  { Block.placed x.ctx d c n h.toNat (BitVec.ofNat 32 idx) (BitVec.ofNat 32 x.total) k.gang k.slices (BitVec.ofNat 64 (code + k.entry)) with
    scratch := k.scratch, acc := k.acc, slotLimit := k.slotLimit, partw := k.partw,
    trapEntry := k.trapEntry.map (fun t => BitVec.ofNat 64 (code + t)), seed := sd, floor := k.floor }

/-- The argument bytes issued as an attached entry of the block's copy queue 0 (R344). (DEDUCED, log 93) -/
def State.issueArgs (s : State) (bid n d : Nat) (x : Node) (args : List Byte) : State :=
  let (t, s1) := s.takeToken d 0 x.ctx .die
  let ls := s1.destLines [bid] 0 args.length
  let s2 := s1.issueLines d ls
  s2.putEntry { x.entry n d 0 bid .die (s2.keysOf x.ctx d) (.args args) with token := t, bid := some bid, sid := 0, lines := ls }

/-- Block `idx` of a node placed on a core, if it fits there (R343, R344); `of` is the block that it shadows. -/
def State.placeOn (s : State) (n idx d c : Nat) (of : Option Nat) : Option (Nat × State) :=
  match s.nodes.get? n with
  | none => none
  | some x => match s.kernelOfNode x with
    | none => none
    | some (cx, k) =>
      let b := x.newBlock n idx d c cx k
      let args := match x.body with | .kernel _ _ a _ => a | _ => []
      match s.fits d c ⟨k.partw, k.slices, k.floor, k.scratch, k.acc, k.slotLimit, 0⟩, cx.saveRoom d b.saveSize with
      | some (w, u), some va =>
        if !args.isEmpty && !s.entryRoom x.ctx d then none
        else
          let (bid, s1) := s.fresh
          let b := { b with saveVa := BitVec.ofNat 64 va, shadowOf := of }
          let s2 := { s1 with blocks := s1.blocks.put bid b }
          let s3 := (s2.modCtx x.ctx (fun y => { y with saveUsed := (d, va, b.saveSize) :: y.saveUsed })).seat bid d c k.partw w u
          some (bid, if args.isEmpty then s3 else s3.issueArgs bid n d x args)
      | _, _ => none

/-- The first core of a list on which block `idx` of a node fits, by its position. -/
def State.placeFirst (s : State) (n idx : Nat) : List (Nat × (Nat × Nat)) → Option (Nat × State)
  | [] => none
  | (i, d, c) :: rest =>
    match s.placeOn n idx d c none with
    | some (_, s1) => some (i, s1)
    | none => s.placeFirst n idx rest

/-- Block `idx` of an ordered node is sampled (R354). (DEDUCED, log 89) -/
def State.sampled (s : State) (x : Node) (idx : Nat) : Bool :=
  match x.body with
  | .kernel _ _ _ sd => s.feature 4 && (mix64 (sd ^^^ BitVec.ofNat 64 (idx * 0x9E3779B97F4A7C15))).toNat % 1024 == 0
  | _ => false

/-- A block of an ordered node placed on its core of the jig (R347), and its shadow with it on the next core of the list (R354).
(DEDUCED, log 89) -/
def State.placeOrdered (s : State) (n : Nat) (x : Node) (idx : Nat) : Option State :=
  let cs := s.coreList x
  let j := idx % 512 % cs.length
  let at' := fun (i : Nat) => cs.getD (i % cs.length) (0, 0)
  match s.placeOn n idx (at' j).1 (at' j).2 none with
  | none => none
  | some (bid, s1) =>
    if !s.sampled x idx then some s1
    else match s1.placeOn n idx (at' (j + 1)).1 (at' (j + 1)).2 (some bid) with
      | none => none
      | some (k, s2) => some (s2.modBlock bid (fun b => { b with shadow := some k }))

/-- The blocks of an ordered node's round that have not been placed. -/
def State.unplaced (s : State) (n : Nat) (x : Node) : List Nat :=
  x.roundBlocks.filter (fun i => !s.blocks.any (fun b => b.2.node == n && b.2.idx.toNat == i))

/-- One more block of a node has been placed; a node with none left leaves the waiting set. -/
def State.notePlaced (s : State) (n : Nat) (x : Node) (cursor : Nat) : State :=
  let s1 := s.modNode n (fun y => { y with placed := x.placed + 1, cursor := cursor })
  if x.placed + 1 = x.total then s1.modDie x.die (fun d => { d with waitingSet := d.waitingSet.filter (fun w => w != (0, n)) }) else s1

/-- The next block of a kernel node placed, if it fits (R344, R347). (DEDUCED, log 89) -/
def State.placeNext (s : State) (n : Nat) : Option State :=
  match s.nodes.get? n with
  | none => none
  | some x =>
    let cs := s.coreList x
    if x.state ≠ .running || x.cancelled || x.total ≤ x.placed || cs.isEmpty then none
    else if x.ordered then
      ((s.unplaced n x).findSome? (fun i => s.placeOrdered n x i)).map (fun s1 => s1.notePlaced n x x.cursor)
    else
      let order := cs.zipIdx.map (fun p => (p.2, p.1))
      let k := x.cursor % cs.length
      (s.placeFirst n x.placed (order.drop k ++ order.take k)).map (fun r => r.2.notePlaced n x ((r.1 + 1) % cs.length))

/-! ### Restore (R153, R159, R306, R345) -/

/-- What a saved block asks of a core. -/
def Block.ask (b : Block) : Ask :=
  { partw := b.partw, nslices := b.nslices, floor := b.floor, scratch := b.scratch, acc := b.acc, slots := b.slotLimit,
    held := b.slots.length }

/-- The lines of a saved window whose save area is poisoned (R185). (DEDUCED, log 100) -/
def State.savedPoison (s : State) (bid : Nat) (b : Block) : List Nat :=
  if ((s.die b.die).shadowMem.get? bid).isSome then []
  else (List.range (b.scratch / 128)).filter (fun l =>
    (State.privPages b.ctx 3 s (b.windowVa + 128 * l) 128).any (fun p => decide (p.1 < 8) && (s.firstPoison p.1 p.2.1 p.2.2.1).isSome))

/-- What the core that a block leaves remembers of its writes comes with it to its new core (R218, R230). (DEDUCED, log 87) -/
def State.carryCore (s : State) (d old new : Nat) : State :=
  let o := s.core d old
  s.modCore d new (fun c => { c with
    offStamp := c.offStamp.join o.offStamp, portsWritten := o.portsWritten.foldl (fun t p => t.put p.1 (max p.2 ((c.portsWritten.get? p.1).getD 0))) c.portsWritten })

/-- A slice of a restored block, which stays parked until the words of its registers are there (R99). -/
def Slice.restored (x : Slice) : Slice := { x with run := x.run.restore.park, spilled := x.regs.map (fun r => r.1) }

/-- A restored block asks for the words of its registers (R96, R99): it takes them, or waits for them as a whole. (DEDUCED, log 87) -/
def State.askWords (s : State) (bid : Nat) : State :=
  match s.blocks.get? bid with
  | none => s
  | some b =>
    match s.alloc bid wholeBlock b.spilledWords with
    | (s1, true) => s1.takeWords bid b.spilledWords
    | (s1, false) => s1.joinWaiters bid wholeBlock b.spilledWords false

/-- A saved block restored on a core of its die, if it fits there; one whose image is not valid ends (R103, R393).
(DEDUCED, log 87) -/
def State.restoreOn (s : State) (bid c : Nat) : Option State :=
  match s.blocks.get? bid with
  | none => none
  | some b =>
    if b.state ≠ .saved then none
    else match s.fits b.die c b.ask with
      | none => none
      | some (w, u) =>
        let taken := s.slotsTaken b.die c
        let free := (List.range 32).filter (fun k => !taken.contains k)
        let out := fun (s : State) => ((s.dropShadowImage b.die bid).freeMonitors bid).modDie b.die (fun x => { x with
          waitingSet := x.waitingSet.filter (fun w => w != (1, bid)) })
        match b.ofImage (s.imageOf bid b) (fun i k => s.privRead b.ctx (b.payloadVa i k) 16) free with
        | none => some ((out s).escalate bid 0 0x0102 0 0 0)
        | some y =>
          let y := { y with
            dormant := false, winPoison := (b.winPoison ++ s.savedPoison bid b).dedup,
            spillSaved := true, slices := y.slices.map (fun x => (x.1, x.2.restored)) }
          some ((((out s).carryCore b.die b.core c).modBlock bid (fun _ => y) |>.seat bid b.die c b.partw w u).askWords bid)

/-- The blocks that are saved and restored with one (R159): those that share a formed block group with it, and so on. -/
def State.unitOf (s : State) (bid : Nat) : List Nat :=
  let gs := (s.dies.flatMap (fun d => d.2.groups)).filter (fun g => g.2.state == 2)
  (List.range s.blocks.length).foldl (fun l _ => (l ++ (gs.filter (fun g => g.2.current.any (fun m => l.contains m))).flatMap (fun g => g.2.current)).dedup) [bid]

/-- Saved blocks restored, each on the first core of its die that it fits on. (DEDUCED, log 87) -/
def State.restoreRest (s : State) : List Nat → Option State
  | [] => some s
  | m :: ms =>
    match s.blocks.get? m with
    | none => s.restoreRest ms
    | some b =>
      if b.state ≠ .saved then s.restoreRest ms
      else match (List.range (s.die b.die).ncore).findSome? (fun c => s.restoreOn m c) with
        | none => none
        | some s1 => s1.restoreRest ms

/-- A saved block restored on a core with the rest of its unit (R159). (DEDUCED, log 87) -/
def State.restoreUnit (s : State) (bid c : Nat) : Option State :=
  match s.restoreOn bid c with
  | none => none
  | some s1 => s1.restoreRest ((s.unitOf bid).filter (fun m => m != bid))

/-! ### The waiting set (R345) -/

/-- The priority of a context (R379). -/
def State.prioOf (s : State) (ctx : Nat) : Nat := match s.ctxs.get? ctx with | some c => c.prio | none => 0

/-- The context of a member of a waiting set. -/
def State.memberCtx (s : State) (m : Nat × Nat) : Nat :=
  if m.1 = 0 then (match s.nodes.get? m.2 with | some x => x.ctx | none => 0)
  else (match s.blocks.get? m.2 with | some b => b.ctx | none => 0)

/-- The ranges of a context's running nodes are Resident, as a swap-in asks before it places a block (R386). -/
def State.leasesTaken (s : State) (ctx : Nat) : Bool :=
  s.nodes.all (fun n => n.2.ctx != ctx || n.2.state != .running || s.rangesResident ctx n.2.leases)

/-- The members of a die's waiting set whose contexts run, in the order in which they are served (R345). -/
def State.members (s : State) (die : Nat) : List (Nat × Nat) :=
  ((s.die die).waitingSet.filter (fun m => s.ctxRuns (s.memberCtx m) && s.leasesTaken (s.memberCtx m))).insertionSort
    (fun a b => decide (s.prioOf (s.memberCtx b) ≤ s.prioOf (s.memberCtx a)))

/-- A member placed or restored, if it fits. -/
def State.tryMember (s : State) (m : Nat × Nat) : Option State :=
  if m.1 = 0 then s.placeNext m.2
  else match s.blocks.get? m.2 with
    | some b => (List.range (s.die b.die).ncore).findSome? (fun c => s.restoreUnit m.2 c)
    | none => none

/-- The first member that fits. -/
def State.nextMember (s : State) (die : Nat) : Option (Nat × Nat) := (s.members die).find? (fun m => (s.tryMember m).isSome)

/-- BLOCK_PLACEMENT (R344, R345): the first member that fits is placed, if it is the next block of a node. -/
def execBlockPlacement (die : Nat) (s : State) : Host.Outcome State Fault Refusal :=
  match s.nextMember die with
  | some (0, n) => (match s.placeNext n with | some s1 => .next s1 | none => .next s)
  | _ => .next s

/-- BLOCK_RESTORE (R153, R345): the first member that fits is restored on a core, if it is this block. -/
def execBlockRestore (bid core : Nat) (s : State) : Host.Outcome State Fault Refusal :=
  match s.blocks.get? bid with
  | none => .next s
  | some b =>
    if s.nextMember b.die = some (1, bid) then (match s.restoreUnit bid core with | some s1 => .next s1 | none => .next s) else .next s

/-! ### Saves that make room (R98, R250, R345) -/

/-- The cores that a member could go to. -/
def State.candidates (s : State) (m : Nat × Nat) : List (Nat × Nat) :=
  if m.1 = 0 then (match s.nodes.get? m.2 with
    | some x =>
      let cs := s.coreList x
      if x.ordered then (s.unplaced m.2 x).map (fun i => cs.getD (i % 512 % cs.length) (0, 0)) else cs
    | none => [])
  else (match s.blocks.get? m.2 with
    | some b => (List.range (s.die b.die).ncore).map (fun c => (b.die, c))
    | none => [])

/-- The node of a member. -/
def State.memberNode (s : State) (m : Nat × Nat) : Nat :=
  if m.1 = 0 then m.2 else (match s.blocks.get? m.2 with | some b => b.node | none => 0)

/-- A resident block can be saved for a member (R345): it is of the same or a lower priority, and not of an ordered node's current round
unless the member is of that node (R347). (DEDUCED, log 90) -/
def State.mayYield (s : State) (m : Nat × Nat) (b : Block) : Bool :=
  b.state == .resident && (s.candidates m).contains (b.die, b.core) && decide (s.prioOf b.ctx ≤ s.prioOf (s.memberCtx m))
    && (!s.isOrdered b || b.node == s.memberNode m)

/-- The block of the lowest age in a list. (DEDUCED, log 90) -/
def oldest : List (Nat × Block) → Option Nat
  | [] => none
  | b :: bs =>
    match oldest bs with
    | none => some b.1
    | some k => match bs.find? (fun x => x.1 == k) with
      | some y => if b.2.age < y.2.age then some b.1 else some k
      | none => some b.1

/-- The block that is saved for a member: a dormant one first, then the one that has run longest (R345). (DEDUCED, log 90) -/
def State.victimFor (s : State) (m : Nat × Nat) : Option Nat :=
  let vs := s.blocks.filter (fun b => s.mayYield m b.2)
  match oldest (vs.filter (fun b => s.isDormant b.1)) with
  | some k => some k
  | none => oldest vs

/-- A resident block saved with its unit to its save area, where each block of it can be saved now (R159). (DEDUCED, log 90) -/
def State.saveUnit (s : State) (bid : Nat) : State :=
  let us := (s.unitOf bid).filter (fun m => match s.blocks.get? m with | some b => b.state == .resident | none => false)
  let dorm := us.map (fun m => (m, s.isDormant m))
  if us.all s.canSave then dorm.foldl (fun s m => s.saveBlock m.1 m.2 false) s else s

/-- QUANTUM_EXPIRY (R345): block `bid` is saved for a member of the die's waiting set that fits nowhere. (DEDUCED, log 56) -/
def execQuantumExpiry (die bid : Nat) (s : State) : Host.Outcome State Fault Refusal :=
  if (s.members die).any (fun m => (s.tryMember m).isNone && s.victimFor m == some bid) then .next (s.saveUnit bid) else .next s

/-- DORMANT_SAVE (R250): a dormant block is saved while a block waits for placement on its core. -/
def execDormantSave (bid : Nat) (s : State) : Host.Outcome State Fault Refusal :=
  match s.blocks.get? bid with
  | none => .next s
  | some b =>
    if s.isDormant bid && s.dies.any (fun d => (s.members d.1).any (fun m => (s.tryMember m).isNone && (s.candidates m).contains (b.die, b.core)))
    then .next (s.saveUnit bid) else .next s

/-- A block waits for pool words, in a GROW or for its refill (R98). -/
def State.poolWaits (s : State) (bid : Nat) (b : Block) : Bool :=
  b.state == .resident && (b.spillSaved || (s.core b.die b.core).waiters.any (fun w => w.bid == bid))

/-- The block of a core that is saved for one of its blocks that waits for words (R98): the youngest other that may be saved for a member of the waiting
set of the waiter's priority and node, a dormant one first (R345). (DEDUCED, log 56) -/
def State.poolVictim (s : State) (bid : Nat) (b : Block) : Option Nat :=
  let vs := (s.residents b.die b.core).filter (fun v => v.1 != bid && decide (s.prioOf v.2.ctx ≤ s.prioOf b.ctx)
    && (!s.isOrdered v.2 || v.2.node == b.node))
  match youngest (vs.filter (fun v => s.isDormant v.1)) with
  | some k => some k
  | none => youngest vs

/-- POOL_WAIT_QUANTUM (R98, R345): a block of the core is saved for one that waits for words. (DEDUCED, log 56) -/
def execPoolWaitQuantum (bid : Nat) (s : State) : Host.Outcome State Fault Refusal :=
  match s.blocks.get? bid with
  | none => .next s
  | some b =>
    if !s.poolWaits bid b then .next s
    else match s.poolVictim bid b with
      | some v => .next (s.saveUnit v)
      | none => .next s

end Sys2Proof.Machine
end

