-- ==== Sys2Proof/Machine/Round.lean ====
section
/-! DEFINITION. The rounds of ordered kernels (R260 to R262, R347 to R355): the commit, ownership, digests and the round limit. -/

namespace Sys2Proof.Machine

/-! ### Round points (R260, R261) -/

/-- A slice waits at a round point, whether or not its block is resident. -/
def Slice.atRoundPoint (x : Slice) : Bool :=
  x.faults.isEmpty && (match x.run with | .waiting => true | .parked w => w | .saved w => w | _ => false)
    && (match x.prog with | .round => true | .synced h => bitOf h 31 | _ => false)

/-- The blocks of a node's round, with the shadows that have not retired (R348, R354). -/
def State.roundSet (s : State) (n : Nat) (x : Node) : List (Nat × Block) :=
  s.blocks.filter (fun b => b.2.node == n
    && (if b.2.shadowOf.isSome then b.2.state != .retired || x.roundBlocks.contains b.2.idx.toNat else x.roundBlocks.contains b.2.idx.toNat))

/-- The round of a node has ended (R261, R348): each block of it has retired, or its live slices wait at round points. -/
def State.roundOver (s : State) (n : Nat) (x : Node) : Bool :=
  x.roundBlocks.all (fun i => x.cancelled || (s.nodeBlocks n).any (fun b => b.2.idx.toNat == i))
    && (s.roundSet n x).all (fun b => b.2.state == .retired || b.2.live.all (fun y => y.2.atRoundPoint))

/-- The blocks of a node, not shadows, with something to commit or in its round, in ascending block id. -/
def State.committers (s : State) (n : Nat) (x : Node) : List (Nat × Block) :=
  ((s.nodeBlocks n).filter (fun b => x.roundBlocks.contains b.2.idx.toNat || !b.2.roundBytes.isEmpty || !b.2.roundOps.isEmpty)).insertionSort
    (fun a b => decide (a.2.idx.toNat ≤ b.2.idx.toNat))

/-! ### Waits that a commit ends -/

/-- The opcode of the instruction that a slice stands at. -/
def State.opcAt (s : State) (b : Block) (x : Slice) : Nat := match s.wordAt b x.pc with | some w => opcOf w | none => 256

/-- The slices of a block that wait at a round point with one of some opcodes, in ascending id. -/
def State.pointed (s : State) (bid : Nat) (ops : List Nat) : List Nat :=
  match s.blocks.get? bid with
  | some b => if b.state ≠ .resident then [] else (b.live.filter (fun x => x.2.atRoundPoint && ops.contains (s.opcAt b x.2))).map (fun x => x.1)
  | none => []

/-- The RMWs that are round points on shared lines (R260): ATOM, BINC, WINC, DECZ, FADDL, TKT and FATOM.o. -/
def rmwPoints : List Nat := [0xA6, 0xA7, 0xA8, 0xA9, 0xAA, 0xAB, 0xAC]

/-- A waiting slice executes its instruction again at the commit; one parked for a spill stays parked (R152). -/
def State.satisfy (s : State) (bid sid : Nat) : State :=
  match s.blocks.get? bid with
  | none => s
  | some b =>
    match rerunSlice rerun bid sid (s.modSlice bid sid (fun x => { x with prog := .satisfied 0, run := .waiting })) with
    | .next s1 => if b.spillSaved then s1.modSlice bid sid (fun x => { x with run := x.run.park }) else s1
    | _ => s

/-- Slices of a block satisfied in turn. -/
def State.satisfyAll (s : State) (bid : Nat) (sids : List Nat) : State := sids.foldl (fun s i => s.satisfy bid i) s

/-! ### Saved blocks at a commit (R347) -/

/-- The number of the place where a saved block's slices complete what a commit gives them: it names no core. -/
def noCore (bid : Nat) : Nat := 255 + 256 * (bid + 1)

/-- A saved block read from its image, to take part in a commit. (DEDUCED, log 99) -/
def State.openSaved (s : State) (bid : Nat) : State :=
  match s.blocks.get? bid with
  | none => s
  | some b =>
    match b.ofImage (s.imageOf bid b) (fun i k => s.privRead b.ctx (b.payloadVa i k) 16) (List.range 32) with
    | none => s
    | some y => s.modBlock bid (fun _ => { y with
        state := BlockState.resident, core := noCore bid, slices := y.slices.map (fun x => (x.1, { x.2 with run := x.2.run.restore })) })

/-- A block that took part in a commit while saved written back to its image; `b0` is the block before. (DEDUCED, log 99) -/
def State.closeSaved (s : State) (bid : Nat) (b0 : Block) : State :=
  let old := (s.die b0.die).waitingSet
  let s1 := match s.blocks.get? bid with
    | some b => if b.state = BlockState.resident then s.saveBlock bid false ((s.die b.die).shadowMem.get? bid).isSome else s
    | none => s
  let tidy := fun (x : Die) => { x with
    cores := x.cores.erase (noCore bid)
    waitingSet := old.filter (fun w => x.waitingSet.contains w) ++ x.waitingSet.filter (fun w => !old.contains w) }
  (s1.modDie b0.die tidy).modBlock bid (fun b => { b with core := b0.core })

/-! ### Step 1 of the commit (R261, R350) -/

/-- The bytes that a block has written in its round, one for each address: the highest slice's (R349), in ascending address. -/
def Block.finalBytes (b : Block) : List (Nat × BufByte) :=
  b.roundBytes.foldl (fun (t : Tab BufByte) r =>
    let k := physKey r.die r.pa
    match t.get? k with
    | some q => if q.sid ≤ r.sid then t.put k r else t
    | none => t.put k r) []

/-- Bytes at rising addresses joined into runs of one policy. (DEDUCED, log 98) -/
def runsOf : List (Nat × Bool × Byte) → List (Nat × Bool × List Byte)
  | [] => []
  | (k, p, x) :: r =>
    match runsOf r with
    | (j, q, bs) :: t => if j = k + 1 && q == p then (k, p, x :: bs) :: t else (k, p, [x]) :: (j, q, bs) :: t
    | [] => [(k, p, [x])]

/-- A run of bytes written at its home. (DEDUCED, log 98) -/
def State.commitRun (s : State) (r : Nat × Bool × List Byte) : State := s.homeStoreAs r.2.1 (r.1 / 2 ^ 44) (r.1 % 2 ^ 44) r.2.2

/-- A buffered reduction or ticket advance performed at its home (R254, R350). (DEDUCED, log 98) -/
def State.commitOp (s : State) (b : Block) (o : BufOp) : State :=
  if s.poisoned o.die o.pa then
    s.log b.ctx { cause := 0x030C, die := b.die, core := b.core, slice := o.sid, flags := 4, block := b.idx.toNat, addr := o.va }
  else (s.homeRmw o.die o.pa o.op o.ty o.v 0 b.die b.core 0 o.alloc).1

/-- The buffered operations of a block in their order: ascending slice, then program order (R350). -/
def Block.opsInOrder (b : Block) : List BufOp :=
  b.roundOps.insertionSort (fun p q => decide (p.sid < q.sid) || (p.sid == q.sid && decide (p.order ≤ q.order)))

/-- One byte of a digest (R355). (DEDUCED, log 97) -/
def digestByte (d : Dword) (va : Nat) (x : Byte) : Dword := mix64 (d ^^^ BitVec.ofNat 64 (va % 2 ^ 56 * 256) ^^^ x.setWidth 64)

/-- A digest with the bytes that a commit writes or changes, each with its address, and the memory after it (R355).
(DEDUCED, log 97) -/
def digestAll (d : Dword) (m : Memory) (at' : List (Nat × Nat)) : Dword :=
  (at'.foldl (fun (t : Tab Nat) p => t.put p.1 p.2) []).foldl (fun d p => digestByte d p.1 (m.read p.2)) d

/-- The bytes that a block's buffers name: each with its global address and its number in memory. -/
def bufPlaces (bytes : List BufByte) (ops : List BufOp) : List (Nat × Nat) :=
  bytes.map (fun r => (r.va, physKey r.die r.pa))
    ++ ops.flatMap (fun o => (List.range o.size).map (fun i => (o.va + i, physKey o.die (o.pa + i))))

/-- The buffered operations of a block performed in their order: the state, and those that were not dropped for poison, whose bytes alone the
commit changes (R254, R350, R355). (DEDUCED, log 98) -/
def State.commitOps (s : State) (b : Block) (ops : List BufOp) : State × List BufOp :=
  ops.foldl (fun (acc : State × List BufOp) o =>
    (acc.1.commitOp b o, if acc.1.poisoned o.die o.pa then acc.2 else acc.2 ++ [o])) (s, [])

/-- A shadow drops the operations whose sectors its block's commit found poisoned (R254, R354): `ops` are the block's, `done` those performed.
(DEDUCED, log 97) -/
def keptOps (ops done : List BufOp) (mine : List BufOp) : List BufOp :=
  let at' := fun (o : BufOp) => physKey o.die o.pa
  mine.filter (fun o => done.any (fun q => at' q == at' o) || !ops.any (fun q => at' q == at' o))

/-- The memory that a shadow's commit would leave (R354). (DEDUCED, log 97) -/
def shadowMemory (m : Memory) (bytes : List (Nat × BufByte)) (ops : List BufOp) (rmws : List BufByte) : Memory :=
  let m1 := bytes.foldl (fun (m : Memory) p => m.write p.1 p.2.byte) m
  let m2 := ops.foldl (fun (m : Memory) o =>
    let k := physKey o.die o.pa
    m.writeList k (leBytes o.size (rmwNew o.op o.ty (m.readNat k o.size) o.v.toNat 0))) m1
  rmws.foldl (fun (m : Memory) r => m.write (physKey r.die r.pa) r.byte) m2

/-- A block's buffers emptied. -/
def Block.noBuffers (b : Block) : Block := { b with roundBytes := [], roundOps := [] }

/-- A shadow's part of a commit (R354): its RMWs return what its block's returned, and its digest covers what it would have written. -/
def State.commitShadow (s : State) (k : Nat) (before : Memory) (keep : List BufOp → List BufOp) : State :=
  match s.blocks.get? k with
  | none => s
  | some b =>
    let bytes := b.finalBytes
    let ops := keep b.opsInOrder
    let s1 := s.modBlock k Block.noBuffers
    let s2 := s1.satisfyAll k (s1.pointed k rmwPoints)
    s2.modBlock k (fun y => { y.noBuffers with
      digest := digestAll b.digest (shadowMemory before bytes ops y.roundBytes) (bufPlaces (bytes.map (fun p => p.2) ++ y.roundBytes) ops)
      results := [] })

/-- Step 1 of R261 for one block (R350): its bytes, its buffered operations, its waiting RMWs; then its shadow.
(DEDUCED, log 98) -/
def State.commitBlock (s : State) (bid : Nat) : State :=
  match s.blocks.get? bid with
  | none => s
  | some b =>
    let bytes := b.finalBytes
    let ops := b.opsInOrder
    let s1 := (runsOf (bytes.map (fun p => (p.1, p.2.alloc, p.2.byte)))).foldl State.commitRun (s.modBlock bid Block.noBuffers)
    let (s2, done) := s1.commitOps b ops
    let s3 := s2.satisfyAll bid (s2.pointed bid rmwPoints)
    let s4 := s3.modBlock bid (fun y => { y.noBuffers with
      digest := digestAll b.digest s3.mem (bufPlaces (bytes.map (fun p => p.2) ++ y.roundBytes) done) })
    (match b.shadow with | some k => s4.commitShadow k s.mem (keptOps ops done) | none => s4).modBlock bid (fun y => { y with results := [] })

/-- A block's commit writes something. -/
def Block.commits (b : Block) : Bool := !b.roundBytes.isEmpty || !b.roundOps.isEmpty

/-! ### Steps 2 and 3 (R261) -/

/-- A block group of a node at which every member waits is synchronised (R275). -/
def State.commitGroup (s : State) (d slot : Nat) : State :=
  match (s.die d).groups.get? slot with
  | none => s
  | some g =>
    let h := makeHandle true g.gen slot
    match g.current with
    | [] => s
    | m :: _ =>
      if g.state ≠ 2 || !s.allArrived m true h g then s
      else
        let s1 := s.releaseGroup m true slot h g
        g.current.foldl (fun s m => match s.blocks.get? m with
          | some b => s.satisfyAll m ((b.live.filter (fun x => match x.2.prog with | .satisfied _ => true | _ => false)).map (fun x => x.1))
          | none => s) s1

/-- The block groups of a node. -/
def State.groupsOfNode (s : State) (n : Nat) : List (Nat × Nat) :=
  s.dies.flatMap (fun d => (d.2.groups.filter (fun g => g.2.state == 2 && g.2.node == n)).map (fun g => (d.1, g.1)))

/-- Step 2: every waiting MWAIT and TKW evaluates its compare, and every complete block group synchronises. (DEDUCED, log 99) -/
def State.commitWaits (s : State) (n : Nat) (bids : List Nat) : State :=
  let s1 := bids.foldl (fun s b => s.satisfyAll b (s.pointed b [0xA5, 0xB0])) s
  (s1.groupsOfNode n).foldl (fun s g => s.commitGroup g.1 g.2) s1

/-- Step 3: COMMIT completes. -/
def State.commitEnds (s : State) (bids : List Nat) : State := bids.foldl (fun s b => s.satisfyAll b (s.pointed b [0xB2])) s

/-! ### Ownership and the round log (R352, R353) -/

/-- What a line's mark becomes at the round's end, by the blocks that accessed it (R352). -/
def OrdMark.next (old : Option OrdMark) (who : List Nat) : OrdMark :=
  match who with
  | [i] => if old = none || old = some (.priv i) then .priv i else .shared
  | _ => .shared

/-- The lines that the blocks of a list have accessed, with the blocks of each. -/
def touchedBy (bs : List (Nat × Block)) : List (Nat × List Nat) :=
  ((bs.flatMap (fun b => b.2.touched)).dedup).map (fun k => (k, ((bs.filter (fun b => b.2.touched.contains k)).map (fun b => b.2.idx.toNat)).dedup))

/-- A block, or a write on its way to become one's, holds round state of a line. -/
def State.buffered (s : State) (k : Nat) : Bool := s.blocks.any (fun b => b.2.buffers k)

/-- The lines, not held in a bay, whose writes of engines and drains a node's blocks have yet to observe (R351): their state stays in the round log. -/
def State.loggedOn (s : State) (n : Nat) : List (Block × Nat) :=
  (s.nodeBlocks n).flatMap (fun b => (((b.2.late.map (fun w => physKey w.die w.pa / 1024)).dedup).filter (fun k =>
    !(s.line (k / 2 ^ 34) (k % 2 ^ 34 * 1024)).held)).map (fun k => (b.2, k)))

/-- The marks of a round's lines set, and the held lines and the round log given up of all but what is still buffered (R351 to R353).
(DEDUCED, log 99) -/
def State.settleLines (s : State) (n ctx : Nat) : State :=
  let s1 := (touchedBy (s.nodeBlocks n)).foldl (fun s p =>
    let d := p.1 / 2 ^ 34
    let pa := p.1 % 2 ^ 34 * 1024
    s.modLine d pa (fun l => { l with ord := l.ord.put n (OrdMark.next (l.ord.get? n) p.2), held := l.held && s.buffered p.1 })) s
  let s2 := { s1 with blocks := s1.blocks.map (fun (b : Nat × Block) => (b.1, if b.2.node == n then { b.2 with touched := [] } else b.2)) }
  let s3 := s2.modCtx ctx (fun c => { c with rlogUsed := c.rlogUsed.filter (fun u => u.1 / 8 != n) })
  (s3.loggedOn n).foldl (fun s q => (s.takeRecord ctx q.1.node (q.2 / 2 ^ 34)).1) s3

/-- Entries of a node's blocks that have not ended keep the view of their issue (R351): a byte that the commit changes stays in the view as
it was. -/
def State.keepViews (s : State) (n : Nat) (m0 : Memory) : State :=
  let changed := ((m0 ++ s.mem).filter (fun c => m0.read c.1 != s.mem.read c.1)).map (fun c => c.1)
  let mine := fun (e : Entry) => e.live && (match e.bid.bind (fun b => s.blocks.get? b) with | some b => b.node == n | none => false)
  { s with entries := s.entries.map (fun (e : Nat × Entry) =>
      if mine e.2 then
        let new := (changed.dedup.filter (fun k => !e.2.view.any (fun r => physKey r.die r.pa == k))).map (fun k =>
          { die := k / 2 ^ 44, pa := k % 2 ^ 44, byte := m0.read k, sid := 0, va := 0, seq := 0, alloc := true : BufByte })
        (e.1, { e.2 with view := e.2.view ++ new })
      else e) }

/-! ### The round limit (R262) -/

/-- The round limit of a context in cycles of the 1.25 GHz clock (R379). (DEDUCED, log 96) -/
def State.roundCycles (s : State) (ctx : Nat) : Nat :=
  match s.ctxs.get? ctx with
  | some c => (if c.roundLim = 0 then 1000000 else c.roundLim) * 1250
  | none => 0

/-- A slice takes ROUND_TIMEOUT at its next instruction boundary, or as a fault of its wait. (DEDUCED, log 96) -/
def Slice.timeOut (x : Slice) : Slice := { x with faults := x.faults ++ [⟨60, 0x0501, 0, x.mask⟩], waitRounds := 0 }

/-- The slices that go on waiting at MWAIT, TKW and GSYNC count the round, if no block committed a write in it; one that has waited for
longer than the limit takes ROUND_TIMEOUT (R262). (DEDUCED, log 96) -/
def State.countRound (s : State) (ctx : Nat) (bids : List Nat) (wrote : Bool) (len : Nat) : State :=
  bids.foldl (fun s b => s.modBlock b (fun y => { y with slices := y.slices.map (fun x =>
    let n := if wrote then 0 else x.2.waitRounds + len
    (x.1, if x.2.run = .ended then x.2
          else if !x.2.atRoundPoint then { x.2 with waitRounds := 0 }
          else if s.roundCycles ctx < n then x.2.timeOut else { x.2 with waitRounds := n })) })) s

/-! ### The commit -/

/-- A round's commit: a release of every write of it and an acquire of every slice that goes on, at package scope (R261). A shadow that outlives its
block still takes part. -/
def State.commit (s : State) (n : Nat) (x : Node) : State :=
  let mains := (s.committers n x).map (fun b => b.1)
  let all := ((mains ++ (s.roundSet n x).map (fun b => b.1))).dedup
  let saved := (s.roundSet n x).filter (fun b => b.2.state == .saved)
  let s1 := saved.foldl (fun s b => s.openSaved b.1) s
  let wrote := (s1.committers n x).any (fun b => b.2.commits || !(s1.pointed b.1 rmwPoints).isEmpty)
  let alone := (s.roundSet n x).filter (fun b => match b.2.shadowOf with | some m => !mains.contains m | none => false)
  let s2 := alone.foldl (fun s b => s.commitShadow b.1 s.mem (fun ops => ops.filter (fun o => !s.poisoned o.die o.pa))) (mains.foldl (fun s b => s.commitBlock b) s1)
  let s3 := (s2.commitWaits n all).commitEnds all
  let s4 := s3.countRound x.ctx all wrote ((s.die x.die).cycle - x.roundStart).toNat
  let s5 := saved.foldl (fun s b => s.closeSaved b.1 b.2) s4
  let s6 := ((s5.settleLines n x.ctx).keepViews n s.mem).compareShadows n
  let st := s6.dies.foldl (fun a d => a.join d.2.vc) Clock.zero
  let s7 := (diesOf x.dies).foldl (fun (s : State) d => s.noteSeen d st) s6
  let s8 := (s7.nodeCores n).foldl (fun s c => s.dropVs c.1 c.2 (fun _ => true)) s7
  (s8.modNode n (fun y => { y with rounds := if x.roundBlocks.isEmpty then y.rounds else y.rounds + 1 })).startRound n

/-- ROUND_COMMIT (R261): the round of an ordered node has ended and commits. Writes that blocks made as they retired, or that came to be
theirs afterwards (R351), commit with it. -/
def execRoundCommit (node : Nat) (s : State) : Host.Outcome State Fault Refusal :=
  match s.nodes.get? node with
  | none => .next s
  | some x =>
    if x.ordered && (x.state == .running || x.state == .completing) && s.ctxRuns x.ctx && s.roundOver node x
        && !((s.committers node x).isEmpty && (s.roundSet node x).isEmpty) then .next (s.commit node x) else .next s

/-- ROUND_TIMEOUT (R262): the round has lasted longer than the limit; each slice of it that is not at a round point takes the fault, and the
limit runs anew. -/
def execRoundTimeout (node : Nat) (s : State) : Host.Outcome State Fault Refusal :=
  match s.nodes.get? node with
  | none => .next s
  | some x =>
    let now := (s.die x.die).cycle
    if !x.ordered || x.state ≠ .running || !s.ctxRuns x.ctx || x.roundBlocks.isEmpty || (now - x.limitStart).toNat ≤ s.roundCycles x.ctx then .next s
    else
      let bids := ((s.roundSet node x).filter (fun b => b.2.state != .retired)).map (fun b => b.1)
      let s1 := bids.foldl (fun s b => s.modBlock b (fun y => { y with slices := y.slices.map (fun p =>
        (p.1, if p.2.run = .ended || p.2.atRoundPoint then p.2 else p.2.timeOut)) })) s
      .next (s1.modNode node (fun y => { y with limitStart := now }))

end Sys2Proof.Machine
end

