-- ==== Sys2Proof/Machine/Context.lean ====
section
/-! DEFINITION. Contexts (R378 to R386): the start, the commands of CTXCTL, the swap, and teardown. -/

namespace Sys2Proof.Machine

/-! ### The record (R379) -/

/-- A context as its record gives it. -/
def ctxOfRecord (b : List Byte) : Ctx :=
  let f := imgField b
  { (default : Ctx) with
    id := f 0 2, state := .starting, model := bitOf (f 2 1) 0, prio := f 3 1, first := f 4 1, size := f 5 1, esc := bitsOf (f 6 1) 1 0,
    bkoff := bitOf (f 6 1) 2, logh := bitOf (f 6 1) 3, eprio := f 7 1, k := BitVec.ofNat 64 (f 8 8), root := f 0x10 8,
    parkLim := f 0x18 4, roundLim := f 0x1C 4, pinQuota := f 0x20 4, layerQuota := f 0x24 4, nlayer := f 0x28 2, layTab := f 0x30 8,
    image := f 0x38 8, imageSize := f 0x40 8, rlog := f 0x48 8, rlogSize := f 0x50 8,
    lroot := (List.range 8).map (fun d => f (0x80 + 8 * d) 8), hroot := [f 0xC0 8, f 0xC8 8],
    save := (List.range 8).map (fun d => (f (0x100 + 16 * d) 8, f (0x108 + 16 * d) 8)) }

/-- An address lies in the own package (R172). -/
def State.inOwn (s : State) (va : Nat) : Bool := match s.ownerOf va with | .ok (.own _) => true | _ => false

/-- The fields of a record against their ranges, and its reserved bytes (R379, R380). (DEDUCED, log 92) -/
def State.recordOk (s : State) (b : List Byte) : Bool :=
  let f := imgField b
  let c := ctxOfRecord b
  decide (1 ≤ c.id) && decide (c.id ≤ 4095) && decide (f 2 1 ≤ 1) && decide (c.prio ≤ 15) && decide (c.first ≤ 7)
    && [1, 2, 4, 8].contains c.size && c.esc != 3 && decide (f 6 1 < 16) && decide (c.eprio ≤ 15) && decide (c.parkLim ≤ 1000000)
    && decide (c.nlayer ≤ 4096) && (c.model || c.nlayer == 0) && f 0x2A 6 == 0 && c.layTab % 32 == 0
    && c.image % 65536 == 0 && c.imageSize % 65536 == 0 && s.inOwn c.image && s.inOwn ((c.image + max c.imageSize 1 - 1) % 2 ^ 64)
    && c.rlog % 65536 == 0 && f 0x58 40 == 0
    && (List.range 8).all (fun d => c.dies.contains d || c.lroot.getD d 0 == 0)
    && (c.lroot ++ c.hroot).all (fun r => r % 65536 == 0) && f 0xD0 48 == 0
    && c.save.all (fun p => p.1 % 65536 == 0 && p.2 % 65536 == 0) && f 0x180 1648 == 0

/-! ### The start (R368, R380) -/

/-- The image map (R368): for each page of the image area its number, its die and its frame; none where a walk fails or a leaf has LP = 1. -/
def State.imageMap (s : State) (id : Nat) (c : Ctx) : Option (List (Nat × Nat × Nat)) :=
  allSome ((List.range (c.imageSize / 65536)).map (fun i =>
    let va := (c.image + i * 65536) % 2 ^ 64
    match s.ownerOf va with
    | .ok (.own d) => (match (s.walkTree id (.own d) va).2 with
      | .ok l => if leafLP l.entry then none else some (va % 2 ^ 53 / 65536, d, l.pa / 65536 * 65536)
      | .error _ => none)
    | _ => none))

/-- A context slot of a die; one that nothing has written is Free. -/
def State.slotOf (s : State) (d k : Nat) : CtxSlot := ((s.die d).ctxSlots.get? k).getD ⟨0, none, .free, 0⟩

/-- A context slot changed. -/
def State.modSlotReg (s : State) (d k : Nat) (f : CtxSlot → CtxSlot) : State :=
  s.modDie d (fun x => { x with ctxSlots := x.ctxSlots.put k (f (s.slotOf d k)) })

/-- What STATE and CAUSE of a slot read (R378): those of its context, where it has one. -/
def State.slotState (s : State) (d k : Nat) : CtxState × Half :=
  let x := s.slotOf d k
  match x.ctx.bind (fun c => s.ctxs.get? c) with
  | some c => (c.state, if c.state = .ended then c.cause else 0)
  | none => (x.state, x.cause)

/-- A Free slot of a die (R380 does not say which). -/
def State.freeSlot (s : State) (d : Nat) : Option Nat :=
  s.pickFrom (2 ^ 61 + 2048 + d) ((List.range 16).filter (fun k => (s.slotState d k).1 == .free))

/-- The partition crosses the break of a wrapped ring other than at its own ends (R380). -/
def State.crossesBreak (s : State) (c : Ctx) : Bool :=
  (s.die c.first).ring == 1 && (c.dies.dropLast).contains (s.die c.first).brk

/-- The check of CONTEXT_CONFLICT (R380). -/
def State.conflict (s : State) (c : Ctx) : Bool :=
  (match s.ctxs.get? c.id with | some o => o.state != .free && o.state != .ended | none => false)
    || c.dies.any (fun d => (s.die d).lost || (d != c.first && (s.freeSlot d).isNone)) || s.crossesBreak c

/-- The root node read and checked (R338, R380): its record and argument bytes. (DEDUCED, log 93) -/
def State.rootNode (s : State) (id : Nat) (c : Ctx) : Except Half (NodeRec × List Byte) :=
  if c.root % 64 ≠ 0 then .error 0x0509
  else match (s.unitRead id c.k .start c.root 256).2 with
    | .wait => .error 0x0301
    | .fail e _ => .error e
    | .ok b => match s.nodeCheck id c.root b with
      | .error (e, _) => .error e
      | .ok r => match (s.unitRead id c.k .start r.args r.argb).2 with
        | .wait => .error 0x0301
        | .fail e _ => .error e
        | .ok args => .ok (r, args)

/-- The cause written to STATUS (R379, R382). -/
def State.writeStatus (s : State) (d pa : Nat) (cause : Half) : State := s.store d (pa + 0x7F0) (leBytes 8 cause.toNat)

/-- A start that fails (R380, R382); `wrote` says that the record lies in memory. (DEDUCED, log 92) -/
def State.failStart (s : State) (d k pa : Nat) (cause : Half) (wrote : Bool) : State :=
  (if wrote then s.writeStatus d pa cause else s).modSlotReg d k (fun x => { x with ctx := none, state := .ended, cause := cause })

/-- The number, no context's, under which the slots of an Ended context stand together once another of its id has started: it names their FIRST
die. -/
def detached (n first : Nat) : Nat := 4096 + 8 * n + first

/-- The slots of an Ended context of an id give it up, and stay Ended together until the host frees them. (DEDUCED, log 95) -/
def State.detach (s : State) (id : Nat) : State :=
  match s.ctxs.get? id with
  | none => s
  | some c =>
    let (n, s1) := s.fresh
    { s1 with dies := s1.dies.map (fun (d : Nat × Die) => (d.1, { d.2 with ctxSlots := d.2.ctxSlots.map (fun (k : Nat × CtxSlot) =>
        (k.1, if k.2.ctx == some id then { k.2 with ctx := some (detached n c.first), state := .ended, cause := c.cause } else k.2)) })) }

/-- The contexts resident on a die (R385). -/
def State.residentCtxs (s : State) (d : Nat) : List (Nat × Ctx) := s.ctxs.filter (fun c => c.2.dies.contains d && c.2.resident)

/-- The context swapped out to make room on a die for one of a higher PRIO (R385). (DEDUCED, log 94) -/
def State.weakest (s : State) (d prio : Nat) : Option Nat :=
  let l := (s.residentCtxs d).filter (fun (c : Nat × Ctx) => c.2.state == .running && decide (c.2.prio < prio))
  ((l.insertionSort (fun a b => decide (a.2.prio < b.2.prio) || (a.2.prio == b.2.prio && decide (b.2.started ≤ a.2.started)))).head?).map (fun c => c.1)

/-- A die holds 16 resident contexts other than the one of an id (R385). -/
def State.ctxFull (s : State) (id d : Nat) : Bool := decide (16 ≤ ((s.residentCtxs d).filter (fun (c : Nat × Ctx) => c.1 != id)).length)

/-- A start or a swap-in makes room where it finds 16 contexts resident on a die of the partition (R385). (DEDUCED, log 94) -/
def State.autoSwap (s : State) (c : Ctx) : State :=
  c.dies.foldl (fun (s : State) d =>
    if !s.ctxFull c.id d then s
    else match s.weakest d c.prio with
      | some k => s.modCtx k (fun x => { x with state := .swappingOut })
      | none => s) s

/-- A start whose checks have passed (R380): the partition takes its slots, and the root node its token and its place in the launch queue.
(DEDUCED, log 92) -/
def State.startCtx (s : State) (d k pa : Nat) (c : Ctx) (r : NodeRec) (args : List Byte) : State :=
  let id := c.id
  let (n, s1) := (s.detach id).fresh
  let c1 := { c with state := .running, kWork := c.dies.map (fun d => (d, c.k)) |>.foldl (fun (t : Tab Dword) p => t.put p.1 p.2) [],
                     recDie := d, recPa := pa, started := n }
  let s2 := { s1 with ctxs := s1.ctxs.put id c1 }
  let s3 := c.dies.foldl (fun (s : State) e =>
    (s.modSlotReg e (if e = d then k else (s.freeSlot e).getD 0) (fun x => { x with ctx := some id, state := .running, cause := 0 })).modDie e
      (fun x => { x with mapFixed := true })) s2
  (if (s3.die d).tokFree then
    let (t, s4) := s3.takeToken d 4 id .sys
    (s4.launch id d t r args).logRoot id d t
  else s3.launch id d 0 r args).autoSwap c1

/-- A start (R378, R380): a record's address written to a slot. A root node that finds no free token record takes one once there is one (R311);
before ACCEPT is committed the write is ignored (R461). (DEDUCED, log 92) -/
def State.ctxStart (s : State) (die slot : Nat) (value : Dword) : State :=
  let pa := bitsOf value.toNat 43 12 * 4096
  if !s.accepted || (s.die die).lost || 8 ≤ die || 16 ≤ slot || (s.slotState die slot).1 ≠ .free then s
  else
    let s0 := s.modSlotReg die slot (fun x => { x with start := BitVec.ofNat 64 pa })
    let fail := fun (c : Half) => s0.failStart die slot pa c true
    if (s.die die).cap ≤ pa then s0.failStart die slot pa 0x0606 false
    else if (s.firstPoison die pa 0x7F0).isSome then fail 0x030C
    else
      let b := s.physRead die pa 0x7F0
      let c := ctxOfRecord b
      if c.first ≠ die || !s.recordOk b then fail 0x0606
      else
        let tried := { s0 with ctxs := s0.ctxs.put c.id c }
        match tried.imageMap c.id c with
        | none => fail 0x0606
        | some m =>
          let c1 := { c with imap := m }
          if s.conflict c then fail 0x0607
          else match ({ s0 with ctxs := s0.ctxs.put c.id c1 } : State).rootNode c.id c1 with
            | .error e => fail e
            | .ok (r, args) => s0.startCtx die slot pa c1 r args

/-- CTXSTART (R378, R380): a write of a record's address to a slot. -/
def execCtxstart (die slot : Nat) (value : Dword) (s : State) : Host.Outcome State Fault Refusal := .next (s.ctxStart die slot value)

/-! ### The commands of CTXCTL (R378, R381, R385) -/

/-- The context that a command on a slot acts on: only the slot of the FIRST die has one (R378). -/
def State.commanded (s : State) (die slot : Nat) : Option (Nat × Ctx) :=
  match (s.slotOf die slot).ctx with
  | none => none
  | some id => match s.ctxs.get? id with
    | some c => if c.first = die && !(s.die die).lost then some (id, c) else none
    | none => none

/-- Command 1 (R381, R383): the context halts. -/
def State.ctxSwapOut (s : State) (die slot : Nat) : State :=
  match s.commanded die slot with
  | some (id, c) => if c.state = .running then s.modCtx id (fun x => { x with state := .swappingOut }) else s
  | none => s

/-- Command 2 (R381, R385). -/
def State.ctxSwapIn (s : State) (die slot : Nat) : State :=
  match s.commanded die slot with
  | some (id, c) => if c.state = .swapped then (s.modCtx id (fun x => { x with state := .swappingIn })).autoSwap c else s
  | none => s

/-- The slots of a number are Free. (DEDUCED, log 95) -/
def State.freeSlots (s : State) (id : Nat) : State :=
  { s with dies := s.dies.map (fun (d : Nat × Die) => (d.1, { d.2 with ctxSlots := d.2.ctxSlots.map (fun (k : Nat × CtxSlot) =>
      (k.1, if k.2.ctx == some id then { k.2 with ctx := none, state := .free, cause := 0 } else k.2)) })) }

/-- Command 3 (R381): a running or swapped context ends, one that is being saved or restored ends afterwards, and the slots of an Ended one
are freed. (DEDUCED, log 95) -/
def State.ctxEnd (s : State) (die slot : Nat) : State :=
  let x := s.slotOf die slot
  match x.ctx with
  | none => if x.state = .ended then s.modSlotReg die slot (fun x => { x with state := .free, cause := 0 }) else s
  | some id =>
    match s.ctxs.get? id with
    | none => if id % 8 = die then s.freeSlots id else s
    | some c =>
      if c.first ≠ die then s
      else if c.state = .ended then (s.freeSlots id).modCtx id (fun y => { y with state := .free, cause := 0 })
      else s.beginEnding id 0x0608

/-- CTXCTL_SWAP_OUT (R381, R383). -/
def execCtxctlSwapOut (die slot : Nat) (s : State) : Host.Outcome State Fault Refusal := .next (s.ctxSwapOut die slot)

/-- CTXCTL_SWAP_IN (R381, R383, R385). -/
def execCtxctlSwapIn (die slot : Nat) (s : State) : Host.Outcome State Fault Refusal := .next (s.ctxSwapIn die slot)

/-- CTXCTL_END (R381). -/
def execCtxctlEnd (die slot : Nat) (s : State) : Host.Outcome State Fault Refusal := .next (s.ctxEnd die slot)

/-! ### The swap (R383, R384, R386) -/

/-- The blocks of a context that are resident. -/
def State.ctxResidents (s : State) (ctx : Nat) : List Nat :=
  (s.blocks.filter (fun b => b.2.ctx == ctx && b.2.state == .resident)).map (fun b => b.1)

/-- A die's shadow store takes a context's images (R383, R462). (DEDUCED, log 91) -/
def State.shadowFree (s : State) (d ctx : Nat) : Bool :=
  s.feature 3 && ((s.die d).shadow == none || (s.die d).shadow == some ctx)

/-- The blocks of a context saved, into the shadow stores of their dies where those are free. -/
def State.saveAll (s : State) (ctx : Nat) : State :=
  (s.ctxResidents ctx).foldl (fun s bid => match s.blocks.get? bid with
    | some b => s.saveBlock bid false (s.shadowFree b.die ctx)
    | none => s) s

/-- The core-cache lines, guest lines, monitors and cached translations that a context leaves on the dies. -/
def State.dropCtxLines (s : State) (ctx : Nat) : State :=
  (List.range 8).foldl (fun (s : State) d =>
    let s1 := (s.die d).cores.foldl (fun (s : State) c =>
      (s.flushUo d c.1 (fun l => l.ctx == ctx)).dropVs d c.1 (fun l => l.ctx == ctx)) s
    (s1.dropGuests d (fun g => g.ctx == ctx)).modDie d (fun x => { x with monitors := x.monitors.filter (fun m => m.2.ctx != ctx) })) s

/-- The dormant blocks of a context wait like any other, since their monitors are freed (R250). -/
def State.wakeAll (s : State) (ctx : Nat) : State :=
  (s.blocks.filter (fun b => b.2.ctx == ctx && b.2.state == .saved && b.2.dormant)).foldl (fun s b => s.wakeDormant b.1) s

/-- A context that was to end while it was saved or restored ends now (R381). (DEDUCED, log 95) -/
def State.endIfDue (s : State) (ctx : Nat) : State :=
  match s.ctxs.get? ctx with
  | some c => if c.cause = 0 then s else s.beginEnding ctx c.cause
  | none => s

/-- The block-group slots of a context leave its dies, to be saved with it (R159): they are Free there. -/
def State.saveGroups (s : State) (ctx : Nat) : State :=
  let mine := fun (g : Nat × Group) => g.2.state != 0 && g.2.ctx == ctx
  let out := s.dies.flatMap (fun (d : Nat × Die) => (d.2.groups.filter mine).map (fun g => (d.1, g.1, g.2)))
  let s1 := { s with dies := s.dies.map (fun (d : Nat × Die) => (d.1, { d.2 with
    groups := d.2.groups.map (fun (g : Nat × Group) => (g.1, if mine g then { g.2 with state := 0, current := [], published := [], waiting := [] } else g.2)) })) }
  s1.modCtx ctx (fun c => { c with groups := out })

/-- The slots that a context's saved groups stood in are Free, so that they can come back under their handles (R160). (DEDUCED, log 94) -/
def State.groupsFit (s : State) (c : Ctx) : Bool :=
  c.groups.all (fun g => match (s.die g.1).groups.get? g.2.1 with | some x => x.state == 0 | none => true)

/-- The saved block-group slots of a context come back to their dies. -/
def State.restoreGroups (s : State) (ctx : Nat) (c : Ctx) : State :=
  (c.groups.foldl (fun (s : State) g => s.modDie g.1 (fun x => { x with groups := x.groups.put g.2.1 g.2.2 })) s).modCtx ctx
    (fun x => { x with groups := [] })

/-- SWAP_OUT_SAVE_DONE (R383): every block of the context has been saved, and with it its block-group slots (R159). -/
def execSwapOutSaveDone (ctx : Nat) (s : State) : Host.Outcome State Fault Refusal :=
  match s.ctxs.get? ctx with
  | none => .next s
  | some c =>
    if c.state ≠ .swappingOut || !(s.ctxResidents ctx).all s.canSave || s.entries.any (fun e => e.2.ctx == ctx && e.2.sent) then .next s
    else
      let shadowed := c.dies.filter (fun d => s.shadowFree d ctx)
      let s1 := ((s.saveAll ctx).wakeAll ctx).dropCtxLines ctx
      let s2 := shadowed.foldl (fun (s : State) d => s.modDie d (fun x => { x with shadow := some ctx })) s1
      .next (((s2.saveGroups ctx).modCtx ctx (fun x => { x with state := .swapped })).endIfDue ctx)

/-- The layers of a context's leases requested again (R386). -/
def State.retakeLeases (s : State) (ctx : Nat) : State :=
  (s.nodes.filter (fun n => n.2.ctx == ctx && n.2.leased)).foldl (fun s n =>
    n.2.leases.foldl (fun s l => match s.ctxs.get? ctx with
      | some c => (match s.rangeLayers c ctx l with
        | .ok ks => ks.foldl (fun s k => s.requestLayer ctx k) s
        | .error _ => s)
      | none => s) s) s

/-- A shadow store that holds no image of a context any more is free. (DEDUCED, log 91) -/
def State.clearShadow (s : State) (ctx : Nat) : State :=
  { s with dies := s.dies.map (fun (d : Nat × Die) =>
      (d.1, if d.2.shadow == some ctx && d.2.shadowMem.isEmpty then { d.2 with shadow := none } else d.2)) }

/-- SWAP_IN_RESTORE_DONE (R383, R386): the context runs, its block-group slots are back, its leases are taken again, and its blocks return to cores
from the waiting sets. -/
def execSwapInRestoreDone (ctx : Nat) (s : State) : Host.Outcome State Fault Refusal :=
  match s.ctxs.get? ctx with
  | none => .next s
  | some c =>
    if c.state ≠ .swappingIn then .next s
    else if c.cause ≠ 0 then .next ((s.modCtx ctx (fun x => { x with state := .swapped })).endIfDue ctx)
    else if !s.groupsFit c then .next s
    else .next ((((s.restoreGroups ctx c).modCtx ctx (fun x => { x with state := .running })).clearShadow ctx).retakeLeases ctx)

/-! ### Teardown (R381, R382) -/

/-- Every request that a context has issued has been performed or has failed, and its nodes and entries have completed. -/
def State.drained (s : State) (ctx : Nat) : Bool :=
  let blk := fun (bid : Nat) => match s.blocks.get? bid with | some b => b.ctx == ctx | none => false
  let ent := fun (eid : Nat) => match s.entries.get? eid with | some e => e.ctx == ctx | none => false
  s.reqs.all (fun r => r.2.ctx != ctx) && s.pairs.all (fun p => p.2.out.all (fun o => !blk o.bid && !(o.entry.any ent)))
    && s.nodes.all (fun n => n.2.ctx != ctx || !n.2.active)
    && s.entries.all (fun e => e.2.ctx != ctx || !s.entryOpen e.1) && s.additions.all (fun a => !blk a.2.src)
    && s.blocks.all (fun b => b.2.ctx != ctx || (b.2.slotFills.isEmpty && b.2.stream.isEmpty))

/-- What a context leaves in the tables of the part is freed. (DEDUCED, log 95) -/
def State.clearCtx (s : State) (ctx : Nat) : State :=
  let blk := fun (bid : Nat) => match s.blocks.get? bid with | some b => b.ctx == ctx | none => false
  let mine := fun (n : Nat) => match s.nodes.get? n with | some x => x.ctx == ctx | none => false
  { s with
    dies := s.dies.map (fun (d : Nat × Die) => (d.1, { d.2 with
      lines := d.2.lines.map (fun (l : Nat × BayLine) => (l.1, { l.2 with pins := l.2.pins.erase ctx, ord := l.2.ord.filter (fun o => !mine o.1) }))
      tcache := d.2.tcache.filter (fun t => t.ctx != ctx)
      groups := d.2.groups.map (fun (g : Nat × Group) => (g.1, if g.2.ctx == ctx then { g.2 with state := 0, current := [], published := [], waiting := [] } else g.2))
      launchQ := d.2.launchQ.filter (fun n => !mine n)
      layerQ := d.2.layerQ.filter (fun q => q.1 != ctx)
      waitingSet := d.2.waitingSet.filter (fun w => !(if w.1 = 0 then mine w.2 else blk w.2))
      shadow := if d.2.shadow == some ctx then none else d.2.shadow
      shadowMem := d.2.shadowMem.filter (fun p => !blk p.1) }))
    fills := s.fills.filter (fun f => !blk f.2.bid)
    issues := s.issues.filter (fun i => !blk i.2.bid)
    blocks := s.blocks.filter (fun b => b.2.ctx != ctx)
    nodes := s.nodes.filter (fun n => n.2.ctx != ctx)
    entries := s.entries.filter (fun e => e.2.ctx != ctx) }

/-- A Swapped context swapped in when another has ended (R385): its dies have room for it, or a weaker context makes it. (DEDUCED, log 94) -/
def State.swapBack (s : State) (id : Nat) (c : Ctx) : State :=
  if c.dies.all (fun d => !s.ctxFull id d || (s.weakest d c.prio).isSome) then
    (s.modCtx id (fun y => { y with state := .swappingIn })).autoSwap c
  else s

/-- TEARDOWN_DONE (R381, R382, R385): the rest of the teardown, and the Swapped contexts of the same dies swapped in by PRIO, one after another. -/
def execTeardownDone (ctx : Nat) (s : State) : Host.Outcome State Fault Refusal :=
  match s.ctxs.get? ctx with
  | none => .next s
  | some c =>
    if c.state ≠ .ending || !s.drained ctx then .next s
    else
      let s1 := (c.layers.map (fun l => l.1)).foldl (fun s l => s.endLayer ctx l) s
      let s2 := (s1.dropCtxLines ctx).clearCtx ctx
      let s3 := (s2.writeStatus c.recDie c.recPa c.cause).modCtx ctx (fun x => { x with
        state := .ended, imap := [], kernels := [], saveUsed := [], rlogUsed := [], groups := [] })
      let back := (s3.ctxs.filter (fun x => x.2.state == .swapped && x.2.dies.any (fun d => c.dies.contains d))).insertionSort
        (fun a b => decide (b.2.prio ≤ a.2.prio))
      .next (back.foldl (fun s x => s.swapBack x.1 x.2) s3)

end Sys2Proof.Machine
end

