-- ==== Sys2Proof/Machine/Links.lean ====
section
/-! DEFINITION. The rings of the package as they break and wrap (R16, R26, R227, R405). Bridge b joins die b and die b + 1. -/

namespace Sys2Proof.Machine

/-! ### The words of the surviving dies (R26) -/

/-- RING and BREAK written on every surviving die. -/
def State.setRing (s : State) (ring brk : Nat) : State :=
  { s with dies := s.dies.map (fun (d : Nat × Die) => (d.1, if d.2.lost then d.2 else { d.2 with ring := ring, brk := brk })) }

/-- RING and BREAK as the lowest surviving die has them. -/
def State.ringWord (s : State) : Nat × Nat :=
  match s.dies.find? (fun d => !d.2.lost) with
  | some d => (d.2.ring, d.2.brk)
  | none => (0, 0)

/-- Every context that meets a condition ends with DIE_LOST. -/
def State.endLost (s : State) (p : Ctx → Bool) : State :=
  (s.ctxs.filter (fun c => p c.2)).foldl (fun s c => s.beginEnding c.1 0x0903) s

/-- The rings are split: every context of the package ends (R405). -/
def State.splitRing (s : State) : State := { s with ring := .split }.endLost (fun _ => true)

/-! ### A lost die (R227) -/

/-- The greater of two counters (R222). -/
def counterMax (a b : Word) : Word := if counterGe a b then a else b

/-- A held request waits on the component of a die: its home has not applied what its stamp names. -/
def State.waitsOn (s : State) (d : Nat) (r : Req) : Bool :=
  r.stage == .held && !counterGe ((s.die r.home).vc.getD d 0) (r.stamp.getD d 0)

/-- The requests that a die's loss ends: those of its cores, those for its memory and its host port, and held ones that wait on its
component. -/
def State.lostReq (s : State) (d : Nat) (r : Req) : Bool := r.die == d || r.home == d || s.waitsOn d r

/-- A request discarded: a survivor's that waited on the lost die's component is logged, and its counter no longer counts it; one of RLD, RST or
RATM finds its target down (R203, R229). (DEDUCED, log 111) -/
def State.discardReq (s : State) (d id : Nat) (r : Req) : State :=
  let s0 := if r.die != d && r.home != d then s.logReq r 0x0903 r.va else s
  if r.remote && r.die != d then s0.denyReq id r 0x0701 else (s0.dropReq id).issueDone r.issue

/-- A sequenced message between survivors waits on the component of a lost die. -/
def State.msgWaits (s : State) (d : Nat) (m : SeqMsg) : Bool :=
  m.src != d && m.dst != d && !counterGe ((s.die m.dst).vc.getD d 0) (m.stamp.getD d 0)

/-- A survivor discards what it holds of a message: the bytes, and its copies of the line, which miss them; the count that later messages of the
sender rest on stays. (DEDUCED, log 111) -/
def State.discardMsg (s : State) (id : Nat) (m : SeqMsg) : State :=
  { s with msgs := s.msgs.put id { m with data := [] } }.dropGuests m.dst (fun g => g.home == m.src && g.pa == m.pa / 1024)

/-- The messages that a survivor holds for the lost die's component discarded, and the loss logged for the contexts resident on it.
(DEDUCED, log 111) -/
def State.discardMsgs (s : State) (d : Nat) : State :=
  let held := s.msgs.filter (fun m => s.msgWaits d m.2)
  let s1 := held.foldl (fun s m => s.discardMsg m.1 m.2) s
  (((held.map (fun m => m.2.dst)).dedup).flatMap (fun k => (s.residentCtxs k).map (fun c => (c.1, k)))).foldl
    (fun s c => s.log c.1 { cause := 0x0903, die := c.2, flags := 8, addr := d }) s1

/-- The newest value of a die's component that a survivor or a message under way knows. (DEDUCED, log 111) -/
def State.knownOf (s : State) (d : Nat) : Word :=
  let seen := (s.dies.filter (fun x => !x.2.lost)).flatMap (fun x => [x.2.vc.getD d 0, x.2.seen.getD d 0])
  (seen ++ s.msgs.map (fun m => m.2.stamp.getD d 0)).foldl counterMax ((s.die d).vc.getD d 0)

/-- What is under way to, from or because of a lost die is discarded, and no survivor waits for its messages any more. -/
def State.dropLost (s : State) (d : Nat) : State :=
  let s1 := (s.reqs.filter (fun r => s.lostReq d r.2)).foldl (fun s r => s.discardReq d r.1 r.2) (s.discardMsgs d)
  let on := fun (bid : Nat) => match s.blocks.get? bid with | some b => b.die == d | none => false
  let s2 := { s1 with
    msgs := s1.msgs.filter (fun m => m.2.src != d && m.2.dst != d)
    additions := s1.additions.filter (fun a => !on a.2.src && !on a.2.dst)
    pairs := s1.pairs.filter (fun p => p.1 / 8192 != d) }
  let top := s2.knownOf d
  { s2 with dies := s2.dies.map (fun (x : Nat × Die) => (x.1, if x.2.lost then x.2 else { x.2 with vc := x.2.vc.set d top })) }

/-! ### The transitions (R405) -/

/-- The rings after a loss (R405): `ring` says whether a bridge (1) or a die (2) was lost, `n` which. A second loss while they wrap splits them, and the
configuration words then show the first break. -/
def State.ringLoss (s : State) (ring n : Nat) : State :=
  match s.ring with
  | .whole => { s with ring := .wrapping ring n }
  | .wrapping r b => (s.setRing r b).splitRing
  | .wrapped =>
    let (r, b) := s.ringWord
    if ring = 2 && r == 1 && (n == b || n == (b + 1) % 8) then s.setRing 2 n else s.splitRing
  | .split => s

/-- A bridge that is dead already. -/
def State.bridgeDead (s : State) (b : Nat) : Bool :=
  match s.ring with
  | .whole => false
  | .wrapping ring n => deadBridge ring n b
  | .wrapped => deadBridge s.ringWord.1 s.ringWord.2 b
  | .split => false

/-- A bridge lost. (DEDUCED, log 111) -/
def State.loseBridge (s : State) (b : Nat) : State := if 8 ≤ b || s.bridgeDead b then s else s.ringLoss 1 b

/-- A die lost: the contexts whose partition held it end (R227). (DEDUCED, log 111) -/
def State.loseDie (s : State) (d : Nat) : State :=
  if 8 ≤ d || (s.die d).lost then s
  else
    let s1 := s.modDie d (fun x => { x with lost := true })
    ((s1.ringLoss 2 d).dropLost d).endLost (fun c => c.dies.contains d)

/-- The wrap that is under way completes (R26, R227, R405): the words change, held traffic goes on in order, and the event is logged. -/
def State.wrapDone (s : State) : State :=
  match s.ring with
  | .wrapping ring n =>
    let s1 := { s with ring := .wrapped }.setRing ring n
    let cause : Half := if ring = 1 then 0x0902 else 0x0903
    ((s1.liveDies.flatMap s1.residentCtxs).map (fun c => (c.1, c.2.first))).dedup.foldl
      (fun s c => s.log c.1 { cause := cause, die := c.2, flags := 8, addr := n }) s1
  | _ => s

/-- BRIDGE_LOST (R405). -/
def execBridgeLost (bridge : Nat) (s : State) : Host.Outcome State Fault Refusal := .next (s.loseBridge bridge)

/-- DIE_LOST (R227, R405). -/
def execDieLost (die : Nat) (s : State) : Host.Outcome State Fault Refusal := .next (s.loseDie die)

/-- WRAP_COMPLETE (R26, R227, R405). -/
def execWrapComplete (s : State) : Host.Outcome State Fault Refusal := .next s.wrapDone

end Sys2Proof.Machine
end

