-- ==== Sys2Proof/Machine/Memory.lean ====
section
/-! DEFINITION. What comes about in the memory system by itself: requests arriving and applied (R182, R212, R224), sequenced messages
(R225), closes of phases (R220), fills landing (R193), bay lines filled (R182), ECC errors (R184, R469) and flushing reads (R230). -/

namespace Sys2Proof.Machine

/-- BAY_REQUEST_ARRIVAL (R182, R212, R220, R224). -/
def execBayRequestArrival (req : Nat) (s : State) : Host.Outcome State Fault Refusal := .next (s.reqArrival req)

/-- UNSEQUENCED_REQUEST_APPLY (R224): a held request is applied once the home's clock covers its stamp; one of RLD, RST or RATM to a die that is
lost finds its target down (R203). -/
def execUnsequencedRequestApply (req : Nat) (s : State) : Host.Outcome State Fault Refusal :=
  match s.reqs.get? req with
  | none => .next s
  | some r =>
    if r.stage = .held && (s.die r.home).lost then .next (if r.remote then s.denyReq req r 0x0701 else s)
    else if r.stage = .held && (s.die r.home).vc.covers r.stamp && !s.blockedReq req r then .next (s.performAt req r)
    else .next s


/-- A sequenced message may be applied at its die (R225), where no break of rings that are Wrapping holds it (R405). -/
def State.seqReady (s : State) (m : SeqMsg) : Bool :=
  let vc := (s.die m.dst).vc
  !s.barred m.src m.dst && vc.getD m.src 0 == m.stamp.getD m.src 0 - 1
    && (List.range 8).all (fun k => k == m.src || counterGe (vc.getD k 0) (m.stamp.getD k 0))

/-- SEQUENCED_MESSAGE_APPLY (R225): the guest bytes are written, but in a sector that was fetched after the write (R213), and the die's clock
takes the stamp's component. -/
def execSequencedMessageApply (msg : Nat) (s : State) : Host.Outcome State Fault Refusal :=
  match s.msgs.get? msg with
  | none => .next s
  | some m =>
    if !s.seqReady m then .next s
    else
      let s1 := { s with msgs := s.msgs.erase msg }
      .next (s1.modDie m.dst (fun x => { x with
        vc := x.vc.set m.src (m.stamp.getD m.src 0)
        guests := x.guests.map (fun g =>
          if g.home == m.src && g.pa == m.pa / 1024 then
            g.update (m.pa % 1024) m.data m.stamp m.op m.clean (fun q => counterGe (q.stamp.getD m.src 0) (m.stamp.getD m.src 0))
          else g) }))

/-- PHASE_CLOSE_COMPLETE (R220): the oldest close of a core completes when every bay's arrivals match. -/
def execPhaseCloseComplete (die core : Nat) (s : State) : Host.Outcome State Fault Refusal :=
  match (s.core die core).closes with
  | [] => .next s
  | q :: _ => if s.phaseMatched die core q.phase then .next (s.completeClose die core q.phase q.serial) else .next s

/-- FILL_LAND (R193). -/
def execFillLand (fill elem : Nat) (s : State) : Host.Outcome State Fault Refusal := .next (s.landFill fill elem)

/-- BAY_LINE_FILL (R182): the sectors that were asked for are valid. -/
def execBayLineFill (die line : Nat) (s : State) : Host.Outcome State Fault Refusal :=
  if (s.line die (line * 1024)).wanted = 0 then .next s
  else .next (s.modLine die (line * 1024) (fun l => { l with valid := l.valid ||| l.wanted, wanted := 0 }))

/-- An uncorrectable error of a die counted (R469). -/
def State.countUecc (s : State) (die : Nat) : State := s.modDie die (fun x => { x with uecc := x.uecc + 1 })

/-- The sector of a guest line that holds an address poisoned. -/
def Guest.poisonAt (g : Guest) (pa : Nat) : Guest :=
  { g with secs := g.secs.map (fun (p : Nat × GSector) => if p.1 == pa % 1024 / 128 then (p.1, { p.2 with poison := true }) else p) }

/-- A clean guest copy of a sector stands at a die. -/
def Die.cleanGuest (x : Die) (home pa : Nat) : Bool :=
  (x.guestsOf home pa).any (fun g => match g.sector pa with | some q => !q.poison | none => false)

/-- ECC_ERROR (R184, R185, R469): a sector of a die's memory, as HBM or its bay holds it, or of a guest copy, as the bay array or the
transfer left it, is poisoned and counted; or a line of a window is poisoned in the core store. -/
def execEccError (die : Nat) (place : EccPlace) (s : State) : Host.Outcome State Fault Refusal :=
  match place with
  | .memory pa =>
    if die < 8 && pa < (s.die die).cap && !s.poisoned die pa then
      .next ({ s with poison := physKey die pa / 128 :: s.poison }.countUecc die)
    else .next s
  | .guest home pa =>
    if (s.die die).cleanGuest home pa then
      .next ((s.modDie die (fun x => { x with
        guests := x.guests.map (fun g => if g.home == home && g.pa == pa / 1024 then g.poisonAt pa else g) })).countUecc die)
    else .next s
  | .window bid line =>
    match s.blocks.get? bid with
    | none => .next s
    | some b =>
      if b.state == .resident && b.die == die && decide (line * 128 < b.scratch) && !b.winPoison.contains line then
        .next (s.modBlock bid (fun b => { b with winPoison := line :: b.winPoison }))
      else .next s

/-- CORRECTED_ECC_ERROR (R469): CECC counts it. -/
def execCorrectedEccError (die : Nat) (s : State) : Host.Outcome State Fault Refusal :=
  .next (if die < 8 then s.modDie die (fun x => { x with cecc := x.cecc + 1 }) else s)

/-- FLUSHING_READ_RETURN (R230): the flushing reads of a port return in the order in which they were sent. -/
def execFlushingReadReturn (port flush : Nat) (s : State) : Host.Outcome State Fault Refusal :=
  .next (if (s.port port).flushes.head? = some flush then s.modPort port (fun h => { h with flushes := h.flushes.tail }) else s)

end Sys2Proof.Machine
end

