-- ==== Sys2Proof/Machine/Crypto.lean ====
section
/-! DEFINITION. The functions that R455, R463 and R464 name: SHA-256 (FIPS 180-4), HMAC (RFC 2104), and the signature RSASSA-PKCS1-v1_5
(RFC 8017). -/

namespace Sys2Proof.Machine

/-! ### SHA-256

The standard takes its constants from the square and cube roots of the primes; so does this text. -/

/-- The largest number whose `k`-th power is at most `n`, among those below 2^36. -/
def rootBelow (k n : Nat) : Nat :=
  (List.range 36).foldr (fun b r => if (r + 2 ^ b) ^ k ≤ n then r + 2 ^ b else r) 0

/-- The primes up to 311, the sixty-fourth of them. -/
def shaPrimes : List Nat :=
  (List.range 312).filter (fun p => decide (2 ≤ p) && (List.range 18).all (fun q => decide (q < 2) || decide (p ≤ q) || p % q != 0))

/-- The first 32 bits after the point of the `k`-th root of `p`. -/
def rootFraction (k p : Nat) : Word := BitVec.ofNat 32 (rootBelow k (p * 2 ^ (32 * k)))

/-- Where the hash begins: the square roots of the first eight primes. -/
def shaStart : List Word := (shaPrimes.take 8).map (rootFraction 2)

/-- The constants of the sixty-four rounds: the cube roots. -/
def shaRounds : List Word := shaPrimes.map (rootFraction 3)

/-- The exclusive or of a word rotated right by each amount of a list. -/
def rotations (w : Word) (amounts : List Nat) : Word := amounts.foldl (fun z n => z ^^^ w.rotateRight n) 0

/-- One round on the eight working words, given its constant and schedule word already added. -/
def shaRound : List Word → Word → List Word
  | [a, b, c, d, e, f, g, h], kw =>
    let t := h + rotations e [6, 11, 25] + (g ^^^ (e &&& (f ^^^ g))) + kw
    [t + rotations a [2, 13, 22] + ((a &&& b) ||| (c &&& (a ||| b))), a, b, c, d + t, e, f, g]
  | l, _ => l

/-- The unsigned value of big-endian bytes. -/
def beNat (bs : List Byte) : Nat := leNat bs.reverse

/-- `n` big-endian bytes of a number. -/
def beBytes (n x : Nat) : List Byte := (leBytes n x).reverse

/-- The message schedule drawn out by `n` words from its last sixteen, oldest first. -/
def shaDraw : Nat → List Word → List Word
  | 0, _ => []
  | n + 1, last =>
    let next := last.headD 0 + (rotations (last.getD 1 0) [7, 18] ^^^ (last.getD 1 0) >>> 3) + last.getD 9 0
      + (rotations (last.getD 14 0) [17, 19] ^^^ (last.getD 14 0) >>> 10)
    next :: shaDraw n (last.drop 1 ++ [next])

/-- The sixteen words of a block. -/
def shaWords (block : List Byte) : List Word := (List.range 16).map (fun i => BitVec.ofNat 32 (beNat ((block.drop (4 * i)).take 4)))

/-- One block of 64 bytes. -/
def shaBlock (st : List Word) (block : List Byte) : List Word :=
  let first := shaWords block
  let mixed := (List.zipWith (· + ·) shaRounds (first ++ shaDraw 48 first)).foldl shaRound st
  List.zipWith (· + ·) st mixed

/-- The message with its padding: a one bit, zeros, and its length in bits. -/
def shaPad (m : List Byte) : List Byte :=
  m ++ 0x80 :: List.replicate ((119 - m.length % 64) % 64) 0 ++ beBytes 8 (8 * m.length)

/-- SHA-256. -/
def sha256 (m : List Byte) : List Byte :=
  let p := shaPad m
  let st := (List.range (p.length / 64)).foldl (fun st i => shaBlock st ((p.drop (64 * i)).take 64)) shaStart
  st.flatMap (fun w => beBytes 4 w.toNat)

/-- HMAC-SHA-256. -/
def hmac256 (key m : List Byte) : List Byte :=
  let k0 := if key.length ≤ 64 then key else sha256 key
  let k := k0 ++ List.replicate (64 - k0.length) 0
  sha256 (k.map (fun b => b ^^^ 0x5C) ++ sha256 (k.map (fun b => b ^^^ 0x36) ++ m))

/-! ### RSASSA-PKCS1-v1_5 -/

/-- A power modulo a number; `n` bits of the exponent. -/
def powMod (m : Nat) : Nat → Nat → Nat → Nat
  | 0, _, _ => 1 % m
  | n + 1, b, e =>
    let r := powMod m n (b * b % m) (e / 2)
    if e % 2 = 1 then r * b % m else r

/-- The encoded message of 384 bytes over a SHA-256 hash. -/
def pkcs1 (hash : List Byte) : List Byte :=
  [0x00, 0x01] ++ List.replicate 330 0xFF ++ [0x00, 0x30, 0x31, 0x30, 0x0d, 0x06, 0x09, 0x60, 0x86, 0x48, 0x01, 0x65, 0x03, 0x04, 0x02, 0x01,
    0x05, 0x00, 0x04, 0x20] ++ hash

/-- A signature of 384 bytes verifies under a modulus and the exponent 65,537. -/
def rsaVerify (modulus : Nat) (msg sig : List Byte) : Bool :=
  decide (1 < modulus) && decide (beNat sig < modulus) && powMod modulus 17 (beNat sig) 65537 == beNat (pkcs1 (sha256 msg))

/-- The signature of a message under a key: modulus and private exponent. -/
def rsaSign (key : Nat × Nat) (msg : List Byte) : List Byte :=
  beBytes 384 (powMod key.1 3072 (beNat (pkcs1 (sha256 msg))) key.2)

end Sys2Proof.Machine
end

