-- ==== Sys2Proof/Machine/System.lean ====
section
/-! DEFINITION. Reset and bring-up (R453 to R456), configuration space (R457, R458), features (R461, R462), the mailbox (R459, R460),
attestation (R463, R464), BAR2 and CXL.cache at the host ports (R435, R436), and freeze (R470). -/

namespace Sys2Proof.Machine

/-! ### The image (R455) -/

/-- LENGTH of an image. -/
def imageLen (img : List Byte) : Nat := leNat ((img.drop 8).take 8)

/-- SVN of an image. -/
def imageSvn (img : List Byte) : Nat := leNat ((img.drop 4).take 4)

/-- The signature of an image verifies, its reserved bytes are zero, and its key is the fused one (R455). (DEDUCED, log 104) -/
def imageSigned (img : List Byte) : Bool :=
  let modulus := (img.drop 0x40).take 384
  decide (0x400 ≤ imageLen img) && decide (imageLen img ≤ 2 ^ 26) && decide (imageLen img ≤ img.length)
    && sha256 modulus == Config.keyHash
    && rsaVerify (leNat modulus) (img.take 0x1C0 ++ (img.take (imageLen img)).drop 0x340) ((img.drop 0x1C0).take 384)
    && ((img.drop 0x10).take 48).all (fun b => b == 0) && ((img.drop 0x340).take 192).all (fun b => b == 0)

/-- The failure code of an image: 0 where it verifies, 3 SIGNATURE, 4 ROLLBACK. -/
def imageCode (img : List Byte) (rollback : Nat) : Nat :=
  if !imageSigned img then 3 else if imageSvn img < rollback then 4 else 0

/-- The measurement of an image (R463). -/
def imageMeasure (img : List Byte) : List Byte := sha256 (img.take (imageLen img))

/-- The staged image (R456). (DEDUCED, log 104) -/
def State.stagedImage (s : State) : List Byte := s.staging.readList 0 (min (s.staging.readNat 8 8) (2 ^ 26 + 1))

/-! ### Bring-up (R454) -/

/-- Step 1: a port whose PHY does not train has its link down. (DESIGN CHOICE, log 7) -/
def State.trainLinks (s : State) : State :=
  { s with ports := s.ports.map (fun (p : Nat × HostPort) => (p.1, { p.2 with linkUp := Config.training s.tick (40 + p.1) != 0 })) }

/-- Step 2: the dies whose self-test fails. (DESIGN CHOICE, log 7) -/
def State.testedOut (s : State) : List Nat := (List.range 8).filter (fun d => Config.training s.tick (8 + d) == 0)

/-- Step 4: the channels of a die that work and train; at least one does on each of its two HBM stacks (R17, R23). (DESIGN CHOICE,
log 7) -/
def trainedChans (fused found : Dword) : Dword :=
  let low := (fused &&& found).setWidth 32
  let high := (fused &&& found) >>> 32
  if low = 0 ∨ high = 0 then fused else fused &&& found

/-- Step 4 on one die: the channels, and the layer pool's reset value that follows from them (R458). -/
def Die.trainChans (x : Die) (f : Fuses) (tick d : Nat) : Die :=
  let ch := trainedChans (f.chans.getD d 0) (Config.training tick d)
  if x.lost then x else { x with chans := ch, lpool := BitVec.ofNat 32 (capOf (chanCount ch) / 4 / 65536) }

/-- Step 6 on one die: the widths of its Petixa ports. -/
def Die.trainPorts (x : Die) (f : Fuses) (tick d : Nat) : Die :=
  let width := fun (p : Nat) => min (f.px.getD p 0) ((Config.training tick (16 + p)).toNat % 3)
  if x.lost then x else { x with pxa := width (2 * d), pxb := width (2 * d + 1) }

/-- Every die changed. -/
def State.mapDies (s : State) (f : Nat → Die → Die) : State := { s with dies := s.dies.map (fun (d : Nat × Die) => (d.1, f d.1 d.2)) }

/-- Step 5: the bridges that do not train. -/
def State.untrained (s : State) : List Nat := (List.range 8).filter (fun b => Config.training s.tick (32 + b) == 0)

/-- The state of both mailboxes, with the failure that a step of the bring-up left (R454, R459). (DEDUCED, log 102) -/
def State.setMailboxes (s : State) (st code : Nat) : State :=
  { s with ports := s.ports.map (fun (p : Nat × HostPort) => (p.1, { p.2 with mailbox := { p.2.mailbox with state := st, code := code } })) }

/-- Step 3 (R455): the image is verified; the first boot that verifies one raises the rollback counter to its SVN. -/
def State.verifyImage (s : State) (first : Bool) : State :=
  let code := imageCode s.flash s.fuses.rollback
  if code ≠ 0 then s.setMailboxes 3 code
  else if first then { s with fuses := { s.fuses with rollback := max s.fuses.rollback (imageSvn s.flash) } } else s

/-- Step 7 (R463): the image is measured, or the measurement fails, with a code that the spec does not give. (DESIGN CHOICE, log 7) -/
def State.measure (s : State) : State :=
  if Config.training s.tick 48 = 0 then s.setMailboxes 3 (1 + (Config.training s.tick 49).toNat % 5)
  else { s with measurement := imageMeasure s.flash, svn := imageSvn s.flash }

/-- A step of R454, by its number; after a failure that leads to recovery no further step runs. `first` says that this is a boot. -/
def State.bringStep (first : Bool) (s : State) (k : Nat) : State :=
  if (s.port 0).mailbox.state = 3 then s
  else match k with
    | 1 => s.trainLinks
    | 2 => s.testedOut.foldl (fun s d => (s.loseDie d).wrapDone) s
    | 3 => s.verifyImage first
    | 4 => s.mapDies (fun d x => x.trainChans s.fuses s.tick d)
    | 5 => s.untrained.foldl (fun s b => (s.loseBridge b).wrapDone) s
    | 6 => s.mapDies (fun d x => x.trainPorts s.fuses s.tick d)
    | 7 => s.measure
    | 8 => { s with offer := s.fuses.offer % 2 ^ 7 }.setMailboxes 1 0
    | _ => s

/-- The first `n` of the steps of R454 from step `k` on, from a state that a reset has cleared. (DEDUCED, log 101) -/
def State.bringSteps (s : State) (first : Bool) (k n : Nat) : State := ((List.range n).map (fun i => k + i)).foldl (State.bringStep first) s

/-- Steps 1 to 8 of R454: a boot. (DEDUCED, log 101) -/
def State.bringUp (s : State) : State := s.bringSteps true 1 8

/-! ### Resets (R453) -/

/-- Everything that a reset clears, cleared: fuses, flash and the rollback counter stay, the host's own memory is no part of the package, and time
goes on.
(DEDUCED, log 101; DEDUCED, log 105) -/
def State.cleared (s : State) : State :=
  { State.resetWith s.fuses s.flash with
    tick := s.tick, schedule := s.schedule
    ports := [(0, { HostPort.reset with mem := (s.port 0).mem }), (1, { HostPort.reset with mem := (s.port 1).mem })] }

/-- A reset of the whole package with its bring-up. (DEDUCED, log 101; DEDUCED, log 105) -/
def State.rebooted (s : State) : State := s.cleared.bringUp

/-- COLD_RESET (R453, R454). -/
def execColdReset (s : State) : Host.Outcome State Fault Refusal := .next s.rebooted

/-- WARM_RESET (R453, R454). -/
def execWarmReset (s : State) : Host.Outcome State Fault Refusal := .next s.rebooted

/-- PORT1_RESET (R453): only the link and the mailbox of port 1, which is then as ready as port 0's. -/
def execPort1Reset (s : State) : Host.Outcome State Fault Refusal :=
  let st := (s.port 0).mailbox.state
  .next (s.modPort 1 (fun h => { HostPort.reset with
    mem := h.mem, mailbox := { Mailbox.reset with state := if st = 2 then 1 else if st = 4 then 3 else st } }))

/-- POWER_FAILURE (R453, R456): all but the fuses and the flash is lost. Where the flash was being overwritten with a staged image, it
holds the bytes written by then. -/
def execPowerFailure (flashBytes : Nat) (s : State) : Host.Outcome State Fault Refusal :=
  let img := s.stagedImage
  let torn := s.ports.any (fun p => p.2.mailbox.staged) && decide (flashBytes < img.length) && imageCode img s.fuses.rollback == 0
    && decide (0 < flashBytes)
  .next (State.cleared { s with flash := if torn then img.take flashBytes else s.flash })

/-! ### Configuration space (R457) -/

/-- The die configuration word (R25). -/
def Die.configWord (x : Die) (d : Nat) : Nat :=
  x.spare % 16 * 2 ^ 48 + x.ring % 4 * 2 ^ 46 + x.brk % 8 * 2 ^ 43 + x.pxb % 4 * 2 ^ 41 + x.pxa % 4 * 2 ^ 39
    + (if d = 0 || d = 4 then 2 ^ 38 else 0) + d % 8 * 2 ^ 35 + chanCount x.chans * 2 ^ 7 + x.ncore

/-- DUTY (R469): issuing cycles × 255 ÷ all cycles, since the reset; its reset value while no cycle has passed. (DESIGN CHOICE, log 8) -/
def Die.duty (x : Die) : Nat := if x.cycle = 0 then 255 else min 255 (x.issuing * 255 / x.cycle.toNat)

/-- The telemetry word (R469). (DESIGN CHOICE, log 8) -/
def Die.telemetry (x : Die) : Nat :=
  x.power.toNat / 2 ^ 40 % 2 ^ 24 * 2 ^ 40 + x.duty * 2 ^ 32 + min x.cecc 0xFFFF * 2 ^ 16 + min x.uecc 0xFFFF

/-- The island word (R468). -/
def Die.islandWord (x : Die) : Nat := (x.islands.zipIdx.map (fun p => p.1 % 16 * 16 ^ p.2)).sum

/-- The code of a context's state (R378). -/
def CtxState.code : CtxState → Nat
  | .free => 0
  | .starting => 1
  | .running => 2
  | .swappingOut => 3
  | .swapped => 4
  | .swappingIn => 5
  | .ending => 6
  | .ended => 7

/-- An aligned dword of a die page (R457); a lost die's reads all ones. -/
def State.dieDword (s : State) (d off : Nat) : Dword :=
  let x := s.die d
  if x.lost then BitVec.allOnes 64
  else if off = 0 then x.sites
  else if off = 8 then x.chans
  else if off = 0x10 then BitVec.ofNat 64 (x.configWord d)
  else if off = 0x18 then BitVec.ofNat 64 x.telemetry
  else if off = 0x20 then BitVec.ofNat 64 x.islandWord
  else if 0x40 ≤ off && off < 0x80 then BitVec.ofNat 64 (leNat ((List.range 8).map (fun i => BitVec.ofNat 8 (x.bayMap.getD (off - 0x40 + i) 0))))
  else if off = 0x80 then x.lpool.setWidth 64
  else if 0x100 ≤ off && off < 0x200 then
    let k := (off - 0x100) / 16
    if off % 16 = 0 then (s.slotOf d k).start
    else BitVec.ofNat 64 ((s.slotState d k).2.toNat * 256 + (s.slotState d k).1.code)
  else 0

/-- An aligned dword of a port's BAR0 (R457). -/
def State.bar0Dword (s : State) (port off : Nat) : Dword :=
  let m := (s.port port).mailbox
  if off < 0x2000000 then s.dieDword (off / 0x400000) (off % 0x400000)
  else if off = 0x2000000 then BitVec.ofNat 64 (m.tag.toNat * 256 + m.op.toNat)
  else if off = 0x2000008 then BitVec.ofNat 64 (m.code * 2 ^ 16 + m.tagDone.toNat * 256 + m.state)
  else if off = 0x2000010 then m.arg0
  else if off = 0x2000018 then m.arg1
  else if 0x2001000 ≤ off && off < 0x2002000 then BitVec.ofNat 64 (m.data.readNat (off - 0x2001000) 8)
  else if off = 0x2010000 then s.offer.setWidth 64
  else if off = 0x2010008 then (s.offer >>> 64).setWidth 64
  else if off = 0x2010010 then (if s.accepted then s.accept.setWidth 64 else s.acceptLow)
  else if off = 0x2010018 then (s.accept >>> 64).setWidth 64
  else if off = 0x2010020 then BitVec.ofNat 64 (s.pmax * 2 ^ 32 + s.tol.toNat)
  else if off = 0x2010028 then BitVec.ofNat 64 (s.pchanges.toNat * 2 ^ 32 + s.pstate)
  else 0

/-- The die of a host port (R18). -/
def portDie (port : Nat) : Nat := if port = 0 then 0 else 4

/-- A host port takes requests: it is one of the two, its link is up, and its die works (R470 stops the rest before it comes here). -/
def State.hostUp (s : State) (port : Nat) : Bool := decide (port < 2) && (s.port port).linkUp && !(s.die (portDie port)).lost

/-- A word of the bay map written (R361). -/
def State.writeBayMap (s : State) (d word : Nat) (v : Dword) : State :=
  let x := s.die d
  let m := x.bayMap.zipIdx.map (fun p => if p.2 / 8 = word then bitsOf v.toNat (8 * (p.2 % 8) + 5) (8 * (p.2 % 8)) else p.1)
  if 8 ≤ d || x.lost || x.mapFixed || !(List.range 64).all (fun i => m.contains i) then s else s.modDie d (fun x => { x with bayMap := m })

/-- LPOOL written (R458). -/
def State.writeLpool (s : State) (d : Nat) (v : Dword) : State :=
  let x := s.die d
  let n := v.toNat % 2 ^ 32
  let quiet := (List.range 16).all (fun k => (s.slotState d k).1 == .free || (s.slotState d k).1 == .ended)
  if 8 ≤ d || x.lost || !quiet || x.cap / 65536 < n then s else s.modDie d (fun x => { x with lpool := BitVec.ofNat 32 n })

/-- ACCEPT's upper dword written (R461, R462): the features are committed, once, after OFFER has become valid.
(DEDUCED, log 103) -/
def State.commitAccept (s : State) (v : Dword) : State :=
  if s.accepted || (s.port 0).mailbox.state ≠ 1 then s
  else
    let a := (v.setWidth 128 <<< 64 ||| s.acceptLow.setWidth 128) &&& s.offer
    { s with
      accept := a, accepted := true
      dies := if a.getLsbD 2 then s.dies else s.dies.map (fun (d : Nat × Die) => (d.1, { d.2 with pxa := 0, pxb := 0 })) }

/-! ### Power states (R465, R466) -/

/-- The exit latency of a state in microseconds (R465). -/
def exitLatency (st : Nat) : Nat :=
  match st with
  | 0 => 0
  | 1 => 2
  | 2 => 40
  | 3 => 400
  | _ => 30000

/-- A state is allowed by PMAX and TOL (R466). -/
def State.powerAllowed (s : State) (st : Nat) : Bool :=
  decide (st ≤ min s.pmax 4) && (s.tol == 0xFFFFFFFF || decide (exitLatency st ≤ s.tol.toNat))

/-- What of a die outlasts state 4 (R467): the registers that only a reset or a write changes, its clocks, slots and replay windows. Its memory and
its arrays do not. (DEDUCED, log 109) -/
def Die.outlast (x old : Die) : Die :=
  { x with
    bayMap := old.bayMap, mapFixed := old.mapFixed, power := old.power, issuing := old.issuing, cecc := old.cecc, uecc := old.uecc
    cycle := old.cycle, vc := old.vc, seen := old.seen, ctxSlots := old.ctxSlots, replay := old.replay }

/-- The package in state 4 as it starts to wake: only the host PHYs are on, and what a held request may still read stands (R465, R467).
(DEDUCED, log 109) -/
def State.waking (s : State) : State :=
  { s.cleared.mapDies (fun d x => x.outlast (s.die d)) with
    accept := s.accept, accepted := s.accepted, acceptLow := s.acceptLow, pmax := s.pmax, tol := s.tol, pstate := s.pstate
    pchanges := s.pchanges, ctxs := s.ctxs, staging := s.staging, pairs := s.pairs, links := s.links, linkOut := s.linkOut
    hostOut := s.hostOut, hostEp := s.hostEp
    ports := s.ports.map (fun (p : Nat × HostPort) => (p.1, { p.2 with cxl := [], mailbox := { p.2.mailbox with state := 0 } })) }

/-- The package once the steps of a wake from state 4 have run: LPOOL as it stood where the channels still are the same, the ports of a feature that
was not accepted untrained (R462), and a command in progress still in progress. (DEDUCED, log 109) -/
def State.woken (s old : State) : State :=
  let untrain := s.accepted && !s.feature 2
  { s.mapDies (fun d x =>
      let x := if x.chans = (old.die d).chans then { x with lpool := (old.die d).lpool } else x
      if untrain then { x with pxa := 0, pxb := 0 } else x) with
    pstate := 0, pchanges := old.pchanges + 1
    ports := s.ports.map (fun (p : Nat × HostPort) =>
      let m := (old.port p.1).mailbox
      if p.2.mailbox.state = 1 then (p.1, { p.2 with mailbox := { m with state := if m.state = 2 then 2 else 1 } }) else p) }

/-- The package returns to state 0 (R465, R467); from state 4 the steps 2 to 8 of R454 run again and ACCEPT is kept. -/
def State.wake (s : State) : State := if s.pstate < 4 then s.toRun else (s.waking.bringSteps false 2 7).woken s

/-- PWR written (R466, R467). -/
def State.writePwr (s : State) (v : Dword) : State :=
  let s1 := { s with tol := v.setWidth 32, pmax := bitsOf v.toNat 34 32 }
  if s1.powerAllowed s1.pstate then s1 else s1.wake

/-! ### The mailbox (R459, R460) -/

/-- A mailbox changed. -/
def State.modMailbox (s : State) (p : Nat) (f : Mailbox → Mailbox) : State := s.modPort p (fun h => { h with mailbox := f h.mailbox })

/-- A mailbox that is ready takes a command: it is busy with it (R459). -/
def State.mbTake (s : State) (p : Nat) (op tag : Byte) : State :=
  s.modMailbox p (fun m => { m with tag := tag, op := op, state := if m.state = 3 then 4 else 2 })

/-- A command completes with a code, and the mailbox is ready again (R459). (DEDUCED, log 102) -/
def State.mbDone (s : State) (p code : Nat) : State :=
  s.modMailbox p (fun m => { m with code := code, tagDone := m.tag, state := if m.state = 4 then 3 else 1 })

/-- A mailbox takes a command that is written to MBCMD: it is ready, and the port takes requests (R459). -/
def State.mbReady (s : State) (p : Nat) : Bool :=
  let st := (s.port p).mailbox.state
  s.hostUp p && (st == 1 || st == 3)

/-- A mailbox has a command in progress (R459). -/
def State.mbBusy (s : State) (p : Nat) (op tag : Byte) : Bool :=
  let m := (s.port p).mailbox
  decide (p < 2) && !(s.die (portDie p)).lost && (m.state == 2 || m.state == 4) && m.op == op && m.tag == tag

/-- A command comes to its end: the one in progress, or one that a write to MBCMD starts and that completes at once; a write while STATE is 2 or 4, or
not ready, does nothing. In recovery only some run (R459, R460). (DEDUCED, log 102) -/
def State.command (s : State) (p : Nat) (op tag : Byte) (recovery : Bool) (run : State → State) : State :=
  if !s.mbReady p && !s.mbBusy p op tag then s
  else
    let s1 := if s.mbReady p then s.mbTake p op tag else s
    if (s1.port p).mailbox.state = 4 && !recovery then s1.mbDone p 5 else run s1

/-- The die, physical address and length of MEMRD and MEMWR, where they are in range (R460). -/
def State.mbRange (s : State) (p : Nat) : Option (Nat × Nat × Nat) :=
  let m := (s.port p).mailbox
  let d := bitsOf m.arg0.toNat 46 44
  let pa := bitsOf m.arg0.toNat 43 0
  let n := m.arg1.toNat
  if n = 0 || 4096 < n || 2 ^ 47 ≤ m.arg0.toNat || (s.die d).cap < pa + n || (s.die d).lost || pa / 4096 ≠ (pa + n - 1) / 4096 then none
  else some (d, pa, n)

/-- Bytes put into MBDATA from its start. -/
def State.mbData (s : State) (p : Nat) (bytes : List Byte) : State :=
  s.modMailbox p (fun m => { m with data := m.data.writeList 0 (bytes.take 4096) })

/-- MEMRD (R231, R460). (DEDUCED, log 106) -/
def State.mbMemrd (s : State) (p : Nat) : State :=
  match s.mbRange p with
  | none => s.mbDone p 2
  | some (d, pa, n) =>
    let s1 := s.recallRange d pa n
    (s1.mbData p (s1.physRead d pa n)).mbDone p 0

/-- Bytes of a run cut at the lines that they touch. -/
def lineCuts : Nat → Nat → List Byte → List (Nat × List Byte)
  | 0, _, _ => []
  | fuel + 1, pa, data =>
    let k := 1024 - pa % 1024
    if data.isEmpty then [] else (pa, data.take k) :: lineCuts fuel (pa + k) (data.drop k)

/-- Bytes of one line, already written at the home, put into every guest copy of the line and into the messages for it that are under way, so that
none of them brings an older value back (R231). (DEDUCED, log 106) -/
def State.copyLine (s : State) (d pa : Nat) (data : List Byte) : State :=
  let here := fun (home p : Nat) => home == d && p == pa / 1024
  { s with
    dies := s.dies.map (fun (x : Nat × Die) => (x.1, { x.2 with
      guests := x.2.guests.map (fun g => if here g.home g.pa then g.update (pa % 1024) data (s.line d pa).stamp 0 [] (fun _ => false) else g) }))
    msgs := s.msgs.map (fun (m : Nat × SeqMsg) => (m.1,
      if here m.2.src (m.2.pa / 1024) then
        { m.2 with data := m.2.data.zipIdx.map (fun x => if pa ≤ m.2.pa + x.2 then data.getD (m.2.pa + x.2 - pa) x.1 else x.1) }
      else m.2)) }

/-- Bytes written at their home and at every guest copy of their lines (R231). (DEDUCED, log 106) -/
def State.storeEverywhere (s : State) (d pa : Nat) (data : List Byte) : State :=
  (lineCuts (data.length / 1024 + 2) pa data).foldl (fun s c => s.copyLine d c.1 c.2) (s.homeStore d pa data)

/-- MEMWR (R231, R368, R460). (DEDUCED, log 106) -/
def State.mbMemwr (s : State) (p : Nat) : State :=
  match s.mbRange p with
  | none => s.mbDone p 2
  | some (d, pa, n) =>
    let data := (s.port p).mailbox.data.readList 0 n
    (if s.inImageFrame d pa then s else s.storeEverywhere d pa data).mbDone p 0

/-- CFGRD (R460). (DEDUCED, log 106) -/
def State.mbCfgrd (s : State) (p : Nat) : State :=
  let m := (s.port p).mailbox
  if 7 < m.arg0.toNat || m.arg1.toNat % 8 ≠ 0 || 0x400000 ≤ m.arg1.toNat then s.mbDone p 2
  else (s.mbData p (leBytes 8 (s.dieDword m.arg0.toNat m.arg1.toNat).toNat)).mbDone p 0

/-- IMGLOAD (R456, R460). (DEDUCED, log 104) -/
def State.mbImgload (s : State) (p : Nat) : State :=
  let m := (s.port p).mailbox
  let n := m.arg1.toNat
  if n = 0 || 4096 < n || m.arg0.toNat % 4096 ≠ 0 || 2 ^ 26 < m.arg0.toNat + n then s.mbDone p 2
  else if (s.port (1 - p)).mailbox.staged then s.mbDone p 5
  else
    ({ s with staging := s.staging.writeList m.arg0.toNat (m.data.readList 0 n) }.modMailbox p (fun m => { m with staged := true })).mbDone p 0

/-- IMGCOMMIT (R456, R460): the staged image is verified, and only then overwrites the flash. (DEDUCED, log 104) -/
def State.mbImgcommit (s : State) (p : Nat) : State :=
  let code := imageCode s.stagedImage s.fuses.rollback
  if code ≠ 0 then s.mbDone p code
  else
    { s with
      flash := s.stagedImage
      ports := s.ports.map (fun (q : Nat × HostPort) => (q.1, { q.2 with mailbox := { q.2.mailbox with staged := false } })) }.mbDone p 0

/-- CDI of the running image (R463). -/
def State.cdi (s : State) : List Byte := hmac256 Config.uds s.measurement

/-- ATTEST (R464). -/
def State.mbAttest (s : State) (p : Nat) : State :=
  let nonce := (s.port p).mailbox.data.readList 0 32
  let told := s.measurement ++ leBytes 16 s.offer.toNat ++ leBytes 16 s.accept.toNat
  (s.mbData p (told ++ rsaSign (Config.aliasKey s.cdi) (nonce ++ told))).mbDone p 0

/-- CERT (R460, R463). (DEDUCED, log 106) -/
def State.mbCert (s : State) (p : Nat) : State :=
  let put := fun (der : List Byte) => ((s.mbData p der).modMailbox p (fun m => { m with arg1 := BitVec.ofNat 64 der.length })).mbDone p 0
  let which := (s.port p).mailbox.arg0
  if which = 0 then put Config.deviceCert
  else if which = 1 then put (Config.aliasCert s.measurement s.svn)
  else s.mbDone p 2

/-- FREEZE (R462, R470): every clock stops, and MBSTAT is not updated any more: it stays busy. -/
def State.mbFreeze (s : State) (p : Nat) : State :=
  if s.feature 6 then { s with frozen := true } else s.mbDone p 1

/-- A command by its OP (R460). (DEDUCED, log 102) -/
def State.runOp (s : State) (p : Nat) (op tag : Byte) : State :=
  match op.toNat with
  | 0x01 => s.command p op tag false (fun s => s.mbMemrd p)
  | 0x02 => s.command p op tag false (fun s => s.mbMemwr p)
  | 0x03 => s.command p op tag false (fun s => s.mbCfgrd p)
  | 0x10 => s.command p op tag true (fun s => s.mbImgload p)
  | 0x11 => s.command p op tag true (fun s => s.mbImgcommit p)
  | 0x20 => s.command p op tag false (fun s => s.mbAttest p)
  | 0x21 => s.command p op tag true (fun s => s.mbCert p)
  | 0x40 => s.command p op tag false (fun s => s.mbFreeze p)
  | 0x41 => s.command p op tag true State.rebooted
  | _ => s.command p op tag true (fun s => s.mbDone p 1)

/-- MEMRD (R231, R460). -/
def execMemrd (port : Nat) (tag : Byte) (s : State) : Host.Outcome State Fault Refusal :=
  .next (s.command port 0x01 tag false (fun s => s.mbMemrd port))

/-- MEMWR (R231, R460). -/
def execMemwr (port : Nat) (tag : Byte) (s : State) : Host.Outcome State Fault Refusal :=
  .next (s.command port 0x02 tag false (fun s => s.mbMemwr port))

/-- CFGRD (R460). -/
def execCfgrd (port : Nat) (tag : Byte) (s : State) : Host.Outcome State Fault Refusal :=
  .next (s.command port 0x03 tag false (fun s => s.mbCfgrd port))

/-- IMGLOAD (R456, R460). -/
def execImgload (port : Nat) (tag : Byte) (s : State) : Host.Outcome State Fault Refusal :=
  .next (s.command port 0x10 tag true (fun s => s.mbImgload port))

/-- IMGCOMMIT (R456). -/
def execImgcommit (port : Nat) (tag : Byte) (s : State) : Host.Outcome State Fault Refusal :=
  .next (s.command port 0x11 tag true (fun s => s.mbImgcommit port))

/-- ATTEST (R464). -/
def execAttest (port : Nat) (tag : Byte) (s : State) : Host.Outcome State Fault Refusal :=
  .next (s.command port 0x20 tag false (fun s => s.mbAttest port))

/-- CERT (R460). -/
def execCert (port : Nat) (tag : Byte) (s : State) : Host.Outcome State Fault Refusal :=
  .next (s.command port 0x21 tag true (fun s => s.mbCert port))

/-- FREEZE (R462, R470). -/
def execFreeze (port : Nat) (tag : Byte) (s : State) : Host.Outcome State Fault Refusal :=
  .next (s.command port 0x40 tag false (fun s => s.mbFreeze port))

/-- RESET (R453, R460). -/
def execReset (port : Nat) (tag : Byte) (s : State) : Host.Outcome State Fault Refusal :=
  .next (s.command port 0x41 tag true State.rebooted)

/-- A command starts and stays in progress (R459). -/
def startMailbox (port : Nat) (op tag : Byte) (s : State) : Host.Outcome State Fault Refusal :=
  .next (if s.mbReady port then s.mbTake port op tag else s)

/-- The bytes at some positions of MBDATA as another state has them. -/
def State.takeData (s t : State) (p : Nat) (part : List Nat) : State :=
  s.modMailbox p (fun m => { m with data := part.foldl (fun d i => if i < 4096 then d.write i ((t.port p).mailbox.data.read i) else d) m.data })

/-- What a command in progress has applied when it has applied the bytes at some positions (R470). (DEDUCED, log 105) -/
def State.mbPartly (s : State) (p : Nat) (part : List Nat) : State :=
  let m := (s.port p).mailbox
  match m.op.toNat, m.state == 4 with
  | 0x01, false => s.takeData (s.mbMemrd p) p part
  | 0x02, false =>
    (match s.mbRange p with
     | none => s
     | some (d, pa, n) =>
       if s.inImageFrame d pa then s
       else (part.filter (fun i => i < n)).foldl (fun s i => s.storeEverywhere d (pa + i) [m.data.read i]) s)
  | 0x03, false => s.takeData (s.mbCfgrd p) p part
  | 0x10, _ =>
    let t := s.mbImgload p
    { s with staging := (part.filter (fun i => i < m.arg1.toNat)).foldl (fun g i => g.write (m.arg0.toNat + i) (t.staging.read (m.arg0.toNat + i))) s.staging }
  | 0x11, _ =>
    let t := s.mbImgcommit p
    { s with flash := (List.range (max s.flash.length t.flash.length)).map (fun i => if part.contains i then t.flash.getD i 0 else s.flash.getD i 0) }
  | 0x20, false => s.takeData (s.mbAttest p) p part
  | 0x21, _ => s.takeData (s.mbCert p) p part
  | _, _ => s

/-- FREEZE_N asserted while a command is in progress (R470): what it has applied by then stands. -/
def freezeInCommand (port : Nat) (part : List Nat) (s : State) : Host.Outcome State Fault Refusal :=
  let st := (s.port port).mailbox.state
  .next (if 2 ≤ port || (st ≠ 2 && st ≠ 4) then s else { s.mbPartly port part with frozen := true })

/-- FREEZE_N asserted during a bring-up (R454, R470): the part stands as the first `n` steps left it. -/
def freezeInBringUp (n : Nat) (s : State) : Host.Outcome State Fault Refusal :=
  .next { s.cleared.bringSteps true 1 (min n 8) with frozen := true }

/-- FREEZE_N (R470): every clock of the package stops; the state stays as it stands. -/
def execFreezeN (s : State) : Host.Outcome State Fault Refusal := .next { s with frozen := true }

/-! ### Writes of registers (R457) -/

/-- ACCEPT_WRITE (R461). -/
def execAcceptWrite (port : Nat) (value : Dword) (s : State) : Host.Outcome State Fault Refusal :=
  .next (if s.hostUp port then s.commitAccept value else s)

/-- PWR_WRITE (R466, R467). -/
def execPwrWrite (port : Nat) (value : Dword) (s : State) : Host.Outcome State Fault Refusal :=
  .next (if s.hostUp port then s.writePwr value else s)

/-- BAY_MAP_WRITE (R361). -/
def execBayMapWrite (die word : Nat) (value : Dword) (s : State) : Host.Outcome State Fault Refusal := .next (s.writeBayMap die word value)

/-- LPOOL_WRITE (R458). -/
def execLpoolWrite (die : Nat) (value : Dword) (s : State) : Host.Outcome State Fault Refusal := .next (s.writeLpool die value)

/-- An aligned dword of a die page written (R457). -/
def State.writeDie (s : State) (d off : Nat) (v : Dword) : State :=
  if (s.die d).lost then s
  else if 0x40 ≤ off && off < 0x80 then s.writeBayMap d ((off - 0x40) / 8) v
  else if off = 0x80 then s.writeLpool d v
  else if 0x100 ≤ off && off < 0x200 then
    let k := (off - 0x100) / 16
    if off % 16 = 0 then s.ctxStart d k v
    else match bitsOf v.toNat 31 28 with
      | 1 => s.ctxSwapOut d k
      | 2 => s.ctxSwapIn d k
      | 3 => s.ctxEnd d k
      | _ => s
  else s

/-- An aligned dword of a port's BAR0 written, but for MBDATA (R457). (DEDUCED, log 103) -/
def State.writeBar0 (s : State) (port off : Nat) (v : Dword) : State :=
  if off < 0x2000000 then s.writeDie (off / 0x400000) (off % 0x400000) v
  else if off = 0x2000000 then s.runOp port (BitVec.ofNat 8 v.toNat) (BitVec.ofNat 8 (v.toNat / 256))
  else if off = 0x2000010 then s.modMailbox port (fun m => { m with arg0 := v })
  else if off = 0x2000018 then s.modMailbox port (fun m => { m with arg1 := v })
  else if off = 0x2010010 then (if s.accepted then s else { s with acceptLow := v &&& 0x7F })
  else if off = 0x2010018 then s.commitAccept v
  else if off = 0x2010020 then s.writePwr v
  else s

/-- CONFIG_REGISTER_WRITE (R457, R459): MBDATA takes bytes of any width; a register takes one aligned write of eight. The size of BAR2
(R435), which the host programs in PCI configuration space, is written at the offset just past BAR0. -/
def execConfigRegisterWrite (port off : Nat) (data : List Byte) (s : State) : Host.Outcome State Fault Refusal :=
  .next (
    if !s.hostUp port then s
    else if 0x2001000 ≤ off && off + data.length ≤ 0x2002000 then
      s.modMailbox port (fun m => { m with data := m.data.writeList (off - 0x2001000) data })
    else if off % 8 ≠ 0 || data.length ≠ 8 then s
    else if off = 0x4000000 then
      (if 34 ≤ leNat data && leNat data ≤ 40 then s.modPort port (fun h => { h with bar2Bits := leNat data }) else s)
    else s.writeBar0 port off (BitVec.ofNat 64 (leNat data)))

/-- The EP bit of each completion of a read (R435): a completion holds at most 512 bytes and ends at a multiple of 512 of the address.
(DESIGN CHOICE, log 133) -/
def completionMarks (off : Nat) (marks : List Bool) : List Bool :=
  ((marks.zipIdx.map (fun m => (off + m.2) / 512)).dedup).map (fun c => marks.zipIdx.any (fun m => m.1 && (off + m.2) / 512 == c))

/-- The bytes that a read of BAR0 returns (R457): 1 to 8 within one aligned dword, or any of MBDATA. (DESIGN CHOICE, log 132) -/
def State.bar0Bytes (s : State) (port off n : Nat) : List Byte :=
  if 0x2001000 ≤ off && off + n ≤ 0x2002000 then (s.port port).mailbox.data.readList (off - 0x2001000) n
  else if off / 8 = (off + n - 1) / 8 then ((leBytes 8 (s.bar0Dword port (off / 8 * 8)).toNat).drop (off % 8)).take n
  else (List.range n).map (fun i => Config.freeByte s.tick i)

/-- The host reads BAR0 (R457); a frozen part returns no data (R470). -/
def readBar0 (port off n : Nat) (s : State) : Host.Outcome State Fault Refusal :=
  .next (
    if s.frozen then { s with hostOut := [], hostEp := [] }
    else if !s.hostUp port || n = 0 || 4096 < n || 2 ^ 26 < off + n then s
    else { s with hostOut := s.bar0Bytes port off n, hostEp := completionMarks off (List.replicate n false) })

/-- The host stores a byte into its own memory (R230, R436); a line that a bay holds has to be snooped away first (HOST_CXL_SNOOP).
(DESIGN CHOICE, log 6) -/
def storeHost (port addr : Nat) (x : Byte) (s : State) : Host.Outcome State Fault Refusal :=
  .next (if 2 ≤ port || (s.port port).cxl.contains (addr / 64) then s else s.modPort port (fun h => { h with mem := h.mem.put addr x }))

/-! ### BAR2 and CXL.cache (R435, R436) -/

/-- The die of an offset of BAR2. (DEDUCED, log 107) -/
def bar2Die (off : Nat) : Nat := bitsOf off 39 37

/-- The physical address of an offset of BAR2. -/
def bar2Pa (off : Nat) : Nat := bitsOf off 36 0

/-- BAR2 reaches memory at an offset: the die works and the address lies below CAP. (DEDUCED, log 107) -/
def State.bar2Reach (s : State) (off : Nat) : Bool := !(s.die (bar2Die off)).lost && decide (bar2Pa off < (s.die (bar2Die off)).cap)

/-- A write from a port may be applied at the home (R224, R230): the home has applied what the port's die has, and the earlier writes of the port.
(DEDUCED, log 107) -/
def State.bar2Ready (s : State) (port off : Nat) : Bool :=
  let from' := if port = 0 then 0 else 4
  (s.die (bar2Die off)).vc.covers (s.die from').vc && (s.die (bar2Die off)).vc.covers (s.port port).stamp

/-- The stamps of the lines of `n` bytes that a port has written (R230): its later writes follow them. (DEDUCED, log 107) -/
def State.noteBar2 (s : State) (port d pa n : Nat) : State :=
  s.modPort port (fun h => { h with stamp :=
    (List.range ((pa + n - 1) / 1024 - pa / 1024 + 1)).foldl (fun c i => c.join (s.line d ((pa / 1024 + i) * 1024)).stamp) h.stamp })

/-- The pieces of a write applied, page by page: those that reach no memory or an image frame are discarded (R368, R435).
(DEDUCED, log 107) -/
def State.bar2Store (s : State) (port : Nat) : List (Nat × Nat) → List Byte → State
  | [], _ => s
  | (off, n) :: ps, data =>
    let d := bar2Die off
    let pa := bar2Pa off
    let s1 := if s.bar2Reach off && !s.inImageFrame d pa then (s.homeStore d pa (data.take n)).noteBar2 port d pa n else s
    s1.bar2Store port ps (data.drop n)

/-- BAR2_WRITE (R230, R435): applied at the home once the home covers the port's die. -/
def execBar2Write (port off : Nat) (data : List Byte) (s : State) : Host.Outcome State Fault Refusal :=
  let ps := peerPieces (data.length / 65536 + 2) off data.length
  if !s.hostUp port || !s.feature 0 || 2 ^ (s.port port).bar2Bits < off + data.length || !ps.all (fun p => s.bar2Ready port p.1) then .next s
  else .next (s.bar2Store port ps data)

/-- A byte that BAR2 reads, and whether it is poisoned (R435). -/
def State.bar2Byte (s : State) (off : Nat) : Byte × Bool :=
  if !s.feature 0 || !s.bar2Reach off then (0xFF, false)
  else if s.poisoned (bar2Die off) (bar2Pa off) then (0xFF, true)
  else (s.mem.read (physKey (bar2Die off) (bar2Pa off)), false)

/-- BAR2_READ (R435, R462): the bytes go to the host, each completion with its mark of poisoned data; a frozen part returns no data (R470). -/
def execBar2Read (port off n : Nat) (s : State) : Host.Outcome State Fault Refusal :=
  if s.frozen then .next { s with hostOut := [], hostEp := [] }
  else if !s.hostUp port || 2 ^ (s.port port).bar2Bits < off + n || 4096 < n then .next s
  else
    let s1 := (peerPieces 3 off n).foldl (fun (s : State) p =>
      if s.feature 0 && s.bar2Reach p.1 then s.recallRange (bar2Die p.1) (bar2Pa p.1) p.2 else s) s
    let bs := (List.range n).map (fun i => s1.bar2Byte (off + i))
    .next { s1 with hostOut := bs.map (fun b => b.1), hostEp := completionMarks off (bs.map (fun b => b.2)) }

/-- HOST_CXL_SNOOP (R436): the bay that holds the line gives its 64 bytes and holds it no longer. -/
def execHostCxlSnoop (port addr : Nat) (s : State) : Host.Outcome State Fault Refusal :=
  if !s.hostUp port || !(s.port port).cxl.contains (addr / 64) then .next s
  else .next ({ s with hostOut := s.hostRead port (addr / 64 * 64) 64, hostEp := [false] }.modPort port (fun h =>
      { h with cxl := h.cxl.filter (fun l => l != addr / 64) }))

end Sys2Proof.Machine
end

