-- ==== Sys2Proof/Machine/Power.lean ====
section
/-! DEFINITION. Power states (R465 to R467), throttling (R468) and the read-out of a frozen part (R471). -/

namespace Sys2Proof.Machine

/-! ### Power states -/

/-- State 1 (R465): no slice can issue, no stream entry runs, no engine entry is Running. -/
def State.quiet (s : State) : Bool :=
  s.blocks.all (fun b => b.2.state != .resident || b.2.stream.all (fun e => !e.begun))
    && s.blocks.all (fun b => b.2.state != .resident || !s.ctxRuns b.2.ctx || b.2.slices.all (fun x => x.2.run != .running))
    && s.entries.all (fun e => match e.2.state with | .running => false | _ => true)

/-- The resident blocks. -/
def State.residentIds (s : State) : List Nat := (s.blocks.filter (fun b => b.2.state == .resident)).map (fun b => b.1)

/-- Every slot of every die is Free or Ended. -/
def State.slotsQuiet (s : State) : Bool :=
  (List.range 8).all (fun d => (List.range 16).all (fun k => (s.slotState d k).1 == .free || (s.slotState d k).1 == .ended))

/-- The entry condition of a state (R465). -/
def State.powerCond (s : State) (st : Nat) : Bool :=
  match st with
  | 0 => true
  | 1 => s.quiet
  | 2 => s.quiet && s.residentIds.all (fun b => s.isDormant b && s.canSave b)
  | 3 => s.quiet && s.residentIds.all (fun b => s.isDormant b && s.canSave b)
      && s.nodes.all (fun n => n.2.state != .leasing && n.2.state != .completing) && s.dies.all (fun d => d.2.arriving.isEmpty)
      && s.ports.all (fun p => p.2.mailbox.state != 2 && p.2.mailbox.state != 4)
  | _ => s.slotsQuiet

/-- The islands as a state has them (R465, R468): VECTOR, MATRIX, CACHE, LINK, HBM. (DEDUCED, log 109) -/
def islandsIn (st : Nat) : List Nat :=
  match st with
  | 0 => [2, 2, 2, 2, 2]
  | 1 => [1, 1, 2, 2, 2]
  | 2 => [0, 0, 2, 2, 2]
  | 3 => [0, 0, 2, 2, 1]
  | _ => [0, 0, 0, 0, 0]

/-- A state entered (R465, R466): dormant blocks are saved from state 2 on, and in state 4 the contents of memory are lost.
(DEDUCED, log 16; DEDUCED, log 109) -/
def State.enterPower (s : State) (st : Nat) : State :=
  let s1 := if st = 2 || st = 3 then s.residentIds.foldl (fun s b => s.saveUnit b) s else s
  let s2 := if st = 4 then { s1 with mem := [], poison := [] } else s1
  { s2 with pstate := st, pchanges := s2.pchanges + 1, dies := s2.dies.map (fun (d : Nat × Die) => (d.1, { d.2 with islands := islandsIn st })) }

/-- POWER_STATE_ENTRY (R466): the deepest state that PMAX and TOL allow and whose condition holds. -/
def execPowerStateEntry (s : State) : Host.Outcome State Fault Refusal :=
  match [4, 3, 2, 1].find? (fun st => s.powerAllowed st && s.powerCond st) with
  | some st => .next (if s.pstate < st then s.enterPower st else s)
  | none => .next s

/-- POWER_WAKE (R467). -/
def execPowerWake (s : State) : Host.Outcome State Fault Refusal := .next (if s.pstate = 0 then s else s.wake)

/-- What wakes the package when it comes (R467): an access through a BAR, a mailbox command, a Petixa packet.
(DEDUCED, log 109) -/
def Move.wakes (m : Move) : Bool :=
  match m with
  | .event (.ctxstart _ _ _) => true
  | .event (.ctxctlSwapOut _ _) => true
  | .event (.ctxctlSwapIn _ _) => true
  | .event (.ctxctlEnd _ _) => true
  | .event (.flitReceive _ _) => true
  | .event (.packetRequest _ _) => true
  | .event (.acceptWrite _ _) => true
  | .event (.pwrWrite _ _) => true
  | .event (.bayMapWrite _ _ _) => true
  | .event (.lpoolWrite _ _) => true
  | .event (.configRegisterWrite _ _ _) => true
  | .event (.memrd _ _) => true
  | .event (.memwr _ _) => true
  | .event (.cfgrd _ _) => true
  | .event (.imgload _ _) => true
  | .event (.imgcommit _ _) => true
  | .event (.attest _ _) => true
  | .event (.cert _ _) => true
  | .event (.freeze _ _) => true
  | .event (.reset _ _) => true
  | .event (.bar2Write _ _ _) => true
  | .event (.bar2Read _ _ _) => true
  | .bar0Read _ _ _ => true
  | .mailboxStart _ _ _ => true
  | .peerAccept _ _ => true
  | _ => false

/-- The package before a move (R467): where it is not in state 0, a move that wakes it, or a broken entry condition, brings it there first.
(DEDUCED, log 109) -/
def State.powerCheck (s : State) (m : Move) : State :=
  if s.pstate = 0 || s.frozen then s else if Move.wakes m || !s.powerCond s.pstate then s.wake else s

/-- FREEZE_N asserted during a change to a power state (R465, R470): the dies below `n` have made it; on the way out of state 4, `n` steps of the
bring-up have run. The part stands so. (DEDUCED, log 109) -/
def freezeInPower (st n : Nat) (s : State) : Host.Outcome State Fault Refusal :=
  let part := fun (s : State) (st : Nat) => s.mapDies (fun d x => if d < n then { x with islands := islandsIn st } else x)
  .next (
    if st = 0 && s.pstate = 4 then { s.waking.bringSteps false 2 (min n 7) with frozen := true }
    else if st = 0 && s.pstate ≠ 0 then { part s 0 with frozen := true }
    else if s.pstate < st && st ≤ 4 && s.powerAllowed st && s.powerCond st then
      let saved := if st = 2 || st = 3 then
          (s.residentIds.filter (fun b => match s.blocks.get? b with | some x => x.die < n | none => false)).foldl (fun s b => s.saveUnit b) s
        else s
      { part saved st with frozen := true }
    else s)

/-- THROTTLING (R468): the islands' states as the firmware sets them, on or throttled. -/
def execThrottling (die vector matrix : Nat) (s : State) : Host.Outcome State Fault Refusal :=
  let ok := fun (x : Nat) => x == 2 || x == 3
  if 8 ≤ die || (s.die die).lost || s.pstate ≠ 0 || !ok vector || !ok matrix then .next s
  else .next (s.modDie die (fun x => { x with islands := [vector, matrix] ++ x.islands.drop 2 }))

/-! ### Read-out (R471) -/

/-- A core-cache line as it is read out. (DESIGN CHOICE, log 110) -/
def CLine.tap (l : CLine) : List Byte :=
  leBytes 8 l.va ++ leBytes 2 l.ctx ++ (match l.kind with
    | .data bs => [0] ++ bs
    | .uo op ty parts => [1] ++ leBytes 2 op ++ leBytes 2 ty ++ parts.flatMap (fun p => leBytes 8 p.1 ++ leBytes 8 p.2.toNat))

/-- What a block keeps in its core's store, in its slots and in its slice records (R103, R471). (DESIGN CHOICE, log 110) -/
def State.blockTap (s : State) (b : Block) : List Byte :=
  let tok := match s.nodes.get? b.node with | some n => n.token | none => 0
  let m := b.image tok false (fun i k => s.privRead b.ctx (b.payloadVa i k) 16)
  m.window ++ m.pres ++ m.acc ++ m.slots.flatMap (fun p => p) ++ m.regs

/-- The instrument of a core. (DESIGN CHOICE, log 110) -/
def State.coreTap (s : State) (d c : Nat) : List Byte :=
  (s.blocks.filter (fun b => b.2.state == .resident && b.2.die == d && b.2.core == c)).flatMap (fun b => s.blockTap b.2)
    ++ (s.core d c).cache.flatMap CLine.tap

/-- A home line with its sector bits. (DESIGN CHOICE, log 110) -/
def State.lineTap (s : State) (d : Nat) (l : Nat × BayLine) : List Byte :=
  leBytes 8 (l.1 * 1024) ++ [l.2.valid, l.2.modified] ++ [if l.2.dirty then 1 else 0, l.2.guests]
    ++ leBytes 1 (((List.range 8).map (fun i => if s.poisoned d (l.1 * 1024 + 128 * i) then 2 ^ i else 0)).sum)
    ++ s.physRead d (l.1 * 1024) 1024

/-- A monitor. -/
def Monitor.tap (m : Monitor) : List Byte :=
  leBytes 2 m.ctx ++ leBytes 8 m.pa ++ leBytes 1 m.size ++ leBytes 1 m.ty ++ leBytes 1 m.cond ++ leBytes 8 m.value.toNat

/-- A guest line with its sectors' poison and stamps. (DESIGN CHOICE, log 110) -/
def Guest.tap (g : Guest) : List Byte :=
  leBytes 1 g.home ++ leBytes 8 (g.pa * 1024) ++ leBytes 2 g.ctx ++ leBytes 8 g.leaf.toNat
    ++ g.secs.flatMap (fun x => [BitVec.ofNat 8 x.1, if x.2.poison then 1 else 0] ++ x.2.stamp.flatMap (fun w => leBytes 4 w.toNat) ++ x.2.bytes)

/-- The ORD marks of a home line, by node (R352). (DESIGN CHOICE, log 110) -/
def BayLine.ordTap (l : Nat × BayLine) : List Byte :=
  l.2.ord.flatMap (fun m => leBytes 8 (l.1 * 1024) ++ leBytes 4 m.1 ++ (match m.2 with | .priv b => 1 :: leBytes 4 b | .shared => [2, 0, 0, 0, 0]))

/-- The ownership counters of a die: what of the round log each node has used (R353), and the rounds of the ordered nodes (R352).
(DESIGN CHOICE, log 110) -/
def State.ownershipTap (s : State) (d : Nat) : List Byte :=
  s.ctxs.flatMap (fun c => (c.2.rlogUsed.filter (fun u => u.1 % 8 == d)).flatMap (fun u => leBytes 4 (u.1 / 8) ++ leBytes 8 u.2))
    ++ (s.nodes.filter (fun n => n.2.ordered && n.2.die == d)).flatMap (fun n => leBytes 4 n.1 ++ leBytes 4 n.2.rounds)

/-- The instrument of a bay: its lines with their sector bits, its monitors, the phase and ownership counters and the die's clocks. -/
def State.bayTap (s : State) (d k : Nat) : List Byte :=
  let x := s.die d
  (x.guests.filter (fun g => x.bay (g.pa * 1024) == k)).flatMap Guest.tap
    ++ (x.lines.filter (fun l => x.bay (l.1 * 1024) == k)).flatMap BayLine.ordTap ++ s.ownershipTap d ++
  (x.lines.filter (fun l => x.bay (l.1 * 1024) == k)).flatMap (fun l => s.lineTap d l)
    ++ (x.monitors.filter (fun m => m.2.bay == k)).flatMap (fun m => m.2.tap)
    ++ (x.arrived.filter (fun a => a.1 % 64 == k)).flatMap (fun a => leBytes 4 a.1 ++ leBytes 4 a.2)
    ++ (x.vc ++ x.seen).flatMap (fun w => leBytes 4 w.toNat)

/-- The physical address of a byte of a channel (R362). -/
def Die.channelPa (x : Die) (chan a : Nat) : Nat :=
  let j := ((List.range chan).filter (fun i => x.chans.getLsbD i)).length
  (a / 1024 * chanCount x.chans + j) * 1024 + a % 1024

/-- A byte of a channel; what the device region, or memory above CAP, or a channel that does not work holds is not given.
(DESIGN CHOICE, log 110) -/
def State.channelByte (s : State) (d chan a : Nat) : Byte :=
  let x := s.die d
  if x.chans.getLsbD chan && decide (a < 2016 * 2 ^ 20) && decide (x.channelPa chan a < x.cap) then s.mem.read (physKey d (x.channelPa chan a))
  else Config.freeByte (d * 64 + chan) a

/-- The code of a token's or an entry's state. (DESIGN CHOICE, log 110) -/
def EState.code : EState → Byte
  | .queued => 0
  | .running => 1
  | .ending false => 2
  | .ending true => 3
  | .done => 4
  | .failed => 5

/-- A token record. -/
def TokRec.tap (t : Nat × TokRec) : List Byte :=
  leBytes 2 t.1 ++ [t.2.state.code, if t.2.sat then 1 else 0] ++ leBytes 4 t.2.gen.toNat ++ leBytes 2 t.2.cause.toNat ++ leBytes 8 t.2.bytes ++ leBytes 8 t.2.addr.toNat

/-- The instrument of a die's engines: its tokens, the copy, ring, launch and layer queues, the waystations and the hold buffers. -/
def State.engineTap (s : State) (d : Nat) : List Byte :=
  let x := s.die d
  x.tokens.flatMap TokRec.tap
    ++ (s.entries.filter (fun e => e.2.die == d)).flatMap (fun e =>
      leBytes 8 e.2.token.toNat ++ leBytes 1 e.2.queue ++ [e.2.state.code] ++ leBytes 8 e.2.bytes)
    ++ x.launchQ.flatMap (fun n => leBytes 4 n)
    ++ (x.layerQ ++ x.arriving ++ x.waitingSet).flatMap (fun l => leBytes 4 l.1 ++ leBytes 4 l.2)
    ++ (s.msgs.filter (fun m => m.2.dst == d)).flatMap (fun m => leBytes 8 m.2.pa ++ m.2.stamp.flatMap (fun w => leBytes 4 w.toNat) ++ m.2.data)
    ++ (s.reqs.filter (fun r => r.2.home == d && r.2.stage == .held)).flatMap (fun r => leBytes 8 r.2.pa ++ r.2.stamp.flatMap (fun w => leBytes 4 w.toNat))

/-- The instrument of a die's configuration: the registers of its page (R457). -/
def State.configTap (s : State) (d : Nat) : List Byte :=
  (List.range 64).flatMap (fun i => leBytes 8 (s.dieDword d (8 * i)).toNat)

/-- TAP_READOUT (R471): while the part is frozen, an instrument of a die is read out; nothing else changes. The register caches are
written back first (R102); the model keeps every value in its register, so that there is nothing to write. -/
def execTapReadout (die : Nat) (inst : Instrument) (s : State) : Host.Outcome State Fault Refusal :=
  if !s.frozen || 8 ≤ die then .next s
  else .next { s with tapOut := match inst with
    | .core c => s.coreTap die c
    | .bay k => s.bayTap die k
    | .channel chan addr n => (List.range n).map (fun i => s.channelByte die chan (addr + i))
    | .engine => s.engineTap die
    | .config => s.configTap die }

/-- An instruction of the test access port that reads no instrument (R471): IDCODE and BYPASS at any time, a boundary scan only while the part is frozen
or in reset, when no mailbox is up yet. What the scan reads is not given. (DESIGN CHOICE, log 110) -/
def tapInstr (k : TapInstr) (s : State) : Host.Outcome State Fault Refusal :=
  .next (match k with
    | .idcode => { s with tapOut := leBytes 4 Config.idcode.toNat }
    | .bypass => { s with tapOut := [] }
    | .boundaryScan => if s.frozen || (s.port 0).mailbox.state = 0 then { s with tapOut := [Config.freeByte s.tick 0] } else s)

end Sys2Proof.Machine
end

