-- ==== Sys2Proof/Machine/Load.lean ====
section
/-! DEFINITION. A program loaded from outside the machine, as one block of one slice on core 0 of die 0 whose next move is its issue.
The machine itself comes to such a state only through its host: a context record, CTXSTART, KREG, LNCH and the dispatcher. -/

namespace Sys2Proof.Machine

/-- The first number above those that a table lists. -/
def Tab.unused {α : Type} (t : Tab α) : Nat :=
  match t.getLast? with
  | some p => p.1 + 1
  | none => 0

/-- The page of own-package memory that the loaded code has: its number in the virtual space and its frame on die 0. -/
def loadPage : Nat := 1

/-- The address of the loaded code (R172). -/
def loadVa : Nat := 0x7FF * 2 ^ 53 + loadPage * 65536

/-- A context of die 0 whose image area is one page (R368). (DESIGN CHOICE, log 1) -/
def loadCtx (id : Nat) : Ctx :=
  { (default : Ctx) with
    id := id, state := .running, first := 0, size := 1, parkLim := 10000, image := loadVa, imageSize := 65536,
    imap := [(loadPage, 0, loadPage * 65536)], recDie := 0, recPa := 0x20000 }

/-- A node of the loaded block (R336). (DESIGN CHOICE, log 1) -/
def loadNode (id ctx : Nat) : Node :=
  { (default : Node) with
    token := makeToken 0 4 id ctx 1, ctx := ctx, die := 0, dies := 1, body := .kernel 0 1 [] 0, state := .running, accepted := true,
    leased := true, placed := 1 }

/-- The loaded block: one slice, with the whole of a core's store as one block can have it (R62, R174). -/
def loadBlock (ctx node : Nat) : Block :=
  { Block.placed ctx 0 0 node 0 0 1 32 1 (BitVec.ofNat 64 loadVa) with
    scratch := 0x20000, acc := 4, slotLimit := 4, partw := 0x00081008, floor := 240 }

/-- A program of these bytes loaded, its block's first instruction the very next move. (DESIGN CHOICE, log 1) -/
def State.load (s : State) (code : List Byte) : State :=
  let c := Tab.unused s.ctxs
  let n := Tab.unused s.nodes
  let b := Tab.unused s.blocks
  let s1 := s.physWrite 0 (loadPage * 65536) code
  { s1 with
    ctxs := s1.ctxs.put c (loadCtx c)
    nodes := s1.nodes.put n (loadNode n c)
    blocks := s1.blocks.put b (loadBlock c n)
    dies := s1.dies.put 0 { s1.die 0 with cores := (s1.die 0).cores.put 0 { s1.core 0 0 with partw := some 0x00081008 } }
    frozen := false
    schedule := [.issue b 0] }

end Sys2Proof.Machine
end

