-- ==== Sys2Proof/Machine/Step.lean ====
section
/-! DEFINITION. One step of the machine: the agent whose move it is moves. -/

namespace Sys2Proof.Machine

/-- A move performed: a part issues its instruction, or a step that is no instruction of a slice comes about. An instruction of a slice
comes about only by an issue. (DESIGN CHOICE, log 2; DESIGN CHOICE, log 12) -/
def State.perform (s : State) (m : Move) : Host.Outcome State Fault Refusal :=
  match m with
  | .issue bid part => issue exec bid part s
  | .event i => if i.isSlice then .next s else exec i s
  | .hostStore port addr x => storeHost port addr x s
  | .bar0Read port off n => readBar0 port off n s
  | .mailboxStart port op tag => startMailbox port op tag s
  | .mailboxPart port part => freezeInCommand port part s
  | .collSend entry peer bale => .next (s.collSend entry peer bale)
  | .collTook entry peer bale sat => .next (s.collTook entry peer bale sat)
  | .freezeInBringUp n => freezeInBringUp n s
  | .freezeInPower st n => freezeInPower st n s
  | .tap k => tapInstr k s
  | .peerAccept port pkt => acceptPeer port pkt s
  | .peerPerform die src seq => performPeer die src seq s

/-- One step. (DEDUCED, log 11) -/
def step (s : State) : Host.Outcome State Fault Refusal :=
  let (m, s1) := s.nextMove
  let s2 := s1.passTime
  if s2.frozen && !Move.whileFrozen m then .next s2 else (s2.powerCheck m).perform m

/-- `s` with the instruction whose bits are `w` loaded so that the next step issues it; the bits from `nbits` up are zero.
(DESIGN CHOICE, log 1) -/
def State.withFetchWord (s : State) (nbits w : Nat) : State :=
  s.load (leBytes 12 (w % 2 ^ nbits))

end Sys2Proof.Machine
end

