-- ==== Sys2Proof/Safety.lean ====
section
/-! DEFINITION. What a safe run is, and the words that statements about instructions are made of. -/

namespace Sys2Proof

open Sys2Proof.Machine

/-! ### Runs -/

/-- Device memory and the scratchpad windows keep their canonical form. -/
def Machine.State.memOk (s : State) : Bool := s.mem.wf && s.blocks.all (fun b => b.2.window.wf)

/-- A step that ends in a next state. -/
def Steps (s t : State) : Prop := step s = .next t

/-- A state from which no step stops. -/
def Safe (s : State) : Prop := ∃ t, Steps s t

/-! ### An instruction that has what it needs -/

/-- Slice `sid` of block `bid` executes; `b` and `x` are what they hold. -/
def Executing (s : State) (bid sid : Nat) (b : Block) (x : Slice) : Prop := s.curSlice = some (bid, sid, b, x)

/-- The core's pool has 128 words outside what the blocks hold and reserve (R94, R96), more than any one instruction asks for, and no
request and no block's refill waits there (R96, R97). -/
def Roomy (s : State) (bid : Nat) (b : Block) : Prop :=
  (128 : Int) ≤ s.freeWords b.die b.core ∧ (128 : Int) ≤ s.reserveWords b.die b.core bid ∧
    (s.core b.die b.core).waiters = [] ∧ ∀ v ∈ s.residents b.die b.core, v.2.spillSaved = false

/-- An instruction of a row of the encoding tables can go on past the checks of R52: its encoding is legal, its sources hold values,
its destination waits for no fill, and there is room for its result. -/
structure Ready (e : Enc) (f : Fields) (s : State) (bid sid : Nat) (b : Block) (x : Slice) : Prop where
  cur : Executing s bid sid b x
  legal : e.legal f x.mode = true
  sources : x.checkSources (e.typeOf f x.mode) f (e.sources f) = .ok
  dst : f.n = false → ∀ k, k < e.dst.span (e.typeOf f x.mode) f → (x.reg (f.dst.toNat + k)).isPend = false
  room : Roomy s bid b

/-! ### What it leaves -/

/-- The state in which slice `sid` of block `bid` has become `y`, and waits for no pool words. -/
def settled (s : State) (bid sid : Nat) (y : Slice) : State := (s.modSlice bid sid (fun _ => y)).leaveWaiters bid sid

/-- A register of a slice after the registers that an instruction releases are empty: those of its last-use bits (R35) and `more`. -/
def keptReg (e : Enc) (f : Fields) (x : Slice) (more : List Nat) (k : Nat) : RegVal :=
  if k ∈ releasedRegs (e.typeOf f x.mode) f (e.sources f) ++ more then .empty else x.reg k

/-- A register after one register result (R90), from what the registers held. -/
def resultOver (w : RegWrite) (old : Nat → RegVal) (k : Nat) : RegVal :=
  if k = w.d then writeV w.act w.whole (loWords w.v) w.t0 (old w.d)
  else if w.wide = true ∧ k = w.d + 1 then writeV w.act w.whole (hiWords w.v) w.t1 (old (w.d + 1))
  else old k

/-- A register after an instruction (R33, R35, R90, R91): released, written unless N is set, or pending. -/
def regAfter (e : Enc) (f : Fields) (x : Slice) (o : Out) (k : Nat) : RegVal :=
  let r := if f.n then keptReg e f x o.rels k
    else (o.regs.foldl (fun old w => resultOver w old) (keptReg e f x o.rels)) k
  if k ∈ o.fills then fillV o.fillTag r else r

/-- The latches after an instruction whose registers stand in `y` (R39, R40). -/
def latchesAfter (e : Enc) (f : Fields) (x y : Slice) (o : Out) : List (Option Latch) :=
  if clearsLatches e.opc f.y then noLatches
  else match o.regs with
    | [] => x.latches
    | w :: _ => [some (latchOf f.n w y), x.latch 0, x.latch 1, x.latch 2]

/-- Slice `x` has completed an instruction with the results `o` and is now `y` (R27, R39, R85, R90, R92): nothing but what is named
here has changed. -/
structure Went (e : Enc) (f : Fields) (x : Slice) (o : Out) (y : Slice) : Prop where
  fields : y = { x with
    regs := y.regs
    latches := latchesAfter e f x y o
    sticky := x.sticky || x.readsEmpty (e.typeOf f x.mode) f (e.sources f)
    pc := o.pc.getD (x.pc + BitVec.ofNat 64 (4 * f.len))
    preds := match o.pred with | some (k, v) => x.preds.set k v | none => x.preds
    retired := x.retired + 1, run := .running, pend := false, prog := .fresh }
  regs : ∀ k, y.reg k = regAfter e f x o k

/-- Executing `i` in `s` gives the results `o` to the slice and makes the rest of the state what `o.eff` makes of `s1`. -/
def Completes (i : Instr) (e : Enc) (f : Fields) (s s1 : State) (bid sid : Nat) (x : Slice) (o : Out) : Prop :=
  ∃ y, exec i s = .next (o.eff (settled s1 bid sid y)) ∧ Went e f x o y

/-- Every instruction `i` of a row `e` that has what it needs, and whose operands and state meet `run`, completes with the results
that `run` names, from the state that `run` names. -/
def Does (i : Fields → Instr) (e : Fields → Enc) (run : Env → State → State → Out → Prop) : Prop :=
  ∀ f s bid sid b x, Ready (e f) f s bid sid b x → ∀ s1 o, run ((e f).env f bid sid b x) s s1 o →
    Completes (i f) (e f) f s s1 bid sid x o

/-- Every instruction `i` of a row `e` that has what it needs completes with the results `out`. -/
def Gives (i : Fields → Instr) (e : Fields → Enc) (out : Env → State → Out) : Prop :=
  Does i e (fun v s s1 o => s1 = s ∧ o = out v s)

/-- The same where the operands and the state meet a condition. -/
def GivesIf (i : Fields → Instr) (e : Fields → Enc) (cond : Env → State → Prop) (out : Env → State → Out) : Prop :=
  Does i e (fun v s s1 o => cond v s ∧ s1 = s ∧ o = out v s)

/-- Every instruction `i` of a row `e` that has what it needs, and whose operands and state meet `run`, raises the cause with the
address and the lanes that `run` names (R393), and does nothing else. -/
def Raises (i : Fields → Instr) (e : Fields → Enc) (run : Env → State → Half → Dword → BitVec 4 → Prop) : Prop :=
  ∀ f s bid sid b x, Ready (e f) f s bid sid b x → ∀ c a m, run ((e f).env f bid sid b x) s c a m →
    exec (i f) s = .next (s.trap bid sid c a m f.len false)

/-- The same from the state that `run` names, which the instruction has brought about before it raises. -/
def RaisesIn (i : Fields → Instr) (e : Fields → Enc) (run : Env → State → State → Half → Dword → BitVec 4 → Prop) : Prop :=
  ∀ f s bid sid b x, Ready (e f) f s bid sid b x → ∀ s1 c a m, run ((e f).env f bid sid b x) s s1 c a m →
    exec (i f) s = .next (s1.trap bid sid c a m f.len false)

/-- Every instruction `i` of a row `e` that has what it needs, and whose operands and state meet `run`, waits at its instruction (R152),
with what `run` says it has done so far. -/
def Waits (i : Fields → Instr) (e : Fields → Enc) (run : Env → State → State → Prop) : Prop :=
  ∀ f s bid sid b x, Ready (e f) f s bid sid b x → ∀ s1, run ((e f).env f bid sid b x) s s1 →
    exec (i f) s = .next (s1.setWaiting bid sid)

/-- The slice's results with an effect on the rest of the state. -/
def doing (g : State → State) : Out := { eff := g }

/-- A state that an instruction has brought about before it completes: its slice is as it was but for what it notes of its progress (and
whether it waits there), of stamps and of reported failures, and the pool has room. -/
def Onward (s1 : State) (bid sid : Nat) (x x1 : Slice) : Prop :=
  s1.slice? bid sid = some x1 ∧ x1 = { x with prog := x1.prog, stamps := x1.stamps, relFail := x1.relFail, run := x1.run, pend := x1.pend } ∧
  ∃ b1, s1.blocks.get? bid = some b1 ∧ Roomy s1 bid b1

/-- Every instruction `i` of a row `e` that has what it needs, and whose operands and state meet `run`, completes with the results that
`run` names, from the state that `run` names, which it has brought about. -/
def DoesIn (i : Fields → Instr) (e : Fields → Enc) (run : Env → State → State → Out → Prop) : Prop :=
  ∀ f s bid sid b x, Ready (e f) f s bid sid b x → ∀ s1 o, run ((e f).env f bid sid b x) s s1 o →
    ∀ x1, Onward s1 bid sid x x1 → Completes (i f) (e f) f s s1 bid sid x1 o

/-- A state after verdicts have been taken (R364, R367): nothing differs but what the dies and their cores hold in caches, and no core's
partition word or waiting requests. -/
def Judged (s t : State) : Prop :=
  t = { s with dies := t.dies } ∧ ∀ d c, (t.core d c).partw = (s.core d c).partw ∧ (t.core d c).waiters = (s.core d c).waiters

/-! ### The checks of R52 -/

/-- A source of an instruction fails step 9 of R52 with cause `c`: a register of it is empty while mode.ERZ is 0, or else its tag is one that
the operand does not allow. -/
def SourceFails (e : Enc) (f : Fields) (x : Slice) (p : Src × Nat × Bool) (c : Half) : Prop :=
  let hasEmpty := x.mode.getLsbD 14 = false ∧ ∃ k ∈ srcRegs p.1 (e.typeOf f x.mode) f p.2.1, x.reg k = .empty
  (hasEmpty ∧ c = 0x0201) ∨
    (¬hasEmpty ∧ p.1.mustUniform = true ∧ (x.source p.1 (e.typeOf f x.mode) f p.2.1).uniform = false ∧ c = 0x0105)

/-- What steps 5 to 9 of R52 give for an instruction of row `e` in slice `x`: the first failure in their order, within step 9 that of the
first source, in the order a, b, c; or a stall at step 8. -/
def CheckIs (e : Enc) (f : Fields) (x : Slice) (r : SrcCheck) : Prop :=
  let srcs := (e.sources f).filter (fun p => p.1.reads)
  let noLatch := ∃ p ∈ srcs, 60 ≤ p.2.1 ∧ x.latch (p.2.1 - 60) = none
  let pending := ∃ p ∈ srcs, ∃ k ∈ srcRegs p.1 (e.typeOf f x.mode) f p.2.1, (x.reg k).isPend = true
  match r with
  | .ok => e.legal f x.mode = true ∧ ¬noLatch ∧ ¬pending ∧ ∀ p ∈ srcs, ∀ c, ¬SourceFails e f x p c
  | .stall => e.legal f x.mode = true ∧ ¬noLatch ∧ pending
  | .bad c =>
    (e.legal f x.mode = false ∧ c = 0x0102) ∨
    (e.legal f x.mode = true ∧ noLatch ∧ c = 0x0103) ∨
    (e.legal f x.mode = true ∧ ¬noLatch ∧ ¬pending ∧
      ∃ before p after, srcs = before ++ p :: after ∧ (∀ q ∈ before, ∀ d, ¬SourceFails e f x q d) ∧ SourceFails e f x p c)

/-! ### The rows of the encoding tables -/

/-- The row of an instruction that a slice executes for itself, with its fields; `mode` is the slice's mode register. -/
def laneRow (mode : Word) : Instr → Option (Fields × Enc)
  | .iadd f => some (f, (encInt 0x00 [1, 2, 3] .ty .no typeInt true))
  | .isub f => some (f, (encInt 0x01 [1, 2, 3] .ty .no typeInt true))
  | .imul f => some (f, (encInt 0x02 [1, 2, 3] .ty .no typeInt true))
  | .imulh f => some (f, (encInt 0x03 [1, 2, 3] .ty .no typeInt false))
  | .imad f => some (f, (encInt 0x04 [2, 3] .ty .ty typeInt true))
  | .idiv f => some (f, (encInt 0x05 [1, 2, 3] .ty .no typeInt true))
  | .irem f => some (f, (encInt 0x06 [1, 2, 3] .ty .no typeInt false))
  | .imin f => some (f, (encInt 0x07 [1, 2, 3] .ty .no typeInt false))
  | .imax f => some (f, (encInt 0x08 [1, 2, 3] .ty .no typeInt false))
  | .iabs f => some (f, (encInt 0x09 [1, 2] .no .no typeInt true))
  | .ineg f => some (f, (encInt 0x0A [1, 2] .no .no typeInt true))
  | .iaddc f => some (f, (encCarry 0x0B f))
  | .isubb f => some (f, (encCarry 0x0C f))
  | .andB f => some (f, (encInt 0x0D [1, 2, 3] .ty .no typeW false))
  | .orB f => some (f, (encInt 0x0E [1, 2, 3] .ty .no typeW false))
  | .xorB f => some (f, (encInt 0x0F [1, 2, 3] .ty .no typeW false))
  | .notB f => some (f, (encInt 0x10 [1, 2] .no .no typeW false))
  | .andn f => some (f, (encInt 0x11 [1, 2, 3] .ty .no typeW false))
  | .shl f => some (f, (encInt 0x12 [1, 2, 3] .w32 .no typeW false))
  | .shr f => some (f, (encInt 0x13 [1, 2, 3] .w32 .no typeW false))
  | .sar f => some (f, (encInt 0x14 [1, 2, 3] .w32 .no typeW false))
  | .rot f => some (f, (encInt 0x15 [1, 2, 3] .w32 .no typeW false))
  | .bfe f => some (f, (encInt 0x16 [1, 2, 3] .w32 .no typeW false))
  | .bfi f => some (f, (encInt 0x17 [2, 3] .ty .w32 typeW false))
  | .popc f => some (f, (encCount 0x18))
  | .clz f => some (f, (encCount 0x19))
  | .brev f => some (f, (encInt 0x1A [1, 2] .no .no typeW false))
  | .lea f => some (f, { opc := 0x1B, lens := [2, 3], dst := .w64, sa := .w64, sb := .w32, types := .eff (fun t => t == 18 || t == 22), md := 7 })
  | .mov f => some (f, { opc := 0x1C, lens := [1, 2], dst := .ty, sa := .ty, types := .tov (fun t => t == 0 || t == 25) })
  | .movi f => some (f, { opc := 0x1D, lens := [1, 2, 3], dst := .ty, types := .tov typeMovi, imm := true })
  | .fadd f => some (f, (encFp 0x20 [1, 2, 3] .ty .no true true))
  | .fsub f => some (f, (encFp 0x21 [1, 2, 3] .ty .no true true))
  | .fmul f => some (f, (encFp 0x22 [1, 2, 3] .ty .no true true))
  | .ffma f => some (f, (encFp 0x23 [2, 3] .ty .ty true true))
  | .fmin f => some (f, (encFp 0x24 [1, 2, 3] .ty .no false false))
  | .fmax f => some (f, (encFp 0x25 [1, 2, 3] .ty .no false false))
  | .fminn f => some (f, (encFp 0x26 [1, 2, 3] .ty .no false false))
  | .fmaxn f => some (f, (encFp 0x27 [1, 2, 3] .ty .no false false))
  | .fabs f => some (f, (encFp 0x28 [1, 2] .no .no false false))
  | .fneg f => some (f, (encFp 0x29 [1, 2] .no .no false false))
  | .fcpys f => some (f, (encFp 0x2A [1, 2, 3] .ty .no false false))
  | .fdiv f => some (f, (encFp 0x2B [1, 2, 3] .ty .no true true))
  | .fsqrt f => some (f, (encFp 0x2C [1, 2] .no .no true true))
  | .frcp f => some (f, (encSpec 0x2D))
  | .frsq f => some (f, (encSpec 0x2E))
  | .fex2 f => some (f, (encSpec 0x2F))
  | .flg2 f => some (f, (encSpec 0x30))
  | .fsinp f => some (f, (encSpec 0x31))
  | .fcosp f => some (f, (encSpec 0x32))
  | .ftanh f => some (f, (encSpec 0x33))
  | .frnd f => some (f, (encFp 0x34 [1, 2] .no .no true false))
  | .fscl f => some (f, (encFp 0x35 [1, 2, 3] .w32 .no true true))
  | .fexpn f => some (f, { encFp 0x36 [1, 2] .no .no false false with dst := .w32 })
  | .cvt f => some (f, {
      opc := 0x40, lens := [2], dst := .ty, sa := if typeWide (cvtSrc f) then .w64 else .w32, types := .eff typeCvt, rov := .eff, sat := .eff,
      md := 31, extra := fun f _ => typeCvt (cvtSrc f) })
  | .cvtsr f => some (f, {
      opc := 0x41, lens := [2, 3], dst := .ty, sa := if typeWide (cvtSrc f) then .w64 else .w32, sb := .w32,
      types := .eff (fun t => typeSF t || typeNF t), sat := .eff, md := 31, extra := cvtsrOk })
  | .pack f => some (f, { opc := 0x42, lens := [2, 3], dst := .w32, sa := .w32, sb := .w32, types := .eff typePack, md := 7, extra := packOk })
  | .unpk f => some (f, { opc := 0x43, lens := [2], dst := .w32, sa := .w32, types := .eff typePack, md := 7, extra := packOk })
  | .qnt f => if f.ext.tov.toNat = 13 || f.ext.tov.toNat = 0 then some (f, {
      opc := 0x44, lens := [2, 3], dst := .w32, sa := .w32, sb := .u32, types := .eff (fun t => t == 13), rov := .eff }) else none
  | .dqnt f => some (f, (encDqnt f 0x45 .eff mode))
  | .icmp f => some (f, {
      opc := 0x46, lens := [2, 3], dst := .pd, sa := .ty, sb := .ty, types := .eff (fun t => typeInt t || t == 24 || t == 25), md := 15,
      extra := fun f t => decide (modOf f % 16 ≤ 5) && (typeInt t || decide (modOf f % 16 ≤ 1)) })
  | .fcmp f => some (f, {
      opc := 0x47, lens := [2, 3], dst := .pd, sa := .ty, sb := .ty, types := .eff typeFP, md := 31, extra := fun f _ => decide (modOf f % 16 ≤ 7) })
  | .fclass f => some (f, { opc := 0x48, lens := [2, 3], dst := .pd, sa := .ty, sb := .u32, types := .eff (fun t => typeFP t || typeNF t) })
  | .pand f => some (f, (encPred 0x49))
  | .por f => some (f, (encPred 0x4A))
  | .pxor f => some (f, (encPred 0x4B))
  | .pnot f => some (f, { opc := 0x4C, lens := [1, 2], dst := .pd, sa := .pr })
  | .pmov f => some (f, { opc := 0x4D, lens := [1, 2], dst := .pd, sa := if bitOf (modOf f) 2 then .w32 else .pr, md := 4 })
  | .sel f => some (f, {
      opc := 0x4E, lens := [2, 3], dst := .ty, sa := .ty, sb := .ty, types := .tov (fun t => t == 0 || t == 24 || t == 25), md := 15 })
  | .aff f => some (f, { opc := 0x4F, lens := [1, 2, 3], dst := .w32, sa := .u32, sb := .u32 })
  | .unif f => some (f, { opc := 0x50, lens := [1, 2], dst := .w32, sa := .w32, md := 1 })
  | .shape f => some (f, { opc := 0x51, lens := [1, 2], dst := .w32, sa := .raw })
  | .ld f => some (f, (encLd 0x60 .w64))
  | .st f => some (f, (encSt 0x61 .w64))
  | .lds f => some (f, (encLd 0x62 .w32))
  | .sts f => some (f, (encSt 0x63 .w32))
  | .ldu f => some (f, {
      opc := 0x64, lens := [1, 2, 3], dst := .ty, sa := if (bitOf (modOf f) 2) then .u32 else .u64, types := .eff typeMT, lit := .role, md := 4 })
  | .tld f => some (f, encTld)
  | .tst f => some (f, encTst)
  | .lda f => some (f, encLda)
  | .strl f => some (f, (encStrl f))
  | .rld f => some (f, {
      opc := 0x69, lens := [1, 2, 3], dst := .run, sa := .w32, sb := .w64, types := .eff typeMT, lit := .role, md := 3,
      extra := fun f _ => modOf f % 4 != 3 })
  | .rst f => some (f, {
      opc := 0x6A, lens := [2, 3], sa := .w32, sb := .w64, sc := .run, types := .eff typeMT, lit := .role, md := 3,
      extra := fun f _ => modOf f % 4 != 3 })
  | .ratm f => some (f, (encRatm f))
  | .prf f => some (f, { opc := 0x6C, lens := [1, 2, 3], sa := .w64, lit := .role, md := 1 })
  | .pin f => some (f, { opc := 0x6D, lens := [2, 3], dst := if (bitOf (modOf f) 0) then .w32 else .pd, sa := .w64, lit := .role, md := 1 })
  | .unpin f => some (f, { opc := 0x6E, lens := [1, 2, 3], sa := .w64, lit := .role })
  | .waitc f => some (f, { opc := 0x6F, lens := [2], gov0 := true, md := 0xFF, extra := fun f _ => modOf f / 64 % 4 != 3 })
  | .pres f => some (f, (encPres f))
  | .claim f => some (f, (encClaim 0x80))
  | .rels f => some (f, (encClaim 0x81))
  | .sld f => some (f, (encSld f))
  | .slds f => some (f, (encSlds f))
  | .mma f => some (f, encMma)
  | .mmas f => some (f, encMmas)
  | .mzero f => some (f, { opc := 0x86, lens := [2], sc := .u32, md := 0x3F })
  | .acld f => some (f, (encAcld f))
  | .mbat f => some (f, { opc := 0x88, lens := [1, 2], dst := .w32, gov0 := true })
  | .mwtb f => some (f, { opc := 0x89, lens := [2, 3], sb := .u32, md := 7, extra := fun f _ => modOf f == 1 || modOf f == 2 })
  | .drn f => some (f, (encDrn false f))
  | .drnx f => some (f, (encDrn true f))
  | .drnaO f => some (f, (encDrna 0x8C))
  | .drnaU f => some (f, (encDrna 0x8D))
  | .binit f => some (f, { opc := 0xA0, lens := [2, 3], sa := .u32, lit := .role, md := 0x3FF })
  | .bexp f => some (f, { opc := 0xA1, lens := [2, 3], sa := .u32, sb := .u32, lit := .role })
  | .barr f => some (f, (encBarr f))
  | .bwait f => some (f, (encBwait 0xA3 .no))
  | .btry f => some (f, (encBwait 0xA4 .pd))
  | .mwait f => some (f, {
      opc := 0xA5, lens := [2, 3], sa := .u64, sb := .uty, types := .eff typeW, gov0 := true, lit := .role, md := 0x77,
      extra := fun f t => let c := modOf f / 16 % 8; (modOf f % 8 == 2 || modOf f % 8 == 3) && decide (c ≤ 5) && (decide (c ≤ 1) || typeInt t) })
  | .atom f => some (f, (encRmw 0xA6 f true .ty (if (modOf f / 64 % 16) = 7 then .ty else .no) typeW 0x3FF (fun m t => decide (m / 64 % 16 ≤ 7)
      && (!(m / 64 % 16 == 4 || m / 64 % 16 == 5) || typeInt t)) false))
  | .binc f => some (f, (encRmw 0xA7 f true .ty .no typeN 0x3F (fun _ _ => true) false))
  | .winc f => some (f, (encRmw 0xA8 f true .ty .no typeN 0x3F (fun _ _ => true) false))
  | .decz f => some (f, (encRmw 0xA9 f true .no .no typeN 0x3F (fun _ _ => true) false))
  | .faddl f => some (f, (encRmw 0xAA f true .ty .no typeN 0x1FF (fun _ _ => true) false))
  | .tkt f => some (f, { opc := 0xAB, lens := [1, 2, 3], dst := .w32, sa := .u64, lit := .role })
  | .fatomO f => some (f, (encRmw 0xAC f true .ty .no typeFP 0x3FF fatomOk true))
  | .fatomU f => some (f, (encRmw 0xAD f true .ty .no typeFP 0x3FF fatomOk true))
  | .redO f => some (f, (encRmw 0xAE f false .ty .no (fun t => typeW t || typeFP t) 0x3FF redOpOk true))
  | .redU f => some (f, (encRmw 0xAF f false .ty .no (fun t => typeW t || typeFP t) 0x3FF redOpOk true))
  | .tkw f => some (f, {
      opc := 0xB0, lens := [2, 3], sa := .u64, sb := .u32, gov0 := true, lit := .role, md := 7,
      extra := fun f _ => modOf f % 8 == 2 || modOf f % 8 == 3 })
  | .tka f => some (f, { opc := 0xB1, lens := [2, 3], sa := .u64, lit := .role, md := 7, extra := fun f _ => modOf f % 8 == 2 || modOf f % 8 == 3 })
  | .commit f => some (f, { opc := 0xB2, lens := [1], gov0 := true })
  | .gsync f => some (f, {
      opc := 0xB3, lens := [2], sa := .u32, gov0 := true, md := 7, extra := fun f _ => decide (1 ≤ modOf f % 8) && decide (modOf f % 8 ≤ 3) })
  | .gjoin f => some (f, { opc := 0xB4, lens := [1, 2, 3], dst := .w32, sa := .u32, sb := .u32, gov0 := true, md := 1 })
  | .gleave f => some (f, { opc := 0xB5, lens := [1], sa := .u32, gov0 := true })
  | .grank f => some (f, { opc := 0xB6, lens := [1], dst := .w32, sa := .u32, gov0 := true })
  | .gsize f => some (f, { opc := 0xB7, lens := [1], dst := .w32, sa := .u32, gov0 := true })
  | .fence f => some (f, (encFence f))
  | .cpy f => some (f, (encCpy f))
  | .cpt f => some (f, encCpt)
  | .cpg f => some (f, (encCpg 0xC2))
  | .cps f => some (f, (encCpg 0xC3))
  | .qfen f => some (f, { opc := 0xC4, lens := [2], dst := .w64, md := 0xFF, extra := fun f _ => modOf f % 16 != 0 && scopeOk (modOf f / 16 % 8) 5 })
  | .tokw f => some (f, { opc := 0xC5, lens := [2], sa := .u64, gov0 := true, md := 1 })
  | .tokt f => some (f, { opc := 0xC6, lens := [2], dst := .pd, sa := .u64, gov0 := true })
  | .tokr f => some (f, { opc := 0xC7, lens := [2], dst := .w64, sa := .u64, gov0 := true })
  | .qcan f => some (f, { opc := 0xC8, lens := [2], dst := .pd, sa := .u64 })
  | .rgath f => some (f, (encRing 0xC9 .none 0x1F))
  | .rrscO f => some (f, (encRing 0xCA (.tov typeRing) 0x1F))
  | .rrscU f => some (f, (encRing 0xCB (.tov typeRing) 0x1F))
  | .rhof f => some (f, (encRing 0xCC .none 0x3F))
  | .ragr f => some (f, (encRing 0xCD .none 0x1F))
  | .rank f => some (f, {
      opc := 0xCE, lens := [1, 2, 3], dst := .w64, sa := if (bitOf (modOf f) 0) then .u64 else .no, gov0 := true, lit := .role, md := 1,
      extra := fun f _ => bitOf (modOf f) 0 || f.lit?.getD 0 == 0 })
  | .rbar f => some (f, (encRing 0xCF .none 0x1F))
  | .lnch f => some (f, { opc := 0xD0, lens := [2, 3], dst := .w64, sa := .u64, lit := .role })
  | .kreg f => some (f, { opc := 0xD1, lens := [2], dst := .w64, sa := .u64, sb := .u32, gov0 := true })
  | .kregDrop f => some (f, { opc := 0xD1, lens := [2], sb := .u32, gov0 := true, md := 1 })
  | .nodeq f => some (f, { opc := 0xD2, lens := [2], dst := .w32, sa := .u64, gov0 := true, md := 0x7FF, extra := fun f _ => decide (modOf f ≤ 5) })
  | .bra f => some (f, { opc := 0xE0, lens := [3], lit := .role, extra := fun f _ => offsetOk f })
  | .brx f => some (f, { opc := 0xE1, lens := [1, 2], sa := .u64 })
  | .call f => some (f, { opc := 0xE2, lens := [3], dst := .w64, lit := .role, extra := fun f _ => offsetOk f })
  | .callx f => some (f, { opc := 0xE3, lens := [1, 2], dst := .w64, sa := .u64 })
  | .ret f => some (f, { opc := 0xE4, lens := [1, 2], sa := .u64 })
  | .ifm f => some (f, {
      opc := 0xE5, lens := [1, 2, 3], sa := if bitOf (modOf f) 1 then .no else .pr, gov0 := true, lit := .role, md := 3,
      extra := fun f _ => offsetOk f })
  | .elsm f => some (f, { opc := 0xE6, lens := [1, 3], gov0 := true, lit := .role, extra := fun f _ => offsetOk f })
  | .endm f => some (f, { opc := 0xE7, lens := [1], gov0 := true })
  | .brkm f => some (f, {
      opc := 0xE8, lens := [2, 3], sa := .pr, gov0 := true, lit := .role, md := 0x3F, extra := fun f _ => offsetOk f
      && decide (1 ≤ modOf f % 32) && decide (modOf f % 32 ≤ 16) })
  | .exit f => some (f, { opc := 0xE9, lens := [1, 2] })
  | .nop f => some (f, { opc := 0xEA, lens := [1, 2, 3], gov0 := true, lit := .role })
  | .regang f => some (f, encRegang)
  | .movsO f => some (f, (encMovs 0xEC f))
  | .movsU f => some (f, (encMovs 0xED f))
  | .setm f => some (f, { opc := 0xEE, lens := [1, 3], gov0 := true, imm := true, extra := fun f _ => modeOk (immValue f) })
  | .getm f => some (f, { opc := 0xEF, lens := [1, 2], dst := .w32 })
  | .rel f => some (f, {
      opc := 0xF0, lens := [3], gov0 := true, lit := .role, md := 0x400,
      extra := fun f _ => !bitOf (modOf f) 10 || decide ((f.lit?.getD 0).toNat < 2 ^ 28) })
  | .grow f => some (f, (encGrow 0xF1))
  | .shrink f => some (f, (encGrow 0xF2))
  | .poolq f => some (f, { opc := 0xF3, lens := [2], dst := .w32, md := 7 })
  | .pqry f => some (f, { opc := 0xF4, lens := [2, 3], dst := .w64, sa := .w64, lit := .role })
  | .setpk f => some (f, { opc := 0xF5, lens := [2], dst := .w64, sa := .u64, gov0 := true, md := 3, extra := fun f _ => modOf f != 3 })
  | .tlbfl f => some (f, (encTlb 0xF6 f))
  | .tlbdr f => some (f, (encTlb 0xF7 f))
  | .trap f => some (f, (encCode 0xF8))
  | .tret f => some (f, {
      opc := 0xF9, lens := [1, 2], sa := if modOf f % 4 = 2 then .u64 else .no, gov0 := true, md := 3, extra := fun f _ => modOf f % 4 != 3 })
  | .errl f => some (f, {
      opc := 0xFA, lens := [1, 2], dst := if (bitOf (modOf f) 0) then .w64 else .eight, sa := if (bitOf (modOf f) 0) then .no else .u64,
      gov0 := true, md := 1 })
  | .layw f => some (f, (encLayer 0xFB .no true))
  | .layq f => some (f, (encLayer 0xFC .w64 true))
  | .layr f => some (f, (encLayer 0xFD .w64 false))
  | .laye f => some (f, (encLayer 0xFE .pd false))
  | .bkpt f => some (f, (encCode 0xFF))
  | _ => none

/-- The row of an instruction that an issue set executes together (R134), with its fields; `w` is the width of the gang. -/
def setRow (w : Nat) : Instr → Option (Fields × Enc)
  | .qnt f => if f.ext.tov.toNat = 13 || f.ext.tov.toNat = 0 then none else some (f, encQntMx w)
  | .shfl f => some (f, {
      opc := 0x52, lens := [2, 3], dst := .ty, sa := .ty, sb := .w32, types := .tov typeB, md := 31,
      extra := fun f _ => decide (modOf f / 4 % 8 ≤ 5) && decide (segOf (modOf f) w ≤ w) })
  | .bcast f => some (f, { opc := 0x53, lens := [2, 3], dst := .ty, sa := .ty, sb := .u32, types := .tov typeB })
  | .vote f => some (f, { opc := 0x54, lens := [2], dst := if modOf f % 4 = 3 then .w64 else .pd, sa := .pr, md := 3 })
  | .rdx f => some (f, (encRed 0x55 15))
  | .scan f => some (f, (encRed 0x56 31))
  | .topk f => some (f, { opc := 0x57, lens := [2, 3], dst := .w32, sa := .w32, sb := .u32, types := .tov typeTopk, md := 3 })
  | _ => none

/-- The instruction gives results to its slice alone, each in every lane for itself, and does nothing else: arithmetic, conversion, predicates and
moves. -/
def laneOnly : Instr → Bool
  | .iadd _ | .isub _ | .imul _ | .imulh _ | .imad _ | .idiv _ | .irem _ | .imin _ | .imax _ | .iabs _ | .ineg _ | .iaddc _ | .isubb _ | .andB _
  | .orB _ | .xorB _ | .notB _ | .andn _ | .shl _ | .shr _ | .sar _ | .rot _ | .bfe _ | .bfi _ | .popc _ | .clz _ | .brev _ | .lea _ | .mov _
  | .movi _ | .fadd _ | .fsub _ | .fmul _ | .ffma _ | .fmin _ | .fmax _ | .fminn _ | .fmaxn _ | .fabs _ | .fneg _ | .fcpys _ | .fdiv _ | .fsqrt _
  | .frcp _ | .frsq _ | .fex2 _ | .flg2 _ | .fsinp _ | .fcosp _ | .ftanh _ | .frnd _ | .fscl _ | .fexpn _ | .cvt _ | .cvtsr _ | .pack _ | .unpk _
  | .qnt _ | .dqnt _ | .icmp _ | .fcmp _ | .fclass _ | .pand _ | .por _ | .pxor _ | .pnot _ | .pmov _ | .sel _ | .aff _ | .unif _ | .movsO _
  | .movsU _ | .getm _ | .nop _ => true
  | _ => false

/-! ### Lane results -/

/-- The destination, one register or a pair, holds `val` in the active lanes and what it held in the others; every other register is as
the releases leave it; with N, no register is written and the newest latch holds the result (R33, R35, R39, R90). Where every lane is
active the destination has tag `tag` (R89). -/
def LaneResult (e : Enc) (f : Fields) (x y : Slice) (act : BitVec 4) (wide : Bool) (val : Nat → Nat) (tag : Tag) : Prop :=
  if f.n then
    (∀ k, y.reg k = keptReg e f x [] k) ∧ ∃ g, y.latch 0 = some g ∧
      ∀ l, l < 4 → act.getLsbD l = true → g.v.get l = BitVec.ofNat 64 (if wide then val l else val l % 2 ^ 32)
  else
    (∀ k, k ≠ f.dst.toNat → ¬(wide = true ∧ k = f.dst.toNat + 1) → y.reg k = keptReg e f x [] k) ∧
    (act = 0xF → (y.reg f.dst.toNat).tag = tag ∧ (wide = true → (y.reg (f.dst.toNat + 1)).tag = tag)) ∧
    ∀ l, l < 4 →
      (y.reg f.dst.toNat).lanes.get l
        = (if act.getLsbD l then BitVec.ofNat 32 (val l) else (keptReg e f x [] f.dst.toNat).lanes.get l) ∧
      (wide = true → (y.reg (f.dst.toNat + 1)).lanes.get l
        = (if act.getLsbD l then BitVec.ofNat 32 (val l / 2 ^ 32) else (keptReg e f x [] (f.dst.toNat + 1)).lanes.get l))

/-- A slice has gone past an instruction that touches no predicate and transfers no control: besides the pc, the retired count and the
run state, only registers, latches and the sticky status may differ. -/
def Advanced (f : Fields) (x y : Slice) : Prop :=
  y = { x with regs := y.regs, latches := y.latches, sticky := y.sticky,
               pc := x.pc + BitVec.ofNat 64 (4 * f.len), retired := x.retired + 1, run := .running, pend := false, prog := .fresh }

/-- Every instruction `i` of a row `e` that has what it needs gives `val` in each active lane and changes nothing else. -/
def Computes (i : Fields → Instr) (e : Fields → Enc) (wide : Env → Bool) (val : Env → Nat → Nat) (tag : Env → Tag) : Prop :=
  ∀ f s bid sid b x, Ready (e f) f s bid sid b x →
    let v := (e f).env f bid sid b x
    ∃ y, exec (i f) s = .next (settled s bid sid y) ∧ Advanced f x y ∧ LaneResult (e f) f x y v.act (wide v) (val v) (tag v)

/-- A floating instruction: where no enabled exception arises (R69) it gives the first part of `val` in each active lane, draws one random
word per active lane under rsr (R72), which makes its tag G (the model's reading, log 26), and changes nothing else; otherwise it raises
the cause of the highest-ranked one and writes nothing. -/
def FpCompletes (i : Instr) (e : Enc) (f : Fields) (s : State) (bid sid : Nat) (b : Block) (x : Slice) (wide : Bool)
    (val : Nat → Nat × Excs) (tag : Tag) : Prop :=
  let v := e.env f bid sid b x
  match fpCause x.mode v.act (fun l => (val l).2) with
  | some (c, ls) => exec i s = .next (s.trap bid sid c 0 ls f.len false)
  | none => ∃ y, exec i s = .next (v.advance (settled s bid sid y)) ∧ Advanced f x y ∧
      LaneResult e f x y v.act wide (fun l => (val l).1) (v.tagR tag)

/-- Every floating instruction `i` of a row `e` that has what it needs gives `val` in each active lane, or raises. -/
def ComputesFp (i : Fields → Instr) (e : Fields → Enc) (wide : Env → Bool) (val : Env → Nat → Nat × Excs) (tag : Env → Tag) : Prop :=
  ∀ f s bid sid b x, Ready (e f) f s bid sid b x →
    let v := (e f).env f bid sid b x
    FpCompletes (i f) (e f) f s bid sid b x (wide v) (val v) (tag v)

/-! ### Cross-lane results -/

/-- The issue set of slice `sid` (R134, R136) has what it needs to execute a cross-lane instruction together: no member is away in a
trap entry, there are at most 16 (R146), each passes the checks of R52, none waits for a fill, and there is room for every result. -/
structure ReadyTogether (e : Enc) (f : Fields) (s : State) (bid sid : Nat) (b : Block) (xs : List (Nat × Slice)) : Prop where
  cur : ∃ x, Executing s bid sid b x
  home : b.crossAway sid = false
  set : xs.map (fun p => p.1) = b.issueSet sid
  slices : ∀ p ∈ xs, b.slices.get? p.1 = some p.2
  once : (xs.map (fun p => p.1)).Nodup
  few : xs.length ≤ 16
  legal : ∀ p ∈ xs, e.legal f p.2.mode = true
  sources : ∀ p ∈ xs, p.2.checkSources (e.typeOf f p.2.mode) f (e.sources f) = .ok
  dst : f.n = false → ∀ p ∈ xs, ∀ k, k < e.dst.span (e.typeOf f p.2.mode) f → (p.2.reg (f.dst.toNat + k)).isPend = false
  room : Roomy s bid b

/-- The state after the members of an issue set have become the slices `ys`, in ascending order, each with its effect. -/
def settledAll (bid : Nat) : List (Nat × Out × Slice) → State → State
  | [], s => s
  | (k, o, y) :: r, s => settledAll bid r (o.eff (settled s bid k y))

/-- Every cross-lane instruction `i` of a row `e` whose issue set has what it needs, and whose results raise nothing, completes in every
member at once (R136, R137): each has the results that `out` gives it from the environments of all. -/
def GivesTogether (i : Fields → Instr) (e : Fields → Nat → Enc) (out : List Env → Env → Out) (exc : List Env → Env → Nat → Excs) : Prop :=
  ∀ f s bid sid b xs, ReadyTogether (e f b.width) f s bid sid b xs →
    let env := fun (p : Nat × Slice) => (e f b.width).env f bid p.1 b p.2
    let vs := xs.map env
    (∀ v ∈ vs, fpCause v.x.mode v.act (exc vs v) = none) →
    ∃ ys : List Slice, ys.length = xs.length ∧
      exec (i f) s = .next (settledAll bid ((xs.zip ys).map (fun q => (q.1.1, out vs (env q.1), q.2))) s) ∧
      ∀ q ∈ xs.zip ys, Went (e f b.width) f q.1.2 (out vs (env q.1)) q.2

/-- Every cross-lane instruction `i` of a row `e` whose issue set has what it needs, and whose results raise something in some member,
is executed by none: each member that detects an enabled exception raises its cause, with its lanes, and the others wait (R136). -/
def FaultsTogether (i : Fields → Instr) (e : Fields → Nat → Enc) (exc : List Env → Env → Nat → Excs) : Prop :=
  ∀ f s bid sid b xs, ReadyTogether (e f b.width) f s bid sid b xs →
    let vs := xs.map (fun p => (e f b.width).env f bid p.1 b p.2)
    let bad := vs.filterMap (fun v => (fpCause v.x.mode v.act (exc vs v)).map (fun c => (v.sid, c.1, c.2)))
    bad ≠ [] → exec (i f) s = .next (s.crossFault bid f.len (b.issueSet sid) bad)

/-! ### Read-modify-writes -/

/-- The slice has begun nothing that it waits for. -/
def NotBegun (v : Env) : Prop := (∀ n, v.x.prog ≠ .pending n) ∧ v.x.acquiring? = none

/-- The release that an RMW makes before any element is sent (R253), where it makes one. -/
def Released (q : RmwReq) (v : Env) (s s1 : State) : Prop :=
  if q.rel then ∃ ok, s.release v q.scope = (s1, some ok) else s1 = s

/-- The acquire that ends an RMW (R253), where it makes one. -/
def Acquired (q : RmwReq) (v : Env) (s : State) (fid : Nat) (s1 : State) : Prop :=
  if q.acq then s.acquire v q.scope (BitVec.ofNat 64 (fid + 1)) (some fid) = (s1, true) else s1 = s

/-- The slice waits for fill `fid`: for its elements, or in the acquire after them. -/
def WaitsFor (v : Env) (fid : Nat) : Prop := v.x.prog = .pending fid ∨ ∃ w, v.x.acquiring? = some w ∧ w ≠ 0 ∧ fid = w.toNat - 1

/-- An RMW whose fill `fid` has every element without a fault, and whose acquire is done, goes on with `mk` of that fill. -/
def RmwEnds (q : RmwReq) (v : Env) (mk : Fill → Out) (s : State) (fid : Nat) (s1 : State) (o : Out) : Prop :=
  ∃ x, s.fills.get? fid = some x ∧ x.elems.all FillElem.resolved = true ∧ x.raised = none ∧ Acquired q v s fid s1 ∧
    o = { mk x with eff := q.closed v fid }

/-- How the RMW of row `e` goes (R252 to R254, R260, R271), with the request `q`, the elements `es` (each below the window's end with .s),
what its results make of a fill `mk`, its counter (`counted`), its checks `pre` before anything else, and whether it acts at all (`on`). On the scratchpad it is
performed at once. On global memory of an unordered block its elements are sent, and on an ordered block's private lines it is performed
in the round's buffer. One whose results it waits for, by its semantic or as FADDL does, has begun a fill without registers; it goes on
once that has landed and its acquire is done. At a round point it waits for the commit, and is performed then. -/
def RmwDoes (i : Fields → Instr) (e : Fields → Enc) (q : Env → RmwReq) (mk : Env → Fill → Out) (counted : Env → Bool)
    (es : Env → List MElem) (pre : Env → State → State → Prop) (on : Env → Prop := fun _ => True) : Prop :=
  let regs := fun (v : Env) => if typeWide (q v).ty then [v.f.dst.toNat, v.f.dst.toNat + 1] else [v.f.dst.toNat]
  let spots := fun (v : Env) => (es v).map (fun e => (e.lane, 0, (e.va : Int)))
  let window := fun (v : Env) (s s0 : State) (ws : List MElem) => NotBegun v ∧ (q v).win = true ∧ pre v s s0 ∧
    s0.winGate v (q v).align (spots v) = .go ws ∧ pickFail (v.b.winPoisoned ws) = none ∧ v.behind = false
  let global := fun (v : Env) (s s1 : State) (ps : List Placed) => NotBegun v ∧ (q v).win = false ∧ ∃ s0, pre v s s0 ∧
    s0.checkGlobal v { align := (q v).align, rmw := true } .rmw false (es v) = .go s1 ps
  let committing := fun (v : Env) => ∃ n, v.x.prog = .satisfied n
  let point := fun (v : Env) (s : State) (ps : List Placed) => s.isOrdered v.b = true ∧ (q v).point = true ∧
    ∃ p ∈ ps, ∃ d pa leaf, p.place = .own d pa leaf ∧ s.isPrivate v.b d pa = false
  -- it has what it waits for
  DoesIn i e (fun v s s1 o => on v ∧ ∃ fid, WaitsFor v fid ∧ RmwEnds (q v) v (mk v) s fid s1 o) ∧
  -- the scratchpad
  DoesIn i e (fun v s s1 o => ∃ s0 ws, window v s s0 ws ∧ ws ≠ [] ∧ Released (q v) v s0 s1 ∧ (q v).returns = false ∧
    o = doing (fun s => (s.countIssue v false 0).modBlock v.bid (fun b => ((q v).allOnWindow v.sid b ws).1))) ∧
  DoesIn i e (fun v s s1 o => ∃ s0 ws, window v s s0 ws ∧ ws ≠ [] ∧ Released (q v) v s0 s1 ∧ (q v).returns = true ∧ (q v).hold = false ∧
    o = { fills := regs v, fillTag := .g, eff := fun s =>
      let r := (q v).allOnWindow v.sid ((s.blocks.get? v.bid).getD v.b) ws
      ((s.modBlock v.bid (fun _ => r.1)).beginFill v (regs v) .g false false ((q v).knownElems v.f.dst.toNat ws (r.2.map some)) [] (fun _ r => r)).1 }) ∧
  DoesIn i e (fun v s s3 o => ∃ s0 s1 s2 ws fid, window v s s0 ws ∧ ws ≠ [] ∧ Released (q v) v s0 s1 ∧ (q v).returns = true ∧ (q v).hold = true ∧
    (s2, fid) = (q v).startHold v (counted v) (s1.modBlock v.bid (fun _ => ((q v).allOnWindow v.sid v.b ws).1))
      ((q v).knownElems v.f.dst.toNat ws (((q v).allOnWindow v.sid v.b ws).2.map some)) [] ws ∧ RmwEnds (q v) v (mk v) s2 fid s3 o) ∧
  -- global memory of an unordered block
  DoesIn i e (fun v s s2 o => ∃ s1 ps, global v s s1 ps ∧ ¬committing v ∧ Released (q v) v s1 s2 ∧ es v ≠ [] ∧ ¬point v s1 ps ∧
    (q v).returns = false ∧ (s1.isOrdered v.b = true → s2.logFull v ps = false) ∧ s2.storeRoom v = true ∧
    s2.sendRoom v ps = true ∧ ((q v).unordered = true → s2.ownBusy v ps = false) ∧
    o = doing ((q v).perform v (s1.isOrdered v.b) (es v) ps)) ∧
  DoesIn i e (fun v s s2 o => ∃ s1 ps, global v s s1 ps ∧ ¬committing v ∧ Released (q v) v s1 s2 ∧ es v ≠ [] ∧
    s1.isOrdered v.b = false ∧ v.behind = false ∧ (q v).returns = true ∧ (q v).hold = false ∧ (counted v = true → s2.counterRoom v true = true) ∧
    s2.sendRoom v ps = true ∧ o = { fills := regs v, fillTag := .g, eff := fun s =>
      (((RmwReq.giveUp v ps s).modSlice v.bid v.sid (fun x => x.blankFill (regs v) v.act)).beginFill v (regs v) .g false (counted v)
        ((es v).map (fun e => (q v).fillElem v.f.dst.toNat e none)) ps
        (fun p r => { (q v).request v s p ((es v).getD p.e default).lane with fill := r.fill })).1 }) ∧
  Waits i e (fun v s s3 => ∃ s1 s2 ps, global v s s1 ps ∧ ¬committing v ∧ Released (q v) v s1 s2 ∧ es v ≠ [] ∧
    s1.isOrdered v.b = false ∧ v.behind = false ∧ (q v).returns = true ∧ (q v).hold = true ∧ (counted v = true → s2.counterRoom v true = true) ∧
    s2.sendRoom v ps = true ∧
    s3 = ((q v).startHold v (counted v) (RmwReq.giveUp v ps s2) ((es v).map (fun e => (q v).fillElem v.f.dst.toNat e none)) ps (es v)).1) ∧
  -- private lines of an ordered block
  DoesIn i e (fun v s s5 o => ∃ s1 s2 s3 s4 ps rs fid, global v s s1 ps ∧ ¬committing v ∧ Released (q v) v s1 s2 ∧ es v ≠ [] ∧
    s1.isOrdered v.b = true ∧ ¬point v s1 ps ∧ v.behind = false ∧ (q v).returns = true ∧ (counted v = true → s2.counterRoom v true = true) ∧
    s2.logFull v ps = false ∧ (q v).performNow v false (es v) ps s2 = (s3, rs) ∧
    (q v).startHold v (counted v) (s3.touchAll v ps) ((q v).knownElems v.f.dst.toNat (es v) rs) [] (es v) = (s4, fid) ∧
    RmwEnds (q v) v (mk v) s4 fid s5 o) ∧
  -- a round point
  Waits i e (fun v s s3 => ∃ s1 s2 ps, global v s s1 ps ∧ ¬committing v ∧ Released (q v) v s1 s2 ∧ es v ≠ [] ∧ point v s1 ps ∧
    s3 = (s2.touchAll v ps).atPoint v) ∧
  DoesIn i e (fun v s s4 o => ∃ s1 s2 s3 ps rs fid, global v s s1 ps ∧ committing v ∧ (q v).performNow v true (es v) ps s1 = (s2, rs) ∧
    (q v).startHold v (counted v) (s2.touchAll v ps) ((q v).knownElems v.f.dst.toNat (es v) rs) [] (es v) = (s3, fid) ∧
    RmwEnds (q v) v (mk v) s3 fid s4 o) ∧
  -- no active lane
  DoesIn i e (fun v s s3 o => ∃ s1 s2, ((∃ ps, global v s s1 ps ∧ ¬committing v ∧ es v = []) ∨ window v s s1 []) ∧ Released (q v) v s1 s2 ∧
    (if (q v).acq then s2.acquire v (q v).scope 0 none = (s3, true) else s3 = s2) ∧ o = if (q v).returns then mk v (noFill v) else {}) ∧
  DoesIn i e (fun v s s1 o => on v ∧ v.x.acquiring? = some 0 ∧ s.acquire v (q v).scope 0 none = (s1, true) ∧
    o = if (q v).returns then mk v (noFill v) else {})

/-! ### Entries of queues -/

/-- What an instruction that issues an entry asks for (R309, R319): its queue and whose it is, the scope and whether it is detached, the
work, the window lines it writes, and what it releases and reports of registers that it read itself. -/
structure Asked where
  queue : Nat
  owner : Nat
  scope : Scope
  det : Bool
  kind : EntryKind
  lines : List (Nat × Nat)
  rels : List Nat := []
  sticky : Bool := false

/-- There is room for the entry: in its queue, in the context and the token table, and in the counts of its lines (R188, R309, R311). -/
def Asked.room (a : Asked) (v : Env) (s : State) : Prop :=
  s.queueRoom v.b.die a.queue a.owner = true ∧ s.roomFor v.b.ctx v.b.die a.kind.places = true ∧ s.linesRoom a.lines = true

/-- The results of issuing an entry (R311, R319): the token of the record taken goes to the destination pair, and the entry stands in its
queue with its lines counted. -/
def Asked.out (a : Asked) (v : Env) (s : State) : Out :=
  { regs := [v.writeUni true (s.takeToken v.b.die a.queue v.b.ctx a.scope).1], rels := a.rels
    eff := fun t =>
      let (tok, t1) := t.takeToken v.b.die a.queue v.b.ctx a.scope
      let (n, t2) := t1.fresh
      let e := { v.newEntry t2 tok a.queue a.owner a.scope a.det a.kind with lines := a.lines }
      ({ t2 with entries := t2.entries.put n e }.issueLines v.b.die a.lines).modSlice v.bid v.sid
        (fun x => { x with sticky := x.sticky || a.sticky }) }

/-- Every instruction `i` of a row `e` that has what it needs issues the entry that `run` names, waits while there is no room for it, and
gives the null token where no lane is active (R319). -/
def Issues (i : Fields → Instr) (e : Fields → Enc) (run : Env → State → State → Asked → Prop) : Prop :=
  GivesIf i e (fun v _ => v.act = 0) (fun v _ => { regs := [v.writeUni true 0] }) ∧
  DoesIn i e (fun v s s1 o => ∃ a, v.act ≠ 0 ∧ run v s s1 a ∧ a.room v s1 ∧ o = a.out v s1) ∧
  Waits i e (fun v s s1 => ∃ a, v.act ≠ 0 ∧ run v s s1 a ∧ ¬a.room v s1)

end Sys2Proof
end

