-- ==== Sys2Proof/Certificates/Slice0/Obligations.lean ====
section
/-! DEFINITION. The statements about the machine, for the provers. The words they are made of stand in Safety.lean: `Computes` says of an
instruction that has what it needs that it completes, what its destination then holds in each lane, and that nothing else has changed;
`Gives` and `Does` say the same for results of every form, with the effect on the rest of the state named in full. -/

open Sys2Proof Sys2Proof.Machine

/-! ### Lane arithmetic -/

/-- R118, R63, R64: the integer arithmetic of each lane, exact and then reduced once into the type (wrapped, or clamped under saturation);
a zero divisor gives all ones from IDIV and the dividend from IREM. R89: the shapes. R118: IADDC and ISUBB give the sum a + b + c[0] and
the difference a − b − c[0] of the unsigned images reduced to the width, or with MOD[0] the carry and the borrow as 0 or 1. R118: the
bitwise operations, the shifts by b[7:0] (a count of the width or more gives zero, or the sign), the rotation, the field extract and
insert, and the counts; bit by bit where that is how the rule is said. LEA adds a scaled element to a 64-bit base. -/
def Obligations.IntegerResults : Prop :=
  (Computes .iadd (fun _ => encInt 0x00 [1, 2, 3] .ty .no typeInt true) (fun v => typeWide v.ty)
    (fun v l => imageInt v.ty (fitInt v.ty v.sat (elemInt v.ty (v.al l) + elemInt v.ty (v.bl l)))) shapeAdd ∧
  Computes .isub (fun _ => encInt 0x01 [1, 2, 3] .ty .no typeInt true) (fun v => typeWide v.ty)
    (fun v l => imageInt v.ty (fitInt v.ty v.sat (elemInt v.ty (v.al l) - elemInt v.ty (v.bl l)))) shapeAdd ∧
  Computes .imul (fun _ => encInt 0x02 [1, 2, 3] .ty .no typeInt true) (fun v => typeWide v.ty)
    (fun v l => imageInt v.ty (fitInt v.ty v.sat (elemInt v.ty (v.al l) * elemInt v.ty (v.bl l)))) shapeMul ∧
  Computes .imulh (fun _ => encInt 0x03 [1, 2, 3] .ty .no typeInt false) (fun v => typeWide v.ty)
    (fun v l => imageInt v.ty (elemInt v.ty (v.al l) * elemInt v.ty (v.bl l) / ((2 ^ typeBits v.ty : Nat) : Int)))
    (fun v => shapeUG [v.a, v.o]) ∧
  Computes .imad (fun _ => encInt 0x04 [2, 3] .ty .ty typeInt true) (fun v => typeWide v.ty)
    (fun v l => imageInt v.ty (fitInt v.ty v.sat (elemInt v.ty (v.al l) * elemInt v.ty (v.bl l) + elemInt v.ty (v.cl l))))
    (fun v => shapeUG [v.a, v.o, v.c]) ∧
  Computes .idiv (fun _ => encInt 0x05 [1, 2, 3] .ty .no typeInt true) (fun v => typeWide v.ty)
    (fun v l => imageInt v.ty (if elemInt v.ty (v.bl l) = 0 then elemInt v.ty (2 ^ typeBits v.ty - 1)
      else fitInt v.ty v.sat ((elemInt v.ty (v.al l)).tdiv (elemInt v.ty (v.bl l))))) (fun v => shapeUG [v.a, v.o]) ∧
  Computes .irem (fun _ => encInt 0x06 [1, 2, 3] .ty .no typeInt false) (fun v => typeWide v.ty)
    (fun v l => imageInt v.ty (if elemInt v.ty (v.bl l) = 0 then elemInt v.ty (v.al l)
      else elemInt v.ty (v.al l) - elemInt v.ty (v.bl l) * (elemInt v.ty (v.al l)).tdiv (elemInt v.ty (v.bl l))))
    (fun v => shapeUG [v.a, v.o]) ∧
  Computes .imin (fun _ => encInt 0x07 [1, 2, 3] .ty .no typeInt false) (fun v => typeWide v.ty)
    (fun v l => imageInt v.ty (min (elemInt v.ty (v.al l)) (elemInt v.ty (v.bl l)))) (fun v => shapeUG [v.a, v.o]) ∧
  Computes .imax (fun _ => encInt 0x08 [1, 2, 3] .ty .no typeInt false) (fun v => typeWide v.ty)
    (fun v l => imageInt v.ty (max (elemInt v.ty (v.al l)) (elemInt v.ty (v.bl l)))) (fun v => shapeUG [v.a, v.o]) ∧
  Computes .iabs (fun _ => encInt 0x09 [1, 2] .no .no typeInt true) (fun v => typeWide v.ty)
    (fun v l => imageInt v.ty (fitInt v.ty v.sat ((elemInt v.ty (v.al l)).natAbs : Int))) (fun v => shapeUG [v.a]) ∧
  Computes .ineg (fun _ => encInt 0x0A [1, 2] .no .no typeInt true) (fun v => typeWide v.ty)
    (fun v l => imageInt v.ty (fitInt v.ty v.sat (-elemInt v.ty (v.al l)))) shapeNeg) ∧
  (Computes .iaddc (encCarry 0x0B) (fun v => !bitOf v.md 0 && typeWide v.ty)
    (fun v l =>
      let sum := v.al l % 2 ^ typeBits v.ty + v.bl l % 2 ^ typeBits v.ty + v.cl l % 2
      if bitOf v.md 0 then (if 2 ^ typeBits v.ty ≤ sum then 1 else 0) else sum % 2 ^ typeBits v.ty)
    (fun v => shapeUG [v.a, v.o, v.c]) ∧
  Computes .isubb (encCarry 0x0C) (fun v => !bitOf v.md 0 && typeWide v.ty)
    (fun v l =>
      let a := v.al l % 2 ^ typeBits v.ty
      let b := v.bl l % 2 ^ typeBits v.ty + v.cl l % 2
      if bitOf v.md 0 then (if a < b then 1 else 0) else (a + 2 ^ (typeBits v.ty + 1) - b) % 2 ^ typeBits v.ty)
    (fun v => shapeUG [v.a, v.o, v.c])) ∧
  (Computes .andB (fun _ => encInt 0x0D [1, 2, 3] .ty .no typeW false) (fun v => typeWide v.ty)
    (fun v l => (v.al l &&& v.bl l) % 2 ^ typeBits v.ty) (fun v => shapeUG [v.a, v.o]) ∧
  Computes .orB (fun _ => encInt 0x0E [1, 2, 3] .ty .no typeW false) (fun v => typeWide v.ty)
    (fun v l => (v.al l ||| v.bl l) % 2 ^ typeBits v.ty) (fun v => shapeUG [v.a, v.o]) ∧
  Computes .xorB (fun _ => encInt 0x0F [1, 2, 3] .ty .no typeW false) (fun v => typeWide v.ty)
    (fun v l => (v.al l ^^^ v.bl l) % 2 ^ typeBits v.ty) (fun v => shapeUG [v.a, v.o]) ∧
  Computes .notB (fun _ => encInt 0x10 [1, 2] .no .no typeW false) (fun v => typeWide v.ty)
    (fun v l => 2 ^ typeBits v.ty - 1 - v.al l % 2 ^ typeBits v.ty) (fun v => shapeUG [v.a, v.o]) ∧
  Computes .andn (fun _ => encInt 0x11 [1, 2, 3] .ty .no typeW false) (fun v => typeWide v.ty)
    (fun v l => v.al l % 2 ^ typeBits v.ty &&& (2 ^ typeBits v.ty - 1 - v.bl l % 2 ^ typeBits v.ty)) (fun v => shapeUG [v.a, v.o]) ∧
  Computes .shl (fun _ => encInt 0x12 [1, 2, 3] .w32 .no typeW false) (fun v => typeWide v.ty)
    (fun v l => if typeBits v.ty ≤ v.bl l % 256 then 0 else v.al l * 2 ^ (v.bl l % 256) % 2 ^ typeBits v.ty) shapeShl ∧
  Computes .shr (fun _ => encInt 0x13 [1, 2, 3] .w32 .no typeW false) (fun v => typeWide v.ty)
    (fun v l => if typeBits v.ty ≤ v.bl l % 256 then 0 else v.al l % 2 ^ typeBits v.ty / 2 ^ (v.bl l % 256))
    (fun v => shapeUG [v.a, v.o]) ∧
  Computes .sar (fun _ => encInt 0x14 [1, 2, 3] .w32 .no typeW false) (fun v => typeWide v.ty)
    (fun v l => wrapNat (typeBits v.ty)
      (sextInt (typeBits v.ty) (v.al l % 2 ^ typeBits v.ty) / ((2 ^ min (v.bl l % 256) (typeBits v.ty - 1) : Nat) : Int)))
    (fun v => shapeUG [v.a, v.o]) ∧
  Computes .rot (fun _ => encInt 0x15 [1, 2, 3] .w32 .no typeW false) (fun v => typeWide v.ty)
    (fun v l => rotBits (typeBits v.ty) (v.al l % 2 ^ typeBits v.ty) (v.bl l % 256)) (fun v => shapeUG [v.a, v.o]) ∧
  Computes .bfe (fun _ => encInt 0x16 [1, 2, 3] .w32 .no typeW false) (fun v => typeWide v.ty)
    (fun v l => bfeBits v.ty (v.al l) (v.bl l)) (fun v => shapeUG [v.a, v.o]) ∧
  Computes .bfi (fun _ => encInt 0x17 [2, 3] .ty .w32 typeW false) (fun v => typeWide v.ty)
    (fun v l => bfiBits (typeBits v.ty) (v.al l % 2 ^ typeBits v.ty) (v.bl l) (v.cl l)) (fun v => shapeUG [v.a, v.o, v.c]) ∧
  Computes .popc (fun _ => encCount 0x18) (fun _ => false)
    (fun v l => ((List.range (typeBits v.ty)).filter (fun i => (v.al l).testBit i)).length) (fun v => shapeUG [v.a]) ∧
  Computes .clz (fun _ => encCount 0x19) (fun _ => false)
    (fun v l => typeBits v.ty - bitLen (v.al l % 2 ^ typeBits v.ty)) (fun v => shapeUG [v.a]) ∧
  Computes .brev (fun _ => encInt 0x1A [1, 2] .no .no typeW false) (fun v => typeWide v.ty)
    (fun v l => revBits (typeBits v.ty) (v.al l)) (fun v => shapeUG [v.a]) ∧
  Computes .lea (fun _ => { opc := 0x1B, lens := [2, 3], dst := .w64, sa := .w64, sb := .w32, types := .eff (fun t => t == 18 || t == 22), md := 7 }) (fun _ => true)
    (fun v l => wrapNat 64 ((v.al l : Int) + elemInt v.ty (v.bl l) * ((2 ^ (v.md % 8) : Nat) : Int))) (fun v => shapeUG [v.a, v.o]))

/-- R106, R107, R109, R128, R133: moves within a lane. MOV keeps the tag of each register of a pair; MOVI's constant is uniform; GETM
reads the mode register; SEL chooses by a predicate's bit. The value of a literal that is a NaN (DESIGN CHOICE, log 121) and the count
that `clk` of MOVS.o reads (DEDUCED, log 29) are the model's choices. R107, R57, R108: the results that are written to the whole register
whenever a lane is active (R90). AFF gives an affine value, UNIF spreads the first active lane (and traps SHAPE_MISMATCH under its check
when an active lane differs), MOVS reads a special register: lane and thread numbers as affine values, every other selector in all lanes,
`clk` as the die's cycles from MOVS.u and as the slice's retired count from MOVS.o. -/
def Obligations.MoveResults : Prop :=
  (Gives .mov (fun _ => { opc := 0x1C, lens := [1, 2], dst := .ty, sa := .ty, types := .tov (fun t => t == 0 || t == 25) })
    (fun v _ => { regs := [⟨v.f.dst.toNat, typeWide v.ty, v.a.v, v.a.tag, v.a.tag1, false, v.act⟩] }) ∧
  Computes .movi (fun _ => { opc := 0x1D, lens := [1, 2, 3], dst := .ty, types := .tov typeMovi, imm := true })
    (fun v => typeWide v.ty)
    (fun v _ => match v.f.lit? with
      | some w => (litValue (typeWide v.ty) v.ty w).toNat
      | none => wrapNat (if typeWide v.ty then 64 else 32) (sextInt 7 (imm7 v.f))) (fun _ => .u) ∧
  Computes .getm (fun _ => { opc := 0xEF, lens := [1, 2], dst := .w32 }) (fun _ => false) (fun v _ => v.x.mode.toNat) (fun _ => .u) ∧
  Computes .pack (fun _ => { opc := 0x42, lens := [2, 3], dst := .w32, sa := .w32, sb := .w32, types := .eff typePack, md := 7, extra := packOk }) (fun _ => false)
    (fun v l =>
      let w := typeBits v.ty
      let p := w * (v.md % 8)
      v.bl l - v.bl l / 2 ^ p % 2 ^ w * 2 ^ p + v.al l % 2 ^ w * 2 ^ p) (fun v => shapeUG [v.a, v.o]) ∧
  Computes .unpk (fun _ => { opc := 0x43, lens := [2], dst := .w32, sa := .w32, types := .eff typePack, md := 7, extra := packOk })
    (fun _ => false)
    (fun v l =>
      let w := typeBits v.ty
      let e := v.al l / 2 ^ (w * (v.md % 8)) % 2 ^ w
      if typeSigned v.ty then wrapNat 32 (sextInt w e) else e) (fun v => shapeUG [v.a]) ∧
  Computes .sel (fun _ => { opc := 0x4E, lens := [2, 3], dst := .ty, sa := .ty, sb := .ty, types := .tov (fun t => t == 0 || t == 24 || t == 25), md := 15 }) (fun v => typeWide v.ty)
    (fun v l => if (v.x.preds.getD (v.md % 8) 0).getLsbD l = bitOf v.md 3 then v.bl l else v.al l) (fun _ => .g)) ∧
  (Gives .aff (fun _ => { opc := 0x4F, lens := [1, 2, 3], dst := .w32, sa := .u32, sb := .u32 })
    (fun v _ => { regs := [⟨v.f.dst.toNat, false, quadNat (fun l => (v.al 0 + l * v.bl 0) % 2 ^ 32), .a, .a, true, v.act⟩] }) ∧
  GivesIf .unif (fun _ => { opc := 0x50, lens := [1, 2], dst := .w32, sa := .w32, md := 1 })
    (fun v _ => bitOf v.md 0 = false ∨ ∀ k l, v.act.getLsbD k = true → v.act.getLsbD l = true → v.al k = v.al l)
    (fun v _ => { regs := [⟨v.f.dst.toNat, false, Quad.all (match lanesOf v.act with | [] => 0 | l :: _ => v.a.v.get l), .u, .u, true, v.act⟩] }) ∧
  Raises .unif (fun _ => { opc := 0x50, lens := [1, 2], dst := .w32, sa := .w32, md := 1 })
    (fun v _ c a m => ∃ l ls, lanesOf v.act = l :: ls ∧ bitOf v.md 0 = true ∧ (∃ k ∈ ls, v.al k ≠ v.al l) ∧
      c = 0x0105 ∧ a = 0 ∧ m = laneSet (ls.filter (fun k => v.al k != v.al l))) ∧
  (∀ ordered : Bool, Gives (if ordered then .movsO else .movsU) (encMovs (if ordered then 0xEC else 0xED))
    (fun v s => { regs := [
      if v.md = 0 then v.write false (quadNat (fun l => l)) .a
      else if v.md = 2 then v.write false (quadNat (fun l => 4 * v.sid + l)) .a
      else ⟨v.f.dst.toNat, (movsWide v.md).getD false, Quad.all (BitVec.ofNat 64 (movsValue v s ordered)), .u, .u, true, v.act⟩] })))

/-! ### Floating point -/

/-- R121, R68 to R76: the floating arithmetic, each result the exact value rounded once under the effective rounding, with NaN, infinity
and zero as R74 says; under rsr one word is drawn per active lane (R72); an enabled exception of an active lane raises its cause and
nothing is written (R69). That a result under rsr has tag G is the model's choice (DEDUCED, log 26). What a special function signals of a
result of zero is the model's choice (DEDUCED, log 27). R121, R74: the four selections give one of their operands unrounded (a lone NaN
gives the canonical NaN, or the other operand for the two *number* forms); the sign operations put a sign on the magnitude of a, give the
canonical NaN for a NaN, and signal nothing. R122 to R125: the special functions, with their fixed cases and their algorithms. -/
def Obligations.FloatResults : Prop :=
  (let arith := fun (v : Env) (l : Nat) (r : FVal × Bool) => deliverOp v.ty v.rnd (v.word l) v.sat r
  let da := fun (v : Env) (l : Nat) => decodeF v.ty (v.al l)
  let db := fun (v : Env) (l : Nat) => decodeF v.ty (v.bl l)
  let dc := fun (v : Env) (l : Nat) => decodeF v.ty (v.cl l)
  let wide := fun (v : Env) => typeWide v.ty
  ComputesFp .fadd (fun _ => encFp 0x20 [1, 2, 3] .ty .no true true) wide
    (fun v l => arith v l (addVal v.rnd (da v l) (db v l))) (fun v => shapeUG [v.a, v.o]) ∧
  ComputesFp .fsub (fun _ => encFp 0x21 [1, 2, 3] .ty .no true true) wide
    (fun v l => arith v l (addVal v.rnd (da v l) (db v l).negate)) (fun v => shapeUG [v.a, v.o]) ∧
  ComputesFp .fmul (fun _ => encFp 0x22 [1, 2, 3] .ty .no true true) wide
    (fun v l => arith v l (mulVal (da v l) (db v l))) (fun v => shapeUG [v.a, v.o]) ∧
  ComputesFp .ffma (fun _ => encFp 0x23 [2, 3] .ty .ty true true) wide
    (fun v l => arith v l (fmaVal v.rnd (da v l) (db v l) (dc v l))) (fun v => shapeUG [v.a, v.o, v.c]) ∧
  ComputesFp .fdiv (fun _ => encFp 0x2B [1, 2, 3] .ty .no true true) wide
    (fun v l => divF v.ty v.rnd (v.word l) v.sat (da v l) (db v l)) (fun v => shapeUG [v.a, v.o]) ∧
  ComputesFp .fsqrt (fun _ => encFp 0x2C [1, 2] .no .no true true) wide
    (fun v l => sqrtF v.ty v.rnd (v.word l) v.sat (da v l)) (fun v => shapeUG [v.a]) ∧
  ComputesFp .frnd (fun _ => encFp 0x34 [1, 2] .no .no true false) wide
    (fun v l => roundIntegral v.ty v.rnd (v.word l) (v.al l)) (fun v => shapeUG [v.a]) ∧
  ComputesFp .fscl (fun _ => encFp 0x35 [1, 2, 3] .w32 .no true true) wide
    (fun v l => arith v l (scaleVal (da v l) (sextInt 32 (v.bl l)))) (fun v => shapeUG [v.a, v.o]) ∧
  ComputesFp .fexpn (fun _ => { encFp 0x36 [1, 2] .no .no false false with dst := .w32 }) (fun _ => false)
    (fun v l => expnVal (da v l)) (fun v => shapeUG [v.a])) ∧
  (let wide := fun (v : Env) => typeWide v.ty
  let pick := fun (isMax number : Bool) (v : Env) (l : Nat) =>
    minMaxF v.ty isMax number (v.al l % 2 ^ typeBits v.ty) (v.bl l % 2 ^ typeBits v.ty)
  let neg := fun (v : Env) (x : Nat) => x / (fmtOf v.ty).signBit % 2 == 1
  let signed := fun (v : Env) (l : Nat) (n : Bool) =>
    if (decodeF v.ty (v.al l)).isNaN then (fmtOf v.ty).canonNaN
    else v.al l % (fmtOf v.ty).signBit + (if n then (fmtOf v.ty).signBit else 0)
  ComputesFp .fmin (fun _ => encFp 0x24 [1, 2, 3] .ty .no false false) wide (pick false false) (fun v => shapeUG [v.a, v.o]) ∧
  ComputesFp .fmax (fun _ => encFp 0x25 [1, 2, 3] .ty .no false false) wide (pick true false) (fun v => shapeUG [v.a, v.o]) ∧
  ComputesFp .fminn (fun _ => encFp 0x26 [1, 2, 3] .ty .no false false) wide (pick false true) (fun v => shapeUG [v.a, v.o]) ∧
  ComputesFp .fmaxn (fun _ => encFp 0x27 [1, 2, 3] .ty .no false false) wide (pick true true) (fun v => shapeUG [v.a, v.o]) ∧
  Computes .fabs (fun _ => encFp 0x28 [1, 2] .no .no false false) wide (fun v l => signed v l false) (fun v => shapeUG [v.a]) ∧
  Computes .fneg (fun _ => encFp 0x29 [1, 2] .no .no false false) wide
    (fun v l => signed v l (!neg v (v.al l))) (fun v => shapeUG [v.a]) ∧
  Computes .fcpys (fun _ => encFp 0x2A [1, 2, 3] .ty .no false false) wide
    (fun v l => signed v l (neg v (v.bl l))) (fun v => shapeUG [v.a, v.o])) ∧
  (let gives := fun (i : Fields → Instr) (opc : Nat) (fn : SpecFn) =>
    ComputesFp i (fun _ => encSpec opc) (fun _ => false) (fun v l => specFn fn v.ty v.sat (v.al l)) (fun v => shapeUG [v.a])
  gives .frcp 0x2D .rcp ∧ gives .frsq 0x2E .rsq ∧ gives .fex2 0x2F .ex2 ∧ gives .flg2 0x30 .lg2 ∧ gives .fsinp 0x31 .sinp ∧
  gives .fcosp 0x32 .cosp ∧ gives .ftanh 0x33 .tanh)

/-- R127, R129, R130, R80: conversions between the types, CVTSR with the random word of operand b, quantisation to as8 and back, and an MX
element with its scale made binary32. -/
def Obligations.ConversionResults : Prop :=
  ComputesFp .cvt (fun f => { opc := 0x40, lens := [2], dst := .ty, sa := if typeWide (cvtSrc f) then .w64 else .w32, types := .eff typeCvt, rov := .eff, sat := .eff, md := 31, extra := fun f _ => typeCvt (cvtSrc f) })
    (fun v => typeWide v.ty) (fun v l => convert v.ty (cvtSrc v.f) v.rnd (v.word l) v.sat (v.al l)) (fun v => shapeUG [v.a]) ∧
  (∀ f s bid sid b x,
    let e : Enc := { opc := 0x41, lens := [2, 3], dst := .ty, sa := if typeWide (cvtSrc f) then .w64 else .w32, sb := .w32, types := .eff (fun t => typeSF t || typeNF t), sat := .eff, md := 31, extra := cvtsrOk }
    Ready e f s bid sid b x →
    let v := e.env f bid sid b x
    FpCompletes (.cvtsr f) e f s bid sid b x false
      (fun l => convert v.ty (cvtSrc f) 6 (v.bl l % 2 ^ 32) v.sat (v.al l)) (shapeUG [v.a, v.o])) ∧
  (∀ f s bid sid b x,
    let e : Enc := { opc := 0x44, lens := [2, 3], dst := .w32, sa := .w32, sb := .u32, types := .eff (fun t => t == 13), rov := .eff }
    Ready e f s bid sid b x →
    let v := e.env f bid sid b x
    FpCompletes (.qnt f) e f s bid sid b x false
      (fun l => quantAs8 v.rnd (v.word l) (sextInt 8 v.o.scalar) (v.al l)) (shapeUG [v.a, v.o])) ∧
  (∀ f s bid sid b x,
    let e := encDqnt f 0x45 .eff x.mode
    Ready e f s bid sid b x →
    let v := e.env f bid sid b x
    FpCompletes (.dqnt f) e f s bid sid b x false
      (fun l => deliver 1 v.rnd (v.word l) v.sat false
        (if typeMX v.ty then mxVal v.ty (v.al l % 2 ^ typeBits v.ty) (bitsOf (v.al l) 31 24)
         else numOf (sextInt 8 (v.al l)) (sextInt 8 (v.bl l)) false))
      (shapeUG (if typeMX v.ty then [v.a] else [v.a, v.o])))

/-! ### Predicates -/

/-- R132, R136: the compares and the predicate operations set bit l of their predicate from lane l for each active lane and keep the
others; no register and no other predicate changes. FCMP's and FCLASS's traps: an enabled invalid exception, and a class mask of 1024 or
more, whose trap names the active lanes, as no rule says (the model's choice, DEDUCED, log 23). -/
def Obligations.PredicateResults : Prop :=
  let bits := fun (v : Env) (g : Nat → Bool) =>
    ({ pred := some (v.f.dst.toNat, laneSet ((List.range 4).filter (fun l =>
        if v.act.getLsbD l then g l else (v.x.preds.getD v.f.dst.toNat 0).getLsbD l))) } : Out)
  let p := fun (v : Env) (k : Nat) (l : Nat) => (v.x.preds.getD k 0).getLsbD l
  let icmp : Enc := { opc := 0x46, lens := [2, 3], dst := .pd, sa := .ty, sb := .ty, types := .eff (fun t => typeInt t || t == 24 || t == 25), md := 15, extra := fun f t => decide (modOf f % 16 ≤ 5) && (typeInt t || decide (modOf f % 16 ≤ 1)) }
  let fcmp : Enc := { opc := 0x47, lens := [2, 3], dst := .pd, sa := .ty, sb := .ty, types := .eff typeFP, md := 31, extra := fun f _ => decide (modOf f % 16 ≤ 7) }
  let fclass : Enc := { opc := 0x48, lens := [2, 3], dst := .pd, sa := .ty, sb := .u32, types := .eff (fun t => typeFP t || typeNF t) }
  let a := fun (v : Env) (l : Nat) => decodeF v.ty (v.al l)
  let b := fun (v : Env) (l : Nat) => decodeF v.ty (v.bl l)
  let inv := fun (v : Env) (l : Nat) =>
    ({ inv := (a v l).isSig || (b v l).isSig || (bitOf v.md 4 && ((a v l).isNaN || (b v l).isNaN)) } : Excs)
  Gives .icmp (fun _ => icmp) (fun v _ => bits v (fun l =>
    let x := elemInt v.ty (v.al l)
    let y := elemInt v.ty (v.bl l)
    match v.md % 16 with
    | 0 => x == y | 1 => x != y | 2 => decide (x < y) | 3 => decide (x ≤ y) | 4 => decide (y < x) | _ => decide (y ≤ x))) ∧
  GivesIf .fcmp (fun _ => fcmp) (fun v _ => fpCause v.x.mode v.act (inv v) = none)
    (fun v _ => bits v (fun l => fcmpHolds (v.md % 16) (a v l) (b v l))) ∧
  Raises .fcmp (fun _ => fcmp) (fun v _ c ad m => fpCause v.x.mode v.act (inv v) = some (c, m) ∧ ad = 0) ∧
  GivesIf .fclass (fun _ => fclass) (fun v _ => v.o.scalar < 1024)
    (fun v _ => bits v (fun l => v.o.scalar.testBit (classOf v.ty (v.al l)))) ∧
  Raises .fclass (fun _ => fclass) (fun v _ c ad m => 1024 ≤ v.o.scalar ∧ c = 0x0102 ∧ ad = 0 ∧ m = v.act) ∧
  Gives .pand (fun _ => encPred 0x49) (fun v _ => bits v (fun l =>
    (p v v.f.sa.toNat l ^^ bitOf v.md 0) && (p v v.f.sb.toNat l ^^ bitOf v.md 1))) ∧
  Gives .por (fun _ => encPred 0x4A) (fun v _ => bits v (fun l =>
    (p v v.f.sa.toNat l ^^ bitOf v.md 0) || (p v v.f.sb.toNat l ^^ bitOf v.md 1))) ∧
  Gives .pxor (fun _ => encPred 0x4B) (fun v _ => bits v (fun l =>
    (p v v.f.sa.toNat l ^^ bitOf v.md 0) ^^ (p v v.f.sb.toNat l ^^ bitOf v.md 1))) ∧
  Gives .pnot (fun _ => { opc := 0x4C, lens := [1, 2], dst := .pd, sa := .pr }) (fun v _ => bits v (fun l => !p v v.f.sa.toNat l)) ∧
  Gives .pmov (fun f => { opc := 0x4D, lens := [1, 2], dst := .pd, sa := if bitOf (modOf f) 2 then .w32 else .pr, md := 4 })
    (fun v _ => bits v (fun l => if bitOf v.md 2 then v.al l != 0 else p v v.f.sa.toNat l))

/-! ### Across lanes -/

/-- R134 to R142, R78, R84: the cross-lane instructions over the present lanes of the issue set's gang: SHFL's source lane, BCAST's lane,
VOTE's four results, RDX's and SCAN's tree, TOPK's order. Where RDX or SCAN raises an enabled exception in some member, none executes:
each such member raises and the others wait. A lane that holds its own value where the gang lane it names is not present, TOPK's and
VOTE's tags, and the lanes of an exception that a combining node detects are the model's choices (DESIGN CHOICE, logs 118, 120). So are
the faults of the later slices where the first ends the block (DESIGN CHOICE, log 117) and the tag of a result under rsr (DEDUCED, log
26). R78, R129: QNT of an MX type over blocks of 32 gang lanes: the element quantised with the block's shared exponent and the scale in
bits 31:24 of the image; a block with a NaN or an infinity gives the NaN scale and signals invalid; where it raises in some member, none
executes (R136). The tag of the result and a member with no active lane are the model's choice (DESIGN CHOICE, log 119). So is that every
present lane of a block with a NaN or an infinity signals (DEDUCED, log 28). -/
def Obligations.CrossLaneResults : Prop :=
  (let none' := fun (_ : List Env) (_ : Env) (_ : Nat) => Excs.none
  let shfl := fun (_ : Fields) (w : Nat) => ({ opc := 0x52, lens := [2, 3], dst := .ty, sa := .ty, sb := .w32, types := .tov typeB, md := 31, extra := fun f _ => decide (modOf f / 4 % 8 ≤ 5) && decide (segOf (modOf f) w ≤ w) } : Enc)
  let bcast : Enc := { opc := 0x53, lens := [2, 3], dst := .ty, sa := .ty, sb := .u32, types := .tov typeB }
  let vote := fun (f : Fields) => ({ opc := 0x54, lens := [2], dst := if modOf f % 4 = 3 then .w64 else .pd, sa := .pr, md := 3 } : Enc)
  let topk : Enc := { opc := 0x57, lens := [2, 3], dst := .w32, sa := .w32, sb := .u32, types := .tov typeTopk, md := 3 }
  let ballot := fun (vs : List Env) (v : Env) (g : Nat) =>
    match gangLane vs g with | some q => (q.1.x.preds.getD v.f.sa.toNat 0).getLsbD q.2 | none => false
  let bits := fun (v : Env) (r : Bool) =>
    some (v.f.dst.toNat, laneSet ((List.range 4).filter (fun l =>
        if v.act.getLsbD l then r else (v.x.preds.getD v.f.dst.toNat 0).getLsbD l)))
  GivesTogether .shfl shfl
    (fun vs v => { regs := [v.write (typeWide v.ty) (quadNat (fun l =>
      ((shflSrc v.md v.b.width (v.lane l) (v.bl l % 2 ^ 32)).bind (gangA vs)).getD (v.al l))) .g] }) none' ∧
  GivesTogether .bcast (fun _ _ => bcast)
    (fun vs v => { regs := [v.write (typeWide v.ty)
      (Quad.all (BitVec.ofNat 64 ((gangA vs (v.o.scalar % v.b.width)).getD 0))) .u] }) none' ∧
  GivesTogether .vote (fun f _ => vote f)
    (fun vs v =>
      let set := (presentLanes vs v.b.width).filter (ballot vs v)
      match v.md % 4 with
      | 0 => { pred := bits v (!set.isEmpty) }
      | 1 => { pred := bits v (set.length == (presentLanes vs v.b.width).length) }
      | 2 => { pred := bits v (set.isEmpty || set.length == (presentLanes vs v.b.width).length) }
      | _ => { regs := [v.write true (Quad.all (BitVec.ofNat 64 (set.foldl (fun n g => n + 2 ^ g) 0))) .u] }) none' ∧
  GivesTogether .rdx (fun _ _ => encRed 0x55 15)
    (fun vs v => { regs := [v.write (typeWide v.ty)
      (Quad.all (BitVec.ofNat 64 (elemImage v.ty ((redRoot vs v v.b.width).1.getD 0)))) .u] })
    (fun vs v _ => (redRoot vs v v.b.width).2) ∧
  GivesTogether .scan (fun _ _ => encRed 0x56 31)
    (fun vs v => { regs := [v.write (typeWide v.ty) (quadNat (fun l =>
      elemImage v.ty ((redRoot vs v (if bitOf v.md 4 then v.lane l else v.lane l + 1)).1.getD 0))) .g] })
    (fun vs v _ => ((presentLanes vs v.b.width).map (fun g =>
      (redRoot vs v (if bitOf v.md 4 then g else g + 1)).2)).foldl Excs.join Excs.none) ∧
  GivesTogether .topk (fun _ _ => topk)
    (fun vs v =>
      let ord := topkOrder vs v
      let k := min v.o.scalar v.b.width
      { regs := [v.write false (quadNat (fun l =>
          let g := v.lane l
          if bitOf v.md 0 then (if g < k ∧ g < ord.length then ord.getD g 0 else 0xFFFFFFFF)
          else (if ord.idxOf g < k ∧ ord.idxOf g < ord.length then ord.idxOf g else 0xFFFFFFFF))) .g] }) none' ∧
  FaultsTogether .rdx (fun _ _ => encRed 0x55 15) (fun vs v _ => (redRoot vs v v.b.width).2) ∧
  FaultsTogether .scan (fun _ _ => encRed 0x56 31)
    (fun vs v _ => ((presentLanes vs v.b.width).map (fun g =>
      (redRoot vs v (if bitOf v.md 4 then g else g + 1)).2)).foldl Excs.join Excs.none)) ∧
  (∀ f s bid sid b xs, ReadyTogether (encQntMx b.width) f s bid sid b xs →
    let env := fun (p : Nat × Slice) => (encQntMx b.width).env f bid p.1 b p.2
    let vs := xs.map env
    let val := fun (v : Env) (l : Nat) => qntElem v.ty v.rnd (v.word l) (qntBlock vs (v.lane l)) (decodeF 1 (v.al l))
    let out := fun (v : Env) =>
      ({ regs := [v.write false (quadNat (fun l => (val v l).1)) (v.tagR (shapeUG [v.a]))], eff := v.advance } : Out)
    let bad := vs.filterMap (fun v => (fpCause v.x.mode v.act (fun l => (val v l).2)).map (fun c => (v.sid, c.1, c.2)))
    (bad ≠ [] → exec (.qnt f) s = .next (s.crossFault bid f.len (b.issueSet sid) bad)) ∧
    (bad = [] → ∃ ys : List Slice, ys.length = xs.length ∧
      exec (.qnt f) s = .next (settledAll bid ((xs.zip ys).map (fun q => (q.1.1, out (env q.1), q.2))) s) ∧
      ∀ q ∈ xs.zip ys, Went (encQntMx b.width) f q.1.2 (out (env q.1)) q.2))

/-! ### Registers, mode and pool -/

/-- R47, R109, R167: SETM puts its immediate into the mode register, NOP does nothing, and both only go on. R110, R107, R93: REL empties
the registers that its mask names, and SHAPE gives the tag code of a register or latch without reading it and with a last-use bit empties
it; a pending register that is emptied leaves its fill to drain. The premise says that no pending register stands spilled. What SHAPE
gives of an empty register under ERZ is the model's choice (DEDUCED, log 21). -/
def Obligations.RegisterInstructions : Prop :=
  (Gives .setm (fun _ => { opc := 0xEE, lens := [1, 3], gov0 := true, imm := true, extra := fun f _ => modeOk (immValue f) })
    (fun v _ => doing (fun s => s.modSlice v.bid v.sid (fun x => { x with mode := BitVec.ofNat 32 (immValue v.f) }))) ∧
  Gives .nop (fun _ => { opc := 0xEA, lens := [1, 2, 3], gov0 := true, lit := .role }) (fun _ _ => {})) ∧
  ((∀ f s bid sid b x,
    let e : Enc := { opc := 0xF0, lens := [3], gov0 := true, lit := .role, md := 0x400, extra := fun f _ => !bitOf (modOf f) 10 || decide ((f.lit?.getD 0).toNat < 2 ^ 28) }
    Ready e f s bid sid b x → (∀ k ∈ x.spilled, (x.reg k).isPend = false) →
    ∃ y, exec (.rel f) s = .next (settled (s.dropRegs bid sid ((relRegs f).filter (fun k => (x.reg k).isPend))) bid sid y) ∧
      Went e f x { rels := relRegs f } y) ∧
  (∀ f s bid sid b x,
    let e : Enc := { opc := 0x51, lens := [1, 2], dst := .w32, sa := .raw }
    Ready e f s bid sid b x → (∀ k ∈ x.spilled, (x.reg k).isPend = false) →
    let v := e.env f bid sid b x
    let rels := if f.la then [f.sa.toNat] else []
    let code := if 60 ≤ f.sa.toNat then (match x.latch (f.sa.toNat - 60) with | some l => l.tag.code | none => 0)
      else (x.reg f.sa.toNat).code
    ∃ y, exec (.shape f) s = .next (settled (s.dropRegs bid sid (rels.filter (fun k => (x.reg k).isPend))) bid sid y) ∧
      Went e f x { regs := [v.write false (Quad.all (BitVec.ofNat 64 code)) .u], rels := rels } y))

/-- R95, R111: GROW by zero does nothing; beyond the core's pool it traps GROW_LIMIT; where the floors leave room the block's floor rises;
otherwise it waits for words. SHRINK lowers the floor, and traps below zero or below what the block uses once the operand's last use has
released its register (R35). That these traps name the lanes of M is the model's choice (DEDUCED, log 23). R112, R90: POOLQ gives, in
every lane of its destination whenever one is active, the size of the pool, its free words, the block's floor, the words the block uses,
those of the slice, those that drain, or the sticky status, as they stand after the allocation for its own result; the last query clears
the status. That the free words are given modulo 2^32 is the model's choice (DESIGN CHOICE, log 122). -/
def Obligations.PoolInstructions : Prop :=
  (let left := fun (v : Env) (s : State) => s.usedOf v.bid -
    ((releasedRegs v.ty v.f ((encGrow 0xF2).sources v.f)).dedup.map (fun k => if v.x.spilled.contains k then 0 else (v.x.reg k).words)).sum
  GivesIf .grow (fun _ => encGrow 0xF1) (fun v _ => v.o.scalar = 0) (fun _ _ => {}) ∧
  GivesIf .grow (fun _ => encGrow 0xF1)
    (fun v s => v.o.scalar ≠ 0 ∧ v.b.floor + v.o.scalar ≤ s.poolSize v.b.die v.b.core ∧
      s.floorSum v.b.die v.b.core + v.o.scalar ≤ s.poolSize v.b.die v.b.core)
    (fun v _ => doing (fun s => s.modBlock v.bid (fun b => { b with floor := b.floor + v.o.scalar }))) ∧
  Raises .grow (fun _ => encGrow 0xF1) (fun v s c a m => v.o.scalar ≠ 0 ∧ s.poolSize v.b.die v.b.core < v.b.floor + v.o.scalar ∧
    c = 0x0203 ∧ a = 0 ∧ m = v.x.mask) ∧
  Waits .grow (fun _ => encGrow 0xF1)
    (fun v s s1 => v.o.scalar ≠ 0 ∧ v.b.floor + v.o.scalar ≤ s.poolSize v.b.die v.b.core ∧
      s.poolSize v.b.die v.b.core < s.floorSum v.b.die v.b.core + v.o.scalar ∧ s1 = s.joinWaiters v.bid v.sid v.o.scalar true) ∧
  GivesIf .shrink (fun _ => encGrow 0xF2) (fun v s => v.o.scalar ≤ v.b.floor ∧ left v s ≤ v.b.floor - v.o.scalar)
    (fun v _ => doing (fun s => s.modBlock v.bid (fun b => { b with floor := b.floor - v.o.scalar }))) ∧
  Raises .shrink (fun _ => encGrow 0xF2)
    (fun v s c a m => (v.b.floor < v.o.scalar ∨ v.b.floor - v.o.scalar < left v s) ∧ c = 0x0202 ∧ a = 0 ∧ m = v.x.mask)) ∧
  (∀ f s bid sid b x,
    let e : Enc := { opc := 0xF3, lens := [2], dst := .w32, md := 7 }
    Ready e f s bid sid b x →
    let v := e.env f bid sid b x
    ∃ y t n, exec (.poolq f) s = .next t ∧ t = v.onSlice (fun x => if v.md = 7 then { x with sticky := false } else x) (settled s bid sid y) ∧
      Went e f x { regs := [⟨f.dst.toNat, false, Quad.all (BitVec.ofNat 64 n), .u, .u, true, v.act⟩] } y ∧
      n = (match v.md with
        | 0 => s.poolSize b.die b.core
        | 1 => wrapNat 32 (t.freeWords b.die b.core)
        | 2 => b.floor
        | 3 => t.usedOf bid
        | 4 => y.words
        | 5 => s.drainOf bid
        | _ => if x.sticky then 1 else 0))

/-! ### Control -/

/-- R150, R151, R164: a branch, call or return with no active lane goes on; with every lane of M active it goes to its target, a call
leaving the address after it in its pair; with some it traps NONUNIFORM_BRANCH; a target that is no multiple of four traps
ILLEGAL_OPERAND. -/
def Obligations.Transfers : Prop :=
  let all := fun (v : Env) => v.act ≠ 0 ∧ v.act = v.x.mask
  let aligned := fun (t : Dword) => t.getLsbD 0 = false ∧ t.getLsbD 1 = false
  let rel := fun (v : Env) => v.x.pc + (v.f.lit?.getD 0).signExtend 64
  let ind := fun (v : Env) => v.a.v.l0
  let transfer := fun (i : Fields → Instr) (e : Enc) (target : Env → Dword) (call : Bool) =>
    GivesIf i (fun _ => e) (fun v _ => v.act = 0) (fun _ _ => {}) ∧
    GivesIf i (fun _ => e) (fun v _ => all v ∧ aligned (target v))
      (fun v _ => { regs := if call then [⟨v.f.dst.toNat, true, Quad.all (v.x.pc + BitVec.ofNat 64 (4 * v.f.len)), .u, .u, true, 0xF⟩] else [],
                    pc := some (target v) }) ∧
    Raises i (fun _ => e) (fun v _ c a m => v.act ≠ 0 ∧ v.act ≠ v.x.mask ∧ c = 0x0104 ∧ a = 0 ∧ m = v.act) ∧
    Raises i (fun _ => e) (fun v _ c a m => all v ∧ ¬aligned (target v) ∧ c = 0x0102 ∧ a = 0 ∧ m = v.act)
  transfer .bra { opc := 0xE0, lens := [3], lit := .role, extra := fun f _ => offsetOk f } rel false ∧
  transfer .brx { opc := 0xE1, lens := [1, 2], sa := .u64 } ind false ∧
  transfer .call { opc := 0xE2, lens := [3], dst := .w64, lit := .role, extra := fun f _ => offsetOk f } rel true ∧
  transfer .callx { opc := 0xE3, lens := [1, 2], dst := .w64, sa := .u64 } ind true ∧
  transfer .ret { opc := 0xE4, lens := [1, 2], sa := .u64 } ind false

/-- R144, R165: the mask instructions. IFM pushes M with the lanes it leaves for the other side and keeps the lanes of its condition; ELSM
takes the other side; ENDM restores M; BRKM takes lanes out of M and of the top n entries, the outer set of the n-th kept; where M becomes
0 a literal form skips to its target. A full or too short stack traps MASK_STACK. -/
def Obligations.Masks : Prop :=
  let cond := fun (v : Env) (all inv : Bool) =>
    let c : BitVec 4 := if all then 0xF else v.x.preds.getD v.f.sa.toNat 0
    if inv then ~~~c else c
  let put := fun (v : Env) (m : BitVec 4) (st : List MaskEntry) (skip : Bool) =>
    ({ eff := fun s => s.modSlice v.bid v.sid (fun x => { x with mask := m, mstack := st }),
       pc := if skip && m = 0 && v.f.lit?.isSome then some (v.x.pc + (v.f.lit?.getD 0).signExtend 64) else none } : Out)
  let ifm := fun (f : Fields) => ({ opc := 0xE5, lens := [1, 2, 3], sa := if bitOf (modOf f) 1 then .no else .pr, gov0 := true, lit := .role, md := 3, extra := fun f _ => offsetOk f } : Enc)
  let elsm : Enc := { opc := 0xE6, lens := [1, 3], gov0 := true, lit := .role, extra := fun f _ => offsetOk f }
  let endm : Enc := { opc := 0xE7, lens := [1], gov0 := true }
  let brkm : Enc := { opc := 0xE8, lens := [2, 3], sa := .pr, gov0 := true, lit := .role, md := 0x3F, extra := fun f _ => offsetOk f && decide (1 ≤ modOf f % 32) && decide (modOf f % 32 ≤ 16) }
  let stack := fun (c : Half) (a : Dword) (m : BitVec 4) (v : Env) => c = 0x0106 ∧ a = 0 ∧ m = v.x.mask
  GivesIf .ifm ifm (fun v _ => v.x.mstack.length ≠ 16) (fun v _ =>
    let c := cond v (bitOf v.md 1) (bitOf v.md 0)
    put v (v.x.mask &&& c) (⟨v.x.mask, v.x.mask &&& ~~~c⟩ :: v.x.mstack) true) ∧
  Raises .ifm ifm (fun v _ c a m => v.x.mstack.length = 16 ∧ stack c a m v) ∧
  Does .elsm (fun _ => elsm) (fun v s s1 o => s1 = s ∧ ∃ t st, v.x.mstack = t :: st ∧ o = put v t.alt (⟨t.outer, 0⟩ :: st) true) ∧
  Raises .elsm (fun _ => elsm) (fun v _ c a m => v.x.mstack = [] ∧ stack c a m v) ∧
  Does .endm (fun _ => endm) (fun v s s1 o => s1 = s ∧ ∃ t st, v.x.mstack = t :: st ∧ o = put v t.outer st false) ∧
  Raises .endm (fun _ => endm) (fun v _ c a m => v.x.mstack = [] ∧ stack c a m v) ∧
  GivesIf .brkm (fun _ => brkm) (fun v _ => v.md % 32 ≤ v.x.mstack.length) (fun v _ =>
    let l := v.x.mask &&& cond v false (bitOf v.md 5)
    let n := v.md % 32
    put v (v.x.mask &&& ~~~l)
      (v.x.mstack.zipIdx.map (fun p => if p.2 + 1 < n then ⟨p.1.outer &&& ~~~l, p.1.alt &&& ~~~l⟩
        else if p.2 + 1 = n then ⟨p.1.outer, p.1.alt &&& ~~~l⟩ else p.1)) true) ∧
  Raises .brkm (fun _ => brkm) (fun v _ c a m => v.x.mstack.length < v.md % 32 ∧ stack c a m v)

/-- R167, R168: EXIT with every lane active ends the slice, and with its last slice the block; with no lane active it does nothing; with
some it traps. REGANG waits until every slice of its call set waits at the same address; with the last slice of a part to come to it, all
slices of the gang whose call sets are complete go on as one part; a mask beyond the gang traps. That the trap of REGANG names the lanes
of M is the model's choice (DEDUCED, log 23). -/
def Obligations.ExitAndRegang : Prop :=
  let exitRow : Enc := { opc := 0xE9, lens := [1, 2] }
  let gang : Enc := { opc := 0xEB, lens := [1, 3], sb := .u32, gov0 := true }
  let arrived := fun (v : Env) (s : State) =>
    (s.modSlice v.bid v.sid (fun x => { x with prog := .pending (v.o.scalar ||| 2 ^ (v.sid % v.gangSlices)) })).setWaiting v.bid v.sid
  let called := fun (v : Env) (s : State) (ids : List Nat) => v.o.scalar < 2 ^ v.gangSlices ∧
    ∃ b, (arrived v s).blocks.get? v.bid = some b ∧
      ids = if b.moreToCome v.sid then [] else (b.slices.filter (fun p => p.1 / v.gangSlices == v.sid / v.gangSlices
        && (p.2.regangMask v.x.pc).isSome && (b.callSetReady p.1 v.x.pc).isSome)).map (fun p => p.1)
  let go := fun (v : Env) (ids : List Nat) (s : State) => ((ids.filter (fun k => k != v.sid)).foldl (fun s k =>
      match s.slice? v.bid k with
      | some y => complete 0xEB v.f v.bid k (releasedRegs 0 v.f (gang.sources v.f)) (y.readsEmpty 0 v.f (gang.sources v.f)) {} s
      | none => s) s).modBlock v.bid (fun b => b.mergeParts ids)
  GivesIf .exit (fun _ => exitRow) (fun v _ => v.act ≠ 0 ∧ v.act = v.x.mask) (fun v _ => doing (fun s => s.exitSlice v.bid v.sid)) ∧
  GivesIf .exit (fun _ => exitRow) (fun v _ => v.act = 0) (fun _ _ => {}) ∧
  Raises .exit (fun _ => exitRow) (fun v _ c a m => v.act ≠ 0 ∧ v.act ≠ v.x.mask ∧ c = 0x0104 ∧ a = 0 ∧ m = v.act) ∧
  Waits .regang (fun _ => gang) (fun v s s1 => ∃ ids, called v s ids ∧ v.sid ∉ ids ∧ s1 = go v ids (arrived v s)) ∧
  Does .regang (fun _ => gang) (fun v s s1 o => s1 = s ∧ ∃ ids, called v s ids ∧ v.sid ∈ ids ∧ o = doing (go v ids)) ∧
  Raises .regang (fun _ => gang) (fun v _ c a m => 2 ^ v.gangSlices ≤ v.o.scalar ∧ c = 0x0102 ∧ a = 0 ∧ m = v.x.mask)

/-! ### Groups -/

/-- R154 to R158, R169: GJOIN. Where no group of its key is forming, it takes a free slot with the next generation: alone with a count of
1 it forms the group and goes on, otherwise it waits there; a member that brings the count to its size forms the group, publishes it and
goes on, any other waits; a member whose group has formed while it waited goes on. The handle stands in every lane. A count out of range
or unlike the group's traps GROUP_COUNT, and no slot GROUP_LIMIT. Which free slot, the spec leaves open but for a worked case: the choice,
and that a shadow waits for the slot that its block took, are the model's (DESIGN CHOICE, log 25). A shadow block that names a block group
stops instead (R355). The lanes of the traps are the model's choice (DEDUCED, log 23). R154, R157, R170: GLEAVE takes the issuer out of
the current set, GRANK gives the number of published members below it in order and GSIZE the number of published members; a handle that
names no Formed group of its scope traps GROUP_HANDLE, and GLEAVE and GRANK of an issuer that is no current member trap GROUP_MEMBER. The
lanes of the traps are the model's choice (DEDUCED, log 23). -/
def Obligations.Groups : Prop :=
  (let row : Enc := { opc := 0xB4, lens := [1, 2, 3], dst := .w32, sa := .u32, sb := .u32, gov0 := true, md := 1 }
  let blk := fun (v : Env) => bitOf v.md 0
  let me := fun (v : Env) => if blk v then v.bid else v.sid
  let code := fun (v : Env) => if blk v then v.bid * 256 + v.sid else v.sid
  let table := fun (v : Env) (s : State) => if blk v then (s.die v.b.die).groups else v.b.groups
  let mine := fun (v : Env) (g : Group) =>
    g.key == BitVec.ofNat 32 v.a.scalar && (!blk v || (g.ctx == v.b.ctx && g.node == v.b.node))
  let counted := fun (v : Env) => 1 ≤ v.o.scalar ∧ v.o.scalar ≤ if blk v then min 64 v.b.nblocks.toNat else v.b.nslices
  let held := fun (v : Env) (s : State) => (table v s).find? (fun p => mine v p.2 && p.2.waiting.contains (code v))
  let forming := fun (v : Env) (s : State) => (table v s).find? (fun p => mine v p.2 && p.2.state == 1)
  let owned := fun (v : Env) (s : State) => ((table v s).filter (fun p => p.2.state != 0 && p.2.ctx == v.b.ctx)).length
  let normal := fun (v : Env) => ¬(blk v = true ∧ v.b.shadowOf.isSome = true)
  let joined := fun (v : Env) (g : Group) => if g.current.contains (me v) then g.current else g.current ++ [me v]
  let handle := fun (v : Env) (g : Group) (slot : Nat) =>
    ⟨v.f.dst.toNat, false, Quad.all (BitVec.ofNat 64 ((if blk v then 2 ^ 31 else 0) + g.gen.toNat * 256 + slot)), .u, .u, true, 0xF⟩
  let fresh := fun (v : Env) (gen : Half) =>
    ({ key := BitVec.ofNat 32 v.a.scalar, gen := gen + 1, state := 1, count := v.o.scalar, current := [me v], published := [],
       waiting := [code v], ctx := v.b.ctx, node := v.b.node, epoch := 0 } : Group)
  GivesIf .gjoin (fun _ => row) (fun v _ => ¬normal v)
    (fun v _ => doing (fun s => (s.modBlock v.bid (fun b => { b with stopped := true })).endBlock v.bid none)) ∧
  -- no group of the key is forming
  Does .gjoin (fun _ => row) (fun v s s1 o => s1 = s ∧ normal v ∧ v.o.scalar = 1 ∧ counted v ∧ held v s = none ∧ forming v s = none ∧
    ∃ slot gen, s.groupSlot v.b (blk v) (table v s) (BitVec.ofNat 32 v.a.scalar).toNat = .at slot gen ∧ (blk v = true → owned v s < 32) ∧
      let g := { fresh v gen with state := 2, published := [me v], waiting := [] }
      o = { regs := [handle v g slot], eff := fun s => s.takeGroup v.bid (blk v) slot g }) ∧
  Waits .gjoin (fun _ => row) (fun v s s1 => normal v ∧ v.o.scalar ≠ 1 ∧ counted v ∧ held v s = none ∧ forming v s = none ∧
    ∃ slot gen, s.groupSlot v.b (blk v) (table v s) (BitVec.ofNat 32 v.a.scalar).toNat = .at slot gen ∧ (blk v = true → owned v s < 32) ∧
      s1 = s.takeGroup v.bid (blk v) slot (fresh v gen)) ∧
  Waits .gjoin (fun _ => row) (fun v s s1 => s1 = s ∧ normal v ∧ counted v ∧ held v s = none ∧ forming v s = none ∧
    s.groupSlot v.b (blk v) (table v s) (BitVec.ofNat 32 v.a.scalar).toNat = .wait) ∧
  Raises .gjoin (fun _ => row) (fun v s c a m => normal v ∧ counted v ∧ held v s = none ∧ forming v s = none ∧
    (s.groupSlot v.b (blk v) (table v s) (BitVec.ofNat 32 v.a.scalar).toNat = .limit ∨ (blk v = true ∧ 32 ≤ owned v s)) ∧ c = 0x0107 ∧ a = 0 ∧ m = v.x.mask) ∧
  -- one is
  Does .gjoin (fun _ => row) (fun v s s1 o => s1 = s ∧ normal v ∧ counted v ∧ held v s = none ∧ ∃ slot g, forming v s = some (slot, g) ∧
    g.count = v.o.scalar ∧ (joined v g).length = g.count ∧
    o = { regs := [handle v g slot],
          eff := fun s => s.putGroup v.bid (blk v) slot { g with state := 2, current := joined v g, published := joined v g } }) ∧
  Waits .gjoin (fun _ => row) (fun v s s1 => normal v ∧ counted v ∧ held v s = none ∧ ∃ slot g, forming v s = some (slot, g) ∧
    g.count = v.o.scalar ∧ (joined v g).length ≠ g.count ∧
    s1 = s.putGroup v.bid (blk v) slot { g with current := joined v g, waiting := code v :: g.waiting }) ∧
  Raises .gjoin (fun _ => row) (fun v s c a m => normal v ∧
    (¬counted v ∨ (held v s = none ∧ ∃ slot g, forming v s = some (slot, g) ∧ g.count ≠ v.o.scalar)) ∧ c = 0x010A ∧ a = 0 ∧ m = v.x.mask) ∧
  -- the slice waits already
  Waits .gjoin (fun _ => row) (fun v s s1 => s1 = s ∧ normal v ∧ counted v ∧ ∃ slot g, held v s = some (slot, g) ∧ g.state ≠ 2) ∧
  Does .gjoin (fun _ => row) (fun v s s1 o => s1 = s ∧ normal v ∧ counted v ∧ ∃ slot g, held v s = some (slot, g) ∧ g.state = 2 ∧
    (table v s).get? slot = some g ∧ s.blocks.get? v.bid = some v.b ∧
    o = { regs := [handle v g slot],
          eff := fun s => s.putGroup v.bid (blk v) slot { g with waiting := g.waiting.filter (fun c => c != code v) } })) ∧
  (let leave : Enc := { opc := 0xB5, lens := [1], sa := .u32, gov0 := true }
  let rank : Enc := { opc := 0xB6, lens := [1], dst := .w32, sa := .u32, gov0 := true }
  let size : Enc := { opc := 0xB7, lens := [1], dst := .w32, sa := .u32, gov0 := true }
  let me := fun (v : Env) (blk : Bool) => if blk then v.bid else v.sid
  let named := fun (v : Env) (s : State) (blk : Bool) (slot : Nat) (g : Group) =>
    let h := v.a.scalar
    blk = h.testBit 31 ∧ slot = h % 256 ∧ (blk = false → slot ≤ 15) ∧ bitsOf h 30 24 = 0 ∧
      (if blk then (s.die v.b.die).groups else v.b.groups).get? slot = some g ∧ g.gen.toNat = bitsOf h 23 8 ∧ g.state = 2 ∧
      (blk = true → g.ctx = v.b.ctx)
  let bad := fun (v : Env) (s : State) (c : Half) (a : Dword) (m : BitVec 4) =>
    (¬∃ blk slot g, named v s blk slot g) ∧ c = 0x0108 ∧ a = 0 ∧ m = v.x.mask
  let notIn := fun (v : Env) (s : State) (c : Half) (a : Dword) (m : BitVec 4) =>
    (∃ blk slot g, named v s blk slot g ∧ ¬me v blk ∈ g.current) ∧ c = 0x0109 ∧ a = 0 ∧ m = v.x.mask
  let all := fun (v : Env) (n : Nat) => (⟨v.f.dst.toNat, false, Quad.all (BitVec.ofNat 64 n), .u, .u, true, 0xF⟩ : RegWrite)
  Does .gleave (fun _ => leave) (fun v s s1 o => s1 = s ∧ ∃ blk slot g, named v s blk slot g ∧ me v blk ∈ g.current ∧
    o = doing (fun s => s.putGroup v.bid blk slot (if blk then g.leaveBlock v.bid else g.leave id v.sid))) ∧
  Raises .gleave (fun _ => leave) (fun v s c a m => bad v s c a m ∨ notIn v s c a m) ∧
  Does .grank (fun _ => rank) (fun v s s1 o => s1 = s ∧ ∃ blk slot g, named v s blk slot g ∧ me v blk ∈ g.current ∧
    o = { regs := [all v (g.published.filter (fun m => decide (s.memberOrder blk m < s.memberOrder blk (me v blk)))).length] }) ∧
  Raises .grank (fun _ => rank) (fun v s c a m => bad v s c a m ∨ notIn v s c a m) ∧
  Does .gsize (fun _ => size) (fun v s s1 o => s1 = s ∧ ∃ blk slot g, named v s blk slot g ∧
    o = { regs := [all v g.published.length] }) ∧
  Raises .gsize (fun _ => size) bad)

/-! ### Exceptions -/

/-- R136, R398, R399, R400: TRAP and BKPT with an active lane take their trap (cause 0x1000 plus the code; BREAKPOINT with the code in
trap.addr, unless the context has breakpoints off), and otherwise go on. TRET outside a trap entry traps TRAP_STATE; inside one it gives
back the saved mode, mask, mask stack and latches, leaves the entry and goes to the trapped instruction, to the one after it, or to an
address given (R136: a slice that an issue set still holds waits there again, or leaves the set). That TRET's TRAP_STATE and
ILLEGAL_OPERAND name the lanes of M is the model's choice (DEDUCED, log 23). R401: ERRL gives the number of entries the context has
logged, or the eight words of one entry as they stand in the log, zero where the entry is not among the last 64. -/
def Obligations.TrapInstructions : Prop :=
  (let tret := fun (f : Fields) => ({ opc := 0xF9, lens := [1, 2], sa := if modOf f % 4 = 2 then .u64 else .no, gov0 := true, md := 3, extra := fun f _ => modOf f % 4 != 3 } : Enc)
  let off := fun (v : Env) (s : State) => (s.ctxs.get? v.b.ctx).any (fun c => c.bkoff)
  let target := fun (v : Env) => match v.md with | 0 => v.x.frame.pc | 1 => v.x.frame.next | _ => v.a.v.l0
  GivesIf .trap (fun _ => encCode 0xF8) (fun v _ => v.act = 0) (fun _ _ => {}) ∧
  Raises .trap (fun _ => encCode 0xF8) (fun v _ c a m => v.act ≠ 0 ∧ c = BitVec.ofNat 16 (0x1000 + immValue v.f) ∧ a = 0 ∧ m = v.act) ∧
  GivesIf .bkpt (fun _ => encCode 0xFF) (fun v s => v.act = 0 ∨ off v s = true) (fun _ _ => {}) ∧
  Raises .bkpt (fun _ => encCode 0xFF) (fun v s c a m => v.act ≠ 0 ∧ off v s = false ∧ c = 0x010B ∧ a = BitVec.ofNat 64 (immValue v.f) ∧ m = v.act) ∧
  Raises .tret tret (fun v _ c a m => v.x.frame.inTrap = false ∧ c = 0x010C ∧ a = 0 ∧ m = v.x.mask) ∧
  Raises .tret tret (fun v _ c a m => v.x.frame.inTrap = true ∧ v.md = 2 ∧ ((target v).getLsbD 0 = true ∨ (target v).getLsbD 1 = true) ∧
    c = 0x0102 ∧ a = 0 ∧ m = v.x.mask) ∧
  GivesIf .tret tret (fun v _ => v.x.frame.inTrap = true ∧ (v.md = 2 → (target v).getLsbD 0 = false ∧ (target v).getLsbD 1 = false))
    (fun v _ => doing (fun s =>
      let back := fun (y : Slice) => { y with mode := y.frame.mode, mask := y.frame.mask, mstack := y.frame.mstack, latches := y.frame.latches,
                                              frame := { y.frame with inTrap := false }, pc := target v }
      match v.x.crossHome with
      | none => s.modSlice v.bid v.sid back
      | some a =>
        if a = target v then s.modSlice v.bid v.sid (fun y => { back y with crossHome := none, run := .waiting, pend := true })
        else s.modBlock v.bid (fun b => (b.leavePart v.sid).modSlice v.sid (fun y => { back y with crossHome := none }))))) ∧
  (let row := fun (f : Fields) => ({ opc := 0xFA, lens := [1, 2], dst := if bitOf (modOf f) 0 then .w64 else .eight, sa := if bitOf (modOf f) 0 then .no else .u64, gov0 := true, md := 1 } : Enc)
  Does .errl row (fun v s s1 o => s1 = s ∧ bitOf v.md 0 = true ∧ ∃ c, s.ctxs.get? v.b.ctx = some c ∧
    o = { regs := [⟨v.f.dst.toNat, true, Quad.all c.logCount, .u, .u, true, 0xF⟩] }) ∧
  Does .errl row (fun v s s1 o => s1 = s ∧ bitOf v.md 0 = false ∧ ∃ c, s.ctxs.get? v.b.ctx = some c ∧
    o = { regs := (List.range 8).map (fun k => ⟨v.f.dst.toNat + k, false, Quad.all (BitVec.ofNat 64
            (if v.a.scalar < c.logCount.toNat ∧ c.logCount.toNat ≤ v.a.scalar + 64
              then leNat (s.physRead c.recDie (c.recPa + 0x800 + 32 * (v.a.scalar % 64) + 4 * k) 4) else 0)), .u, .u, true, 0xF⟩) }))

/-- R393: a fault of a slice whose block has a trap entry, outside one, enters it: the frame holds the cause, the address, the pc, the
lanes, the address after the instruction, and the mode, mask, mask stack and latches, which are then 0, all lanes, empty and empty; the pc
is the entry; INTRAP is set. For a slice that waits in a latch-clearing instruction the latches are those that the instruction has read,
since it executes again: the model's choice (DESIGN CHOICE, log 17). Registers, predicates, counters and the retired count stand, and so
does every other slice but for the number of its part. With LOGH clear no byte of memory and no other block changes. R153, R393, R395: a
fault of a slice in its trap entry, of a block with none, or LEASE_MISS escalates: the block retires with that cause as its error,
whatever ESC says. -/
def Obligations.Exceptions : Prop :=
  (∀ (s : State) bid sid cause addr lanes len cross b x entry,
    s.blocks.get? bid = some b → b.slices.get? sid = some x → b.trapEntry = some entry → x.frame.inTrap = false → cause ≠ 0x0309 →
    let t := s.trap bid sid cause addr lanes len cross
    (∃ y, t.slice? bid sid = some y ∧
      y = { x with
        frame := { inTrap := true, taken := true, cause := cause, addr := addr, pc := x.pc, next := x.pc + BitVec.ofNat 64 (4 * len),
                   lanes := lanes, mode := x.mode, mask := x.mask, mstack := x.mstack, latches := if x.latchSources = [] then x.latches else x.latchSources }
        mode := 0, mask := 0xF, mstack := [], latches := [none, none, none, none], pc := entry, run := .running, prog := .fresh,
        pend := false, part := if cross then x.part else sid, crossHome := if cross then some x.pc else none, clearing := true, cleared := true, latchSources := [], opc := none }) ∧
    (∀ k z, k ≠ sid → b.slices.get? k = some z → ∃ p, t.slice? bid k = some { z with part := p }) ∧
    ((∀ c, s.ctxs.get? b.ctx = some c → c.logh = false) →
      t.mem = s.mem ∧ t.ctxs = s.ctxs ∧ ∀ c, c ≠ bid → t.blocks.get? c = s.blocks.get? c) ∧
    (∀ c, s.ctxs.get? b.ctx = some c → c.logh = true →
      t.mem = (s.log b.ctx { cause := cause, die := b.die, core := b.core, slice := sid, flags := 2, block := b.idx.toNat,
                             lanes := lanes.toNat, pc := x.pc.toNat, addr := addr.toNat }).mem)) ∧
  (∀ (s : State) bid sid cause addr lanes len cross b x,
    s.blocks.get? bid = some b → b.slices.get? sid = some x → b.state = .resident →
    (b.trapEntry = none ∨ x.frame.inTrap = true ∨ cause = 0x0309) →
    ∃ b', (s.trap bid sid cause addr lanes len cross).blocks.get? bid = some b' ∧ b'.state = .retired ∧ b'.error = some cause)

/-! ### Loads and stores -/

/-- R172, R177, R178, R193, R204, R205: LD, LDS and LDU whose elements pass their checks make their registers pending and begin one fill
that counts in the gang's load counter; LDU with no active lane writes nothing but an empty register. A lane's element k lies at the base,
the literal and k element sizes, modulo 2^64 for global memory and exactly for the scratchpad; LDU reads for its lowest active lane and
fills all four. A global load sends one request for each part that no cached line answers, an ordered block's after the partials that
other cores keep of its lines have gone to their homes (R257); a scratchpad load has its bytes at once. That a load with no active lane
makes its registers pending with tag G is the model's choice (DEDUCED, log 39). The statement is of loads that complete: where one waits
or faults is left to the waits and faults of its checks. -/
def Obligations.Loads : Prop :=
  let ldu := fun (f : Fields) => ({ opc := 0x64, lens := [1, 2, 3], dst := .ty, sa := if bitOf (modOf f) 2 then .u32 else .u64, types := .eff typeMT, lit := .role, md := 4 } : Enc)
  let regs := fun (v : Env) (n : Nat) => (List.range (n * (if typeWide v.ty then 2 else 1))).map (fun i => v.f.dst.toNat + i)
  let elems := fun (v : Env) (n : Nat) (ls : List Nat) => ls.flatMap (fun l => (List.range n).map (fun k =>
    ({ lane := l, k := k, va := (v.al l + ((v.f.lit?.getD 0).signExtend 64).toNat + k * elemSize v.ty) % 2 ^ 64, size := elemSize v.ty } : MElem)))
  let places := fun (v : Env) (n : Nat) (ls : List Nat) => ls.flatMap (fun l => (List.range n).map (fun k =>
    (l, k, ((v.al l % 2 ^ 32 : Nat) : Int) + (v.f.lit?.getD 0).toInt + ((k * elemSize v.ty : Nat) : Int))))
  let global := fun (v : Env) (s s1 : State) (o : Out) (n : Nat) (ls : List Nat) (t : Tag) (whole : Bool) =>
    ∃ s0 ps, s.checkGlobal v {} .read (!s.isOrdered v.b) (elems v n ls) = .go s0 ps ∧ s0.counterRoom v true = true ∧
      s1 = s0.recallFor (s0.isOrdered v.b) ps ∧ o = loadOut v (regs v n) t whole ((elems v n ls).zipIdx.map (fun q =>
        q.1.toFill v.f.dst.toNat v.ty ps q.2 (s1.knownPart v (s1.isOrdered v.b)))) ps
  let window := fun (v : Env) (s s1 : State) (o : Out) (n : Nat) (ls : List Nat) (t : Tag) (whole : Bool) =>
    ∃ es, s1 = s ∧ s.winGate v (elemSize v.ty) (places v n ls) = .go es ∧ pickFail (v.b.winPoisoned es) = none ∧
      s.counterRoom v true = true ∧ o = loadOut v (regs v n) t whole (v.b.winFills v.f.dst.toNat v.ty es) []
  Does .ld (fun _ => encLd 0x60 .w64) (fun v s s1 o => global v s s1 o (countOf v.f) (lanesOf v.act) .g false) ∧
  Does .lds (fun _ => encLd 0x62 .w32) (fun v s s1 o => window v s s1 o (countOf v.f) (lanesOf v.act) .g false) ∧
  Does .ldu ldu (fun v s s1 o => ∃ l ls, lanesOf v.act = l :: ls ∧
    if bitOf (modOf v.f) 2 then window v s s1 o 1 [l] .u true else global v s s1 o 1 [l] .u true) ∧
  GivesIf .ldu ldu (fun v _ => v.act = 0)
    (fun v _ => { regs := [⟨v.f.dst.toNat, typeWide v.ty, Quad.all 0, .u, .u, false, v.act⟩] })

/-- R177, R178, R206, R212, R349: ST and STS whose elements pass their checks. ST of a block that is not ordered brings its bytes into the
core's own lines and sends one write for each part, counted in the gang's store counter and in the core's open phase; of an ordered block
it writes the round's buffer. STS writes the window at once: afterwards each byte of the window reads as the latest element that covers
it, or as before, and nothing else differs but poison that it covers, what waiting slices found of a barrier object, and the bytes that
the slice's own earlier fills of slots have still to take, which are then taken (R185, R245, R286). That an instruction's elements follow
those of the lower slices of its part is the model's choice (DEDUCED, log 35). -/
def Obligations.Stores : Prop :=
  let elems := fun (v : Env) => (lanesOf v.act).flatMap (fun l => (List.range (countOf v.f)).map (fun k =>
    ({ lane := l, k := k, va := (v.al l + ((v.f.lit?.getD 0).signExtend 64).toNat + k * elemSize v.ty) % 2 ^ 64, size := elemSize v.ty } : MElem)))
  let places := fun (v : Env) => (lanesOf v.act).flatMap (fun l => (List.range (countOf v.f)).map (fun k =>
    (l, k, ((v.al l % 2 ^ 32 : Nat) : Int) + (v.f.lit?.getD 0).toInt + ((k * elemSize v.ty : Nat) : Int))))
  let data := fun (v : Env) (e : MElem) =>
    if typeWide v.ty then
      leBytes 4 ((v.o.run.getD (2 * e.k) (Quad.all 0)).get e.lane).toNat ++ leBytes 4 ((v.o.run.getD (2 * e.k + 1) (Quad.all 0)).get e.lane).toNat
    else leBytes (elemSize v.ty) ((v.o.run.getD e.k (Quad.all 0)).get e.lane).toNat
  Does .st (fun _ => encSt 0x61 .w64) (fun v s s1 o => ∃ ps, s.checkGlobal v {} .write false (elems v) = .go s1 ps ∧
    (s1.isOrdered v.b = true → s1.logFull v ps = false) ∧ s1.storeRoom v = true ∧ s1.sendRoom v ps = true ∧
    o = doing (fun s => s.storeParts v (s1.isOrdered v.b) ps (fun e => data v ((elems v).getD e default)))) ∧
  Does .sts (fun _ => encSt 0x63 .w32) (fun v s s1 o => ∃ es, s1 = s ∧ s.winGate v (elemSize v.ty) (places v) = .go es ∧
    s.storeRoom v = true ∧ o = doing (fun s => s.winStoreAll v (es.map (fun e => (e.va, data v e))))) ∧
  ∀ (s : State) (v : Env) (ws : List (Nat × List Byte)) b, s.blocks.get? v.bid = some b →
    let t := s.winStoreAll v ws
    t = { s with blocks := t.blocks, issues := t.issues } ∧ (∀ k, k ≠ v.bid → t.blocks.get? k = s.blocks.get? k) ∧
    (∀ k, k ≠ v.x.issueNo → t.issues.get? k = s.issues.get? k) ∧
    ∃ c, t.blocks.get? v.bid = some c ∧ c = { b with window := c.window, winPoison := c.winPoison, slices := c.slices, slotFills := c.slotFills } ∧
      (∀ a, c.window.read a = match ws.reverse.find? (fun w => decide (w.1 ≤ a) && decide (a < w.1 + w.2.length)) with
        | some w => w.2.getD (a - w.1) 0
        | none => b.window.read a) ∧
      (∀ l ∈ c.winPoison, l ∈ b.winPoison) ∧
      (∀ l ∈ b.winPoison, (∀ w ∈ ws, w.1 + w.2.length ≤ l * 128 ∨ l * 128 + 128 ≤ w.1) →
        (∀ i, s.issues.get? v.x.issueNo = some i → ∃ j, j < 128 ∧ 2 ^ 60 + l * 128 + j ∉ i.cover) → l ∈ c.winPoison) ∧
      ∀ k, ∃ p : Slice → Prog, c.slices.get? k = (b.slices.get? k).map (fun x => { x with prog := p x })

/-- R196 to R200, R207: what TLD and TST form from their record: the record is read as an LD at a multiple of 64; a lane's element j has
the lane's coordinates with j added to the first, and an address only where every coordinate lies in bounds: the base, x0 elements, and
each further coordinate times sixteen times its stride, permuted by the swizzle in the window. R198, R200, R207: TLD begins a fill of its
image's register or pair, with the record's fill value for elements out of bounds; TST stores its image's elements and leaves those out of
bounds alone. Coordinate registers with LB, and TST's data with LC, are released. What a TLD or TST with no active lane does, and where
the register image of a vector lies, are the model's choice (DEDUCED, log 39; DEDUCED, log 40). So are the value of a NaN FILL (DESIGN
CHOICE, log 121) and how the record's read waits and where it may lie (DEDUCED, log 36). -/
def Obligations.TensorAccess : Prop :=
  (∀ (s : State) (v : Env) s1 bytes,
    let r := TensorRec.ofBytes bytes
    v.a.scalar % 64 = 0 → s.readAsLd v v.a.scalar 64 v.act = .got s1 bytes →
    r.ok (bitOf (leNat ((bytes.drop 9).take 1)) 7) typeTensor = true → 2 ^ (v.md % 4) * elemSize r.ty ≤ 8 → v.f.sb.toNat + r.rank ≤ 60 →
    (∀ i, i < r.rank → (v.x.reg (v.f.sb.toNat + i)).isPend = false ∧ (v.x.mode.getLsbD 14 = true ∨ v.x.reg (v.f.sb.toNat + i) ≠ .empty)) →
    ∃ es, s.tensorGate v = .go s1 r es ∧ es.length = (lanesOf v.act).length * 2 ^ (v.md % 4) ∧
      ∀ e ∈ es, e.lane ∈ lanesOf v.act ∧ e.j < 2 ^ (v.md % 4) ∧
        let x := fun i => ((v.x.reg (v.f.sb.toNat + i)).lanes.get e.lane).toInt + (if i = 0 then (e.j : Int) else 0)
        let inside := ∀ i, i < r.rank → 0 ≤ x i ∧ x i < r.dims.getD i 0
        let addr := r.base + (x 0).toNat * elemSize r.ty +
          (((List.range r.rank).drop 1).map (fun i => (x i).toNat * r.strides.getD i 0 * 16)).sum
        (¬inside → e.addr = none) ∧ (inside → e.addr = some (if r.space then r.permute addr else addr))) ∧
  (let size := fun (r : TensorRec) => elemSize r.ty
  let n := fun (v : Env) => 2 ^ (v.md % 4)
  let mes := fun (r : TensorRec) (es : List TElem) =>
    (es.filter (fun e => e.addr.isSome)).map (fun e => (⟨e.lane, e.j, e.addr.getD 0 % 2 ^ 64, size r⟩ : MElem))
  let wins := fun (r : TensorRec) (es : List TElem) => (mes r es).map (fun e => (e.lane, e.k, (e.va : Int)))
  let img := fun (v : Env) (r : TensorRec) (e : TElem) (ps : List (Nat × Nat × Option Dword)) => e.toFill v.f.dst.toNat (n v) r.ty ps
  let outOf := fun (v : Env) (r : TensorRec) (es : List TElem) =>
    (es.filter (fun e => e.addr.isNone)).map (fun e => img v r e [(0, size r, some (BitVec.ofNat 64 r.fillValue))])
  let regs := fun (v : Env) (r : TensorRec) => if n v * size r = 8 then [v.f.dst.toNat, v.f.dst.toNat + 1] else [v.f.dst.toNat]
  let coords := fun (v : Env) (r : TensorRec) => if v.f.lb then (List.range r.rank).map (fun i => v.f.sb.toNat + i) else []
  let load := fun (v : Env) (r : TensorRec) (els : List FillElem) (ps : List Placed) =>
    { loadOut v (regs v r) .g false els ps with
        rels := coords v r, eff := fun s => v.coordSticky r.rank ((loadOut v (regs v r) .g false els ps).eff s) }
  let ok := fun (v : Env) (r : TensorRec) =>
    (n v * size r = 8 → pairOk v.f.dst.toNat = true) ∧ ∀ k ∈ regs v r, (v.x.reg k).isPend = false
  DoesIn .tld (fun _ => encTld) (fun v s s1 o => ∃ r es wes, s.tensorGate v = .go s1 r es ∧ ok v r ∧ r.space = true ∧
    s1.winGate v (size r) (wins r es) = .go wes ∧ pickFail (v.b.winPoisoned wes) = none ∧ s1.counterRoom v true = true ∧
    o = load v r ((es.filter (fun e => e.addr.isSome)).map (fun e =>
          img v r e [(0, size r, some (BitVec.ofNat 64 (v.b.window.readNat (e.addr.getD 0) (size r))))]) ++ outOf v r es) []) ∧
  DoesIn .tld (fun _ => encTld) (fun v s s2 o => ∃ s1 r es ps, s.tensorGate v = .go s1 r es ∧ ok v r ∧ r.space = false ∧
    ∃ s0, s1.checkGlobal v {} .read (!s1.isOrdered v.b) (mes r es) = .go s0 ps ∧ s0.counterRoom v true = true ∧
    s2 = s0.recallFor (s0.isOrdered v.b) ps ∧
    o = load v r ((es.filter (fun e => e.addr.isSome)).zipIdx.map (fun q => img v r q.1
          ((ps.filter (fun p => p.e == q.2)).map (fun p =>
            (p.off, p.size, (s2.knownPart v (s2.isOrdered v.b) p).map (BitVec.ofNat 64))))) ++ outOf v r es) ps) ∧
  let image := fun (v : Env) (r : TensorRec) (e : MElem) =>
    leBytes (size r) (((v.tstData (n v * size r = 8)).v.get e.lane).toNat / 2 ^ (8 * e.k * size r))
  let rels := fun (v : Env) (r : TensorRec) =>
    coords v r ++ (if v.f.ext.lc then (if n v * size r = 8 then [v.f.ext.sc.toNat, v.f.ext.sc.toNat + 1] else [v.f.ext.sc.toNat]) else [])
  DoesIn .tst (fun _ => encTst) (fun v s s1 o => ∃ r es wes, s.tensorGate v = .go s1 r es ∧
    v.tstCheck (n v * size r = 8) = .ok ∧ r.space = true ∧ s1.winGate v (size r) (wins r es) = .go wes ∧ s1.storeRoom v = true ∧
    o = { rels := rels v r, eff := fun s => v.tstSticky (n v * size r = 8) (v.coordSticky r.rank
            (s.winStoreAll v (wes.map (fun e => (e.va, image v r e))))) }) ∧
  DoesIn .tst (fun _ => encTst) (fun v s s2 o => ∃ s1 r es ps, s.tensorGate v = .go s1 r es ∧
    v.tstCheck (n v * size r = 8) = .ok ∧ r.space = false ∧ s1.checkGlobal v {} .write false (mes r es) = .go s2 ps ∧
    (s2.isOrdered v.b = true → s2.logFull v ps = false) ∧ s2.storeRoom v = true ∧ s2.sendRoom v ps = true ∧
    o = { rels := rels v r, eff := fun s => v.tstSticky (n v * size r = 8) (v.coordSticky r.rank
            (s.storeParts v (s2.isOrdered v.b) ps (fun e => image v r ((mes r es).getD e default)))) }))

/-- R186, R188, R208 to R211: PRF asks for the lines of its active lanes and changes no register; PIN takes pins at the bays and gives
each lane's status as a value or a predicate, and waits while a way cannot be freed yet (R183); UNPIN gives one back; WAITC goes on once
its counters are low enough and waits until then; PRES reads the state of a line, or sets or clears a run of lines. That PRES leaves a
line that R188 has no row for as it is, and the address of its trap (DESIGN CHOICE, log 125), and that PIN finds a line of an uncached
page busy (DESIGN CHOICE, log 127), are the model's choices. -/
def Obligations.CacheControl : Prop :=
  let prf : Enc := { opc := 0x6C, lens := [1, 2, 3], sa := .w64, lit := .role, md := 1 }
  let pin := fun (f : Fields) => ({ opc := 0x6D, lens := [2, 3], dst := if bitOf (modOf f) 0 then .w32 else .pd, sa := .w64, lit := .role, md := 1 } : Enc)
  let unpin : Enc := { opc := 0x6E, lens := [1, 2, 3], sa := .w64, lit := .role }
  let waitc : Enc := { opc := 0x6F, lens := [2], gov0 := true, md := 0xFF, extra := fun f _ => modOf f / 64 % 4 != 3 }
  let bytes := fun (v : Env) => v.globalElems v.a.v 1 1 (lanesOf v.act)
  let low := fun (v : Env) (s : State) =>
    let ld := s.gangCount v.bid v.gang true ≤ v.md % 64
    let st := s.gangCount v.bid v.gang false ≤ v.md % 64
    match v.md / 64 % 4 with | 0 => ld | 1 => st | _ => ld ∧ st
  let off := fun (v : Env) => (v.a.scalar : Int) + (v.f.lit?.getD 0).toInt
  let lines := fun (v : Env) => v.md / 4 % 128 + 1
  let held := fun (v : Env) (s : State) => ∃ l, l < 4 ∧ (s.pinLanes v).2.get l = 3
  Gives .prf (fun _ => prf) (fun v _ => doing (fun s => (bytes v).foldl (fun s e => s.prefetch v e.va (bitOf v.md 0)) s)) ∧
  Waits .pin pin (fun v s s1 => s1 = s ∧ held v s) ∧
  GivesIf .pin pin (fun v s => bitOf (modOf v.f) 0 = true ∧ ¬held v s)
    (fun v s => { regs := [v.write false (s.pinLanes v).2 .g], eff := fun s => (s.pinLanes v).1 }) ∧
  GivesIf .pin pin (fun v s => bitOf (modOf v.f) 0 = false ∧ ¬held v s)
    (fun v s => { pred := some (v.f.dst.toNat, laneSet ((List.range 4).filter (fun l =>
          if v.act.getLsbD l then (s.pinLanes v).2.get l == 0 else (v.x.preds.getD v.f.dst.toNat 0).getLsbD l)))
                  eff := fun s => (s.pinLanes v).1 }) ∧
  Gives .unpin (fun _ => unpin) (fun v _ => doing (fun s => (bytes v).foldl (fun s e => s.unpinOne v e.va) s)) ∧
  GivesIf .waitc (fun _ => waitc) low (fun _ _ => {}) ∧
  Waits .waitc (fun _ => waitc) (fun v s s1 => s1 = s ∧ ¬low v s) ∧
  GivesIf .pres encPres (fun v _ => v.md % 4 ≠ 0 ∧ v.act = 0) (fun _ _ => {}) ∧
  GivesIf .pres encPres (fun v _ => v.md % 4 ≠ 0 ∧ v.act ≠ 0 ∧ 0 ≤ off v ∧ off v / 128 * 128 + lines v * 128 ≤ v.b.scratch)
    (fun v s => doing (fun t => t.modBlock v.bid (fun b => (List.range (lines v)).foldl (fun b i =>
      let k := (off v).toNat / 128 + i
      b.setPresence k (if v.md % 4 = 1 then (b.presence k).set else (b.presence k).clr (s.sinceNow v.b.die))) b))) ∧
  GivesIf .pres encPres (fun v _ => v.md % 4 = 0 ∧ ∀ l, l < 4 → v.act.getLsbD l = true →
      0 ≤ ((v.al l % 2 ^ 32 : Nat) : Int) + (v.f.lit?.getD 0).toInt ∧
      ((v.al l % 2 ^ 32 : Nat) : Int) + (v.f.lit?.getD 0).toInt + 1 ≤ v.b.scratch)
    (fun v _ => { regs := [v.write false (quadNat (fun l => if v.act.getLsbD l then
      (v.b.presence ((((v.al l % 2 ^ 32 : Nat) : Int) + (v.f.lit?.getD 0).toInt).toNat / 128)).state.code else 0)) .g] })

/-! ### Order and waiting -/

/-- R218, R219, R236, R237: FENCE completes once the parts it asks for have: the release, the acquire, or the release and then the
acquire; where it asks for it, its predicate says in every bit whether the release succeeded (1 for an acquire alone). Until then it
waits. One of pod scope or wider then has reported the failures of the writes that it covers (R229). When an acquire drops the core's
lines is the model's choice (DEDUCED, log 34). R260, R263, R274, R275: COMMIT of an ordered block waits for its round and then goes on;
elsewhere it is a release and an acquire of die scope. GSYNC releases, arrives at its group's handle and waits; the arrival that completes
the current set publishes it, satisfies every waiter and goes on after its acquire, as each waiter does. -/
def Obligations.FencesAndCommits : Prop :=
  (let scope := fun (v : Env) => (scopeOf (v.md % 8)).getD .core
  let kind := fun (v : Env) => v.md / 8 % 4
  let ok := fun (v : Env) (b : Bool) =>
    ({ pred := if bitOf v.md 5 then some (v.f.dst.toNat, if b then 0xF else 0) else none
       eff := fun s => if kind v ≠ 0 ∧ 4 ≤ (scope v).code then s.modSlice v.bid v.sid (fun x => { x with relFail := false }) else s } : Out)
  let fresh := fun (v : Env) => v.x.acquiring? = none
  DoesIn .fence encFence (fun v s s1 o => fresh v ∧ kind v = 0 ∧ s.acquire v (scope v) 1 none = (s1, true) ∧ o = ok v true) ∧
  DoesIn .fence encFence (fun v s s1 o => fresh v ∧ kind v = 1 ∧ ∃ b, s.release v (scope v) = (s1, some b) ∧ o = ok v b) ∧
  DoesIn .fence encFence (fun v s s2 o => fresh v ∧ 2 ≤ kind v ∧ ∃ s1 b, s.release v (scope v) = (s1, some b) ∧
    s1.acquire v (scope v) (if b then 1 else 0) none = (s2, true) ∧ o = ok v b) ∧
  DoesIn .fence encFence (fun v s s1 o => ∃ w, v.x.acquiring? = some w ∧ s.acquire v (scope v) w none = (s1, true) ∧ o = ok v (w == 1)) ∧
  Waits .fence encFence (fun v s s1 => fresh v ∧ 1 ≤ kind v ∧ s.release v (scope v) = (s1, none)) ∧
  Waits .fence encFence (fun v s s1 => fresh v ∧ kind v = 0 ∧ s.acquire v (scope v) 1 none = (s1, false)) ∧
  Waits .fence encFence (fun v s s2 => fresh v ∧ 2 ≤ kind v ∧ ∃ s1 b, s.release v (scope v) = (s1, some b) ∧
    s1.acquire v (scope v) (if b then 1 else 0) none = (s2, false)) ∧
  Waits .fence encFence (fun v s s1 => ∃ w, v.x.acquiring? = some w ∧ s.acquire v (scope v) w none = (s1, false))) ∧
  (let commit : Enc := { opc := 0xB2, lens := [1], gov0 := true }
  let gsync : Enc := { opc := 0xB3, lens := [2], sa := .u32, gov0 := true, md := 7, extra := fun f _ => decide (1 ≤ modOf f % 8) && decide (modOf f % 8 ≤ 3) }
  let scope := fun (v : Env) => (scopeOf (v.md % 8)).getD .core
  let satisfied := fun (v : Env) => ∃ n, v.x.prog = .satisfied n
  let member := fun (v : Env) (s : State) (blk : Bool) (slot : Nat) (g : Group) =>
    s.groupOf v.b v.a.scalar = .ok (blk, slot, g) ∧ (if blk then v.bid else v.sid) ∈ g.current ∧ ¬(blk = true ∧ v.md % 8 = 1)
  let arrived := fun (v : Env) (s : State) =>
    (s.modSlice v.bid v.sid (fun x => { x with prog := .synced v.a.scalar })).setWaiting v.bid v.sid
  let fresh := fun (v : Env) => ¬satisfied v ∧ v.x.acquiring? = none
  -- the state in which the arrival is made: the release done, now or before
  let released := fun (v : Env) (s s1 : State) =>
    (v.x.prog = .synced v.a.scalar ∧ s1 = s) ∨ ((∀ h, v.x.prog ≠ .synced h) ∧ ∃ ok, s.release v (scope v) = (s1, some ok))
  let last := fun (v : Env) (s : State) (blk : Bool) (g : Group) =>
    (arrived v s).allArrived v.bid blk v.a.scalar g = true ∧ ¬(blk = true ∧ s.isOrdered v.b = true)
  GivesIf .commit (fun _ => commit) (fun v s => s.isOrdered v.b = true ∧ satisfied v) (fun _ _ => {}) ∧
  Waits .commit (fun _ => commit) (fun v s s1 => s.isOrdered v.b = true ∧ ¬satisfied v ∧
    s1 = s.modSlice v.bid v.sid (fun x => { x with prog := .round })) ∧
  DoesIn .commit (fun _ => commit) (fun v s s2 o => s.isOrdered v.b = false ∧ v.x.acquiring? = none ∧ ∃ s1 ok,
    s.release v .die = (s1, some ok) ∧ s1.acquire v .die 1 none = (s2, true) ∧ o = {}) ∧
  DoesIn .commit (fun _ => commit) (fun v s s1 o => s.isOrdered v.b = false ∧ (∃ w, v.x.acquiring? = some w ∧ s.acquire v .die w none = (s1, true)) ∧ o = {}) ∧
  Waits .commit (fun _ => commit) (fun v s s1 => s.isOrdered v.b = false ∧ v.x.acquiring? = none ∧ s.release v .die = (s1, none)) ∧
  DoesIn .gsync (fun _ => gsync) (fun v s s1 o => satisfied v ∧ s.acquire v (scope v) 1 none = (s1, true) ∧ o = {}) ∧
  DoesIn .gsync (fun _ => gsync) (fun v s s1 o => ∃ w, v.x.acquiring? = some w ∧ s.acquire v (scope v) w none = (s1, true) ∧ o = {}) ∧
  Waits .gsync (fun _ => gsync) (fun v s s2 => fresh v ∧ ∃ s1 blk slot g, member v s blk slot g ∧ released v s s1 ∧ ¬last v s1 blk g ∧
    s2 = arrived v s1) ∧
  DoesIn .gsync (fun _ => gsync) (fun v s s3 o => fresh v ∧ ∃ s1 blk slot g, member v s blk slot g ∧ released v s s1 ∧ last v s1 blk g ∧
    ((arrived v s1).releaseGroup v.bid blk slot v.a.scalar g).acquire v (scope v) 1 none = (s3, true) ∧ o = {}) ∧
  Raises .gsync (fun _ => gsync) (fun v s c a m => fresh v ∧ s.groupOf v.b v.a.scalar = .error c ∧ a = 0 ∧ m = v.x.mask) ∧
  Raises .gsync (fun _ => gsync) (fun v s c a m => fresh v ∧ (∃ blk slot g, s.groupOf v.b v.a.scalar = .ok (blk, slot, g) ∧
    ¬(if blk then v.bid else v.sid) ∈ g.current) ∧ c = 0x0109 ∧ a = 0 ∧ m = v.x.mask))

/-- R238, R239: LDA reads its elements, waits for them and then for an acquire, and writes them all at once; STRL waits for a release and
then stores, or with a failed release stores nothing and says so. When the acquire drops the core's lines is the model's choice (DEDUCED,
log 34). -/
def Obligations.OrderedAccess : Prop :=
  let scope := fun (v : Env) => (scopeOf (v.md % 8)).getD .core
  let elems := fun (v : Env) => (lanesOf v.act).map (fun l =>
    ({ lane := l, k := 0, va := (v.al l + ((v.f.lit?.getD 0).signExtend 64).toNat) % 2 ^ 64, size := elemSize v.ty } : MElem))
  let fresh := fun (v : Env) => (∀ n, v.x.prog ≠ .pending n) ∧ v.x.acquiring? = none
  let ok := fun (v : Env) (b : Bool) =>
    ({ pred := if bitOf v.md 5 then some (v.f.dst.toNat, if b then 0xF else 0) else none
       eff := fun s => s.reported v.bid v.sid (scope v) } : Out)
  let bytes := fun (v : Env) (e : Nat) => leBytes (elemSize v.ty) (v.bl ((elems v).getD e default).lane)
  let aligned := fun (v : Env) => ∀ e ∈ elems v, e.va % elemSize v.ty = 0
  Waits .lda (fun _ => encLda) (fun v s s3 => fresh v ∧ s.counterRoom v true = true ∧ aligned v ∧ v.act ≠ 0 ∧ ∃ s0 s1 ps s2 fid,
    s.checkGlobal v {} .read ((scope v).code == 1 && !s.isOrdered v.b) (elems v) = .go s0 ps ∧ s1 = s0.recallFor (s0.isOrdered v.b) ps ∧
    (s2, fid) = (s1.touchAll v ps).beginFill v [] .g false true ((elems v).zipIdx.map (fun q =>
        q.1.toFill v.f.dst.toNat v.ty ps q.2 (s1.knownPart v (s1.isOrdered v.b)))) ps
      (fun _ r => if (scope v).code = 1 then r else { r with alloc := false, atHome := decide (4 ≤ (scope v).code) }) ∧
    s3 = s2.modSlice v.bid v.sid (fun x => { x with prog := .pending fid })) ∧
  DoesIn .lda (fun _ => encLda) (fun v s s1 o => ∃ fid x, WaitsFor v fid ∧ s.await fid = .ready x ∧
    s.acquire v (scope v) (BitVec.ofNat 64 (fid + 1)) (some fid) = (s1, true) ∧
    o = { regs := [v.write (typeWide v.ty) (quadNat x.laneValue) .g], eff := fun s => s.closeFill fid }) ∧
  DoesIn .lda (fun _ => encLda) (fun v s s2 o => fresh v ∧ s.counterRoom v true = true ∧ v.act = 0 ∧ ∃ s1 ps,
    s.checkGlobal v {} .read ((scope v).code == 1 && !s.isOrdered v.b) [] = .go s1 ps ∧ s1.acquire v (scope v) 0 none = (s2, true) ∧
    o = { regs := [v.write (typeWide v.ty) (Quad.all 0) .g] }) ∧
  DoesIn .lda (fun _ => encLda) (fun v s s1 o => v.x.acquiring? = some 0 ∧ s.acquire v (scope v) 0 none = (s1, true) ∧
    o = { regs := [v.write (typeWide v.ty) (Quad.all 0) .g] }) ∧
  DoesIn .strl encStrl (fun v s s2 o => aligned v ∧ ∃ s1 ps, s.checkGlobal v {} .write false (elems v) = .go s1 ps ∧
    (s1.isOrdered v.b = true → s1.logFull v ps = false) ∧ s1.release v (scope v) = (s2, some true) ∧
    s2.storeRoom v = true ∧ s2.sendRoom v ps = true ∧
    o = { ok v true with eff := fun s => (s.storeParts v (s1.isOrdered v.b) ps (fun e => bytes v e)).reported v.bid v.sid (scope v) }) ∧
  DoesIn .strl encStrl (fun v s s2 o => aligned v ∧ ∃ s1 ps, s.checkGlobal v {} .write false (elems v) = .go s1 ps ∧
    (s1.isOrdered v.b = true → s1.logFull v ps = false) ∧ s1.release v (scope v) = (s2, some false) ∧ o = ok v false) ∧
  Waits .strl encStrl (fun v s s2 => aligned v ∧ ∃ s1 ps, s.checkGlobal v {} .write false (elems v) = .go s1 ps ∧
    (s1.isOrdered v.b = true → s1.logFull v ps = false) ∧ s1.release v (scope v) = (s2, none)) ∧
  ∀ (s : State) bid sid sc, s.reported bid sid sc =
    if 4 ≤ sc.code then s.modSlice bid sid (fun x => { x with relFail := false }) else s

/-- R242 to R247, R268, R269: the barrier instructions on the 16-byte object at an aligned offset of the window. BINIT makes a new object
of its count; BEXP adds expected bytes; BARR checks the object, releases and then arrives, once more with expected bytes where asked, and
can give the phase; each then completes the phase where everything expected has come. BWAIT and BTRY compare the phase bit with their
operand: where it differs they acquire and go on, BTRY with its predicate set; where it does not BWAIT waits, until a change of the object
has ended its wait, and BTRY clears its predicate. A bad object traps BARRIER_OBJECT, one that would overflow BARRIER_OVERFLOW, each with
the lanes of the model's choice (DEDUCED, log 23). When an acquire drops the core's lines is the model's choice (DEDUCED, log 34). R248,
R249, R270, R273: MWAIT, and TKW on the TURN word of a ticket pair, read their element at its home under a monitor and wait; once the
value read meets the condition and the acquire is done they go on, and while it does not they wait with the monitor armed, or read again
where none is. In an ordered block they wait for the round's commit, which evaluates the compare. -/
def Obligations.BarriersAndMonitors : Prop :=
  (let at' := fun (v : Env) (s : State) (act : BitVec 4) (o : Nat) => ∃ es, s.barGate v act = .go es ∧ o = (es.getD 0 default).va
  let obj := fun (v : Env) (o : Nat) => v.b.window.barObj o
  let put := fun (v : Env) (o : Nat) (x : BarObj) => doing (fun s => s.modBlock v.bid (fun b => b.winStore v.sid o x.bytes))
  let full := fun (x : BarObj) => x.aarr = x.xarr ∧ x.abytes = x.xbytes
  let tested := fun (x : BarObj) => if full x then { x with xbytes := 0, abytes := 0, aarr := 0, ctrl := if x.ctrl % 2 = 0 then x.ctrl + 1 else x.ctrl - 1 } else x
  let scope := fun (v : Env) => (scopeOf (v.md % 8)).getD .core
  let binit : Enc := { opc := 0xA0, lens := [2, 3], sa := .u32, lit := .role, md := 0x3FF }
  let bexp : Enc := { opc := 0xA1, lens := [2, 3], sa := .u32, sb := .u32, lit := .role }
  let more := fun (v : Env) => if bitOf v.md 3 then v.o.scalar else 0
  let same := fun (v : Env) (o : Nat) => (obj v o).ctrl % 2 = v.o.scalar
  let ready := fun (v : Env) (s : State) (o : Nat) => v.o.scalar ≤ 1 ∧ at' v s v.x.mask o ∧ (obj v o).cause = none
  let place := fun (v : Env) => ((v.a.scalar : Int) + (v.f.lit?.getD 0).toInt).toNat
  -- BARR is past its first checks, now or before it began its release
  let entered := fun (v : Env) (s : State) (o : Nat) =>
    (v.x.releasing? = true ∧ o = place v) ∨ (v.x.releasing? = false ∧ at' v s v.act o ∧ (obj v o).cause = none)
  -- BWAIT has found nothing yet
  let open' := fun (v : Env) => v.x.acquiring? = none ∧ ∀ o q w, v.x.prog ≠ .barrier o q (some w)
  let asked := fun (v : Env) => v.x.acquiring? = none ∧ ∀ o q w, v.x.prog ≠ .barrier o q w
  let noted := fun (v : Env) (s : State) => s.modSlice v.bid v.sid (fun x => if x.acquiring?.isSome then x else
    { x with prog := .barrier (place v) v.o.scalar (some none) })
  GivesIf .binit (fun _ => binit) (fun v _ => v.act = 0) (fun _ _ => {}) ∧
  Does .binit (fun _ => binit) (fun v s s1 p => s1 = s ∧ v.act ≠ 0 ∧ ∃ o, at' v s v.act o ∧ p = put v o ⟨0, 0, v.md + 1, 0, 2⟩) ∧
  GivesIf .bexp (fun _ => bexp) (fun v _ => v.act = 0) (fun _ _ => {}) ∧
  Does .bexp (fun _ => bexp) (fun v s s1 p => s1 = s ∧ v.act ≠ 0 ∧ ∃ o, at' v s v.act o ∧ (obj v o).cause = none ∧
    (obj v o).xbytes + v.o.scalar < 2 ^ 32 ∧ p = put v o (tested { obj v o with xbytes := (obj v o).xbytes + v.o.scalar })) ∧
  Raises .bexp (fun _ => bexp) (fun v s c a m => v.act ≠ 0 ∧ ∃ o, at' v s v.act o ∧ a = 0 ∧ m = v.act ∧
    ((obj v o).cause = some c ∨ ((obj v o).cause = none ∧ 2 ^ 32 ≤ (obj v o).xbytes + v.o.scalar ∧ c = 0x0502))) ∧
  GivesIf .barr encBarr (fun v _ => v.act = 0) (fun _ _ => {}) ∧
  DoesIn .barr encBarr (fun v s s1 p => v.act ≠ 0 ∧ ∃ o ok, entered v s o ∧ (obj v o).cause = none ∧
    s.release v (scope v) = (s1, some ok) ∧ (obj v o).xbytes + more v < 2 ^ 32 ∧ (obj v o).aarr < (obj v o).xarr ∧
    p = { regs := if bitOf v.md 4 then [⟨v.f.dst.toNat, false, Quad.all (BitVec.ofNat 64 ((obj v o).ctrl % 2)), .u, .u, true, 0xF⟩] else []
          eff := (put v o (tested { obj v o with xbytes := (obj v o).xbytes + more v, aarr := (obj v o).aarr + 1 })).eff }) ∧
  Raises .barr encBarr (fun v s c a m => v.act ≠ 0 ∧ v.x.releasing? = false ∧ ∃ o, at' v s v.act o ∧ (obj v o).cause = some c ∧
    a = 0 ∧ m = v.act) ∧
  RaisesIn .barr encBarr (fun v s s1 c a m => v.act ≠ 0 ∧ ∃ o ok, entered v s o ∧ s.release v (scope v) = (s1, some ok) ∧ a = 0 ∧ m = v.act ∧
    ((obj v o).cause = some c ∨ ((obj v o).cause = none ∧ c = 0x0502 ∧
      (2 ^ 32 ≤ (obj v o).xbytes + more v ∨ (obj v o).xarr ≤ (obj v o).aarr)))) ∧
  Waits .barr encBarr (fun v s s1 => v.act ≠ 0 ∧ ∃ o, entered v s o ∧ s.release v (scope v) = (s1, none)) ∧
  DoesIn .bwait (fun _ => encBwait 0xA3 .no) (fun v s s1 p => open' v ∧ (∃ o, ready v s o ∧ ¬same v o) ∧
    s.acquire v (scope v) 1 none = (s1, true) ∧ p = {}) ∧
  DoesIn .bwait (fun _ => encBwait 0xA3 .no) (fun v s s1 p => (∃ o q, v.x.prog = .barrier o q (some none)) ∧
    s.acquire v (scope v) 1 none = (s1, true) ∧ p = {}) ∧
  Raises .bwait (fun _ => encBwait 0xA3 .no) (fun v _ c a m => (∃ o q, v.x.prog = .barrier o q (some (some c))) ∧ a = 0 ∧ m = v.x.mask) ∧
  DoesIn .bwait (fun _ => encBwait 0xA3 .no) (fun v s s1 p => ∃ w, v.x.acquiring? = some w ∧ s.acquire v (scope v) w none = (s1, true) ∧ p = {}) ∧
  Waits .bwait (fun _ => encBwait 0xA3 .no) (fun v s s1 => open' v ∧ ∃ o, ready v s o ∧ same v o ∧
    s1 = s.modSlice v.bid v.sid (fun x => { x with prog := .barrier (place v) v.o.scalar none })) ∧
  (∀ (x : Slice) (w : Memory) o q, x.prog = .barrier o q none →
    let found := match (w.barObj o).cause with
      | some c => some (some c)
      | none => if (w.barObj o).ctrl % 2 = q then none else some none
    x.examine w = { x with prog := .barrier o q found }) ∧
  DoesIn .btry (fun _ => encBwait 0xA4 .pd) (fun v s s1 p => (asked v ∧ ∃ o, ready v s o ∧ ¬same v o) ∧
    s.acquire v (scope v) 1 none = (s1, true) ∧ p = { pred := some (v.f.dst.toNat, 0xF) }) ∧
  DoesIn .btry (fun _ => encBwait 0xA4 .pd) (fun v s s1 p => (∃ o q w, v.x.prog = .barrier o q w) ∧
    s.acquire v (scope v) 1 none = (s1, true) ∧ p = { pred := some (v.f.dst.toNat, 0xF) }) ∧
  -- what either has found stands while its acquire waits
  Waits .bwait (fun _ => encBwait 0xA3 .no) (fun v s s1 => ((open' v ∧ ∃ o, ready v s o ∧ ¬same v o) ∨ ∃ o q, v.x.prog = .barrier o q (some none)) ∧
    ∃ s2, s.acquire v (scope v) 1 none = (s2, false) ∧ s1 = noted v s2) ∧
  Waits .btry (fun _ => encBwait 0xA4 .pd) (fun v s s1 => ((asked v ∧ ∃ o, ready v s o ∧ ¬same v o) ∨ ∃ o q w, v.x.prog = .barrier o q w) ∧
    ∃ s2, s.acquire v (scope v) 1 none = (s2, false) ∧ s1 = noted v s2) ∧
  Does .btry (fun _ => encBwait 0xA4 .pd) (fun v s s1 p => s1 = s ∧ asked v ∧ (∃ o, ready v s o ∧ same v o) ∧
    p = { pred := some (v.f.dst.toNat, 0) }) ∧
  Raises .btry (fun _ => encBwait 0xA4 .pd) (fun v s c a m => asked v ∧ v.o.scalar ≤ 1 ∧
    ∃ o, at' v s v.x.mask o ∧ (obj v o).cause = some c ∧ a = 0 ∧ m = v.x.mask)) ∧
  (let mwait : Enc := { opc := 0xA5, lens := [2, 3], sa := .u64, sb := .uty, types := .eff typeW, gov0 := true, lit := .role, md := 0x77, extra := fun f t => (modOf f % 8 == 2 || modOf f % 8 == 3) && decide (modOf f / 16 % 8 ≤ 5) && (decide (modOf f / 16 % 8 ≤ 1) || typeInt t) }
  let tkw : Enc := { opc := 0xB0, lens := [2, 3], sa := .u64, sb := .u32, gov0 := true, lit := .role, md := 7, extra := fun f _ => modOf f % 8 == 2 || modOf f % 8 == 3 }
  let base := fun (v : Env) => (v.a.scalar + ((v.f.lit?.getD 0).signExtend 64).toNat) % 2 ^ 64
  let clauses := fun (i : Fields → Instr) (e : Enc) (chk va cond ty : Env → Nat) (size : Env → Nat) =>
    let scope := fun (v : Env) => (scopeOf (v.md % 8)).getD .die
    let value := fun (x : Fill) => match x.elems with | e :: _ => e.value | [] => 0
    let waitsFor := fun (v : Env) (fid : Nat) => v.x.prog = .pending fid ∨ ∃ w, v.x.acquiring? = some w ∧ fid = w.toNat - 1
    let fresh := fun (v : Env) => (∀ n, v.x.prog ≠ .pending n) ∧ v.x.acquiring? = none ∧ ∀ n, v.x.prog ≠ .satisfied n
    let asks := fun (v : Env) (s s3 : State) => ∃ s1 ps s2 fid,
      s.oneElem v (chk v) (size v) (size v) .read v.x.mask = .go s1 ps ∧ s1.isOrdered v.b = false ∧
      (s2, fid) = s1.beginFill v [] .g false false
        [{ lane := 0, reg := 0, wide := false, ty := 0, parts := [(0, elemSize (ty v), none)], addr := BitVec.ofNat 64 (va v), shift := 0, fault := none, landed := false }]
        (ps.map (fun p => { p with va := va v, size := elemSize (ty v), place := match p.place with
            | .own d pa leaf => .own d (pa + (va v - chk v)) leaf
            | q => q }))
        (fun _ r => { r with op := .watch (cond v) (ty v) v.o.v.l0, alloc := false, atHome := true }) ∧
      s3 = s2.modSlice v.bid v.sid (fun x => { x with prog := .pending fid })
    let commits := fun (v : Env) (s s2 : State) (met : Bool) => (∃ n, v.x.prog = .satisfied n) ∧ ∃ s1 p ps d pa leaf bytes st,
      s.oneElem v (chk v) (size v) (size v) .read v.x.mask = .go s1 (p :: ps) ∧ p.place = .own d pa leaf ∧
      s1.firstPoison d (pa + (va v - chk v)) (elemSize (ty v)) = none ∧
      s1.homeRead d (pa + (va v - chk v)) (elemSize (ty v)) (leafPol leaf != 3) = (s2, bytes, st) ∧
      waitCond (cond v) (ty v) (leNat bytes) v.o.v.l0.toNat = met
    DoesIn i (fun _ => e) (fun v s s1 o => ∃ fid x, waitsFor v fid ∧ s.await fid = .ready x ∧
      waitCond (cond v) (ty v) (value x) v.o.v.l0.toNat = true ∧
      s.acquire v (scope v) (BitVec.ofNat 64 (fid + 1)) (some fid) = (s1, true) ∧ o = doing (fun s => s.closeFill fid)) ∧
    DoesIn i (fun _ => e) (fun v s s2 o => (∃ s1, commits v s s1 true ∧ s2 = s1.dropVs v.b.die v.b.core (fun _ => true)) ∧ o = {}) ∧
    Waits i (fun _ => e) (fun v s s2 => ∃ s1, commits v s s1 false ∧ s2 = s1.modSlice v.bid v.sid (fun x => { x with prog := .round })) ∧
    Waits i (fun _ => e) (fun v s s1 => s1 = s ∧ ∃ fid x, waitsFor v fid ∧ s.await fid = .ready x ∧
      waitCond (cond v) (ty v) (value x) v.o.v.l0.toNat = false ∧ s.monitored v.bid v.sid = true) ∧
    Waits i (fun _ => e) (fun v s s3 => fresh v ∧ asks v s s3) ∧
    Waits i (fun _ => e) (fun v s s3 => ∃ fid x, waitsFor v fid ∧ s.await fid = .ready x ∧
      waitCond (cond v) (ty v) (value x) v.o.v.l0.toNat = false ∧ s.monitored v.bid v.sid = false ∧ asks v (s.discardFill fid) s3) ∧
    Waits i (fun _ => e) (fun v s s2 => fresh v ∧ ∃ s1 ps,
      s.oneElem v (chk v) (size v) (size v) .read v.x.mask = .go s1 ps ∧ s1.isOrdered v.b = true ∧
      s2 = (s1.touchAll v ps).modSlice v.bid v.sid (fun x => { x with prog := .round }))
  clauses .mwait mwait base base (fun v => v.md / 16 % 8) (fun v => v.ty) (fun v => elemSize v.ty) ∧
  clauses .tkw tkw base (fun v => base v + 4) (fun _ => 0) (fun _ => 22) (fun _ => 8))

/-! ### Read-modify-writes -/

/-- R267, R271, R272: the new element of each operation, from the old element and the operands, each below 2 to the element's width. R251
to R254, R260, R271, R272: ATOM, BINC, WINC, DECZ and both forms of FATOM, which return the old values. That an RMW which acquires writes
its registers only when the acquire is done is the model's choice (DEDUCED, log 44). R254, R271: FADDL, which waits for its results, adds
only where the sum does not pass the limit beside the element, gives the old values and says in the active lanes of pk where it added;
poison it meets on the way raises at the instruction. That FADDL writes its registers all at once is the model's choice (DEDUCED, log 44).
-/
def Obligations.RmwResults : Prop :=
  (∀ (t old v c : Nat), let m := 2 ^ typeBits t
    old < m → v < m → c < m →
    (typeFP t = false →
      rmwNew 0 t old v c = (old + v) % m ∧
      rmwNew 4 t old v c = (if elemInt t v < elemInt t old then v else old) ∧
      rmwNew 5 t old v c = (if elemInt t old ≤ elemInt t v then v else old)) ∧
    rmwNew 1 t old v c = old &&& v ∧ rmwNew 2 t old v c = old ||| v ∧ rmwNew 3 t old v c = old ^^^ v ∧
    rmwNew 6 t old v c = v ∧ rmwNew 7 t old v c = (if old = v then c else old) ∧
    rmwNew opBinc t old v c = (if old < v then old + 1 else old) ∧
    rmwNew opWinc t old v c = (if v ≤ old then 0 else old + 1) ∧
    rmwNew opDecz t old v c = (if 0 < old then old - 1 else old) ∧
    rmwNew opFaddl t old v c = (if old + v ≤ c then old + v else old) ∧ faddlOk t old v c = decide (old + v ≤ c)) ∧
  (let op := fun (f : Fields) => modOf f / 64 % 16
  let mk := fun (q : Env → RmwReq) (v : Env) => (q v).lanesOut v
  let es := fun (v : Env) => v.rmwElems (bitOf v.md 5) (elemSize v.ty)
  let row := fun (i : Fields → Instr) (e : Fields → Enc) (op : Fields → Nat) =>
    let q := fun (v : Env) => rmwReq (op v.f) true false false true v
    RmwDoes i e q (mk q) (fun v => !bitOf v.md 5) es
      (fun v s s0 => s0 = s ∧ (bitOf v.md 5 = true → v.winMisaligned (elemSize v.ty) (elemSize v.ty) = none))
  row .atom (fun f => encRmw 0xA6 f true .ty (if op f = 7 then .ty else .no) typeW 0x3FF (fun m t => decide (m / 64 % 16 ≤ 7) && (!(m / 64 % 16 == 4 || m / 64 % 16 == 5) || typeInt t)) false) op ∧
  row .binc (fun f => encRmw 0xA7 f true .ty .no typeN 0x3F (fun _ _ => true) false) (fun _ => opBinc) ∧
  row .winc (fun f => encRmw 0xA8 f true .ty .no typeN 0x3F (fun _ _ => true) false) (fun _ => opWinc) ∧
  row .decz (fun f => encRmw 0xA9 f true .no .no typeN 0x3F (fun _ _ => true) false) (fun _ => opDecz) ∧
  row .fatomO (fun f => encRmw 0xAC f true .ty .no typeFP 0x3FF fatomOk true) op ∧
  row .fatomU (fun f => encRmw 0xAD f true .ty .no typeFP 0x3FF fatomOk true) op) ∧
  (let e := fun (f : Fields) => encRmw 0xAA f true .ty .no typeN 0x1FF (fun _ _ => true) false
  let q := fun (v : Env) => rmwReq opFaddl true true false true v
  let old := fun (v : Env) => v.x.preds.getD (v.md / 64 % 8) 0
  let here := fun (x : Fill) (l : Nat) => x.elems.find? (fun e => e.lane == l)
  let ok := fun (v : Env) (x : Fill) (l : Nat) =>
    if v.act.getLsbD l then (match here x l with | some e => e.rmwResult.2 | none => false) else (old v).getLsbD l
  RmwDoes .faddl e q (fun v x => { (q v).lanesOut v x with pred := some (v.md / 64 % 8, laneSet ((List.range 4).filter (ok v x))) })
    (fun v => !bitOf v.md 5) (fun v => v.rmwElems (bitOf v.md 5) (elemSize v.ty))
    (fun v s s0 => s0 = s ∧ (bitOf v.md 5 = true → v.winMisaligned (2 * elemSize v.ty) (2 * elemSize v.ty) = none)))

/-- R252, R256 to R258, R272: RED.o and RED.u, which return nothing: they are performed on the scratchpad, sent to their homes, entered in
the round of an ordered block or, for RED.u, combined into the core's update-only line. When RED.u follows an earlier write of its slice
home is the model's choice (DEDUCED, log 37). R259, R273: TKT draws a ticket from NEXT and TKA passes TURN on: each acts once for its
slice where a lane is active, and not at all otherwise. -/
def Obligations.ReductionsAndTickets : Prop :=
  (let row := fun (i : Fields → Instr) (opc : Nat) (unordered : Bool) =>
    let q := fun (v : Env) => rmwReq (modOf v.f / 64 % 16) false false unordered false v
    RmwDoes i (fun f => encRmw opc f false .ty .no (fun t => typeW t || typeFP t) 0x3FF redOpOk true) q (fun v => (q v).lanesOut v)
      (fun v => !bitOf v.md 5) (fun v => v.rmwElems (bitOf v.md 5) (elemSize v.ty))
      (fun v s s0 => s0 = s ∧ (bitOf v.md 5 = true → v.winMisaligned (elemSize v.ty) (elemSize v.ty) = none))
  row .redO 0xAE false ∧ row .redU 0xAF true) ∧
  (let tkt : Enc := { opc := 0xAB, lens := [1, 2, 3], dst := .w32, sa := .u64, lit := .role }
  let tka : Enc := { opc := 0xB1, lens := [2, 3], sa := .u64, lit := .role, md := 7, extra := fun f _ => modOf f % 8 == 2 || modOf f % 8 == 3 }
  let base := fun (v : Env) => (v.a.scalar + ((v.f.lit?.getD 0).signExtend 64).toNat) % 2 ^ 64
  let word := fun (off : Nat) (v : Env) => [(⟨(lanesOf v.act).headD 0, 0, (base v + off) % 2 ^ 64, 4⟩ : MElem)]
  let pre := fun (v : Env) (s s0 : State) => v.act ≠ 0 ∧ ∃ ps, s.oneElem v (base v) 8 8 .rmw v.act = .go s0 ps
  GivesIf .tkt (fun _ => tkt) (fun v _ => v.act = 0) (fun _ _ => {}) ∧
  GivesIf .tka (fun _ => tka) (fun v _ => v.act = 0) (fun _ _ => {}) ∧
  RmwDoes .tkt (fun _ => tkt) (fun _ => ticketReq true false .core)
    (fun v x => { regs := [v.writeUni false (match x.elems with | e :: _ => BitVec.ofNat 64 e.rmwResult.1 | [] => 0)] })
    (fun _ => true) (word 0) pre (fun v => v.act ≠ 0) ∧
  RmwDoes .tka (fun _ => tka) (fun v => ticketReq false true ((scopeOf (v.md % 8)).getD .die)) (fun _ _ => {})
    (fun _ => true) (word 4) pre (fun v => v.act ≠ 0))

/-! ### Peers -/

/-- R201 to R206: RLD and RST, whose elements pass step 1 of R177: the passes go by ascending peer; the parts at dies of this package are
sent on the rings and each element at another package on its pair, once the ports to those dies take an RST's writes (R226). RLD's
registers become pending; RST changes no register, and a shadow's RST (R354) does nothing. The order and form of the passes and of their
requests are the model's choice (DEDUCED, log 57), and so is that an instruction issues when all of its packets have room (DEDUCED, log
59). R201, R434: RATM sends one atomic request for each active lane after its release, and its registers become pending; with .acq or .ar
it waits for the results and an acquire and then writes them; a release of pod scope reports the failures that it covers (R229). The form
of the requests is the model's choice (DEDUCED, log 57; DEDUCED, log 58), and so is the room that it waits for (DEDUCED, log 59). -/
def Obligations.PeerAccess : Prop :=
  (let rld : Enc := { opc := 0x69, lens := [1, 2, 3], dst := .run, sa := .w32, sb := .w64, types := .eff typeMT, lit := .role, md := 3, extra := fun f _ => modOf f % 4 != 3 }
  let rst : Enc := { opc := 0x6A, lens := [2, 3], sa := .w32, sb := .w64, sc := .run, types := .eff typeMT, lit := .role, md := 3, extra := fun f _ => modOf f % 4 != 3 }
  let es := fun (v : Env) => ((lanesOf v.act).flatMap (fun l => (List.range (countOf v.f)).map (fun k =>
    ({ lane := l, k := k, peer := v.al l, off := (v.bl l + ((v.f.lit?.getD 0).signExtend 64).toNat + k * elemSize v.ty) % 2 ^ 64, size := elemSize v.ty } : RElem)))).insertionSort
      (fun a b => a.peer ≤ b.peer)
  let ok := fun (v : Env) (s : State) => ∀ e ∈ es v, s.remoteFail 1 e = none
  let other := fun (v : Env) (s : State) => (es v).zipIdx.filter (fun q => !s.ownPeer q.1.peer)
  let reads := fun (v : Env) (s : State) => (other v s).map (fun q => (q.2, s.peerReq v q.1 0 0 []))
  let data := fun (v : Env) (i : Nat) => v.runData v.c ((es v).getD i default).lane ((es v).getD i default).k
  let writes := fun (v : Env) (s : State) => (other v s).map (fun q => s.peerReq v q.1 1 0 (data v q.2))
  let regs := fun (v : Env) => v.runRegs (countOf v.f)
  GivesIf .rld (fun _ => rld) (fun v s => ok v s ∧ s.counterRoom v true = true ∧ s.pairsRoom ((reads v s).map (fun r => r.2)) = true)
    (fun v s => { fills := regs v, fillTag := .g, eff := fun t =>
      ((t.modSlice v.bid v.sid (fun x => x.blankFill (regs v) v.act)).beginRemote v (regs v) .g
        ((es v).zipIdx.map (fun q => s.remoteFillElem v.f.dst.toNat v.ty (s.ownParts v (es v)) q.2 q.1)) (s.ownParts v (es v))
        (fun _ r => r) (reads v s)).1 }) ∧
  Waits .rld (fun _ => rld) (fun v s s1 => s1 = s ∧ ok v s ∧
    ¬(s.counterRoom v true = true ∧ s.pairsRoom ((reads v s).map (fun r => r.2)) = true)) ∧
  GivesIf .rst (fun _ => rst) (fun v s => ok v s ∧ v.b.shadowOf.isSome = true) (fun _ _ => {}) ∧
  GivesIf .rst (fun _ => rst) (fun v s => ok v s ∧ v.b.shadowOf = none ∧ s.storeRoom v = true ∧ s.pairsRoom (writes v s) = true ∧
      s.ringRoom v (s.ownParts v (es v)) = true)
    (fun v s => doing (fun t =>
      let ps := s.ownParts v (es v)
      let t1 := ps.foldl (fun t p => t.send { v.request t p (.write (((data v p.e).drop p.off).take p.size)) with issue := some v.x.issueNo, alloc := false, remote := true })
        (t.countIssue v false (ps.length + (writes v s).length))
      (writes v s).foldl (fun t r => t.sendPeer { r with issue := some v.x.issueNo }) t1)) ∧
  Raises .rld (fun _ => rld) (fun v s c a m => pickFail ((es v).filterMap (s.remoteFail 1)) = some (c, a, m)) ∧
  Raises .rst (fun _ => rst) (fun v s c a m => pickFail ((es v).filterMap (s.remoteFail 1)) = some (c, a, m))) ∧
  (let es := fun (v : Env) => passOrder (v.remoteElems (elemSize v.ty) 1)
  let ok := fun (v : Env) (s : State) => ∀ e ∈ es v, s.remoteFail (elemSize v.ty) e = none
  let regs := fun (v : Env) => if typeWide v.ty then [v.f.dst.toNat, v.f.dst.toNat + 1] else [v.f.dst.toNat]
  let els := fun (v : Env) => (es v).map (fun e => { (ratmReq v).fillElem v.f.dst.toNat e.toMElem none with addr := BitVec.ofNat 64 e.off })
  let mk := fun (v : Env) (s : State) (p : Placed) (r : Req) => v.ratmOwn { (ratmReq v).request v s p ((es v).getD p.e default).lane with fill := r.fill }
  let tell := fun (v : Env) (s : State) => if (ratmReq v).rel then s.reported v.bid v.sid (ratmReq v).scope else s
  let none' := fun (v : Env) => ({ (ratmReq v).lanesOut v (noFill v) with eff := tell v } : Out)
  let room := fun (v : Env) (s : State) => s.counterRoom v true = true ∧ s.pairsRoom ((s.ratmRequests v (es v)).map (fun r => r.2)) = true ∧
    s.ringRoom v (s.ownParts v (es v)) = true
  DoesIn .ratm encRatm (fun v s s1 o => NotBegun v ∧ ok v s ∧ Released (ratmReq v) v s s1 ∧ room v s1 ∧ (ratmReq v).hold = false ∧
    o = { fills := regs v, fillTag := .g, eff := fun t => tell v ((t.modSlice v.bid v.sid (fun x => x.blankFill (regs v) v.act)).beginRemote v (regs v) .g
          (els v) (s1.ownParts v (es v)) (mk v s1) (s1.ratmRequests v (es v))).1 }) ∧
  Waits .ratm encRatm (fun v s s3 => NotBegun v ∧ ok v s ∧ ∃ s1 s2 fid, Released (ratmReq v) v s s1 ∧ room v s1 ∧ (ratmReq v).hold = true ∧ v.act ≠ 0 ∧
    s1.beginRemote v [] .g (els v) (s1.ownParts v (es v)) (mk v s1) (s1.ratmRequests v (es v)) = (s2, fid) ∧
    s3 = s2.modSlice v.bid v.sid (fun x => { x with prog := .pending fid })) ∧
  DoesIn .ratm encRatm (fun v s s1 o => ∃ fid, WaitsFor v fid ∧ RmwEnds (ratmReq v) v (fun x => (ratmReq v).lanesOut v x) s fid s1 o) ∧
  DoesIn .ratm encRatm (fun v s s2 o => NotBegun v ∧ v.act = 0 ∧ (ratmReq v).hold = true ∧ (∃ s1, Released (ratmReq v) v s s1 ∧
    s1.acquire v (ratmReq v).scope 0 none = (s2, true)) ∧ o = none' v) ∧
  DoesIn .ratm encRatm (fun v s s1 o => v.x.acquiring? = some 0 ∧ s.acquire v (ratmReq v).scope 0 none = (s1, true) ∧ o = none' v) ∧
  Raises .ratm encRatm (fun v s c a m => NotBegun v ∧ pickFail ((es v).filterMap (s.remoteFail (elemSize v.ty))) = some (c, a, m)))

/-! ### Matrix -/

/-- R278, R279, R290, R291: CLAIM binds a free slot of the core to its name, waits while none is to be had, and raises where the name is
bound or the block holds 32; RELS gives the slot of its name back. Neither does anything with no active lane. That CLAIM takes the lowest
free slot (DESIGN CHOICE, log 25) and the order of the checks (DEDUCED, log 51) are the model's choices. R279, R281, R292, R293: SLD and
SLDS whose slots are claimed and read by no product, and whose rows pass their checks, begin a fill of the named rows, counted as a load;
with 16 fills on a slot, or the gang's counter full, they wait. The order of the checks is the model's choice (DEDUCED, log 51); an
ordered block reads its rows at issue (DEDUCED, log 45), the update-only copies of their lines recalled first (R257). How a row that
straddles two owners or leaves the window is checked is the model's choice (DEDUCED, log 42). -/
def Obligations.SlotInstructions : Prop :=
  (let claim : Enc := { opc := 0x80, lens := [2, 3], sb := .u32 }
  let rels : Enc := { opc := 0x81, lens := [2, 3], sb := .u32 }
  let name := fun (v : Env) => v.o.scalar
  let free := fun (v : Env) (s : State) (k : Nat) => k < 32 ∧ k ∉ s.slotsTaken v.b.die v.b.core ∧ ∀ j, j < k → j ∈ s.slotsTaken v.b.die v.b.core
  let may := fun (v : Env) (s : State) => v.b.slots.length < v.b.slotLimit ∨
    (0 < s.spareSlots v.b.die v.b.core ∧ s.olderClaim v.b = false)
  let asks := fun (v : Env) => v.act ≠ 0 ∧ name v ≤ 31 ∧ v.b.slotOf (name v) = none ∧ v.b.slots.length ≠ 32
  GivesIf .claim (fun _ => claim) (fun v _ => v.act = 0) (fun _ _ => {}) ∧
  GivesIf .rels (fun _ => rels) (fun v _ => v.act = 0) (fun _ _ => {}) ∧
  Does .claim (fun _ => claim) (fun v s s1 o => s1 = s ∧ asks v ∧ may v s ∧ ∃ k, free v s k ∧
    o = doing (fun s => s.modBlock v.bid (fun b => { b with slots := b.slots.put k (PSlot.claimed (name v)) }))) ∧
  Waits .claim (fun _ => claim) (fun v s s1 => asks v ∧ may v s ∧ (∀ k, ¬free v s k) ∧ s1 = s) ∧
  Waits .claim (fun _ => claim) (fun v s s1 => asks v ∧ ¬may v s ∧
    s1 = s.modSlice v.bid v.sid (fun x => { x with prog := .claiming })) ∧
  Raises .claim (fun _ => claim) (fun v _ c a m => v.act ≠ 0 ∧ a = 0 ∧ m = v.act ∧
    ((31 < name v ∧ c = 0x0102) ∨ (name v ≤ 31 ∧ v.b.slotOf (name v) ≠ none ∧ c = 0x0402) ∨
      (name v ≤ 31 ∧ v.b.slotOf (name v) = none ∧ v.b.slots.length = 32 ∧ c = 0x0406))) ∧
  Does .rels (fun _ => rels) (fun v s s1 o => s1 = s ∧ v.act ≠ 0 ∧ name v ≤ 31 ∧ ∃ k p, v.b.slotOf (name v) = some (k, p) ∧
    o = doing (fun s => s.modBlock v.bid (fun b =>
      { b.modSlot k PSlot.release with slots := dropFreeSlots (b.modSlot k PSlot.release).slots }))) ∧
  Raises .rels (fun _ => rels) (fun v _ c a m => v.act ≠ 0 ∧ a = 0 ∧ m = v.act ∧
    ((31 < name v ∧ c = 0x0102) ∨ (name v ≤ 31 ∧ v.b.slotOf (name v) = none ∧ c = 0x0401)))) ∧
  (let row0 := fun (v : Env) => bitsOf (litNat v.f) 6 0
  let rows := fun (v : Env) => bitsOf (litNat v.f) 14 8 + 1
  let blocks := fun (v : Env) => bitsOf (litNat v.f) 19 16 + 1
  let width := fun (v : Env) => if v.ty = 0 then 16 * blocks v else blocks v * (4 * typeBits v.ty) + blocks v
  let sld := fun (v : Env) (s s1 : State) (k : Nat) (p : PSlot) (ps : List Placed) => v.act ≠ 0 ∧ v.a.scalar ≤ 31 ∧
    row0 v + rows v ≤ 128 ∧ (v.ty ≠ 0 → blocks v ≤ rowCap v.ty / 32) ∧ v.b.slotOf v.a.scalar = some (k, p) ∧ p.k = 0 ∧
    s.rowGate v (bitOf v.md 0) .read v.o.scalar v.c.scalar (rows v) (width v) = .go s1 ps
  let g := fun (v : Env) => bitsOf (litNat v.f) 20 16 + 1
  let n := fun (v : Env) => sparseN (v.md % 4)
  let slds := fun (v : Env) (s s2 : State) (k km : Nat) (p pm : PSlot) (ps ms : List Placed) => v.act ≠ 0 ∧ v.a.scalar ≤ 31 ∧ v.a.scalar % 2 = 0 ∧
    row0 v + rows v ≤ 128 ∧ n v * g v ≤ rowCap v.ty ∧ v.b.slotOf v.a.scalar = some (k, p) ∧ v.b.slotOf (v.a.scalar + 1) = some (km, pm) ∧
    p.k = 0 ∧ pm.k = 0 ∧
    s.rowGates v (bitOf v.md 2) .read ⟨v.o.scalar, sparseVs (n v * g v) (typeBits v.ty), rows v, (n v * g v * typeBits v.ty + 7) / 8⟩
      ⟨v.c.scalar, sparseMs (n v * g v), rows v, (5 * n v * g v + 7) / 8⟩ = .go s2 ps ms
  let fill := fun (v : Env) (s : State) (k : Nat) (ps : List Placed) => ({ sid := v.sid, slot := k, mslot := none, row0 := row0 v, rows := rows v, ty := v.ty, blocks := blocks v, n := 0, g := 0, src := s.fillSource v ps, msrc := [], addr := v.o.scalar, maddr := 0, keys := s.keysOf v.b.ctx v.b.die, lanes := v.act, issue := 0 } : SlotFill)
  let fills := fun (v : Env) (s : State) (k km : Nat) (ps ms : List Placed) => ({ sid := v.sid, slot := k, mslot := some km, row0 := row0 v, rows := rows v, ty := v.ty, blocks := 0, n := n v, g := g v, src := s.fillSource v ps, msrc := s.fillSource v ms, addr := v.o.scalar, maddr := v.c.scalar, keys := s.keysOf v.b.ctx v.b.die, lanes := v.act, issue := 0 } : SlotFill)
  GivesIf .sld encSld (fun v _ => v.act = 0) (fun _ _ => {}) ∧
  GivesIf .slds encSlds (fun v _ => v.act = 0) (fun _ _ => {}) ∧
  DoesIn .sld encSld (fun v s s1 o => ∃ k p ps s0, sld v s s0 k p ps ∧ p.f ≠ 16 ∧ s0.counterRoom v true = true ∧
    s1 = s0.recallFor (s0.isOrdered v.b) ps ∧
    o = doing (issueSlotFill v (fill v s1 k ps) (if v.ty = 0 then .plain else .mx v.ty) (if v.ty = 0 then .plain else .mx v.ty))) ∧
  Waits .sld encSld (fun v s s1 => ∃ k p ps, sld v s s1 k p ps ∧ (p.f = 16 ∨ s1.counterRoom v true = false)) ∧
  DoesIn .slds encSlds (fun v s s2 o => ∃ k km p pm ps ms s1, slds v s s1 k km p pm ps ms ∧ p.f ≠ 16 ∧ pm.f ≠ 16 ∧ s1.counterRoom v true = true ∧
    s2 = s1.recallFor (s1.isOrdered v.b) (ps ++ ms) ∧
    o = doing (issueSlotFill v (fills v s2 k km ps ms) (.spVal v.ty (n v) (g v)) (.spMeta v.ty (n v) (g v)))) ∧
  Waits .slds encSlds (fun v s s2 => ∃ k km p pm ps ms, slds v s s2 k km p pm ps ms ∧
    (p.f = 16 ∨ pm.f = 16 ∨ s2.counterRoom v true = false)))

/-- R282 to R285, R294, R295: MMA and MMAS whose slots are ready and of the right format, and whose tile lies in the region, enter the
stream and count as readers of their slots; while a fill is on one of their slots, or the stream is full, they wait. A slot that is not
ready or has another format raises. The order of the checks, and that MMA and MMAS wait for the fills of their slots before their formats
are judged, are the model's choices (DEDUCED, log 51). -/
def Obligations.Products : Prop :=
  let l := fun (v : Env) => litNat v.f
  let tile := fun (v : Env) => BitVec.ofNat 32 v.c.scalar
  let fits := fun (v : Env) => bitsOf (l v) 6 0 + shapeM v.f ≤ 128 ∧ bitsOf (l v) 14 8 + shapeN v.f ≤ 128 ∧
    tileCause v.b.acc (shapeM v.f) (shapeN v.f) (tile v) = none
  let fmt := fun (v : Env) => if typeMX v.ty then SlotFormat.mx v.ty else .plain
  let mma := fun (v : Env) (ka kb : Nat) (pa pb : PSlot) => v.act ≠ 0 ∧ v.a.scalar ≤ 31 ∧ v.o.scalar ≤ 31 ∧ fits v ∧
    32 * bitsOf (l v) 19 16 + 32 * (bitsOf v.md 10 6 + 1) ≤ rowCap v.ty ∧
    v.b.slotOf v.a.scalar = some (ka, pa) ∧ v.b.slotOf v.o.scalar = some (kb, pb)
  let good := fun (f : SlotFormat) (p : PSlot) => p.readable = true ∧ p.format = f
  let mmas := fun (v : Env) (ka km : Nat) (pa pm : PSlot) (q g : Nat) (qs : List (Nat × PSlot)) =>
    let nq := (24 * g + rowCap v.ty - 1) / rowCap v.ty
    v.act ≠ 0 ∧ v.a.scalar ≤ 31 ∧ v.a.scalar % 2 = 0 ∧ v.o.scalar ≤ 31 ∧ fits v ∧ v.b.slotOf v.a.scalar = some (ka, pa) ∧
    v.b.slotOf (v.a.scalar + 1) = some (km, pm) ∧ pa.f = 0 ∧ pm.f = 0 ∧ good (.spVal v.ty q g) pa ∧ good (.spMeta v.ty q g) pm ∧
    nq ≤ 4 ∧ v.o.scalar + nq - 1 ≤ 31 ∧ qs.length = nq ∧ ∀ i, i < nq → v.b.slotOf (v.o.scalar + i) = qs[i]?
  GivesIf .mma (fun _ => encMma) (fun v _ => v.act = 0) (fun _ _ => {}) ∧
  GivesIf .mmas (fun _ => encMmas) (fun v _ => v.act = 0) (fun _ _ => {}) ∧
  Does .mma (fun _ => encMma) (fun v s s1 o => s1 = s ∧ ∃ ka kb pa pb, mma v ka kb pa pb ∧ pa.f = 0 ∧ pb.f = 0 ∧ v.b.stream.length < 64 ∧
    good (fmt v) pa ∧ good (fmt v) pb ∧
    o = doing (fun s => enterStream v { v.entry 0x84 (tile v) with slots := [ka, kb] } (readSlots v [ka, kb] s))) ∧
  Waits .mma (fun _ => encMma) (fun v s s1 => s1 = s ∧ ∃ ka kb pa pb, mma v ka kb pa pb ∧
    (pa.f ≠ 0 ∨ pb.f ≠ 0 ∨ (good (fmt v) pa ∧ good (fmt v) pb ∧ 64 ≤ v.b.stream.length))) ∧
  Raises .mma (fun _ => encMma) (fun v _ c a m => ∃ ka kb pa pb, mma v ka kb pa pb ∧ pa.f = 0 ∧ pb.f = 0 ∧
    ¬(good (fmt v) pa ∧ good (fmt v) pb) ∧ c = 0x0405 ∧ a = 0 ∧ m = v.act) ∧
  Does .mmas (fun _ => encMmas) (fun v s s1 o => s1 = s ∧ ∃ ka km pa pm q g qs, mmas v ka km pa pm q g qs ∧
    (∀ x ∈ qs, x.2.f = 0 ∧ good .plain x.2) ∧ v.b.stream.length < 64 ∧
    o = doing (fun s => enterStream v { v.entry 0x85 (tile v) with slots := [ka, km] ++ qs.map (fun x => x.1) }
      (readSlots v ([ka, km] ++ qs.map (fun x => x.1)) s))) ∧
  Waits .mmas (fun _ => encMmas) (fun v s s1 => s1 = s ∧ ∃ ka km pa pm q g qs, mmas v ka km pa pm q g qs ∧
    ((∃ x ∈ qs, x.2.f ≠ 0) ∨ ((∀ x ∈ qs, x.2.f = 0 ∧ good .plain x.2) ∧ 64 ≤ v.b.stream.length))) ∧
  Raises .mmas (fun _ => encMmas) (fun v _ c a m => ∃ ka km pa pm q g qs, mmas v ka km pa pm q g qs ∧
    (∀ x ∈ qs, x.2.f = 0) ∧ ¬(∀ x ∈ qs, good .plain x.2) ∧ c = 0x0405 ∧ a = 0 ∧ m = v.act) ∧
  Raises .mmas (fun _ => encMmas) (fun v _ c a m => v.act ≠ 0 ∧ v.a.scalar ≤ 31 ∧ v.a.scalar % 2 = 0 ∧ v.o.scalar ≤ 31 ∧
    bitsOf (l v) 6 0 + shapeM v.f ≤ 128 ∧ bitsOf (l v) 14 8 + shapeN v.f ≤ 128 ∧ v.b.slotOf v.o.scalar = none ∧
    (∀ k p t q, v.b.slotOf v.a.scalar = some (k, p) → p.format ≠ .spVal t q 0) ∧ c = 0x0401 ∧ a = 0 ∧ m = v.act)

/-- R283, R284, R296: MZERO and ACLD of a tile that lies in the region enter the stream, ACLD once its rows pass their checks; they wait
while the stream is full and raise for a bad tile word. How a row that straddles two owners is checked (DEDUCED, log 42) and when the
entry's bytes are captured (DEDUCED, log 45) are the model's choices. R285, R297, R298: MBAT closes a batch: it numbers every entry that
has no batch and gives the number. MWTB waits until its batch and all earlier ones are complete and then for an acquire; a batch not yet
closed raises. -/
def Obligations.TileLoadsAndBatches : Prop :=
  (let mzero : Enc := { opc := 0x86, lens := [2], sc := .u32, md := 0x3F }
  let tile := fun (v : Env) => BitVec.ofNat 32 v.c.scalar
  let bad := fun (v : Env) => tileCause v.b.acc (shapeM v.f) (shapeN v.f) (tile v)
  let rows := fun (v : Env) (s s1 : State) (ps : List Placed) => v.act ≠ 0 ∧ v.o.scalar ≤ 65535 ∧ bad v = none ∧
    s.rowGate v (bitOf v.md 6) .read ((v.a.scalar : Int) + (v.f.lit?.getD 0).toInt) (16 * v.o.scalar) (shapeM v.f) (shapeN v.f * elemSize v.ty) = .go s1 ps
  GivesIf .mzero (fun _ => mzero) (fun v _ => v.act = 0) (fun _ _ => {}) ∧
  GivesIf .acld encAcld (fun v _ => v.act = 0) (fun _ _ => {}) ∧
  GivesIf .mzero (fun _ => mzero) (fun v _ => v.act ≠ 0 ∧ bad v = none ∧ v.b.stream.length < 64)
    (fun v _ => doing (enterStream v (v.entry 0x86 (tile v)))) ∧
  Waits .mzero (fun _ => mzero) (fun v s s1 => s1 = s ∧ v.act ≠ 0 ∧ bad v = none ∧ 64 ≤ v.b.stream.length) ∧
  Raises .mzero (fun _ => mzero) (fun v _ c a m => v.act ≠ 0 ∧ bad v = some c ∧ a = 0 ∧ m = v.act) ∧
  DoesIn .acld encAcld (fun v s s1 o => ∃ ps s0, rows v s s0 ps ∧ v.b.stream.length < 64 ∧ s1 = s0.recallFor (s0.isOrdered v.b) ps ∧
    o = doing (fun s => enterStream v { v.entry 0x87 (tile v) with opa := BitVec.ofNat 64 v.a.scalar, opb := BitVec.ofNat 32 v.o.scalar, src := if bitOf v.md 6 then [] else if s1.isOrdered v.b then ps.map (s1.capture v) else ps }
      (s.touchAll v ps))) ∧
  Waits .acld encAcld (fun v s s1 => ∃ ps, rows v s s1 ps ∧ 64 ≤ v.b.stream.length) ∧
  Raises .acld encAcld (fun v _ c a m => v.act ≠ 0 ∧ a = 0 ∧ m = v.act ∧
    ((65535 < v.o.scalar ∧ c = 0x0102) ∨ (v.o.scalar ≤ 65535 ∧ bad v = some c)))) ∧
  (let mbat : Enc := { opc := 0x88, lens := [1, 2], dst := .w32, gov0 := true }
  let mwtb : Enc := { opc := 0x89, lens := [2, 3], sb := .u32, md := 7, extra := fun f _ => modOf f == 1 || modOf f == 2 }
  let n := fun (v : Env) => BitVec.ofNat 32 v.o.scalar
  let ahead := fun (v : Env) => 1 ≤ (n v - v.b.nb).toNat ∧ (n v - v.b.nb).toNat < 2 ^ 31
  let scope := fun (v : Env) => (scopeOf v.md).getD .core
  let fresh := fun (v : Env) => v.act ≠ 0 ∧ v.x.acquiring? = none
  Gives .mbat (fun _ => mbat) (fun v _ =>
    { regs := [⟨v.f.dst.toNat, false, Quad.all ((v.b.nb + 1).setWidth 64), .u, .u, true, 0xF⟩]
      eff := fun s => s.modBlock v.bid (fun b => { b with nb := v.b.nb + 1, stream := b.stream.map (fun e => if e.batch.isNone then { e with batch := some (v.b.nb + 1) } else e), late := b.late.map (fun w => if w.tag == .batch none then { w with tag := .batch (some (v.b.nb + 1)) } else w) }) }) ∧
  GivesIf .mwtb (fun _ => mwtb) (fun v _ => v.act = 0) (fun _ _ => {}) ∧
  DoesIn .mwtb (fun _ => mwtb) (fun v s s1 o => fresh v ∧ ¬ahead v ∧ v.b.batchDone (n v) = true ∧ s.acquire v (scope v) 0 none = (s1, true) ∧
    o = doing (batchSeen v (n v))) ∧
  DoesIn .mwtb (fun _ => mwtb) (fun v s s1 o => v.act ≠ 0 ∧ v.x.acquiring? ≠ none ∧ s.acquire v (scope v) 0 none = (s1, true) ∧
    o = doing (batchSeen v (n v))) ∧
  Waits .mwtb (fun _ => mwtb) (fun v s s1 => s1 = s ∧ fresh v ∧ ¬ahead v ∧ v.b.batchDone (n v) = false) ∧
  Raises .mwtb (fun _ => mwtb) (fun v _ c a m => fresh v ∧ ahead v ∧ c = 0x0408 ∧ a = 0 ∧ m = v.act))

/-- R283, R284, R299 to R301: DRN and DRNX of a tile that lies in the region, to rows that pass their checks, enter the stream with their
effective type, rounding and saturation, and with the places that the checks gave; an ordered block takes the round log records of the
lines that they write; under rsr they draw their random words at issue. The places that an entry holds are the model's choice (DEDUCED,
log 47), as is that every drain holds lane 0's counter (DESIGN CHOICE, log 130) and the order of its causes (DESIGN CHOICE, log 131). So
is how a row that straddles two owners is checked (DEDUCED, log 42). R284, R302 to R304: DRNA of a tile to another current member of a
group of blocks enters the stream; the ordered form takes the next number of its handle and target and its rank in the group. A handle, a
target or a tile that is not good raises. The order of its checks, and that the numbers and ranks are those of its issue, are the model's
choice (DEDUCED, log 48). -/
def Obligations.Drains : Prop :=
  (let tile := fun (v : Env) => BitVec.ofNat 32 v.c.scalar
  let win := fun (v : Env) => bitOf v.md 6
  let p1 := fun (v : Env) => 16 * (v.o.scalar % 65536)
  let p2 := fun (v : Env) => 16 * (v.o.scalar / 65536)
  let m := fun (v : Env) => shapeM v.f
  let n := fun (v : Env) => shapeN v.f
  let ok := fun (v : Env) (d : Int) => v.act ≠ 0 ∧ tileCause v.b.acc (m v) (n v) (tile v) = none ∧ d % 16 = 0 ∧ drainRow v.ty (n v) ≤ p1 v ∧
    (typeMX v.ty = true → n v % 32 = 0)
  let entry := fun (v : Env) (opc : Nat) (ps qs : List Placed) => { v.entry opc (tile v) with opa := BitVec.ofNat 64 v.a.scalar, opb := BitVec.ofNat 32 v.o.scalar, ctr := v.x.ctr.get 0, src := if win v then [] else ps ++ qs.map (fun q => { q with e := q.e + m v }) }
  let held := fun (v : Env) (ord : Bool) (ps : List Placed) (s : State) => if ord then ((s.touchAll v ps).holdAll v.b ps).1 else s.touchAll v ps
  let draw := fun (v : Env) (k : Nat) (y : Slice) =>
    { y with ctr := y.ctr.set 0 (y.ctr.get 0 + BitVec.ofNat 64 (if v.rnd = 6 then k * (m v * n v) else 0)) }
  let one := fun (v : Env) (s s1 : State) (ps qs : List Placed) =>
    let d : Int := if win v then v.a.scalar + (v.f.lit?.getD 0).toInt else (wrapNat 64 (v.a.scalar + (v.f.lit?.getD 0).toInt) : Nat)
    v.o.scalar ≤ 65535 ∧ ok v d ∧ s.rowGates v (win v) .write ⟨d, p1 v, m v, drainRow v.ty (n v)⟩
      ⟨d + (v.f.lit?.getD 0).toInt, p2 v, 0, drainRow v.ty (m v)⟩ = .go s1 ps qs
  let two := fun (v : Env) (s s2 : State) (ps qs : List Placed) =>
    let d : Int := if win v then v.a.scalar else (wrapNat 64 v.a.scalar : Nat)
    ok v d ∧ drainRow v.ty (m v) ≤ p2 v ∧ (typeMX v.ty = true → m v % 32 = 0) ∧
    s.rowGates v (win v) .write ⟨d, p1 v, m v, drainRow v.ty (n v)⟩
      ⟨d + (v.f.lit?.getD 0).toInt, p2 v, n v, drainRow v.ty (m v)⟩ = .go s2 ps qs
  let room := fun (v : Env) (s : State) (ps : List Placed) =>
    (s.isOrdered v.b = true → s.logFull v ps = false) ∧ v.b.stream.length < 64
  let full := fun (v : Env) (s : State) (ps : List Placed) =>
    (s.isOrdered v.b = true → s.logFull v ps = false) ∧ 64 ≤ v.b.stream.length
  GivesIf .drn (encDrn false) (fun v _ => v.act = 0) (fun _ _ => {}) ∧
  GivesIf .drnx (encDrn true) (fun v _ => v.act = 0) (fun _ _ => {}) ∧
  DoesIn .drn (encDrn false) (fun v s s1 o => ∃ ps qs, one v s s1 ps qs ∧ room v s1 (ps ++ qs) ∧
    o = doing (fun s => enterStream v (entry v 0x8A ps qs) ((held v (s1.isOrdered v.b) (ps ++ qs) s).modSlice v.bid v.sid (draw v 1)))) ∧
  Waits .drn (encDrn false) (fun v s s1 => ∃ ps qs, one v s s1 ps qs ∧ full v s1 (ps ++ qs)) ∧
  DoesIn .drnx (encDrn true) (fun v s s2 o => ∃ ps qs, two v s s2 ps qs ∧ room v s2 (ps ++ qs) ∧
    o = doing (fun s => enterStream v (entry v 0x8B ps qs) ((held v (s2.isOrdered v.b) (ps ++ qs) s).modSlice v.bid v.sid (draw v 2)))) ∧
  Waits .drnx (encDrn true) (fun v s s2 => ∃ ps qs, two v s s2 ps qs ∧ full v s2 (ps ++ qs))) ∧
  (let row := fun (i : Fields → Instr) (opc : Nat) (ordered : Bool) =>
    let h := fun (v : Env) => v.a.scalar
    let t := fun (v : Env) => v.o.scalar
    let tile := fun (v : Env) => BitVec.ofNat 32 v.c.scalar
    let bad := fun (v : Env) => (tileCause v.b.acc (shapeM v.f) (shapeN v.f) (tile v)).or
      (tileCause v.b.acc (shapeM v.f) (shapeN v.f) (BitVec.ofNat 32 (litNat v.f)))
    let target := fun (v : Env) (s : State) (g : Group) (m : Nat) => v.act ≠ 0 ∧ (∃ slot, s.groupOf v.b (h v) = .ok (true, slot, g)) ∧
      s.memberAt true g (t v) = some m ∧ m ≠ v.bid ∧ m ∈ g.current
    let next := fun (v : Env) => match v.b.drnaSeq.find? (fun q => q.1 == h v && q.2.1 == t v) with | some q => q.2.2 | none => 0
    let count := fun (v : Env) (b : Block) => if ordered then
      { b with drnaSeq := (h v, t v, next v + 1) :: b.drnaSeq.filter (fun q => !(q.1 == h v && q.2.1 == t v)) } else b
    GivesIf i (fun _ => encDrna opc) (fun v _ => v.act = 0) (fun _ _ => {}) ∧
    Does i (fun _ => encDrna opc) (fun v s s1 o => s1 = s ∧ ∃ g m, target v s g m ∧ bad v = none ∧ v.b.stream.length < 64 ∧
      o = doing (fun s => enterStream v
        { v.entry opc (tile v) with opa := BitVec.ofNat 64 (h v), opb := BitVec.ofNat 32 (t v), dst := m, seq := if ordered then next v else 0, rank := if ordered then s1.rankOf true g v.bid else 0, epoch := g.epoch, ahead := if ordered then g.published.filter (fun k => k != m && decide (s1.rankOf true g k < s1.rankOf true g v.bid)) else [] }
        (s.modBlock v.bid (count v)))) ∧
    Waits i (fun _ => encDrna opc) (fun v s s1 => s1 = s ∧ ∃ g m, target v s g m ∧ bad v = none ∧ 64 ≤ v.b.stream.length) ∧
    Raises i (fun _ => encDrna opc) (fun v s c a m => v.act ≠ 0 ∧ a = 0 ∧ m = v.act ∧
      (s.groupOf v.b (h v) = .error c ∨ ∃ g k, target v s g k ∧ bad v = some c)) ∧
    Raises i (fun _ => encDrna opc) (fun v s c a m => v.act ≠ 0 ∧ a = 0 ∧ m = v.act ∧ c = 0x0404 ∧ ∃ blk slot g, s.groupOf v.b (h v) = .ok (blk, slot, g) ∧
      (blk = false ∨ s.memberAt true g (t v) = none ∨ ∃ k, s.memberAt true g (t v) = some k ∧ (k = v.bid ∨ k ∉ g.current)))
  row .drnaO 0x8C true ∧ row .drnaU 0x8D false)

/-! ### Queues and tokens -/

/-- R309, R311, R319, R320, R324, R326: CPY, CPG, CPS and QFEN, once their operands and records pass their checks, issue an entry, or wait
for room; with no active lane they give the null token. The lanes of their traps (DEDUCED, log 23), how a range is checked (DEDUCED, log
71) and the queues that QFEN's mask names (DEDUCED, log 75) are the model's choices. R52, R88, R321: CPT reads its record as an LD, its
group, coordinates and receivers from uniform registers, and issues a copy of a box to the windows of its receivers, the issuing block
alone or those that its mask names in the group. The order of its checks is the model's choice (DEDUCED, log 74). So is how the read of a
record waits and where the record may lie (DEDUCED, log 36). -/
def Obligations.CopyInstructions : Prop :=
  (let side := fun (win : Bool) (o : Opd) => if win then Side.win o.scalar else Side.glob o.scalar
  let src := fun (v : Env) => side (bitOf v.md 5) v.a
  let dst := fun (v : Env) => side (bitOf v.md 6) v.o
  let n := fun (v : Env) => v.c.scalar
  let scope := fun (v : Env) => (scopeOf (v.md / 2 % 8)).getD .die
  let inRange := fun (v : Env) (s : State) => s.rangeFail v.b (src v) (n v) = none ∧ s.rangeFail v.b (dst v) (n v) = none
  let gather := fun (i : Fields → Instr) (opc : Nat) (isGather : Bool) =>
    Issues i (fun _ => encCpg opc) (fun v s s1 a => ∃ bytes,
      let va := (v.a.scalar + ((v.f.lit?.getD 0).signExtend 64).toNat) % 2 ^ 64
      let r := GatherRec.ofBytes bytes
      va % 64 = 0 ∧ s.readAsLd v va 64 v.act = .got s1 bytes ∧ r.ok (leNat (bytes.drop 0x28)) = true ∧
      s1.rangeFail v.b r.side (r.count * r.rowb) = none ∧ s1.rangeFail v.b (.glob r.index) (4 * r.count) = none ∧
      s1.rangeFail v.b (.glob r.table) (8 * r.tlen) = none ∧ (scope v = .core → isGather = true ∧ r.window = true) ∧
      a = { queue := v.md % 2, owner := v.bid, scope := scope v, det := bitOf v.md 4, kind := if isGather then .gather r else .scatter r, lines := if isGather && r.window then s1.destLines [v.bid] r.dense (r.count * r.rowb) else [] })
  let qfen : Enc := { opc := 0xC4, lens := [2], dst := .w64, md := 0xFF, extra := fun f _ => modOf f % 16 != 0 && scopeOk (modOf f / 16 % 8) 5 }
  let queues := fun (v : Env) => ((List.range 4).filter (fun q => bitOf v.md q)).map (fun q => (q, if q < 2 then v.bid else v.b.ctx))
  let free := fun (v : Env) (s : State) => ∀ q ∈ queues v, s.queueRoom v.b.die q.1 q.2 = true
  Issues .cpy encCpy (fun v s s1 a => s1 = s ∧ inRange v s ∧ ((∃ va, dst v = .glob va) → scope v ≠ .core) ∧
    a = { queue := v.md % 2, owner := v.bid, scope := scope v, det := bitOf v.md 4, kind := .copy (src v) (dst v) (n v), lines := match dst v with | .win o => s.destLines [v.bid] o (n v) | .glob _ => [] }) ∧
  Raises .cpy encCpy (fun v s c a m => v.act ≠ 0 ∧ m = v.act ∧
    ((s.rangeFail v.b (src v) (n v)).or (s.rangeFail v.b (dst v) (n v)) = some (c, a) ∨
      (inRange v s ∧ (∃ va, dst v = .glob va) ∧ scope v = .core ∧ c = 0x0102 ∧ a = 0))) ∧
  gather .cpg 0xC2 true ∧ gather .cps 0xC3 false ∧
  Issues .qfen (fun _ => qfen) (fun v s s1 a => s1 = s ∧ free v s ∧
    a = { queue := 6, owner := v.bid, scope := (scopeOf (v.md / 16 % 8)).getD .die, det := bitOf v.md 7, kind := .fence (queues v), lines := [] }) ∧
  Waits .qfen (fun _ => qfen) (fun v s s1 => s1 = s ∧ v.act ≠ 0 ∧ ¬free v s)) ∧
  (let self := fun (v : Env) => bitOf v.md 5
  let mask := fun (v : Env) => match v.f.lit? with | some l => l.toNat | none => 1
  let base := fun (v : Env) => v.f.sb.toNat + if self v then 0 else 1
  let total := fun (v : Env) (r : TensorRec) => r.rank + if self v then 0 else 1
  let doff := fun (v : Env) => v.c.v.l0.toNat % 2 ^ 21
  let boff := fun (v : Env) => v.c.v.l0.toNat / 2 ^ 32 % 2 ^ 21
  let usable := fun (v : Env) (n : Nat) => ∀ i, i < n → (v.x.reg (v.f.sb.toNat + i)).isPend = false ∧
    (v.x.mode.getLsbD 14 = true ∨ v.x.reg (v.f.sb.toNat + i) ≠ .empty) ∧ (v.x.reg (v.f.sb.toNat + i)).tag = .u
  let fits := fun (s : State) (recv : List Nat) (o n : Nat) => ∀ k ∈ recv, ∀ b, s.blocks.get? k = some b → b.inWindow o n = true
  Issues .cpt (fun _ => encCpt) (fun v s s1 a => ∃ bytes recv,
    let va := v.a.scalar
    let r := TensorRec.ofBytes bytes
    va % 64 = 0 ∧ s.readAsLd v va 64 v.act = .got s1 bytes ∧ r.ok (bitOf (leNat ((bytes.drop 9).take 1)) 7) typeTensor = true ∧
    r.space = false ∧ r.boxBytes ≤ 2 ^ 20 ∧ base v + r.rank ≤ 60 ∧ usable v (total v r) ∧
    (if self v then recv = [v.bid] else s1.cptReceivers v v.o.scalar (mask v) = .ok recv) ∧
    v.c.v.l0.toNat = doff v + boff v * 2 ^ 32 ∧ boff v % 16 = 0 ∧ fits s1 recv (doff v) r.boxBytes ∧ fits s1 recv (boff v) 16 ∧
    a = { queue := v.md % 2, owner := v.bid, scope := (scopeOf (v.md / 2 % 8)).getD .die, det := bitOf v.md 4, kind := .box r recv ((List.range r.rank).map (fun i => (v.x.reg (base v + i)).lanes.l0.toInt)) (doff v) (boff v), lines := s1.destLines recv (doff v) r.boxBytes, rels := if v.f.lb then (List.range (total v r)).map (fun i => v.f.sb.toNat + i) else [], sticky := (List.range (total v r)).any (fun i => v.x.reg (v.f.sb.toNat + i) = .empty) }))

/-- R312, R327, R328, R416: TOKW goes on once its token is complete and acquired, TOKT says in its predicate whether it is, and TOKR gives
its status word: the bytes above, a failed entry's cause, a ring entry's SAT in bit 2 and the state below; a token that is none of the
context's raises TOKEN_INVALID, and TOKW raises a failed entry's cause unless told not to. The lanes of TOKEN_INVALID are the model's
choice (DEDUCED, log 23). When an acquire drops the core's lines (DEDUCED, log 34) and what a token whose record is used again counts as
(DEDUCED, log 78) are the model's choices. R312: how a token is taken: 0 is the null token; one whose context, die, generation or queue
cannot be raises; otherwise the record of its index has its generation, or is at most 2^31 − 1 generations past it, and the token is
stale, or is none of the two. R329, R339, R402, R410: QCAN of a token that is complete says no; of a node or of a layer it cancels it as
far as it can be and says whether it did; of an entry of a copy or ring queue it makes it fail and waits until it has, and then says
whether it caused that. The lanes of TOKEN_INVALID are the model's choice (DEDUCED, log 23). -/
def Obligations.Tokens : Prop :=
  (let tokw : Enc := { opc := 0xC5, lens := [2], sa := .u64, gov0 := true, md := 1 }
  let tokt : Enc := { opc := 0xC6, lens := [2], dst := .pd, sa := .u64, gov0 := true }
  let tokr : Enc := { opc := 0xC7, lens := [2], dst := .w64, sa := .u64, gov0 := true }
  let t := fun (v : Env) => v.a.v.l0
  let fresh := fun (v : Env) => v.x.acquiring? = none
  let view := fun (v : Env) (s : State) (w : TokView) => s.tokenView v.b.ctx (t v) = some w
  -- the state in which a complete token has been observed and its acquire is done
  let seen := fun (v : Env) (s : State) (w : TokView) (s1 : State) =>
    match w.acquires with
    | none => s1 = s.observeToken v (t v) w
    | some sc => (s.observeToken v (t v) w).acquire v sc (BitVec.ofNat 64 sc.code) none = (s1, true)
  -- a residency token whose layer is on its way says how much of it has landed (R402)
  let landed := fun (v : Env) (s : State) (w : TokView) => s.landedSoFar v.b.ctx (t v) w
  let failed := fun (w : TokView) => ∃ r, w = .record r ∧ r.state = .failed
  let word := fun (t : Dword) (w : TokView) => match w with
    | .null => 1
    | .stale => 3
    | .record r => min r.bytes 0xFFFFFFFF * 2 ^ 32 + (if r.state = .failed then r.cause.toNat * 65536 else 0) +
        (if (tokQueue t = 2 ∨ tokQueue t = 3) ∧ r.sat = true then 4 else 0) +
        (match r.state with | .done => 1 | .failed => 2 | _ => 0)
  let again := fun (v : Env) (s s1 : State) => ∃ w, v.x.acquiring? = some w ∧ s.acquire v ((scopeOf w.toNat).getD .pkg) w none = (s1, true)
  let invalid := fun (i : Fields → Instr) (e : Enc) => Raises i (fun _ => e) (fun v s c a m =>
    fresh v ∧ s.tokenView v.b.ctx (t v) = none ∧ c = 0x0505 ∧ a = 0 ∧ m = v.x.mask)
  DoesIn .tokw (fun _ => tokw) (fun v s s1 o => fresh v ∧ (∃ w, view v s w ∧ w.state ≠ 0 ∧ (failed w → bitOf v.md 0 = true) ∧ seen v s w s1) ∧ o = {}) ∧
  DoesIn .tokw (fun _ => tokw) (fun v s s1 o => again v s s1 ∧ o = {}) ∧
  Waits .tokw (fun _ => tokw) (fun v s s1 => s1 = s ∧ fresh v ∧ ∃ w, view v s w ∧ w.state = 0) ∧
  Raises .tokw (fun _ => tokw) (fun v s c a m => fresh v ∧ bitOf v.md 0 = false ∧ m = v.x.mask ∧
    ∃ r, view v s (.record r) ∧ r.state = .failed ∧ c = r.cause ∧ a = r.addr) ∧
  DoesIn .tokt (fun _ => tokt) (fun v s s1 o => fresh v ∧ (∃ w, view v s w ∧ w.state ≠ 0 ∧ seen v s w s1) ∧ o = { pred := some (v.f.dst.toNat, 0xF) }) ∧
  DoesIn .tokt (fun _ => tokt) (fun v s s1 o => again v s s1 ∧ o = { pred := some (v.f.dst.toNat, 0xF) }) ∧
  GivesIf .tokt (fun _ => tokt) (fun v s => fresh v ∧ ∃ w, view v s w ∧ w.state = 0) (fun v _ => { pred := some (v.f.dst.toNat, 0) }) ∧
  Does .tokr (fun _ => tokr) (fun v s s1 o => s1 = s ∧ ∃ w, view v s w ∧ o = { regs := [v.writeUni true (BitVec.ofNat 64 (word (t v) (landed v s w)))] }) ∧
  invalid .tokw tokw ∧ invalid .tokt tokt ∧
  Raises .tokr (fun _ => tokr) (fun v s c a m => s.tokenView v.b.ctx (t v) = none ∧ c = 0x0505 ∧ a = 0 ∧ m = v.x.mask)) ∧
  (∀ (s : State) (ctx : Nat) (c : Ctx) (t : Dword), s.ctxs.get? ctx = some c →
    let d := (((s.die (tokDie t)).tokRec (tokIndex t)).gen - tokGen t).toNat
    let good := t ≠ 0 ∧ tokGen t ≠ 0 ∧ tokCtx t = ctx ∧ tokQueue t ≠ 7 ∧ ∃ i, i < c.size ∧ tokDie t = (c.first + i) % 8
    (t = 0 → s.tokenView ctx t = some .null) ∧ (t ≠ 0 → ¬good → s.tokenView ctx t = none) ∧
    (good → d = 0 → s.tokenView ctx t = some (.record ((s.die (tokDie t)).tokRec (tokIndex t)))) ∧
    (good → 0 < d → d < 2 ^ 31 → s.tokenView ctx t = some .stale) ∧ (good → 2 ^ 31 ≤ d → s.tokenView ctx t = none)) ∧
  (let qcan : Enc := { opc := 0xC8, lens := [2], dst := .pd, sa := .u64 }
  let t := fun (v : Env) => v.a.v.l0
  let told := fun (v : Env) (b : Bool) => ({ pred := some (v.f.dst.toNat, if b then 0xF else 0) } : Out)
  let fresh := fun (v : Env) => v.act ≠ 0 ∧ ∀ n, v.x.prog ≠ .pending n
  let openTok := fun (v : Env) (s : State) (q : Nat) => fresh v ∧ (∃ w, s.tokenView v.b.ctx (t v) = some w ∧ w.state = 0) ∧ tokQueue (t v) = q
  let cancel := fun (v : Env) (s : State) (eid : Nat) (e : Entry) => if e.live then
    (s.failEntry eid 0x0506 0).modEntry eid (fun e => { e with cancelledBy := some (v.bid, v.sid) }) else s
  GivesIf .qcan (fun _ => qcan) (fun v _ => v.act = 0) (fun _ _ => {}) ∧
  GivesIf .qcan (fun _ => qcan) (fun v s => fresh v ∧ ∃ w, s.tokenView v.b.ctx (t v) = some w ∧ (w.state ≠ 0 ∨ tokQueue (t v) = 6)) (fun v _ => told v false) ∧
  DoesIn .qcan (fun _ => qcan) (fun v s s1 o => openTok v s 4 ∧ ∃ n x ok, s.nodes.find? (fun n => n.2.token == t v) = some (n, x) ∧
    s.cancelNode n = (s1, ok) ∧ o = told v ok) ∧
  DoesIn .qcan (fun _ => qcan) (fun v s s1 o => openTok v s 5 ∧ ∃ c l ok, s.ctxs.get? v.b.ctx = some c ∧ c.layerOf (t v) = some l ∧
    s.laye v.b.ctx l = (s1, ok) ∧ o = told v ok) ∧
  Waits .qcan (fun _ => qcan) (fun v s s1 => (∃ q, q < 4 ∧ openTok v s q) ∧ ∃ eid e, s.entryOf (t v) = some (eid, e) ∧
    s1 = (cancel v s eid e).modSlice v.bid v.sid (fun x =>
      { x with prog := .pending (2 * eid + if e.live || e.cancelledBy == some (v.bid, v.sid) then 1 else 0) })) ∧
  GivesIf .qcan (fun _ => qcan) (fun v s => v.act ≠ 0 ∧ ∃ k, v.x.prog = .pending k ∧ s.entryOpen (k / 2) = false)
    (fun v _ => told v (match v.x.prog with | .pending k => k % 2 == 1 | _ => false)) ∧
  Waits .qcan (fun _ => qcan) (fun v s s1 => s1 = s ∧ v.act ≠ 0 ∧ ∃ k, v.x.prog = .pending k ∧ s.entryOpen (k / 2) = true) ∧
  Raises .qcan (fun _ => qcan) (fun v s c a m => fresh v ∧ s.tokenView v.b.ctx (t v) = none ∧ c = 0x0505 ∧ a = 0 ∧ m = v.act))

/-! ### Ring collectives -/

/-- R407 to R409, R417 to R422: a ring instruction reads its record, and its rank table unless it uses the partition, as an LD, and once
they pass their checks issues an entry to one of the context's two ring queues; a record or a table that does not raises. The lanes of
COLL_RECORD are the model's choice (DEDUCED, log 23). How the read of the record waits and where it may lie is the model's choice
(DEDUCED, log 36). R404, R408, R423: RANK gives the place of the slice's die in its partition, or, from a table, the slot that names the
die, with whether another member stands before it there, whether the ring wraps, the loop length and the count. The lanes of COLL_RECORD
are the model's choice (DEDUCED, log 23). -/
def Obligations.Collectives : Prop :=
  (let row := fun (i : Fields → Instr) (opc op : Nat) (types : TyRule) (md : Nat) (rcv : Env → Bool) =>
    let e := fun (_ : Fields) => encRing opc types md
    let va := fun (v : Env) => (v.a.scalar + ((v.f.lit?.getD 0).signExtend 64).toNat) % 2 ^ 64
    let scope := fun (v : Env) => (scopeOf (v.md / 2 % 8)).getD .pkg
    -- the record and the table as read, and the state after it
    let read := fun (v : Env) (s s2 : State) (r : CollRaw) (slots : List Word) => va v % 64 = 0 ∧ ∃ s1 bytes,
      s.readAsLd v (va v) 64 v.act = .got s1 bytes ∧ r = CollRaw.ofBytes bytes ∧ r.ok op v.ty (rcv v) true = true ∧
      (if r.table = 0 then s2 = s1 ∧ slots = s1.partitionSlots v.b.ctx else s1.readTable v r.table v.act = .got s2 slots)
    Issues i e (fun v s s2 a => ∃ r slots q, read v s s2 r slots ∧
      s2.collCheck v.b.die (some v.b) op v.ty (rcv v) (scope v) (va v) r slots = .ok q ∧
      a = { queue := 2 + v.md % 2, owner := v.b.ctx, scope := scope v, det := bitOf v.md 4, kind := .ring q CollProg.fresh, lines := if q.dw then s2.destLines [v.bid] q.dst (collDstLen op (rcv v) slots.length q.chunk) else [] }) ∧
    Raises i e (fun v _ c a m => v.act ≠ 0 ∧ va v % 64 ≠ 0 ∧ c = 0x0704 ∧ a = BitVec.ofNat 64 (va v) ∧ m = v.act)
  row .rgath 0xC9 collRgath .none 0x1F (fun _ => false) ∧
  row .rrscO 0xCA collRrscO (.tov typeRing) 0x1F (fun _ => false) ∧
  row .rrscU 0xCB collRrscU (.tov typeRing) 0x1F (fun _ => false) ∧
  row .rhof 0xCC collRhof .none 0x3F (fun v => bitOf (modOf v.f) 5) ∧
  row .ragr 0xCD collRagr .none 0x1F (fun _ => false) ∧
  row .rbar 0xCF collRbar .none 0x1F (fun _ => false)) ∧
  (let rank := fun (f : Fields) => ({ opc := 0xCE, lens := [1, 2, 3], dst := .w64, sa := if bitOf (modOf f) 0 then .u64 else .no, gov0 := true, lit := .role, md := 1, extra := fun f _ => bitOf (modOf f) 0 || f.lit?.getD 0 == 0 } : Enc)
  let me := fun (v : Env) (s : State) => peerCode s.fuses.pkg v.b.die
  let wrapped := fun (v : Env) (s : State) => (s.die v.b.die).ring != 0
  let va := fun (v : Env) => (v.a.scalar + ((v.f.lit?.getD 0).signExtend 64).toNat) % 2 ^ 64
  let pair := fun (v : Env) (w : Nat) => ({ regs := [v.writeUni true (BitVec.ofNat 64 w)] } : Out)
  Does .rank rank (fun v s s1 o => s1 = s ∧ bitOf v.md 0 = false ∧ ∃ c, s.ctxs.get? v.b.ctx = some c ∧
    o = pair v (rankWord ((v.b.die + 8 - c.first) % 8) false (wrapped v s) (s.loopLength c) c.size)) ∧
  DoesIn .rank rank (fun v s s1 o => bitOf v.md 0 = true ∧ va v % 16 = 0 ∧ ∃ slots, s.readTable v (va v) v.x.mask = .got s1 slots ∧
    s.tableOk slots = true ∧ o = pair v (match slotOf slots (me v s) with
      | some j => rankWord j (bitsOf (slots.getD j 0).toNat 13 0 != me v s) (wrapped v s) 0 slots.length
      | none => rankWord 0xFFFFFFFF false (wrapped v s) 0 slots.length)) ∧
  Raises .rank rank (fun v _ c a m => bitOf v.md 0 = true ∧ va v % 16 ≠ 0 ∧ c = 0x0704 ∧ a = BitVec.ofNat 64 (va v) ∧ m = v.x.mask))

/-! ### Kernels, pages and layers -/

/-- R331 to R335: KREG reads an image as an LD and gives its status: the checks' answer with the offset they name, or no space, at once;
an image that passes is registered, and KREG waits until every die of the partition holds the record and then gives status 0 with its
handle. KREG.drop makes a registered kernel Dropping, and raises for another handle. When the wait of KREG ends the spec leaves open, and
the model's free choice decides (DESIGN CHOICE, log 76), as is that the odd register is 0 where no rule names it; the lanes of
KERNEL_INVALID are the model's choice (DEDUCED, log 23). So are which free record a kernel takes (DESIGN CHOICE, log 25), what the
header's checks take in (DEDUCED, log 77) and how the image's read waits (DEDUCED, log 36). R311, R336 to R339, R356, R357: LNCH reads its
node record and its arguments as LDs, and once they pass their checks puts a node into the die's launch queue and gives its token, or
waits for room. NODEQ gives what it asks of a node: code 6 for a state that is no more, and of the null token that of a node that is done.
The lanes of their traps are the model's choice (DEDUCED, log 23). So are the order of the launch queue (DEDUCED, log 79) and how the
reads of the record and its arguments wait (DEDUCED, log 36). -/
def Obligations.KernelsAndNodes : Prop :=
  (let kreg : Enc := { opc := 0xD1, lens := [2], dst := .w64, sa := .u64, sb := .u32, gov0 := true }
  let kdrop : Enc := { opc := 0xD1, lens := [2], sb := .u32, gov0 := true, md := 1 }
  let gives := fun (v : Env) (st x : Nat) => ({ regs := [v.writeUni true (BitVec.ofNat 64 (st + 2 ^ 32 * x))] } : Out)
  let fresh := fun (v : Env) => v.act ≠ 0 ∧ ∀ n, v.x.prog ≠ .pending n
  let image := fun (v : Env) (s s1 : State) (b : List Byte) => fresh v ∧ s.readAsLd v v.a.scalar v.o.scalar v.act = .got s1 b
  let kernel := fun (v : Env) (s : State) => (s.ctxs.get? v.b.ctx).bind (fun c => c.kernelOf (BitVec.ofNat 32 v.o.scalar))
  GivesIf .kreg (fun _ => kreg) (fun v _ => v.act = 0) (fun _ _ => {}) ∧
  DoesIn .kreg (fun _ => kreg) (fun v s s1 o => ∃ b st x, image v s s1 b ∧ checkImage b = .error (st, x) ∧ o = gives v st x) ∧
  DoesIn .kreg (fun _ => kreg) (fun v s s1 o => ∃ b h ordered c, image v s s1 b ∧ checkImage b = .ok (h, ordered) ∧
    s1.ctxs.get? v.b.ctx = some c ∧ (s1.imageRoom c b.length = none ∨ s1.freeKernel c = none) ∧ o = gives v 8 0) ∧
  Waits .kreg (fun _ => kreg) (fun v s s3 => ∃ b s1 s2 h ordered c off i k, image v s s1 b ∧ checkImage b = .ok (h, ordered) ∧
    s1.ctxs.get? v.b.ctx = some c ∧ s1.imageRoom c b.length = some off ∧ s1.freeKernel c = some i ∧
    s1.register v.b.ctx c i off b h ordered = (s2, k) ∧ s3 = s2.modSlice v.bid v.sid (fun x => { x with prog := .pending k })) ∧
  Does .kreg (fun _ => kreg) (fun v s s1 o => s1 = s ∧ v.act ≠ 0 ∧ s.choose v.bid = true ∧ ∃ k, v.x.prog = .pending k ∧ o = gives v 0 k) ∧
  GivesIf .kregDrop (fun _ => kdrop) (fun v _ => v.act = 0) (fun _ _ => {}) ∧
  DoesIn .kregDrop (fun _ => kdrop) (fun v s s1 o => v.act ≠ 0 ∧ ∃ i k, kernel v s = some (i, k) ∧ o = {} ∧
    s1 = s.modCtx v.b.ctx (fun c => { c with kernels := c.kernels.put i { k with state := 2 } })) ∧
  Raises .kregDrop (fun _ => kdrop) (fun v s c a m => v.act ≠ 0 ∧ kernel v s = none ∧ c = 0x050A ∧ a = 0 ∧ m = v.act)) ∧
  (let lnch : Enc := { opc := 0xD0, lens := [2, 3], dst := .w64, sa := .u64, lit := .role }
  let nodeq : Enc := { opc := 0xD2, lens := [2], dst := .w32, sa := .u64, gov0 := true, md := 0x7FF, extra := fun f _ => decide (modOf f ≤ 5) }
  let va := fun (v : Env) => (v.a.scalar + ((v.f.lit?.getD 0).signExtend 64).toNat) % 2 ^ 64
  let node := fun (v : Env) (s s2 : State) (r : NodeRec) (args : List Byte) => v.act ≠ 0 ∧ va v % 64 = 0 ∧ ∃ s1 b,
    s.readAsLd v (va v) 256 v.act = .got s1 b ∧ s1.nodeCheck v.b.ctx (va v) b = .ok r ∧ s1.readAsLd v r.args r.argb v.act = .got s2 args
  let t := fun (v : Env) => v.a.v.l0
  let word := fun (v : Env) (n : Nat) => ({ regs := [⟨v.f.dst.toNat, false, Quad.all (BitVec.ofNat 64 n), .u, .u, false, v.x.mask⟩] } : Out)
  let listed := fun (v : Env) (s : State) => s.nodes.find? (fun n => n.2.token == t v)
  GivesIf .lnch (fun _ => lnch) (fun v _ => v.act = 0) (fun v _ => { regs := [v.writeUni true 0] }) ∧
  DoesIn .lnch (fun _ => lnch) (fun v s s2 o => ∃ r args, node v s s2 r args ∧ s2.entryRoom v.b.ctx v.b.die = true ∧
    o = { regs := [v.writeUni true (s2.takeToken v.b.die 4 v.b.ctx .sys).1]
          eff := fun t => (t.takeToken v.b.die 4 v.b.ctx .sys).2.launch v.b.ctx v.b.die (t.takeToken v.b.die 4 v.b.ctx .sys).1 r args }) ∧
  Waits .lnch (fun _ => lnch) (fun v s s2 => ∃ r args, node v s s2 r args ∧ s2.entryRoom v.b.ctx v.b.die = false) ∧
  Raises .lnch (fun _ => lnch) (fun v _ c a m => v.act ≠ 0 ∧ va v % 64 ≠ 0 ∧ c = 0x0509 ∧ a = BitVec.ofNat 64 (va v) ∧ m = v.act) ∧
  GivesIf .nodeq (fun _ => nodeq) (fun v _ => t v = 0) (fun v _ => word v (if v.md = 0 then 4 else 0)) ∧
  Does .nodeq (fun _ => nodeq) (fun v s s1 o => s1 = s ∧ t v ≠ 0 ∧ tokQueue (t v) = 4 ∧ ∃ w n x, s.tokenView v.b.ctx (t v) = some (.record w) ∧
    listed v s = some (n, x) ∧ o = word v (s.nodeQuery n x v.md)) ∧
  GivesIf .nodeq (fun _ => nodeq) (fun v s => t v ≠ 0 ∧ tokQueue (t v) = 4 ∧ (s.tokenView v.b.ctx (t v) = some .stale ∨
    ∃ w, s.tokenView v.b.ctx (t v) = some (.record w) ∧ listed v s = none)) (fun v _ => word v (if v.md = 0 then 6 else 0)) ∧
  Raises .nodeq (fun _ => nodeq) (fun v s c a m => ((t v ≠ 0 ∧ tokQueue (t v) ≠ 4) ∨ s.tokenView v.b.ctx (t v) = none) ∧
    c = 0x0505 ∧ a = 0 ∧ m = v.x.mask))

/-- R371, R372, R374 to R376: PQRY's words are a fill made at issue; SETPK changes the context's K and gives the old value once the new
one has reached every die of the partition; TLBFL releases and then drops what the dies named hold of the context's pages; TLBDR waits
until the context's requests translated there are done. A die operand outside the partition raises. When SETPK's broadcast reaches a die
the spec leaves open, and the model's free choice decides (DEDUCED, log 69). PQRY's word of a page of the image area, and that its answer
is taken at issue (DEDUCED, log 68), that a fill with no active lane is complete at once (DEDUCED, log 39), what TLBFL drops and TLBDR
waits for (DEDUCED, log 70), and the lanes of the traps (DEDUCED, log 23) are the model's choices. -/
def Obligations.PageInstructions : Prop :=
  let pqry : Enc := { opc := 0xF4, lens := [2, 3], dst := .w64, sa := .w64, lit := .role }
  let setpk : Enc := { opc := 0xF5, lens := [2], dst := .w64, sa := .u64, gov0 := true, md := 3, extra := fun f _ => modOf f != 3 }
  let d := fun (v : Env) => v.f.dst.toNat
  let words := fun (v : Env) (s : State) => (v.globalElems v.a.v 8 1 (lanesOf v.act)).foldl (fun (acc : State × List FillElem) e =>
    ((acc.1.pqry v.b.ctx v.b.die e.va).1, acc.2 ++ [{ lane := e.lane, reg := d v, wide := true, ty := 25, parts := [(0, 8, some (BitVec.ofNat 64 (acc.1.pqry v.b.ctx v.b.die e.va).2))], addr := BitVec.ofNat 64 e.va, shift := 0, fault := none, landed := false }]))
    (s, [])
  let new := fun (v : Env) (k : Dword) => if v.md = 0 then v.a.v.l0 else if v.md = 1 then k &&& v.a.v.l0 else k ||| v.a.v.l0
  let spread := fun (s : State) (ctx : Nat) (c : Ctx) => if c.kEverywhere then s else s.spreadK ctx
  let same := fun (v : Env) (s : State) (b : Bool) => ∃ c, s.ctxs.get? v.b.ctx = some c ∧ c.kEverywhere = b
  let upTo := fun (v : Env) (s : State) => match v.x.prog with | .pending n => n | _ => s.nextId
  let outside := fun (v : Env) (s : State) (c : Half) (a : Dword) (m : BitVec 4) => v.extent s = none ∧ c = 0x0102 ∧ a = 0 ∧ m = v.x.mask
  GivesIf .pqry (fun _ => pqry) (fun v s => s.counterRoom v true = true) (fun v _ => { fills := [d v, d v + 1], fillTag := .g, eff := fun s =>
    (((words v s).1.modSlice v.bid v.sid (fun x => x.blankFill [d v, d v + 1] v.act)).beginFill v [d v, d v + 1] .g false true (words v s).2 []
      (fun _ q => q)).1 }) ∧
  Waits .pqry (fun _ => pqry) (fun v s s1 => s1 = s ∧ s.counterRoom v true = false) ∧
  Waits .setpk (fun _ => setpk) (fun v s s1 => v.x.acquiring? = none ∧ ∃ c, s.ctxs.get? v.b.ctx = some c ∧
    s1 = ((s.modCtx v.b.ctx (fun c => c.setK (new v c.k))).spreadK v.b.ctx).modSlice v.bid v.sid (fun x => { x with prog := setpkWait c.k })) ∧
  DoesIn .setpk (fun _ => setpk) (fun v s s1 o => ∃ c old, s.ctxs.get? v.b.ctx = some c ∧ v.x.acquiring? = some old ∧
    s1 = spread s v.b.ctx c ∧ same v s1 true ∧ o = { regs := [v.writeUni true old] }) ∧
  Waits .setpk (fun _ => setpk) (fun v s s1 => ∃ c old, s.ctxs.get? v.b.ctx = some c ∧ v.x.acquiring? = some old ∧
    s1 = spread s v.b.ctx c ∧ same v s1 false) ∧
  DoesIn .tlbfl (encTlb 0xF6) (fun v s s1 o => ∃ ext ok c, v.extent s = some ext ∧ s.release v .pkg = (s1, some ok) ∧ s1.ctxs.get? v.b.ctx = some c ∧
    o = doing (fun s => s.flushTlb v.b.ctx c.dies ext)) ∧
  Waits .tlbfl (encTlb 0xF6) (fun v s s1 => v.extent s ≠ none ∧ s.release v .pkg = (s1, none)) ∧
  Raises .tlbfl (encTlb 0xF6) outside ∧
  GivesIf .tlbdr (encTlb 0xF7) (fun v s => ∃ ext, v.extent s = some ext ∧ s.translatedDone v.b.ctx (upTo v s) ext = true) (fun _ _ => {}) ∧
  Waits .tlbdr (encTlb 0xF7) (fun v s s1 => ∃ ext, v.extent s = some ext ∧ s.translatedDone v.b.ctx (upTo v s) ext = false ∧
    s1 = s.modSlice v.bid v.sid (fun x => { x with prog := .pending (upTo v s) })) ∧
  Raises .tlbdr (encTlb 0xF7) outside

/-- R391, R398, R402: LAYW goes on once its layer is resident and acquired, and until then waits and requests it; LAYQ gives the layer's
word; LAYR requests the layer and gives a residency token; LAYE cancels or evicts it and says whether it could. An id that is no layer of
the context raises, for lanes that are the model's choice (DEDUCED, log 23). When LAYW's acquire drops the core's lines is the model's
choice (DEDUCED, log 34). -/
def Obligations.LayerInstructions : Prop :=
  let row := fun (opc : Nat) (dst : Dst) (gov0 : Bool) (_ : Fields) => ({ opc := opc, lens := [1, 3], dst := dst, sb := .u32, gov0 := gov0 } : Enc)
  let l := fun (v : Env) => v.o.scalar
  let good := fun (v : Env) (s : State) => s.layerBad v.b.ctx (l v) = false
  let st := fun (v : Env) (s : State) => (s.layer v.b.ctx (l v)).state
  let bad := fun (v : Env) (s : State) (c : Half) (a : Dword) => s.layerBad v.b.ctx (l v) = true ∧ c = 0x0602 ∧ a = BitVec.ofNat 64 (l v)
  DoesIn .layw (row 0xFB .no true) (fun v s s1 o => ((v.x.acquiring? = none ∧ good v s ∧ st v s = .resident) ∨ v.x.acquiring? ≠ none) ∧
    s.acquire v .pkg 0 none = (s1, true) ∧ o = {}) ∧
  Waits .layw (row 0xFB .no true) (fun v s s1 => v.x.acquiring? = none ∧ good v s ∧ st v s ≠ .resident ∧
    s1 = (if st v s = .absent ∨ st v s = .evicting then s.requestLayer v.b.ctx (l v) else s).modSlice v.bid v.sid (fun x =>
      { x with prog := .parked [(l v, BitVec.ofNat 64 (l v), v.x.mask)] })) ∧
  Raises .layw (row 0xFB .no true) (fun v s c a m => v.x.acquiring? = none ∧ bad v s c a ∧ m = v.x.mask) ∧
  GivesIf .layq (row 0xFC .w64 true) good (fun v s => { regs := [v.writeUni true (BitVec.ofNat 64 (s.layer v.b.ctx (l v)).word)] }) ∧
  Raises .layq (row 0xFC .w64 true) (fun v s c a m => bad v s c a ∧ m = v.x.mask) ∧
  GivesIf .layr (row 0xFD .w64 false) (fun v _ => v.act = 0) (fun v _ => { regs := [v.writeUni true 0] }) ∧
  GivesIf .layr (row 0xFD .w64 false) (fun v s => v.act ≠ 0 ∧ good v s ∧ s.entryRoom v.b.ctx v.b.die = true)
    (fun v s => { regs := [v.writeUni true (s.takeToken v.b.die 5 v.b.ctx .pkg).1]
                  eff := fun t => ((t.takeToken v.b.die 5 v.b.ctx .pkg).2.requestLayer v.b.ctx (l v)).giveToken v.b.ctx (l v)
                    (t.takeToken v.b.die 5 v.b.ctx .pkg).1 }) ∧
  Waits .layr (row 0xFD .w64 false) (fun v s s1 => s1 = s ∧ v.act ≠ 0 ∧ good v s ∧ s.entryRoom v.b.ctx v.b.die = false) ∧
  Raises .layr (row 0xFD .w64 false) (fun v s c a m => v.act ≠ 0 ∧ bad v s c a ∧ m = v.act) ∧
  GivesIf .laye (row 0xFE .pd false) (fun v _ => v.act = 0) (fun _ _ => {}) ∧
  DoesIn .laye (row 0xFE .pd false) (fun v s s1 o => v.act ≠ 0 ∧ good v s ∧ ∃ ok, s.laye v.b.ctx (l v) = (s1, ok) ∧
    o = { pred := some (v.f.dst.toNat, if ok then 0xF else 0) }) ∧
  Raises .laye (row 0xFE .pd false) (fun v s c a m => v.act ≠ 0 ∧ bad v s c a ∧ m = v.act)

/-! ### Issue -/

/-- R28, R29, R52: a base word that is no instruction raises ILLEGAL_OPCODE for the lanes of M, going past one word where its length code
is 3 and past its words otherwise; a word that cannot be fetched raises the cause with its address. The causes of a fetch of a poisoned
word and from a peer are the model's choice (DEDUCED, log 53). R28, R29, R52: what a fetch gives. The base word's length code tells how
many words follow; each is read at its own address with execute permission, and where all are there the result is what the decoder makes
of them. Which causes a fetch gives is the model's choice (DEDUCED, log 53). -/
def Obligations.FetchOutcomes : Prop :=
  (∀ (s : State) (bid sid : Nat) (b : Block) (x : Slice), Executing s bid sid b x →
    (∀ w : Word, exec (.unassignedOpcode w) s =
      .next (s.trap bid sid 0x0101 0 x.mask (if lenOf w = 3 then 1 else lenOf w + 1) false)) ∧
    (∀ c a, exec (.fetchFault c a) s = .next (s.trap bid sid c a x.mask (s.lenAt b x.pc) false))) ∧
  (∀ (s s1 : State) (b : Block) (pc : Dword) (w : Word), s.fetchWord b pc = (s1, .word w) →
    (lenOf w = 3 → s.fetchAt b pc = (s1, .unassigned w)) ∧
    (lenOf w = 0 → s.fetchAt b pc = (s1, match decodeWords w 0 0 with | .ok i => .run i | .error _ => .unassigned w)) ∧
    (∀ s2 x, lenOf w = 1 → s1.fetchWord b (pc + 4) = (s2, .word x) →
      s.fetchAt b pc = (s2, match decodeWords w x 0 with | .ok i => .run i | .error _ => .unassigned w)) ∧
    (∀ s2 s3 x y, lenOf w = 2 → s1.fetchWord b (pc + 4) = (s2, .word x) → s2.fetchWord b (pc + 8) = (s3, .word y) →
      s.fetchAt b pc = (s3, match decodeWords w x y with | .ok i => .run i | .error _ => .unassigned w)) ∧
    (∀ s2 c, 0 < lenOf w → lenOf w < 3 → s1.fetchWord b (pc + 4) = (s2, .fault c) → s.fetchAt b pc = (s2, .fault c (pc + 4))))

/-- R27, R29, R52, R147, R149, R152: a step runs the decoded instruction. Where the next move is the issue of a part with one slice, whose
turn it is at its port, and the word and the words after it, fetched with execute permission at its pc, decode to an instruction, the step
is that instruction executed for the slice, which notes that it has begun it, from the state that the fetch leaves, with time having
passed; then the part is divided by its slices' pcs. A part whose turn it is can issue: it is resident in a running context and its slices
are ready, and no part that can issue at its port, but one that keeps it from issuing there, issued less recently. That a part which keeps
its port goes before the others is the model's choice (DESIGN CHOICE, log 17), and so is that the order of moves is data of the state
(DESIGN CHOICE, log 2). So are the cycles that pass at a step (DESIGN CHOICE, log 3) and how the package wakes (DEDUCED, log 109). -/
def Obligations.StepRunsDecoded : Prop :=
  ∀ (s s1 s2 : State) (bid part sid : Nat) (b : Block) (x : Slice) (i : Instr),
    s.nextMove.1 = .issue bid part → s1 = s.nextMove.2.passTime.powerCheck (.issue bid part) → s.nextMove.2.passTime.frozen = false → s1.frozen = false →
    s1.blocks.get? bid = some b → s1.issueTurn bid b part = true → b.movers part = [sid] →
    b.slices.get? sid = some x → (s1.beginIssue bid [sid]).fetchAt b x.pc = (s2, .run i) →
    (s1.issueTurn bid b part = true ↔ b.state = .resident ∧ s1.ctxRuns b.ctx = true ∧ x.ready = true ∧ s1.portKept bid b part = false ∧
      ∀ q ∈ s1.rivals b.die b.core bid (b.partOfMove part), q.2.1.portOf q.1 q.2.2 = b.portOf bid part → s1.canIssue q.2.1 q.2.2 = true →
        s1.portKept q.1 q.2.1 q.2.2 = false → b.lastIssue part ≤ q.2.1.lastIssue q.2.2) ∧
    let s3 := s2.noteBegun bid [sid] (.run i)
    (s3.canExec bid sid = true → step s = match exec i { s3 with cur := some (bid, sid) } with
      | .next t => .next (t.afterIssue bid [sid])
      | r => r)

/-! ### Waits that end, and memory -/

/-- R96, R99, R152, R168, R249: a waiting slice executes its instruction again. Where its block is resident, its context runs or halts for
a swap-out while the instruction has begun, and no fault waits for it, the instruction fetched at its pc is executed for it from the state
that the fetch leaves, with the latch sources that its part had read and stowed taken back (R40), and then its part is divided by its
slices' pcs. MONITOR_POLL does so for a slice with no monitor armed, WAIT_SATISFIED for any, each unless it waits for pool words;
CALL_SET_RELEASE for one whose call set is complete; POOL_WAIT_SERVED for the first waiter of the core's order that can be served, or for
a restored block as a whole, which takes its words. That a wait ends by executing the instruction again, and that a slice whose
instruction has begun goes on while its context halts (DEDUCED, log 18), how its latches are kept meanwhile (DESIGN CHOICE, log 17) and
the order of the pool's waiters (DEDUCED, log 19) are the model's choices. So is how a restored block takes its words (DEDUCED, log 87).
R52, R152: an instruction executed again at the end of a wait has the meaning that it has when it is issued. -/
def Obligations.WaitsEnd : Prop :=
  ((∀ s bid sid b x s1 i, s.blocks.get? bid = some b → s.slice? bid sid = some x → b.state = .resident → s.frozen = false →
    (s.ctxRuns b.ctx = true ∨ (s.ctxIs b.ctx .swappingOut = true ∧ x.prog.begun = true)) → x.run = .waiting → x.faults = [] →
    (s.modBlock bid (fun b => (b.partMembers x.part).foldl (fun b k => b.modSlice k (fun y =>
      { y with latches := y.savedLatches, latchSources := [] })) b)).fetchAt b x.pc = (s1, .run i) →
    ∃ s2, rerun i { s1 with cur := some (bid, sid) } = .next s2 ∧
      let t := s2.settle bid (b.partMembers x.part)
      (s.inPoolWait bid sid = false → exec (.waitSatisfied bid sid) s = .next t) ∧
      (s.monitored bid sid = false → s.inPoolWait bid sid = false → exec (.monitorPoll bid sid) s = .next t) ∧
      (b.callSetReady sid x.pc ≠ none → exec (.callSetRelease bid sid) s = .next t) ∧
      (∀ die core w, (s.waitOrder die core).find? s.servable = some w → w.bid = bid → w.sid = sid → w.sid ≠ wholeBlock →
        exec (.poolWaitServed die core) s = .next t)) ∧
  (∀ s die core w, (s.waitOrder die core).find? s.servable = some w → w.sid = wholeBlock →
    exec (.poolWaitServed die core) s = .next (s.takeWords w.bid w.words))) ∧
  (∀ (i : Instr) (s : State), i.parts? ≠ none → rerun i s = exec i s)

/-- R190, R194: a slice takes its fault of the lowest register at an instruction boundary or abandons its wait for it; a fill past the
park limit faults with PARK_TIMEOUT in every element that is not known; a wait past it on scratchpad lines traps. That the known elements
of such a fill land (DEDUCED, log 55) and the register number under which faults of slots and of the stream are ordered (DESIGN CHOICE,
log 50) are the model's choices. Which latches the frame of a fault of a wait holds, and that such a slice goes on while its context
halts, are the model's choices too (DESIGN CHOICE, log 17; DEDUCED, log 18). R91, R193, R194: an element whose value has come goes to its
lane of the fill's registers; the last one ends the fill, which leaves its registers with their target tag, or empty with a fault where an
element faulted. -/
def Obligations.FillsAndFaults : Prop :=
  ((∀ s bid sid b x r f, s.blocks.get? bid = some b → s.slice? bid sid = some x → b.state = .resident →
    (x.run = .waiting ∨ (x.run = .running ∧ x.pend = false)) → leastUsed (x.faults.map (fun f => (f.reg, f))) = some (r, f) →
    exec (.fillFaultDelivery bid sid) s = .next (((s.modSlice bid sid (fun y => { y with faults := y.faults.erase f })).trapAt bid sid
      f.cause f.addr f.lanes).settle bid (b.partMembers x.part))) ∧
  (∀ s bid sid fid x b, s.fills.get? fid = some x → s.blocks.get? bid = some b → x.bid = bid → x.sid = sid →
    s.parkCycles b.ctx < (s.die b.die).cycle.toNat - x.born.toNat →
    exec (.parkTimeout bid sid (some fid)) s = .next (s.modFill fid (fun f => { f with elems := f.elems.map (fun e =>
      if e.landed || e.resolved then e else { e with fault := some (0x030E, e.addr) }) }))) ∧
  (∀ s bid sid b x on c a ls, s.blocks.get? bid = some b → s.slice? bid sid = some x → b.state = .resident → x.run = .waiting →
    x.prog = .lines on →
    pickFail ((on.filter (fun q => (b.presence q.1).state == .absent &&
      decide (s.parkCycles b.ctx < (s.die b.die).cycle.toNat - (b.presence q.1).since.toNat * 256))).flatMap (fun q =>
        (lanesOf q.2.2).map (fun l => LaneFail.mk l 0x030E q.2.1.toNat))) = some (c, a, ls) →
    exec (.parkTimeout bid sid none) s = .next ((s.trapAt bid sid c a ls).settle bid (b.partMembers x.part)))) ∧
  (∀ (s : State) (fid e : Nat) (x : Fill) (y : FillElem), s.fills.get? fid = some x → x.elems[e]? = some y → y.landed = false →
    y.resolved = true → x.regs ≠ [] →
    let s1 := s.modFill fid (fun f => f.modElem e (fun y => { y with landed := true }))
    let s2 := if y.fault.isSome then s1 else s1.modSlice x.bid x.sid (fun z => z.landElem x.whole x.regs y)
    let rest := ∃ k z, x.elems[k]? = some z ∧ k ≠ e ∧ z.landed = false
    (rest → exec (.fillLand fid e) s = .next s2) ∧
    (¬rest → (∀ z ∈ x.elems, z.fault = none) → exec (.fillLand fid e) s =
      .next (({ s2 with fills := s2.fills.erase fid }.issueDone (some x.issue)).modSlice x.bid x.sid (fun y =>
        x.regs.foldl (fun (y : Slice) k => match y.reg k with | .pend t v => y.setReg k (.held t v) | _ => y) y))) ∧
    let bad := x.elems.filterMap (fun z => z.fault.map (fun f => (f.2.toNat, f.1, z.lane)))
    (∀ a c l, ¬rest → leastUsed bad = some (a, c, l) → exec (.fillLand fid e) s =
      .next (({ s2 with fills := s2.fills.erase fid }.issueDone (some x.issue)).modSlice x.bid x.sid (fun y =>
        { (x.regs.foldl (fun (y : Slice) k => y.setReg k .empty) y : Slice) with faults := y.faults ++
          [(⟨x.regs.headD 0, c, BitVec.ofNat 64 a, laneSet (bad.map (fun (q : Nat × Half × Nat) => q.2.2))⟩ : FillFault)] }))))

/-- R182, R203, R212, R220, R224, R225, R226: a request's arrival at its die's bay counts it there; at its home it is performed, and
elsewhere a write or an RMW goes on to its home with the die's applied clock as its stamp, where the home has room to hold it. There it is
applied once the home's clock covers that stamp; one of RLD, RST or RATM to a lost die finds its target down. A sequenced message is
applied once its die's clock has every component that its stamp names, to the guest sectors that do not hold it or a later write yet
(R213), and then the clock takes its own. When a home's ring port has room for a request is the model's choice (DEDUCED, log 111). So are
the order of requests to a common byte (DEDUCED, log 35) and when a posted write reaches the host (DEDUCED, log 38). R176, R182, R251,
R257: a write, or an RMW of an element that is not poisoned, performed at its home where no core holds an update-only copy of the line,
puts its bytes, or the operation's result, at its address, and every other byte of memory reads as before. The order of requests to a
common byte is the model's choice (DEDUCED, log 35). -/
def Obligations.RequestsApply : Prop :=
  ((∀ s id r, s.reqs.get? id = some r → r.stage = .toBay → s.blockedReq id r = false → s.stalled r = false → r.host = none → r.home = r.die →
    exec (.bayRequestArrival id) s = .next ((s.arrive r).performAt id r)) ∧
  (∀ s id r, s.reqs.get? id = some r → r.stage = .toBay → s.blockedReq id r = false → s.stalled r = false → r.host = none → r.home ≠ r.die →
    r.writes = true → s.holdRoom r.home r.die = true → exec (.bayRequestArrival id) s =
      .next { s.arrive r with reqs := (s.arrive r).reqs.put id { r with stage := .held, stamp := ((s.arrive r).die r.die).vc } }) ∧
  (∀ s id r p, s.reqs.get? id = some r → r.stage = .toBay → s.blockedReq id r = false → s.stalled r = false → r.host = some p →
    exec (.bayRequestArrival id) s = .next (s.performHost id p r)) ∧
  (∀ s id r, s.reqs.get? id = some r → r.stage = .held → (s.die r.home).vc.covers r.stamp = true → s.blockedReq id r = false →
    (s.die r.home).lost = false → exec (.unsequencedRequestApply id) s = .next (s.performAt id r)) ∧
  (∀ s id r, s.reqs.get? id = some r → r.stage = .held → (s.die r.home).vc.covers r.stamp = false → (s.die r.home).lost = false →
    exec (.unsequencedRequestApply id) s = .next s) ∧
  (∀ s id r, s.reqs.get? id = some r → r.stage = .held → (s.die r.home).lost = true → r.remote = true →
    exec (.unsequencedRequestApply id) s = .next (s.denyReq id r 0x0701)) ∧
  (∀ s k m, s.msgs.get? k = some m → (s.die m.dst).vc.getD m.src 0 = m.stamp.getD m.src 0 - 1 →
    (∀ j, j < 8 → j ≠ m.src → counterGe ((s.die m.dst).vc.getD j 0) (m.stamp.getD j 0) = true) →
    exec (.sequencedMessageApply k) s = .next ({ s with msgs := s.msgs.erase k }.modDie m.dst (fun x => { x with
      vc := x.vc.set m.src (m.stamp.getD m.src 0),
      guests := x.guests.map (fun (g : Guest) => if g.home == m.src && g.pa == m.pa / 1024 then
        g.update (m.pa % 1024) m.data m.stamp m.op m.clean (fun q => counterGe (q.stamp.getD m.src 0) (m.stamp.getD m.src 0)) else g) })))) ∧
  (∀ (s : State) (id : Nat) (r : Req), s.reqs.get? id = some r → r.stage = .toBay → s.blockedReq id r = false → r.host = none → r.home = r.die →
    r.remote = false → (s.line r.home r.pa).uo = [] →
    let puts := fun (data : List Byte) => ∃ t, exec (.bayRequestArrival id) s = .next t ∧ t.reqs.get? id = none ∧
      ∀ a, t.mem.read a = (if physKey r.home r.pa ≤ a ∧ a < physKey r.home r.pa + data.length then data.getD (a - physKey r.home r.pa) 0
        else s.mem.read a)
    (∀ data, r.op = .write data → puts data) ∧
    (∀ op ty v c returns, r.op = .rmw op ty v c returns → op ≠ opFaddl → s.poisoned r.home r.pa = false →
      puts (leBytes (elemSize ty) (rmwNew op ty (s.physNat r.home r.pa (elemSize ty)) v.toNat c.toNat))))

/-- R40, R41, R97, R98, R101, R182, R184, R185, R220, R230, R469: the other events of cores, bays and ports: a part comes into the active
set of eight of its port unless another part keeps the port, and the register caches hold what the sets' registers hold. Which part keeps
a port (DESIGN CHOICE, log 17) and which block is saved for one that waits for words (DEDUCED, log 56) are the model's choices. So are
what a refill reads (DEDUCED, log 54) and which blocks are saved as one unit (DEDUCED, log 90). -/
def Obligations.CoreEvents : Prop :=
  (∀ s bid part b, s.blocks.get? bid = some b → b.state = .resident → b.partMembers part ≠ [] → s.portKept bid b part = false →
    let has := fun (g : Block → Nat → Bool) (a : Nat × Nat) => match s.blocks.get? a.1 with | some c => g c a.2 | none => false
    let live := has (fun c q => !(c.partMembers q).isEmpty)
    let keeps := has (fun c q => c.keepsPort q)
    exec (.gangSwitch bid part) s = .next ((s.modCore b.die b.core (fun c => { c with
      ports := c.ports.modify (b.portOf bid part) (fun p => p.enter (bid, part) live keeps) })).modCore b.die b.core (fun c => { c with
      ports := c.ports.map (fun p => p.refresh bid b) }))) ∧
  (∀ (p : IssuePort) a live keeps, let q := p.enter a live keeps
    q.active.head? = some a ∧ q.active.length ≤ 8 ∧ (∀ c ∈ q.active, c = a ∨ (c ∈ p.active ∧ live c = true)) ∧
    ∀ e ∈ q.regCache, e ∈ p.regCache ∧ (e.bid, e.part) ∈ q.active) ∧
  (∀ s bid b, s.blocks.get? bid = some b → b.state = .resident → b.spillSaved = true → s.restoring bid b = false →
    s.olderParked b.die b.core b.age = false → (b.spilledWords : Int) ≤ s.freeWords b.die b.core →
    exec (.refill bid) s = .next (s.modBlock bid (fun b => { b with
      slices := b.slices.map (fun p => (p.1, s.readBackRegs b p.1 p.2)), spillSaved := false }))) ∧
  (∀ s bid b v, s.blocks.get? bid = some b → s.poolWaits bid b = true →
    s.poolVictim bid b = some v →
    exec (.poolWaitQuantum bid) s = .next (s.saveUnit v)) ∧
  (∀ s die core q qs, (s.core die core).closes = q :: qs →
    (∀ k, k < 64 → ((s.core die core).sent.get? (q.phase * 64 + k)).getD 0 = (s.die die).arrivals core q.phase k) →
    exec (.phaseCloseComplete die core) s = .next (s.completeClose die core q.phase q.serial)) ∧
  (∀ s die line, (s.line die (line * 1024)).wanted ≠ 0 →
    exec (.bayLineFill die line) s = .next (s.modLine die (line * 1024) (fun l => { l with valid := l.valid ||| l.wanted, wanted := 0 }))) ∧
  (∀ s die pa, die < 8 → pa < (s.die die).cap → s.poisoned die pa = false → ∃ t, exec (.eccError die (.memory pa)) s = .next t ∧
    t.poisoned die pa = true ∧ (t.die die).uecc = (s.die die).uecc + 1 ∧ t.mem = s.mem) ∧
  (∀ s die home pa, (s.die die).cleanGuest home pa = true → exec (.eccError die (.guest home pa)) s = .next ((s.modDie die (fun x => { x with
    guests := x.guests.map (fun g => if g.home == home && g.pa == pa / 1024 then g.poisonAt pa else g) })).modDie die (fun x =>
      { x with uecc := x.uecc + 1 }))) ∧
  (∀ s bid line b, s.blocks.get? bid = some b → b.state = .resident → line * 128 < b.scratch → line ∉ b.winPoison →
    exec (.eccError b.die (.window bid line)) s = .next (s.modBlock bid (fun b => { b with winPoison := line :: b.winPoison }))) ∧
  (∀ s die, die < 8 → exec (.correctedEccError die) s = .next (s.modDie die (fun x => { x with cecc := x.cecc + 1 }))) ∧
  (∀ s port k, (s.port port).flushes.head? = some k →
    exec (.flushingReadReturn port k) s = .next (s.modPort port (fun h => { h with flushes := h.flushes.tail })))

/-! ### Engines -/

/-- R313, R314, R316, R320, R326: an entry of a copy queue runs once the entries before it have had their turn (one of no bytes ends at
once); a piece whose verdicts, reads and room are there is performed, after the answers of the pod peers that it writes if there are any,
and a piece that fails ends its entry with the cause and the lowest address; an entry that has ended completes, and a fence completes once
every earlier entry of its queues has. That a piece's writes to pod peers are sent, and answered, before it is performed in the own
package is the model's choice (DEDUCED, log 72). R232, R316: an entry completes only when its own writes, and what its slice did before
it, stand at its scope; below system scope its token's record then takes its outcome, and a copy's entry is gone. What an entry's own
reads leave in the stamps is the model's choice (DEDUCED, log 73). -/
def Obligations.EntriesRun : Prop :=
  ((∀ s k e, s.entries.get? k = some e → e.state = .queued → e.kind.copies = true → s.ctxRuns e.ctx = true → s.turnCame k e = true →
    exec (.entryTurn k) s = .next (
      let s1 := s.modEntry k (fun x => { x with state := if e.kind.total = 0 then .ending false else .running })
      if e.token = 0 then s1 else s1.modTok e.token (fun r => { r with state := .running }))) ∧
  (∀ s k e s1 p, s.entries.get? k = some e → e.state = .running → e.kind.copies = true → s.ctxRuns e.ctx = true → s.issuerDone k e = true →
    e.sent = false → s.engPiece k e = (s1, .ok p) →
    (p.peerReqs k e = [] ∨ s1.ofShadow e = true → exec (.pieceWrite k) s = .next (s1.engPerform k e p)) ∧
    (p.peerReqs k e ≠ [] → s1.ofShadow e = false → exec (.pieceWrite k) s = .next (s1.engSend k e p))) ∧
  (∀ s k e, s.entries.get? k = some e → e.sent = true →
    exec (.pieceWrite k) s = .next (if s.entryAcked k then s.engFinish k e else s)) ∧
  (∀ s k e s1 c a, s.entries.get? k = some e → e.state = .running → e.kind.copies = true → s.ctxRuns e.ctx = true → s.issuerDone k e = true →
    e.sent = false → s.engPiece k e = (s1, .fail c a) → exec (.pieceFail k) s = .next (s1.failPiece k c (BitVec.ofNat 64 a))) ∧
  (∀ s k e failed, s.entries.get? k = some e → e.kind.copies = true → e.state = .ending failed → e.sent = false →
    exec (.entryComplete k) s = .next (s.completeEntry k e failed)) ∧
  (∀ s k e qs, s.entries.get? k = some e → e.kind = .fence qs →
    (∀ j f, (j, f) ∈ s.entries → j < k → (∃ q ∈ qs, f.inQueue e.die q.1 q.2 = true) → s.entryOpen j = false) →
    exec (.fenceEntryComplete k) s = .next (s.completeEntry k e false))) ∧
  (∀ (s : State) (k : Nat) (e : Entry) (failed : Bool),
    (s.writesDone k e = false ∨ s.beforeIssueDone k e = false → s.completeEntry k e failed = s) ∧
    (s.writesDone k e = true → s.beforeIssueDone k e = true → e.scope.code < 5 → e.flush = none → e.kind.copies = true →
      (s.completeEntry k e failed).entries.get? k = none ∧
      (e.token ≠ 0 → e.attached = false → let r := ((s.completeEntry k e failed).die (tokDie e.token)).tokRec (tokIndex e.token)
        r.state = (if failed then .failed else .done) ∧ r.bytes = e.bytes ∧ r.sat = e.sat ∧ r.gen = ((s.die (tokDie e.token)).tokRec (tokIndex e.token)).gen)))

/-- R279 to R288, R292 to R304: slot fills land or fault; the entry at its stream's turn begins (a drain or a load after its slice's
earlier requests, an ordered addition after those that it waits for), a product reads its slots and leaves its sums, and each entry's end
has its effect before it leaves the stream; an addition is applied at its target between two entries. When a fill, a product, a drain or a
load reads and writes its bytes is the model's choice (DEDUCED, log 45; DEDUCED, log 46; DEDUCED, log 47). So are what orders a drain's
writes (DEDUCED, log 43) and the identities of DRNA (DEDUCED, log 48), which of two failures of a fill is reported (DEDUCED, log 49) and
when a fault of the stream is delivered (DESIGN CHOICE, log 50). -/
def Obligations.StreamEvents : Prop :=
  let slot := fun (s : State) (bid fid : Nat) (b : Block) (x : SlotFill) =>
    s.blocks.get? bid = some b ∧ b.slotFills.get? fid = some x ∧ s.slotReady b bid fid x = true
  let turn := fun (s : State) (bid : Nat) (b : Block) (i : Nat) (e : SEntry) => s.streamTurn bid = some (b, i, e)
  let leave := fun (bid i : Nat) (s : State) => s.modBlock bid (fun b => { b with stream := b.stream.eraseIdx i })
  let tile := fun (e : SEntry) (t : Tab Word) => clearTile t e.tile (shapeM e.f) (shapeN e.f)
  (∀ s bid fid b x s1 vals mets, slot s bid fid b x → s.slotData b bid x = (s1, .rows vals mets) →
    exec (.slotFillLand bid fid) s = .next (s1.landSlotFill bid fid x vals mets)) ∧
  (∀ s bid fid b x s1 c a, slot s bid fid b x → s.slotData b bid x = (s1, .fault c a) →
    exec (.slotFillFault bid fid) s = .next (s1.faultSlotFill bid fid x c a)) ∧
  (∀ s bid b i e, turn s bid b i e → e.begun = false → e.opc ≠ 0x8C →
    (e.opc = 0x87 ∨ e.opc = 0x8A ∨ e.opc = 0x8B → s.earlierDone b bid e.sid e.after = true) →
    exec (.streamEntryBegin bid) s = .next (s.modBlock bid (fun b => b.setEntry i { e with begun := true }))) ∧
  (∀ s bid b i e, turn s bid b i e → e.begun = false → e.opc = 0x8C → s.granted b e = true →
    exec (.drnaGrant bid) s = .next (s.modBlock bid (fun b => b.setEntry i { e with begun := true }))) ∧
  (∀ s bid b i e, turn s bid b i e → e.begun = true → e.readEnded = false → (e.opc = 0x84 ∨ e.opc = 0x85) →
    exec (.slotOperandReadEnd bid) s = .next (s.modBlock bid (fun _ =>
      ({ b with accWords := b.mmaResult e }.setEntry i { e with readEnded := true }).dropReads e))) ∧
  (∀ s bid b i e, turn s bid b i e → e.begun = true →
    ((e.opc = 0x84 ∨ e.opc = 0x85) → e.readEnded = true → exec (.streamEntryComplete bid) s = .next (leave bid i s)) ∧
    (e.opc = 0x86 → exec (.streamEntryComplete bid) s =
      .next (leave bid i (s.modBlock bid (fun b => { b with accWords := tile e b.accWords })))) ∧
    (∀ s1 done, e.opc = 0x87 → s.acload bid b e = (s1, done) →
      exec (.streamEntryComplete bid) s = .next (if done then leave bid i s1 else s1)) ∧
    (∀ s1 done, (e.opc = 0x8A ∨ e.opc = 0x8B) → s.drain bid b e = (s1, done) →
      exec (.streamEntryComplete bid) s = .next (if done then leave bid i s1 else s1)) ∧
    ((e.opc = 0x8C ∨ e.opc = 0x8D) → exec (.streamEntryComplete bid) s = .next (s.sendDrna bid b i e))) ∧
  (∀ s k a t, s.additions.get? k = some a → s.blocks.get? a.dst = some t → t.state = .resident →
    (a.ordered = true → ∀ j q, (j, q) ∈ s.additions → j < k → q.ordered = true → q.src = a.src → q.dst = a.dst → q.handle ≠ a.handle) →
    (∀ i e, t.turn = some (i, e) → e.begun = false) → (∀ b, s.blocks.get? a.src = some b → s.barred b.die t.die = false) →
    exec (.drnaAddition k) s = .next (
      let s1 := (s.drnaDone k a).modBlock a.dst (fun b => { b with accWords := a.apply b.accWords })
      s1.modBlock a.dst (fun b => if a.ordered then { b with drnaApplied := (a.handle, a.epoch, a.seq, a.src) :: b.drnaApplied } else b)))

/-- R410 to R413, R420, R422: a collective member announces itself at its key's turn, for RBAR once what its issuer did before it stands,
notes what a slot that takes part announces, or fails where it disagrees; a bale whose contributions have all come is combined, written
and counted; a slot whose members have withdrawn, or of which nothing has come by the deadline, is missing; an entry that has written its
outputs and whose contribution is taken completes, with RANK_MISSING where an output depends on a missing slot. The messages to and from
other packages have the model's own form (DESIGN CHOICE, log 129). -/
def Obligations.CollectiveEvents : Prop :=
  let running := fun (s : State) (k : Nat) (e : Entry) (r : CollRec) (p : CollProg) =>
    s.entries.get? k = some e ∧ e.kind = .ring r p ∧ e.state = .running ∧ s.ctxRuns e.ctx = true
  (∀ s k e r p, s.entries.get? k = some e → e.kind = .ring r p → e.state = .queued → s.ctxRuns e.ctx = true → s.turnCame k e = true →
    s.keyTurn k e r = true → (r.op = collRbar → s.beforeIssueDone k e = true) →
    exec (.collectiveTurn k) s = .next (
      let s1 := (s.modEntry k (fun x => { x.modProg (fun p => { p with started := (s.die e.die).cycle, heard := [r.mySlot], clock := e.stamp.join (s.die e.die).vc }) with
        state := .running })).tellMembers e (.announce r.announce)
      (if e.token = 0 then s1 else s1.modTok e.token (fun t => { t with state := .running })).slotsGone k (List.range r.slots.length))) ∧
  (∀ s k e r p slot ann, running s k e r p → r.takesPart slot = true → s.announces k e r slot ann = true →
    exec (.collectiveAnnounce k slot ann) s = .next (if ann = r.announce then s.modEntry k (fun x => { x.modProg (fun p =>
      { p with heard := if p.heard.contains slot then p.heard else slot :: p.heard }) with stamp := x.stamp.join (s.heardClock k e r slot) })
      else s.failPiece k 0x0705 0)) ∧
  (∀ s k e r p slot ann, running s k e r p → r.takesPart slot = false → exec (.collectiveAnnounce k slot ann) s = .next s) ∧
  (∀ s k e r p i b ext s1 cs s3, running s k e r p → r.bales[i]? = some b → i ∉ p.bales → s.issuerDone k e = true →
    (∀ j ∈ r.needs b, j ∈ p.heard ∧ j ∉ p.missing) → s.contributions k e r b ext (r.needs b) = (s1, .ok cs) → (r.expoRange b).2 = 0 →
    s1.writeBale k e r b (s1.baleBytes r b cs default).1 = (s3, .ok ()) →
    exec (.baleLand k i ext) s = .next ((s3.takeBale k i r b (s1.baleBytes r b cs default).2).tellPeers e
      ((ext.filter (fun d => (r.needs b).contains d.slot)).flatMap (fun d => slotMembers (r.slots.getD d.slot 0)))
      (.took i (s1.baleBytes r b cs default).2))) ∧
  (∀ s k e r p peer j, running s k e r p → peer ∉ p.withdrawn → slotOf r.slots peer = some j →
    (s.ownPeer peer = true → ∃ km m, s.memberEntry k e r peer = some (km, m) ∧ m.hasWithdrawn = true ∧ s.barred m.die e.die = false) →
    exec (.withdrawNotice k peer) s = .next (
      let s1 := s.modEntry k (fun x => x.modProg (fun q => { q with withdrawn := peer :: p.withdrawn }))
      if (slotMembers (r.slots.getD j 0)).all (fun k => (peer :: p.withdrawn).contains k) then
        s1.slotMissing k j (e.modProg (fun q => { q with withdrawn := peer :: p.withdrawn })) r { p with withdrawn := peer :: p.withdrawn } else s1)) ∧
  (∀ s k e r p slot, running s k e r p → r.deadline ≠ 0 → slot < r.slots.length → slot ∉ p.heard →
    r.deadline * 1250 < (s.die e.die).cycle.toNat - p.started.toNat →
    exec (.collectiveDeadline k slot) s = .next (s.slotMissing k slot e r p)) ∧
  (∀ s k e r p, running s k e r p → r.outputsDone p = true → e.cause = 0 → s.contributionTaken k e r p = true →
    exec (.collectiveComplete k) s = .next (s.completeEntry k e false)) ∧
  (∀ s k e r p, running s k e r p → e.cause ≠ 0 → (r.op = collRbar ∨ (r.outputsDone p = true ∧ s.contributionTaken k e r p = true)) →
    exec (.collectiveComplete k) s = .next (s.failEntry k 0x0703 0)) ∧
  (∀ s k e r p failed, s.entries.get? k = some e → e.kind = .ring r p → e.state = .ending failed →
    exec (.collectiveComplete k) s = .next (s.completeEntry k e failed))

/-! ### Nodes, layers and placement -/

/-- R332, R337, R339, R340, R358: the life of a node: accepted from its launch queue (a root node takes its token then), its predecessors
found complete, its leases taken, run once the pages of its leases are resident, Completing when its work is done, and ended when its
writes stand. The record of a dropped kernel is free once no active node names it. The order in which nodes are accepted (DEDUCED, log
79), that a root node without a free record takes its token at acceptance (DEDUCED, log 92), how leases are taken (DEDUCED, log 80) and
the verdict of a host signal's write (DEDUCED, log 81) are the model's choices. So are what a predecessor's reused token counts as
(DEDUCED, log 78), a range whose layer is none (DEDUCED, log 67), the record of a collective node (DEDUCED, log 82), when a node's writes
are done (DEDUCED, log 83), where a verdict is taken (DEDUCED, log 30) and when a posted write reaches the host (DEDUCED, log 38). -/
def Obligations.NodeEvents : Prop :=
  (∀ s die n x, (s.die die).launchQ.find? (s.acceptable die) = some n → s.nodes.get? n = some x →
    let s2 := ((s.rootToken n die x).modDie die (fun d => { d with launchQ := d.launchQ.filter (fun m => m != n) })).modNode n
      (fun x => { x with accepted := true })
    ∃ y, s2.nodes.get? n = some y ∧ y.accepted = true ∧ (x.token ≠ 0 → y = { x with accepted := true }) ∧
      exec (.nodeAccept die) s = .next (s2.predsDone n y)) ∧
  (∀ s n x k w, s.nodes.get? n = some x → x.state = .waiting → x.accepted = true → s.ctxRuns x.ctx = true → x.predDone[k]? = some none →
    s.tokenView x.ctx (x.preds.getD k 0) = some w → w.state ≠ 0 →
    exec (.predecessorComplete n k) s = .next (
      let s1 := match w with | .record r => (diesOf x.dies).foldl (fun (s : State) d => s.noteSeen d r.stamp) s | _ => s
      let y := { x with predDone := x.predDone.set k (some (w.state == 2)) }
      (s1.modNode n (fun _ => y)).predsDone n y)) ∧
  (∀ s n x c y, s.nodes.get? n = some x → s.ctxs.get? x.ctx = some c → x.state = .leasing → s.ctxRuns x.ctx = true →
    (∀ d ∈ diesOf x.dies, (s.die d).vc.covers (s.die d).seen = true) →
    let s1 := if x.leased then s else s.takeLeases n x c
    s1.nodes.get? n = some y → y.state = .leasing →
    exec (.leaseGrant n) s = .next (if s1.rangesResident y.ctx y.leases then s1.startNode n y else s1)) ∧
  (∀ s n x c, s.nodes.get? n = some x → s.ctxs.get? x.ctx = some c → x.state = .running → s.ctxRuns x.ctx = true →
    exec (.leaseGrant n) s = .next (s.beginParts n)) ∧
  (∀ s n x va v p s1 l k s2, s.nodes.get? n = some x → x.body = .signal va v → x.state = .running → x.flush = none → x.attachedFail = none →
    s.ctxRuns x.ctx = true → s.ownerOf va = .ok (.host p) →
    s.verdict x.ctx (.host p) va .write (s.keysOf x.ctx x.die) .slice = (s1, .pass l) → s1.fresh = (k, s2) →
    exec (.hostSignal n) s = .next (((s2.hostWrite p l.pa (leBytes 8 v.toNat)).modPort p (fun h => { h with flushes := h.flushes ++ [k] })).modNode n
      (fun y => { y with flush := some [k], bytes := 8 }))) ∧
  (∀ s n x, s.nodes.get? n = some x → s.ctxRuns x.ctx = true → x.state = .running → s.bodyDone n x = true →
    exec (.nodeCompletion n) s = .next (s.modNode n (fun y => { y with state := .completing }))) ∧
  (∀ s n x fs, s.nodes.get? n = some x → s.ctxRuns x.ctx = true → x.state = .completing → s.nodeSettled n x = true →
    (s.nodeRecall n).nodeWritesDone n = true → x.flush = some fs → (s.nodeRecall n).flushesDone fs = true →
    exec (.nodeCompletion n) s = .next (((s.nodeRecall n).compareShadows n).finishNode n x)) ∧
  (∀ s ctx i c k, s.ctxs.get? ctx = some c → c.kernels.get? i = some k → k.state = 2 →
    (∀ n x, (n, x) ∈ s.nodes → x.ctx = ctx → x.active = true → x.names i k.gen = false) →
    exec (.kernelRecordFree ctx i) s = .next (s.modCtx ctx (fun c => { c with kernels := c.kernels.put i { k with state := 0, off := 0, len := 0 } })))

/-- R332, R337, R339, R340, R358: each step in the life of a node comes about where its conditions hold, and says where the node stands
after it. The first node of a launch queue is accepted: it leases where no predecessor is left, fails with PREDECESSOR_FAILED where one
failed and it does not proceed, and waits otherwise. A predecessor found complete counts. A node without leases runs. A host signal writes
its eight bytes and sends the flushing read. A running node whose work is done is Completing; one whose writes stand ends, Done or Failed,
with its cause and without leases. The record of a dropped kernel is free. The verdict of a host signal's write (DEDUCED, log 81) and when
a waiting node goes on (DEDUCED, log 78) are the model's choices. So are when a node's writes are done (DEDUCED, log 83) and where a
verdict is taken (DEDUCED, log 30). -/
def Obligations.NodeSteps : Prop :=
  let runs := fun (s : State) (n : Nat) (x : Node) => s.nodes.get? n = some x ∧ s.ctxRuns x.ctx = true
  let goesOn := fun (proceed : Bool) (ds : List (Option Bool)) (y : Node) =>
    (none ∈ ds → y.state = .waiting) ∧
    (none ∉ ds → (proceed = true ∨ some true ∉ ds) → y.state = .leasing) ∧
    (none ∉ ds → proceed = false → some true ∈ ds → y.state = .failed ∧ y.cause = 0x050B)
  (∀ s die n x rest, runs s n x → (s.die die).launchQ = n :: rest → x.token ≠ 0 → x.state = .waiting →
    ∃ t y, exec (.nodeAccept die) s = .next t ∧ t.nodes.get? n = some y ∧ y.accepted = true ∧ n ∉ (t.die die).launchQ ∧
      goesOn x.proceed x.predDone y) ∧
  (∀ s n x k w, runs s n x → x.state = .waiting → x.accepted = true → x.predDone[k]? = some none →
    s.tokenView x.ctx (x.preds.getD k 0) = some w → w.state ≠ 0 →
    ∃ t y, exec (.predecessorComplete n k) s = .next t ∧ t.nodes.get? n = some y ∧ y.predDone = x.predDone.set k (some (w.state == 2)) ∧
      goesOn x.proceed y.predDone y) ∧
  (∀ s n x, runs s n x → x.state = .leasing → x.leases = [] → (∀ rec op ty scope q, x.body ≠ .coll rec op ty scope q) →
    (∀ d ∈ diesOf x.dies, (s.die d).vc.covers (s.die d).seen = true) →
    ∃ t y, exec (.leaseGrant n) s = .next t ∧ t.nodes.get? n = some y ∧ y.state = .running ∧ y.body = x.body) ∧
  (∀ s n x va v p s1 l, runs s n x → x.body = .signal va v → x.state = .running → x.flush = none → x.attachedFail = none →
    s.ownerOf va = .ok (.host p) → s.verdict x.ctx (.host p) va .write (s.keysOf x.ctx x.die) .slice = (s1, .pass l) →
    ∃ t k, exec (.hostSignal n) s = .next t ∧ t.nodes.get? n = some { x with flush := some [k], bytes := 8 } ∧ k ∈ (t.port p).flushes ∧
      ∀ i, i < 8 → (t.port p).mem.get? (l.pa + i) = some (BitVec.ofNat 8 (v.toNat / 256 ^ i))) ∧
  (∀ s n x, runs s n x → x.state = .running → s.bodyDone n x = true →
    ∃ t, exec (.nodeCompletion n) s = .next t ∧ t.nodes.get? n = some { x with state := .completing }) ∧
  (∀ s n x fs, runs s n x → x.state = .completing → s.nodeSettled n x = true → (s.nodeRecall n).nodeWritesDone n = true → x.flush = some fs →
    (s.nodeRecall n).flushesDone fs = true →
    ∃ t, exec (.nodeCompletion n) s = .next t ∧ t.nodes.get? n = some { x with
      state := if x.outcome = 0 then .done else .failed, cause := x.outcome, leases := [], leased := false }) ∧
  (∀ s ctx i c k, s.ctxs.get? ctx = some c → c.kernels.get? i = some k → k.state = 2 →
    (∀ n x, (n, x) ∈ s.nodes → x.ctx = ctx → x.active = true → x.names i k.gen = false) →
    ∃ t d, exec (.kernelRecordFree ctx i) s = .next t ∧ t.ctxs.get? ctx = some d ∧
      d.kernels.get? i = some { k with state := 0, off := 0, len := 0 })

/-- R370, R389: a layer of the queue begins to arrive while fewer than four do; a page of an arriving layer takes its bytes and is
Resident; a source fault, or a leaf that is none of the layer's, cancels the arrival; a page that is evicted is Absent once nothing
translated to it is under way. That an evicted page's FRAME is 0 and that its source is read in one step (DEDUCED, log 65), and when the
frames of arriving pages are assigned (DEDUCED, log 66), are the model's choices. So is the cause that the tokens of a cancelled request
get (DESIGN CHOICE, log 128). -/
def Obligations.LayerEvents : Prop :=
  (∀ s die, 4 ≤ (s.advanceAll die |>.die die).arriving.length → exec (.layerTurn die) s = .next (s.advanceAll die)) ∧
  (∀ s die q, let s1 := s.advanceAll die
    (s1.die die).arriving.length < 4 → (s1.die die).layerQ.find? (fun q => s1.leasesStand q.1) = some q →
    exec (.layerTurn die) s = .next (
      let s2 := s1.modDie die (fun d => { d with layerQ := d.layerQ.filter (fun r => r != q), arriving := d.arriving ++ [q] })
      (s2.putLayer q.1 q.2 { s2.layer q.1 q.2 with state := .arriving }).advanceLayer q.1 q.2)) ∧
  (∀ s ctx l p d a e s1 bytes, s.pageLeaf ctx l p = some (d, a, e) → (s.layer ctx l).state = .arriving → leafRes e = 1 →
    p < (s.layerRec ctx l).pages → s.leasesStand ctx = true → s.layerSource ctx ((s.layerRec ctx l).src + p * 65536) = some (s1, bytes) →
    exec (.layerPageLand ctx l p) s = .next (
      let f := entryFrame e * 65536
      let s2 := ((s1.homeStoreAs (leafPol e != 3) d f bytes).clearPoison d f 65536).setPage ctx l p 2 (entryFrame e)
      let s3 := s2.putLayer ctx l { s2.layer ctx l with landed := (s.layer ctx l).landed + 1 }
      (s3.settleLayer ctx l).advanceAll (s3.layerDie ctx l))) ∧
  (∀ s ctx l p d a e, s.pageLeaf ctx l p = some (d, a, e) → leafRes e = 3 → s.frameBusy d (entryFrame e) = false →
    exec (.evictionComplete ctx l p) s = .next (
      let s1 := (List.range 64).foldl (fun s i => s.evictLine d (entryFrame e * 64 + i)) (s.dropFrameV ctx d (entryFrame e))
      ((s1.setPage ctx l p 0 0).settleEvict ctx l).advanceAll d)) ∧
  (∀ s ctx l p d a e, s.pageLeaf ctx l p = some (d, a, e) → (s.layer ctx l).state = .arriving → leafRes e = 1 →
    p < (s.layerRec ctx l).pages → s.leasesStand ctx = true → s.layerSource ctx ((s.layerRec ctx l).src + p * 65536) = none →
    exec (.layerPageLand ctx l p) s = .next (s.cancelLayer ctx l 1)) ∧
  (∀ s ctx l p, s.pageLeaf ctx l p = none → (s.layer ctx l).state = .arriving → p < (s.layerRec ctx l).pages → s.leasesStand ctx = true →
    exec (.layerPageLand ctx l p) s = .next (s.cancelLayer ctx l 1))

/-- R98, R250, R342 to R348, R261, R262: the first member of a die's waiting set that fits is placed or restored; a block is saved for a
member that fits nowhere, or while it is dormant and another waits for its core. A round that has ended commits. One that lasts longer
than the limit faults every slice of it that is not at a round point. Which slices the limit faults and where it begins (DEDUCED, log 96),
which block gives way (DEDUCED, log 90) and when it may (DEDUCED, log 56) are the model's choices. So are the order of ordered members and
shadows (DEDUCED, log 89) and how a restore comes about (DEDUCED, log 87). -/
def Obligations.PlacementEvents : Prop :=
  (∀ s die n s1, s.nextMember die = some (0, n) → s.placeNext n = some s1 → exec (.blockPlacement die) s = .next s1) ∧
  (∀ s die n x, s.nextMember die = some (0, n) → s.nodes.get? n = some x →
    ∃ t y, exec (.blockPlacement die) s = .next t ∧ t.nodes.get? n = some y ∧ y.placed = x.placed + 1) ∧
  (∀ s bid b, s.blocks.get? bid = some b → s.nextMember b.die = some (1, bid) →
    ∃ core t, core < (s.die b.die).ncore ∧ s.restoreUnit bid core = some t ∧ exec (.blockRestore bid core) s = .next t) ∧
  (∀ s bid core b s1, s.blocks.get? bid = some b → s.nextMember b.die = some (1, bid) → s.restoreUnit bid core = some s1 →
    exec (.blockRestore bid core) s = .next s1) ∧
  (∀ s die bid m, m ∈ s.members die → s.tryMember m = none → s.victimFor m = some bid →
    exec (.quantumExpiry die bid) s = .next (s.saveUnit bid)) ∧
  (∀ s bid b d x m, s.blocks.get? bid = some b → s.isDormant bid = true → (d, x) ∈ s.dies → m ∈ s.members d → s.tryMember m = none →
    (b.die, b.core) ∈ s.candidates m → exec (.dormantSave bid) s = .next (s.saveUnit bid)) ∧
  (∀ s n x, s.nodes.get? n = some x → x.ordered = true → (x.state = .running ∨ x.state = .completing) → s.ctxRuns x.ctx = true →
    s.roundOver n x = true → (s.committers n x ≠ [] ∨ s.roundSet n x ≠ []) → exec (.roundCommit n) s = .next (s.commit n x)) ∧
  (∀ s n x, s.nodes.get? n = some x → x.ordered = true → x.state = .running → s.ctxRuns x.ctx = true → x.roundBlocks ≠ [] →
    s.roundCycles x.ctx < ((s.die x.die).cycle - x.limitStart).toNat →
    exec (.roundTimeout n) s = .next (
      ((((s.roundSet n x).filter (fun b => b.2.state != .retired)).map (fun b => b.1)).foldl (fun s b => s.modBlock b (fun y =>
        { y with slices := y.slices.map (fun p => (p.1, if p.2.run = .ended || p.2.atRoundPoint then p.2 else p.2.timeOut)) })) s).modNode n
        (fun y => { y with limitStart := (s.die x.die).cycle })))

/-! ### Contexts, links and the package -/

/-- R368, R378 to R383, R385, R386: a record written to a Free slot starts its context, or leaves the slot Ended with the cause of the
check that failed; the commands of CTXCTL halt a Running context, bring a Swapped one back and end one; a context whose blocks have been
saved is Swapped, with its group slots saved beside them, one that comes back runs and its leases' layers are requested again, and one
that is drained is torn down. How a start reports what failed is the model's choice where R380 leaves it open (DEDUCED, log 92). So are
when a block can be saved (DEDUCED, log 86), when the shadow store is free (DEDUCED, log 91), the entry of a root node's copy (DEDUCED,
log 93), how room is made on a die and a Swapped context comes back (DEDUCED, log 94), and how an ended context's slots are freed
(DEDUCED, log 95). -/
def Obligations.ContextEvents : Prop :=
  let pa := fun (v : Dword) => bitsOf v.toNat 43 12 * 4096
  let begun := fun (s : State) (d k : Nat) (v : Dword) => s.modSlotReg d k (fun x => { x with start := BitVec.ofNat 64 (pa v) })
  let c0 := fun (s : State) (d : Nat) (v : Dword) => ctxOfRecord (s.physRead d (pa v) 0x7F0)
  let taken := fun (s : State) (d k : Nat) (v : Dword) => s.accepted = true ∧ d < 8 ∧ (s.die d).lost = false ∧ k < 16 ∧
    (s.slotState d k).1 = .free ∧ pa v < (s.die d).cap ∧ s.firstPoison d (pa v) 0x7F0 = none
  let good := fun (s : State) (d : Nat) (v : Dword) => (c0 s d v).first = d ∧ s.recordOk (s.physRead d (pa v) 0x7F0) = true
  let trial := fun (s : State) (d k : Nat) (v : Dword) (c : Ctx) => { begun s d k v with ctxs := (begun s d k v).ctxs.put c.id c }
  let mapped := fun (s : State) (d k : Nat) (v : Dword) => (trial s d k v (c0 s d v)).imageMap (c0 s d v).id (c0 s d v)
  let commanded := fun (s : State) (d k id : Nat) (c : Ctx) => (s.slotOf d k).ctx = some id ∧ s.ctxs.get? id = some c ∧ c.first = d ∧ (s.die d).lost = false
  (∀ s d k v, taken s d k v → good s d v → ∀ m, mapped s d k v = some m → let c := { c0 s d v with imap := m }
    (s.conflict c = true → exec (.ctxstart d k v) s = .next ((begun s d k v).failStart d k (pa v) 0x0607 true)) ∧
    (∀ e, s.conflict c = false → (trial s d k v c).rootNode c.id c = .error e →
      exec (.ctxstart d k v) s = .next ((begun s d k v).failStart d k (pa v) e true)) ∧
    (∀ r args, s.conflict c = false → (trial s d k v c).rootNode c.id c = .ok (r, args) →
      exec (.ctxstart d k v) s = .next ((begun s d k v).startCtx d k (pa v) c r args))) ∧
  (∀ s d k v, taken s d k v → (¬good s d v ∨ mapped s d k v = none) →
    exec (.ctxstart d k v) s = .next ((begun s d k v).failStart d k (pa v) 0x0606 true)) ∧
  (∀ s d k v, s.accepted = false → exec (.ctxstart d k v) s = .next s) ∧
  (∀ s d k id c, commanded s d k id c →
    (c.state = .running → exec (.ctxctlSwapOut d k) s = .next (s.modCtx id (fun x => { x with state := .swappingOut }))) ∧
    (c.state ≠ .running → exec (.ctxctlSwapOut d k) s = .next s) ∧
    (c.state = .swapped → exec (.ctxctlSwapIn d k) s = .next ((s.modCtx id (fun x => { x with state := .swappingIn })).autoSwap c)) ∧
    (c.state ≠ .swapped → exec (.ctxctlSwapIn d k) s = .next s) ∧
    (c.state ≠ .ended → exec (.ctxctlEnd d k) s = .next (s.beginEnding id 0x0608)) ∧
    (c.state = .ended → exec (.ctxctlEnd d k) s = .next ((s.freeSlots id).modCtx id (fun x => { x with state := .free, cause := 0 })))) ∧
  (∀ s ctx c, s.ctxs.get? ctx = some c → c.state = .swappingOut → (s.ctxResidents ctx).all s.canSave = true →
    (∀ k e, (k, e) ∈ s.entries → e.ctx = ctx → e.sent = false) →
    exec (.swapOutSaveDone ctx) s = .next (
      let s1 := ((s.saveAll ctx).wakeAll ctx).dropCtxLines ctx
      let s2 := (c.dies.filter (fun d => s.shadowFree d ctx)).foldl (fun (s : State) d => s.modDie d (fun x => { x with shadow := some ctx })) s1
      ((s2.saveGroups ctx).modCtx ctx (fun x => { x with state := .swapped })).endIfDue ctx)) ∧
  (∀ s ctx c, s.ctxs.get? ctx = some c → c.state = .swappingIn → c.cause = 0 → s.groupsFit c = true →
    exec (.swapInRestoreDone ctx) s =
      .next ((((s.restoreGroups ctx c).modCtx ctx (fun x => { x with state := .running })).clearShadow ctx).retakeLeases ctx)) ∧
  (∀ s ctx c, s.ctxs.get? ctx = some c → c.state = .ending → s.drained ctx = true →
    exec (.teardownDone ctx) s = .next (
      let s1 := (c.layers.map (fun l => l.1)).foldl (fun (s : State) l => s.endLayer ctx l) s
      let s2 := (((s1.dropCtxLines ctx).clearCtx ctx).writeStatus c.recDie c.recPa c.cause).modCtx ctx (fun x =>
        { x with state := .ended, imap := [], kernels := [], saveUsed := [], rlogUsed := [], groups := [] })
      ((s2.ctxs.filter (fun x => x.2.state == .swapped && x.2.dies.any (fun d => c.dies.contains d))).insertionSort
        (fun a b => decide (b.2.prio ≤ a.2.prio))).foldl (fun s x => s.swapBack x.1 x.2) s2))

/-- R16, R26, R227, R405: a bridge lost, a die lost and the completion of a wrap, each in every state of the rings. A loss while the rings
are Whole begins a wrap. A second loss while they are Wrapping splits them, and RING and BREAK then show the first break; so does a loss
while they are Wrapped, but for that of a die next to the dead bridge, which RING and BREAK then name. A bridge that is dead already, and
a die that is lost already, is no loss, and only a reset leaves Split. A lost die's traffic goes with it, and the contexts with it in
their partition end with DIE_LOST; where the rings split every context does. When the wrap completes, RING and BREAK of every surviving
die say where the rings are broken, and every context resident on one logs it. What is discarded and logged of a lost die's traffic is the
model's choice where R227 leaves it open (DEDUCED, log 111). -/
def Obligations.PackageEvents : Prop :=
  let words := fun (r n : Nat) (s : State) => { s with dies := s.dies.map (fun x => (x.1, if x.2.lost then x.2 else { x.2 with ring := r, brk := n })) }
  let ends := fun (p : Ctx → Bool) (s : State) => (s.ctxs.filter (fun c => p c.2)).foldl (fun (s : State) c => s.beginEnding c.1 0x0903) s
  let split := fun (s : State) => ends (fun _ => true) { s with ring := .split }
  let without := fun (s : State) (d : Nat) => s.modDie d (fun x => { x with lost := true })
  let gone := fun (d : Nat) (s : State) => ends (fun c => c.dies.contains d) (s.dropLost d)
  let dies := fun (s : State) (d : Nat) => d < 8 ∧ (s.die d).lost = false
  -- each completes in every state
  (∀ s b, ∃ t, exec (.bridgeLost b) s = .next t) ∧ (∀ s d, ∃ t, exec (.dieLost d) s = .next t) ∧ (∀ s, ∃ t, exec .wrapComplete s = .next t) ∧
  -- a bridge
  (∀ s b, b < 8 → s.ring = .whole → exec (.bridgeLost b) s = .next { s with ring := .wrapping 1 b }) ∧
  (∀ s b r n, b < 8 → s.ring = .wrapping r n → deadBridge r n b = false → exec (.bridgeLost b) s = .next (split (words r n s))) ∧
  (∀ s b r n, s.ring = .wrapping r n → deadBridge r n b = true → exec (.bridgeLost b) s = .next s) ∧
  (∀ s b, b < 8 → s.ring = .wrapped → deadBridge s.ringWord.1 s.ringWord.2 b = false → exec (.bridgeLost b) s = .next (split s)) ∧
  (∀ s b, s.ring = .wrapped → deadBridge s.ringWord.1 s.ringWord.2 b = true → exec (.bridgeLost b) s = .next s) ∧
  (∀ s b, s.ring = .split → exec (.bridgeLost b) s = .next s) ∧
  -- a die
  (∀ s d, dies s d → s.ring = .whole → exec (.dieLost d) s = .next (gone d { without s d with ring := .wrapping 2 d })) ∧
  (∀ s d r n, dies s d → s.ring = .wrapping r n → exec (.dieLost d) s = .next (gone d (split (words r n (without s d))))) ∧
  (∀ s d r n, dies s d → s.ring = .wrapped → (without s d).ringWord = (r, n) →
    (r = 1 ∧ (d = n ∨ d = (n + 1) % 8) → exec (.dieLost d) s = .next (gone d (words 2 d (without s d)))) ∧
    (¬(r = 1 ∧ (d = n ∨ d = (n + 1) % 8)) → exec (.dieLost d) s = .next (gone d (split (without s d))))) ∧
  (∀ s d, dies s d → s.ring = .split → exec (.dieLost d) s = .next (gone d (without s d))) ∧
  (∀ s d, (s.die d).lost = true → exec (.dieLost d) s = .next s) ∧
  -- the wrap
  (∀ s r n, s.ring = .wrapping r n → ∃ t, exec .wrapComplete s = .next t ∧ t.ring = .wrapped ∧
    (∀ d, (s.die d).lost = false → s.dies.get? d ≠ none → (t.die d).ring = r ∧ (t.die d).brk = n) ∧
    t = (let s1 := words r n { s with ring := .wrapped }
      ((s1.liveDies.flatMap s1.residentCtxs).map (fun c => (c.1, c.2.first))).dedup.foldl (fun (s : State) c =>
        s.log c.1 { cause := if r = 1 then 0x0902 else 0x0903, die := c.2, flags := 8, addr := n }) s1)) ∧
  (∀ s, (∀ r n, s.ring ≠ .wrapping r n) → exec .wrapComplete s = .next s)

/-- R426, R428 to R432: the ports. A flit whose CRC is wrong or that is out of sequence is NAKed, one in sequence is acknowledged and its
bytes are taken, and a NAK has the buffer sent again from its number. A request in its pair's order is performed and answered, one that
was answered before is answered from the window, an early one is discarded, and without a window it is refused as stale; one that meets
the sectors of a request that is held is accepted and answered later. A reply ends the request of its number; a timeout sends every
unanswered request again, and fails them in its ninth round; a notice fails those to the dead peer and takes its members out of the
collectives. A port that is down, or whose feature is not accepted, does none of it. The form of flits (DESIGN CHOICE, log 62), how a port
and a window keep what they hold (DESIGN CHOICE, log 63), what ends a collective entry then (DESIGN CHOICE, log 129), the form of a reply
(DESIGN CHOICE, log 61) and the reserved bits of a request (DESIGN CHOICE, log 112) are the model's choices. The parameters of the CRC are
taken from outside the spec (PRESUMED, log 60). -/
def Obligations.LinkEvents : Prop :=
  let link := fun (s : State) (p : Nat) => (s.links.get? p).getD LinkPort.reset
  let nak := fun (s : State) (p : Nat) => s.modLink p (fun l => { l with sent := l.sent ++ [ctlFlit 2 l.rxSeq] })
  let good := fun (f : List Byte) => f.length = 256 ∧ leNat (f.drop 248) = (crc64 (f.take 248)).toNat
  let kind := fun (f : List Byte) => leNat (f.take 2) / 16384
  let seq := fun (f : List Byte) => leNat (f.take 2) % 4096
  let vc := fun (f : List Byte) => leNat (f.take 2) / 4096 % 4
  let ours := fun (s : State) (port : Nat) (p : Packet) => s.portOpen port = true ∧ p.nul = false ∧ p.dst.toNat / 8 = s.fuses.pkg ∧
    (s.die (p.dst.toNat % 8)).lost = false ∧ p.type.toNat ≤ 2 ∧ p.flags.getLsbD 0 = false
  let window := fun (s : State) (p : Packet) => (s.die (p.dst.toNat % 8)).replay.get? p.src.toNat
  (∀ s port, (s.portOpen port = true ↔ port < 16 ∧ s.portWidth port ≠ 0 ∧ s.feature 2 = true) ∧
    (s.portOpen port = false → (∀ f, exec (.flitReceive port f) s = .next s) ∧ (∀ n, exec (.flitNak port n) s = .next s) ∧
      (∀ p, exec (.packetRequest port p) s = .next s) ∧ ∀ p, exec (.packetReply port p) s = .next s)) ∧
  (∀ s port f, s.portOpen port = true → ¬good f → exec (.flitReceive port f) s = .next (nak s port)) ∧
  (∀ s port f, s.portOpen port = true → good f → kind f = 0 → seq f ≠ (link s port).rxSeq → exec (.flitReceive port f) s = .next (nak s port)) ∧
  (∀ s port f s2 rest, s.portOpen port = true → good f → kind f = 0 → seq f = (link s port).rxSeq →
    State.parseRx port 8 (s.modLink port (fun l => { l with rxSeq := (l.rxSeq + 1) % 4096, sent := l.sent ++ [ctlFlit 1 l.rxSeq] }))
      (((link s port).rx.get? (vc f)).getD [] ++ (f.drop 2).take 246) = (s2, rest) →
    exec (.flitReceive port f) s = .next (s2.modLink port (fun l => { l with rx := l.rx.put (vc f) rest }))) ∧
  (∀ s port n, s.portOpen port = true → exec (.flitNak port n) s = .next (s.modLink port (fun l => { l with
    sent := l.sent ++ l.buffer.dropWhile (fun f => leNat (f.take 2) % 4096 != n % 4096) }))) ∧
  (∀ s port p w s1 r, ours s port p → window s p = some w → p.seq = w.expected → meetsAny w.held p = false → s.targetPerform p = (s1, r) →
    exec (.packetRequest port p) s = .next ((s1.modDie (p.dst.toNat % 8) (fun x => { x with
      replay := x.replay.put p.src.toNat (({ w with expected := p.seq + 1 } : Replay).record p.seq r (p.type != 0)) })).emit port r)) ∧
  (∀ s port p w, ours s port p → window s p = some w → p.seq = w.expected → meetsAny w.held p = true →
    exec (.packetRequest port p) s = .next (s.modDie (p.dst.toNat % 8) (fun x => { x with
      replay := x.replay.put p.src.toNat { w with expected := p.seq + 1, held := w.held ++ [(port, p)] } }))) ∧
  (∀ s port p w r, ours s port p → window s p = some w → p.seq ≠ w.expected → (w.expected - p.seq).toNat ≤ 256 → p.type ≠ 0 →
    (∀ q ∈ w.held, q.2.seq ≠ p.seq) → w.answers.get? p.seq.toNat = some r → exec (.packetRequest port p) s = .next (s.emit port r)) ∧
  (∀ s port p w, ours s port p → window s p = some w → p.seq ≠ w.expected → 256 < (w.expected - p.seq).toNat →
    (p.seq - w.expected).toNat < 2 ^ 31 → exec (.packetRequest port p) s = .next s) ∧
  (∀ s port p, ours s port p → window s p = none → exec (.packetRequest port p) s = .next (s.emit port (p.failReply 0x0702))) ∧
  (∀ s port p o, s.portOpen port = true → p.nul = false → p.src.toNat / 8 = s.fuses.pkg →
    (s.pair (p.src.toNat % 8) p.dst.toNat).out.find? (fun o => o.pkt.seq == p.seq) = some o →
    let s1 := s.modPair (p.src.toNat % 8) p.dst.toNat (fun q => { q with out := q.out.filter (fun x => x.pkt.seq != p.seq), rounds := 0 })
    ((p.type = 8 ∨ p.type = 10) → o.entry = none →
      exec (.packetReply port p) s = .next (s1.fillPart o.fill (leNat (p.payload.take p.len.toNat)))) ∧
    (p.type = 9 → o.entry = none → exec (.packetReply port p) s = .next (s1.issueDone o.issue)) ∧
    (p.type = 11 → p.keys.setWidth 16 ≠ (0x0702 : Half) →
      exec (.packetReply port p) s = .next (s1.failOut o (p.keys.setWidth 16)))) ∧
  (∀ s port p, p.nul = true → exec (.packetReply port p) s = .next s) ∧
  (∀ s die peer, (s.pair die peer).out ≠ [] →
    (8 ≤ (s.pair die peer).rounds → exec (.replayTimeout die peer) s = .next (s.failPair die peer 0x0701)) ∧
    ((s.pair die peer).rounds < 8 → exec (.replayTimeout die peer) s = .next (
      (s.pair die peer).out.foldl (fun s o =>
        match s.portFor die peer with
        | some port => s.emit port { o.pkt with flags := o.pkt.flags ||| 2 }
        | none => s) (s.modPair die peer (fun p => { p with rounds := p.rounds + 1 }))))) ∧
  (∀ s port peer whole, port < 16 →
    let hit := fun (k : Nat) => if whole then k / 8 == peer / 8 else k == peer
    exec (.switchDownNotice port peer whole) s = .next (
      let s1 := (s.pairs.filter (fun p => hit (p.1 % 8192))).foldl (fun s p => s.failPair (p.1 / 8192) (p.1 % 8192) 0x0701) s
      { s1 with dies := s1.dies.map (fun (d : Nat × Die) => (d.1, { d.2 with replay := d.2.replay.filter (fun r => !hit r.1) })) }.membersDown hit)) ∧
  (∀ s port width, port < 16 → width ≤ 2 → (s.accepted = false ∨ s.feature 2 = true) →
    exec (.petixaRetrain port width) s = .next (s.modDie (port / 2) (fun x =>
      if port % 2 = 0 then { x with pxa := width } else { x with pxb := width })))

/-! ### Reset, registers and the host -/

/-- R453, R456: a reset of the package, by the host, its link, or the mailbox, leaves no block, node, context, request or queue entry and
nothing in the package's memory, keeps the flash and the fuses but for the rollback counter, which does not fall, and gives the registers
of PWR, ACCEPT and the clocks their values; a reset of port 1 touches nothing but that port; a failure of power leaves the flash as it
was, or torn where a staged image that verifies was being written. What a reset leaves where no rule says is the model's choice (DEDUCED,
log 101; DEDUCED, log 105). So are the registers that no rule gives a value (DESIGN CHOICE, log 15) and how an image is judged (DEDUCED,
log 104). -/
def Obligations.Resets : Prop :=
  let fresh := fun (s t : State) => t.blocks = [] ∧ t.nodes = [] ∧ t.ctxs = [] ∧ t.entries = [] ∧ t.fills = [] ∧ t.reqs = [] ∧ t.msgs = [] ∧
    t.mem = [] ∧ t.poison = [] ∧ t.flash = s.flash ∧ s.fuses.rollback ≤ t.fuses.rollback ∧ { t.fuses with rollback := s.fuses.rollback } = s.fuses ∧
    t.accepted = false ∧ t.accept = 0 ∧ t.pmax = 4 ∧ t.tol = 0 ∧ t.pstate = 0 ∧ t.frozen = false ∧ t.staging = []
  (∀ s, ∃ t, exec .coldReset s = .next t ∧ fresh s t) ∧
  (∀ s, ∃ t, exec .warmReset s = .next t ∧ fresh s t) ∧
  (∀ s p tag, s.hostUp p = true → ((s.port p).mailbox.state = 1 ∨ (s.port p).mailbox.state = 3) →
    ∃ t, exec (.reset p tag) s = .next t ∧ fresh s t) ∧
  (∀ s, ∃ t, exec .port1Reset s = .next t ∧ t = { s with ports := t.ports } ∧ t.port 0 = s.port 0 ∧ (t.port 1).flushes = [] ∧
    (t.port 1).cxl = [] ∧ (t.port 1).mailbox.data = [] ∧ (t.port 1).mailbox.staged = false ∧ (t.port 1).mem = (s.port 1).mem) ∧
  (∀ s n, (∀ p h, (p, h) ∈ s.ports → h.mailbox.staged = false) →
    ∃ t, exec (.powerFailure n) s = .next t ∧ fresh s t ∧ t.fuses = s.fuses) ∧
  (∀ s n, (∃ p h, (p, h) ∈ s.ports ∧ h.mailbox.staged = true) → imageCode s.stagedImage s.fuses.rollback = 0 → 0 < n →
    n < s.stagedImage.length → ∃ t, exec (.powerFailure n) s = .next t ∧ t.flash = s.stagedImage.take n ∧ t.fuses = s.fuses)

/-- R361, R457 to R459, R461, R462, R466, R467: writes of the configuration registers. ACCEPT's upper dword commits, once, the features
offered and accepted; PWR sets PMAX and TOL, and wakes the package where its state is allowed no more; a word of the bay map that leaves
no permutation is ignored; LPOOL is taken while every context slot of the die is Free or Ended; and through BAR0 an aligned dword does
what its offset says. What the model adds: ACCEPT also waits for a mailbox that is ready (DEDUCED, log 103). How the package wakes is the
model's choice (DEDUCED, log 109). -/
def Obligations.RegisterWrites : Prop :=
  let perm := fun (m : List Nat) => ∀ i, i < 64 → i ∈ m
  let put := fun (m : List Nat) (word : Nat) (v : Dword) =>
    m.zipIdx.map (fun p => if p.2 / 8 = word then v.toNat / 2 ^ (8 * (p.2 % 8)) % 64 else p.1)
  let dword := fun (d : List Byte) => BitVec.ofNat 64 (leNat d)
  (∀ s port v, s.hostUp port = true → s.accepted = false → (s.port 0).mailbox.state = 1 → ∃ t, exec (.acceptWrite port v) s = .next t ∧
    t.accepted = true ∧ t.accept = (v ++ s.acceptLow) &&& s.offer ∧
    (t.accept.getLsbD 2 = true → t.dies = s.dies) ∧
    (t.accept.getLsbD 2 = false → ∀ d x, (d, x) ∈ t.dies → x.pxa = 0 ∧ x.pxb = 0) ∧ t.mem = s.mem ∧ t.blocks = s.blocks) ∧
  (∀ s port v, s.hostUp port = true → s.accepted = true → exec (.acceptWrite port v) s = .next s) ∧
  (∀ s port v, s.hostUp port = true → ∃ s1, s1 = { s with tol := v.setWidth 32, pmax := bitsOf v.toNat 34 32 } ∧
    (s1.powerAllowed s.pstate = true → exec (.pwrWrite port v) s = .next s1) ∧
    (s1.powerAllowed s.pstate = false → exec (.pwrWrite port v) s = .next s1.wake)) ∧
  (∀ s d w v, d < 8 → (s.die d).lost = false → (s.die d).mapFixed = false →
    (perm (put (s.die d).bayMap w v) → exec (.bayMapWrite d w v) s = .next (s.modDie d (fun x => { x with bayMap := put x.bayMap w v }))) ∧
    (¬perm (put (s.die d).bayMap w v) → exec (.bayMapWrite d w v) s = .next s)) ∧
  (∀ s d w v, (s.die d).mapFixed = true → exec (.bayMapWrite d w v) s = .next s) ∧
  (∀ s d v, d < 8 → (s.die d).lost = false → v.toNat % 2 ^ 32 ≤ (s.die d).cap / 65536 →
    (∀ k, k < 16 → (s.slotState d k).1 = .free ∨ (s.slotState d k).1 = .ended) →
    exec (.lpoolWrite d v) s = .next (s.modDie d (fun x => { x with lpool := v.setWidth 32 }))) ∧
  (∀ s d v k, k < 16 → (s.slotState d k).1 ≠ .free → (s.slotState d k).1 ≠ .ended → exec (.lpoolWrite d v) s = .next s) ∧
  (∀ s port off data, s.hostUp port = true →
    (0x2001000 ≤ off → off + data.length ≤ 0x2002000 → exec (.configRegisterWrite port off data) s =
      .next (s.modMailbox port (fun m => { m with data := m.data.writeList (off - 0x2001000) data }))) ∧
    (data.length = 8 → off = 0x2000010 → exec (.configRegisterWrite port off data) s = .next (s.modMailbox port (fun m => { m with arg0 := dword data }))) ∧
    (data.length = 8 → off = 0x2000018 → exec (.configRegisterWrite port off data) s = .next (s.modMailbox port (fun m => { m with arg1 := dword data }))) ∧
    (data.length = 8 → off = 0x2010010 → s.accepted = false →
      exec (.configRegisterWrite port off data) s = .next { s with acceptLow := dword data &&& 0x7F }) ∧
    (data.length = 8 → off = 0x2010018 → exec (.configRegisterWrite port off data) s = exec (.acceptWrite port (dword data)) s) ∧
    (data.length = 8 → off = 0x2010020 → exec (.configRegisterWrite port off data) s = exec (.pwrWrite port (dword data)) s) ∧
    (∀ d w, d < 8 → w < 8 → data.length = 8 → off = d * 0x400000 + 0x40 + 8 * w → (s.die d).lost = false →
      exec (.configRegisterWrite port off data) s = exec (.bayMapWrite d w (dword data)) s) ∧
    (∀ d, d < 8 → data.length = 8 → off = d * 0x400000 + 0x80 → (s.die d).lost = false →
      exec (.configRegisterWrite port off data) s = exec (.lpoolWrite d (dword data)) s) ∧
    (∀ d k, d < 8 → k < 16 → data.length = 8 → off = d * 0x400000 + 0x100 + 16 * k → (s.die d).lost = false →
      exec (.configRegisterWrite port off data) s = exec (.ctxstart d k (dword data)) s) ∧
    (data.length < 8 → off < 0x2001000 → exec (.configRegisterWrite port off data) s = .next s))

/-- R231, R368, R456, R460, R462 to R464, R470: the mailbox's commands, where the mailbox is ready. MEMRD gives up to 4 KiB of a die's
memory after a recall, MEMWR writes it, but for an image frame; CFGRD gives a dword of a die's page; IMGLOAD stages bytes for one port at
a time, and IMGCOMMIT puts a staged image that verifies into the flash and leaves the flash of one that does not; ATTEST gives the
measurement, OFFER and ACCEPT with a signature over them and the nonce; CERT gives a certificate and its length; FREEZE, a feature, stops
the clocks. A range that is none answers code 2. A command written while another is in progress does nothing. When a command completes
(DEDUCED, log 102), its reserved fields (DEDUCED, log 104) and the cases of its operands (DEDUCED, log 106) are the model's choices. So
are the keys and certificates, which have no value here (DESIGN CHOICE, log 10). -/
def Obligations.MailboxCommands : Prop :=
  let ready := fun (s : State) (p : Nat) => s.hostUp p = true ∧ (s.port p).mailbox.state = 1
  let m := fun (s : State) (p : Nat) => (s.port p).mailbox
  let done := fun (s : State) (p : Nat) (op tag : Byte) (code : Nat) (f : Mailbox → Mailbox) =>
    s.modPort p (fun h => { h with mailbox := { f { h.mailbox with tag := tag, op := op } with code := code, tagDone := tag, state := 1 } })
  let data := fun (bytes : List Byte) (x : Mailbox) => { x with data := x.data.writeList 0 (bytes.take 4096) }
  let die := fun (s : State) (p : Nat) => (m s p).arg0.toNat / 2 ^ 44 % 8
  let pa := fun (s : State) (p : Nat) => (m s p).arg0.toNat % 2 ^ 44
  let n := fun (s : State) (p : Nat) => (m s p).arg1.toNat
  let range := fun (s : State) (p : Nat) => 1 ≤ n s p ∧ n s p ≤ 4096 ∧ (m s p).arg0.toNat < 2 ^ 47 ∧ pa s p + n s p ≤ (s.die (die s p)).cap ∧
    (s.die (die s p)).lost = false ∧ pa s p / 4096 = (pa s p + n s p - 1) / 4096
  let staging := fun (s : State) (p : Nat) => 1 ≤ n s p ∧ n s p ≤ 4096 ∧ (m s p).arg0.toNat % 4096 = 0 ∧ (m s p).arg0.toNat + n s p ≤ 2 ^ 26
  (∀ s p tag, (m s p).state = 2 → (m s p).tag ≠ tag → exec (.memrd p tag) s = .next s ∧ exec (.memwr p tag) s = .next s ∧
    exec (.cfgrd p tag) s = .next s ∧ exec (.imgload p tag) s = .next s ∧ exec (.imgcommit p tag) s = .next s ∧ exec (.attest p tag) s = .next s ∧
    exec (.cert p tag) s = .next s ∧ exec (.freeze p tag) s = .next s ∧ exec (.reset p tag) s = .next s) ∧
  ∀ s p tag, ready s p →
    (range s p → exec (.memrd p tag) s = .next (
      let s1 := (s.modMailbox p (fun x => { x with tag := tag, op := 1, state := 2 })).recallRange (die s p) (pa s p) (n s p)
      (s1.mbData p (s1.physRead (die s p) (pa s p) (n s p))).mbDone p 0)) ∧
    (range s p → s.inImageFrame (die s p) (pa s p) = true → exec (.memwr p tag) s = .next (done s p 2 tag 0 id)) ∧
    (range s p → s.inImageFrame (die s p) (pa s p) = false → exec (.memwr p tag) s = .next (
      ((s.modMailbox p (fun x => { x with tag := tag, op := 2, state := 2 })).storeEverywhere (die s p) (pa s p)
        ((m s p).data.readList 0 (n s p))).mbDone p 0)) ∧
    (¬range s p → exec (.memrd p tag) s = .next (done s p 1 tag 2 id) ∧ exec (.memwr p tag) s = .next (done s p 2 tag 2 id)) ∧
    ((m s p).arg0.toNat ≤ 7 → n s p % 8 = 0 → n s p < 0x400000 →
      exec (.cfgrd p tag) s = .next (done s p 3 tag 0 (data (leBytes 8 (s.dieDword (m s p).arg0.toNat (n s p)).toNat)))) ∧
    (staging s p → (m s (1 - p)).staged = false → exec (.imgload p tag) s =
      .next (done { s with staging := s.staging.writeList (m s p).arg0.toNat ((m s p).data.readList 0 (n s p)) } p 0x10 tag 0 (fun x => { x with staged := true }))) ∧
    (staging s p → (m s (1 - p)).staged = true → exec (.imgload p tag) s = .next (done s p 0x10 tag 5 id)) ∧
    (imageCode s.stagedImage s.fuses.rollback ≠ 0 →
      exec (.imgcommit p tag) s = .next (done s p 0x11 tag (imageCode s.stagedImage s.fuses.rollback) id)) ∧
    (imageCode s.stagedImage s.fuses.rollback = 0 → ∃ t, exec (.imgcommit p tag) s = .next t ∧ t = { s with flash := s.stagedImage, ports := t.ports } ∧
      (t.port p).mailbox.code = 0 ∧ (t.port p).mailbox.tagDone = tag ∧ ∀ q h, (q, h) ∈ t.ports → h.mailbox.staged = false) ∧
    (let told := s.measurement ++ leBytes 16 s.offer.toNat ++ leBytes 16 s.accept.toNat
     exec (.attest p tag) s = .next (done s p 0x20 tag 0
       (data (told ++ rsaSign (Config.aliasKey s.cdi) ((m s p).data.readList 0 32 ++ told))))) ∧
    (∀ der, ((m s p).arg0 = 0 ∧ der = Config.deviceCert) ∨ ((m s p).arg0 = 1 ∧ der = Config.aliasCert s.measurement s.svn) →
      exec (.cert p tag) s = .next (done s p 0x21 tag 0 (fun x => { data der x with arg1 := BitVec.ofNat 64 der.length }))) ∧
    (s.feature 6 = true → exec (.freeze p tag) s =
      .next { s.modMailbox p (fun x => { x with tag := tag, op := 0x40, state := 2 }) with frozen := true }) ∧
    (s.feature 6 = false → exec (.freeze p tag) s = .next (done s p 0x40 tag 1 id))

/-- R230, R435, R436, R462: BAR2. A write through a working port is stored piece by piece once its homes cover the port's die; a read
gives the bytes, all ones where no memory is reached, marks each completion of at most 512 bytes that holds a poisoned one, and changes no
byte of memory where no update-only copy is out; a snoop takes a host line from the bay that holds it. Where a completion ends is the
model's choice (DESIGN CHOICE, log 133). So are the size of BAR2 and the write's wait for its home (DEDUCED, log 107), host memory that
nothing has written (DESIGN CHOICE, log 6) and the lines of a snoop (DEDUCED, log 108). R465 to R468, R470, R471: a frozen package does
nothing but be reset, lose its power or be read out, and a read-out changes nothing but what it gives. The deepest power state that PMAX
and TOL allow and whose condition holds is entered where it is deeper than the present one; a wake leaves it; the firmware sets the vector
and matrix islands between on and throttled. What a change of the power state does to what it does not name is the model's choice
(DEDUCED, log 109). So is which moves a frozen package still makes (DEDUCED, log 11). -/
def Obligations.HostAccess : Prop :=
  ((∀ s port off data, s.hostUp port = true → s.feature 0 = true → off + data.length ≤ 2 ^ (s.port port).bar2Bits →
    (∀ p ∈ peerPieces (data.length / 65536 + 2) off data.length, s.bar2Ready port p.1 = true) →
    exec (.bar2Write port off data) s = .next (s.bar2Store port (peerPieces (data.length / 65536 + 2) off data.length) data)) ∧
  (∀ s port off data, s.feature 0 = false → exec (.bar2Write port off data) s = .next s) ∧
  (∀ s port off n, s.hostUp port = true → off + n ≤ 2 ^ (s.port port).bar2Bits → n ≤ 4096 → s.frozen = false → s.feature 0 = false → ∃ t, exec (.bar2Read port off n) s = .next t ∧
    t = { s with hostOut := t.hostOut, hostEp := t.hostEp } ∧ t.hostOut = List.replicate n 0xFF ∧ ∀ x ∈ t.hostEp, x = false) ∧
  (∀ s port off n, s.frozen = true → exec (.bar2Read port off n) s = .next { s with hostOut := [], hostEp := [] }) ∧
  (∀ s port off n, s.hostUp port = true → off + n ≤ 2 ^ (s.port port).bar2Bits → n ≤ 4096 → s.frozen = false → s.feature 0 = true →
    (∀ d pa, (s.line d pa).uo = []) → ∃ t, exec (.bar2Read port off n) s = .next t ∧ t.mem = s.mem ∧ t.poison = s.poison ∧ t.hostOut.length = n ∧
      (∃ marks, t.hostEp = completionMarks off marks ∧ marks.length = n ∧ ∀ i, i < n → marks.getD i false =
        let d := (off + i) / 2 ^ 37 % 8
        let pa := (off + i) % 2 ^ 37
        (!(s.die d).lost && decide (pa < (s.die d).cap) && s.poisoned d pa)) ∧
      ∀ i, i < n →
        let d := (off + i) / 2 ^ 37 % 8
        let pa := (off + i) % 2 ^ 37
        t.hostOut.getD i 0 = (if (s.die d).lost = false ∧ pa < (s.die d).cap ∧ s.poisoned d pa = false then s.mem.read (physKey d pa) else 0xFF)) ∧
  (∀ s port addr, s.hostUp port = true → addr / 64 ∈ (s.port port).cxl → exec (.hostCxlSnoop port addr) s =
    .next ({ s with hostOut := s.hostRead port (addr / 64 * 64) 64, hostEp := [false] }.modPort port (fun h =>
      { h with cxl := h.cxl.filter (fun l => l != addr / 64) }))) ∧
  (∀ s port addr, addr / 64 ∉ (s.port port).cxl → exec (.hostCxlSnoop port addr) s = .next s)) ∧
  (let picked := fun (s : State) => [4, 3, 2, 1].find? (fun st => s.powerAllowed st && s.powerCond st)
  (∀ s, exec .freezeN s = .next { s with frozen := true }) ∧
  (∀ s, s.frozen = true → Move.whileFrozen s.nextMove.1 = false → step s = .next s.nextMove.2.passTime) ∧
  (∀ s d inst, s.frozen = true → d < 8 → ∃ t, exec (.tapReadout d inst) s = .next t ∧ t = { s with tapOut := t.tapOut } ∧
    (inst = .config → t.tapOut = (List.range 64).flatMap (fun i => leBytes 8 (s.dieDword d (8 * i)).toNat))) ∧
  (∀ s d inst, s.frozen = false → exec (.tapReadout d inst) s = .next s) ∧
  (∀ s st, picked s = some st → s.pstate < st → ∃ t, exec .powerStateEntry s = .next t ∧ t.pstate = st ∧
    (∀ d x, (d, x) ∈ t.dies → x.islands = islandsIn st) ∧ (st = 4 → t.mem = []) ∧ (st = 1 → t.mem = s.mem ∧ t.blocks = s.blocks)) ∧
  (∀ s, (picked s = none ∨ ∃ st, picked s = some st ∧ st ≤ s.pstate) → exec .powerStateEntry s = .next s) ∧
  (∀ s, 0 < s.pstate → s.pstate < 4 → exec .powerWake s = .next s.toRun) ∧
  (∀ s, s.pstate = 4 → exec .powerWake s = .next s.wake) ∧
  (∀ s, s.pstate = 0 → exec .powerWake s = .next s) ∧
  (∀ s d v x, d < 8 → (s.die d).lost = false → s.pstate = 0 → (v = 2 ∨ v = 3) → (x = 2 ∨ x = 3) →
    exec (.throttling d v x) s = .next (s.modDie d (fun y => { y with islands := [v, x] ++ y.islands.drop 2 }))))

/-! ### Encodings, checks, frames and the whole machine -/

/-- R27 to R31, R48, R335: words that the spec's worked encodings give decode to the instructions they stand for: `IMUL.s32.n v1, v2`,
`AFF v8, v1, v2`, `MOVS v0, id.thread`, `CVT.rsr.bf16.f32 v2, v1!`, `REL.lo` of v8 and v9, `BRA`, `LD.x4.b32 v8, [v6+0x100]`,
`ATOM.cas.ar.die.b32`, `CLAIM #0`, `CPY.die.q0.ds`, `KREG.drop v3`, `PQRY` and `LAYW`; a length code of 3 and an unassigned opcode are no
instruction. -/
def Obligations.DecodeWords : Prop :=
  let f := fun (y n : Bool) (d : BitVec 6) (la : Bool) (a : BitVec 6) (lb : Bool) (b : BitVec 6) (t : Tail) => (⟨y, n, d, la, a, lb, b, t⟩ : Fields)
  let ext := fun (tov : BitVec 5) (md : BitVec 11) => (⟨false, 0, 0, tov, 0, false, md⟩ : Ext)
  decodeWords 0x40900082 0x00090000 0 = .ok (.imul (f false true 0 false 1 false 2 (.two (ext 18 0)))) ∧
  decodeWords 0x13C20082 0 0 = .ok (.aff (f false false 8 false 1 false 2 .one)) ∧
  decodeWords 0x7B000000 0x00000002 0 = .ok (.movsO (f false false 0 false 0 false 0 (.two (ext 0 2)))) ∧
  decodeWords 0x5000A080 0x00026001 0 = .ok (.cvt (f false false 2 true 1 false 0 (.two ⟨false, 0, 0, 4, 6, false, 1⟩))) ∧
  decodeWords 0xBC000000 0 0x00000300 = .ok (.rel (f false false 0 false 0 false 0 (.three (ext 0 0) 0x300))) ∧
  decodeWords 0xB8000000 0 0xFFFFFFD4 = .ok (.bra (f false false 0 false 0 false 0 (.three (ext 0 0) 0xFFFFFFD4))) ∧
  decodeWords 0x98020300 0x000C0002 0x00000100 = .ok (.ld (f false false 8 false 6 false 0 (.three (ext 24 2) 0x100))) ∧
  decodeWords 0x69810308 0x120C01DA 0 = .ok (.atom (f false false 4 false 6 false 8 (.two ⟨false, 9, 0, 24, 0, false, 0x1DA⟩))) ∧
  decodeWords 0xA0000000 0 0 = .ok (.claim (f false false 0 false 0 false 0 (.three (ext 0 0) 0))) ∧
  decodeWords 0x70050206 0x10000044 0 = .ok (.cpy (f false false 20 false 4 false 6 (.two ⟨false, 8, 0, 0, 0, false, 0x44⟩))) ∧
  decodeWords 0x74400003 0x00000001 0 = .ok (.kregDrop (f false false 0 false 0 false 3 (.two (ext 0 1)))) ∧
  decodeWords 0xBD020300 0 0x00000040 = .ok (.pqry (f false false 8 false 6 false 0 (.three (ext 0 0) 0x40))) ∧
  decodeWords 0xBEC00000 0 0x00000003 = .ok (.layw (f false false 0 false 0 false 0 (.three (ext 0 0) 3))) ∧
  (∀ w e l, lenOf w = 3 → decodeWords w e l = .error .length) ∧
  (∀ w e l, opcOf w = 0x1E → lenOf w ≠ 3 → decodeWords w e l = .error .opcode)

/-- R27, R30, R31, R48: decode and encode agree: the bytes of every well-formed instruction, whatever follows them, decode to it, with
every operand at every value that the encoding admits; and bytes that decode are the bytes of what they decode to. -/
def Obligations.EncodeDecode : Prop :=
  (∀ i rest, i.wf = true → i.parts? ≠ none → decode (encodeBytes i ++ rest) = .ok (i, rest)) ∧
  (∀ bs i rest, decode bs = .ok (i, rest) → i.parts? ≠ none ∧ bs = encodeBytes i ++ rest)

/-- R32, R52: the checks before an instruction's effect, for every row of the opcode table: fields that its row does not allow raise
ILLEGAL_OPERAND, a source latch that is empty LATCH_EMPTY; a pending source makes the slice wait; an empty source register raises
EMPTY_REGISTER, and a tag that the operand does not allow SHAPE_MISMATCH; the lanes are the mask, the address is 0, and nothing else comes
about. Of a cross-lane instruction each slice of the issue set that fails raises its own cause and the others wait (R136); that a failure
is raised at once where another slice still has a pending source is the model's choice (DESIGN CHOICE, log 117). A source that an
instruction reads only in some of its forms, by its mask, its record or its MOD, is judged by the statement of that instruction. -/
def Obligations.IssueChecks : Prop :=
  (∀ i f e s bid sid b x, laneRow x.mode i = some (f, e) → Executing s bid sid b x →
    (∀ c, CheckIs e f x (.bad c) → exec i s = .next (s.trap bid sid c 0 x.mask f.len false)) ∧
    (CheckIs e f x .stall → exec i s = .next (s.setWaiting bid sid))) ∧
  (∀ i f e s bid sid b x, setRow b.width i = some (f, e) → Executing s bid sid b x →
    let ids := b.issueSet sid
    let members := ids.filterMap (fun k => (b.slices.get? k).map (fun y => (k, y)))
    (b.crossAway sid = true → exec i s = .next (s.allWait bid ids)) ∧
    (b.crossAway sid = false → ∀ check : Slice → SrcCheck, (∀ p ∈ members, CheckIs e f p.2 (check p.2)) →
      let bad := members.filterMap (fun p => match check p.2 with | .bad c => some (p.1, c, p.2.mask) | _ => none)
      (bad ≠ [] → exec i s = .next (s.crossFault bid f.len ids bad)) ∧
      (bad = [] → (∃ p ∈ members, check p.2 = .stall) → exec i s = .next (s.allWait bid ids))))

/-- R85, R90, R96: what an instruction leaves alone. An arithmetic, conversion, predicate or move instruction that has what it needs
either raises, which leaves what a trap leaves (R393), or its results are registers, latches, predicates and the pc of its slice: its
destination registers and those that it releases are all that may differ, of its predicates only the destination, and the random counters
only under rsr. Nothing of the rest of the machine has changed but that the slice waits for pool words no more: no byte of memory, no
other slice, no context, node, entry or request, and nothing else of a core or a die. -/
def Obligations.ResultFrame : Prop :=
  ∀ i f e s bid sid b x t, laneOnly i = true → laneRow x.mode i = some (f, e) → Ready e f s bid sid b x → exec i s = .next t →
    (∃ c a m, t = s.trap bid sid c a m f.len false) ∨
    ∃ y,
      y = { x with
        regs := y.regs, latches := y.latches, sticky := y.sticky, ctr := y.ctr, preds := y.preds
        pc := x.pc + BitVec.ofNat 64 (4 * f.len), retired := x.retired + 1, run := .running, pend := false, prog := .fresh } ∧
      (∀ k, (f.n = true ∨ k < f.dst.toNat ∨ f.dst.toNat + e.dst.span (e.typeOf f x.mode) f ≤ k) → y.reg k = keptReg e f x [] k) ∧
      (∀ k, (e.dst = .pd → k ≠ f.dst.toNat) → y.preds[k]? = x.preds[k]?) ∧
      ((e.env f bid sid b x).rnd ≠ 6 → y.ctr = x.ctr) ∧
      t = { s with blocks := t.blocks, dies := t.dies } ∧
      t.slice? bid sid = some y ∧
      (∀ c k, c ≠ bid ∨ k ≠ sid → t.slice? c k = s.slice? c k) ∧
      (∀ c, c ≠ bid → t.blocks.get? c = s.blocks.get? c) ∧
      (∃ u, t.blocks.get? bid = some u ∧ { u with slices := b.slices } = b) ∧
      (∀ d, { t.die d with cores := (s.die d).cores } = s.die d) ∧
      (∀ d c, t.core d c = { s.core d c with waiters := (t.core d c).waiters }) ∧
      (∀ w ∈ (t.core b.die b.core).waiters, ¬(w.bid = bid ∧ w.sid = sid))

/-- R171, R176, R182: whatever happens, device memory and the scratchpad windows stay one list of bytes in ascending order of address,
with no address twice and no byte listed that an unlisted address reads as. -/
def Obligations.MemoryCanonical : Prop :=
  ∀ s t : State, s.memOk = true → step s = .next t → t.memOk = true

/-- R222, R361, R453, R454, R459, R461, R466, R468: what a reset leaves: every byte of memory 0, nothing poisoned, no block, context,
node, entry or token; every context slot Free; the vector clocks and cycle counters 0; the bay map in order; OFFER and ACCEPT 0; PMAX 4,
TOL 0, power state 0 with no change counted, every island on; the mailboxes not ready. That the token tables are empty is the model's
choice (DESIGN CHOICE, log 15), and so are what memory holds before the bring-up (DEDUCED, log 16), that no die is lost (PRESUMED, log 13)
and that the state is the one before the bring-up (DESIGN CHOICE, log 14). -/
def Obligations.ResetState : Prop :=
  let s := State.reset
  s.memOk = true ∧ (∀ a, s.mem.read a = 0) ∧ s.poison = [] ∧ s.blocks = [] ∧ s.ctxs = [] ∧ s.nodes = [] ∧ s.entries = [] ∧ s.reqs = [] ∧ s.fills = [] ∧
  s.offer = 0 ∧ s.accept = 0 ∧ s.accepted = false ∧ s.pmax = 4 ∧ s.tol = 0 ∧ s.pstate = 0 ∧ s.pchanges = 0 ∧ s.frozen = false ∧
  (∀ p, (s.port p).mailbox.state = 0) ∧
  ∀ d, d < 8 → (s.die d).lost = false ∧ (s.die d).cycle = 0 ∧ (s.die d).tokens = [] ∧ (s.die d).islands = [2, 2, 2, 2, 2] ∧
    (∀ k, (s.slotState d k).1 = .free ∧ (s.slotState d k).2 = 0) ∧ (∀ k, k < 8 → (s.die d).vc.getD k 1 = 0) ∧
    ∀ i, i < 64 → (s.die d).bayMap.getD i 0 = i
end

