-- ==== Sys2Proof/Laws/Exec.lean ====
section
/-! SUPPORT. What `exec` does with each row is the row's meaning: one equation per constructor, so that no proof unfolds the dispatch. -/

namespace Sys2Proof.Machine

theorem exec_iadd (f : Fields) (s : State) : exec (.iadd f) s = execIadd f s := rfl
theorem exec_isub (f : Fields) (s : State) : exec (.isub f) s = execIsub f s := rfl
theorem exec_imul (f : Fields) (s : State) : exec (.imul f) s = execImul f s := rfl
theorem exec_imulh (f : Fields) (s : State) : exec (.imulh f) s = execImulh f s := rfl
theorem exec_imad (f : Fields) (s : State) : exec (.imad f) s = execImad f s := rfl
theorem exec_idiv (f : Fields) (s : State) : exec (.idiv f) s = execIdiv f s := rfl
theorem exec_irem (f : Fields) (s : State) : exec (.irem f) s = execIrem f s := rfl
theorem exec_imin (f : Fields) (s : State) : exec (.imin f) s = execImin f s := rfl
theorem exec_imax (f : Fields) (s : State) : exec (.imax f) s = execImax f s := rfl
theorem exec_iabs (f : Fields) (s : State) : exec (.iabs f) s = execIabs f s := rfl
theorem exec_ineg (f : Fields) (s : State) : exec (.ineg f) s = execIneg f s := rfl
theorem exec_iaddc (f : Fields) (s : State) : exec (.iaddc f) s = execIaddc f s := rfl
theorem exec_isubb (f : Fields) (s : State) : exec (.isubb f) s = execIsubb f s := rfl
theorem exec_andB (f : Fields) (s : State) : exec (.andB f) s = execAnd f s := rfl
theorem exec_orB (f : Fields) (s : State) : exec (.orB f) s = execOr f s := rfl
theorem exec_xorB (f : Fields) (s : State) : exec (.xorB f) s = execXor f s := rfl
theorem exec_notB (f : Fields) (s : State) : exec (.notB f) s = execNot f s := rfl
theorem exec_andn (f : Fields) (s : State) : exec (.andn f) s = execAndn f s := rfl
theorem exec_shl (f : Fields) (s : State) : exec (.shl f) s = execShl f s := rfl
theorem exec_shr (f : Fields) (s : State) : exec (.shr f) s = execShr f s := rfl
theorem exec_sar (f : Fields) (s : State) : exec (.sar f) s = execSar f s := rfl
theorem exec_rot (f : Fields) (s : State) : exec (.rot f) s = execRot f s := rfl
theorem exec_bfe (f : Fields) (s : State) : exec (.bfe f) s = execBfe f s := rfl
theorem exec_bfi (f : Fields) (s : State) : exec (.bfi f) s = execBfi f s := rfl
theorem exec_popc (f : Fields) (s : State) : exec (.popc f) s = execPopc f s := rfl
theorem exec_clz (f : Fields) (s : State) : exec (.clz f) s = execClz f s := rfl
theorem exec_brev (f : Fields) (s : State) : exec (.brev f) s = execBrev f s := rfl
theorem exec_lea (f : Fields) (s : State) : exec (.lea f) s = execLea f s := rfl
theorem exec_mov (f : Fields) (s : State) : exec (.mov f) s = execMov f s := rfl
theorem exec_movi (f : Fields) (s : State) : exec (.movi f) s = execMovi f s := rfl
theorem exec_fadd (f : Fields) (s : State) : exec (.fadd f) s = execFadd f s := rfl
theorem exec_fsub (f : Fields) (s : State) : exec (.fsub f) s = execFsub f s := rfl
theorem exec_fmul (f : Fields) (s : State) : exec (.fmul f) s = execFmul f s := rfl
theorem exec_ffma (f : Fields) (s : State) : exec (.ffma f) s = execFfma f s := rfl
theorem exec_fmin (f : Fields) (s : State) : exec (.fmin f) s = execFmin f s := rfl
theorem exec_fmax (f : Fields) (s : State) : exec (.fmax f) s = execFmax f s := rfl
theorem exec_fminn (f : Fields) (s : State) : exec (.fminn f) s = execFminn f s := rfl
theorem exec_fmaxn (f : Fields) (s : State) : exec (.fmaxn f) s = execFmaxn f s := rfl
theorem exec_fabs (f : Fields) (s : State) : exec (.fabs f) s = execFabs f s := rfl
theorem exec_fneg (f : Fields) (s : State) : exec (.fneg f) s = execFneg f s := rfl
theorem exec_fcpys (f : Fields) (s : State) : exec (.fcpys f) s = execFcpys f s := rfl
theorem exec_fdiv (f : Fields) (s : State) : exec (.fdiv f) s = execFdiv f s := rfl
theorem exec_fsqrt (f : Fields) (s : State) : exec (.fsqrt f) s = execFsqrt f s := rfl
theorem exec_frcp (f : Fields) (s : State) : exec (.frcp f) s = execFrcp f s := rfl
theorem exec_frsq (f : Fields) (s : State) : exec (.frsq f) s = execFrsq f s := rfl
theorem exec_fex2 (f : Fields) (s : State) : exec (.fex2 f) s = execFex2 f s := rfl
theorem exec_flg2 (f : Fields) (s : State) : exec (.flg2 f) s = execFlg2 f s := rfl
theorem exec_fsinp (f : Fields) (s : State) : exec (.fsinp f) s = execFsinp f s := rfl
theorem exec_fcosp (f : Fields) (s : State) : exec (.fcosp f) s = execFcosp f s := rfl
theorem exec_ftanh (f : Fields) (s : State) : exec (.ftanh f) s = execFtanh f s := rfl
theorem exec_frnd (f : Fields) (s : State) : exec (.frnd f) s = execFrnd f s := rfl
theorem exec_fscl (f : Fields) (s : State) : exec (.fscl f) s = execFscl f s := rfl
theorem exec_fexpn (f : Fields) (s : State) : exec (.fexpn f) s = execFexpn f s := rfl
theorem exec_cvt (f : Fields) (s : State) : exec (.cvt f) s = execCvt f s := rfl
theorem exec_cvtsr (f : Fields) (s : State) : exec (.cvtsr f) s = execCvtsr f s := rfl
theorem exec_pack (f : Fields) (s : State) : exec (.pack f) s = execPack f s := rfl
theorem exec_unpk (f : Fields) (s : State) : exec (.unpk f) s = execUnpk f s := rfl
theorem exec_qnt (f : Fields) (s : State) : exec (.qnt f) s = execQnt f s := rfl
theorem exec_dqnt (f : Fields) (s : State) : exec (.dqnt f) s = execDqnt f s := rfl
theorem exec_icmp (f : Fields) (s : State) : exec (.icmp f) s = execIcmp f s := rfl
theorem exec_fcmp (f : Fields) (s : State) : exec (.fcmp f) s = execFcmp f s := rfl
theorem exec_fclass (f : Fields) (s : State) : exec (.fclass f) s = execFclass f s := rfl
theorem exec_pand (f : Fields) (s : State) : exec (.pand f) s = execPand f s := rfl
theorem exec_por (f : Fields) (s : State) : exec (.por f) s = execPor f s := rfl
theorem exec_pxor (f : Fields) (s : State) : exec (.pxor f) s = execPxor f s := rfl
theorem exec_pnot (f : Fields) (s : State) : exec (.pnot f) s = execPnot f s := rfl
theorem exec_pmov (f : Fields) (s : State) : exec (.pmov f) s = execPmov f s := rfl
theorem exec_sel (f : Fields) (s : State) : exec (.sel f) s = execSel f s := rfl
theorem exec_aff (f : Fields) (s : State) : exec (.aff f) s = execAff f s := rfl
theorem exec_unif (f : Fields) (s : State) : exec (.unif f) s = execUnif f s := rfl
theorem exec_shape (f : Fields) (s : State) : exec (.shape f) s = execShape f s := rfl
theorem exec_shfl (f : Fields) (s : State) : exec (.shfl f) s = execShfl f s := rfl
theorem exec_bcast (f : Fields) (s : State) : exec (.bcast f) s = execBcast f s := rfl
theorem exec_vote (f : Fields) (s : State) : exec (.vote f) s = execVote f s := rfl
theorem exec_rdx (f : Fields) (s : State) : exec (.rdx f) s = execRdx f s := rfl
theorem exec_scan (f : Fields) (s : State) : exec (.scan f) s = execScan f s := rfl
theorem exec_topk (f : Fields) (s : State) : exec (.topk f) s = execTopk f s := rfl
theorem exec_ld (f : Fields) (s : State) : exec (.ld f) s = execLd f s := rfl
theorem exec_st (f : Fields) (s : State) : exec (.st f) s = execSt f s := rfl
theorem exec_lds (f : Fields) (s : State) : exec (.lds f) s = execLds f s := rfl
theorem exec_sts (f : Fields) (s : State) : exec (.sts f) s = execSts f s := rfl
theorem exec_ldu (f : Fields) (s : State) : exec (.ldu f) s = execLdu f s := rfl
theorem exec_tld (f : Fields) (s : State) : exec (.tld f) s = execTld f s := rfl
theorem exec_tst (f : Fields) (s : State) : exec (.tst f) s = execTst f s := rfl
theorem exec_lda (f : Fields) (s : State) : exec (.lda f) s = execLda f s := rfl
theorem exec_strl (f : Fields) (s : State) : exec (.strl f) s = execStrl f s := rfl
theorem exec_rld (f : Fields) (s : State) : exec (.rld f) s = execRld f s := rfl
theorem exec_rst (f : Fields) (s : State) : exec (.rst f) s = execRst f s := rfl
theorem exec_ratm (f : Fields) (s : State) : exec (.ratm f) s = execRatm f s := rfl
theorem exec_prf (f : Fields) (s : State) : exec (.prf f) s = execPrf f s := rfl
theorem exec_pin (f : Fields) (s : State) : exec (.pin f) s = execPin f s := rfl
theorem exec_unpin (f : Fields) (s : State) : exec (.unpin f) s = execUnpin f s := rfl
theorem exec_waitc (f : Fields) (s : State) : exec (.waitc f) s = execWaitc f s := rfl
theorem exec_pres (f : Fields) (s : State) : exec (.pres f) s = execPres f s := rfl
theorem exec_claim (f : Fields) (s : State) : exec (.claim f) s = execClaim f s := rfl
theorem exec_rels (f : Fields) (s : State) : exec (.rels f) s = execRels f s := rfl
theorem exec_sld (f : Fields) (s : State) : exec (.sld f) s = execSld f s := rfl
theorem exec_slds (f : Fields) (s : State) : exec (.slds f) s = execSlds f s := rfl
theorem exec_mma (f : Fields) (s : State) : exec (.mma f) s = execMma f s := rfl
theorem exec_mmas (f : Fields) (s : State) : exec (.mmas f) s = execMmas f s := rfl
theorem exec_mzero (f : Fields) (s : State) : exec (.mzero f) s = execMzero f s := rfl
theorem exec_acld (f : Fields) (s : State) : exec (.acld f) s = execAcld f s := rfl
theorem exec_mbat (f : Fields) (s : State) : exec (.mbat f) s = execMbat f s := rfl
theorem exec_mwtb (f : Fields) (s : State) : exec (.mwtb f) s = execMwtb f s := rfl
theorem exec_drn (f : Fields) (s : State) : exec (.drn f) s = execDrn f s := rfl
theorem exec_drnx (f : Fields) (s : State) : exec (.drnx f) s = execDrnx f s := rfl
theorem exec_drnaO (f : Fields) (s : State) : exec (.drnaO f) s = execDrnaO f s := rfl
theorem exec_drnaU (f : Fields) (s : State) : exec (.drnaU f) s = execDrnaU f s := rfl
theorem exec_binit (f : Fields) (s : State) : exec (.binit f) s = execBinit f s := rfl
theorem exec_bexp (f : Fields) (s : State) : exec (.bexp f) s = execBexp f s := rfl
theorem exec_barr (f : Fields) (s : State) : exec (.barr f) s = execBarr f s := rfl
theorem exec_bwait (f : Fields) (s : State) : exec (.bwait f) s = execBwait f s := rfl
theorem exec_btry (f : Fields) (s : State) : exec (.btry f) s = execBtry f s := rfl
theorem exec_mwait (f : Fields) (s : State) : exec (.mwait f) s = execMwait f s := rfl
theorem exec_atom (f : Fields) (s : State) : exec (.atom f) s = execAtom f s := rfl
theorem exec_binc (f : Fields) (s : State) : exec (.binc f) s = execBinc f s := rfl
theorem exec_winc (f : Fields) (s : State) : exec (.winc f) s = execWinc f s := rfl
theorem exec_decz (f : Fields) (s : State) : exec (.decz f) s = execDecz f s := rfl
theorem exec_faddl (f : Fields) (s : State) : exec (.faddl f) s = execFaddl f s := rfl
theorem exec_tkt (f : Fields) (s : State) : exec (.tkt f) s = execTkt f s := rfl
theorem exec_fatomO (f : Fields) (s : State) : exec (.fatomO f) s = execFatomO f s := rfl
theorem exec_fatomU (f : Fields) (s : State) : exec (.fatomU f) s = execFatomU f s := rfl
theorem exec_redO (f : Fields) (s : State) : exec (.redO f) s = execRedO f s := rfl
theorem exec_redU (f : Fields) (s : State) : exec (.redU f) s = execRedU f s := rfl
theorem exec_tkw (f : Fields) (s : State) : exec (.tkw f) s = execTkw f s := rfl
theorem exec_tka (f : Fields) (s : State) : exec (.tka f) s = execTka f s := rfl
theorem exec_commit (f : Fields) (s : State) : exec (.commit f) s = execCommit f s := rfl
theorem exec_gsync (f : Fields) (s : State) : exec (.gsync f) s = execGsync f s := rfl
theorem exec_gjoin (f : Fields) (s : State) : exec (.gjoin f) s = execGjoin f s := rfl
theorem exec_gleave (f : Fields) (s : State) : exec (.gleave f) s = execGleave f s := rfl
theorem exec_grank (f : Fields) (s : State) : exec (.grank f) s = execGrank f s := rfl
theorem exec_gsize (f : Fields) (s : State) : exec (.gsize f) s = execGsize f s := rfl
theorem exec_fence (f : Fields) (s : State) : exec (.fence f) s = execFence f s := rfl
theorem exec_cpy (f : Fields) (s : State) : exec (.cpy f) s = execCpy f s := rfl
theorem exec_cpt (f : Fields) (s : State) : exec (.cpt f) s = execCpt f s := rfl
theorem exec_cpg (f : Fields) (s : State) : exec (.cpg f) s = execCpg f s := rfl
theorem exec_cps (f : Fields) (s : State) : exec (.cps f) s = execCps f s := rfl
theorem exec_qfen (f : Fields) (s : State) : exec (.qfen f) s = execQfen f s := rfl
theorem exec_tokw (f : Fields) (s : State) : exec (.tokw f) s = execTokw f s := rfl
theorem exec_tokt (f : Fields) (s : State) : exec (.tokt f) s = execTokt f s := rfl
theorem exec_tokr (f : Fields) (s : State) : exec (.tokr f) s = execTokr f s := rfl
theorem exec_qcan (f : Fields) (s : State) : exec (.qcan f) s = execQcan f s := rfl
theorem exec_rgath (f : Fields) (s : State) : exec (.rgath f) s = execRgath f s := rfl
theorem exec_rrscO (f : Fields) (s : State) : exec (.rrscO f) s = execRrscO f s := rfl
theorem exec_rrscU (f : Fields) (s : State) : exec (.rrscU f) s = execRrscU f s := rfl
theorem exec_rhof (f : Fields) (s : State) : exec (.rhof f) s = execRhof f s := rfl
theorem exec_ragr (f : Fields) (s : State) : exec (.ragr f) s = execRagr f s := rfl
theorem exec_rank (f : Fields) (s : State) : exec (.rank f) s = execRank f s := rfl
theorem exec_rbar (f : Fields) (s : State) : exec (.rbar f) s = execRbar f s := rfl
theorem exec_lnch (f : Fields) (s : State) : exec (.lnch f) s = execLnch f s := rfl
theorem exec_kreg (f : Fields) (s : State) : exec (.kreg f) s = execKreg f s := rfl
theorem exec_kregDrop (f : Fields) (s : State) : exec (.kregDrop f) s = execKregDrop f s := rfl
theorem exec_nodeq (f : Fields) (s : State) : exec (.nodeq f) s = execNodeq f s := rfl
theorem exec_bra (f : Fields) (s : State) : exec (.bra f) s = execBra f s := rfl
theorem exec_brx (f : Fields) (s : State) : exec (.brx f) s = execBrx f s := rfl
theorem exec_call (f : Fields) (s : State) : exec (.call f) s = execCall f s := rfl
theorem exec_callx (f : Fields) (s : State) : exec (.callx f) s = execCallx f s := rfl
theorem exec_ret (f : Fields) (s : State) : exec (.ret f) s = execRet f s := rfl
theorem exec_ifm (f : Fields) (s : State) : exec (.ifm f) s = execIfm f s := rfl
theorem exec_elsm (f : Fields) (s : State) : exec (.elsm f) s = execElsm f s := rfl
theorem exec_endm (f : Fields) (s : State) : exec (.endm f) s = execEndm f s := rfl
theorem exec_brkm (f : Fields) (s : State) : exec (.brkm f) s = execBrkm f s := rfl
theorem exec_exit (f : Fields) (s : State) : exec (.exit f) s = execExit f s := rfl
theorem exec_nop (f : Fields) (s : State) : exec (.nop f) s = execNop f s := rfl
theorem exec_regang (f : Fields) (s : State) : exec (.regang f) s = execRegang f s := rfl
theorem exec_movsO (f : Fields) (s : State) : exec (.movsO f) s = execMovsO f s := rfl
theorem exec_movsU (f : Fields) (s : State) : exec (.movsU f) s = execMovsU f s := rfl
theorem exec_setm (f : Fields) (s : State) : exec (.setm f) s = execSetm f s := rfl
theorem exec_getm (f : Fields) (s : State) : exec (.getm f) s = execGetm f s := rfl
theorem exec_rel (f : Fields) (s : State) : exec (.rel f) s = execRel f s := rfl
theorem exec_grow (f : Fields) (s : State) : exec (.grow f) s = execGrow f s := rfl
theorem exec_shrink (f : Fields) (s : State) : exec (.shrink f) s = execShrink f s := rfl
theorem exec_poolq (f : Fields) (s : State) : exec (.poolq f) s = execPoolq f s := rfl
theorem exec_pqry (f : Fields) (s : State) : exec (.pqry f) s = execPqry f s := rfl
theorem exec_setpk (f : Fields) (s : State) : exec (.setpk f) s = execSetpk f s := rfl
theorem exec_tlbfl (f : Fields) (s : State) : exec (.tlbfl f) s = execTlbfl f s := rfl
theorem exec_tlbdr (f : Fields) (s : State) : exec (.tlbdr f) s = execTlbdr f s := rfl
theorem exec_trap (f : Fields) (s : State) : exec (.trap f) s = execTrap f s := rfl
theorem exec_tret (f : Fields) (s : State) : exec (.tret f) s = execTret f s := rfl
theorem exec_errl (f : Fields) (s : State) : exec (.errl f) s = execErrl f s := rfl
theorem exec_layw (f : Fields) (s : State) : exec (.layw f) s = execLayw f s := rfl
theorem exec_layq (f : Fields) (s : State) : exec (.layq f) s = execLayq f s := rfl
theorem exec_layr (f : Fields) (s : State) : exec (.layr f) s = execLayr f s := rfl
theorem exec_laye (f : Fields) (s : State) : exec (.laye f) s = execLaye f s := rfl
theorem exec_bkpt (f : Fields) (s : State) : exec (.bkpt f) s = execBkpt f s := rfl
theorem exec_monitorPoll (bid sid : Nat) (s : State) : exec (.monitorPoll bid sid) s = execMonitorPoll bid sid s := rfl
theorem exec_waitSatisfied (bid sid : Nat) (s : State) : exec (.waitSatisfied bid sid) s = execWaitSatisfied bid sid s := rfl
theorem exec_callSetRelease (bid sid : Nat) (s : State) : exec (.callSetRelease bid sid) s = execCallSetRelease bid sid s := rfl
theorem exec_gangSwitch (bid part : Nat) (s : State) : exec (.gangSwitch bid part) s = execGangSwitch bid part s := rfl
theorem exec_fillLand (fill elem : Nat) (s : State) : exec (.fillLand fill elem) s = execFillLand fill elem s := rfl
theorem exec_fillFaultDelivery (bid sid : Nat) (s : State) : exec (.fillFaultDelivery bid sid) s = execFillFaultDelivery bid sid s := rfl
theorem exec_parkTimeout (bid sid : Nat) (fill : Option Nat) (s : State) : exec (.parkTimeout bid sid fill) s = execParkTimeout bid sid fill s := rfl
theorem exec_poolWaitServed (die core : Nat) (s : State) : exec (.poolWaitServed die core) s = execPoolWaitServed die core s := rfl
theorem exec_refill (bid : Nat) (s : State) : exec (.refill bid) s = execRefill bid s := rfl
theorem exec_poolWaitQuantum (bid : Nat) (s : State) : exec (.poolWaitQuantum bid) s = execPoolWaitQuantum bid s := rfl
theorem exec_phaseCloseComplete (die core : Nat) (s : State) : exec (.phaseCloseComplete die core) s = execPhaseCloseComplete die core s := rfl
theorem exec_unsequencedRequestApply (req : Nat) (s : State) : exec (.unsequencedRequestApply req) s = execUnsequencedRequestApply req s := rfl
theorem exec_sequencedMessageApply (msg : Nat) (s : State) : exec (.sequencedMessageApply msg) s = execSequencedMessageApply msg s := rfl
theorem exec_bayLineFill (die line : Nat) (s : State) : exec (.bayLineFill die line) s = execBayLineFill die line s := rfl
theorem exec_eccError (die : Nat) (place : EccPlace) (s : State) : exec (.eccError die place) s = execEccError die place s := rfl
theorem exec_flushingReadReturn (port flush : Nat) (s : State) : exec (.flushingReadReturn port flush) s = execFlushingReadReturn port flush s := rfl
theorem exec_entryTurn (entry : Nat) (s : State) : exec (.entryTurn entry) s = execEntryTurn entry s := rfl
theorem exec_pieceWrite (entry : Nat) (s : State) : exec (.pieceWrite entry) s = execPieceWrite entry s := rfl
theorem exec_pieceFail (entry : Nat) (s : State) : exec (.pieceFail entry) s = execPieceFail entry s := rfl
theorem exec_entryComplete (entry : Nat) (s : State) : exec (.entryComplete entry) s = execEntryComplete entry s := rfl
theorem exec_fenceEntryComplete (entry : Nat) (s : State) : exec (.fenceEntryComplete entry) s = execFenceEntryComplete entry s := rfl
theorem exec_slotFillLand (bid fill : Nat) (s : State) : exec (.slotFillLand bid fill) s = execSlotFillLand bid fill s := rfl
theorem exec_slotFillFault (bid fill : Nat) (s : State) : exec (.slotFillFault bid fill) s = execSlotFillFault bid fill s := rfl
theorem exec_slotOperandReadEnd (bid : Nat) (s : State) : exec (.slotOperandReadEnd bid) s = execSlotOperandReadEnd bid s := rfl
theorem exec_streamEntryBegin (bid : Nat) (s : State) : exec (.streamEntryBegin bid) s = execStreamEntryBegin bid s := rfl
theorem exec_streamEntryComplete (bid : Nat) (s : State) : exec (.streamEntryComplete bid) s = execStreamEntryComplete bid s := rfl
theorem exec_drnaGrant (bid : Nat) (s : State) : exec (.drnaGrant bid) s = execDrnaGrant bid s := rfl
theorem exec_drnaAddition (add : Nat) (s : State) : exec (.drnaAddition add) s = execDrnaAddition add s := rfl
theorem exec_collectiveTurn (entry : Nat) (s : State) : exec (.collectiveTurn entry) s = execCollectiveTurn entry s := rfl
theorem exec_collectiveAnnounce (entry slot : Nat) (ann : Announce) (s : State) : exec (.collectiveAnnounce entry slot ann) s = execCollectiveAnnounce entry slot ann s := rfl
theorem exec_baleLand (entry bale : Nat) (ext : List Sys2Proof.SlotData) (s : State) : exec (.baleLand entry bale ext) s = execBaleLand entry bale ext s := rfl
theorem exec_withdrawNotice (entry peer : Nat) (s : State) : exec (.withdrawNotice entry peer) s = execWithdrawNotice entry peer s := rfl
theorem exec_collectiveDeadline (entry slot : Nat) (s : State) : exec (.collectiveDeadline entry slot) s = execCollectiveDeadline entry slot s := rfl
theorem exec_collectiveComplete (entry : Nat) (s : State) : exec (.collectiveComplete entry) s = execCollectiveComplete entry s := rfl
theorem exec_nodeAccept (die : Nat) (s : State) : exec (.nodeAccept die) s = execNodeAccept die s := rfl
theorem exec_predecessorComplete (node pred : Nat) (s : State) : exec (.predecessorComplete node pred) s = execPredecessorComplete node pred s := rfl
theorem exec_leaseGrant (node : Nat) (s : State) : exec (.leaseGrant node) s = execLeaseGrant node s := rfl
theorem exec_hostSignal (node : Nat) (s : State) : exec (.hostSignal node) s = execHostSignal node s := rfl
theorem exec_blockPlacement (die : Nat) (s : State) : exec (.blockPlacement die) s = execBlockPlacement die s := rfl
theorem exec_quantumExpiry (die bid : Nat) (s : State) : exec (.quantumExpiry die bid) s = execQuantumExpiry die bid s := rfl
theorem exec_dormantSave (bid : Nat) (s : State) : exec (.dormantSave bid) s = execDormantSave bid s := rfl
theorem exec_blockRestore (bid core : Nat) (s : State) : exec (.blockRestore bid core) s = execBlockRestore bid core s := rfl
theorem exec_roundCommit (node : Nat) (s : State) : exec (.roundCommit node) s = execRoundCommit node s := rfl
theorem exec_roundTimeout (node : Nat) (s : State) : exec (.roundTimeout node) s = execRoundTimeout node s := rfl
theorem exec_nodeCompletion (node : Nat) (s : State) : exec (.nodeCompletion node) s = execNodeCompletion node s := rfl
theorem exec_kernelRecordFree (ctx idx : Nat) (s : State) : exec (.kernelRecordFree ctx idx) s = execKernelRecordFree ctx idx s := rfl
theorem exec_layerTurn (die : Nat) (s : State) : exec (.layerTurn die) s = execLayerTurn die s := rfl
theorem exec_layerPageLand (ctx layer page : Nat) (s : State) : exec (.layerPageLand ctx layer page) s = execLayerPageLand ctx layer page s := rfl
theorem exec_evictionComplete (ctx layer page : Nat) (s : State) : exec (.evictionComplete ctx layer page) s = execEvictionComplete ctx layer page s := rfl
theorem exec_ctxstart (die slot : Nat) (value : Dword) (s : State) : exec (.ctxstart die slot value) s = execCtxstart die slot value s := rfl
theorem exec_ctxctlSwapOut (die slot : Nat) (s : State) : exec (.ctxctlSwapOut die slot) s = execCtxctlSwapOut die slot s := rfl
theorem exec_ctxctlSwapIn (die slot : Nat) (s : State) : exec (.ctxctlSwapIn die slot) s = execCtxctlSwapIn die slot s := rfl
theorem exec_ctxctlEnd (die slot : Nat) (s : State) : exec (.ctxctlEnd die slot) s = execCtxctlEnd die slot s := rfl
theorem exec_swapOutSaveDone (ctx : Nat) (s : State) : exec (.swapOutSaveDone ctx) s = execSwapOutSaveDone ctx s := rfl
theorem exec_swapInRestoreDone (ctx : Nat) (s : State) : exec (.swapInRestoreDone ctx) s = execSwapInRestoreDone ctx s := rfl
theorem exec_teardownDone (ctx : Nat) (s : State) : exec (.teardownDone ctx) s = execTeardownDone ctx s := rfl
theorem exec_bridgeLost (bridge : Nat) (s : State) : exec (.bridgeLost bridge) s = execBridgeLost bridge s := rfl
theorem exec_dieLost (die : Nat) (s : State) : exec (.dieLost die) s = execDieLost die s := rfl
theorem exec_wrapComplete (s : State) : exec (.wrapComplete) s = execWrapComplete s := rfl
theorem exec_flitReceive (port : Nat) (flit : List Byte) (s : State) : exec (.flitReceive port flit) s = execFlitReceive port flit s := rfl
theorem exec_flitNak (port seq : Nat) (s : State) : exec (.flitNak port seq) s = execFlitNak port seq s := rfl
theorem exec_packetRequest (port : Nat) (pkt : Packet) (s : State) : exec (.packetRequest port pkt) s = execPacketRequest port pkt s := rfl
theorem exec_packetReply (port : Nat) (pkt : Packet) (s : State) : exec (.packetReply port pkt) s = execPacketReply port pkt s := rfl
theorem exec_replayTimeout (die peer : Nat) (s : State) : exec (.replayTimeout die peer) s = execReplayTimeout die peer s := rfl
theorem exec_switchDownNotice (port peer : Nat) (whole : Bool) (s : State) : exec (.switchDownNotice port peer whole) s = execSwitchDownNotice port peer whole s := rfl
theorem exec_petixaRetrain (port width : Nat) (s : State) : exec (.petixaRetrain port width) s = execPetixaRetrain port width s := rfl
theorem exec_coldReset (s : State) : exec (.coldReset) s = execColdReset s := rfl
theorem exec_warmReset (s : State) : exec (.warmReset) s = execWarmReset s := rfl
theorem exec_port1Reset (s : State) : exec (.port1Reset) s = execPort1Reset s := rfl
theorem exec_acceptWrite (port : Nat) (value : Dword) (s : State) : exec (.acceptWrite port value) s = execAcceptWrite port value s := rfl
theorem exec_pwrWrite (port : Nat) (value : Dword) (s : State) : exec (.pwrWrite port value) s = execPwrWrite port value s := rfl
theorem exec_bayMapWrite (die word : Nat) (value : Dword) (s : State) : exec (.bayMapWrite die word value) s = execBayMapWrite die word value s := rfl
theorem exec_lpoolWrite (die : Nat) (value : Dword) (s : State) : exec (.lpoolWrite die value) s = execLpoolWrite die value s := rfl
theorem exec_configRegisterWrite (port off : Nat) (data : List Byte) (s : State) : exec (.configRegisterWrite port off data) s = execConfigRegisterWrite port off data s := rfl
theorem exec_memrd (port : Nat) (tag : Byte) (s : State) : exec (.memrd port tag) s = execMemrd port tag s := rfl
theorem exec_memwr (port : Nat) (tag : Byte) (s : State) : exec (.memwr port tag) s = execMemwr port tag s := rfl
theorem exec_cfgrd (port : Nat) (tag : Byte) (s : State) : exec (.cfgrd port tag) s = execCfgrd port tag s := rfl
theorem exec_imgload (port : Nat) (tag : Byte) (s : State) : exec (.imgload port tag) s = execImgload port tag s := rfl
theorem exec_imgcommit (port : Nat) (tag : Byte) (s : State) : exec (.imgcommit port tag) s = execImgcommit port tag s := rfl
theorem exec_attest (port : Nat) (tag : Byte) (s : State) : exec (.attest port tag) s = execAttest port tag s := rfl
theorem exec_cert (port : Nat) (tag : Byte) (s : State) : exec (.cert port tag) s = execCert port tag s := rfl
theorem exec_freeze (port : Nat) (tag : Byte) (s : State) : exec (.freeze port tag) s = execFreeze port tag s := rfl
theorem exec_reset (port : Nat) (tag : Byte) (s : State) : exec (.reset port tag) s = execReset port tag s := rfl
theorem exec_bar2Write (port off : Nat) (data : List Byte) (s : State) : exec (.bar2Write port off data) s = execBar2Write port off data s := rfl
theorem exec_bar2Read (port off n : Nat) (s : State) : exec (.bar2Read port off n) s = execBar2Read port off n s := rfl
theorem exec_hostCxlSnoop (port addr : Nat) (s : State) : exec (.hostCxlSnoop port addr) s = execHostCxlSnoop port addr s := rfl
theorem exec_freezeN (s : State) : exec (.freezeN) s = execFreezeN s := rfl
theorem exec_tapReadout (die : Nat) (inst : Instrument) (s : State) : exec (.tapReadout die inst) s = execTapReadout die inst s := rfl
theorem exec_powerStateEntry (s : State) : exec (.powerStateEntry) s = execPowerStateEntry s := rfl
theorem exec_powerWake (s : State) : exec (.powerWake) s = execPowerWake s := rfl
theorem exec_unassignedOpcode (w : Word) (s : State) : exec (.unassignedOpcode w) s = execUnassignedOpcode w s := rfl
theorem exec_fetchFault (cause : Half) (addr : Dword) (s : State) : exec (.fetchFault cause addr) s = execFetchFault cause addr s := rfl
theorem exec_bayRequestArrival (req : Nat) (s : State) : exec (.bayRequestArrival req) s = execBayRequestArrival req s := rfl
theorem exec_powerFailure (flashBytes : Nat) (s : State) : exec (.powerFailure flashBytes) s = execPowerFailure flashBytes s := rfl
theorem exec_throttling (die vector matrix : Nat) (s : State) : exec (.throttling die vector matrix) s = execThrottling die vector matrix s := rfl
theorem exec_correctedEccError (die : Nat) (s : State) : exec (.correctedEccError die) s = execCorrectedEccError die s := rfl

end Sys2Proof.Machine
end

