-- ==== Sys2Proof/Laws/Tab.lean ====
section
/-! SUPPORT. The keyed table and four-lane values: a read after a write, and the rising order that every table operation keeps. -/

namespace Sys2Proof

/-! ### Four lanes -/

@[simp] theorem Quad.get_all {α : Type} (x : α) (i : Nat) : (Quad.all x).get i = x := by
  unfold Quad.all Quad.get; split <;> rfl

theorem Quad.get_ofFn {α : Type} (f : Nat → α) {i : Nat} (h : i < 4) : (Quad.ofFn f).get i = f i := by
  match i, h with
  | 0, _ => rfl
  | 1, _ => rfl
  | 2, _ => rfl
  | 3, _ => rfl

@[simp] theorem Quad.get_map {α β : Type} (f : α → β) (q : Quad α) (i : Nat) : (q.map f).get i = f (q.get i) := by
  unfold Quad.map Quad.get; split <;> rfl

/-! ### Tables -/

@[simp] theorem Tab.get?_nil {α : Type} (k : Nat) : Tab.get? ([] : Tab α) k = none := rfl

theorem Tab.get?_cons {α : Type} (j : Nat) (x : α) (t : Tab α) (k : Nat) :
    Tab.get? ((j, x) :: t) k = if j = k then some x else Tab.get? t k := rfl

/-- A read after a write: the record under the written number, and every other record as before. -/
theorem Tab.get?_put {α : Type} (t : Tab α) (k j : Nat) (x : α) :
    (Tab.put t k x).get? j = if k = j then some x else t.get? j := by
  induction t with
  | nil => rfl
  | cons p t ih =>
    obtain ⟨i, y⟩ := p
    unfold Tab.put
    by_cases h1 : k < i
    · rw [if_pos h1, Tab.get?_cons]
    · rw [if_neg h1]
      by_cases h2 : k = i
      · rw [if_pos h2, Tab.get?_cons, Tab.get?_cons, ← h2]
        by_cases h3 : k = j
        · rw [if_pos h3, if_pos h3]
        · rw [if_neg h3, if_neg h3, if_neg h3]
      · rw [if_neg h2, Tab.get?_cons, Tab.get?_cons, ih]
        by_cases h3 : i = j
        · rw [if_pos h3, if_pos h3, if_neg (by omega)]
        · rw [if_neg h3, if_neg h3]

@[simp] theorem Tab.get?_put_self {α : Type} (t : Tab α) (k : Nat) (x : α) : (Tab.put t k x).get? k = some x := by
  rw [Tab.get?_put, if_pos rfl]

theorem Tab.get?_put_ne {α : Type} (t : Tab α) {k j : Nat} (x : α) (h : k ≠ j) : (Tab.put t k x).get? j = t.get? j := by
  rw [Tab.get?_put, if_neg h]

/-- A read after a removal. -/
theorem Tab.get?_erase {α : Type} (t : Tab α) (k j : Nat) : (Tab.erase t k).get? j = if k = j then none else t.get? j := by
  induction t with
  | nil => unfold Tab.erase; split <;> rfl
  | cons p t ih =>
    obtain ⟨i, y⟩ := p
    unfold Tab.erase
    by_cases h1 : i = k
    · rw [if_pos h1, ih, Tab.get?_cons, h1]
      by_cases h3 : k = j
      · rw [if_pos h3, if_pos h3]
      · rw [if_neg h3, if_neg h3, if_neg h3]
    · rw [if_neg h1, Tab.get?_cons, Tab.get?_cons, ih]
      by_cases h3 : i = j
      · rw [if_pos h3, if_pos h3, if_neg (by omega)]
      · rw [if_neg h3, if_neg h3]

/-- Every number that a table lists. -/
def Tab.keys {α : Type} (t : Tab α) : List Nat := t.map (fun p => p.1)

/-- The numbers of a table rise strictly: as a statement about its list of numbers. -/
theorem Tab.sorted_iff {α : Type} (t : Tab α) : t.sorted = true ↔ List.Pairwise (· < ·) t.keys := by
  induction t with
  | nil => simp [Tab.sorted, Tab.keys]
  | cons p t ih =>
    cases t with
    | nil => simp [Tab.sorted, Tab.keys]
    | cons q t =>
      obtain ⟨i, y⟩ := p
      obtain ⟨j, z⟩ := q
      simp only [Tab.sorted, Bool.and_eq_true, decide_eq_true_eq, ih]
      simp only [Tab.keys, List.map_cons, List.pairwise_cons, List.mem_cons, List.mem_map]
      constructor
      · rintro ⟨h, h1, h2⟩
        refine ⟨?_, h1, h2⟩
        rintro a (rfl | ⟨b, hb, rfl⟩)
        · exact h
        · exact Nat.lt_trans h (h1 _ ⟨b, hb, rfl⟩)
      · rintro ⟨h, h1, h2⟩
        exact ⟨h _ (Or.inl rfl), h1, h2⟩

theorem Tab.mem_keys_put {α : Type} (t : Tab α) (k : Nat) (x : α) (i : Nat) (h : i ∈ (Tab.put t k x).keys) :
    i = k ∨ i ∈ t.keys := by
  induction t with
  | nil => simpa [Tab.put, Tab.keys] using h
  | cons p t ih =>
    obtain ⟨j, y⟩ := p
    unfold Tab.put at h
    by_cases h1 : k < j
    · rw [if_pos h1] at h; simpa [Tab.keys] using h
    · rw [if_neg h1] at h
      by_cases h2 : k = j
      · rw [if_pos h2] at h; simp only [Tab.keys, List.map_cons, List.mem_cons] at h ⊢
        rcases h with h | h
        · exact Or.inl h
        · exact Or.inr (Or.inr h)
      · rw [if_neg h2] at h
        simp only [Tab.keys, List.map_cons, List.mem_cons] at h ⊢
        rcases h with h | h
        · exact Or.inr (Or.inl h)
        · rcases ih h with h | h
          · exact Or.inl h
          · exact Or.inr (Or.inr h)

/-- A write keeps the rising order. -/
theorem Tab.sorted_put {α : Type} (t : Tab α) (k : Nat) (x : α) (h : t.sorted = true) : (Tab.put t k x).sorted = true := by
  rw [Tab.sorted_iff] at *
  induction t with
  | nil => simp [Tab.put, Tab.keys]
  | cons p t ih =>
    obtain ⟨j, y⟩ := p
    have hj : ∀ a ∈ Tab.keys t, j < a := by
      simp only [Tab.keys, List.map_cons, List.pairwise_cons] at h; exact h.1
    have ht : List.Pairwise (· < ·) (Tab.keys t) := by
      simp only [Tab.keys, List.map_cons, List.pairwise_cons] at h; exact h.2
    unfold Tab.put
    by_cases h1 : k < j
    · rw [if_pos h1]
      simp only [Tab.keys, List.map_cons, List.pairwise_cons, List.mem_cons]
      refine ⟨?_, hj, ht⟩
      rintro a (rfl | ha)
      · exact h1
      · exact Nat.lt_trans h1 (hj a ha)
    · rw [if_neg h1]
      by_cases h2 : k = j
      · rw [if_pos h2]
        simp only [Tab.keys, List.map_cons, List.pairwise_cons]
        exact ⟨h2 ▸ hj, ht⟩
      · rw [if_neg h2]
        have h3 := ih ht
        simp only [Tab.keys, List.map_cons, List.pairwise_cons]
        refine ⟨?_, h3⟩
        intro a ha
        rcases Tab.mem_keys_put t k x a ha with rfl | ha
        · omega
        · exact hj a ha

theorem Tab.mem_of_mem_erase {α : Type} (t : Tab α) (k : Nat) (p : Nat × α) (h : p ∈ Tab.erase t k) : p ∈ t := by
  induction t with
  | nil => simp [Tab.erase] at h
  | cons q t ih =>
    obtain ⟨j, y⟩ := q
    unfold Tab.erase at h
    by_cases h1 : j = k
    · rw [if_pos h1] at h; exact List.mem_cons_of_mem _ (ih h)
    · rw [if_neg h1] at h
      rcases List.mem_cons.mp h with h | h
      · exact h ▸ List.mem_cons_self
      · exact List.mem_cons_of_mem _ (ih h)

/-- A removal keeps the rising order. -/
theorem Tab.sorted_erase {α : Type} (t : Tab α) (k : Nat) (h : t.sorted = true) : (Tab.erase t k).sorted = true := by
  rw [Tab.sorted_iff] at *
  induction t with
  | nil => simp [Tab.erase, Tab.keys]
  | cons p t ih =>
    obtain ⟨j, y⟩ := p
    have hj : ∀ a ∈ Tab.keys t, j < a := by
      simp only [Tab.keys, List.map_cons, List.pairwise_cons] at h; exact h.1
    have ht : List.Pairwise (· < ·) (Tab.keys t) := by
      simp only [Tab.keys, List.map_cons, List.pairwise_cons] at h; exact h.2
    unfold Tab.erase
    by_cases h1 : j = k
    · rw [if_pos h1]; exact ih ht
    · rw [if_neg h1]
      simp only [Tab.keys, List.map_cons, List.pairwise_cons]
      refine ⟨?_, ih ht⟩
      intro a ha
      simp only [List.mem_map] at ha
      obtain ⟨q, hq, rfl⟩ := ha
      exact hj _ (by simp only [Tab.keys, List.mem_map]; exact ⟨q, Tab.mem_of_mem_erase t k q hq, rfl⟩)

/-- What a table lists after a write is what was written or was listed before. -/
theorem Tab.mem_put {α : Type} (t : Tab α) (k : Nat) (x : α) (p : Nat × α) (h : p ∈ Tab.put t k x) : p = (k, x) ∨ p ∈ t := by
  induction t with
  | nil => simpa [Tab.put] using h
  | cons q t ih =>
    obtain ⟨j, y⟩ := q
    unfold Tab.put at h
    by_cases h1 : k < j
    · rw [if_pos h1] at h; simpa using h
    · rw [if_neg h1] at h
      by_cases h2 : k = j
      · rw [if_pos h2] at h
        rcases List.mem_cons.mp h with h | h
        · exact Or.inl h
        · exact Or.inr (List.mem_cons_of_mem _ h)
      · rw [if_neg h2] at h
        rcases List.mem_cons.mp h with h | h
        · exact Or.inr (h ▸ List.mem_cons_self)
        · rcases ih h with h | h
          · exact Or.inl h
          · exact Or.inr (List.mem_cons_of_mem _ h)

end Sys2Proof
end

