-- ==== Sys2Proof/Laws/Memory.lean ====
section
/-! SUPPORT. Device memory and the scratchpad: a read after a write, and the canonical form that every memory operation keeps. -/

namespace Sys2Proof.Machine

theorem Memory.wf_iff (m : Memory) : m.wf = true ↔ Tab.sorted m = true ∧ ∀ c ∈ m, c.2 ≠ 0 := by
  simp [Memory.wf, List.all_eq_true]

/-- Memory with nothing listed is in canonical form. -/
@[simp] theorem Memory.wf_nil : Memory.wf ([] : Memory) = true := rfl

/-- A write keeps the canonical form. -/
theorem Memory.wf_write (m : Memory) (a : Nat) (x : Byte) (h : m.wf = true) : (m.write a x).wf = true := by
  rw [Memory.wf_iff] at *
  unfold Memory.write
  by_cases hx : x = 0
  · rw [if_pos hx]
    exact ⟨Tab.sorted_erase m a h.1, fun c hc => h.2 c (Tab.mem_of_mem_erase m a c hc)⟩
  · rw [if_neg hx]
    refine ⟨Tab.sorted_put m a x h.1, fun c hc => ?_⟩
    rcases Tab.mem_put m a x c hc with rfl | hc
    · exact hx
    · exact h.2 c hc

/-- A write of bytes keeps the canonical form. -/
theorem Memory.wf_writeList (m : Memory) (a : Nat) (xs : List Byte) (h : m.wf = true) : (m.writeList a xs).wf = true := by
  induction xs generalizing m a with
  | nil => exact h
  | cons x xs ih => exact ih (m.write a x) (a + 1) (Memory.wf_write m a x h)

/-- A read after a write of one byte. -/
theorem Memory.read_write (m : Memory) (a b : Nat) (x : Byte) : (m.write a x).read b = if a = b then x else m.read b := by
  unfold Memory.write Memory.read
  by_cases hx : x = 0
  · rw [if_pos hx, Tab.get?_erase]
    by_cases h : a = b
    · rw [if_pos h, if_pos h, hx]; rfl
    · rw [if_neg h, if_neg h]
  · rw [if_neg hx, Tab.get?_put]
    by_cases h : a = b
    · rw [if_pos h, if_pos h]; rfl
    · rw [if_neg h, if_neg h]

/-- A write of bytes leaves every byte below the first alone. -/
theorem Memory.read_writeList_below (m : Memory) (a b : Nat) (xs : List Byte) (h : b < a) : (m.writeList a xs).read b = m.read b := by
  induction xs generalizing m a with
  | nil => rfl
  | cons x xs ih =>
    show (Memory.writeList (m.write a x) (a + 1) xs).read b = _
    rw [ih (m.write a x) (a + 1) (by omega), Memory.read_write, if_neg (by omega)]

/-- A write of bytes leaves every byte outside them alone. -/
theorem Memory.read_writeList_outside (m : Memory) (a b : Nat) (xs : List Byte) (h : b < a ∨ a + xs.length ≤ b) :
    (m.writeList a xs).read b = m.read b := by
  induction xs generalizing m a with
  | nil => rfl
  | cons x xs ih =>
    simp only [List.length_cons] at h
    show (Memory.writeList (m.write a x) (a + 1) xs).read b = _
    rw [ih (m.write a x) (a + 1) (by omega), Memory.read_write, if_neg (by omega)]

/-- A read of a byte that a write of bytes covers gives the byte written. -/
theorem Memory.read_writeList_inside (m : Memory) (a i : Nat) (xs : List Byte) (h : i < xs.length) :
    (m.writeList a xs).read (a + i) = xs.getD i 0 := by
  induction xs generalizing m a i with
  | nil => simp at h
  | cons x xs ih =>
    show (Memory.writeList (m.write a x) (a + 1) xs).read (a + i) = _
    cases i with
    | zero =>
      rw [Memory.read_writeList_below _ _ _ _ (by omega), Memory.read_write, if_pos (by omega)]; rfl
    | succ i =>
      simp only [List.length_cons] at h
      have := ih (m.write a x) (a + 1) i (by omega)
      rw [show a + (i + 1) = a + 1 + i by omega, this]; rfl

@[simp] theorem Memory.readList_length (m : Memory) (a n : Nat) : (m.readList a n).length = n := by
  induction n generalizing a with
  | zero => rfl
  | succ n ih => simp [Memory.readList, ih]

/-- The bytes of a read, one by one. -/
theorem Memory.readList_getD (m : Memory) (a n i : Nat) (h : i < n) : (m.readList a n).getD i 0 = m.read (a + i) := by
  induction n generalizing a i with
  | zero => omega
  | succ n ih =>
    cases i with
    | zero => rfl
    | succ i =>
      show (Memory.readList m (a + 1) n).getD i 0 = _
      rw [ih (a + 1) i (by omega), show a + 1 + i = a + (i + 1) by omega]

/-- What was just written is what a read of the same bytes gives. -/
theorem Memory.readList_writeList (m : Memory) (a : Nat) (xs : List Byte) : (m.writeList a xs).readList a xs.length = xs := by
  apply List.ext_getElem
  · simp
  · intro i h1 h2
    have h3 := Memory.readList_getD (m.writeList a xs) a xs.length i h2
    rw [Memory.read_writeList_inside m a i xs h2] at h3
    simpa [List.getD_eq_getElem?_getD, h1, h2] using h3

/-- A write into a die's memory keeps the canonical form. -/
theorem State.physWrite_wf (s : State) (die pa : Nat) (data : List Byte) (h : s.mem.wf = true) :
    (s.physWrite die pa data).mem.wf = true := Memory.wf_writeList s.mem _ data h

end Sys2Proof.Machine
end

