-- ==== Sys2Proof/Laws/State.lean ====
section
/-! SUPPORT. The named updates of the state: for each, every field that it leaves alone. -/

namespace Sys2Proof.Machine

/-! ### `State.modDie` changes `dies` only -/

@[simp] theorem State.modDie_tick (s : State) (d : Nat) (f : Die → Die) : (s.modDie d f).tick = s.tick := rfl
@[simp] theorem State.modDie_schedule (s : State) (d : Nat) (f : Die → Die) : (s.modDie d f).schedule = s.schedule := rfl
@[simp] theorem State.modDie_cur (s : State) (d : Nat) (f : Die → Die) : (s.modDie d f).cur = s.cur := rfl
@[simp] theorem State.modDie_issueNo (s : State) (d : Nat) (f : Die → Die) : (s.modDie d f).issueNo = s.issueNo := rfl
@[simp] theorem State.modDie_nextId (s : State) (d : Nat) (f : Die → Die) : (s.modDie d f).nextId = s.nextId := rfl
@[simp] theorem State.modDie_fuses (s : State) (d : Nat) (f : Die → Die) : (s.modDie d f).fuses = s.fuses := rfl
@[simp] theorem State.modDie_mem (s : State) (d : Nat) (f : Die → Die) : (s.modDie d f).mem = s.mem := rfl
@[simp] theorem State.modDie_poison (s : State) (d : Nat) (f : Die → Die) : (s.modDie d f).poison = s.poison := rfl
@[simp] theorem State.modDie_blocks (s : State) (d : Nat) (f : Die → Die) : (s.modDie d f).blocks = s.blocks := rfl
@[simp] theorem State.modDie_fills (s : State) (d : Nat) (f : Die → Die) : (s.modDie d f).fills = s.fills := rfl
@[simp] theorem State.modDie_issues (s : State) (d : Nat) (f : Die → Die) : (s.modDie d f).issues = s.issues := rfl
@[simp] theorem State.modDie_reqs (s : State) (d : Nat) (f : Die → Die) : (s.modDie d f).reqs = s.reqs := rfl
@[simp] theorem State.modDie_msgs (s : State) (d : Nat) (f : Die → Die) : (s.modDie d f).msgs = s.msgs := rfl
@[simp] theorem State.modDie_entries (s : State) (d : Nat) (f : Die → Die) : (s.modDie d f).entries = s.entries := rfl
@[simp] theorem State.modDie_nodes (s : State) (d : Nat) (f : Die → Die) : (s.modDie d f).nodes = s.nodes := rfl
@[simp] theorem State.modDie_ctxs (s : State) (d : Nat) (f : Die → Die) : (s.modDie d f).ctxs = s.ctxs := rfl
@[simp] theorem State.modDie_additions (s : State) (d : Nat) (f : Die → Die) : (s.modDie d f).additions = s.additions := rfl
@[simp] theorem State.modDie_pairs (s : State) (d : Nat) (f : Die → Die) : (s.modDie d f).pairs = s.pairs := rfl
@[simp] theorem State.modDie_collOut (s : State) (d : Nat) (f : Die → Die) : (s.modDie d f).collOut = s.collOut := rfl
@[simp] theorem State.modDie_links (s : State) (d : Nat) (f : Die → Die) : (s.modDie d f).links = s.links := rfl
@[simp] theorem State.modDie_ports (s : State) (d : Nat) (f : Die → Die) : (s.modDie d f).ports = s.ports := rfl
@[simp] theorem State.modDie_ring (s : State) (d : Nat) (f : Die → Die) : (s.modDie d f).ring = s.ring := rfl
@[simp] theorem State.modDie_offer (s : State) (d : Nat) (f : Die → Die) : (s.modDie d f).offer = s.offer := rfl
@[simp] theorem State.modDie_accept (s : State) (d : Nat) (f : Die → Die) : (s.modDie d f).accept = s.accept := rfl
@[simp] theorem State.modDie_acceptLow (s : State) (d : Nat) (f : Die → Die) : (s.modDie d f).acceptLow = s.acceptLow := rfl
@[simp] theorem State.modDie_accepted (s : State) (d : Nat) (f : Die → Die) : (s.modDie d f).accepted = s.accepted := rfl
@[simp] theorem State.modDie_pmax (s : State) (d : Nat) (f : Die → Die) : (s.modDie d f).pmax = s.pmax := rfl
@[simp] theorem State.modDie_tol (s : State) (d : Nat) (f : Die → Die) : (s.modDie d f).tol = s.tol := rfl
@[simp] theorem State.modDie_pstate (s : State) (d : Nat) (f : Die → Die) : (s.modDie d f).pstate = s.pstate := rfl
@[simp] theorem State.modDie_pchanges (s : State) (d : Nat) (f : Die → Die) : (s.modDie d f).pchanges = s.pchanges := rfl
@[simp] theorem State.modDie_frozen (s : State) (d : Nat) (f : Die → Die) : (s.modDie d f).frozen = s.frozen := rfl
@[simp] theorem State.modDie_flash (s : State) (d : Nat) (f : Die → Die) : (s.modDie d f).flash = s.flash := rfl
@[simp] theorem State.modDie_staging (s : State) (d : Nat) (f : Die → Die) : (s.modDie d f).staging = s.staging := rfl
@[simp] theorem State.modDie_measurement (s : State) (d : Nat) (f : Die → Die) : (s.modDie d f).measurement = s.measurement := rfl
@[simp] theorem State.modDie_svn (s : State) (d : Nat) (f : Die → Die) : (s.modDie d f).svn = s.svn := rfl
@[simp] theorem State.modDie_hostOut (s : State) (d : Nat) (f : Die → Die) : (s.modDie d f).hostOut = s.hostOut := rfl
@[simp] theorem State.modDie_hostEp (s : State) (d : Nat) (f : Die → Die) : (s.modDie d f).hostEp = s.hostEp := rfl
@[simp] theorem State.modDie_tapOut (s : State) (d : Nat) (f : Die → Die) : (s.modDie d f).tapOut = s.tapOut := rfl
@[simp] theorem State.modDie_linkOut (s : State) (d : Nat) (f : Die → Die) : (s.modDie d f).linkOut = s.linkOut := rfl

/-! ### `State.modCore` changes `dies` only -/

@[simp] theorem State.modCore_tick (s : State) (d c : Nat) (f : Core → Core) : (s.modCore d c f).tick = s.tick := rfl
@[simp] theorem State.modCore_schedule (s : State) (d c : Nat) (f : Core → Core) : (s.modCore d c f).schedule = s.schedule := rfl
@[simp] theorem State.modCore_cur (s : State) (d c : Nat) (f : Core → Core) : (s.modCore d c f).cur = s.cur := rfl
@[simp] theorem State.modCore_issueNo (s : State) (d c : Nat) (f : Core → Core) : (s.modCore d c f).issueNo = s.issueNo := rfl
@[simp] theorem State.modCore_nextId (s : State) (d c : Nat) (f : Core → Core) : (s.modCore d c f).nextId = s.nextId := rfl
@[simp] theorem State.modCore_fuses (s : State) (d c : Nat) (f : Core → Core) : (s.modCore d c f).fuses = s.fuses := rfl
@[simp] theorem State.modCore_mem (s : State) (d c : Nat) (f : Core → Core) : (s.modCore d c f).mem = s.mem := rfl
@[simp] theorem State.modCore_poison (s : State) (d c : Nat) (f : Core → Core) : (s.modCore d c f).poison = s.poison := rfl
@[simp] theorem State.modCore_blocks (s : State) (d c : Nat) (f : Core → Core) : (s.modCore d c f).blocks = s.blocks := rfl
@[simp] theorem State.modCore_fills (s : State) (d c : Nat) (f : Core → Core) : (s.modCore d c f).fills = s.fills := rfl
@[simp] theorem State.modCore_issues (s : State) (d c : Nat) (f : Core → Core) : (s.modCore d c f).issues = s.issues := rfl
@[simp] theorem State.modCore_reqs (s : State) (d c : Nat) (f : Core → Core) : (s.modCore d c f).reqs = s.reqs := rfl
@[simp] theorem State.modCore_msgs (s : State) (d c : Nat) (f : Core → Core) : (s.modCore d c f).msgs = s.msgs := rfl
@[simp] theorem State.modCore_entries (s : State) (d c : Nat) (f : Core → Core) : (s.modCore d c f).entries = s.entries := rfl
@[simp] theorem State.modCore_nodes (s : State) (d c : Nat) (f : Core → Core) : (s.modCore d c f).nodes = s.nodes := rfl
@[simp] theorem State.modCore_ctxs (s : State) (d c : Nat) (f : Core → Core) : (s.modCore d c f).ctxs = s.ctxs := rfl
@[simp] theorem State.modCore_additions (s : State) (d c : Nat) (f : Core → Core) : (s.modCore d c f).additions = s.additions := rfl
@[simp] theorem State.modCore_pairs (s : State) (d c : Nat) (f : Core → Core) : (s.modCore d c f).pairs = s.pairs := rfl
@[simp] theorem State.modCore_collOut (s : State) (d c : Nat) (f : Core → Core) : (s.modCore d c f).collOut = s.collOut := rfl
@[simp] theorem State.modCore_links (s : State) (d c : Nat) (f : Core → Core) : (s.modCore d c f).links = s.links := rfl
@[simp] theorem State.modCore_ports (s : State) (d c : Nat) (f : Core → Core) : (s.modCore d c f).ports = s.ports := rfl
@[simp] theorem State.modCore_ring (s : State) (d c : Nat) (f : Core → Core) : (s.modCore d c f).ring = s.ring := rfl
@[simp] theorem State.modCore_offer (s : State) (d c : Nat) (f : Core → Core) : (s.modCore d c f).offer = s.offer := rfl
@[simp] theorem State.modCore_accept (s : State) (d c : Nat) (f : Core → Core) : (s.modCore d c f).accept = s.accept := rfl
@[simp] theorem State.modCore_acceptLow (s : State) (d c : Nat) (f : Core → Core) : (s.modCore d c f).acceptLow = s.acceptLow := rfl
@[simp] theorem State.modCore_accepted (s : State) (d c : Nat) (f : Core → Core) : (s.modCore d c f).accepted = s.accepted := rfl
@[simp] theorem State.modCore_pmax (s : State) (d c : Nat) (f : Core → Core) : (s.modCore d c f).pmax = s.pmax := rfl
@[simp] theorem State.modCore_tol (s : State) (d c : Nat) (f : Core → Core) : (s.modCore d c f).tol = s.tol := rfl
@[simp] theorem State.modCore_pstate (s : State) (d c : Nat) (f : Core → Core) : (s.modCore d c f).pstate = s.pstate := rfl
@[simp] theorem State.modCore_pchanges (s : State) (d c : Nat) (f : Core → Core) : (s.modCore d c f).pchanges = s.pchanges := rfl
@[simp] theorem State.modCore_frozen (s : State) (d c : Nat) (f : Core → Core) : (s.modCore d c f).frozen = s.frozen := rfl
@[simp] theorem State.modCore_flash (s : State) (d c : Nat) (f : Core → Core) : (s.modCore d c f).flash = s.flash := rfl
@[simp] theorem State.modCore_staging (s : State) (d c : Nat) (f : Core → Core) : (s.modCore d c f).staging = s.staging := rfl
@[simp] theorem State.modCore_measurement (s : State) (d c : Nat) (f : Core → Core) : (s.modCore d c f).measurement = s.measurement := rfl
@[simp] theorem State.modCore_svn (s : State) (d c : Nat) (f : Core → Core) : (s.modCore d c f).svn = s.svn := rfl
@[simp] theorem State.modCore_hostOut (s : State) (d c : Nat) (f : Core → Core) : (s.modCore d c f).hostOut = s.hostOut := rfl
@[simp] theorem State.modCore_hostEp (s : State) (d c : Nat) (f : Core → Core) : (s.modCore d c f).hostEp = s.hostEp := rfl
@[simp] theorem State.modCore_tapOut (s : State) (d c : Nat) (f : Core → Core) : (s.modCore d c f).tapOut = s.tapOut := rfl
@[simp] theorem State.modCore_linkOut (s : State) (d c : Nat) (f : Core → Core) : (s.modCore d c f).linkOut = s.linkOut := rfl

/-! ### `State.modPort` changes `ports` only -/

@[simp] theorem State.modPort_tick (s : State) (p : Nat) (f : HostPort → HostPort) : (s.modPort p f).tick = s.tick := rfl
@[simp] theorem State.modPort_schedule (s : State) (p : Nat) (f : HostPort → HostPort) : (s.modPort p f).schedule = s.schedule := rfl
@[simp] theorem State.modPort_cur (s : State) (p : Nat) (f : HostPort → HostPort) : (s.modPort p f).cur = s.cur := rfl
@[simp] theorem State.modPort_issueNo (s : State) (p : Nat) (f : HostPort → HostPort) : (s.modPort p f).issueNo = s.issueNo := rfl
@[simp] theorem State.modPort_nextId (s : State) (p : Nat) (f : HostPort → HostPort) : (s.modPort p f).nextId = s.nextId := rfl
@[simp] theorem State.modPort_fuses (s : State) (p : Nat) (f : HostPort → HostPort) : (s.modPort p f).fuses = s.fuses := rfl
@[simp] theorem State.modPort_mem (s : State) (p : Nat) (f : HostPort → HostPort) : (s.modPort p f).mem = s.mem := rfl
@[simp] theorem State.modPort_poison (s : State) (p : Nat) (f : HostPort → HostPort) : (s.modPort p f).poison = s.poison := rfl
@[simp] theorem State.modPort_dies (s : State) (p : Nat) (f : HostPort → HostPort) : (s.modPort p f).dies = s.dies := rfl
@[simp] theorem State.modPort_blocks (s : State) (p : Nat) (f : HostPort → HostPort) : (s.modPort p f).blocks = s.blocks := rfl
@[simp] theorem State.modPort_fills (s : State) (p : Nat) (f : HostPort → HostPort) : (s.modPort p f).fills = s.fills := rfl
@[simp] theorem State.modPort_issues (s : State) (p : Nat) (f : HostPort → HostPort) : (s.modPort p f).issues = s.issues := rfl
@[simp] theorem State.modPort_reqs (s : State) (p : Nat) (f : HostPort → HostPort) : (s.modPort p f).reqs = s.reqs := rfl
@[simp] theorem State.modPort_msgs (s : State) (p : Nat) (f : HostPort → HostPort) : (s.modPort p f).msgs = s.msgs := rfl
@[simp] theorem State.modPort_entries (s : State) (p : Nat) (f : HostPort → HostPort) : (s.modPort p f).entries = s.entries := rfl
@[simp] theorem State.modPort_nodes (s : State) (p : Nat) (f : HostPort → HostPort) : (s.modPort p f).nodes = s.nodes := rfl
@[simp] theorem State.modPort_ctxs (s : State) (p : Nat) (f : HostPort → HostPort) : (s.modPort p f).ctxs = s.ctxs := rfl
@[simp] theorem State.modPort_additions (s : State) (p : Nat) (f : HostPort → HostPort) : (s.modPort p f).additions = s.additions := rfl
@[simp] theorem State.modPort_pairs (s : State) (p : Nat) (f : HostPort → HostPort) : (s.modPort p f).pairs = s.pairs := rfl
@[simp] theorem State.modPort_collOut (s : State) (p : Nat) (f : HostPort → HostPort) : (s.modPort p f).collOut = s.collOut := rfl
@[simp] theorem State.modPort_links (s : State) (p : Nat) (f : HostPort → HostPort) : (s.modPort p f).links = s.links := rfl
@[simp] theorem State.modPort_ring (s : State) (p : Nat) (f : HostPort → HostPort) : (s.modPort p f).ring = s.ring := rfl
@[simp] theorem State.modPort_offer (s : State) (p : Nat) (f : HostPort → HostPort) : (s.modPort p f).offer = s.offer := rfl
@[simp] theorem State.modPort_accept (s : State) (p : Nat) (f : HostPort → HostPort) : (s.modPort p f).accept = s.accept := rfl
@[simp] theorem State.modPort_acceptLow (s : State) (p : Nat) (f : HostPort → HostPort) : (s.modPort p f).acceptLow = s.acceptLow := rfl
@[simp] theorem State.modPort_accepted (s : State) (p : Nat) (f : HostPort → HostPort) : (s.modPort p f).accepted = s.accepted := rfl
@[simp] theorem State.modPort_pmax (s : State) (p : Nat) (f : HostPort → HostPort) : (s.modPort p f).pmax = s.pmax := rfl
@[simp] theorem State.modPort_tol (s : State) (p : Nat) (f : HostPort → HostPort) : (s.modPort p f).tol = s.tol := rfl
@[simp] theorem State.modPort_pstate (s : State) (p : Nat) (f : HostPort → HostPort) : (s.modPort p f).pstate = s.pstate := rfl
@[simp] theorem State.modPort_pchanges (s : State) (p : Nat) (f : HostPort → HostPort) : (s.modPort p f).pchanges = s.pchanges := rfl
@[simp] theorem State.modPort_frozen (s : State) (p : Nat) (f : HostPort → HostPort) : (s.modPort p f).frozen = s.frozen := rfl
@[simp] theorem State.modPort_flash (s : State) (p : Nat) (f : HostPort → HostPort) : (s.modPort p f).flash = s.flash := rfl
@[simp] theorem State.modPort_staging (s : State) (p : Nat) (f : HostPort → HostPort) : (s.modPort p f).staging = s.staging := rfl
@[simp] theorem State.modPort_measurement (s : State) (p : Nat) (f : HostPort → HostPort) : (s.modPort p f).measurement = s.measurement := rfl
@[simp] theorem State.modPort_svn (s : State) (p : Nat) (f : HostPort → HostPort) : (s.modPort p f).svn = s.svn := rfl
@[simp] theorem State.modPort_hostOut (s : State) (p : Nat) (f : HostPort → HostPort) : (s.modPort p f).hostOut = s.hostOut := rfl
@[simp] theorem State.modPort_hostEp (s : State) (p : Nat) (f : HostPort → HostPort) : (s.modPort p f).hostEp = s.hostEp := rfl
@[simp] theorem State.modPort_tapOut (s : State) (p : Nat) (f : HostPort → HostPort) : (s.modPort p f).tapOut = s.tapOut := rfl
@[simp] theorem State.modPort_linkOut (s : State) (p : Nat) (f : HostPort → HostPort) : (s.modPort p f).linkOut = s.linkOut := rfl

/-! ### `State.physWrite` changes `mem` only -/

@[simp] theorem State.physWrite_tick (s : State) (d pa : Nat) (data : List Byte) : (s.physWrite d pa data).tick = s.tick := rfl
@[simp] theorem State.physWrite_schedule (s : State) (d pa : Nat) (data : List Byte) : (s.physWrite d pa data).schedule = s.schedule := rfl
@[simp] theorem State.physWrite_cur (s : State) (d pa : Nat) (data : List Byte) : (s.physWrite d pa data).cur = s.cur := rfl
@[simp] theorem State.physWrite_issueNo (s : State) (d pa : Nat) (data : List Byte) : (s.physWrite d pa data).issueNo = s.issueNo := rfl
@[simp] theorem State.physWrite_nextId (s : State) (d pa : Nat) (data : List Byte) : (s.physWrite d pa data).nextId = s.nextId := rfl
@[simp] theorem State.physWrite_fuses (s : State) (d pa : Nat) (data : List Byte) : (s.physWrite d pa data).fuses = s.fuses := rfl
@[simp] theorem State.physWrite_poison (s : State) (d pa : Nat) (data : List Byte) : (s.physWrite d pa data).poison = s.poison := rfl
@[simp] theorem State.physWrite_dies (s : State) (d pa : Nat) (data : List Byte) : (s.physWrite d pa data).dies = s.dies := rfl
@[simp] theorem State.physWrite_blocks (s : State) (d pa : Nat) (data : List Byte) : (s.physWrite d pa data).blocks = s.blocks := rfl
@[simp] theorem State.physWrite_fills (s : State) (d pa : Nat) (data : List Byte) : (s.physWrite d pa data).fills = s.fills := rfl
@[simp] theorem State.physWrite_issues (s : State) (d pa : Nat) (data : List Byte) : (s.physWrite d pa data).issues = s.issues := rfl
@[simp] theorem State.physWrite_reqs (s : State) (d pa : Nat) (data : List Byte) : (s.physWrite d pa data).reqs = s.reqs := rfl
@[simp] theorem State.physWrite_msgs (s : State) (d pa : Nat) (data : List Byte) : (s.physWrite d pa data).msgs = s.msgs := rfl
@[simp] theorem State.physWrite_entries (s : State) (d pa : Nat) (data : List Byte) : (s.physWrite d pa data).entries = s.entries := rfl
@[simp] theorem State.physWrite_nodes (s : State) (d pa : Nat) (data : List Byte) : (s.physWrite d pa data).nodes = s.nodes := rfl
@[simp] theorem State.physWrite_ctxs (s : State) (d pa : Nat) (data : List Byte) : (s.physWrite d pa data).ctxs = s.ctxs := rfl
@[simp] theorem State.physWrite_additions (s : State) (d pa : Nat) (data : List Byte) : (s.physWrite d pa data).additions = s.additions := rfl
@[simp] theorem State.physWrite_pairs (s : State) (d pa : Nat) (data : List Byte) : (s.physWrite d pa data).pairs = s.pairs := rfl
@[simp] theorem State.physWrite_collOut (s : State) (d pa : Nat) (data : List Byte) : (s.physWrite d pa data).collOut = s.collOut := rfl
@[simp] theorem State.physWrite_links (s : State) (d pa : Nat) (data : List Byte) : (s.physWrite d pa data).links = s.links := rfl
@[simp] theorem State.physWrite_ports (s : State) (d pa : Nat) (data : List Byte) : (s.physWrite d pa data).ports = s.ports := rfl
@[simp] theorem State.physWrite_ring (s : State) (d pa : Nat) (data : List Byte) : (s.physWrite d pa data).ring = s.ring := rfl
@[simp] theorem State.physWrite_offer (s : State) (d pa : Nat) (data : List Byte) : (s.physWrite d pa data).offer = s.offer := rfl
@[simp] theorem State.physWrite_accept (s : State) (d pa : Nat) (data : List Byte) : (s.physWrite d pa data).accept = s.accept := rfl
@[simp] theorem State.physWrite_acceptLow (s : State) (d pa : Nat) (data : List Byte) : (s.physWrite d pa data).acceptLow = s.acceptLow := rfl
@[simp] theorem State.physWrite_accepted (s : State) (d pa : Nat) (data : List Byte) : (s.physWrite d pa data).accepted = s.accepted := rfl
@[simp] theorem State.physWrite_pmax (s : State) (d pa : Nat) (data : List Byte) : (s.physWrite d pa data).pmax = s.pmax := rfl
@[simp] theorem State.physWrite_tol (s : State) (d pa : Nat) (data : List Byte) : (s.physWrite d pa data).tol = s.tol := rfl
@[simp] theorem State.physWrite_pstate (s : State) (d pa : Nat) (data : List Byte) : (s.physWrite d pa data).pstate = s.pstate := rfl
@[simp] theorem State.physWrite_pchanges (s : State) (d pa : Nat) (data : List Byte) : (s.physWrite d pa data).pchanges = s.pchanges := rfl
@[simp] theorem State.physWrite_frozen (s : State) (d pa : Nat) (data : List Byte) : (s.physWrite d pa data).frozen = s.frozen := rfl
@[simp] theorem State.physWrite_flash (s : State) (d pa : Nat) (data : List Byte) : (s.physWrite d pa data).flash = s.flash := rfl
@[simp] theorem State.physWrite_staging (s : State) (d pa : Nat) (data : List Byte) : (s.physWrite d pa data).staging = s.staging := rfl
@[simp] theorem State.physWrite_measurement (s : State) (d pa : Nat) (data : List Byte) : (s.physWrite d pa data).measurement = s.measurement := rfl
@[simp] theorem State.physWrite_svn (s : State) (d pa : Nat) (data : List Byte) : (s.physWrite d pa data).svn = s.svn := rfl
@[simp] theorem State.physWrite_hostOut (s : State) (d pa : Nat) (data : List Byte) : (s.physWrite d pa data).hostOut = s.hostOut := rfl
@[simp] theorem State.physWrite_hostEp (s : State) (d pa : Nat) (data : List Byte) : (s.physWrite d pa data).hostEp = s.hostEp := rfl
@[simp] theorem State.physWrite_tapOut (s : State) (d pa : Nat) (data : List Byte) : (s.physWrite d pa data).tapOut = s.tapOut := rfl
@[simp] theorem State.physWrite_linkOut (s : State) (d pa : Nat) (data : List Byte) : (s.physWrite d pa data).linkOut = s.linkOut := rfl

/-! ### `State.clearPoison` changes `poison` only -/

@[simp] theorem State.clearPoison_tick (s : State) (d pa n : Nat) : (s.clearPoison d pa n).tick = s.tick := rfl
@[simp] theorem State.clearPoison_schedule (s : State) (d pa n : Nat) : (s.clearPoison d pa n).schedule = s.schedule := rfl
@[simp] theorem State.clearPoison_cur (s : State) (d pa n : Nat) : (s.clearPoison d pa n).cur = s.cur := rfl
@[simp] theorem State.clearPoison_issueNo (s : State) (d pa n : Nat) : (s.clearPoison d pa n).issueNo = s.issueNo := rfl
@[simp] theorem State.clearPoison_nextId (s : State) (d pa n : Nat) : (s.clearPoison d pa n).nextId = s.nextId := rfl
@[simp] theorem State.clearPoison_fuses (s : State) (d pa n : Nat) : (s.clearPoison d pa n).fuses = s.fuses := rfl
@[simp] theorem State.clearPoison_mem (s : State) (d pa n : Nat) : (s.clearPoison d pa n).mem = s.mem := rfl
@[simp] theorem State.clearPoison_dies (s : State) (d pa n : Nat) : (s.clearPoison d pa n).dies = s.dies := rfl
@[simp] theorem State.clearPoison_blocks (s : State) (d pa n : Nat) : (s.clearPoison d pa n).blocks = s.blocks := rfl
@[simp] theorem State.clearPoison_fills (s : State) (d pa n : Nat) : (s.clearPoison d pa n).fills = s.fills := rfl
@[simp] theorem State.clearPoison_issues (s : State) (d pa n : Nat) : (s.clearPoison d pa n).issues = s.issues := rfl
@[simp] theorem State.clearPoison_reqs (s : State) (d pa n : Nat) : (s.clearPoison d pa n).reqs = s.reqs := rfl
@[simp] theorem State.clearPoison_msgs (s : State) (d pa n : Nat) : (s.clearPoison d pa n).msgs = s.msgs := rfl
@[simp] theorem State.clearPoison_entries (s : State) (d pa n : Nat) : (s.clearPoison d pa n).entries = s.entries := rfl
@[simp] theorem State.clearPoison_nodes (s : State) (d pa n : Nat) : (s.clearPoison d pa n).nodes = s.nodes := rfl
@[simp] theorem State.clearPoison_ctxs (s : State) (d pa n : Nat) : (s.clearPoison d pa n).ctxs = s.ctxs := rfl
@[simp] theorem State.clearPoison_additions (s : State) (d pa n : Nat) : (s.clearPoison d pa n).additions = s.additions := rfl
@[simp] theorem State.clearPoison_pairs (s : State) (d pa n : Nat) : (s.clearPoison d pa n).pairs = s.pairs := rfl
@[simp] theorem State.clearPoison_collOut (s : State) (d pa n : Nat) : (s.clearPoison d pa n).collOut = s.collOut := rfl
@[simp] theorem State.clearPoison_links (s : State) (d pa n : Nat) : (s.clearPoison d pa n).links = s.links := rfl
@[simp] theorem State.clearPoison_ports (s : State) (d pa n : Nat) : (s.clearPoison d pa n).ports = s.ports := rfl
@[simp] theorem State.clearPoison_ring (s : State) (d pa n : Nat) : (s.clearPoison d pa n).ring = s.ring := rfl
@[simp] theorem State.clearPoison_offer (s : State) (d pa n : Nat) : (s.clearPoison d pa n).offer = s.offer := rfl
@[simp] theorem State.clearPoison_accept (s : State) (d pa n : Nat) : (s.clearPoison d pa n).accept = s.accept := rfl
@[simp] theorem State.clearPoison_acceptLow (s : State) (d pa n : Nat) : (s.clearPoison d pa n).acceptLow = s.acceptLow := rfl
@[simp] theorem State.clearPoison_accepted (s : State) (d pa n : Nat) : (s.clearPoison d pa n).accepted = s.accepted := rfl
@[simp] theorem State.clearPoison_pmax (s : State) (d pa n : Nat) : (s.clearPoison d pa n).pmax = s.pmax := rfl
@[simp] theorem State.clearPoison_tol (s : State) (d pa n : Nat) : (s.clearPoison d pa n).tol = s.tol := rfl
@[simp] theorem State.clearPoison_pstate (s : State) (d pa n : Nat) : (s.clearPoison d pa n).pstate = s.pstate := rfl
@[simp] theorem State.clearPoison_pchanges (s : State) (d pa n : Nat) : (s.clearPoison d pa n).pchanges = s.pchanges := rfl
@[simp] theorem State.clearPoison_frozen (s : State) (d pa n : Nat) : (s.clearPoison d pa n).frozen = s.frozen := rfl
@[simp] theorem State.clearPoison_flash (s : State) (d pa n : Nat) : (s.clearPoison d pa n).flash = s.flash := rfl
@[simp] theorem State.clearPoison_staging (s : State) (d pa n : Nat) : (s.clearPoison d pa n).staging = s.staging := rfl
@[simp] theorem State.clearPoison_measurement (s : State) (d pa n : Nat) : (s.clearPoison d pa n).measurement = s.measurement := rfl
@[simp] theorem State.clearPoison_svn (s : State) (d pa n : Nat) : (s.clearPoison d pa n).svn = s.svn := rfl
@[simp] theorem State.clearPoison_hostOut (s : State) (d pa n : Nat) : (s.clearPoison d pa n).hostOut = s.hostOut := rfl
@[simp] theorem State.clearPoison_hostEp (s : State) (d pa n : Nat) : (s.clearPoison d pa n).hostEp = s.hostEp := rfl
@[simp] theorem State.clearPoison_tapOut (s : State) (d pa n : Nat) : (s.clearPoison d pa n).tapOut = s.tapOut := rfl
@[simp] theorem State.clearPoison_linkOut (s : State) (d pa n : Nat) : (s.clearPoison d pa n).linkOut = s.linkOut := rfl

/-! ### `State.modLine` changes `dies` only -/

@[simp] theorem State.modLine_tick (s : State) (d pa : Nat) (f : BayLine → BayLine) : (s.modLine d pa f).tick = s.tick := rfl
@[simp] theorem State.modLine_schedule (s : State) (d pa : Nat) (f : BayLine → BayLine) : (s.modLine d pa f).schedule = s.schedule := rfl
@[simp] theorem State.modLine_cur (s : State) (d pa : Nat) (f : BayLine → BayLine) : (s.modLine d pa f).cur = s.cur := rfl
@[simp] theorem State.modLine_issueNo (s : State) (d pa : Nat) (f : BayLine → BayLine) : (s.modLine d pa f).issueNo = s.issueNo := rfl
@[simp] theorem State.modLine_nextId (s : State) (d pa : Nat) (f : BayLine → BayLine) : (s.modLine d pa f).nextId = s.nextId := rfl
@[simp] theorem State.modLine_fuses (s : State) (d pa : Nat) (f : BayLine → BayLine) : (s.modLine d pa f).fuses = s.fuses := rfl
@[simp] theorem State.modLine_mem (s : State) (d pa : Nat) (f : BayLine → BayLine) : (s.modLine d pa f).mem = s.mem := rfl
@[simp] theorem State.modLine_poison (s : State) (d pa : Nat) (f : BayLine → BayLine) : (s.modLine d pa f).poison = s.poison := rfl
@[simp] theorem State.modLine_blocks (s : State) (d pa : Nat) (f : BayLine → BayLine) : (s.modLine d pa f).blocks = s.blocks := rfl
@[simp] theorem State.modLine_fills (s : State) (d pa : Nat) (f : BayLine → BayLine) : (s.modLine d pa f).fills = s.fills := rfl
@[simp] theorem State.modLine_issues (s : State) (d pa : Nat) (f : BayLine → BayLine) : (s.modLine d pa f).issues = s.issues := rfl
@[simp] theorem State.modLine_reqs (s : State) (d pa : Nat) (f : BayLine → BayLine) : (s.modLine d pa f).reqs = s.reqs := rfl
@[simp] theorem State.modLine_msgs (s : State) (d pa : Nat) (f : BayLine → BayLine) : (s.modLine d pa f).msgs = s.msgs := rfl
@[simp] theorem State.modLine_entries (s : State) (d pa : Nat) (f : BayLine → BayLine) : (s.modLine d pa f).entries = s.entries := rfl
@[simp] theorem State.modLine_nodes (s : State) (d pa : Nat) (f : BayLine → BayLine) : (s.modLine d pa f).nodes = s.nodes := rfl
@[simp] theorem State.modLine_ctxs (s : State) (d pa : Nat) (f : BayLine → BayLine) : (s.modLine d pa f).ctxs = s.ctxs := rfl
@[simp] theorem State.modLine_additions (s : State) (d pa : Nat) (f : BayLine → BayLine) : (s.modLine d pa f).additions = s.additions := rfl
@[simp] theorem State.modLine_pairs (s : State) (d pa : Nat) (f : BayLine → BayLine) : (s.modLine d pa f).pairs = s.pairs := rfl
@[simp] theorem State.modLine_collOut (s : State) (d pa : Nat) (f : BayLine → BayLine) : (s.modLine d pa f).collOut = s.collOut := rfl
@[simp] theorem State.modLine_links (s : State) (d pa : Nat) (f : BayLine → BayLine) : (s.modLine d pa f).links = s.links := rfl
@[simp] theorem State.modLine_ports (s : State) (d pa : Nat) (f : BayLine → BayLine) : (s.modLine d pa f).ports = s.ports := rfl
@[simp] theorem State.modLine_ring (s : State) (d pa : Nat) (f : BayLine → BayLine) : (s.modLine d pa f).ring = s.ring := rfl
@[simp] theorem State.modLine_offer (s : State) (d pa : Nat) (f : BayLine → BayLine) : (s.modLine d pa f).offer = s.offer := rfl
@[simp] theorem State.modLine_accept (s : State) (d pa : Nat) (f : BayLine → BayLine) : (s.modLine d pa f).accept = s.accept := rfl
@[simp] theorem State.modLine_acceptLow (s : State) (d pa : Nat) (f : BayLine → BayLine) : (s.modLine d pa f).acceptLow = s.acceptLow := rfl
@[simp] theorem State.modLine_accepted (s : State) (d pa : Nat) (f : BayLine → BayLine) : (s.modLine d pa f).accepted = s.accepted := rfl
@[simp] theorem State.modLine_pmax (s : State) (d pa : Nat) (f : BayLine → BayLine) : (s.modLine d pa f).pmax = s.pmax := rfl
@[simp] theorem State.modLine_tol (s : State) (d pa : Nat) (f : BayLine → BayLine) : (s.modLine d pa f).tol = s.tol := rfl
@[simp] theorem State.modLine_pstate (s : State) (d pa : Nat) (f : BayLine → BayLine) : (s.modLine d pa f).pstate = s.pstate := rfl
@[simp] theorem State.modLine_pchanges (s : State) (d pa : Nat) (f : BayLine → BayLine) : (s.modLine d pa f).pchanges = s.pchanges := rfl
@[simp] theorem State.modLine_frozen (s : State) (d pa : Nat) (f : BayLine → BayLine) : (s.modLine d pa f).frozen = s.frozen := rfl
@[simp] theorem State.modLine_flash (s : State) (d pa : Nat) (f : BayLine → BayLine) : (s.modLine d pa f).flash = s.flash := rfl
@[simp] theorem State.modLine_staging (s : State) (d pa : Nat) (f : BayLine → BayLine) : (s.modLine d pa f).staging = s.staging := rfl
@[simp] theorem State.modLine_measurement (s : State) (d pa : Nat) (f : BayLine → BayLine) : (s.modLine d pa f).measurement = s.measurement := rfl
@[simp] theorem State.modLine_svn (s : State) (d pa : Nat) (f : BayLine → BayLine) : (s.modLine d pa f).svn = s.svn := rfl
@[simp] theorem State.modLine_hostOut (s : State) (d pa : Nat) (f : BayLine → BayLine) : (s.modLine d pa f).hostOut = s.hostOut := rfl
@[simp] theorem State.modLine_hostEp (s : State) (d pa : Nat) (f : BayLine → BayLine) : (s.modLine d pa f).hostEp = s.hostEp := rfl
@[simp] theorem State.modLine_tapOut (s : State) (d pa : Nat) (f : BayLine → BayLine) : (s.modLine d pa f).tapOut = s.tapOut := rfl
@[simp] theorem State.modLine_linkOut (s : State) (d pa : Nat) (f : BayLine → BayLine) : (s.modLine d pa f).linkOut = s.linkOut := rfl

/-! ### `State.modBlock` changes `blocks` only -/

@[simp] theorem State.modBlock_tick (s : State) (b : Nat) (f : Block → Block) : (s.modBlock b f).tick = s.tick := by
  unfold State.modBlock; split <;> rfl
@[simp] theorem State.modBlock_schedule (s : State) (b : Nat) (f : Block → Block) : (s.modBlock b f).schedule = s.schedule := by
  unfold State.modBlock; split <;> rfl
@[simp] theorem State.modBlock_cur (s : State) (b : Nat) (f : Block → Block) : (s.modBlock b f).cur = s.cur := by
  unfold State.modBlock; split <;> rfl
@[simp] theorem State.modBlock_issueNo (s : State) (b : Nat) (f : Block → Block) : (s.modBlock b f).issueNo = s.issueNo := by
  unfold State.modBlock; split <;> rfl
@[simp] theorem State.modBlock_nextId (s : State) (b : Nat) (f : Block → Block) : (s.modBlock b f).nextId = s.nextId := by
  unfold State.modBlock; split <;> rfl
@[simp] theorem State.modBlock_fuses (s : State) (b : Nat) (f : Block → Block) : (s.modBlock b f).fuses = s.fuses := by
  unfold State.modBlock; split <;> rfl
@[simp] theorem State.modBlock_mem (s : State) (b : Nat) (f : Block → Block) : (s.modBlock b f).mem = s.mem := by
  unfold State.modBlock; split <;> rfl
@[simp] theorem State.modBlock_poison (s : State) (b : Nat) (f : Block → Block) : (s.modBlock b f).poison = s.poison := by
  unfold State.modBlock; split <;> rfl
@[simp] theorem State.modBlock_dies (s : State) (b : Nat) (f : Block → Block) : (s.modBlock b f).dies = s.dies := by
  unfold State.modBlock; split <;> rfl
@[simp] theorem State.modBlock_fills (s : State) (b : Nat) (f : Block → Block) : (s.modBlock b f).fills = s.fills := by
  unfold State.modBlock; split <;> rfl
@[simp] theorem State.modBlock_issues (s : State) (b : Nat) (f : Block → Block) : (s.modBlock b f).issues = s.issues := by
  unfold State.modBlock; split <;> rfl
@[simp] theorem State.modBlock_reqs (s : State) (b : Nat) (f : Block → Block) : (s.modBlock b f).reqs = s.reqs := by
  unfold State.modBlock; split <;> rfl
@[simp] theorem State.modBlock_msgs (s : State) (b : Nat) (f : Block → Block) : (s.modBlock b f).msgs = s.msgs := by
  unfold State.modBlock; split <;> rfl
@[simp] theorem State.modBlock_entries (s : State) (b : Nat) (f : Block → Block) : (s.modBlock b f).entries = s.entries := by
  unfold State.modBlock; split <;> rfl
@[simp] theorem State.modBlock_nodes (s : State) (b : Nat) (f : Block → Block) : (s.modBlock b f).nodes = s.nodes := by
  unfold State.modBlock; split <;> rfl
@[simp] theorem State.modBlock_ctxs (s : State) (b : Nat) (f : Block → Block) : (s.modBlock b f).ctxs = s.ctxs := by
  unfold State.modBlock; split <;> rfl
@[simp] theorem State.modBlock_additions (s : State) (b : Nat) (f : Block → Block) : (s.modBlock b f).additions = s.additions := by
  unfold State.modBlock; split <;> rfl
@[simp] theorem State.modBlock_pairs (s : State) (b : Nat) (f : Block → Block) : (s.modBlock b f).pairs = s.pairs := by
  unfold State.modBlock; split <;> rfl
@[simp] theorem State.modBlock_collOut (s : State) (b : Nat) (f : Block → Block) : (s.modBlock b f).collOut = s.collOut := by
  unfold State.modBlock; split <;> rfl
@[simp] theorem State.modBlock_links (s : State) (b : Nat) (f : Block → Block) : (s.modBlock b f).links = s.links := by
  unfold State.modBlock; split <;> rfl
@[simp] theorem State.modBlock_ports (s : State) (b : Nat) (f : Block → Block) : (s.modBlock b f).ports = s.ports := by
  unfold State.modBlock; split <;> rfl
@[simp] theorem State.modBlock_ring (s : State) (b : Nat) (f : Block → Block) : (s.modBlock b f).ring = s.ring := by
  unfold State.modBlock; split <;> rfl
@[simp] theorem State.modBlock_offer (s : State) (b : Nat) (f : Block → Block) : (s.modBlock b f).offer = s.offer := by
  unfold State.modBlock; split <;> rfl
@[simp] theorem State.modBlock_accept (s : State) (b : Nat) (f : Block → Block) : (s.modBlock b f).accept = s.accept := by
  unfold State.modBlock; split <;> rfl
@[simp] theorem State.modBlock_acceptLow (s : State) (b : Nat) (f : Block → Block) : (s.modBlock b f).acceptLow = s.acceptLow := by
  unfold State.modBlock; split <;> rfl
@[simp] theorem State.modBlock_accepted (s : State) (b : Nat) (f : Block → Block) : (s.modBlock b f).accepted = s.accepted := by
  unfold State.modBlock; split <;> rfl
@[simp] theorem State.modBlock_pmax (s : State) (b : Nat) (f : Block → Block) : (s.modBlock b f).pmax = s.pmax := by
  unfold State.modBlock; split <;> rfl
@[simp] theorem State.modBlock_tol (s : State) (b : Nat) (f : Block → Block) : (s.modBlock b f).tol = s.tol := by
  unfold State.modBlock; split <;> rfl
@[simp] theorem State.modBlock_pstate (s : State) (b : Nat) (f : Block → Block) : (s.modBlock b f).pstate = s.pstate := by
  unfold State.modBlock; split <;> rfl
@[simp] theorem State.modBlock_pchanges (s : State) (b : Nat) (f : Block → Block) : (s.modBlock b f).pchanges = s.pchanges := by
  unfold State.modBlock; split <;> rfl
@[simp] theorem State.modBlock_frozen (s : State) (b : Nat) (f : Block → Block) : (s.modBlock b f).frozen = s.frozen := by
  unfold State.modBlock; split <;> rfl
@[simp] theorem State.modBlock_flash (s : State) (b : Nat) (f : Block → Block) : (s.modBlock b f).flash = s.flash := by
  unfold State.modBlock; split <;> rfl
@[simp] theorem State.modBlock_staging (s : State) (b : Nat) (f : Block → Block) : (s.modBlock b f).staging = s.staging := by
  unfold State.modBlock; split <;> rfl
@[simp] theorem State.modBlock_measurement (s : State) (b : Nat) (f : Block → Block) : (s.modBlock b f).measurement = s.measurement := by
  unfold State.modBlock; split <;> rfl
@[simp] theorem State.modBlock_svn (s : State) (b : Nat) (f : Block → Block) : (s.modBlock b f).svn = s.svn := by
  unfold State.modBlock; split <;> rfl
@[simp] theorem State.modBlock_hostOut (s : State) (b : Nat) (f : Block → Block) : (s.modBlock b f).hostOut = s.hostOut := by
  unfold State.modBlock; split <;> rfl
@[simp] theorem State.modBlock_hostEp (s : State) (b : Nat) (f : Block → Block) : (s.modBlock b f).hostEp = s.hostEp := by
  unfold State.modBlock; split <;> rfl
@[simp] theorem State.modBlock_tapOut (s : State) (b : Nat) (f : Block → Block) : (s.modBlock b f).tapOut = s.tapOut := by
  unfold State.modBlock; split <;> rfl
@[simp] theorem State.modBlock_linkOut (s : State) (b : Nat) (f : Block → Block) : (s.modBlock b f).linkOut = s.linkOut := by
  unfold State.modBlock; split <;> rfl

/-! ### `State.modSlice` changes `blocks` only -/

@[simp] theorem State.modSlice_tick (s : State) (b i : Nat) (f : Slice → Slice) : (s.modSlice b i f).tick = s.tick := State.modBlock_tick s _ _
@[simp] theorem State.modSlice_schedule (s : State) (b i : Nat) (f : Slice → Slice) : (s.modSlice b i f).schedule = s.schedule := State.modBlock_schedule s _ _
@[simp] theorem State.modSlice_cur (s : State) (b i : Nat) (f : Slice → Slice) : (s.modSlice b i f).cur = s.cur := State.modBlock_cur s _ _
@[simp] theorem State.modSlice_issueNo (s : State) (b i : Nat) (f : Slice → Slice) : (s.modSlice b i f).issueNo = s.issueNo := State.modBlock_issueNo s _ _
@[simp] theorem State.modSlice_nextId (s : State) (b i : Nat) (f : Slice → Slice) : (s.modSlice b i f).nextId = s.nextId := State.modBlock_nextId s _ _
@[simp] theorem State.modSlice_fuses (s : State) (b i : Nat) (f : Slice → Slice) : (s.modSlice b i f).fuses = s.fuses := State.modBlock_fuses s _ _
@[simp] theorem State.modSlice_mem (s : State) (b i : Nat) (f : Slice → Slice) : (s.modSlice b i f).mem = s.mem := State.modBlock_mem s _ _
@[simp] theorem State.modSlice_poison (s : State) (b i : Nat) (f : Slice → Slice) : (s.modSlice b i f).poison = s.poison := State.modBlock_poison s _ _
@[simp] theorem State.modSlice_dies (s : State) (b i : Nat) (f : Slice → Slice) : (s.modSlice b i f).dies = s.dies := State.modBlock_dies s _ _
@[simp] theorem State.modSlice_fills (s : State) (b i : Nat) (f : Slice → Slice) : (s.modSlice b i f).fills = s.fills := State.modBlock_fills s _ _
@[simp] theorem State.modSlice_issues (s : State) (b i : Nat) (f : Slice → Slice) : (s.modSlice b i f).issues = s.issues := State.modBlock_issues s _ _
@[simp] theorem State.modSlice_reqs (s : State) (b i : Nat) (f : Slice → Slice) : (s.modSlice b i f).reqs = s.reqs := State.modBlock_reqs s _ _
@[simp] theorem State.modSlice_msgs (s : State) (b i : Nat) (f : Slice → Slice) : (s.modSlice b i f).msgs = s.msgs := State.modBlock_msgs s _ _
@[simp] theorem State.modSlice_entries (s : State) (b i : Nat) (f : Slice → Slice) : (s.modSlice b i f).entries = s.entries := State.modBlock_entries s _ _
@[simp] theorem State.modSlice_nodes (s : State) (b i : Nat) (f : Slice → Slice) : (s.modSlice b i f).nodes = s.nodes := State.modBlock_nodes s _ _
@[simp] theorem State.modSlice_ctxs (s : State) (b i : Nat) (f : Slice → Slice) : (s.modSlice b i f).ctxs = s.ctxs := State.modBlock_ctxs s _ _
@[simp] theorem State.modSlice_additions (s : State) (b i : Nat) (f : Slice → Slice) : (s.modSlice b i f).additions = s.additions := State.modBlock_additions s _ _
@[simp] theorem State.modSlice_pairs (s : State) (b i : Nat) (f : Slice → Slice) : (s.modSlice b i f).pairs = s.pairs := State.modBlock_pairs s _ _
@[simp] theorem State.modSlice_collOut (s : State) (b i : Nat) (f : Slice → Slice) : (s.modSlice b i f).collOut = s.collOut := State.modBlock_collOut s _ _
@[simp] theorem State.modSlice_links (s : State) (b i : Nat) (f : Slice → Slice) : (s.modSlice b i f).links = s.links := State.modBlock_links s _ _
@[simp] theorem State.modSlice_ports (s : State) (b i : Nat) (f : Slice → Slice) : (s.modSlice b i f).ports = s.ports := State.modBlock_ports s _ _
@[simp] theorem State.modSlice_ring (s : State) (b i : Nat) (f : Slice → Slice) : (s.modSlice b i f).ring = s.ring := State.modBlock_ring s _ _
@[simp] theorem State.modSlice_offer (s : State) (b i : Nat) (f : Slice → Slice) : (s.modSlice b i f).offer = s.offer := State.modBlock_offer s _ _
@[simp] theorem State.modSlice_accept (s : State) (b i : Nat) (f : Slice → Slice) : (s.modSlice b i f).accept = s.accept := State.modBlock_accept s _ _
@[simp] theorem State.modSlice_acceptLow (s : State) (b i : Nat) (f : Slice → Slice) : (s.modSlice b i f).acceptLow = s.acceptLow := State.modBlock_acceptLow s _ _
@[simp] theorem State.modSlice_accepted (s : State) (b i : Nat) (f : Slice → Slice) : (s.modSlice b i f).accepted = s.accepted := State.modBlock_accepted s _ _
@[simp] theorem State.modSlice_pmax (s : State) (b i : Nat) (f : Slice → Slice) : (s.modSlice b i f).pmax = s.pmax := State.modBlock_pmax s _ _
@[simp] theorem State.modSlice_tol (s : State) (b i : Nat) (f : Slice → Slice) : (s.modSlice b i f).tol = s.tol := State.modBlock_tol s _ _
@[simp] theorem State.modSlice_pstate (s : State) (b i : Nat) (f : Slice → Slice) : (s.modSlice b i f).pstate = s.pstate := State.modBlock_pstate s _ _
@[simp] theorem State.modSlice_pchanges (s : State) (b i : Nat) (f : Slice → Slice) : (s.modSlice b i f).pchanges = s.pchanges := State.modBlock_pchanges s _ _
@[simp] theorem State.modSlice_frozen (s : State) (b i : Nat) (f : Slice → Slice) : (s.modSlice b i f).frozen = s.frozen := State.modBlock_frozen s _ _
@[simp] theorem State.modSlice_flash (s : State) (b i : Nat) (f : Slice → Slice) : (s.modSlice b i f).flash = s.flash := State.modBlock_flash s _ _
@[simp] theorem State.modSlice_staging (s : State) (b i : Nat) (f : Slice → Slice) : (s.modSlice b i f).staging = s.staging := State.modBlock_staging s _ _
@[simp] theorem State.modSlice_measurement (s : State) (b i : Nat) (f : Slice → Slice) : (s.modSlice b i f).measurement = s.measurement := State.modBlock_measurement s _ _
@[simp] theorem State.modSlice_svn (s : State) (b i : Nat) (f : Slice → Slice) : (s.modSlice b i f).svn = s.svn := State.modBlock_svn s _ _
@[simp] theorem State.modSlice_hostOut (s : State) (b i : Nat) (f : Slice → Slice) : (s.modSlice b i f).hostOut = s.hostOut := State.modBlock_hostOut s _ _
@[simp] theorem State.modSlice_hostEp (s : State) (b i : Nat) (f : Slice → Slice) : (s.modSlice b i f).hostEp = s.hostEp := State.modBlock_hostEp s _ _
@[simp] theorem State.modSlice_tapOut (s : State) (b i : Nat) (f : Slice → Slice) : (s.modSlice b i f).tapOut = s.tapOut := State.modBlock_tapOut s _ _
@[simp] theorem State.modSlice_linkOut (s : State) (b i : Nat) (f : Slice → Slice) : (s.modSlice b i f).linkOut = s.linkOut := State.modBlock_linkOut s _ _

/-! ### `State.modCtx` changes `ctxs` only -/

@[simp] theorem State.modCtx_tick (s : State) (c : Nat) (f : Ctx → Ctx) : (s.modCtx c f).tick = s.tick := by
  unfold State.modCtx; split <;> rfl
@[simp] theorem State.modCtx_schedule (s : State) (c : Nat) (f : Ctx → Ctx) : (s.modCtx c f).schedule = s.schedule := by
  unfold State.modCtx; split <;> rfl
@[simp] theorem State.modCtx_cur (s : State) (c : Nat) (f : Ctx → Ctx) : (s.modCtx c f).cur = s.cur := by
  unfold State.modCtx; split <;> rfl
@[simp] theorem State.modCtx_issueNo (s : State) (c : Nat) (f : Ctx → Ctx) : (s.modCtx c f).issueNo = s.issueNo := by
  unfold State.modCtx; split <;> rfl
@[simp] theorem State.modCtx_nextId (s : State) (c : Nat) (f : Ctx → Ctx) : (s.modCtx c f).nextId = s.nextId := by
  unfold State.modCtx; split <;> rfl
@[simp] theorem State.modCtx_fuses (s : State) (c : Nat) (f : Ctx → Ctx) : (s.modCtx c f).fuses = s.fuses := by
  unfold State.modCtx; split <;> rfl
@[simp] theorem State.modCtx_mem (s : State) (c : Nat) (f : Ctx → Ctx) : (s.modCtx c f).mem = s.mem := by
  unfold State.modCtx; split <;> rfl
@[simp] theorem State.modCtx_poison (s : State) (c : Nat) (f : Ctx → Ctx) : (s.modCtx c f).poison = s.poison := by
  unfold State.modCtx; split <;> rfl
@[simp] theorem State.modCtx_dies (s : State) (c : Nat) (f : Ctx → Ctx) : (s.modCtx c f).dies = s.dies := by
  unfold State.modCtx; split <;> rfl
@[simp] theorem State.modCtx_blocks (s : State) (c : Nat) (f : Ctx → Ctx) : (s.modCtx c f).blocks = s.blocks := by
  unfold State.modCtx; split <;> rfl
@[simp] theorem State.modCtx_fills (s : State) (c : Nat) (f : Ctx → Ctx) : (s.modCtx c f).fills = s.fills := by
  unfold State.modCtx; split <;> rfl
@[simp] theorem State.modCtx_issues (s : State) (c : Nat) (f : Ctx → Ctx) : (s.modCtx c f).issues = s.issues := by
  unfold State.modCtx; split <;> rfl
@[simp] theorem State.modCtx_reqs (s : State) (c : Nat) (f : Ctx → Ctx) : (s.modCtx c f).reqs = s.reqs := by
  unfold State.modCtx; split <;> rfl
@[simp] theorem State.modCtx_msgs (s : State) (c : Nat) (f : Ctx → Ctx) : (s.modCtx c f).msgs = s.msgs := by
  unfold State.modCtx; split <;> rfl
@[simp] theorem State.modCtx_entries (s : State) (c : Nat) (f : Ctx → Ctx) : (s.modCtx c f).entries = s.entries := by
  unfold State.modCtx; split <;> rfl
@[simp] theorem State.modCtx_nodes (s : State) (c : Nat) (f : Ctx → Ctx) : (s.modCtx c f).nodes = s.nodes := by
  unfold State.modCtx; split <;> rfl
@[simp] theorem State.modCtx_additions (s : State) (c : Nat) (f : Ctx → Ctx) : (s.modCtx c f).additions = s.additions := by
  unfold State.modCtx; split <;> rfl
@[simp] theorem State.modCtx_pairs (s : State) (c : Nat) (f : Ctx → Ctx) : (s.modCtx c f).pairs = s.pairs := by
  unfold State.modCtx; split <;> rfl
@[simp] theorem State.modCtx_collOut (s : State) (c : Nat) (f : Ctx → Ctx) : (s.modCtx c f).collOut = s.collOut := by
  unfold State.modCtx; split <;> rfl
@[simp] theorem State.modCtx_links (s : State) (c : Nat) (f : Ctx → Ctx) : (s.modCtx c f).links = s.links := by
  unfold State.modCtx; split <;> rfl
@[simp] theorem State.modCtx_ports (s : State) (c : Nat) (f : Ctx → Ctx) : (s.modCtx c f).ports = s.ports := by
  unfold State.modCtx; split <;> rfl
@[simp] theorem State.modCtx_ring (s : State) (c : Nat) (f : Ctx → Ctx) : (s.modCtx c f).ring = s.ring := by
  unfold State.modCtx; split <;> rfl
@[simp] theorem State.modCtx_offer (s : State) (c : Nat) (f : Ctx → Ctx) : (s.modCtx c f).offer = s.offer := by
  unfold State.modCtx; split <;> rfl
@[simp] theorem State.modCtx_accept (s : State) (c : Nat) (f : Ctx → Ctx) : (s.modCtx c f).accept = s.accept := by
  unfold State.modCtx; split <;> rfl
@[simp] theorem State.modCtx_acceptLow (s : State) (c : Nat) (f : Ctx → Ctx) : (s.modCtx c f).acceptLow = s.acceptLow := by
  unfold State.modCtx; split <;> rfl
@[simp] theorem State.modCtx_accepted (s : State) (c : Nat) (f : Ctx → Ctx) : (s.modCtx c f).accepted = s.accepted := by
  unfold State.modCtx; split <;> rfl
@[simp] theorem State.modCtx_pmax (s : State) (c : Nat) (f : Ctx → Ctx) : (s.modCtx c f).pmax = s.pmax := by
  unfold State.modCtx; split <;> rfl
@[simp] theorem State.modCtx_tol (s : State) (c : Nat) (f : Ctx → Ctx) : (s.modCtx c f).tol = s.tol := by
  unfold State.modCtx; split <;> rfl
@[simp] theorem State.modCtx_pstate (s : State) (c : Nat) (f : Ctx → Ctx) : (s.modCtx c f).pstate = s.pstate := by
  unfold State.modCtx; split <;> rfl
@[simp] theorem State.modCtx_pchanges (s : State) (c : Nat) (f : Ctx → Ctx) : (s.modCtx c f).pchanges = s.pchanges := by
  unfold State.modCtx; split <;> rfl
@[simp] theorem State.modCtx_frozen (s : State) (c : Nat) (f : Ctx → Ctx) : (s.modCtx c f).frozen = s.frozen := by
  unfold State.modCtx; split <;> rfl
@[simp] theorem State.modCtx_flash (s : State) (c : Nat) (f : Ctx → Ctx) : (s.modCtx c f).flash = s.flash := by
  unfold State.modCtx; split <;> rfl
@[simp] theorem State.modCtx_staging (s : State) (c : Nat) (f : Ctx → Ctx) : (s.modCtx c f).staging = s.staging := by
  unfold State.modCtx; split <;> rfl
@[simp] theorem State.modCtx_measurement (s : State) (c : Nat) (f : Ctx → Ctx) : (s.modCtx c f).measurement = s.measurement := by
  unfold State.modCtx; split <;> rfl
@[simp] theorem State.modCtx_svn (s : State) (c : Nat) (f : Ctx → Ctx) : (s.modCtx c f).svn = s.svn := by
  unfold State.modCtx; split <;> rfl
@[simp] theorem State.modCtx_hostOut (s : State) (c : Nat) (f : Ctx → Ctx) : (s.modCtx c f).hostOut = s.hostOut := by
  unfold State.modCtx; split <;> rfl
@[simp] theorem State.modCtx_hostEp (s : State) (c : Nat) (f : Ctx → Ctx) : (s.modCtx c f).hostEp = s.hostEp := by
  unfold State.modCtx; split <;> rfl
@[simp] theorem State.modCtx_tapOut (s : State) (c : Nat) (f : Ctx → Ctx) : (s.modCtx c f).tapOut = s.tapOut := by
  unfold State.modCtx; split <;> rfl
@[simp] theorem State.modCtx_linkOut (s : State) (c : Nat) (f : Ctx → Ctx) : (s.modCtx c f).linkOut = s.linkOut := by
  unfold State.modCtx; split <;> rfl

/-! ### `State.modNode` changes `nodes` only -/

@[simp] theorem State.modNode_tick (s : State) (n : Nat) (f : Node → Node) : (s.modNode n f).tick = s.tick := by
  unfold State.modNode; split <;> rfl
@[simp] theorem State.modNode_schedule (s : State) (n : Nat) (f : Node → Node) : (s.modNode n f).schedule = s.schedule := by
  unfold State.modNode; split <;> rfl
@[simp] theorem State.modNode_cur (s : State) (n : Nat) (f : Node → Node) : (s.modNode n f).cur = s.cur := by
  unfold State.modNode; split <;> rfl
@[simp] theorem State.modNode_issueNo (s : State) (n : Nat) (f : Node → Node) : (s.modNode n f).issueNo = s.issueNo := by
  unfold State.modNode; split <;> rfl
@[simp] theorem State.modNode_nextId (s : State) (n : Nat) (f : Node → Node) : (s.modNode n f).nextId = s.nextId := by
  unfold State.modNode; split <;> rfl
@[simp] theorem State.modNode_fuses (s : State) (n : Nat) (f : Node → Node) : (s.modNode n f).fuses = s.fuses := by
  unfold State.modNode; split <;> rfl
@[simp] theorem State.modNode_mem (s : State) (n : Nat) (f : Node → Node) : (s.modNode n f).mem = s.mem := by
  unfold State.modNode; split <;> rfl
@[simp] theorem State.modNode_poison (s : State) (n : Nat) (f : Node → Node) : (s.modNode n f).poison = s.poison := by
  unfold State.modNode; split <;> rfl
@[simp] theorem State.modNode_dies (s : State) (n : Nat) (f : Node → Node) : (s.modNode n f).dies = s.dies := by
  unfold State.modNode; split <;> rfl
@[simp] theorem State.modNode_blocks (s : State) (n : Nat) (f : Node → Node) : (s.modNode n f).blocks = s.blocks := by
  unfold State.modNode; split <;> rfl
@[simp] theorem State.modNode_fills (s : State) (n : Nat) (f : Node → Node) : (s.modNode n f).fills = s.fills := by
  unfold State.modNode; split <;> rfl
@[simp] theorem State.modNode_issues (s : State) (n : Nat) (f : Node → Node) : (s.modNode n f).issues = s.issues := by
  unfold State.modNode; split <;> rfl
@[simp] theorem State.modNode_reqs (s : State) (n : Nat) (f : Node → Node) : (s.modNode n f).reqs = s.reqs := by
  unfold State.modNode; split <;> rfl
@[simp] theorem State.modNode_msgs (s : State) (n : Nat) (f : Node → Node) : (s.modNode n f).msgs = s.msgs := by
  unfold State.modNode; split <;> rfl
@[simp] theorem State.modNode_entries (s : State) (n : Nat) (f : Node → Node) : (s.modNode n f).entries = s.entries := by
  unfold State.modNode; split <;> rfl
@[simp] theorem State.modNode_ctxs (s : State) (n : Nat) (f : Node → Node) : (s.modNode n f).ctxs = s.ctxs := by
  unfold State.modNode; split <;> rfl
@[simp] theorem State.modNode_additions (s : State) (n : Nat) (f : Node → Node) : (s.modNode n f).additions = s.additions := by
  unfold State.modNode; split <;> rfl
@[simp] theorem State.modNode_pairs (s : State) (n : Nat) (f : Node → Node) : (s.modNode n f).pairs = s.pairs := by
  unfold State.modNode; split <;> rfl
@[simp] theorem State.modNode_collOut (s : State) (n : Nat) (f : Node → Node) : (s.modNode n f).collOut = s.collOut := by
  unfold State.modNode; split <;> rfl
@[simp] theorem State.modNode_links (s : State) (n : Nat) (f : Node → Node) : (s.modNode n f).links = s.links := by
  unfold State.modNode; split <;> rfl
@[simp] theorem State.modNode_ports (s : State) (n : Nat) (f : Node → Node) : (s.modNode n f).ports = s.ports := by
  unfold State.modNode; split <;> rfl
@[simp] theorem State.modNode_ring (s : State) (n : Nat) (f : Node → Node) : (s.modNode n f).ring = s.ring := by
  unfold State.modNode; split <;> rfl
@[simp] theorem State.modNode_offer (s : State) (n : Nat) (f : Node → Node) : (s.modNode n f).offer = s.offer := by
  unfold State.modNode; split <;> rfl
@[simp] theorem State.modNode_accept (s : State) (n : Nat) (f : Node → Node) : (s.modNode n f).accept = s.accept := by
  unfold State.modNode; split <;> rfl
@[simp] theorem State.modNode_acceptLow (s : State) (n : Nat) (f : Node → Node) : (s.modNode n f).acceptLow = s.acceptLow := by
  unfold State.modNode; split <;> rfl
@[simp] theorem State.modNode_accepted (s : State) (n : Nat) (f : Node → Node) : (s.modNode n f).accepted = s.accepted := by
  unfold State.modNode; split <;> rfl
@[simp] theorem State.modNode_pmax (s : State) (n : Nat) (f : Node → Node) : (s.modNode n f).pmax = s.pmax := by
  unfold State.modNode; split <;> rfl
@[simp] theorem State.modNode_tol (s : State) (n : Nat) (f : Node → Node) : (s.modNode n f).tol = s.tol := by
  unfold State.modNode; split <;> rfl
@[simp] theorem State.modNode_pstate (s : State) (n : Nat) (f : Node → Node) : (s.modNode n f).pstate = s.pstate := by
  unfold State.modNode; split <;> rfl
@[simp] theorem State.modNode_pchanges (s : State) (n : Nat) (f : Node → Node) : (s.modNode n f).pchanges = s.pchanges := by
  unfold State.modNode; split <;> rfl
@[simp] theorem State.modNode_frozen (s : State) (n : Nat) (f : Node → Node) : (s.modNode n f).frozen = s.frozen := by
  unfold State.modNode; split <;> rfl
@[simp] theorem State.modNode_flash (s : State) (n : Nat) (f : Node → Node) : (s.modNode n f).flash = s.flash := by
  unfold State.modNode; split <;> rfl
@[simp] theorem State.modNode_staging (s : State) (n : Nat) (f : Node → Node) : (s.modNode n f).staging = s.staging := by
  unfold State.modNode; split <;> rfl
@[simp] theorem State.modNode_measurement (s : State) (n : Nat) (f : Node → Node) : (s.modNode n f).measurement = s.measurement := by
  unfold State.modNode; split <;> rfl
@[simp] theorem State.modNode_svn (s : State) (n : Nat) (f : Node → Node) : (s.modNode n f).svn = s.svn := by
  unfold State.modNode; split <;> rfl
@[simp] theorem State.modNode_hostOut (s : State) (n : Nat) (f : Node → Node) : (s.modNode n f).hostOut = s.hostOut := by
  unfold State.modNode; split <;> rfl
@[simp] theorem State.modNode_hostEp (s : State) (n : Nat) (f : Node → Node) : (s.modNode n f).hostEp = s.hostEp := by
  unfold State.modNode; split <;> rfl
@[simp] theorem State.modNode_tapOut (s : State) (n : Nat) (f : Node → Node) : (s.modNode n f).tapOut = s.tapOut := by
  unfold State.modNode; split <;> rfl
@[simp] theorem State.modNode_linkOut (s : State) (n : Nat) (f : Node → Node) : (s.modNode n f).linkOut = s.linkOut := by
  unfold State.modNode; split <;> rfl

/-! ### `State.modEntry` changes `entries` only -/

@[simp] theorem State.modEntry_tick (s : State) (e : Nat) (f : Entry → Entry) : (s.modEntry e f).tick = s.tick := by
  unfold State.modEntry; split <;> rfl
@[simp] theorem State.modEntry_schedule (s : State) (e : Nat) (f : Entry → Entry) : (s.modEntry e f).schedule = s.schedule := by
  unfold State.modEntry; split <;> rfl
@[simp] theorem State.modEntry_cur (s : State) (e : Nat) (f : Entry → Entry) : (s.modEntry e f).cur = s.cur := by
  unfold State.modEntry; split <;> rfl
@[simp] theorem State.modEntry_issueNo (s : State) (e : Nat) (f : Entry → Entry) : (s.modEntry e f).issueNo = s.issueNo := by
  unfold State.modEntry; split <;> rfl
@[simp] theorem State.modEntry_nextId (s : State) (e : Nat) (f : Entry → Entry) : (s.modEntry e f).nextId = s.nextId := by
  unfold State.modEntry; split <;> rfl
@[simp] theorem State.modEntry_fuses (s : State) (e : Nat) (f : Entry → Entry) : (s.modEntry e f).fuses = s.fuses := by
  unfold State.modEntry; split <;> rfl
@[simp] theorem State.modEntry_mem (s : State) (e : Nat) (f : Entry → Entry) : (s.modEntry e f).mem = s.mem := by
  unfold State.modEntry; split <;> rfl
@[simp] theorem State.modEntry_poison (s : State) (e : Nat) (f : Entry → Entry) : (s.modEntry e f).poison = s.poison := by
  unfold State.modEntry; split <;> rfl
@[simp] theorem State.modEntry_dies (s : State) (e : Nat) (f : Entry → Entry) : (s.modEntry e f).dies = s.dies := by
  unfold State.modEntry; split <;> rfl
@[simp] theorem State.modEntry_blocks (s : State) (e : Nat) (f : Entry → Entry) : (s.modEntry e f).blocks = s.blocks := by
  unfold State.modEntry; split <;> rfl
@[simp] theorem State.modEntry_fills (s : State) (e : Nat) (f : Entry → Entry) : (s.modEntry e f).fills = s.fills := by
  unfold State.modEntry; split <;> rfl
@[simp] theorem State.modEntry_issues (s : State) (e : Nat) (f : Entry → Entry) : (s.modEntry e f).issues = s.issues := by
  unfold State.modEntry; split <;> rfl
@[simp] theorem State.modEntry_reqs (s : State) (e : Nat) (f : Entry → Entry) : (s.modEntry e f).reqs = s.reqs := by
  unfold State.modEntry; split <;> rfl
@[simp] theorem State.modEntry_msgs (s : State) (e : Nat) (f : Entry → Entry) : (s.modEntry e f).msgs = s.msgs := by
  unfold State.modEntry; split <;> rfl
@[simp] theorem State.modEntry_nodes (s : State) (e : Nat) (f : Entry → Entry) : (s.modEntry e f).nodes = s.nodes := by
  unfold State.modEntry; split <;> rfl
@[simp] theorem State.modEntry_ctxs (s : State) (e : Nat) (f : Entry → Entry) : (s.modEntry e f).ctxs = s.ctxs := by
  unfold State.modEntry; split <;> rfl
@[simp] theorem State.modEntry_additions (s : State) (e : Nat) (f : Entry → Entry) : (s.modEntry e f).additions = s.additions := by
  unfold State.modEntry; split <;> rfl
@[simp] theorem State.modEntry_pairs (s : State) (e : Nat) (f : Entry → Entry) : (s.modEntry e f).pairs = s.pairs := by
  unfold State.modEntry; split <;> rfl
@[simp] theorem State.modEntry_collOut (s : State) (e : Nat) (f : Entry → Entry) : (s.modEntry e f).collOut = s.collOut := by
  unfold State.modEntry; split <;> rfl
@[simp] theorem State.modEntry_links (s : State) (e : Nat) (f : Entry → Entry) : (s.modEntry e f).links = s.links := by
  unfold State.modEntry; split <;> rfl
@[simp] theorem State.modEntry_ports (s : State) (e : Nat) (f : Entry → Entry) : (s.modEntry e f).ports = s.ports := by
  unfold State.modEntry; split <;> rfl
@[simp] theorem State.modEntry_ring (s : State) (e : Nat) (f : Entry → Entry) : (s.modEntry e f).ring = s.ring := by
  unfold State.modEntry; split <;> rfl
@[simp] theorem State.modEntry_offer (s : State) (e : Nat) (f : Entry → Entry) : (s.modEntry e f).offer = s.offer := by
  unfold State.modEntry; split <;> rfl
@[simp] theorem State.modEntry_accept (s : State) (e : Nat) (f : Entry → Entry) : (s.modEntry e f).accept = s.accept := by
  unfold State.modEntry; split <;> rfl
@[simp] theorem State.modEntry_acceptLow (s : State) (e : Nat) (f : Entry → Entry) : (s.modEntry e f).acceptLow = s.acceptLow := by
  unfold State.modEntry; split <;> rfl
@[simp] theorem State.modEntry_accepted (s : State) (e : Nat) (f : Entry → Entry) : (s.modEntry e f).accepted = s.accepted := by
  unfold State.modEntry; split <;> rfl
@[simp] theorem State.modEntry_pmax (s : State) (e : Nat) (f : Entry → Entry) : (s.modEntry e f).pmax = s.pmax := by
  unfold State.modEntry; split <;> rfl
@[simp] theorem State.modEntry_tol (s : State) (e : Nat) (f : Entry → Entry) : (s.modEntry e f).tol = s.tol := by
  unfold State.modEntry; split <;> rfl
@[simp] theorem State.modEntry_pstate (s : State) (e : Nat) (f : Entry → Entry) : (s.modEntry e f).pstate = s.pstate := by
  unfold State.modEntry; split <;> rfl
@[simp] theorem State.modEntry_pchanges (s : State) (e : Nat) (f : Entry → Entry) : (s.modEntry e f).pchanges = s.pchanges := by
  unfold State.modEntry; split <;> rfl
@[simp] theorem State.modEntry_frozen (s : State) (e : Nat) (f : Entry → Entry) : (s.modEntry e f).frozen = s.frozen := by
  unfold State.modEntry; split <;> rfl
@[simp] theorem State.modEntry_flash (s : State) (e : Nat) (f : Entry → Entry) : (s.modEntry e f).flash = s.flash := by
  unfold State.modEntry; split <;> rfl
@[simp] theorem State.modEntry_staging (s : State) (e : Nat) (f : Entry → Entry) : (s.modEntry e f).staging = s.staging := by
  unfold State.modEntry; split <;> rfl
@[simp] theorem State.modEntry_measurement (s : State) (e : Nat) (f : Entry → Entry) : (s.modEntry e f).measurement = s.measurement := by
  unfold State.modEntry; split <;> rfl
@[simp] theorem State.modEntry_svn (s : State) (e : Nat) (f : Entry → Entry) : (s.modEntry e f).svn = s.svn := by
  unfold State.modEntry; split <;> rfl
@[simp] theorem State.modEntry_hostOut (s : State) (e : Nat) (f : Entry → Entry) : (s.modEntry e f).hostOut = s.hostOut := by
  unfold State.modEntry; split <;> rfl
@[simp] theorem State.modEntry_hostEp (s : State) (e : Nat) (f : Entry → Entry) : (s.modEntry e f).hostEp = s.hostEp := by
  unfold State.modEntry; split <;> rfl
@[simp] theorem State.modEntry_tapOut (s : State) (e : Nat) (f : Entry → Entry) : (s.modEntry e f).tapOut = s.tapOut := by
  unfold State.modEntry; split <;> rfl
@[simp] theorem State.modEntry_linkOut (s : State) (e : Nat) (f : Entry → Entry) : (s.modEntry e f).linkOut = s.linkOut := by
  unfold State.modEntry; split <;> rfl

/-! ### `State.modTok` changes `dies` only -/

@[simp] theorem State.modTok_tick (s : State) (t : Dword) (f : TokRec → TokRec) : (s.modTok t f).tick = s.tick := rfl
@[simp] theorem State.modTok_schedule (s : State) (t : Dword) (f : TokRec → TokRec) : (s.modTok t f).schedule = s.schedule := rfl
@[simp] theorem State.modTok_cur (s : State) (t : Dword) (f : TokRec → TokRec) : (s.modTok t f).cur = s.cur := rfl
@[simp] theorem State.modTok_issueNo (s : State) (t : Dword) (f : TokRec → TokRec) : (s.modTok t f).issueNo = s.issueNo := rfl
@[simp] theorem State.modTok_nextId (s : State) (t : Dword) (f : TokRec → TokRec) : (s.modTok t f).nextId = s.nextId := rfl
@[simp] theorem State.modTok_fuses (s : State) (t : Dword) (f : TokRec → TokRec) : (s.modTok t f).fuses = s.fuses := rfl
@[simp] theorem State.modTok_mem (s : State) (t : Dword) (f : TokRec → TokRec) : (s.modTok t f).mem = s.mem := rfl
@[simp] theorem State.modTok_poison (s : State) (t : Dword) (f : TokRec → TokRec) : (s.modTok t f).poison = s.poison := rfl
@[simp] theorem State.modTok_blocks (s : State) (t : Dword) (f : TokRec → TokRec) : (s.modTok t f).blocks = s.blocks := rfl
@[simp] theorem State.modTok_fills (s : State) (t : Dword) (f : TokRec → TokRec) : (s.modTok t f).fills = s.fills := rfl
@[simp] theorem State.modTok_issues (s : State) (t : Dword) (f : TokRec → TokRec) : (s.modTok t f).issues = s.issues := rfl
@[simp] theorem State.modTok_reqs (s : State) (t : Dword) (f : TokRec → TokRec) : (s.modTok t f).reqs = s.reqs := rfl
@[simp] theorem State.modTok_msgs (s : State) (t : Dword) (f : TokRec → TokRec) : (s.modTok t f).msgs = s.msgs := rfl
@[simp] theorem State.modTok_entries (s : State) (t : Dword) (f : TokRec → TokRec) : (s.modTok t f).entries = s.entries := rfl
@[simp] theorem State.modTok_nodes (s : State) (t : Dword) (f : TokRec → TokRec) : (s.modTok t f).nodes = s.nodes := rfl
@[simp] theorem State.modTok_ctxs (s : State) (t : Dword) (f : TokRec → TokRec) : (s.modTok t f).ctxs = s.ctxs := rfl
@[simp] theorem State.modTok_additions (s : State) (t : Dword) (f : TokRec → TokRec) : (s.modTok t f).additions = s.additions := rfl
@[simp] theorem State.modTok_pairs (s : State) (t : Dword) (f : TokRec → TokRec) : (s.modTok t f).pairs = s.pairs := rfl
@[simp] theorem State.modTok_collOut (s : State) (t : Dword) (f : TokRec → TokRec) : (s.modTok t f).collOut = s.collOut := rfl
@[simp] theorem State.modTok_links (s : State) (t : Dword) (f : TokRec → TokRec) : (s.modTok t f).links = s.links := rfl
@[simp] theorem State.modTok_ports (s : State) (t : Dword) (f : TokRec → TokRec) : (s.modTok t f).ports = s.ports := rfl
@[simp] theorem State.modTok_ring (s : State) (t : Dword) (f : TokRec → TokRec) : (s.modTok t f).ring = s.ring := rfl
@[simp] theorem State.modTok_offer (s : State) (t : Dword) (f : TokRec → TokRec) : (s.modTok t f).offer = s.offer := rfl
@[simp] theorem State.modTok_accept (s : State) (t : Dword) (f : TokRec → TokRec) : (s.modTok t f).accept = s.accept := rfl
@[simp] theorem State.modTok_acceptLow (s : State) (t : Dword) (f : TokRec → TokRec) : (s.modTok t f).acceptLow = s.acceptLow := rfl
@[simp] theorem State.modTok_accepted (s : State) (t : Dword) (f : TokRec → TokRec) : (s.modTok t f).accepted = s.accepted := rfl
@[simp] theorem State.modTok_pmax (s : State) (t : Dword) (f : TokRec → TokRec) : (s.modTok t f).pmax = s.pmax := rfl
@[simp] theorem State.modTok_tol (s : State) (t : Dword) (f : TokRec → TokRec) : (s.modTok t f).tol = s.tol := rfl
@[simp] theorem State.modTok_pstate (s : State) (t : Dword) (f : TokRec → TokRec) : (s.modTok t f).pstate = s.pstate := rfl
@[simp] theorem State.modTok_pchanges (s : State) (t : Dword) (f : TokRec → TokRec) : (s.modTok t f).pchanges = s.pchanges := rfl
@[simp] theorem State.modTok_frozen (s : State) (t : Dword) (f : TokRec → TokRec) : (s.modTok t f).frozen = s.frozen := rfl
@[simp] theorem State.modTok_flash (s : State) (t : Dword) (f : TokRec → TokRec) : (s.modTok t f).flash = s.flash := rfl
@[simp] theorem State.modTok_staging (s : State) (t : Dword) (f : TokRec → TokRec) : (s.modTok t f).staging = s.staging := rfl
@[simp] theorem State.modTok_measurement (s : State) (t : Dword) (f : TokRec → TokRec) : (s.modTok t f).measurement = s.measurement := rfl
@[simp] theorem State.modTok_svn (s : State) (t : Dword) (f : TokRec → TokRec) : (s.modTok t f).svn = s.svn := rfl
@[simp] theorem State.modTok_hostOut (s : State) (t : Dword) (f : TokRec → TokRec) : (s.modTok t f).hostOut = s.hostOut := rfl
@[simp] theorem State.modTok_hostEp (s : State) (t : Dword) (f : TokRec → TokRec) : (s.modTok t f).hostEp = s.hostEp := rfl
@[simp] theorem State.modTok_tapOut (s : State) (t : Dword) (f : TokRec → TokRec) : (s.modTok t f).tapOut = s.tapOut := rfl
@[simp] theorem State.modTok_linkOut (s : State) (t : Dword) (f : TokRec → TokRec) : (s.modTok t f).linkOut = s.linkOut := rfl

/-! ### `State.setWaiting` changes `blocks` only -/

@[simp] theorem State.setWaiting_tick (s : State) (b i : Nat) : (s.setWaiting b i).tick = s.tick := State.modSlice_tick s _ _ _
@[simp] theorem State.setWaiting_schedule (s : State) (b i : Nat) : (s.setWaiting b i).schedule = s.schedule := State.modSlice_schedule s _ _ _
@[simp] theorem State.setWaiting_cur (s : State) (b i : Nat) : (s.setWaiting b i).cur = s.cur := State.modSlice_cur s _ _ _
@[simp] theorem State.setWaiting_issueNo (s : State) (b i : Nat) : (s.setWaiting b i).issueNo = s.issueNo := State.modSlice_issueNo s _ _ _
@[simp] theorem State.setWaiting_nextId (s : State) (b i : Nat) : (s.setWaiting b i).nextId = s.nextId := State.modSlice_nextId s _ _ _
@[simp] theorem State.setWaiting_fuses (s : State) (b i : Nat) : (s.setWaiting b i).fuses = s.fuses := State.modSlice_fuses s _ _ _
@[simp] theorem State.setWaiting_mem (s : State) (b i : Nat) : (s.setWaiting b i).mem = s.mem := State.modSlice_mem s _ _ _
@[simp] theorem State.setWaiting_poison (s : State) (b i : Nat) : (s.setWaiting b i).poison = s.poison := State.modSlice_poison s _ _ _
@[simp] theorem State.setWaiting_dies (s : State) (b i : Nat) : (s.setWaiting b i).dies = s.dies := State.modSlice_dies s _ _ _
@[simp] theorem State.setWaiting_fills (s : State) (b i : Nat) : (s.setWaiting b i).fills = s.fills := State.modSlice_fills s _ _ _
@[simp] theorem State.setWaiting_issues (s : State) (b i : Nat) : (s.setWaiting b i).issues = s.issues := State.modSlice_issues s _ _ _
@[simp] theorem State.setWaiting_reqs (s : State) (b i : Nat) : (s.setWaiting b i).reqs = s.reqs := State.modSlice_reqs s _ _ _
@[simp] theorem State.setWaiting_msgs (s : State) (b i : Nat) : (s.setWaiting b i).msgs = s.msgs := State.modSlice_msgs s _ _ _
@[simp] theorem State.setWaiting_entries (s : State) (b i : Nat) : (s.setWaiting b i).entries = s.entries := State.modSlice_entries s _ _ _
@[simp] theorem State.setWaiting_nodes (s : State) (b i : Nat) : (s.setWaiting b i).nodes = s.nodes := State.modSlice_nodes s _ _ _
@[simp] theorem State.setWaiting_ctxs (s : State) (b i : Nat) : (s.setWaiting b i).ctxs = s.ctxs := State.modSlice_ctxs s _ _ _
@[simp] theorem State.setWaiting_additions (s : State) (b i : Nat) : (s.setWaiting b i).additions = s.additions := State.modSlice_additions s _ _ _
@[simp] theorem State.setWaiting_pairs (s : State) (b i : Nat) : (s.setWaiting b i).pairs = s.pairs := State.modSlice_pairs s _ _ _
@[simp] theorem State.setWaiting_collOut (s : State) (b i : Nat) : (s.setWaiting b i).collOut = s.collOut := State.modSlice_collOut s _ _ _
@[simp] theorem State.setWaiting_links (s : State) (b i : Nat) : (s.setWaiting b i).links = s.links := State.modSlice_links s _ _ _
@[simp] theorem State.setWaiting_ports (s : State) (b i : Nat) : (s.setWaiting b i).ports = s.ports := State.modSlice_ports s _ _ _
@[simp] theorem State.setWaiting_ring (s : State) (b i : Nat) : (s.setWaiting b i).ring = s.ring := State.modSlice_ring s _ _ _
@[simp] theorem State.setWaiting_offer (s : State) (b i : Nat) : (s.setWaiting b i).offer = s.offer := State.modSlice_offer s _ _ _
@[simp] theorem State.setWaiting_accept (s : State) (b i : Nat) : (s.setWaiting b i).accept = s.accept := State.modSlice_accept s _ _ _
@[simp] theorem State.setWaiting_acceptLow (s : State) (b i : Nat) : (s.setWaiting b i).acceptLow = s.acceptLow := State.modSlice_acceptLow s _ _ _
@[simp] theorem State.setWaiting_accepted (s : State) (b i : Nat) : (s.setWaiting b i).accepted = s.accepted := State.modSlice_accepted s _ _ _
@[simp] theorem State.setWaiting_pmax (s : State) (b i : Nat) : (s.setWaiting b i).pmax = s.pmax := State.modSlice_pmax s _ _ _
@[simp] theorem State.setWaiting_tol (s : State) (b i : Nat) : (s.setWaiting b i).tol = s.tol := State.modSlice_tol s _ _ _
@[simp] theorem State.setWaiting_pstate (s : State) (b i : Nat) : (s.setWaiting b i).pstate = s.pstate := State.modSlice_pstate s _ _ _
@[simp] theorem State.setWaiting_pchanges (s : State) (b i : Nat) : (s.setWaiting b i).pchanges = s.pchanges := State.modSlice_pchanges s _ _ _
@[simp] theorem State.setWaiting_frozen (s : State) (b i : Nat) : (s.setWaiting b i).frozen = s.frozen := State.modSlice_frozen s _ _ _
@[simp] theorem State.setWaiting_flash (s : State) (b i : Nat) : (s.setWaiting b i).flash = s.flash := State.modSlice_flash s _ _ _
@[simp] theorem State.setWaiting_staging (s : State) (b i : Nat) : (s.setWaiting b i).staging = s.staging := State.modSlice_staging s _ _ _
@[simp] theorem State.setWaiting_measurement (s : State) (b i : Nat) : (s.setWaiting b i).measurement = s.measurement := State.modSlice_measurement s _ _ _
@[simp] theorem State.setWaiting_svn (s : State) (b i : Nat) : (s.setWaiting b i).svn = s.svn := State.modSlice_svn s _ _ _
@[simp] theorem State.setWaiting_hostOut (s : State) (b i : Nat) : (s.setWaiting b i).hostOut = s.hostOut := State.modSlice_hostOut s _ _ _
@[simp] theorem State.setWaiting_hostEp (s : State) (b i : Nat) : (s.setWaiting b i).hostEp = s.hostEp := State.modSlice_hostEp s _ _ _
@[simp] theorem State.setWaiting_tapOut (s : State) (b i : Nat) : (s.setWaiting b i).tapOut = s.tapOut := State.modSlice_tapOut s _ _ _
@[simp] theorem State.setWaiting_linkOut (s : State) (b i : Nat) : (s.setWaiting b i).linkOut = s.linkOut := State.modSlice_linkOut s _ _ _

end Sys2Proof.Machine
end

