-- ==== Sys2Proof/Laws/Slice.lean ====
section
/-! SUPPORT. Blocks, slices and registers: what a named update changes and what it leaves, and the pool words of R86. -/

namespace Sys2Proof.Machine

/-! ### Tables written twice -/

theorem put_put {α : Type} (t : Tab α) (k : Nat) (x y : α) : Tab.put (Tab.put t k x) k y = Tab.put t k y := by
  induction t with
  | nil => simp [Tab.put]
  | cons p t ih =>
    obtain ⟨i, z⟩ := p
    by_cases h1 : k < i
    · simp [Tab.put, h1]
    · by_cases h2 : k = i
      · simp [Tab.put, h2]
      · simp [Tab.put, h1, h2, ih]

/-- A table that already lists `x` under `k`, written with it: only where `k` stands at its place. -/
theorem put_get {α : Type} (t : Tab α) (k : Nat) (x : α) (hs : t.sorted = true) (h : t.get? k = some x) : Tab.put t k x = t := by
  rw [Tab.sorted_iff] at hs
  induction t with
  | nil => simp at h
  | cons p t ih =>
    obtain ⟨i, z⟩ := p
    rw [Tab.get?_cons] at h
    simp only [Tab.keys, List.map_cons, List.pairwise_cons] at hs
    by_cases h1 : i = k
    · rw [if_pos h1] at h
      have : z = x := by simpa using h
      subst this; subst h1
      simp [Tab.put]
    · rw [if_neg h1] at h
      have hm : k ∈ Tab.keys t := by
        clear ih hs
        induction t with
        | nil => simp at h
        | cons q t ih2 =>
          obtain ⟨j, w⟩ := q
          rw [Tab.get?_cons] at h
          by_cases h2 : j = k
          · simp [Tab.keys, h2]
          · rw [if_neg h2] at h
            have := ih2 h
            simp only [Tab.keys, List.map_cons, List.mem_cons]
            exact Or.inr this
      have h3 := hs.1 k hm
      rw [Tab.put, if_neg (by omega), if_neg (by omega), ih hs.2 h]

/-! ### Blocks and slices -/

theorem State.modBlock_get (s : State) (b c : Nat) (f : Block → Block) :
    (s.modBlock b f).blocks.get? c = if b = c then (s.blocks.get? b).map f else s.blocks.get? c := by
  unfold State.modBlock
  cases h : s.blocks.get? b with
  | none =>
    by_cases hc : b = c
    · subst hc; simp [h]
    · simp [hc]
  | some x =>
    simp only [Tab.get?_put, Option.map_some]

theorem Block.modSlice_get (b : Block) (i j : Nat) (f : Slice → Slice) :
    (b.modSlice i f).slices.get? j = if i = j then (b.slices.get? i).map f else b.slices.get? j := by
  unfold Block.modSlice
  cases h : b.slices.get? i with
  | none =>
    by_cases hc : i = j
    · subst hc; simp [h]
    · simp [hc]
  | some x => simp only [Tab.get?_put, Option.map_some]

/-- The slices after one slice is changed: that one changed, every other as before. -/
theorem State.slice?_modSlice (s : State) (b c i j : Nat) (f : Slice → Slice) :
    (s.modSlice b i f).slice? c j = if b = c ∧ i = j then (s.slice? b i).map f else s.slice? c j := by
  unfold State.slice? State.modSlice
  rw [State.modBlock_get]
  by_cases hb : b = c
  · subst hb
    cases h : s.blocks.get? b with
    | none => simp
    | some x =>
      simp only [if_true, Option.map_some, Option.bind_some, Block.modSlice_get, true_and]
  · simp [hb]

@[simp] theorem State.slice?_modSlice_self (s : State) (b i : Nat) (f : Slice → Slice) :
    (s.modSlice b i f).slice? b i = (s.slice? b i).map f := by
  rw [State.slice?_modSlice, if_pos ⟨rfl, rfl⟩]

/-- A state with the same blocks has the same slices. -/
theorem State.slice?_of_blocks {s t : State} (h : t.blocks = s.blocks) (b i : Nat) : t.slice? b i = s.slice? b i := by
  unfold State.slice?; rw [h]

@[simp] theorem State.slice?_modDie (s : State) (d : Nat) (f : Die → Die) (b i : Nat) : (s.modDie d f).slice? b i = s.slice? b i := rfl
@[simp] theorem State.slice?_modCore (s : State) (d c : Nat) (f : Core → Core) (b i : Nat) :
    (s.modCore d c f).slice? b i = s.slice? b i := rfl

/-- Two changes of one slice are one. -/
theorem State.modSlice_modSlice (s : State) (b i : Nat) (f g : Slice → Slice) :
    (s.modSlice b i f).modSlice b i g = s.modSlice b i (fun x => g (f x)) := by
  unfold State.modSlice State.modBlock
  cases h : s.blocks.get? b with
  | none => simp [h]
  | some x =>
    simp only [Tab.get?_put_self, put_put]
    congr 2
    unfold Block.modSlice
    cases h2 : x.slices.get? i with
    | none => simp [h2]
    | some y => simp [put_put]

/-- A slice changed into what it becomes. -/
theorem State.modSlice_eq (s : State) (b i : Nat) (f : Slice → Slice) {x : Slice} (h : s.slice? b i = some x) :
    s.modSlice b i f = s.modSlice b i (fun _ => f x) := by
  unfold State.modSlice State.modBlock
  unfold State.slice? at h
  cases hb : s.blocks.get? b with
  | none => simp [hb] at h
  | some y =>
    rw [hb] at h
    simp only [Option.bind_some] at h
    simp [Block.modSlice, h]

/-- The slice that executes is a slice of its block. -/
theorem State.curSlice_slice {s : State} {bid sid : Nat} {b : Block} {x : Slice} (h : s.curSlice = some (bid, sid, b, x)) :
    s.blocks.get? bid = some b ∧ s.slice? bid sid = some x := by
  unfold State.curSlice at h
  cases hc : s.cur with
  | none => rw [hc] at h; cases h
  | some p =>
    obtain ⟨p1, p2⟩ := p
    rw [hc] at h
    cases hb : s.blocks.get? p1 with
    | none => simp only [hb] at h; cases h
    | some y =>
      cases hx : y.slices.get? p2 with
      | none => simp only [hb, hx] at h; cases h
      | some z =>
        simp only [hb, hx] at h
        split at h
        · injection h with h; injection h with h1 h; injection h with h2 h; injection h with h3 h4
          subst h1; subst h2; subst h3; subst h4
          exact ⟨hb, by simp [State.slice?, hb, hx]⟩
        · cases h

/-! ### Registers (R86 to R91) -/

/-- A register after a register is set. -/
theorem Slice.reg_setReg (x : Slice) (k j : Nat) (v : RegVal) : (x.setReg k v).reg j = if k = j then v else x.reg j := by
  unfold Slice.setReg Slice.reg
  by_cases hv : v = .empty
  · rw [if_pos hv, Tab.get?_erase]
    by_cases h : k = j
    · simp [h, hv]
    · simp [h]
  · rw [if_neg hv, Tab.get?_put]
    by_cases h : k = j
    · simp [h]
    · simp [h]

@[simp] theorem Slice.reg_setReg_self (x : Slice) (k : Nat) (v : RegVal) : (x.setReg k v).reg k = v := by
  rw [Slice.reg_setReg, if_pos rfl]

/-- Setting a register changes the registers only. -/
theorem Slice.setReg_eq (x : Slice) (k : Nat) (v : RegVal) : x.setReg k v = { x with regs := (x.setReg k v).regs } := by
  unfold Slice.setReg; split <;> rfl

theorem RegVal.words_le (v : RegVal) : v.words ≤ 4 := by
  cases v with
  | empty => simp [RegVal.words]
  | held t _ => cases t <;> simp [RegVal.words, Tag.words]
  | pend t _ => cases t <;> simp [RegVal.words, Tag.words]

theorem sum_put_le (l : List Nat) (t : Tab RegVal) (k : Nat) (v : RegVal) :
    ((Tab.put t k v).map (fun p => if l.contains p.1 then 0 else p.2.words)).sum
      ≤ (t.map (fun p => if l.contains p.1 then 0 else p.2.words)).sum + v.words := by
  induction t with
  | nil => simp only [Tab.put, List.map_cons, List.map_nil, List.sum_cons, List.sum_nil]; split <;> omega
  | cons p t ih =>
    obtain ⟨j, w⟩ := p
    unfold Tab.put
    split
    · simp only [List.map_cons, List.sum_cons]; split <;> split <;> omega
    · split
      · simp only [List.map_cons, List.sum_cons]; split <;> split <;> omega
      · simp only [List.map_cons, List.sum_cons]; split <;> omega

theorem sum_erase_le (l : List Nat) (t : Tab RegVal) (k : Nat) :
    ((Tab.erase t k).map (fun p => if l.contains p.1 then 0 else p.2.words)).sum
      ≤ (t.map (fun p => if l.contains p.1 then 0 else p.2.words)).sum := by
  induction t with
  | nil => simp [Tab.erase]
  | cons p t ih =>
    obtain ⟨j, w⟩ := p
    unfold Tab.erase
    split
    · simp only [List.map_cons, List.sum_cons]; omega
    · simp only [List.map_cons, List.sum_cons]; omega

/-- Setting a register asks for at most its own words. -/
theorem Slice.words_setReg (x : Slice) (k : Nat) (v : RegVal) : (x.setReg k v).words ≤ x.words + v.words := by
  unfold Slice.setReg Slice.words
  split
  · exact Nat.le_trans (sum_erase_le _ _ _) (Nat.le_add_right _ _)
  · exact sum_put_le _ _ _ _

theorem Slice.words_setReg4 (x : Slice) (k : Nat) (v : RegVal) : (x.setReg k v).words ≤ x.words + 4 :=
  Nat.le_trans (Slice.words_setReg x k v) (Nat.add_le_add_left (RegVal.words_le v) _)

/-- A released register asks for nothing. -/
theorem Slice.words_release (x : Slice) (k : Nat) : (x.setReg k .empty).words ≤ x.words := by
  simpa [RegVal.words] using Slice.words_setReg x k .empty

/-- Registers released one after another. -/
theorem Slice.words_releases (ks : List Nat) (x : Slice) : (ks.foldl (fun y k => y.setReg k .empty) x).words ≤ x.words := by
  induction ks generalizing x with
  | nil => exact Nat.le_refl _
  | cons k ks ih => exact Nat.le_trans (ih _) (Slice.words_release x k)

theorem Slice.reg_releases (ks : List Nat) (x : Slice) (j : Nat) :
    (ks.foldl (fun y k => y.setReg k .empty) x).reg j = if j ∈ ks then .empty else x.reg j := by
  induction ks generalizing x with
  | nil => simp
  | cons k ks ih =>
    simp only [List.foldl_cons, ih, Slice.reg_setReg, List.mem_cons]
    by_cases h1 : j ∈ ks
    · simp [h1]
    · by_cases h2 : k = j
      · simp [h2]
      · have h3 : ¬ j = k := fun h => h2 h.symm
        simp [h1, h2, h3]

theorem Slice.applyWrite_words (x : Slice) (w : RegWrite) : (x.applyWrite w).words ≤ x.words + 8 := by
  unfold Slice.applyWrite
  simp only
  split
  · refine Nat.le_trans (Slice.words_setReg4 _ _ _) ?_
    have := Slice.words_setReg4 x w.d (writeV w.act w.whole (loWords w.v) w.t0 (x.reg w.d))
    omega
  · exact Nat.le_trans (Slice.words_setReg4 _ _ _) (by omega)

theorem Slice.applyWrites_words (ws : List RegWrite) (x : Slice) :
    (ws.foldl (fun y w => y.applyWrite w) x).words ≤ x.words + 8 * ws.length := by
  induction ws generalizing x with
  | nil => simp
  | cons w ws ih =>
    have h1 := ih (x.applyWrite w)
    have h2 := Slice.applyWrite_words x w
    simp only [List.foldl_cons, List.length_cons]
    omega

theorem Slice.fills_words (t : Tag) (ks : List Nat) (x : Slice) :
    (ks.foldl (fun y k => y.setReg k (fillV t (y.reg k))) x).words ≤ x.words + 4 * ks.length := by
  induction ks generalizing x with
  | nil => simp
  | cons k ks ih =>
    have h1 := ih (x.setReg k (fillV t (x.reg k)))
    have h2 := Slice.words_setReg4 x k (fillV t (x.reg k))
    simp only [List.foldl_cons, List.length_cons]
    omega

/-- What an instruction asks for: at most eight words for each register result, and four for each pending register. -/
theorem Slice.need_le (x : Slice) (n : Bool) (rels : List Nat) (o : Out) :
    x.need (x.afterWrites n rels o o.regs) [] ≤ 8 * o.regs.length + 4 * o.fills.length := by
  unfold Slice.need Slice.afterWrites
  simp only [List.map_nil, List.sum_nil, Nat.add_zero]
  have h1 := Slice.words_releases rels x
  have h3 := Slice.fills_words o.fillTag o.fills
    (if n then rels.foldl (fun y k => y.setReg k .empty) x
     else o.regs.foldl (fun y w => y.applyWrite w) (rels.foldl (fun y k => y.setReg k .empty) x))
  have h2 : (if n then rels.foldl (fun y k => y.setReg k .empty) x
     else o.regs.foldl (fun y w => y.applyWrite w) (rels.foldl (fun y k => y.setReg k .empty) x)).words ≤ x.words + 8 * o.regs.length := by
    split
    · omega
    · have := Slice.applyWrites_words o.regs (rels.foldl (fun y k => y.setReg k .empty) x)
      omega
  omega

/-! ### The pool (R94, R96) -/

/-- Where nothing waits on a core and no block of it is parked by a spill, no request has to yield (R96, R97). -/
theorem State.mustYield_quiet (s : State) (bid sid : Nat) (b : Block) (hb : s.blocks.get? bid = some b)
    (hw : (s.core b.die b.core).waiters = []) (hp : ∀ v ∈ s.residents b.die b.core, v.2.spillSaved = false) :
    s.mustYield bid sid = false := by
  have h1 : s.waitOrder b.die b.core = [] := by unfold State.waitOrder; rw [hw]; rfl
  have h2 : s.refillFirst b.die b.core b.age = false := by
    unfold State.refillFirst
    rw [List.any_eq_false]
    intro v hv
    simp [State.refillable, hp v hv]
  unfold State.mustYield
  simp only [hb, h1, h2, List.takeWhile_nil, List.any_nil, Bool.or_self]

/-- Words that are free are given at once, and no block is spilled. -/
theorem State.alloc_room (s : State) (bid sid n m : Nat) (b : Block) (hb : s.blocks.get? bid = some b) (hn : n ≤ m)
    (h1 : (m : Int) ≤ s.freeWords b.die b.core) (h2 : (m : Int) ≤ s.reserveWords b.die b.core bid)
    (hw : (s.core b.die b.core).waiters = []) (hp : ∀ v ∈ s.residents b.die b.core, v.2.spillSaved = false) :
    s.alloc bid sid n = (s, true) := by
  unfold State.alloc
  split
  · rfl
  · rw [State.mustYield_quiet s bid sid b hb hw hp]
    unfold State.requestWords
    simp only [hb]
    have h3 : (min n (b.floor - s.usedOf bid) : Nat) ≤ n := Nat.min_le_left _ _
    rw [if_neg (by decide), if_neg, if_neg]
    · simp only [Bool.and_eq_true, decide_eq_true_eq, not_and, not_lt]
      intro _; omega
    · simp only [Bool.and_eq_true, decide_eq_true_eq, not_and, not_lt]
      intro _; omega

end Sys2Proof.Machine
end

