-- ==== Sys2Proof/Laws/Run.lean ====
section
/-! SUPPORT. The frame of an instruction: what `runInstr` does with what a meaning answers, and what completion leaves (R52, R90, R115). -/

namespace Sys2Proof.Machine

/-- The slice that a completing instruction leaves. -/
def Slice.finish (x : Slice) (opc : Nat) (f : Fields) (rels : List Nat) (sticky : Bool) (o : Out) : Slice :=
  let y := { x.afterWrites f.n rels o o.regs with sticky := x.sticky || sticky }
  (if f.n then y else o.regs.foldl (fun z w => z.applyWrite w) y).retire opc f o o.regs

theorem Slice.applyWrite_eq (x : Slice) (w : RegWrite) : x.applyWrite w = { x with regs := (x.applyWrite w).regs } := by
  unfold Slice.applyWrite
  simp only
  split
  · rw [Slice.setReg_eq (x.setReg _ _), Slice.setReg_eq x]
  · rw [Slice.setReg_eq x]

theorem Slice.applyWrites_eq (ws : List RegWrite) (x : Slice) :
    ws.foldl (fun y w => y.applyWrite w) x = { x with regs := (ws.foldl (fun y w => y.applyWrite w) x).regs } := by
  induction ws generalizing x with
  | nil => rfl
  | cons w ws ih =>
    simp only [List.foldl_cons]
    rw [ih (x.applyWrite w), Slice.applyWrite_eq x w]

theorem Slice.releases_eq (ks : List Nat) (x : Slice) :
    ks.foldl (fun y k => y.setReg k .empty) x = { x with regs := (ks.foldl (fun y k => y.setReg k .empty) x).regs } := by
  induction ks generalizing x with
  | nil => rfl
  | cons k ks ih =>
    simp only [List.foldl_cons]
    rw [ih (x.setReg k .empty), Slice.setReg_eq x k]

theorem Slice.fills_eq (t : Tag) (ks : List Nat) (x : Slice) :
    ks.foldl (fun y k => y.setReg k (fillV t (y.reg k))) x
      = { x with regs := (ks.foldl (fun y k => y.setReg k (fillV t (y.reg k))) x).regs } := by
  induction ks generalizing x with
  | nil => rfl
  | cons k ks ih =>
    simp only [List.foldl_cons]
    rw [ih (x.setReg k _), Slice.setReg_eq x k]

/-- The writes of an instruction change registers only. -/
theorem Slice.afterWrites_eq (x : Slice) (n : Bool) (rels : List Nat) (o : Out) (ws : List RegWrite) :
    x.afterWrites n rels o ws = { x with regs := (x.afterWrites n rels o ws).regs } := by
  unfold Slice.afterWrites
  simp only
  rw [Slice.fills_eq]
  split
  · rw [Slice.releases_eq]
  · rw [Slice.applyWrites_eq, Slice.releases_eq]

theorem State.dropRegs_nil {s : State} {bid sid : Nat} {x : Slice} (hx : s.slice? bid sid = some x) :
    s.dropRegs bid sid [] = s.modSlice bid sid (fun y => y) := by
  unfold State.dropRegs
  simp [hx]

theorem Slice.afterWrites_sticky (x : Slice) (n : Bool) (rels : List Nat) (o : Out) (ws : List RegWrite) :
    (x.afterWrites n rels o ws).sticky = x.sticky := by
  rw [Slice.afterWrites_eq]

/-- An instruction whose words have been taken completes: the slice becomes what `finish` says, it no longer waits for words, and the rest
of the effect follows. -/
theorem completeNow_next {s : State} {bid sid : Nat} {x : Slice} (opc : Nat) (f : Fields) (rels : List Nat) (sticky : Bool) (o : Out)
    (hx : s.slice? bid sid = some x) (hr : o.rels = []) (hf : ∀ s r, o.fix s r = r) :
    completeNow opc f bid sid rels sticky o s
      = o.eff ((s.modSlice bid sid (fun _ => x.finish opc f rels sticky o)).leaveWaiters bid sid) := by
  unfold completeNow
  simp only [hx, hr, List.append_nil, List.filter_nil, State.dropRegs_nil hx, hf, State.modSlice_modSlice]
  rw [State.modSlice_eq _ _ _ _ hx]
  have hst := Slice.afterWrites_sticky x f.n rels o o.regs
  unfold Slice.finish
  rw [← hst]

/-- An instruction that has its words and whose destinations are not pending completes. -/
theorem complete_next {s : State} {bid sid : Nat} {x : Slice} (opc : Nat) (f : Fields) (rels : List Nat) (sticky : Bool) (o : Out)
    (hx : s.slice? bid sid = some x)
    (ht : ∀ k ∈ (if f.n then [] else o.regs.flatMap RegWrite.targets) ++ o.fills, (x.reg k).isPend = false)
    (ha : s.alloc bid sid (x.need (x.afterWrites f.n rels o o.regs) []) = (s, true))
    (hr : o.rels = []) (hf : ∀ s r, o.fix s r = r) :
    complete opc f bid sid rels sticky o s
      = o.eff ((s.modSlice bid sid (fun _ => x.finish opc f rels sticky o)).leaveWaiters bid sid) := by
  unfold complete
  simp only [hx, hr, List.append_nil]
  rw [if_neg]
  · simp only [ha]
    exact completeNow_next opc f rels sticky o hx hr hf
  · simp only [List.any_eq_true, Bool.and_eq_true, Bool.not_eq_true', not_exists, not_and]
    intro k hk hp
    rw [ht k hk] at hp
    cases hp

/-! ### What the frame does with an answer -/

section
variable {e : Enc} {f : Fields} {body : Env → State → Res} {s : State} {bid sid : Nat} {b : Block} {x : Slice}

/-- A meaning that completes. -/
theorem runInstr_done {o : Out} (hc : s.curSlice = some (bid, sid, b, x)) (hl : e.legal f x.mode = true)
    (hs : x.checkSources (e.typeOf f x.mode) f (e.sources f) = .ok) (hb : body (e.env f bid sid b x) s = .done o) :
    runInstr e f body s = .next (complete e.opc f bid sid (releasedRegs (e.typeOf f x.mode) f (e.sources f))
      (x.readsEmpty (e.typeOf f x.mode) f (e.sources f)) o s) := by
  unfold runInstr
  simp only [hc, hl, Bool.not_true, Bool.false_eq_true, if_false, hs, hb]

/-- A meaning that completes from a state that it has changed. -/
theorem runInstr_doneIn {o : Out} {s1 : State} (hc : s.curSlice = some (bid, sid, b, x)) (hl : e.legal f x.mode = true)
    (hs : x.checkSources (e.typeOf f x.mode) f (e.sources f) = .ok) (hb : body (e.env f bid sid b x) s = .doneIn s1 o) :
    runInstr e f body s = .next (complete e.opc f bid sid (releasedRegs (e.typeOf f x.mode) f (e.sources f))
      (x.readsEmpty (e.typeOf f x.mode) f (e.sources f)) o s1) := by
  unfold runInstr
  simp only [hc, hl, Bool.not_true, Bool.false_eq_true, if_false, hs, hb]

/-- A meaning that raises a cause. -/
theorem runInstr_raise {c : Half} {a : Dword} {m : BitVec 4} (hc : s.curSlice = some (bid, sid, b, x)) (hl : e.legal f x.mode = true)
    (hs : x.checkSources (e.typeOf f x.mode) f (e.sources f) = .ok) (hb : body (e.env f bid sid b x) s = .raise c a m) :
    runInstr e f body s = .next (s.trap bid sid c a m f.len false) := by
  unfold runInstr
  simp only [hc, hl, Bool.not_true, Bool.false_eq_true, if_false, hs, hb]

/-- A meaning that waits. -/
theorem runInstr_wait {s1 : State} (hc : s.curSlice = some (bid, sid, b, x)) (hl : e.legal f x.mode = true)
    (hs : x.checkSources (e.typeOf f x.mode) f (e.sources f) = .ok) (hb : body (e.env f bid sid b x) s = .wait s1) :
    runInstr e f body s = .next (s1.setWaiting bid sid) := by
  unfold runInstr
  simp only [hc, hl, Bool.not_true, Bool.false_eq_true, if_false, hs, hb]

/-- An illegal encoding (R52 step 6). -/
theorem runInstr_illegal (hc : s.curSlice = some (bid, sid, b, x)) (hl : e.legal f x.mode = false) :
    runInstr e f body s = .next (s.trap bid sid 0x0102 0 x.mask f.len false) := by
  unfold runInstr
  simp only [hc, hl, Bool.not_false, if_true]

/-- A source that may not be read (R52 steps 7 and 9). -/
theorem runInstr_badSource {c : Half} (hc : s.curSlice = some (bid, sid, b, x)) (hl : e.legal f x.mode = true)
    (hs : x.checkSources (e.typeOf f x.mode) f (e.sources f) = .bad c) :
    runInstr e f body s = .next (s.trap bid sid c 0 x.mask f.len false) := by
  unfold runInstr
  simp only [hc, hl, Bool.not_true, Bool.false_eq_true, if_false, hs]

/-- A pending source (R52 step 8). -/
theorem runInstr_stall (hc : s.curSlice = some (bid, sid, b, x)) (hl : e.legal f x.mode = true)
    (hs : x.checkSources (e.typeOf f x.mode) f (e.sources f) = .stall) :
    runInstr e f body s = .next (s.setWaiting bid sid) := by
  unfold runInstr
  simp only [hc, hl, Bool.not_true, Bool.false_eq_true, if_false, hs]

/-- Without a slice that can execute there is a fault; with one there is always a next state. -/
theorem runInstr_noSlice (hc : s.curSlice = none) : runInstr e f body s = .fault .noSlice := by
  unfold runInstr
  simp only [hc]

theorem runInstr_isNext (hc : s.curSlice = some (bid, sid, b, x)) : ∃ t, runInstr e f body s = .next t := by
  unfold runInstr
  simp only [hc]
  split
  · exact ⟨_, rfl⟩
  · split
    · exact ⟨_, rfl⟩
    · exact ⟨_, rfl⟩
    · split <;> exact ⟨_, rfl⟩

end

end Sys2Proof.Machine
end

