-- ==== Sys2Proof/Laws/Finish.lean ====
section
/-! SUPPORT. What a completed instruction leaves in its slice: the fields that every completion sets, and the registers (R35, R90, R91). -/

namespace Sys2Proof.Machine

/-- A register after the releases of an instruction. -/
def Slice.kept (x : Slice) (rels : List Nat) (k : Nat) : RegVal := if k ∈ rels then .empty else x.reg k

theorem Slice.reg_applyWrite (x : Slice) (w : RegWrite) (k : Nat) : (x.applyWrite w).reg k = resultOver w x.reg k := by
  unfold Slice.applyWrite resultOver
  simp only
  split
  · rename_i hw
    rw [Slice.reg_setReg, Slice.reg_setReg]
    by_cases h1 : k = w.d
    · subst h1
      simp
    · by_cases h2 : k = w.d + 1
      · simp [h2, hw]
      · have h3 : ¬ w.d + 1 = k := fun h => h2 h.symm
        have h4 : ¬ w.d = k := fun h => h1 h.symm
        simp [h1, h2, h3, h4]
  · rename_i hw
    rw [Slice.reg_setReg]
    by_cases h1 : k = w.d
    · subst h1; simp
    · have h4 : ¬ w.d = k := fun h => h1 h.symm
      simp [h1, h4, hw]

/-- A write of R90 made twice is one. -/
theorem writeV_twice (act : BitVec 4) (whole : Bool) (v : Quad Word) (t : Tag) (old : RegVal) :
    writeV act whole v t (writeV act whole v t old) = writeV act whole v t old := by
  unfold writeV
  by_cases h1 : (act = 0xF#4 || (whole && act ≠ 0)) = true
  · simp only [h1, if_true]
  · simp only [h1]
    by_cases h2 : act = 0
    · simp only [h2, if_true]
      by_cases h3 : old = .empty
      · simp [h3]
      · simp [h3]
    · rw [if_neg (by simp), if_neg h2, if_neg h2]
      have hq : ∀ (g o : Nat → Word) (a : Nat → Bool), Quad.ofFn (fun l => if a l = true then g l else
          (Quad.ofFn (fun l => if a l = true then g l else o l)).get l) = Quad.ofFn (fun l => if a l = true then g l else o l) := by
        intro g o a
        unfold Quad.ofFn Quad.get
        simp only
        congr 1 <;> (split <;> simp_all)
      exact congrArg (RegVal.held .g) (hq v.get old.lanes.get act.getLsbD)

theorem Slice.retire_eq (x : Slice) (opc : Nat) (f : Fields) (o : Out) (ws : List RegWrite) :
    x.retire opc f o ws = { x with
      latches := (x.retire opc f o ws).latches
      pc := match o.pc with | some t => t | none => x.pc + BitVec.ofNat 64 (4 * f.len)
      preds := match o.pred with | some (k, v) => x.preds.set k v | none => x.preds
      retired := x.retired + 1, run := .running, pend := false, prog := .fresh } := by
  unfold Slice.retire
  cases clearsLatches opc f.y <;> cases ws <;> rfl

/-- What every completion sets, whatever its results (R27, R85): the fields outside registers, latches, status and predicates. -/
theorem Slice.finish_eq (x : Slice) (opc : Nat) (f : Fields) (rels : List Nat) (sticky : Bool) (o : Out) :
    x.finish opc f rels sticky o = { x with
      regs := (x.finish opc f rels sticky o).regs
      latches := (x.finish opc f rels sticky o).latches
      sticky := x.sticky || sticky
      pc := match o.pc with | some t => t | none => x.pc + BitVec.ofNat 64 (4 * f.len)
      preds := match o.pred with | some (k, v) => x.preds.set k v | none => x.preds
      retired := x.retired + 1, run := .running, pend := false, prog := .fresh } := by
  have h : ∃ r, (if f.n then { x.afterWrites f.n rels o o.regs with sticky := x.sticky || sticky }
      else o.regs.foldl (fun z w => z.applyWrite w) { x.afterWrites f.n rels o o.regs with sticky := x.sticky || sticky })
      = { x with regs := r, sticky := x.sticky || sticky } := by
    rw [Slice.afterWrites_eq]
    split
    · exact ⟨_, rfl⟩
    · rw [Slice.applyWrites_eq]
      exact ⟨_, rfl⟩
  obtain ⟨r, h⟩ := h
  unfold Slice.finish
  simp only
  rw [h, Slice.retire_eq]

theorem Slice.retire_reg (x : Slice) (opc : Nat) (f : Fields) (o : Out) (ws : List RegWrite) (k : Nat) :
    (x.retire opc f o ws).reg k = x.reg k := by
  unfold Slice.retire Slice.reg
  simp only
  split
  · rfl
  · cases ws <;> rfl

theorem Slice.reg_of_regs {x y : Slice} (h : y.regs = x.regs) (k : Nat) : y.reg k = x.reg k := by unfold Slice.reg; rw [h]

theorem Slice.fills_reg (t : Tag) (ks : List Nat) (x : Slice) (j : Nat) (h : j ∉ ks) :
    (ks.foldl (fun y k => y.setReg k (fillV t (y.reg k))) x).reg j = x.reg j := by
  induction ks generalizing x with
  | nil => rfl
  | cons k ks ih =>
    simp only [List.mem_cons, not_or] at h
    simp only [List.foldl_cons]
    rw [ih _ h.2, Slice.reg_setReg, if_neg (fun e => h.1 e.symm)]

/-! ### The registers after an instruction -/

/-- A register result depends on what its own register held. -/
theorem resultOver_local (w : RegWrite) {p q : Nat → RegVal} {k : Nat} (h : p k = q k) : resultOver w p k = resultOver w q k := by
  unfold resultOver
  by_cases h1 : k = w.d
  · subst h1; simp [h]
  · by_cases h2 : w.wide = true ∧ k = w.d + 1
    · obtain ⟨_, rfl⟩ := h2; simp [h]
    · simp only [h1, if_false, h2, h]

/-- A register that a result does not name keeps its value. -/
theorem resultOver_other (w : RegWrite) (p : Nat → RegVal) {k : Nat} (h : k ∉ w.targets) : resultOver w p k = p k := by
  unfold RegWrite.targets at h
  unfold resultOver
  by_cases hw : w.wide = true
  · simp only [hw, if_true, List.mem_cons, List.not_mem_nil, or_false, not_or] at h
    simp only [h.1, if_false, hw, true_and, h.2]
  · simp only [Bool.not_eq_true] at hw
    simp only [hw, Bool.false_eq_true, if_false, List.mem_cons, List.not_mem_nil, or_false] at h
    simp [h, hw]

theorem resultOver_twice (w : RegWrite) (p : Nat → RegVal) (k : Nat) : resultOver w (resultOver w p) k = resultOver w p k := by
  unfold resultOver
  by_cases h1 : k = w.d
  · simp only [h1, if_true, writeV_twice]
  · by_cases h2 : w.wide = true ∧ k = w.d + 1
    · have h3 : ¬ w.d + 1 = w.d := by omega
      simp only [if_false, h2, if_true, h3, and_self, writeV_twice]
    · simp only [h1, if_false, h2]

/-- The registers after a list of results. -/
def resultsOver (ws : List RegWrite) (p : Nat → RegVal) : Nat → RegVal := ws.foldl (fun old w => resultOver w old) p

theorem resultsOver_local (ws : List RegWrite) {p q : Nat → RegVal} {k : Nat} (h : p k = q k) :
    resultsOver ws p k = resultsOver ws q k := by
  unfold resultsOver
  induction ws generalizing p q with
  | nil => exact h
  | cons w ws ih => exact ih (resultOver_local w h)

theorem resultsOver_other (ws : List RegWrite) (p : Nat → RegVal) {k : Nat} (h : k ∉ ws.flatMap RegWrite.targets) :
    resultsOver ws p k = p k := by
  unfold resultsOver
  induction ws generalizing p with
  | nil => rfl
  | cons w ws ih =>
    simp only [List.flatMap_cons, List.mem_append, not_or] at h
    simp only [List.foldl_cons]
    rw [ih _ h.2, resultOver_other w p h.1]

/-- No register is named by two results of a list. -/
def Apart : List RegWrite → Prop
  | [] => True
  | w :: ws => (∀ k ∈ w.targets, k ∉ ws.flatMap RegWrite.targets) ∧ Apart ws

theorem resultsOver_twice (ws : List RegWrite) (h : Apart ws) (p : Nat → RegVal) (k : Nat) :
    resultsOver ws (resultsOver ws p) k = resultsOver ws p k := by
  induction ws generalizing p with
  | nil => rfl
  | cons w ws ih =>
    have step : ∀ q, resultsOver (w :: ws) q = resultsOver ws (resultOver w q) := fun q => rfl
    rw [step, step]
    by_cases hk : k ∈ w.targets
    · rw [resultsOver_other ws _ (h.1 k hk), resultsOver_other ws _ (h.1 k hk)]
      have hx := resultsOver_other ws (resultOver w p) (h.1 k hk)
      rw [resultOver_local w hx, resultOver_twice]
    · have h1 := resultOver_other w (resultsOver ws (resultOver w p)) hk
      rw [resultsOver_local ws h1]
      exact ih h.2 _

theorem Slice.reg_applyWrites (ws : List RegWrite) (x : Slice) :
    (ws.foldl (fun y w => y.applyWrite w) x).reg = resultsOver ws x.reg := by
  unfold resultsOver
  induction ws generalizing x with
  | nil => rfl
  | cons w ws ih =>
    simp only [List.foldl_cons]
    rw [ih, show (x.applyWrite w).reg = resultOver w x.reg from funext (Slice.reg_applyWrite x w)]

theorem fillV_twice (t : Tag) (v : RegVal) : fillV t (fillV t v) = fillV t v := rfl

theorem Slice.reg_fills (t : Tag) (ks : List Nat) (x : Slice) (j : Nat) :
    (ks.foldl (fun y k => y.setReg k (fillV t (y.reg k))) x).reg j = if j ∈ ks then fillV t (x.reg j) else x.reg j := by
  induction ks generalizing x with
  | nil => simp
  | cons k ks ih =>
    simp only [List.foldl_cons]
    rw [ih, Slice.reg_setReg]
    by_cases hk : k = j
    · subst hk
      simp [fillV_twice]
    · have hk' : ¬ j = k := fun h => hk h.symm
      simp [hk, hk']

/-- The registers after an instruction, whatever its results, if no two of them and no fill name one register. -/
theorem Slice.finish_reg (x : Slice) (opc : Nat) (f : Fields) (rels : List Nat) (sticky : Bool) (o : Out)
    (hd : f.n = false → Apart o.regs) (hf : f.n = false → ∀ k ∈ o.fills, k ∉ o.regs.flatMap RegWrite.targets) (k : Nat) :
    (x.finish opc f rels sticky o).reg k =
      (let r := if f.n then x.kept rels k else resultsOver o.regs (x.kept rels) k
       if k ∈ o.fills then fillV o.fillTag r else r) := by
  unfold Slice.finish
  rw [Slice.retire_reg]
  have hk : (rels.foldl (fun y k => y.setReg k .empty) x).reg = x.kept rels := by
    funext j; rw [Slice.reg_releases]; rfl
  have hw : ∀ n j, (x.afterWrites n rels o o.regs).reg j =
      (let r := if n then x.kept rels j else resultsOver o.regs (x.kept rels) j
       if j ∈ o.fills then fillV o.fillTag r else r) := by
    intro n j
    unfold Slice.afterWrites
    simp only
    rw [Slice.reg_fills]
    cases n
    · simp only [Bool.false_eq_true, if_false]
      rw [Slice.reg_applyWrites, hk]
    · simp only [if_true]
      rw [hk]
  cases hn : f.n
  · simp only [Bool.false_eq_true, if_false]
    rw [Slice.reg_applyWrites]
    have h1 : Slice.reg { x.afterWrites false rels o o.regs with sticky := x.sticky || sticky }
        = fun j => if j ∈ o.fills then fillV o.fillTag (resultsOver o.regs (x.kept rels) j) else resultsOver o.regs (x.kept rels) j := by
      funext j
      have h0 := hw false j
      simp only [Bool.false_eq_true, if_false] at h0
      rw [← h0]
      exact Slice.reg_of_regs rfl j
    rw [h1]
    by_cases hm : k ∈ o.fills
    · rw [resultsOver_other o.regs _ (hf hn k hm)]
    · rw [if_neg hm]
      have h2 : (fun j => if j ∈ o.fills then fillV o.fillTag (resultsOver o.regs (x.kept rels) j) else resultsOver o.regs (x.kept rels) j) k
          = resultsOver o.regs (x.kept rels) k := by simp only [if_neg hm]
      rw [resultsOver_local o.regs h2, resultsOver_twice o.regs (hd hn)]
  · simp only [if_true]
    exact hw true k

theorem Slice.latch_of_latches {x y : Slice} (h : y.latches = x.latches) (k : Nat) : y.latch k = x.latch k := by unfold Slice.latch; rw [h]

/-- The latches after an instruction (R39, R40). -/
theorem Slice.finish_latches (x : Slice) (opc : Nat) (f : Fields) (rels : List Nat) (sticky : Bool) (o : Out) :
    (x.finish opc f rels sticky o).latches =
      if clearsLatches opc f.y then noLatches
      else match o.regs with
        | [] => x.latches
        | w :: _ => [some (latchOf f.n w (x.finish opc f rels sticky o)), x.latch 0, x.latch 1, x.latch 2] := by
  have hl : ∀ z z' : Slice, z'.regs = z.regs → ∀ w, latchOf f.n w z' = latchOf f.n w z := by
    intro z z' h w
    unfold latchOf
    simp only [Slice.reg_of_regs h]
  have hz : ∃ z : Slice, z.latches = x.latches ∧ x.finish opc f rels sticky o = z.retire opc f o o.regs := by
    refine ⟨_, ?_, rfl⟩
    simp only
    split
    · rw [Slice.afterWrites_eq]
    · rw [Slice.applyWrites_eq, Slice.afterWrites_eq]
  obtain ⟨z, hzl, hz⟩ := hz
  have hr : (z.retire opc f o o.regs).regs = z.regs := by
    unfold Slice.retire
    cases clearsLatches opc f.y <;> cases o.regs <;> rfl
  rw [hz]
  have h3 : ∀ w, latchOf f.n w (z.retire opc f o o.regs) = latchOf f.n w z := hl _ _ hr
  cases hc : clearsLatches opc f.y
  · simp only [Bool.false_eq_true, if_false]
    cases hw : o.regs with
    | nil => unfold Slice.retire; simp [hc, hzl]
    | cons w ws =>
      simp only
      rw [← hw, h3]
      unfold Slice.retire
      simp only [hc, hw, Bool.false_eq_true, if_false, Slice.shiftLatches]
      rw [Slice.latch_of_latches hzl, Slice.latch_of_latches hzl, Slice.latch_of_latches hzl]
  · simp only [if_true]
    unfold Slice.retire
    simp [hc, Slice.clearLatches]

/-! ### What a register holds after a write, lane by lane (R90) -/

/-- A register under a write of the active lanes: a lane that is active takes its value, any other keeps what the register held. -/
theorem writeV_lanes (act : BitVec 4) (v : Quad Word) (t : Tag) (old : RegVal) (l : Nat) (hl : l < 4) :
    (writeV act false v t old).lanes.get l = if act.getLsbD l then v.get l else old.lanes.get l := by
  have hF : ∀ l, l < 4 → (0xF#4).getLsbD l = true := by decide
  unfold writeV
  by_cases h1 : act = 0xF#4
  · subst h1
    simp only [hF l hl, if_true]
    simp [RegVal.lanes]
  · by_cases h2 : act = 0
    · subst h2
      simp only [Bool.false_and, Bool.or_false]
      rw [if_neg (by decide), if_pos trivial]
      by_cases h3 : old = .empty
      · subst h3; simp [RegVal.lanes]
      · simp [h3]
    · simp only [Bool.false_and, Bool.or_false, h1, decide_false, Bool.false_eq_true, if_false, h2]
      simp only [RegVal.lanes, Quad.get_ofFn _ hl]

/-- A register under a whole write with some lane active: every lane takes its value. -/
theorem writeV_whole (act : BitVec 4) (v : Quad Word) (t : Tag) (old : RegVal) (h : act ≠ 0) : writeV act true v t old = .held t v := by
  unfold writeV
  have h' : ¬act = 0#4 := h
  rw [if_pos (by simp [h'])]

/-- A register under a write with every lane active. -/
theorem writeV_all (whole : Bool) (v : Quad Word) (t : Tag) (old : RegVal) : writeV 0xF whole v t old = .held t v := by
  unfold writeV
  simp

end Sys2Proof.Machine
end

