-- ==== Sys2Proof/Laws/Claims.lean ====
section
/-! SUPPORT. From what a meaning answers to the words of Safety.lean: one lemma for each kind of answer. -/

namespace Sys2Proof

open Sys2Proof.Machine

theorem Ready.slice {e : Enc} {f : Fields} {s : State} {bid sid : Nat} {b : Block} {x : Slice} (h : Ready e f s bid sid b x) :
    s.blocks.get? bid = some b ∧ s.slice? bid sid = some x := State.curSlice_slice h.cur

theorem Ready.alloc {e : Enc} {f : Fields} {s : State} {bid sid : Nat} {b : Block} {x : Slice} (h : Ready e f s bid sid b x)
    (n : Nat) (hn : n ≤ 128) : s.alloc bid sid n = (s, true) :=
  State.alloc_room s bid sid n 128 b h.slice.1 hn h.room.1 h.room.2.1 h.room.2.2.1 h.room.2.2.2

/-- Completion with at most sixteen results, nothing released beside the last-use registers, and nothing read after the allocation. -/
theorem Ready.complete {e : Enc} {f : Fields} {s : State} {bid sid : Nat} {b : Block} {x : Slice} (h : Ready e f s bid sid b x)
    (o : Out) (hr : o.rels = []) (hf : ∀ s r, o.fix s r = r) (hl : 8 * o.regs.length + 4 * o.fills.length ≤ 128)
    (ht : ∀ k ∈ (if f.n then [] else o.regs.flatMap RegWrite.targets) ++ o.fills, (x.reg k).isPend = false) :
    complete e.opc f bid sid (releasedRegs (e.typeOf f x.mode) f (e.sources f)) (x.readsEmpty (e.typeOf f x.mode) f (e.sources f)) o s
      = o.eff (settled s bid sid (x.finish e.opc f (releasedRegs (e.typeOf f x.mode) f (e.sources f))
          (x.readsEmpty (e.typeOf f x.mode) f (e.sources f)) o)) :=
  complete_next e.opc f _ _ o h.slice.2 ht (h.alloc _ (Nat.le_trans (Slice.need_le x f.n _ o) hl)) hr hf

/-- With N the opcode shifts latches: a legal encoding never has N where the latches are cleared (R33). -/
theorem Enc.legal_n {e : Enc} {f : Fields} {mode : Word} (h : e.legal f mode = true) (hn : f.n = true) :
    clearsLatches e.opc f.y = false := by
  unfold Enc.legal at h
  simp only [Bool.and_eq_true] at h
  have h1 := h.1.1.1.1.1.1.1.1.1.1.2
  simp only [hn, Bool.not_true, Bool.false_or, Bool.and_eq_true, Bool.not_eq_true'] at h1
  exact h1.2

/-- The registers an instruction's results name, and those it makes pending, lie in its destination field's span. -/
def Within (e : Enc) (f : Fields) (x : Slice) (o : Out) : Prop :=
  ∀ k ∈ (if f.n then [] else o.regs.flatMap RegWrite.targets) ++ o.fills,
    f.n = false ∧ ∃ i, i < e.dst.span (e.typeOf f x.mode) f ∧ k = f.dst.toNat + i

/-- What the model's completion leaves is what `Went` says. -/
theorem Slice.finish_went {e : Enc} {f : Fields} {x : Slice} {o : Out} (hr : o.rels = [])
    (hd : f.n = false → Machine.Apart o.regs) (hf : f.n = false → ∀ k ∈ o.fills, k ∉ o.regs.flatMap RegWrite.targets) :
    Went e f x o (x.finish e.opc f (releasedRegs (e.typeOf f x.mode) f (e.sources f))
      (x.readsEmpty (e.typeOf f x.mode) f (e.sources f)) o) := by
  refine ⟨?_, ?_⟩
  · have h := Machine.Slice.finish_eq x e.opc f (releasedRegs (e.typeOf f x.mode) f (e.sources f))
      (x.readsEmpty (e.typeOf f x.mode) f (e.sources f)) o
    have hl := Machine.Slice.finish_latches x e.opc f (releasedRegs (e.typeOf f x.mode) f (e.sources f))
      (x.readsEmpty (e.typeOf f x.mode) f (e.sources f)) o
    rw [hl] at h
    unfold latchesAfter
    refine h.trans ?_
    cases o.pc <;> rfl
  · intro k
    rw [Machine.Slice.finish_reg x e.opc f _ _ o hd hf k]
    have hk : x.kept (releasedRegs (e.typeOf f x.mode) f (e.sources f)) = keptReg e f x o.rels := by
      funext j; unfold Machine.Slice.kept keptReg; rw [hr, List.append_nil]
    rw [hk]
    rfl

/-- A meaning that completes: what it leaves. -/
theorem runInstr_went {e : Enc} {f : Fields} {s : State} {bid sid : Nat} {b : Block} {x : Slice} {body : Env → State → Res} {o : Out}
    (h : Ready e f s bid sid b x) (hb : body (e.env f bid sid b x) s = .done o) (hr : o.rels = []) (hx : ∀ s r, o.fix s r = r)
    (hl : 8 * o.regs.length + 4 * o.fills.length ≤ 128) (hw : Within e f x o) (hd : f.n = false → Machine.Apart o.regs)
    (hf : f.n = false → ∀ k ∈ o.fills, k ∉ o.regs.flatMap RegWrite.targets) :
    ∃ y, runInstr e f body s = .next (o.eff (settled s bid sid y)) ∧ Went e f x o y := by
  have h1 := runInstr_done h.cur h.legal h.sources hb
  rw [h.complete o hr hx hl (fun k hk => by
    obtain ⟨hn, i, hi, rfl⟩ := hw k hk
    exact h.dst hn i hi)] at h1
  exact ⟨_, h1, Slice.finish_went hr hd hf⟩

/-- A meaning that completes from a state it has changed, in which its slice and the pool are as they were. -/
theorem runInstr_wentIn {e : Enc} {f : Fields} {s s1 : State} {bid sid : Nat} {b : Block} {x : Slice} {body : Env → State → Res} {o : Out}
    (h : Ready e f s bid sid b x) (hb : body (e.env f bid sid b x) s = .doneIn s1 o) (hr : o.rels = []) (hx : ∀ s r, o.fix s r = r)
    (hl : 8 * o.regs.length + 4 * o.fills.length ≤ 128) (hw : Within e f x o) (hd : f.n = false → Machine.Apart o.regs)
    (hf : f.n = false → ∀ k ∈ o.fills, k ∉ o.regs.flatMap RegWrite.targets)
    (hs : s1.slice? bid sid = some x) (ha : ∀ n, n ≤ 128 → s1.alloc bid sid n = (s1, true)) :
    ∃ y, runInstr e f body s = .next (o.eff (settled s1 bid sid y)) ∧ Went e f x o y := by
  have h1 := runInstr_doneIn h.cur h.legal h.sources hb
  rw [complete_next e.opc f _ _ o hs (fun k hk => by
    obtain ⟨hn, i, hi, rfl⟩ := hw k hk
    exact h.dst hn i hi) (ha _ (Nat.le_trans (Slice.need_le x f.n _ o) hl)) hr hx] at h1
  exact ⟨_, h1, Slice.finish_went hr hd hf⟩

theorem apart_one (w : RegWrite) : Machine.Apart [w] := ⟨fun _ _ => by simp, trivial⟩

/-- An instruction with no register result and no fill names no register. -/
theorem within_none {e : Enc} {f : Fields} {x : Slice} {o : Out} (h1 : o.regs = []) (h2 : o.fills = []) : Within e f x o := by
  intro k hk; simp [h1, h2] at hk

/-- One result in the destination field. -/
theorem within_one {e : Enc} {f : Fields} {x : Slice} {o : Out} {w : RegWrite} (h1 : o.regs = [w]) (h2 : o.fills = [])
    (hd : w.d = f.dst.toNat) (hs : (if w.wide then 2 else 1) ≤ e.dst.span (e.typeOf f x.mode) f) : Within e f x o := by
  intro k hk
  simp only [h1, h2, List.append_nil, List.flatMap_cons, List.flatMap_nil] at hk
  cases hn : f.n with
  | true => simp [hn] at hk
  | false =>
    simp only [hn, Bool.false_eq_true, if_false] at hk
    refine ⟨rfl, ?_⟩
    unfold RegWrite.targets at hk
    cases hw : w.wide with
    | true =>
      simp only [hw, if_true, List.mem_cons, List.not_mem_nil, or_false] at hk hs
      rcases hk with rfl | rfl
      · exact ⟨0, by omega, by omega⟩
      · exact ⟨1, by omega, by omega⟩
    | false =>
      simp only [hw, Bool.false_eq_true, if_false, List.mem_cons, List.not_mem_nil, or_false] at hk hs
      exact ⟨0, by omega, by omega⟩

/-- A meaning with no register result. -/
theorem runInstr_went_none {e : Enc} {f : Fields} {s : State} {bid sid : Nat} {b : Block} {x : Slice} {body : Env → State → Res} {o : Out}
    (h : Ready e f s bid sid b x) (hb : body (e.env f bid sid b x) s = .done o) (h1 : o.regs = []) (h2 : o.fills = [])
    (hr : o.rels = []) (hx : ∀ s r, o.fix s r = r) :
    ∃ y, runInstr e f body s = .next (o.eff (settled s bid sid y)) ∧ Went e f x o y :=
  runInstr_went h hb hr hx (by simp [h1, h2]) (within_none h1 h2) (fun _ => by rw [h1]; trivial) (fun _ k hk => by simp [h2] at hk)

/-- A meaning with one register result in the destination field. -/
theorem runInstr_went_one {e : Enc} {f : Fields} {s : State} {bid sid : Nat} {b : Block} {x : Slice} {body : Env → State → Res} {o : Out}
    {w : RegWrite} (h : Ready e f s bid sid b x) (hb : body (e.env f bid sid b x) s = .done o) (h1 : o.regs = [w]) (h2 : o.fills = [])
    (hd : w.d = f.dst.toNat) (hs : (if w.wide then 2 else 1) ≤ e.dst.span (e.typeOf f x.mode) f)
    (hr : o.rels = []) (hx : ∀ s r, o.fix s r = r) :
    ∃ y, runInstr e f body s = .next (o.eff (settled s bid sid y)) ∧ Went e f x o y :=
  runInstr_went h hb hr hx (by simp [h1, h2]) (within_one h1 h2 hd hs) (fun _ => by rw [h1]; exact apart_one w)
    (fun _ k hk => by simp [h2] at hk)

/-! ### From `Went` to lane results -/

theorem Went.advanced {e : Enc} {f : Fields} {x y : Slice} {o : Out} (h : Went e f x o y) (hp : o.pc = none) (hq : o.pred = none) :
    Advanced f x y := by
  have h1 := h.fields
  rw [hp, hq] at h1
  unfold Advanced
  have h2 : y.latches = latchesAfter e f x y o := by rw [h1]; exact (congrArg (latchesAfter e f x · o) h1.symm).symm ▸ rfl
  have h3 : y.sticky = (x.sticky || x.readsEmpty (e.typeOf f x.mode) f (e.sources f)) := by rw [h1]
  rw [h2, h3]
  exact h1

/-- The registers and the latch of a lane result. -/
theorem Went.lane {e : Enc} {f : Fields} {x y : Slice} {o : Out} {act : BitVec 4} {wide : Bool} {val : Nat → Nat} {t : Tag}
    (h : Went e f x o y) (hn : f.n = true → clearsLatches e.opc f.y = false)
    (hw : o.regs = [⟨f.dst.toNat, wide, Quad.ofFn (fun l => BitVec.ofNat 64 (val l)), t, t, false, act⟩]) (hf : o.fills = [])
    (hr : o.rels = []) : LaneResult e f x y act wide val t := by
  have hreg := h.regs
  unfold regAfter at hreg
  simp only [hw, hf, hr, List.not_mem_nil, if_false, List.foldl_cons, List.foldl_nil] at hreg
  unfold LaneResult
  cases hfn : f.n with
  | true =>
    simp only [if_true]
    simp only [hfn, if_true] at hreg
    refine ⟨hreg, ?_⟩
    have hl : y.latches = latchesAfter e f x y o := by
      have h1 := h.fields
      rw [h1]; exact (congrArg (latchesAfter e f x · o) h1.symm).symm ▸ rfl
    have hl0 : y.latch 0 = (latchesAfter e f x y o).getD 0 none := by unfold Machine.Slice.latch; rw [hl]
    rw [hl0]
    unfold latchesAfter
    simp only [hn hfn, Bool.false_eq_true, if_false, hw, List.getD_cons_zero]
    refine ⟨_, rfl, ?_⟩
    intro l hl ha
    simp only [latchOf, hfn, if_true, Quad.get_ofFn _ hl, ha]
    split
    · rfl
    · apply BitVec.eq_of_toNat_eq
      simp only [BitVec.toNat_and, BitVec.toNat_ofNat]
      have h1 : (4294967295 : Nat) % 2 ^ 64 = 2 ^ 32 - 1 := by norm_num
      rw [h1, Nat.and_two_pow_sub_one_eq_mod]
      omega
  | false =>
    simp only [Bool.false_eq_true, if_false]
    simp only [hfn, Bool.false_eq_true, if_false] at hreg
    refine ⟨?_, ?_, ?_⟩
    · intro k h1 h2
      rw [hreg k]
      unfold resultOver
      simp only [h1, if_false]
      rw [if_neg h2]
    · intro ha
      refine ⟨?_, ?_⟩
      · rw [hreg]
        unfold resultOver
        simp only [if_true, ha]
        rw [writeV_all]; rfl
      · intro hwide
        rw [hreg]
        unfold resultOver
        simp only [Nat.add_eq_left, one_ne_zero, if_false, hwide, and_self, if_true, ha]
        rw [writeV_all]; rfl
    · intro l hl
      refine ⟨?_, ?_⟩
      · rw [hreg]
        unfold resultOver
        simp only [if_true]
        rw [writeV_lanes _ _ _ _ _ hl]
        split
        · simp only [loWords, Quad.get_map, Quad.get_ofFn _ hl]
          apply BitVec.eq_of_toNat_eq
          simp only [BitVec.toNat_setWidth, BitVec.toNat_ofNat]
          omega
        · rfl
      · intro hwide
        rw [hreg]
        unfold resultOver
        simp only [Nat.add_eq_left, one_ne_zero, if_false, hwide, and_self, if_true]
        rw [writeV_lanes _ _ _ _ _ hl]
        split
        · simp only [hiWords, Quad.get_map, Quad.get_ofFn _ hl]
          apply BitVec.eq_of_toNat_eq
          simp only [BitVec.extractLsb'_toNat, BitVec.toNat_ofNat, Nat.shiftRight_eq_div_pow]
          omega
        · rfl

/-- A meaning that is a lane result computes it. -/
theorem runInstr_lane {e : Enc} {f : Fields} {s : State} {bid sid : Nat} {b : Block} {x : Slice} {body : Env → State → Res}
    {wide : Bool} {val : Nat → Nat} {tag : Tag} (h : Ready e f s bid sid b x)
    (hb : body (e.env f bid sid b x) s = laneRes (e.env f bid sid b x) wide val tag)
    (hw : (if wide then 2 else 1) ≤ e.dst.span (e.typeOf f x.mode) f) :
    ∃ y, runInstr e f body s = .next (settled s bid sid y) ∧ Advanced f x y ∧
      LaneResult e f x y (e.env f bid sid b x).act wide val tag := by
  obtain ⟨y, h1, h2⟩ := runInstr_went_one h hb rfl rfl rfl hw rfl (fun _ _ => rfl)
  exact ⟨y, h1, h2.advanced rfl rfl, h2.lane (fun hn => Enc.legal_n h.legal hn) rfl rfl rfl⟩

/-- A floating lane result: delivered where no enabled exception arises, raised otherwise. -/
theorem runInstr_fp {e : Enc} {f : Fields} {s : State} {bid sid : Nat} {b : Block} {x : Slice} {body : Env → State → Res}
    {wide : Bool} {val : Nat → Nat × Excs} {tag : Tag} (h : Ready e f s bid sid b x)
    (hb : body (e.env f bid sid b x) s = fpRes (e.env f bid sid b x) wide val tag)
    (hw : (if wide then 2 else 1) ≤ e.dst.span (e.typeOf f x.mode) f) :
    match fpCause x.mode (e.env f bid sid b x).act (fun l => (val l).2) with
    | some (c, ls) => runInstr e f body s = .next (s.trap bid sid c 0 ls f.len false)
    | none => ∃ y, runInstr e f body s = .next ((e.env f bid sid b x).advance (settled s bid sid y)) ∧ Advanced f x y ∧
        LaneResult e f x y (e.env f bid sid b x).act wide (fun l => (val l).1) ((e.env f bid sid b x).tagR tag) := by
  have hx : (e.env f bid sid b x).x = x := rfl
  split
  · rename_i c ls hc
    refine runInstr_raise h.cur h.legal h.sources ?_
    rw [hb]; unfold fpRes; rw [hx, hc]
  · rename_i hc
    have hb' : body (e.env f bid sid b x) s = .done { regs := [(e.env f bid sid b x).write wide
        (Quad.ofFn (fun l => BitVec.ofNat 64 (val l).1)) ((e.env f bid sid b x).tagR tag)], eff := (e.env f bid sid b x).advance } := by
      rw [hb]; unfold fpRes; rw [hx, hc]
    obtain ⟨y, h1, h2⟩ := runInstr_went_one h hb' rfl rfl rfl hw rfl (fun _ _ => rfl)
    exact ⟨y, h1, h2.advanced rfl rfl, h2.lane (fun hn => Enc.legal_n h.legal hn) rfl rfl rfl⟩

/-! ### Statements about every instruction of a row -/

section
variable {i : Fields → Instr} {e : Fields → Enc} {body : Fields → Env → State → Res}

theorem computes_of {wide : Env → Bool} {val : Env → Nat → Nat} {tag : Env → Tag} (he : ∀ f s, exec (i f) s = runInstr (e f) f (body f) s)
    (hb : ∀ f bid sid b x s, body f ((e f).env f bid sid b x) s
      = laneRes ((e f).env f bid sid b x) (wide ((e f).env f bid sid b x)) (val ((e f).env f bid sid b x)) (tag ((e f).env f bid sid b x)))
    (hw : ∀ f bid sid b x, (if wide ((e f).env f bid sid b x) = true then 2 else 1) ≤ (e f).dst.span ((e f).typeOf f x.mode) f) :
    Computes i e wide val tag := by
  intro f s bid sid b x h
  rw [he]
  exact runInstr_lane h (hb _ _ _ _ _ _) (hw _ _ _ _ _)

theorem computesFp_of {wide : Env → Bool} {val : Env → Nat → Nat × Excs} {tag : Env → Tag}
    (he : ∀ f s, exec (i f) s = runInstr (e f) f (body f) s)
    (hb : ∀ f bid sid b x s, body f ((e f).env f bid sid b x) s
      = fpRes ((e f).env f bid sid b x) (wide ((e f).env f bid sid b x)) (val ((e f).env f bid sid b x)) (tag ((e f).env f bid sid b x)))
    (hw : ∀ f bid sid b x, (if wide ((e f).env f bid sid b x) = true then 2 else 1) ≤ (e f).dst.span ((e f).typeOf f x.mode) f) :
    ComputesFp i e wide val tag := by
  intro f s bid sid b x h
  unfold FpCompletes
  simp only
  rw [he]
  exact runInstr_fp h (hb _ _ _ _ _ _) (hw _ _ _ _ _)

theorem gives_of {out : Env → State → Out} (he : ∀ f s, exec (i f) s = runInstr (e f) f (body f) s)
    (hg : ∀ f s bid sid b x, Ready (e f) f s bid sid b x → ∃ y, runInstr (e f) f (body f) s
        = .next ((out ((e f).env f bid sid b x) s).eff (settled s bid sid y)) ∧ Went (e f) f x (out ((e f).env f bid sid b x) s) y) :
    Gives i e out := by
  rintro f s bid sid b x h s1 o ⟨rfl, rfl⟩
  obtain ⟨y, h1, h2⟩ := hg f s1 bid sid b x h
  exact ⟨y, (he f s1).trans h1, h2⟩

theorem givesIf_of {cond : Env → State → Prop} {out : Env → State → Out} (he : ∀ f s, exec (i f) s = runInstr (e f) f (body f) s)
    (hg : ∀ f s bid sid b x, Ready (e f) f s bid sid b x → cond ((e f).env f bid sid b x) s → ∃ y, runInstr (e f) f (body f) s
        = .next ((out ((e f).env f bid sid b x) s).eff (settled s bid sid y)) ∧ Went (e f) f x (out ((e f).env f bid sid b x) s) y) :
    GivesIf i e cond out := by
  rintro f s bid sid b x h s1 o ⟨hc, rfl, rfl⟩
  obtain ⟨y, h1, h2⟩ := hg f s1 bid sid b x h hc
  exact ⟨y, (he f s1).trans h1, h2⟩

theorem raises_of {run : Env → State → Half → Dword → BitVec 4 → Prop} (he : ∀ f s, exec (i f) s = runInstr (e f) f (body f) s)
    (hg : ∀ f s bid sid b x, Ready (e f) f s bid sid b x → ∀ c a m, run ((e f).env f bid sid b x) s c a m →
      body f ((e f).env f bid sid b x) s = .raise c a m) : Raises i e run := by
  intro f s bid sid b x h c a m hr
  rw [he]
  exact runInstr_raise h.cur h.legal h.sources (hg f s bid sid b x h c a m hr)

end

end Sys2Proof
end

