-- ==== Sys2Proof/Laws/Cross.lean ====
section
/-! SUPPORT. Cross-lane instructions: an issue set that has what it needs completes in every member at once (R136, R137). -/

namespace Sys2Proof

open Sys2Proof.Machine

/-- A slice other than the one settled is as it was. -/
theorem settled_slice_other (s : State) (bid sid k : Nat) (y : Slice) (h : k ≠ sid) :
    (settled s bid sid y).slice? bid k = s.slice? bid k := by
  have h1 : ∀ t : State, (t.leaveWaiters bid sid).slice? bid k = t.slice? bid k := by
    intro t; unfold Machine.State.leaveWaiters; split <;> rfl
  unfold settled
  rw [h1, State.slice?_modSlice, if_neg]
  rintro ⟨_, h2⟩
  exact h h2.symm

/-- Members complete one after another: the state that they leave. -/
theorem complete_fold (e : Enc) (f : Fields) (bid : Nat) (b : Block) (out : Env → Out) :
    ∀ (xs : List (Nat × Slice)) (s : State), (xs.map (fun p => p.1)).Nodup → (∀ p ∈ xs, s.slice? bid p.1 = some p.2) →
      (∀ p ∈ xs, let o := out (e.env f bid p.1 b p.2)
        o.rels = [] ∧ (∀ s r, o.fix s r = r) ∧ (∀ s k, k ≠ p.1 → (o.eff s).slice? bid k = s.slice? bid k)) →
      (xs.map (fun p => (e.env f bid p.1 b p.2, out (e.env f bid p.1 b p.2)))).foldl (fun s (r : Env × Out) =>
          completeNow e.opc f bid r.1.sid (releasedRegs r.1.ty f (e.sources f)) (r.1.x.readsEmpty r.1.ty f (e.sources f)) r.2 s) s
        = settledAll bid (xs.map (fun p => (p.1, out (e.env f bid p.1 b p.2),
            p.2.finish e.opc f (releasedRegs (e.typeOf f p.2.mode) f (e.sources f))
              (p.2.readsEmpty (e.typeOf f p.2.mode) f (e.sources f)) (out (e.env f bid p.1 b p.2))))) s := by
  intro xs
  induction xs with
  | nil => intro s _ _ _; rfl
  | cons p xs ih =>
    intro s hn hs ho
    simp only [List.map_cons, List.foldl_cons, settledAll]
    have hp := ho p (List.mem_cons_self ..)
    have hc := completeNow_next e.opc f (releasedRegs (e.typeOf f p.2.mode) f (e.sources f))
      (p.2.readsEmpty (e.typeOf f p.2.mode) f (e.sources f)) (out (e.env f bid p.1 b p.2))
      (hs p (List.mem_cons_self ..)) hp.1 hp.2.1
    have he : (e.env f bid p.1 b p.2).sid = p.1 ∧ (e.env f bid p.1 b p.2).x = p.2
        ∧ (e.env f bid p.1 b p.2).ty = e.typeOf f p.2.mode := ⟨rfl, rfl, rfl⟩
    rw [he.1, he.2.1, he.2.2, hc]
    simp only [List.map_cons, List.nodup_cons] at hn
    refine ih _ hn.2 ?_ (fun q hq => ho q (List.mem_cons_of_mem _ hq))
    intro q hq
    have hne : q.1 ≠ p.1 := fun h => hn.1 (h ▸ List.mem_map_of_mem (f := fun p => p.1) hq)
    rw [hp.2.2 _ _ hne]
    have := settled_slice_other s bid p.1 q.1 (p.2.finish e.opc f (releasedRegs (e.typeOf f p.2.mode) f (e.sources f))
      (p.2.readsEmpty (e.typeOf f p.2.mode) f (e.sources f)) (out (e.env f bid p.1 b p.2))) hne
    unfold settled at this
    rw [this]
    exact hs q (List.mem_cons_of_mem _ hq)

theorem ReadyTogether.state {e : Enc} {f : Fields} {s : State} {bid sid : Nat} {b : Block} {xs : List (Nat × Slice)}
    (h : ReadyTogether e f s bid sid b xs) : s.blocks.get? bid = some b ∧ ∀ p ∈ xs, s.slice? bid p.1 = some p.2 := by
  obtain ⟨x, hx⟩ := h.cur
  have h1 := (State.curSlice_slice hx).1
  refine ⟨h1, fun p hp => ?_⟩
  unfold State.slice?
  rw [h1]
  exact h.slices p hp

/-- The members found in the block are the members. -/
theorem ReadyTogether.found {e : Enc} {f : Fields} {s : State} {bid sid : Nat} {b : Block} {xs : List (Nat × Slice)}
    (h : ReadyTogether e f s bid sid b xs) :
    (b.issueSet sid).filterMap (fun i => (b.slices.get? i).map (fun x => (i, x))) = xs := by
  rw [← h.set]
  have hs := h.slices
  clear h
  induction xs with
  | nil => rfl
  | cons p xs ih =>
    simp only [List.map_cons, List.filterMap_cons, hs p (List.mem_cons_self ..), Option.map_some]
    rw [ih (fun q hq => hs q (List.mem_cons_of_mem _ hq))]

theorem need_sum {e : Enc} {vs : List (Env × Out)} (h : ∀ r ∈ vs, r.1.needOf e r.2 ≤ 8) :
    (vs.map (fun r => r.1.needOf e r.2)).sum ≤ 8 * vs.length := by
  induction vs with
  | nil => simp
  | cons r vs ih =>
    simp only [List.map_cons, List.sum_cons, List.length_cons]
    have h1 := h r (List.mem_cons_self ..)
    have h2 := ih (fun q hq => h q (List.mem_cons_of_mem _ hq))
    omega

theorem zip_map_map {α β γ : Type} (xs : List α) (g : α → β) (h : α → β → γ) :
    (xs.zip (xs.map g)).map (fun q => h q.1 q.2) = xs.map (fun p => h p (g p)) := by
  induction xs with
  | nil => rfl
  | cons p xs ih => simp only [List.map_cons, List.zip_cons_cons, ih]

theorem mem_zip_map {α β : Type} (xs : List α) (g : α → β) {q : α × β} (h : q ∈ xs.zip (xs.map g)) : q.1 ∈ xs ∧ q.2 = g q.1 := by
  induction xs with
  | nil => simp at h
  | cons p xs ih =>
    simp only [List.map_cons, List.zip_cons_cons, List.mem_cons] at h
    rcases h with rfl | h
    · exact ⟨List.mem_cons_self .., rfl⟩
    · exact ⟨List.mem_cons_of_mem _ (ih h).1, (ih h).2⟩

/-- An issue set that has what it needs and whose results raise nothing completes together. -/
theorem runCross_together {e : Enc} {f : Fields} {s : State} {bid sid : Nat} {b : Block} {xs : List (Nat × Slice)}
    {body : List Env → Env → Out × (Nat → Excs)} (h : ReadyTogether e f s bid sid b xs)
    (hx : ∀ v ∈ xs.map (fun p => e.env f bid p.1 b p.2),
      fpCause v.x.mode v.act (body (xs.map (fun p => e.env f bid p.1 b p.2)) v).2 = none)
    (ho : ∀ p ∈ xs, let o := (body (xs.map (fun p => e.env f bid p.1 b p.2)) (e.env f bid p.1 b p.2)).1
        o.rels = [] ∧ o.fills = [] ∧ o.regs.length ≤ 1 ∧ (∀ s r, o.fix s r = r) ∧
        (∀ s k, k ≠ p.1 → (o.eff s).slice? bid k = s.slice? bid k) ∧ Within e f p.2 o) :
    ∃ ys : List Slice, ys.length = xs.length ∧
      runCross e f body s = .next (settledAll bid ((xs.zip ys).map (fun q =>
        (q.1.1, (body (xs.map (fun p => e.env f bid p.1 b p.2)) (e.env f bid q.1.1 b q.1.2)).1, q.2))) s) ∧
      ∀ q ∈ xs.zip ys, Went e f q.1.2 (body (xs.map (fun p => e.env f bid p.1 b p.2)) (e.env f bid q.1.1 b q.1.2)).1 q.2 := by
  obtain ⟨hb, hs⟩ := h.state
  set vs := xs.map (fun p => e.env f bid p.1 b p.2) with hvs
  let fin := fun (p : Nat × Slice) => p.2.finish e.opc f (releasedRegs (e.typeOf f p.2.mode) f (e.sources f))
    (p.2.readsEmpty (e.typeOf f p.2.mode) f (e.sources f)) (body vs (e.env f bid p.1 b p.2)).1
  refine ⟨xs.map fin, by simp, ?_, ?_⟩
  · obtain ⟨x0, hx0⟩ := h.cur
    unfold Executing at hx0
    have hck : ∀ p ∈ xs, e.crossCheck f p.2 = .ok := by
      intro p hp
      unfold Enc.crossCheck
      rw [h.legal p hp]
      simpa using h.sources p hp
    have hst : xs.any (fun p => e.crossCheck f p.2 = .stall) = false := by
      rw [List.any_eq_false]
      intro p hp
      rw [hck p hp]; simp
    have hexc : (vs.map (fun v => (v, body vs v))).filterMap (fun r =>
        (fpCause r.1.x.mode r.1.act r.2.2).map (fun c => (r.1.sid, c.1, c.2))) = [] := by
      rw [List.filterMap_eq_nil_iff]
      intro r hr
      obtain ⟨v, hv, rfl⟩ := List.mem_map.mp hr
      rw [hx v hv]; rfl
    have htp : (vs.map (fun v => (v, body vs v))).any (fun r => r.1.targetPend r.2.1) = false := by
      rw [List.any_eq_false]
      intro r hr
      obtain ⟨v, hv, rfl⟩ := List.mem_map.mp hr
      obtain ⟨p, hp, rfl⟩ := List.mem_map.mp hv
      unfold Env.targetPend
      have hf : (e.env f bid p.1 b p.2).f = f := rfl
      have hxx : (e.env f bid p.1 b p.2).x = p.2 := rfl
      simp only [hf, hxx]
      cases hn : f.n with
      | true => simp
      | false =>
        simp only [Bool.not_false, Bool.true_and, Bool.not_eq_true, List.any_eq_false]
        intro k hk
        have hw := (ho p hp).2.2.2.2.2
        obtain ⟨_, i, hi, rfl⟩ := hw k (by simp only [hn, Bool.false_eq_true, if_false]; exact List.mem_append_left _ hk)
        rw [h.dst hn p hp i hi]
    have hneed : (((vs.map (fun v => (v, body vs v))).map (fun r => r.1.needOf e r.2.1)).sum) ≤ 128 := by
      have h1 : ∀ r ∈ vs.map (fun v => (v, (body vs v).1)), r.1.needOf e r.2 ≤ 8 := by
        intro r hr
        obtain ⟨v, hv, rfl⟩ := List.mem_map.mp hr
        obtain ⟨p, hp, rfl⟩ := List.mem_map.mp hv
        have hq := ho p hp
        unfold Env.needOf
        simp only
        rw [hq.1]
        refine Nat.le_trans (Slice.need_le _ _ _ _) ?_
        have h3 := hq.2.2.1
        have h4 := hq.2.1
        simp only [h4, List.length_nil]
        omega
      have h2 := need_sum h1
      have h3 : (vs.map (fun v => (v, body vs v))).map (fun r => r.1.needOf e r.2.1)
          = (vs.map (fun v => (v, (body vs v).1))).map (fun r => r.1.needOf e r.2) := by simp
      rw [h3]
      have h4 : (vs.map (fun v => (v, (body vs v).1))).length ≤ 16 := by simpa [hvs] using h.few
      omega
    have halloc := State.alloc_room s bid sid _ 128 b hb hneed h.room.1 h.room.2.1 h.room.2.2.1 h.room.2.2.2
    have hfold := complete_fold e f bid b (fun v => (body vs v).1) xs s h.once hs
      (fun p hp => ⟨(ho p hp).1, (ho p hp).2.2.2.1, (ho p hp).2.2.2.2.1⟩)
    unfold runCross
    simp only [hx0, h.home, Bool.false_eq_true, if_false, h.found, List.isEmpty_nil, Bool.not_true, hst, ← hvs, hexc, htp, halloc]
    rw [if_neg (by rw [List.filterMap_eq_nil_iff.mpr (fun p hp => by rw [hck p hp])]; simp)]
    refine congrArg Host.Outcome.next ?_
    rw [zip_map_map xs fin (fun p y => (p.1, (body vs (e.env f bid p.1 b p.2)).1, y))]
    rw [← hfold, hvs, List.map_map]
    rw [List.foldl_map, List.foldl_map]
    rfl
  · intro q hq
    have hm := mem_zip_map xs fin hq
    rw [hm.2]
    have hq := ho q.1 hm.1
    refine Slice.finish_went hq.1 (fun _ => ?_) (fun _ k hk => by rw [hq.2.1] at hk; simp at hk)
    have hl := hq.2.2.1
    cases hr : (body vs (e.env f bid q.1.1 b q.1.2)).1.regs with
    | nil => trivial
    | cons w ws =>
      rw [hr] at hl
      cases ws with
      | nil => exact apart_one w
      | cons _ _ => simp at hl

/-- A cross-lane row with one register result or one predicate in every member. -/
theorem together_of {i : Fields → Instr} {e : Fields → Nat → Enc} {body : Fields → List Env → Env → Out × (Nat → Excs)}
    {out : List Env → Env → Out} {exc : List Env → Env → Nat → Excs}
    (he : ∀ f s bid sid b x, s.curSlice = some (bid, sid, b, x) → exec (i f) s = runCross (e f b.width) f (body f) s)
    (hb : ∀ f vs v, v.f = f → v.md = modOf f → body f vs v = (out vs v, exc vs v))
    (ho : ∀ f vs v, v.f = f → v.md = modOf f → (out vs v).rels = [] ∧ (out vs v).fills = [] ∧ (∀ s r, (out vs v).fix s r = r) ∧
      (∀ s, (out vs v).eff s = s) ∧
      ((out vs v).regs = [] ∨ ∃ w, (out vs v).regs = [w] ∧ w.d = f.dst.toNat ∧ ∀ width x, v.ty = (e f width).typeOf f x →
        (if w.wide then 2 else 1) ≤ (e f width).dst.span v.ty f)) :
    GivesTogether i e out exc := by
  intro f s bid sid b xs h
  obtain ⟨x0, hx0⟩ := h.cur
  intro env vs hx
  rw [he f s bid sid b x0 hx0]
  have h1 := runCross_together (body := body f) h
    (by
      intro v hv
      obtain ⟨p, hp, rfl⟩ := List.mem_map.mp hv
      rw [hb f _ _ rfl rfl]
      exact hx _ (List.mem_map_of_mem (f := env) hp))
    (by
      intro p hp
      simp only
      rw [hb f _ _ rfl rfl]
      obtain ⟨h2, h3, h4, h5, h6⟩ := ho f (xs.map (fun p => (e f b.width).env f bid p.1 b p.2)) ((e f b.width).env f bid p.1 b p.2) rfl rfl
      refine ⟨h2, h3, ?_, h4, fun s k _ => by rw [h5], ?_⟩
      · rcases h6 with h6 | ⟨w, h6, _⟩ <;> rw [h6] <;> simp
      · rcases h6 with h6 | ⟨w, h6, h7, h8⟩
        · exact within_none h6 h3
        · exact within_one h6 h3 h7 (h8 b.width p.2.mode rfl))
  obtain ⟨ys, hl, hr, hw⟩ := h1
  refine ⟨ys, hl, ?_, ?_⟩
  · rw [hr]
    congr 2
    apply List.map_congr_left
    intro q _
    rw [hb f _ _ rfl rfl]
  · intro q hq
    have := hw q hq
    rw [hb f _ _ rfl rfl] at this
    exact this

end Sys2Proof
end

