-- ==== Sys2Proof/Laws/Gate.lean ====
section
/-! SUPPORT. Verdicts change caches only (R178, R364, R365): the slice that executes and the pool's words are as they were. -/

namespace Sys2Proof

open Sys2Proof.Machine

theorem Judged.refl (s : State) : Judged s s := ⟨rfl, fun _ _ => ⟨rfl, rfl⟩⟩

theorem Judged.trans {s t u : State} (h : Judged s t) (k : Judged t u) : Judged s u := by
  refine ⟨?_, fun d c => ⟨(k.2 d c).1.trans (h.2 d c).1, (k.2 d c).2.trans (h.2 d c).2⟩⟩
  rw [k.1]
  simp only
  rw [h.1]

theorem State.core_modDie (s : State) (d e c : Nat) (f : Die → Die) :
    (s.modDie d f).core e c = if d = e then ((f (s.die d)).cores.get? c).getD Core.idle else s.core e c := by
  unfold State.core State.die State.modDie
  simp only
  rw [Tab.get?_put]
  by_cases h : d = e
  · subst h; simp; rfl
  · simp [h]

/-- A change of a die that leaves its cores. -/
theorem judged_modDie (s : State) (d : Nat) (f : Die → Die) (hf : ∀ x, (f x).cores = x.cores) : Judged s (s.modDie d f) := by
  refine ⟨rfl, fun e c => ?_⟩
  rw [State.core_modDie]
  split
  · rename_i h; subst h; rw [hf]; exact ⟨rfl, rfl⟩
  · exact ⟨rfl, rfl⟩

/-- A change of a core that leaves its partition word and its waiting requests. -/
theorem judged_modCore (s : State) (d k : Nat) (f : Core → Core) (hf : ∀ x, (f x).partw = x.partw ∧ (f x).waiters = x.waiters) : Judged s (s.modCore d k f) := by
  refine ⟨rfl, fun e c => ?_⟩
  unfold State.modCore
  rw [State.core_modDie]
  split
  · rename_i h; subst h
    simp only
    rw [Tab.get?_put]
    split
    · rename_i h; subst h; simp [hf]
    · exact ⟨rfl, rfl⟩
  · exact ⟨rfl, rfl⟩

theorem judged_cacheEntry (s : State) (die bay ctx pa : Nat) (e : Dword) : Judged s (s.cacheEntry die bay ctx pa e) := by
  unfold State.cacheEntry
  refine judged_modDie s die _ (fun x => ?_)
  split <;> rfl

theorem judged_walkFrom (die bay ctx : Nat) (hostTree : Bool) (va : Nat) (fuel : Nat) (s : State) (level pa : Nat) :
    Judged s (walkFrom die bay ctx hostTree va fuel s level pa).1 := by
  induction fuel generalizing s level pa with
  | zero => exact Judged.refl s
  | succ n ih =>
    unfold walkFrom
    simp only
    split
    · exact Judged.refl s
    · repeat' split
      all_goals first
        | exact Judged.refl s
        | exact (judged_cacheEntry ..).trans (ih ..)
        | exact judged_cacheEntry ..

theorem judged_walk (s : State) (ctx : Nat) (o : Owner) (va : Nat) : Judged s (s.walk ctx o va).1 := by
  unfold State.walk
  split
  · exact Judged.refl s
  · unfold State.walkTree
    split
    · exact Judged.refl s
    · simp only
      split <;> split <;> first | exact Judged.refl s | exact judged_walkFrom ..

theorem judged_verdict (s : State) (ctx : Nat) (o : Owner) (va : Nat) (k : Access) (keys : Dword) (cls : ReqClass) :
    Judged s (s.verdict ctx o va k keys cls).1 := by
  have h := judged_walk s ctx o va
  unfold State.verdict
  split
  · rename_i s1 c hw; rw [hw] at h; exact h
  · rename_i s1 l hw
    rw [hw] at h
    simp only at h
    split
    · split <;> exact h
    · simp only
      repeat' split
      all_goals exact h

theorem judged_dropV (s : State) (d c ctx va : Nat) : Judged s (s.dropV d c ctx va) := judged_modCore s d c _ (fun _ => ⟨rfl, rfl⟩)

theorem judged_judge (s : State) (v : Env) (kind : Access) (cached : Bool) (va n : Nat) : Judged s (s.judge v kind cached va n).1 := by
  have h0 : Judged s (if cached && s.lineFails v va then s.dropV v.b.die v.b.core v.b.ctx va else s) := by
    split
    · exact judged_dropV ..
    · exact Judged.refl s
  unfold State.judge
  generalize (if cached && s.lineFails v va then s.dropV v.b.die v.b.core v.b.ctx va else s) = t at h0
  refine h0.trans ?_
  simp only
  split
  · exact Judged.refl t
  · rename_i o _
    have h := judged_verdict t v.b.ctx o va kind (t.keysOf v.b.ctx v.b.die) .slice
    split
    · exact h
    · repeat' split
      all_goals first
        | exact Judged.refl t
        | exact h.trans (judged_dropV ..)

/-- The state after the verdicts on all elements. -/
theorem judged_gate {s s1 : State} {v : Env} {kind : Access} {cached : Bool} {es : List MElem} {ps : List Placed}
    (h : s.gate v kind cached es = .go s1 ps) : Judged s s1 := by
  have hf : ∀ (l : List (Nat × Nat × Nat × Nat × Nat × Nat)) (acc : State × List (Nat × Nat × Nat × Nat × Nat × Nat × Judge)),
      Judged acc.1 (l.foldl (fun (acc : State × List (Nat × Nat × Nat × Nat × Nat × Nat × Judge)) p =>
        let (e, l, k, off, va, n) := p
        let (s1, j) := acc.1.judge v kind cached va n
        (s1, acc.2 ++ [(e, l, k, off, va, n, j)])) acc).1 := by
    intro l
    induction l with
    | nil => intro acc; exact Judged.refl _
    | cons p l ih =>
      intro acc
      obtain ⟨e, k, j, off, va, n⟩ := p
      simp only [List.foldl_cons]
      refine Judged.trans ?_ (ih _)
      exact judged_judge ..
  unfold State.gate at h
  simp only at h
  split at h
  · cases h
  · split at h
    · injection h with h1 _
      rw [← h1]
      exact hf _ (s, [])
    · cases h

theorem judged_checkGlobal {s s1 : State} {v : Env} {q : FormRule} {kind : Access} {cached : Bool} {es : List MElem} {ps : List Placed}
    (h : s.checkGlobal v q kind cached es = .go s1 ps) : Judged s s1 := by
  unfold State.checkGlobal at h
  split at h
  · cases h
  · exact judged_gate h

/-- After verdicts the slices are the same, and so are the pool's words. -/
theorem Judged.slice {s t : State} (h : Judged s t) (b i : Nat) : t.slice? b i = s.slice? b i :=
  State.slice?_of_blocks (by rw [h.1]) b i

theorem Judged.alloc {e : Enc} {f : Fields} {s t : State} {bid sid : Nat} {b : Block} {x : Slice} (r : Ready e f s bid sid b x)
    (h : Judged s t) (n : Nat) (hn : n ≤ 128) : t.alloc bid sid n = (t, true) := by
  have hb : t.blocks = s.blocks := by rw [h.1]
  have hf : t.fills = s.fills := by rw [h.1]
  have hu : ∀ k, t.usedOf k = s.usedOf k := by intro k; unfold State.usedOf State.drainOf; rw [hb, hf]
  have hr : ∀ d c, t.residents d c = s.residents d c := by intro d c; unfold State.residents; rw [hb]
  have hd : ∀ d c, t.drainH d c = s.drainH d c := by
    intro d c; unfold State.drainH State.drainOf State.orphanWords; rw [hb, hf]
  have hp : ∀ d c, t.poolSize d c = s.poolSize d c := by intro d c; unfold State.poolSize; rw [(h.2 d c).1]
  refine State.alloc_room t bid sid n 128 b (by rw [hb]; exact r.slice.1) hn ?_ ?_ (by rw [(h.2 _ _).2]; exact r.room.2.2.1)
    (by rw [hr]; exact r.room.2.2.2)
  · have := r.room.1
    unfold State.freeWords at this ⊢
    simp only [hu, hr, hd, hp]
    exact this
  · have := r.room.2.1
    unfold State.reserveWords at this ⊢
    simp only [hu, hr, hd, hp]
    exact this

/-- A meaning that completes from the state after its verdicts. -/
theorem runInstr_wentJudged {e : Enc} {f : Fields} {s s1 : State} {bid sid : Nat} {b : Block} {x : Slice} {body : Env → State → Res} {o : Out}
    (h : Ready e f s bid sid b x) (hj : Judged s s1) (hb : body (e.env f bid sid b x) s = .doneIn s1 o) (hr : o.rels = [])
    (hx : ∀ s r, o.fix s r = r) (hl : 8 * o.regs.length + 4 * o.fills.length ≤ 128) (hw : Within e f x o)
    (hd : f.n = false → Machine.Apart o.regs) (hf : f.n = false → ∀ k ∈ o.fills, k ∉ o.regs.flatMap RegWrite.targets) :
    ∃ y, runInstr e f body s = .next (o.eff (settled s1 bid sid y)) ∧ Went e f x o y :=
  runInstr_wentIn h hb hr hx hl hw hd hf (by rw [hj.slice]; exact h.slice.2) (fun n hn => hj.alloc h n hn)

end Sys2Proof
end

