-- ==== Sys2Proof/Tests/Slice0.lean ====
section
/-! SUPPORT. The model's own tests: the spec's worked encodings decoded, the checks of well-formedness, a state for the hypotheses of each
statement, and worked examples of the spec. -/

namespace Sys2Proof.Tests

set_option Elab.async false

open Sys2Proof Sys2Proof.Machine

/-! ### Small states -/

/-- The fields of a base word and what follows it. -/
def F (d a b : BitVec 6) (t : Tail := .one) : Fields := ⟨false, false, d, false, a, false, b, t⟩

/-- An extension word with a type and a MOD. -/
def X (tov : BitVec 5) (md : BitVec 11 := 0) (sc : BitVec 6 := 0) : Ext := ⟨false, sc, 0, tov, 0, false, md⟩

/-- A uniform register. -/
def U (w : Word) : RegVal := .held .u (Quad.all w)

/-- A slice whose 60 registers hold 0, with those of a list set. -/
def tSlice (rs : List (Nat × RegVal)) : Slice :=
  { Slice.placed 0x7FF0 0 with
    regs := (List.range 60).map (fun k => (k, match rs.find? (fun r => r.1 == k) with | some r => r.2 | none => U 0)) }

/-- The physical address of the data that tests use; own-package memory of die 0 is mapped onto itself below 512 MiB. -/
def tPa : Nat := 0x100000

/-- Its virtual address in the package's own window (R172). -/
def tVa : Nat := 0x7FF * 2 ^ 53 + tPa

/-- The two registers of an address. -/
def at' (k off : Nat) : List (Nat × RegVal) := [(k, U (BitVec.ofNat 32 (tVa + off))), (k + 1, U (BitVec.ofNat 32 ((tVa + off) / 2 ^ 32)))]

/-- The context of the tests: one page table with one big page, leased by the node. -/
def tBase (bytes : List Byte) : State :=
  let s := State.reset.load []
  let s1 := ((s.physWrite 0 0x30000 (leBytes 8 (4 * 2 ^ 32 + 3))).physWrite 0 0x40000 (leBytes 8 0x1003D)).physWrite 0 tPa bytes
  let s2 := s1.modCtx 0 (fun c => { c with lroot := List.replicate 8 0x30000, roundLim := 1000, pinQuota := 4 })
  { s2 with nodes := s2.nodes.map (fun n => (n.1, { n.2 with leases := [⟨0x7FF * 2 ^ 53, 8192, 0, false⟩] })), cur := some (0, 0), schedule := [] }

/-- A block of one slice that executes. -/
def tState (rs : List (Nat × RegVal)) (fx : Slice → Slice := id) (fb : Block → Block := id) (bytes : List Byte := []) (fs : State → State := id) :
    State :=
  fs ((tBase bytes).modBlock 0 (fun b => fb { b with slices := [(0, fx (tSlice rs))] }))

/-! ### Witnesses -/

/-- `Ready`, computed. -/
def readyB (e : Enc) (f : Fields) (s : State) (bid : Nat) (b : Block) (x : Slice) : Bool :=
  e.legal f x.mode && x.checkSources (e.typeOf f x.mode) f (e.sources f) == .ok
    && (f.n || (List.range (e.dst.span (e.typeOf f x.mode) f)).all (fun k => !(x.reg (f.dst.toNat + k)).isPend))
    && decide (128 ≤ s.freeWords b.die b.core) && decide (128 ≤ s.reserveWords b.die b.core bid)
    && (s.core b.die b.core).waiters.isEmpty && (s.residents b.die b.core).all (fun v => v.2.spillSaved == false)

/-- A row, an instruction's fields, a state, and what a statement asks of the operands and the state. -/
structure Wit where
  e : Enc
  f : Fields
  s : State
  c : Env → State → Bool := fun _ _ => true

/-- The hypotheses of a statement about the row stand together. -/
def Wit.Meets (w : Wit) : Prop :=
  ∃ bid sid b x, Ready w.e w.f w.s bid sid b x ∧ w.c (w.e.env w.f bid sid b x) w.s = true

/-- The same, computed. -/
def Wit.holds (w : Wit) : Bool :=
  match w.s.curSlice with
  | none => false
  | some (bid, sid, b, x) => readyB w.e w.f w.s bid b x && w.c (w.e.env w.f bid sid b x) w.s

theorem Wit.meets (w : Wit) (h : w.holds = true) : w.Meets := by
  unfold Wit.holds at h
  split at h
  · cases h
  · rename_i bid sid b x hc
    simp only [readyB, Bool.and_eq_true, Bool.or_eq_true, decide_eq_true_eq, beq_iff_eq, List.all_eq_true, List.mem_range,
      Bool.not_eq_true', List.isEmpty_iff] at h
    obtain ⟨⟨⟨⟨⟨⟨⟨h1, h2⟩, h3⟩, h4⟩, h5⟩, h7⟩, h8⟩, h6⟩ := h
    refine ⟨bid, sid, b, x, ⟨hc, h1, h2, fun hn k hk => ?_, h4, h5, h7, h8⟩, h6⟩
    rcases h3 with h3 | h3
    · rw [h3] at hn; cases hn
    · exact h3 k hk

theorem Wit.all_meet (ws : List Wit) (h : ws.all Wit.holds = true) : ∀ w ∈ ws, w.Meets :=
  fun w hw => w.meets (List.all_eq_true.mp h w hw)

/-- A slice with numbers in its registers: v1 = 7, v2 = −3, v3 = 1, v4 = 40, and pairs of small numbers above. -/
def nums : State := tState [(1, U 7), (2, U 0xFFFFFFFD), (3, U 1), (4, U 40), (6, U 5), (8, U 3), (10, U 1)]

/-- `Onward`, computed, for the executing slice. -/
def onB (v : Env) (s1 : State) : Bool :=
  match s1.slice? v.bid v.sid, s1.blocks.get? v.bid with
  | some y, some b => decide (y = { v.x with prog := y.prog, stamps := y.stamps, relFail := y.relFail, run := y.run, pend := y.pend })
      && decide (128 ≤ s1.freeWords b.die b.core) && decide (128 ≤ s1.reserveWords b.die b.core v.bid)
  | _, _ => false

/-- A guard of predicate 1 on an extension word, and a slice in which it selects nothing or some lanes. -/
def G (e : Ext) : Ext := { e with gov := 9 }
def sel (p : BitVec 4) (x : Slice) : Slice := { x with preds := x.preds.set 1 p }



/-! ### Words that the spec gives, decoded -/

/-- The instruction of up to three words. -/
def dec (w e l : Word) : Except Reject Instr := decodeWords w e l

/-- Worked encodings of the spec. -/
theorem test_decode_integer_float :
    dec 0x40900082 0x00090000 0 = .ok (.imul { F 0 1 2 (.two (X 18)) with n := true }) ∧
    dec 0x13C20082 0 0 = .ok (.aff (F 8 1 2)) ∧
    dec 0x42C160C3 0 0 = .ok (.iaddc { F 5 1 3 (.two (X 0)) with la := true, lb := true }) ∧
    dec 0x5000A080 0x00026001 0 = .ok (.cvt { F 2 1 0 (.two { X 4 0x1 with rov := 6 }) with la := true }) ∧
    dec 0x51C08205 0x00008002 0 = .ok (.fcmp (F 2 4 5 (.two (X 1 0x2)))) ∧
    dec 0xBC000000 0x0 0x300 = .ok (.rel (F 0 0 0 (.three (X 0) 0x300))) := by
  decide +kernel

/-- Worked encodings of the spec. -/
theorem test_decode_lanes :
    dec 0x95C24100 0x00008001 0x4 = .ok (.topk (F 9 2 0 (.three (X 1 0x1) 0x4))) ∧
    dec 0x55436500 0x000C0005 0 = .ok (.rdx { F 13 10 0 (.two (X 24 0x5)) with la := true }) ∧
    dec 0x59420104 0x2 0 = .ok (.tld (F 8 2 4 (.two (X 0 0x2)))) ∧
    dec 0x7B000000 0x2 0 = .ok (.movsO (F 0 0 0 (.two (X 0 0x2)))) := by
  decide +kernel

/-- Worked encodings of the spec. -/
theorem test_decode_control :
    dec 0xB8000000 0x0 0xFFFFFFD4 = .ok (.bra (F 0 0 0 (.three (X 0) 0xFFFFFFD4))) ∧
    dec 0x3A800000 0 0 = .ok (.nop (F 0 0 0)) ∧
    dec 0xBAC00000 0x0 0xF = .ok (.regang (F 0 0 0 (.three (X 0) 0xF))) ∧
    dec 0xAD010100 0x0 0x3 = .ok (.gjoin (F 4 2 0 (.three (X 0) 0x3))) ∧
    dec 0x3E000021 0 0 = .ok (.trap (F 0 0 33)) ∧
    dec 0x3FC00005 0 0 = .ok (.bkpt (F 0 0 5)) ∧
    dec 0x7E400000 0x1 0 = .ok (.tret (F 0 0 0 (.two (X 0 0x1)))) ∧
    dec 0x3E840200 0 0 = .ok (.errl (F 16 4 0)) ∧
    dec 0x7E808000 0x1 0 = .ok (.errl (F 2 0 0 (.two (X 0 0x1)))) ∧
    dec 0x2C800000 0 0 = .ok (.commit (F 0 0 0)) ∧
    dec 0x6CC00200 0x1 0 = .ok (.gsync (F 0 4 0 (.two (X 0 0x1)))) ∧
    dec 0x7D408200 0x2 0 = .ok (.setpk (F 2 4 0 (.two (X 0 0x2)))) := by
  decide +kernel

/-- Worked encodings of the spec. -/
theorem test_decode_memory :
    dec 0x98020300 0x000C0002 0x100 = .ok (.ld (F 8 6 0 (.three (X 24 0x2) 0x100))) ∧
    dec 0x5BC00000 0x40 0 = .ok (.waitc (F 0 0 0 (.two (X 0 0x40)))) ∧
    dec 0x5C000100 0xD 0 = .ok (.pres (F 0 2 0 (.two (X 0 0xD)))) ∧
    dec 0x6E000000 0xA 0 = .ok (.fence (F 0 0 0 (.two (X 0 0xA)))) ∧
    dec 0x6E00C000 0x34 0 = .ok (.fence (F 3 0 0 (.two (X 0 0x34)))) ∧
    dec 0x59C14300 0x000C0002 0 = .ok (.lda (F 5 6 0 (.two (X 24 0x2)))) ∧
    dec 0x9A000307 0x000C0002 0x8 = .ok (.strl (F 0 6 7 (.three (X 24 0x2) 0x8))) ∧
    dec 0x5A428186 0x000C0000 0 = .ok (.rld (F 10 3 6 (.two (X 24)))) := by
  decide +kernel

/-- Worked encodings of the spec. -/
theorem test_decode_atomics :
    dec 0x6A814307 0x000B0080 0 = .ok (.faddl (F 5 6 7 (.two (X 22 0x80)))) ∧
    dec 0x69400307 0x000B0003 0 = .ok (.mwait (F 0 6 7 (.two (X 22 0x3)))) ∧
    dec 0x69810308 0x120C01DA 0 = .ok (.atom (F 4 6 8 (.two (X 24 0x1DA 9)))) ∧
    dec 0x6BC00307 0x8000 0 = .ok (.redU (F 0 6 7 (.two (X 1)))) ∧
    dec 0x5AC28186 0x0E0C0000 0 = .ok (.ratm (F 10 3 6 (.two (X 24 0x0 7)))) := by
  decide +kernel

/-- Worked encodings of the spec. -/
theorem test_decode_tile :
    dec 0xA0000000 0 0 = .ok (.claim (F 0 0 0 (.three (X 0) 0x0))) ∧
    dec 0x6240004B 0x1 0 = .ok (.mwtb { F 0 0 11 (.two (X 0 0x1)) with lb := true }) ∧
    dec 0x6280060A 0x9202003F 0 = .ok (.drn (F 0 12 10 (.two { X 4 0x3F 9 with lc := true }))) ∧
    dec 0xA0800084 0x10000000 0x000F7F00 = .ok (.sld (F 0 1 4 (.three (X 0 0x0 8) 0xF7F00))) ∧
    dec 0x610020C2 0x120200FF 0 = .ok (.mma { F 0 1 2 (.two (X 4 0xFF 9)) with la := true, lb := true }) ∧
    dec 0x2200C000 0 0 = .ok (.mbat (F 3 0 0)) := by
  decide +kernel

/-- Worked encodings of the spec. -/
theorem test_decode_engine :
    dec 0x70050206 0x10000044 0 = .ok (.cpy (F 20 4 6 (.two (X 0 0x44 8)))) ∧
    dec 0x71060000 0x23 0 = .ok (.qfen (F 24 0 0 (.two (X 0 0x23)))) ∧
    dec 0x71400C00 0 0 = .ok (.tokw (F 0 24 0 (.two (X 0)))) ∧
    dec 0x71C68A00 0 0 = .ok (.tokr (F 26 20 0 (.two (X 0)))) ∧
    dec 0x72850200 0x00068006 0 = .ok (.rrscO (F 20 4 0 (.two (X 13 0x6)))) ∧
    dec 0x73458300 0x6 0 = .ok (.ragr (F 22 6 0 (.two (X 0 0x6)))) := by
  decide +kernel

/-- Worked encodings of the spec. -/
theorem test_decode_kernel :
    dec 0x74408208 0 0 = .ok (.kreg (F 2 4 8 (.two (X 0)))) ∧
    dec 0x74400003 0x1 0 = .ok (.kregDrop (F 0 0 3 (.two (X 0 0x1)))) ∧
    dec 0x74814A00 0x2 0 = .ok (.nodeq (F 5 20 0 (.two (X 0 0x2)))) ∧
    dec 0x74050300 0 0 = .ok (.lnch (F 20 6 0 (.two (X 0)))) ∧
    dec 0xBD020300 0x0 0x40 = .ok (.pqry (F 8 6 0 (.three (X 0) 0x40))) ∧
    dec 0xBEC00000 0x0 0x3 = .ok (.layw (F 0 0 0 (.three (X 0) 0x3))) := by
  decide +kernel

/-! ### Well-formedness -/

/-- For each check of well-formedness a term that fails it and no other. -/
theorem test_ill_formed :
    (Instr.iadd (F 0 0 0 (.three (X 0) 0))).failed = [] ∧
    (Instr.bra (F 0 0 0)).failed = [.length] ∧
    (Instr.iadd (F 60 0 0)).failed = [.destination] ∧
    (Instr.icmp (F 8 0 0 (.two (X 16)))).failed = [.destination] ∧
    (Instr.iadd { F 1 60 0 with la := true }).failed = [.lastUse] ∧
    (Instr.imad (F 1 2 3 (.two { X 16 0 62 with lc := true }))).failed = [.lastUse] ∧
    (Instr.iadd { F 1 2 3 with n := true }).failed = [.noWriteBack] ∧
    (Instr.iadd (F 1 2 3 (.two { X 16 with gov := 3 }))).failed = [.guard] ∧
    (Instr.iadd (F 1 2 3 (.two (X 26)))).failed = [.type] ∧
    (Instr.fadd (F 1 2 3 (.two { X 1 with rov := 7 }))).failed = [.rounding] ∧
    (Instr.kreg (F 1 2 4 (.two (X 0 1)))).failed = [.form] := by
  decide +kernel



/-- Every integer, carry, bitwise and address instruction, on 32 and on 64 bits, and a division by zero. -/
def wsInteger : List Wit :=
  let two := fun (ty : BitVec 5) (opc : Nat) (sat : Bool) (types : Nat → Bool) => (⟨encInt opc [1, 2, 3] .ty .no types sat, F 20 6 8 (.two (X ty)), nums, fun _ _ => true⟩ : Wit)
  ((List.range 3).map (fun o => two 18 o true typeInt)) ++ [two 19 3 false typeInt, two 18 5 true typeInt, two 19 6 false typeInt, two 18 7 false typeInt, two 18 8 false typeInt,
    ⟨encInt 0x04 [2, 3] .ty .ty typeInt true, F 20 6 8 (.two (X 19 0 10)), nums, fun _ _ => true⟩,
    ⟨encInt 0x05 [1, 2, 3] .ty .no typeInt true, F 20 6 12 (.two (X 18)), nums, fun v _ => elemInt v.ty (v.bl 0) == 0⟩,
    ⟨encInt 0x09 [1, 2] .no .no typeInt true, F 20 2 0 (.two (X 18)), nums, fun _ _ => true⟩,
    ⟨encInt 0x0A [1, 2] .no .no typeInt true, F 20 2 0 (.two (X 18)), nums, fun _ _ => true⟩,
    ⟨encCarry 0x0B (F 20 6 8 (.two (X 22 1 10))), F 20 6 8 (.two (X 22 1 10)), nums, fun v _ => bitOf v.md 0⟩,
    ⟨encCarry 0x0C (F 20 6 8 (.two (X 23 0 10))), F 20 6 8 (.two (X 23 0 10)), nums, fun v _ => !bitOf v.md 0⟩]
  ++ ([0x0D, 0x0E, 0x0F, 0x11].map (fun o => two 25 o false typeW))
  ++ ([0x12, 0x13, 0x14, 0x15, 0x16].map (fun o => (⟨encInt o [1, 2, 3] .w32 .no typeW false, F 20 1 4 (.two (X 18)), nums, fun v _ => v.bl 0 == 40⟩ : Wit)))
  ++ [⟨encInt 0x10 [1, 2] .no .no typeW false, F 20 2 0 (.two (X 24)), nums, fun _ _ => true⟩,
    ⟨encInt 0x17 [2, 3] .ty .w32 typeW false, F 20 1 2 (.two (X 24 0 4)), nums, fun _ _ => true⟩,
    ⟨encCount 0x18, F 20 6 0 (.two (X 25)), nums, fun _ _ => true⟩, ⟨encCount 0x19, F 20 6 0 (.two (X 25)), nums, fun _ _ => true⟩,
    ⟨encInt 0x1A [1, 2] .no .no typeW false, F 20 2 0 (.two (X 24)), nums, fun _ _ => true⟩,
    ⟨{ opc := 0x1B, lens := [2, 3], dst := .w64, sa := .w64, sb := .w32, types := .eff (fun t => t == 18 || t == 22), md := 7 }, F 20 6 2 (.two (X 18 7)), nums, fun _ _ => true⟩]

theorem witness_IntegerResults : ∀ w ∈ wsInteger, w.Meets := Wit.all_meet _ (by decide +kernel)


/-- Moves within a lane, and the values that are written to a whole register; UNIF's check passes and fails. -/
def wsMove : List Wit :=
  let unif : Enc := { opc := 0x50, lens := [1, 2], dst := .w32, sa := .w32, md := 1 }
  let mixed : State := tState [(1, .held .g ⟨1, 2, 2, 2⟩)]
  let fails := fun (v : Env) => bitOf v.md 0 && (List.range 4).any (fun k => v.al k != v.al 0)
  [⟨{ opc := 0x1C, lens := [1, 2], dst := .ty, sa := .ty, types := .tov (fun t => t == 0 || t == 25) }, F 20 6 0 (.two (X 25)), nums, fun _ _ => true⟩,
   ⟨{ opc := 0x1D, lens := [1, 2, 3], dst := .ty, types := .tov typeMovi, imm := true }, F 20 0 63, nums, fun _ _ => true⟩,
   ⟨{ opc := 0x1D, lens := [1, 2, 3], dst := .ty, types := .tov typeMovi, imm := true }, F 20 0 0 (.three (X 19) 0xFFFFFFFF), nums, fun _ _ => true⟩,
   ⟨{ opc := 0xEF, lens := [1, 2], dst := .w32 }, F 20 0 0, nums, fun _ _ => true⟩,
   ⟨{ opc := 0x42, lens := [2, 3], dst := .w32, sa := .w32, sb := .w32, types := .eff typePack, md := 7, extra := packOk }, F 20 1 2 (.two (X 4 1)), nums, fun _ _ => true⟩,
   ⟨{ opc := 0x43, lens := [2], dst := .w32, sa := .w32, types := .eff typePack, md := 7, extra := packOk }, F 20 1 0 (.two (X 16 3)), nums, fun _ _ => true⟩,
   ⟨{ opc := 0x4E, lens := [2, 3], dst := .ty, sa := .ty, sb := .ty, types := .tov (fun t => t == 0 || t == 24 || t == 25), md := 15 }, F 20 1 2 (.two (X 0 8)), nums, fun _ _ => true⟩,
   ⟨{ opc := 0x4F, lens := [1, 2, 3], dst := .w32, sa := .u32, sb := .u32 }, F 20 1 2, nums, fun _ _ => true⟩,
   ⟨unif, F 20 1 0, mixed, fun v _ => !bitOf v.md 0⟩, ⟨unif, F 20 1 0 (.two (X 0 1)), nums, fun v _ => bitOf v.md 0 && !fails v⟩,
   ⟨unif, F 20 1 0 (.two (X 0 1)), mixed, fun v _ => fails v⟩,
   ⟨encMovs 0xEC (F 20 0 0 (.two (X 0 2))), F 20 0 0 (.two (X 0 2)), nums, fun v _ => v.md == 2⟩,
   ⟨encMovs 0xED (F 20 0 0 (.two (X 0 0))), F 20 0 0 (.two (X 0 0)), nums, fun v _ => v.md == 0⟩]

theorem witness_MoveResults : ∀ w ∈ wsMove, w.Meets := Wit.all_meet _ (by decide +kernel)

/-- 1.5, −2.0, a NaN and a subnormal in lanes, and a mode that enables every exception in the last. -/
def floats : State := tState [(1, .held .g ⟨0x3FC00000, 0xC0000000, 0x7FC00000, 1⟩), (2, U 0x40000000), (3, U 0x3F800000), (4, U 0xFFFFFFFF)]
def strict : State := tState [(1, .held .g ⟨0x3F800000, 0xC0000000, 0x7FA00000, 1⟩), (2, U 0)] (fun x => { x with mode := 0x000F8000 })

/-- Every floating instruction with no cause enabled, and one that raises: 0 divided into 1.0 with divide-by-zero enabled. -/
def wsFloat : List Wit :=
  let e2 := fun (o : Nat) (rnd sat : Bool) => (⟨encFp o [1, 2, 3] .ty .no rnd sat, F 20 1 2 (.two (X 1)), floats, fun v _ => v.act == 0xF⟩ : Wit)
  let e1 := fun (o : Nat) (rnd sat : Bool) => (⟨encFp o [1, 2] .no .no rnd sat, F 20 1 0 (.two (X 1)), floats, fun v _ => v.act == 0xF⟩ : Wit)
  [e2 0x20 true true, e2 0x21 true true, e2 0x22 true true, e2 0x2B true true, e2 0x24 false false, e2 0x25 false false, e2 0x26 false false,
   e2 0x27 false false, e2 0x2A false false, e1 0x2C true true, e1 0x34 true false, e1 0x28 false false, e1 0x29 false false,
   ⟨encFp 0x23 [2, 3] .ty .ty true true, F 20 1 2 (.two (X 1 0 3)), floats, fun _ _ => true⟩,
   ⟨encFp 0x35 [1, 2, 3] .w32 .no true true, F 20 1 4 (.two (X 1)), floats, fun v _ => sextInt 32 (v.bl 0) == -1⟩,
   ⟨{ encFp 0x36 [1, 2] .no .no false false with dst := .w32 }, F 20 1 0 (.two (X 1)), floats, fun _ _ => true⟩,
   ⟨encFp 0x2B [1, 2, 3] .ty .no true true, F 20 1 2 (.two (X 1)), strict,
     fun v _ => (fpCause v.x.mode v.act (fun l => (divF v.ty v.rnd (v.word l) v.sat (decodeF v.ty (v.al l)) (decodeF v.ty (v.bl l))).2)).isSome⟩]
  ++ ((List.range 7).map (fun i => (⟨encSpec (0x2D + i), F 20 1 0 (.two (X 1)), floats, fun _ _ => true⟩ : Wit)))

theorem witness_FloatResults : ∀ w ∈ wsFloat, w.Meets := Wit.all_meet _ (by decide +kernel)

/-- Conversions, with rounding under rsr. -/
def wsConvert : List Wit :=
  let cvt := fun (f : Fields) => (⟨{ opc := 0x40, lens := [2], dst := .ty, sa := if typeWide (cvtSrc f) then .w64 else .w32, types := .eff typeCvt, rov := .eff, sat := .eff, md := 31, extra := fun f _ => typeCvt (cvtSrc f) }, f, floats, fun _ _ => true⟩ : Wit)
  let sr := F 20 1 4 (.two (X 4 1))
  [cvt (F 20 1 0 (.two ⟨false, 0, 0, 4, 6, false, 1⟩)), cvt (F 20 2 0 (.two (X 2 1))), cvt (F 20 1 0 (.two ⟨false, 0, 0, 16, 0, true, 1⟩)),
   ⟨{ opc := 0x41, lens := [2, 3], dst := .ty, sa := if typeWide (cvtSrc sr) then .w64 else .w32, sb := .w32, types := .eff (fun t => typeSF t || typeNF t), sat := .eff, md := 31, extra := cvtsrOk }, sr, floats, fun _ _ => true⟩,
   ⟨{ opc := 0x44, lens := [2, 3], dst := .w32, sa := .w32, sb := .u32, types := .eff (fun t => t == 13), rov := .eff }, F 20 1 4 (.two (X 13)), floats, fun v _ => v.ty == 13⟩,
   ⟨encDqnt (F 20 1 4 (.two (X 13))) 0x45 .eff 0, F 20 1 4 (.two (X 13)), floats, fun v _ => !typeMX v.ty⟩,
   ⟨encDqnt (F 20 1 0 (.two (X 10))) 0x45 .eff 0, F 20 1 0 (.two (X 10)), floats, fun v _ => typeMX v.ty⟩]

theorem witness_ConversionResults : ∀ w ∈ wsConvert, w.Meets := Wit.all_meet _ (by decide +kernel)

/-- Predicates; FCMP with and without an enabled invalid, FCLASS on both sides of 1024. -/
def wsPredicate : List Wit :=
  let icmp : Enc := { opc := 0x46, lens := [2, 3], dst := .pd, sa := .ty, sb := .ty, types := .eff (fun t => typeInt t || t == 24 || t == 25), md := 15, extra := fun f t => decide (modOf f % 16 ≤ 5) && (typeInt t || decide (modOf f % 16 ≤ 1)) }
  let fcmp : Enc := { opc := 0x47, lens := [2, 3], dst := .pd, sa := .ty, sb := .ty, types := .eff typeFP, md := 31, extra := fun f _ => decide (modOf f % 16 ≤ 7) }
  let fclass : Enc := { opc := 0x48, lens := [2, 3], dst := .pd, sa := .ty, sb := .u32, types := .eff (fun t => typeFP t || typeNF t) }
  let inv := fun (v : Env) (l : Nat) => ({ inv := (decodeF v.ty (v.al l)).isSig || (decodeF v.ty (v.bl l)).isSig || (bitOf v.md 4 && ((decodeF v.ty (v.al l)).isNaN || (decodeF v.ty (v.bl l)).isNaN)) } : Excs)
  let pmov := fun (f : Fields) => ({ opc := 0x4D, lens := [1, 2], dst := .pd, sa := if bitOf (modOf f) 2 then .w32 else .pr, md := 4 } : Enc)
  [⟨icmp, F 1 1 2 (.two (X 18 5)), nums, fun v _ => v.md == 5⟩, ⟨icmp, F 1 6 8 (.two (X 25 1)), nums, fun v _ => v.md == 1⟩,
   ⟨fcmp, F 1 1 2 (.two (X 1 0x17)), floats, fun v _ => fpCause v.x.mode v.act (inv v) == none⟩,
   ⟨fcmp, F 1 1 2 (.two (X 1 0)), strict, fun v _ => (fpCause v.x.mode v.act (inv v)).isSome⟩,
   ⟨fclass, F 1 1 5 (.two (X 1)), tState [(5, U 1023)], fun v _ => v.o.scalar == 1023⟩,
   ⟨fclass, F 1 1 5 (.two (X 1)), tState [(5, U 1024)], fun v _ => v.o.scalar == 1024⟩,
   ⟨encPred 0x49, F 1 2 3 (.two (X 0 3)), nums, fun _ _ => true⟩, ⟨encPred 0x4A, F 1 2 3, nums, fun _ _ => true⟩, ⟨encPred 0x4B, F 1 2 3, nums, fun _ _ => true⟩,
   ⟨{ opc := 0x4C, lens := [1, 2], dst := .pd, sa := .pr }, F 1 2 0, nums, fun _ _ => true⟩,
   ⟨pmov (F 1 2 0 (.two (X 0 4))), F 1 2 0 (.two (X 0 4)), nums, fun _ _ => true⟩, ⟨pmov (F 1 2 0), F 1 2 0, nums, fun _ _ => true⟩]

theorem witness_PredicateResults : ∀ w ∈ wsPredicate, w.Meets := Wit.all_meet _ (by decide +kernel)


/-- A gang of eight slices, whose lanes hold their numbers. -/
def gang8 : State := tState [] id (fun b => { b with width := 32, nslices := 8, slices := (List.range 8).map (fun k => (k,
  tSlice [(1, .held .g (Quad.ofFn (fun l => BitVec.ofNat 32 (4 * k + l)))), (2, U 3), (4, U 2)])) })

/-- `ReadyTogether` for the executing slice's issue set, computed. -/
def togetherB (e : Enc) (f : Fields) (s : State) (c : List Env → Bool := fun vs => vs.all (fun v => v.x.mode == 0)) : Bool :=
  match s.curSlice with
  | none => false
  | some (bid, sid, b, _) =>
    let xs := (b.issueSet sid).filterMap (fun k => (b.slices.get? k).map (fun x => (k, x)))
    !b.crossAway sid && xs.map (fun p => p.1) == b.issueSet sid && decide ((xs.map (fun p => p.1)).Nodup) && decide (xs.length ≤ 16)
      && xs.length == 8 && xs.all (fun p => readyB e f s bid b p.2)
      && c (xs.map (fun p => e.env f bid p.1 b p.2))

/-- The same gang with every exception enabled, whose lanes hold infinities and signalling NaNs. -/
def loud8 : State := gang8.modBlock 0 (fun b => { b with slices := b.slices.map (fun p => (p.1, { p.2.setReg 1 (.held .g (Quad.ofFn (fun l =>
  if l = 0 then 0x7FA00000 else 0x7F800000))) with mode := 0xF8000 })) })

/-- Each cross-lane instruction over eight slices; where no exception is enabled none is raised, and RDX, SCAN and QNT where one is. -/
def ssCross : List Bool :=
  let shfl : Enc := { opc := 0x52, lens := [2, 3], dst := .ty, sa := .ty, sb := .w32, types := .tov typeB, md := 31, extra := fun f _ => decide (modOf f / 4 % 8 ≤ 5) && decide (segOf (modOf f) 32 ≤ 32) }
  let vote := fun (f : Fields) => ({ opc := 0x54, lens := [2], dst := if modOf f % 4 = 3 then .w64 else .pd, sa := .pr, md := 3 } : Enc)
  [togetherB shfl (F 20 1 2 (.two (X 24 4))) gang8, togetherB { opc := 0x53, lens := [2, 3], dst := .ty, sa := .ty, sb := .u32, types := .tov typeB } (F 20 1 2 (.two (X 24))) gang8,
   togetherB (vote (F 1 2 0 (.two (X 0 1)))) (F 1 2 0 (.two (X 0 1))) gang8, togetherB (vote (F 20 2 0 (.two (X 0 3)))) (F 20 2 0 (.two (X 0 3))) gang8,
   togetherB (encRed 0x55 15) (F 20 1 0 (.two (X 18 0))) gang8, togetherB (encRed 0x56 31) (F 20 1 0 (.two (X 1 16))) gang8,
   togetherB { opc := 0x57, lens := [2, 3], dst := .w32, sa := .w32, sb := .u32, types := .tov typeTopk, md := 3 } (F 20 1 4 (.two (X 22 1))) gang8,
   togetherB (encQntMx 32) (F 20 1 0 (.two (X 10))) gang8,
   togetherB (encRed 0x55 15) (F 20 1 0 (.two (X 1 0))) loud8 (fun vs => vs.any (fun v => (fpCause v.x.mode v.act (fun _ => (redRoot vs v v.b.width).2)).isSome)),
   togetherB (encRed 0x56 31) (F 20 1 0 (.two (X 1 0))) loud8 (fun vs => vs.any (fun v => (fpCause v.x.mode v.act (fun _ =>
     ((presentLanes vs v.b.width).map (fun g => (redRoot vs v (if bitOf v.md 4 then g else g + 1)).2)).foldl Excs.join Excs.none)).isSome)),
   togetherB (encQntMx 32) (F 20 1 0 (.two (X 10))) loud8 (fun vs => vs.any (fun v => (fpCause v.x.mode v.act (fun l =>
     (qntElem v.ty v.rnd (v.word l) (qntBlock vs (v.lane l)) (decodeF 1 (v.al l))).2)).isSome))]

theorem witness_CrossLaneResults : ssCross.all id = true := by decide +kernel

/-- SETM, NOP, REL of v8 and v9, SHAPE of a register and of a latch: nothing pending is spilled. -/
def wsRegister : List Wit :=
  let calm := fun (v : Env) (_ : State) => v.x.spilled.all (fun k => !(v.x.reg k).isPend)
  let shape : Enc := { opc := 0x51, lens := [1, 2], dst := .w32, sa := .raw }
  [⟨{ opc := 0xEE, lens := [1, 3], gov0 := true, imm := true, extra := fun f _ => modeOk (immValue f) }, F 0 0 0 (.three (X 0) 0x000C1), nums, fun v _ => immValue v.f == 0xC1⟩,
   ⟨{ opc := 0xEA, lens := [1, 2, 3], gov0 := true, lit := .role }, F 0 0 0 (.three (X 0) 0xFFFFFFFF), nums, fun _ _ => true⟩,
   ⟨{ opc := 0xF0, lens := [3], gov0 := true, lit := .role, md := 0x400, extra := fun f _ => !bitOf (modOf f) 10 || decide ((f.lit?.getD 0).toNat < 2 ^ 28) }, F 0 0 0 (.three (X 0 0x400) 0x08000000), nums, calm⟩,
   ⟨shape, F 20 59 0, nums, calm⟩, ⟨shape, F 20 60 0, tState [] (fun x => { x with latches := [some ⟨.a, Quad.all 0⟩, none, none, none] }), calm⟩]

theorem witness_RegisterInstructions : ∀ w ∈ wsRegister, w.Meets := Wit.all_meet _ (by decide +kernel)

/-- GROW by 0, to the pool's end, beyond it, and where another block's floor leaves no room; SHRINK to what is used and below; POOLQ. -/
def wsPool : List Wit :=
  let d := fun (n : Nat) => tState [(1, U (BitVec.ofNat 32 n))]
  let size := fun (v : Env) (s : State) => s.poolSize v.b.die v.b.core
  let small := (d 200).modBlock 0 (fun b => { b with floor := 300 })
  let crowded := fun (n : Nat) => let s := d n; { s with blocks := s.blocks.put 1 { (s.blocks.get? 0).getD default with floor := 32000, slices := [] } }
  [⟨encGrow 0xF1, F 0 0 1, d 0, fun v _ => v.o.scalar == 0⟩,
   ⟨encGrow 0xF1, F 0 0 1, d (32768 - 240), fun v s => v.b.floor + v.o.scalar == size v s && decide (s.floorSum v.b.die v.b.core + v.o.scalar ≤ size v s)⟩,
   ⟨encGrow 0xF1, F 0 0 1, d (32769 - 240), fun v s => v.b.floor + v.o.scalar == size v s + 1⟩,
   ⟨encGrow 0xF1, F 0 0 1, crowded 529, fun v s => decide (v.b.floor + v.o.scalar ≤ size v s) && s.floorSum v.b.die v.b.core + v.o.scalar == size v s + 1⟩,
   ⟨encGrow 0xF2, F 0 0 1, d 180, fun v s => s.usedOf v.bid == v.b.floor - v.o.scalar⟩,
   ⟨encGrow 0xF2, F 0 0 1, d 181, fun v s => decide (v.o.scalar ≤ v.b.floor) && s.usedOf v.bid == v.b.floor - v.o.scalar + 1⟩,
   ⟨encGrow 0xF2, F 0 0 1, d 301, fun v _ => decide (v.b.floor < v.o.scalar)⟩,
   ⟨encGrow 0xF2, F 0 0 1, small, fun v s => decide (v.o.scalar ≤ v.b.floor) && decide (s.usedOf v.bid ≤ v.b.floor - v.o.scalar)⟩]
  ++ ((List.range 8).map (fun m => (⟨{ opc := 0xF3, lens := [2], dst := .w32, md := 7 }, F 20 0 0 (.two (X 0 (BitVec.ofNat 11 m))), nums, fun v _ => v.md == m⟩ : Wit)))

theorem witness_PoolInstructions : ∀ w ∈ wsPool, w.Meets := Wit.all_meet _ (by decide +kernel)

/-- Each transfer with no lane, with all, with some, and to an address that is no multiple of four. -/
def wsTransfer : List Wit :=
  let go := fun (e : Enc) (f : Fields) (target : Env → Nat) =>
    let all := fun (v : Env) => v.act != 0 && v.act == v.x.mask
    let g := fun (gov : BitVec 5) => { f with tail := match f.tail with | .three e l => .three { e with gov := gov } l | .two e => .two { e with gov := gov } | .one => .one }
    let st := fun (p : BitVec 4) (off : Word) => tState [(6, U (0x8000 + off))] (fun x => { x with preds := x.preds.set 1 p })
    [(⟨e, g 9, st 0 0, fun v _ => v.act == 0⟩ : Wit), ⟨e, g 9, st 15 0, fun v _ => all v && target v % 4 == 0⟩,
     ⟨e, g 9, st 7 0, fun v _ => v.act != 0 && v.act != v.x.mask⟩]
  let odd := fun (e : Enc) => (⟨e, F (if e.dst = .w64 then 20 else 0) 6 0, tState [(6, U 0x8002)], fun v _ => v.act == v.x.mask && v.a.scalar % 4 == 2⟩ : Wit)
  let rel := fun (v : Env) => (v.x.pc + (v.f.lit?.getD 0).signExtend 64).toNat
  let ind := fun (v : Env) => v.a.scalar
  let lit : Enc := { opc := 0xE0, lens := [3], lit := .role, extra := fun f _ => offsetOk f }
  let brx : Enc := { opc := 0xE1, lens := [1, 2], sa := .u64 }
  go lit (F 0 0 0 (.three (X 0) 0xFFFFFFD4)) rel ++ go brx (F 0 6 0 (.two (X 0))) ind ++ go { lit with opc := 0xE2, dst := .w64 } (F 20 0 0 (.three (X 0) 0x40)) rel
    ++ go { brx with opc := 0xE3, dst := .w64 } (F 20 6 0 (.two (X 0))) ind ++ go { brx with opc := 0xE4 } (F 0 6 0 (.two (X 0))) ind
    ++ [odd brx, odd { brx with opc := 0xE3, dst := .w64 }, odd { brx with opc := 0xE4 },
        ⟨lit, F 0 0 0 (.three (X 0) 4), tState [] (fun x => { x with pc := 0x7FF2 }), fun v _ => v.act == v.x.mask && rel v % 4 == 2⟩]

theorem witness_Transfers : ∀ w ∈ wsTransfer, w.Meets := Wit.all_meet _ (by decide +kernel)

/-- The mask instructions on stacks of no entry, of one and two, and of sixteen. -/
def wsMask : List Wit :=
  let st := fun (n : Nat) => tState [] (fun x => { x with mstack := List.replicate n ⟨0xF, 3⟩, mask := if n = 0 then 0xF else 0xC, preds := x.preds.set 2 5 })
  let ifm := fun (f : Fields) => ({ opc := 0xE5, lens := [1, 2, 3], sa := if bitOf (modOf f) 1 then .no else .pr, gov0 := true, lit := .role, md := 3, extra := fun f _ => offsetOk f } : Enc)
  let elsm : Enc := { opc := 0xE6, lens := [1, 3], gov0 := true, lit := .role, extra := fun f _ => offsetOk f }
  let endm : Enc := { opc := 0xE7, lens := [1], gov0 := true }
  let brkm : Enc := { opc := 0xE8, lens := [2, 3], sa := .pr, gov0 := true, lit := .role, md := 0x3F, extra := fun f _ => offsetOk f && decide (1 ≤ modOf f % 32) && decide (modOf f % 32 ≤ 16) }
  let inv := F 0 0 0 (.three (X 0 3) 0x40)
  [⟨ifm (F 0 2 0), F 0 2 0, st 15, fun v _ => v.x.mstack.length == 15⟩, ⟨ifm inv, inv, st 0, fun v _ => v.x.mstack.length == 0⟩,
   ⟨ifm (F 0 2 0), F 0 2 0, st 16, fun v _ => v.x.mstack.length == 16⟩, ⟨elsm, F 0 0 0 (.three (X 0) 0x40), st 1, fun v _ => v.x.mstack.length == 1⟩,
   ⟨elsm, F 0 0 0, st 0, fun v _ => v.x.mstack == []⟩, ⟨endm, F 0 0 0, st 1, fun v _ => v.x.mstack.length == 1⟩, ⟨endm, F 0 0 0, st 0, fun v _ => v.x.mstack == []⟩,
   ⟨brkm, F 0 2 0 (.two (X 0 2)), st 2, fun v _ => v.md % 32 == v.x.mstack.length⟩, ⟨brkm, F 0 2 0 (.two (X 0 0x30)), st 16, fun v _ => v.md % 32 == v.x.mstack.length⟩,
   ⟨brkm, F 0 2 0 (.two (X 0 3)), st 2, fun v _ => v.md % 32 == v.x.mstack.length + 1⟩]

theorem witness_Masks : ∀ w ∈ wsMask, w.Meets := Wit.all_meet _ (by decide +kernel)

/-- EXIT with every lane, none and some; REGANG before its call set is complete, as the last, and with a mask beyond the gang. -/
def wsExit : List Wit :=
  let e : Enc := { opc := 0xE9, lens := [1, 2] }
  let g : Enc := { opc := 0xEB, lens := [1, 3], sb := .u32, gov0 := true }
  let st := fun (p : BitVec 4) => tState [] (fun x => { x with preds := x.preds.set 1 p })
  let f := F 0 0 0 (.two ⟨false, 0, 9, 0, 0, false, 0⟩)
  let two := fun (waits : Bool) => tState [] id (fun b => { b with width := 16, nslices := 4, slices := (List.range 4).map (fun k => (k,
    if k = 0 then tSlice [(1, U 3)] else { tSlice [(1, U 3)] with run := if k = 1 && waits then .waiting else .running, prog := if k = 1 && waits then .pending 3 else .fresh, pend := k == 1 && waits })) })
  let called := fun (v : Env) (s : State) => (((s.modSlice v.bid v.sid (fun x => { x with prog := .pending (v.o.scalar ||| 2 ^ (v.sid % v.gangSlices)) })).setWaiting v.bid v.sid).blocks.get? v.bid).bind (fun b => b.callSetReady v.sid v.x.pc)
  [⟨e, F 0 0 0, nums, fun v _ => v.act == v.x.mask⟩, ⟨e, f, st 0, fun v _ => v.act == 0⟩, ⟨e, f, st 1, fun v _ => v.act != 0 && v.act != v.x.mask⟩,
   ⟨g, F 0 0 1, two false, fun v s => decide (v.o.scalar < 2 ^ v.gangSlices) && (called v s).isNone⟩,
   ⟨g, F 0 0 1, two true, fun v s => decide (v.o.scalar < 2 ^ v.gangSlices) && (called v s).isSome⟩,
   ⟨g, F 0 0 0 (.three (X 0) 16), two false, fun v _ => v.o.scalar == 2 ^ v.gangSlices⟩]

theorem witness_ExitAndRegang : ∀ w ∈ wsExit, w.Meets := Wit.all_meet _ (by decide +kernel)


/-- A block with slice groups: slot 0 forms with two of three members, slot 1 has formed with slices 0 and 2. -/
def groups (waiting : List Nat) (st : Nat) (count : Nat) (cur : List Nat) : State :=
  tState [(1, U 7), (2, U 3), (3, U 1), (4, U 0x100), (5, U 0x200)] id (fun b => { b with nslices := 4, groups :=
    [(0, { key := 7, gen := 1, state := st, count := count, current := cur, published := if st = 2 then cur else [], waiting := waiting, ctx := 0, node := 0, epoch := 0 })] })

/-- GJOIN alone and with others, first, last and in between, waiting and released, with a count of 1, 3, 4 and 5 of four slices, and with
no slot; GLEAVE, GRANK and GSIZE of a member, of a stranger, and of a stale handle. -/
def wsGroup : List Wit :=
  let row : Enc := { opc := 0xB4, lens := [1, 2, 3], dst := .w32, sa := .u32, sb := .u32, gov0 := true, md := 1 }
  let held := fun (v : Env) => v.b.groups.find? (fun p => p.2.key == BitVec.ofNat 32 v.a.scalar && p.2.waiting.contains v.sid)
  let forming := fun (v : Env) => v.b.groups.find? (fun p => p.2.key == BitVec.ofNat 32 v.a.scalar && p.2.state == 1)
  let counted := fun (v : Env) => decide (1 ≤ v.o.scalar) && decide (v.o.scalar ≤ v.b.nslices)
  let join := fun (b : BitVec 6) (s : State) (c : Env → State → Bool) => (⟨row, F 20 1 b, s, c⟩ : Wit)
  let n := fun (k : Word) => tState [(1, U 7), (2, U k)] id (fun b => { b with nslices := 4 })
  let full := tState [(1, U 7), (2, U 2)] id (fun b => { b with nslices := 4, groups := (List.range 16).map (fun i => (i, { (default : Group) with key := 9, state := 2, current := [1] })) })
  let leave : Enc := { opc := 0xB5, lens := [1], sa := .u32, gov0 := true }
  let rank : Enc := { opc := 0xB6, lens := [1], dst := .w32, sa := .u32, gov0 := true }
  let size : Enc := { opc := 0xB7, lens := [1], dst := .w32, sa := .u32, gov0 := true }
  let ok := fun (v : Env) (s : State) => match s.groupOf v.b v.a.scalar with | .ok (blk, _, g) => some (g.current.contains (if blk then v.bid else v.sid)) | .error _ => none
  [join 2 (n 1) (fun v s => (held v).isNone && (forming v).isNone && v.o.scalar == 1 && s.groupSlot v.b false v.b.groups 7 != .limit),
   join 2 (n 4) (fun v s => (held v).isNone && (forming v).isNone && v.o.scalar == 4 && counted v && s.groupSlot v.b false v.b.groups 7 != .limit),
   join 2 full (fun v s => (held v).isNone && (forming v).isNone && counted v && s.groupSlot v.b false v.b.groups 7 == .limit),
   join 2 (groups [1] 1 3 [1, 2]) (fun v _ => (held v).isNone && match forming v with | some g => g.2.count == v.o.scalar && g.2.current.length + 1 == g.2.count | none => false),
   join 2 (groups [1] 1 3 [1]) (fun v _ => (held v).isNone && match forming v with | some g => g.2.count == v.o.scalar && g.2.current.length + 1 != g.2.count | none => false),
   join 3 (groups [1] 1 3 [1]) (fun v _ => (held v).isNone && match forming v with | some g => g.2.count != v.o.scalar | none => false),
   join 2 (n 0) (fun v _ => !counted v), join 2 (n 5) (fun v _ => !counted v),
   join 2 (groups [0] 1 3 [0]) (fun v _ => counted v && (match held v with | some g => g.2.state != 2 | none => false)),
   join 2 (groups [0] 2 3 [0, 1, 2]) (fun v s => counted v && (match held v with | some g => g.2.state == 2 && v.b.groups.get? g.1 == some g.2 && s.blocks.get? v.bid == some v.b | none => false)),
   ⟨row, F 20 1 3 (.two (X 0 1)), tState [(1, U 7), (3, U 1)] id (fun b => { b with shadowOf := some 5 }), fun v _ => bitOf v.md 0 && v.b.shadowOf.isSome⟩]
  ++ ([leave, rank, size].map (fun e => (⟨e, F (if e.dst = .no then 0 else 20) 4 0, groups [] 2 2 [0, 2], fun v s => ok v s == some true⟩ : Wit)))
  ++ ([leave, rank].map (fun e => (⟨e, F (if e.dst = .no then 0 else 20) 4 0, groups [] 2 2 [1, 2], fun v s => ok v s == some false⟩ : Wit)))
  ++ ([leave, rank, size].map (fun e => (⟨e, F (if e.dst = .no then 0 else 20) 5 0, groups [] 2 2 [0, 2], fun v s => (ok v s).isNone⟩ : Wit)))

theorem witness_Groups : ∀ w ∈ wsGroup, w.Meets := Wit.all_meet _ (by decide +kernel)

/-- TRAP and BKPT with a lane and with none; TRET in its three forms, outside an entry, and to a bad address; ERRL's count, an entry that
is held, and one that is not. -/
def wsTrap : List Wit :=
  let tret := fun (f : Fields) => ({ opc := 0xF9, lens := [1, 2], sa := if modOf f % 4 = 2 then .u64 else .no, gov0 := true, md := 3, extra := fun f _ => modOf f % 4 != 3 } : Enc)
  let errl := fun (f : Fields) => ({ opc := 0xFA, lens := [1, 2], dst := if bitOf (modOf f) 0 then .w64 else .eight, sa := if bitOf (modOf f) 0 then .no else .u64, gov0 := true, md := 1 } : Enc)
  let off := fun (v : Env) (s : State) => (s.ctxs.get? v.b.ctx).any (fun c => c.bkoff)
  let inside := tState [(2, U 0x8000)] (fun x => { x with frame := { x.frame with inTrap := true, pc := 0x7000 } })
  let t := fun (m : BitVec 11) => F 0 (if m = 2 then 2 else 0) 0 (.two (X 0 m))
  let none' := tState [] (sel 0)
  let log := fun (n : Word) => (tState [(2, U n)]).modCtx 0 (fun c => { c with logCount := 70 })
  let here := fun (v : Env) (s : State) => match s.ctxs.get? v.b.ctx with | some c => decide (v.a.scalar < c.logCount.toNat) && decide (c.logCount.toNat ≤ v.a.scalar + 64) | none => false
  [⟨encCode 0xF8, F 0 0 0x21, nums, fun v _ => v.act != 0⟩, ⟨encCode 0xF8, F 0 0 0 (.three (G (X 0)) 5), none', fun v _ => v.act == 0⟩,
   ⟨encCode 0xFF, F 0 0 5, nums, fun v s => v.act != 0 && !off v s⟩, ⟨encCode 0xFF, F 0 0 0 (.three (G (X 0)) 5), none', fun v _ => v.act == 0⟩,
   ⟨encCode 0xFF, F 0 0 5, nums.modCtx 0 (fun c => { c with bkoff := true }), fun v s => off v s⟩,
   ⟨tret (t 0), t 0, inside, fun v _ => v.x.frame.inTrap && v.md != 2⟩, ⟨tret (t 1), t 1, inside, fun v _ => v.x.frame.inTrap && v.md != 2⟩,
   ⟨tret (t 2), t 2, inside, fun v _ => v.x.frame.inTrap && v.md == 2 && v.a.scalar % 4 == 0⟩, ⟨tret (t 0), t 0, nums, fun v _ => !v.x.frame.inTrap⟩,
   ⟨tret (t 2), t 2, inside.modSlice 0 0 (fun x => x.setReg 2 (U 0x8001)), fun v _ => v.x.frame.inTrap && v.md == 2 && v.a.scalar % 4 == 1⟩,
   ⟨errl (F 20 0 0 (.two (X 0 1))), F 20 0 0 (.two (X 0 1)), log 0, fun v s => bitOf v.md 0 && (s.ctxs.get? v.b.ctx).isSome⟩,
   ⟨errl (F 16 2 0), F 16 2 0, log 6, here⟩, ⟨errl (F 16 2 0), F 16 2 0, log 69, here⟩, ⟨errl (F 16 2 0), F 16 2 0, log 5, fun v s => !here v s⟩,
   ⟨errl (F 16 2 0), F 16 2 0, log 70, fun v s => !here v s⟩]

theorem witness_TrapInstructions : ∀ w ∈ wsTrap, w.Meets := Wit.all_meet _ (by decide +kernel)

/-- A block with a trap entry and a slice outside one; one in its entry; one whose block has none. -/
def ssException : List Bool :=
  let has := fun (entry : Option Dword) (inTrap : Bool) => tState [] (fun x => { x with frame := { x.frame with inTrap := inTrap } }) (fun b => { b with trapEntry := entry })
  let b := fun (s : State) => (s.blocks.get? 0).getD default
  let x := fun (s : State) => ((b s).slices.get? 0).getD default
  [let s := has (some 0x400) false; s.slice? 0 0 == some (x s) && (b s).trapEntry == some 0x400 && !(x s).frame.inTrap,
   let s := has (some 0x400) true; (b s).state == .resident && (x s).frame.inTrap,
   let s := has none false; (b s).state == .resident && (b s).trapEntry == none]

theorem witness_Exceptions : ssException.all id = true := by decide +kernel


/-! ### Memory -/

/-- A gate that lets the elements through, and what of its state and places is asked. -/
def goes (g : Gate) (c : State → List Placed → Bool) : Bool := match g with | .go s ps => c s ps | .stop _ => false
def winGoes (g : WinGate) (c : List MElem → Bool) : Bool := match g with | .go es => c es | .stop _ => false
def gets (g : Fetched) (c : State → List Byte → Bool) : Bool := match g with | .got s bytes => c s bytes | .stop _ => false
def tensorGoes (g : TensorGate) (c : State → TensorRec → List TElem → Bool) : Bool := match g with | .go s r es => c s r es | .stop _ => false

/-- An address in v6 and v7, a store's data in v8 to v11, an offset of the window in v12, and a window of 256 bytes. -/
def mem (off : Nat) (w : Word) (fx : Slice → Slice := id) (fb : Block → Block := id) (bytes : List Byte := []) : State :=
  tState (at' 6 off ++ [(8, U 0x11223344), (9, U 2), (10, U 3), (11, U 4), (12, U w)]) fx (fun b => fb { b with scratch := 256 }) bytes

/-- The same in an ordered kernel's node. -/
def ordered (s : State) : State := { s with nodes := s.nodes.map (fun n => (n.1, { n.2 with ordered := true })) }

/-- LD of one, two and four elements and of a pair, at the start of memory and across two lines, with no lane and in an ordered block; LDS
at both ends of the window; LDU of a lane, of a window, and of none. -/
def wsLoads : List Wit :=
  let ldu := fun (f : Fields) => ({ opc := 0x64, lens := [1, 2, 3], dst := .ty, sa := if bitOf (modOf f) 2 then .u32 else .u64, types := .eff typeMT, lit := .role, md := 4 } : Enc)
  let elems := fun (v : Env) (n : Nat) (ls : List Nat) => ls.flatMap (fun l => (List.range n).map (fun k =>
    ({ lane := l, k := k, va := (v.al l + ((v.f.lit?.getD 0).signExtend 64).toNat + k * elemSize v.ty) % 2 ^ 64, size := elemSize v.ty } : MElem)))
  let places := fun (v : Env) (n : Nat) (ls : List Nat) => ls.flatMap (fun l => (List.range n).map (fun k =>
    (l, k, ((v.al l % 2 ^ 32 : Nat) : Int) + (v.f.lit?.getD 0).toInt + ((k * elemSize v.ty : Nat) : Int))))
  let g := fun (n : Env → Nat) (ls : Env → List Nat) (v : Env) (s : State) =>
    goes (s.checkGlobal v {} .read (!s.isOrdered v.b) (elems v (n v) (ls v))) (fun s1 _ => s1.counterRoom v true)
  let w := fun (n : Env → Nat) (ls : Env → List Nat) (v : Env) (s : State) =>
    winGoes (s.winGate v (elemSize v.ty) (places v (n v) (ls v))) (fun es => (pickFail (v.b.winPoisoned es)).isNone) && s.counterRoom v true
  let all := fun (v : Env) => lanesOf v.act
  let one := fun (v : Env) => (lanesOf v.act).take 1
  let cnt := fun (v : Env) => countOf v.f
  [⟨encLd 0x60 .w64, F 20 6 0 (.three (X 24 2) 0x100), mem 0 0, g cnt all⟩, ⟨encLd 0x60 .w64, F 20 6 0 (.two (X 25 1)), mem 124 0, g cnt all⟩,
   ⟨encLd 0x60 .w64, F 20 6 0 (.three (G (X 24)) 0), mem 0 0 (fun x => sel 5 x), g cnt all⟩, ⟨encLd 0x60 .w64, F 20 6 0 (.two (X 24)), ordered (mem 0 0), g cnt all⟩,
   ⟨encLd 0x62 .w32, F 20 12 0 (.two (X 24)), mem 0 0, w cnt all⟩, ⟨encLd 0x62 .w32, F 20 12 0 (.three (X 24 2) 0xFFFFFFF0), mem 0 256, w cnt all⟩,
   ⟨ldu (F 20 6 0 (.two (X 24))), F 20 6 0 (.two (X 24)), mem 0 0, fun v s => v.act != 0 && g (fun _ => 1) one v s⟩,
   ⟨ldu (F 20 12 0 (.two (X 24 4))), F 20 12 0 (.two (X 24 4)), mem 0 252, fun v s => v.act != 0 && w (fun _ => 1) one v s⟩,
   ⟨ldu (F 20 6 0 (.two (G (X 24)))), F 20 6 0 (.two (G (X 24))), mem 0 0 (fun x => sel 0 x), fun v _ => v.act == 0⟩]

theorem witness_Loads : ∀ w ∈ wsLoads, w.Meets := Wit.all_meet _ (by decide +kernel)

/-- ST of one and four elements, across two lines, and of an ordered block; STS at both ends of the window. -/
def wsStores : List Wit :=
  let elems := fun (v : Env) => (lanesOf v.act).flatMap (fun l => (List.range (countOf v.f)).map (fun k =>
    ({ lane := l, k := k, va := (v.al l + ((v.f.lit?.getD 0).signExtend 64).toNat + k * elemSize v.ty) % 2 ^ 64, size := elemSize v.ty } : MElem)))
  let places := fun (v : Env) => (lanesOf v.act).flatMap (fun l => (List.range (countOf v.f)).map (fun k =>
    (l, k, ((v.al l % 2 ^ 32 : Nat) : Int) + (v.f.lit?.getD 0).toInt + ((k * elemSize v.ty : Nat) : Int))))
  let g := fun (v : Env) (s : State) => goes (s.checkGlobal v {} .write false (elems v)) (fun s1 ps =>
    (!s1.isOrdered v.b || !s1.logFull v ps) && s1.storeRoom v && s1.sendRoom v ps)
  let w := fun (v : Env) (s : State) => winGoes (s.winGate v (elemSize v.ty) (places v)) (fun _ => s.storeRoom v)
  [⟨encSt 0x61 .w64, F 0 6 8 (.two (X 24 2)), mem 0 0, g⟩, ⟨encSt 0x61 .w64, F 0 6 8 (.two (X 25)), mem 125 0, g⟩,
   ⟨encSt 0x61 .w64, F 0 6 8 (.two (X 24)), ordered (mem 0 0), fun v s => g v s && s.isOrdered v.b⟩,
   ⟨encSt 0x63 .w32, F 0 12 8 (.two (X 24)), mem 0 0, w⟩, ⟨encSt 0x63 .w32, F 0 12 8 (.two (X 24 2)), mem 0 240, w⟩]

theorem witness_Stores : ∀ w ∈ wsStores, w.Meets := Wit.all_meet _ (by decide +kernel)

/-- A record of f32 elements with one coordinate below 4, in memory at `tVa`: of global memory after it, or of the window. -/
def tensor (window : Bool) : List Byte :=
  leBytes 64 ((if window then 0x40 else tVa + 0x200) + 0x21 * 2 ^ 64 + (if window then 2 ^ 72 else 0) + 4 * 2 ^ 96)

/-- The record's address in v6 and v7, the coordinate in v12, the data in v8 and v9. -/
def tens (window : Bool) (x : Word) : State := mem 0 x id id (tensor window)

/-- A record of global memory and one of the window: two elements of which the second is out of bounds, and one at the first coordinate. -/
def wsTensor : List Wit :=
  let size := fun (r : TensorRec) => elemSize r.ty
  let n := fun (v : Env) => 2 ^ (v.md % 4)
  let mes := fun (r : TensorRec) (es : List TElem) => (es.filter (fun e => e.addr.isSome)).map (fun e => (⟨e.lane, e.j, e.addr.getD 0 % 2 ^ 64, size r⟩ : MElem))
  let wins := fun (r : TensorRec) (es : List TElem) => (mes r es).map (fun e => (e.lane, e.k, (e.va : Int)))
  let dst := fun (v : Env) (r : TensorRec) => !(n v * size r == 8) || pairOk v.f.dst.toNat
  let elements := fun (v : Env) (s : State) => v.a.scalar % 64 == 0 && gets (s.readAsLd v v.a.scalar 64 v.act) (fun _ bytes =>
    let r := TensorRec.ofBytes bytes
    r.ok (bitOf (leNat ((bytes.drop 9).take 1)) 7) typeTensor && decide (2 ^ (v.md % 4) * elemSize r.ty ≤ 8) && decide (v.f.sb.toNat + r.rank ≤ 60)
      && (List.range r.rank).all (fun i => !(v.x.reg (v.f.sb.toNat + i)).isPend && v.x.reg (v.f.sb.toNat + i) != .empty))
  let tld := fun (v : Env) (s : State) => elements v s && tensorGoes (s.tensorGate v) (fun s1 r es => dst v r && onB v s1 &&
    if r.space then winGoes (s1.winGate v (size r) (wins r es)) (fun wes => (pickFail (v.b.winPoisoned wes)).isNone && s1.counterRoom v true)
    else goes (s1.checkGlobal v {} .read (!s1.isOrdered v.b) (mes r es)) (fun s2 _ => s2.counterRoom v true && onB v s2))
  let tst := fun (v : Env) (s : State) => elements v s && tensorGoes (s.tensorGate v) (fun s1 r es =>
    v.tstCheck (n v * size r == 8) == .ok && onB v s1 &&
    if r.space then winGoes (s1.winGate v (size r) (wins r es)) (fun _ => s1.storeRoom v)
    else goes (s1.checkGlobal v {} .write false (mes r es)) (fun s2 ps =>
      (!s2.isOrdered v.b || !s2.logFull v ps) && s2.storeRoom v && s2.sendRoom v ps && onB v s2))
  [false, true].flatMap (fun w => [⟨encTld, F 20 6 12 (.two (X 0 1)), tens w 3, tld⟩, ⟨encTst, F 0 6 12 (.two (X 0 0 8)), tens w 0, tst⟩])

theorem witness_TensorAccess : ∀ w ∈ wsTensor, w.Meets := Wit.all_meet _ (by decide +kernel)

/-- The hints and pins, in both forms of PIN, and one that waits since its set has no way left and the round log no room; WAITC's three forms with counters low and one that waits; PRES of its three kinds, over the
first line, all of the window, and no lane. -/
def wsCache : List Wit :=
  let prf : Enc := { opc := 0x6C, lens := [1, 2, 3], sa := .w64, lit := .role, md := 1 }
  let pin := fun (f : Fields) => ({ opc := 0x6D, lens := [2, 3], dst := if bitOf (modOf f) 0 then .w32 else .pd, sa := .w64, lit := .role, md := 1 } : Enc)
  let unpin : Enc := { opc := 0x6E, lens := [1, 2, 3], sa := .w64, lit := .role }
  let waitc : Enc := { opc := 0x6F, lens := [2], gov0 := true, md := 0xFF, extra := fun f _ => modOf f / 64 % 4 != 3 }
  let low := fun (v : Env) (s : State) =>
    let ld := decide (s.gangCount v.bid v.gang true ≤ v.md % 64)
    let st := decide (s.gangCount v.bid v.gang false ≤ v.md % 64)
    match v.md / 64 % 4 with | 0 => ld | 1 => st | _ => ld && st
  let off := fun (v : Env) => (v.a.scalar : Int) + (v.f.lit?.getD 0).toInt
  let lines := fun (v : Env) => v.md / 4 % 128 + 1
  let fits := fun (v : Env) (_ : State) => v.md % 4 != 0 && v.act != 0 && decide (0 ≤ off v) && decide (off v / 128 * 128 + lines v * 128 ≤ v.b.scratch)
  let busy : State := { mem 0 0 with issues := [(5, ⟨0, 0, true, 1, []⟩), (6, ⟨0, 0, false, 1, []⟩)] }
  let held := fun (v : Env) (s : State) => (List.range 4).any (fun l => (s.pinLanes v).2.get l == 3)
  let crowded := (mem 0 0 id (fun b => { b with late := [{ (default : Late) with die := 0, pa := tPa + 2 ^ 26, data := [1] }] })).modDie 0 (fun d =>
      { d with lines := (List.range 15).map (fun k => (tPa / 1024 + (k + 1) * 2 ^ 16, { BayLine.empty with held := true })) })
    |>.modCtx 0 (fun c => { c with rlogSize := 0, rlogUsed := [(0, 5)] })
  [⟨prf, F 0 6 0, mem 0 0, fun _ _ => true⟩, ⟨pin (F 20 6 0 (.two (X 0 1))), F 20 6 0 (.two (X 0 1)), mem 0 0, fun v s => bitOf (modOf v.f) 0 && !held v s⟩,
   ⟨pin (F 20 6 0 (.two (X 0 1))), F 20 6 0 (.two (X 0 1)), crowded, held⟩,
   ⟨pin (F 3 6 0 (.two (X 0 0))), F 3 6 0 (.two (X 0 0)), mem 0 0, fun v s => !bitOf (modOf v.f) 0 && !held v s⟩, ⟨unpin, F 0 6 0, mem 0 0, fun _ _ => true⟩,
   ⟨waitc, F 0 0 0 (.two (X 0 1)), busy, low⟩, ⟨waitc, F 0 0 0 (.two (X 0 0x41)), busy, low⟩, ⟨waitc, F 0 0 0 (.two (X 0 0x81)), busy, low⟩,
   ⟨waitc, F 0 0 0 (.two (X 0 0)), busy, fun v s => !low v s⟩, ⟨waitc, F 0 0 0 (.two (X 0 0x40)), busy, fun v s => !low v s⟩, ⟨waitc, F 0 0 0 (.two (X 0 0x80)), busy, fun v s => !low v s⟩]
  ++ [(1, 0, 0), (2, 4, 0), (2, 0, 128)].map (fun (k, m, w) => (⟨encPres (F 0 12 0 (.two (X 0 (k + m)))), F 0 12 0 (.two (X 0 (k + m))), mem 0 w, fits⟩ : Wit))
  ++ [⟨encPres (F 20 12 0 (.two (X 0 0))), F 20 12 0 (.two (X 0 0)), mem 0 255, fun v _ => v.md % 4 == 0 && v.act == 0xF && v.al 0 + 1 ≤ v.b.scratch⟩,
      ⟨encPres (F 0 12 0 (.three (G (X 0 1)) 0)), F 0 12 0 (.three (G (X 0 1)) 0), mem 0 0 (fun x => sel 0 x), fun v _ => v.md % 4 != 0 && v.act == 0⟩]

theorem witness_CacheControl : ∀ w ∈ wsCache, w.Meets := Wit.all_meet _ (by decide +kernel)


/-! ### Order and waiting -/

/-- A slice's progress set, and a fill of the slice outstanding; a fill whose one element has come. -/
def prog (p : Prog) (s : State) : State := s.modSlice 0 0 (fun x => { x with prog := p })
def withFill (s : State) : State := { s with fills := [(9, { (default : Fill) with bid := 0, sid := 0, regs := [30] })] }
def landed (n : Nat) (s : State) : State :=
  { s with fills := [(9, { (default : Fill) with bid := 0, sid := 0, elems := [{ (default : FillElem) with parts := [(0, 4, some (BitVec.ofNat 64 n))] }] })] }
def acq (w : Dword) (s : State) : State := prog (.acquiring Clock.zero w) s
/-- An acquire or a release that has finished, or has not. -/
def acqIs (v : Env) (s : State) (sc : Scope) (w : Dword) (mine : Option Nat) (b : Bool) (c : State → Bool := fun _ => true) : Bool :=
  let r := s.acquire v sc w mine; r.2 == b && c r.1
def relIs (v : Env) (s : State) (sc : Scope) (b : Option Bool) (c : State → Bool := fun _ => true) : Bool :=
  let r := s.release v sc; r.2 == b && c r.1

/-- Another slice of the block, that runs. -/
def withSlice (k : Nat) (s : State) : State := s.modBlock 0 (fun b => { b with slices := b.slices ++ [(k, tSlice [])] })

/-- Each kind of FENCE done and waiting, of core and pod scope, with its predicate set and clear; COMMIT of an ordered block and of another;
GSYNC of the last to arrive, of another, of a member that is satisfied, of one that acquires, of a stranger, and of a stale handle. -/
def wsFence : List Wit :=
  let scope := fun (v : Env) => (scopeOf (v.md % 8)).getD .core
  let kind := fun (v : Env) => v.md / 8 % 4
  let fresh := fun (v : Env) => v.x.acquiring?.isNone
  let fence := fun (m : BitVec 11) (s : State) (c : Env → State → Bool) => let f := F (if bitOf m.toNat 5 then 3 else 0) 0 0 (.two (X 0 m)); (⟨encFence f, f, s, c⟩ : Wit)
  let commit : Enc := { opc := 0xB2, lens := [1], gov0 := true }
  let gsync : Enc := { opc := 0xB3, lens := [2], sa := .u32, gov0 := true, md := 7, extra := fun f _ => decide (1 ≤ modOf f % 8) && decide (modOf f % 8 ≤ 3) }
  let f0 := F 0 0 0
  let g := F 0 4 0 (.two (X 0 1))
  let gs := fun (cur : List Nat) => groups [] 2 2 cur
  let satisfied := fun (v : Env) => match v.x.prog with | .satisfied _ => true | _ => false
  let arrived := fun (v : Env) (s : State) => (s.modSlice v.bid v.sid (fun x => { x with prog := .synced v.a.scalar })).setWaiting v.bid v.sid
  let member := fun (last : Bool) (v : Env) (s : State) => fresh v && !satisfied v && match s.groupOf v.b v.a.scalar with
    | .ok (blk, slot, g) => g.current.contains (if blk then v.bid else v.sid) && !blk && relIs v s (scope v) (some true) (fun s1 =>
        (arrived v s1).allArrived v.bid blk v.a.scalar g == last
          && (!last || acqIs v ((arrived v s1).releaseGroup v.bid blk slot v.a.scalar g) (scope v) 1 none true (onB v)))
    | .error _ => false
  [fence 1 nums (fun v s => fresh v && kind v == 0 && acqIs v s (scope v) 1 none true (onB v)),
   fence 9 nums (fun v s => fresh v && kind v == 1 && relIs v s (scope v) (some true) (onB v)),
   fence 0x2C (prog (.released false) nums) (fun v s => fresh v && kind v == 1 && relIs v s (scope v) (some false) (onB v)),
   fence 0x11 nums (fun v s => fresh v && kind v == 2 && relIs v s (scope v) (some true) (fun s1 => acqIs v s1 (scope v) 1 none true (onB v))),
   fence 0x34 (prog (.released false) nums) (fun v s => fresh v && kind v == 2 && relIs v s (scope v) (some false) (fun s1 => acqIs v s1 (scope v) 0 none true (onB v))),
   fence 3 (acq 1 nums) (fun v s => v.x.acquiring? == some 1 && acqIs v s (scope v) 1 none true (onB v)),
   fence 3 (withFill (acq 1 nums)) (fun v s => v.x.acquiring? == some 1 && acqIs v s (scope v) 1 none false),
   fence 9 (withFill nums) (fun v s => fresh v && decide (1 ≤ kind v) && relIs v s (scope v) none),
   fence 0xA nums (fun v s => fresh v && decide (1 ≤ kind v) && relIs v s (scope v) none),
   fence 1 (withFill nums) (fun v s => fresh v && kind v == 0 && acqIs v s (scope v) 1 none false),
   fence 0x11 (withFill (prog (.released true) nums)) (fun v s => fresh v && kind v == 2 && relIs v s (scope v) (some true) (fun s1 => acqIs v s1 (scope v) 1 none false)),
   ⟨commit, f0, prog (.satisfied 0) (ordered nums), fun v s => s.isOrdered v.b && satisfied v⟩,
   ⟨commit, f0, ordered nums, fun v s => s.isOrdered v.b && !satisfied v⟩,
   ⟨commit, f0, prog (.released true) nums, fun v s => !s.isOrdered v.b && fresh v && relIs v s .die (some true) (fun s1 => acqIs v s1 .die 1 none true (onB v))⟩,
   ⟨commit, f0, acq 1 nums, fun v s => !s.isOrdered v.b && v.x.acquiring? == some 1 && acqIs v s .die 1 none true (onB v)⟩,
   ⟨commit, f0, nums, fun v s => !s.isOrdered v.b && fresh v && relIs v s .die none⟩,
   ⟨gsync, g, prog (.satisfied 0) (gs [0, 2]), fun v s => satisfied v && acqIs v s (scope v) 1 none true (onB v)⟩,
   ⟨gsync, g, acq 1 (gs [0, 2]), fun v s => v.x.acquiring? == some 1 && acqIs v s (scope v) 1 none true (onB v)⟩,
   ⟨gsync, g, gs [0], member true⟩, ⟨gsync, g, withSlice 2 (gs [0, 2]), member false⟩,
   ⟨gsync, g, gs [1, 2], fun v s => fresh v && !satisfied v && (match s.groupOf v.b v.a.scalar with | .ok (blk, _, g) => !g.current.contains (if blk then v.bid else v.sid) | .error _ => false)⟩,
   ⟨gsync, F 0 5 0 (.two (X 0 1)), gs [0, 2], fun v s => fresh v && !satisfied v && (match s.groupOf v.b v.a.scalar with | .ok _ => false | .error _ => true)⟩]

theorem witness_FencesAndCommits : ∀ w ∈ wsFence, w.Meets := Wit.all_meet _ (by decide +kernel)

/-- LDA beginning, with its elements there, in its acquire, and with no lane; STRL storing, with a failed release, and waiting. -/
def wsOrderedAccess : List Wit :=
  let scope := fun (v : Env) => (scopeOf (v.md % 8)).getD .core
  let elems := fun (v : Env) => (lanesOf v.act).map (fun l =>
    ({ lane := l, k := 0, va := (v.al l + ((v.f.lit?.getD 0).signExtend 64).toNat) % 2 ^ 64, size := elemSize v.ty } : MElem))
  let fresh := fun (v : Env) => (match v.x.prog with | .pending _ => false | _ => true) && v.x.acquiring?.isNone
  let aligned := fun (v : Env) => (elems v).all (fun e => e.va % elemSize v.ty == 0)
  let lda := fun (m : BitVec 11) (s : State) (c : Env → State → Bool) => (⟨encLda, F 20 6 0 (.two (X 24 m)), s, c⟩ : Wit)
  let starts := fun (v : Env) (s : State) => fresh v && s.counterRoom v true && aligned v && v.act != 0 && goes (s.checkGlobal v {} .read ((scope v).code == 1) (elems v)) (fun _ _ => true)
  let ready := fun (v : Env) (s : State) => (match s.await 9 with | .ready _ => true | _ => false) && acqIs v s (scope v) 10 (some 9) true (onB v)
  let strl := fun (m : BitVec 11) (s : State) (c : Env → State → Bool) => let f := F (if bitOf m.toNat 5 then 3 else 0) 6 8 (.two (X 24 m)); (⟨encStrl f, f, s, c⟩ : Wit)
  let stores := fun (v : Env) (s : State) (r : Option Bool) => aligned v && goes (s.checkGlobal v {} .write false (elems v)) (fun s1 ps =>
    (!s1.isOrdered v.b || !s1.logFull v ps) && relIs v s1 (scope v) r (fun s2 => r != some true || (s2.storeRoom v && s2.sendRoom v ps && onB v s2)))
  [lda 1 (mem 0 0) starts, lda 5 (mem 0x40 0) starts, lda 1 (landed 5 (prog (.pending 9) (mem 0 0))) (fun v s => v.x.prog == .pending 9 && ready v s),
   lda 2 (landed 5 (acq 10 (mem 0 0))) (fun v s => v.x.acquiring? == some 10 && ready v s),
   lda 2 (acq 0 (mem 0 0)) (fun v s => v.x.acquiring? == some 0 && acqIs v s (scope v) 0 none true (onB v)),
   ⟨encLda, F 20 6 0 (.three (G (X 24 1)) 0), mem 0 0 (sel 0), fun v s => fresh v && s.counterRoom v true && v.act == 0 &&
      goes (s.checkGlobal v {} .read ((scope v).code == 1) []) (fun s1 _ => acqIs v s1 (scope v) 0 none true (onB v))⟩,
   strl 1 (mem 0 0) (fun v s => stores v s (some true)), strl 0x24 (prog (.released true) (mem 0 0)) (fun v s => stores v s (some true)),
   strl 0x24 (prog (.released false) (mem 0 0)) (fun v s => stores v s (some false)), strl 2 (mem 0 0) (fun v s => stores v s none)]

theorem witness_OrderedAccess : ∀ w ∈ wsOrderedAccess, w.Meets := Wit.all_meet _ (by decide +kernel)

/-- The window's object at 0x10: v1 = 0x10, v2 = 0, v3 = 1, v5 = 0x10000. -/
def bar (x : BarObj) (o : Word := 0x10) (fx : Slice → Slice := id) : State :=
  tState [(1, U o), (2, U 0), (3, U 1), (5, U 0xFFFFFFFF)] fx (fun b => let b := { b with scratch := 256 }; b.winWrite 0x10 x.bytes)

/-- The barrier instructions on a fresh object, on one that the next arrival completes, on one that waits for bytes, of either phase, on a
bad object, on one that would overflow and on one that has; with no lane; waiting; in an acquire. MWAIT and TKW begin, with their value
there and met, met after an acquire, and not met, and in an ordered block. -/
def wsBarrier : List Wit :=
  let at' := fun (v : Env) (s : State) (act : BitVec 4) (c : Nat → Bool) => winGoes (s.barGate v act) (fun es => c (es.getD 0 default).va)
  let obj := fun (v : Env) (o : Nat) => v.b.window.barObj o
  let scope := fun (v : Env) => (scopeOf (v.md % 8)).getD .core
  let binit : Enc := { opc := 0xA0, lens := [2, 3], sa := .u32, lit := .role, md := 0x3FF }
  let bexp : Enc := { opc := 0xA1, lens := [2, 3], sa := .u32, sb := .u32, lit := .role }
  let more := fun (v : Env) => if bitOf v.md 3 then v.o.scalar else 0
  let same := fun (v : Env) (o : Nat) => (obj v o).ctrl % 2 == v.o.scalar
  let fresh := fun (v : Env) => v.x.acquiring?.isNone
  let new : BarObj := ⟨0, 0, 2, 0, 2⟩
  let ready := fun (v : Env) (s : State) (c : Nat → Bool) => decide (v.o.scalar ≤ 1) && at' v s v.x.mask (fun o => (obj v o).cause.isNone && c o)
  let arrives := fun (v : Env) (s : State) => v.act != 0 && at' v s v.act (fun o => (obj v o).cause.isNone && relIs v s (scope v) (some true) (fun s1 =>
    decide ((obj v o).xbytes + more v < 2 ^ 32) && decide ((obj v o).aarr < (obj v o).xarr) && onB v s1))
  let barr := fun (m : BitVec 11) (b : BitVec 6) (s : State) (c : Env → State → Bool) => let f := F (if bitOf m.toNat 4 then 20 else 0) 1 b (.two (X 0 m)); (⟨encBarr f, f, s, c⟩ : Wit)
  let two := fun (s : State) (c : Env → State → Bool) (b : BitVec 6) => [(⟨encBwait 0xA3 .no, F 0 1 b (.two (X 0 1)), s, c⟩ : Wit), ⟨encBwait 0xA4 .pd, F 3 1 b (.two (X 0 1)), s, c⟩]
  let none' : Tail := .three (G (X 0 1)) 0
  let found := fun (w : Option (Option Half)) (s : State) => prog (.barrier 0x10 0 w) s
  let saw := fun (w : Option (Option Half)) (v : Env) => v.x.prog == .barrier 0x10 0 w
  let acquires := fun (done : Bool) (v : Env) (s : State) => acqIs v s (scope v) 1 none done (fun s1 => !done || onB v s1)
  [⟨binit, F 0 1 0 (.two (X 0 0)), bar new, fun v s => v.act != 0 && at' v s v.act (fun _ => true)⟩,
   ⟨binit, F 0 1 0 (.three (X 0 0x3FF) 0xFFFFFFF0), bar new 0x100, fun v s => v.act != 0 && at' v s v.act (fun _ => true)⟩,
   ⟨binit, F 0 1 0 none', bar new 0x10 (sel 0), fun v _ => v.act == 0⟩, ⟨bexp, F 0 1 3 (.three (G (X 0)) 0), bar new 0x10 (sel 0), fun v _ => v.act == 0⟩,
   ⟨bexp, F 0 1 5 (.two (X 0)), bar new, fun v s => v.act != 0 && at' v s v.act (fun o => (obj v o).cause.isNone && decide ((obj v o).xbytes + v.o.scalar < 2 ^ 32))⟩,
   ⟨bexp, F 0 1 3 (.two (X 0)), bar ⟨0xFFFFFFFF, 0, 2, 0, 2⟩, fun v s => v.act != 0 && at' v s v.act (fun o => (obj v o).cause.isNone && decide (2 ^ 32 ≤ (obj v o).xbytes + v.o.scalar))⟩,
   ⟨bexp, F 0 1 3 (.two (X 0)), bar ⟨0, 0, 0, 0, 0⟩, fun v s => v.act != 0 && at' v s v.act (fun o => (obj v o).cause == some 0x0504)⟩,
   ⟨bexp, F 0 1 3 (.two (X 0)), bar ⟨0, 0, 1, 0, 6⟩, fun v s => v.act != 0 && at' v s v.act (fun o => (obj v o).cause == some 0x0502)⟩,
   barr 1 0 (bar new) arrives, barr 0x19 3 (bar ⟨0, 0, 2, 1, 3⟩) arrives, barr 0x11 0 (bar ⟨4, 0, 2, 1, 2⟩) arrives,
   barr 1 0 (bar ⟨0, 0, 0, 0, 0⟩) (fun v s => v.act != 0 && at' v s v.act (fun o => (obj v o).cause == some 0x0504)),
   barr 2 0 (bar new) (fun v s => v.act != 0 && at' v s v.act (fun o => (obj v o).cause.isNone && relIs v s (scope v) none)),
   barr 9 5 (bar ⟨1, 0, 2, 0, 2⟩) (fun v s => v.act != 0 && at' v s v.act (fun o => (obj v o).cause.isNone && relIs v s (scope v) (some true) (fun _ => decide (2 ^ 32 ≤ (obj v o).xbytes + more v)))),
   (let f := F 0 1 0 none'; ⟨encBarr f, f, bar new 0x10 (sel 0), fun v _ => v.act == 0⟩)]
  ++ two (found (some none) (bar new)) (fun v s => saw (some none) v && acquires true v s) 2
  ++ (two (found (some (some 0x0504)) (bar new)) (fun v _ => saw (some (some 0x0504)) v) 2).take 1
  ++ two (withFill (found (some none) (bar new))) (fun v s => saw (some none) v && acquires false v s) 2
  ++ two (withFill (bar ⟨0, 0, 2, 0, 3⟩)) (fun v s => fresh v && v.x.prog == .fresh && ready v s (fun o => !same v o) && acquires false v s) 2
  ++ two (bar ⟨0, 0, 2, 0, 3⟩) (fun v s => fresh v && ready v s (fun o => !same v o) && acqIs v s (scope v) 1 none true (onB v)) 2
  ++ two (bar ⟨0, 0, 2, 0, 3⟩) (fun v s => fresh v && ready v s (same v)) 3
  ++ two (bar ⟨0, 0, 2, 0, 0⟩) (fun v s => fresh v && decide (v.o.scalar ≤ 1) && at' v s v.x.mask (fun o => (obj v o).cause == some 0x0504)) 3
  ++ (two (acq 1 (bar new)) (fun v s => v.x.acquiring? == some 1 && acqIs v s (scope v) 1 none true (onB v)) 3).take 1

def wsMonitor : List Wit :=
  let mwait : Enc := { opc := 0xA5, lens := [2, 3], sa := .u64, sb := .uty, types := .eff typeW, gov0 := true, lit := .role, md := 0x77, extra := fun f t => (modOf f % 8 == 2 || modOf f % 8 == 3) && decide (modOf f / 16 % 8 ≤ 5) && (decide (modOf f / 16 % 8 ≤ 1) || typeInt t) }
  let tkw : Enc := { opc := 0xB0, lens := [2, 3], sa := .u64, sb := .u32, gov0 := true, lit := .role, md := 7, extra := fun f _ => modOf f % 8 == 2 || modOf f % 8 == 3 }
  let base := fun (v : Env) => (v.a.scalar + ((v.f.lit?.getD 0).signExtend 64).toNat) % 2 ^ 64
  let clauses := fun (e : Enc) (t : BitVec 5) (cond ty size : Env → Nat) =>
    let scope := fun (v : Env) => (scopeOf (v.md % 8)).getD .die
    let fresh := fun (v : Env) => v.x.prog == .fresh
    let w := fun (s : State) (c : Env → State → Bool) => (⟨e, F 0 6 9 (.two (X t 2)), s, c⟩ : Wit)
    let there := fun (v : Env) (s : State) (met : Bool) => match s.await 9 with
      | .ready x => waitCond (cond v) (ty v) (match x.elems with | e :: _ => e.value | [] => 0) v.o.v.l0.toNat == met
      | _ => false
    let off := fun (_ : Env) => if e.opc = 0xB0 then 4 else 0
    let commits := fun (v : Env) (s : State) (met : Bool) (off size : Nat) => v.x.prog == .satisfied 0 &&
      goes (s.oneElem v (base v) size size .read v.x.mask) (fun s1 ps => match ps with
        | p :: _ => (match p.place with
          | .own d pa leaf => (s1.firstPoison d (pa + off) (elemSize (ty v))).isNone && (match s1.homeRead d (pa + off) (elemSize (ty v)) (leafPol leaf != 3) with
              | (s2, bytes, _) => waitCond (cond v) (ty v) (leNat bytes) v.o.v.l0.toNat == met && (!met || onB v (s2.dropVs v.b.die v.b.core (fun _ => true))))
          | _ => false)
        | [] => false)
    let arm := fun (s : State) => s.modDie 0 (fun d => { d with monitors := [(1, { (default : Monitor) with bid := 0, sid := 0 })] })
    [w (landed 2 (prog (.pending 9) (mem 0 0))) (fun v s => v.x.prog == .pending 9 && there v s true && acqIs v s (scope v) 10 (some 9) true (onB v)),
     w (landed 2 (acq 10 (mem 0 0))) (fun v s => v.x.acquiring? == some 10 && there v s true && acqIs v s (scope v) 10 (some 9) true (onB v)),
     w (landed 3 (prog (.pending 9) (mem 0 0))) (fun v s => v.x.prog == .pending 9 && there v s false && !s.monitored v.bid v.sid &&
        goes ((s.discardFill 9).oneElem v (base v) (size v) (size v) .read v.x.mask) (fun s1 _ => !s1.isOrdered v.b)),
     w (prog (.satisfied 0) (ordered (mem 0 0 id id (leBytes 8 0x200000002)))) (fun v s => commits v s true (off v) (size v)),
     w (prog (.satisfied 0) (ordered (mem 0 0))) (fun v s => commits v s false (off v) (size v)),
     w (arm (landed 3 (prog (.pending 9) (mem 0 0)))) (fun v s => v.x.prog == .pending 9 && there v s false && s.monitored v.bid v.sid),
     w (mem 0 0) (fun v s => fresh v && goes (s.oneElem v (base v) (size v) (size v) .read v.x.mask) (fun s1 _ => !s1.isOrdered v.b)),
     w (ordered (mem 0x78 0)) (fun v s => fresh v && goes (s.oneElem v (base v) (size v) (size v) .read v.x.mask) (fun s1 _ => s1.isOrdered v.b))]
  clauses mwait 24 (fun v => v.md / 16 % 8) (fun v => v.ty) (fun v => elemSize v.ty) ++ clauses tkw 0 (fun _ => 0) (fun _ => 22) (fun _ => 8)

theorem witness_BarriersAndMonitors : ∀ w ∈ wsBarrier ++ wsMonitor, w.Meets := Wit.all_meet _ (by decide +kernel)


/-! ### Read-modify-writes -/

/-- Data in v8 to v11, addresses in v6 and v7 and in v12; the line at `tVa` private to the block in its round. -/
def privately (s : State) : State := ordered (s.modLine 0 tPa (fun l => { l with ord := [(0, .priv 0)] }))

/-- The operands of a form whose MOD is `m`: the window's or a pair's address, and a guard where asked. -/
def rmwF (dst t : Nat) (m : BitVec 11) (none' : Bool := false) : Fields :=
  let e := X (BitVec.ofNat 5 t) m (if dst = 0 then 0 else 10)
  F (BitVec.ofNat 6 dst) (if bitOf m.toNat 5 then 12 else 6) 8 (if none' then .three (G e) 0 else .two e)

/-- For each clause of an RMW's course a state and operands: those numbered in `cs`, each with its MOD. -/
def rmwW (e : Fields → Enc) (q : Env → RmwReq) (counted : Env → Bool) (es : Env → List MElem) (pre : Env → State → Option State)
    (f : BitVec 11 → Bool → Fields) (cs : List (Nat × BitVec 11)) : List Wit :=
  let spots := fun (v : Env) => (es v).map (fun e => (e.lane, 0, (e.va : Int)))
  let begun := fun (v : Env) => match v.x.prog with | .pending _ => true | .acquiring _ _ => true | _ => false
  let committing := fun (v : Env) => match v.x.prog with | .satisfied _ => true | _ => false
  let pre' := fun (v : Env) (s : State) (c : State → Bool) => match pre v s with | some s0 => c s0 | none => false
  let window := fun (v : Env) (s : State) (c : State → List MElem → Bool) => !begun v && (q v).win && pre' v s (fun s0 =>
    winGoes (s0.winGate v (q v).align (spots v)) (fun ws => (pickFail (v.b.winPoisoned ws)).isNone && !v.behind && c s0 ws))
  let global := fun (v : Env) (s : State) (c : State → List Placed → Bool) => !begun v && !(q v).win && pre' v s (fun s0 =>
    goes (s0.checkGlobal v { align := (q v).align, rmw := true } .rmw false (es v)) c)
  let point := fun (v : Env) (s : State) (ps : List Placed) => s.isOrdered v.b && (q v).point &&
    ps.any (fun p => match p.place with | .own d pa _ => !s.isPrivate v.b d pa | _ => false)
  let rel := fun (v : Env) (s : State) (c : State → Bool) => if (q v).rel then (s.release v (q v).scope).2.isSome && c (s.release v (q v).scope).1 else c s
  let ends := fun (v : Env) (s : State) (fid : Nat) => match s.fills.get? fid with
    | some x => x.elems.all FillElem.resolved && x.raised.isNone && (if (q v).acq then acqIs v s (q v).scope (BitVec.ofNat 64 (fid + 1)) (some fid) true (onB v) else onB v s)
    | none => false
  let begins := fun (v : Env) (s : State) (c : State → State → List Placed → Bool) => global v s (fun s1 ps => !committing v && rel v s1 (fun s2 =>
    (es v) != [] && c s1 s2 ps))
  let base := mem 0 0
  cs.map (fun (n, m) => match n with
    | 0 => ⟨e (f m false), f m false, landed 2 (prog (.pending 9) base), fun v s => v.x.prog == .pending 9 && ends v s 9⟩
    | 1 => ⟨e (f m false), f m false, landed 2 (acq 10 base), fun v s => v.x.acquiring? == some 10 && ends v s 9⟩
    | 2 => ⟨e (f m false), f m false, base, fun v s => window v s (fun s0 ws => ws != [] && rel v s0 (fun s1 => !(q v).returns && onB v s1))⟩
    | 3 => ⟨e (f m false), f m false, base, fun v s => window v s (fun s0 ws => ws != [] && rel v s0 (fun s1 => (q v).returns && !(q v).hold && onB v s1))⟩
    | 4 => ⟨e (f m false), f m false, base, fun v s => window v s (fun s0 ws => ws != [] && rel v s0 (fun s1 => (q v).returns && (q v).hold &&
        let r := (q v).startHold v (counted v) (s1.modBlock v.bid (fun _ => ((q v).allOnWindow v.sid v.b ws).1))
          ((q v).knownElems v.f.dst.toNat ws (((q v).allOnWindow v.sid v.b ws).2.map some)) [] ws
        ends v r.1 r.2))⟩
    | 5 => ⟨e (f m false), f m false, base, fun v s => begins v s (fun s1 s2 ps => !point v s1 ps && !(q v).returns && !s1.isOrdered v.b &&
        s2.storeRoom v && s2.sendRoom v ps && (!(q v).unordered || !s2.ownBusy v ps) && onB v s2)⟩
    | 6 => ⟨e (f m false), f m false, ordered base, fun v s => begins v s (fun s1 s2 ps => !point v s1 ps && !(q v).returns && s1.isOrdered v.b &&
        !s2.logFull v ps && s2.storeRoom v && s2.sendRoom v ps && onB v s2)⟩
    | 7 => ⟨e (f m false), f m false, base, fun v s => begins v s (fun s1 s2 ps => !s1.isOrdered v.b && !v.behind && (q v).returns && !(q v).hold &&
        (!counted v || s2.counterRoom v true) && s2.sendRoom v ps && onB v s2)⟩
    | 8 => ⟨e (f m false), f m false, base, fun v s => begins v s (fun s1 s2 ps => !s1.isOrdered v.b && !v.behind && (q v).returns && (q v).hold &&
        (!counted v || s2.counterRoom v true) && s2.sendRoom v ps)⟩
    | 9 => ⟨e (f m false), f m false, privately base, fun v s => begins v s (fun s1 s2 ps => s1.isOrdered v.b && !point v s1 ps && !v.behind && (q v).returns &&
        (!counted v || s2.counterRoom v true) && !s2.logFull v ps &&
        let r := (q v).performNow v false (es v) ps s2
        let h := (q v).startHold v (counted v) (r.1.touchAll v ps) ((q v).knownElems v.f.dst.toNat (es v) r.2) [] (es v)
        ends v h.1 h.2)⟩
    | 10 => ⟨e (f m false), f m false, ordered base, fun v s => begins v s (fun s1 _ ps => point v s1 ps)⟩
    | 11 => ⟨e (f m false), f m false, prog (.satisfied 0) (ordered base), fun v s => global v s (fun s1 ps => committing v &&
        let r := (q v).performNow v true (es v) ps s1
        let h := (q v).startHold v (counted v) (r.1.touchAll v ps) ((q v).knownElems v.f.dst.toNat (es v) r.2) [] (es v)
        ends v h.1 h.2)⟩
    | 13 => ⟨e (f m true), f m true, acq 0 (mem 0 0 (sel 0)), fun v s => v.x.acquiring? == some 0 && acqIs v s (q v).scope 0 none true (onB v)⟩
    | _ => ⟨e (f m true), f m true, mem 0 0 (sel 0), fun v s =>
        let last := fun (s1 : State) => rel v s1 (fun s2 => if (q v).acq then acqIs v s2 (q v).scope 0 none true (onB v) else onB v s2)
        if (q v).win then window v s (fun s1 ws => ws == [] && last s1) else global v s (fun s1 _ => !committing v && es v == [] && last s1)⟩)

/-- Forms on the window of no order and of core order, and forms on memory. -/
def wsRmw : List Wit :=
  let op := fun (f : Fields) => modOf f / 64 % 16
  let all : List (Nat × BitVec 11) := [(0, 0), (1, 0xA), (3, 0x20), (4, 0x29), (4, 0x39), (7, 0), (8, 0xA), (8, 0x19), (9, 0), (10, 0), (11, 0), (12, 0), (12, 0x20), (12, 0xA), (13, 0xA)]
  let some' : List (Nat × BitVec 11) := [(0, 0), (3, 0x20), (7, 0), (8, 0xA), (11, 0), (12, 0)]
  let row := fun (e : Fields → Enc) (op : Fields → Nat) (ty : Nat) =>
    let q := fun (v : Env) => rmwReq (op v.f) true false false true v
    rmwW e q (fun v => !bitOf v.md 5) (fun v => v.rmwElems (bitOf v.md 5) (elemSize v.ty))
      (fun v s => if bitOf v.md 5 && (v.winMisaligned (elemSize v.ty) (elemSize v.ty)).isSome then none else some s)
      (fun m n => { rmwF 20 ty m n with sb := if e (rmwF 20 ty m n) |>.sb.reads then 8 else 0, tail := match (rmwF 20 ty m n).tail with
        | .two x => .two { x with sc := if e (rmwF 20 ty m n) |>.sc.reads then 10 else 0 }
        | .three x w => .three { x with sc := if e (rmwF 20 ty m n) |>.sc.reads then 10 else 0 } w
        | t => t })
  row (fun f => encRmw 0xA6 f true .ty (if op f = 7 then .ty else .no) typeW 0x3FF (fun m t => decide (m / 64 % 16 ≤ 7) && (!(m / 64 % 16 == 4 || m / 64 % 16 == 5) || typeInt t)) false) op 24
    (all ++ [(7, 0x1C0), (3, 0x1E0)])
  ++ row (fun f => encRmw 0xA7 f true .ty .no typeN 0x3F (fun _ _ => true) false) (fun _ => opBinc) 22 some'
  ++ row (fun f => encRmw 0xA8 f true .ty .no typeN 0x3F (fun _ _ => true) false) (fun _ => opWinc) 22 some'
  ++ row (fun f => encRmw 0xA9 f true .no .no typeN 0x3F (fun _ _ => true) false) (fun _ => opDecz) 23 some'
  ++ row (fun f => encRmw 0xAC f true .ty .no typeFP 0x3FF fatomOk true) op 1 some'
  ++ row (fun f => encRmw 0xAD f true .ty .no typeFP 0x3FF fatomOk true) op 1 some'

/-- FADDL, which always waits for its results. -/
def wsFaddl : List Wit :=
  rmwW (fun f => encRmw 0xAA f true .ty .no typeN 0x1FF (fun _ _ => true) false) (fun v => rmwReq opFaddl true true false true v)
    (fun v => !bitOf v.md 5) (fun v => v.rmwElems (bitOf v.md 5) (elemSize v.ty))
    (fun v s => if bitOf v.md 5 && (v.winMisaligned (2 * elemSize v.ty) (2 * elemSize v.ty)).isSome then none else some s)
    (fun m n => { rmwF 20 22 m n with tail := match (rmwF 20 22 m n).tail with | .two x => .two { x with sc := 0 } | .three x w => .three { x with sc := 0 } w | t => t })
    [(0, 0x40), (1, 0x4A), (4, 0x60), (4, 0x69), (8, 0x40), (8, 0x4A), (9, 0), (10, 0), (11, 0x40), (12, 0), (12, 0x20)]

theorem witness_RmwResults : (∀ w ∈ wsRmw ++ wsFaddl, w.Meets) ∧
    (5 : Nat) < 2 ^ typeBits 22 ∧ (0 : Nat) < 2 ^ typeBits 22 ∧ 2 ^ typeBits 22 - 1 < 2 ^ typeBits 22 ∧ typeFP 22 = false :=
  ⟨Wit.all_meet _ (by decide +kernel), by decide, by decide, by decide, by decide⟩

/-- RED.o and RED.u of a float and of an integer; TKT and TKA with a lane and with none. -/
def wsTicket : List Wit :=
  let red := fun (opc : Nat) (u : Bool) (ty : Nat) =>
    rmwW (fun f => encRmw opc f false .ty .no (fun t => typeW t || typeFP t) 0x3FF redOpOk true) (fun v => rmwReq (modOf v.f / 64 % 16) false false u false v)
      (fun v => !bitOf v.md 5) (fun v => v.rmwElems (bitOf v.md 5) (elemSize v.ty))
      (fun v s => if bitOf v.md 5 && (v.winMisaligned (elemSize v.ty) (elemSize v.ty)).isSome then none else some s)
      (fun m n => rmwF 0 ty m n) [(2, 0x20), (2, 0x31), (5, 0), (5, 0x11), (6, 0), (12, 0), (12, 0x20)]
  let tkt : Enc := { opc := 0xAB, lens := [1, 2, 3], dst := .w32, sa := .u64, lit := .role }
  let tka : Enc := { opc := 0xB1, lens := [2, 3], sa := .u64, lit := .role, md := 7, extra := fun f _ => modOf f % 8 == 2 || modOf f % 8 == 3 }
  let base := fun (v : Env) => (v.a.scalar + ((v.f.lit?.getD 0).signExtend 64).toNat) % 2 ^ 64
  let word := fun (off : Nat) (v : Env) => [(⟨(lanesOf v.act).headD 0, 0, (base v + off) % 2 ^ 64, 4⟩ : MElem)]
  let pre := fun (v : Env) (s : State) => if v.act = 0 then none else match s.oneElem v (base v) 8 8 .rmw v.act with | .go s0 _ => some s0 | .stop _ => none
  let fld := fun (dst : BitVec 6) (m : BitVec 11) (n : Bool) => F dst 6 0 (if n then .three (G (X 0 m)) 0 else .two (X 0 m))
  red 0xAE false 1 ++ red 0xAF true 24
  ++ rmwW (fun _ => tkt) (fun _ => ticketReq true false .core) (fun _ => true) (word 0) pre (fld 20) [(0, 0), (8, 0), (9, 0), (10, 0), (11, 0)]
  ++ [id, ordered].map (fun st => (⟨tka, fld 0 2 false, prog (.released true) (st (mem 0 0)), fun v s => match pre v s with
        | some s0 => goes (s0.checkGlobal v { align := 4, rmw := true } .rmw false (word 4 v)) (fun s1 ps => relIs v s1 .die (some true) (fun s2 =>
            (!s1.isOrdered v.b || !s2.logFull v ps) && s2.storeRoom v && s2.sendRoom v ps && onB v s2))
        | none => false⟩ : Wit))
  ++ [⟨tkt, fld 20 0 true, mem 0 0 (sel 0), fun v _ => v.act == 0⟩, ⟨tka, fld 0 3 true, mem 0 0 (sel 0), fun v _ => v.act == 0⟩]

theorem witness_ReductionsAndTickets : ∀ w ∈ wsTicket, w.Meets := Wit.all_meet _ (by decide +kernel)


/-! ### Peers -/

/-- v6 and v7 hold an offset, v12 the peer, v8 and v10 data; the partition reaches other packages. -/
def peers (peer : Word) (off : Nat) : State :=
  tState [(6, U (BitVec.ofNat 32 off)), (7, U (BitVec.ofNat 32 (off / 2 ^ 32))), (8, U 1), (9, U 2), (10, U 3), (12, U peer)] id id [] (fun s => { s with accepted := true, accept := 4 })

/-- A read, a write and an atomic at a die of this package and at another's, at the last byte of an offset's range and past it; with the
counter full; an atomic beginning, with its results there, and in its acquire. -/
def wsPeer : List Wit :=
  let rld : Enc := { opc := 0x69, lens := [1, 2, 3], dst := .run, sa := .w32, sb := .w64, types := .eff typeMT, lit := .role, md := 3, extra := fun f _ => modOf f % 4 != 3 }
  let rst : Enc := { opc := 0x6A, lens := [2, 3], sa := .w32, sb := .w64, sc := .run, types := .eff typeMT, lit := .role, md := 3, extra := fun f _ => modOf f % 4 != 3 }
  let es := fun (v : Env) => ((lanesOf v.act).flatMap (fun l => (List.range (countOf v.f)).map (fun k =>
    ({ lane := l, k := k, peer := v.al l, off := (v.bl l + ((v.f.lit?.getD 0).signExtend 64).toNat + k * elemSize v.ty) % 2 ^ 64, size := elemSize v.ty } : RElem)))).insertionSort
      (fun a b => a.peer ≤ b.peer)
  let ok := fun (v : Env) (s : State) => (es v).all (fun e => (s.remoteFail 1 e).isNone)
  let other := fun (v : Env) (s : State) => (es v).zipIdx.filter (fun q => !s.ownPeer q.1.peer)
  let room := fun (read : Bool) (v : Env) (s : State) => s.counterRoom v read && s.pairsRoom ((other v s).map (fun q => s.peerReq v q.1 (if read then 0 else 1) 0 []))
  let rings := fun (v : Env) (s : State) => s.ringRoom v (s.ownParts v (es v))
  let full : State → State := fun s => { s with issues := (List.range 63).flatMap (fun i => [(100 + 2 * i, ⟨0, 0, true, 1, []⟩), (101 + 2 * i, ⟨0, 0, false, 1, []⟩)]) }
  let two := fun (s : State) (c : Bool → Env → State → Bool) => [(⟨rld, F 20 12 6 (.two (X 24 1)), s, c true⟩ : Wit), ⟨rst, F 0 12 6 (.two (X 24 1 8)), s, c false⟩]
  let aes := fun (v : Env) => passOrder (v.remoteElems (elemSize v.ty) 1)
  let aok := fun (v : Env) (s : State) => (aes v).all (fun e => (s.remoteFail (elemSize v.ty) e).isNone)
  let aroom := fun (v : Env) (s : State) => s.counterRoom v true && s.pairsRoom ((s.ratmRequests v (aes v)).map (fun r => r.2)) && s.ringRoom v (s.ownParts v (aes v))
  let fresh := fun (v : Env) => match v.x.prog with | .pending _ => false | .acquiring _ _ => false | _ => true
  let ratm := fun (m : BitVec 11) (s : State) (c : Env → State → Bool) => let f := F 20 12 6 (.two (X 24 m 8)); (⟨encRatm f, f, s, c⟩ : Wit)
  let starts := fun (hold : Bool) (v : Env) (s : State) => fresh v && aok v s && (ratmReq v).hold == hold &&
    let s1 := if (ratmReq v).rel then (s.release v (ratmReq v).scope).1 else s
    (!(ratmReq v).rel || (s.release v (ratmReq v).scope).2.isSome) && aroom v s1 && (hold || onB v s1)
  let ends := fun (v : Env) (s : State) => match s.fills.get? 9 with
    | some x => x.elems.all FillElem.resolved && x.raised.isNone && (if (ratmReq v).acq then acqIs v s (ratmReq v).scope 10 (some 9) true (onB v) else onB v s)
    | none => false
  two (peers 0 (2 ^ 50 - 8)) (fun r v s => ok v s && room r v s && (r || (v.b.shadowOf.isNone && rings v s))) ++ two (peers 8 0x1000) (fun r v s => ok v s && room r v s && (r || (v.b.shadowOf.isNone && rings v s)) && other v s != [])
  ++ (two (full (peers 8 0x1000)) (fun r v s => ok v s && !room r v s)).take 1
  ++ (two ((peers 8 0x1000).modBlock 0 (fun b => { b with shadowOf := some 5 })) (fun _ v s => ok v s && v.b.shadowOf.isSome)).drop 1
  ++ two (peers 8 (2 ^ 50 - 4)) (fun _ v s => (pickFail ((es v).filterMap (s.remoteFail 1))).isSome)
  ++ two (peers 0x2000 0) (fun _ v s => (pickFail ((es v).filterMap (s.remoteFail 1))).isSome)
  ++ [ratm 0 (peers 8 0x1000) (starts false), ratm 0 (peers 0 0x1000) (starts false), ratm 0xC (peers 8 0x1000) (starts true), ratm 0x13 (prog (.released true) (peers 8 0x1000)) (starts false),
      ratm 0 (landed 2 (prog (.pending 9) (peers 8 0x1000))) (fun v s => v.x.prog == .pending 9 && ends v s),
      ratm 0xC (landed 2 (acq 10 (peers 8 0x1000))) (fun v s => v.x.acquiring? == some 10 && ends v s),
      ratm 0xC (acq 0 (peers 8 0x1000)) (fun v s => v.x.acquiring? == some 0 && acqIs v s (ratmReq v).scope 0 none true (onB v)),
      (let f := F 20 12 6 (.two (G (X 24 0xC 8))); ⟨encRatm f, f, (peers 8 0x1000).modSlice 0 0 (sel 0), fun v s => fresh v && v.act == 0 && (ratmReq v).hold &&
        (if (ratmReq v).rel then (s.release v (ratmReq v).scope).2.isSome else true) &&
        acqIs v (if (ratmReq v).rel then (s.release v (ratmReq v).scope).1 else s) (ratmReq v).scope 0 none true (onB v)⟩),
      ratm 0 (peers 8 0x1002) (fun v s => fresh v && (pickFail ((aes v).filterMap (s.remoteFail (elemSize v.ty)))).isSome)]

theorem witness_PeerAccess : ∀ w ∈ wsPeer, w.Meets := Wit.all_meet _ (by decide +kernel)


/-! ### Matrix -/

/-- A slot of a name. -/
def slotP (name : Nat) (fmt : SlotFormat := .plain) (f : Nat := 0) (k : Nat := 0) (ready : Bool := true) : PSlot :=
  { name := some name, f := f, k := k, ready := ready, faulted := false, format := fmt, rows := [], scales := [] }

/-- Names in v1 and v2, a tile of 16 by 16 words at the region's start in v3, one that leaves it in v4, an address in v6 and v7 and in v12. -/
def mat (a b : Word) (slots : Tab PSlot) (fb : Block → Block := id) (fx : Slice → Slice := id) : State :=
  tState (at' 6 0 ++ [(1, U a), (2, U b), (3, U 0x00100000), (4, U 0x00100FFF), (5, U 0x10000), (8, U 0x20), (12, U 0)]) fx
    (fun b => fb { b with slots := slots, acc := 1, slotLimit := 1, scratch := 4096 })

/-- A MOD of zero and no lane. -/
def off (m : BitVec 11) (sc : BitVec 6) (t : BitVec 5 := 0) (l : Word := 0) : Tail := .three (G (X t m sc)) l

def rowsGo2 (g : Rows2) (c : State → List Placed → List Placed → Bool) : Bool := match g with | .go s ps qs => c s ps qs | .stop _ => false

/-- CLAIM of a free slot within the block's limit and beyond it, of a bound name, of a name past 31, with 32 slots, and where none may be had;
RELS of a name and of none; SLD and SLDS of the first row and of the last, of memory and of the window, with a full slot, and with no lane. -/
def wsSlot : List Wit :=
  let claim : Enc := { opc := 0x80, lens := [2, 3], sb := .u32 }
  let rels : Enc := { opc := 0x81, lens := [2, 3], sb := .u32 }
  let name := fun (v : Env) => v.o.scalar
  let free := fun (v : Env) (s : State) => (List.range 32).any (fun k => !(s.slotsTaken v.b.die v.b.core).contains k)
  let may := fun (v : Env) (s : State) => decide (v.b.slots.length < v.b.slotLimit) || (decide (0 < s.spareSlots v.b.die v.b.core) && !s.olderClaim v.b)
  let asks := fun (v : Env) => v.act != 0 && decide (name v ≤ 31) && (v.b.slotOf (name v)).isNone && v.b.slots.length != 32
  let c := fun (s : State) (p : Env → State → Bool) => (⟨claim, F 0 0 1 (.two (X 0)), s, p⟩ : Wit)
  let r := fun (s : State) (p : Env → State → Bool) => (⟨rels, F 0 0 1 (.two (X 0)), s, p⟩ : Wit)
  let all := (List.range 32).map (fun k => (k, slotP k))
  let rival : State → State := fun s => s.modBlock 0 (fun b => { b with age := 5 })
  let waiter : State → State := fun s => { s with blocks := s.blocks ++ (s.blocks.take 1).map (fun p => (7, { p.2 with age := 0, slots := [], slotLimit := 0, slices := [(0, { tSlice [] with run := .waiting, prog := .claiming })] })) }
  let row0 := fun (v : Env) => bitsOf (litNat v.f) 6 0
  let rows := fun (v : Env) => bitsOf (litNat v.f) 14 8 + 1
  let blocks := fun (v : Env) => bitsOf (litNat v.f) 19 16 + 1
  let width := fun (v : Env) => if v.ty = 0 then 16 * blocks v else blocks v * (4 * typeBits v.ty) + blocks v
  let rowsGo := fun (g : Rows) (c : State → List Placed → Bool) => match g with | .go s ps => c s ps | .stop _ => false
  let sld := fun (room : Bool) (v : Env) (s : State) => v.act != 0 && decide (v.a.scalar ≤ 31) && decide (row0 v + rows v ≤ 128) &&
    (v.ty == 0 || decide (blocks v ≤ rowCap v.ty / 32)) && match v.b.slotOf v.a.scalar with
      | some (_, p) => p.k == 0 && rowsGo (s.rowGate v (bitOf v.md 0) .read v.o.scalar v.c.scalar (rows v) (width v)) (fun s1 ps =>
          (p.f != 16 && s1.counterRoom v true) == room && (!room || onB v (s1.recallFor (s1.isOrdered v.b) ps)))
      | none => false
  let g := fun (v : Env) => bitsOf (litNat v.f) 20 16 + 1
  let n := fun (v : Env) => sparseN (v.md % 4)
  let slds := fun (room : Bool) (v : Env) (s : State) => v.act != 0 && decide (v.a.scalar ≤ 31) && v.a.scalar % 2 == 0 && decide (row0 v + rows v ≤ 128) &&
    decide (n v * g v ≤ rowCap v.ty) && match v.b.slotOf v.a.scalar, v.b.slotOf (v.a.scalar + 1) with
      | some (_, p), some (_, pm) => p.k == 0 && pm.k == 0 &&
        rowsGo2 (s.rowGates v (bitOf v.md 2) .read ⟨v.o.scalar, sparseVs (n v * g v) (typeBits v.ty), rows v, (n v * g v * typeBits v.ty + 7) / 8⟩
            ⟨v.c.scalar, sparseMs (n v * g v), rows v, (5 * n v * g v + 7) / 8⟩) (fun s2 ps ms =>
          (p.f != 16 && pm.f != 16 && s2.counterRoom v true) == room && (!room || onB v (s2.recallFor (s2.isOrdered v.b) (ps ++ ms))))
      | _, _ => false
  let sldW := fun (t : BitVec 5) (m : BitVec 11) (l : Word) (s : State) (c : Env → State → Bool) => let f := F 0 1 (if m = 1 then 12 else 6) (.three (X t m 8) l); (⟨encSld f, f, s, c⟩ : Wit)
  let sldsW := fun (m : BitVec 11) (l : Word) (s : State) (c : Env → State → Bool) => let b : BitVec 6 := if bitOf m.toNat 2 then 12 else 6; let f := F 0 1 b (.three (X 3 m b) l); (⟨encSlds f, f, s, c⟩ : Wit)
  let pair := fun (f : Nat) => [(4, slotP 2 .plain f), (5, slotP 3)]
  let none' := sel 0
  [c (mat 5 0 []) (fun v s => asks v && may v s && free v s), c (mat 31 0 [(0, slotP 3)]) (fun v s => asks v && may v s && free v s),
   c ((mat 5 0 []).modBlock 0 (fun b => { b with slotLimit := 1 }) |> fun s => { s with blocks := s.blocks ++ (s.blocks.take 1).map (fun p => (7, { p.2 with slots := all, slices := [] })) })
     (fun v s => asks v && may v s && !free v s),
   c (waiter (rival (mat 5 0 [(0, slotP 3)]))) (fun v s => asks v && !may v s), c (mat 32 0 []) (fun v _ => v.act != 0 && decide (31 < name v)),
   c (mat 3 0 [(0, slotP 3)]) (fun v _ => v.act != 0 && (v.b.slotOf (name v)).isSome),
   c (mat 4 0 (all.map (fun p => (p.1, if p.1 = 4 then { p.2 with name := none } else p.2)))) (fun v _ => v.act != 0 && (v.b.slotOf (name v)).isNone && v.b.slots.length == 32),
   r (mat 3 0 [(0, slotP 3)]) (fun v _ => v.act != 0 && (v.b.slotOf (name v)).isSome), r (mat 3 0 []) (fun v _ => v.act != 0 && (v.b.slotOf (name v)).isNone),
   r (mat 32 0 []) (fun v _ => v.act != 0 && decide (31 < name v)),
   ⟨claim, F 0 0 0 (off 0 0), mat 5 0 [] id none', fun v _ => v.act == 0⟩, ⟨rels, F 0 0 0 (off 0 0), mat 5 0 [] id none', fun v _ => v.act == 0⟩,
   sldW 0 0 0 (mat 3 0 [(0, slotP 3)]) (sld true), sldW 0 1 0x0001017E (mat 3 0 [(0, slotP 3)]) (sld true), sldW 10 1 0x0007007F (mat 3 0 [(0, slotP 3)]) (sld true),
   sldW 0 0 0 (mat 3 0 [(0, slotP 3 .plain 16)]) (sld false),
   sldsW 0 0 (mat 2 0 (pair 0)) (slds true), sldsW 6 0x0001007F (mat 2 0 (pair 0)) (slds true), sldsW 4 0 (mat 2 0 (pair 16)) (slds false),
   (let f := F 0 1 6 (off 0 8); ⟨encSld f, f, mat 3 0 [] id none', fun v _ => v.act == 0⟩), (let f := F 0 1 6 (off 0 6 3); ⟨encSlds f, f, mat 3 0 [] id none', fun v _ => v.act == 0⟩)]

theorem witness_SlotInstructions : ∀ w ∈ wsSlot, w.Meets := Wit.all_meet _ (by decide +kernel)

/-- MMA of ready slots, of one in use, of one being filled, of one not ready, of another format, with the stream full, and with no lane; MMAS. -/
def wsProduct : List Wit :=
  let l := fun (v : Env) => litNat v.f
  let tile := fun (v : Env) => BitVec.ofNat 32 v.c.scalar
  let fits := fun (v : Env) => decide (bitsOf (l v) 6 0 + shapeM v.f ≤ 128) && decide (bitsOf (l v) 14 8 + shapeN v.f ≤ 128) && (tileCause v.b.acc (shapeM v.f) (shapeN v.f) (tile v)).isNone
  let fmt := fun (v : Env) => if typeMX v.ty then SlotFormat.mx v.ty else .plain
  let good := fun (f : SlotFormat) (p : PSlot) => p.readable && p.format == f
  let mma := fun (v : Env) (c : PSlot → PSlot → Bool) => v.act != 0 && decide (v.a.scalar ≤ 31) && decide (v.o.scalar ≤ 31) && fits v &&
    decide (32 * bitsOf (l v) 19 16 + 32 * (bitsOf v.md 10 6 + 1) ≤ rowCap v.ty) && match v.b.slotOf v.a.scalar, v.b.slotOf v.o.scalar with
      | some (_, pa), some (_, pb) => c pa pb | _, _ => false
  let runs := fun (v : Env) => mma v (fun pa pb => pa.f == 0 && pb.f == 0 && decide (v.b.stream.length < 64) && good (fmt v) pa && good (fmt v) pb)
  let waits := fun (v : Env) => mma v (fun pa pb => pa.f != 0 || pb.f != 0 || (good (fmt v) pa && good (fmt v) pb && decide (64 ≤ v.b.stream.length)))
  let bad := fun (v : Env) => mma v (fun pa pb => pa.f == 0 && pb.f == 0 && !(good (fmt v) pa && good (fmt v) pb))
  let w := fun (t : BitVec 5) (m : BitVec 11) (lit : Word) (s : State) (c : Env → Bool) => (⟨encMma, F 0 1 2 (.three (X t m 3) lit), s, fun v _ => c v⟩ : Wit)
  let full : Block → Block := fun b => { b with stream := (List.range 64).map (fun _ => (default : SEntry)) }
  let one := fun (p : PSlot) => [(3, p), (4, slotP 9)]
  let mmas := fun (v : Env) (c : List (Nat × PSlot) → Bool) => v.act != 0 && decide (v.a.scalar ≤ 31) && v.a.scalar % 2 == 0 && decide (v.o.scalar ≤ 31) && fits v &&
    match v.b.slotOf v.a.scalar, v.b.slotOf (v.a.scalar + 1) with
      | some (_, pa), some (_, pm) => pa.f == 0 && pm.f == 0 && (match pa.format with
        | .spVal t q g => let nq := (24 * g + rowCap v.ty - 1) / rowCap v.ty
          t == v.ty && good (.spVal v.ty q g) pa && good (.spMeta v.ty q g) pm && decide (nq ≤ 4) && decide (v.o.scalar + nq - 1 ≤ 31) &&
            (List.range nq).all (fun i => (v.b.slotOf (v.o.scalar + i)).isSome) && c ((List.range nq).filterMap (fun i => v.b.slotOf (v.o.scalar + i)))
        | _ => false)
      | _, _ => false
  let sp := fun (g f : Nat) (fmt : SlotFormat) => [(0, slotP 2 (.spVal 3 6 g)), (1, slotP 3 (.spMeta 3 6 g)), (2, slotP 9 fmt f), (5, slotP 10)]
  let unbound := fun (v : Env) => v.act != 0 && decide (v.a.scalar ≤ 31) && v.a.scalar % 2 == 0 && decide (v.o.scalar ≤ 31) &&
    decide (bitsOf (l v) 6 0 + shapeM v.f ≤ 128) && decide (bitsOf (l v) 14 8 + shapeN v.f ≤ 128) && (v.b.slotOf v.o.scalar).isNone &&
    (match v.b.slotOf v.a.scalar with | some (_, p) => (match p.format with | .spVal _ _ 0 => false | _ => true) | none => true)
  let ws := fun (s : State) (c : Env → Bool) => (⟨encMmas, F 0 1 2 (.three (X 3 0 3) 0x7070), s, fun v _ => c v⟩ : Wit)
  [w 3 0 0x7070 (mat 3 9 (one (slotP 3))) runs, w 3 0x89 0x00010000 (mat 3 9 (one (slotP 3 .plain 0 2 false)) (fun b => { b with acc := 2 }) (fun x => x.setReg 3 (U 0x00200000))) runs,
   w 3 0 0 (mat 3 9 (one (slotP 3 .plain 1))) waits, w 3 0 0 (mat 3 9 (one (slotP 3)) full) waits,
   w 3 0 0 (mat 3 9 (one (slotP 3 .plain 0 0 false))) bad, w 3 0 0 (mat 3 9 (one (slotP 3 (.mx 10)))) bad,
   ws (mat 2 9 (sp 1 0 .plain)) (fun v => mmas v (fun qs => qs.all (fun x => x.2.f == 0 && good .plain x.2) && decide (v.b.stream.length < 64))),
   ws (mat 2 9 (sp 6 0 .plain)) (fun v => mmas v (fun qs => qs.length == 2 && qs.all (fun x => x.2.f == 0 && good .plain x.2) && decide (v.b.stream.length < 64))),
   ws (mat 2 9 (sp 1 1 .plain)) (fun v => mmas v (fun qs => qs.any (fun x => x.2.f != 0))),
   ws (mat 2 9 (sp 1 0 .plain) full) (fun v => mmas v (fun qs => qs.all (fun x => x.2.f == 0 && good .plain x.2) && decide (64 ≤ v.b.stream.length))),
   ws (mat 2 9 (sp 1 0 (.mx 10))) (fun v => mmas v (fun qs => qs.all (fun x => x.2.f == 0) && !qs.all (fun x => good .plain x.2))),
   ws (mat 2 30 (sp 1 0 .plain)) unbound, ws (mat 4 30 (sp 1 0 .plain)) unbound,
   ⟨encMma, F 0 1 2 (off 0 3 3), mat 3 9 [] id (sel 0), fun v _ => v.act == 0⟩, ⟨encMmas, F 0 1 2 (off 0 3 3), mat 3 9 [] id (sel 0), fun v _ => v.act == 0⟩]

theorem witness_Products : ∀ w ∈ wsProduct, w.Meets := Wit.all_meet _ (by decide +kernel)

/-- MZERO, ACLD, DRN and DRNX of a tile that fits, that does not, with the stream full, of memory and of the window, under rsr, and with no
lane; MBAT; MWTB of a batch that is complete, of one that is not, of one not closed, and in its acquire. -/
def wsTile : List Wit :=
  let mzero : Enc := { opc := 0x86, lens := [2], sc := .u32, md := 0x3F }
  let tile := fun (v : Env) => BitVec.ofNat 32 v.c.scalar
  let bad := fun (v : Env) => tileCause v.b.acc (shapeM v.f) (shapeN v.f) (tile v)
  let rowsGo := fun (g : Rows) (c : State → List Placed → Bool) => match g with | .go s ps => c s ps | .stop _ => false
  let rows := fun (v : Env) (s : State) (c : State → Bool) => v.act != 0 && decide (v.o.scalar ≤ 65535) && (bad v).isNone &&
    rowsGo (s.rowGate v (bitOf v.md 6) .read ((v.a.scalar : Int) + (v.f.lit?.getD 0).toInt) (16 * v.o.scalar) (shapeM v.f) (shapeN v.f * elemSize v.ty)) (fun s1 ps => c (s1.recallFor (s1.isOrdered v.b) ps))
  let full : Block → Block := fun b => { b with stream := (List.range 64).map (fun _ => (default : SEntry)) }
  let room := fun (v : Env) => decide (v.b.stream.length < 64)
  let mz := fun (sc : BitVec 6) (s : State) (c : Env → Bool) => (⟨mzero, F 0 0 0 (.two (X 0 0 sc)), s, fun v _ => c v⟩ : Wit)
  let ac := fun (m : BitVec 11) (b sc : BitVec 6) (s : State) (c : Env → State → Bool) => let f := F 0 (if m = 0 then 6 else 12) b (.two (X 3 m sc)); (⟨encAcld f, f, s, c⟩ : Wit)
  let s0 := mat 2 2 []
  let sf := mat 2 2 [] full
  let mbat : Enc := { opc := 0x88, lens := [1, 2], dst := .w32, gov0 := true }
  let mwtb : Enc := { opc := 0x89, lens := [2, 3], sb := .u32, md := 7, extra := fun f _ => modOf f == 1 || modOf f == 2 }
  let n := fun (v : Env) => BitVec.ofNat 32 v.o.scalar
  let ahead := fun (v : Env) => decide (1 ≤ (n v - v.b.nb).toNat) && decide ((n v - v.b.nb).toNat < 2 ^ 31)
  let scope := fun (v : Env) => (scopeOf v.md).getD .core
  let fresh := fun (v : Env) => v.act != 0 && v.x.acquiring?.isNone
  let mw := fun (m : BitVec 11) (s : State) (c : Env → State → Bool) => (⟨mwtb, F 0 0 2 (.two (X 0 m)), s, c⟩ : Wit)
  let batches := fun (nb : Word) (open' : Word) => mat 0 open' [] (fun b => { b with nb := nb, stream := [{ (default : SEntry) with batch := some 2 }] })
  [mz 3 s0 (fun v => v.act != 0 && (bad v).isNone && room v), mz 3 sf (fun v => v.act != 0 && (bad v).isNone && !room v), mz 4 s0 (fun v => v.act != 0 && bad v == some 0x0403),
   ac 0 2 3 s0 (fun v s => rows v s (fun s1 => room v && onB v s1)), ac 0x40 2 3 s0 (fun v s => rows v s (fun s1 => room v && onB v s1)), ac 0x40 2 3 sf (fun v s => rows v s (fun _ => !room v)),
   ac 0 5 3 s0 (fun v _ => v.act != 0 && decide (65535 < v.o.scalar)), ac 0 2 4 s0 (fun v _ => v.act != 0 && decide (v.o.scalar ≤ 65535) && (bad v).isSome),
   ⟨mbat, F 20 0 0, batches 3 0, fun _ _ => true⟩, mw 1 (batches 3 1) (fun v s => fresh v && !ahead v && v.b.batchDone (n v) && acqIs v s (scope v) 0 none true (onB v)),
   mw 2 (batches 3 2) (fun v _ => fresh v && !ahead v && !v.b.batchDone (n v)), mw 1 (batches 3 4) (fun v _ => fresh v && ahead v), mw 1 (batches 3 3) (fun v _ => fresh v && !ahead v),
   mw 2 (acq 0 (batches 3 1)) (fun v s => v.act != 0 && v.x.acquiring?.isSome && acqIs v s (scope v) 0 none true (onB v)),
   ⟨mwtb, F 0 0 0 (off 1 0), mat 0 1 [] id (sel 0), fun v _ => v.act == 0⟩, (let f := F 0 6 2 (off 0 3 3); ⟨encAcld f, f, mat 0 1 [] id (sel 0), fun v _ => v.act == 0⟩)]

theorem witness_TileLoadsAndBatches : ∀ w ∈ wsTile, w.Meets := Wit.all_meet _ (by decide +kernel)

def wsDrain : List Wit :=
  let tile := fun (v : Env) => BitVec.ofNat 32 v.c.scalar
  let win := fun (v : Env) => bitOf v.md 6
  let p1 := fun (v : Env) => 16 * (v.o.scalar % 65536)
  let p2 := fun (v : Env) => 16 * (v.o.scalar / 65536)
  let m := fun (v : Env) => shapeM v.f
  let n := fun (v : Env) => shapeN v.f
  let ok := fun (v : Env) (d : Int) => v.act != 0 && (tileCause v.b.acc (m v) (n v) (tile v)).isNone && d % 16 == 0 && decide (drainRow v.ty (n v) ≤ p1 v) && (!typeMX v.ty || n v % 32 == 0)
  let room := fun (r : Bool) (v : Env) (s : State) => !s.isOrdered v.b && decide (v.b.stream.length < 64) == r && (!r || onB v s)
  let one := fun (r : Bool) (v : Env) (s : State) =>
    let d : Int := if win v then v.a.scalar + (v.f.lit?.getD 0).toInt else (wrapNat 64 (v.a.scalar + (v.f.lit?.getD 0).toInt) : Nat)
    decide (v.o.scalar ≤ 65535) && ok v d && rowsGo2 (s.rowGates v (win v) .write ⟨d, p1 v, m v, drainRow v.ty (n v)⟩
      ⟨d + (v.f.lit?.getD 0).toInt, p2 v, 0, drainRow v.ty (m v)⟩) (fun s1 _ _ => room r v s1)
  let two := fun (r : Bool) (v : Env) (s : State) =>
    let d : Int := if win v then v.a.scalar else (wrapNat 64 v.a.scalar : Nat)
    ok v d && decide (drainRow v.ty (m v) ≤ p2 v) && (!typeMX v.ty || m v % 32 == 0) && rowsGo2 (s.rowGates v (win v) .write ⟨d, p1 v, m v, drainRow v.ty (n v)⟩
      ⟨d + (v.f.lit?.getD 0).toInt, p2 v, n v, drainRow v.ty (m v)⟩) (fun s2 _ _ => room r v s2)
  let full : Block → Block := fun b => { b with stream := (List.range 64).map (fun _ => (default : SEntry)) }
  let f1 := fun (md : BitVec 11) (rov : BitVec 3) => F 0 (if bitOf md.toNat 6 then 12 else 6) 2 (.three { X 4 md 3 with rov := rov } 0x40)
  let w1 := fun (md : BitVec 11) (rov : BitVec 3) (s : State) (r : Bool) => (⟨encDrn false (f1 md rov), f1 md rov, s, one r⟩ : Wit)
  let w2 := fun (md : BitVec 11) (s : State) (r : Bool) => (⟨encDrn true (f1 md 0), f1 md 0, s, two r⟩ : Wit)
  let h := fun (slot : Nat) (cur : List Nat) (fb : Block → Block) => mat 0x80000100 (BitVec.ofNat 32 slot) [] fb |>.modDie 0 (fun d => { d with groups :=
    [(0, { key := 7, gen := 1, state := 2, count := 2, current := cur, published := cur, waiting := [], ctx := 0, node := 0, epoch := 0 })] })
    |> fun s => { s with blocks := s.blocks ++ (s.blocks.take 1).map (fun p => (9, { p.2 with idx := 1, slices := [] })) }
  let drna := fun (opc : Nat) (s : State) (c : Env → State → Bool) (t : Word) => (⟨encDrna opc, F 0 1 2 (.three (X 1 0 3) t), s, c⟩ : Wit)
  let bad := fun (v : Env) => (tileCause v.b.acc (shapeM v.f) (shapeN v.f) (tile v)).or (tileCause v.b.acc (shapeM v.f) (shapeN v.f) (BitVec.ofNat 32 (litNat v.f)))
  let aim := fun (good : Bool) (v : Env) (s : State) => v.act != 0 && match s.groupOf v.b v.a.scalar with
    | .ok (true, _, g) => (match s.memberAt true g v.o.scalar with | some m => (m != v.bid && g.current.contains m) == good | none => !good)
    | _ => false
  [w1 0 0 (mat 0 2 []) true, w1 0x40 6 (mat 0 2 []) true, w1 0x40 0 (mat 0 2 [] full) false, w2 0x40 (mat 0 0x20002 [] (fun b => { b with scratch := 0x10000 })) true,
   w2 0x40 (mat 0 0x20002 [] (fun b => full { b with scratch := 0x10000 })) false,
   (let f := F 0 6 2 (off 0 3 4); ⟨encDrn false f, f, mat 0 1 [] id (sel 0), fun v _ => v.act == 0⟩), (let f := F 0 6 2 (off 0 3 4); ⟨encDrn true f, f, mat 0 1 [] id (sel 0), fun v _ => v.act == 0⟩)]
  ++ [0x8C, 0x8D].flatMap (fun opc => [drna opc (h 1 [0, 9] id) (fun v s => aim true v s && (bad v).isNone && decide (v.b.stream.length < 64)) 0x00100000,
    drna opc (h 1 [0, 9] full) (fun v s => aim true v s && (bad v).isNone && decide (64 ≤ v.b.stream.length)) 0x00100000,
    drna opc (h 1 [0, 9] id) (fun v s => aim true v s && (bad v).isSome) 0x00100FFF, drna opc (h 0 [0, 9] id) (aim false) 0x00100000, drna opc (h 2 [0, 9] id) (aim false) 0x00100000,
    drna opc (mat 0x80000100 0 []) (fun v s => v.act != 0 && (match s.groupOf v.b v.a.scalar with | .error _ => true | .ok _ => false)) 0x00100000,
    ⟨encDrna opc, F 0 1 2 (off 0 3 1), mat 0 0 [] id (sel 0), fun v _ => v.act == 0⟩])

theorem witness_Drains : ∀ w ∈ wsDrain, w.Meets := Wit.all_meet _ (by decide +kernel)


/-! ### Queues and tokens -/

/-- An entry's room, and whether it is to be had. -/
def roomB (a : Asked) (v : Env) (s : State) : Bool :=
  s.queueRoom v.b.die a.queue a.owner && s.roomFor v.b.ctx v.b.die a.kind.places && s.linesRoom a.lines

/-- The null token of a row with no lane, and an entry that is issued and one that waits for room. -/
def issues (e : Enc) (f g : Fields) (s full : State) (run : Env → State → (State → Asked → Bool) → Bool) : List Wit :=
  [⟨e, g, s.modSlice 0 0 (sel 0), fun v _ => v.act == 0⟩, ⟨e, f, s, fun v s => v.act != 0 && run v s (fun s1 a => roomB a v s1 && onB v s1)⟩,
   ⟨e, f, full, fun v s => v.act != 0 && run v s (fun s1 a => !roomB a v s1)⟩]

/-- An entry of a block's copy queue; 64 of them. -/
def copying : Entry := { (default : Entry) with bid := some 0, kind := .copy (.win 0) (.win 0) 0, state := .queued, token := 5 }
def crowd (s : State) : State := { s with entries := (List.range 64).map (fun i => (100 + i, copying)) }

/-- A gather record in memory: one row of 16 bytes to the window. -/
def gatherRec : List Byte := leBytes 64 ((tVa + 0x200) + (tVa + 0x300) * 2 ^ 64 + 0x40 * 2 ^ 128 + 1 * 2 ^ 192 + 16 * 2 ^ 224 + 1 * 2 ^ 256 + 2 ^ 320)

/-- CPY of memory to the window and to memory, of a range outside the window, and to memory in core scope; CPG, CPS, CPT to its own block; QFEN with
room and without; each with no lane and with its queue full. -/
def wsCopy : List Wit :=
  let side := fun (win : Bool) (o : Opd) => if win then Side.win o.scalar else Side.glob o.scalar
  let src := fun (v : Env) => side (bitOf v.md 5) v.a
  let dst := fun (v : Env) => side (bitOf v.md 6) v.o
  let n := fun (v : Env) => v.c.scalar
  let scope := fun (v : Env) => (scopeOf (v.md / 2 % 8)).getD .die
  let inRange := fun (v : Env) (s : State) => (s.rangeFail v.b (src v) (n v)).isNone && (s.rangeFail v.b (dst v) (n v)).isNone
  let glob := fun (v : Env) => match dst v with | .glob _ => true | .win _ => false
  let cpyF := fun (m : BitVec 11) (e : Ext → Ext) => F 20 (if bitOf m.toNat 5 then 12 else 6) (if bitOf m.toNat 6 then 12 else 6) (.two (e (X 0 m 9)))
  let cpy := fun (m : BitVec 11) (s : State) (c : Env → State → Bool) => (⟨encCpy (cpyF m id), cpyF m id, s, c⟩ : Wit)
  let run := fun (v : Env) (s : State) (c : State → Asked → Bool) => inRange v s && (!glob v || scope v != .core) && c s
    { queue := v.md % 2, owner := v.bid, scope := scope v, det := bitOf v.md 4, kind := .copy (src v) (dst v) (n v), lines := match dst v with | .win o => s.destLines [v.bid] o (n v) | .glob _ => [] }
  let m0 := fun (w : Word) (b : List Byte) => mem 0 w id id b
  let rec' := fun (isG : Bool) (v : Env) (s : State) (c : State → Asked → Bool) =>
    let va := (v.a.scalar + ((v.f.lit?.getD 0).signExtend 64).toNat) % 2 ^ 64
    va % 64 == 0 && gets (s.readAsLd v va 64 v.act) (fun s1 bytes =>
      let r := GatherRec.ofBytes bytes
      r.ok (leNat (bytes.drop 0x28)) && (s1.rangeFail v.b r.side (r.count * r.rowb)).isNone && (s1.rangeFail v.b (.glob r.index) (4 * r.count)).isNone &&
        (s1.rangeFail v.b (.glob r.table) (8 * r.tlen)).isNone && (scope v != .core || (isG && r.window)) &&
        c s1 { queue := v.md % 2, owner := v.bid, scope := scope v, det := bitOf v.md 4, kind := if isG then .gather r else .scatter r, lines := if isG && r.window then s1.destLines [v.bid] r.dense (r.count * r.rowb) else [] })
  let qfen : Enc := { opc := 0xC4, lens := [2], dst := .w64, md := 0xFF, extra := fun f _ => modOf f % 16 != 0 && scopeOk (modOf f / 16 % 8) 5 }
  let queues := fun (v : Env) => ((List.range 4).filter (fun q => bitOf v.md q)).map (fun q => (q, if q < 2 then v.bid else v.b.ctx))
  let free := fun (v : Env) (s : State) => (queues v).all (fun q => s.queueRoom v.b.die q.1 q.2)
  let mask := fun (v : Env) => match v.f.lit? with | some l => l.toNat | none => 1
  let box := fun (v : Env) (s : State) (c : State → Asked → Bool) =>
    let self := bitOf v.md 5
    let base := v.f.sb.toNat + if self then 0 else 1
    v.a.scalar % 64 == 0 && gets (s.readAsLd v v.a.scalar 64 v.act) (fun s1 bytes =>
      let r := TensorRec.ofBytes bytes
      let total := r.rank + if self then 0 else 1
      let doff := v.c.v.l0.toNat % 2 ^ 21
      let boff := v.c.v.l0.toNat / 2 ^ 32 % 2 ^ 21
      r.ok (bitOf (leNat ((bytes.drop 9).take 1)) 7) typeTensor && !r.space && decide (r.boxBytes ≤ 2 ^ 20) && decide (base + r.rank ≤ 60) &&
        (List.range total).all (fun i => !(v.x.reg (v.f.sb.toNat + i)).isPend && v.x.reg (v.f.sb.toNat + i) != .empty && (v.x.reg (v.f.sb.toNat + i)).tag == .u) &&
        (match (if self then .ok [v.bid] else s1.cptReceivers v (v.x.reg v.f.sb.toNat).lanes.l0.toNat (mask v)) with
         | .ok recv => v.c.v.l0.toNat == doff + boff * 2 ^ 32 && boff % 16 == 0 && recv.all (fun k => match s1.blocks.get? k with | some b => b.inWindow doff r.boxBytes && b.inWindow boff 16 | none => true) &&
            c s1 { queue := v.md % 2, owner := v.bid, scope := (scopeOf (v.md / 2 % 8)).getD .die, det := bitOf v.md 4, kind := .box r recv ((List.range r.rank).map (fun i => (v.x.reg (base + i)).lanes.l0.toInt)) doff boff, lines := s1.destLines recv doff r.boxBytes }
         | .error _ => false))
  let blocks : State → State := fun s => s.modDie 0 (fun d => { d with groups := [(0, { key := 7, gen := 1, state := 2, count := 1, current := [0], published := [0], waiting := [], ctx := 0, node := 0, epoch := 0 })] })
  let boxed := (m0 0x80000100 (tensor false)).modSlice 0 0 (fun x => (x.setReg 13 (U 1)).setReg 14 (U 0x40) |>.setReg 15 (U 0x80))
  issues (encCpy (cpyF 0x44 id)) (cpyF 0x44 id) (cpyF 0x44 G) (m0 0x80 []) (crowd (m0 0x80 [])) run
  ++ issues (encCpy (cpyF 0x15 id)) (cpyF 0x15 id) (cpyF 0x15 G) (m0 0 []) (crowd (m0 0 []) |> fun s => { s with entries := s.entries.map (fun e => (e.1, { e.2 with queue := 1 })) }) run
  ++ [cpy 0x44 (m0 0xFF []) (fun v s => v.act != 0 && ((s.rangeFail v.b (src v) (n v)).or (s.rangeFail v.b (dst v) (n v))).isSome), cpy 0x02 (m0 0 []) (fun v s => v.act != 0 && inRange v s && glob v && scope v == .core)]
  ++ issues (encCpg 0xC2) (F 20 6 0 (.two (X 0 4))) (F 20 6 0 (.two (G (X 0 4)))) (m0 0 gatherRec) (crowd (m0 0 gatherRec)) (rec' true)
  ++ issues (encCpg 0xC3) (F 20 6 0 (.two (X 0 4))) (F 20 6 0 (.two (G (X 0 4)))) (m0 0 gatherRec) (crowd (m0 0 gatherRec)) (rec' false)
  ++ (issues qfen (F 20 0 0 (.two (X 0 0x21))) (F 20 0 0 (.two (G (X 0 0x21)))) (m0 0 []) (m0 0 []) (fun v s c => free v s && c s
      { queue := 6, owner := v.bid, scope := (scopeOf (v.md / 16 % 8)).getD .die, det := bitOf v.md 7, kind := .fence (queues v), lines := [] })).take 2
  ++ [⟨qfen, F 20 0 0 (.two (X 0 0x2F)), crowd (m0 0 []), fun v s => v.act != 0 && !free v s⟩]
  ++ issues encCpt (F 20 6 13 (.two (X 0 0x24 14))) (F 20 6 13 (.two (G (X 0 0x24 14)))) boxed (crowd boxed) box
  ++ issues encCpt (F 20 6 12 (.three (X 0 4 14) 1)) (F 20 6 12 (.three (G (X 0 4 14)) 1)) (blocks boxed) (blocks (crowd boxed)) box

theorem witness_CopyInstructions : ∀ w ∈ wsCopy, w.Meets := Wit.all_meet _ (by decide +kernel)

/-- A token of queue 0, the record of its index, and the state of that record. -/
def tok (q : Nat) (gen : Word) : Dword := makeToken 0 q 3 0 gen
def tokState (q : Nat) (st : EState) (fx : Slice → Slice := id) (gen : Word := 1) : State :=
  (tState [(2, U (BitVec.ofNat 32 (tok q gen).toNat)), (3, U (BitVec.ofNat 32 ((tok q gen).toNat / 2 ^ 32)))] fx).modDie 0 (fun d => { d with tokens := d.tokens.put 3 (⟨1, st, .die, 0x0303, 0, 8, false, Clock.zero⟩ : TokRec) })

/-- A token that is null, open, done, failed, stale, and none of the context's, for TOKW, TOKT, TOKR and QCAN; an acquire that ends; QCAN of a
node, of a layer, of an entry, of one that has been asked before, and with no lane. -/
def wsToken : List Wit :=
  let tokw : Enc := { opc := 0xC5, lens := [2], sa := .u64, gov0 := true, md := 1 }
  let tokt : Enc := { opc := 0xC6, lens := [2], dst := .pd, sa := .u64, gov0 := true }
  let tokr : Enc := { opc := 0xC7, lens := [2], dst := .w64, sa := .u64, gov0 := true }
  let t := fun (v : Env) => v.a.v.l0
  let fresh := fun (v : Env) => v.x.acquiring?.isNone
  let view := fun (v : Env) (s : State) (c : TokView → Bool) => match s.tokenView v.b.ctx (t v) with | some w => c w | none => false
  let seen := fun (v : Env) (s : State) (w : TokView) => match w.acquires with
    | none => onB v (s.observeToken v (t v) w)
    | some sc => acqIs v (s.observeToken v (t v) w) sc (BitVec.ofNat 64 sc.code) none true (onB v)
  let failed := fun (w : TokView) => match w with | .record r => r.state == .failed | _ => false
  let done := fun (m : Bool) (v : Env) (s : State) => fresh v && view v s (fun w => w.state != 0 && (!failed w || m) && seen v s w)
  let ends := fun (v : Env) (s : State) => match v.x.acquiring? with | some w => acqIs v s ((scopeOf w.toNat).getD .pkg) w none true (onB v) | none => false
  let w := fun (m : BitVec 11) (s : State) (c : Env → State → Bool) => (⟨tokw, F 0 2 0 (.two (X 0 m)), s, c⟩ : Wit)
  let k := fun (s : State) (c : Env → State → Bool) => (⟨tokt, F 3 2 0 (.two (X 0 0)), s, c⟩ : Wit)
  let r := fun (s : State) (c : Env → State → Bool) => (⟨tokr, F 20 2 0 (.two (X 0 0)), s, c⟩ : Wit)
  let qcan : Enc := { opc := 0xC8, lens := [2], dst := .pd, sa := .u64 }
  let qfresh := fun (v : Env) => v.act != 0 && match v.x.prog with | .pending _ => false | _ => true
  let opened := fun (q : Nat) (v : Env) (s : State) => qfresh v && view v s (fun w => w.state == 0) && tokQueue (t v) == q
  let q := fun (s : State) (c : Env → State → Bool) => (⟨qcan, F 3 2 0 (.two (X 0 0)), s, c⟩ : Wit)
  let null := tState []
  let bad := tokState 7 .done
  let live : State → State := fun s => { s with entries := [(1, { copying with token := tok 0 1, kind := .copy (.win 0) (.win 0) 4096 })] }
  let node : State → State := fun s => { s with nodes := s.nodes.map (fun n => (n.1, { n.2 with token := tok 4 1 })) }
  let layer : State → State := fun s => s.modCtx 0 (fun c => { c with model := true, layers := [(0, { (default : Layer) with state := .queued, tokens := [tok 5 1] })] })
  [w 0 null (done false), w 0 (tokState 0 .done) (done false), w 1 (tokState 0 .failed) (done true), w 0 (tokState 0 .done id 0xFFFFFFFF) (done false),
   w 0 (acq 2 (tokState 0 .done)) ends, w 0 (tokState 0 .running) (fun v s => fresh v && view v s (fun w => w.state == 0)),
   w 0 (tokState 0 .failed) (fun v s => fresh v && !bitOf v.md 0 && view v s failed), w 0 bad (fun v s => fresh v && (s.tokenView v.b.ctx (t v)).isNone),
   k (tokState 0 .failed) (done true), k (acq 3 (tokState 0 .done)) ends, k (tokState 0 .queued) (fun v s => fresh v && view v s (fun w => w.state == 0)), k bad (fun v s => fresh v && (s.tokenView v.b.ctx (t v)).isNone),
   r (tokState 0 .failed) (fun v s => view v s (fun _ => true)), r bad (fun v s => (s.tokenView v.b.ctx (t v)).isNone),
   q (null.modSlice 0 0 id) (fun v s => qfresh v && view v s (fun w => w.state != 0)), q (tokState 6 .queued) (fun v s => qfresh v && view v s (fun _ => tokQueue (t v) == 6)),
   q (node (tokState 4 .running)) (fun v s => opened 4 v s && match s.nodes.find? (fun n => n.2.token == t v) with | some (n, _) => onB v (s.cancelNode n).1 | none => false),
   q (layer (tokState 5 .running)) (fun v s => opened 5 v s && match (s.ctxs.get? v.b.ctx).bind (fun c => c.layerOf (t v)) with | some l => onB v (s.laye v.b.ctx l).1 | none => false),
   q (live (tokState 0 .queued)) (fun v s => opened 0 v s && (s.entryOf (t v)).isSome),
   q (prog (.pending 3) (live (tokState 0 .queued))) (fun v s => v.act != 0 && v.x.prog == .pending 3 && s.entryOpen 1), q (prog (.pending 3) (tokState 0 .failed)) (fun v s => v.act != 0 && v.x.prog == .pending 3 && !s.entryOpen 1),
   q bad (fun v s => qfresh v && (s.tokenView v.b.ctx (t v)).isNone), ⟨qcan, F 3 2 0 (.two (G (X 0 0))), (tokState 0 .done).modSlice 0 0 (sel 0), fun v _ => v.act == 0⟩]

theorem witness_Tokens : ∀ w ∈ wsToken, w.Meets := Wit.all_meet _ (by decide +kernel)

/-- A collective's record in memory. -/
def collRec (src dst chunk flags : Nat) : List Byte := leBytes 64 (src + dst * 2 ^ 64 + chunk * 2 ^ 128 + flags * 2 ^ 384)

/-- The six ring instructions in the partition of one die, each with no lane, with room and without; a record that is not aligned. RANK of the
partition, from a table, and of a table that is not aligned. -/
def wsRing : List Wit :=
  let row := fun (opc op : Nat) (types : TyRule) (md : Nat) (t : BitVec 5) (m : BitVec 11) (bytes : List Byte) =>
    let va := fun (v : Env) => (v.a.scalar + ((v.f.lit?.getD 0).signExtend 64).toNat) % 2 ^ 64
    let rcv := fun (v : Env) => op == collRhof && bitOf (modOf v.f) 5
    let scope := fun (v : Env) => (scopeOf (v.md / 2 % 8)).getD .pkg
    let e := encRing opc types md
    let s := mem 0 0 id id bytes
    let full : State := s.modDie 0 (fun d => { d with unused := 16384, freeTokens := [] })
    issues e (F 20 6 0 (.two (X t m))) (F 20 6 0 (.two (G (X t m)))) s full (fun v s c => va v % 64 == 0 && gets (s.readAsLd v (va v) 64 v.act) (fun s1 bytes =>
      let r := CollRaw.ofBytes bytes
      r.ok op v.ty (rcv v) true && r.table == 0 && match s1.collCheck v.b.die (some v.b) op v.ty (rcv v) (scope v) (va v) r (s1.partitionSlots v.b.ctx) with
        | .ok q => c s1 { queue := 2 + v.md % 2, owner := v.b.ctx, scope := scope v, det := bitOf v.md 4, kind := .ring q CollProg.fresh, lines := if q.dw then s1.destLines [v.bid] q.dst (collDstLen op (rcv v) (s1.partitionSlots v.b.ctx).length q.chunk) else [] }
        | .bad _ _ => false))
      ++ [⟨e, F 20 6 0 (.two (X t m)), mem 4 0, fun v _ => v.act != 0 && va v % 64 != 0⟩]
  let rank := fun (f : Fields) => ({ opc := 0xCE, lens := [1, 2, 3], dst := .w64, sa := if bitOf (modOf f) 0 then .u64 else .no, gov0 := true, lit := .role, md := 1, extra := fun f _ => bitOf (modOf f) 0 || f.lit?.getD 0 == 0 } : Enc)
  let va := fun (v : Env) => (v.a.scalar + ((v.f.lit?.getD 0).signExtend 64).toNat) % 2 ^ 64
  let f := F 20 6 0 (.two (X 0 1))
  let a := tVa + 0x200
  row 0xC9 collRgath .none 0x1F 0 6 (collRec a (a + 64) 16 0) ++ row 0xCA collRrscO (.tov typeRing) 0x1F 1 7 (collRec a (a + 64) 16 0)
  ++ row 0xCB collRrscU (.tov typeRing) 0x1F 4 8 (collRec 0 0x40 16 3) ++ row 0xCC collRhof .none 0x3F 0 6 (collRec a 0 16 4) ++ row 0xCC collRhof .none 0x3F 0 0x26 (collRec 0 a 16 4)
  ++ row 0xCD collRagr .none 0x1F 0 0x16 (collRec a (a + 64) 16 0) ++ row 0xCF collRbar .none 0x1F 0 0xA (collRec 0 0 0 0)
  ++ [⟨rank (F 20 0 0), F 20 0 0, mem 0 0, fun v s => !bitOf v.md 0 && (s.ctxs.get? v.b.ctx).isSome⟩, ⟨rank f, f, mem 4 0, fun v _ => bitOf v.md 0 && va v % 16 != 0⟩,
      ⟨rank f, f, mem 0 0 id id (leBytes 20 (1 + 0 * 2 ^ 128)), fun v s => bitOf v.md 0 && va v % 16 == 0 && match s.readTable v (va v) v.x.mask with | .got s1 slots => s.tableOk slots && onB v s1 | _ => false⟩]

theorem witness_Collectives : ∀ w ∈ wsRing, w.Meets := Wit.all_meet _ (by decide +kernel)


/-! ### Kernels, nodes, pages and layers -/

/-- A kernel image of one EXIT: a header of 128 bytes and the word. -/
def kernelImage : List Byte :=
  let head := leBytes 4 0x314B384E ++ leBytes 2 1 ++ leBytes 2 128 ++ leBytes 4 128 ++ leBytes 4 4 ++ leBytes 16 0 ++ leBytes 4 0 ++ leBytes 4 0
    ++ leBytes 4 0xFFFFFFFF ++ [32, 1] ++ leBytes 2 1 ++ leBytes 4 0x00081008 ++ leBytes 12 0 ++ leBytes 60 0
  head ++ leBytes 4 0xC905CEC6 ++ encodeBytes (.exit (F 0 0 0))

/-- The state of the CRC after a part of the header. -/
def crcOver (c : Word) (bs : List Byte) : Word := bs.foldl (fun c b => crc32Bits 8 (c ^^^ b.setWidth 32)) c

theorem crc_parts (c : Word) (bs : List Byte) (n : Nat) : crcOver c bs = crcOver (crcOver c (bs.take n)) (bs.drop n) := by
  rw [crcOver, crcOver, crcOver, ← List.foldl_append, List.take_append_drop]

/-- The image of the header's fields alone. -/
def imageHead : List Byte := kernelImage.take 0x7C

theorem image_crc0 : crcOver 0xFFFFFFFF ((imageHead.drop 0).take 31) = 0x11A90FE0 := by decide +kernel

theorem image_crc1 : crcOver 0x11A90FE0 ((imageHead.drop 31).take 31) = 0xD54FD15F := by decide +kernel

theorem image_crc2 : crcOver 0xD54FD15F ((imageHead.drop 62).take 31) = 0x5A974F0D := by decide +kernel

theorem image_crc3 : crcOver 0x5A974F0D ((imageHead.drop 93).take 31) = 0x36FA3139 := by decide +kernel

theorem image_crc : crc32 (kernelImage.take 0x7C) = 0xC905CEC6 := by
  show ~~~(crcOver 0xFFFFFFFF imageHead) = _
  rw [crc_parts _ _ 31, show imageHead.take 31 = (imageHead.drop 0).take 31 from rfl, image_crc0, crc_parts _ _ 31, image_crc1, crc_parts _ _ 31, List.drop_drop, image_crc2,
    crc_parts _ _ 31, List.drop_drop, image_crc3, List.drop_drop]; decide

theorem image_checks : (checkImage kernelImage).toOption.isSome = true ∧ checkImage (kernelImage.set 0x7C 0) = .error (2, 0) := by
  have h : (kernelImage.set 0x7C 0).take 0x7C = kernelImage.take 0x7C := by decide +kernel
  constructor
  · unfold checkImage; rw [image_crc]; decide +kernel
  · unfold checkImage; rw [h, image_crc]; decide +kernel

theorem room_first (s : State) (c : Ctx) (h : c.kernels = []) (n : Nat) (hn : n ≤ c.imageSize) :
    (s.freeKernel c).isSome = true ∧ (s.imageRoom c n).isSome = true := by
  have p : ∀ (k : Nat) (l : List Nat), 0 ∈ l → (s.pickFrom k l).isSome = true := by
    intro k l hl
    cases l with
    | nil => cases hl
    | cons x xs => rfl
  refine ⟨p _ _ ?_, p _ _ ?_⟩
  · simp [h, Tab.get?]
  · have f : ∀ (l : List Nat) (ls : List (List Nat)), 0 ∈ l → 0 ∈ firstFull (l :: ls) := by
      intro l ls hl
      cases l with
      | nil => cases hl
      | cons x xs => exact hl
    exact f _ _ (by simp [h, hn])

/-- KREG of no lane, of an image that is too short, of one whose CRC fails, one for which the image area has no place, one that is taken, and
one that waits (whether the wait ends is a free choice, of which no value can be shown); KREG.drop of no lane, of a registered kernel and of
an unknown handle. -/
def wsKernel : List Wit :=
  let kreg : Enc := { opc := 0xD1, lens := [2], dst := .w64, sa := .u64, sb := .u32, gov0 := true }
  let kdrop : Enc := { opc := 0xD1, lens := [2], sb := .u32, gov0 := true, md := 1 }
  let k := fun (n : Word) (b : List Byte) (c : Env → State → Bool) => (⟨kreg, F 20 6 8 (.two (X 0)), tState (at' 6 0 ++ [(8, U n)]) id id b, c⟩ : Wit)
  let d := fun (n : Word) (c : Env → State → Bool) => (⟨kdrop, F 0 0 8 (.two (X 0 1)), (tState [(8, U n)]).modCtx 0 (fun c => { c with kernels := [(2, { (default : Kernel) with gen := 1, state := 1 })] }), c⟩ : Wit)
  let fresh := fun (v : Env) => v.act != 0 && (match v.x.prog with | .pending _ => false | _ => true)
  let image := fun (b : List Byte) (v : Env) (s : State) (c : State → Bool) => fresh v && gets (s.readAsLd v v.a.scalar v.o.scalar v.act) (fun s1 b' => b' == b && c s1)
  let kernel := fun (v : Env) (s : State) => (s.ctxs.get? v.b.ctx).bind (fun c => c.kernelOf (BitVec.ofNat 32 v.o.scalar))
  let bad := kernelImage.set 0x7C 0
  [k 4 [] (fun v s => image [0, 0, 0, 0] v s (onB v) && (match checkImage [0, 0, 0, 0] with | .error (1, 0) => true | _ => false)),
   k 132 bad (fun v s => image bad v s (onB v)),
   { k 132 kernelImage (fun v s => image kernelImage v s (fun s1 => (match s1.ctxs.get? v.b.ctx with | some x => (s1.imageRoom x 132).isNone | none => false) && onB v s1)) with
     s := (tState (at' 6 0 ++ [(8, U 132)]) id id kernelImage).modCtx 0 (fun c => { c with imageSize := 64 }) },
   k 132 kernelImage (fun v s => image kernelImage v s (fun s1 => match s1.ctxs.get? v.b.ctx with | some x => x.kernels == [] && decide (132 ≤ x.imageSize) | none => false)),
   ⟨kreg, F 20 6 8 (.two (X 0)), tState (at' 6 0) (fun x => { x with prog := .pending 0x1002 }), fun v _ => v.act != 0 && v.x.prog == .pending 0x1002⟩,
   ⟨kreg, F 20 6 8 (.two (X 0)), tState (at' 6 0) (fun x => { x with mask := 0 }), fun v _ => v.act == 0⟩,
   ⟨kdrop, F 0 0 8 (.two (X 0 1)), tState [] (fun x => { x with mask := 0 }), fun v _ => v.act == 0⟩,
   d 0x1002 (fun v s => v.act != 0 && (kernel v s).isSome), d 0x2002 (fun v s => v.act != 0 && (kernel v s).isNone), d 0x1003 (fun v s => v.act != 0 && (kernel v s).isNone)]

theorem witness_Kernels : ∀ w ∈ wsKernel, w.Meets := Wit.all_meet _ (by decide +kernel)

/-- A node record for a copy of 16 bytes on die 0 at die scope. -/
def nodeRecord : List Byte :=
  [1, 0, 0, 0, 1] ++ leBytes 11 0 ++ leBytes 192 0 ++ leBytes 8 (tVa + 0x400) ++ leBytes 8 (tVa + 0x800) ++ leBytes 4 16 ++ [2] ++ leBytes 27 0

/-- A state in which no token record is free. -/
def noEntry (s : State) : State := s.modDie 0 (fun d => { d with unused := 16384, freeTokens := [] })

/-- LNCH of no lane, one that is issued, one that waits for room, and one whose record is not aligned; NODEQ of the null token, of each
query, of a token that is stale, one without its node, and ones that are none of a node's. -/
def wsNode : List Wit :=
  let lnch : Enc := { opc := 0xD0, lens := [2, 3], dst := .w64, sa := .u64, lit := .role }
  let nodeq : Enc := { opc := 0xD2, lens := [2], dst := .w32, sa := .u64, gov0 := true, md := 0x7FF, extra := fun f _ => decide (modOf f ≤ 5) }
  let va := fun (v : Env) => (v.a.scalar + ((v.f.lit?.getD 0).signExtend 64).toNat) % 2 ^ 64
  let node := fun (v : Env) (s : State) (c : State → Bool) => v.act != 0 && va v % 64 == 0 && gets (s.readAsLd v (va v) 256 v.act) (fun s1 b => b == nodeRecord &&
    match s1.nodeCheck v.b.ctx (va v) nodeRecord with | .ok r => gets (s1.readAsLd v r.args r.argb v.act) (fun s2 _ => c s2 && onB v s2) | .error _ => false)
  let s := tState (at' 6 0) id id nodeRecord
  let t := fun (v : Env) => v.a.v.l0
  let listed := fun (v : Env) (s : State) => s.nodes.find? (fun n => n.2.token == t v)
  let mine : State → State := fun s => { s with nodes := s.nodes.map (fun n => (n.1, { n.2 with token := tok 4 1 })) }
  let rec' := fun (v : Env) (s : State) => match s.tokenView v.b.ctx (t v) with | some (.record _) => true | _ => false
  let q := fun (m : BitVec 11) (s : State) (c : Env → State → Bool) => (⟨nodeq, F 20 2 0 (.two (X 0 m)), s, c⟩ : Wit)
  [⟨lnch, F 20 6 0 (.two (G (X 0))), s.modSlice 0 0 (sel 0), fun v _ => v.act == 0⟩, ⟨lnch, F 20 6 0 (.two (X 0)), s, fun v s => node v s (fun s2 => s2.entryRoom v.b.ctx v.b.die)⟩,
   ⟨lnch, F 20 6 0 (.two (X 0)), noEntry s, fun v s => node v s (fun s2 => !s2.entryRoom v.b.ctx v.b.die)⟩,
   ⟨lnch, F 20 6 0 (.three (X 0) 32), s, fun v _ => v.act != 0 && va v % 64 != 0⟩]
  ++ ([0, 1, 5].map (fun m => q m (tState []) (fun v _ => t v == 0)))
  ++ ([0, 1, 2, 3, 4, 5].map (fun m => q m (mine (tokState 4 .running)) (fun v s => t v != 0 && tokQueue (t v) == 4 && rec' v s && (listed v s).isSome)))
  ++ [q 0 (tokState 4 .done) (fun v s => t v != 0 && tokQueue (t v) == 4 && rec' v s && (listed v s).isNone),
      q 0 (tokState 4 .done id 0xFFFFFFFF) (fun v s => t v != 0 && tokQueue (t v) == 4 && s.tokenView v.b.ctx (t v) == some .stale),
      q 0 (tokState 0 .done) (fun v _ => t v != 0 && tokQueue (t v) != 4), q 0 (tokState 4 .done id 5) (fun v s => (s.tokenView v.b.ctx (t v)).isNone)]

theorem witness_Nodes : ∀ w ∈ wsNode, w.Meets := Wit.all_meet _ (by decide +kernel)

/-- A read of the context that is under way, translated at die 0. -/
def reading (s : State) : State := { s with reqs := [(2, { (default : Req) with home := 0, ctx := 0, bid := 9 })], nextId := 5 }

/-- PQRY with room; SETPK's three operations, and its end once every die holds K; TLBFL and TLBDR of a die, of the partition, of a die outside it,
and one that waits. -/
def wsPage : List Wit :=
  let pqry : Enc := { opc := 0xF4, lens := [2, 3], dst := .w64, sa := .w64, lit := .role }
  let setpk : Enc := { opc := 0xF5, lens := [2], dst := .w64, sa := .u64, gov0 := true, md := 3, extra := fun f _ => modOf f != 3 }
  let upTo := fun (v : Env) (s : State) => match v.x.prog with | .pending n => n | _ => s.nextId
  let s := fun (d : Word) => tState (at' 6 0 ++ [(8, U d), (9, U 0)])
  let f := fun (a : BitVec 6) (m : BitVec 11) => F 0 a 0 (.two (X 0 m))
  let full : State := { s 0 with issues := (List.range 63).map (fun i => (1000 + i, ⟨0, 0, true, 1, []⟩)) }
  let fl := fun (a : BitVec 6) (m : BitVec 11) (s : State) (c : Env → State → Bool) => (⟨encTlb 0xF6 (f a m), f a m, s, c⟩ : Wit)
  let dr := fun (a : BitVec 6) (m : BitVec 11) (s : State) (c : Env → State → Bool) => (⟨encTlb 0xF7 (f a m), f a m, s, c⟩ : Wit)
  let ext := fun (v : Env) (s : State) (c : List Nat → Bool) => match v.extent s with | some e => c e | none => false
  let drained := fun (b : Bool) (v : Env) (s : State) => ext v s (fun e => s.translatedDone v.b.ctx (upTo v s) e == b)
  [⟨pqry, F 20 6 0 (.three (X 0) 0x40), s 0, fun v s => s.counterRoom v true⟩, ⟨pqry, F 20 6 0 (.two (G (X 0))), (s 0).modSlice 0 0 (sel 5), fun v s => s.counterRoom v true⟩,
   ⟨pqry, F 20 6 0 (.two (X 0)), full, fun v s => !s.counterRoom v true⟩]
  ++ ([0, 1, 2].map (fun m => (⟨setpk, F 20 8 0 (.two (X 0 m)), s 6, fun v s => v.x.acquiring?.isNone && (s.ctxs.get? v.b.ctx).isSome⟩ : Wit)))
  ++ [⟨setpk, F 20 8 0 (.two (X 0 0)), (s 6).modSlice 0 0 (fun x => { x with prog := setpkWait 3 }), fun v s =>
        v.x.acquiring? == some 3 && (match s.ctxs.get? v.b.ctx with | some c => c.kEverywhere | none => false) && onB v s⟩,
      fl 8 0 (prog (.released true) (s 0)) (fun v s => ext v s (fun _ => match s.release v .pkg with | (s1, some _) => onB v s1 && (s1.ctxs.get? v.b.ctx).isSome | _ => false)),
      fl 0 1 (prog (.released true) (s 0)) (fun v s => ext v s (fun _ => match s.release v .pkg with | (s1, some _) => onB v s1 && (s1.ctxs.get? v.b.ctx).isSome | _ => false)),
      fl 0 1 ({ s 0 with reqs := [(2, { (default : Req) with home := 0, ctx := 0, op := .write [1] })] }) (fun v s => ext v s (fun _ => (s.release v .pkg).2.isNone)),
      fl 8 0 (s 1) (fun v s => (v.extent s).isNone), fl 8 0 (s 8) (fun v s => (v.extent s).isNone),
      dr 8 0 (s 0) (drained true), dr 0 1 (s 0) (drained true), dr 0 1 (reading (s 0)) (drained false), dr 8 0 (s 7) (fun v s => (v.extent s).isNone)]

theorem witness_PageInstructions : ∀ w ∈ wsPage, w.Meets := Wit.all_meet _ (by decide +kernel)

/-- A context with two layers, the first of them in a state. -/
def layered (st : LayerState) (s : State) : State :=
  s.modCtx 0 (fun c => { c with model := true, nlayer := 2, layTab := loadVa + 0x1000, layers := [(0, { Layer.initial with state := st, landed := 3 })] })

/-- The four layer instructions on the first layer in each state, on the last id and the first that is none, with no lane and without room. -/
def wsLayer : List Wit :=
  let row := fun (opc : Nat) (dst : Dst) (gov0 : Bool) => ({ opc := opc, lens := [1, 3], dst := dst, sb := .u32, gov0 := gov0 } : Enc)
  let l := fun (v : Env) => v.o.scalar
  let good := fun (v : Env) (s : State) => !s.layerBad v.b.ctx (l v)
  let st := fun (v : Env) (s : State) => (s.layer v.b.ctx (l v)).state
  let s := fun (st : LayerState) (n : Word) => layered st (tState [(8, U n)])
  let f := fun (d : BitVec 6) => F d 0 8
  let w := fun (s : State) (c : Env → State → Bool) => (⟨row 0xFB .no true, f 0, s, c⟩ : Wit)
  let q := fun (s : State) (c : Env → State → Bool) => (⟨row 0xFC .w64 true, f 20, s, c⟩ : Wit)
  let r := fun (s : State) (c : Env → State → Bool) => (⟨row 0xFD .w64 false, f 20, s, c⟩ : Wit)
  let e := fun (s : State) (c : Env → State → Bool) => (⟨row 0xFE .pd false, f 3, s, c⟩ : Wit)
  let evicted := fun (v : Env) (s : State) => v.act != 0 && good v s && onB v (s.laye v.b.ctx (l v)).1
  [w (s .resident 0) (fun v s => v.x.acquiring?.isNone && good v s && st v s == .resident && acqIs v s .pkg 0 none true (onB v)),
   w (acq 0 (s .absent 0)) (fun v s => v.x.acquiring?.isSome && acqIs v s .pkg 0 none true (onB v))]
  ++ ([LayerState.absent, .queued, .arriving, .evicting].map (fun k => w (s k 0) (fun v s => v.x.acquiring?.isNone && good v s && st v s == k)))
  ++ [w (s .absent 1) (fun v s => v.x.acquiring?.isNone && good v s && st v s == .absent), w (s .resident 2) (fun v s => v.x.acquiring?.isNone && !good v s),
      q (s .resident 0) good, q (s .resident 1) good, q (s .resident 2) (fun v s => !good v s), q (tState [(8, U 0)]) (fun v s => !good v s),
      r (s .absent 0) (fun v s => v.act != 0 && good v s && s.entryRoom v.b.ctx v.b.die), r (s .resident 1) (fun v s => v.act != 0 && good v s && s.entryRoom v.b.ctx v.b.die),
      r (noEntry (s .absent 0)) (fun v s => v.act != 0 && good v s && !s.entryRoom v.b.ctx v.b.die), r (s .absent 2) (fun v s => v.act != 0 && !good v s),
      ⟨row 0xFD .w64 false, F 20 0 0 (.three (G (X 0)) 0), (s .absent 0).modSlice 0 0 (sel 0), fun v _ => v.act == 0⟩,
      e (s .queued 0) evicted, e (s .arriving 0) evicted, e (s .resident 0) evicted, e (s .absent 1) evicted, e (s .resident 2) (fun v s => v.act != 0 && !good v s),
      ⟨row 0xFE .pd false, F 3 0 0 (.three (G (X 0)) 0), (s .absent 0).modSlice 0 0 (sel 0), fun v _ => v.act == 0⟩]

theorem witness_LayerInstructions : ∀ w ∈ wsLayer, w.Meets := Wit.all_meet _ (by decide +kernel)



/-! ### Fetches, waits, fills and requests -/

/-- A loaded program of these bytes, its one slice, and the state of its first fetch. -/
def loaded (code : List Byte) (fx : Slice → Slice := id) (fb : Block → Block := id) : State :=
  (State.reset.load code).modBlock 0 (fun b => fb { b with slices := b.slices.map (fun p => (p.1, fx p.2)) })

/-- The block of a state and its slice. -/
def blockOf (s : State) : Block := (s.blocks.get? 0).getD default
def sliceOf (s : State) : Slice := ((blockOf s).slices.get? 0).getD default

/-- Words at the loaded address with each length code; a second word that lies past the image area, and one that is poisoned. -/
def ssFetch : List Bool :=
  let word := fun (s : State) (pc : Dword) => match (s.fetchWord (blockOf s) pc).2 with | .word w => some w | _ => none
  let fault := fun (s : State) (pc : Dword) => match (s.fetchWord (blockOf s) pc).2 with | .fault _ => true | _ => false
  let at0 := BitVec.ofNat 64 loadVa
  let two := leBytes 4 0x40900082 ++ leBytes 4 0x00090000
  let three := leBytes 4 0x98020300 ++ leBytes 4 0x000C0002 ++ leBytes 4 0x100
  let edge := (loaded []).physWrite 0 (loadPage * 65536 + 65532) (leBytes 4 0x40900082)
  let poisoned := { loaded (leBytes 128 (0x40900082 * 2 ^ 992) ++ leBytes 4 5) with poison := [(loadPage * 65536 + 128) / 128] }
  [nums.curSlice.isSome, word (loaded (leBytes 4 0xC0000000)) at0 == some 0xC0000000, word (loaded (leBytes 4 0x13C20082)) at0 == some 0x13C20082,
   word (loaded two) at0 == some 0x40900082 && word (loaded two) (at0 + 4) == some 0x00090000,
   (let s := loaded three; word s at0 == some 0x98020300 && word s (at0 + 4) == some 0x000C0002 && word s (at0 + 8) == some 0x100),
   word edge (at0 + 65532) == some 0x40900082 && fault edge (at0 + 65536), word poisoned (at0 + 124) == some 0x40900082 && fault poisoned (at0 + 128)]

theorem witness_FetchOutcomes : ssFetch.all id = true := by decide +kernel

/-- The loaded program's first step: an addition that is ready, and one whose source is pending. -/
def ssStep : List Bool :=
  let ok := fun (s : State) =>
    let s1 := s.nextMove.2.passTime.powerCheck (.issue 0 0)
    let b := (s1.blocks.get? 0).getD default
    let x := (b.slices.get? 0).getD default
    s.nextMove.1 == .issue 0 0 && !s.nextMove.2.passTime.frozen && !s1.frozen && (s1.blocks.get? 0).isSome && s1.issueTurn 0 b 0
      && b.movers 0 == [0] && (match (s1.beginIssue 0 [0]).fetchAt b x.pc with | (s2, .run i) => (s2.noteBegun 0 [0] (.run i)).canExec 0 0 | _ => false)
  [ok (loaded (leBytes 8 0x0009000040900082)), ok (loaded (leBytes 8 0x0009000040900082) (fun x => { x with regs := [(1, U 1), (2, .pend .u default)] }))]

theorem witness_StepRunsDecoded : ssStep.all id = true := by decide +kernel

/-- A slice that waits at an addition, one at its REGANG with itself as its call set, and one that waits for a word of the pool; an instruction
of a slice. -/
def ssWait : List Bool :=
  let again := fun (s : State) => let b := blockOf s; let x := sliceOf s
    (s.slice? 0 0).isSome && b.state == .resident && !s.frozen && (s.ctxRuns b.ctx || (s.ctxIs b.ctx .swappingOut && x.prog.begun)) && x.run == .waiting && x.faults.isEmpty
      && (match (s.modBlock 0 (fun b => (b.partMembers x.part).foldl (fun b k => b.modSlice k (fun y => { y with latches := y.savedLatches, latchSources := [] })) b)).fetchAt b x.pc with | (s1, .run i) => (match rerun i { s1 with cur := some (0, 0) } with | .next _ => true | _ => false) | _ => false)
  let waits := fun (p : Prog) (x : Slice) => { x with run := .waiting, prog := p }
  let s := loaded (leBytes 4 0x13C20082) (waits .fresh)
  let r := loaded (encodeBytes (.regang (F 0 0 3))) (fun x => { waits (.pending 1) x with regs := [(3, U 1)] })
  let w := s.modCore 0 0 (fun c => { c with waiters := [⟨0, 0, 1, false, 0⟩] })
  let halting := (loaded (leBytes 4 0x13C20082) (waits (.pending 1))).modCtx 0 (fun c => { c with state := .swappingOut })
  let whole := (loaded []).modCore 0 0 (fun c => { c with waiters := [⟨0, wholeBlock, 1, false, 0⟩] })
  [again s && !s.inPoolWait 0 0 && !s.monitored 0 0, again halting && !halting.ctxRuns 0,
   (match (whole.waitOrder 0 0).find? whole.servable with | some q => q.sid == wholeBlock | none => false), again r && ((blockOf r).callSetReady 0 (sliceOf r).pc).isSome,
   again w && (match (w.waitOrder 0 0).find? w.servable with | some q => q.bid == 0 && q.sid == 0 | none => false),
   (Instr.iadd (F 0 1 2)).parts?.isSome]

theorem witness_WaitsEnd : ssWait.all id = true := by decide +kernel

/-- A fault that waits at a boundary and one that ends a wait; a fill and a line past the park limit; a fill whose last element comes, one whose
other element is still out, and one that faulted. -/
def ssFill : List Bool :=
  let f : FillFault := ⟨6, 0x0303, 64, 1⟩
  let pending := fun (s : State) => (s.slice? 0 0).isSome && (blockOf s).state == .resident && ((sliceOf s).run == .waiting || ((sliceOf s).run == .running && !(sliceOf s).pend))
    && (leastUsed ((sliceOf s).faults.map (fun f => (f.reg, f)))).isSome
  let late := fun (s : State) => s.modDie 0 (fun d => { d with cycle := 12500001 })
  let lines := late (tState [] (fun x => { x with run := .waiting, prog := .lines [(0, 0, 0xF)] }) (fun b => { b with scratch := 256, pres := [(0, ⟨.absent, 1, 0⟩)] }))
  let e : FillElem := { (default : FillElem) with parts := [(0, 4, some 7)] }
  let fill := fun (es : List FillElem) => { nums with fills := [(9, { (default : Fill) with regs := [30], elems := es })] }
  let lands := fun (s : State) (c : Fill → Bool) => match s.fills.get? 9 with | some x => !x.regs.isEmpty && c x && (match x.elems[0]? with | some y => !y.landed && y.resolved | none => false) | none => false
  let rest := fun (x : Fill) => (x.elems.drop 1).any (fun z => !z.landed)
  [pending (tState [] (fun x => { x with faults := [f], run := .running, pend := false })), pending (tState [] (fun x => { x with faults := [f, { f with reg := 2 }], run := .waiting })),
   (let s := late (fill [{ e with parts := [(0, 4, none)] }]); match s.fills.get? 9 with | some x => x.bid == 0 && x.sid == 0 && decide (s.parkCycles 0 < (s.die 0).cycle.toNat - x.born.toNat) | none => false),
   (let b := blockOf lines; (sliceOf lines).prog == .lines [(0, 0, 0xF)] && (pickFail ((([(0, 0, 0xF)] : List (Nat × Dword × BitVec 4)).filter (fun q => (b.presence q.1).state == .absent &&
     decide (lines.parkCycles b.ctx < (lines.die b.die).cycle.toNat - (b.presence q.1).since.toNat * 256))).flatMap (fun q => (lanesOf q.2.2).map (fun l => LaneFail.mk l 0x030E q.2.1.toNat)))).isSome),
   lands (fill [e]) (fun x => !rest x && x.elems.all (fun z => z.fault.isNone)), lands (fill [e, { e with landed := true }]) (fun x => !rest x), lands (fill [e, { e with lane := 1 }]) rest,
   lands (fill [{ e with fault := some (0x0303, 4) }]) (fun x => x.elems.any (fun z => z.fault.isSome))]

theorem witness_FillsAndFaults : ssFill.all id = true := by decide +kernel

/-- Requests at their die's bay and at their home: of memory here and on another die, of a host port, held until the clock covers their stamp, and
free to be applied; a write and an RMW of memory here; a sequenced message whose turn has come. -/
def ssRequest : List Bool :=
  let q : Req := { (default : Req) with op := .write [1, 2], pa := tPa, size := 2 }
  let s := fun (r : Req) => ({ nums with reqs := [(4, r)] } : State)
  let open' := fun (r : Req) => !(s r).blockedReq 4 r && !(s r).stalled r
  let gone := ((s { q with op := .read, stage := .held, remote := true }).modDie 0 (fun d => { d with lost := true }))
  let one : Clock := [1, 0, 0, 0, 0, 0, 0, 0]
  let ahead := ((s q).die 0).vc
  let m : SeqMsg := { (default : SeqMsg) with src := 1, dst := 0, stamp := [0, 1, 0, 0, 0, 0, 0, 0], data := [5] }
  let ms : State := { nums with msgs := [(3, m)] }
  [open' q && q.stage == .toBay && q.host.isNone && q.home == q.die && !q.remote && ((s q).line q.home q.pa).uo.isEmpty,
   open' { q with home := 1 } && q.writes && (s q).holdRoom 1 0, gone.reqs.any (fun e => e.2.remote && e.2.stage == .held) && (gone.die 0).lost, open' { q with host := some 0 },
   open' { q with stage := .held, stamp := ahead } && ((s q).die 0).vc.covers ahead && !((s q).die 0).lost, !((s q).die 0).vc.covers one,
   (let r := { q with op := .rmw 0 24 1 0 true, size := 4 }; open' r && ((s r).line 0 tPa).uo.isEmpty && !(s r).poisoned 0 tPa && r.host.isNone && (0 : Nat) != opFaddl),
   (ms.die 0).vc.getD 1 0 == m.stamp.getD 1 0 - 1 && (List.range 8).all (fun j => j == 1 || counterGe ((ms.die 0).vc.getD j 0) (m.stamp.getD j 0))]

theorem witness_RequestsApply : ssRequest.all id = true := by decide +kernel

/-- A part that becomes active, a block whose spilled words can be read back, a waiter whose core has another block, a phase whose arrivals have
come (of no write, and of one), a wanted line, a working die's last sector and first, and a flushing read on a port. -/
def ssCore : List Bool :=
  let spilled := tState [] (fun x => { x with spilled := [3] }) (fun b => { b with spillSaved := true })
  let crowded := tState [] (fun x => { x with run := .waiting }) id [] (fun s =>
    ({ s with blocks := s.blocks.put 1 { blockOf s with age := 3 } }).modCore 0 0 (fun c => { c with waiters := [⟨0, 0, 1, false, 0⟩] }))
  let closing := fun (n : Nat) => (nums.modCore 0 0 (fun c => { c with closes := [⟨1, 7⟩], sent := [(64 + 3, n)] })).modDie 0 (fun d => { d with arrived := d.arrived })
  [(blockOf nums).state == .resident && !((blockOf nums).partMembers 0).isEmpty && !nums.portKept 0 (blockOf nums) 0,
   (blockOf spilled).spillSaved && !spilled.restoring 0 (blockOf spilled) && !spilled.olderParked 0 0 (blockOf spilled).age && decide (((blockOf spilled).spilledWords : Int) ≤ spilled.freeWords 0 0),
   crowded.poolWaits 0 (blockOf crowded) && (crowded.poolVictim 0 (blockOf crowded)).isSome,
   (closing 0).core 0 0 |>.closes |>.any (fun q => (List.range 64).all (fun k => (((closing 0).core 0 0).sent.get? (q.phase * 64 + k)).getD 0 == ((closing 0).die 0).arrivals 0 q.phase k)),
   (let s := nums.modLine 0 0x400 (fun l => { l with wanted := 0x81 }); (s.line 0 0x400).wanted != 0),
   decide (0 < (nums.die 7).cap) && !nums.poisoned 0 0, !nums.poisoned 7 ((nums.die 7).cap - 1), ((nums.modPort 0 (fun h => { h with flushes := [5, 6] })).port 0).flushes.head? == some 5,
   (let g : Guest := { (default : Guest) with home := 1, pa := 0, secs := [(0, (default : GSector))] }
    let s := nums.modDie 0 (fun d => { d with guests := [g] }); (s.die 0).cleanGuest 1 64),
   (let s := tState [] id (fun b => { b with scratch := 256 }); (blockOf s).state == .resident && decide (1 * 128 < (blockOf s).scratch) && !(blockOf s).winPoison.contains 1)]

theorem witness_CoreEvents : ssCore.all id = true := by decide +kernel



/-! ### Engines, streams and collectives -/

/-- The window's block with one entry of its copy queue. -/
def withEntry (e : Entry) (fs : State → State := id) : State := fs { mem 0 0 with entries := [(3, e)] }

/-- An entry whose turn has come with bytes and with none, one whose piece can be performed, one whose piece fails, and one whose piece goes to a peer,
that then is answered or is not yet; one that has ended and a fence;
one that can complete, and one that still waits for a peer. -/
def ssEntry : List Bool :=
  let c := fun (n : Nat) (st : EState) => { copying with kind := .copy (.win 0) (.win 128) n, state := st }
  let bad := { copying with kind := .copy (.glob (tVa + 0x40000000)) (.win 0) 64, state := .running }
  let got := fun (s : State) (p : Entry → Bool) => match s.entries.get? 3 with | some e => p e | none => false
  let turn := fun (s : State) => got s (fun e => e.state == .queued && e.kind.copies && s.ctxRuns e.ctx && s.turnCame 3 e)
  let runs := fun (s : State) (c : Entry → EngRes Piece → Bool) => got s (fun e => e.state == .running && e.kind.copies && s.ctxRuns e.ctx && s.issuerDone 3 e && !e.sent &&
    c e (s.engPiece 3 e).2)
  let good := fun (own : Bool) (e : Entry) (r : EngRes Piece) => match r with | .ok p => (p.peerReqs 3 e).isEmpty == own | _ => false
  let fails := fun (_ : Entry) (r : EngRes Piece) => match r with | .fail _ _ => true | _ => false
  let peer : State → State := fun s => { s with pairs := [(8, { (default : Pair) with out := [{ (default : Outstanding) with entry := some 3 }] })] }
  let far := { copying with kind := .copy (.win 0) (.glob (2 ^ 53 + 0x1000)) 64, state := .running }
  let linked : State → State := fun s => { s with accepted := true, accept := 4 }
  let fence := { copying with kind := .fence [(0, 0)] }
  let fenced := withEntry fence
  [turn (withEntry (c 0 .queued)), turn (withEntry (c 64 .queued)), runs (withEntry (c 64 .running)) (good true), runs (withEntry bad) fails,
   runs (withEntry far linked) (fun e r => good false e r && !(withEntry far linked).ofShadow e), got (withEntry { far with sent := true }) (fun e => e.sent && (withEntry { far with sent := true }).entryAcked 3),
   got (withEntry { far with sent := true } peer) (fun e => e.sent && !(withEntry { far with sent := true } peer).entryAcked 3),
   got (withEntry (c 0 (.ending false))) (fun e => e.kind.copies && e.state == .ending false && !e.sent),
   got fenced (fun e => e.kind == .fence [(0, 0)]) && fenced.entries.all (fun p => decide (3 ≤ p.1)),
   (let s := withEntry (c 0 (.ending false)); got s (fun e => s.writesDone 3 e && s.beforeIssueDone 3 e && decide (e.scope.code < 5) && e.flush.isNone && e.kind.copies && e.token != 0 && !e.attached)),
   (let s := withEntry (c 0 (.ending true)) peer; got s (fun e => !s.writesDone 3 e))]

theorem witness_EntriesRun : ssEntry.all id = true := by decide +kernel

/-- A block with a stream, and what its turn gives. -/
def streamed (es : List SEntry) : State := (mem 0 0).modBlock 0 (fun b => { b with scratch := 4096, acc := 1, stream := es, slots := [(0, slotP 3), (1, slotP 4)] })

/-- A slot fill that lands and one whose bytes are poisoned; entries at their turn that begin, are granted, read their slots, and end, of each kind;
an addition, and an ordered one, at a target between entries. -/
def ssStream : List Bool :=
  let e := fun (opc : Nat) (begun : Bool) => { (default : SEntry) with opc := opc, begun := begun, f := F 0 0 0 (.three (X (if opc = 0x87 then 24 else 1) 0x40) 0), tile := 0x00100000, slots := [0, 1] }
  let turn := fun (s : State) (c : Block → SEntry → Bool) => match s.streamTurn 0 with | some (b, _, e) => c b e | none => false
  let fill := fun (src : List Placed) (rows : Nat) => (mem 0 0).modBlock 0 (fun b => { b with slots := [(0, slotP 3 .plain 1)], slotFills := [(7, { (default : SlotFill) with rows := rows, src := src })] })
  let piece : Placed := ⟨0, 0, 0, tVa, 16, .own 0 tPa 0⟩
  let slot := fun (s : State) (good : Bool) => let b := blockOf s; match b.slotFills.get? 7 with
    | some x => s.slotReady b 0 7 x && (match (s.slotData b 0 x).2 with | .rows _ _ => good | .fault _ _ => !good)
    | none => false
  let add := fun (ordered : Bool) => ({ mem 0 0 with additions := [(3, { (default : Addition) with ordered := ordered })] } : State)
  let added := fun (s : State) => match s.additions.get? 3 with
    | some a => (match s.blocks.get? a.dst with | some t => t.state == .resident && (match t.turn with | some (_, e) => !e.begun | none => true) && (match s.blocks.get? a.src with | some b => !s.barred b.die t.die | none => true) | none => false) && s.additions.all (fun p => decide (3 ≤ p.1))
    | none => false
  [slot (fill [] 0) true, slot (fill [piece] 1) true, slot ({ fill [piece] 1 with poison := [tPa / 128] }) false]
  ++ ([0x84, 0x85, 0x86, 0x8D].map (fun o => turn (streamed [e o false]) (fun _ x => !x.begun && x.opc == o)))
  ++ ([0x87, 0x8A, 0x8B].map (fun o => turn (streamed [e o false]) (fun b x => !x.begun && (streamed [e o false]).earlierDone b 0 x.sid x.after)))
  ++ [turn (streamed [e 0x8C false]) (fun b x => !x.begun && (streamed [e 0x8C false]).granted b x)]
  ++ ([0x84, 0x85].map (fun o => turn (streamed [e o true]) (fun _ x => x.begun && !x.readEnded)))
  ++ ([0x84, 0x85].map (fun o => turn (streamed [{ e o true with readEnded := true }]) (fun _ x => x.begun && x.readEnded)))
  ++ ([0x86, 0x8C, 0x8D].map (fun o => turn (streamed [{ e o true with sent := none }]) (fun _ x => x.begun && x.opc == o)))
  ++ [turn (streamed [e 0x87 true]) (fun b x => x.begun && ((streamed [e 0x87 true]).acload 0 b x).2)]
  ++ ([0x8A, 0x8B].map (fun o => turn (streamed [e o true]) (fun b x => x.begun && ((streamed [e o true]).drain 0 b x).2)))
  ++ [added (add false), added (add true)]

theorem witness_StreamEvents : ssStream.all id = true := by decide +kernel

/-- A gather of a member of this package's die 0 with one of die 1 and one of another package, into the window, 16 bytes each. -/
def gathering (p : CollProg) (st : EState) (fs : State → State := id) (fe : Entry → Entry := id) (op : Nat := collRgath) : State :=
  let slot := fun (peer : Nat) => BitVec.ofNat 32 (peer + 2 ^ 16 * peer)
  let r : CollRec := { (default : CollRec) with op := op, chunk := 16, dw := true, sw := true, src := 0x40, dst := 0, deadline := 1, slots := [slot 0, slot 1, slot 8], mySlot := 0 }
  let e : Entry := fe { copying with kind := .ring r p, state := st, queue := 2, token := 0 }
  fs { mem 0 0 with entries := [(3, e)] }

/-- A member whose turn has come; announcements that agree and do not; a bale of another package's member with its bytes; a member of die 1 that has
withdrawn; a slot of which nothing came by the deadline, and the first cycle past it; a member that has its outputs, one that failed with a
missing slot, and one that has ended. -/
def ssCollective : List Bool :=
  let heard : CollProg := { CollProg.fresh with heard := [0, 1, 2] }
  let all : CollProg := { heard with bales := [0, 1, 2], withdrawn := [0, 1], taken := [(8, 0), (8, 1), (8, 2)] }
  let got := fun (s : State) (c : Entry → CollRec → CollProg → Bool) => match s.entries.get? 3 with
    | some e => (match e.kind with | .ring r p => s.ctxRuns e.ctx && c e r p | _ => false)
    | none => false
  let runs := fun (s : State) (c : Entry → CollRec → CollProg → Bool) => got s (fun e r p => e.state == .running && c e r p)
  let g := fun (p : CollProg) (st : EState) => gathering p st
  let other : State → State := fun s => match s.entries.get? 3 with
    | some e => { s with entries := [(3, e), (4, { e with die := 1, state := .ending true, cause := 0x0303 })] }
    | none => s
  let late := fun (n : Dword) (s : State) => s.modDie 0 (fun d => { d with cycle := n })
  let ext := [({ slot := 2, data := List.replicate 16 0x5A, expo := [] } : Sys2Proof.SlotData)]
  [got (g CollProg.fresh .queued) (fun e r _ => e.state == .queued && (g CollProg.fresh .queued).turnCame 3 e && (g CollProg.fresh .queued).keyTurn 3 e r),
   (let s := gathering CollProg.fresh .queued id id collRbar; got s (fun e r _ => e.state == .queued && s.turnCame 3 e && s.keyTurn 3 e r && r.op == collRbar && s.beforeIssueDone 3 e)),
   runs (g CollProg.fresh .running) (fun e r _ => r.takesPart 2 && (g CollProg.fresh .running).announces 3 e r 2 r.announce),
   runs (gathering CollProg.fresh .running id id collRhof) (fun _ r _ => !r.takesPart 2),
   runs (g CollProg.fresh .running) (fun e r _ => r.takesPart 2 && (g CollProg.fresh .running).announces 3 e r 2 ⟨0, 0, 0, []⟩ && r.announce != ⟨0, 0, 0, []⟩),
   runs (g heard .running) (fun e r p => match r.bales[2]? with
     | some b => !p.bales.contains 2 && (g heard .running).issuerDone 3 e && (r.needs b).all (fun j => p.heard.contains j && !p.missing.contains j) && (r.expoRange b).2 == 0 &&
        (match (g heard .running).contributions 3 e r b ext (r.needs b) with
          | (s1, .ok cs) => (match (s1.writeBale 3 e r b (s1.baleBytes r b cs default).1).2 with | .ok _ => true | _ => false)
          | _ => false)
     | none => false),
   (let s := gathering heard .running other; runs s (fun e r p => s.ownPeer 1 && !p.withdrawn.contains 1 && (slotOf r.slots 1).isSome &&
      match s.memberEntry 3 e r 1 with | some (_, m) => m.hasWithdrawn && !s.barred m.die e.die | none => false)),
   (let s := gathering CollProg.fresh .running (late 1251); runs s (fun e r p => r.deadline != 0 && decide (2 < r.slots.length) && !p.heard.contains 2 &&
      decide (r.deadline * 1250 < (s.die e.die).cycle.toNat - p.started.toNat))),
   (let s := g all .running; runs s (fun e r p => r.outputsDone p && e.cause == 0 && s.contributionTaken 3 e r p)),
   (let s := gathering { all with missing := [2] } .running id (fun e => { e with cause := 0x0703 }); runs s (fun e r p => e.cause != 0 && r.outputsDone p && s.contributionTaken 3 e r p)),
   (let s := gathering heard .running id (fun e => { e with cause := 0x0703 }) collRbar; runs s (fun e r _ => e.cause != 0 && r.op == collRbar)),
   got (g all (.ending false)) (fun e _ _ => e.state == .ending false), got (g all (.ending true)) (fun e _ _ => e.state == .ending true)]

theorem witness_CollectiveEvents : ssCollective.all id = true := by decide +kernel



/-! ### Nodes, layers and placement -/

/-- The context's one node changed, with no lease; its block has retired where it says so. -/
def withNode (f : Node → Node) (fs : State → State := id) : State :=
  fs { tBase [] with nodes := (tBase []).nodes.map (fun n => (n.1, f { n.2 with leases := [] })) }

/-- The node of a state. -/
def nodeOf (s : State) : Node := (s.nodes.get? 0).getD default

/-- A node in a launch queue; one whose predecessor is the null token; leases that are granted and ones still to be taken; a signal to a host; a
copy that is done; a node whose writes stand; a dropped kernel that no node names. -/
def ssNode : List Bool :=
  let got := fun (s : State) (c : Node → Bool) => (s.nodes.get? 0).isSome && s.ctxRuns (nodeOf s).ctx && c (nodeOf s)
  let queued := withNode (fun x => { x with state := .waiting, accepted := false }) (fun s => s.modDie 0 (fun d => { d with launchQ := [0] }))
  let leasing := fun (taken : Bool) => withNode (fun x => { x with state := .leasing, leased := taken, dies := 1 })
  let va := 0x7FE * 2 ^ 53 + 0x40
  let signal := withNode (fun x => { x with body := .signal va 5, state := .running }) (fun s => s.modCtx 0 (fun c => { c with hroot := [0x30000, 0] }))
  let copied := withNode (fun x => { x with body := .copy tVa (tVa + 64) 16 .die, state := .running })
  let completing := withNode (fun x => { x with body := .copy tVa (tVa + 64) 16 .die, state := .completing, flush := some [] }) (fun s => { s with blocks := [] })
  let running := withNode (fun x => { x with state := .running })
  let dropped := (withNode (fun x => { x with state := .done })).modCtx 0 (fun c => { c with kernels := [(2, { (default : Kernel) with gen := 1, state := 2 })] })
  [got queued (fun x => (queued.die 0).launchQ.find? (queued.acceptable 0) == some 0 && (queued.die 0).launchQ == [0] && x.token != 0 && x.state == .waiting && x.predDone.all (fun d => d.isSome)),
   (let s := withNode (fun x => { x with state := .waiting, accepted := true, preds := [0], predDone := [none] }); got s (fun x => x.state == .waiting && x.accepted && x.predDone[0]? == some none &&
      match s.tokenView x.ctx (x.preds.getD 0 0) with | some w => w.state != 0 && (match w with | .record _ => false | _ => true) | none => false)),
   got (leasing true) (fun x => x.state == .leasing && x.leased && (diesOf x.dies).all (fun d => ((leasing true).die d).vc.covers ((leasing true).die d).seen)),
   got (leasing false) (fun x => !x.leased && match (leasing false).ctxs.get? x.ctx with
     | some c => (match ((leasing false).takeLeases 0 x c).nodes.get? 0 with | some y => y.state == .leasing | none => false) | none => false),
   got signal (fun x => x.body == .signal va 5 && x.state == .running && x.flush.isNone && x.attachedFail.isNone &&
      match signal.ownerOf va with | .ok (.host p) => (match (signal.verdict x.ctx (.host p) va .write (signal.keysOf x.ctx x.die) .slice).2 with | .pass _ => true | _ => false) | _ => false),
   got copied (fun x => x.state == .running && copied.bodyDone 0 x), got running (fun x => x.state == .running),
   got completing (fun x => x.state == .completing && completing.nodeSettled 0 x && (completing.nodeRecall 0).nodeWritesDone 0 && x.flush == some [] && (completing.nodeRecall 0).flushesDone []),
   match dropped.ctxs.get? 0 with | some c => (match c.kernels.get? 2 with | some k => k.state == 2 && dropped.nodes.all (fun n => !n.2.active) | none => false) | none => false]

theorem witness_NodeEvents : ssNode.all id = true := by decide +kernel

theorem witness_NodeSteps : ssNode.all id = true := witness_NodeEvents

/-- The context with a layer of two pages, its first one's leaf with a residency. -/
def paged (res : Nat) (st : LayerState) : State :=
  let s := layered st (tBase [])
  (((s.physWrite 0 (loadPage * 65536 + 0x1000) (leBytes 8 (tVa + 0x10000) ++ leBytes 8 (0x7FF * 2 ^ 53 + 2 ^ 29) ++ leBytes 8 2)).physWrite 0 0x40008 (leBytes 8 (5 * 2 ^ 32 + 3))).physWrite
    0 0x50000 (leBytes 8 (0x60 * 2 ^ 32 + 2 ^ 29 + res * 2 ^ 15 + 1)))

/-- Four layers that arrive, and three with one that waits; a page that lands, and one whose source faults; a page being evicted that
nothing is on its way to. -/
def ssLayer : List Bool :=
  let q := fun (n : Nat) => (paged 1 .queued).modDie 0 (fun d => { d with arriving := List.replicate n (9, 0), layerQ := [(0, 0)] })
  let leaf := fun (s : State) (c : Nat × Nat × Dword → Bool) => match s.pageLeaf 0 0 0 with | some l => c l | none => false
  [decide (4 ≤ ((q 4).advanceAll 0 |>.die 0).arriving.length),
   (let s1 := (q 3).advanceAll 0; decide ((s1.die 0).arriving.length < 4) && (s1.die 0).layerQ.find? (fun q => s1.leasesStand q.1) == some (0, 0)),
   (let s := paged 1 .arriving; leaf s (fun l => (s.layer 0 0).state == .arriving && leafRes l.2.2 == 1 && decide (0 < (s.layerRec 0 0).pages) && s.leasesStand 0 &&
      (s.layerSource 0 ((s.layerRec 0 0).src + 0 * 65536)).isSome)),
   (let s := { paged 1 .arriving with poison := [(tPa + 0x10000) / 128] }; leaf s (fun l => (s.layer 0 0).state == .arriving && leafRes l.2.2 == 1 && decide (0 < (s.layerRec 0 0).pages) &&
      s.leasesStand 0 && (s.layerSource 0 ((s.layerRec 0 0).src + 0 * 65536)).isNone)),
   (let s := (paged 1 .arriving).physWrite 0 0x40008 (leBytes 8 0); (s.pageLeaf 0 0 0).isNone && (s.layer 0 0).state == .arriving && decide (0 < (s.layerRec 0 0).pages) && s.leasesStand 0),
   (let s := paged 3 .evicting; leaf s (fun l => leafRes l.2.2 == 3 && !s.frameBusy l.1 (entryFrame l.2.2)))]

theorem witness_LayerEvents : ssLayer.all id = true := by decide +kernel

/-- A kernel of one slice, registered, and a running node of four blocks of it on die 0, whose context has a save pool. -/
def launched (ordered : Bool) (fs : State → State := id) : State :=
  let s := withNode (fun x => { x with ordered := ordered, dies := 1, state := .running, body := .kernel 2 4 [] 0, cursor := 0, placed := 0, roundBlocks := if ordered then [0, 1, 2, 3] else [] })
  let k : Kernel := { (default : Kernel) with gen := 0, state := 1, gang := 32, slices := 1, partw := 0x00081008, slotLimit := 1 }
  fs ((({ s with blocks := [] } : State).modCtx 0 (fun c => { c with save := [(0x7FF * 2 ^ 53 + 0x2000000, 0x4000000)], kernels := [(2, k)] })).modDie 0 (fun d =>
    { d with waitingSet := [(0, 0)] }))

/-- The same with blocks: one on every core of the die that has room for no other, so that a member of the waiting set fits nowhere. -/
def crammed (fb : Block → Block) : State :=
  launched false (fun s => { s with dies := s.dies.map (fun d => (d.1, { d.2 with sites := 1 })), blocks := [(0, fb { loadBlock 0 0 with
    nslices := 256, age := 2, slices := [(0, { Slice.placed 0x7FF0 0 with run := .waiting })] })] })

/-- A node's next block that fits, in an ordered node and in another; a saved block at its turn; a member that fits nowhere and the block that
yields to it; a dormant one; a round that has ended, and one past its limit. -/
def ssPlace : List Bool :=
  let next := fun (s : State) => s.nextMember 0 == some (0, 0) && (s.placeNext 0).isSome
  let saved := launched false (fun s => ({ s with blocks := [(6, { loadBlock 0 0 with state := .saved, slices := [], scratch := 256, acc := 0 })] } : State).modDie 0 (fun d =>
    { d with waitingSet := [(1, 6)], shadow := some 0, shadowMem := [(6, [])] }))
  let full := crammed id
  let dormant := (crammed id).modDie 0 (fun d => { d with monitors := [(1, { (default : Monitor) with bid := 0, sid := 0 })] })
  let at' := fun (s : State) => { s with blocks := [(0, { loadBlock 0 0 with slices := [(0, { Slice.placed 0x7FF0 0 with run := .waiting, prog := .round })] })] }
  let round := launched true (fun s => at' { s with nodes := s.nodes.map (fun n => (n.1, { n.2 with roundBlocks := [0] })) })
  [next (launched false), next (launched true), saved.nextMember 0 == some (1, 6) && (saved.restoreUnit 6 0).isSome,
   (full.members 0).contains (0, 0) && (full.tryMember (0, 0)).isNone && full.victimFor (0, 0) == some 0,
   dormant.isDormant 0 && (dormant.members 0).contains (0, 0) && (dormant.tryMember (0, 0)).isNone && (dormant.candidates (0, 0)).contains (0, 0),
   (let x := nodeOf round; x.ordered && x.state == .running && round.ctxRuns x.ctx && round.roundOver 0 x && !(round.committers 0 x).isEmpty),
   (let s := round.modDie 0 (fun d => { d with cycle := BitVec.ofNat 64 (round.roundCycles 0 + 1) }); let x := nodeOf s; !x.roundBlocks.isEmpty && decide (s.roundCycles x.ctx < ((s.die x.die).cycle - x.limitStart).toNat))]

theorem witness_PlacementEvents : ssPlace.all id = true := by decide +kernel



/-! ### Contexts, links, reset and the host -/

/-- A context's record: id 5 on die 0, an image page, a root node. -/
def ctxRecord (root : Nat) (first : Nat := 0) (image : Nat := 0x7FF * 2 ^ 53) : List Byte :=
  leBytes 2 5 ++ [0, 1, BitVec.ofNat 8 first, 1, 0, 0] ++ leBytes 8 0 ++ leBytes 8 root ++ leBytes 32 0 ++ leBytes 8 image ++ leBytes 8 0x10000 ++ leBytes 56 0
    ++ (if first = 0 then leBytes 8 0x30000 ++ leBytes 56 0 else leBytes 8 0 ++ leBytes 8 0x30000 ++ leBytes 48 0)

/-- The record in memory at `tPa`, features accepted. -/
def starting (rec : List Byte) (fs : State → State := id) : State := fs { tBase rec with accepted := true, accept := 0x7F }

/-- The dword that CTXSTART writes for it. -/
def startWord : Dword := BitVec.ofNat 64 tPa

/-- A slot command's context in a state. -/
def commandedIn (st : CtxState) : State :=
  ((tBase []).modCtx 0 (fun c => { c with state := st })).modDie 0 (fun d => { d with ctxSlots := [(15, ⟨0, some 0, .running, 0⟩)] })

/-- A record that is taken: one that breaks a range, one whose image is mapped nowhere, one that meets its own id, one whose root node is not
aligned, one that starts; the commands on a context in each state; one saved, one that comes back, one that is drained. -/
def ssContext : List Bool :=
  let taken := fun (s : State) => s.accepted && !(s.die 0).lost && (s.slotState 0 0).1 == .free && decide (tPa < (s.die 0).cap) && (s.firstPoison 0 tPa 0x7F0).isNone
  let c0 := fun (s : State) => ctxOfRecord (s.physRead 0 tPa 0x7F0)
  let good := fun (s : State) => (c0 s).first == 0 && s.recordOk (s.physRead 0 tPa 0x7F0)
  let begun := fun (s : State) => s.modSlotReg 0 0 (fun x => { x with start := BitVec.ofNat 64 tPa })
  let trial := fun (s : State) (c : Ctx) => { begun s with ctxs := (begun s).ctxs.put c.id c }
  let mapped := fun (s : State) => (trial s (c0 s)).imageMap (c0 s).id (c0 s)
  let s1 := starting (ctxRecord (0x7FF * 2 ^ 53 + 4))
  let s2 := starting (ctxRecord (tVa + 0x10000 )) (fun s => s.physWrite 0 (tPa + 0x10000) nodeRecord)
  let id5 := starting (ctxRecord (0x7FF * 2 ^ 53)) (fun s => { s with ctxs := s.ctxs.put 5 (loadCtx 5) })
  let any := fun (s : State) => s.accepted || ((s.slotOf 0 15).ctx == some 0 && (match s.ctxs.get? 0 with | some c => c.first == 0 | none => false) && !(s.die 0).lost)
  [taken (starting (ctxRecord 0 1)) && !good (starting (ctxRecord 0 1)),
   (let s := starting (ctxRecord 0 0 (0x7FF * 2 ^ 53 + 2 ^ 29)); taken s && good s && (mapped s).isNone),
   taken id5 && good id5 && match mapped id5 with | some m => id5.conflict { c0 id5 with imap := m } | none => false,
   taken s1 && good s1 && match mapped s1 with
     | some m => let c := { c0 s1 with imap := m }; !s1.conflict c && (match (trial s1 c).rootNode c.id c with | .error _ => true | .ok _ => false)
     | none => false,
   !{ s1 with accepted := false }.accepted,
   taken s2 && good s2 && match mapped s2 with
     | some m => let c := { c0 s2 with imap := m }; !s2.conflict c && (match (trial s2 c).rootNode c.id c with | .ok _ => true | .error _ => false)
     | none => false]
  ++ ([CtxState.running, .swapped, .ended, .ending, .swappingOut].map (fun st => any (commandedIn st)))
  ++ [(let s := commandedIn .swappingOut; (s.ctxResidents 0).all s.canSave), (match (commandedIn .swappingIn).ctxs.get? 0 with | some c => c.state == .swappingIn && c.cause == 0 && (commandedIn .swappingIn).groupsFit c | none => false),
      (let s := { commandedIn .ending with nodes := [] }; s.drained 0)]

theorem witness_ContextEvents : ssContext.all id = true := by decide +kernel

/-- The rings in each state. -/
def ssPackage : List Bool :=
  let r := fun (x : RingState) => ({ State.reset with ring := x } : State)
  let wrapped := { r .wrapped with dies := (r .wrapped).dies.map (fun (d : Nat × Die) => (d.1, { d.2 with ring := 1, brk := 3 })) }
  let without := fun (d : Nat) => wrapped.modDie d (fun x => { x with lost := true })
  [State.reset.ring == .whole, (r (.wrapping 1 3)).ring == .wrapping 1 3 && !deadBridge 1 3 7, deadBridge 1 3 3, !deadBridge 2 3 0, deadBridge 2 3 2, (r .split).ring == .split,
   wrapped.ring == .wrapped && !deadBridge wrapped.ringWord.1 wrapped.ringWord.2 7, deadBridge wrapped.ringWord.1 wrapped.ringWord.2 3,
   (without 3).ringWord == (1, 3) && (without 4).ringWord == (1, 3) && (without 0).ringWord == (1, 3) && (List.range 8).all (fun d => !(wrapped.die d).lost && (wrapped.dies.get? d).isSome),
   !(State.reset.die 7).lost, ((State.reset.modDie 3 (fun d => { d with lost := true })).die 3).lost]

theorem witness_PackageEvents : ssPackage.all id = true := by decide +kernel

theorem crc64_zeros (n : Nat) : crc64 (List.replicate n 0) = 0 := by
  have h : crc64Bits 8 ((0 : Dword) ^^^ BitVec.ofNat 64 ((0 : Byte).toNat * 2 ^ 56)) = 0 := by decide
  unfold crc64
  induction n with
  | zero => rfl
  | succ k ih => rw [List.replicate_succ, List.foldl_cons, h]; exact ih

/-- The flit of zeros is whole, of data, and number 0. -/
theorem zero_flit : let f : List Byte := List.replicate 256 0
    f.length = 256 ∧ leNat (f.drop 248) = (crc64 (f.take 248)).toNat ∧ leNat (f.take 2) / 16384 = 0 ∧ leNat (f.take 2) % 4096 = 0 := by
  refine ⟨List.length_replicate, ?_, by decide, by decide⟩
  rw [List.take_replicate, crc64_zeros]; decide

/-- A port that is open, closed, that waits for number 0 and one that waits for another; a request in its order, one that meets a held one, answered before
at both ends of the window, early, and without a window; replies of each kind; a pair in its last rounds. -/
def ssLink : List Bool :=
  let opened := fun (s : State) => { s.modDie 7 (fun d => { d with pxa := 2, pxb := 2 }) with accepted := true, accept := 4 }
  let p : Packet := { (default : Packet) with type := 1, src := 8, dst := 7, seq := 300 }
  let w := fun (n : Word) (held : List (Nat × Packet)) => (opened State.reset).modDie 7 (fun d => { d with replay := [(8, ⟨n, [(300, p)], held⟩)] })
  let ours := fun (s : State) (p : Packet) => s.portOpen 15 && !p.nul && p.dst.toNat / 8 == s.fuses.pkg && !(s.die (p.dst.toNat % 8)).lost && decide (p.type.toNat ≤ 2) && !p.flags.getLsbD 0
  let has := fun (s : State) (c : Replay → Bool) => ours s p && match (s.die 7).replay.get? 8 with | some r => c r | none => false
  let o : Outstanding := { (default : Outstanding) with pkt := { (default : Packet) with seq := 9 } }
  let reply := fun (t : Byte) (keys : Dword) => { (default : Packet) with type := t, src := 7, dst := 8, seq := 9, keys := keys }
  let pr := fun (r : Nat) => (opened State.reset).modPair 7 8 (fun q => { q with out := [o], rounds := r })
  let ends := fun (q : Packet) => (pr 0).portOpen 15 && !q.nul && q.src.toNat / 8 == State.reset.fuses.pkg && ((pr 0).pair (q.src.toNat % 8) q.dst.toNat).out.find? (fun o => o.pkt.seq == q.seq) == some o
  [(opened State.reset).portOpen 15, !State.reset.portOpen 15, !((opened State.reset).modDie 0 (fun d => { d with pxa := 0 })).portOpen 0, !(opened State.reset).portOpen 16,
   (List.replicate 255 (0 : Byte)).length != 256, (((opened State.reset).links.get? 15).getD LinkPort.reset).rxSeq == 0,
   ((((opened State.reset).modLink 15 (fun l => { l with rxSeq := 1 })).links.get? 15).getD LinkPort.reset).rxSeq != 0,
   has (w 300 []) (fun r => p.seq == r.expected && !meetsAny r.held p), has (w 300 [(15, p)]) (fun r => p.seq == r.expected && meetsAny r.held p),
   has (w 301 []) (fun r => p.seq != r.expected && p.type != 0 && r.held.isEmpty && decide ((r.expected - p.seq).toNat ≤ 256) && (r.answers.get? 300).isSome),
   has (w 556 []) (fun r => p.seq != r.expected && decide ((r.expected - p.seq).toNat ≤ 256) && (r.answers.get? 300).isSome),
   has (w 299 []) (fun r => decide (256 < (r.expected - p.seq).toNat) && decide ((p.seq - r.expected).toNat < 2 ^ 31)),
   ours (opened State.reset) p && ((State.reset.die 7).replay.get? 8).isNone,
   ends (reply 8 0) && o.entry.isNone, ends (reply 9 0), ends (reply 10 0), ends (reply 11 0x0303) && (reply 11 0x0303).keys.setWidth 16 != (0x0702 : Half), { reply 8 0 with nul := true }.nul]
  ++ ([0, 7, 8, 9].map (fun r => !((pr r).pair 7 8).out.isEmpty && ((pr r).pair 7 8).rounds == r)) ++ [!State.reset.accepted, State.feature { State.reset with accepted := true, accept := 4 } 2]

theorem witness_LinkEvents : ssLink.all id = true := by decide +kernel

/-- A working part whose mailboxes are ready, with or without the features accepted. -/
def ready (acc : Bool) (f : Mailbox → Mailbox := id) (fs : State → State := id) : State :=
  fs { (tBase []).setMailboxes 1 0 with ports := ((tBase []).setMailboxes 1 0).ports.map (fun p => (p.1, { p.2 with mailbox := f p.2.mailbox })), accepted := acc, accept := 0x7F, offer := 0x7F }

/-- A reset that the mailbox asks for, in both states in which it may; no staged image, and one. -/
def ssReset : List Bool :=
  [(ready false).hostUp 0 && ((ready false).port 0).mailbox.state == 1, (ready false).hostUp 1 && (((ready false).setMailboxes 3 2).port 1).mailbox.state == 3,
   (ready false).ports.all (fun p => !p.2.mailbox.staged), (ready false (fun m => { m with staged := true })).ports.any (fun p => p.2.mailbox.staged)]

theorem witness_Resets : ssReset.all id = true := by decide +kernel

/-- ACCEPT before and after it is given; a PWR that leaves the package as it is and one that wakes it; a word of the bay map that keeps a permutation,
one that does not, and a map that stands; LPOOL within and at the capacity, with a slot in use; a working port and dies. -/
def ssRegister : List Bool :=
  let put := fun (m : List Nat) (word : Nat) (v : Dword) => m.zipIdx.map (fun p => if p.2 / 8 = word then v.toNat / 2 ^ (8 * (p.2 % 8)) % 64 else p.1)
  let perm := fun (m : List Nat) => (List.range 64).all (fun i => m.contains i)
  let s := ready false
  let top := (s.die 7).cap / 65536
  let pwr := fun (st : Nat) (v : Dword) => State.powerAllowed { s with pstate := st, tol := v.setWidth 32, pmax := bitsOf v.toNat 34 32 } st
  [s.hostUp 0 && !s.accepted && (s.port 0).mailbox.state == 1 && (ready true).hostUp 1 && (ready true).accepted,
   pwr 0 0x400000000, pwr 4 0x4FFFFFFFF, !pwr 3 0x200000000, perm (put (s.die 0).bayMap 7 0x38393A3B3C3D3E3F), !perm (put (s.die 0).bayMap 0 0), !(s.die 0).mapFixed,
   ((s.modDie 7 (fun d => { d with mapFixed := true })).die 7).mapFixed, decide ((BitVec.ofNat 64 top).toNat % 2 ^ 32 ≤ top) && (List.range 16).all (fun k => (s.slotState 7 k).1 == .free),
   ((commandedIn .running).slotState 0 15).1 == .running, (List.range 8).all (fun d => !(s.die d).lost)]

theorem witness_RegisterWrites : ssRegister.all id = true := by decide +kernel

/-- A command that is in progress; ranges of one byte and of a page, at the end of memory, and none; an image frame; the last dword of a die's page; bytes to stage, with the other
port's image staged and not; the certificates; FREEZE with its feature and without. Whether an image verifies depends on a key that the spec does
not give. -/
def ssMailbox : List Bool :=
  let m := fun (a b : Dword) => ready true (fun x => { x with arg0 := a, arg1 := b })
  let up := fun (s : State) => s.hostUp 1 && (s.port 1).mailbox.state == 1
  let range := fun (s : State) => let a := (s.port 1).mailbox.arg0.toNat; let n := (s.port 1).mailbox.arg1.toNat; let d := a / 2 ^ 44 % 8; let pa := a % 2 ^ 44
    decide (1 ≤ n) && decide (n ≤ 4096) && decide (a < 2 ^ 47) && decide (pa + n ≤ (s.die d).cap) && !(s.die d).lost && pa / 4096 == (pa + n - 1) / 4096
  let cap := (State.reset.die 7).cap
  let staging := fun (s : State) => let a := (s.port 1).mailbox.arg0.toNat; let n := (s.port 1).mailbox.arg1.toNat
    decide (1 ≤ n) && decide (n ≤ 4096) && a % 4096 == 0 && decide (a + n ≤ 2 ^ 26)
  let busy := ready true (fun x => { x with state := 2, tag := 7 })
  [(busy.port 1).mailbox.state == 2 && (busy.port 1).mailbox.tag != 8, up (m 0 1), range (m 0 1), range (m 0 4096), range (m (BitVec.ofNat 64 (7 * 2 ^ 44 + cap - 1)) 1), range (m (BitVec.ofNat 64 tPa) 4) && !(m 0 0).inImageFrame 0 tPa,
   range (m 0x10000 8) && (m 0 0).inImageFrame 0 0x10000, !range (m 0 0), !range (m 0 4097), !range (m 0xFFF 2), !range (m (BitVec.ofNat 64 (7 * 2 ^ 44 + cap)) 1), !range (m (2 ^ 47) 1),
   decide ((7 : Nat) ≤ 7) && (0x3FFFF8 : Nat) % 8 == 0 && decide ((0x3FFFF8 : Nat) < 0x400000), staging (m 0x3FFF000 4096), staging (m 0 1), !((m 0 1).port 0).mailbox.staged,
   (((m 0 1).modMailbox 0 (fun x => { x with staged := true })).port 0).mailbox.staged, ((m 1 0).port 1).mailbox.arg0 == 1, (m 0 0).feature 6, !(ready false).feature 6]

theorem witness_MailboxCommands : ssMailbox.all id = true := by decide +kernel

/-- BAR2 at its first and last bytes, where the homes cover the port's die, with the feature and without; a line that a bay holds, and one that none does. -/
def ssHost : List Bool :=
  let s := ready true
  let fits := fun (off n : Nat) => decide (off + n ≤ 2 ^ (s.port 0).bar2Bits)
  let held := s.modPort 1 (fun h => { h with cxl := [3] })
  [s.hostUp 0 && s.feature 0 && fits 0 4 && (peerPieces (4 / 65536 + 2) 0 4).all (fun p => s.bar2Ready 0 p.1), fits (2 ^ 34 - 1) 1 && (peerPieces 2 (2 ^ 34 - 1) 1).all (fun p => s.bar2Ready 0 p.1),
   !(ready false).feature 0 && (ready false).hostUp 1 && !(ready false).frozen && !s.frozen, { s with frozen := true }.frozen, s.dies.all (fun d => d.2.lines.all (fun l => l.2.uo.isEmpty)), fits 0 4096,
   held.hostUp 1 && (held.port 1).cxl.contains (0xFF / 64), !(s.port 1).cxl.contains 0]

theorem witness_HostAccess : ssHost.all id = true := by decide +kernel

/-- A frozen part; a state that may be entered and is deeper, and one that is as deep; a package in each power state. -/
def ssPower : List Bool :=
  let frozen : State := { State.reset with frozen := true, schedule := [.event .powerWake] }
  let picked := fun (s : State) => [4, 3, 2, 1].find? (fun st => s.powerAllowed st && s.powerCond st)
  let tol := fun (p : Nat) (n : Word) => ({ State.reset with pstate := p, tol := n } : State)
  [frozen.frozen && !Move.whileFrozen frozen.nextMove.1, !(frozen.die 7).lost, picked (tol 0 0xFFFFFFFF) == some 4, picked (tol 0 2) == some 1, picked (tol 0 40) == some 2,
   picked (tol 4 0xFFFFFFFF) == some 4, (picked (tol 0 1)).isNone, decide (0 < (tol 3 0).pstate) && decide ((tol 3 0).pstate < 4), State.reset.pstate == 0 && !(State.reset.die 7).lost]

theorem witness_FreezeAndPower : ssPower.all id = true := by decide +kernel

/-! ### Encodings, checks and the whole machine -/

/-- A well-formed instruction with each length, and bytes that decode. -/
theorem witness_EncodeDecode :
    ([Instr.aff (F 8 1 2), .imul { F 0 1 2 (.two (X 18)) with n := true }, .ld (F 8 6 0 (.three (X 24 2) 0x100))].all (fun i => i.wf && i.parts?.isSome)) = true ∧
    (decode (leBytes 4 0x13C20082 ++ [1, 2])).toOption.isSome = true := by decide +kernel

/-- What steps 5 to 9 of R52 give for a row and a slice, computed. -/
def checkB (y : Slice) (row : Option (Fields × Enc)) (r : SrcCheck) : Bool :=
  match row with
  | none => false
  | some (f, e) =>
    let srcs := (e.sources f).filter (fun p => p.1.reads)
    let regs := fun (p : Src × Nat × Bool) => (srcRegs p.1 (e.typeOf f y.mode) f p.2.1).map y.reg
    let noLatch := srcs.any (fun p => decide (60 ≤ p.2.1) && (y.latch (p.2.1 - 60)).isNone)
    let pending := srcs.any (fun p => (regs p).any (fun v => v.isPend))
    let fails := fun (p : Src × Nat × Bool) =>
      if !y.mode.getLsbD 14 && (regs p).any (fun v => v == .empty) then some 0x0201
      else if p.1.mustUniform && !(y.source p.1 (e.typeOf f y.mode) f p.2.1).uniform then some (0x0105 : Half)
      else none
    match r with
    | .ok => e.legal f y.mode && !noLatch && !pending && (srcs.findSome? fails).isNone
    | .stall => e.legal f y.mode && !noLatch && pending
    | .bad c =>
      if !e.legal f y.mode then c == 0x0102
      else if noLatch then c == 0x0103
      else !pending && srcs.findSome? fails == some c

/-- Fields that a row does not allow, an empty latch, a pending source, an empty register, and a tag that the operand does not allow, for rows of each family;
and of a cross-lane instruction, which also waits for a slice that is away. -/
def ssCheck : List Bool :=
  let lane := fun (rs : List (Nat × RegVal)) (i : Instr) (r : SrcCheck) => let y := sliceOf (tState rs); checkB y (laneRow y.mode i) r
  let set := fun (rs : List (Nat × RegVal)) (i : Instr) (r : SrcCheck) =>
    let s := tState rs; let b := blockOf s; b.issueSet 0 == [0] && !b.crossAway 0 && checkB (sliceOf s) (setRow b.width i) r
  let two := fun (d a b : BitVec 6) => F d a b (.two (X 0))
  let pend := fun (k : Nat) => [(k, RegVal.pend .u default)]
  let none' := fun (k : Nat) => [(k, RegVal.empty)]
  let g := fun (k : Nat) => [(k, RegVal.held .g (Quad.all 1))]
  let away := (tState []).modBlock 0 (fun b => { b with slices := b.slices ++ [(1, { Slice.placed 0x7FF0 0 with crossHome := some 0 })] })
  [lane [] (.iadd (F 61 1 2)) (.bad 0x0102), lane [] (.iadd (F 8 60 2 (.two (X 18)))) (.bad 0x0103), lane (pend 2) (.iadd (F 8 1 2 (.two (X 18)))) .stall, lane (none' 1) (.iadd (F 8 1 2 (.two (X 18)))) (.bad 0x0201),
   lane [] (.fadd (F 8 1 2 (.two (X 26)))) (.bad 0x0102), lane (none' 2) (.ffma (F 8 1 2 (.two (X 1)))) (.bad 0x0201), lane (pend 1) (.cvt (F 2 1 0 (.two { X 4 1 with rov := 6 }))) .stall,
   lane [] (.mov (F 8 63 0)) (.bad 0x0103), lane [] (.aff (F 60 1 2)) (.bad 0x0102), lane (g 1) (.aff (F 8 1 2)) (.bad 0x0105), lane (none' 6) (.ld (F 8 6 0 (.three (X 24) 0))) (.bad 0x0201),
   lane (pend 7) (.ld (F 8 6 0 (.three (X 24) 0))) .stall, lane (g 6) (.fatomO (F 4 6 8 (.two (X 1)))) .ok, lane (g 4) (.gsync (F 0 4 0 (.two (X 0 1)))) (.bad 0x0105),
   lane (g 2) (.tokw (two 0 2 0)) (.bad 0x0105), lane [] (.qfen (two 20 0 0)) (.bad 0x0102), lane (pend 2) (.lnch (two 8 2 0)) .stall, lane (g 4) (.rbar (F 20 4 0 (.two (X 0 0xA)))) (.bad 0x0105),
   lane (none' 3) (.callx (F 8 2 0)) (.bad 0x0201), lane [] (.exit (F 0 1 0)) (.bad 0x0102), lane (g 1) (.gsize (F 8 1 0)) (.bad 0x0105), lane (pend 8) (.tlbfl (F 0 8 0)) .stall,
   lane [] (.setpk (F 8 2 0 (.two (X 0 3)))) (.bad 0x0102), lane (g 8) (.layq (F 20 0 8)) (.bad 0x0105),
   set [] (.shfl (F 60 1 2 (.two (X 24)))) (.bad 0x0102), set (none' 1) (.rdx (F 20 1 0 (.two (X 18)))) (.bad 0x0201), set (pend 1) (.topk (F 9 1 4 (.two (X 22)))) .stall, set (g 4) (.bcast (F 9 1 4 (.two (X 24)))) (.bad 0x0105),
   (blockOf away).crossAway 0]

theorem witness_IssueChecks : ssCheck.all id = true := by decide +kernel

/-- An addition, a comparison and a conversion that have what they need; the addition gives a next state. -/
theorem witness_ResultFrame :
    ([Instr.iadd (F 20 1 2 (.two (X 18))), .fcmp (F 2 4 3 (.two (X 1 2))), .cvt (F 20 1 0 (.two { X 4 1 with rov := 6 }))].all (fun i =>
      laneOnly i && match nums.curSlice with
        | some (bid, _, b, x) => (match laneRow x.mode i with | some (f, e) => readyB e f nums bid b x | none => false)
        | none => false)) = true ∧
    (match exec (.iadd (F 20 1 2 (.two (X 18)))) nums with | .next _ => true | _ => false) = true := by decide +kernel

/-- An addition, as a step from a state whose memory is as it should be. -/
theorem witness_MemoryCanonical : (mem 0 0).memOk = true ∧ (match step ((mem 0 0).withFetchWord 32 0x13C20082) with | .next t => t.memOk | _ => false) = true := by
  decide +kernel



end Sys2Proof.Tests
end

section
/-! SUPPORT. Losses on the rings (R16, R227, R405): what a lost bridge, a lost die and the end of a wrap do in each state of the rings, and the
frame of the error log (R396), whose bytes leave RING and BREAK of every die alone. -/

namespace Sys2Proof

/-- A change of every listed record changes what a read gives. -/
theorem Tab.get?_mapValues {α β : Type} (g : α → β) (t : Tab α) (k : Nat) :
    Tab.get? (t.map (fun p => (p.1, g p.2))) k = (t.get? k).map g := by
  induction t with
  | nil => rfl
  | cons p t ih =>
    rw [List.map_cons, Tab.get?_cons, ih, Tab.get?_cons]
    split <;> rfl

end Sys2Proof

namespace Sys2Proof.Machine

/-! ### A loss, by the state of the rings -/

theorem State.ringLoss_whole {s : State} (h : s.ring = .whole) (r n : Nat) : s.ringLoss r n = { s with ring := .wrapping r n } := by
  rw [State.ringLoss, h]

theorem State.ringLoss_wrapping {s : State} {r b : Nat} (h : s.ring = .wrapping r b) (q n : Nat) :
    s.ringLoss q n = (s.setRing r b).splitRing := by
  rw [State.ringLoss, h]

/-- On wrapped rings only the loss of a die next to the dead bridge leaves the wrap standing. -/
theorem State.ringLoss_wrapped {s : State} (h : s.ring = .wrapped) (q n : Nat) :
    s.ringLoss q n =
      if q = 2 ∧ s.ringWord.1 = 1 ∧ (n = s.ringWord.2 ∨ n = (s.ringWord.2 + 1) % 8) then s.setRing 2 n else s.splitRing := by
  rw [State.ringLoss, h]
  simp [and_assoc]

theorem State.ringLoss_split {s : State} (h : s.ring = .split) (r n : Nat) : s.ringLoss r n = s := by
  rw [State.ringLoss, h]

/-! ### A bridge -/

theorem State.bridgeDead_whole {s : State} (h : s.ring = .whole) (b : Nat) : s.bridgeDead b = false := by
  rw [State.bridgeDead, h]

theorem State.bridgeDead_wrapping {s : State} {r n : Nat} (h : s.ring = .wrapping r n) (b : Nat) : s.bridgeDead b = deadBridge r n b := by
  rw [State.bridgeDead, h]

theorem State.bridgeDead_wrapped {s : State} (h : s.ring = .wrapped) (b : Nat) :
    s.bridgeDead b = deadBridge s.ringWord.1 s.ringWord.2 b := by
  rw [State.bridgeDead, h]

/-- A bridge that is dead already is no loss. -/
theorem State.loseBridge_dead {s : State} {b : Nat} (h : s.bridgeDead b = true) : s.loseBridge b = s := by
  rw [State.loseBridge, h, Bool.or_true, if_pos rfl]

theorem State.loseBridge_live {s : State} {b : Nat} (hb : b < 8) (h : s.bridgeDead b = false) : s.loseBridge b = s.ringLoss 1 b := by
  rw [State.loseBridge, h, if_neg (by simp [hb])]

/-- Rings that are split stay so: no bridge is a loss to them. -/
theorem State.loseBridge_split {s : State} (h : s.ring = .split) (b : Nat) : s.loseBridge b = s := by
  rw [State.loseBridge, State.ringLoss_split h, ite_self]

/-! ### A die -/

/-- A die that is lost already is no loss. -/
theorem State.loseDie_lost {s : State} {d : Nat} (h : (s.die d).lost = true) : s.loseDie d = s := by
  rw [State.loseDie, h, Bool.or_true, if_pos rfl]

/-- A die that works no more. -/
def State.markLost (s : State) (d : Nat) : State := s.modDie d (fun x => { x with lost := true })

theorem State.loseDie_live {s : State} {d : Nat} (hd : d < 8) (h : (s.die d).lost = false) :
    s.loseDie d = (((s.markLost d).ringLoss 2 d).dropLost d).endLost (fun c => c.dies.contains d) := by
  rw [State.loseDie, h, if_neg (by simp [hd])]
  rfl

/-! ### RING and BREAK of the dies -/

theorem State.die_modDie (s : State) (d e : Nat) (f : Die → Die) : (s.modDie d f).die e = if d = e then f (s.die d) else s.die e := by
  rw [State.die, State.modDie, Tab.get?_put]
  split <;> rfl

/-- A surviving die that the package has shows the words that were written. -/
theorem State.setRing_die {s : State} {d : Nat} (hl : (s.die d).lost = false) (hd : s.dies.get? d ≠ none) (r n : Nat) :
    ((s.setRing r n).die d).ring = r ∧ ((s.setRing r n).die d).brk = n := by
  obtain ⟨x, hx⟩ := Option.ne_none_iff_exists'.mp hd
  have hlx : x.lost = false := by simpa [State.die, hx] using hl
  have hw : (s.setRing r n).die d = { x with ring := r, brk := n } := by
    simp [State.die, State.setRing, Tab.get?_mapValues (fun x : Die => if x.lost then x else { x with ring := r, brk := n }), hx, hlx]
  rw [hw]
  exact ⟨rfl, rfl⟩

/-- The state of the rings and the words of every die are as they were; so are the fuses, from which a die that the package does not
list is read. -/
structure RingsKept (s t : State) : Prop where
  ring : t.ring = s.ring
  fuses : t.fuses = s.fuses
  words : ∀ d, (t.die d).ring = (s.die d).ring ∧ (t.die d).brk = (s.die d).brk

namespace RingsKept

theorem refl (s : State) : RingsKept s s := ⟨rfl, rfl, fun _ => ⟨rfl, rfl⟩⟩

theorem trans {s t u : State} (h : RingsKept s t) (k : RingsKept t u) : RingsKept s u where
  ring := k.ring.trans h.ring
  fuses := k.fuses.trans h.fuses
  words d := ⟨(k.words d).1.trans (h.words d).1, (k.words d).2.trans (h.words d).2⟩

theorem foldl {α : Type} {f : State → α → State} (hf : ∀ s a, RingsKept s (f s a)) (l : List α) (s : State) : RingsKept s (l.foldl f s) := by
  induction l generalizing s with
  | nil => exact refl s
  | cons a l ih => exact (hf s a).trans (ih (f s a))

theorem of_dies {s t : State} (hr : t.ring = s.ring) (hf : t.fuses = s.fuses) (hd : t.dies = s.dies) : RingsKept s t :=
  ⟨hr, hf, fun d => by rw [State.die, State.die, hd, hf]; exact ⟨rfl, rfl⟩⟩

theorem modDie (s : State) (d : Nat) {f : Die → Die} (hf : ∀ x, (f x).ring = x.ring ∧ (f x).brk = x.brk) : RingsKept s (s.modDie d f) := by
  refine ⟨rfl, rfl, fun e => ?_⟩
  rw [State.die_modDie]
  split
  case isTrue h => subst h; exact hf _
  case isFalse => exact ⟨rfl, rfl⟩

/-- A change of every die at once. -/
theorem mapDies {s t : State} (g : Die → Die) (hg : ∀ x, (g x).ring = x.ring ∧ (g x).brk = x.brk) (hr : t.ring = s.ring)
    (hf : t.fuses = s.fuses) (hd : t.dies = s.dies.map (fun p => (p.1, g p.2))) : RingsKept s t := by
  refine ⟨hr, hf, fun d => ?_⟩
  rw [State.die, State.die, hd, hf, Tab.get?_mapValues]
  cases s.dies.get? d with
  | none => exact ⟨rfl, rfl⟩
  | some x => exact hg x

theorem modLine (s : State) (d pa : Nat) (f : BayLine → BayLine) : RingsKept s (s.modLine d pa f) := modDie s d (fun _ => ⟨rfl, rfl⟩)

theorem modBlock (s : State) (b : Nat) (f : Block → Block) : RingsKept s (s.modBlock b f) :=
  of_dies (State.modBlock_ring ..) (State.modBlock_fuses ..) (State.modBlock_dies ..)

theorem modCtx (s : State) (c : Nat) (f : Ctx → Ctx) : RingsKept s (s.modCtx c f) :=
  of_dies (State.modCtx_ring ..) (State.modCtx_fuses ..) (State.modCtx_dies ..)

/-! ### Lines and guests (R181 to R183) -/

theorem dropGuests (s : State) (d : Nat) (p : Guest → Bool) : RingsKept s (s.dropGuests d p) := by
  have hdropped := modDie s d (f := fun x => { x with guests := x.guests.filter (fun g => !p g) }) (fun _ => ⟨rfl, rfl⟩)
  refine hdropped.trans (foldl (fun s g => ?_) _ _)
  split
  · exact modLine ..
  · exact refl s

theorem evictLine (s : State) (d line : Nat) : RingsKept s (s.evictLine d line) :=
  (foldl (fun s _ => dropGuests s _ _) _ s).trans (modLine ..)

theorem makeWay (s : State) (d bay set : Nat) : RingsKept s (s.makeWay d bay set).1 := by
  unfold State.makeWay
  simp only
  split
  · exact refl s
  · split
    · exact refl s
    · exact evictLine ..
    · exact dropGuests ..
    · split
      · exact evictLine ..
      · exact dropGuests ..
    · exact refl s

theorem wayFor (s : State) (d pa : Nat) : RingsKept s (s.wayFor d pa).1 := by
  unfold State.wayFor
  split
  · exact refl s
  · exact makeWay ..

theorem touchLine (s : State) (d pa n : Nat) (write alloc : Bool) : RingsKept s (s.touchLine d pa n write alloc) := by
  unfold State.touchLine
  simp only
  split
  · exact modLine ..
  · split
    · exact refl s
    · have hw := wayFor s d pa
      split
      case h_1 s1 h => rw [h] at hw; exact hw.trans (modLine ..)
      case h_2 s1 h => rw [h] at hw; exact hw

/-! ### Monitors (R248) -/

theorem freeMonitors (s : State) (bid : Nat) : RingsKept s (s.freeMonitors bid) :=
  mapDies (fun x => { x with monitors := x.monitors.filter (fun m => m.2.bid != bid) }) (fun _ => ⟨rfl, rfl⟩) rfl rfl rfl

theorem toRun (s : State) : RingsKept s s.toRun := by
  unfold State.toRun
  split
  · exact refl s
  · exact mapDies (fun x => { x with islands := [2, 2, 2, 2, 2] }) (fun _ => ⟨rfl, rfl⟩) rfl rfl rfl

theorem wakeDormant (s : State) (bid : Nat) : RingsKept s (s.wakeDormant bid) := by
  unfold State.wakeDormant
  split
  · exact refl s
  · split
    · exact ((modBlock ..).trans (freeMonitors ..)).trans (modDie _ _ (fun _ => ⟨rfl, rfl⟩))
    · exact refl s

theorem fireMonitors (s : State) (d pa n : Nat) : RingsKept s (s.fireMonitors d pa n) := by
  refine RingsKept.trans ?_ (foldl (fun s _ => wakeDormant s _) _ _)
  have hfreed := fun p : Nat × Monitor → Bool =>
    modDie s d (f := fun x => { x with monitors := x.monitors.filter p }) (fun _ => ⟨rfl, rfl⟩)
  split
  · exact hfreed _
  · exact (hfreed _).trans (toRun _)

/-! ### Writes at the home, and the error log (R223, R396) -/

theorem applyWrite (s : State) (d pa : Nat) (data : List Byte) (die core req : Nat) (alloc : Bool) :
    RingsKept s (s.applyWrite d pa data die core req alloc).1 := by
  have hbytes : RingsKept s ((s.physWrite d pa data).clearPoison d pa data.length) := of_dies rfl rfl rfl
  have htouched := hbytes.trans (touchLine _ d pa data.length true alloc)
  unfold State.applyWrite
  simp only
  refine RingsKept.trans ?_ (fireMonitors ..)
  split
  · exact htouched.trans (modLine ..)
  · refine RingsKept.trans (RingsKept.trans ?line (modDie _ d ?clock)) (foldl ?message _ _)
    case line => exact htouched.trans (modLine ..)
    case clock => exact fun _ => ⟨rfl, rfl⟩
    case message => exact fun _ _ => of_dies rfl rfl rfl

theorem storeLines (alloc : Bool) (fuel : Nat) (s : State) (d pa : Nat) (data : List Byte) :
    RingsKept s (State.storeLines alloc fuel s d pa data) := by
  induction fuel generalizing s pa data with
  | zero => exact refl s
  | succ fuel ih =>
    unfold State.storeLines
    split
    · exact refl s
    · exact (applyWrite ..).trans (ih ..)

theorem store (s : State) (d pa : Nat) (data : List Byte) : RingsKept s (s.store d pa data) := storeLines ..

theorem log (s : State) (ctx : Nat) (e : LogRec) : RingsKept s (s.log ctx e) := by
  unfold State.log
  split
  · exact refl s
  · exact ((store ..).trans (store ..)).trans (modCtx ..)

end RingsKept

/-! ### The end of a wrap -/

/-- The rings wrapped, RING and BREAK written on the surviving dies, and nothing logged yet. -/
def State.wrapWords (s : State) (r n : Nat) : State := { s with ring := .wrapped }.setRing r n

/-- Every context resident on a surviving die, with its first die. -/
def State.wrapLoggers (s : State) : List (Nat × Nat) := ((s.liveDies.flatMap s.residentCtxs).map (fun c => (c.1, c.2.first))).dedup

/-- The log entry of a wrap: BRIDGE_LOST or DIE_LOST, and where the rings are broken. -/
def wrapRecord (r n first : Nat) : LogRec := { cause := if r = 1 then 0x0902 else 0x0903, die := first, flags := 8, addr := n }

theorem State.wrapDone_wrapping {s : State} {r n : Nat} (h : s.ring = .wrapping r n) :
    s.wrapDone = (s.wrapWords r n).wrapLoggers.foldl (fun t c => t.log c.1 (wrapRecord r n c.2)) (s.wrapWords r n) := by
  rw [State.wrapDone, h]
  rfl

theorem State.wrapDone_of_not_wrapping {s : State} (h : ∀ r n, s.ring ≠ .wrapping r n) : s.wrapDone = s := by
  rw [State.wrapDone]
  split
  case h_1 r n hr => exact absurd hr (h r n)
  case h_2 => rfl

/-- The log entries of a wrap leave what the wrap has written. -/
theorem State.wrapDone_ringsKept {s : State} {r n : Nat} (h : s.ring = .wrapping r n) : RingsKept (s.wrapWords r n) s.wrapDone := by
  rw [State.wrapDone_wrapping h]
  exact RingsKept.foldl (fun _ _ => RingsKept.log ..) _ _

theorem State.wrapDone_ring {s : State} {r n : Nat} (h : s.ring = .wrapping r n) : s.wrapDone.ring = .wrapped :=
  (State.wrapDone_ringsKept h).ring

theorem State.wrapDone_die {s : State} {r n d : Nat} (h : s.ring = .wrapping r n) (hl : (s.die d).lost = false)
    (hd : s.dies.get? d ≠ none) : (s.wrapDone.die d).ring = r ∧ (s.wrapDone.die d).brk = n := by
  obtain ⟨hr, hb⟩ := State.setRing_die (s := { s with ring := .wrapped }) hl hd r n
  obtain ⟨kr, kb⟩ := (State.wrapDone_ringsKept h).words d
  exact ⟨kr.trans hr, kb.trans hb⟩

end Sys2Proof.Machine
end

section
/-! Losses of bridges and dies, and the completion of a wrap (R16, R26, R227, R405). -/

namespace Sys2Proof

open Sys2Proof.Machine

/-- Settles O49: the state of the rings decides what a loss does, and the log of a wrap leaves RING and BREAK alone. -/
theorem packageEvents : Obligations.PackageEvents := by
  unfold Obligations.PackageEvents
  intro words ends split without gone dies
  simp only [exec_bridgeLost, exec_dieLost, exec_wrapComplete, execBridgeLost, execDieLost, execWrapComplete,
    Host.Outcome.next.injEq]
  refine ⟨fun s b => ⟨_, rfl⟩, fun s d => ⟨_, rfl⟩, fun s => ⟨_, rfl⟩, ?bridgeWhole, ?bridgeWrapping, ?bridgeWrappingDead, ?bridgeWrapped,
    ?bridgeWrappedDead, fun s b h => State.loseBridge_split h b, ?dieWhole, ?dieWrapping, ?dieWrapped, ?dieSplit,
    fun s d h => State.loseDie_lost h, ?wrap, fun s h => State.wrapDone_of_not_wrapping h⟩
  case bridgeWhole =>
    intro s b hb h
    rw [State.loseBridge_live hb (State.bridgeDead_whole h b), State.ringLoss_whole h]
  case bridgeWrapping =>
    intro s b r n hb h hlive
    rw [State.loseBridge_live hb ((State.bridgeDead_wrapping h b).trans hlive), State.ringLoss_wrapping h]
    rfl
  case bridgeWrappingDead =>
    intro s b r n h hdead
    exact State.loseBridge_dead ((State.bridgeDead_wrapping h b).trans hdead)
  case bridgeWrapped =>
    intro s b hb h hlive
    rw [State.loseBridge_live hb ((State.bridgeDead_wrapped h b).trans hlive), State.ringLoss_wrapped h, if_neg (by omega)]
    rfl
  case bridgeWrappedDead =>
    intro s b h hdead
    exact State.loseBridge_dead ((State.bridgeDead_wrapped h b).trans hdead)
  case dieWhole =>
    rintro s d ⟨hd, hl⟩ h
    rw [State.loseDie_live hd hl, State.ringLoss_whole (s := s.markLost d) h]
    rfl
  case dieWrapping =>
    rintro s d r n ⟨hd, hl⟩ h
    rw [State.loseDie_live hd hl, State.ringLoss_wrapping (s := s.markLost d) h]
    rfl
  case dieWrapped =>
    rintro s d r n ⟨hd, hl⟩ h hw
    change (s.markLost d).ringWord = (r, n) at hw
    rw [State.loseDie_live hd hl, State.ringLoss_wrapped (s := s.markLost d) h, hw]
    refine ⟨fun hnear => ?_, fun hfar => ?_⟩
    · rw [if_pos ⟨rfl, hnear⟩]; rfl
    · rw [if_neg (fun hnear => hfar hnear.2)]; rfl
  case dieSplit =>
    rintro s d ⟨hd, hl⟩ h
    rw [State.loseDie_live hd hl, State.ringLoss_split (s := s.markLost d) h]
    rfl
  case wrap =>
    intro s r n h
    exact ⟨_, rfl, State.wrapDone_ring h, fun d hl hd => State.wrapDone_die h hl hd, State.wrapDone_wrapping h⟩

end Sys2Proof
end

section
/-! SUPPORT. Words as their bytes and as their fields (R1, R27, R30, R31), and the opcode map (R48). -/

namespace Sys2Proof

/-! ### Bytes and words -/

/-- A word is its four bytes, the last one highest (R1). -/
theorem takeWord_wordBytes (w : Word) (r : List Byte) : takeWord (wordBytes w ++ r) = some (w, r) := by
  have h : w.extractLsb' 24 8 ++ w.extractLsb' 16 8 ++ w.extractLsb' 8 8 ++ w.extractLsb' 0 8 = w := by
    simp (disch := rfl) only [BitVec.extractLsb'_append_extractLsb'_eq_extractLsb']
    exact BitVec.extractLsb'_eq_self
  simp only [wordBytes, List.cons_append, List.nil_append, takeWord, h]

/-- Bytes that begin with a word begin with its four bytes (R1). -/
theorem eq_wordBytes_of_takeWord {bs r : List Byte} {w : Word} (h : takeWord bs = some (w, r)) : bs = wordBytes w ++ r := by
  match bs, h with
  | a :: b :: c :: d :: r, rfl =>
    simp (disch := omega) only [wordBytes, BitVec.extractLsb'_append_eq_of_add_le, BitVec.extractLsb'_append_eq_of_le,
      BitVec.extractLsb'_eq_self, List.cons_append, List.nil_append, Nat.reduceSub]

/-! ### Words and fields -/

theorem ofBool_getLsbD {w : Nat} (x : BitVec w) (i : Nat) : BitVec.ofBool (x.getLsbD i) = x.extractLsb' i 1 := by
  ext j hj
  simp [show j = 0 by omega]

theorem Fields.len_le (f : Fields) : f.len ≤ 3 := by
  unfold Fields.len; split <;> decide

/-- A base word is made of its own fields (R30). -/
theorem baseWord_fieldsOf {w : Word} {t : Tail} (h : (fieldsOf w t).len - 1 = lenOf w) :
    baseWord (opcOf w) (fieldsOf w t) = w := by
  unfold baseWord
  rw [h]
  simp (disch := rfl) only [lenOf, opcOf, BitVec.ofNat_toNat, BitVec.setWidth_eq, fieldsOf, ofBool_getLsbD,
    BitVec.extractLsb'_append_extractLsb'_eq_extractLsb']
  exact BitVec.extractLsb'_eq_self

/-- An extension word is made of its own fields (R31). -/
theorem extWord_extOf (w : Word) : extWord (extOf w) = w := by
  unfold extWord extOf
  simp (disch := rfl) only [ofBool_getLsbD, BitVec.extractLsb'_append_extractLsb'_eq_extractLsb']
  exact BitVec.extractLsb'_eq_self

@[simp] theorem fieldsOf_baseWord (opc : Nat) (f : Fields) : fieldsOf (baseWord opc f) f.tail = f := by
  simp (disch := omega) only [fieldsOf, baseWord, BitVec.extractLsb'_append_eq_of_add_le, BitVec.extractLsb'_append_eq_of_le,
    BitVec.extractLsb'_eq_self, BitVec.getLsbD_append, BitVec.getLsbD_ofBool, Nat.reduceSub, Nat.reduceLT, if_true, if_false,
    decide_true, Bool.true_and]

@[simp] theorem fieldsOf_tail (w : Word) (t : Tail) : (fieldsOf w t).tail = t := rfl

@[simp] theorem lenOf_baseWord (opc : Nat) (f : Fields) : lenOf (baseWord opc f) = f.len - 1 := by
  have h : lenOf (baseWord opc f) = (f.len - 1) % 2 ^ 2 := by
    simp (disch := omega) only [lenOf, baseWord, BitVec.extractLsb'_append_eq_of_le, BitVec.extractLsb'_eq_self,
      BitVec.toNat_ofNat, Nat.reduceSub]
  have := f.len_le
  omega

theorem opcOf_baseWord {opc : Nat} (f : Fields) (h : opc < 256) : opcOf (baseWord opc f) = opc := by
  have h' : opcOf (baseWord opc f) = opc % 2 ^ 8 := by
    simp (disch := omega) only [opcOf, baseWord, BitVec.extractLsb'_append_eq_of_add_le, BitVec.extractLsb'_append_eq_of_le,
      BitVec.extractLsb'_eq_self, BitVec.toNat_ofNat, Nat.reduceSub]
  omega

@[simp] theorem extOf_extWord (e : Ext) : extOf (extWord e) = e := by
  simp (disch := omega) only [extOf, extWord, BitVec.extractLsb'_append_eq_of_add_le, BitVec.extractLsb'_append_eq_of_le,
    BitVec.extractLsb'_eq_self, BitVec.getLsbD_append, BitVec.getLsbD_ofBool, Nat.reduceSub, Nat.reduceLT, if_true, if_false,
    decide_true, Bool.true_and]

/-! ### The opcode map (R48) -/

/-- The entries of a list of opcodes that begins at `n` are instructions with those opcodes and the fields that they are given. -/
def AgreesFrom (f : Fields) : Nat → OpRow → Prop
  | _, [] => True
  | n, none :: r => AgreesFrom f (n + 1) r
  | n, some g :: r => (∃ drop, (g f).parts? = some (n, drop, f)) ∧ AgreesFrom f (n + 1) r

theorem AgreesFrom.entry {f : Fields} {n l : Nat} {r : OpRow} {g : Fields → Instr} (h : AgreesFrom f n r) (hg : r.getD l none = some g) :
    ∃ drop, (g f).parts? = some (n + l, drop, f) := by
  induction r generalizing n l with
  | nil => simp at hg
  | cons a r ih =>
    cases l with
    | zero =>
      obtain rfl : a = some g := by simpa using hg
      exact h.1
    | succ l =>
      have hr : AgreesFrom f (n + 1) r := by cases a with
        | none => exact h
        | some _ => exact h.2
      rw [show n + (l + 1) = n + 1 + l by omega]
      exact ih hr (by simpa using hg)

theorem parts?_kregForm (f : Fields) : ∃ drop, (kregForm f).parts? = some (0xD1, drop, f) := by
  unfold kregForm
  split
  · exact ⟨_, rfl⟩
  · exact ⟨_, rfl⟩

/-- Each row of R48 stands at its own sixteen opcodes. -/
theorem opRows_agree (f : Fields) (h : Nat) : AgreesFrom f (16 * h) (opRows.getD h []) := by
  match h with
  | 0 => simp [opRows, opRow0, AgreesFrom, Instr.parts?]
  | 1 => simp [opRows, opRow1, AgreesFrom, Instr.parts?]
  | 2 => simp [opRows, opRow2, AgreesFrom, Instr.parts?]
  | 3 => simp [opRows, opRow3, AgreesFrom, Instr.parts?]
  | 4 => simp [opRows, opRow4, AgreesFrom, Instr.parts?]
  | 5 => simp [opRows, opRow5, AgreesFrom, Instr.parts?]
  | 6 => simp [opRows, opRow6, AgreesFrom, Instr.parts?]
  | 7 => simp [opRows, opRow7, AgreesFrom, Instr.parts?]
  | 8 => simp [opRows, opRow8, AgreesFrom, Instr.parts?]
  | 9 => simp [opRows, opRow9, AgreesFrom]
  | 10 => simp [opRows, opRowA, AgreesFrom, Instr.parts?]
  | 11 => simp [opRows, opRowB, AgreesFrom, Instr.parts?]
  | 12 => simp [opRows, opRowC, AgreesFrom, Instr.parts?]
  | 13 =>
    refine ⟨⟨_, rfl⟩, parts?_kregForm f, ⟨_, rfl⟩, ?_⟩
    simp [AgreesFrom]
  | 14 => simp [opRows, opRowE, AgreesFrom, Instr.parts?]
  | 15 => simp [opRows, opRowF, AgreesFrom, Instr.parts?]
  | h + 16 => simp [opRows, AgreesFrom]

/-- What stands in the map under an opcode has that opcode and its fields. -/
theorem parts?_of_instrOf {opc : Nat} {f : Fields} {i : Instr} (h : instrOf opc f = some i) :
    ∃ drop, i.parts? = some (opc, drop, f) := by
  unfold instrOf at h
  split at h
  · next g hg =>
    obtain rfl : g f = i := by simpa using h
    have := (opRows_agree f (opc / 16)).entry hg
    rwa [Nat.div_add_mod] at this
  · cases h

/-- An instruction of a slice stands in the map under its opcode, if its form bit says which of two forms it is (R335). -/
theorem instrOf_of_parts? {i : Instr} {opc : Nat} {drop : Option Bool} {f : Fields} (h : i.parts? = some (opc, drop, f))
    (hd : ∀ b, drop = some b → f.ext.md.getLsbD 0 = b) : opc < 256 ∧ instrOf opc f = some i := by
  cases i <;> simp only [Instr.parts?, Option.some.injEq, Prod.mk.injEq, reduceCtorEq] at h
  all_goals obtain ⟨rfl, rfl, rfl⟩ := h
  case kreg =>
    exact ⟨by decide, congrArg some (if_neg (ne_true_of_eq_false (hd false rfl)))⟩
  case kregDrop =>
    exact ⟨by decide, congrArg some (if_pos (hd true rfl))⟩
  all_goals exact ⟨by decide, rfl⟩

theorem form_of_wf {i : Instr} {opc : Nat} {drop : Option Bool} {f : Fields} (hw : i.wf = true)
    (h : i.parts? = some (opc, drop, f)) : ∀ b, drop = some b → f.ext.md.getLsbD 0 = b := by
  rintro b rfl
  simp only [Instr.wf, Instr.failed, h, Fields.failed, List.isEmpty_iff, List.append_eq_nil_iff] at hw
  simpa using hw.2

/-! ### Decoding -/

/-- The bytes of fields under an opcode decode to what the opcode map makes of them (R27). -/
theorem decode_words {opc : Nat} {f : Fields} {i : Instr} (hc : opc < 256) (hi : instrOf opc f = some i) (rest : List Byte) :
    decode ((f.words opc).flatMap wordBytes ++ rest) = .ok (i, rest) := by
  have hb (t : Tail) (ht : f.tail = t) : decodeWith (baseWord opc f) t = .ok i := by
    subst ht
    simp only [decodeWith, opcOf_baseWord f hc, fieldsOf_baseWord, hi]
  unfold Fields.words decode
  cases ht : f.tail with
  | one =>
    have hl : f.len = 1 := by simp only [Fields.len, ht]
    simp [takeWord_wordBytes, hl, hb _ ht, Except.map]
  | two e =>
    have hl : f.len = 2 := by simp only [Fields.len, ht]
    simp [takeWord_wordBytes, hl, hb _ ht, Except.map]
  | three e l =>
    have hl : f.len = 3 := by simp only [Fields.len, ht]
    simp [takeWord_wordBytes, hl, hb _ ht, Except.map]

theorem encodeBytes_of_parts? {i : Instr} {opc : Nat} {drop : Option Bool} {f : Fields} (h : i.parts? = some (opc, drop, f)) :
    encodeBytes i = (f.words opc).flatMap wordBytes := by
  simp only [encodeBytes, encode, h]

/-- What a base word and its tail decode to has the bytes of the fields of that word and tail, and the base word is made of them. -/
theorem encodeBytes_of_decodeWith {w : Word} {t : Tail} {i : Instr} (h : decodeWith w t = .ok i)
    (hl : (fieldsOf w t).len - 1 = lenOf w) :
    i.parts? ≠ none ∧ encodeBytes i = ((fieldsOf w t).words (opcOf w)).flatMap wordBytes ∧ baseWord (opcOf w) (fieldsOf w t) = w := by
  unfold decodeWith at h
  cases hj : instrOf (opcOf w) (fieldsOf w t) with
  | none => simp only [hj, reduceCtorEq] at h
  | some j =>
    obtain rfl : j = i := by simpa only [hj, Except.ok.injEq] using h
    obtain ⟨drop, hp⟩ := parts?_of_instrOf hj
    exact ⟨by simp [hp], encodeBytes_of_parts? hp, baseWord_fieldsOf hl⟩

theorem map_pair_eq_ok {x : Except Reject Instr} {r rest : List Byte} {i : Instr} (h : x.map (fun j => (j, r)) = .ok (i, rest)) :
    x = .ok i ∧ r = rest := by
  cases x with
  | error e => cases h
  | ok j => cases h; exact ⟨rfl, rfl⟩

/-- Bytes that decode begin with the bytes of what they decode to. -/
theorem bytes_of_decode {bs rest : List Byte} {i : Instr} (h : decode bs = .ok (i, rest)) :
    i.parts? ≠ none ∧ bs = encodeBytes i ++ rest := by
  unfold decode at h
  split at h
  · cases h
  next w r0 h0 =>
  obtain rfl := eq_wordBytes_of_takeWord h0
  split at h
  case h_1 hl =>
    obtain ⟨hd, rfl⟩ := map_pair_eq_ok h
    obtain ⟨hp, he, hw⟩ := encodeBytes_of_decodeWith hd hl.symm
    exact ⟨hp, by simp [he, Fields.words, hw]⟩
  case h_2 hl =>
    split at h
    · cases h
    next e r1 h1 =>
    obtain rfl := eq_wordBytes_of_takeWord h1
    obtain ⟨hd, rfl⟩ := map_pair_eq_ok h
    obtain ⟨hp, he, hw⟩ := encodeBytes_of_decodeWith hd hl.symm
    exact ⟨hp, by simp [he, Fields.words, hw, extWord_extOf]⟩
  case h_3 hl =>
    split at h
    · cases h
    next e r1 h1 =>
    obtain rfl := eq_wordBytes_of_takeWord h1
    split at h
    · cases h
    next l r2 h2 =>
    obtain rfl := eq_wordBytes_of_takeWord h2
    obtain ⟨hd, rfl⟩ := map_pair_eq_ok h
    obtain ⟨hp, he, hw⟩ := encodeBytes_of_decodeWith hd hl.symm
    exact ⟨hp, by simp [he, Fields.words, hw, extWord_extOf]⟩
  case h_4 => cases h

end Sys2Proof
end

section
/-! Decoding and encoding (R27 to R31, R48, R335). -/

namespace Sys2Proof

/-- Settles O56: an instruction's words are its fields side by side, and the opcode map is the inverse of `Instr.parts?`. -/
theorem encodeDecode : Obligations.EncodeDecode := by
  unfold Obligations.EncodeDecode
  refine ⟨fun i rest hw hp => ?_, fun bs i rest => bytes_of_decode⟩
  obtain ⟨⟨opc, drop, f⟩, hp⟩ := Option.ne_none_iff_exists'.mp hp
  obtain ⟨hc, hi⟩ := instrOf_of_parts? hp (form_of_wf hw hp)
  rw [encodeBytes_of_parts? hp]
  exact decode_words hc hi rest

end Sys2Proof
end

section
/-! The spec's worked words (R27 to R31, R48, R335). -/

namespace Sys2Proof

/-- An unassigned opcode is no instruction at any of the lengths (R52 step 4). -/
theorem decodeWords_unassigned {w : Word} (e l : Word) (hl : lenOf w ≠ 3) (h : ∀ f, instrOf (opcOf w) f = none) :
    decodeWords w e l = .error .opcode := by
  have hlt : lenOf w < 4 := (w.extractLsb' 30 2).isLt
  have hd (t : Tail) : decodeWith w t = .error .opcode := by simp only [decodeWith, h]
  match hw : lenOf w with
  | 0 => simp only [decodeWords, hw, hd]
  | 1 => simp only [decodeWords, hw, hd]
  | 2 => simp only [decodeWords, hw, hd]
  | 3 => exact absurd hw hl
  | n + 4 => omega

/-- Settles O55 (its plain name is the decoder's): the worked words by evaluation; an unassigned opcode has no entry in the opcode map. -/
theorem decodeWords_workedEncodings : Obligations.DecodeWords := by
  unfold Obligations.DecodeWords
  refine ⟨rfl, rfl, rfl, rfl, rfl, rfl, rfl, rfl, rfl, rfl, rfl, rfl, rfl, ?length, ?opcode⟩
  case length =>
    intro w e l hw
    simp only [decodeWords, hw]
  case opcode =>
    intro w e l hw hl
    exact decodeWords_unassigned e l hl (fun f => by rw [hw]; rfl)

end Sys2Proof
end

section
/-! SUPPORT. The fetch of an instruction, word by word (R27 to R29, R52 steps 1 to 4). -/

namespace Sys2Proof.Machine

/-- A word that is there is followed by the words after it. -/
theorem State.fetchTail_word {b : Block} {pc a : Dword} {n k : Nat} {s s1 s2 : State} {w : Word} {ws : List Word}
    (ha : pc + BitVec.ofNat 64 (4 * k) = a) (h : s.fetchWord b a = (s1, .word w))
    (ht : State.fetchTail b pc n (k + 1) s1 = (s2, .ok ws)) : State.fetchTail b pc (n + 1) k s = (s2, .ok (w :: ws)) := by
  subst ha
  simp only [State.fetchTail, h, ht]

/-- A word that faults ends the fetch with its own address (R29). -/
theorem State.fetchTail_fault {b : Block} {pc a : Dword} {k : Nat} {s s1 : State} {c : Half} (n : Nat)
    (ha : pc + BitVec.ofNat 64 (4 * k) = a) (h : s.fetchWord b a = (s1, .fault c)) :
    State.fetchTail b pc (n + 1) k s = (s1, .error (.fault c a)) := by
  subst ha
  simp only [State.fetchTail, h]

/-- What a fetch gives whose words are all there: what the decoder makes of them (R52 step 4). -/
def FetchRes.ofDecoded (w : Word) : Except Reject Instr → FetchRes
  | .ok i => .run i
  | .error _ => .unassigned w

section
variable {b : Block} {pc : Dword} {s s1 s2 : State} {w : Word}

theorem State.fetchBase (h : s.fetchWord b pc = (s1, .word w)) : State.fetchTail b pc 1 0 s = (s1, .ok [w]) :=
  State.fetchTail_word (by simp) h rfl

/-- A base word without a length is no instruction (R28). -/
theorem State.fetchAt_noLength (h : s.fetchWord b pc = (s1, .word w)) (hl : lenOf w = 3) : s.fetchAt b pc = (s1, .unassigned w) := by
  simp only [State.fetchAt, State.fetchBase h, List.headD_cons, hl, if_true]

/-- A fetch whose words are all there. -/
theorem State.fetchAt_words {ts : List Word} (h : s.fetchWord b pc = (s1, .word w)) (hl : lenOf w ≠ 3)
    (ht : State.fetchTail b pc (lenOf w) 1 s1 = (s2, .ok ts)) :
    s.fetchAt b pc = (s2, .ofDecoded w (decodeWords w (ts.getD 0 0) (ts.getD 1 0))) := by
  simp only [State.fetchAt, State.fetchBase h, List.headD_cons, hl, if_false, ht]
  cases decodeWords w (ts.getD 0 0) (ts.getD 1 0) <;> rfl

/-- A fetch that stops at a word after the base word. -/
theorem State.fetchAt_stops {r : FetchRes} (h : s.fetchWord b pc = (s1, .word w)) (hl : lenOf w ≠ 3)
    (ht : State.fetchTail b pc (lenOf w) 1 s1 = (s2, .error r)) : s.fetchAt b pc = (s2, r) := by
  simp only [State.fetchAt, State.fetchBase h, List.headD_cons, hl, if_false, ht]

end

end Sys2Proof.Machine
end

section
/-! What a fetch gives, and the traps of words that are no instruction (R28, R29, R52). -/

namespace Sys2Proof

open Sys2Proof.Machine

theorem exec_unassignedOpcode_trap {s : State} {bid sid : Nat} {b : Block} {x : Slice} (h : Executing s bid sid b x) (w : Word) :
    exec (.unassignedOpcode w) s = .next (s.trap bid sid 0x0101 0 x.mask (if lenOf w = 3 then 1 else lenOf w + 1) false) := by
  rw [exec_unassignedOpcode, execUnassignedOpcode, show s.curSlice = _ from h]
  rfl

theorem exec_fetchFault_trap {s : State} {bid sid : Nat} {b : Block} {x : Slice} (h : Executing s bid sid b x) (c : Half) (a : Dword) :
    exec (.fetchFault c a) s = .next (s.trap bid sid c a x.mask (s.lenAt b x.pc) false) := by
  rw [exec_fetchFault, execFetchFault, show s.curSlice = _ from h]

/-- Settles O35: the fetch reads the base word, then the words that its length code counts, one by one. -/
theorem fetchOutcomes : Obligations.FetchOutcomes := by
  unfold Obligations.FetchOutcomes
  refine ⟨fun s bid sid b x h => ⟨exec_unassignedOpcode_trap h, exec_fetchFault_trap h⟩, ?_⟩
  intro s s1 b pc w hw
  refine ⟨State.fetchAt_noLength hw, ?one, ?two, ?three, ?tailFaults⟩
  case one =>
    intro hl
    rw [State.fetchAt_words (s2 := s1) (ts := []) hw (by omega) (by rw [hl]; rfl), List.getD_nil, List.getD_nil]
    cases decodeWords w 0 0 <;> rfl
  case two =>
    intro s2 x hl hx
    rw [State.fetchAt_words (ts := [x]) hw (by omega) (by rw [hl]; exact State.fetchTail_word rfl hx rfl)]
    show (s2, FetchRes.ofDecoded w (decodeWords w x 0)) = _
    cases decodeWords w x 0 <;> rfl
  case three =>
    intro s2 s3 x y hl hx hy
    have ht := State.fetchTail_word (n := 1) (k := 1) rfl hx (State.fetchTail_word rfl hy rfl)
    rw [State.fetchAt_words (ts := [x, y]) hw (by omega) (by rw [hl]; exact ht)]
    show (s3, FetchRes.ofDecoded w (decodeWords w x y)) = _
    cases decodeWords w x y <;> rfl
  case tailFaults =>
    intro s2 c hpos hlt hc
    obtain ⟨n, hn⟩ : ∃ n, lenOf w = n + 1 := ⟨lenOf w - 1, by omega⟩
    exact State.fetchAt_stops hw (by omega) (by rw [hn]; exact State.fetchTail_fault n rfl hc)

end Sys2Proof
end

section
/-! SUPPORT. Instructions that release registers beside their last-use ones (R93, R107, R110): the fills of pending registers go on
draining, and the rest is as for any completion. -/

namespace Sys2Proof.Machine

/-- A slice whose registers `ks` have been given up. -/
def Slice.givenUp (x : Slice) (ks : List Nat) : Slice := { x with regs := (ks.foldl (fun y k => y.setReg k .empty) x).regs }

theorem Slice.givenUp_reg (x : Slice) (ks : List Nat) (k : Nat) : (x.givenUp ks).reg k = if k ∈ ks then .empty else x.reg k := by
  rw [← Slice.reg_releases]
  exact Slice.reg_of_regs rfl k

/-- Fills that go on draining leave the slices as they are. -/
theorem foldl_fills_blocks (g : Nat → Nat × Fill → Nat × Fill) (ks : List Nat) (s : State) :
    (ks.foldl (fun s k => { s with fills := s.fills.map (g k) }) s).blocks = s.blocks := by
  induction ks generalizing s with
  | nil => rfl
  | cons k ks ih => exact ih _

/-- The slice whose registers are given up, where none of them stands spilled. -/
theorem State.slice?_dropRegs {s : State} {bid sid : Nat} {x : Slice} {ks : List Nat} (hx : s.slice? bid sid = some x)
    (hs : ∀ k ∈ x.spilled, k ∉ ks) : (s.dropRegs bid sid ks).slice? bid sid = some (x.givenUp ks) := by
  have hsp : x.spilled.filter (fun k => !ks.contains k) = x.spilled := by
    rw [List.filter_eq_self]
    intro k hk
    simpa using hs k hk
  unfold State.dropRegs
  simp only [hx]
  rw [State.slice?_of_blocks (foldl_fills_blocks _ _ _), State.slice?_modSlice_self, hx, Option.map_some, hsp, Slice.releases_eq]
  rfl

theorem Slice.need_le_add_gone (x y : Slice) (gone : List Nat) : x.need y gone ≤ x.need y [] + 4 * gone.length := by
  have h (ks : List Nat) : (ks.map (fun k => if (x.reg k).isPend then (x.reg k).words else 0)).sum ≤ 4 * ks.length := by
    induction ks with
    | nil => simp
    | cons k ks ih =>
      have := RegVal.words_le (x.reg k)
      simp only [List.map_cons, List.sum_cons, List.length_cons]
      split <;> omega
  have := h gone
  unfold Slice.need
  simp only [List.map_nil, List.sum_nil]
  omega

/-- An instruction whose words have been taken completes, and gives up the registers `o.rels`. -/
theorem completeNow_rels {s : State} {bid sid : Nat} {x : Slice} (opc : Nat) (f : Fields) (rels : List Nat) (sticky : Bool) (o : Out)
    (hx : s.slice? bid sid = some x) (hs : ∀ k ∈ x.spilled, (x.reg k).isPend = false) (hf : ∀ s r, o.fix s r = r) :
    let ks := o.rels.filter (fun k => (x.reg k).isPend)
    completeNow opc f bid sid rels sticky o s = o.eff (((s.dropRegs bid sid ks).modSlice bid sid
      (fun _ => (x.givenUp ks).finish opc f (rels ++ o.rels) sticky o)).leaveWaiters bid sid) := by
  intro ks
  have hd : (s.dropRegs bid sid ks).slice? bid sid = some (x.givenUp ks) :=
    State.slice?_dropRegs hx (fun k hk hm => by simp [ks, hs k hk] at hm)
  have hst := Slice.afterWrites_sticky (x.givenUp ks) f.n (rels ++ o.rels) o o.regs
  unfold completeNow
  simp only [hx, hf, State.modSlice_modSlice]
  rw [State.modSlice_eq _ _ _ _ hd]
  unfold Slice.finish
  rw [← hst]

/-- An instruction whose words are there and whose destinations are not pending completes, and gives up the registers `o.rels`. -/
theorem complete_rels {s : State} {bid sid : Nat} {x : Slice} (opc : Nat) (f : Fields) (rels : List Nat) (sticky : Bool) (o : Out)
    (hx : s.slice? bid sid = some x) (hs : ∀ k ∈ x.spilled, (x.reg k).isPend = false) (hf : ∀ s r, o.fix s r = r)
    (ht : ∀ k ∈ (if f.n then [] else o.regs.flatMap RegWrite.targets) ++ o.fills, (x.reg k).isPend = false)
    (ha : s.alloc bid sid (x.need (x.afterWrites f.n (rels ++ o.rels) o o.regs) o.rels) = (s, true)) :
    let ks := o.rels.filter (fun k => (x.reg k).isPend)
    complete opc f bid sid rels sticky o s = o.eff (((s.dropRegs bid sid ks).modSlice bid sid
      (fun _ => (x.givenUp ks).finish opc f (rels ++ o.rels) sticky o)).leaveWaiters bid sid) := by
  intro ks
  unfold complete
  simp only [hx]
  rw [if_neg]
  · simp only [ha]
    exact completeNow_rels opc f rels sticky o hx hs hf
  · simp only [List.any_eq_true, Bool.and_eq_true, not_exists, not_and]
    intro k hk hp
    rw [ht k hk] at hp
    cases hp

end Sys2Proof.Machine

namespace Sys2Proof

open Sys2Proof.Machine

/-- What the model's completion leaves of a slice that gives up registers is what `Went` says. -/
theorem givenUp_finish_went {e : Enc} {f : Fields} {x : Slice} {o : Out} {ks : List Nat} (hk : ∀ k ∈ ks, k ∈ o.rels)
    (hd : f.n = false → Machine.Apart o.regs) (hf : f.n = false → ∀ k ∈ o.fills, k ∉ o.regs.flatMap RegWrite.targets) :
    Went e f x o ((x.givenUp ks).finish e.opc f (releasedRegs (e.typeOf f x.mode) f (e.sources f) ++ o.rels)
      (x.readsEmpty (e.typeOf f x.mode) f (e.sources f)) o) := by
  set rels := releasedRegs (e.typeOf f x.mode) f (e.sources f) ++ o.rels
  set sticky := x.readsEmpty (e.typeOf f x.mode) f (e.sources f)
  refine ⟨?_, ?_⟩
  · have h := Slice.finish_eq (x.givenUp ks) e.opc f rels sticky o
    rw [Slice.finish_latches] at h
    unfold latchesAfter
    refine h.trans ?_
    cases o.pc <;> rfl
  · intro k
    have hkept : (x.givenUp ks).kept rels = keptReg e f x o.rels := by
      funext j
      unfold Slice.kept keptReg
      rw [Slice.givenUp_reg]
      by_cases hj : j ∈ ks
      · simp [rels, hk j hj]
      · rw [if_neg hj]
    rw [Slice.finish_reg _ _ f _ _ o hd hf k, hkept]
    rfl

/-- A meaning that completes and gives up registers. -/
theorem runInstr_went_rels {e : Enc} {f : Fields} {s : State} {bid sid : Nat} {b : Block} {x : Slice} {body : Env → State → Res}
    {o : Out} (h : Ready e f s bid sid b x) (hb : body (e.env f bid sid b x) s = .done o)
    (hs : ∀ k ∈ x.spilled, (x.reg k).isPend = false) (hx : ∀ s r, o.fix s r = r)
    (hl : 8 * o.regs.length + 4 * o.fills.length + 4 * o.rels.length ≤ 128) (hw : Within e f x o)
    (hd : f.n = false → Machine.Apart o.regs) (hf : f.n = false → ∀ k ∈ o.fills, k ∉ o.regs.flatMap RegWrite.targets) :
    ∃ y, runInstr e f body s
        = .next (o.eff (settled (s.dropRegs bid sid (o.rels.filter (fun k => (x.reg k).isPend))) bid sid y)) ∧ Went e f x o y := by
  have hn (rels : List Nat) : x.need (x.afterWrites f.n rels o o.regs) o.rels ≤ 128 := by
    have h1 := Slice.need_le_add_gone x (x.afterWrites f.n rels o o.regs) o.rels
    have h2 := Slice.need_le x f.n rels o
    omega
  have h1 := runInstr_done h.cur h.legal h.sources hb
  rw [complete_rels e.opc f _ _ o h.slice.2 hs hx (fun k hk => by
    obtain ⟨hfn, i, hi, rfl⟩ := hw k hk
    exact h.dst hfn i hi) (h.alloc _ (hn _))] at h1
  exact ⟨_, h1, givenUp_finish_went (fun k hk => List.mem_of_mem_filter hk) hd hf⟩

end Sys2Proof
end

section
/-! SETM, NOP, REL and SHAPE (R47, R107, R109, R110, R167). -/

namespace Sys2Proof

open Sys2Proof.Machine

theorem relRegs_length_le (f : Fields) : (relRegs f).length ≤ 32 := by
  unfold relRegs
  simp only [List.length_map]
  exact (List.length_filter_le _ _).trans (List.length_range (n := 32)).le

theorem setm_gives : Gives .setm
    (fun _ => { opc := 0xEE, lens := [1, 3], gov0 := true, imm := true, extra := fun f _ => modeOk (immValue f) })
    (fun v _ => doing (fun s => s.modSlice v.bid v.sid (fun x => { x with mode := BitVec.ofNat 32 (immValue v.f) }))) :=
  gives_of (body := fun f v _ => doneEff (v.onSlice (fun x => { x with mode := BitVec.ofNat 32 (immValue f) })))
    (fun _ _ => rfl) (fun _ _ _ _ _ _ h => runInstr_went_none h rfl rfl rfl rfl (fun _ _ => rfl))

theorem nop_gives : Gives .nop (fun _ => { opc := 0xEA, lens := [1, 2, 3], gov0 := true, lit := .role }) (fun _ _ => {}) :=
  gives_of (body := fun _ _ _ => .done {}) (fun _ _ => rfl)
    (fun _ _ _ _ _ _ h => runInstr_went_none h rfl rfl rfl rfl (fun _ _ => rfl))

/-- Settles O7: SETM and NOP complete with no register result; REL and SHAPE complete and give up registers, whose fills drain. -/
theorem registerInstructions : Obligations.RegisterInstructions := by
  unfold Obligations.RegisterInstructions
  refine ⟨⟨setm_gives, nop_gives⟩, ?rel, ?shape⟩
  case rel =>
    intro f s bid sid b x e h hs
    have hl : 4 * (relRegs f).length ≤ 128 := by have := relRegs_length_le f; omega
    exact runInstr_went_rels (body := fun _ _ => .done { rels := relRegs f }) h rfl hs (fun _ _ => rfl) (by simpa using hl)
      (within_none rfl rfl) (fun _ => trivial) (fun _ k hk => by cases hk)
  case shape =>
    intro f s bid sid b x e h hs v rels code
    have hl : rels.length ≤ 1 := by unfold rels; split <;> simp
    exact runInstr_went_rels (body := fun v _ =>
      .done { regs := [v.write false (Quad.all (BitVec.ofNat 64 (v.x.shapeCode f.sa.toNat))) .u], rels := rels }) h rfl hs (fun _ _ => rfl)
      (by simp only [List.length_cons, List.length_nil]; omega) (within_one rfl rfl rfl le_rfl) (fun _ => apart_one _)
      (fun _ k hk => by cases hk)

end Sys2Proof
end

section
/-! SUPPORT. The checks of R52 before an instruction's effect, and the rows of the encoding tables. -/

namespace Sys2Proof

open Sys2Proof.Machine

/-! ### The rows of the encoding tables -/

/-- What an instruction of a row of the lane table does is the frame of that row around its meaning. -/
theorem exec_of_laneRow {s : State} {i : Instr} {f : Fields} {e : Enc} (h : laneRow s.curMode i = some (f, e)) :
    ∃ body, exec i s = runInstr e f body s := by
  cases i
  case qnt g =>
    delta laneRow at h
    dsimp only at h
    split at h
    · next ht =>
      cases h
      rw [exec_qnt, execQnt, if_pos ht]
      exact ⟨_, rfl⟩
    · cases h
  all_goals cases h
  -- Their rows take a bit of MOD, or the width, by a `let` of the meaning.
  case ldu => exact ⟨_, execLdu.eq_1 _ s⟩
  case pin => exact ⟨_, execPin.eq_1 _ s⟩
  case errl => exact ⟨_, execErrl.eq_1 _ s⟩
  all_goals
    delta exec
    exact ⟨_, rfl⟩

/-- What an instruction of a row of the cross-lane table does is the cross-lane frame of that row around its meaning. -/
theorem exec_of_setRow {s : State} {i : Instr} {f : Fields} {e : Enc} (h : setRow s.curWidth i = some (f, e)) :
    ∃ body, exec i s = runCross e f body s := by
  cases i
  case qnt g =>
    delta setRow at h
    dsimp only at h
    split at h
    · cases h
    · next ht =>
      cases h
      rw [exec_qnt, execQnt, if_neg ht]
      exact ⟨_, rfl⟩
  all_goals cases h
  case shfl => exact ⟨_, execShfl.eq_1 _ s⟩
  all_goals
    delta exec
    exact ⟨_, rfl⟩

/-! ### The checks of R52 -/

/-- A source that reads nothing fails nothing. -/
theorem srcCause_of_not_reads {x : Slice} {ty : Nat} {f : Fields} {p : Src × Nat × Bool} (h : p.1.reads = false) :
    x.srcCause ty f p = none := by
  simp [Slice.srcCause, h]

/-- Step 9 of R52 for one source, as `SourceFails` says it. -/
theorem srcCause_eq_some {e : Enc} {f : Fields} {x : Slice} {p : Src × Nat × Bool} {c : Half} (h : p.1.reads = true) :
    x.srcCause (e.typeOf f x.mode) f p = some c ↔ SourceFails e f x p c := by
  unfold Slice.srcCause SourceFails
  simp only [h, Bool.not_true, Bool.false_eq_true, if_false, Bool.and_eq_true, Bool.not_eq_true', List.any_eq_true, decide_eq_true_eq]
  split
  · next he =>
    rw [Option.some.injEq, eq_comm (a := (0x0201 : Half))]
    exact ⟨fun hc => .inl ⟨he, hc⟩, fun hc => hc.elim (·.2) (fun hn => absurd he hn.1)⟩
  · next he =>
    simp only [he, false_and, false_or, not_false_eq_true, true_and]
    split
    · next hu => simp only [hu, true_and, Option.some.injEq, eq_comm]
    · next hu =>
      simp only [reduceCtorEq, false_iff]
      exact fun h => hu ⟨h.1, h.2.1⟩

theorem srcCause_eq_none {e : Enc} {f : Fields} {x : Slice} {p : Src × Nat × Bool} (h : p.1.reads = true) :
    x.srcCause (e.typeOf f x.mode) f p = none ↔ ∀ c, ¬SourceFails e f x p c := by
  simp only [Option.eq_none_iff_forall_ne_some, ne_eq, srcCause_eq_some h]

theorem findSome?_filter_reads (g : Src × Nat × Bool → Option Half) (hg : ∀ p, p.1.reads = false → g p = none)
    (ps : List (Src × Nat × Bool)) : (ps.filter (fun p => p.1.reads)).findSome? g = ps.findSome? g := by
  induction ps with
  | nil => rfl
  | cons p ps ih =>
    cases hp : p.1.reads with
    | false => rw [List.filter_cons_of_neg (by simp [hp]), List.findSome?_cons, hg p hp, ih]
    | true => rw [List.filter_cons_of_pos (by simpa using hp), List.findSome?_cons, List.findSome?_cons, ih]

section
variable {e : Enc} {f : Fields} {x : Slice}

/-- Step 7 of R52. -/
theorem any_noLatch_iff : ((e.sources f).any (fun p => p.1.reads && decide (60 ≤ p.2.1) && (x.latch (p.2.1 - 60)).isNone)) = true ↔
    ∃ p ∈ (e.sources f).filter (fun p => p.1.reads), 60 ≤ p.2.1 ∧ x.latch (p.2.1 - 60) = none := by
  simp only [List.any_eq_true, List.mem_filter, Bool.and_eq_true, decide_eq_true_eq, Option.isNone_iff_eq_none, and_assoc]

/-- Step 8 of R52. -/
theorem any_pending_iff {ty : Nat} :
    ((e.sources f).any (fun p => p.1.reads && (srcRegs p.1 ty f p.2.1).any (fun k => (x.reg k).isPend))) = true ↔
    ∃ p ∈ (e.sources f).filter (fun p => p.1.reads), ∃ k ∈ srcRegs p.1 ty f p.2.1, (x.reg k).isPend = true := by
  simp only [List.any_eq_true, List.mem_filter, Bool.and_eq_true, and_assoc]

/-- What `CheckIs` says the checks of R52 give is what they give. -/
theorem crossCheck_of_checkIs {r : SrcCheck} (h : CheckIs e f x r) : e.crossCheck f x = r := by
  unfold CheckIs at h
  unfold Enc.crossCheck Slice.checkSources
  simp only [any_noLatch_iff, any_pending_iff]
  rw [← findSome?_filter_reads _ (fun _ => srcCause_of_not_reads)]
  simp only at h
  have hreads : ∀ p ∈ (e.sources f).filter (fun p => p.1.reads), p.1.reads = true := fun p hp => (List.mem_filter.mp hp).2
  cases r with
  | ok =>
    obtain ⟨hl, hn, hp, hs⟩ := h
    rw [hl, if_neg (by simp), if_neg hn, if_neg hp,
      List.findSome?_eq_none_iff.mpr (fun p hm => (srcCause_eq_none (hreads p hm)).mpr (hs p hm))]
  | stall =>
    obtain ⟨hl, hn, hp⟩ := h
    rw [hl, if_neg (by simp), if_neg hn, if_pos hp]
  | bad c =>
    obtain ⟨hl, rfl⟩ | ⟨hl, hn, rfl⟩ | ⟨hl, hn, hp, before, p, after, hsrc, hb, hf⟩ := h
    · rw [hl, if_pos (by simp)]
    · rw [hl, if_neg (by simp), if_pos hn]
    · have hmem : ∀ q, q ∈ before ∨ q = p → q.1.reads = true := by
        intro q hq
        refine hreads q ?_
        rw [hsrc]
        rcases hq with hq | rfl <;> simp [*]
      have hfind := List.findSome?_eq_some_iff.mpr ⟨before, p, after, hsrc, (srcCause_eq_some (hmem p (.inr rfl))).mpr hf,
        fun q hq => (srcCause_eq_none (hmem q (.inl hq))).mpr (hb q hq)⟩
      rw [hl, if_neg (by simp), if_neg hn, if_neg hp, hfind]

end

/-- An instruction whose check fails raises that cause and does nothing else; one whose source is pending waits. -/
theorem runInstr_check {e : Enc} {f : Fields} {body : Env → State → Res} {s : State} {bid sid : Nat} {b : Block} {x : Slice}
    (hc : Executing s bid sid b x) :
    (∀ c, CheckIs e f x (.bad c) → runInstr e f body s = .next (s.trap bid sid c 0 x.mask f.len false)) ∧
    (CheckIs e f x .stall → runInstr e f body s = .next (s.setWaiting bid sid)) := by
  refine ⟨fun c h => ?_, fun h => ?_⟩
  · have hx := crossCheck_of_checkIs h
    unfold Enc.crossCheck at hx
    cases hl : e.legal f x.mode with
    | false =>
      obtain rfl : 0x0102 = c := by simpa [hl] using hx
      exact runInstr_illegal hc hl
    | true => exact runInstr_badSource hc hl (by simpa [hl] using hx)
  · have hx := crossCheck_of_checkIs h
    unfold Enc.crossCheck at hx
    exact runInstr_stall hc h.1 (by simpa [h.1] using hx)

/-- What slice `k` with mask `m` raises where its check gives this (R136). -/
def raisedBy (k : Nat) (m : BitVec 4) : SrcCheck → Option (Nat × Half × BitVec 4)
  | .bad c => some (k, c, m)
  | _ => none

/-- The slices of an issue set. -/
def issueMembers (b : Block) (sid : Nat) : List (Nat × Slice) :=
  (b.issueSet sid).filterMap (fun k => (b.slices.get? k).map (fun y => (k, y)))

section
variable {e : Enc} {f : Fields} {body : List Env → Env → Out × (Nat → Excs)} {s : State} {bid sid : Nat} {b : Block} {x : Slice}

/-- Where some slice of the part is in a trap entry, the others wait for it (R136). -/
theorem runCross_away (hc : s.curSlice = some (bid, sid, b, x)) (ha : b.crossAway sid = true) :
    runCross e f body s = .next (s.allWait bid (b.issueSet sid)) := by
  unfold runCross
  simp only [hc, ha, if_true]

/-- The slices whose checks fail raise their causes (R136). -/
theorem runCross_bad {bad : List (Nat × Half × BitVec 4)} (hc : s.curSlice = some (bid, sid, b, x)) (ha : b.crossAway sid = false)
    (hb : (issueMembers b sid).filterMap (fun p => raisedBy p.1 p.2.mask (e.crossCheck f p.2)) = bad) (hne : bad ≠ []) :
    runCross e f body s = .next (s.crossFault bid f.len (b.issueSet sid) bad) := by
  subst hb
  unfold runCross
  simp only [hc, ha, Bool.false_eq_true, if_false]
  exact if_pos (congrArg (!·) (List.isEmpty_eq_false_iff.mpr hne))

/-- Where no check fails but some slice has a pending source, the set waits (R136). -/
theorem runCross_stall (hc : s.curSlice = some (bid, sid, b, x)) (ha : b.crossAway sid = false)
    (hb : (issueMembers b sid).filterMap (fun p => raisedBy p.1 p.2.mask (e.crossCheck f p.2)) = [])
    (hs : ∃ p ∈ issueMembers b sid, e.crossCheck f p.2 = .stall) :
    runCross e f body s = .next (s.allWait bid (b.issueSet sid)) := by
  have hany : (issueMembers b sid).any (fun p => e.crossCheck f p.2 = .stall) = true := by simpa using hs
  unfold runCross
  simp only [hc, ha, Bool.false_eq_true, if_false]
  exact (if_neg (ne_true_of_eq_false (congrArg (!·) (List.isEmpty_iff.mpr hb)))).trans (if_pos hany)

end

end Sys2Proof
end

section
/-! The checks before an instruction's effect (R32, R52, R136). -/

namespace Sys2Proof

open Sys2Proof.Machine

theorem Executing.curMode {s : State} {bid sid : Nat} {b : Block} {x : Slice} (h : Executing s bid sid b x) : s.curMode = x.mode := by
  simp only [State.curMode, show s.curSlice = _ from h]

theorem Executing.curWidth {s : State} {bid sid : Nat} {b : Block} {x : Slice} (h : Executing s bid sid b x) : s.curWidth = b.width := by
  simp only [State.curWidth, show s.curSlice = _ from h]

/-- Settles O57: every row's instruction is its frame around its meaning, and the frame judges the sources as `CheckIs` says. -/
theorem issueChecks : Obligations.IssueChecks := by
  unfold Obligations.IssueChecks
  refine ⟨?lane, ?set⟩
  case lane =>
    intro i f e s bid sid b x hr hc
    obtain ⟨body, hb⟩ := exec_of_laneRow (hc.curMode.symm ▸ hr)
    rw [hb]
    exact runInstr_check hc
  case set =>
    intro i f e s bid sid b x hr hc ids ms
    obtain ⟨body, hb⟩ := exec_of_setRow (hc.curWidth.symm ▸ hr)
    rw [hb]
    refine ⟨runCross_away hc, ?_⟩
    intro ha check hck bad
    have hcheck : ∀ p ∈ ms, e.crossCheck f p.2 = check p.2 := fun p hp => crossCheck_of_checkIs (hck p hp)
    have hbad : (issueMembers b sid).filterMap (fun p => raisedBy p.1 p.2.mask (e.crossCheck f p.2)) = bad :=
      List.filterMap_congr (fun p hp => by rw [hcheck p hp]; rfl)
    refine ⟨runCross_bad hc ha hbad, fun hnil ⟨p, hp, hst⟩ => runCross_stall hc ha (hbad.trans hnil) ⟨p, hp, ?_⟩⟩
    rw [hcheck p hp, hst]

end Sys2Proof
end

section
/-! SUPPORT. The turn of a part, and its issue (R147, R149, R152). -/

namespace Sys2Proof.Machine

/-- A move of one slice can issue where its block is on its core, its context runs, and the slice is at an instruction boundary. -/
theorem State.canIssue_one {s : State} {b : Block} {m sid : Nat} {x : Slice} (hm : b.movers m = [sid]) (hx : b.slices.get? sid = some x) :
    s.canIssue b m = true ↔ b.state = .resident ∧ s.ctxRuns b.ctx = true ∧ x.ready = true := by
  unfold State.canIssue
  simp only [hm, hx, List.isEmpty_cons, List.all_cons, List.all_nil, Bool.not_false, Bool.and_true, Bool.and_eq_true, beq_iff_eq,
    and_assoc]

/-- It is the turn of a move that can issue and whose port no other part keeps, where none that can issue there issued less recently
(R149). -/
theorem State.issueTurn_iff {s : State} {bid m : Nat} {b : Block} :
    s.issueTurn bid b m = true ↔ s.canIssue b m = true ∧ s.portKept bid b m = false ∧
      ∀ q ∈ s.rivals b.die b.core bid (b.partOfMove m), q.2.1.portOf q.1 q.2.2 = b.portOf bid m → s.canIssue q.2.1 q.2.2 = true →
        s.portKept q.1 q.2.1 q.2.2 = false → b.lastIssue m ≤ q.2.1.lastIssue q.2.2 := by
  have hq (q : Nat × Block × Nat) : (!(decide (q.2.1.lastIssue q.2.2 < b.lastIssue m) && s.canIssue q.2.1 q.2.2
      && !s.portKept q.1 q.2.1 q.2.2 && q.2.1.portOf q.1 q.2.2 == b.portOf bid m)) = true ↔
      (q.2.1.portOf q.1 q.2.2 = b.portOf bid m → s.canIssue q.2.1 q.2.2 = true → s.portKept q.1 q.2.1 q.2.2 = false →
        b.lastIssue m ≤ q.2.1.lastIssue q.2.2) := by
    rw [Bool.not_eq_true', Bool.eq_false_iff]
    simp only [ne_eq, Bool.and_eq_true, decide_eq_true_eq, Bool.not_eq_true', beq_iff_eq]
    rw [← not_lt]
    exact ⟨fun h hp hi hk hl => h ⟨⟨⟨hl, hi⟩, hk⟩, hp⟩, fun h ⟨⟨⟨hl, hi⟩, hk⟩, hp⟩ => h hp hi hk hl⟩
  simp only [State.issueTurn, Bool.and_eq_true, Bool.not_eq_true', List.all_eq_true, hq, and_assoc]

/-- What is left of a step once the slices of an issue have executed. -/
def finishIssue (bid : Nat) (ids : List Nat) : Host.Outcome State Fault Refusal → Host.Outcome State Fault Refusal
  | .next t => .next (t.afterIssue bid ids)
  | r => r

theorem runAll_one {ex : Meanings} {i : Instr} {bid sid : Nat} {s : State} (h : s.canExec bid sid = true) :
    runAll ex (.run i) bid [sid] s = ex i { s with cur := some (bid, sid) } := by
  simp only [runAll, h, if_true, runFetched]
  cases ex i { s with cur := some (bid, sid) } <;> rfl

/-- The issue of a part of one slice whose fetch gives an instruction is that instruction (R147, R152). -/
theorem issue_one {ex : Meanings} {s s2 : State} {bid part sid : Nat} {b : Block} {x : Slice} {i : Instr} (hb : s.blocks.get? bid = some b)
    (hm : b.movers part = [sid]) (hx : b.slices.get? sid = some x) (hf : s.frozen = false) (ht : s.issueTurn bid b part = true)
    (hr : (s.beginIssue bid [sid]).fetchAt b x.pc = (s2, .run i)) (hc : (s2.noteBegun bid [sid] (.run i)).canExec bid sid = true) :
    issue ex bid part s = finishIssue bid [sid] (ex i { s2.noteBegun bid [sid] (.run i) with cur := some (bid, sid) }) := by
  unfold issue
  simp only [hb, hm, hf, ht, hx, hr, runAll_one hc, Bool.not_true, Bool.or_false, Bool.false_eq_true, if_false]
  cases ex i { s2.noteBegun bid [sid] (.run i) with cur := some (bid, sid) } <;> rfl

/-- A step whose move is an issue, while the part is not frozen, is that issue after time has passed. -/
theorem step_issue {s : State} {bid part : Nat} (hm : s.nextMove.1 = .issue bid part) (hf : s.nextMove.2.passTime.frozen = false) :
    step s = issue exec bid part (s.nextMove.2.passTime.powerCheck (.issue bid part)) := by
  have h : s.nextMove = (.issue bid part, s.nextMove.2) := Prod.ext hm rfl
  unfold step
  rw [h]
  simp only [hf, Bool.false_and, Bool.false_eq_true, if_false, State.perform]

end Sys2Proof.Machine
end

section
/-! A step runs the decoded instruction (R27, R29, R52, R147, R149, R152). -/

namespace Sys2Proof

open Sys2Proof.Machine

/-- Settles O36: a step whose move is the issue of a part of one slice, in its turn, is that slice's instruction. -/
theorem stepRunsDecoded : Obligations.StepRunsDecoded := by
  unfold Obligations.StepRunsDecoded
  intro s s1 s2 bid part sid b x i hm hs1 hf hf1 hb ht hmov hx hr
  refine ⟨?turn, ?run⟩
  case turn =>
    rw [State.issueTurn_iff, State.canIssue_one hmov hx]
    simp only [and_assoc]
  case run =>
    intro s3 hc
    subst hs1
    rw [step_issue hm hf, issue_one hb hmov hx hf1 ht hr hc]
    cases exec i { s3 with cur := some (bid, sid) } <;> rfl

end Sys2Proof
end

section
/-! Gang switches, refills, phases, line fills and memory errors: one lemma for each event of cores, bays and ports that says what it does
where it can come about (R40, R41, R97, R98, R101, R182, R184, R185, R220, R230, R469). -/

namespace Sys2Proof.Machine

/-! ### The active set (R101) -/

/-- A port's active set after a part has come into it: that part first, at most eight parts, each a part that was there and is still live;
and a register cache with the entries of those parts alone. -/
theorem IssuePort.enter_spec (p : IssuePort) (a : Nat × Nat) (live keeps : Nat × Nat → Bool) :
    (p.enter a live keeps).active.head? = some a ∧ (p.enter a live keeps).active.length ≤ 8 ∧
    (∀ c ∈ (p.enter a live keeps).active, c = a ∨ (c ∈ p.active ∧ live c = true)) ∧
    ∀ e ∈ (p.enter a live keeps).regCache, e ∈ p.regCache ∧ (e.bid, e.part) ∈ (p.enter a live keeps).active := by
  refine ⟨rfl, List.length_take_le _ _, fun c hc => ?_, fun e he => ?_⟩
  · rcases List.mem_cons.mp (List.mem_of_mem_take hc) with hc | hc
    · exact .inl hc
    · obtain ⟨hmem, hlive⟩ := List.mem_filter.mp (List.mem_of_mem_filter hc)
      exact .inr ⟨hmem, by simpa using (Bool.and_eq_true_iff.mp hlive).2⟩
  · obtain ⟨hmem, hnow⟩ := List.mem_filter.mp he
    exact ⟨hmem, List.elem_iff.mp hnow⟩

/-- The register caches of a resident block's core. -/
theorem State.refreshPorts_resident {s : State} {bid : Nat} {b : Block} (hb : s.blocks.get? bid = some b) (hr : b.state = .resident) :
    s.refreshPorts bid = s.modCore b.die b.core (fun c => { c with ports := c.ports.map (fun p => p.refresh bid b) }) := by
  simp only [State.refreshPorts, hb, hr, if_true]

theorem exec_gangSwitch_enters {s : State} {bid part : Nat} {b : Block} (hb : s.blocks.get? bid = some b) (hr : b.state = .resident)
    (hm : b.partMembers part ≠ []) (hk : s.portKept bid b part = false) :
    exec (.gangSwitch bid part) s = .next ((s.enterPort bid b part).modCore b.die b.core (fun c => { c with
      ports := c.ports.map (fun p => p.refresh bid b) })) := by
  have he : (s.enterPort bid b part).blocks.get? bid = some b := hb
  rw [exec_gangSwitch, execGangSwitch, ← State.refreshPorts_resident he hr]
  simp [hb, hr, hm, hk]

/-! ### The pool (R97, R98) -/

theorem exec_refill_readsBack {s : State} {bid : Nat} {b : Block} (hb : s.blocks.get? bid = some b) (h : s.refillable bid b = true) :
    exec (.refill bid) s = .next (s.modBlock bid (fun b => { b with
      slices := b.slices.map (fun p => (p.1, s.readBackRegs b p.1 p.2)), spillSaved := false })) := by
  simp only [exec_refill, execRefill, hb, h, Bool.not_true, Bool.false_eq_true, if_false]

theorem exec_poolWaitQuantum_saves {s : State} {bid v : Nat} {b : Block} (hb : s.blocks.get? bid = some b)
    (hw : s.poolWaits bid b = true) (hv : s.poolVictim bid b = some v) : exec (.poolWaitQuantum bid) s = .next (s.saveUnit v) := by
  simp only [exec_poolWaitQuantum, execPoolWaitQuantum, hb, hw, hv, Bool.not_true, Bool.false_eq_true, if_false]

/-! ### Phases, bay lines and host reads (R182, R220, R230) -/

theorem exec_phaseCloseComplete_matched {s : State} {die core : Nat} {q : PhaseClose} {qs : List PhaseClose}
    (hq : (s.core die core).closes = q :: qs) (hm : s.phaseMatched die core q.phase = true) :
    exec (.phaseCloseComplete die core) s = .next (s.completeClose die core q.phase q.serial) := by
  simp only [exec_phaseCloseComplete, execPhaseCloseComplete, hq, hm, if_true]

theorem exec_bayLineFill_wanted {s : State} {die line : Nat} (h : (s.line die (line * 1024)).wanted ≠ 0) :
    exec (.bayLineFill die line) s
      = .next (s.modLine die (line * 1024) (fun l => { l with valid := l.valid ||| l.wanted, wanted := 0 })) := by
  rw [exec_bayLineFill, execBayLineFill, if_neg h]

theorem exec_flushingReadReturn_head {s : State} {port k : Nat} (h : (s.port port).flushes.head? = some k) :
    exec (.flushingReadReturn port k) s = .next (s.modPort port (fun h => { h with flushes := h.flushes.tail })) := by
  rw [exec_flushingReadReturn, execFlushingReadReturn, if_pos h]

/-! ### Memory errors (R184, R185, R469) -/

theorem exec_eccError_memory {s : State} {die pa : Nat} (hd : die < 8) (hp : pa < (s.die die).cap) (hc : s.poisoned die pa = false) :
    exec (.eccError die (.memory pa)) s = .next ({ s with poison := physKey die pa / 128 :: s.poison }.countUecc die) := by
  simp only [exec_eccError, execEccError, hd, hp, hc, decide_true, Bool.not_false, Bool.and_true, if_true]

/-- A sector of memory that has been poisoned reads as poisoned, one error more is counted, and no byte has changed. -/
theorem State.poisonSector_spec (s : State) (die pa : Nat) :
    let t := { s with poison := physKey die pa / 128 :: s.poison }.countUecc die
    t.poisoned die pa = true ∧ (t.die die).uecc = (s.die die).uecc + 1 ∧ t.mem = s.mem := by
  refine ⟨?_, ?_, rfl⟩
  · simp [State.poisoned, State.countUecc]
  · rw [State.countUecc, State.die_modDie, if_pos rfl]
    rfl

theorem exec_eccError_guest {s : State} {die home pa : Nat} (h : (s.die die).cleanGuest home pa = true) :
    exec (.eccError die (.guest home pa)) s = .next ((s.modDie die (fun x => { x with
      guests := x.guests.map (fun g => if g.home == home && g.pa == pa / 1024 then g.poisonAt pa else g) })).countUecc die) := by
  simp only [exec_eccError, execEccError, h, if_true]

theorem exec_eccError_window {s : State} {bid line : Nat} {b : Block} (hb : s.blocks.get? bid = some b) (hr : b.state = .resident)
    (hl : line * 128 < b.scratch) (hp : line ∉ b.winPoison) :
    exec (.eccError b.die (.window bid line)) s = .next (s.modBlock bid (fun b => { b with winPoison := line :: b.winPoison })) := by
  simp [exec_eccError, execEccError, hb, hr, hl, hp]

theorem exec_correctedEccError_counts {s : State} {die : Nat} (hd : die < 8) :
    exec (.correctedEccError die) s = .next (s.modDie die (fun x => { x with cecc := x.cecc + 1 })) := by
  rw [exec_correctedEccError, execCorrectedEccError, if_pos hd]

end Sys2Proof.Machine

namespace Sys2Proof

open Sys2Proof.Machine

/-- Settles O40: each event does what its lemma above says, under the conditions that its definition asks for. -/
theorem coreEvents : Obligations.CoreEvents := by
  unfold Obligations.CoreEvents
  refine ⟨?gangSwitch, fun p a live keeps => IssuePort.enter_spec p a live keeps, ?refill,
    fun s bid b v => exec_poolWaitQuantum_saves, ?phaseClose, fun s die line => exec_bayLineFill_wanted, ?memoryError,
    fun s die home pa => exec_eccError_guest, fun s bid line b => exec_eccError_window, fun s die => exec_correctedEccError_counts,
    fun s port k => exec_flushingReadReturn_head⟩
  case gangSwitch =>
    intro s bid part b hb hr hm hk
    exact exec_gangSwitch_enters hb hr hm hk
  case refill =>
    intro s bid b hb hr hs hw ho hf
    exact exec_refill_readsBack hb (by simp [State.refillable, hr, hs, hw, ho, hf])
  case phaseClose =>
    intro s die core q qs hq hm
    exact exec_phaseCloseComplete_matched hq (by simpa [State.phaseMatched, phaseKey] using hm)
  case memoryError =>
    intro s die pa hd hp hc
    exact ⟨_, exec_eccError_memory hd hp hc, State.poisonSector_spec s die pa⟩

end Sys2Proof
end

section
/-! SUPPORT. Placement leaves every node but for its count of placed blocks (R344, R347). -/

namespace Sys2Proof.Machine

/-- A presence record of a resident block is its own (R187). -/
theorem State.modPresence_resident {s : State} {bid : Nat} {b : Block} (line : Nat) (f : Presence → Presence)
    (hb : s.blocks.get? bid = some b) (hr : b.state = .resident) :
    s.modPresence bid line f = s.modBlock bid (fun y => y.setPresence line (f (b.presence line))) := by
  simp [State.modPresence, hb, hr]

theorem Block.setPresence_state (b : Block) (line : Nat) (p : Presence) : (b.setPresence line p).state = b.state := by
  unfold Block.setPresence
  split <;> rfl

/-- Copies issued to lines of a resident block's window change no node. -/
theorem State.issueLines_nodes {s : State} {bid : Nat} {b : Block} (die : Nat) {ls : List (Nat × Nat)}
    (hb : s.blocks.get? bid = some b) (hr : b.state = .resident) (hl : ∀ l ∈ ls, l.1 = bid) : (s.issueLines die ls).nodes = s.nodes := by
  induction ls generalizing s b with
  | nil => rfl
  | cons l ls ih =>
    obtain ⟨rfl, hl⟩ := List.forall_mem_cons.mp hl
    have h1 := State.modPresence_resident l.2 (fun p => p.issued (s.sinceNow die)) hb hr
    have h2 := ih (s := s.modPresence l.1 l.2 (fun p => p.issued (s.sinceNow die)))
      (by rw [h1, State.modBlock_get, if_pos rfl, hb]; rfl) ((Block.setPresence_state ..).trans hr) hl
    exact h2.trans (by rw [h1, State.modBlock_nodes])

theorem State.issueArgs_nodes {s : State} {bid : Nat} {b : Block} (n d : Nat) (x : Node) (args : List Byte)
    (hb : s.blocks.get? bid = some b) (hr : b.state = .resident) : (s.issueArgs bid n d x args).nodes = s.nodes := by
  refine State.issueLines_nodes (s := (s.takeToken d 0 x.ctx .die).2) d hb hr (fun l hl => ?_)
  obtain ⟨c, hc, hl⟩ := List.mem_flatMap.mp hl
  obtain ⟨k, -, rfl⟩ := List.mem_map.mp hl
  exact List.mem_singleton.mp (List.mem_of_mem_filter hc)

/-- A block that takes its place on a core is resident, and no node changes. -/
theorem State.seat_resident {s : State} {bid : Nat} {b : Block} (d c : Nat) (partw : Word) (w u : Nat) (hb : s.blocks.get? bid = some b) :
    (s.seat bid d c partw w u).nodes = s.nodes ∧
      ∃ y, (s.seat bid d c partw w u).blocks.get? bid = some y ∧ y.state = .resident := by
  unfold State.seat
  refine ⟨State.modBlock_nodes _ _ _,
    { b with state := .resident, die := d, core := c, winBase := w, accBase := u, age := s.nextId }, ?_, rfl⟩
  rw [State.modBlock_get, if_pos rfl]
  exact congrArg (Option.map _) hb

/-- A new block seated, with its arguments on their way where it has any. -/
theorem State.seated_nodes {s : State} {bid : Nat} {b : Block} (m n d c : Nat) (f : Ctx → Ctx) {x : Node} {args : List Byte} {p : Word}
    {w u : Nat} (hb : s.blocks.get? bid = some b) :
    (if args.isEmpty = true then (s.modCtx m f).seat bid d c p w u
      else ((s.modCtx m f).seat bid d c p w u).issueArgs bid n d x args).nodes = s.nodes := by
  obtain ⟨hn, y, hy, hr⟩ := State.seat_resident (s := s.modCtx m f) d c p w u (by rw [State.modCtx_blocks, hb])
  rw [State.modCtx_nodes] at hn
  split
  · exact hn
  · exact (State.issueArgs_nodes _ _ _ _ hy hr).trans hn

/-- A block that is placed changes no node. -/
theorem State.placeOn_nodes {s t : State} {n idx d c k : Nat} {of : Option Nat} (h : s.placeOn n idx d c of = some (k, t)) :
    t.nodes = s.nodes := by
  unfold State.placeOn at h
  split at h
  · cases h
  split at h
  · cases h
  simp only at h
  split at h
  · obtain ⟨-, h⟩ := Option.ite_none_left_eq_some.mp h
    obtain ⟨-, rfl⟩ := Prod.mk.inj (Option.some.inj h)
    exact State.seated_nodes _ _ _ _ _ (Tab.get?_put_self _ _ _)
  · cases h

theorem State.placeFirst_nodes {s t : State} {n idx i : Nat} {cs : List (Nat × (Nat × Nat))} (h : s.placeFirst n idx cs = some (i, t)) :
    t.nodes = s.nodes := by
  induction cs with
  | nil => cases h
  | cons c cs ih =>
    obtain ⟨j, d, k⟩ := c
    unfold State.placeFirst at h
    split at h
    · next hp =>
      obtain ⟨-, rfl⟩ := Prod.mk.inj (Option.some.inj h)
      exact State.placeOn_nodes hp
    · exact ih h

theorem State.placeOrdered_nodes {s t : State} {n idx : Nat} {x : Node} (h : s.placeOrdered n x idx = some t) : t.nodes = s.nodes := by
  unfold State.placeOrdered at h
  simp only at h
  split at h
  · cases h
  next b s1 h1 =>
  split at h
  · obtain rfl := Option.some.inj h
    exact State.placeOn_nodes h1
  · split at h
    · cases h
    next k s2 h2 =>
    obtain rfl := Option.some.inj h
    rw [State.modBlock_nodes, State.placeOn_nodes h2, State.placeOn_nodes h1]

/-- A node whose block is noted as placed has one block more placed. -/
theorem State.notePlaced_node {s : State} {n : Nat} {y : Node} (x : Node) (cursor : Nat) (h : s.nodes.get? n = some y) :
    (s.notePlaced n x cursor).nodes.get? n = some { y with placed := x.placed + 1, cursor := cursor } := by
  have hm : (s.modNode n (fun y => { y with placed := x.placed + 1, cursor := cursor })).nodes.get? n
      = some { y with placed := x.placed + 1, cursor := cursor } := by
    unfold State.modNode
    simp only [h, Tab.get?_put_self]
  unfold State.notePlaced
  simp only
  split
  · exact hm
  · exact hm

/-- Where the next block of a node is placed, the node has one block more placed. -/
theorem State.placeNext_node {s t : State} {n : Nat} {x : Node} (hx : s.nodes.get? n = some x) (h : s.placeNext n = some t) :
    ∃ y, t.nodes.get? n = some y ∧ y.placed = x.placed + 1 := by
  have noted {s1 : State} (cursor : Nat) (h1 : s1.nodes = s.nodes) :
      ∃ y, (s1.notePlaced n x cursor).nodes.get? n = some y ∧ y.placed = x.placed + 1 :=
    ⟨_, State.notePlaced_node x cursor (h1 ▸ hx), rfl⟩
  unfold State.placeNext at h
  simp only [hx] at h
  split at h
  · cases h
  split at h
  · obtain ⟨s1, h1, rfl⟩ := Option.map_eq_some_iff.mp h
    obtain ⟨i, -, hi⟩ := List.exists_of_findSome?_eq_some h1
    exact noted _ (State.placeOrdered_nodes hi)
  · obtain ⟨⟨i, s1⟩, h1, rfl⟩ := Option.map_eq_some_iff.mp h
    exact noted _ (State.placeFirst_nodes h1)

/-! ### The waiting set (R345) -/

/-- The first member that fits does fit. -/
theorem State.tryMember_of_nextMember {s : State} {die : Nat} {m : Nat × Nat} (h : s.nextMember die = some m) :
    ∃ t, s.tryMember m = some t :=
  Option.isSome_iff_exists.mp (List.find?_some (p := fun m => (s.tryMember m).isSome) h)

theorem exec_blockPlacement_places {s s1 : State} {die n : Nat} (h : s.nextMember die = some (0, n)) (hp : s.placeNext n = some s1) :
    exec (.blockPlacement die) s = .next s1 := by
  simp only [exec_blockPlacement, execBlockPlacement, h, hp]

theorem exec_blockRestore_restores {s s1 : State} {bid core : Nat} {b : Block} (hb : s.blocks.get? bid = some b)
    (h : s.nextMember b.die = some (1, bid)) (hr : s.restoreUnit bid core = some s1) : exec (.blockRestore bid core) s = .next s1 := by
  simp only [exec_blockRestore, execBlockRestore, hb, h, hr, if_true]

/-- A saved block that fits somewhere fits on one of the cores of its die. -/
theorem State.restoreUnit_of_tryMember {s t : State} {bid : Nat} {b : Block} (hb : s.blocks.get? bid = some b)
    (h : s.tryMember (1, bid) = some t) : ∃ core, core < (s.die b.die).ncore ∧ s.restoreUnit bid core = some t := by
  simp only [State.tryMember, one_ne_zero, if_false, hb] at h
  obtain ⟨core, hc, hr⟩ := List.exists_of_findSome?_eq_some h
  exact ⟨core, List.mem_range.mp hc, hr⟩

/-! ### Saves that make room (R250, R345) -/

theorem exec_quantumExpiry_saves {s : State} {die bid : Nat} {m : Nat × Nat} (hm : m ∈ s.members die) (ht : s.tryMember m = none)
    (hv : s.victimFor m = some bid) : exec (.quantumExpiry die bid) s = .next (s.saveUnit bid) := by
  have hany : (s.members die).any (fun m => (s.tryMember m).isNone && s.victimFor m == some bid) = true :=
    List.any_eq_true.mpr ⟨m, hm, by simp [ht, hv]⟩
  rw [exec_quantumExpiry, execQuantumExpiry, if_pos hany]

theorem exec_dormantSave_saves {s : State} {bid d : Nat} {b : Block} {x : Die} {m : Nat × Nat} (hb : s.blocks.get? bid = some b)
    (hd : s.isDormant bid = true) (hx : (d, x) ∈ s.dies) (hm : m ∈ s.members d) (ht : s.tryMember m = none)
    (hc : (b.die, b.core) ∈ s.candidates m) : exec (.dormantSave bid) s = .next (s.saveUnit bid) := by
  have hany : s.dies.any (fun d => (s.members d.1).any (fun m => (s.tryMember m).isNone && (s.candidates m).contains (b.die, b.core)))
      = true :=
    List.any_eq_true.mpr ⟨(d, x), hx, List.any_eq_true.mpr ⟨m, hm, by simp [ht, hc]⟩⟩
  simp only [exec_dormantSave, execDormantSave, hb, hd, hany, Bool.and_self, if_true]

/-! ### Rounds (R261, R262) -/

theorem exec_roundCommit_commits {s : State} {n : Nat} {x : Node} (hx : s.nodes.get? n = some x) (ho : x.ordered = true)
    (hs : x.state = .running ∨ x.state = .completing) (hc : s.ctxRuns x.ctx = true) (hr : s.roundOver n x = true)
    (hw : s.committers n x ≠ [] ∨ s.roundSet n x ≠ []) : exec (.roundCommit n) s = .next (s.commit n x) := by
  have hne : ((s.committers n x).isEmpty && (s.roundSet n x).isEmpty) = false := by
    simpa only [Bool.and_eq_false_iff, List.isEmpty_eq_false_iff] using hw
  have hst : (x.state == .running || x.state == .completing) = true := by simpa using hs
  simp only [exec_roundCommit, execRoundCommit, hx, ho, hst, hc, hr, hne, Bool.not_false, Bool.and_self, if_true]

theorem exec_roundTimeout_faults {s : State} {n : Nat} {x : Node} (hx : s.nodes.get? n = some x) (ho : x.ordered = true)
    (hs : x.state = .running) (hc : s.ctxRuns x.ctx = true) (hb : x.roundBlocks ≠ [])
    (hl : s.roundCycles x.ctx < ((s.die x.die).cycle - x.limitStart).toNat) :
    exec (.roundTimeout n) s = .next (
      ((((s.roundSet n x).filter (fun b => b.2.state != .retired)).map (fun b => b.1)).foldl (fun s b => s.modBlock b (fun y =>
        { y with slices := y.slices.map (fun p => (p.1, if p.2.run = .ended || p.2.atRoundPoint then p.2 else p.2.timeOut)) })) s).modNode n
        (fun y => { y with limitStart := (s.die x.die).cycle })) := by
  simp only [exec_roundTimeout, execRoundTimeout, hx]
  exact if_neg (by simp only [ho, hs, hc, List.isEmpty_eq_false_iff.mpr hb, Nat.not_le.mpr hl, Bool.not_true, ne_eq, not_true_eq_false, decide_false,
    Bool.or_self, Bool.false_eq_true, not_false_eq_true])

end Sys2Proof.Machine
end

section
/-! Placement, restores, time slices and rounds (R98, R250, R261, R262, R342 to R348). -/

namespace Sys2Proof

open Sys2Proof.Machine

/-- Settles O47: a member that fits is placed or restored, and each other event does what its lemma above says. -/
theorem placementEvents : Obligations.PlacementEvents := by
  unfold Obligations.PlacementEvents
  refine ⟨fun s die n s1 => exec_blockPlacement_places, ?counts, ?restores, fun s bid core b s1 => exec_blockRestore_restores,
    fun s die bid m => exec_quantumExpiry_saves, fun s bid b d x m => exec_dormantSave_saves, fun s n x => exec_roundCommit_commits,
    fun s n x => exec_roundTimeout_faults⟩
  case counts =>
    intro s die n x h hx
    obtain ⟨t, ht⟩ := State.tryMember_of_nextMember h
    obtain ⟨y, hy, hp⟩ := State.placeNext_node hx ht
    exact ⟨t, y, exec_blockPlacement_places h ht, hy, hp⟩
  case restores =>
    intro s bid b hb h
    obtain ⟨t, ht⟩ := State.tryMember_of_nextMember h
    obtain ⟨core, hcore, hr⟩ := State.restoreUnit_of_tryMember hb ht
    exact ⟨core, t, hcore, hr, exec_blockRestore_restores hb h hr⟩

end Sys2Proof
end

section
/-! SUPPORT. The values of moves, selection and packing (R106, R107, R128, R133), and instructions with one register result. -/

namespace Sys2Proof

open Sys2Proof.Machine

/-- One value in all four lanes, as the result of a lane function. -/
theorem Quad.all_eq_ofFn {x : Dword} {n : Nat} (h : BitVec.ofNat 64 n = x) : Quad.all x = Quad.ofFn (fun _ => BitVec.ofNat 64 n) := by
  subst h; rfl

/-- An instruction of a row whose meaning is one register result in the destination field. -/
theorem gives_one {i : Fields → Instr} {e : Fields → Enc} {body : Fields → Env → State → Res} {w : Env → State → RegWrite}
    (he : ∀ f s, exec (i f) s = runInstr (e f) f (body f) s)
    (hb : ∀ f s bid sid b x, body f ((e f).env f bid sid b x) s = .done { regs := [w ((e f).env f bid sid b x) s] })
    (hd : ∀ f s bid sid b x, (w ((e f).env f bid sid b x) s).d = f.dst.toNat)
    (hw : ∀ f s bid sid b x, (if (w ((e f).env f bid sid b x) s).wide then 2 else 1) ≤ (e f).dst.span ((e f).typeOf f x.mode) f) :
    Gives i e (fun v s => { regs := [w v s] }) :=
  gives_of he (fun f s bid sid b x h =>
    runInstr_went_one h (hb f s bid sid b x) rfl rfl (hd f s bid sid b x) (hw f s bid sid b x) rfl (fun _ _ => rfl))

/-- MOVI's constant as a number: the literal, or the immediate sign-extended (R37, R38, R106). -/
def moviNat (f : Fields) (ty : Nat) : Nat :=
  match f.lit? with
  | some w => (litValue (typeWide ty) ty w).toNat
  | none => wrapNat (if typeWide ty then 64 else 32) (sextInt 7 (imm7 f))

theorem ofNat_moviNat (f : Fields) (ty : Nat) : BitVec.ofNat 64 (moviNat f ty) = moviValue f ty := by
  unfold moviNat moviValue
  cases f.lit? with
  | some w => exact (BitVec.ofNat_toNat _ _).trans (BitVec.setWidth_eq _)
  | none => rfl

theorem mov_gives : Gives .mov (fun _ => { opc := 0x1C, lens := [1, 2], dst := .ty, sa := .ty, types := .tov (fun t => t == 0 || t == 25) })
    (fun v _ => { regs := [⟨v.f.dst.toNat, typeWide v.ty, v.a.v, v.a.tag, v.a.tag1, false, v.act⟩] }) :=
  gives_one (fun f s => exec_mov f s) (fun _ _ _ _ _ _ => rfl) (fun _ _ _ _ _ _ => rfl) (fun _ _ _ _ _ _ => le_rfl)

theorem movi_computes : Computes .movi (fun _ => { opc := 0x1D, lens := [1, 2, 3], dst := .ty, types := .tov typeMovi, imm := true })
    (fun v => typeWide v.ty) (fun v _ => moviNat v.f v.ty) (fun _ => .u) := by
  refine computes_of (fun f s => exec_movi f s) (fun f bid sid b x s => ?_) (fun _ _ _ _ _ => le_rfl)
  simp only [laneRes, ← Quad.all_eq_ofFn (ofNat_moviNat _ _)]
  rfl

theorem getm_computes : Computes .getm (fun _ => { opc := 0xEF, lens := [1, 2], dst := .w32 }) (fun _ => false)
    (fun v _ => v.x.mode.toNat) (fun _ => .u) := by
  refine computes_of (fun f s => exec_getm f s) (fun f bid sid b x s => ?_) (fun _ _ _ _ _ => le_rfl)
  simp only [laneRes, ← Quad.all_eq_ofFn (BitVec.ofNat_toNat _ _)]

theorem pack_computes : Computes .pack
    (fun _ => { opc := 0x42, lens := [2, 3], dst := .w32, sa := .w32, sb := .w32, types := .eff typePack, md := 7, extra := packOk })
    (fun _ => false)
    (fun v l =>
      let w := typeBits v.ty
      let p := w * (v.md % 8)
      v.bl l - v.bl l / 2 ^ p % 2 ^ w * 2 ^ p + v.al l % 2 ^ w * 2 ^ p) (fun v => shapeUG [v.a, v.o]) :=
  computes_of (fun f s => exec_pack f s) (fun _ _ _ _ _ _ => rfl) (fun _ _ _ _ _ => le_rfl)

theorem unpk_computes : Computes .unpk
    (fun _ => { opc := 0x43, lens := [2], dst := .w32, sa := .w32, types := .eff typePack, md := 7, extra := packOk })
    (fun _ => false)
    (fun v l =>
      let w := typeBits v.ty
      let e := v.al l / 2 ^ (w * (v.md % 8)) % 2 ^ w
      if typeSigned v.ty then wrapNat 32 (sextInt w e) else e) (fun v => shapeUG [v.a]) :=
  computes_of (fun f s => exec_unpk f s) (fun _ _ _ _ _ _ => rfl) (fun _ _ _ _ _ => le_rfl)

/-- SEL takes operand a where the predicate's bit differs from the inversion of MOD[3]. -/
theorem ite_bne_eq_ite_eq (p q : Bool) (m n : Nat) : (if p != q then m else n) = if p = q then n else m := by
  cases p <;> cases q <;> rfl

theorem sel_computes : Computes .sel
    (fun _ => { opc := 0x4E, lens := [2, 3], dst := .ty, sa := .ty, sb := .ty, types := .tov (fun t => t == 0 || t == 24 || t == 25), md := 15 })
    (fun v => typeWide v.ty)
    (fun v l => if (v.x.preds.getD (v.md % 8) 0).getLsbD l = bitOf v.md 3 then v.bl l else v.al l) (fun _ => .g) :=
  computes_of (fun f s => exec_sel f s) (fun f bid sid b x s => by simp only [ite_bne_eq_ite_eq]) (fun _ _ _ _ _ => le_rfl)

/-! ### Results that are written whole (R57, R90, R107, R108) -/

theorem aff_gives : Gives .aff (fun _ => { opc := 0x4F, lens := [1, 2, 3], dst := .w32, sa := .u32, sb := .u32 })
    (fun v _ => { regs := [⟨v.f.dst.toNat, false, quadNat (fun l => (v.al 0 + l * v.bl 0) % 2 ^ 32), .a, .a, true, v.act⟩] }) :=
  gives_one (fun f s => exec_aff f s) (fun _ _ _ _ _ _ => rfl) (fun _ _ _ _ _ _ => rfl) (fun _ _ _ _ _ _ => le_rfl)

/-- The row of UNIF (R104). -/
def encUnif : Enc := { opc := 0x50, lens := [1, 2], dst := .w32, sa := .w32, md := 1 }

/-- What UNIF spreads: the value of the first active lane (R107). -/
def Machine.Env.firstActive (v : Env) : Dword := match lanesOf v.act with | [] => 0 | l :: _ => v.a.v.get l

/-- UNIF's meaning (R107). -/
def unifBody (v : Env) : Res :=
  match lanesOf v.act with
  | [] => .done { regs := [⟨v.f.dst.toNat, false, Quad.all 0, .u, .u, true, v.act⟩] }
  | l :: ls =>
    let bad := ls.filter (fun k => v.al k != v.al l)
    if bitOf v.md 0 && !bad.isEmpty then .raise 0x0105 0 (laneSet bad)
    else .done { regs := [⟨v.f.dst.toNat, false, Quad.all (v.a.v.get l), .u, .u, true, v.act⟩] }

theorem exec_unif_body (f : Fields) (s : State) : exec (.unif f) s = runInstr encUnif f (fun v _ => unifBody v) s := rfl

theorem mem_lanesOf {act : BitVec 4} {l : Nat} (h : l ∈ lanesOf act) : act.getLsbD l = true := (List.mem_filter.mp h).2

/-- UNIF without its check, or where all active lanes agree. -/
theorem unifBody_spreads {v : Env}
    (h : bitOf v.md 0 = false ∨ ∀ k l, v.act.getLsbD k = true → v.act.getLsbD l = true → v.al k = v.al l) :
    unifBody v = .done { regs := [⟨v.f.dst.toNat, false, Quad.all v.firstActive, .u, .u, true, v.act⟩] } := by
  unfold unifBody Env.firstActive
  cases hl : lanesOf v.act with
  | nil => rfl
  | cons l ls =>
    have active : ∀ k ∈ l :: ls, v.act.getLsbD k = true := fun k hk => mem_lanesOf (hl ▸ hk)
    refine if_neg fun hc => ?_
    rw [Bool.and_eq_true] at hc
    obtain ⟨hcheck, hbad⟩ := hc
    rcases h with h | h
    · rw [h] at hcheck; cases hcheck
    · have hnil : ls.filter (fun k => v.al k != v.al l) = [] := List.filter_eq_nil_iff.mpr (fun k hk => by
        simp [h k l (active k (List.mem_cons_of_mem _ hk)) (active l List.mem_cons_self)])
      rw [hnil] at hbad
      cases hbad

/-- UNIF under its check, where some active lane differs from the first. -/
theorem unifBody_raises {v : Env} {l : Nat} {ls : List Nat} (hl : lanesOf v.act = l :: ls) (hc : bitOf v.md 0 = true)
    (hk : ∃ k ∈ ls, v.al k ≠ v.al l) : unifBody v = .raise 0x0105 0 (laneSet (ls.filter (fun k => v.al k != v.al l))) := by
  have hne : ls.filter (fun k => v.al k != v.al l) ≠ [] := by
    obtain ⟨k, hk, hd⟩ := hk
    exact List.ne_nil_of_mem (List.mem_filter.mpr ⟨hk, by simpa using hd⟩)
  simp only [unifBody, hl, hc, List.isEmpty_eq_false_iff.mpr hne, Bool.not_false, Bool.and_self, if_true]

theorem unif_gives : GivesIf .unif (fun _ => encUnif)
    (fun v _ => bitOf v.md 0 = false ∨ ∀ k l, v.act.getLsbD k = true → v.act.getLsbD l = true → v.al k = v.al l)
    (fun v _ => { regs := [⟨v.f.dst.toNat, false, Quad.all v.firstActive, .u, .u, true, v.act⟩] }) :=
  givesIf_of (fun f s => exec_unif_body f s) (fun _ _ _ _ _ _ h hc =>
    runInstr_went_one h (unifBody_spreads hc) rfl rfl rfl le_rfl rfl (fun _ _ => rfl))

theorem unif_raises : Raises .unif (fun _ => encUnif)
    (fun v _ c a m => ∃ l ls, lanesOf v.act = l :: ls ∧ bitOf v.md 0 = true ∧ (∃ k ∈ ls, v.al k ≠ v.al l) ∧
      c = 0x0105 ∧ a = 0 ∧ m = laneSet (ls.filter (fun k => v.al k != v.al l))) := by
  refine raises_of (fun f s => exec_unif_body f s) (fun f s bid sid b x _ c a m h => ?_)
  obtain ⟨l, ls, hl, hc, hk, rfl, rfl, rfl⟩ := h
  exact unifBody_raises hl hc hk

/-- MOVS's register result: lane and thread numbers are affine, every other selector uniform (R57, R108). -/
def movsWrite (ordered : Bool) (v : Env) (s : State) : RegWrite :=
  if v.md = 0 then v.write false (quadNat (fun l => l)) .a
  else if v.md = 2 then v.write false (quadNat (fun l => 4 * v.sid + l)) .a
  else ⟨v.f.dst.toNat, (movsWide v.md).getD false, Quad.all (BitVec.ofNat 64 (movsValue v s ordered)), .u, .u, true, v.act⟩

theorem movsBody_eq (ordered : Bool) (v : Env) (s : State) : movsBody ordered v s = .done { regs := [movsWrite ordered v s] } := by
  unfold movsBody movsWrite
  split
  · rfl
  · split <;> rfl

theorem movsWrite_dst (ordered : Bool) (v : Env) (s : State) : (movsWrite ordered v s).d = v.f.dst.toNat := by
  unfold movsWrite
  split
  · rfl
  · split <;> rfl

/-- MOVS's result is a pair where its selector is 64 bits wide. -/
theorem movsWrite_wide (ordered : Bool) (v : Env) (s : State) : (movsWrite ordered v s).wide = (movsWide v.md).getD false := by
  unfold movsWrite
  split
  · next h => rw [h]; rfl
  · split
    · next h => rw [h]; rfl
    · rfl

theorem encMovs_span (opc ty : Nat) (f : Fields) :
    (encMovs opc f).dst.span ty f = if (movsWide (modOf f)).getD false then 2 else 1 := by
  unfold encMovs
  simp only
  split <;> rfl

theorem movs_gives (ordered : Bool) : Gives (if ordered then .movsO else .movsU) (encMovs (if ordered then 0xEC else 0xED))
    (fun v s => { regs := [movsWrite ordered v s] }) := by
  have hw (opc : Nat) (f : Fields) (s : State) (bid sid : Nat) (b : Block) (x : Slice) :
      (if (movsWrite ordered ((encMovs opc f).env f bid sid b x) s).wide then 2 else 1)
        ≤ (encMovs opc f).dst.span ((encMovs opc f).typeOf f x.mode) f := by
    rw [movsWrite_wide, encMovs_span]
    exact le_rfl
  cases ordered with
  | true => exact gives_one (fun f s => exec_movsO f s) (fun _ _ _ _ _ _ => movsBody_eq ..) (fun _ _ _ _ _ _ => movsWrite_dst ..) (hw _)
  | false => exact gives_one (fun f s => exec_movsU f s) (fun _ _ _ _ _ _ => movsBody_eq ..) (fun _ _ _ _ _ _ => movsWrite_dst ..) (hw _)

end Sys2Proof
end

section
/-! Moves, constants, packing, selection and special registers (R57, R90, R106 to R109, R128, R133). -/

namespace Sys2Proof

open Sys2Proof.Machine

/-- Settles O2: each instruction is one register result, whose value its lemma above gives. -/
theorem moveResults : Obligations.MoveResults := by
  unfold Obligations.MoveResults
  exact ⟨⟨mov_gives, movi_computes, getm_computes, pack_computes, unpk_computes, sel_computes⟩, aff_gives, unif_gives, unif_raises,
    movs_gives⟩

end Sys2Proof
end

section
/-! SUPPORT. GROW and SHRINK (R95, R111). -/

namespace Sys2Proof

open Sys2Proof.Machine

/-! ### GROW -/

/-- GROW's meaning (R111). -/
def growBody (v : Env) (s : State) : Res :=
  if v.o.scalar = 0 then .done {}
  else if s.poolSize v.b.die v.b.core < v.b.floor + v.o.scalar then .raise 0x0203 0 v.x.mask
  else if s.floorSum v.b.die v.b.core + v.o.scalar ≤ s.poolSize v.b.die v.b.core && !s.mustYield v.bid v.sid then
    doneEff (fun s => s.modBlock v.bid (fun b => { b with floor := b.floor + v.o.scalar }))
  else .wait (s.joinWaiters v.bid v.sid v.o.scalar true)

theorem exec_grow_body (f : Fields) (s : State) : exec (.grow f) s = runInstr (encGrow 0xF1) f growBody s := rfl

theorem Ready.quiet {e : Enc} {f : Fields} {s : State} {bid sid : Nat} {b : Block} {x : Slice} (h : Ready e f s bid sid b x) :
    s.mustYield bid sid = false :=
  State.mustYield_quiet s bid sid b h.slice.1 h.room.2.2.1 h.room.2.2.2

theorem grow_nothing : GivesIf .grow (fun _ => encGrow 0xF1) (fun v _ => v.o.scalar = 0) (fun _ _ => {}) :=
  givesIf_of (fun f s => exec_grow_body f s) (fun _ _ _ _ _ _ h h0 => runInstr_went_none h (if_pos h0) rfl rfl rfl (fun _ _ => rfl))

theorem grow_raisesFloor : GivesIf .grow (fun _ => encGrow 0xF1)
    (fun v s => v.o.scalar ≠ 0 ∧ v.b.floor + v.o.scalar ≤ s.poolSize v.b.die v.b.core ∧
      s.floorSum v.b.die v.b.core + v.o.scalar ≤ s.poolSize v.b.die v.b.core)
    (fun v _ => doing (fun s => s.modBlock v.bid (fun b => { b with floor := b.floor + v.o.scalar }))) := by
  refine givesIf_of (fun f s => exec_grow_body f s) (fun f s bid sid b x h hc => ?_)
  obtain ⟨h0, hpool, hsum⟩ := hc
  refine runInstr_went_none h ?_ rfl rfl rfl (fun _ _ => rfl)
  unfold growBody
  rw [if_neg h0, if_neg (Nat.not_lt.mpr hpool), if_pos (by simp only [hsum, decide_true, Bool.true_and, Bool.not_eq_true']; exact h.quiet)]
  rfl

theorem grow_raises : Raises .grow (fun _ => encGrow 0xF1)
    (fun v s c a m => v.o.scalar ≠ 0 ∧ s.poolSize v.b.die v.b.core < v.b.floor + v.o.scalar ∧ c = 0x0203 ∧ a = 0 ∧ m = v.x.mask) := by
  refine raises_of (fun f s => exec_grow_body f s) (fun f s bid sid b x _ c a m hc => ?_)
  obtain ⟨h0, hpool, rfl, rfl, rfl⟩ := hc
  exact (if_neg h0).trans (if_pos hpool)

theorem grow_waits : Waits .grow (fun _ => encGrow 0xF1)
    (fun v s s1 => v.o.scalar ≠ 0 ∧ v.b.floor + v.o.scalar ≤ s.poolSize v.b.die v.b.core ∧
      s.poolSize v.b.die v.b.core < s.floorSum v.b.die v.b.core + v.o.scalar ∧ s1 = s.joinWaiters v.bid v.sid v.o.scalar true) := by
  intro f s bid sid b x h s1 hc
  obtain ⟨h0, hpool, hsum, rfl⟩ := hc
  rw [exec_grow_body]
  refine runInstr_wait h.cur h.legal h.sources ?_
  unfold growBody
  rw [if_neg h0, if_neg (Nat.not_lt.mpr hpool), if_neg (by simp only [Nat.not_le.mpr hsum, decide_false, Bool.false_and, Bool.false_eq_true, not_false_eq_true])]

/-! ### SHRINK -/

/-- SHRINK's meaning (R111). -/
def shrinkBody (v : Env) (s : State) : Res :=
  if v.b.floor < v.o.scalar || v.b.floor - v.o.scalar < s.usedOf v.bid - v.lastWords (encGrow 0xF2) then .raise 0x0202 0 v.x.mask
  else doneEff (fun s => s.modBlock v.bid (fun b => { b with floor := b.floor - v.o.scalar }))

theorem exec_shrink_body (f : Fields) (s : State) : exec (.shrink f) s = runInstr (encGrow 0xF2) f shrinkBody s := rfl

theorem shrink_lowersFloor : GivesIf .shrink (fun _ => encGrow 0xF2)
    (fun v s => v.o.scalar ≤ v.b.floor ∧ s.usedOf v.bid - v.lastWords (encGrow 0xF2) ≤ v.b.floor - v.o.scalar)
    (fun v _ => doing (fun s => s.modBlock v.bid (fun b => { b with floor := b.floor - v.o.scalar }))) := by
  refine givesIf_of (fun f s => exec_shrink_body f s) (fun f s bid sid b x h hc => ?_)
  obtain ⟨hfloor, hused⟩ := hc
  exact runInstr_went_none h (if_neg (by simp [hfloor, hused])) rfl rfl rfl (fun _ _ => rfl)

theorem shrink_raises : Raises .shrink (fun _ => encGrow 0xF2)
    (fun v s c a m => (v.b.floor < v.o.scalar ∨ v.b.floor - v.o.scalar < s.usedOf v.bid - v.lastWords (encGrow 0xF2)) ∧
      c = 0x0202 ∧ a = 0 ∧ m = v.x.mask) := by
  refine raises_of (fun f s => exec_shrink_body f s) (fun f s bid sid b x _ c a m hc => ?_)
  obtain ⟨hlow, rfl, rfl, rfl⟩ := hc
  exact if_pos (by simpa only [Bool.or_eq_true, decide_eq_true_eq] using hlow)

end Sys2Proof
end

section
/-! SUPPORT. The words of a core's pool (R86, R94): what they depend on, and a slice of the same words put in a slice's place. -/

namespace Sys2Proof.Machine

/-- A read of a core after a change of a core. -/
theorem State.core_modCore (s : State) (d k e c : Nat) (f : Core → Core) :
    (s.modCore d k f).core e c = if d = e ∧ k = c then f (s.core d k) else s.core e c := by
  unfold State.modCore
  rw [State.core_modDie]
  by_cases hd : d = e
  · subst hd
    simp only [if_true, Tab.get?_put, true_and]
    by_cases hc : k = c
    · simp only [hc, if_true, Option.getD_some]
    · simp only [hc, if_false]
      rfl
  · simp only [hd, if_false, false_and]

/-- Two records that a list's filter and function treat alike, put at one place of a table. -/
theorem filter_map_put_congr {α β : Type} (t : Tab α) {k : Nat} {x y : α} {p : Nat × α → Bool} {g : Nat × α → β}
    (hp : p (k, x) = p (k, y)) (hg : g (k, x) = g (k, y)) : ((t.put k x).filter p).map g = ((t.put k y).filter p).map g := by
  induction t with
  | nil => simp only [Tab.put, List.filter_cons, hp]; split <;> simp only [List.map_cons, hg, List.filter_nil]
  | cons q t ih =>
    obtain ⟨i, z⟩ := q
    simp only [Tab.put]
    split
    · simp only [List.filter_cons, hp]; split <;> simp only [List.map_cons, hg]
    · split
      · simp only [List.filter_cons, hp]; split <;> simp only [List.map_cons, hg]
      · rw [List.filter_cons, List.filter_cons]; split <;> simp only [List.map_cons, ih]

theorem map_put_congr {α β : Type} (t : Tab α) {k : Nat} {x y : α} {g : Nat × α → β} (hg : g (k, x) = g (k, y)) :
    (t.put k x).map g = (t.put k y).map g := by
  simpa only [List.filter_true] using filter_map_put_congr t (p := fun _ => true) rfl hg

/-- A change of a slice changes the slices of a block only. -/
theorem Block.modSlice_eq (b : Block) (i : Nat) (f : Slice → Slice) : b.modSlice i f = { b with slices := (b.modSlice i f).slices } := by
  unfold Block.modSlice
  split <;> rfl

@[simp] theorem Block.modSlice_state (b : Block) (i : Nat) (f : Slice → Slice) : (b.modSlice i f).state = b.state := by
  rw [Block.modSlice_eq]
@[simp] theorem Block.modSlice_die (b : Block) (i : Nat) (f : Slice → Slice) : (b.modSlice i f).die = b.die := by
  rw [Block.modSlice_eq]
@[simp] theorem Block.modSlice_core (b : Block) (i : Nat) (f : Slice → Slice) : (b.modSlice i f).core = b.core := by
  rw [Block.modSlice_eq]
@[simp] theorem Block.modSlice_floor (b : Block) (i : Nat) (f : Slice → Slice) : (b.modSlice i f).floor = b.floor := by
  rw [Block.modSlice_eq]

theorem State.modSlice_of_get {s : State} {bid : Nat} {b : Block} (sid : Nat) (f : Slice → Slice) (hb : s.blocks.get? bid = some b) :
    s.modSlice bid sid f = { s with blocks := s.blocks.put bid (b.modSlice sid f) } := by
  unfold State.modSlice State.modBlock
  simp only [hb]

/-- Pools depend on blocks, fills and partition words. -/
theorem State.usedOf_congr {s t : State} (hb : t.blocks = s.blocks) (hf : t.fills = s.fills) (k : Nat) : t.usedOf k = s.usedOf k := by
  unfold State.usedOf State.drainOf
  rw [hb, hf]

theorem State.poolSize_congr {s t : State} {d c : Nat} (hp : (t.core d c).partw = (s.core d c).partw) : t.poolSize d c = s.poolSize d c := by
  unfold State.poolSize
  rw [hp]

theorem State.freeWords_congr {s t : State} {d c : Nat} (hb : t.blocks = s.blocks) (hf : t.fills = s.fills)
    (hp : (t.core d c).partw = (s.core d c).partw) : t.freeWords d c = s.freeWords d c := by
  unfold State.freeWords State.residents State.drainH State.orphanWords State.drainOf
  simp only [State.usedOf_congr hb hf, State.poolSize_congr hp, hb, hf]

section
variable {s : State} {bid sid : Nat} {b : Block} {y z : Slice}

/-- A slice that holds as many words leaves its block's use as it is. -/
theorem State.usedOf_sameWords (hb : s.blocks.get? bid = some b) (hw : y.words = z.words) (k : Nat) :
    (s.modSlice bid sid (fun _ => y)).usedOf k = (s.modSlice bid sid (fun _ => z)).usedOf k := by
  have hm : (b.modSlice sid (fun _ => y)).slices.map (fun p => p.2.words) = (b.modSlice sid (fun _ => z)).slices.map (fun p => p.2.words) := by
    unfold Block.modSlice
    split
    · exact map_put_congr _ hw
    · rfl
  rw [State.modSlice_of_get sid _ hb, State.modSlice_of_get sid _ hb]
  unfold State.usedOf State.drainOf
  simp only [Tab.get?_put]
  by_cases hk : bid = k
  · simp only [if_pos hk, hm]
  · simp only [if_neg hk]

/-- A slice that holds as many words leaves the free words of every pool as they are. -/
theorem State.freeWords_sameWords (hb : s.blocks.get? bid = some b) (hw : y.words = z.words) (d c : Nat) :
    (s.modSlice bid sid (fun _ => y)).freeWords d c = (s.modSlice bid sid (fun _ => z)).freeWords d c := by
  have hused := State.usedOf_sameWords (sid := sid) hb hw
  have hresidents : ((s.modSlice bid sid (fun _ => y)).residents d c).map (fun q => max q.2.floor ((s.modSlice bid sid (fun _ => y)).usedOf q.1))
      = ((s.modSlice bid sid (fun _ => z)).residents d c).map (fun q => max q.2.floor ((s.modSlice bid sid (fun _ => z)).usedOf q.1)) := by
    simp only [hused]
    unfold State.residents
    rw [State.modSlice_of_get sid (fun _ => y) hb, State.modSlice_of_get sid (fun _ => z) hb]
    exact filter_map_put_congr _ (by simp) (by simp)
  have hdrain : (s.modSlice bid sid (fun _ => y)).drainH d c = (s.modSlice bid sid (fun _ => z)).drainH d c := by
    unfold State.drainH
    rw [State.modSlice_of_get sid (fun _ => y) hb, State.modSlice_of_get sid (fun _ => z) hb]
    exact congrArg (fun l => List.sum l + s.orphanWords d c) (filter_map_put_congr _ (by simp) rfl)
  have hpool : (s.modSlice bid sid (fun _ => y)).poolSize d c = (s.modSlice bid sid (fun _ => z)).poolSize d c :=
    State.poolSize_congr (by rw [State.modSlice_of_get sid (fun _ => y) hb, State.modSlice_of_get sid (fun _ => z) hb]; rfl)
  unfold State.freeWords
  rw [hresidents, hdrain, hpool]

end

/-- A slice that leaves the waiters changes no pool. -/
theorem State.leaveWaiters_blocks (s : State) (bid sid : Nat) : (s.leaveWaiters bid sid).blocks = s.blocks := by
  unfold State.leaveWaiters
  split <;> rfl

theorem State.leaveWaiters_fills (s : State) (bid sid : Nat) : (s.leaveWaiters bid sid).fills = s.fills := by
  unfold State.leaveWaiters
  split <;> rfl

theorem State.leaveWaiters_partw (s : State) (bid sid d c : Nat) : ((s.leaveWaiters bid sid).core d c).partw = (s.core d c).partw := by
  unfold State.leaveWaiters
  split
  · rfl
  · rw [State.core_modCore]
    split
    · next h => obtain ⟨rfl, rfl⟩ := h; rfl
    · rfl

end Sys2Proof.Machine
end

section
/-! SUPPORT. POOLQ (R90, R112), whose value is read after the allocation for its own result: the value it writes takes the place of the
one it has allocated for. -/

namespace Sys2Proof.Machine

/-! ### A value written over a value -/

/-- A register written whole twice holds the second value (R90). -/
theorem writeV_over (act : BitVec 4) (u v : Quad Word) (t : Tag) (old : RegVal) :
    writeV act true v t (writeV act true u t old) = writeV act true v t old := by
  unfold writeV
  by_cases h : act = 0
  · subst h
    by_cases ho : old = .empty <;> simp [ho]
  · have hw : (decide (act = 0xF#4) || (true && decide (act ≠ 0))) = true := by
      rw [decide_eq_true h, Bool.and_self, Bool.or_true]
    simp only [hw, if_true]

theorem writeV_ne_empty (act : BitVec 4) (whole : Bool) (v : Quad Word) (t : Tag) (old : RegVal) : writeV act whole v t old ≠ .empty := by
  unfold writeV
  split
  · exact RegVal.noConfusion
  · split
    · split
      · exact RegVal.noConfusion
      · assumption
    · exact RegVal.noConfusion

/-- A register written whole has the words of its tag, whatever the value. -/
theorem writeV_words (act : BitVec 4) (u v : Quad Word) (t : Tag) (old : RegVal) :
    (writeV act true u t old).words = (writeV act true v t old).words := by
  unfold writeV
  split
  · rfl
  · split <;> rfl

theorem Slice.setReg_writeV (x : Slice) (k : Nat) (act : BitVec 4) (whole : Bool) (v : Quad Word) (t : Tag) (old : RegVal) :
    x.setReg k (writeV act whole v t old) = { x with regs := x.regs.put k (writeV act whole v t old) } := by
  rw [Slice.setReg, if_neg (writeV_ne_empty act whole v t old)]

/-- A result with another value. -/
def RegWrite.withValue (w : RegWrite) (q : Quad Dword) : RegWrite := { w with v := q }

@[simp] theorem RegWrite.withValue_withValue (w : RegWrite) (p q : Quad Dword) : (w.withValue p).withValue q = w.withValue q := rfl

/-- The results of an instruction with another register result. -/
def Out.withResult (o : Out) (w : RegWrite) : Out := { o with regs := [w] }

/-- A slice with registers released and the status of R92 set where an empty one was read. -/
def Slice.released (x : Slice) (rels : List Nat) (sticky : Bool) : Slice :=
  { rels.foldl (fun y k => y.setReg k .empty) x with sticky := x.sticky || sticky }

section
variable {w : RegWrite} (x : Slice) (q : Quad Dword)

theorem Slice.applyWrite_narrow (hn : w.wide = false) :
    x.applyWrite w = x.setReg w.d (writeV w.act w.whole (loWords w.v) w.t0 (x.reg w.d)) := by
  simp only [Slice.applyWrite, hn, Bool.false_eq_true, if_false]

/-- A whole result over another of the same register leaves what it leaves alone. -/
theorem Slice.applyWrite_over (hn : w.wide = false) (hw : w.whole = true) :
    (x.applyWrite w).applyWrite (w.withValue q) = x.applyWrite (w.withValue q) := by
  have h1 := Slice.applyWrite_narrow x hn
  have h2 (y : Slice) := Slice.applyWrite_narrow (w := w.withValue q) y hn
  rw [h2, h2, h1]
  have hv : writeV w.act w.whole (loWords q) w.t0 (writeV w.act w.whole (loWords w.v) w.t0 (x.reg w.d))
      = writeV w.act w.whole (loWords q) w.t0 (x.reg w.d) := by
    rw [hw]; exact writeV_over ..
  simp only [RegWrite.withValue, Slice.reg_setReg_self, hv]
  simp only [Slice.setReg_writeV, put_put]

/-- A whole result takes as many words, whatever its value. -/
theorem Slice.applyWrite_words_withValue (hn : w.wide = false) (hw : w.whole = true) :
    (x.applyWrite (w.withValue q)).words = (x.applyWrite w).words := by
  rw [Slice.applyWrite_narrow x hn, Slice.applyWrite_narrow (w := w.withValue q) x hn]
  simp only [RegWrite.withValue, hw, Slice.setReg_writeV, Slice.words]
  refine congrArg List.sum (map_put_congr _ ?_)
  simp only [writeV_words w.act (loWords q) (loWords w.v)]

end

/-! ### Completion with a value that is read after the allocation -/

/-- The slice that the allocation for an instruction's results leaves, of which what is read after it is read. -/
def Slice.allocated (x : Slice) (f : Fields) (rels : List Nat) (sticky : Bool) (o : Out) : Slice :=
  { x.afterWrites f.n rels o o.regs with sticky := x.sticky || sticky }

/-- The status of R92 and a register result do not meet. -/
theorem Slice.applyWrite_sticky (x : Slice) (w : RegWrite) (t : Bool) (hn : w.wide = false) :
    { x.applyWrite w with sticky := t } = { x with sticky := t }.applyWrite w := by
  simp only [Slice.applyWrite_narrow _ hn, Slice.setReg_writeV]
  rfl

section
variable {x : Slice} {f : Fields} {rels : List Nat} {sticky : Bool} {o : Out} {w : RegWrite} {q : Quad Dword}

theorem Slice.allocated_eq (hl : o.fills = []) (ho : o.regs = [w]) (hn : w.wide = false) :
    x.allocated f rels sticky o =
      if f.n then x.released rels sticky else (x.released rels sticky).applyWrite w := by
  simp only [Slice.allocated, Slice.afterWrites, hl, ho, List.foldl_nil, List.foldl_cons]
  split
  · rfl
  · exact Slice.applyWrite_sticky _ _ _ hn

/-- The value that is read last stands in the slice as if it had been the result from the start. -/
theorem Slice.finish_withValue (opc : Nat) (hl : o.fills = []) (ho : o.regs = [w]) (hn : w.wide = false) (hw : w.whole = true) :
    (if f.n then x.allocated f rels sticky o else (x.allocated f rels sticky o).applyWrite (w.withValue q)).retire opc f o [w.withValue q]
      = x.finish opc f rels sticky (o.withResult (w.withValue q)) := by
  have h1 := Slice.allocated_eq (x := x) (f := f) (rels := rels) (sticky := sticky) hl ho hn
  have h2 := Slice.allocated_eq (x := x) (f := f) (rels := rels) (sticky := sticky) (o := o.withResult (w.withValue q)) hl rfl hn
  change _ = (if f.n then x.allocated f rels sticky (o.withResult (w.withValue q))
    else (x.allocated f rels sticky (o.withResult (w.withValue q))).applyWrite (w.withValue q)).retire opc f o [w.withValue q]
  rw [h1, h2]
  cases f.n with
  | true => rfl
  | false =>
    simp only [Bool.false_eq_true, if_false]
    have hover := Slice.applyWrite_over (w := w.withValue q) (x.released rels sticky) q hn hw
    rw [RegWrite.withValue_withValue] at hover
    rw [hover, Slice.applyWrite_over _ _ hn hw]

/-- The slice holds as many words when the allocation has been made as when the value that is read after it stands in its place. -/
theorem Slice.finish_words (opc : Nat) (hl : o.fills = []) (ho : o.regs = [w]) (hn : w.wide = false) (hw : w.whole = true) :
    (x.finish opc f rels sticky (o.withResult (w.withValue q))).words = (x.allocated f rels sticky o).words := by
  have hretire (y : Slice) : (y.retire opc f o [w.withValue q]).words = y.words := by rw [Slice.retire_eq]; rfl
  rw [← Slice.finish_withValue opc hl ho hn hw, hretire, Slice.allocated_eq hl ho hn]
  cases f.n with
  | true => rfl
  | false =>
    simp only [Bool.false_eq_true, if_false]
    rw [Slice.applyWrite_over _ _ hn hw, Slice.applyWrite_words_withValue _ _ hn hw]

/-- An instruction that has its words and whose value is read after the allocation completes with that value. -/
theorem complete_reads {s : State} {bid sid : Nat} (opc : Nat) (hx : s.slice? bid sid = some x) (hr : o.rels = []) (hl : o.fills = [])
    (ho : o.regs = [w]) (hn : w.wide = false) (hw : w.whole = true) (ht : f.n = false → (x.reg w.d).isPend = false)
    (ha : s.alloc bid sid (x.need (x.afterWrites f.n rels o o.regs) []) = (s, true))
    (hf : o.fix (s.modSlice bid sid (fun _ => x.allocated f rels sticky o)) [w] = [w.withValue q]) :
    complete opc f bid sid rels sticky o s = o.eff ((s.modSlice bid sid
      (fun _ => x.finish opc f rels sticky (o.withResult (w.withValue q)))).leaveWaiters bid sid) := by
  have htargets : ((if f.n then [] else o.regs.flatMap RegWrite.targets) ++ o.fills).any
      (fun k => (x.reg k).isPend && !(rels ++ o.rels).contains k) = false := by
    rw [hl, ho, List.append_nil]
    cases hfn : f.n with
    | true => rfl
    | false => simp [RegWrite.targets, hn, ht hfn]
  have hz : s.modSlice bid sid (fun y => { y.afterWrites f.n rels o [w] with sticky := y.sticky || sticky })
      = s.modSlice bid sid (fun _ => x.allocated f rels sticky o) := by
    rw [State.modSlice_eq _ _ _ _ hx, Slice.allocated, ho]
  unfold complete
  simp only [hx, htargets, Bool.false_eq_true, if_false]
  rw [hr, List.append_nil, ha]
  unfold completeNow
  simp only [hx, hr, ho, List.append_nil, List.filter_nil, State.dropRegs_nil hx, State.modSlice_modSlice]
  rw [hz, hf, State.modSlice_eq _ _ _ _ hx]
  rw [← Slice.finish_withValue (x := x) (f := f) (rels := rels) (sticky := sticky) (q := q) opc hl ho hn hw,
    Slice.allocated, ho]
  rfl

end

end Sys2Proof.Machine
end

section
/-! SUPPORT. What POOLQ reads (R94, R112), in the state that it leaves. -/

namespace Sys2Proof

open Sys2Proof.Machine

@[simp] theorem Machine.State.modSlice_core (s : State) (b i : Nat) (f : Slice → Slice) (d c : Nat) :
    (s.modSlice b i f).core d c = s.core d c := by
  unfold State.core State.die
  rw [State.modSlice_dies, State.modSlice_fuses]

theorem Machine.State.modSlice_blocks_congr {s t : State} (h : t.blocks = s.blocks) (b i : Nat) (f : Slice → Slice) :
    (t.modSlice b i f).blocks = (s.modSlice b i f).blocks := by
  unfold State.modSlice State.modBlock
  rw [h]
  split <;> simp only [h]

section
variable {s : State} {bid sid : Nat} {b : Block} {y z : Slice} {g : Slice → Slice}

theorem settled_modSlice_blocks : ((settled s bid sid y).modSlice bid sid g).blocks = (s.modSlice bid sid (fun _ => g y)).blocks := by
  unfold settled
  rw [State.modSlice_blocks_congr (State.leaveWaiters_blocks _ _ _), State.modSlice_modSlice]

theorem settled_modSlice_fills : ((settled s bid sid y).modSlice bid sid g).fills = s.fills := by
  rw [State.modSlice_fills, settled, State.leaveWaiters_fills, State.modSlice_fills]

theorem settled_modSlice_partw (d c : Nat) : (((settled s bid sid y).modSlice bid sid g).core d c).partw = (s.core d c).partw := by
  rw [State.modSlice_core, settled, State.leaveWaiters_partw, State.modSlice_core]

/-- The pools after an instruction are those of any state in whose slice's place one with as many words stands. -/
theorem settled_usedOf (hb : s.blocks.get? bid = some b) (hw : (g y).words = z.words) (k : Nat) :
    ((settled s bid sid y).modSlice bid sid g).usedOf k = (s.modSlice bid sid (fun _ => z)).usedOf k :=
  (State.usedOf_congr (s := s.modSlice bid sid (fun _ => g y)) settled_modSlice_blocks
    (settled_modSlice_fills.trans (State.modSlice_fills ..).symm) k).trans (State.usedOf_sameWords hb hw k)

theorem settled_freeWords (hb : s.blocks.get? bid = some b) (hw : (g y).words = z.words) (d c : Nat) :
    ((settled s bid sid y).modSlice bid sid g).freeWords d c = (s.modSlice bid sid (fun _ => z)).freeWords d c :=
  (State.freeWords_congr (s := s.modSlice bid sid (fun _ => g y)) settled_modSlice_blocks
    (settled_modSlice_fills.trans (State.modSlice_fills ..).symm)
    ((settled_modSlice_partw d c).trans (by rw [State.modSlice_core]))).trans (State.freeWords_sameWords hb hw d c)

end

/-- The row of POOLQ (R104). -/
def encPoolq : Enc := { opc := 0xF3, lens := [2], dst := .w32, md := 7 }

/-- POOLQ's register result, before its value is known (R112). -/
def poolqWrite (v : Env) : RegWrite := ⟨v.f.dst.toNat, false, Quad.all 0, .u, .u, true, v.act⟩

/-- What POOLQ does to its slice beside its result: the query of the sticky status clears it (R112). -/
def poolqClears (v : Env) (x : Slice) : Slice := if v.md = 7 then { x with sticky := false } else x

/-- POOLQ's results (R112). -/
def poolqOut (v : Env) : Out :=
  { regs := [poolqWrite v]
    fix := fun s rs => rs.map (fun r => { r with v := Quad.all (BitVec.ofNat 64 (poolqValue v s)) })
    eff := v.onSlice (poolqClears v) }

theorem exec_poolq_body (f : Fields) (s : State) : exec (.poolq f) s = runInstr encPoolq f (fun v _ => .done (poolqOut v)) s := rfl

theorem poolqClears_words (v : Env) (x : Slice) : (poolqClears v x).words = x.words := by
  unfold poolqClears
  split <;> rfl

/-- POOLQ gives what it reads in the state `z` stands in, and leaves pools like those of that state. -/
theorem poolq_completes {f : Fields} {s : State} {bid sid : Nat} {b : Block} {x : Slice} (h : Ready encPoolq f s bid sid b x) :
    let v := encPoolq.env f bid sid b x
    ∃ y z, y.words = z.words ∧
      let n := poolqValue v (s.modSlice bid sid (fun _ => z))
      exec (.poolq f) s = .next (v.onSlice (poolqClears v) (settled s bid sid y)) ∧
        Went encPoolq f x { regs := [(poolqWrite v).withValue (Quad.all (BitVec.ofNat 64 n))] } y := by
  intro v
  let rels := releasedRegs (encPoolq.typeOf f x.mode) f (encPoolq.sources f)
  let sticky := x.readsEmpty (encPoolq.typeOf f x.mode) f (encPoolq.sources f)
  let z := x.allocated f rels sticky (poolqOut v)
  let q := Quad.all (BitVec.ofNat 64 (poolqValue v (s.modSlice bid sid (fun _ => z))))
  refine ⟨x.finish encPoolq.opc f rels sticky ((poolqOut v).withResult ((poolqWrite v).withValue q)), z,
    Slice.finish_words _ rfl rfl rfl rfl, ?_, ?_⟩
  · rw [exec_poolq_body, runInstr_done h.cur h.legal h.sources rfl]
    refine congrArg _ (complete_reads _ h.slice.2 rfl rfl rfl rfl rfl (fun hn => h.dst hn 0 Nat.one_pos) (h.alloc _ ?_) rfl)
    exact (Slice.need_le x f.n rels (poolqOut v)).trans (show 8 * 1 + 4 * 0 ≤ 128 by decide)
  · exact Slice.finish_went (o := { regs := [(poolqWrite v).withValue q] }) rfl (fun _ => apart_one _) (fun _ k hk => by cases hk)

end Sys2Proof
end

section
/-! GROW, SHRINK and POOLQ (R90, R95, R111, R112). -/

namespace Sys2Proof

open Sys2Proof.Machine

/-- Settles O8: GROW and SHRINK answer by the floors; what POOLQ reads is the same in the state of its allocation and in the one it
leaves. -/
theorem poolInstructions : Obligations.PoolInstructions := by
  unfold Obligations.PoolInstructions
  refine ⟨⟨grow_nothing, grow_raisesFloor, grow_raises, grow_waits, shrink_lowersFloor, shrink_raises⟩, ?poolq⟩
  intro f s bid sid b x e h v
  obtain ⟨y, z, hw, hexec, hwent⟩ := poolq_completes h
  have hwords : (poolqClears v y).words = z.words := (poolqClears_words v y).trans hw
  have hb := h.slice.1
  refine ⟨y, _, _, hexec, rfl, hwent, ?_⟩
  have hslice : (s.modSlice bid sid (fun _ => z)).slice? bid sid = some z := by
    rw [State.slice?_modSlice_self, h.slice.2]; rfl
  have hpool : (s.modSlice bid sid (fun _ => z)).poolSize b.die b.core = s.poolSize b.die b.core :=
    State.poolSize_congr (by rw [State.modSlice_core])
  have hdrain : (s.modSlice bid sid (fun _ => z)).drainOf bid = s.drainOf bid := by
    unfold State.drainOf
    rw [State.modSlice_fills]
  have hfree := settled_freeWords (sid := sid) (g := poolqClears v) hb hwords b.die b.core
  have hused := settled_usedOf (sid := sid) (g := poolqClears v) hb hwords bid
  show poolqValue v (s.modSlice bid sid (fun _ => z)) = _
  unfold poolqValue
  simp only [show v.bid = bid from rfl, show v.sid = sid from rfl, show v.b = b from rfl, hslice, hpool, hdrain, ← hfree, ← hused, ← hw]
  rfl

end Sys2Proof
end

section
/-! SUPPORT. A fetch changes no resident block: a verdict and a recall touch caches, lines, memory and the error log, and a write that fires a
monitor readies only a saved block (R248, R250). -/

namespace Sys2Proof

open Sys2Proof.Machine

/-- Every block resident on a core is as it was. -/
structure ResidentsKept (s t : State) : Prop where
  block : ∀ k b, s.blocks.get? k = some b → b.state = .resident → t.blocks.get? k = some b

namespace ResidentsKept

theorem of_blocks {s t : State} (h : t.blocks = s.blocks) : ResidentsKept s t := ⟨fun _ _ hb _ => h ▸ hb⟩

theorem refl (s : State) : ResidentsKept s s := of_blocks rfl

theorem trans {s t u : State} (h : ResidentsKept s t) (k : ResidentsKept t u) : ResidentsKept s u :=
  ⟨fun j b hb hr => k.block j b (h.block j b hb hr) hr⟩

theorem foldl {α : Type} {f : State → α → State} (hf : ∀ s a, ResidentsKept s (f s a)) (l : List α) (s : State) :
    ResidentsKept s (l.foldl f s) := by
  induction l generalizing s with
  | nil => exact refl s
  | cons a l ih => exact (hf s a).trans (ih (f s a))

theorem modLine (s : State) (d pa : Nat) (f : BayLine → BayLine) : ResidentsKept s (s.modLine d pa f) := of_blocks rfl

/-! ### Lines and guests (R181 to R183) -/

theorem dropGuests (s : State) (d : Nat) (p : Guest → Bool) : ResidentsKept s (s.dropGuests d p) := by
  have hdropped : ResidentsKept s (s.modDie d (fun x => { x with guests := x.guests.filter (fun g => !p g) })) := of_blocks rfl
  refine hdropped.trans (foldl (fun s g => ?_) _ _)
  split
  · exact modLine ..
  · exact refl s

theorem evictLine (s : State) (d line : Nat) : ResidentsKept s (s.evictLine d line) :=
  (foldl (fun s _ => dropGuests s _ _) _ s).trans (modLine ..)

theorem makeWay (s : State) (d bay set : Nat) : ResidentsKept s (s.makeWay d bay set).1 := by
  unfold State.makeWay
  simp only
  split
  · exact refl s
  · split
    · exact refl s
    · exact evictLine ..
    · exact dropGuests ..
    · split
      · exact evictLine ..
      · exact dropGuests ..
    · exact refl s

theorem touchLine (s : State) (d pa n : Nat) (write alloc : Bool) : ResidentsKept s (s.touchLine d pa n write alloc) := by
  have hway : ResidentsKept s (s.wayFor d pa).1 := by
    unfold State.wayFor
    split
    · exact refl s
    · exact makeWay ..
  unfold State.touchLine
  simp only
  split
  · exact modLine ..
  · split
    · exact refl s
    · split
      case h_1 s1 h => rw [h] at hway; exact hway.trans (modLine ..)
      case h_2 s1 h => rw [h] at hway; exact hway

/-! ### Monitors (R248) -/

theorem wakeDormant (s : State) (bid : Nat) : ResidentsKept s (s.wakeDormant bid) := by
  unfold State.wakeDormant
  split
  · exact refl s
  · next c hc =>
    split
    · next hs =>
      refine ⟨fun k b hb hr => ?_⟩
      have hk : k ≠ bid := by
        rintro rfl
        obtain rfl : b = c := Option.some.inj (hb.symm.trans hc)
        simp [hr] at hs
      rw [State.modDie_blocks, State.freeMonitors, State.modBlock_get, if_neg hk.symm, hb]
    · exact refl s

theorem toRun (s : State) : ResidentsKept s s.toRun := by
  unfold State.toRun
  split
  · exact refl s
  · exact of_blocks rfl

theorem fireMonitors (s : State) (d pa n : Nat) : ResidentsKept s (s.fireMonitors d pa n) := by
  refine ResidentsKept.trans ?_ (foldl (fun s _ => wakeDormant s _) _ _)
  have hfreed (p : Nat × Monitor → Bool) :
      ResidentsKept s (s.modDie d (fun x => { x with monitors := x.monitors.filter p })) := of_blocks rfl
  split
  · exact hfreed _
  · exact (hfreed _).trans (toRun _)

/-! ### Writes at the home, and the error log (R223, R396) -/

theorem applyWrite (s : State) (d pa : Nat) (data : List Byte) (die core req : Nat) (alloc : Bool) :
    ResidentsKept s (s.applyWrite d pa data die core req alloc).1 := by
  have hbytes : ResidentsKept s ((s.physWrite d pa data).clearPoison d pa data.length) := of_blocks rfl
  have htouched {t : State} (ht : t.blocks = (((s.physWrite d pa data).clearPoison d pa data.length).touchLine d pa data.length true alloc).blocks) :
      ResidentsKept s t := (hbytes.trans (touchLine _ d pa data.length true alloc)).trans (of_blocks ht)
  unfold State.applyWrite
  simp only
  refine ResidentsKept.trans ?_ (fireMonitors ..)
  split
  · exact htouched rfl
  · refine (htouched ?clock).trans (foldl ?message _ _)
    case clock => rfl
    case message => exact fun _ _ => of_blocks rfl

theorem store (s : State) (d pa : Nat) (data : List Byte) : ResidentsKept s (s.store d pa data) := by
  unfold State.store
  generalize data.length / 1024 + 2 = fuel
  induction fuel generalizing s pa data with
  | zero => exact refl s
  | succ fuel ih =>
    unfold State.storeLines
    split
    · exact refl s
    · exact (applyWrite ..).trans (ih ..)

theorem log (s : State) (ctx : Nat) (e : LogRec) : ResidentsKept s (s.log ctx e) := by
  unfold State.log
  split
  · exact refl s
  · exact ((store ..).trans (store ..)).trans (of_blocks (State.modCtx_blocks ..))

/-! ### The recall of update-only copies (R254, R257) -/

theorem applyPartial (s : State) (die core : Nat) (l : CLine) (op ty : Nat) (p : Nat × Dword) :
    ResidentsKept s (s.applyPartial die core l op ty p) := by
  unfold State.applyPartial
  simp only
  split
  · exact log ..
  · exact applyWrite ..

theorem applyUo (s : State) (die core : Nat) (l : CLine) : ResidentsKept s (s.applyUo die core l) := by
  unfold State.applyUo
  split
  · exact foldl (fun s p => applyPartial s die core l _ _ p) _ s
  · exact refl s

theorem flushUo (s : State) (die core : Nat) (p : CLine → Bool) : ResidentsKept s (s.flushUo die core p) := by
  unfold State.flushUo
  simp only
  refine (ResidentsKept.trans ?emptied (foldl ?left _ _)).trans (foldl (fun s l => applyUo s die core l) _ _)
  case emptied => exact of_blocks rfl
  case left =>
    intro s l
    split
    · exact refl s
    · exact modLine ..

theorem recalled (s : State) (d pa : Nat) : ResidentsKept s (s.recall d pa) := by
  unfold State.recall
  refine foldl (fun t (u : Nat × Nat) => ?_) _ s
  exact flushUo ..

/-! ### The fetch (R29, R52 steps 1 to 4) -/

theorem hostFetch (s : State) (p pa n : Nat) (leaf : Dword) : ResidentsKept s (s.hostFetch p pa n leaf).1 := by
  unfold State.hostFetch
  simp only
  split
  · exact of_blocks rfl
  · exact refl s

theorem fetchWord (s : State) (b : Block) (pc : Dword) : ResidentsKept s (s.fetchWord b pc).1 := by
  unfold State.fetchWord
  split
  · exact refl s
  · exact refl s
  · next o _ _ =>
    have hjudged : ResidentsKept s (s.verdict b.ctx o pc.toNat .fetch (s.keysOf b.ctx b.die) .slice).1 :=
      of_blocks (by rw [(judged_verdict s b.ctx o pc.toNat .fetch (s.keysOf b.ctx b.die) .slice).1])
    split
    case h_1 hv => rw [hv] at hjudged; exact hjudged
    case h_2 hv => rw [hv] at hjudged; exact hjudged
    case h_3 s1 l hv =>
      rw [hv] at hjudged
      split
      · exact hjudged.trans (hostFetch ..)
      · dsimp only
        split <;> exact hjudged.trans (recalled ..)

theorem fetchTail (b : Block) (pc : Dword) (n k : Nat) (s : State) : ResidentsKept s (State.fetchTail b pc n k s).1 := by
  induction n generalizing k s with
  | zero => exact refl s
  | succ n ih =>
    have hword := fetchWord s b (pc + BitVec.ofNat 64 (4 * k))
    unfold State.fetchTail
    simp only
    split
    case h_1 h => rw [h] at hword; exact hword
    case h_2 h => rw [h] at hword; exact hword
    case h_3 s1 w h =>
      rw [h] at hword
      have htail := hword.trans (ih (k + 1) s1)
      split
      case h_1 ht => rw [ht] at htail; exact htail
      case h_2 => exact htail

theorem fetchAt (s : State) (b : Block) (pc : Dword) : ResidentsKept s (s.fetchAt b pc).1 := by
  have hbase := fetchTail b pc 1 0 s
  unfold State.fetchAt
  split
  case h_1 h => rw [h] at hbase; exact hbase
  case h_2 s1 ws h =>
    rw [h] at hbase
    have htail := hbase.trans (fetchTail b pc (lenOf (ws.headD 0)) 1 s1)
    simp only
    split
    · exact hbase
    · split
      case h_1 ht => rw [ht] at htail; exact htail
      case h_2 s2 ts ht =>
        rw [ht] at htail
        split <;> exact htail

end ResidentsKept

end Sys2Proof
end

section
/-! SUPPORT. An instruction executed again is the instruction (R52, R152), and it leads to a state where its slice can execute. -/

namespace Sys2Proof.Machine

/-- What executes an instruction of a slice again is what executes it. -/
theorem rerun_eq_exec {i : Instr} (h : i.parts? ≠ none) (s : State) : rerun i s = exec i s := by
  cases i <;> simp only [Instr.parts?, ne_eq, not_true_eq_false, reduceCtorEq, not_false_eq_true] at h
  all_goals rfl

/-- A step that is no instruction of a slice does nothing when it is executed again. -/
theorem rerun_of_parts?_eq_none {i : Instr} (h : i.parts? = none) (s : State) : rerun i s = .next s := by
  cases i <;> simp only [Instr.parts?, reduceCtorEq] at h
  all_goals rfl

/-- Every instruction of a slice has a row, of the lane table or of the cross-lane table. -/
theorem row_of_parts? {i : Instr} (h : i.parts? ≠ none) (mode : Word) (w : Nat) :
    (∃ p, laneRow mode i = some p) ∨ ∃ p, setRow w i = some p := by
  cases i <;> simp only [Instr.parts?, ne_eq, not_true_eq_false, reduceCtorEq, not_false_eq_true] at h
  case qnt f =>
    delta laneRow setRow
    dsimp only
    split
    · exact .inl ⟨_, rfl⟩
    · exact .inr ⟨_, rfl⟩
  case shfl | bcast | vote | rdx | scan | topk => exact .inr ⟨_, rfl⟩
  all_goals exact .inl ⟨_, rfl⟩

/-- Where a slice can execute, the cross-lane frame always has a next state. -/
theorem runCross_isNext {e : Enc} {f : Fields} {body : List Env → Env → Out × (Nat → Excs)} {s : State} {bid sid : Nat} {b : Block}
    {x : Slice} (hc : s.curSlice = some (bid, sid, b, x)) : ∃ t, runCross e f body s = .next t := by
  unfold runCross
  simp only [hc]
  split
  · exact ⟨_, rfl⟩
  · split
    · exact ⟨_, rfl⟩
    · split
      · exact ⟨_, rfl⟩
      · split
        · exact ⟨_, rfl⟩
        · split
          · exact ⟨_, rfl⟩
          · split <;> exact ⟨_, rfl⟩

/-- Where a slice can execute, an instruction executed again leads to a next state. -/
theorem rerun_isNext {s : State} {bid sid : Nat} {b : Block} {x : Slice} (i : Instr) (hc : s.curSlice = some (bid, sid, b, x)) :
    ∃ t, rerun i s = .next t := by
  by_cases hp : i.parts? = none
  · exact ⟨s, rerun_of_parts?_eq_none hp s⟩
  · rw [rerun_eq_exec hp]
    obtain ⟨⟨f, e⟩, hrow⟩ | ⟨⟨f, e⟩, hrow⟩ := row_of_parts? hp s.curMode s.curWidth
    · obtain ⟨body, hexec⟩ := exec_of_laneRow hrow
      exact hexec ▸ runInstr_isNext hc
    · obtain ⟨body, hexec⟩ := exec_of_setRow hrow
      exact hexec ▸ runCross_isNext hc

end Sys2Proof.Machine
end

section
/-! Waits that end (R96, R99, R152, R168, R249): the waiting slice executes the instruction at its pc again. -/

namespace Sys2Proof

open Sys2Proof.Machine

/-- The latch sources that slices of a block had read and stowed taken back (R40). -/
def Machine.Block.takeLatches (b : Block) (ids : List Nat) : Block := ids.foldl (fun b k => b.modSlice k Slice.takeLatches) b

/-- The slices of a part take back the latch sources that they had read and stowed (R40). -/
def Machine.State.takeLatches (s : State) (bid part : Nat) : State := s.modBlock bid (fun b => b.takeLatches (b.partMembers part))

/-- A block whose slices take their latches back is in the state it was in, and so is every slice of it. -/
theorem Machine.Block.takeLatches_keeps (ids : List Nat) {b : Block} {sid : Nat} {x : Slice} (hx : b.slices.get? sid = some x) :
    (b.takeLatches ids).state = b.state ∧
      ∃ y, (b.takeLatches ids).slices.get? sid = some y ∧ y.run = x.run := by
  induction ids generalizing b x with
  | nil => exact ⟨rfl, x, hx, rfl⟩
  | cons k ids ih =>
    have hy : ∃ y, (b.modSlice k Slice.takeLatches).slices.get? sid = some y ∧ y.run = x.run := by
      rw [Block.modSlice_get]
      split
      · next hk => exact ⟨x.takeLatches, by rw [hk, hx]; rfl, rfl⟩
      · exact ⟨x, hx, rfl⟩
    obtain ⟨y, hget, hrun⟩ := hy
    obtain ⟨hstate, z, hz, hzrun⟩ := ih hget
    exact ⟨hstate.trans (Block.modSlice_state ..), z, hz, hzrun.trans hrun⟩

section
variable {s s1 s2 : State} {bid sid : Nat} {b : Block} {x : Slice} {i : Instr}

/-- After the fetch the waiting slice can execute. -/
theorem curSlice_of_refetch {part : Nat} {pc : Dword} {r : FetchRes} (hb : s.blocks.get? bid = some b) (hx : b.slices.get? sid = some x)
    (hres : b.state = .resident) (hrun : x.run = .waiting) (hfetch : (s.takeLatches bid part).fetchAt b pc = (s1, r)) :
    ∃ c y, { s1 with cur := some (bid, sid) }.curSlice = some (bid, sid, c, y) := by
  obtain ⟨hstate, y, hy, hyrun⟩ := Block.takeLatches_keeps (b.partMembers part) hx
  have hkept := ResidentsKept.fetchAt (s.takeLatches bid part) b pc
  rw [hfetch] at hkept
  have htaken : (s.takeLatches bid part).blocks.get? bid = some (b.takeLatches (b.partMembers part)) := by
    rw [State.takeLatches, State.modBlock_get, if_pos rfl, hb, Option.map_some]
  have hs1 := hkept.block bid _ htaken (hstate.trans hres)
  refine ⟨b.takeLatches (b.partMembers part), y, ?_⟩
  simp only [State.curSlice, hs1, hy]
  rw [if_pos]
  simp [hstate, hres, hyrun, hrun]

/-- A slice that waits and may go on executes what is fetched at its pc, and its part is divided. -/
theorem rerunSlice_runs {ex : Meanings} (hb : s.blocks.get? bid = some b) (hx : s.slice? bid sid = some x) (hres : b.state = .resident)
    (hfroz : s.frozen = false) (hmay : s.mayRerun b.ctx x = true) (hrun : x.run = .waiting) (hfaults : x.faults = [])
    (hfetch : (s.takeLatches bid x.part).fetchAt b x.pc = (s1, .run i))
    (hex : ex i { s1 with cur := some (bid, sid) } = .next s2) :
    rerunSlice ex bid sid s = .next (s2.settle bid (b.partMembers x.part)) := by
  unfold State.takeLatches Block.takeLatches at hfetch
  simp [rerunSlice, hb, hx, hres, hfroz, hmay, hrun, hfaults, hfetch, runFetched, hex]

end

/-- A wait for pool words is served in the pool's order: the first waiter that can be served executes its instruction again (R96). -/
theorem execPoolWaitServed_slice {s : State} {die core : Nat} {w : PoolWait} (hw : (s.waitOrder die core).find? s.servable = some w)
    (hone : w.sid ≠ wholeBlock) : execPoolWaitServed die core s = rerunSlice rerun w.bid w.sid s := by
  simp only [execPoolWaitServed, hw, if_neg hone]

/-- A restored block that can be served takes its words (R99). -/
theorem execPoolWaitServed_block {s : State} {die core : Nat} {w : PoolWait} (hw : (s.waitOrder die core).find? s.servable = some w)
    (hwhole : w.sid = wholeBlock) : execPoolWaitServed die core s = .next (s.takeWords w.bid w.words) := by
  simp only [execPoolWaitServed, hw, if_pos hwhole]

/-- Settles O37: the fetch leaves the waiting slice's block resident, so that the instruction executed again has a next state; each event
that ends a wait is this execution under a condition of its own. -/
theorem waitsEnd : Obligations.WaitsEnd := by
  unfold Obligations.WaitsEnd
  refine ⟨⟨?slice, ?block⟩, fun i s hi => rerun_eq_exec hi s⟩
  case slice =>
    intro s bid sid b x s1 i hb hx hres hfroz hmay hrun hfaults hfetch
    have hxb : b.slices.get? sid = some x := by simpa [State.slice?, hb] using hx
    have hmay' : s.mayRerun b.ctx x = true := by simpa [State.mayRerun] using hmay
    obtain ⟨c, y, hcur⟩ := curSlice_of_refetch hb hxb hres hrun hfetch
    obtain ⟨s2, hs2⟩ := rerun_isNext i hcur
    have hagain := rerunSlice_runs hb hx hres hfroz hmay' hrun hfaults hfetch hs2
    refine ⟨s2, hs2, ?satisfied, ?poll, ?callSet, ?served⟩
    case satisfied =>
      intro hpool
      rw [exec_waitSatisfied, execWaitSatisfied, hpool]
      exact hagain
    case poll =>
      intro hmon hpool
      rw [exec_monitorPoll, execMonitorPoll, hmon, hpool]
      exact hagain
    case callSet =>
      intro hready
      have hset : (b.callSetReady sid x.pc).isSome = true := Option.isSome_iff_ne_none.mpr hready
      rw [exec_callSetRelease, execCallSetRelease, hb, hx]
      simp only [hset, if_true]
      exact hagain
    case served =>
      rintro die core w hw rfl rfl hone
      rw [exec_poolWaitServed, execPoolWaitServed_slice hw hone]
      exact hagain
  case block =>
    intro s die core w hw hwhole
    rw [exec_poolWaitServed, execPoolWaitServed_block hw hwhole]

end Sys2Proof
end

section
/-! SUPPORT. What differs where one slice has become another and waits for no pool words: nothing else of the machine (R85, R96). -/

namespace Sys2Proof

open Sys2Proof.Machine

section
variable {s : State} {bid sid : Nat} {b : Block} {x y : Slice}

/-- A slice of a block that is there settles: the block's slice is put, and its requests leave the waiters of the block's core. -/
theorem settled_eq (y : Slice) (hb : s.blocks.get? bid = some b) :
    settled s bid sid y = (s.modSlice bid sid (fun _ => y)).modCore b.die b.core (fun c =>
      { c with waiters := c.waiters.filter (fun w => !(w.bid == bid && w.sid == sid)) }) := by
  have hget : (s.modSlice bid sid (fun _ => y)).blocks.get? bid = some (b.modSlice sid (fun _ => y)) := by
    rw [State.modSlice, State.modBlock_get, if_pos rfl, hb, Option.map_some]
  simp only [settled, State.leaveWaiters, hget, Block.modSlice_die, Block.modSlice_core]

/-- A change of the settled slice is a change of what it settles as. -/
theorem settled_modSlice (g : Slice → Slice) (hb : s.blocks.get? bid = some b) :
    (settled s bid sid y).modSlice bid sid g = settled s bid sid (g y) := by
  have hcomm (t : State) (d c : Nat) (h : Core → Core) : (t.modCore d c h).modSlice bid sid g = (t.modSlice bid sid g).modCore d c h := by
    unfold State.modSlice State.modBlock
    rw [State.modCore_blocks]
    split <;> rfl
  rw [settled_eq y hb, settled_eq (g y) hb, hcomm, State.modSlice_modSlice]

theorem settled_only (y : Slice) (hb : s.blocks.get? bid = some b) :
    settled s bid sid y = { s with blocks := (settled s bid sid y).blocks, dies := (settled s bid sid y).dies } := by
  rw [settled_eq y hb, State.modSlice_of_get sid _ hb]
  rfl

theorem settled_slice (y : Slice) (hb : s.blocks.get? bid = some b) (c k : Nat) :
    (settled s bid sid y).slice? c k = if bid = c ∧ sid = k then (s.slice? bid sid).map (fun _ => y) else s.slice? c k := by
  rw [settled_eq y hb, State.slice?_modCore, State.slice?_modSlice]

theorem settled_block (y : Slice) (hb : s.blocks.get? bid = some b) (c : Nat) :
    (settled s bid sid y).blocks.get? c = if bid = c then some (b.modSlice sid (fun _ => y)) else s.blocks.get? c := by
  rw [settled_eq y hb, State.modCore_blocks, State.modSlice, State.modBlock_get, hb, Option.map_some]

theorem settled_die (y : Slice) (hb : s.blocks.get? bid = some b) (d : Nat) :
    { (settled s bid sid y).die d with cores := (s.die d).cores } = s.die d := by
  rw [settled_eq y hb, State.modSlice_of_get sid _ hb, State.modCore, State.die_modDie]
  split
  · next h => subst h; rfl
  · rfl

theorem settled_core (y : Slice) (hb : s.blocks.get? bid = some b) (d c : Nat) :
    (settled s bid sid y).core d c = if b.die = d ∧ b.core = c
      then { s.core d c with waiters := (s.core d c).waiters.filter (fun w => !(w.bid == bid && w.sid == sid)) } else s.core d c := by
  rw [settled_eq y hb, State.core_modCore, State.modSlice_of_get sid _ hb]
  split
  · next h => obtain ⟨rfl, rfl⟩ := h; rfl
  · rfl

/-- Of the cores nothing differs but their waiting requests. -/
theorem settled_core_waiters (y : Slice) (hb : s.blocks.get? bid = some b) (d c : Nat) :
    (settled s bid sid y).core d c = { s.core d c with waiters := ((settled s bid sid y).core d c).waiters } := by
  rw [settled_core y hb]
  split <;> rfl

/-- The slice waits for no pool words. -/
theorem not_mem_waiters_settled (y : Slice) (hb : s.blocks.get? bid = some b) {w : PoolWait}
    (hw : w ∈ ((settled s bid sid y).core b.die b.core).waiters) : ¬(w.bid = bid ∧ w.sid = sid) := by
  rw [settled_core y hb, if_pos ⟨rfl, rfl⟩] at hw
  rintro ⟨hbid, hsid⟩
  simpa [hbid, hsid] using (List.mem_filter.mp hw).2

end

end Sys2Proof
end

section
/-! SUPPORT. What arithmetic, conversions, predicates and moves answer: they raise, or give a result to their destination (R90, R115, R132). -/

namespace Sys2Proof

open Sys2Proof.Machine

/-- Results that are at most one register result in the destination field and a predicate of a predicate row, and fall through. -/
structure DstOnly (e : Enc) (f : Fields) (ty : Nat) (o : Out) : Prop where
  regs : o.regs = [] ∨ ∃ w, o.regs = [w] ∧ w.d = f.dst.toNat ∧ (if w.wide then 2 else 1) ≤ e.dst.span ty f
  pred : o.pred = none ∨ e.dst = .pd ∧ ∃ m, o.pred = some (f.dst.toNat, m)
  rels : o.rels = []
  fills : o.fills = []
  fix : ∀ s r, o.fix s r = r
  pc : o.pc = none

/-- The answer raises, or gives results to the destination and at most draws from the random counters. -/
inductive LaneAnswer (e : Enc) (v : Env) : Res → Prop
  | raises (c : Half) (a : Dword) (m : BitVec 4) : LaneAnswer e v (.raise c a m)
  | gives {o : Out} (h : DstOnly e v.f v.ty o) (heff : o.eff = id ∨ o.eff = v.advance) : LaneAnswer e v (.done o)

/-- A destination of the effective type spans a register at least. -/
theorem one_le_span_ty (ty : Nat) (f : Fields) : 1 ≤ Src.span .ty ty f := by
  simp only [Src.span]
  split <;> decide

theorem encCarry_span (opc ty : Nat) (f : Fields) :
    (encCarry opc f).dst.span ty f = if bitOf (modOf f) 0 then 1 else if typeWide ty then 2 else 1 := by
  unfold encCarry
  simp only
  split <;> rfl

namespace LaneAnswer

variable {e : Enc} {v : Env}

theorem reg {w : RegWrite} (hd : w.d = v.f.dst.toNat) (hw : (if w.wide then 2 else 1) ≤ e.dst.span v.ty v.f) :
    LaneAnswer e v (.done { regs := [w] }) :=
  .gives ⟨.inr ⟨w, rfl, hd, hw⟩, .inl rfl, rfl, rfl, fun _ _ => rfl, rfl⟩ (.inl rfl)

theorem none : LaneAnswer e v (.done {}) := .gives ⟨.inl rfl, .inl rfl, rfl, rfl, fun _ _ => rfl, rfl⟩ (.inl rfl)

theorem lane {wide : Bool} {g : Nat → Nat} {t : Tag} (hw : (if wide then 2 else 1) ≤ e.dst.span v.ty v.f) :
    LaneAnswer e v (laneRes v wide g t) := reg rfl hw

theorem fp {wide : Bool} {g : Nat → Nat × Excs} {t : Tag} (hw : (if wide then 2 else 1) ≤ e.dst.span v.ty v.f) :
    LaneAnswer e v (fpRes v wide g t) := by
  unfold fpRes
  split
  · exact .raises ..
  · exact .gives ⟨.inr ⟨_, rfl, rfl, hw⟩, .inl rfl, rfl, rfl, fun _ _ => rfl, rfl⟩ (.inr rfl)

theorem pred {g : Nat → Bool} (hd : e.dst = .pd) : LaneAnswer e v (predRes v g) :=
  .gives ⟨.inl rfl, .inr ⟨hd, _, rfl⟩, rfl, rfl, fun _ _ => rfl, rfl⟩ (.inl rfl)

theorem unif (hw : 1 ≤ e.dst.span v.ty v.f) : LaneAnswer e v (unifBody v) := by
  unfold unifBody
  split
  · exact reg rfl hw
  · dsimp only
    split
    · exact .raises ..
    · exact reg rfl hw

theorem movs {ordered : Bool} {s : State} (hw : (if (movsWide v.md).getD false then 2 else 1) ≤ e.dst.span v.ty v.f) :
    LaneAnswer e v (movsBody ordered v s) := by
  rw [movsBody_eq]
  exact reg (movsWrite_dst ..) (by rw [movsWrite_wide]; exact hw)

/-- The carry or the sum of IADDC and ISUBB (R118). -/
theorem carry {opc : Nat} {f : Fields} {bid sid : Nat} {b : Block} {x : Slice} {g h : Nat → Nat} {t : Tag} :
    let v := (encCarry opc f).env f bid sid b x
    LaneAnswer (encCarry opc f) v (if bitOf v.md 0 then laneRes v false g t else laneRes v (typeWide v.ty) h t) := by
  intro v
  have hspan := encCarry_span opc v.ty f
  split
  · next hc => exact lane (hspan.trans (if_pos hc)).ge
  · next hc => exact lane (hspan.trans (if_neg hc)).ge

end LaneAnswer

/-- Each arithmetic, conversion, predicate or move instruction is its row's frame around a meaning that answers so. -/
theorem laneOnly_answers {i : Instr} {f : Fields} {e : Enc} {s : State} (hi : laneOnly i = true) (hrow : laneRow s.curMode i = some (f, e)) :
    ∃ body, exec i s = runInstr e f body s ∧
      ∀ bid sid b x, LaneAnswer e (e.env f bid sid b x) (body (e.env f bid sid b x) s) := by
  cases i
  case qnt g =>
    delta laneRow at hrow
    dsimp only at hrow
    split at hrow
    · next ht =>
      cases hrow
      rw [exec_qnt, execQnt, if_pos ht]
      exact ⟨_, rfl, fun _ _ _ _ => .fp le_rfl⟩
    · cases hrow
  all_goals cases hi
  all_goals cases hrow
  all_goals
    delta exec
    refine ⟨_, rfl, fun bid sid b x => ?_⟩
  case iaddc | isubb => exact .carry
  case iadd | isub | imul | imulh | imad | idiv | irem | imin | imax | iabs | ineg | andB | orB | xorB | notB | andn | shl | shr | sar | rot | bfe
      | bfi | popc | clz | brev | lea | fabs | fneg | fcpys | pack | unpk | sel => exact .lane le_rfl
  case fadd | fsub | fmul | ffma | fmin | fmax | fminn | fmaxn | fdiv | fsqrt | frnd | fscl | fexpn | cvt | dqnt => exact .fp le_rfl
  case frcp | frsq | fex2 | flg2 | fsinp | fcosp | ftanh | cvtsr => exact .fp (one_le_span_ty _ f)
  case icmp | pand | por | pxor | pnot | pmov => exact .pred rfl
  case fclass =>
    split
    · exact .raises ..
    · exact .pred rfl
  case fcmp =>
    dsimp only
    split
    · exact .raises ..
    · exact .pred rfl
  case mov | movi | aff | getm => exact .reg rfl le_rfl
  case unif => exact .unif le_rfl
  case movsO | movsU => exact .movs (encMovs_span ..).ge
  case nop => exact .none

end Sys2Proof
end

section
/-! What an arithmetic, conversion, predicate or move instruction leaves unchanged (R85, R90, R96). -/

namespace Sys2Proof

open Sys2Proof.Machine

section
variable {e : Enc} {f : Fields} {x y : Slice} {o : Out}

/-- Of the slice nothing differs but its registers, latches, sticky status, predicates and what every completion sets (R27, R85). -/
theorem Went.only (h : Went e f x o y) (hpc : o.pc = none) :
    y = { x with
      regs := y.regs, latches := y.latches, sticky := y.sticky, preds := y.preds
      pc := x.pc + BitVec.ofNat 64 (4 * f.len), retired := x.retired + 1, run := .running, pend := false, prog := .fresh } := by
  have hlatches : y.latches = latchesAfter e f x y o := congrArg Slice.latches h.fields
  have hsticky : y.sticky = (x.sticky || x.readsEmpty (e.typeOf f x.mode) f (e.sources f)) := congrArg Slice.sticky h.fields
  have hpreds : y.preds = _ := congrArg Slice.preds h.fields
  have hfields := h.fields
  rw [hpc] at hfields
  rw [hlatches, hsticky, hpreds]
  exact hfields

/-- A register outside the destination is as the releases leave it; with N every register is (R33, R35). -/
theorem Went.reg_outside (h : Went e f x o y) (hd : DstOnly e f (e.typeOf f x.mode) o) {k : Nat}
    (hk : f.n = true ∨ k < f.dst.toNat ∨ f.dst.toNat + e.dst.span (e.typeOf f x.mode) f ≤ k) : y.reg k = keptReg e f x [] k := by
  rw [h.regs, regAfter, hd.rels, hd.fills]
  simp only [List.not_mem_nil, if_false]
  rcases hk with hn | hk
  · rw [if_pos hn]
  · obtain hregs | ⟨w, hregs, hdst, hspan⟩ := hd.regs
    · rw [hregs, List.foldl_nil, ite_self]
    · have hout : k ≠ w.d ∧ ¬(w.wide = true ∧ k = w.d + 1) := by
        split at hspan
        · exact ⟨by omega, fun hnext => by omega⟩
        · next hw => exact ⟨by omega, fun hnext => hw hnext.1⟩
      rw [hregs, List.foldl_cons, List.foldl_nil, resultOver, if_neg hout.1, if_neg hout.2, ite_self]

/-- A predicate that is not the destination is as it was. -/
theorem Went.pred_outside (h : Went e f x o y) {ty : Nat} (hd : DstOnly e f ty o) {k : Nat} (hk : e.dst = .pd → k ≠ f.dst.toNat) :
    y.preds[k]? = x.preds[k]? := by
  have hpreds : y.preds = match o.pred with | some (j, v) => x.preds.set j v | none => x.preds := congrArg Slice.preds h.fields
  rw [hpreds]
  obtain hp | ⟨hpd, m, hp⟩ := hd.pred
  · rw [hp]
  · rw [hp]
    exact List.getElem?_set_ne (hk hpd).symm

end

section
variable {e : Enc} {f : Fields} {s : State} {bid sid : Nat} {b : Block} {x : Slice}

/-- Draws change the slice's random counters, and only under rsr (R72). -/
theorem advance_settled (y : Slice) (hb : s.blocks.get? bid = some b) : ∃ c, (e.env f bid sid b x).advance (settled s bid sid y) =
    settled s bid sid { y with ctr := c } ∧ ((e.env f bid sid b x).rnd ≠ 6 → c = y.ctr) := by
  unfold Env.advance
  split
  · next h => exact ⟨_, settled_modSlice _ hb, fun hn => absurd h hn⟩
  · exact ⟨y.ctr, rfl, fun _ => rfl⟩

/-- Results for the destination settle the slice. -/
theorem runInstr_dstOnly {body : Env → State → Res} {o : Out} (h : Ready e f s bid sid b x)
    (hbody : body (e.env f bid sid b x) s = .done o) (hd : DstOnly e f (e.typeOf f x.mode) o) :
    ∃ y, runInstr e f body s = .next (o.eff (settled s bid sid y)) ∧ Went e f x o y := by
  obtain hregs | ⟨w, hregs, hdst, hspan⟩ := hd.regs
  · exact runInstr_went_none h hbody hregs hd.fills hd.rels hd.fix
  · exact runInstr_went_one h hbody hregs hd.fills hdst hspan hd.rels hd.fix

/-- A ready instruction whose meaning answers so raises, or settles its slice with results for the destination. -/
theorem runInstr_laneAnswer {body : Env → State → Res} {t : State} (h : Ready e f s bid sid b x)
    (hbody : LaneAnswer e (e.env f bid sid b x) (body (e.env f bid sid b x) s)) (hrun : runInstr e f body s = .next t) :
    (∃ c a m, t = s.trap bid sid c a m f.len false) ∨
      ∃ o y c, t = settled s bid sid { y with ctr := c } ∧ Went e f x o y ∧ DstOnly e f (e.typeOf f x.mode) o ∧
        ((e.env f bid sid b x).rnd ≠ 6 → c = y.ctr) := by
  generalize hr : body (e.env f bid sid b x) s = r at hbody
  cases hbody with
  | raises c a m =>
    rw [runInstr_raise h.cur h.legal h.sources hr] at hrun
    cases hrun
    exact .inl ⟨c, a, m, rfl⟩
  | @gives o hd heff =>
    obtain ⟨y, hnext, hwent⟩ := runInstr_dstOnly h hr hd
    rw [hnext] at hrun
    cases hrun
    rcases heff with heff | heff
    · exact .inr ⟨o, y, y.ctr, by rw [heff]; rfl, hwent, hd, fun _ => rfl⟩
    · obtain ⟨c, hc, hctr⟩ := advance_settled (e := e) (f := f) (x := x) (sid := sid) y h.slice.1
      exact .inr ⟨o, y, c, by rw [heff]; exact hc, hwent, hd, hctr⟩

end

/-- Settles O58: each instruction of the family answers with a trap or with results for its destination, which settle its slice; a
settled slice is all that differs, but for its requests for pool words. -/
theorem resultFrame : Obligations.ResultFrame := by
  unfold Obligations.ResultFrame
  intro i f e s bid sid b x t hi hrow hready hexec
  obtain ⟨hb, hx⟩ := hready.slice
  obtain ⟨body, hbody, hanswer⟩ := laneOnly_answers hi (by rw [hready.cur.curMode]; exact hrow)
  rw [hbody] at hexec
  obtain htrap | ⟨o, y, c, rfl, hwent, hd, hctr⟩ := runInstr_laneAnswer hready (hanswer bid sid b x) hexec
  · exact .inl htrap
  · have honly := hwent.only hd.pc
    have hkept : y.ctr = x.ctr := (congrArg Slice.ctr honly :)
    refine .inr ⟨{ y with ctr := c }, congrArg (fun z : Slice => { z with ctr := c }) honly, fun k hk => hwent.reg_outside hd hk,
      fun k hk => hwent.pred_outside hd hk, fun hn => (hctr hn).trans hkept, settled_only _ hb, ?self, ?others, ?blocks, ?block,
      settled_die _ hb, settled_core_waiters _ hb, fun w hw => not_mem_waiters_settled _ hb hw⟩
    case self => rw [settled_slice _ hb, if_pos ⟨rfl, rfl⟩, hx, Option.map_some]
    case others =>
      intro c k hk
      rw [settled_slice _ hb, if_neg]
      rintro ⟨rfl, rfl⟩
      simp at hk
    case blocks =>
      intro c hc
      rw [settled_block _ hb, if_neg hc.symm]
    case block =>
      refine ⟨_, (settled_block _ hb bid).trans (if_pos rfl), ?_⟩
      rw [Block.modSlice_eq]

end Sys2Proof
end

section
/-! SUPPORT. Lane results of the integer rows (R117, R118), and the arithmetic by which the model's lane functions are those of R118. -/

namespace Sys2Proof

open Sys2Proof.Machine

/-- Lane results agree where their values do. -/
theorem laneRes_congr {v : Env} {wide : Bool} {g h : Nat → Nat} {t : Tag} (hg : ∀ l, g l = h l) : laneRes v wide g t = laneRes v wide h t := by
  rw [funext hg]

/-- An integer row computes the lane result that is its meaning. -/
theorem computes_int {i : Fields → Instr} {opc : Nat} {lens : List Nat} {sb sc : Src} {ok : Nat → Bool} {sat : Bool}
    {body : Env → State → Res} {val : Env → Nat → Nat} {tag : Env → Tag}
    (he : ∀ f s, exec (i f) s = runInstr (encInt opc lens sb sc ok sat) f body s)
    (hb : ∀ v s, body v s = laneRes v (typeWide v.ty) (val v) (tag v)) :
    Computes i (fun _ => encInt opc lens sb sc ok sat) (fun v => typeWide v.ty) val tag :=
  computes_of he (fun _ _ _ _ _ _ => hb _ _) (fun _ _ _ _ _ => le_rfl)

/-- A row of POPC and CLZ, whose result is 32-bit. -/
theorem computes_count {i : Fields → Instr} {opc : Nat} {body : Env → State → Res} {val : Env → Nat → Nat} {tag : Env → Tag}
    (he : ∀ f s, exec (i f) s = runInstr (encCount opc) f body s) (hb : ∀ v s, body v s = laneRes v false (val v) (tag v)) :
    Computes i (fun _ => encCount opc) (fun _ => false) val tag :=
  computes_of he (fun _ _ _ _ _ _ => hb _ _) (fun _ _ _ _ _ => le_rfl)

/-- A row of IADDC and ISUBB: the carry in one register, or the result in one of the type (R117). -/
theorem computes_carry {i : Fields → Instr} {opc : Nat} {body : Env → State → Res} {val : Env → Nat → Nat} {tag : Env → Tag}
    (he : ∀ f s, exec (i f) s = runInstr (encCarry opc f) f body s)
    (hb : ∀ v s, body v s = laneRes v (!bitOf v.md 0 && typeWide v.ty) (val v) (tag v)) :
    Computes i (encCarry opc) (fun v => !bitOf v.md 0 && typeWide v.ty) val tag := by
  refine computes_of he (fun _ _ _ _ _ _ => hb _ _) (fun f bid sid b x => ?_)
  rw [encCarry_span]
  change (if (!bitOf (modOf f) 0 && typeWide ((encCarry opc f).typeOf f x.mode)) = true then 2 else 1) ≤ _
  cases bitOf (modOf f) 0
  · exact le_rfl
  · exact le_rfl

/-- The carry and the sum, or the borrow and the difference, as one lane result. -/
theorem laneRes_carry {v : Env} {carry : Bool} {g h k : Nat → Nat} {t : Tag} (hg : carry = true → ∀ l, g l = k l)
    (hh : carry = false → ∀ l, h l = k l) :
    (if carry then laneRes v false g t else laneRes v (typeWide v.ty) h t) = laneRes v (!carry && typeWide v.ty) k t := by
  cases carry with
  | true => exact laneRes_congr (hg rfl)
  | false => exact laneRes_congr (hh rfl)

/-! ### Arithmetic -/

theorem ite_neg_eq_natAbs (a : Int) : (if a < 0 then -a else a) = (a.natAbs : Int) := by
  split <;> omega

/-- A borrow is a negative difference (R118). -/
theorem sub_sub_neg_iff (a b c : Nat) : (a : Int) - (b : Int) - (c : Int) < 0 ↔ a < b + c := by omega

/-- A difference reduced to the width, in natural numbers (R118). -/
theorem wrapNat_sub_sub {w a b c : Nat} (hb : b < 2 ^ w) (hc : c < 2) :
    wrapNat w ((a : Int) - (b : Int) - (c : Int)) = (a + 2 ^ (w + 1) - (b + c)) % 2 ^ w := by
  have hle : b + c ≤ a + 2 ^ (w + 1) := by
    have := Nat.one_le_two_pow (n := w)
    rw [Nat.pow_succ]
    omega
  have hcast : ((a + 2 ^ (w + 1) - (b + c) : Nat) : Int) = (a : Int) - b - c + (2 ^ w : Nat) * 2 := by
    rw [Nat.cast_sub hle]
    push_cast
    ring
  unfold wrapNat
  rw [← Int.toNat_natCast ((a + 2 ^ (w + 1) - (b + c)) % 2 ^ w), Int.natCast_mod, hcast, Int.add_mul_emod_self_left]

/-! ### Bits -/

theorem bitOf_eq_testBit (x k : Nat) : bitOf x k = x.testBit k := by
  rw [bitOf, Nat.testBit_eq_decide_div_mod_eq]
  rfl

theorem popCount_eq (w a : Nat) : popCount w a = ((List.range w).filter (fun k => a.testBit k)).length := by
  simp only [popCount, bitOf_eq_testBit]

/-- A bitwise operation reads no bit above the width. -/
theorem bitwise_mod_mod {op : Nat → Nat → Nat} (hop : ∀ {a b n}, op a b % 2 ^ n = op (a % 2 ^ n) (b % 2 ^ n)) (w a b : Nat) :
    op (a % 2 ^ w) (b % 2 ^ w) % 2 ^ w = op a b % 2 ^ w := by
  rw [← hop, Nat.mod_mod]

/-- The complement of a word is a word. -/
theorem compl_lt (w a : Nat) : 2 ^ w - 1 - a < 2 ^ w := by
  have := Nat.one_le_two_pow (n := w)
  omega

/-- A left shift reads no bit of `a` above the width. -/
theorem shlBits_mod (w a n : Nat) : shlBits w (a % 2 ^ w) n = if w ≤ n then 0 else a * 2 ^ n % 2 ^ w := by
  unfold shlBits
  rw [Nat.mod_mul_mod]

theorem shrBits_mod (w a n : Nat) : shrBits w (a % 2 ^ w) n = if w ≤ n then 0 else a % 2 ^ w / 2 ^ n := by
  unfold shrBits
  rw [Nat.mod_mod]

end Sys2Proof
end

section
/-! Integer arithmetic, carries, bitwise operations and addresses (R63, R64, R89, R117, R118). -/

namespace Sys2Proof

open Sys2Proof.Machine

/-- Settles O1: each row's meaning is a lane result, whose value is that of R118 by the arithmetic above. -/
theorem integerResults : Obligations.IntegerResults := by
  unfold Obligations.IntegerResults
  refine ⟨⟨computes_int exec_iadd fun _ _ => rfl, computes_int exec_isub fun _ _ => rfl, computes_int exec_imul fun _ _ => rfl,
    computes_int exec_imulh fun _ _ => rfl, computes_int exec_imad fun _ _ => rfl, computes_int exec_idiv fun _ _ => rfl,
    computes_int exec_irem fun _ _ => rfl, computes_int exec_imin fun _ _ => rfl, computes_int exec_imax fun _ _ => rfl, ?iabs,
    computes_int exec_ineg fun _ _ => rfl⟩, ⟨?iaddc, ?isubb⟩, ?andB, ?orB, ?xorB, ?notB, ?andn, ?shl, ?shr,
    computes_int exec_sar fun _ _ => rfl, computes_int exec_rot fun _ _ => rfl, computes_int exec_bfe fun _ _ => rfl,
    computes_int exec_bfi fun _ _ => rfl, ?popc, computes_count exec_clz fun _ _ => rfl,
    computes_int exec_brev fun _ _ => rfl, ?lea⟩
  case iabs => exact computes_int exec_iabs fun v _ => laneRes_congr fun l => by simp only [ite_neg_eq_natAbs]
  case iaddc =>
    refine computes_carry exec_iaddc fun v _ => laneRes_carry (fun hc l => ?_) (fun hc l => ?_)
    · simp only [hc, if_true]
    · simp only [hc, Bool.false_eq_true, if_false]
  case isubb =>
    refine computes_carry exec_isubb fun v _ => laneRes_carry (fun hc l => ?_) (fun hc l => ?_)
    · simp only [hc, if_true, sub_sub_neg_iff]
    · simp only [hc, Bool.false_eq_true, if_false]
      exact wrapNat_sub_sub (Nat.mod_lt _ (Nat.two_pow_pos _)) (Nat.mod_lt _ two_pos)
  case andB => exact computes_int exec_andB fun v _ => laneRes_congr fun l => bitwise_mod_mod (op := (· &&& ·)) Nat.and_mod_two_pow ..
  case orB => exact computes_int exec_orB fun v _ => laneRes_congr fun l => bitwise_mod_mod (op := (· ||| ·)) Nat.or_mod_two_pow ..
  case xorB => exact computes_int exec_xorB fun v _ => laneRes_congr fun l => bitwise_mod_mod (op := (· ^^^ ·)) Nat.xor_mod_two_pow ..
  case notB => exact computes_int exec_notB fun v _ => laneRes_congr fun l => Nat.mod_eq_of_lt (compl_lt ..)
  case andn => exact computes_int exec_andn fun v _ => laneRes_congr fun l => Nat.mod_eq_of_lt (Nat.and_lt_two_pow _ (compl_lt ..))
  case shl => exact computes_int exec_shl fun v _ => laneRes_congr fun l => shlBits_mod ..
  case shr => exact computes_int exec_shr fun v _ => laneRes_congr fun l => shrBits_mod ..
  case popc => exact computes_count exec_popc fun v _ => laneRes_congr fun l => popCount_eq ..
  case lea => exact computes_of exec_lea (fun _ _ _ _ _ _ => rfl) (fun _ _ _ _ _ => le_rfl)

end Sys2Proof
end

section
/-! SUPPORT. Lane results of the floating rows (R120 to R125, R69, R72). -/

namespace Sys2Proof

open Sys2Proof.Machine

/-- A floating row computes the lane result that is its meaning, or raises (R69). -/
theorem computesFp_row {i : Fields → Instr} {opc : Nat} {lens : List Nat} {sb sc : Src} {rnd sat : Bool}
    {body : Env → State → Res} {val : Env → Nat → Nat × Excs} {tag : Env → Tag}
    (he : ∀ f s, exec (i f) s = runInstr (encFp opc lens sb sc rnd sat) f body s)
    (hb : ∀ v s, body v s = fpRes v (typeWide v.ty) (val v) (tag v)) :
    ComputesFp i (fun _ => encFp opc lens sb sc rnd sat) (fun v => typeWide v.ty) val tag :=
  computesFp_of he (fun _ _ _ _ _ _ => hb _ _) (fun _ _ _ _ _ => le_rfl)

/-- A sign operation, which raises nothing (R121). -/
theorem computes_sign {i : Fields → Instr} {opc : Nat} {lens : List Nat} {sb : Src} {body : Env → State → Res} {val : Env → Nat → Nat}
    {tag : Env → Tag} (he : ∀ f s, exec (i f) s = runInstr (encFp opc lens sb .no false false) f body s)
    (hb : ∀ v s, body v s = laneRes v (typeWide v.ty) (val v) (tag v)) :
    Computes i (fun _ => encFp opc lens sb .no false false) (fun v => typeWide v.ty) val tag :=
  computes_of he (fun _ _ _ _ _ _ => hb _ _) (fun _ _ _ _ _ => le_rfl)

/-- A special function's row computes that function in one register: its types are no wider (R122). -/
theorem computesFp_spec {i : Fields → Instr} {opc : Nat} {fn : SpecFn}
    (he : ∀ f s, exec (i f) s = runInstr (encSpec opc) f (specBody fn) s) :
    ComputesFp i (fun _ => encSpec opc) (fun _ => false) (fun v l => specFn fn v.ty v.sat (v.al l)) (fun v => shapeUG [v.a]) :=
  computesFp_of he (fun _ _ _ _ _ _ => rfl) (fun f _ _ _ _ => one_le_span_ty _ f)

end Sys2Proof
end

section
/-! Floating arithmetic, selection, sign operations and special functions (R68 to R76, R120 to R125). -/

namespace Sys2Proof

open Sys2Proof.Machine

/-- Settles O3: each row's meaning is a lane result that is delivered or raised; FEXPN's result is one register, and so is a special
function's. -/
theorem floatResults : Obligations.FloatResults := by
  unfold Obligations.FloatResults
  refine ⟨?arith, ?select, ?special⟩
  case arith =>
    exact ⟨computesFp_row exec_fadd fun _ _ => rfl, computesFp_row exec_fsub fun _ _ => rfl, computesFp_row exec_fmul fun _ _ => rfl,
      computesFp_row exec_ffma fun _ _ => rfl, computesFp_row exec_fdiv fun _ _ => rfl, computesFp_row exec_fsqrt fun _ _ => rfl,
      computesFp_row exec_frnd fun _ _ => rfl, computesFp_row exec_fscl fun _ _ => rfl,
      computesFp_of exec_fexpn (fun _ _ _ _ _ _ => rfl) fun _ _ _ _ _ => le_rfl⟩
  case select =>
    exact ⟨computesFp_row exec_fmin fun _ _ => rfl, computesFp_row exec_fmax fun _ _ => rfl, computesFp_row exec_fminn fun _ _ => rfl,
      computesFp_row exec_fmaxn fun _ _ => rfl, computes_sign exec_fabs fun _ _ => rfl, computes_sign exec_fneg fun _ _ => rfl,
      computes_sign exec_fcpys fun _ _ => rfl⟩
  case special =>
    exact ⟨computesFp_spec exec_frcp, computesFp_spec exec_frsq, computesFp_spec exec_fex2, computesFp_spec exec_flg2,
      computesFp_spec exec_fsinp, computesFp_spec exec_fcosp, computesFp_spec exec_ftanh⟩

end Sys2Proof
end

section
/-! SUPPORT. The type check of a legal encoding (R44, R46), and the rows of QNT and DQNT (R126, R129, R130). -/

namespace Sys2Proof

open Sys2Proof.Machine

section
variable {e : Enc} {f : Fields} {mode : Word} {ok : Nat → Bool}

/-- The effective type of a legal encoding is one that its row admits. -/
theorem Enc.legal_eff (h : e.legal f mode = true) (he : e.types = .eff ok) : ok (e.typeOf f mode) = true := by
  unfold Enc.legal at h
  simp only [Bool.and_eq_true, he] at h
  obtain ⟨⟨⟨⟨⟨-, htypes⟩, -⟩, -⟩, -⟩, -⟩ := h
  exact htypes

/-- The type that a legal encoding names itself is one that its row admits. -/
theorem Enc.legal_tov (h : e.legal f mode = true) (he : e.types = .tov ok) : ok f.ext.tov.toNat = true := by
  unfold Enc.legal at h
  simp only [Bool.and_eq_true, he] at h
  obtain ⟨⟨⟨⟨⟨-, htypes⟩, -⟩, -⟩, -⟩, -⟩ := h
  simpa only [Enc.typeOf, he] using htypes

end

/-- The row of QNT of as8 (R126, R129). -/
def encQntAs8 : Enc :=
  { opc := 0x44, lens := [2, 3], dst := .w32, sa := .w32, sb := .u32, types := .eff (fun t => t == 13), rov := .eff }

/-- A legal QNT of as8 names that type, or leaves it to the mode register. -/
theorem encQntAs8_tov {f : Fields} {mode : Word} (h : encQntAs8.legal f mode = true) :
    (f.ext.tov.toNat = 13 || f.ext.tov.toNat = 0) = true := by
  have hty := Enc.legal_eff h rfl
  simp only [Enc.typeOf, encQntAs8, beq_iff_eq] at hty
  split at hty
  · next => simp [hty]
  · next hz => simp [not_not.mp hz]

/-- QNT's meaning for as8, as a lane result (R80). -/
def qntAs8Body (v : Env) : Res :=
  fpRes v false (fun l => quantAs8 v.rnd (v.word l) (sextInt 8 v.o.scalar) (v.al l)) (shapeUG [v.a, v.o])

theorem exec_qnt_as8 {f : Fields} (s : State) (h : (f.ext.tov.toNat = 13 || f.ext.tov.toNat = 0) = true) :
    exec (.qnt f) s = runInstr encQntAs8 f (fun v _ => qntAs8Body v) s := by
  rw [exec_qnt, execQnt, if_pos h]
  rfl

/-- DQNT's lane function: an element with its block's scale, or an as8 value with the exponent of operand b (R77, R80, R130). -/
def dqntLane (v : Env) (l : Nat) : Nat × Excs :=
  deliver 1 v.rnd (v.word l) v.sat false
    (if typeMX v.ty then mxVal v.ty (v.al l % 2 ^ typeBits v.ty) (bitsOf (v.al l) 31 24)
     else numOf (sextInt 8 (v.al l)) (sextInt 8 (v.bl l)) false)

theorem dqntLane_eq (v : Env) (l : Nat) : dqntLane v l =
    if typeMX v.ty then deliver 1 v.rnd (v.word l) v.sat false (mxVal v.ty (v.al l % 2 ^ typeBits v.ty) (bitsOf (v.al l) 31 24))
    else deliver 1 v.rnd (v.word l) v.sat false (numOf (sextInt 8 (v.al l)) (sextInt 8 (v.bl l)) false) :=
  apply_ite (deliver 1 v.rnd (v.word l) v.sat false) _ _ _

/-- Floating lane results agree where their values and exceptions do. -/
theorem fpRes_congr {v : Env} {wide : Bool} {g h : Nat → Nat × Excs} {t : Tag} (hg : ∀ l, g l = h l) : fpRes v wide g t = fpRes v wide h t := by
  rw [funext hg]

/-- DQNT's form goes by the executing slice's mode register (R126). -/
theorem exec_dqnt_lane {f : Fields} {s : State} {bid sid : Nat} {b : Block} {x : Slice} (h : Executing s bid sid b x) :
    exec (.dqnt f) s = runInstr (encDqnt f 0x45 .eff x.mode) f
      (fun v _ => fpRes v false (dqntLane v) (shapeUG (if typeMX v.ty then [v.a] else [v.a, v.o]))) s := by
  rw [exec_dqnt, execDqnt, h.curMode]
  exact congrArg (fun body => runInstr _ f body s) (funext₂ fun v _ => fpRes_congr fun l => (dqntLane_eq v l).symm)

end Sys2Proof
end

section
/-! Conversions, stochastic conversion, quantisation and back (R80, R127, R129, R130). -/

namespace Sys2Proof

open Sys2Proof.Machine

/-- Settles O4: each row's meaning is a lane result; the type of a legal QNT of as8 keeps it out of the cross-lane frame. -/
theorem conversionResults : Obligations.ConversionResults := by
  unfold Obligations.ConversionResults
  refine ⟨?cvt, ?cvtsr, ?qnt, ?dqnt⟩
  case cvt => exact computesFp_of exec_cvt (fun _ _ _ _ _ _ => rfl) (fun _ _ _ _ _ => le_rfl)
  case cvtsr =>
    intro f s bid sid b x e h v
    unfold FpCompletes
    rw [exec_cvtsr]
    exact runInstr_fp h rfl (one_le_span_ty _ f)
  case qnt =>
    intro f s bid sid b x e h v
    unfold FpCompletes
    rw [exec_qnt_as8 s (encQntAs8_tov h.legal)]
    exact runInstr_fp h rfl le_rfl
  case dqnt =>
    intro f s bid sid b x e h v
    unfold FpCompletes
    rw [exec_dqnt_lane h.cur]
    exact runInstr_fp h rfl le_rfl

end Sys2Proof
end

section
/-! SUPPORT. Predicate results (R131, R132), and the conditions of the compares. -/

namespace Sys2Proof

open Sys2Proof.Machine

/-- The results of a predicate instruction: bit l of the destination for each active lane, the others kept (R132). -/
def predOut (v : Env) (g : Nat → Bool) : Out :=
  { pred := some (v.f.dst.toNat, laneSet ((List.range 4).filter (fun l =>
      if v.act.getLsbD l then g l else (v.x.preds.getD v.f.dst.toNat 0).getLsbD l))) }

theorem predRes_eq (v : Env) (g : Nat → Bool) : predRes v g = .done (predOut v g) := rfl

theorem predRes_congr {v : Env} {g h : Nat → Bool} (hg : ∀ l, g l = h l) : predRes v g = predRes v h := by
  rw [funext hg]

section
variable {i : Fields → Instr} {e : Fields → Enc} {body : Fields → Env → State → Res} {g : Env → Nat → Bool}

/-- A row whose meaning is a predicate result. -/
theorem gives_pred (he : ∀ f s, exec (i f) s = runInstr (e f) f (body f) s) (hb : ∀ f v s, body f v s = predRes v (g v)) :
    Gives i e (fun v _ => predOut v (g v)) :=
  gives_of he (fun _ _ _ _ _ _ h => runInstr_went_none h (hb _ _ _) rfl rfl rfl (fun _ _ => rfl))

/-- A row whose meaning is a predicate result where its operands meet a condition. -/
theorem givesIf_pred {cond : Env → State → Prop} (he : ∀ f s, exec (i f) s = runInstr (e f) f (body f) s)
    (hb : ∀ f v s, cond v s → body f v s = predRes v (g v)) : GivesIf i e cond (fun v _ => predOut v (g v)) :=
  givesIf_of he (fun _ _ _ _ _ _ h hc => runInstr_went_none h (hb _ _ _ hc) rfl rfl rfl (fun _ _ => rfl))

end

/-! ### Conditions (R131) -/

/-- ICMP's condition on two integers (R132). -/
def icmpHolds (cc : Nat) (x y : Int) : Bool :=
  match cc with
  | 0 => x == y | 1 => x != y | 2 => decide (x < y) | 3 => decide (x ≤ y) | 4 => decide (y < x) | _ => decide (y ≤ x)

theorem condHolds_compare (cc : Nat) (x y : Int) : condHolds cc (compare x y) = icmpHolds cc x y := by
  unfold condHolds icmpHolds
  rcases lt_trichotomy x y with h | rfl | h
  · rw [compare_lt_iff_lt.mpr h]
    split <;> simp [bne, h.ne, h.le, h.not_ge, h.not_gt, h]
  · rw [compare_eq_iff_eq.mpr rfl]
    split <;> simp
  · rw [compare_gt_iff_gt.mpr h]
    split <;> simp [bne, h.ne', h.le, h.not_ge, h.not_gt, h]

/-! ### FCMP (R132, R69) -/

/-- The row of FCMP (R131). -/
def encFcmp : Enc :=
  { opc := 0x47, lens := [2, 3], dst := .pd, sa := .ty, sb := .ty, types := .eff typeFP, md := 31,
    extra := fun f _ => decide (modOf f % 16 ≤ 7) }

/-- The exceptions that FCMP detects in a lane: a signalling NaN, or any NaN under MOD[4]. -/
def fcmpExcs (v : Env) (l : Nat) : Excs :=
  { inv := (decodeF v.ty (v.al l)).isSig || (decodeF v.ty (v.bl l)).isSig ||
      (bitOf v.md 4 && ((decodeF v.ty (v.al l)).isNaN || (decodeF v.ty (v.bl l)).isNaN)) }

/-- FCMP's meaning. -/
def fcmpBody (v : Env) : Res :=
  match fpCause v.x.mode v.act (fcmpExcs v) with
  | some (c, ls) => .raise c 0 ls
  | none => predRes v (fun l => fcmpHolds (v.md % 16) (decodeF v.ty (v.al l)) (decodeF v.ty (v.bl l)))

theorem exec_fcmp_body (f : Fields) (s : State) : exec (.fcmp f) s = runInstr encFcmp f (fun v _ => fcmpBody v) s := rfl

theorem fcmpBody_of_none {v : Env} (h : fpCause v.x.mode v.act (fcmpExcs v) = none) :
    fcmpBody v = predRes v (fun l => fcmpHolds (v.md % 16) (decodeF v.ty (v.al l)) (decodeF v.ty (v.bl l))) := by
  rw [fcmpBody, h]

theorem fcmpBody_of_some {v : Env} {c : Half} {m : BitVec 4} (h : fpCause v.x.mode v.act (fcmpExcs v) = some (c, m)) :
    fcmpBody v = .raise c 0 m := by
  rw [fcmpBody, h]

end Sys2Proof
end

section
/-! Compares, classes and predicate operations (R131, R132, R136). -/

namespace Sys2Proof

open Sys2Proof.Machine

/-- Settles O5: each row's meaning is a predicate result, where it raises nothing. -/
theorem predicateResults : Obligations.PredicateResults := by
  unfold Obligations.PredicateResults
  intro bits p icmp fcmp fclass a b inv
  refine ⟨?icmp, ?fcmp, ?fcmpRaises, ?fclass, ?fclassRaises, ?pand, ?por, ?pxor, ?pnot, ?pmov⟩
  case icmp => exact gives_pred (fun f s => exec_icmp f s) fun _ v _ => predRes_congr fun l => condHolds_compare ..
  case fcmp => exact givesIf_pred (fun f s => exec_fcmp_body f s) fun _ _ _ hc => fcmpBody_of_none hc
  case fcmpRaises =>
    refine raises_of (fun f s => exec_fcmp_body f s) fun f s bid sid b x _ c ad m hr => ?_
    obtain ⟨hc, rfl⟩ := hr
    exact fcmpBody_of_some hc
  case fclass =>
    refine givesIf_pred (fun f s => exec_fclass f s) fun f v s hc => ?_
    exact (if_neg hc.not_ge).trans (predRes_congr fun l => bitOf_eq_testBit ..)
  case fclassRaises =>
    refine raises_of (fun f s => exec_fclass f s) fun f s bid sid b x _ c ad m hr => ?_
    obtain ⟨hlarge, rfl, rfl, rfl⟩ := hr
    exact if_pos hlarge
  case pand => exact gives_pred (fun f s => exec_pand f s) fun _ _ _ => rfl
  case por => exact gives_pred (fun f s => exec_por f s) fun _ _ _ => rfl
  case pxor => exact gives_pred (fun f s => exec_pxor f s) fun _ _ _ => rfl
  case pnot => exact gives_pred (fun f s => exec_pnot f s) fun _ _ _ => rfl
  case pmov => exact gives_pred (fun f s => exec_pmov f s) fun _ _ _ => rfl

end Sys2Proof
end

section
/-! SUPPORT. TRAP, BKPT, TRET and ERRL (R136, R398 to R401): their meanings by cases, and results in successive registers. -/

namespace Sys2Proof

open Sys2Proof.Machine

/-- What a slice has completed does not depend on the effect on the rest of the state. -/
theorem Went.doing {e : Enc} {f : Fields} {x y : Slice} {g : State → State} (h : Went e f x (doing g) y) (g' : State → State) :
    Went e f x (doing g') y :=
  ⟨h.fields, h.regs⟩

/-! ### TRET (R136, R400) -/

/-- The row of TRET: an operand only for the form with an address (R398). -/
def encTret (f : Fields) : Enc :=
  { opc := 0xF9, lens := [1, 2], sa := if modOf f % 4 = 2 then .u64 else .no, gov0 := true, md := 3, extra := fun f _ => modOf f % 4 != 3 }

/-- Where TRET goes (R400). -/
def Machine.Env.tretTarget (v : Env) : Dword :=
  match v.md with | 0 => v.x.frame.pc | 1 => v.x.frame.next | _ => v.a.v.l0

/-- TRET's meaning. -/
def tretBody (v : Env) : Res :=
  if !v.x.frame.inTrap then .raise 0x010C 0 v.x.mask
  else if v.md = 2 && (v.tretTarget.getLsbD 0 || v.tretTarget.getLsbD 1) then .raise 0x0102 0 v.x.mask
  else doneEff (fun s => s.tret v.bid v.sid v.tretTarget)

theorem exec_tret_body (f : Fields) (s : State) : exec (.tret f) s = runInstr (encTret f) f (fun v _ => tretBody v) s := rfl

theorem tretBody_outside {v : Env} (h : v.x.frame.inTrap = false) : tretBody v = .raise 0x010C 0 v.x.mask := by
  simp [tretBody, h]

theorem tretBody_misaligned {v : Env} (h : v.x.frame.inTrap = true) (hmd : v.md = 2)
    (ht : v.tretTarget.getLsbD 0 = true ∨ v.tretTarget.getLsbD 1 = true) : tretBody v = .raise 0x0102 0 v.x.mask := by
  rw [tretBody, h, Bool.not_true, if_neg Bool.false_ne_true, if_pos]
  rw [decide_eq_true hmd, Bool.true_and, Bool.or_eq_true]
  exact ht

theorem tretBody_returns {v : Env} (h : v.x.frame.inTrap = true)
    (ht : v.md = 2 → v.tretTarget.getLsbD 0 = false ∧ v.tretTarget.getLsbD 1 = false) :
    tretBody v = doneEff (fun s => s.tret v.bid v.sid v.tretTarget) := by
  rw [tretBody, h, Bool.not_true, if_neg Bool.false_ne_true, if_neg]
  rw [Bool.and_eq_true, decide_eq_true_eq]
  rintro ⟨hmd, hlow⟩
  rw [(ht hmd).1, (ht hmd).2] at hlow
  cases hlow

/-- The return by the slice's place in an issue set (R136): outside one it goes to the target; one that returns to the set's instruction
waits there again; one that goes elsewhere leaves the set. -/
def Machine.Env.tretEffect (v : Env) (s : State) : State :=
  match v.x.crossHome with
  | none => s.modSlice v.bid v.sid (fun y => y.leaveTrap v.tretTarget)
  | some a =>
    if a = v.tretTarget then
      s.modSlice v.bid v.sid (fun y => { y.leaveTrap v.tretTarget with crossHome := none, run := .waiting, pend := true })
    else s.modBlock v.bid (fun b =>
      (b.leavePart v.sid).modSlice v.sid (fun y => { y.leaveTrap v.tretTarget with crossHome := none }))

/-- A slice that has settled returns by the place in an issue set that it had. -/
theorem tret_eq_tretEffect {s : State} {v : Env} {y : Slice} (hy : s.slice? v.bid v.sid = some y) (hc : y.crossHome = v.x.crossHome) :
    s.tret v.bid v.sid v.tretTarget = v.tretEffect s := by
  unfold State.tret Env.tretEffect
  simp only [hy, ← hc]
  cases y.crossHome <;> rfl

theorem tret_gives : GivesIf .tret encTret
    (fun v _ => v.x.frame.inTrap = true ∧ (v.md = 2 → v.tretTarget.getLsbD 0 = false ∧ v.tretTarget.getLsbD 1 = false))
    (fun v _ => doing v.tretEffect) := by
  refine givesIf_of (fun f s => exec_tret_body f s) fun f s bid sid b x h hc => ?_
  obtain ⟨htrap, htarget⟩ := hc
  obtain ⟨hb, hx⟩ := h.slice
  obtain ⟨y, hnext, hwent⟩ := runInstr_went_none (body := fun v _ => tretBody v) h (tretBody_returns htrap htarget) rfl rfl rfl (fun _ _ => rfl)
  refine ⟨y, hnext.trans (congrArg Host.Outcome.next ?_), hwent.doing _⟩
  refine tret_eq_tretEffect (v := (encTret f).env f bid sid b x) (y := y) ?_ (congrArg Slice.crossHome hwent.fields :)
  exact (settled_slice y hb bid sid).trans (by rw [if_pos ⟨rfl, rfl⟩, hx, Option.map_some])

theorem tret_raises_outside : Raises .tret encTret
    (fun v _ c a m => v.x.frame.inTrap = false ∧ c = 0x010C ∧ a = 0 ∧ m = v.x.mask) := by
  refine raises_of (fun f s => exec_tret_body f s) fun f s bid sid b x _ c a m hr => ?_
  obtain ⟨htrap, rfl, rfl, rfl⟩ := hr
  exact tretBody_outside htrap

theorem tret_raises_misaligned : Raises .tret encTret
    (fun v _ c a m => v.x.frame.inTrap = true ∧ v.md = 2 ∧ (v.tretTarget.getLsbD 0 = true ∨ v.tretTarget.getLsbD 1 = true) ∧
      c = 0x0102 ∧ a = 0 ∧ m = v.x.mask) := by
  refine raises_of (fun f s => exec_tret_body f s) fun f s bid sid b x _ c a m hr => ?_
  obtain ⟨htrap, hmd, htarget, rfl, rfl, rfl⟩ := hr
  exact tretBody_misaligned htrap hmd htarget

/-! ### TRAP and BKPT (R398, R399) -/

/-- The context has breakpoints off. -/
def bkptOff (v : Env) (s : State) : Bool := (s.ctxs.get? v.b.ctx).any (fun c => c.bkoff)

/-- BKPT's meaning. -/
def bkptBody (f : Fields) (v : Env) (s : State) : Res :=
  if v.act = 0 || bkptOff v s then .done {} else .raise 0x010B (BitVec.ofNat 64 (immValue f)) v.act

theorem exec_bkpt_body (f : Fields) (s : State) : exec (.bkpt f) s = runInstr (encCode 0xFF) f (bkptBody f) s := by
  rw [exec_bkpt, execBkpt]
  refine congrArg (fun body => runInstr (encCode 0xFF) f body s) (funext₂ fun v s => ?_)
  unfold bkptBody bkptOff
  cases s.ctxs.get? v.b.ctx <;> rfl

theorem trap_gives : GivesIf .trap (fun _ => encCode 0xF8) (fun v _ => v.act = 0) (fun _ _ => {}) :=
  givesIf_of (fun f s => exec_trap f s) fun _ _ _ _ _ _ h hc => runInstr_went_none h (if_pos hc) rfl rfl rfl (fun _ _ => rfl)

theorem trap_raises : Raises .trap (fun _ => encCode 0xF8)
    (fun v _ c a m => v.act ≠ 0 ∧ c = BitVec.ofNat 16 (0x1000 + immValue v.f) ∧ a = 0 ∧ m = v.act) := by
  refine raises_of (fun f s => exec_trap f s) fun f s bid sid b x _ c a m hr => ?_
  obtain ⟨hact, rfl, rfl, rfl⟩ := hr
  exact if_neg hact

theorem bkpt_gives : GivesIf .bkpt (fun _ => encCode 0xFF) (fun v s => v.act = 0 ∨ bkptOff v s = true) (fun _ _ => {}) :=
  givesIf_of (fun f s => exec_bkpt_body f s) fun _ _ _ _ _ _ h hc =>
    runInstr_went_none h (if_pos (by simpa using hc)) rfl rfl rfl (fun _ _ => rfl)

theorem bkpt_raises : Raises .bkpt (fun _ => encCode 0xFF)
    (fun v s c a m => v.act ≠ 0 ∧ bkptOff v s = false ∧ c = 0x010B ∧ a = BitVec.ofNat 64 (immValue v.f) ∧ m = v.act) := by
  refine raises_of (fun f s => exec_bkpt_body f s) fun f s bid sid b x _ c a m hr => ?_
  obtain ⟨hact, hoff, rfl, rfl, rfl⟩ := hr
  exact if_neg (by rw [hoff, Bool.or_false, decide_eq_true_eq]; exact hact)

/-! ### ERRL (R401) -/

/-- Results in successive registers name no register twice. -/
theorem apart_successive {w : Nat → RegWrite} {d : Nat} (hw : ∀ k, (w k).targets = [d + k]) :
    ∀ {ks : List Nat}, ks.Nodup → Machine.Apart (ks.map w)
  | [], _ => trivial
  | k :: ks, hks => by
    obtain ⟨hk, hks⟩ := List.nodup_cons.mp hks
    refine ⟨fun j hj hmem => ?_, apart_successive hw hks⟩
    obtain ⟨r, hr, hjr⟩ := List.mem_flatMap.mp hmem
    obtain ⟨i, hi, rfl⟩ := List.mem_map.mp hr
    rw [hw, List.mem_singleton] at hj hjr
    obtain rfl : k = i := by omega
    exact hk hi

/-- Results in the successive registers of a destination's span lie within it. -/
theorem within_successive {e : Enc} {f : Fields} {x : Slice} {w : Nat → RegWrite} {n : Nat} (hw : ∀ k, (w k).targets = [f.dst.toNat + k])
    (hn : n ≤ e.dst.span (e.typeOf f x.mode) f) : Within e f x { regs := (List.range n).map w } := by
  intro k hk
  rw [List.append_nil] at hk
  cases hfn : f.n with
  | true => rw [hfn, if_pos rfl] at hk; cases hk
  | false =>
    rw [hfn, if_neg Bool.false_ne_true] at hk
    obtain ⟨r, hr, hkr⟩ := List.mem_flatMap.mp hk
    obtain ⟨i, hi, rfl⟩ := List.mem_map.mp hr
    rw [hw, List.mem_singleton] at hkr
    exact ⟨rfl, i, (List.mem_range.mp hi).trans_le hn, hkr⟩

/-- A meaning with up to sixteen results in successive registers of the destination. -/
theorem runInstr_went_successive {e : Enc} {f : Fields} {s : State} {bid sid : Nat} {b : Block} {x : Slice} {body : Env → State → Res}
    {w : Nat → RegWrite} {n : Nat} (h : Ready e f s bid sid b x)
    (hb : body (e.env f bid sid b x) s = .done { regs := (List.range n).map w }) (hw : ∀ k, (w k).targets = [f.dst.toNat + k])
    (hn : n ≤ e.dst.span (e.typeOf f x.mode) f) (hl : n ≤ 16) :
    ∃ y, runInstr e f body s = .next (settled s bid sid y) ∧ Went e f x { regs := (List.range n).map w } y :=
  runInstr_went h hb rfl (fun _ _ => rfl) (by simp only [List.length_map, List.length_range, List.length_nil]; omega)
    (within_successive hw hn) (fun _ => apart_successive hw List.nodup_range) (fun _ _ hk => by cases hk)

/-- The row of ERRL: the count in a pair, or the words of an entry in eight registers (R398). -/
def encErrl (f : Fields) : Enc :=
  { opc := 0xFA, lens := [1, 2], dst := if bitOf (modOf f) 0 then .w64 else .eight, sa := if bitOf (modOf f) 0 then .no else .u64,
    gov0 := true, md := 1 }

/-- The register results of an entry's words. -/
def errlWrite (f : Fields) (word : Nat → Nat) (k : Nat) : RegWrite :=
  ⟨f.dst.toNat + k, false, Quad.all (BitVec.ofNat 64 (word k)), .u, .u, true, 0xF⟩

/-- ERRL's meaning. -/
def errlBody (v : Env) (s : State) : Res :=
  if bitOf v.md 0 then .done { regs := [v.writeUni true (match s.ctxs.get? v.b.ctx with | some c => c.logCount | none => 0)] }
  else .done { regs := (List.range 8).map (errlWrite v.f (fun k => (s.logWords v.b.ctx v.a.scalar).getD k 0)) }

theorem exec_errl_body (f : Fields) (s : State) : exec (.errl f) s = runInstr (encErrl f) f errlBody s := rfl

/-- Word `k` of entry `n` of a context's log: zero outside the last 64 (R401). -/
def errlWord (s : State) (c : Ctx) (n k : Nat) : Nat :=
  if n < c.logCount.toNat ∧ c.logCount.toNat ≤ n + 64
    then leNat (s.physRead c.recDie (c.recPa + 0x800 + 32 * (n % 64) + 4 * k) 4) else 0

theorem logWords_getD {s : State} {ctx : Nat} {c : Ctx} (hc : s.ctxs.get? ctx = some c) (n : Nat) {k : Nat} (hk : k < 8) :
    (s.logWords ctx n).getD k 0 = errlWord s c n k := by
  simp only [State.logWords, errlWord, hc, Bool.and_eq_true, decide_eq_true_eq]
  split
  · simp [List.getD_eq_getElem?_getD, hk]
  · exact List.getD_replicate _ hk

theorem errl_count : Does .errl encErrl (fun v s s1 o => s1 = s ∧ bitOf v.md 0 = true ∧ ∃ c, s.ctxs.get? v.b.ctx = some c ∧
    o = { regs := [⟨v.f.dst.toNat, true, Quad.all c.logCount, .u, .u, true, 0xF⟩] }) := by
  intro f s bid sid b x h s1 o hr
  obtain ⟨rfl, hbit, c, hc, rfl⟩ := hr
  have hspan : (encErrl f).dst.span ((encErrl f).typeOf f x.mode) f = 2 := by
    rw [encErrl, show bitOf (modOf f) 0 = true from hbit]
    rfl
  unfold Completes
  rw [exec_errl_body]
  refine runInstr_went_one h ?_ rfl rfl rfl hspan.ge rfl (fun _ _ => rfl)
  simp only [errlBody, hbit, if_true, hc]
  rfl

theorem errl_words : Does .errl encErrl (fun v s s1 o => s1 = s ∧ bitOf v.md 0 = false ∧ ∃ c, s.ctxs.get? v.b.ctx = some c ∧
    o = { regs := (List.range 8).map (errlWrite v.f (errlWord s c v.a.scalar)) }) := by
  intro f s bid sid b x h s1 o hr
  obtain ⟨rfl, hbit, c, hc, rfl⟩ := hr
  have hspan : (encErrl f).dst.span ((encErrl f).typeOf f x.mode) f = 8 := by
    rw [encErrl, show bitOf (modOf f) 0 = false from hbit]
    rfl
  unfold Completes
  rw [exec_errl_body]
  refine runInstr_went_successive h ?_ (fun _ => rfl) hspan.ge (by decide)
  rw [errlBody, hbit, if_neg Bool.false_ne_true]
  refine congrArg (fun ws => Res.done { regs := ws }) (List.map_congr_left fun k hk => ?_)
  rw [errlWrite, errlWrite, logWords_getD hc _ (List.mem_range.mp hk)]

end Sys2Proof
end

section
/-! TRAP, BKPT, TRET and ERRL (R136, R398 to R401). -/

namespace Sys2Proof

open Sys2Proof.Machine

/-- Settles O13: each meaning raises or completes by its cases; TRET's effect goes by the place in an issue set that its slice had. -/
theorem trapInstructions : Obligations.TrapInstructions := by
  unfold Obligations.TrapInstructions
  exact ⟨⟨trap_gives, trap_raises, bkpt_gives, bkpt_raises, tret_raises_outside, tret_raises_misaligned, tret_gives⟩, errl_count, errl_words⟩

end Sys2Proof
end

section
/-! SUPPORT. Issue sets (R134 to R137): a set is never empty, its members pass the checks, and where some member detects an enabled exception
the members raise. -/

namespace Sys2Proof

open Sys2Proof.Machine

theorem mem_of_tab_get? {α : Type} {t : Tab α} {k : Nat} {x : α} (h : t.get? k = some x) : (k, x) ∈ t := by
  induction t with
  | nil => cases h
  | cons p t ih =>
    rw [Tab.get?_cons] at h
    split at h
    · next hk =>
      cases h
      exact hk ▸ List.mem_cons_self
    · exact List.mem_cons_of_mem _ (ih h)

/-- A slice that executes is live. -/
theorem Executing.live {s : State} {bid sid : Nat} {b : Block} {x : Slice} (h : Executing s bid sid b x) :
    b.slices.get? sid = some x ∧ x.run ≠ .ended := by
  unfold Executing State.curSlice at h
  split at h
  · cases h
  · split at h
    · cases h
    · split at h
      · cases h
      · next hx =>
        split at h
        · next hrun =>
          cases h
          refine ⟨hx, fun hended => ?_⟩
          simp [hended] at hrun
        · cases h

/-- A slice that executes is of its own issue set. -/
theorem Executing.mem_issueSet {s : State} {bid sid : Nat} {b : Block} {x : Slice} (h : Executing s bid sid b x) : sid ∈ b.issueSet sid := by
  obtain ⟨hx, hlive⟩ := h.live
  unfold Block.issueSet
  simp only [hx]
  split
  · exact List.mem_singleton_self sid
  · next hhome =>
    have hpart : sid ∈ b.partMembers x.part :=
      List.mem_map.mpr ⟨(sid, x), List.mem_filter.mpr ⟨mem_of_tab_get? hx, by simp [hlive]⟩, rfl⟩
    exact List.mem_filter.mpr ⟨hpart, by simpa [hx] using hhome⟩

section
variable {e : Enc} {f : Fields} {s : State} {bid sid : Nat} {b : Block} {xs : List (Nat × Slice)}

theorem ReadyTogether.ne_nil (h : ReadyTogether e f s bid sid b xs) : xs ≠ [] := by
  rintro rfl
  obtain ⟨x, hx⟩ := h.cur
  have hmem := hx.mem_issueSet
  rw [← h.set] at hmem
  cases hmem

theorem ReadyTogether.crossCheck (h : ReadyTogether e f s bid sid b xs) {p : Nat × Slice} (hp : p ∈ xs) : e.crossCheck f p.2 = .ok := by
  rw [Enc.crossCheck, h.legal p hp, Bool.not_true, if_neg Bool.false_ne_true, h.sources p hp]

/-- Members that detect an enabled exception raise it, and none executes (R136). -/
theorem runCross_raises {body : List Env → Env → Out × (Nat → Excs)} (h : ReadyTogether e f s bid sid b xs) :
    let vs := xs.map (fun p => e.env f bid p.1 b p.2)
    let bad := vs.filterMap (fun v => (fpCause v.x.mode v.act (body vs v).2).map (fun c => (v.sid, c.1, c.2)))
    bad ≠ [] → runCross e f body s = .next (s.crossFault bid f.len (b.issueSet sid) bad) := by
  intro vs bad hne
  obtain ⟨x, hx⟩ := h.cur
  have hstall : xs.any (fun p => e.crossCheck f p.2 = .stall) = false :=
    List.any_eq_false.mpr fun p hp => by simp [h.crossCheck hp]
  have hbad : (vs.map (fun v => (v, body vs v))).filterMap (fun r =>
      (fpCause r.1.x.mode r.1.act r.2.2).map (fun c => (r.1.sid, c.1, c.2))) = bad := List.filterMap_map
  unfold runCross
  simp only [show s.curSlice = _ from hx, h.home, Bool.false_eq_true, if_false, h.found, hstall]
  rw [if_neg, hbad, if_pos]
  · rw [List.isEmpty_eq_false_iff.mpr hne]
    rfl
  · rw [List.filterMap_eq_nil_iff.mpr fun p hp => by rw [h.crossCheck hp]]
    exact Bool.false_ne_true

end

section
variable {i : Fields → Instr} {e : Fields → Nat → Enc} {body : Fields → List Env → Env → Out × (Nat → Excs)}
  {exc : List Env → Env → Nat → Excs}

/-- A cross-lane row whose members raise what they detect. -/
theorem faultsTogether_of (he : ∀ f s bid sid b x, s.curSlice = some (bid, sid, b, x) → exec (i f) s = runCross (e f b.width) f (body f) s)
    (hb : ∀ f vs v, (body f vs v).2 = exc vs v) : FaultsTogether i e exc := by
  intro f s bid sid b xs h vs bad hne
  obtain ⟨x, hx⟩ := h.cur
  have hraises := runCross_raises (body := body f) h
  simp only [hb] at hraises
  rw [he f s bid sid b x hx]
  exact hraises hne

/-- A cross-lane row whose result is one register result of the active lanes in every member. -/
theorem together_write {wide : Env → Bool} {vals : List Env → Env → Quad Dword} {t : Tag}
    (he : ∀ f s bid sid b x, s.curSlice = some (bid, sid, b, x) → exec (i f) s = runCross (e f b.width) f (body f) s)
    (hb : ∀ f vs v, body f vs v = (outReg (v.write (wide v) (vals vs v) t), exc vs v))
    (hw : ∀ f v width mode, v.ty = (e f width).typeOf f mode → (if wide v then 2 else 1) ≤ (e f width).dst.span v.ty f) :
    GivesTogether i e (fun vs v => { regs := [v.write (wide v) (vals vs v) t] }) exc :=
  together_of he (fun f vs v _ _ => hb f vs v) (fun f _ v hf _ => ⟨rfl, rfl, fun _ _ => rfl, fun _ => rfl,
    .inr ⟨_, rfl, congrArg (fun g : Fields => g.dst.toNat) hf, fun width mode hty => hw f v width mode hty⟩⟩)

end

end Sys2Proof
end

section
/-! SUPPORT. The votes of a gang (R140). -/

namespace Sys2Proof

open Sys2Proof.Machine

/-- A gang lane is present and its predicate bit is set. -/
def votes (f : Fields) (vs : List Env) (g : Nat) : Bool :=
  match gangLane vs g with | some p => voteBit f p | none => false

/-- The bits of the present lanes are their votes. -/
theorem map_voteBit_eq (f : Fields) (vs : List Env) (w : Nat) :
    ((presentLanes vs w).filterMap (gangLane vs)).map (voteBit f) = (presentLanes vs w).map (votes f vs) := by
  rw [List.map_filterMap, ← List.filterMap_eq_map]
  refine List.filterMap_congr fun g hg => ?_
  obtain ⟨p, hp⟩ := Option.isSome_iff_exists.mp (List.mem_filter.mp hg).2
  simp [votes, hp]

/-- Some lane votes where the set of those that vote is not empty. -/
theorem any_votes {gs : List Nat} {q : Nat → Bool} : (gs.map q).any id = !(gs.filter q).isEmpty := by
  rw [Bool.eq_iff_iff, Bool.not_eq_true', List.isEmpty_eq_false_iff, ne_eq, List.filter_eq_nil_iff]
  simp

/-- Every lane votes where the set of those that vote is as long as that of the lanes. -/
theorem all_votes {gs : List Nat} {q : Nat → Bool} : (gs.map q).all id = ((gs.filter q).length == gs.length) := by
  rw [Bool.eq_iff_iff, beq_iff_eq, List.length_filter_eq_length_iff]
  simp

/-- VOTE's result (R140): some vote, every vote, a unanimous vote, or the set of the lanes that vote. -/
def voteOut (f : Fields) (vs : List Env) (v : Env) : Out :=
  let set := (presentLanes vs v.b.width).filter (votes f vs)
  match v.md % 4 with
  | 0 => predOut v (fun _ => !set.isEmpty)
  | 1 => predOut v (fun _ => set.length == (presentLanes vs v.b.width).length)
  | 2 => predOut v (fun _ => set.isEmpty || set.length == (presentLanes vs v.b.width).length)
  | _ => outReg (v.write true (Quad.all (BitVec.ofNat 64 (set.foldl (fun n g => n + 2 ^ g) 0))) .u)

/-- VOTE's meaning. -/
def voteBody (f : Fields) (vs : List Env) (v : Env) : Out × (Nat → Excs) :=
  let bits := ((presentLanes vs v.b.width).filterMap (gangLane vs)).map (voteBit f)
  if v.md % 4 = 3 then
    let set := (presentLanes vs v.b.width).filter (votes f vs)
    (outReg (v.write true (Quad.all (BitVec.ofNat 64 (set.foldl (fun n g => n + 2 ^ g) 0))) .u), noExcs)
  else (predOut v (fun _ => match v.md % 4 with | 0 => bits.any id | 1 => bits.all id | _ => bits.all id || !bits.any id), noExcs)

/-- The row of VOTE (R138). -/
def encVote (f : Fields) : Enc :=
  { opc := 0x54, lens := [2], dst := if modOf f % 4 = 3 then .w64 else .pd, sa := .pr, md := 3 }

theorem exec_vote_body (f : Fields) (s : State) : exec (.vote f) s = runCross (encVote f) f (voteBody f) s := rfl

theorem voteBody_eq (f : Fields) (vs : List Env) (v : Env) : voteBody f vs v = (voteOut f vs v, noExcs) := by
  unfold voteBody voteOut
  simp only [map_voteBit_eq, any_votes, all_votes]
  have hmod : v.md % 4 < 4 := Nat.mod_lt _ (by decide)
  generalize v.md % 4 = k at hmod
  match k, hmod with
  | 0, _ => rfl
  | 1, _ => rfl
  | 2, _ => simp [Bool.or_comm]
  | 3, _ => rfl

/-- A vote that is no set writes no register. -/
theorem voteOut_regs (f : Fields) (vs : List Env) (v : Env) :
    (voteOut f vs v).regs = [] ∨ v.md % 4 = 3 ∧ ∃ t, (voteOut f vs v).regs = [v.write true t .u] := by
  have hmod : v.md % 4 < 4 := Nat.mod_lt _ (by decide)
  unfold voteOut
  generalize v.md % 4 = k at hmod
  match k, hmod with
  | 0, _ => exact .inl rfl
  | 1, _ => exact .inl rfl
  | 2, _ => exact .inl rfl
  | 3, _ => exact .inr ⟨rfl, _, rfl⟩

/-- A vote does nothing but give its result. -/
theorem voteOut_plain (f : Fields) (vs : List Env) (v : Env) : (voteOut f vs v).rels = [] ∧ (voteOut f vs v).fills = [] ∧
    (∀ s r, (voteOut f vs v).fix s r = r) ∧ ∀ s, (voteOut f vs v).eff s = s := by
  unfold voteOut
  split <;> exact ⟨rfl, rfl, fun _ _ => rfl, fun _ => rfl⟩

theorem vote_together : GivesTogether .vote (fun f _ => encVote f) (fun vs v => voteOut v.f vs v) (fun _ _ _ => Excs.none) := by
  refine together_of (fun f s _ _ _ _ _ => exec_vote_body f s) (fun f vs v hf _ => hf ▸ voteBody_eq ..) (fun f vs v hf hmd => ?_)
  obtain ⟨hrels, hfills, hfix, heff⟩ := voteOut_plain v.f vs v
  refine ⟨hrels, hfills, hfix, heff, (voteOut_regs v.f vs v).imp_right ?_⟩
  rintro ⟨hset, t, hregs⟩
  refine ⟨_, hregs, congrArg (fun g : Fields => g.dst.toNat) hf, fun _ _ _ => ?_⟩
  rw [show (encVote f).dst = .w64 from if_pos (hmd ▸ hset)]
  exact le_rfl

end Sys2Proof
end

section
/-! SUPPORT. SHFL, BCAST, RDX, SCAN and TOPK (R138, R139, R141, R142). -/

namespace Sys2Proof

open Sys2Proof.Machine

/-- The row of SHFL: its segment is no wider than the gang (R138). -/
def encShfl (width : Nat) : Enc :=
  { opc := 0x52, lens := [2, 3], dst := .ty, sa := .ty, sb := .w32, types := .tov typeB, md := 31,
    extra := fun f _ => decide (modOf f / 4 % 8 ≤ 5) && decide (segOf (modOf f) width ≤ width) }

/-- SHFL's value in a lane: operand a of the source lane where that is present, and its own otherwise (R139). -/
def shflVal (vs : List Env) (v : Env) (l : Nat) : Nat :=
  ((shflSrc v.md v.b.width (v.lane l) (v.bl l % 2 ^ 32)).bind (gangA vs)).getD (v.al l)

/-- SHFL's meaning. -/
def shflBody (vs : List Env) (v : Env) : Out × (Nat → Excs) :=
  (outReg (v.write (typeWide v.ty) (quadNat (shflVal vs v)) .g), noExcs)

theorem exec_shfl_body {f : Fields} {s : State} {bid sid : Nat} {b : Block} {x : Slice} (h : Executing s bid sid b x) :
    exec (.shfl f) s = runCross (encShfl b.width) f shflBody s := by
  rw [exec_shfl, execShfl, h.curWidth]
  refine congrArg (fun body => runCross (encShfl b.width) f body s) (funext₂ fun vs v => ?_)
  refine congrArg (fun g => (outReg (v.write (typeWide v.ty) (quadNat g) .g), noExcs)) (funext fun l => ?_)
  unfold shflVal
  cases shflSrc v.md v.b.width (v.lane l) (v.bl l % 2 ^ 32) <;> rfl

theorem shfl_together : GivesTogether .shfl (fun _ => encShfl)
    (fun vs v => { regs := [v.write (typeWide v.ty) (quadNat (shflVal vs v)) .g] }) (fun _ _ _ => Excs.none) :=
  together_write (fun _ _ _ _ _ _ h => exec_shfl_body h) (fun _ _ _ => rfl) (fun _ _ _ _ _ => le_rfl)

theorem bcast_together : GivesTogether .bcast
    (fun _ _ => { opc := 0x53, lens := [2, 3], dst := .ty, sa := .ty, sb := .u32, types := .tov typeB })
    (fun vs v => { regs := [v.write (typeWide v.ty) (Quad.all (BitVec.ofNat 64 ((gangA vs (v.o.scalar % v.b.width)).getD 0))) .u] })
    (fun _ _ _ => Excs.none) :=
  together_write (fun f s _ _ _ _ _ => exec_bcast f s) (fun _ _ _ => rfl) (fun _ _ _ _ _ => le_rfl)

/-! ### RDX and SCAN (R84, R141) -/

/-- RDX's meaning: the root of the tree in all lanes. -/
def rdxBody (vs : List Env) (v : Env) : Out × (Nat → Excs) :=
  (outReg (v.write (typeWide v.ty) (Quad.all (BitVec.ofNat 64 (elemImage v.ty ((redRoot vs v v.b.width).1.getD 0)))) .u),
   fun _ => (redRoot vs v v.b.width).2)

theorem exec_rdx_body (f : Fields) (s : State) : exec (.rdx f) s = runCross (encRed 0x55 15) f rdxBody s := rfl

/-- The first gang lane that a lane's tree leaves out: MOD[4] leaves out the lane itself. -/
def scanBound (v : Env) (g : Nat) : Nat := if bitOf v.md 4 then g else g + 1

/-- The exceptions of the trees of all present lanes. -/
def scanExcs (vs : List Env) (v : Env) : Excs :=
  ((presentLanes vs v.b.width).map (fun g => (redRoot vs v (scanBound v g)).2)).foldl Excs.join Excs.none

/-- SCAN's meaning: in each lane the root of the tree of the lanes up to it. -/
def scanBody (vs : List Env) (v : Env) : Out × (Nat → Excs) :=
  (outReg (v.write (typeWide v.ty) (quadNat (fun l => elemImage v.ty ((redRoot vs v (scanBound v (v.lane l))).1.getD 0))) .g),
   fun _ => scanExcs vs v)

theorem exec_scan_body (f : Fields) (s : State) : exec (.scan f) s = runCross (encRed 0x56 31) f scanBody s := rfl

theorem rdx_together : GivesTogether .rdx (fun _ _ => encRed 0x55 15)
    (fun vs v => { regs := [v.write (typeWide v.ty)
      (Quad.all (BitVec.ofNat 64 (elemImage v.ty ((redRoot vs v v.b.width).1.getD 0)))) .u] })
    (fun vs v _ => (redRoot vs v v.b.width).2) :=
  together_write (fun f s _ _ _ _ _ => exec_rdx_body f s) (fun _ _ _ => rfl) (fun _ _ _ _ _ => le_rfl)

theorem scan_together : GivesTogether .scan (fun _ _ => encRed 0x56 31)
    (fun vs v => { regs := [v.write (typeWide v.ty)
      (quadNat (fun l => elemImage v.ty ((redRoot vs v (scanBound v (v.lane l))).1.getD 0))) .g] })
    (fun vs v _ => scanExcs vs v) :=
  together_write (fun f s _ _ _ _ _ => exec_scan_body f s) (fun _ _ _ => rfl) (fun _ _ _ _ _ => le_rfl)

theorem rdx_faults : FaultsTogether .rdx (fun _ _ => encRed 0x55 15) (fun vs v _ => (redRoot vs v v.b.width).2) :=
  faultsTogether_of (fun f s _ _ _ _ _ => exec_rdx_body f s) (fun _ _ _ => rfl)

theorem scan_faults : FaultsTogether .scan (fun _ _ => encRed 0x56 31) (fun vs v _ => scanExcs vs v) :=
  faultsTogether_of (fun f s _ _ _ _ _ => exec_scan_body f s) (fun _ _ _ => rfl)

/-! ### TOPK (R142) -/

/-- The row of TOPK (R138). -/
def encTopk : Enc := { opc := 0x57, lens := [2, 3], dst := .w32, sa := .w32, sb := .u32, types := .tov typeTopk, md := 3 }

/-- TOPK's value in gang lane `g`: the lane of rank `g`, or the rank of lane `g`, all ones past the first K (R142). -/
def topkVal (vs : List Env) (v : Env) (g : Nat) : Nat :=
  let ord := topkOrder vs v
  let k := min v.o.scalar v.b.width
  if bitOf v.md 0 then (if g < k ∧ g < ord.length then ord.getD g 0 else 0xFFFFFFFF)
  else (if ord.idxOf g < k ∧ ord.idxOf g < ord.length then ord.idxOf g else 0xFFFFFFFF)

/-- TOPK's meaning. -/
def topkBody (vs : List Env) (v : Env) : Out × (Nat → Excs) :=
  (outReg (v.write false (quadNat (fun l => topkVal vs v (v.lane l))) .g), noExcs)

theorem exec_topk_body (f : Fields) (s : State) : exec (.topk f) s = runCross encTopk f topkBody s := by
  rw [exec_topk, execTopk]
  refine congrArg (fun body => runCross encTopk f body s) (funext₂ fun vs v => ?_)
  simp only [topkBody, topkVal, Bool.and_eq_true, decide_eq_true_eq]

theorem topk_together : GivesTogether .topk (fun _ _ => encTopk)
    (fun vs v => { regs := [v.write false (quadNat (fun l => topkVal vs v (v.lane l))) .g] }) (fun _ _ _ => Excs.none) :=
  together_write (fun f s _ _ _ _ _ => exec_topk_body f s) (fun _ _ _ => rfl) (fun _ _ _ _ _ => le_rfl)

end Sys2Proof
end

section
/-! SUPPORT. QNT of an MX type (R78, R129, R135). -/

namespace Sys2Proof

open Sys2Proof.Machine

/-- One element quantised with its block of 32 gang lanes (R78). -/
def qntMxVal (vs : List Env) (v : Env) (l : Nat) : Nat × Excs :=
  qntElem v.ty v.rnd (v.word l) (qntBlock vs (v.lane l)) (decodeF 1 (v.al l))

/-- The results of QNT of an MX type: the elements with their scales, one word drawn for each active lane under rsr (R72). -/
def qntMxOut (vs : List Env) (v : Env) : Out :=
  { regs := [v.write false (quadNat (fun l => (qntMxVal vs v l).1)) (v.tagR (shapeUG [v.a]))], eff := v.advance }

/-- The meaning of QNT of an MX type. -/
def qntMxBody (vs : List Env) (v : Env) : Out × (Nat → Excs) := (qntMxOut vs v, fun l => (qntMxVal vs v l).2)

/-- A legal QNT of an MX row names an MX type, which is not as8 (R135). -/
theorem encQntMx_tov {width : Nat} {f : Fields} {mode : Word} (h : (encQntMx width).legal f mode = true) :
    ¬(f.ext.tov.toNat = 13 || f.ext.tov.toNat = 0) = true := by
  have hmx : typeMX f.ext.tov.toNat = true := Enc.legal_tov h rfl
  simp only [typeMX, Bool.and_eq_true, decide_eq_true_eq] at hmx
  simp only [Bool.or_eq_true, decide_eq_true_eq]
  omega

theorem exec_qnt_mx {f : Fields} {s : State} {bid sid : Nat} {b : Block} {xs : List (Nat × Slice)}
    (h : ReadyTogether (encQntMx b.width) f s bid sid b xs) : exec (.qnt f) s = runCross (encQntMx b.width) f qntMxBody s := by
  obtain ⟨x, hx⟩ := h.cur
  obtain ⟨p, hp⟩ := List.exists_mem_of_ne_nil xs h.ne_nil
  rw [exec_qnt, execQnt, if_neg (encQntMx_tov (h.legal p hp)), hx.curWidth]
  rfl

/-- Draws change the counters of the slice that draws. -/
theorem advance_slice_other (v : Env) (s : State) {k : Nat} (hk : k ≠ v.sid) : (v.advance s).slice? v.bid k = s.slice? v.bid k := by
  unfold Env.advance
  split
  · rw [State.slice?_modSlice, if_neg]
    rintro ⟨-, rfl⟩
    exact hk rfl
  · rfl

/-- Where QNT of an MX type raises in no member, each member completes. -/
theorem qntMx_together {f : Fields} {s : State} {bid sid : Nat} {b : Block} {xs : List (Nat × Slice)}
    (h : ReadyTogether (encQntMx b.width) f s bid sid b xs) :
    let env := fun (p : Nat × Slice) => (encQntMx b.width).env f bid p.1 b p.2
    let vs := xs.map env
    (∀ v ∈ vs, fpCause v.x.mode v.act (fun l => (qntMxVal vs v l).2) = none) → ∃ ys : List Slice, ys.length = xs.length ∧
      exec (.qnt f) s = .next (settledAll bid ((xs.zip ys).map (fun q => (q.1.1, qntMxOut vs (env q.1), q.2))) s) ∧
      ∀ q ∈ xs.zip ys, Went (encQntMx b.width) f q.1.2 (qntMxOut vs (env q.1)) q.2 := by
  intro env vs hquiet
  rw [exec_qnt_mx h]
  exact runCross_together (body := qntMxBody) h hquiet fun p _ => ⟨rfl, rfl, le_rfl, fun _ _ => rfl,
    fun s k hk => advance_slice_other (env p) s hk, within_one rfl rfl rfl le_rfl⟩

/-- Where it raises in some member, none executes (R136). -/
theorem qntMx_faults {f : Fields} {s : State} {bid sid : Nat} {b : Block} {xs : List (Nat × Slice)}
    (h : ReadyTogether (encQntMx b.width) f s bid sid b xs) :
    let vs := xs.map (fun p => (encQntMx b.width).env f bid p.1 b p.2)
    let bad := vs.filterMap (fun v => (fpCause v.x.mode v.act (fun l => (qntMxVal vs v l).2)).map (fun c => (v.sid, c.1, c.2)))
    bad ≠ [] → exec (.qnt f) s = .next (s.crossFault bid f.len (b.issueSet sid) bad) := by
  rw [exec_qnt_mx h]
  exact runCross_raises (body := qntMxBody) h

end Sys2Proof
end

section
/-! Cross-lane instructions (R78, R84, R129, R134 to R142). -/

namespace Sys2Proof

open Sys2Proof.Machine

/-- Settles O6: each row's meaning gives every member its results, which complete together, or the members that detect something raise. -/
theorem crossLaneResults : Obligations.CrossLaneResults := by
  unfold Obligations.CrossLaneResults
  refine ⟨⟨shfl_together, bcast_together, ?vote, rdx_together, scan_together, topk_together, rdx_faults, scan_faults⟩, ?qnt⟩
  case vote => exact vote_together
  case qnt =>
    intro f s bid sid b xs h env vs val out bad
    refine ⟨qntMx_faults h, fun hnil => qntMx_together h fun v hv => ?_⟩
    exact Option.map_eq_none_iff.mp (List.filterMap_eq_nil_iff.mp hnil v hv)

end Sys2Proof
end

section
/-! SUPPORT. Instructions with at most one register result, from what their meanings answer to what the statements say of them. -/

namespace Sys2Proof

open Sys2Proof.Machine

/-- Results with at most one register result, which lies in the destination field, and no fill. -/
structure Plain (e : Enc) (f : Fields) (ty : Nat) (o : Out) : Prop where
  regs : o.regs = [] ∨ ∃ w, o.regs = [w] ∧ w.d = f.dst.toNat ∧ (if w.wide then 2 else 1) ≤ e.dst.span ty f
  rels : o.rels = []
  fills : o.fills = []
  fix : ∀ s r, o.fix s r = r

theorem plain_none {e : Enc} {f : Fields} {ty : Nat} (eff : State → State) (pc : Option Dword) : Plain e f ty { eff := eff, pc := pc } :=
  ⟨.inl rfl, rfl, rfl, fun _ _ => rfl⟩

theorem plain_one {e : Enc} {f : Fields} {ty : Nat} {w : RegWrite} (hd : w.d = f.dst.toNat)
    (hs : (if w.wide then 2 else 1) ≤ e.dst.span ty f) (eff : State → State) (pc : Option Dword) :
    Plain e f ty { regs := [w], eff := eff, pc := pc } :=
  ⟨.inr ⟨w, rfl, hd, hs⟩, rfl, rfl, fun _ _ => rfl⟩

/-- A meaning that completes with such results. -/
theorem runInstr_went_plain {e : Enc} {f : Fields} {s : State} {bid sid : Nat} {b : Block} {x : Slice} {body : Env → State → Res} {o : Out}
    (h : Ready e f s bid sid b x) (hb : body (e.env f bid sid b x) s = .done o) (hp : Plain e f (e.typeOf f x.mode) o) :
    ∃ y, runInstr e f body s = .next (o.eff (settled s bid sid y)) ∧ Went e f x o y := by
  rcases hp.regs with hr | ⟨w, hr, hd, hs⟩
  · exact runInstr_went_none h hb hr hp.fills hp.rels hp.fix
  · exact runInstr_went_one h hb hr hp.fills hd hs hp.rels hp.fix

section
variable {i : Fields → Instr} {e : Fields → Enc} {body : Fields → Env → State → Res}

/-- An instruction whose meaning completes in the state that it began in. -/
theorem does_of {run : Env → State → State → Out → Prop} (he : ∀ f s, exec (i f) s = runInstr (e f) f (body f) s)
    (hg : ∀ f s bid sid b x, Ready (e f) f s bid sid b x → ∀ s1 o, run ((e f).env f bid sid b x) s s1 o →
      s1 = s ∧ body f ((e f).env f bid sid b x) s = .done o ∧ Plain (e f) f ((e f).typeOf f x.mode) o) : Does i e run := by
  intro f s bid sid b x h s1 o hr
  obtain ⟨rfl, hdone, hplain⟩ := hg f s bid sid b x h s1 o hr
  unfold Completes
  rw [he]
  exact runInstr_went_plain h hdone hplain

/-- The same where the results are a function of the operands and the state. -/
theorem givesIf_plain {cond : Env → State → Prop} {out : Env → State → Out} (he : ∀ f s, exec (i f) s = runInstr (e f) f (body f) s)
    (hg : ∀ f s bid sid b x, Ready (e f) f s bid sid b x → cond ((e f).env f bid sid b x) s →
      body f ((e f).env f bid sid b x) s = .done (out ((e f).env f bid sid b x) s) ∧
        Plain (e f) f ((e f).typeOf f x.mode) (out ((e f).env f bid sid b x) s)) : GivesIf i e cond out :=
  does_of he fun f s bid sid b x h _ _ hr => by
    obtain ⟨hc, rfl, rfl⟩ := hr
    exact ⟨rfl, hg f _ bid sid b x h hc⟩

/-- An instruction whose meaning waits. -/
theorem waits_of {run : Env → State → State → Prop} (he : ∀ f s, exec (i f) s = runInstr (e f) f (body f) s)
    (hg : ∀ f s bid sid b x, Ready (e f) f s bid sid b x → ∀ s1, run ((e f).env f bid sid b x) s s1 →
      body f ((e f).env f bid sid b x) s = .wait s1) : Waits i e run := by
  intro f s bid sid b x h s1 hr
  rw [he]
  exact runInstr_wait h.cur h.legal h.sources (hg f s bid sid b x h s1 hr)

end

end Sys2Proof
end

section
/-! SUPPORT. The uniform branch rule and the transfers (R150, R151, R164). -/

namespace Sys2Proof

open Sys2Proof.Machine

/-! ### R150 -/

theorem taken_no {v : Env} (h : v.act = 0) : v.taken = .no := if_pos h

theorem taken_yes {v : Env} (h0 : v.act ≠ 0) (h : v.act = v.x.mask) : v.taken = .yes := (if_neg h0).trans (if_pos h)

theorem taken_split {v : Env} (h0 : v.act ≠ 0) (h : v.act ≠ v.x.mask) : v.taken = .split := (if_neg h0).trans (if_neg h)

/-! ### The transfers -/

/-- A target that is a multiple of four (R151). -/
def Aligned (t : Dword) : Prop := t.getLsbD 0 = false ∧ t.getLsbD 1 = false

/-- The results of a transfer that is taken: a call leaves the address after it in its pair (R164). -/
def transferOut (target : Dword) (call : Bool) (v : Env) : Out :=
  { regs := if call then [⟨v.f.dst.toNat, true, Quad.all (v.x.pc + BitVec.ofNat 64 (4 * v.f.len)), .u, .u, true, 0xF⟩] else []
    pc := some target }

section
variable {v : Env} {t : Dword} {call : Bool}

theorem branchTo_no (h : v.act = 0) : branchTo v t call = .done {} := by
  rw [branchTo, taken_no h]

theorem branchTo_split (h0 : v.act ≠ 0) (h : v.act ≠ v.x.mask) : branchTo v t call = .raise 0x0104 0 v.act := by
  rw [branchTo, taken_split h0 h]

theorem branchTo_misaligned (h0 : v.act ≠ 0) (h : v.act = v.x.mask) (ht : ¬Aligned t) : branchTo v t call = .raise 0x0102 0 v.act := by
  rw [branchTo, taken_yes h0 h]
  refine if_pos ?_
  simpa [Aligned, or_iff_not_imp_left] using ht

theorem branchTo_yes (h0 : v.act ≠ 0) (h : v.act = v.x.mask) (ht : Aligned t) (hlen : v.len = v.f.len) :
    branchTo v t call = .done (transferOut t call v) := by
  rw [branchTo, taken_yes h0 h, transferOut, ← hlen]
  exact if_neg (by rw [ht.1, ht.2]; exact Bool.false_ne_true)

end

/-- A row of the transfers: what R150 and R151 decide, with the target that the row gives. -/
theorem transfer_claims {i : Fields → Instr} {e : Enc} {target : Env → Dword} {call : Bool}
    (he : ∀ f s, exec (i f) s = runInstr e f (fun v _ => branchTo v (target v) call) s) (hd : call = true → e.dst = .w64) :
    GivesIf i (fun _ => e) (fun v _ => v.act = 0) (fun _ _ => {}) ∧
    GivesIf i (fun _ => e) (fun v _ => (v.act ≠ 0 ∧ v.act = v.x.mask) ∧ Aligned (target v)) (fun v _ => transferOut (target v) call v) ∧
    Raises i (fun _ => e) (fun v _ c a m => v.act ≠ 0 ∧ v.act ≠ v.x.mask ∧ c = 0x0104 ∧ a = 0 ∧ m = v.act) ∧
    Raises i (fun _ => e) (fun v _ c a m => (v.act ≠ 0 ∧ v.act = v.x.mask) ∧ ¬Aligned (target v) ∧ c = 0x0102 ∧ a = 0 ∧ m = v.act) := by
  refine ⟨?notTaken, ?taken, ?split, ?misaligned⟩
  case notTaken => exact givesIf_plain he fun f s bid sid b x _ hc => ⟨branchTo_no hc, plain_none _ _⟩
  case taken =>
    refine givesIf_plain he fun f s bid sid b x _ hc => ?_
    obtain ⟨⟨h0, hall⟩, ht⟩ := hc
    refine ⟨branchTo_yes h0 hall ht rfl, ?_⟩
    cases call with
    | false => exact plain_none _ _
    | true => exact plain_one rfl (by rw [hd rfl]; exact le_rfl) _ _
  case split =>
    refine raises_of he fun f s bid sid b x _ c a m hr => ?_
    obtain ⟨h0, hsome, rfl, rfl, rfl⟩ := hr
    exact branchTo_split h0 hsome
  case misaligned =>
    refine raises_of he fun f s bid sid b x _ c a m hr => ?_
    obtain ⟨⟨h0, hall⟩, ht, rfl, rfl, rfl⟩ := hr
    exact branchTo_misaligned h0 hall ht

end Sys2Proof
end

section
/-! Branches, calls and returns (R150, R151, R164). -/

namespace Sys2Proof

open Sys2Proof.Machine

/-- Settles O9: each transfer is `branchTo` of its target, which R150 and then R151 decide. -/
theorem transfers : Obligations.Transfers := by
  unfold Obligations.Transfers
  exact ⟨transfer_claims (fun f s => exec_bra f s) nofun, transfer_claims (fun f s => exec_brx f s) nofun,
    transfer_claims (fun f s => exec_call f s) fun _ => rfl, transfer_claims (fun f s => exec_callx f s) fun _ => rfl,
    transfer_claims (fun f s => exec_ret f s) nofun⟩

end Sys2Proof
end

section
/-! SUPPORT. The mask instructions (R143, R144, R165): what each does with a stack that it can use, and BRKM's stack entry by entry. -/

namespace Sys2Proof

open Sys2Proof.Machine

/-! ### Rows -/

/-- The row of IFM: a predicate unless the form takes every lane (R162). -/
def encIfm (f : Fields) : Enc :=
  { opc := 0xE5, lens := [1, 2, 3], sa := if bitOf (modOf f) 1 then .no else .pr, gov0 := true, lit := .role, md := 3,
    extra := fun f _ => offsetOk f }

/-- The row of ELSM. -/
def encElsm : Enc := { opc := 0xE6, lens := [1, 3], gov0 := true, lit := .role, extra := fun f _ => offsetOk f }

/-- The row of ENDM. -/
def encEndm : Enc := { opc := 0xE7, lens := [1], gov0 := true }

/-- The row of BRKM: the number of entries in MOD (R162). -/
def encBrkm : Enc :=
  { opc := 0xE8, lens := [2, 3], sa := .pr, gov0 := true, lit := .role, md := 0x3F,
    extra := fun f _ => offsetOk f && decide (1 ≤ modOf f % 32) && decide (modOf f % 32 ≤ 16) }

/-! ### Results -/

/-- The results of a mask instruction: the new mask and stack, and the skip where M becomes 0 (R144, R165). -/
def maskOut (v : Env) (m : BitVec 4) (st : List MaskEntry) (skips : Bool) : Out :=
  { eff := v.onSlice (fun x => { x with mask := m, mstack := st })
    pc := if skips then v.skip m else none }

theorem plain_maskOut {e : Enc} {f : Fields} {ty : Nat} (v : Env) (m : BitVec 4) (st : List MaskEntry) (skips : Bool) :
    Plain e f ty (maskOut v m st skips) :=
  plain_none _ _

/-- IFM's results (R165). -/
def ifmOut (v : Env) : Out :=
  let c := maskCond v (bitOf v.md 1) (bitOf v.md 0)
  maskOut v (v.x.mask &&& c) (⟨v.x.mask, v.x.mask &&& ~~~c⟩ :: v.x.mstack) true

/-- An entry of BRKM's stack: of the top `n` the lanes L leave the outer and the other set, but the n-th keeps its outer set (R165). -/
def breakEntry (l : BitVec 4) (n : Nat) (p : MaskEntry × Nat) : MaskEntry :=
  if p.2 + 1 < n then ⟨p.1.outer &&& ~~~l, p.1.alt &&& ~~~l⟩ else if p.2 + 1 = n then ⟨p.1.outer, p.1.alt &&& ~~~l⟩ else p.1

/-- The entries below the n-th are as they were. -/
theorem map_breakEntry_below (l : BitVec 4) {n k : Nat} (st : List MaskEntry) (h : n ≤ k) : (st.zipIdx k).map (breakEntry l n) = st := by
  induction st generalizing k with
  | nil => rfl
  | cons t st ih =>
    have ht : breakEntry l n (t, k) = t := (if_neg (by simp only; omega)).trans (if_neg (by simp only; omega))
    rw [List.zipIdx_cons, List.map_cons, ht, ih (h.trans (Nat.le_succ k))]

/-- BRKM's stack, its entries counted from `k`. -/
theorem breakStack_eq_map (l : BitVec 4) (n k : Nat) (st : List MaskEntry) :
    breakStack l n st = (st.zipIdx k).map (breakEntry l (n + k)) := by
  induction n generalizing k st with
  | zero => rw [breakStack, map_breakEntry_below l st (Nat.zero_add k).le]
  | succ n ih =>
    cases st with
    | nil => rfl
    | cons t st =>
      have ht : breakEntry l (n + 1 + k) (t, k) = ⟨if n = 0 then t.outer else t.outer &&& ~~~l, t.alt &&& ~~~l⟩ := by
        by_cases hn : n = 0
        · rw [if_pos hn, breakEntry, if_neg (by simp only; omega), if_pos (by simp only; omega)]
        · rw [if_neg hn, breakEntry, if_pos (by simp only; omega)]
      rw [breakStack, List.zipIdx_cons, List.map_cons, ht, ih (k + 1), show n + (k + 1) = n + 1 + k by omega]

/-- BRKM's results (R165). -/
def brkmOut (v : Env) : Out :=
  let l := v.x.mask &&& maskCond v false (bitOf v.md 5)
  maskOut v (v.x.mask &&& ~~~l) (v.x.mstack.zipIdx.map (breakEntry l (v.md % 32))) true

/-! ### What each instruction answers -/

theorem ifm_gives : GivesIf .ifm encIfm (fun v _ => v.x.mstack.length ≠ 16) (fun v _ => ifmOut v) :=
  givesIf_plain (fun f s => exec_ifm f s) fun _ _ _ _ _ _ _ hc => ⟨if_neg hc, plain_maskOut ..⟩

theorem elsm_does : Does .elsm (fun _ => encElsm) (fun v s s1 o =>
    s1 = s ∧ ∃ t st, v.x.mstack = t :: st ∧ o = maskOut v t.alt (⟨t.outer, 0⟩ :: st) true) := by
  refine does_of (fun f s => exec_elsm f s) fun f s bid sid b x _ s1 o hr => ?_
  obtain ⟨rfl, t, st, hst, rfl⟩ := hr
  refine ⟨rfl, ?_, plain_maskOut ..⟩
  simp only [hst]
  rfl

theorem endm_does : Does .endm (fun _ => encEndm) (fun v s s1 o =>
    s1 = s ∧ ∃ t st, v.x.mstack = t :: st ∧ o = maskOut v t.outer st false) := by
  refine does_of (fun f s => exec_endm f s) fun f s bid sid b x _ s1 o hr => ?_
  obtain ⟨rfl, t, st, hst, rfl⟩ := hr
  refine ⟨rfl, ?_, plain_maskOut ..⟩
  simp only [hst]
  rfl

theorem brkm_gives : GivesIf .brkm (fun _ => encBrkm) (fun v _ => v.md % 32 ≤ v.x.mstack.length) (fun v _ => brkmOut v) := by
  refine givesIf_plain (fun f s => exec_brkm f s) fun f s bid sid b x _ hc => ⟨(if_neg hc.not_gt).trans ?_, plain_maskOut ..⟩
  exact congrArg (fun st => maskRes (encBrkm.env f bid sid b x) _ st true) (breakStack_eq_map _ _ 0 x.mstack)

/-- A stack that is full, or too short: MASK_STACK with the lanes of M (R165). -/
theorem mask_raises {i : Fields → Instr} {e : Fields → Enc} {body : Fields → Env → State → Res} {unfit : Env → Prop}
    (he : ∀ f s, exec (i f) s = runInstr (e f) f (body f) s) (hb : ∀ f v s, unfit v → body f v s = .raise 0x0106 0 v.x.mask) :
    Raises i e (fun v _ c a m => unfit v ∧ c = 0x0106 ∧ a = 0 ∧ m = v.x.mask) := by
  refine raises_of he fun f s bid sid b x _ c a m hr => ?_
  obtain ⟨hunfit, rfl, rfl, rfl⟩ := hr
  exact hb f _ s hunfit

theorem ifm_raises : Raises .ifm encIfm (fun v _ c a m => v.x.mstack.length = 16 ∧ c = 0x0106 ∧ a = 0 ∧ m = v.x.mask) :=
  mask_raises (fun f s => exec_ifm f s) fun _ _ _ h => if_pos h

theorem elsm_raises : Raises .elsm (fun _ => encElsm) (fun v _ c a m => v.x.mstack = [] ∧ c = 0x0106 ∧ a = 0 ∧ m = v.x.mask) :=
  mask_raises (fun f s => exec_elsm f s) fun _ _ _ h => by simp only [h]

theorem endm_raises : Raises .endm (fun _ => encEndm) (fun v _ c a m => v.x.mstack = [] ∧ c = 0x0106 ∧ a = 0 ∧ m = v.x.mask) :=
  mask_raises (fun f s => exec_endm f s) fun _ _ _ h => by simp only [h]

theorem brkm_raises : Raises .brkm (fun _ => encBrkm)
    (fun v _ c a m => v.x.mstack.length < v.md % 32 ∧ c = 0x0106 ∧ a = 0 ∧ m = v.x.mask) :=
  mask_raises (fun f s => exec_brkm f s) fun _ _ _ h => if_pos h

end Sys2Proof
end

section
/-! The mask instructions (R144, R165). -/

namespace Sys2Proof

open Sys2Proof.Machine

/-- Settles O10: each instruction finds a stack that it can use or raises MASK_STACK; `breakStack_eq_map` gives BRKM's stack. -/
theorem masks : Obligations.Masks := by
  unfold Obligations.Masks
  exact ⟨ifm_gives, ifm_raises, elsm_does, elsm_raises, endm_does, endm_raises, brkm_gives, brkm_raises⟩

end Sys2Proof
end

section
/-! SUPPORT. A REGANG that releases a slice which has waited with its latches read and emptied (R40, R168). -/

namespace Sys2Proof

open Sys2Proof.Machine

namespace RegangCounterexample

/-- A latch that holds zero in every lane. -/
def zeroLatch : Latch := ⟨.u, Quad.all 0⟩

/-- A slice at the REGANG. -/
def atGate (part : Nat) : Slice := Slice.placed (BitVec.ofNat 64 loadVa) part

/-- Slice 1 has waited since an earlier issue with the mask of slices 1 and 2: it has read its latches and emptied them. -/
def earlier : Slice := { atGate 1 with run := .waiting, pend := true, prog := .pending 6, latchSources := [some zeroLatch, none, none, none] }

/-- Slice 2 has come to wait with that mask in this issue of its part. -/
def first : Slice := { atGate 2 with run := .waiting, pend := true, prog := .pending 6 }

/-- Slice 3, the last of that part to come, names slice 0. -/
def last : Slice := { atGate 2 with pend := true, regs := [(0, .held .u (Quad.all 1))] }

/-- A block of one gang of four slices, of which slice 0 has not come to the REGANG. -/
def block : Block :=
  { loadBlock 0 0 with width := 16, nslices := 4, slices := [(0, atGate 0), (1, earlier), (2, first), (3, last)] }

/-- Slice 3 executes. -/
def state : State := { State.reset.load [] with blocks := [(0, block)], cur := some (0, 3) }

/-- `REGANG v0`. -/
def fields : Fields := ⟨false, false, 0, false, 0, false, 0, .one⟩

theorem ready : Ready encRegang fields state 0 3 block last where
  cur := rfl
  legal := by decide
  sources := by decide
  dst := fun _ k hk => absurd hk (Nat.not_lt_zero k)
  room := by unfold Roomy; decide +kernel

/-- What slice 1 holds of the latches that it has read. -/
def sourcesOf (o : Host.Outcome State Fault Refusal) : List (Option Latch) :=
  match o with
  | .next t => ((t.slice? 0 1).map (fun x => x.latchSources)).getD []
  | _ => []

/-- The REGANG releases slice 1, which then holds no latches that it has read. -/
theorem sourcesOf_exec : sourcesOf (exec (.regang fields) state) = [] := by decide +kernel

end RegangCounterexample

end Sys2Proof
end

section
/-! EXIT and REGANG (R167, R168). -/

namespace Sys2Proof

open Sys2Proof.Machine

/-- Refutes O11: a slice that another's REGANG releases takes back the latches that it read when it began to wait, so that it holds none
that it has read (`State.endRegang`); the statement completes the slice as it stood. Slice 3 here comes to a REGANG whose mask names slice 0,
and waits; slice 1, released by it, had read its latches. -/
theorem not_exitAndRegang : ¬ Obligations.ExitAndRegang := by
  unfold Obligations.ExitAndRegang
  rintro ⟨-, -, -, hwaits, -⟩
  have hnext := hwaits RegangCounterexample.fields RegangCounterexample.state 0 3 RegangCounterexample.block RegangCounterexample.last
    RegangCounterexample.ready _ ⟨[1, 2], ⟨by decide, _, rfl, by decide +kernel⟩, by decide, rfl⟩
  have hsources := RegangCounterexample.sourcesOf_exec.symm.trans (congrArg RegangCounterexample.sourcesOf hnext)
  exact absurd hsources (by decide +kernel)

end Sys2Proof
end

section
/-! SUPPORT. GJOIN (R154 to R158, R169): its stages, what each answers, and the slot of a block group. -/

namespace Sys2Proof

open Sys2Proof.Machine

/-! ### What GJOIN looks at -/

/-- The row of GJOIN (R162). -/
def encGjoin : Enc := { opc := 0xB4, lens := [1, 2, 3], dst := .w32, sa := .u32, sb := .u32, gov0 := true, md := 1 }

namespace Machine.Env

/-- The group is of blocks, not of slices (R154). -/
def ofBlocks (v : Env) : Bool := bitOf v.md 0

/-- The key (R169). -/
def groupKey (v : Env) : Word := BitVec.ofNat 32 v.a.scalar

/-- The issuer as a member. -/
def member (v : Env) : Nat := if v.ofBlocks then v.bid else v.sid

/-- The issuer as a slice that waits in GJOIN. -/
def waiter (v : Env) : Nat := if v.ofBlocks then v.bid * 256 + v.sid else v.sid

/-- The group slots that the issuer's groups stand in (R155). -/
def groupTable (v : Env) (s : State) : Tab Group := if v.ofBlocks then (s.die v.b.die).groups else v.b.groups

/-- The largest count (R169). -/
def countLimit (v : Env) : Nat := if v.ofBlocks then min 64 v.b.nblocks.toNat else v.b.nslices

/-- The count is in range (R169). -/
def Counted (v : Env) : Prop := 1 ≤ v.o.scalar ∧ v.o.scalar ≤ v.countLimit

/-- The group is of the issuer's key in its key scope (R156). -/
def ofKey (v : Env) (g : Group) : Bool :=
  g.key == v.groupKey && (!v.ofBlocks || (g.ctx == v.b.ctx && g.node == v.b.node))

/-- The group in which the issuer waits already, with its slot. -/
def heldGroup (v : Env) (s : State) : Option (Nat × Group) :=
  (v.groupTable s).find? (fun p => v.ofKey p.2 && p.2.waiting.contains v.waiter)

/-- The group of the key that is forming, with its slot. -/
def formingGroup (v : Env) (s : State) : Option (Nat × Group) := (v.groupTable s).find? (fun p => v.ofKey p.2 && p.2.state == 1)

/-- The group slots that the context has taken. -/
def slotsOwned (v : Env) (s : State) : Nat := ((v.groupTable s).filter (fun p => p.2.state != 0 && p.2.ctx == v.b.ctx)).length

/-- The block is no shadow that names a block group (R355). -/
def JoinsAsItself (v : Env) : Prop := ¬(v.ofBlocks = true ∧ v.b.shadowOf.isSome = true)

/-- The slot of a new group of the key (R155). -/
def newSlot (v : Env) (s : State) : GroupSlot := s.groupSlot v.b v.ofBlocks (v.groupTable s) v.groupKey.toNat

/-- The members of a group with the issuer. -/
def joined (v : Env) (g : Group) : List Nat := if g.current.contains v.member then g.current else g.current ++ [v.member]

/-- A group's handle in every lane of the destination (R154, R163). -/
def handleOf (v : Env) (g : Group) (slot : Nat) : RegWrite := v.writeUni false (BitVec.ofNat 64 (makeHandle v.ofBlocks g.gen slot))

/-- The group slots as they stand when the issuer's group is written back. -/
def tableNow (v : Env) (s : State) : Tab Group :=
  if v.ofBlocks then (s.die v.b.die).groups else ((s.blocks.get? v.bid).map (fun b => b.groups)).getD []

/-- The group as it stands then. -/
def groupNow (v : Env) (slot : Nat) (g : Group) (s : State) : Group :=
  match (v.tableNow s).get? slot with | some g' => g' | none => g

/-- The group that the issuer begins and in which it waits (R158). -/
def begunGroup (v : Env) (gen : Half) : Group :=
  { key := v.groupKey, gen := gen + 1, state := 1, count := v.o.scalar, current := [v.member], published := [], waiting := [v.waiter],
    ctx := v.b.ctx, node := v.b.node, epoch := 0 }

/-- The group that the issuer forms alone. -/
def aloneGroup (v : Env) (gen : Half) : Group := { v.begunGroup gen with state := 2, published := [v.member], waiting := [] }

/-- The group that the issuer puts into the slot, by its count. -/
def newGroup (v : Env) (gen : Half) : Group :=
  { key := v.groupKey, gen := gen + 1, state := if v.o.scalar = 1 then 2 else 1, count := v.o.scalar, current := [v.member],
    published := if v.o.scalar = 1 then [v.member] else [], waiting := if v.o.scalar = 1 then [] else [v.waiter],
    ctx := v.b.ctx, node := v.b.node, epoch := 0 }

theorem newGroup_alone {v : Env} (h : v.o.scalar = 1) (gen : Half) : v.newGroup gen = v.aloneGroup gen := by
  simp only [newGroup, aloneGroup, begunGroup, h, if_true]

theorem newGroup_begun {v : Env} (h : v.o.scalar ≠ 1) (gen : Half) : v.newGroup gen = v.begunGroup gen := by
  simp only [newGroup, begunGroup, h, if_false]

end Machine.Env

/-! ### The stages of GJOIN -/

/-- A slice whose arrival stands: it goes on once its group has formed. -/
def gjoinReturns (v : Env) (slot : Nat) (g : Group) (s : State) : Res :=
  if g.state = 2 then
    .done { regs := [v.handleOf g slot]
            eff := fun s => s.putGroup v.bid v.ofBlocks slot
              { v.groupNow slot g s with waiting := g.waiting.filter (fun c => c != v.waiter) } }
  else .wait s

/-- A slice that comes to a group that is forming. -/
def gjoinJoins (v : Env) (slot : Nat) (g : Group) (s : State) : Res :=
  if g.count ≠ v.o.scalar then .raise 0x010A 0 v.x.mask
  else if (v.joined g).length = g.count then
    .done { regs := [v.handleOf g slot]
            eff := fun s => s.putGroup v.bid v.ofBlocks slot { g with state := 2, current := v.joined g, published := v.joined g } }
  else .wait (s.putGroup v.bid v.ofBlocks slot { g with current := v.joined g, waiting := v.waiter :: g.waiting })

/-- A slice that comes where no group of the key is forming. -/
def gjoinBegins (v : Env) (s : State) : Res :=
  match v.newSlot s with
  | .limit => .raise 0x0107 0 v.x.mask
  | .wait => .wait s
  | .at slot gen =>
    if v.ofBlocks && 32 ≤ v.slotsOwned s then .raise 0x0107 0 v.x.mask
    else if v.o.scalar = 1 then
      .done { regs := [v.handleOf (v.newGroup gen) slot], eff := fun s => s.takeGroup v.bid v.ofBlocks slot (v.newGroup gen) }
    else .wait (s.takeGroup v.bid v.ofBlocks slot (v.newGroup gen))

/-- A slice whose count is in range: it waits in a group of the key already, or one is forming, or none is. -/
def gjoinSeeks (v : Env) (s : State) : Res :=
  match v.heldGroup s with
  | some (slot, g) => gjoinReturns v slot g s
  | none =>
    match v.formingGroup s with
    | some (slot, g) => gjoinJoins v slot g s
    | none => gjoinBegins v s

/-- GJOIN's stages in their order. -/
def gjoinStages (v : Env) (s : State) : Res :=
  if v.ofBlocks && v.b.shadowOf.isSome then
    doneEff (fun s => (s.modBlock v.bid (fun b => { b with stopped := true })).endBlock v.bid none)
  else if v.o.scalar = 0 || v.countLimit < v.o.scalar then .raise 0x010A 0 v.x.mask
  else gjoinSeeks v s

theorem exec_gjoin_stages (f : Fields) (s : State) : exec (.gjoin f) s = runInstr encGjoin f gjoinStages s := rfl

section
variable {v : Env} {s : State} {slot : Nat} {g : Group}

theorem gjoin_shadow (h : ¬v.JoinsAsItself) :
    gjoinStages v s = doneEff (fun s => (s.modBlock v.bid (fun b => { b with stopped := true })).endBlock v.bid none) :=
  if_pos (by rw [Bool.and_eq_true]; exact not_not.mp h)

theorem gjoin_notCounted (h : v.JoinsAsItself) (hc : ¬v.Counted) : gjoinStages v s = .raise 0x010A 0 v.x.mask := by
  refine (if_neg (by rw [Bool.and_eq_true]; exact h)).trans (if_pos ?_)
  simp only [Env.Counted, not_and_or, not_le, Nat.lt_one_iff] at hc
  simpa using hc

/-- Past the checks of a shadow and of the count. -/
theorem gjoin_counted (h : v.JoinsAsItself) (hc : v.Counted) : gjoinStages v s = gjoinSeeks v s := by
  obtain ⟨hpos, hle⟩ := hc
  refine (if_neg (by rw [Bool.and_eq_true]; exact h)).trans (if_neg ?_)
  simp [Nat.ne_of_gt hpos, hle]

theorem gjoin_returns (h : v.JoinsAsItself) (hc : v.Counted) (hheld : v.heldGroup s = some (slot, g)) :
    gjoinStages v s = gjoinReturns v slot g s := by
  rw [gjoin_counted h hc, gjoinSeeks, hheld]

theorem gjoin_joins (h : v.JoinsAsItself) (hc : v.Counted) (hheld : v.heldGroup s = none) (hforming : v.formingGroup s = some (slot, g)) :
    gjoinStages v s = gjoinJoins v slot g s := by
  rw [gjoin_counted h hc, gjoinSeeks, hheld, hforming]

theorem gjoin_begins (h : v.JoinsAsItself) (hc : v.Counted) (hheld : v.heldGroup s = none) (hforming : v.formingGroup s = none) :
    gjoinStages v s = gjoinBegins v s := by
  rw [gjoin_counted h hc, gjoinSeeks, hheld, hforming]

end

/-! ### A new group -/

/-- A block group's slot is there or not; none waits for one (R155). -/
theorem groupSlot_ofBlocks_ne_wait (s : State) (b : Block) (t : Tab Group) (key : Nat) : s.groupSlot b true t key ≠ .wait := by
  unfold State.groupSlot
  simp only [if_true]
  split
  · exact GroupSlot.noConfusion
  · split <;> exact GroupSlot.noConfusion

section
variable {v : Env} {s : State} {slot : Nat} {gen : Half}

theorem gjoinBegins_at (hslot : v.newSlot s = .at slot gen) (howned : v.ofBlocks = true → v.slotsOwned s < 32) :
    gjoinBegins v s = if v.o.scalar = 1 then
        .done { regs := [v.handleOf (v.newGroup gen) slot], eff := fun s => s.takeGroup v.bid v.ofBlocks slot (v.newGroup gen) }
      else .wait (s.takeGroup v.bid v.ofBlocks slot (v.newGroup gen)) := by
  rw [gjoinBegins, hslot]
  exact if_neg (by simpa using howned)

theorem gjoinBegins_wait (hslot : v.newSlot s = .wait) : gjoinBegins v s = .wait s := by
  rw [gjoinBegins, hslot]

theorem gjoinBegins_limit (h : v.newSlot s = .limit ∨ v.ofBlocks = true ∧ 32 ≤ v.slotsOwned s) :
    gjoinBegins v s = .raise 0x0107 0 v.x.mask := by
  rcases h with hlimit | ⟨hblocks, howned⟩
  · rw [gjoinBegins, hlimit]
  · rcases hslot : v.newSlot s with _ | _ | ⟨slot, gen⟩
    · rw [gjoinBegins, hslot]
    · rw [Env.newSlot, hblocks] at hslot
      exact (groupSlot_ofBlocks_ne_wait _ _ _ _ hslot).elim
    · rw [gjoinBegins, hslot]
      exact if_pos (by simp [hblocks, howned])

end

/-! ### The claims -/

theorem gjoin_gives_shadow : GivesIf .gjoin (fun _ => encGjoin) (fun v _ => ¬v.JoinsAsItself)
    (fun v _ => doing (fun s => (s.modBlock v.bid (fun b => { b with stopped := true })).endBlock v.bid none)) :=
  givesIf_plain exec_gjoin_stages fun _ _ _ _ _ _ _ h => ⟨gjoin_shadow h, plain_none _ _⟩

theorem gjoin_does_alone : Does .gjoin (fun _ => encGjoin) (fun v s s1 o => s1 = s ∧ v.JoinsAsItself ∧ v.o.scalar = 1 ∧ v.Counted ∧
    v.heldGroup s = none ∧ v.formingGroup s = none ∧ ∃ slot gen, v.newSlot s = .at slot gen ∧ (v.ofBlocks = true → v.slotsOwned s < 32) ∧
      o = { regs := [v.handleOf (v.aloneGroup gen) slot], eff := fun s => s.takeGroup v.bid v.ofBlocks slot (v.aloneGroup gen) }) := by
  refine does_of exec_gjoin_stages fun f s bid sid b x _ s1 o hr => ?_
  obtain ⟨rfl, h, hone, hc, hheld, hforming, slot, gen, hslot, howned, rfl⟩ := hr
  refine ⟨rfl, ?_, plain_one rfl le_rfl _ _⟩
  rw [gjoin_begins h hc hheld hforming, gjoinBegins_at hslot howned, if_pos hone, Env.newGroup_alone hone]

theorem gjoin_waits_begun : Waits .gjoin (fun _ => encGjoin) (fun v s s1 => v.JoinsAsItself ∧ v.o.scalar ≠ 1 ∧ v.Counted ∧
    v.heldGroup s = none ∧ v.formingGroup s = none ∧ ∃ slot gen, v.newSlot s = .at slot gen ∧ (v.ofBlocks = true → v.slotsOwned s < 32) ∧
      s1 = s.takeGroup v.bid v.ofBlocks slot (v.begunGroup gen)) := by
  refine waits_of exec_gjoin_stages fun f s bid sid b x _ s1 hr => ?_
  obtain ⟨h, hmore, hc, hheld, hforming, slot, gen, hslot, howned, rfl⟩ := hr
  rw [gjoin_begins h hc hheld hforming, gjoinBegins_at hslot howned, if_neg hmore, Env.newGroup_begun hmore]

theorem gjoin_waits_slot : Waits .gjoin (fun _ => encGjoin) (fun v s s1 => s1 = s ∧ v.JoinsAsItself ∧ v.Counted ∧
    v.heldGroup s = none ∧ v.formingGroup s = none ∧ v.newSlot s = .wait) := by
  refine waits_of exec_gjoin_stages fun f s bid sid b x _ s1 hr => ?_
  obtain ⟨rfl, h, hc, hheld, hforming, hslot⟩ := hr
  rw [gjoin_begins h hc hheld hforming, gjoinBegins_wait hslot]

theorem gjoin_raises_limit : Raises .gjoin (fun _ => encGjoin) (fun v s c a m => v.JoinsAsItself ∧ v.Counted ∧
    v.heldGroup s = none ∧ v.formingGroup s = none ∧ (v.newSlot s = .limit ∨ (v.ofBlocks = true ∧ 32 ≤ v.slotsOwned s)) ∧
      c = 0x0107 ∧ a = 0 ∧ m = v.x.mask) := by
  refine raises_of exec_gjoin_stages fun f s bid sid b x _ c a m hr => ?_
  obtain ⟨h, hc, hheld, hforming, hlimit, rfl, rfl, rfl⟩ := hr
  rw [gjoin_begins h hc hheld hforming, gjoinBegins_limit hlimit]

theorem gjoin_does_last : Does .gjoin (fun _ => encGjoin) (fun v s s1 o => s1 = s ∧ v.JoinsAsItself ∧ v.Counted ∧
    v.heldGroup s = none ∧ ∃ slot g, v.formingGroup s = some (slot, g) ∧ g.count = v.o.scalar ∧ (v.joined g).length = g.count ∧
      o = { regs := [v.handleOf g slot],
            eff := fun s => s.putGroup v.bid v.ofBlocks slot { g with state := 2, current := v.joined g, published := v.joined g } }) := by
  refine does_of exec_gjoin_stages fun f s bid sid b x _ s1 o hr => ?_
  obtain ⟨rfl, h, hc, hheld, slot, g, hforming, hcount, hlast, rfl⟩ := hr
  refine ⟨rfl, ?_, plain_one rfl le_rfl _ _⟩
  rw [gjoin_joins h hc hheld hforming, gjoinJoins, if_neg (not_not_intro hcount), if_pos hlast]

theorem gjoin_waits_joined : Waits .gjoin (fun _ => encGjoin) (fun v s s1 => v.JoinsAsItself ∧ v.Counted ∧
    v.heldGroup s = none ∧ ∃ slot g, v.formingGroup s = some (slot, g) ∧ g.count = v.o.scalar ∧ (v.joined g).length ≠ g.count ∧
      s1 = s.putGroup v.bid v.ofBlocks slot { g with current := v.joined g, waiting := v.waiter :: g.waiting }) := by
  refine waits_of exec_gjoin_stages fun f s bid sid b x _ s1 hr => ?_
  obtain ⟨h, hc, hheld, slot, g, hforming, hcount, hmore, rfl⟩ := hr
  rw [gjoin_joins h hc hheld hforming, gjoinJoins, if_neg (not_not_intro hcount), if_neg hmore]

theorem gjoin_raises_count : Raises .gjoin (fun _ => encGjoin) (fun v s c a m => v.JoinsAsItself ∧
    (¬v.Counted ∨ (v.heldGroup s = none ∧ ∃ slot g, v.formingGroup s = some (slot, g) ∧ g.count ≠ v.o.scalar)) ∧
      c = 0x010A ∧ a = 0 ∧ m = v.x.mask) := by
  refine raises_of exec_gjoin_stages fun f s bid sid b x _ c a m hr => ?_
  obtain ⟨h, hbad, rfl, rfl, rfl⟩ := hr
  by_cases hc : (encGjoin.env f bid sid b x).Counted
  · obtain ⟨hheld, slot, g, hforming, hcount⟩ := hbad.resolve_left (not_not_intro hc)
    rw [gjoin_joins h hc hheld hforming, gjoinJoins, if_pos hcount]
  · exact gjoin_notCounted h hc

theorem gjoin_waits_held : Waits .gjoin (fun _ => encGjoin) (fun v s s1 => s1 = s ∧ v.JoinsAsItself ∧ v.Counted ∧
    ∃ slot g, v.heldGroup s = some (slot, g) ∧ g.state ≠ 2) := by
  refine waits_of exec_gjoin_stages fun f s bid sid b x _ s1 hr => ?_
  obtain ⟨rfl, h, hc, slot, g, hheld, hstate⟩ := hr
  rw [gjoin_returns h hc hheld, gjoinReturns, if_neg hstate]

/-- A slice that has settled finds the group slots as they were. -/
theorem settled_tableNow {v : Env} {s : State} (hb : s.blocks.get? v.bid = some v.b) (y : Slice) :
    v.tableNow (settled s v.bid v.sid y) = v.groupTable s := by
  have hdie : ((settled s v.bid v.sid y).die v.b.die).groups = (s.die v.b.die).groups :=
    (congrArg Die.groups (settled_die (sid := v.sid) y hb v.b.die) :)
  rw [Env.tableNow, Env.groupTable, hdie, settled_block y hb, if_pos rfl, Option.map_some, Option.getD_some, Block.modSlice_eq]

theorem groupNow_settled {v : Env} {s : State} {slot : Nat} {g : Group} (hb : s.blocks.get? v.bid = some v.b)
    (hget : (v.groupTable s).get? slot = some g) (y : Slice) : v.groupNow slot g (settled s v.bid v.sid y) = g := by
  rw [Env.groupNow, settled_tableNow hb, hget]

theorem gjoin_does_held : Does .gjoin (fun _ => encGjoin) (fun v s s1 o => s1 = s ∧ v.JoinsAsItself ∧ v.Counted ∧
    ∃ slot g, v.heldGroup s = some (slot, g) ∧ g.state = 2 ∧ (v.groupTable s).get? slot = some g ∧ s.blocks.get? v.bid = some v.b ∧
      o = { regs := [v.handleOf g slot],
            eff := fun s => s.putGroup v.bid v.ofBlocks slot { g with waiting := g.waiting.filter (fun c => c != v.waiter) } }) := by
  intro f s bid sid b x h s1 o hr
  obtain ⟨rfl, hself, hc, slot, g, hheld, hstate, hget, hb, rfl⟩ := hr
  have hbody := (gjoin_returns hself hc hheld).trans (if_pos hstate)
  obtain ⟨y, hnext, hwent⟩ := runInstr_went_plain h hbody (plain_one rfl le_rfl _ _)
  refine ⟨y, (exec_gjoin_stages f s1).trans (hnext.trans (congrArg Host.Outcome.next ?_)), hwent.fields, hwent.regs⟩
  exact congrArg (fun g' : Group => (settled s1 bid sid y).putGroup bid (encGjoin.env f bid sid b x).ofBlocks slot
    { g' with waiting := g.waiting.filter (fun c => c != (encGjoin.env f bid sid b x).waiter) })
    (groupNow_settled (v := encGjoin.env f bid sid b x) hb hget y)

end Sys2Proof
end

section
/-! SUPPORT. GLEAVE, GRANK and GSIZE (R154, R157, R170): the group that a handle names. -/

namespace Sys2Proof

open Sys2Proof.Machine

/-! ### Handles (R154) -/

/-- Handle `h` of a slice of block `b` names the Formed group `g`, of blocks or of slices, in a slot of its scope. -/
def Names (s : State) (b : Block) (h : Nat) (blk : Bool) (slot : Nat) (g : Group) : Prop :=
  blk = h.testBit 31 ∧ slot = h % 256 ∧ (blk = false → slot ≤ 15) ∧ bitsOf h 30 24 = 0 ∧
    (if blk then (s.die b.die).groups else b.groups).get? slot = some g ∧ g.gen.toNat = bitsOf h 23 8 ∧ g.state = 2 ∧
    (blk = true → g.ctx = b.ctx)

section
variable {s : State} {b : Block} {h : Nat}

theorem groupOf_of_names {blk : Bool} {slot : Nat} {g : Group} (hn : Names s b h blk slot g) : s.groupOf b h = .ok (blk, slot, g) := by
  obtain ⟨rfl, rfl, hslot, hzero, hget, hgen, hstate, hctx⟩ := hn
  unfold State.groupOf
  simp only [bitOf_eq_testBit]
  rw [if_neg (by simpa [hzero] using hslot), hget]
  exact if_neg (by simpa [hgen, hstate] using hctx)

/-- A handle either names a group or is no handle. -/
theorem groupOf_cases : (∃ blk slot g, Names s b h blk slot g) ∨ s.groupOf b h = .error 0x0108 := by
  unfold State.groupOf
  simp only [bitOf_eq_testBit]
  split
  · exact .inr rfl
  · next hplace =>
    split
    · exact .inr rfl
    · next g hget =>
      split
      · exact .inr rfl
      · next hfits =>
        obtain ⟨hzero, hslot⟩ : bitsOf h 30 24 = 0 ∧ (h.testBit 31 = false → h % 256 ≤ 15) := by simpa using hplace
        obtain ⟨⟨hgen, hstate⟩, hctx⟩ : (g.gen.toNat = bitsOf h 23 8 ∧ g.state = 2) ∧ (h.testBit 31 = true → g.ctx = b.ctx) := by
          simpa using hfits
        exact .inl ⟨_, _, g, rfl, rfl, hslot, hzero, hget, hgen, hstate, hctx⟩

theorem groupOf_of_not_names (hn : ¬∃ blk slot g, Names s b h blk slot g) : s.groupOf b h = .error 0x0108 := groupOf_cases.resolve_left hn

end

/-! ### GLEAVE, GRANK and GSIZE (R170) -/

/-- The row of GLEAVE. -/
def encGleave : Enc := { opc := 0xB5, lens := [1], sa := .u32, gov0 := true }

/-- The row of GRANK. -/
def encGrank : Enc := { opc := 0xB6, lens := [1], dst := .w32, sa := .u32, gov0 := true }

/-- The row of GSIZE. -/
def encGsize : Enc := { opc := 0xB7, lens := [1], dst := .w32, sa := .u32, gov0 := true }

namespace Machine.Env

/-- The operand names the group. -/
def names (v : Env) (s : State) (blk : Bool) (slot : Nat) (g : Group) : Prop := Names s v.b v.a.scalar blk slot g

/-- The issuer as a member of a group of blocks or of slices. -/
def asMember (v : Env) (blk : Bool) : Nat := if blk then v.bid else v.sid

/-- The operand names no group: GROUP_HANDLE. -/
def BadHandle (v : Env) (s : State) (c : Half) (a : Dword) (m : BitVec 4) : Prop :=
  (¬∃ blk slot g, v.names s blk slot g) ∧ c = 0x0108 ∧ a = 0 ∧ m = v.x.mask

/-- The operand names a group of which the issuer is no current member: GROUP_MEMBER. -/
def NoMember (v : Env) (s : State) (c : Half) (a : Dword) (m : BitVec 4) : Prop :=
  (∃ blk slot g, v.names s blk slot g ∧ ¬v.asMember blk ∈ g.current) ∧ c = 0x0109 ∧ a = 0 ∧ m = v.x.mask

end Machine.Env

/-- What an instruction on a named group does: it traps where the operand names none, and else goes on with the group. -/
def onGroup (act : Env → State → Bool → Nat → Group → Res) (v : Env) (s : State) : Res :=
  match s.groupOf v.b v.a.scalar with
  | .error c => .raise c 0 v.x.mask
  | .ok (blk, slot, g) => act v s blk slot g

/-- The same for the current members of the group. -/
def forMember (act : Env → State → Bool → Nat → Group → Res) (v : Env) (s : State) (blk : Bool) (slot : Nat) (g : Group) : Res :=
  if !g.current.contains (v.asMember blk) then .raise 0x0109 0 v.x.mask else act v s blk slot g

/-- GLEAVE of a member. -/
def leaveGroup (v : Env) (_ : State) (blk : Bool) (slot : Nat) (g : Group) : Res :=
  doneEff (fun s => s.putGroup v.bid blk slot (if blk then g.leaveBlock v.bid else g.leave id v.sid))

/-- GRANK of a member. -/
def rankInGroup (v : Env) (s : State) (blk : Bool) (_ : Nat) (g : Group) : Res :=
  .done { regs := [v.writeUni false (BitVec.ofNat 64
    (g.published.filter (fun m => decide (s.memberOrder blk m < s.memberOrder blk (v.asMember blk)))).length)] }

/-- GSIZE. -/
def sizeOfGroup (v : Env) (_ : State) (_ : Bool) (_ : Nat) (g : Group) : Res :=
  .done { regs := [v.writeUni false (BitVec.ofNat 64 g.published.length)] }

theorem exec_gleave_group (f : Fields) (s : State) : exec (.gleave f) s = runInstr encGleave f (onGroup (forMember leaveGroup)) s := rfl
theorem exec_grank_group (f : Fields) (s : State) : exec (.grank f) s = runInstr encGrank f (onGroup (forMember rankInGroup)) s := rfl
theorem exec_gsize_group (f : Fields) (s : State) : exec (.gsize f) s = runInstr encGsize f (onGroup sizeOfGroup) s := rfl

section
variable {act : Env → State → Bool → Nat → Group → Res} {v : Env} {s : State} {blk : Bool} {slot : Nat} {g : Group}
  {c : Half} {a : Dword} {m : BitVec 4}

theorem onGroup_of_names (hn : v.names s blk slot g) : onGroup act v s = act v s blk slot g := by
  rw [onGroup, groupOf_of_names hn]

theorem onGroup_raises (hbad : v.BadHandle s c a m) : onGroup act v s = .raise c a m := by
  obtain ⟨hn, rfl, rfl, rfl⟩ := hbad
  rw [onGroup, groupOf_of_not_names hn]

theorem onGroup_member (hn : v.names s blk slot g) (hm : v.asMember blk ∈ g.current) :
    onGroup (forMember act) v s = act v s blk slot g :=
  (onGroup_of_names hn).trans (if_neg (by simpa using hm))

theorem onGroup_member_raises (hbad : v.BadHandle s c a m ∨ v.NoMember s c a m) : onGroup (forMember act) v s = .raise c a m := by
  rcases hbad with hbad | ⟨⟨blk, slot, g, hn, hm⟩, rfl, rfl, rfl⟩
  · exact onGroup_raises hbad
  · exact (onGroup_of_names hn).trans (if_pos (by simpa using hm))

end

theorem gleave_does : Does .gleave (fun _ => encGleave) (fun v s s1 o => s1 = s ∧ ∃ blk slot g, v.names s blk slot g ∧
    v.asMember blk ∈ g.current ∧
      o = doing (fun s => s.putGroup v.bid blk slot (if blk then g.leaveBlock v.bid else g.leave id v.sid))) := by
  refine does_of exec_gleave_group fun f s bid sid b x _ s1 o hr => ?_
  obtain ⟨rfl, blk, slot, g, hn, hm, rfl⟩ := hr
  exact ⟨rfl, onGroup_member hn hm, plain_none _ _⟩

theorem gleave_raises : Raises .gleave (fun _ => encGleave) (fun v s c a m => v.BadHandle s c a m ∨ v.NoMember s c a m) :=
  raises_of exec_gleave_group fun _ _ _ _ _ _ _ _ _ _ hbad => onGroup_member_raises hbad

theorem grank_does : Does .grank (fun _ => encGrank) (fun v s s1 o => s1 = s ∧ ∃ blk slot g, v.names s blk slot g ∧
    v.asMember blk ∈ g.current ∧
      o = { regs := [v.writeUni false (BitVec.ofNat 64
        (g.published.filter (fun m => decide (s.memberOrder blk m < s.memberOrder blk (v.asMember blk)))).length)] }) := by
  refine does_of exec_grank_group fun f s bid sid b x _ s1 o hr => ?_
  obtain ⟨rfl, blk, slot, g, hn, hm, rfl⟩ := hr
  exact ⟨rfl, onGroup_member hn hm, plain_one rfl le_rfl _ _⟩

theorem grank_raises : Raises .grank (fun _ => encGrank) (fun v s c a m => v.BadHandle s c a m ∨ v.NoMember s c a m) :=
  raises_of exec_grank_group fun _ _ _ _ _ _ _ _ _ _ hbad => onGroup_member_raises hbad

theorem gsize_does : Does .gsize (fun _ => encGsize) (fun v s s1 o => s1 = s ∧ ∃ blk slot g, v.names s blk slot g ∧
    o = { regs := [v.writeUni false (BitVec.ofNat 64 g.published.length)] }) := by
  refine does_of exec_gsize_group fun f s bid sid b x _ s1 o hr => ?_
  obtain ⟨rfl, blk, slot, g, hn, rfl⟩ := hr
  exact ⟨rfl, onGroup_of_names hn, plain_one rfl le_rfl _ _⟩

theorem gsize_raises : Raises .gsize (fun _ => encGsize) (fun v s c a m => v.BadHandle s c a m) :=
  raises_of exec_gsize_group fun _ _ _ _ _ _ _ _ _ _ hbad => onGroup_raises hbad

end Sys2Proof
end

section
/-! Groups (R154 to R158, R169, R170). -/

namespace Sys2Proof

open Sys2Proof.Machine

/-- Settles O12: GJOIN answers by its stages, and what it finds on its return is what it found when it came; an instruction on a group
answers by what its handle names. -/
theorem groups : Obligations.Groups := by
  unfold Obligations.Groups
  exact ⟨⟨gjoin_gives_shadow, gjoin_does_alone, gjoin_waits_begun, gjoin_waits_slot, gjoin_raises_limit, gjoin_does_last,
    gjoin_waits_joined, gjoin_raises_count, gjoin_waits_held, gjoin_does_held⟩,
    gleave_does, gleave_raises, grank_does, grank_raises, gsize_does, gsize_raises⟩

end Sys2Proof
end

section
/-! Memory stays canonical (R171, R176, R182): the invariant, and what the first functions of the state do to it. A function of the model
keeps it because each function that it calls does; only the writes of memory and of a window have to look at bytes. -/

namespace Sys2Proof.Machine

set_option Elab.async false

theorem Tab.mem_of_get {α : Type} {t : Tab α} {k : Nat} {x : α} (h : t.get? k = some x) : (k, x) ∈ t := by
  induction t with
  | nil => simp at h
  | cons p t ih =>
    obtain ⟨j, y⟩ := p
    grind [Tab.get?_cons]

/-- Memory and the windows of a table of blocks are in canonical form. -/
structure CanonicalIn (m : Memory) (bs : Tab Block) : Prop where
  mem : m.wf = true
  windows : ∀ p ∈ bs, p.2.window.wf = true

/-- Device memory and every window are in canonical form. -/
def Canonical (s : State) : Prop := CanonicalIn s.mem s.blocks

theorem memOk_iff_canonical {s : State} : s.memOk = true ↔ Canonical s := by
  simp only [State.memOk, Bool.and_eq_true, List.all_eq_true]
  exact ⟨fun ⟨hm, hw⟩ => ⟨hm, hw⟩, fun ⟨hm, hw⟩ => ⟨hm, hw⟩⟩

theorem CanonicalIn.put {m : Memory} {bs : Tab Block} {k : Nat} {b : Block} (h : CanonicalIn m bs) (hb : b.window.wf = true) :
    CanonicalIn m (Tab.put bs k b) := by
  refine ⟨h.mem, fun p hp => ?_⟩
  rcases Tab.mem_put bs k b p hp with rfl | hp
  · exact hb
  · exact h.windows p hp

theorem CanonicalIn.filter {m : Memory} {bs : Tab Block} {p : Nat × Block → Bool} (h : CanonicalIn m bs) : CanonicalIn m (bs.filter p) :=
  ⟨h.mem, fun q hq => h.windows q (List.mem_of_mem_filter hq)⟩

theorem CanonicalIn.map {m : Memory} {bs : Tab Block} {g : Nat × Block → Nat × Block} (h : CanonicalIn m bs)
    (hg : ∀ p, p.2.window.wf = true → (g p).2.window.wf = true) : CanonicalIn m (bs.map g) := by
  refine ⟨h.mem, fun q hq => ?_⟩
  obtain ⟨p, hp, rfl⟩ := List.mem_map.mp hq
  exact hg p (h.windows p hp)

theorem CanonicalIn.get {m : Memory} {bs : Tab Block} {k : Nat} {b : Block} (h : CanonicalIn m bs) (hb : bs.get? k = some b) :
    b.window.wf = true := h.windows (k, b) (Tab.mem_of_get hb)

theorem Canonical.get {s : State} {k : Nat} {b : Block} (h : Canonical s) (hb : s.blocks.get? k = some b) :
    b.window.wf = true := CanonicalIn.get h hb

theorem Block.foldl_window {α : Type} {f : Block → α → Block} {l : List α} {b : Block} (hf : ∀ b a, (f b a).window = b.window) :
    (l.foldl f b).window = b.window := by
  induction l generalizing b with
  | nil => rfl
  | cons a l ih => exact ih.trans (hf b a)

theorem Block.foldl_window_wf {α : Type} {f : Block → α → Block} {l : List α} {b : Block}
    (hf : ∀ b a, b.window.wf = true → (f b a).window.wf = true) (h : b.window.wf = true) : (l.foldl f b).window.wf = true := by
  induction l generalizing b with
  | nil => exact h
  | cons a l ih => exact ih (hf b a h)

@[simp] theorem Block.modSlice_window (b : Block) (sid : Nat) (f : Slice → Slice) : (b.modSlice sid f).window = b.window := by
  grind [Block.modSlice]

@[simp] theorem Block.setPresence_window (b : Block) (line : Nat) (p : Presence) : (b.setPresence line p).window = b.window := by
  grind [Block.setPresence]

@[simp] theorem Block.renumber_window (b : Block) (ids : List Nat) : (b.renumber ids).window = b.window := by
  unfold Block.renumber
  split
  · rfl
  · exact Block.foldl_window fun _ _ => Block.modSlice_window ..

@[simp] theorem Block.leavePart_window (b : Block) (sid : Nat) : (b.leavePart sid).window = b.window := by
  grind [Block.leavePart, Block.renumber_window, Block.modSlice_window]

@[simp] theorem Block.leaveGroups_window (b : Block) (sid : Nat) : (b.leaveGroups sid).window = b.window := rfl

@[simp] theorem Block.dropReads_window (b : Block) (e : SEntry) : (b.dropReads e).window = b.window := rfl

@[simp] theorem Block.discardStream_window (b : Block) : b.discardStream.window = b.window := by
  grind [Block.discardStream, Block.foldl_window, Block.dropReads_window]

@[simp] theorem Block.touch_window (b : Block) (d pa : Nat) : (b.touch d pa).window = b.window := by
  grind [Block.touch]

@[simp] theorem Block.roundWrite_window (b : Block) (n : Nat) (alloc : Bool) (sid d pa va : Nat) (data : List Byte) :
    (b.roundWrite n alloc sid d pa va data).window = b.window := by
  grind [Block.roundWrite, Block.touch_window]

@[simp] theorem Block.observe_window (b : Block) (p : Late → Bool) : (b.observe p).window = b.window := by
  grind [Block.observe, Block.foldl_window, Block.roundWrite_window]

@[simp] theorem Block.lateWrite_window (b : Block) (w : Late) : (b.lateWrite w).window = b.window := by
  grind [Block.lateWrite, Block.roundWrite_window]

@[simp] theorem Block.mergeParts_window (b : Block) (ids : List Nat) : (b.mergeParts ids).window = b.window := by
  grind [Block.mergeParts, Block.foldl_window, Block.leavePart_window, Block.renumber_window]

@[simp] theorem Block.examine_window (b : Block) (o n : Nat) : (b.examine o n).window = b.window := by
  grind [Block.examine]

@[simp] theorem Block.winCovered_window (b : Block) (ws : List (Nat × List Byte)) : (b.winCovered ws).window = b.window := rfl

@[simp] theorem Block.readAhead_window (b : Block) (sid o n : Nat) : (b.readAhead sid o n).window = b.window := rfl

@[simp] theorem Block.modSlot_window (b : Block) (k : Nat) (g : PSlot → PSlot) : (b.modSlot k g).window = b.window := by
  grind [Block.modSlot]

@[simp] theorem Block.setEntry_window (b : Block) (i : Nat) (e : SEntry) : (b.setEntry i e).window = b.window := rfl

@[simp] theorem Block.lineWritten_window (b : Block) (line : Nat) : (b.lineWritten line).window = b.window := rfl

@[simp] theorem Block.splitPart_window (b : Block) (ids : List Nat) : (b.splitPart ids).window = b.window := by
  grind [Block.splitPart, Block.foldl_window, Block.renumber_window]

@[simp] theorem Block.settlePart_window (b : Block) (part : Nat) : (b.settlePart part).window = b.window := by
  grind [Block.settlePart, Block.splitPart_window]

@[simp] theorem Block.noBuffers_window (b : Block) : b.noBuffers.window = b.window := rfl

theorem Block.winPut_wf {b : Block} {o : Nat} {data : List Byte} (h : b.window.wf = true) : (b.winPut o data).window.wf = true :=
  Memory.wf_writeList b.window o data h

theorem Block.winWrite_wf {b : Block} {o : Nat} {data : List Byte} (h : b.window.wf = true) : (b.winWrite o data).window.wf = true := by
  rw [Block.winWrite, Block.examine_window]
  exact Block.winPut_wf h

theorem Block.winStore_wf {b : Block} {sid o : Nat} {data : List Byte} (h : b.window.wf = true) :
    (b.winStore sid o data).window.wf = true := Block.winWrite_wf h

theorem Canonical.foldl {α : Type} {f : State → α → State} {l : List α} {s : State} (hf : ∀ s a, Canonical s → Canonical (f s a))
    (h : Canonical s) : Canonical (l.foldl f s) := by
  induction l generalizing s with
  | nil => exact h
  | cons a l ih => exact ih (hf s a h)

/-- The same of a fold that carries something beside the state. -/
theorem Canonical.foldl_fst {α β : Type} {f : State × β → α → State × β} {l : List α} {p : State × β}
    (hf : ∀ p a, Canonical p.1 → Canonical (f p a).1) (h : Canonical p.1) : Canonical (l.foldl f p).1 := by
  induction l generalizing p with
  | nil => exact h
  | cons a l ih => exact ih (hf p a h)

/-- A change of a block that keeps the canonical form of its window. -/
def WindowKept (f : Block → Block) : Prop := ∀ b, b.window.wf = true → (f b).window.wf = true

/-- What an instruction does at its completion keeps memory canonical. -/
def OutCanonical (o : Out) : Prop := ∀ s, Canonical s → Canonical (o.eff s)

/-- Every state that the end of an instruction brings is canonical. -/
def ResCanonical : Res → Prop
  | .done o => OutCanonical o
  | .doneIn s o => Canonical s ∧ OutCanonical o
  | .raise _ _ _ => True
  | .raiseIn s _ _ _ => Canonical s
  | .wait s => Canonical s

/-- A next state, where there is one, is canonical. -/
def Lands (r : Host.Outcome State Fault Refusal) : Prop := ∀ t, r = .next t → Canonical t

theorem Canonical.resetWith {f : Fuses} {flash : List Byte} : Canonical (State.resetWith f flash) := ⟨rfl, by simp [State.resetWith]⟩

theorem Canonical.modDie {s : State} {d : Nat} {f : Die → Die} (h : Canonical s) : Canonical (s.modDie d f) := by
  grind [State.modDie, Canonical]

theorem Canonical.modCore {s : State} {d c : Nat} {f : Core → Core} (h : Canonical s) : Canonical (s.modCore d c f) := by
  grind [State.modCore, Canonical.modDie]

theorem Canonical.modBlock {s : State} {bid : Nat} {f : Block → Block} (h : Canonical s)
    (hf : WindowKept f) : Canonical (s.modBlock bid f) := by
  unfold State.modBlock
  split
  · next b hb => exact CanonicalIn.put h (hf b (h.get hb))
  · exact h

theorem Canonical.modSlice {s : State} {bid sid : Nat} {f : Slice → Slice} (h : Canonical s) : Canonical (s.modSlice bid sid f) :=
  h.modBlock (fun b hb => by rwa [Block.modSlice_window])

theorem Canonical.freeMonitors {s : State} {bid : Nat} (h : Canonical s) : Canonical (s.freeMonitors bid) := by
  grind [State.freeMonitors, Canonical]

theorem Canonical.modCtx {s : State} {c : Nat} {f : Ctx → Ctx} (h : Canonical s) : Canonical (s.modCtx c f) := by
  grind [State.modCtx, Canonical]

theorem Canonical.modNode {s : State} {n : Nat} {f : Node → Node} (h : Canonical s) : Canonical (s.modNode n f) := by
  grind [State.modNode, Canonical]

theorem Canonical.modEntry {s : State} {e : Nat} {f : Entry → Entry} (h : Canonical s) : Canonical (s.modEntry e f) := by
  grind [State.modEntry, Canonical]

theorem Canonical.modPort {s : State} {p : Nat} {f : HostPort → HostPort} (h : Canonical s) : Canonical (s.modPort p f) := by
  grind [State.modPort, Canonical]

theorem Canonical.fresh {s : State} (h : Canonical s) : Canonical (s.fresh).2 := by
  grind [State.fresh, Canonical]

theorem Canonical.physWrite {s : State} {die pa : Nat} {data : List Byte} (h : Canonical s) : Canonical (s.physWrite die pa data) :=
  ⟨State.physWrite_wf s die pa data h.mem, h.windows⟩

theorem Canonical.clearPoison {s : State} {die pa n : Nat} (h : Canonical s) : Canonical (s.clearPoison die pa n) := by
  grind [State.clearPoison, Canonical]

theorem Canonical.cacheEntry {s : State} {die bay ctx pa : Nat} {e : Dword} (h : Canonical s) : Canonical (s.cacheEntry die bay ctx pa e) := by
  grind [State.cacheEntry, Canonical.modDie]

theorem Canonical.walkFrom {die bay ctx : Nat} {hostTree : Bool} {va fuel : Nat} {s : State} {level node : Nat} (h : Canonical s) :
    Canonical (walkFrom die bay ctx hostTree va fuel s level node).1 := by
  induction fuel generalizing s level node with
  | zero => exact h
  | succ fuel ih =>
    simp only [Machine.walkFrom]
    split
    · exact h
    · grind [Canonical.cacheEntry]

theorem Canonical.walkTree {s : State} {ctx : Nat} {o : Owner} {va : Nat} (h : Canonical s) : Canonical (s.walkTree ctx o va).1 := by
  grind [State.walkTree, Canonical.walkFrom]

theorem Canonical.walk {s : State} {ctx : Nat} {o : Owner} {va : Nat} (h : Canonical s) : Canonical (s.walk ctx o va).1 := by
  unfold State.walk
  split
  · exact h
  · exact h.walkTree

theorem Canonical.verdict {s : State} {ctx : Nat} {o : Owner} {va : Nat} {k : Access} {keys : Dword} {cls : ReqClass} (h : Canonical s) :
    Canonical (s.verdict ctx o va k keys cls).1 := by
  have hw := h.walk (ctx := ctx) (o := o) (va := va)
  unfold State.verdict
  split <;> next heq => rw [heq] at hw; grind

theorem Canonical.nextMove {s : State} (h : Canonical s) : Canonical (s.nextMove).2 := by
  grind [State.nextMove, Canonical]

theorem Canonical.passTime {s : State} (h : Canonical s) : Canonical (s.passTime) := by
  grind [State.passTime, Canonical]

theorem Canonical.modLine {s : State} {d pa : Nat} {f : BayLine → BayLine} (h : Canonical s) : Canonical (s.modLine d pa f) := by
  grind [State.modLine, Canonical.modDie]

theorem Canonical.dropGuests {s : State} {d : Nat} {p : Guest → Bool} (h : Canonical s) : Canonical (s.dropGuests d p) := by
  grind [State.dropGuests, Canonical.modDie, Canonical.modLine, Canonical.foldl]

theorem Canonical.dropLineGuests {s : State} {d pa : Nat} (h : Canonical s) : Canonical (s.dropLineGuests d pa) := by
  grind [State.dropLineGuests, Canonical.dropGuests, Canonical.foldl]

theorem Canonical.asOneWrite {s0 s : State} {n op : Nat} (h : Canonical s) : Canonical (State.asOneWrite s0 n op s) := h

theorem Canonical.evictLine {s : State} {d line : Nat} (h : Canonical s) : Canonical (s.evictLine d line) := by
  grind [State.evictLine, Canonical.modLine, Canonical.dropLineGuests]

theorem Canonical.makeWay {s : State} {d bay set : Nat} (h : Canonical s) : Canonical (s.makeWay d bay set).1 := by
  grind [State.makeWay, Canonical.evictLine, Canonical.dropGuests]

theorem Canonical.wayFor {s : State} {d pa : Nat} (h : Canonical s) : Canonical (s.wayFor d pa).1 := by
  grind [State.wayFor, Canonical.makeWay]

theorem Canonical.touchLine {s : State} {d pa n : Nat} {write alloc : Bool} (h : Canonical s) : Canonical (s.touchLine d pa n write alloc) := by
  grind [State.touchLine, Canonical.modLine, Canonical.wayFor]

theorem Canonical.wakeDormant {s : State} {bid : Nat} (h : Canonical s) : Canonical (s.wakeDormant bid) := by
  grind [State.wakeDormant, Canonical.modBlock, Canonical.modDie, Canonical.freeMonitors, WindowKept]

theorem Canonical.toRun {s : State} (h : Canonical s) : Canonical (s.toRun) := by
  grind [State.toRun, Canonical]

theorem Canonical.fireMonitors {s : State} {d pa n : Nat} (h : Canonical s) : Canonical (s.fireMonitors d pa n) := by
  grind [State.fireMonitors, Canonical.modDie, Canonical.wakeDormant, Canonical.toRun, Canonical.foldl]

theorem Canonical.applyWrite {s : State} {d pa : Nat} {data : List Byte} {die core req : Nat} {alloc : Bool} (h : Canonical s) :
    Canonical (s.applyWrite d pa data die core req alloc).1 := by
  grind [State.applyWrite, Canonical.touchLine, Canonical.clearPoison, Canonical.physWrite, Canonical.modLine, Canonical.modDie,
    Canonical.fresh, Canonical.fireMonitors, Canonical.foldl, Canonical]

theorem Canonical.storeLines {alloc : Bool} {fuel : Nat} {s : State} {d pa : Nat} {data : List Byte} (h : Canonical s) :
    Canonical (State.storeLines alloc fuel s d pa data) := by
  induction fuel generalizing s pa data with
  | zero => exact h
  | succ fuel ih => grind [State.storeLines, Canonical.applyWrite]

theorem Canonical.store {s : State} {d pa : Nat} {data : List Byte} (h : Canonical s) : Canonical (s.store d pa data) := by
  grind [State.store, Canonical.storeLines]

theorem Canonical.privWriteTo {s : State} {ps : List (Nat × Nat × Nat × Bool)} {data : List Byte} (h : Canonical s) :
    Canonical (s.privWriteTo ps data) := by
  induction ps generalizing s data with
  | nil => exact h
  | cons p ps ih => grind [State.privWriteTo, Canonical.storeLines]

theorem Canonical.privWrite {s : State} {ctx va : Nat} {data : List Byte} (h : Canonical s) : Canonical (s.privWrite ctx va data) := by
  grind [State.privWrite, Canonical.privWriteTo]

theorem Canonical.moveRegs {s : State} {bid : Nat} {xs : List (Nat × Nat)} (h : Canonical s) : Canonical (s.moveRegs bid xs) := by
  induction xs generalizing s with
  | nil => exact h
  | cons p xs ih => grind [State.moveRegs, Canonical.privWrite, Canonical.modSlice]

theorem Canonical.drainWaits {s : State} {bid : Nat} {b : Block} (h : Canonical s) : Canonical (s.drainWaits bid b) := by
  grind [State.drainWaits, Canonical]

theorem Canonical.spill {s : State} {bid : Nat} (h : Canonical s) : Canonical (s.spill bid) := by
  grind [State.spill, Canonical.modBlock, Canonical.drainWaits, Canonical.modCore, Canonical.moveRegs, WindowKept]

theorem Canonical.requestWords {bid n fuel : Nat} {s : State} (h : Canonical s) : Canonical (State.requestWords bid n fuel s).1 := by
  induction fuel generalizing s with
  | zero => exact h
  | succ fuel ih => grind [State.requestWords, Canonical.spill]

theorem Canonical.alloc {s : State} {bid sid n : Nat} (h : Canonical s) : Canonical (s.alloc bid sid n).1 := by
  grind [State.alloc, Canonical.requestWords]

theorem Canonical.dropRegs {s : State} {bid sid : Nat} {ks : List Nat} (h : Canonical s) : Canonical (s.dropRegs bid sid ks) := by
  grind [State.dropRegs, Canonical.modSlice, Canonical.foldl, Canonical]

theorem Canonical.log {s : State} {ctx : Nat} {e : LogRec} (h : Canonical s) : Canonical (s.log ctx e) := by
  grind [State.log, Canonical.store, Canonical.modCtx]

theorem Canonical.takeToken {s : State} {die queue ctx : Nat} {scope : Scope} (h : Canonical s) :
    Canonical (s.takeToken die queue ctx scope).2 := by
  grind [State.takeToken, Canonical.modDie]

theorem Canonical.modTok {s : State} {t : Dword} {f : TokRec → TokRec} (h : Canonical s) : Canonical (s.modTok t f) := by
  grind [State.modTok, Canonical.modDie]

theorem Canonical.finishToken {s : State} {t : Dword} {failed : Bool} {cause : Half} {bytes : Nat} {addr : Dword} (h : Canonical s) :
    Canonical (s.finishToken t failed cause bytes addr) := by
  grind [State.finishToken, Canonical.modTok, Canonical.modDie]

theorem Canonical.savedWrite {s : State} {bid : Nat} {b : Block} {sec va o : Nat} {data : List Byte} (h : Canonical s) :
    Canonical (s.savedWrite bid b sec va o data) := by
  grind [State.savedWrite, Canonical.modDie, Canonical.privWrite]

theorem Canonical.modPresence {s : State} {bid line : Nat} {f : Presence → Presence} (h : Canonical s) :
    Canonical (s.modPresence bid line f) := by
  grind [State.modPresence, Canonical.savedWrite, Canonical.modBlock, WindowKept, Block.setPresence_window]

theorem Canonical.tellPeers {s : State} {e : Entry} {peers : List Nat} {what : CollWhat} (h : Canonical s) :
    Canonical (s.tellPeers e peers what) := by
  grind [State.tellPeers, Canonical]

theorem Canonical.tellMembers {s : State} {e : Entry} {what : CollWhat} (h : Canonical s) : Canonical (s.tellMembers e what) := by
  grind [State.tellMembers, Canonical.tellPeers]

theorem Canonical.failEntry {s : State} {eid : Nat} {cause : Half} {addr : Dword} (h : Canonical s) :
    Canonical (s.failEntry eid cause addr) := by
  grind [State.failEntry, Canonical.modPresence, Canonical.tellMembers, Canonical.modEntry, Canonical.foldl]

theorem Canonical.failPiece {s : State} {eid : Nat} {cause : Half} {addr : Dword} (h : Canonical s) :
    Canonical (s.failPiece eid cause addr) := by
  grind [State.failPiece, Canonical.log, Canonical.failEntry, Canonical.modEntry]

theorem Canonical.endSlice {s : State} {bid sid : Nat} (h : Canonical s) : Canonical (s.endSlice bid sid) := by
  grind [State.endSlice, Canonical.dropRegs, Canonical.modBlock, WindowKept, Block.modSlice_window, Block.leavePart_window,
    Block.leaveGroups_window]

theorem Canonical.dropShadowImage {s : State} {d bid : Nat} (h : Canonical s) : Canonical (s.dropShadowImage d bid) := by
  grind [State.dropShadowImage, Canonical.modDie]

theorem Canonical.endBlock {s : State} {bid : Nat} {err : Option Half} (h : Canonical s) : Canonical (s.endBlock bid err) := by
  grind [State.endBlock, Canonical.endSlice, Canonical.modBlock, Canonical.modDie, Canonical.modCore, Canonical.dropShadowImage,
    Canonical.freeMonitors, Canonical.modCtx, Canonical.failEntry, Canonical.modNode, WindowKept, Block.observe_window,
    Block.discardStream_window, Canonical.foldl]

theorem Canonical.failNode {s : State} {n : Nat} {cause : Half} (h : Canonical s) : Canonical (s.failNode n cause) := by
  grind [State.failNode, Canonical.modNode, Canonical.finishToken]

theorem Canonical.cancelNode {s : State} {n : Nat} (h : Canonical s) : Canonical (s.cancelNode n).1 := by
  grind [State.cancelNode, Canonical.failNode, Canonical.modNode, Canonical.endBlock, Canonical.foldl]

theorem Canonical.beginEnding {s : State} {ctx : Nat} {cause : Half} (h : Canonical s) : Canonical (s.beginEnding ctx cause) := by
  grind [State.beginEnding, Canonical.modCtx, Canonical.endBlock, Canonical.cancelNode, Canonical.failEntry, Canonical.foldl]

theorem Canonical.escalate {s : State} {bid sid : Nat} {cause : Half} {addr pc : Dword} {lanes : BitVec 4} (h : Canonical s) :
    Canonical (s.escalate bid sid cause addr pc lanes) := by
  grind [State.escalate, Canonical.log, Canonical.endBlock, Canonical.cancelNode, Canonical.beginEnding]

theorem Canonical.abandonWait {s : State} {bid sid : Nat} (h : Canonical s) : Canonical (s.abandonWait bid sid) := by
  grind [State.abandonWait, Canonical]

theorem Canonical.trap {s : State} {bid sid : Nat} {cause : Half} {addr : Dword} {lanes : BitVec 4} {len : Nat} {cross : Bool}
    (h : Canonical s) : Canonical (s.trap bid sid cause addr lanes len cross) := by
  unfold State.trap
  split
  · exact h
  split
  · exact h
  have hcauses : Canonical (s.modBlock bid (fun b =>
      { b with causes := if b.causes.contains cause then b.causes else cause :: b.causes })) := h.modBlock fun _ hb => hb
  split
  · exact hcauses.escalate
  split
  · exact hcauses.escalate
  · refine ((Canonical.modCore ?_).abandonWait).modBlock (fun b hb => ?_)
    · grind [Canonical.log]
    · grind [Block.modSlice_window, Block.leavePart_window]

theorem Canonical.setWaiting {s : State} {bid sid : Nat} (h : Canonical s) : Canonical (s.setWaiting bid sid) := by
  grind [State.setWaiting, Canonical.modSlice]

theorem Canonical.joinWaiters {s : State} {bid sid n : Nat} {grow : Bool} (h : Canonical s) : Canonical (s.joinWaiters bid sid n grow) := by
  grind [State.joinWaiters, Canonical.modCore]

theorem Canonical.leaveWaiters {s : State} {bid sid : Nat} (h : Canonical s) : Canonical (s.leaveWaiters bid sid) := by
  grind [State.leaveWaiters, Canonical.modCore]

theorem Canonical.completeNow {opc : Nat} {f : Fields} {bid sid : Nat} {rels : List Nat} {sticky : Bool} {o : Out} {s : State} (h : Canonical s)
    (ho : OutCanonical o) : Canonical (completeNow opc f bid sid rels sticky o s) := by
  grind [Machine.completeNow, OutCanonical, Canonical.dropRegs, Canonical.modSlice, Canonical.leaveWaiters]

theorem Canonical.complete {opc : Nat} {f : Fields} {bid sid : Nat} {rels : List Nat} {sticky : Bool} {o : Out} {s : State} (h : Canonical s)
    (ho : OutCanonical o) : Canonical (complete opc f bid sid rels sticky o s) := by
  grind [Machine.complete, Canonical.setWaiting, Canonical.alloc, Canonical.joinWaiters, Canonical.completeNow]

theorem Canonical.curSlice {s : State} {bid sid : Nat} {b : Block} {x : Slice} (h : Canonical s) (hc : s.curSlice = some (bid, sid, b, x)) :
    b.window.wf = true := by
  have hb : s.blocks.get? bid = some b := by grind [State.curSlice]
  exact h.get hb

theorem Canonical.runInstr {e : Enc} {f : Fields} {body : Env → State → Res} {s : State} (h : Canonical s)
    (hbody : ∀ v, v.b.window.wf = true → ResCanonical (body v s)) : Lands (runInstr e f body s) := by
  intro t ht
  unfold Machine.runInstr at ht
  split at ht
  · simp at ht
  · next bid sid b x hc =>
    have hb := hbody (e.env f bid sid b x) (h.curSlice hc)
    grind [ResCanonical, Canonical.trap, Canonical.setWaiting, Canonical.complete]

theorem Canonical.laneRes {v : Env} {wide : Bool} {g : Nat → Nat} {t : Tag} : ResCanonical (laneRes v wide g t) := by
  grind [laneRes, ResCanonical, OutCanonical]

theorem Canonical.predRes {v : Env} {g : Nat → Bool} : ResCanonical (predRes v g) := by
  grind [predRes, ResCanonical, OutCanonical]

theorem Canonical.advance {v : Env} {s : State} (h : Canonical s) : Canonical (Env.advance v s) := by
  grind [Env.advance, Canonical.modSlice]

theorem Canonical.fpRes {v : Env} {wide : Bool} {g : Nat → Nat × Excs} {t : Tag} : ResCanonical (fpRes v wide g t) := by
  grind [fpRes, Canonical.advance, ResCanonical, OutCanonical]

end Sys2Proof.Machine
end

section
/-! Memory stays canonical: accesses, gates, fills and requests. -/

namespace Sys2Proof.Machine

set_option Elab.async false

theorem Canonical.foldl_mem {α : Type} {f : State → α → State} {l : List α} {s : State}
    (hf : ∀ s, ∀ a ∈ l, Canonical s → Canonical (f s a)) (h : Canonical s) : Canonical (l.foldl f s) := by
  induction l generalizing s with
  | nil => exact h
  | cons a l ih =>
    exact ih (fun s b hb => hf s b (List.mem_cons_of_mem a hb)) (hf s a List.mem_cons_self h)

/-- The state behind a check of global elements is canonical. -/
def GateCanonical : Gate → Prop
  | .go s _ => Canonical s
  | .stop r => ResCanonical r

/-- A stop at the check of scratchpad elements is canonical. -/
def WinGateCanonical : WinGate → Prop
  | .go _ => True
  | .stop r => ResCanonical r

theorem Canonical.fpOp {g : Nat → FVal → FVal → FVal → FVal × Bool} {os : Env → List Opd} {v : Env} {s : State} (_ : Canonical s) :
    ResCanonical (fpOp g os v s) := by
  grind [fpOp, Canonical.fpRes, ResCanonical]

theorem Canonical.execFadd {f : Fields} {s : State} (h : Canonical s) : Lands (execFadd f s) := by
  grind [execFadd, Canonical.runInstr, Canonical.fpOp, Lands]

theorem Canonical.execFsub {f : Fields} {s : State} (h : Canonical s) : Lands (execFsub f s) := by
  grind [execFsub, Canonical.runInstr, Canonical.fpOp, Lands]

theorem Canonical.execFmul {f : Fields} {s : State} (h : Canonical s) : Lands (execFmul f s) := by
  grind [execFmul, Canonical.runInstr, Canonical.fpOp, Lands]

theorem Canonical.execFfma {f : Fields} {s : State} (h : Canonical s) : Lands (execFfma f s) := by
  grind [execFfma, Canonical.runInstr, Canonical.fpOp, Lands]

theorem Canonical.minMaxBody {isMax number : Bool} {v : Env} {s : State} (_ : Canonical s) : ResCanonical (minMaxBody isMax number v s) := by
  grind [minMaxBody, Canonical.fpRes, ResCanonical]

theorem Canonical.execFmin {f : Fields} {s : State} (h : Canonical s) : Lands (execFmin f s) := by
  grind [execFmin, Canonical.runInstr, Canonical.minMaxBody, Lands]

theorem Canonical.execFmax {f : Fields} {s : State} (h : Canonical s) : Lands (execFmax f s) := by
  grind [execFmax, Canonical.runInstr, Canonical.minMaxBody, Lands]

theorem Canonical.execFminn {f : Fields} {s : State} (h : Canonical s) : Lands (execFminn f s) := by
  grind [execFminn, Canonical.runInstr, Canonical.minMaxBody, Lands]

theorem Canonical.execFmaxn {f : Fields} {s : State} (h : Canonical s) : Lands (execFmaxn f s) := by
  grind [execFmaxn, Canonical.runInstr, Canonical.minMaxBody, Lands]

theorem Canonical.signOp {g : Bool → Bool → Bool} {os : Env → List Opd} {v : Env} {s : State} (_ : Canonical s) :
    ResCanonical (signOp g os v s) := by
  grind [signOp, Canonical.laneRes, ResCanonical]

theorem Canonical.execFabs {f : Fields} {s : State} (h : Canonical s) : Lands (execFabs f s) := by
  grind [execFabs, Canonical.runInstr, Canonical.signOp, Lands]

theorem Canonical.execFneg {f : Fields} {s : State} (h : Canonical s) : Lands (execFneg f s) := by
  grind [execFneg, Canonical.runInstr, Canonical.signOp, Lands]

theorem Canonical.execFcpys {f : Fields} {s : State} (h : Canonical s) : Lands (execFcpys f s) := by
  grind [execFcpys, Canonical.runInstr, Canonical.signOp, Lands]

theorem Canonical.execFdiv {f : Fields} {s : State} (h : Canonical s) : Lands (execFdiv f s) := by
  grind [execFdiv, Canonical.runInstr, Canonical.fpRes, Lands]

theorem Canonical.execFsqrt {f : Fields} {s : State} (h : Canonical s) : Lands (execFsqrt f s) := by
  grind [execFsqrt, Canonical.runInstr, Canonical.fpRes, Lands]

theorem Canonical.execFrnd {f : Fields} {s : State} (h : Canonical s) : Lands (execFrnd f s) := by
  grind [execFrnd, Canonical.runInstr, Canonical.fpRes, Lands]

theorem Canonical.execFscl {f : Fields} {s : State} (h : Canonical s) : Lands (execFscl f s) := by
  grind [execFscl, Canonical.runInstr, Canonical.fpRes, Lands]

theorem Canonical.execFexpn {f : Fields} {s : State} (h : Canonical s) : Lands (execFexpn f s) := by
  grind [execFexpn, Canonical.runInstr, Canonical.fpRes, Lands]

theorem Canonical.execCvt {f : Fields} {s : State} (h : Canonical s) : Lands (execCvt f s) := by
  grind [execCvt, Canonical.runInstr, Canonical.fpRes, Lands]

theorem Canonical.execCvtsr {f : Fields} {s : State} (h : Canonical s) : Lands (execCvtsr f s) := by
  grind [execCvtsr, Canonical.runInstr, Canonical.fpRes, Lands]

theorem Canonical.execPack {f : Fields} {s : State} (h : Canonical s) : Lands (execPack f s) := by
  grind [execPack, Canonical.runInstr, Canonical.laneRes, Lands]

theorem Canonical.execUnpk {f : Fields} {s : State} (h : Canonical s) : Lands (execUnpk f s) := by
  grind [execUnpk, Canonical.runInstr, Canonical.laneRes, Lands]

theorem Canonical.execDqnt {f : Fields} {s : State} (h : Canonical s) : Lands (execDqnt f s) := by
  grind [execDqnt, Canonical.runInstr, Canonical.fpRes, Lands]

theorem Canonical.execIcmp {f : Fields} {s : State} (h : Canonical s) : Lands (execIcmp f s) := by
  grind [execIcmp, Canonical.runInstr, Canonical.predRes, Lands]

theorem Canonical.execFcmp {f : Fields} {s : State} (h : Canonical s) : Lands (execFcmp f s) := by
  grind [execFcmp, Canonical.runInstr, Canonical.predRes, Lands, ResCanonical]

theorem Canonical.execFclass {f : Fields} {s : State} (h : Canonical s) : Lands (execFclass f s) := by
  grind [execFclass, Canonical.runInstr, Canonical.predRes, Lands, ResCanonical]

theorem Canonical.predOp {g : Bool → Bool → Bool} {v : Env} {s : State} (_ : Canonical s) : ResCanonical (predOp g v s) := by
  grind [predOp, Canonical.predRes, ResCanonical]

theorem Canonical.execPand {f : Fields} {s : State} (h : Canonical s) : Lands (execPand f s) := by
  grind [execPand, Canonical.runInstr, Canonical.predOp, Lands]

theorem Canonical.execPor {f : Fields} {s : State} (h : Canonical s) : Lands (execPor f s) := by
  grind [execPor, Canonical.runInstr, Canonical.predOp, Lands]

theorem Canonical.execPxor {f : Fields} {s : State} (h : Canonical s) : Lands (execPxor f s) := by
  grind [execPxor, Canonical.runInstr, Canonical.predOp, Lands]

theorem Canonical.execPnot {f : Fields} {s : State} (h : Canonical s) : Lands (execPnot f s) := by
  grind [execPnot, Canonical.runInstr, Canonical.predRes, Lands]

theorem Canonical.execPmov {f : Fields} {s : State} (h : Canonical s) : Lands (execPmov f s) := by
  grind [execPmov, Canonical.runInstr, Canonical.predRes, Lands]

theorem Canonical.execSel {f : Fields} {s : State} (h : Canonical s) : Lands (execSel f s) := by
  grind [execSel, Canonical.runInstr, Canonical.laneRes, Lands]

theorem Canonical.allWait {s : State} {bid : Nat} {ids : List Nat} (h : Canonical s) : Canonical (s.allWait bid ids) := by
  grind [State.allWait, Canonical.setWaiting, Canonical.foldl]

theorem Canonical.crossFault {s : State} {bid len : Nat} {ids : List Nat} {bad : List (Nat × Half × BitVec 4)} (h : Canonical s) :
    Canonical (s.crossFault bid len ids bad) := by
  grind [State.crossFault, Canonical.allWait, Canonical.trap, Canonical.foldl]

theorem Canonical.runCross {e : Enc} {f : Fields} {body : List Env → Env → Out × (Nat → Excs)} {s : State} (h : Canonical s)
    (hbody : ∀ vs v, OutCanonical (body vs v).1) : Lands (runCross e f body s) := by
  intro t ht
  unfold Machine.runCross at ht
  split at ht
  · simp at ht
  · next bid sid b x hc =>
    simp only at ht
    split at ht
    · grind [Canonical.allWait]
    split at ht
    · grind [Canonical.crossFault]
    split at ht
    · grind [Canonical.allWait]
    split at ht
    · grind [Canonical.crossFault]
    split at ht
    · grind [Canonical.allWait]
    split at ht
    · next ha => grind [Canonical.alloc, Canonical.joinWaiters, Canonical.allWait]
    · next s1 ha =>
      have h1 : Canonical s1 := by grind [Canonical.alloc]
      obtain rfl := Host.Outcome.next.inj ht
      refine Canonical.foldl_mem (fun s r hr hs => ?_) h1
      obtain ⟨v, -, rfl⟩ := List.mem_map.mp hr
      exact hs.completeNow (hbody _ v)

theorem outReg_canonical (w : RegWrite) : OutCanonical (outReg w) := fun _ h => h

theorem Canonical.execShfl {f : Fields} {s : State} (h : Canonical s) : Lands (execShfl f s) := by
  grind [execShfl, Canonical.runCross, outReg_canonical, Lands]

theorem Canonical.execBcast {f : Fields} {s : State} (h : Canonical s) : Lands (execBcast f s) := by
  grind [execBcast, Canonical.runCross, outReg_canonical, Lands]

theorem Canonical.execVote {f : Fields} {s : State} (h : Canonical s) : Lands (execVote f s) := by
  refine h.runCross fun vs v => ?_
  dsimp only
  split <;> exact fun _ h => h

theorem Canonical.execRdx {f : Fields} {s : State} (h : Canonical s) : Lands (execRdx f s) := by
  grind [execRdx, Canonical.runCross, outReg_canonical, Lands]

theorem Canonical.execScan {f : Fields} {s : State} (h : Canonical s) : Lands (execScan f s) := by
  grind [execScan, Canonical.runCross, outReg_canonical, Canonical.foldl, Lands]

theorem Canonical.execTopk {f : Fields} {s : State} (h : Canonical s) : Lands (execTopk f s) := by
  grind [execTopk, Canonical.runCross, outReg_canonical, Lands]

theorem Canonical.execQnt {f : Fields} {s : State} (h : Canonical s) : Lands (execQnt f s) := by
  grind [execQnt, Canonical.runInstr, Canonical.fpRes, Canonical.runCross, Canonical.advance, Lands, OutCanonical]

theorem doneEff_canonical {g : State → State} (hg : ∀ s, Canonical s → Canonical (g s)) : ResCanonical (doneEff g) := hg

theorem Canonical.onSlice {v : Env} {g : Slice → Slice} {s : State} (h : Canonical s) : Canonical (Env.onSlice v g s) := by
  grind [Env.onSlice, Canonical.modSlice]

theorem Canonical.movsBody {ordered : Bool} {v : Env} {s : State} (_ : Canonical s) : ResCanonical (movsBody ordered v s) := by
  grind [movsBody, ResCanonical, OutCanonical]

theorem Canonical.execMovsO {f : Fields} {s : State} (h : Canonical s) : Lands (execMovsO f s) := by
  grind [execMovsO, Canonical.runInstr, Canonical.movsBody, Lands]

theorem Canonical.execMovsU {f : Fields} {s : State} (h : Canonical s) : Lands (execMovsU f s) := by
  grind [execMovsU, Canonical.runInstr, Canonical.movsBody, Lands]

theorem Canonical.execSetm {f : Fields} {s : State} (h : Canonical s) : Lands (execSetm f s) := by
  grind [execSetm, Canonical.runInstr, doneEff_canonical, Canonical.onSlice, Lands]

theorem Canonical.execGetm {f : Fields} {s : State} (h : Canonical s) : Lands (execGetm f s) := by
  grind [execGetm, Canonical.runInstr, Lands, ResCanonical, OutCanonical]

theorem Canonical.execRel {f : Fields} {s : State} (h : Canonical s) : Lands (execRel f s) := by
  grind [execRel, Canonical.runInstr, Lands, ResCanonical, OutCanonical]

theorem Canonical.execGrow {f : Fields} {s : State} (h : Canonical s) : Lands (execGrow f s) := by
  grind [execGrow, Canonical.runInstr, doneEff_canonical, Canonical.modBlock, Canonical.joinWaiters, WindowKept, Lands, ResCanonical,
    OutCanonical]

theorem Canonical.execShrink {f : Fields} {s : State} (h : Canonical s) : Lands (execShrink f s) := by
  grind [execShrink, Canonical.runInstr, doneEff_canonical, Canonical.modBlock, WindowKept, Lands, ResCanonical]

theorem Canonical.execPoolq {f : Fields} {s : State} (h : Canonical s) : Lands (execPoolq f s) := by
  grind [execPoolq, Canonical.runInstr, Canonical.onSlice, Lands, ResCanonical, OutCanonical]

theorem Canonical.branchTo {v : Env} {target : Dword} {call : Bool} : ResCanonical (branchTo v target call) := by
  grind [branchTo, ResCanonical, OutCanonical]

theorem Canonical.execBra {f : Fields} {s : State} (h : Canonical s) : Lands (execBra f s) := by
  grind [execBra, Canonical.runInstr, Canonical.branchTo, Lands]

theorem Canonical.execBrx {f : Fields} {s : State} (h : Canonical s) : Lands (execBrx f s) := by
  grind [execBrx, Canonical.runInstr, Canonical.branchTo, Lands]

theorem Canonical.execCall {f : Fields} {s : State} (h : Canonical s) : Lands (execCall f s) := by
  grind [execCall, Canonical.runInstr, Canonical.branchTo, Lands]

theorem Canonical.execCallx {f : Fields} {s : State} (h : Canonical s) : Lands (execCallx f s) := by
  grind [execCallx, Canonical.runInstr, Canonical.branchTo, Lands]

theorem Canonical.execRet {f : Fields} {s : State} (h : Canonical s) : Lands (execRet f s) := by
  grind [execRet, Canonical.runInstr, Canonical.branchTo, Lands]

theorem Canonical.maskRes {v : Env} {m : BitVec 4} {st : List MaskEntry} {skips : Bool} : ResCanonical (maskRes v m st skips) := by
  grind [maskRes, Canonical.onSlice, ResCanonical, OutCanonical]

theorem Canonical.execIfm {f : Fields} {s : State} (h : Canonical s) : Lands (execIfm f s) := by
  grind [execIfm, Canonical.runInstr, Canonical.maskRes, Lands, ResCanonical]

theorem Canonical.execElsm {f : Fields} {s : State} (h : Canonical s) : Lands (execElsm f s) := by
  grind [execElsm, Canonical.runInstr, Canonical.maskRes, Lands, ResCanonical]

theorem Canonical.execEndm {f : Fields} {s : State} (h : Canonical s) : Lands (execEndm f s) := by
  grind [execEndm, Canonical.runInstr, Canonical.maskRes, Lands, ResCanonical]

theorem Canonical.execBrkm {f : Fields} {s : State} (h : Canonical s) : Lands (execBrkm f s) := by
  grind [execBrkm, Canonical.runInstr, Canonical.maskRes, Lands, ResCanonical]

theorem Canonical.exitSlice {s : State} {bid sid : Nat} (h : Canonical s) : Canonical (s.exitSlice bid sid) := by
  grind [State.exitSlice, Canonical.endSlice, Canonical.endBlock]

theorem Canonical.execExit {f : Fields} {s : State} (h : Canonical s) : Lands (execExit f s) := by
  grind [execExit, Canonical.runInstr, doneEff_canonical, Canonical.exitSlice, Lands, ResCanonical, OutCanonical]

theorem Canonical.execNop {f : Fields} {s : State} (h : Canonical s) : Lands (execNop f s) := by
  grind [execNop, Canonical.runInstr, Lands, ResCanonical, OutCanonical]

theorem Canonical.endRegang {s : State} {bid : Nat} {f : Fields} {ids : List Nat} (h : Canonical s) : Canonical (s.endRegang bid f ids) := by
  grind [State.endRegang, Canonical.modSlice, Canonical.complete, Canonical.foldl, OutCanonical]

theorem Canonical.atRegang {s : State} {v : Env} {m : Nat} (h : Canonical s) : Canonical (s.atRegang v m) := by
  grind [State.atRegang, Canonical.setWaiting, Canonical.modSlice]

theorem Canonical.regangBody {v : Env} {s : State} (h : Canonical s) : ResCanonical (regangBody v s) := by
  grind [regangBody, Canonical.atRegang, doneEff_canonical, Canonical.modBlock, Canonical.endRegang, WindowKept, Block.mergeParts_window,
    ResCanonical]

theorem Canonical.execRegang {f : Fields} {s : State} (h : Canonical s) : Lands (execRegang f s) := by
  grind [execRegang, Canonical.runInstr, Canonical.regangBody, Lands]

theorem Canonical.putGroup {s : State} {bid : Nat} {blk : Bool} {slot : Nat} {g : Group} (h : Canonical s) :
    Canonical (s.putGroup bid blk slot g) := by
  grind [State.putGroup, Canonical.modDie, Canonical.modBlock, WindowKept]

theorem Canonical.takeGroup {s : State} {bid : Nat} {blk : Bool} {slot : Nat} {g : Group} (h : Canonical s) :
    Canonical (s.takeGroup bid blk slot g) := by
  grind [State.takeGroup, Canonical.modBlock, Canonical.putGroup, WindowKept]

theorem Canonical.gjoinBody {v : Env} {s : State} (h : Canonical s) : ResCanonical (gjoinBody v s) := by
  grind [gjoinBody, doneEff_canonical, Canonical.endBlock, Canonical.modBlock, Canonical.putGroup, Canonical.takeGroup, WindowKept,
    ResCanonical, OutCanonical]

theorem Canonical.execGjoin {f : Fields} {s : State} (h : Canonical s) : Lands (execGjoin f s) := by
  grind [execGjoin, Canonical.runInstr, Canonical.gjoinBody, Lands]

theorem Canonical.execGleave {f : Fields} {s : State} (h : Canonical s) : Lands (execGleave f s) := by
  grind [execGleave, Canonical.runInstr, doneEff_canonical, Canonical.putGroup, Lands, ResCanonical]

theorem Canonical.execGrank {f : Fields} {s : State} (h : Canonical s) : Lands (execGrank f s) := by
  grind [execGrank, Canonical.runInstr, Lands, ResCanonical, OutCanonical]

theorem Canonical.execGsize {f : Fields} {s : State} (h : Canonical s) : Lands (execGsize f s) := by
  grind [execGsize, Canonical.runInstr, Lands, ResCanonical, OutCanonical]

theorem Canonical.execTrap {f : Fields} {s : State} (h : Canonical s) : Lands (execTrap f s) := by
  grind [execTrap, Canonical.runInstr, Lands, ResCanonical, OutCanonical]

theorem Canonical.execBkpt {f : Fields} {s : State} (h : Canonical s) : Lands (execBkpt f s) := by
  grind [execBkpt, Canonical.runInstr, Lands, ResCanonical, OutCanonical]

theorem Canonical.tret {s : State} {bid sid : Nat} {target : Dword} (h : Canonical s) : Canonical (s.tret bid sid target) := by
  grind [State.tret, Canonical.modSlice, Canonical.modBlock, WindowKept, Block.modSlice_window, Block.leavePart_window]

theorem Canonical.execTret {f : Fields} {s : State} (h : Canonical s) : Lands (execTret f s) := by
  grind [execTret, Canonical.runInstr, doneEff_canonical, Canonical.tret, Lands, ResCanonical]

theorem Canonical.execErrl {f : Fields} {s : State} (h : Canonical s) : Lands (execErrl f s) := by
  grind [execErrl, Canonical.runInstr, Lands, ResCanonical, OutCanonical]

theorem Canonical.applyPartial {s : State} {die core : Nat} {l : CLine} {op ty : Nat} {p : Nat × Dword} (h : Canonical s) :
    Canonical (s.applyPartial die core l op ty p) := by
  grind [State.applyPartial, Canonical.log, Canonical.applyWrite]

theorem Canonical.applyUo {s : State} {die core : Nat} {l : CLine} (h : Canonical s) : Canonical (s.applyUo die core l) := by
  grind [State.applyUo, Canonical.applyPartial, Canonical.foldl]

theorem Canonical.flushUo {s : State} {die core : Nat} {p : CLine → Bool} (h : Canonical s) : Canonical (s.flushUo die core p) := by
  grind [State.flushUo, Canonical.modCore, Canonical.modLine, Canonical.applyUo, Canonical.foldl]

theorem Canonical.recall {s : State} {d pa : Nat} (h : Canonical s) : Canonical (s.recall d pa) := by
  grind [State.recall, Canonical.flushUo, Canonical.foldl]

theorem Canonical.homeWrite {s : State} {d pa : Nat} {data : List Byte} {die core req : Nat} {alloc : Bool} (h : Canonical s) :
    Canonical (s.homeWrite d pa data die core req alloc).1 := by
  grind [State.homeWrite, Canonical.applyWrite, Canonical.recall]

theorem Canonical.recallRange {s : State} {d pa n : Nat} (h : Canonical s) : Canonical (s.recallRange d pa n) := by
  grind [State.recallRange, Canonical.recall, Canonical.foldl]

theorem Canonical.homeStore {s : State} {d pa : Nat} {data : List Byte} (h : Canonical s) : Canonical (s.homeStore d pa data) := by
  grind [State.homeStore, Canonical.store, Canonical.recallRange]

theorem Canonical.homeStoreAs {s : State} {alloc : Bool} {d pa : Nat} {data : List Byte} (h : Canonical s) :
    Canonical (s.homeStoreAs alloc d pa data) := by
  grind [State.homeStoreAs, Canonical.storeLines, Canonical.recallRange]

theorem Canonical.homeBytes {s : State} {d pa n : Nat} (h : Canonical s) : Canonical (s.homeBytes d pa n).1 := by
  grind [State.homeBytes, Canonical.recallRange]

theorem Canonical.homeRead {s : State} {d pa n : Nat} {alloc : Bool} (h : Canonical s) : Canonical (s.homeRead d pa n alloc).1 := by
  grind [State.homeRead, Canonical.touchLine, Canonical.recall]

theorem Canonical.modFill {s : State} {fid : Nat} {f : Fill → Fill} (h : Canonical s) : Canonical (s.modFill fid f) := by
  grind [State.modFill, Canonical]

theorem Canonical.fillPart {s : State} {t : Option (Nat × Nat × Nat)} {v : Nat} (h : Canonical s) : Canonical (s.fillPart t v) := by
  unfold State.fillPart
  split
  · exact h
  · exact h.modFill

theorem Canonical.fillFaulted {s : State} {t : Option (Nat × Nat × Nat)} {cause : Half} {addr : Nat} (h : Canonical s) :
    Canonical (s.fillFaulted t cause addr) := by
  unfold State.fillFaulted
  split
  · exact h
  · exact h.modFill

theorem Canonical.issueDone {s : State} {id : Option Nat} (h : Canonical s) : Canonical (s.issueDone id) := by
  unfold State.issueDone
  split
  · exact h
  split
  · exact h
  split <;> exact h

theorem Canonical.closeIssues {s : State} {bid : Nat} (h : Canonical s) : Canonical (s.closeIssues bid) := by
  grind [State.closeIssues, Canonical]

theorem Canonical.noteStamp {s : State} {bid sid d pa n : Nat} {st : Clock} (h : Canonical s) : Canonical (s.noteStamp bid sid d pa n st) := by
  grind [State.noteStamp, Canonical.modSlice, Canonical.foldl]

theorem Canonical.noteSeen {s : State} {die : Nat} {st : Clock} (h : Canonical s) : Canonical (s.noteSeen die st) := by
  grind [State.noteSeen, Canonical.modDie]

theorem Canonical.uoHome {s : State} {die core ctx va : Nat} (h : Canonical s) : Canonical (s.uoHome die core ctx va) := by
  grind [State.uoHome, Canonical.flushUo]

theorem Canonical.dropV {s : State} {die core ctx va : Nat} (h : Canonical s) : Canonical (s.dropV die core ctx va) := by
  grind [State.dropV, Canonical.modCore]

theorem Canonical.dropVs {s : State} {die core : Nat} {p : CLine → Bool} (h : Canonical s) : Canonical (s.dropVs die core p) := by
  grind [State.dropVs, Canonical.modCore]

theorem Canonical.storeV {s : State} {die core ctx va : Nat} {data : List Byte} {who : Nat} (h : Canonical s) :
    Canonical (s.storeV die core ctx va data who) := by
  grind [State.storeV, Canonical.modCore]

theorem Canonical.allocLine {s : State} {die core : Nat} {l : CLine} (h : Canonical s) : Canonical (s.allocLine die core l) := by
  grind [State.allocLine, Canonical.dropV, Canonical.uoHome, Canonical.modCore]

theorem Canonical.fillV {s : State} {r : Req} {bytes : List Byte} {st : Clock} (h : Canonical s) : Canonical (s.fillV r bytes st) := by
  grind [State.fillV, Canonical.allocLine, Canonical.uoHome, Canonical.dropV]

theorem Canonical.fillGuest {s : State} {die ctx va : Nat} {leaf : Dword} {home pa : Nat} (h : Canonical s) :
    Canonical (s.fillGuest die ctx va leaf home pa) := by
  grind [State.fillGuest, Canonical.modLine, Canonical.modDie, Canonical.makeWay]

theorem Canonical.arrive {s : State} {r : Req} (h : Canonical s) : Canonical (s.arrive r) := by
  grind [State.arrive, Canonical.modDie]

theorem Canonical.closePhase {s : State} {die core : Nat} (h : Canonical s) : Canonical (s.closePhase die core).1 := by
  grind [State.closePhase, Canonical.modCore]

theorem Canonical.completeClose {s : State} {die core p serial : Nat} (h : Canonical s) : Canonical (s.completeClose die core p serial) := by
  grind [State.completeClose, Canonical.modCore, Canonical.modDie]

theorem Canonical.hostWrite {s : State} {p a : Nat} {data : List Byte} (h : Canonical s) : Canonical (s.hostWrite p a data) := by
  grind [State.hostWrite, Canonical.modPort, Canonical.foldl]

theorem Canonical.dropReq {s : State} {id : Nat} (h : Canonical s) : Canonical (s.dropReq id) := by
  grind [State.dropReq, Canonical]

theorem Canonical.homeRmw {s : State} {d pa op ty : Nat} {v c : Dword} {die core req : Nat} {alloc : Bool} (h : Canonical s) :
    Canonical (s.homeRmw d pa op ty v c die core req alloc).1 := by
  grind [State.homeRmw, Canonical.recall, Canonical.applyWrite]

theorem Canonical.armMonitor {s : State} {d ctx pa ty cond : Nat} {v : Dword} {bid sid : Nat} (h : Canonical s) :
    Canonical (s.armMonitor d ctx pa ty cond v bid sid).1 := by
  grind [State.armMonitor, Canonical.fresh, Canonical.modCtx, Canonical.modDie, Canonical.log]

theorem Canonical.logReq {s : State} {r : Req} {cause : Half} {addr : Nat} (h : Canonical s) : Canonical (s.logReq r cause addr) := by
  grind [State.logReq, Canonical.log]

theorem Canonical.writeBack {s : State} {r : Req} {st : Clock} (h : Canonical s) : Canonical (s.writeBack r st) := by
  grind [State.writeBack, Canonical.issueDone, Canonical.noteStamp, Canonical.modCore]

theorem Canonical.noteRead {s : State} {r : Req} {st : Clock} (h : Canonical s) : Canonical (s.noteRead r st) := by
  grind [State.noteRead, Canonical.modFill, Canonical.noteSeen]

theorem Canonical.readBack {s : State} {r : Req} {v : Nat} {st : Clock} (h : Canonical s) : Canonical (s.readBack r v st) := by
  grind [State.readBack, Canonical.fillPart, Canonical.noteRead, Canonical.noteStamp]

theorem Canonical.coverIssue {s : State} {r : Req} (h : Canonical s) : Canonical (s.coverIssue r) := by
  grind [State.coverIssue, Canonical.clearPoison, Canonical]

theorem Canonical.performHome {s : State} {id : Nat} {r : Req} (h : Canonical s) : Canonical (s.performHome id r) := by
  grind [State.performHome, Canonical.dropReq, Canonical.fillFaulted, Canonical.recall, Canonical.homeRead, Canonical.fillGuest,
    Canonical.readBack, Canonical.noteSeen, Canonical.fillV, Canonical.coverIssue, Canonical.homeWrite, Canonical.writeBack,
    Canonical.asOneWrite, Canonical.issueDone, Canonical.logReq, Canonical.homeRmw, Canonical.fillPart, Canonical.noteRead, Canonical.dropV,
    Canonical.armMonitor]

theorem Canonical.holdCxl {s : State} {p pa n : Nat} (h : Canonical s) : Canonical (s.holdCxl p pa n) := by
  grind [State.holdCxl, Canonical.modPort]

theorem Canonical.hostFetch {s : State} {p pa n : Nat} {leaf : Dword} (h : Canonical s) : Canonical (s.hostFetch p pa n leaf).1 := by
  grind [State.hostFetch, Canonical.holdCxl]

theorem Canonical.notePort {s : State} {die core p : Nat} (h : Canonical s) : Canonical (s.notePort die core p) := by
  grind [State.notePort, Canonical.modCore]

theorem Canonical.performHost {s : State} {id p : Nat} {r : Req} (h : Canonical s) : Canonical (s.performHost id p r) := by
  grind [State.performHost, Canonical.dropReq, Canonical.holdCxl, Canonical.fillPart, Canonical.issueDone, Canonical.hostWrite,
    Canonical.notePort]

theorem Canonical.failRelease {s : State} {bid sid : Nat} (h : Canonical s) : Canonical (s.failRelease bid sid) := by
  grind [State.failRelease, Canonical.modSlice]

theorem Canonical.denyReq {s : State} {id : Nat} {r : Req} {cause : Half} (h : Canonical s) : Canonical (s.denyReq id r cause) := by
  grind [State.denyReq, Canonical.dropReq, Canonical.issueDone, Canonical.failRelease, Canonical.logReq, Canonical.fillFaulted]

theorem Canonical.performOrHold {s : State} {id : Nat} {r : Req} (h : Canonical s) : Canonical (s.performOrHold id r) := by
  grind [State.performOrHold, Canonical.performHome, Canonical]

theorem Canonical.performAt {s : State} {id : Nat} {r : Req} (h : Canonical s) : Canonical (s.performAt id r) := by
  grind [State.performAt, Canonical.verdict, Canonical.performOrHold, Canonical.denyReq]

theorem Canonical.reqArrival {s : State} {id : Nat} (h : Canonical s) : Canonical (s.reqArrival id) := by
  grind [State.reqArrival, Canonical.performHost, Canonical.arrive, Canonical.performAt, Canonical.fillFaulted, Canonical.dropReq,
    Canonical.fillV, Canonical.readBack, Canonical]

theorem Canonical.fetchWord {s : State} {b : Block} {pc : Dword} (h : Canonical s) : Canonical (s.fetchWord b pc).1 := by
  grind [State.fetchWord, Canonical.verdict, Canonical.hostFetch, Canonical.recall]

theorem Canonical.trapAt {s : State} {bid sid : Nat} {cause : Half} {addr : Dword} {lanes : BitVec 4} (h : Canonical s) :
    Canonical (s.trapAt bid sid cause addr lanes) := by
  grind [State.trapAt, Canonical.trap]

theorem Canonical.writeLeaf {s : State} {d pa : Nat} {e : Dword} (h : Canonical s) : Canonical (s.writeLeaf d pa e) := by
  grind [State.writeLeaf, Canonical.modDie, Canonical.store]

theorem Canonical.putLayer {s : State} {ctx l : Nat} {y : Layer} (h : Canonical s) : Canonical (s.putLayer ctx l y) := by
  unfold State.putLayer
  extract_lets x y s1
  have h1 : Canonical s1 := h.modCtx
  split
  · exact h1
  split
  · split
    · exact h1
    · exact h1.privWrite
  · exact h1

theorem Canonical.requestLayer {s : State} {ctx l : Nat} (h : Canonical s) : Canonical (s.requestLayer ctx l) := by
  grind [State.requestLayer, Canonical.modDie, Canonical.putLayer]

theorem Canonical.requestByLeaf {s : State} {ctx : Nat} {leaf : Dword} (h : Canonical s) : Canonical (s.requestByLeaf ctx leaf) := by
  grind [State.requestByLeaf, Canonical.requestLayer]

theorem Canonical.setPage {s : State} {ctx l p res frame : Nat} (h : Canonical s) : Canonical (s.setPage ctx l p res frame) := by
  grind [State.setPage, Canonical.writeLeaf, Canonical.modDie]

theorem Canonical.endLayerTokens {s : State} {ctx l : Nat} {failed : Bool} {cause : Half} (h : Canonical s) :
    Canonical (s.endLayerTokens ctx l failed cause) := by
  grind [State.endLayerTokens, Canonical.finishToken, Canonical.putLayer, Canonical.foldl]

theorem Canonical.cancelParked {s : State} {ctx l : Nat} (h : Canonical s) : Canonical (s.cancelParked ctx l) := by
  refine CanonicalIn.map h fun p hp => ?_
  dsimp only
  split <;> exact hp

theorem Canonical.cancelLayer {s : State} {ctx l reason : Nat} (h : Canonical s) : Canonical (s.cancelLayer ctx l reason) := by
  grind [State.cancelLayer, Canonical.setPage, Canonical.modDie, Canonical.putLayer, Canonical.endLayerTokens, Canonical.modSlice,
    Canonical.failPiece, Canonical.cancelParked, Canonical.failNode, Canonical.foldl]

theorem Canonical.recallFor {s : State} {ordered : Bool} {ps : List Placed} (h : Canonical s) : Canonical (s.recallFor ordered ps) := by
  grind [State.recallFor, Canonical.recall, Canonical.foldl]

theorem Canonical.takeRecord {s : State} {ctx node d : Nat} (h : Canonical s) : Canonical (s.takeRecord ctx node d).1 := by
  grind [State.takeRecord, Canonical.modCtx]

theorem Canonical.holdLine {s : State} {b : Block} {d pa : Nat} {alloc : Bool} (h : Canonical s) : Canonical (s.holdLine b d pa alloc).1 := by
  grind [State.holdLine, Canonical.modLine, Canonical.wayFor, Canonical.takeRecord]

theorem Canonical.holdAll {s : State} {b : Block} {ps : List Placed} (h : Canonical s) : Canonical (s.holdAll b ps).1 := by
  refine Canonical.foldl_fst (fun p a hp => ?_) h
  split
  · split
    · exact hp
    · exact hp.holdLine
  · exact hp

theorem Canonical.pinRoom {s : State} {d pa : Nat} (h : Canonical s) : Canonical (s.pinRoom d pa).1 := by
  grind [State.pinRoom, Canonical.modLine, Canonical.takeRecord]

theorem Canonical.judge {s0 : State} {v : Env} {kind : Access} {cached : Bool} {va n : Nat} (h : Canonical s0) :
    Canonical (s0.judge v kind cached va n).1 := by
  grind [State.judge, Canonical.dropV, Canonical.verdict]

theorem Canonical.gate {s : State} {v : Env} {kind : Access} {cached : Bool} {es : List MElem} (h : Canonical s) :
    GateCanonical (s.gate v kind cached es) := by
  have hjudged : ∀ l : List (Nat × Nat × Nat × Nat × Nat × Nat), Canonical (l.foldl
      (fun (acc : State × List (Nat × Nat × Nat × Nat × Nat × Nat × Judge)) p =>
        let (e, l, k, off, va, n) := p
        let (s1, j) := acc.1.judge v kind cached va n
        (s1, acc.2 ++ [(e, l, k, off, va, n, j)])) (s, [])).1 :=
    fun l => Canonical.foldl_fst (fun p a hp => hp.judge) h
  unfold State.gate
  simp only
  split
  · exact hjudged _
  split
  · exact hjudged _
  · exact ((hjudged _).foldl (fun _ _ hs => hs.requestByLeaf)).modSlice

theorem Canonical.gate_go {s : State} {v : Env} {kind : Access} {cached : Bool} {es : List MElem} {t : State} {ps : List Placed}
    (h : Canonical s) (hg : s.gate v kind cached es = .go t ps) : Canonical t := by
  have hk : GateCanonical (s.gate v kind cached es) := h.gate
  rwa [hg] at hk

theorem Canonical.gate_stop {s : State} {v : Env} {kind : Access} {cached : Bool} {es : List MElem} {out : Res} (h : Canonical s)
    (hg : s.gate v kind cached es = .stop out) : ResCanonical out := by
  have hk : GateCanonical (s.gate v kind cached es) := h.gate
  rwa [hg] at hk

theorem Canonical.checkGlobal {s : State} {v : Env} {q : FormRule} {kind : Access} {cached : Bool} {es : List MElem} (h : Canonical s) :
    GateCanonical (s.checkGlobal v q kind cached es) := by
  unfold State.checkGlobal
  split
  · trivial
  · exact h.gate

theorem Canonical.checkGlobal_go {s : State} {v : Env} {q : FormRule} {kind : Access} {cached : Bool} {es : List MElem} {t : State}
    {ps : List Placed} (h : Canonical s) (hg : s.checkGlobal v q kind cached es = .go t ps) : Canonical t := by
  have hk : GateCanonical (s.checkGlobal v q kind cached es) := h.checkGlobal
  rwa [hg] at hk

theorem Canonical.checkGlobal_stop {s : State} {v : Env} {q : FormRule} {kind : Access} {cached : Bool} {es : List MElem} {out : Res}
    (h : Canonical s) (hg : s.checkGlobal v q kind cached es = .stop out) : ResCanonical out := by
  have hk : GateCanonical (s.checkGlobal v q kind cached es) := h.checkGlobal
  rwa [hg] at hk

theorem Canonical.countIssue {s : State} {v : Env} {load : Bool} {n : Nat} (h : Canonical s) : Canonical (s.countIssue v load n) := by
  grind [State.countIssue, Canonical]

theorem Canonical.openRoom {s : State} {v : Env} {n : Nat} (h : Canonical s) : Canonical (s.openRoom v n) := by
  grind [State.openRoom, Canonical.closePhase]

theorem Canonical.send {s : State} {r : Req} (h : Canonical s) : Canonical (s.send r) := by
  grind [State.send, Canonical.fresh, Canonical.modCore, Canonical]

theorem Canonical.finishFill {s : State} {fid : Nat} (h : Canonical s) : Canonical (s.finishFill fid) := by
  grind [State.finishFill, Canonical.issueDone, Canonical.modSlice, Canonical.foldl, Canonical]

theorem Canonical.landFill {s : State} {fid e : Nat} (h : Canonical s) : Canonical (s.landFill fid e) := by
  grind [State.landFill, Canonical.modFill, Canonical.modSlice, Canonical.finishFill]

theorem Canonical.beginFill {s : State} {v : Env} {regs : List Nat} {target : Tag} {whole counted : Bool} {els : List FillElem}
    {ps : List Placed} {mk : Placed → Req → Req} (h : Canonical s) : Canonical (s.beginFill v regs target whole counted els ps mk).1 := by
  grind [State.beginFill, Canonical.fresh, Canonical.countIssue, Canonical.send, Canonical.uoHome, Canonical.finishFill, Canonical.foldl,
    Canonical]

theorem Canonical.touchAll {s : State} {v : Env} {ps : List Placed} (h : Canonical s) : Canonical (s.touchAll v ps) := by
  refine h.modBlock fun b hb => Block.foldl_window_wf (fun b p hb => ?_) hb
  split
  · rwa [Block.touch_window]
  · exact hb

theorem Canonical.presenceGate {s : State} {v : Env} {es : List MElem} (h : Canonical s) : WinGateCanonical (s.presenceGate v es) := by
  unfold State.presenceGate
  simp only
  split
  · trivial
  split
  · trivial
  · exact h.modSlice

theorem Canonical.presenceGate_stop {s : State} {v : Env} {es : List MElem} {out : Res} (h : Canonical s)
    (hg : s.presenceGate v es = .stop out) : ResCanonical out := by
  have hk : WinGateCanonical (s.presenceGate v es) := h.presenceGate
  rwa [hg] at hk

theorem Canonical.winGate {s : State} {v : Env} {size : Nat} {es : List (Nat × Nat × Int)} (h : Canonical s) :
    WinGateCanonical (s.winGate v size es) := by
  unfold State.winGate
  split
  · trivial
  · exact h.presenceGate

theorem Canonical.winGate_stop {s : State} {v : Env} {size : Nat} {es : List (Nat × Nat × Int)} {out : Res} (h : Canonical s)
    (hg : s.winGate v size es = .stop out) : ResCanonical out := by
  have hk : WinGateCanonical (s.winGate v size es) := h.winGate
  rwa [hg] at hk

theorem Canonical.winStoreAll {s : State} {v : Env} {ws : List (Nat × List Byte)} (h : Canonical s) : Canonical (s.winStoreAll v ws) := by
  have hbytes : Canonical ((s.countIssue v false 0).modBlock v.bid (fun b =>
      ws.foldl (fun b w => b.examine w.1 w.2.length)
        (ws.foldl (fun b w => b.winPut w.1 w.2) (ws.foldl (fun b w => b.readAhead v.sid w.1 w.2.length) b)))) := by
    refine h.countIssue.modBlock fun b hb => ?_
    rw [Block.foldl_window fun b w => Block.examine_window ..]
    refine Block.foldl_window_wf (fun b w hb => Block.winPut_wf hb) ?_
    rwa [Block.foldl_window fun b w => Block.readAhead_window ..]
  unfold State.winStoreAll
  simp only
  split
  · exact hbytes
  · exact Canonical.modBlock hbytes fun b hb => hb

theorem Canonical.sendFlushes {s : State} {die core : Nat} (h : Canonical s) : Canonical (s.sendFlushes die core).1 :=
  Canonical.foldl_fst (fun _ _ hp => hp) h

theorem Canonical.clearPorts {s : State} {die core : Nat} {flushes : List Nat} (h : Canonical s) :
    Canonical (s.clearPorts die core flushes) := by
  grind [State.clearPorts, Canonical.modCore]

theorem Canonical.releaseStep {s : State} {v : Env} {r : RelWait} (h : Canonical s) : Canonical (s.releaseStep v r).1 := by
  unfold State.releaseStep
  extract_lets d c k
  split
  · exact h
  split
  · exact h
  split
  next s1 r1 hclosed =>
  have h1 : Canonical s1 := by grind [Canonical.closePhase]
  clear hclosed h
  grind [Canonical.clearPorts, Canonical.sendFlushes]

theorem Canonical.release {s : State} {v : Env} {scope : Scope} (h : Canonical s) : Canonical (s.release v scope).1 := by
  grind [State.release, Canonical.releaseStep, Canonical.modSlice]

theorem Canonical.reported {s : State} {bid sid : Nat} {scope : Scope} (h : Canonical s) : Canonical (s.reported bid sid scope) := by
  grind [State.reported, Canonical.modSlice]

theorem Canonical.acquire {s : State} {v : Env} {scope : Scope} {x : Dword} {mine : Option Nat} (h : Canonical s) :
    Canonical (s.acquire v scope x mine).1 := by
  grind [State.acquire, Canonical.dropVs, Canonical.modSlice]

theorem Canonical.acquireThen {v : Env} {scope : Scope} {x : Dword} {mine : Option Nat} {s : State} {o : Out} (h : Canonical s)
    (ho : OutCanonical o) : ResCanonical (acquireThen v scope x mine s o) := by
  grind [Machine.acquireThen, Canonical.acquire, ResCanonical]

theorem Canonical.fenceBody {v : Env} {s : State} (h : Canonical s) : ResCanonical (fenceBody v s) := by
  grind [fenceBody, Canonical.reported, Canonical.acquireThen, Canonical.release, ResCanonical, OutCanonical]

theorem Canonical.execFence {f : Fields} {s : State} (h : Canonical s) : Lands (execFence f s) := by
  grind [execFence, Canonical.runInstr, Canonical.fenceBody, Lands]

theorem Canonical.discardFill {s : State} {fid : Nat} (h : Canonical s) : Canonical (s.discardFill fid) := by
  grind [State.discardFill, Canonical.issueDone, Canonical]

theorem Canonical.closeFill {s : State} {fid : Nat} (h : Canonical s) : Canonical (s.closeFill fid) := by
  grind [State.closeFill, Canonical.discardFill, Canonical.noteSeen]

theorem Canonical.ldaBody {v : Env} {s : State} (h : Canonical s) : ResCanonical (ldaBody v s) := by
  have hgo : ∀ fid, ResCanonical (match s.await fid with
    | .waiting => Res.wait s
    | .raised c a ls => .raiseIn (s.discardFill fid) c a ls
    | .ready x => Machine.acquireThen v ((scopeOf (v.md % 8)).getD .core) (BitVec.ofNat 64 (fid + 1)) (some fid) s
        { regs := [v.write (typeWide v.ty) (Quad.ofFn (fun l => BitVec.ofNat 64 (x.laneValue l))) .g], eff := fun s => s.closeFill fid }) := by
    intro fid
    split
    · exact h
    · exact h.discardFill
    · exact h.acquireThen fun _ hs => hs.closeFill
  have hnone : ∀ s, Canonical s → ResCanonical (Machine.acquireThen v ((scopeOf (v.md % 8)).getD .core) 0 none s
      { regs := [v.write (typeWide v.ty) (Quad.all 0) .g] }) := fun s hs => hs.acquireThen fun _ ht => ht
  unfold Machine.ldaBody
  simp only
  split
  · exact hgo _
  · split
    · exact hnone _ h
    · exact hgo _
  split
  · exact h
  split
  · next hr => exact h.checkGlobal_stop hr
  · next hr =>
    have h1 := h.checkGlobal_go hr
    split
    · exact h1
    split
    · exact hnone _ h1
    · exact ((Canonical.recallFor h1).touchAll.beginFill).modSlice

theorem Canonical.execLda {f : Fields} {s : State} (h : Canonical s) : Lands (execLda f s) := by
  grind [execLda, Canonical.runInstr, Canonical.ldaBody, Lands]

theorem Canonical.storeParts {s : State} {v : Env} {ordered : Bool} {ps : List Placed} {data : Nat → List Byte} (h : Canonical s) :
    Canonical (s.storeParts v ordered ps data) := by
  grind [State.storeParts, Canonical.holdLine, Canonical.modBlock, Canonical.send, Canonical.storeV, Canonical.uoHome, Canonical.countIssue,
    Canonical.openRoom, WindowKept, Block.roundWrite_window, Canonical.foldl]

theorem Canonical.strlBody {v : Env} {s : State} (h : Canonical s) : ResCanonical (strlBody v s) := by
  unfold Machine.strlBody
  simp only
  split
  · next hr => exact h.checkGlobal_stop hr
  · next hr =>
    have h1 := h.checkGlobal_go hr
    have hrel := h1.release (v := v) (scope := (scopeOf (v.md % 8)).getD .core)
    split
    · exact h1
    split
    · exact h1
    split
    · next hq => rw [hq] at hrel; exact hrel
    · next hq => rw [hq] at hrel; exact ⟨hrel, fun _ hs => hs.reported⟩
    · next hq =>
      rw [hq] at hrel
      split
      · exact hrel
      · exact ⟨hrel, fun _ hs => hs.storeParts.reported⟩

theorem Canonical.execStrl {f : Fields} {s : State} (h : Canonical s) : Lands (execStrl f s) := by
  grind [execStrl, Canonical.runInstr, Canonical.strlBody, Lands]

theorem Canonical.dropFrameV {s : State} {ctx d frame : Nat} (h : Canonical s) : Canonical (s.dropFrameV ctx d frame) := by
  grind [State.dropFrameV, Canonical.dropVs, Canonical.foldl]

theorem Canonical.startEvict {s : State} {ctx l p : Nat} (h : Canonical s) : Canonical (s.startEvict ctx l p) := by
  unfold State.startEvict
  split
  · exact h
  · exact ((Canonical.foldl (fun _ _ hs => hs.recall.dropLineGuests) h).dropFrameV.setPage).putLayer

theorem Canonical.makeRoom {s : State} {ctx d : Nat} {quota : Bool} (h : Canonical s) : Canonical (s.makeRoom ctx d quota) := by
  grind [State.makeRoom, Canonical.startEvict, Canonical.cancelLayer]

theorem Canonical.settleLayer {s : State} {ctx l : Nat} (h : Canonical s) : Canonical (s.settleLayer ctx l) := by
  grind [State.settleLayer, Canonical.endLayerTokens, Canonical.modDie, Canonical.putLayer]

theorem Canonical.assignFrames {ctx l n p : Nat} {s : State} (h : Canonical s) : Canonical (State.assignFrames ctx l n p s) := by
  induction n generalizing p s with
  | zero => exact h
  | succ n ih => grind [State.assignFrames, Canonical.cancelLayer, Canonical.makeRoom, Canonical.modDie, Canonical.setPage]

theorem Canonical.advanceLayer {s : State} {ctx l : Nat} (h : Canonical s) : Canonical (s.advanceLayer ctx l) := by
  grind [State.advanceLayer, Canonical.cancelLayer, Canonical.settleLayer, Canonical.assignFrames]

theorem Canonical.advanceAll {s : State} {die : Nat} (h : Canonical s) : Canonical (s.advanceAll die) := by
  grind [State.advanceAll, Canonical.advanceLayer, Canonical.foldl]

theorem Canonical.execLayerTurn {die : Nat} {s : State} (h : Canonical s) : Lands (execLayerTurn die s) := by
  grind [execLayerTurn, Canonical.advanceAll, Canonical.modDie, Canonical.putLayer, Canonical.advanceLayer, Lands]

theorem Canonical.layerSource {s : State} {ctx va : Nat} {t : _} (h : Canonical s) (ht : s.layerSource ctx va = some t) : Canonical t.1 := by
  grind [State.layerSource, Canonical.recallRange, Canonical.foldl]

theorem Canonical.execLayerPageLand {ctx layer page : Nat} {s : State} (h : Canonical s) : Lands (execLayerPageLand ctx layer page s) := by
  intro t ht
  unfold Machine.execLayerPageLand at ht
  simp only at ht
  split at ht
  · grind [Canonical.cancelLayer]
  split at ht
  · grind
  split at ht
  · grind [Canonical.cancelLayer]
  · next hs =>
    obtain rfl := Host.Outcome.next.inj ht
    exact (((h.layerSource hs).homeStoreAs.clearPoison.setPage).putLayer.settleLayer).advanceAll

theorem Canonical.settleEvict {s : State} {ctx l : Nat} (h : Canonical s) : Canonical (s.settleEvict ctx l) := by
  grind [State.settleEvict, Canonical.putLayer, Canonical.requestLayer]

theorem Canonical.pageGone {s : State} {ctx layer page d fr : Nat} (h : Canonical s) : Canonical (s.pageGone ctx layer page d fr) := by
  grind [State.pageGone, Canonical.setPage, Canonical.evictLine, Canonical.dropFrameV, Canonical.foldl]

theorem Canonical.endLayer {s : State} {ctx l : Nat} (h : Canonical s) : Canonical (s.endLayer ctx l) := by
  grind [State.endLayer, Canonical.cancelLayer, Canonical.pageGone, Canonical.endLayerTokens, Canonical.putLayer, Canonical.foldl]

theorem Canonical.execEvictionComplete {ctx layer page : Nat} {s : State} (h : Canonical s) : Lands (execEvictionComplete ctx layer page s) := by
  grind [execEvictionComplete, Canonical.advanceAll, Canonical.settleEvict, Canonical.pageGone, Lands]

theorem Canonical.laye {s : State} {ctx l : Nat} (h : Canonical s) : Canonical (s.laye ctx l).1 := by
  grind [State.laye, Canonical.cancelLayer, Canonical.startEvict, Canonical.foldl]

theorem Canonical.execLayw {f : Fields} {s : State} (h : Canonical s) : Lands (execLayw f s) := by
  grind [execLayw, Canonical.runInstr, Canonical.acquireThen, Canonical.requestLayer, Canonical.modSlice, Lands, OutCanonical, ResCanonical]

theorem Canonical.execLayq {f : Fields} {s : State} (h : Canonical s) : Lands (execLayq f s) := by
  grind [execLayq, Canonical.runInstr, Lands, ResCanonical, OutCanonical]

theorem tokenOut_canonical {v : Env} {queue : Nat} {scope : Scope} {g : Dword → State → State}
    (hg : ∀ t s, Canonical s → Canonical (g t s)) : OutCanonical (tokenOut v queue scope g) :=
  fun _ h => hg _ _ (h.takeToken (die := v.b.die) (queue := queue) (ctx := v.b.ctx) (scope := scope))

theorem Canonical.giveToken {s : State} {ctx l : Nat} {t : Dword} (h : Canonical s) : Canonical (s.giveToken ctx l t) := by
  grind [State.giveToken, Canonical.finishToken, Canonical.putLayer]

theorem Canonical.execLayr {f : Fields} {s : State} (h : Canonical s) : Lands (execLayr f s) := by
  grind [execLayr, Canonical.runInstr, tokenOut_canonical, Canonical.giveToken, Canonical.requestLayer, Lands, ResCanonical, OutCanonical]

theorem Canonical.execLaye {f : Fields} {s : State} (h : Canonical s) : Lands (execLaye f s) := by
  grind [execLaye, Canonical.runInstr, Canonical.laye, Lands, ResCanonical, OutCanonical]

end Sys2Proof.Machine
end

section
/-! Memory stays canonical: the instructions of memory, of synchronisation and of the tile. -/

namespace Sys2Proof.Machine

set_option Elab.async false

/-- The state behind a read by an instruction is canonical. -/
def FetchedCanonical : Fetched → Prop
  | .got s _ => Canonical s
  | .stop r => ResCanonical r

/-- The state behind the check of a tensor record is canonical. -/
def TensorGateCanonical : TensorGate → Prop
  | .go s _ _ => Canonical s
  | .stop r => ResCanonical r

/-- The state behind the check of rows is canonical. -/
def RowsCanonical : Rows → Prop
  | .go s _ => Canonical s
  | .stop r => ResCanonical r

/-- The state behind the check of two lists of rows is canonical. -/
def Rows2Canonical : Rows2 → Prop
  | .go s _ _ => Canonical s
  | .stop r => ResCanonical r

theorem ResCanonical.ite {c : Prop} [Decidable c] {a b : Res} (ha : ResCanonical a) (hb : ResCanonical b) :
    ResCanonical (if c then a else b) := by
  split <;> assumption

theorem loadOut_canonical {v : Env} {regs : List Nat} {target : Tag} {whole : Bool} {els : List FillElem} {ps : List Placed} :
    OutCanonical (loadOut v regs target whole els ps) := by
  intro s h
  simp only [loadOut]
  exact h.touchAll.modSlice.beginFill

theorem Canonical.winLoad {v : Env} {s : State} {size count : Nat} {lanes regs : List Nat} {target : Tag} {whole : Bool} (h : Canonical s) :
    ResCanonical (winLoad v s size count lanes regs target whole) := by
  unfold Machine.winLoad
  split
  · next hg => exact h.winGate_stop hg
  split
  · trivial
  split
  · exact h
  · exact loadOut_canonical

theorem Canonical.globalLoad {v : Env} {s : State} {size count : Nat} {lanes regs : List Nat} {target : Tag} {whole : Bool} (h : Canonical s) :
    ResCanonical (globalLoad v s size count lanes regs target whole) := by
  grind [globalLoad, Canonical.checkGlobal_go, Canonical.checkGlobal_stop, Canonical.recallFor, loadOut_canonical, ResCanonical]

theorem Canonical.execLd {f : Fields} {s : State} (h : Canonical s) : Lands (execLd f s) := by
  grind [execLd, Canonical.runInstr, Canonical.globalLoad, Lands]

theorem Canonical.execLds {f : Fields} {s : State} (h : Canonical s) : Lands (execLds f s) := by
  grind [execLds, Canonical.runInstr, Canonical.winLoad, Lands]

theorem Canonical.execLdu {f : Fields} {s : State} (h : Canonical s) : Lands (execLdu f s) := by
  grind [execLdu, Canonical.runInstr, Canonical.winLoad, Canonical.globalLoad, Lands, ResCanonical, OutCanonical]

theorem Canonical.globalStore {v : Env} {s : State} {es : List MElem} {data : MElem → List Byte} (h : Canonical s) :
    ResCanonical (globalStore v s es data) := by
  grind [globalStore, Canonical.checkGlobal_go, Canonical.checkGlobal_stop, Canonical.storeParts, ResCanonical, OutCanonical]

theorem Canonical.winStore {v : Env} {s : State} {g : WinGate} {data : MElem → List Byte} (h : Canonical s) (hg : WinGateCanonical g) :
    ResCanonical (winStore v s g data) := by
  unfold Machine.winStore
  split
  · exact hg
  split
  · exact h
  · exact fun _ hs => hs.winStoreAll

theorem Canonical.execSt {f : Fields} {s : State} (h : Canonical s) : Lands (execSt f s) := by
  grind [execSt, Canonical.runInstr, Canonical.globalStore, Lands]

theorem Canonical.execSts {f : Fields} {s : State} (h : Canonical s) : Lands (execSts f s) :=
  h.runInstr fun _ _ => h.winStore h.winGate

theorem Canonical.readAsLd {s : State} {v : Env} {va n : Nat} {act : BitVec 4} (h : Canonical s) :
    FetchedCanonical (s.readAsLd v va n act) := by
  unfold State.readAsLd
  simp only
  split
  · next r hg =>
    have hr := h.checkGlobal_stop hg
    cases r <;> exact hr
  · next hg =>
    have h1 := h.checkGlobal_go hg
    split
    · exact h1
    split
    · exact h1.recallFor
    · refine Canonical.foldl_fst (fun p a hp => ?_) h1.recallFor
      split
      · split
        · exact hp.modBlock fun b hb => by rwa [Block.touch_window]
        · exact hp.homeRead.noteStamp.noteSeen
      · exact hp.hostFetch
      · exact hp
      · exact hp

theorem Canonical.readAsLd_got {s : State} {v : Env} {va n : Nat} {act : BitVec 4} {t : State} {xs : List Byte} (h : Canonical s)
    (hg : s.readAsLd v va n act = .got t xs) : Canonical t := by
  have hk : FetchedCanonical (s.readAsLd v va n act) := h.readAsLd
  rwa [hg] at hk

theorem Canonical.readAsLd_stop {s : State} {v : Env} {va n : Nat} {act : BitVec 4} {out : Res} (h : Canonical s)
    (hg : s.readAsLd v va n act = .stop out) : ResCanonical out := by
  have hk : FetchedCanonical (s.readAsLd v va n act) := h.readAsLd
  rwa [hg] at hk

theorem Canonical.tensorGate {s : State} {v : Env} (h : Canonical s) : TensorGateCanonical (s.tensorGate v) := by
  grind [State.tensorGate, Canonical.readAsLd_got, Canonical.readAsLd_stop, Canonical.readAsLd, TensorGateCanonical, ResCanonical]

theorem Canonical.tensorGate_go {s : State} {v : Env} {t : State} {r : TensorRec} {es : List TElem} (h : Canonical s)
    (hg : s.tensorGate v = .go t r es) : Canonical t := by
  have hk : TensorGateCanonical (s.tensorGate v) := h.tensorGate
  rwa [hg] at hk

theorem Canonical.tensorGate_stop {s : State} {v : Env} {out : Res} (h : Canonical s) (hg : s.tensorGate v = .stop out) : ResCanonical out := by
  have hk : TensorGateCanonical (s.tensorGate v) := h.tensorGate
  rwa [hg] at hk

theorem Canonical.coordSticky {v : Env} {rank : Nat} {s : State} (h : Canonical s) : Canonical (Env.coordSticky v rank s) := by
  grind [Env.coordSticky, Canonical.modSlice]

theorem Canonical.execTld {f : Fields} {s : State} (h : Canonical s) : Lands (execTld f s) := by
  refine h.runInstr fun v _ => ?_
  split
  · next hg => exact h.tensorGate_stop hg
  · next hg =>
    have h1 := h.tensorGate_go hg
    have hout : ∀ regs els ps rels rank, OutCanonical
        { loadOut v regs .g false els ps with rels := rels, eff := fun s => v.coordSticky rank ((loadOut v regs .g false els ps).eff s) } :=
      fun _ _ _ _ _ s hs => (loadOut_canonical s hs).coordSticky
    simp only
    split
    · exact h1
    split
    · split
      · next hw => exact h1.winGate_stop hw
      split
      · exact h1
      split
      · exact h1
      · exact ⟨h1, hout _ _ _ _ _⟩
    · split
      · next hc => exact h1.checkGlobal_stop hc
      · next hc =>
        have h2 := h1.checkGlobal_go hc
        split
        · exact h2
        · exact ⟨h2.recallFor, hout _ _ _ _ _⟩

theorem Canonical.tstSticky {v : Env} {wide : Bool} {s : State} (h : Canonical s) : Canonical (Env.tstSticky v wide s) := by
  grind [Env.tstSticky, Canonical.modSlice]

theorem ResCanonical.wrapOut {r : Res} {s1 : State} {rels : List Nat} {g : State → State} (h1 : Canonical s1)
    (hg : ∀ s, Canonical s → Canonical (g s)) : ResCanonical r → ResCanonical (match r with
      | .done o => Res.doneIn s1 { o with rels := rels, eff := fun s => g (o.eff s) }
      | .doneIn s2 o => Res.doneIn s2 { o with rels := rels, eff := fun s => g (o.eff s) }
      | q => q) := by
  intro h
  cases r with
  | done o => exact ⟨h1, fun s hs => hg _ (h s hs)⟩
  | doneIn s2 o => exact ⟨h.1, fun s hs => hg _ (h.2 s hs)⟩
  | raise | raiseIn | wait => exact h

theorem Canonical.execTst {f : Fields} {s : State} (h : Canonical s) : Lands (execTst f s) := by
  refine h.runInstr fun v _ => ?_
  split
  · next hg => exact h.tensorGate_stop hg
  · next hg =>
    have h1 := h.tensorGate_go hg
    simp only
    split
    · exact h1
    · exact h1
    split
    · exact ResCanonical.wrapOut h1 (fun _ hs => hs.coordSticky.tstSticky) (h1.winStore h1.winGate)
    · exact ResCanonical.wrapOut h1 (fun _ hs => hs.coordSticky.tstSticky) h1.globalStore

theorem Canonical.prefetch {s : State} {v : Env} {va : Nat} {core : Bool} (h : Canonical s) : Canonical (s.prefetch v va core) := by
  grind [State.prefetch, Canonical.verdict, Canonical.send, Canonical.wayFor, Canonical.modLine]

theorem Canonical.execPrf {f : Fields} {s : State} (h : Canonical s) : Lands (execPrf f s) := by
  grind [execPrf, Canonical.runInstr, doneEff_canonical, Canonical.prefetch, Canonical.foldl, Lands]

theorem Canonical.pinOne {s : State} {v : Env} {va : Nat} (h : Canonical s) : Canonical (s.pinOne v va).1 := by
  grind [State.pinOne, Canonical.verdict, Canonical.modLine, Canonical.pinRoom, Canonical.wayFor]

theorem Canonical.pinLanes {s : State} {v : Env} (h : Canonical s) : Canonical (s.pinLanes v).1 :=
  Canonical.foldl_fst (fun _ _ hp => hp.pinOne) h

theorem Canonical.execPin {f : Fields} {s : State} (h : Canonical s) : Lands (execPin f s) := by
  grind [execPin, Canonical.runInstr, Canonical.pinLanes, Canonical.predRes, Lands, ResCanonical, OutCanonical]

theorem Canonical.unpinOne {s : State} {v : Env} {va : Nat} (h : Canonical s) : Canonical (s.unpinOne v va) := by
  grind [State.unpinOne, Canonical.walk, Canonical.modLine]

theorem Canonical.execUnpin {f : Fields} {s : State} (h : Canonical s) : Lands (execUnpin f s) := by
  grind [execUnpin, Canonical.runInstr, doneEff_canonical, Canonical.unpinOne, Canonical.foldl, Lands]

theorem Canonical.execWaitc {f : Fields} {s : State} (h : Canonical s) : Lands (execWaitc f s) := by
  grind [execWaitc, Canonical.runInstr, Lands, ResCanonical, OutCanonical]

theorem Canonical.execPres {f : Fields} {s : State} (h : Canonical s) : Lands (execPres f s) := by
  refine h.runInstr fun v _ => ?_
  simp only
  split
  · split
    · trivial
    · exact fun _ h => h
  split
  · exact fun _ h => h
  split
  · trivial
  · refine doneEff_canonical fun s hs => hs.modBlock fun b hb => ?_
    rwa [Block.foldl_window fun b i => Block.setPresence_window ..]

theorem Canonical.barGate {s : State} {v : Env} {act : BitVec 4} (h : Canonical s) : WinGateCanonical (s.barGate v act) := by
  unfold State.barGate
  simp only
  split
  · trivial
  split
  · trivial
  split
  · trivial
  · exact h.presenceGate

theorem Canonical.barGate_stop {s : State} {v : Env} {act : BitVec 4} {out : Res} (h : Canonical s) (hg : s.barGate v act = .stop out) :
    ResCanonical out := by
  have hk : WinGateCanonical (s.barGate v act) := h.barGate
  rwa [hg] at hk

theorem Canonical.putObj {s : State} {v : Env} {o : Nat} {x : BarObj} (h : Canonical s) : Canonical (s.putObj v o x) :=
  h.modBlock fun _ hb => Block.winStore_wf hb

theorem Canonical.execBinit {f : Fields} {s : State} (h : Canonical s) : Lands (execBinit f s) := by
  refine h.runInstr fun v _ => ?_
  split
  · exact fun _ h => h
  split
  · next hg => exact h.barGate_stop hg
  · exact doneEff_canonical fun _ hs => hs.putObj

theorem Canonical.execBexp {f : Fields} {s : State} (h : Canonical s) : Lands (execBexp f s) := by
  refine h.runInstr fun v _ => ?_
  split
  · exact fun _ h => h
  split
  · next hg => exact h.barGate_stop hg
  simp only
  split
  · trivial
  split
  · trivial
  · exact doneEff_canonical fun _ hs => hs.putObj

theorem Canonical.barrGate {s : State} {v : Env} (h : Canonical s) : WinGateCanonical (s.barrGate v) := by
  grind [State.barrGate, Canonical.barGate_stop, Canonical.barGate, WinGateCanonical, ResCanonical]

theorem Canonical.barrGate_stop {s : State} {v : Env} {out : Res} (h : Canonical s) (hg : s.barrGate v = .stop out) : ResCanonical out := by
  have hk : WinGateCanonical (s.barrGate v) := h.barrGate
  rwa [hg] at hk

theorem Canonical.execBarr {f : Fields} {s : State} (h : Canonical s) : Lands (execBarr f s) := by
  refine h.runInstr fun v _ => ?_
  have hrel := fun scope => h.release (v := v) (scope := scope)
  split
  · exact fun _ h => h
  split
  · next hg => exact h.barrGate_stop hg
  simp only
  split
  · next hr => exact (hr ▸ hrel _ :)
  · next s1 _ hr =>
    have h1 : Canonical s1 := (hr ▸ hrel _ :)
    split
    · exact h1
    split
    · exact h1
    · exact ⟨h1, fun _ hs => hs.putObj⟩

theorem Canonical.barTest {v : Env} {s : State} {f : Bool → Res} (h : Canonical s) (hf : ∀ done, ResCanonical (f done)) :
    ResCanonical (barTest v s f) := by
  unfold Machine.barTest
  split
  · trivial
  split
  · next hg => exact h.barGate_stop hg
  simp only
  split
  · trivial
  · exact hf _

theorem Canonical.barFound {v : Env} {scope : Scope} {s : State} {o : Out} (h : Canonical s) (ho : OutCanonical o) :
    ResCanonical (barFound v scope s o) := by
  have ha := h.acquireThen (v := v) (scope := scope) (x := 1) (mine := none) ho
  unfold Machine.barFound
  split
  · next hw => rw [hw] at ha; exact Canonical.modSlice ha
  · exact ha

theorem Canonical.execBwait {f : Fields} {s : State} (h : Canonical s) : Lands (execBwait f s) := by
  refine h.runInstr fun v _ => ?_
  simp only
  split
  · exact h.acquireThen fun _ h => h
  · exact h.barFound fun _ h => h
  · trivial
  · refine h.barTest fun done => ?_
    split
    · exact h.barFound fun _ h => h
    · exact h.modSlice

theorem Canonical.execBtry {f : Fields} {s : State} (h : Canonical s) : Lands (execBtry f s) := by
  refine h.runInstr fun v _ => ?_
  simp only
  split
  · exact h.acquireThen fun _ h => h
  · exact h.barFound fun _ h => h
  · refine h.barTest fun done => ?_
    split
    · exact h.barFound fun _ h => h
    · exact fun _ h => h

theorem ResCanonical.forLanes {r : Res} {act : BitVec 4} (h : ResCanonical r) : ResCanonical (r.forLanes act) := by
  cases r <;> exact h

theorem Canonical.oneElem {s : State} {v : Env} {va size align : Nat} {kind : Access} {act : BitVec 4} (h : Canonical s) :
    GateCanonical (s.oneElem v va size align kind act) := by
  unfold State.oneElem
  split
  · next hg => exact (h.checkGlobal_stop hg).forLanes
  · exact h.checkGlobal

theorem Canonical.oneElem_go {s : State} {v : Env} {va size align : Nat} {kind : Access} {act : BitVec 4} {t : State} {ps : List Placed}
    (h : Canonical s) (hg : s.oneElem v va size align kind act = .go t ps) : Canonical t := by
  have hk : GateCanonical (s.oneElem v va size align kind act) := h.oneElem
  rwa [hg] at hk

theorem Canonical.oneElem_stop {s : State} {v : Env} {va size align : Nat} {kind : Access} {act : BitVec 4} {out : Res} (h : Canonical s)
    (hg : s.oneElem v va size align kind act = .stop out) : ResCanonical out := by
  have hk : GateCanonical (s.oneElem v va size align kind act) := h.oneElem
  rwa [hg] at hk

theorem Canonical.atPoint {s : State} {v : Env} (h : Canonical s) : Canonical (s.atPoint v) := by
  grind [State.atPoint, Canonical.modSlice]

theorem Canonical.watchBody {v : Env} {s : State} {scope : Scope} {chk size va cond ty : Nat} {val : Dword} (h : Canonical s) :
    ResCanonical (watchBody v s scope chk size va cond ty val) := by
  unfold Machine.watchBody
  extract_lets n els send go
  have hsend : ∀ s, Canonical s → ResCanonical (send s) := by
    intro s hs
    simp only [send]
    split
    · next hg => exact hs.oneElem_stop hg
    · next hg =>
      have h1 := hs.oneElem_go hg
      split
      · exact h1.touchAll.atPoint
      · exact h1.beginFill.modSlice
  clear_value send
  have hgo : ∀ fid, ResCanonical (go fid) := by
    intro fid
    simp only [go]
    split
    · exact h
    · exact h.discardFill
    refine .ite (h.acquireThen fun _ hs => hs.closeFill) (.ite h (hsend _ h.discardFill))
  split
  · exact hgo _
  · exact hgo _
  · split
    · next hg => exact h.oneElem_stop hg
    · next hg =>
      have h1 := h.oneElem_go hg
      split
      · split
        · exact h1
        · simp only
          split
          · exact ⟨h1.homeRead.dropVs, fun _ h => h⟩
          · exact h1.homeRead.atPoint
      · exact h1
  · exact hsend _ h

theorem Canonical.execMwait {f : Fields} {s : State} (h : Canonical s) : Lands (execMwait f s) := by
  grind [execMwait, Canonical.runInstr, Canonical.watchBody, Lands]

theorem Canonical.execTkw {f : Fields} {s : State} (h : Canonical s) : Lands (execTkw f s) := by
  grind [execTkw, Canonical.runInstr, Canonical.watchBody, Lands]

theorem Canonical.combine {s : State} {v : Env} {q : RmwReq} {p : Placed} {d pa : Nat} {leaf : Dword} {x : Nat} (h : Canonical s) :
    Canonical (s.combine v q p d pa leaf x) := by
  grind [State.combine, Canonical.dropV, Canonical.uoHome, Canonical.allocLine, Canonical.dropLineGuests, Canonical.modLine,
    Canonical.modCore]

theorem Canonical.logPoison {s : State} {v : Env} {va : Nat} (h : Canonical s) : Canonical (s.logPoison v va) := by
  grind [State.logPoison, Canonical.log]

theorem Canonical.perform {q : RmwReq} {v : Env} {ordered : Bool} {es : List MElem} {ps : List Placed} {s : State} (h : Canonical s) :
    Canonical (RmwReq.perform q v ordered es ps s) := by
  grind [RmwReq.perform, Canonical.recall, Canonical.modBlock, Canonical.logPoison, Canonical.holdLine, Canonical.fresh, Canonical.combine,
    Canonical.send, Canonical.countIssue, Canonical.dropV, Canonical.uoHome, Canonical.openRoom, WindowKept, Block.touch_window,
    Block.roundWrite_window, Canonical.foldl]

theorem Canonical.commitRmw {s : State} {v : Env} {q : RmwReq} {alloc : Bool} {d pa n k vb vc : Nat} (h : Canonical s) :
    Canonical (s.commitRmw v q alloc d pa n k vb vc).1 := by
  grind [State.commitRmw, Canonical.homeRmw]

theorem Canonical.performNow {q : RmwReq} {v : Env} {commit : Bool} {es : List MElem} {ps : List Placed} {s : State} (h : Canonical s) :
    Canonical (q.performNow v commit es ps s).1 := by
  refine Canonical.foldl_fst (fun p a hp => ?_) h
  simp only
  split
  · split
    · exact hp
    split
    · exact hp.commitRmw.modBlock fun b hb => by rwa [Block.roundWrite_window]
    split
    · exact hp.recall
    · exact hp.recall.holdLine.modBlock fun b hb => by rwa [Block.roundWrite_window]
  · exact hp

theorem Canonical.closed {q : RmwReq} {v : Env} {fid : Nat} {s : State} (h : Canonical s) : Canonical (RmwReq.closed q v fid s) := by
  grind [RmwReq.closed, Canonical.reported, Canonical.closeFill]

theorem Canonical.finish {q : RmwReq} {v : Env} {mk : Fill → Out} {precise : Bool} {fid : Nat} {s : State} (h : Canonical s) :
    ResCanonical (q.finish v mk precise fid s) := by
  have hclosed : ∀ s, Canonical s → Canonical (q.closed v fid s) := fun _ hs => hs.closed
  unfold RmwReq.finish
  split
  · exact h
  split
  · exact h
  split
  · split
    · exact h.discardFill
    simp only
    split
    · exact h.acquireThen fun s hs => (hclosed s hs).modSlice
    · exact ⟨h, fun s hs => (hclosed s hs).modSlice⟩
  · simp only
    split
    · exact h.acquireThen hclosed
    · exact ⟨h, hclosed⟩

theorem Canonical.startHold {q : RmwReq} {v : Env} {counted : Bool} {s : State} {els : List FillElem} {ps : List Placed} {es : List MElem}
    (h : Canonical s) : Canonical (RmwReq.startHold q v counted s els ps es).1 := by
  grind [RmwReq.startHold, Canonical.beginFill, Canonical.modSlice]

theorem Canonical.giveUp {v : Env} {ps : List Placed} {s : State} (h : Canonical s) : Canonical (RmwReq.giveUp v ps s) := by
  grind [RmwReq.giveUp, Canonical.dropV, Canonical.uoHome, Canonical.openRoom, Canonical.foldl]

/-- The window of a block after RMW elements. -/
theorem RmwReq.allOnWindow_wf {q : RmwReq} {sid : Nat} {b : Block} {es : List MElem} (hb : b.window.wf = true) :
    (q.allOnWindow sid b es).1.window.wf = true := by
  unfold RmwReq.allOnWindow
  suffices ∀ p : Block × List (Nat × Bool), p.1.window.wf = true → (es.foldl (fun acc e =>
      let (b1, old, ok) := q.onWindow sid acc.1 e
      (b1, acc.2 ++ [(old, ok)])) p).1.window.wf = true from this _ hb
  induction es with
  | nil => exact fun _ hp => hp
  | cons e es ih => exact fun p hp => ih _ (Block.winStore_wf hp)

/-- The cases of an RMW's progress. -/
theorem ResCanonical.byProgress {p : Prog} {a : Nat → Res} {b : Clock → Dword → Res} {c : Res} (ha : ∀ fid, ResCanonical (a fid))
    (hb : ∀ sample w, ResCanonical (b sample w)) (hc : ResCanonical c) :
    ResCanonical (match p with | .pending fid => a fid | .acquiring sample w => b sample w | _ => c) := by
  split
  exacts [ha _, hb _ _, hc]

theorem Canonical.body {q : RmwReq} {v : Env} {mk : Fill → Out} {precise counted : Bool} {es0 : List MElem} {s : State} (h : Canonical s)
    (hv : v.b.window.wf = true) (hmk : ∀ x, OutCanonical (mk x)) : ResCanonical (q.body v mk precise counted es0 s) := by
  unfold RmwReq.body
  extract_lets +onlyGivenNames d wide regs startHold noLanes
  have hnone : OutCanonical noLanes := by
    simp only [noLanes]
    split
    · exact hmk _
    · exact fun _ h => h
  have hhold : ∀ {s els ps es}, Canonical s → Canonical (startHold s els ps es).1 := fun hs => hs.startHold
  refine ResCanonical.byProgress (fun _ => h.finish) (fun _ _ => ?_) (.ite ?_ ?_)
  · split
    · exact h.acquireThen hnone
    · exact h.finish
  · split
    · next hg => exact h.winGate_stop hg
    · next es hg =>
      split
      · next hr => grind [Canonical.release, ResCanonical]
      · next s1 _ hr =>
        have h1 : Canonical s1 := by grind [Canonical.release]
        split
        · exact h1
        split
        · exact h1.modBlock fun b hb => RmwReq.allOnWindow_wf hb
        split
        · split
          · exact h1.acquireThen hnone
          · exact ⟨h1, hnone⟩
        split
        · exact ⟨h1, fun _ hs => hs.countIssue.modBlock fun b hb => RmwReq.allOnWindow_wf hb⟩
        split
        · exact (hhold (h1.modBlock fun _ _ => RmwReq.allOnWindow_wf hv)).finish
        · refine ⟨h1, fun s hs => ?_⟩
          have hb : ((s.blocks.get? v.bid).getD v.b).window.wf = true := by
            cases hget : s.blocks.get? v.bid with
            | none => exact hv
            | some b => exact hs.get hget
          dsimp only
          exact (hs.modBlock fun _ _ => RmwReq.allOnWindow_wf hb).beginFill
  · split
    · next hg => exact h.checkGlobal_stop hg
    · next s0 ps hg =>
      have h0 := h.checkGlobal_go hg
      extract_lets +onlyGivenNames ord isCommit point
      split
      · exact (hhold h0.performNow.touchAll).finish
      split
      · next hr => grind [Canonical.release, ResCanonical]
      · next s1 _ hr =>
        have h1 : Canonical s1 := by grind [Canonical.release]
        split
        · split
          · exact h1.acquireThen hnone
          · exact ⟨h1, hnone⟩
        split
        · exact h1.touchAll.atPoint
        split
        · split
          · exact h1
          split
          · exact h1
          · exact ⟨h1, fun _ hs => hs.perform⟩
        split
        · exact h1
        split
        · exact h1
        split
        · exact (hhold h1.performNow.touchAll).finish
        split
        · exact h1
        split
        · exact hhold (Canonical.giveUp h1)
        · refine ⟨h1, fun s hs => ?_⟩
          dsimp only
          exact hs.giveUp.modSlice.beginFill

theorem lanesOut_canonical {q : RmwReq} {v : Env} {x : Fill} : OutCanonical (q.lanesOut v x) := fun _ h => h

theorem Canonical.rmwOf {op : Nat} {returns waits unordered point : Bool} {mk : RmwReq → Env → Fill → Out} {v : Env} {s : State}
    (h : Canonical s) (hv : v.b.window.wf = true) (hmk : ∀ q x, OutCanonical (mk q v x)) :
    ResCanonical (rmwOf op returns waits unordered point mk v s) := by
  unfold Machine.rmwOf
  simp only
  split
  · next r hr =>
    split at hr
    · obtain ⟨c, a, m, rfl⟩ : ∃ c a m, r = .raise c a m := by grind [Env.winMisaligned]
      trivial
    · simp at hr
  · exact h.body hv fun x => hmk _ x

theorem Canonical.execAtom {f : Fields} {s : State} (h : Canonical s) : Lands (execAtom f s) := by
  grind [execAtom, Canonical.runInstr, Canonical.rmwOf, lanesOut_canonical, Lands]

theorem Canonical.execBinc {f : Fields} {s : State} (h : Canonical s) : Lands (execBinc f s) := by
  grind [execBinc, Canonical.runInstr, Canonical.rmwOf, lanesOut_canonical, Lands]

theorem Canonical.execWinc {f : Fields} {s : State} (h : Canonical s) : Lands (execWinc f s) := by
  grind [execWinc, Canonical.runInstr, Canonical.rmwOf, lanesOut_canonical, Lands]

theorem Canonical.execDecz {f : Fields} {s : State} (h : Canonical s) : Lands (execDecz f s) := by
  grind [execDecz, Canonical.runInstr, Canonical.rmwOf, lanesOut_canonical, Lands]

theorem faddlOut_canonical {q : RmwReq} {v : Env} {x : Fill} : OutCanonical (faddlOut q v x) := fun _ h => h

theorem Canonical.execFaddl {f : Fields} {s : State} (h : Canonical s) : Lands (execFaddl f s) := by
  grind [execFaddl, Canonical.runInstr, Canonical.rmwOf, faddlOut_canonical, Lands]

theorem Canonical.execFatomO {f : Fields} {s : State} (h : Canonical s) : Lands (execFatomO f s) := by
  grind [execFatomO, Canonical.runInstr, Canonical.rmwOf, lanesOut_canonical, Lands]

theorem Canonical.execFatomU {f : Fields} {s : State} (h : Canonical s) : Lands (execFatomU f s) := by
  grind [execFatomU, Canonical.runInstr, Canonical.rmwOf, lanesOut_canonical, Lands]

theorem Canonical.execRedO {f : Fields} {s : State} (h : Canonical s) : Lands (execRedO f s) := by
  grind [execRedO, Canonical.runInstr, Canonical.rmwOf, lanesOut_canonical, Lands]

theorem Canonical.execRedU {f : Fields} {s : State} (h : Canonical s) : Lands (execRedU f s) := by
  grind [execRedU, Canonical.runInstr, Canonical.rmwOf, lanesOut_canonical, Lands]

theorem Canonical.ticketRmw {v : Env} {s : State} {off : Nat} {q : RmwReq} {mk : Fill → Out} (h : Canonical s)
    (hv : v.b.window.wf = true) (hmk : ∀ x, OutCanonical (mk x)) : ResCanonical (ticketRmw v s off q mk) := by
  have hgo : ∀ {s es}, Canonical s → ResCanonical ((q.body v mk false true es s).forLanes v.act) := fun hs => (hs.body hv hmk).forLanes
  unfold Machine.ticketRmw
  simp only
  split
  · exact hgo h
  · exact hgo h
  split
  · next hg => exact h.oneElem_stop hg
  · next hg => exact hgo (h.oneElem_go hg)

theorem Canonical.execTkt {f : Fields} {s : State} (h : Canonical s) : Lands (execTkt f s) := by
  grind [execTkt, Canonical.runInstr, Canonical.ticketRmw, Lands, ResCanonical, OutCanonical]

theorem Canonical.execTka {f : Fields} {s : State} (h : Canonical s) : Lands (execTka f s) := by
  grind [execTka, Canonical.runInstr, Canonical.ticketRmw, Lands, ResCanonical, OutCanonical]

theorem Canonical.execCommit {f : Fields} {s : State} (h : Canonical s) : Lands (execCommit f s) := by
  grind [execCommit, Canonical.runInstr, Canonical.atPoint, Canonical.acquireThen, Canonical.release, Lands, ResCanonical, OutCanonical]

theorem Canonical.releaseGroup {s : State} {bid : Nat} {blk : Bool} {slot h' : Nat} {g : Group} (h : Canonical s) :
    Canonical (s.releaseGroup bid blk slot h' g) := by
  unfold State.releaseGroup
  simp only
  split
  · exact Canonical.foldl (fun _ _ hs => hs.modBlock fun _ hb => hb) h.putGroup
  · exact h.putGroup.modBlock fun _ hb => hb

theorem Canonical.gsyncBody {v : Env} {s : State} (h : Canonical s) : ResCanonical (gsyncBody v s) := by
  have hrel := fun scope => h.release (v := v) (scope := scope)
  have hnothing : OutCanonical {} := fun _ h => h
  unfold Machine.gsyncBody
  simp only
  split
  · exact h.acquireThen hnothing
  · exact h.acquireThen hnothing
  split
  · trivial
  next blk slot g _ =>
  generalize (if blk = true then v.bid else v.sid) = me
  split
  · trivial
  split
  · trivial
  split
  · split
    · exact h.modSlice.setWaiting.releaseGroup.acquireThen hnothing
    · exact h.modSlice.setWaiting
  split
  · next hr => exact (hr ▸ hrel _ :)
  · next s1 _ hr =>
    have h1 : Canonical s1 := (hr ▸ hrel _ :)
    split
    · exact h1.modSlice.setWaiting.releaseGroup.acquireThen hnothing
    · exact h1.modSlice.setWaiting

theorem Canonical.execGsync {f : Fields} {s : State} (h : Canonical s) : Lands (execGsync f s) := by
  grind [execGsync, Canonical.runInstr, Canonical.gsyncBody, Lands]

theorem Canonical.bad {v : Env} {s : State} {c : Half} (h : Canonical s) : ResCanonical (Env.bad v s c) := by
  grind [Env.bad, ResCanonical]

theorem Canonical.claimBody {v : Env} {s : State} (h : Canonical s) : ResCanonical (claimBody v s) := by
  grind [claimBody, doneEff_canonical, Canonical.modBlock, Canonical.bad, Canonical.modSlice, WindowKept, ResCanonical, OutCanonical]

theorem Canonical.execClaim {f : Fields} {s : State} (h : Canonical s) : Lands (execClaim f s) := by
  grind [execClaim, Canonical.runInstr, Canonical.claimBody, Lands]

theorem Canonical.execRels {f : Fields} {s : State} (h : Canonical s) : Lands (execRels f s) := by
  grind [execRels, Canonical.runInstr, Canonical.bad, doneEff_canonical, Canonical.modBlock, WindowKept, Block.modSlot_window, Lands,
    ResCanonical, OutCanonical]

theorem Canonical.rowGates {s : State} {v : Env} {win : Bool} {kind : Access} {a b : RowSpec} (h : Canonical s) :
    Rows2Canonical (s.rowGates v win kind a b) := by
  grind [State.rowGates, Canonical.presenceGate_stop, Canonical.presenceGate, ResCanonical.forLanes, Canonical.gate_go, Canonical.gate_stop,
    Canonical.gate, Rows2Canonical, ResCanonical]

theorem Canonical.rowGates_go {s : State} {v : Env} {win : Bool} {kind : Access} {a b : RowSpec} {t : State} {ps qs : List Placed}
    (h : Canonical s) (hg : s.rowGates v win kind a b = .go t ps qs) : Canonical t := by
  have hk : Rows2Canonical (s.rowGates v win kind a b) := h.rowGates
  rwa [hg] at hk

theorem Canonical.rowGates_stop {s : State} {v : Env} {win : Bool} {kind : Access} {a b : RowSpec} {out : Res} (h : Canonical s)
    (hg : s.rowGates v win kind a b = .stop out) : ResCanonical out := by
  have hk : Rows2Canonical (s.rowGates v win kind a b) := h.rowGates
  rwa [hg] at hk

theorem Canonical.rowGate {s : State} {v : Env} {win : Bool} {kind : Access} {base : Int} {stride count n : Nat} (h : Canonical s) :
    RowsCanonical (s.rowGate v win kind base stride count n) := by
  grind [State.rowGate, Canonical.rowGates_go, Canonical.rowGates_stop, Canonical.rowGates, RowsCanonical]

theorem Canonical.rowGate_go {s : State} {v : Env} {win : Bool} {kind : Access} {base : Int} {stride count n : Nat} {t : State}
    {ps : List Placed} (h : Canonical s) (hg : s.rowGate v win kind base stride count n = .go t ps) : Canonical t := by
  have hk : RowsCanonical (s.rowGate v win kind base stride count n) := h.rowGate
  rwa [hg] at hk

theorem Canonical.rowGate_stop {s : State} {v : Env} {win : Bool} {kind : Access} {base : Int} {stride count n : Nat} {out : Res}
    (h : Canonical s) (hg : s.rowGate v win kind base stride count n = .stop out) : ResCanonical out := by
  have hk : RowsCanonical (s.rowGate v win kind base stride count n) := h.rowGate
  rwa [hg] at hk

theorem Canonical.issueSlotFill {v : Env} {x : SlotFill} {fmt mfmt : SlotFormat} {s : State} (h : Canonical s) :
    Canonical (issueSlotFill v x fmt mfmt s) := by
  grind [issueSlotFill, Canonical.countIssue, Canonical.touchAll, Canonical.fresh, Canonical.modBlock, WindowKept, Block.modSlot_window]

theorem Canonical.sldBody {v : Env} {s : State} (h : Canonical s) : ResCanonical (sldBody v s) := by
  grind [sldBody, Canonical.bad, Canonical.rowGate_go, Canonical.rowGate_stop, Canonical.recallFor, Canonical.issueSlotFill, ResCanonical,
    OutCanonical]

theorem Canonical.execSld {f : Fields} {s : State} (h : Canonical s) : Lands (execSld f s) := by
  grind [execSld, Canonical.runInstr, Canonical.sldBody, Lands]

theorem Canonical.sldsBody {v : Env} {s : State} (h : Canonical s) : ResCanonical (sldsBody v s) := by
  grind [sldsBody, Canonical.bad, Canonical.rowGates_go, Canonical.rowGates_stop, Canonical.recallFor, Canonical.issueSlotFill,
    ResCanonical, OutCanonical]

theorem Canonical.execSlds {f : Fields} {s : State} (h : Canonical s) : Lands (execSlds f s) := by
  grind [execSlds, Canonical.runInstr, Canonical.sldsBody, Lands]

theorem Canonical.enterStream {v : Env} {e : SEntry} {s : State} (h : Canonical s) : Canonical (enterStream v e s) := by
  grind [enterStream, Canonical.modBlock, WindowKept]

theorem Canonical.readSlots {v : Env} {ks : List Nat} {s : State} (h : Canonical s) : Canonical (readSlots v ks s) :=
  h.modBlock fun b hb => by rwa [Block.foldl_window fun b k => Block.modSlot_window ..]

theorem Canonical.mmaBody {v : Env} {s : State} (h : Canonical s) : ResCanonical (mmaBody v s) := by
  grind [mmaBody, Canonical.bad, doneEff_canonical, Canonical.enterStream, Canonical.readSlots, ResCanonical, OutCanonical]

theorem Canonical.execMma {f : Fields} {s : State} (h : Canonical s) : Lands (execMma f s) := by
  grind [execMma, Canonical.runInstr, Canonical.mmaBody, Lands]

theorem Canonical.mmasBody {v : Env} {s : State} (h : Canonical s) : ResCanonical (mmasBody v s) := by
  unfold Machine.mmasBody
  split
  · exact fun _ h => h
  dsimp only
  split
  · exact h.bad
  split
  case h_2 => exact h.bad
  split
  · exact h.bad
  split
  · exact h.bad
  split
  · exact h
  split
  · exact h.bad
  split
  case h_2 => exact h.bad
  split
  · exact h.bad
  split
  · exact h
  split
  · exact h.bad
  split
  · exact h
  · exact doneEff_canonical fun _ hs => hs.readSlots.enterStream

theorem Canonical.execMmas {f : Fields} {s : State} (h : Canonical s) : Lands (execMmas f s) := by
  grind [execMmas, Canonical.runInstr, Canonical.mmasBody, Lands]

theorem Canonical.execMzero {f : Fields} {s : State} (h : Canonical s) : Lands (execMzero f s) := by
  grind [execMzero, Canonical.runInstr, Canonical.bad, doneEff_canonical, Canonical.enterStream, Lands, ResCanonical, OutCanonical]

theorem Canonical.acldBody {v : Env} {s : State} (h : Canonical s) : ResCanonical (acldBody v s) := by
  grind [acldBody, Canonical.bad, Canonical.rowGate_go, Canonical.rowGate_stop, Canonical.recallFor, Canonical.enterStream,
    Canonical.touchAll, ResCanonical, OutCanonical]

theorem Canonical.execAcld {f : Fields} {s : State} (h : Canonical s) : Lands (execAcld f s) := by
  grind [execAcld, Canonical.runInstr, Canonical.acldBody, Lands]

theorem Canonical.execMbat {f : Fields} {s : State} (h : Canonical s) : Lands (execMbat f s) := by
  grind [execMbat, Canonical.runInstr, Canonical.modBlock, WindowKept, Lands, ResCanonical, OutCanonical]

theorem Canonical.batchSeen {v : Env} {n : Word} {s : State} (h : Canonical s) : Canonical (batchSeen v n s) := by
  grind [batchSeen, Canonical.modBlock, WindowKept, Block.observe_window]

theorem Canonical.execMwtb {f : Fields} {s : State} (h : Canonical s) : Lands (execMwtb f s) := by
  grind [execMwtb, Canonical.runInstr, Canonical.acquireThen, Canonical.batchSeen, Canonical.bad, Lands, ResCanonical, OutCanonical]

theorem Canonical.drnBody {x : Bool} {v : Env} {s : State} (h : Canonical s) : ResCanonical (drnBody x v s) := by
  unfold Machine.drnBody
  split
  · exact fun _ h => h
  extract_lets +onlyGivenNames m n win tile pw p1 p2 d
  split
  · exact h.bad
  split
  · exact h.bad
  split
  · exact h.bad
  split
  · exact h.bad
  split
  · next hg => exact h.rowGates_stop hg
  · next hg =>
    have h2 := h.rowGates_go hg
    dsimp only
    split
    · exact h2
    split
    · exact h2
    · refine ⟨h2, fun s hs => ?_⟩
      dsimp only
      refine Canonical.enterStream (Canonical.modSlice ?_)
      split
      · exact hs.touchAll.holdAll
      · exact hs.touchAll

theorem Canonical.execDrn {f : Fields} {s : State} (h : Canonical s) : Lands (execDrn f s) := by
  grind [execDrn, Canonical.runInstr, Canonical.drnBody, Lands]

theorem Canonical.execDrnx {f : Fields} {s : State} (h : Canonical s) : Lands (execDrnx f s) := by
  grind [execDrnx, Canonical.runInstr, Canonical.drnBody, Lands]

theorem Canonical.drnaBody {ordered : Bool} {v : Env} {s : State} (h : Canonical s) : ResCanonical (drnaBody ordered v s) := by
  unfold Machine.drnaBody
  split
  · exact fun _ h => h
  extract_lets +onlyGivenNames h'
  split
  · exact h.bad
  split
  · exact h.bad
  extract_lets +onlyGivenNames tile dt
  split
  · exact h.bad
  split
  · exact h.bad
  split
  · exact h
  · refine doneEff_canonical fun s hs => (Canonical.modBlock hs fun b hb => ?_).enterStream
    split <;> exact hb

theorem Canonical.execDrnaO {f : Fields} {s : State} (h : Canonical s) : Lands (execDrnaO f s) := by
  grind [execDrnaO, Canonical.runInstr, Canonical.drnaBody, Lands]

theorem Canonical.execDrnaU {f : Fields} {s : State} (h : Canonical s) : Lands (execDrnaU f s) := by
  grind [execDrnaU, Canonical.runInstr, Canonical.drnaBody, Lands]

end Sys2Proof.Machine
end

section
/-! Memory stays canonical: the matrix stream, the pod links, tokens and the queue engines. -/

namespace Sys2Proof.Machine

set_option Elab.async false

theorem Lands.ite {c : Prop} [Decidable c] {a b : Host.Outcome State Fault Refusal} (ha : Lands a) (hb : Lands b) :
    Lands (if c then a else b) := by
  split <;> assumption

theorem Canonical.next {s : State} (h : Canonical s) : Lands (.next s) := fun _ ht => Host.Outcome.next.inj ht ▸ h

/-- The state behind the verdicts on the rows of a stream entry is canonical. -/
def StreamPlacesCanonical : StreamPlaces → Prop
  | .go s _ => Canonical s
  | .wait s _ => Canonical s
  | .fail s _ _ => Canonical s

/-- A stop at the read of uniform registers is canonical. -/
def UniRegsCanonical : UniRegs → Prop
  | .got _ => True
  | .stop r => ResCanonical r

theorem Canonical.pieceRead {s : State} {b : Block} {bid sid : Nat} {keys : Dword} {p : Placed} (h : Canonical s) :
    Canonical (s.pieceRead b bid sid keys p).1 := by
  grind [State.pieceRead, Canonical.hostFetch, Canonical.homeRead, Canonical.noteSeen, Canonical.noteStamp]

theorem Canonical.piecesRead {s : State} {b : Block} {bid sid : Nat} {keys : Dword} {ps : List Placed} (h : Canonical s) :
    Canonical (s.piecesRead b bid sid keys ps).1 := by
  unfold State.piecesRead
  simp only
  split
  · exact h
  · exact Canonical.foldl_fst (fun p a hp => by grind [Canonical.pieceRead]) h

theorem Canonical.pieceWrite {s : State} {die core req : Nat} {p : Placed} {data : List Byte} (h : Canonical s) :
    Canonical (s.pieceWrite die core req p data) := by
  grind [State.pieceWrite, Canonical.homeWrite, Canonical.modCore, Canonical.hostWrite, Canonical.holdCxl, Canonical.notePort]

theorem Canonical.clearCovered {s0 : State} {op : Nat} {s : State} {ps : List Placed} (_ : Canonical s0) (hs : Canonical s) :
    Canonical (s0.clearCovered op s ps) := by
  grind [State.clearCovered, Canonical.asOneWrite, Canonical]

theorem Canonical.deliverFault {s : State} {bid sid : Nat} {cause : Half} {addr : Nat} {lanes : BitVec 4} (h : Canonical s) :
    Canonical (s.deliverFault bid sid cause addr lanes) := by
  grind [State.deliverFault, Canonical.log, Canonical.modSlice]

theorem Canonical.slotData {s : State} {b : Block} {bid : Nat} {x : SlotFill} (h : Canonical s) : Canonical (s.slotData b bid x).1 := by
  grind [State.slotData, Canonical.piecesRead]

theorem Canonical.endSlotFill {s : State} {bid fid : Nat} {x : SlotFill} {fault : Bool} {g gm : PSlot → PSlot} (h : Canonical s) :
    Canonical (s.endSlotFill bid fid x fault g gm) := by
  grind [State.endSlotFill, Canonical.issueDone, Canonical.modBlock, WindowKept, Block.modSlot_window]

theorem Canonical.landSlotFill {s : State} {bid fid : Nat} {x : SlotFill} {vals mets : List (List Byte)} (h : Canonical s) :
    Canonical (s.landSlotFill bid fid x vals mets) := by
  grind [State.landSlotFill, Canonical.endSlotFill]

theorem Canonical.faultSlotFill {s : State} {bid fid : Nat} {x : SlotFill} {cause : Half} {addr : Nat} (h : Canonical s) :
    Canonical (s.faultSlotFill bid fid x cause addr) := by
  grind [State.faultSlotFill, Canonical.endSlotFill, Canonical.deliverFault]

theorem Canonical.slotFillEvent {s : State} {bid fid : Nat} {faulty : Bool} (h : Canonical s) : Canonical (s.slotFillEvent bid fid faulty) := by
  grind [State.slotFillEvent, Canonical.slotData, Canonical.landSlotFill, Canonical.faultSlotFill]

theorem Canonical.execSlotFillLand {bid fill : Nat} {s : State} (h : Canonical s) : Lands (execSlotFillLand bid fill s) := by
  grind [execSlotFillLand, Canonical.slotFillEvent, Lands]

theorem Canonical.execSlotFillFault {bid fill : Nat} {s : State} (h : Canonical s) : Lands (execSlotFillFault bid fill s) := by
  grind [execSlotFillFault, Canonical.slotFillEvent, Lands]

theorem Canonical.judgeAt {s : State} {b : Block} {e : SEntry} {kind : Access} {va : Nat} (h : Canonical s) :
    Canonical (s.judgeAt b e kind va).1 := by
  grind [State.judgeAt, Canonical.verdict, Canonical.requestByLeaf]

theorem Canonical.streamPlaces {s : State} {b : Block} {e : SEntry} {kind : Access} {rows : List (Nat × Nat × Nat)} (h : Canonical s) :
    StreamPlacesCanonical (s.streamPlaces b e kind rows) := by
  have hjudged : ∀ l : List (Nat × Nat × Nat × Nat × Nat), Canonical (l.foldl
      (fun (acc : State × List (Nat × Nat × Nat × Nat × Nat × Judge)) p =>
      let (i, k, off, va, n) := p
      let (s1, j) := acc.1.judgeAt b e kind va
      (s1, acc.2 ++ [(i, k, off, va, n, j)])) (s, [])).1 :=
    fun l => Canonical.foldl_fst (fun p a hp => hp.judgeAt) h
  unfold State.streamPlaces
  split
  · exact h
  split
  · exact h
  simp only
  split
  · exact hjudged _
  split
  · exact hjudged _
  · exact hjudged _

theorem Canonical.streamPlaces_go {s : State} {b : Block} {e : SEntry} {kind : Access} {rows : List (Nat × Nat × Nat)} {t : State}
    {ps : List Placed} (h : Canonical s) (hg : s.streamPlaces b e kind rows = .go t ps) : Canonical t := by
  have hk : StreamPlacesCanonical (s.streamPlaces b e kind rows) := h.streamPlaces
  rwa [hg] at hk

theorem Canonical.streamPlaces_wait {s : State} {b : Block} {e : SEntry} {kind : Access} {rows : List (Nat × Nat × Nat)} {t : State}
    {on : List (Nat × Nat)} (h : Canonical s) (hg : s.streamPlaces b e kind rows = .wait t on) : Canonical t := by
  have hk : StreamPlacesCanonical (s.streamPlaces b e kind rows) := h.streamPlaces
  rwa [hg] at hk

theorem Canonical.streamPlaces_fail {s : State} {b : Block} {e : SEntry} {kind : Access} {rows : List (Nat × Nat × Nat)} {t : State} {c : Half}
    {a : Nat} (h : Canonical s) (hg : s.streamPlaces b e kind rows = .fail t c a) : Canonical t := by
  have hk : StreamPlacesCanonical (s.streamPlaces b e kind rows) := h.streamPlaces
  rwa [hg] at hk

theorem Canonical.parkEntry {s : State} {bid : Nat} {e : SEntry} {on : List (Nat × Nat)} (h : Canonical s) :
    Canonical (s.parkEntry bid e on) := by
  grind [State.parkEntry, Canonical.modBlock, WindowKept]

theorem Canonical.drain {s : State} {bid : Nat} {b : Block} {e : SEntry} (h : Canonical s) : Canonical (s.drain bid b e).1 := by
  have hclear : ∀ s, Canonical s → Canonical (s.modBlock bid (fun b => if bitOf (modOf e.f) 7 then
      { b with accWords := clearTile b.accWords e.tile (shapeM e.f) (shapeN e.f) } else b)) := by
    refine fun s hs => hs.modBlock fun b hb => ?_
    split <;> exact hb
  unfold State.drain
  extract_lets +onlyGivenNames rows d clear
  split
  · refine Canonical.modBlock (hclear s h) fun b hb => ?_
    rw [Block.winCovered_window]
    exact Block.foldl_window_wf (fun _ _ hb => Block.winWrite_wf hb) hb
  split
  · next hp => exact (h.streamPlaces_wait hp).parkEntry
  · next hp => exact (hclear _ (h.streamPlaces_fail hp)).deliverFault
  next s1 ps hp =>
  have h1 := h.streamPlaces_go hp
  split
  · exact h1
  extract_lets +onlyGivenNames s2
  have h2 : Canonical s2 := hclear s1 h1
  dsimp only
  split
  · refine Canonical.foldl (fun s p hs => ?_) h2
    split
    · exact hs.holdAll.modBlock fun b hb => by rwa [Block.lateWrite_window]
    · split
      · exact hs
      · exact hs.pieceWrite
  · exact Canonical.clearCovered h2 (Canonical.foldl (fun s p hs => hs.dropV.pieceWrite) h2)

theorem Canonical.acload {s : State} {bid : Nat} {b : Block} {e : SEntry} (h : Canonical s) : Canonical (s.acload bid b e).1 := by
  grind [State.acload, Canonical.deliverFault, Canonical.modBlock, Canonical.streamPlaces_go, Canonical.streamPlaces_wait,
    Canonical.streamPlaces_fail, Canonical.parkEntry, Canonical.piecesRead, WindowKept]

theorem Canonical.execStreamEntryBegin {bid : Nat} {s : State} (h : Canonical s) : Lands (execStreamEntryBegin bid s) := by
  grind [execStreamEntryBegin, Canonical.modBlock, WindowKept, Block.setEntry_window, Lands]

theorem Canonical.execDrnaGrant {bid : Nat} {s : State} (h : Canonical s) : Lands (execDrnaGrant bid s) := by
  grind [execDrnaGrant, Canonical.modBlock, WindowKept, Block.setEntry_window, Lands]

theorem State.streamTurn_block {s : State} {bid i : Nat} {b : Block} {e : SEntry} (ht : s.streamTurn bid = some (b, i, e)) :
    s.blocks.get? bid = some b := by
  unfold State.streamTurn at ht
  grind [Option.map_eq_some_iff]

theorem Canonical.execSlotOperandReadEnd {bid : Nat} {s : State} (h : Canonical s) : Lands (execSlotOperandReadEnd bid s) := by
  unfold Machine.execSlotOperandReadEnd
  split
  · exact h.next
  · next b i e ht =>
    have hb : b.window.wf = true := h.get (State.streamTurn_block ht)
    split
    · exact h.next
    · exact (Canonical.modBlock h fun _ _ => by rwa [Block.dropReads_window, Block.setEntry_window]).next

theorem Canonical.sendDrna {s : State} {bid : Nat} {b : Block} {i : Nat} {e : SEntry} (h : Canonical s) : Canonical (s.sendDrna bid b i e) := by
  grind [State.sendDrna, Canonical.fresh, Canonical.modBlock, WindowKept, Block.setEntry_window, Canonical]

theorem Canonical.execStreamEntryComplete {bid : Nat} {s : State} (h : Canonical s) : Lands (execStreamEntryComplete bid s) := by
  grind [execStreamEntryComplete, Canonical.modBlock, Canonical.acload, Canonical.drain, Canonical.sendDrna, WindowKept, Lands]

theorem Canonical.addSaved {s : State} {bid : Nat} {b : Block} {a : Addition} (h : Canonical s) : Canonical (s.addSaved bid b a) := by
  grind [State.addSaved, Canonical.savedWrite, Canonical.foldl]

theorem Canonical.drnaDone {s : State} {add : Nat} {a : Addition} (h : Canonical s) : Canonical (s.drnaDone add a) := by
  grind [State.drnaDone, Canonical.modBlock, WindowKept, Canonical]

theorem Canonical.execDrnaAddition {add : Nat} {s : State} (h : Canonical s) : Lands (execDrnaAddition add s) := by
  unfold Machine.execDrnaAddition
  split
  · exact h.next
  next a _ =>
  extract_lets early s1 e lost mark
  have h1 : Canonical s1 := h.drnaDone
  have hlost : Canonical lost := by
    simp only [lost]
    clear_value e
    cases e with
    | none => exact h1
    | some e => exact h1.deliverFault
  have hmark : ∀ s, Canonical s → Canonical (mark s) := fun s hs => hs.modBlock fun b hb => by split <;> exact hb
  split
  · exact h.next
  split
  · exact hlost.next
  split
  · exact hlost.next
  · exact (hmark _ h1.addSaved).next
  · exact .ite h.next (Canonical.next (hmark _ (Canonical.modBlock h1 fun _ hb => hb)))

theorem Canonical.modPair {s : State} {die peer : Nat} {f : Pair → Pair} (h : Canonical s) : Canonical (s.modPair die peer f) := by
  grind [State.modPair, Canonical]

theorem Canonical.emit {s : State} {port : Nat} {p : Packet} (h : Canonical s) : Canonical (s.emit port p) := by
  grind [State.emit, Canonical]

theorem Canonical.sendPeer {s : State} {r : PeerReq} (h : Canonical s) : Canonical (s.sendPeer r) := by
  grind [State.sendPeer, Canonical.fresh, Canonical.modPair, Canonical.emit]

theorem Canonical.failOut {s : State} {o : Outstanding} {cause : Half} (h : Canonical s) : Canonical (s.failOut o cause) := by
  grind [State.failOut, Canonical.modEntry, Canonical.fillFaulted, Canonical.failRelease, Canonical.log, Canonical.issueDone]

theorem Canonical.failPair {s : State} {die peer : Nat} {cause : Half} (h : Canonical s) : Canonical (s.failPair die peer cause) := by
  grind [State.failPair, Canonical.modPair, Canonical.failOut, Canonical.foldl]

theorem Canonical.peerReply {s : State} {p : Packet} (h : Canonical s) : Canonical (s.peerReply p) := by
  grind [State.peerReply, Canonical.modPair, Canonical.modEntry, Canonical.fillPart, Canonical.issueDone, Canonical.failOut]

theorem Canonical.execPacketReply {port : Nat} {pkt : Packet} {s : State} (h : Canonical s) : Lands (execPacketReply port pkt s) := by
  grind [execPacketReply, Canonical.peerReply, Lands]

theorem Canonical.peerVerdicts {s : State} {ctx die : Nat} {k : Access} {keys : Dword} {xs : List (Nat × Nat)} (h : Canonical s) :
    Canonical (s.peerVerdicts ctx die k keys xs).1 := by
  induction xs generalizing s with
  | nil => exact h
  | cons x xs ih =>
    have hv := h.verdict (ctx := ctx) (o := .own die) (va := x.1) (k := k) (keys := keys) (cls := .peer)
    unfold State.peerVerdicts
    split
    · next s1 l hs =>
      rw [hs] at hv
      have hr := ih hv
      split
      · next hq => rwa [hq] at hr
      · exact hr
    · next hs => rwa [hs] at hv
    · next hs => rwa [hs] at hv

theorem Canonical.peerRead {s : State} {die : Nat} {xs : List (Nat × Nat × Dword)} (h : Canonical s) : Canonical (s.peerRead die xs).1 := by
  induction xs generalizing s with
  | nil => exact h
  | cons x xs ih => exact ih h.recallRange

theorem Canonical.peerWrite {s : State} {die : Nat} {xs : List (Nat × Nat × Dword)} {ys : List Byte} (h : Canonical s) :
    Canonical (s.peerWrite die xs ys) := by
  induction xs generalizing s ys with
  | nil => exact h
  | cons x xs ih => exact ih h.homeStoreAs

theorem Canonical.targetPerform {s : State} {p : Packet} (h : Canonical s) : Canonical (s.targetPerform p).1 := by
  grind [State.targetPerform, Canonical.peerVerdicts, Canonical.peerRead, Canonical.peerWrite, Canonical.homeRmw]

theorem Canonical.targetRequest {s : State} {port : Nat} {hold : Bool} {p : Packet} (h : Canonical s) :
    Canonical (s.targetRequest port hold p).1 := by
  grind [State.targetRequest, Canonical.modDie, Canonical.targetPerform]

theorem Canonical.takeRequest {s : State} {port : Nat} {hold : Bool} {p : Packet} (h : Canonical s) : Canonical (s.takeRequest port hold p) := by
  grind [State.takeRequest, Canonical.targetRequest, Canonical.emit]

theorem Canonical.execPacketRequest {port : Nat} {pkt : Packet} {s : State} (h : Canonical s) : Lands (execPacketRequest port pkt s) := by
  grind [execPacketRequest, Canonical.takeRequest, Lands]

theorem Canonical.acceptPeer {port : Nat} {pkt : Packet} {s : State} (h : Canonical s) : Lands (acceptPeer port pkt s) := by
  grind [acceptPeer, Canonical.takeRequest, Lands]

theorem Canonical.performPeer {die src : Nat} {seq : Word} {s : State} (h : Canonical s) : Lands (performPeer die src seq s) := by
  grind [performPeer, Canonical.targetPerform, Canonical.emit, Canonical.modDie, Lands]

theorem Canonical.execReplayTimeout {die peer : Nat} {s : State} (h : Canonical s) : Lands (execReplayTimeout die peer s) := by
  grind [execReplayTimeout, Canonical.failPair, Canonical.modPair, Canonical.emit, Canonical.foldl, Lands]

theorem Canonical.execPetixaRetrain {port width : Nat} {s : State} (h : Canonical s) : Lands (execPetixaRetrain port width s) := by
  grind [execPetixaRetrain, Canonical.modDie, Lands]

theorem Canonical.takePacket {s : State} {port : Nat} {p : Packet} (h : Canonical s) : Canonical (s.takePacket port p) := by
  grind [State.takePacket, Canonical.takeRequest, Canonical.peerReply]

theorem Canonical.parseRx {port n : Nat} {s : State} {xs : List Byte} (h : Canonical s) : Canonical (State.parseRx port n s xs).1 := by
  induction n generalizing s xs with
  | zero => exact h
  | succ n ih => grind [State.parseRx, Canonical.takePacket]

theorem Canonical.modLink {s : State} {port : Nat} {f : LinkPort → LinkPort} (h : Canonical s) : Canonical (s.modLink port f) := by
  grind [State.modLink, Canonical]

theorem Canonical.execFlitNak {port seq : Nat} {s : State} (h : Canonical s) : Lands (execFlitNak port seq s) := by
  grind [execFlitNak, Canonical.modLink, Lands]

theorem Canonical.execFlitReceive {port : Nat} {flit : List Byte} {s : State} (h : Canonical s) : Lands (execFlitReceive port flit s) := by
  grind [execFlitReceive, Canonical.modLink, Canonical.parseRx, Lands]

theorem Canonical.beginRemote {s : State} {v : Env} {regs : List Nat} {target : Tag} {els : List FillElem} {ps : List Placed}
    {mk : Placed → Req → Req} {rs : List (Nat × PeerReq)} (h : Canonical s) : Canonical (s.beginRemote v regs target els ps mk rs).1 := by
  grind [State.beginRemote, Canonical.beginFill, Canonical.sendPeer, Canonical.foldl]

theorem Canonical.execRld {f : Fields} {s : State} (h : Canonical s) : Lands (execRld f s) := by
  grind [execRld, Canonical.runInstr, Canonical.beginRemote, Canonical.modSlice, Lands, ResCanonical, OutCanonical]

theorem Canonical.execRst {f : Fields} {s : State} (h : Canonical s) : Lands (execRst f s) := by
  grind [execRst, Canonical.runInstr, Canonical.countIssue, Canonical.send, Canonical.sendPeer, Canonical.foldl, Lands, ResCanonical,
    OutCanonical]

theorem Canonical.ratmBody {v : Env} {s : State} (h : Canonical s) : ResCanonical (ratmBody v s) := by
  grind [ratmBody, Canonical.reported, Canonical.acquireThen, lanesOut_canonical, Canonical.finish, Canonical.release,
    Canonical.beginRemote, Canonical.modSlice, ResCanonical, OutCanonical]

theorem Canonical.execRatm {f : Fields} {s : State} (h : Canonical s) : Lands (execRatm f s) := by
  grind [execRatm, Canonical.runInstr, Canonical.ratmBody, Lands]

theorem Canonical.observeToken {s : State} {v : Env} {t : Dword} {w : TokView} (h : Canonical s) : Canonical (s.observeToken v t w) := by
  refine Canonical.modBlock ?_ fun b hb => by rwa [Block.observe_window]
  split
  · exact h.noteSeen
  · exact h

theorem Canonical.tokenAcquire {v : Env} {s : State} {t : Dword} {w : TokView} {o : Out} (h : Canonical s) (ho : OutCanonical o) :
    ResCanonical (tokenAcquire v s t w o) := by
  unfold Machine.tokenAcquire
  split
  · exact ⟨h.observeToken, ho⟩
  · exact h.observeToken.acquireThen ho

theorem Canonical.execTokw {f : Fields} {s : State} (h : Canonical s) : Lands (execTokw f s) := by
  grind [execTokw, Canonical.runInstr, Canonical.acquireThen, Canonical.tokenAcquire, Lands, OutCanonical, ResCanonical]

theorem Canonical.execTokt {f : Fields} {s : State} (h : Canonical s) : Lands (execTokt f s) := by
  grind [execTokt, Canonical.runInstr, Canonical.acquireThen, Canonical.tokenAcquire, Lands, OutCanonical, ResCanonical]

theorem Canonical.execTokr {f : Fields} {s : State} (h : Canonical s) : Lands (execTokr f s) := by
  grind [execTokr, Canonical.runInstr, Lands, ResCanonical, OutCanonical]

theorem Canonical.issueLines {s : State} {die : Nat} {ls : List (Nat × Nat)} (h : Canonical s) : Canonical (s.issueLines die ls) := by
  grind [State.issueLines, Canonical.modPresence, Canonical.foldl]

theorem Canonical.issueEntry {v : Env} {s : State} {queue owner : Nat} {scope : Scope} {det : Bool} {kind : EntryKind} {ls : List (Nat × Nat)}
    {rels : List Nat} {sticky : Bool} (h : Canonical s) : ResCanonical (issueEntry v s queue owner scope det kind ls rels sticky) := by
  grind [issueEntry, tokenOut_canonical, Canonical.fresh, Canonical.modSlice, Canonical.issueLines, Canonical, ResCanonical, OutCanonical]

theorem Canonical.nullToken {v : Env} : ResCanonical (nullToken v) := by
  grind [nullToken, ResCanonical, OutCanonical]

theorem Canonical.execCpy {f : Fields} {s : State} (h : Canonical s) : Lands (execCpy f s) := by
  grind [execCpy, Canonical.runInstr, Canonical.nullToken, Canonical.issueEntry, Lands, ResCanonical]

theorem Canonical.uniRegs {v : Env} {s : State} {k n : Nat} (h : Canonical s) : UniRegsCanonical (Env.uniRegs v s k n) := by
  grind [Env.uniRegs, UniRegsCanonical, ResCanonical]

theorem Canonical.uniRegs_stop {v : Env} {s : State} {k n : Nat} {out : Res} (h : Canonical s) (hg : Env.uniRegs v s k n = .stop out) :
    ResCanonical out := by
  have hk : UniRegsCanonical (Env.uniRegs v s k n) := h.uniRegs
  rwa [hg] at hk

theorem Canonical.cptIssue {v : Env} {s : State} {r : TensorRec} {recv : List Nat} {xs : List Int} (h : Canonical s) :
    ResCanonical (cptIssue v s r recv xs) := by
  grind [cptIssue, Canonical.issueEntry, ResCanonical]

theorem Canonical.execCpt {f : Fields} {s : State} (h : Canonical s) : Lands (execCpt f s) := by
  refine h.runInstr fun v _ => ?_
  dsimp only
  split
  · exact Canonical.nullToken
  split
  · trivial
  split
  · next hr => exact h.readAsLd_stop hr
  next hr =>
  have h1 := h.readAsLd_got hr
  refine .ite h1 ?_
  split
  · next hu => exact h1.uniRegs_stop hu
  split
  · exact h1
  · exact h1.cptIssue

theorem Canonical.cpgBody {gather : Bool} {v : Env} {s : State} (h : Canonical s) : ResCanonical (cpgBody gather v s) := by
  grind [cpgBody, Canonical.nullToken, Canonical.readAsLd_got, Canonical.readAsLd_stop, Canonical.issueEntry, ResCanonical]

theorem Canonical.execCpg {f : Fields} {s : State} (h : Canonical s) : Lands (execCpg f s) := by
  grind [execCpg, Canonical.runInstr, Canonical.cpgBody, Lands]

theorem Canonical.execCps {f : Fields} {s : State} (h : Canonical s) : Lands (execCps f s) := by
  grind [execCps, Canonical.runInstr, Canonical.cpgBody, Lands]

theorem Canonical.execQfen {f : Fields} {s : State} (h : Canonical s) : Lands (execQfen f s) := by
  grind [execQfen, Canonical.runInstr, Canonical.nullToken, Canonical.issueEntry, Lands, ResCanonical]

theorem Canonical.qcanEntry {v : Env} {s : State} {eid : Nat} {e : Entry} (h : Canonical s) : ResCanonical (qcanEntry v s eid e) := by
  grind [qcanEntry, Canonical.modEntry, Canonical.failEntry, Canonical.modSlice, ResCanonical]

theorem Canonical.qcanToken {v : Env} {s : State} {t : Dword} (h : Canonical s) : ResCanonical (qcanToken v s t) := by
  grind [qcanToken, Canonical.cancelNode, Canonical.laye, Canonical.qcanEntry, ResCanonical, OutCanonical]

theorem Canonical.execQcan {f : Fields} {s : State} (h : Canonical s) : Lands (execQcan f s) := by
  grind [execQcan, Canonical.runInstr, Canonical.qcanToken, Lands, ResCanonical, OutCanonical]

theorem Canonical.mapEng {α β : Type} {s : State} {f : State → β → State × EngRes α} {xs : List β}
    (hf : ∀ s x, Canonical s → Canonical (f s x).1) (h : Canonical s) : Canonical (s.mapEng f xs).1 :=
  Canonical.foldl_fst (fun _ _ hp => hf _ _ hp) h

theorem Canonical.engVerdict {s : State} {eid : Nat} {e : Entry} {k : Access} {o : Owner} {va n : Nat} (h : Canonical s) :
    Canonical (s.engVerdict eid e k o va n).1 := by
  grind [State.engVerdict, Canonical.verdict, Canonical.modEntry, Canonical.requestByLeaf]

theorem Canonical.engPeerRead {s : State} {eid : Nat} {e : Entry} {pkg die va n : Nat} (h : Canonical s) :
    Canonical (s.engPeerRead eid e pkg die va n).1 := by
  grind [State.engPeerRead, Canonical.sendPeer]

theorem Canonical.engMemRead {s : State} {e : Entry} {d pa va n : Nat} {leaf : Dword} (h : Canonical s) :
    Canonical (s.engMemRead e d pa va n leaf).1 := by
  grind [State.engMemRead, Canonical.recall, Canonical.homeRead]

theorem Canonical.engSector {s : State} {eid : Nat} {e : Entry} {q : Nat × Nat} (h : Canonical s) : Canonical (s.engSector eid e q).1 := by
  unfold State.engSector
  split
  · exact h
  · exact h.engPeerRead
  next o _ _ =>
  have hv := h.engVerdict (eid := eid) (e := e) (k := .read) (o := o) (va := q.1) (n := q.2)
  split
  · next s1 p hs =>
    rw [hs] at hv
    split
    · split
      · exact hv
      split
      · exact hv
      · exact hv.engMemRead
    · exact hv.hostFetch
    · exact hv
  · next hs => rwa [hs] at hv
  · next hs => rwa [hs] at hv

theorem Canonical.engRead {s : State} {eid : Nat} {e : Entry} {va n : Nat} (h : Canonical s) : Canonical (s.engRead eid e va n).1 := by
  grind [State.engRead, Canonical.mapEng, Canonical.engSector]

theorem Canonical.gatherRow {s : State} {eid : Nat} {e : Entry} {r : GatherRec} {i : Nat} (h : Canonical s) :
    Canonical (s.gatherRow eid e r i).1 := by
  grind [State.gatherRow, Canonical.engRead]

theorem Canonical.engSegs_rows {eid : Nat} {e : Entry} {s : State} {r : GatherRec} {lo n : Nat} {gather : Bool} (h : Canonical s) :
    Canonical (State.engSegs.rows eid e s r lo n gather).1 := by
  have hm := Canonical.mapEng (f := fun s (q : Nat × Nat × Nat) => s.gatherRow eid e r q.1) (xs := r.rowParts lo n) (fun _ _ hs => hs.gatherRow) h
  grind [State.engSegs.rows]

theorem Canonical.engSegs {s : State} {eid : Nat} {e : Entry} (h : Canonical s) : Canonical (s.engSegs eid e).1 := by
  unfold State.engSegs
  grind [Canonical.engSegs_rows]

theorem Canonical.engSource {s : State} {eid : Nat} {e : Entry} {g : Seg} (h : Canonical s) : Canonical (s.engSource eid e g).1 := by
  grind [State.engSource, Canonical.engRead]

theorem Canonical.engDests {s : State} {eid : Nat} {e : Entry} {g : Seg} (h : Canonical s) : Canonical (s.engDests eid e g).1 := by
  grind [State.engDests, Canonical.mapEng, Canonical.engVerdict]

theorem Canonical.engPiece {s : State} {eid : Nat} {e : Entry} (h : Canonical s) : Canonical (s.engPiece eid e).1 := by
  grind [State.engPiece, Canonical.engSegs, Canonical.mapEng, Canonical.engDests, Canonical.engSource]

theorem Canonical.windowWrite {s : State} {bid o : Nat} {data : List Byte} (h : Canonical s) : Canonical (s.windowWrite bid o data) := by
  grind [State.windowWrite, Canonical.modBlock, Canonical.savedWrite, WindowKept, Block.winWrite_wf]

theorem Canonical.engWrite {s : State} {eid : Nat} {e : Entry} {p : Placed} {data : List Byte} (h : Canonical s) :
    Canonical (s.engWrite eid e p data) := by
  grind [State.engWrite, Canonical.modBlock, Canonical.holdAll, Canonical.homeWrite, Canonical.modEntry, Canonical.hostWrite,
    Canonical.holdCxl, WindowKept, Block.lateWrite_window]

theorem Canonical.engStretch {s : State} {eid : Nat} {e : Entry} {q : Seg × List Byte × List EngDest} (h : Canonical s) :
    Canonical (s.engStretch eid e q) := by
  grind [State.engStretch, Canonical.windowWrite, Canonical.engWrite, Canonical.sendPeer, Canonical.foldl]

theorem Canonical.engLines {s : State} {eid : Nat} {e : Entry} {hi : Nat} (h : Canonical s) : Canonical (s.engLines eid e hi) := by
  grind [State.engLines, Canonical.modPresence, Canonical.modBlock, Canonical.modEntry, WindowKept, Block.lineWritten_window,
    Canonical.foldl]

theorem Canonical.countDelivery {s : State} {bid boff n : Nat} (h : Canonical s) : Canonical (s.countDelivery bid boff n).1 := by
  grind [State.countDelivery, Canonical.windowWrite]

theorem Canonical.engBarriers {s : State} {e : Entry} {n : Nat} (h : Canonical s) : Canonical (s.engBarriers e n).1 := by
  unfold State.engBarriers
  split
  · exact Canonical.foldl_fst (fun _ _ hp => hp.countDelivery) h
  · exact h

theorem Canonical.coverPoison {s : State} {eid : Nat} {e : Entry} {ps : List Placed} (h : Canonical s) : Canonical (s.coverPoison eid e ps) := by
  grind [State.coverPoison, Canonical.modEntry, Canonical]

theorem Canonical.engAdvance {s : State} {eid : Nat} {e : Entry} {ps : List Placed} (h : Canonical s) : Canonical (s.engAdvance eid e ps) := by
  grind [State.engAdvance, Canonical.coverPoison, Canonical.modEntry, Canonical.engLines, Canonical.modTok, Canonical.engBarriers,
    Canonical.failPiece]

theorem Canonical.engPerform {s : State} {eid : Nat} {e : Entry} {p : Piece} (h : Canonical s) : Canonical (s.engPerform eid e p) := by
  grind [State.engPerform, Canonical.asOneWrite, Canonical.engAdvance, Canonical.engStretch, Canonical.foldl]

theorem Canonical.engSend {s : State} {eid : Nat} {e : Entry} {p : Piece} (h : Canonical s) : Canonical (s.engSend eid e p) := by
  grind [State.engSend, Canonical.holdAll, Canonical.modEntry, Canonical.sendPeer, Canonical.foldl]

theorem Canonical.engFinish {s : State} {eid : Nat} {e : Entry} (h : Canonical s) : Canonical (s.engFinish eid e) := by
  grind [State.engFinish, Canonical.failPiece, Canonical.asOneWrite, Canonical.engAdvance, Canonical.engWrite, Canonical.foldl]

theorem Canonical.execEntryTurn {entry : Nat} {s : State} (h : Canonical s) : Lands (execEntryTurn entry s) := by
  grind [execEntryTurn, Canonical.modEntry, Canonical.modTok, Lands]

theorem Canonical.execPieceWrite {entry : Nat} {s : State} (h : Canonical s) : Lands (execPieceWrite entry s) := by
  grind [execPieceWrite, Canonical.engFinish, Canonical.engPiece, Canonical.engPerform, Canonical.engSend, Lands]

theorem Canonical.execPieceFail {entry : Nat} {s : State} (h : Canonical s) : Lands (execPieceFail entry s) := by
  grind [execPieceFail, Canonical.engPiece, Canonical.failPiece, Lands]

theorem Canonical.flushEntry {s : State} {eid : Nat} {e : Entry} (h : Canonical s) : Canonical (s.flushEntry eid e) := by
  refine Canonical.modEntry (Canonical.foldl_fst (fun p a hp => ?_) h)
  exact (Canonical.fresh hp).modPort

theorem Canonical.passToFences {s : State} {eid : Nat} {e : Entry} (h : Canonical s) : Canonical (s.passToFences eid e) := by
  grind [State.passToFences, Canonical]

theorem Canonical.completeEntry {s : State} {eid : Nat} {e : Entry} {failed : Bool} (h : Canonical s) :
    Canonical (s.completeEntry eid e failed) := by
  grind [State.completeEntry, Canonical.flushEntry, Canonical.modTok, Canonical.finishToken, Canonical.modNode, Canonical.passToFences,
    Canonical.modEntry, Canonical]

theorem Canonical.execEntryComplete {entry : Nat} {s : State} (h : Canonical s) : Lands (execEntryComplete entry s) := by
  grind [execEntryComplete, Canonical.completeEntry, Lands]

theorem Canonical.execFenceEntryComplete {entry : Nat} {s : State} (h : Canonical s) : Lands (execFenceEntryComplete entry s) := by
  grind [execFenceEntryComplete, Canonical.completeEntry, Lands]

end Sys2Proof.Machine
end

section
/-! Memory stays canonical: collectives, fetches, kernels and nodes. -/

namespace Sys2Proof.Machine

set_option Elab.async false

/-- The state behind the read of a table of slots is canonical. -/
def TableReadCanonical : TableRead → Prop
  | .got s _ => Canonical s
  | .malformed s => Canonical s
  | .stop r => ResCanonical r

theorem Canonical.readTable {s : State} {v : Env} {va : Nat} {act : BitVec 4} (h : Canonical s) : TableReadCanonical (s.readTable v va act) := by
  unfold State.readTable
  split
  · next hr => exact h.readAsLd_stop hr
  next s1 b hr =>
  have h1 := h.readAsLd_got hr
  dsimp only
  split
  · exact h1
  split
  · next hr => exact h1.readAsLd_stop hr
  · next hr => exact h1.readAsLd_got hr

theorem Canonical.readTable_got {s : State} {v : Env} {va : Nat} {act : BitVec 4} {t : State} {ws : List Word} (h : Canonical s)
    (hg : s.readTable v va act = .got t ws) : Canonical t := by
  have hk : TableReadCanonical (s.readTable v va act) := h.readTable
  rwa [hg] at hk

theorem Canonical.readTable_malformed {s : State} {v : Env} {va : Nat} {act : BitVec 4} {t : State} (h : Canonical s)
    (hg : s.readTable v va act = .malformed t) : Canonical t := by
  have hk : TableReadCanonical (s.readTable v va act) := h.readTable
  rwa [hg] at hk

theorem Canonical.readTable_stop {s : State} {v : Env} {va : Nat} {act : BitVec 4} {out : Res} (h : Canonical s)
    (hg : s.readTable v va act = .stop out) : ResCanonical out := by
  have hk : TableReadCanonical (s.readTable v va act) := h.readTable
  rwa [hg] at hk

theorem Canonical.ringBody {op : Nat} {rcv : Bool} {v : Env} {s : State} (h : Canonical s) : ResCanonical (ringBody op rcv v s) := by
  unfold Machine.ringBody
  extract_lets va bad scope
  refine .ite Canonical.nullToken (.ite h ?_)
  split
  · next hr => exact h.readAsLd_stop hr
  next s1 bytes hr =>
  have h1 := h.readAsLd_got hr
  extract_lets r go
  have hgo : ∀ s slots, Canonical s → ResCanonical (go s slots) := by
    intro s slots hs
    simp only [go]
    split
    · exact hs
    · exact hs.issueEntry
  refine .ite h1 (.ite (hgo _ _ h1) ?_)
  split
  · next ht => exact h1.readTable_stop ht
  · next ht => exact h1.readTable_malformed ht
  · next ht => exact hgo _ _ (h1.readTable_got ht)

theorem Canonical.execRgath {f : Fields} {s : State} (h : Canonical s) : Lands (execRgath f s) := by
  grind [execRgath, Canonical.runInstr, Canonical.ringBody, Lands]

theorem Canonical.execRrscO {f : Fields} {s : State} (h : Canonical s) : Lands (execRrscO f s) := by
  grind [execRrscO, Canonical.runInstr, Canonical.ringBody, Lands]

theorem Canonical.execRrscU {f : Fields} {s : State} (h : Canonical s) : Lands (execRrscU f s) := by
  grind [execRrscU, Canonical.runInstr, Canonical.ringBody, Lands]

theorem Canonical.execRhof {f : Fields} {s : State} (h : Canonical s) : Lands (execRhof f s) := by
  grind [execRhof, Canonical.runInstr, Canonical.ringBody, Lands]

theorem Canonical.execRagr {f : Fields} {s : State} (h : Canonical s) : Lands (execRagr f s) := by
  grind [execRagr, Canonical.runInstr, Canonical.ringBody, Lands]

theorem Canonical.execRbar {f : Fields} {s : State} (h : Canonical s) : Lands (execRbar f s) := by
  grind [execRbar, Canonical.runInstr, Canonical.ringBody, Lands]

theorem Canonical.rankBody {v : Env} {s : State} (h : Canonical s) : ResCanonical (rankBody v s) := by
  grind [rankBody, Canonical.readTable_got, Canonical.readTable_malformed, Canonical.readTable_stop, ResCanonical, OutCanonical]

theorem Canonical.execRank {f : Fields} {s : State} (h : Canonical s) : Lands (execRank f s) := by
  grind [execRank, Canonical.runInstr, Canonical.rankBody, Lands]

theorem Canonical.collSource {s : State} {eid : Nat} {e : Entry} {r : CollRec} {o n : Nat} (h : Canonical s) :
    Canonical (s.collSource eid e r o n).1 := by
  grind [State.collSource, Canonical.engRead]

theorem Canonical.contribution {s : State} {eid : Nat} {e : Entry} {r q : CollRec} {b : Bale} (h : Canonical s) :
    Canonical (s.contribution eid e r q b).1 := by
  grind [State.contribution, Canonical.collSource, Canonical.engRead]

theorem Canonical.slotMissing {s : State} {eid slot : Nat} {e : Entry} {r : CollRec} {p : CollProg} (h : Canonical s) :
    Canonical (s.slotMissing eid slot e r p) := by
  grind [State.slotMissing, Canonical.modEntry, Canonical.log]

theorem Canonical.slotsGone {s : State} {eid : Nat} {slots : List Nat} (h : Canonical s) : Canonical (s.slotsGone eid slots) := by
  grind [State.slotsGone, Canonical.slotMissing, Canonical.foldl]

theorem Canonical.execCollectiveTurn {entry : Nat} {s : State} (h : Canonical s) : Lands (execCollectiveTurn entry s) := by
  grind [execCollectiveTurn, Canonical.tellMembers, Canonical.modEntry, Canonical.modTok, Canonical.slotsGone, Lands]

theorem Canonical.execCollectiveAnnounce {entry slot : Nat} {ann : Announce} {s : State} (h : Canonical s) :
    Lands (execCollectiveAnnounce entry slot ann s) := by
  grind [execCollectiveAnnounce, Canonical.failPiece, Canonical.modEntry, Lands]

theorem Canonical.slotContribution {s : State} {eid : Nat} {e : Entry} {r : CollRec} {b : Bale} {ext : List Sys2Proof.SlotData} {slot : Nat}
    (h : Canonical s) : Canonical (s.slotContribution eid e r b ext slot).1 := by
  unfold State.slotContribution
  dsimp only
  split
  · exact h
  · split
    · exact h.contribution
    · exact h
  · exact h

theorem Canonical.contributions {s : State} {eid : Nat} {e : Entry} {r : CollRec} {b : Bale} {ext : List Sys2Proof.SlotData} {xs : List Nat}
    (h : Canonical s) : Canonical (s.contributions eid e r b ext xs).1 := by
  induction xs generalizing s with
  | nil => exact h
  | cons j js ih =>
    have h1 := h.slotContribution (eid := eid) (e := e) (r := r) (b := b) (ext := ext) (slot := j)
    unfold State.contributions
    split
    · next hs => rwa [hs] at h1
    · next hs => rwa [hs] at h1
    · next hs =>
      rw [hs] at h1
      have hr := ih h1
      split
      · next hq => rwa [hq] at hr
      · exact hr

theorem Canonical.collLines {s : State} {eid : Nat} {r : CollRec} (h : Canonical s) : Canonical (s.collLines eid r) := by
  grind [State.collLines, Canonical.modEntry, Canonical.modPresence, Canonical.foldl]

theorem Canonical.countBales {eid bid boff : Nat} {r : CollRec} {n : Nat} {s : State} (h : Canonical s) :
    Canonical (State.countBales eid bid boff r n s).1 := by
  induction n generalizing s with
  | zero => exact h
  | succ n ih => grind [State.countBales, Canonical.modEntry, Canonical.countDelivery]

theorem Canonical.writeBale {s : State} {eid : Nat} {e : Entry} {r : CollRec} {b : Bale} {bytes : List Byte} (h : Canonical s) :
    Canonical (s.writeBale eid e r b bytes).1 := by
  grind [State.writeBale, Canonical.windowWrite, Canonical.engDests, Canonical.engStretch, Canonical.asOneWrite, Canonical.coverPoison,
    Canonical.foldl]

theorem Canonical.collSat {s : State} {eid : Nat} {e : Entry} {r : CollRec} (h : Canonical s) : Canonical (s.collSat eid e r) := by
  grind [State.collSat, Canonical.modEntry, Canonical.modTok, Canonical.foldl]

theorem Canonical.takeBale {s : State} {eid i : Nat} {r : CollRec} {b : Bale} {sat : Bool} (h : Canonical s) :
    Canonical (s.takeBale eid i r b sat) := by
  grind [State.takeBale, Canonical.modEntry, Canonical.collLines, Canonical.collSat, Canonical.modTok, Canonical.countBales,
    Canonical.failPiece]

theorem Canonical.execBaleLand {entry bale : Nat} {ext : List Sys2Proof.SlotData} {s : State} (h : Canonical s) :
    Lands (execBaleLand entry bale ext s) := by
  have hcs := fun e r b need => h.contributions (eid := entry) (e := e) (r := r) (b := b) (ext := ext) (xs := need)
  unfold Machine.execBaleLand
  split
  · exact h.next
  next e r p _ =>
  split
  · exact h.next
  next b _ =>
  dsimp only
  refine .ite h.next ?_
  specialize hcs e r b (r.needs b)
  split
  · next hs => rw [hs] at hcs; exact hcs.next
  · next hs => rw [hs] at hcs; exact (Canonical.failPiece hcs).next
  next s1 cs hs =>
  rw [hs] at hcs
  have hmine : Canonical (if (r.expoRange b).2 = 0 then (s1, EngRes.ok default) else s1.contribution entry e r r b).1 := by
    split
    · exact hcs
    · exact Canonical.contribution hcs
  split
  · next hm => rw [hm] at hmine; exact hmine.next
  · next hm => rw [hm] at hmine; exact (Canonical.failPiece hmine).next
  next s2 m hm =>
  rw [hm] at hmine
  have hw := fun bytes => Canonical.writeBale (eid := entry) (e := e) (r := r) (b := b) (bytes := bytes) hmine
  specialize hw (s2.baleBytes r b cs m).1
  split
  · next hb => rw [hb] at hw; exact hw.next
  · exact (Canonical.failPiece hmine).next
  · next hb => rw [hb] at hw; exact (Canonical.takeBale hw).tellPeers.next

theorem Canonical.collSend {s : State} {entry peer bale : Nat} (h : Canonical s) : Canonical (s.collSend entry peer bale) := by
  unfold State.collSend
  split
  · exact h
  next e r p _ =>
  split
  · exact h
  next j _ =>
  split
  · exact h
  next b _ =>
  split
  · exact h
  have hx := h.contribution (eid := entry) (e := e) (r := r) (q := r.atSlot j) (b := b)
  split
  · next hs => rwa [hs] at hx
  · next hs => rw [hs] at hx; exact Canonical.failPiece hx
  · next hs => rw [hs] at hx; exact (Canonical.tellPeers hx).modEntry

theorem Canonical.collTook {s : State} {entry peer bale : Nat} {sat : Bool} (h : Canonical s) : Canonical (s.collTook entry peer bale sat) := by
  grind [State.collTook, Canonical.modEntry, Canonical.collSat]

theorem Canonical.membersDown {s : State} {hit : Nat → Bool} (h : Canonical s) : Canonical (s.membersDown hit) := by
  grind [State.membersDown, Canonical.failPiece, Canonical.slotsGone, Canonical.modEntry, Canonical.foldl]

theorem Canonical.execSwitchDownNotice {port peer : Nat} {whole : Bool} {s : State} (h : Canonical s) :
    Lands (execSwitchDownNotice port peer whole s) := by
  grind [execSwitchDownNotice, Canonical.failPair, Canonical.membersDown, Canonical.foldl, Canonical, Lands]

theorem Canonical.execWithdrawNotice {entry peer : Nat} {s : State} (h : Canonical s) : Lands (execWithdrawNotice entry peer s) := by
  grind [execWithdrawNotice, Canonical.slotsGone, Canonical.modEntry, Lands]

theorem Canonical.execCollectiveDeadline {entry slot : Nat} {s : State} (h : Canonical s) : Lands (execCollectiveDeadline entry slot s) := by
  grind [execCollectiveDeadline, Canonical.slotMissing, Lands]

theorem Canonical.execCollectiveComplete {entry : Nat} {s : State} (h : Canonical s) : Lands (execCollectiveComplete entry s) := by
  grind [execCollectiveComplete, Canonical.completeEntry, Canonical.failEntry, Lands]

theorem Canonical.fetchTail {b : Block} {pc : Dword} {n k : Nat} {s : State} (h : Canonical s) : Canonical (State.fetchTail b pc n k s).1 := by
  induction n generalizing k s with
  | zero => exact h
  | succ n ih =>
    have hw := h.fetchWord (b := b) (pc := pc + BitVec.ofNat 64 (4 * k))
    unfold State.fetchTail
    dsimp only
    split
    · next hs => rwa [hs] at hw
    · next hs => rwa [hs] at hw
    · next hs =>
      rw [hs] at hw
      have hr := ih (k := k + 1) hw
      split
      · next hq => rwa [hq] at hr
      · exact hr

theorem Canonical.fetchAt {s : State} {b : Block} {pc : Dword} (h : Canonical s) : Canonical (s.fetchAt b pc).1 := by
  grind [State.fetchAt, Canonical.fetchTail]

theorem Canonical.execUnassignedOpcode {w : Word} {s : State} (h : Canonical s) : Lands (execUnassignedOpcode w s) := by
  grind [execUnassignedOpcode, Canonical.trap, Lands]

theorem Canonical.execFetchFault {cause : Half} {addr : Dword} {s : State} (h : Canonical s) : Lands (execFetchFault cause addr s) := by
  grind [execFetchFault, Canonical.trap, Lands]

theorem Canonical.fetchPark {s : State} {leaf : Dword} {page : Nat} (h : Canonical s) : Lands (s.fetchPark leaf page) := by
  grind [State.fetchPark, Canonical.setWaiting, Canonical.modSlice, Canonical.requestByLeaf, Lands]

theorem Canonical.register {s : State} {ctx : Nat} {c : Ctx} {i o : Nat} {b : List Byte} {hd : Machine.Header} {ordered : Bool}
    (h : Canonical s) : Canonical (s.register ctx c i o b hd ordered).1 :=
  h.privWrite.modCtx

theorem kregOut_canonical {v : Env} {status second : Nat} : OutCanonical (kregOut v status second) := fun _ h => h

theorem Canonical.kregBody {v : Env} {s : State} (h : Canonical s) : ResCanonical (kregBody v s) := by
  unfold Machine.kregBody
  extract_lets hold
  refine .ite (fun _ h => h) ?_
  split
  · exact .ite kregOut_canonical h
  split
  · next hr => exact h.readAsLd_stop hr
  next s1 b hr =>
  have h1 := h.readAsLd_got hr
  split
  · exact ⟨h1, kregOut_canonical⟩
  split
  · exact ⟨h1, kregOut_canonical⟩
  split
  · exact h1.register.modSlice
  · exact ⟨h1, kregOut_canonical⟩

theorem Canonical.execKreg {f : Fields} {s : State} (h : Canonical s) : Lands (execKreg f s) := by
  grind [execKreg, Canonical.runInstr, Canonical.kregBody, Lands]

theorem Canonical.execKregDrop {f : Fields} {s : State} (h : Canonical s) : Lands (execKregDrop f s) := by
  grind [execKregDrop, Canonical.runInstr, Canonical.modCtx, Lands, ResCanonical, OutCanonical]

theorem Canonical.execKernelRecordFree {ctx idx : Nat} {s : State} (h : Canonical s) : Lands (execKernelRecordFree ctx idx s) := by
  grind [execKernelRecordFree, Canonical.modCtx, Lands]

theorem Canonical.launch {s : State} {ctx die : Nat} {t : Dword} {r : NodeRec} {args : List Byte} (h : Canonical s) :
    Canonical (s.launch ctx die t r args) := by
  grind [State.launch, Canonical.fresh, Canonical.modDie, Canonical]

theorem Canonical.logRoot {s : State} {ctx die : Nat} {t : Dword} (h : Canonical s) : Canonical (s.logRoot ctx die t) := by
  grind [State.logRoot, Canonical.log]

theorem Canonical.lnchBody {v : Env} {s : State} (h : Canonical s) : ResCanonical (lnchBody v s) := by
  unfold Machine.lnchBody
  dsimp only
  refine .ite Canonical.nullToken (.ite trivial ?_)
  split
  · next hr => exact h.readAsLd_stop hr
  next s1 b hr =>
  have h1 := h.readAsLd_got hr
  split
  · exact h1
  split
  · next hr => exact h1.readAsLd_stop hr
  next s2 args hr =>
  have h2 := h1.readAsLd_got hr
  exact .ite h2 ⟨h2, tokenOut_canonical fun _ _ hs => hs.launch⟩

theorem Canonical.execLnch {f : Fields} {s : State} (h : Canonical s) : Lands (execLnch f s) := by
  grind [execLnch, Canonical.runInstr, Canonical.lnchBody, Lands]

theorem Canonical.execNodeq {f : Fields} {s : State} (h : Canonical s) : Lands (execNodeq f s) := by
  grind [execNodeq, Canonical.runInstr, Lands, ResCanonical, OutCanonical]

theorem Canonical.nodeAcquire {s : State} {dies : Nat} (h : Canonical s) : Canonical (s.nodeAcquire dies) := by
  grind [State.nodeAcquire, Canonical.dropVs, Canonical.foldl]

theorem Canonical.predsDone {s : State} {n : Nat} {x : Node} (h : Canonical s) : Canonical (s.predsDone n x) := by
  grind [State.predsDone, Canonical.failNode, Canonical.modNode, Canonical.nodeAcquire]

theorem Canonical.rootToken {s : State} {n die : Nat} {x : Node} (h : Canonical s) : Canonical (s.rootToken n die x) := by
  grind [State.rootToken, Canonical.takeToken, Canonical.logRoot, Canonical.modNode]

theorem Canonical.execNodeAccept {die : Nat} {s : State} (h : Canonical s) : Lands (execNodeAccept die s) := by
  grind [execNodeAccept, Canonical.rootToken, Canonical.modNode, Canonical.modDie, Canonical.predsDone, Lands]

theorem Canonical.execPredecessorComplete {node pred : Nat} {s : State} (h : Canonical s) : Lands (execPredecessorComplete node pred s) := by
  grind [execPredecessorComplete, Canonical.noteSeen, Canonical.predsDone, Canonical.modNode, Canonical.foldl, Lands]

theorem Canonical.takeLeases {s : State} {n : Nat} {x : Node} {c : Ctx} (h : Canonical s) : Canonical (s.takeLeases n x c) := by
  grind [State.takeLeases, Canonical.failNode, Canonical.requestLayer, Canonical.modNode, Canonical.foldl]

theorem Canonical.putEntry {s : State} {e : Entry} (h : Canonical s) : Canonical (s.putEntry e) := by
  grind [State.putEntry, Canonical.fresh, Canonical]

/-- The state of a read that is put together from the reads of its sectors. -/
theorem Canonical.flattened {p : State × EngRes (List (List Byte))} (h : Canonical p.1) : Canonical (match p with
    | (s1, .ok ds) => (s1, EngRes.ok ds.flatten)
    | (s1, .wait) => (s1, .wait)
    | (s1, .fail c a) => (s1, .fail c a)).1 := by
  split <;> exact h

theorem Canonical.unitRead {s : State} {ctx : Nat} {keys : Dword} {cls : ReqClass} {va n : Nat} (h : Canonical s) :
    Canonical (s.unitRead ctx keys cls va n).1 := by
  refine Canonical.flattened (Canonical.mapEng (fun s q hs => ?_) h)
  split
  · exact hs
  next o _ =>
  have hv := hs.verdict (ctx := ctx) (o := o) (va := q.1) (k := .read) (keys := keys) (cls := cls)
  split
  · next he => rwa [he] at hv
  · next he => rw [he] at hv; exact Canonical.requestByLeaf hv
  · next he =>
    rw [he] at hv
    split
    · dsimp only
      split
      · exact Canonical.homeBytes hv
      · exact Canonical.homeBytes hv
    · exact Canonical.hostFetch hv
    · exact hv

theorem Canonical.unitTable {s : State} {ctx : Nat} {keys : Dword} {va : Nat} (h : Canonical s) : Canonical (s.unitTable ctx keys va).1 := by
  grind [State.unitTable, Canonical.unitRead]

theorem Canonical.collEntry {s : State} {n : Nat} {x : Node} {die rank rec op ty : Nat} {scope : Scope} {queue : Nat} (h : Canonical s) :
    Canonical (s.collEntry n x die rank rec op ty scope queue).1 := by
  grind [State.collEntry, Canonical.unitRead, Canonical.unitTable]

theorem Canonical.nodePartFails {s : State} {n : Nat} {x : Node} {die : Nat} {c : Half} {addr : Nat} (h : Canonical s) :
    Canonical (s.nodePartFails n x die c addr) := by
  grind [State.nodePartFails, Canonical.fresh, Canonical.modNode, Canonical.log]

theorem Canonical.startRound {s : State} {n : Nat} (h : Canonical s) : Canonical (s.startRound n) := by
  grind [State.startRound, Canonical.modNode]

theorem Canonical.beginPart {s : State} {n die : Nat} (h : Canonical s) : Canonical (s.beginPart n die) := by
  unfold State.beginPart
  split
  · exact h
  next x _ =>
  split
  · next rec op ty scope queue _ =>
    extract_lets first begun rank
    have hbegun : ∀ s, Canonical s → Canonical (begun s) := fun s hs => hs.modNode
    have he := h.collEntry (n := n) (x := x) (die := die) (rank := rank) (rec := rec) (op := op) (ty := ty) (scope := scope) (queue := queue)
    split
    · exact hbegun _ h.nodePartFails
    split
    · next hs => rw [hs] at he; exact Canonical.modNode he
    · next hs => rw [hs] at he; exact hbegun _ (Canonical.putEntry he)
    · next hs => rw [hs] at he; exact hbegun _ (Canonical.nodePartFails he)
  · exact h

theorem Canonical.beginParts {s : State} {n : Nat} (h : Canonical s) : Canonical (s.beginParts n) := by
  grind [State.beginParts, Canonical.modNode, Canonical.beginPart, Canonical.foldl]

theorem Canonical.startNode {s : State} {n : Nat} {x : Node} (h : Canonical s) : Canonical (s.startNode n x) := by
  grind [State.startNode, Canonical.modNode, Canonical.modDie, Canonical.startRound, Canonical.putEntry, Canonical.beginParts]

theorem Canonical.execLeaseGrant {node : Nat} {s : State} (h : Canonical s) : Lands (execLeaseGrant node s) := by
  grind [execLeaseGrant, Canonical.beginParts, Canonical.takeLeases, Canonical.startNode, Lands]

theorem Canonical.execHostSignal {node : Nat} {s : State} (h : Canonical s) : Lands (execHostSignal node s) := by
  unfold Machine.execHostSignal
  split
  · exact h.next
  next x _ =>
  split
  next addr value _ =>
    refine .ite h.next ?_
    split
    next p _ =>
      have hv := h.verdict (ctx := x.ctx) (o := .host p) (va := addr) (k := .write) (keys := s.keysOf x.ctx x.die) (cls := .slice)
      split
      · next hs =>
        rw [hs] at hv
        exact (Canonical.fresh hv).hostWrite.modPort.modNode.next
      · next hs => rw [hs] at hv; exact (Canonical.nodePartFails hv).next
      · next hs => rw [hs] at hv; exact (Canonical.nodePartFails hv).next
    · exact h.nodePartFails.next
    · exact h.nodePartFails.next
  · exact h.next

theorem Canonical.nodeRecall {s : State} {n : Nat} (h : Canonical s) : Canonical (s.nodeRecall n) := by
  grind [State.nodeRecall, Canonical.flushUo, Canonical.foldl]

theorem Canonical.nodeFlush {s : State} {n : Nat} (h : Canonical s) : Canonical (s.nodeFlush n) := by
  have hcores : Canonical ((s.nodeCores n).foldl (fun (acc : State × List Nat) c =>
      let (s1, fs) := acc.1.sendFlushes c.1 c.2
      (s1, acc.2 ++ fs)) (s, [])).1 := Canonical.foldl_fst (fun _ _ hp => Canonical.sendFlushes hp) h
  refine Canonical.modNode (Canonical.foldl_fst (fun p _ hp => ?_) hcores)
  exact (Canonical.fresh hp).modPort

theorem Canonical.clearMarks {s : State} {n : Nat} (h : Canonical s) : Canonical (s.clearMarks n) := by
  grind [State.clearMarks, Canonical]

theorem Canonical.compareShadow {s : State} {bid : Nat} (h : Canonical s) : Canonical (s.compareShadow bid) := by
  grind [State.compareShadow, Canonical.modBlock, Canonical.log, WindowKept]

theorem Canonical.compareShadows {s : State} {n : Nat} (h : Canonical s) : Canonical (s.compareShadows n) := by
  grind [State.compareShadows, Canonical.compareShadow, Canonical.foldl]

theorem Canonical.finishNode {s : State} {n : Nat} {x : Node} (h : Canonical s) : Canonical (s.finishNode n x) := by
  grind [State.finishNode, Canonical.modNode, Canonical.clearMarks, Canonical.modTok, Canonical.finishToken, Canonical.modDie,
    Canonical.foldl]

theorem Canonical.execNodeCompletion {node : Nat} {s : State} (h : Canonical s) : Lands (execNodeCompletion node s) := by
  grind [execNodeCompletion, Canonical.modNode, Canonical.nodeRecall, Canonical.nodeFlush, Canonical.finishNode, Canonical.compareShadows,
    Lands]

end Sys2Proof.Machine
end

section
/-! Memory stays canonical: an issue, an instruction executed again, and the placement of blocks. -/

namespace Sys2Proof.Machine

set_option Elab.async false

/-- A table of meanings that keeps memory canonical. -/
def MeaningsCanonical (ex : Meanings) : Prop := ∀ i s, Canonical s → Lands (ex i s)

theorem memOf_wf (b : List Byte) : (memOf b).wf = true := by
  rw [Memory.wf_iff, Tab.sorted_iff]
  refine ⟨?_, fun c hc => ?_⟩
  · have hsub : (Tab.keys (memOf b)).Sublist (List.range' 0 b.length) := by
      rw [← List.zipIdx_map_snd 0 b, Tab.keys, memOf, List.map_map]
      exact List.filter_sublist.map _
    exact List.Pairwise.sublist hsub List.pairwise_lt_range'
  · obtain ⟨p, hp, rfl⟩ := List.mem_map.mp hc
    exact bne_iff_ne.mp (List.mem_filter.mp hp).2

theorem Block.settle_window (ids ps : List Nat) (b : Block) :
    (ids.foldl (fun b i => b.modSlice i Slice.stowLatches) (ps.foldl (fun b p => b.settlePart p) b)).window = b.window := by
  rw [Block.foldl_window fun b i => Block.modSlice_window .., Block.foldl_window fun b p => Block.settlePart_window ..]

theorem Canonical.runFetched {ex : Meanings} {r : FetchRes} {bid sid : Nat} {s : State} (hex : MeaningsCanonical ex) (h : Canonical s) :
    Lands (runFetched ex r bid sid s) := by
  have h1 : Canonical { s with cur := some (bid, sid) } := h
  unfold Machine.runFetched
  split
  · exact hex _ _ h1
  · exact h1.execUnassignedOpcode
  · exact h1.execFetchFault
  · exact h1.fetchPark

theorem Canonical.runAll {ex : Meanings} {r : FetchRes} {bid : Nat} {xs : List Nat} {s : State} (hex : MeaningsCanonical ex)
    (h : Canonical s) : Lands (runAll ex r bid xs s) := by
  induction xs generalizing s with
  | nil => exact h.next
  | cons sid rest ih =>
    have hr := h.runFetched (r := r) (bid := bid) (sid := sid) hex
    unfold Machine.runAll
    refine .ite ?_ (ih h)
    split
    · next hs => exact ih (hr _ hs)
    · exact hr

theorem Canonical.refreshPorts {s : State} {bid : Nat} (h : Canonical s) : Canonical (s.refreshPorts bid) := by
  grind [State.refreshPorts, Canonical.modCore]

theorem Canonical.settle {s : State} {bid : Nat} {ids : List Nat} (h : Canonical s) : Canonical (s.settle bid ids) := by
  have h1 : Canonical { s with cur := none } := h
  exact Canonical.refreshPorts (Canonical.closeIssues (Canonical.modBlock h1 fun b hb => by rwa [Block.settle_window]))

theorem Canonical.enterPort {s : State} {bid : Nat} {b : Block} {part : Nat} (h : Canonical s) : Canonical (s.enterPort bid b part) := by
  grind [State.enterPort, Canonical.modCore]

theorem Canonical.noteBegun {s : State} {bid : Nat} {ids : List Nat} {r : FetchRes} (h : Canonical s) : Canonical (s.noteBegun bid ids r) := by
  unfold State.noteBegun
  split
  · exact h
  · exact h.modBlock fun b hb => by rwa [Block.foldl_window fun b i => Block.modSlice_window ..]

theorem Canonical.beginIssue {s : State} {bid : Nat} {ids : List Nat} (h : Canonical s) : Canonical (s.beginIssue bid ids) := by
  have h1 : Canonical { s with issueNo := s.issueNo + 1 } := h
  exact Canonical.modBlock h1 fun b hb => by rwa [Block.foldl_window fun b i => Block.modSlice_window ..]

theorem Canonical.afterIssue {s : State} {bid : Nat} {ids : List Nat} (h : Canonical s) : Canonical (s.afterIssue bid ids) := by
  grind [State.afterIssue, Canonical.enterPort, Canonical.settle, Canonical.foldl]

theorem Canonical.issue {ex : Meanings} {bid part : Nat} {s : State} (hex : MeaningsCanonical ex) (h : Canonical s) :
    Lands (issue ex bid part s) := by
  unfold Machine.issue
  split
  · exact h.next
  next b _ =>
  dsimp only
  split
  · exact h.next
  next i _ _ =>
  refine .ite h.next ?_
  split
  · exact h.next
  next x _ =>
  have hfetch := (h.beginIssue (bid := bid) (ids := b.movers part)).fetchAt (b := b) (pc := x.pc)
  have hr := fun r => (hfetch.noteBegun (bid := bid) (ids := b.movers part) (r := r)).runAll (r := r) (bid := bid) (xs := b.movers part) hex
  split
  · next hs => exact (Canonical.afterIssue (hr _ _ hs)).next
  · exact hr _

theorem Canonical.rerunSlice {ex : Meanings} {bid sid : Nat} {s : State} (hex : MeaningsCanonical ex) (h : Canonical s) :
    Lands (rerunSlice ex bid sid s) := by
  unfold Machine.rerunSlice
  split
  next b x _ _ =>
    refine .ite h.next ?_
    have h1 := h.modBlock (bid := bid) (f := fun b => (b.partMembers x.part).foldl (fun b i => b.modSlice i Slice.takeLatches) b)
      fun b hb => by rwa [Block.foldl_window fun b i => Block.modSlice_window ..]
    have hr := fun r => (Canonical.fetchAt (b := b) (pc := x.pc) h1).runFetched (r := r) (bid := bid) (sid := sid) hex
    dsimp only
    split
    · next hs => exact (Canonical.settle (hr _ _ hs)).next
    · exact hr _
  · exact h.next

theorem Canonical.intOp {g : Env → Int → Int → Int} {sh : Env → Tag} {v : Env} {s : State} (_ : Canonical s) :
    ResCanonical (intOp g sh v s) := by
  grind [intOp, Canonical.laneRes, ResCanonical]

theorem Canonical.execIadd {f : Fields} {s : State} (h : Canonical s) : Lands (execIadd f s) := by
  grind [execIadd, Canonical.runInstr, Canonical.intOp, Lands]

theorem Canonical.execIsub {f : Fields} {s : State} (h : Canonical s) : Lands (execIsub f s) := by
  grind [execIsub, Canonical.runInstr, Canonical.intOp, Lands]

theorem Canonical.execImul {f : Fields} {s : State} (h : Canonical s) : Lands (execImul f s) := by
  grind [execImul, Canonical.runInstr, Canonical.intOp, Lands]

theorem Canonical.execImulh {f : Fields} {s : State} (h : Canonical s) : Lands (execImulh f s) := by
  grind [execImulh, Canonical.runInstr, Canonical.intOp, Lands]

theorem Canonical.execImad {f : Fields} {s : State} (h : Canonical s) : Lands (execImad f s) := by
  grind [execImad, Canonical.runInstr, Canonical.laneRes, Lands]

theorem Canonical.execIdiv {f : Fields} {s : State} (h : Canonical s) : Lands (execIdiv f s) := by
  grind [execIdiv, Canonical.runInstr, Canonical.intOp, Lands]

theorem Canonical.execIrem {f : Fields} {s : State} (h : Canonical s) : Lands (execIrem f s) := by
  grind [execIrem, Canonical.runInstr, Canonical.intOp, Lands]

theorem Canonical.execImin {f : Fields} {s : State} (h : Canonical s) : Lands (execImin f s) := by
  grind [execImin, Canonical.runInstr, Canonical.intOp, Lands]

theorem Canonical.execImax {f : Fields} {s : State} (h : Canonical s) : Lands (execImax f s) := by
  grind [execImax, Canonical.runInstr, Canonical.intOp, Lands]

theorem Canonical.execIabs {f : Fields} {s : State} (h : Canonical s) : Lands (execIabs f s) := by
  grind [execIabs, Canonical.runInstr, Canonical.intOp, Lands]

theorem Canonical.execIneg {f : Fields} {s : State} (h : Canonical s) : Lands (execIneg f s) := by
  grind [execIneg, Canonical.runInstr, Canonical.intOp, Lands]

theorem Canonical.execIaddc {f : Fields} {s : State} (h : Canonical s) : Lands (execIaddc f s) := by
  grind [execIaddc, Canonical.runInstr, Canonical.laneRes, Lands]

theorem Canonical.execIsubb {f : Fields} {s : State} (h : Canonical s) : Lands (execIsubb f s) := by
  grind [execIsubb, Canonical.runInstr, Canonical.laneRes, Lands]

theorem Canonical.bitOp {g : Nat → Nat → Nat → Nat} {v : Env} {s : State} (_ : Canonical s) : ResCanonical (bitOp g v s) := by
  grind [bitOp, Canonical.laneRes, ResCanonical]

theorem Canonical.execAnd {f : Fields} {s : State} (h : Canonical s) : Lands (execAnd f s) := by
  grind [execAnd, Canonical.runInstr, Canonical.bitOp, Lands]

theorem Canonical.execOr {f : Fields} {s : State} (h : Canonical s) : Lands (execOr f s) := by
  grind [execOr, Canonical.runInstr, Canonical.bitOp, Lands]

theorem Canonical.execXor {f : Fields} {s : State} (h : Canonical s) : Lands (execXor f s) := by
  grind [execXor, Canonical.runInstr, Canonical.bitOp, Lands]

theorem Canonical.execNot {f : Fields} {s : State} (h : Canonical s) : Lands (execNot f s) := by
  grind [execNot, Canonical.runInstr, Canonical.bitOp, Lands]

theorem Canonical.execAndn {f : Fields} {s : State} (h : Canonical s) : Lands (execAndn f s) := by
  grind [execAndn, Canonical.runInstr, Canonical.bitOp, Lands]

theorem Canonical.shiftOp {g : Nat → Nat → Nat → Nat} {sh : Env → Tag} {v : Env} {s : State} (_ : Canonical s) :
    ResCanonical (shiftOp g sh v s) := by
  grind [shiftOp, Canonical.laneRes, ResCanonical]

theorem Canonical.execShl {f : Fields} {s : State} (h : Canonical s) : Lands (execShl f s) := by
  grind [execShl, Canonical.runInstr, Canonical.shiftOp, Lands]

theorem Canonical.execShr {f : Fields} {s : State} (h : Canonical s) : Lands (execShr f s) := by
  grind [execShr, Canonical.runInstr, Canonical.shiftOp, Lands]

theorem Canonical.execSar {f : Fields} {s : State} (h : Canonical s) : Lands (execSar f s) := by
  grind [execSar, Canonical.runInstr, Canonical.shiftOp, Lands]

theorem Canonical.execRot {f : Fields} {s : State} (h : Canonical s) : Lands (execRot f s) := by
  grind [execRot, Canonical.runInstr, Canonical.shiftOp, Lands]

theorem Canonical.execBfe {f : Fields} {s : State} (h : Canonical s) : Lands (execBfe f s) := by
  grind [execBfe, Canonical.runInstr, Canonical.laneRes, Lands]

theorem Canonical.execBfi {f : Fields} {s : State} (h : Canonical s) : Lands (execBfi f s) := by
  grind [execBfi, Canonical.runInstr, Canonical.laneRes, Lands]

theorem Canonical.execPopc {f : Fields} {s : State} (h : Canonical s) : Lands (execPopc f s) := by
  grind [execPopc, Canonical.runInstr, Canonical.laneRes, Lands]

theorem Canonical.execClz {f : Fields} {s : State} (h : Canonical s) : Lands (execClz f s) := by
  grind [execClz, Canonical.runInstr, Canonical.laneRes, Lands]

theorem Canonical.execBrev {f : Fields} {s : State} (h : Canonical s) : Lands (execBrev f s) := by
  grind [execBrev, Canonical.runInstr, Canonical.laneRes, Lands]

theorem Canonical.execLea {f : Fields} {s : State} (h : Canonical s) : Lands (execLea f s) := by
  grind [execLea, Canonical.runInstr, Canonical.laneRes, Lands]

theorem Canonical.execMov {f : Fields} {s : State} (h : Canonical s) : Lands (execMov f s) := by
  grind [execMov, Canonical.runInstr, Lands, ResCanonical, OutCanonical]

theorem Canonical.execMovi {f : Fields} {s : State} (h : Canonical s) : Lands (execMovi f s) := by
  grind [execMovi, Canonical.runInstr, Lands, ResCanonical, OutCanonical]

theorem Canonical.execAff {f : Fields} {s : State} (h : Canonical s) : Lands (execAff f s) := by
  grind [execAff, Canonical.runInstr, Lands, ResCanonical, OutCanonical]

theorem Canonical.execUnif {f : Fields} {s : State} (h : Canonical s) : Lands (execUnif f s) := by
  grind [execUnif, Canonical.runInstr, Lands, ResCanonical, OutCanonical]

theorem Canonical.execShape {f : Fields} {s : State} (h : Canonical s) : Lands (execShape f s) := by
  grind [execShape, Canonical.runInstr, Lands, ResCanonical, OutCanonical]

theorem Canonical.pqry {s : State} {ctx die ea : Nat} (h : Canonical s) : Canonical (s.pqry ctx die ea).1 := by
  grind [State.pqry, Canonical.walk]

theorem Canonical.execPqry {f : Fields} {s : State} (h : Canonical s) : Lands (execPqry f s) := by
  refine h.runInstr fun v _ => .ite h fun s hs => ?_
  dsimp only
  refine Canonical.beginFill (Canonical.modSlice (Canonical.foldl_fst (fun p e hp => ?_) hs))
  exact Canonical.pqry hp

theorem Canonical.spreadK {s : State} {ctx : Nat} (h : Canonical s) : Canonical (s.spreadK ctx) := by
  grind [State.spreadK, Canonical.modCtx, Canonical.foldl]

theorem Canonical.setpkBody {v : Env} {s : State} (h : Canonical s) : ResCanonical (setpkBody v s) := by
  unfold Machine.setpkBody
  split
  · exact h
  next c _ =>
  extract_lets out s1
  have hout : ∀ old, OutCanonical (out old) := fun _ _ hs => hs
  split
  · next old _ =>
    have h1 : Canonical s1 := by
      unfold s1
      split
      · exact h
      · exact h.spreadK
    split
    · exact .ite ⟨h1, hout _⟩ h1
    · exact h1
  · exact h.modCtx.spreadK.modSlice

theorem Canonical.execSetpk {f : Fields} {s : State} (h : Canonical s) : Lands (execSetpk f s) := by
  grind [execSetpk, Canonical.runInstr, Canonical.setpkBody, Lands]

theorem Canonical.flushTlb {s : State} {ctx : Nat} {part ext : List Nat} (h : Canonical s) : Canonical (s.flushTlb ctx part ext) := by
  grind [State.flushTlb, Canonical.modDie, Canonical.dropGuests, Canonical.dropVs, Canonical.flushUo, Canonical.foldl]

theorem Canonical.execTlbfl {f : Fields} {s : State} (h : Canonical s) : Lands (execTlbfl f s) := by
  refine h.runInstr fun v _ => ?_
  have hrel := h.release (v := v) (scope := .pkg)
  split
  · trivial
  split
  · next hs => rwa [hs] at hrel
  · next hs => rw [hs] at hrel; exact ⟨hrel, fun _ hs => hs.flushTlb⟩

theorem Canonical.execTlbdr {f : Fields} {s : State} (h : Canonical s) : Lands (execTlbdr f s) := by
  grind [execTlbdr, Canonical.runInstr, Canonical.modSlice, Lands, ResCanonical, OutCanonical]

theorem Canonical.specBody {fn : SpecFn} {v : Env} {s : State} (_ : Canonical s) : ResCanonical (specBody fn v s) := by
  grind [specBody, Canonical.fpRes, ResCanonical]

theorem Canonical.execFrcp {f : Fields} {s : State} (h : Canonical s) : Lands (execFrcp f s) := by
  grind [execFrcp, Canonical.runInstr, Canonical.specBody, Lands]

theorem Canonical.execFrsq {f : Fields} {s : State} (h : Canonical s) : Lands (execFrsq f s) := by
  grind [execFrsq, Canonical.runInstr, Canonical.specBody, Lands]

theorem Canonical.execFex2 {f : Fields} {s : State} (h : Canonical s) : Lands (execFex2 f s) := by
  grind [execFex2, Canonical.runInstr, Canonical.specBody, Lands]

theorem Canonical.execFlg2 {f : Fields} {s : State} (h : Canonical s) : Lands (execFlg2 f s) := by
  grind [execFlg2, Canonical.runInstr, Canonical.specBody, Lands]

theorem Canonical.execFsinp {f : Fields} {s : State} (h : Canonical s) : Lands (execFsinp f s) := by
  grind [execFsinp, Canonical.runInstr, Canonical.specBody, Lands]

theorem Canonical.execFcosp {f : Fields} {s : State} (h : Canonical s) : Lands (execFcosp f s) := by
  grind [execFcosp, Canonical.runInstr, Canonical.specBody, Lands]

theorem Canonical.execFtanh {f : Fields} {s : State} (h : Canonical s) : Lands (execFtanh f s) := by
  grind [execFtanh, Canonical.runInstr, Canonical.specBody, Lands]

/-- The instructions of a slice, in the order of the opcode table. -/
theorem Canonical.execSlice {i : Instr} {s : State} (hp : i.parts? ≠ none) (h : Canonical s) : Lands (exec i s) := by
  cases i <;> simp only [Instr.parts?, ne_eq, not_true_eq_false, reduceCtorEq, not_false_eq_true] at hp
  exacts [
    h.execIadd, h.execIsub, h.execImul, h.execImulh, h.execImad, h.execIdiv, h.execIrem, h.execImin, h.execImax, h.execIabs, h.execIneg, h.execIaddc,
    h.execIsubb, h.execAnd, h.execOr, h.execXor, h.execNot, h.execAndn, h.execShl, h.execShr, h.execSar, h.execRot, h.execBfe, h.execBfi, h.execPopc,
    h.execClz, h.execBrev, h.execLea, h.execMov, h.execMovi, h.execFadd, h.execFsub, h.execFmul, h.execFfma, h.execFmin, h.execFmax, h.execFminn,
    h.execFmaxn, h.execFabs, h.execFneg, h.execFcpys, h.execFdiv, h.execFsqrt, h.execFrcp, h.execFrsq, h.execFex2, h.execFlg2, h.execFsinp,
    h.execFcosp, h.execFtanh, h.execFrnd, h.execFscl, h.execFexpn, h.execCvt, h.execCvtsr, h.execPack, h.execUnpk, h.execQnt, h.execDqnt, h.execIcmp,
    h.execFcmp, h.execFclass, h.execPand, h.execPor, h.execPxor, h.execPnot, h.execPmov, h.execSel, h.execAff, h.execUnif, h.execShape, h.execShfl,
    h.execBcast, h.execVote, h.execRdx, h.execScan, h.execTopk, h.execLd, h.execSt, h.execLds, h.execSts, h.execLdu, h.execTld, h.execTst, h.execLda,
    h.execStrl, h.execRld, h.execRst, h.execRatm, h.execPrf, h.execPin, h.execUnpin, h.execWaitc, h.execPres, h.execClaim, h.execRels, h.execSld,
    h.execSlds, h.execMma, h.execMmas, h.execMzero, h.execAcld, h.execMbat, h.execMwtb, h.execDrn, h.execDrnx, h.execDrnaO, h.execDrnaU, h.execBinit,
    h.execBexp, h.execBarr, h.execBwait, h.execBtry, h.execMwait, h.execAtom, h.execBinc, h.execWinc, h.execDecz, h.execFaddl, h.execTkt,
    h.execFatomO, h.execFatomU, h.execRedO, h.execRedU, h.execTkw, h.execTka, h.execCommit, h.execGsync, h.execGjoin, h.execGleave, h.execGrank,
    h.execGsize, h.execFence, h.execCpy, h.execCpt, h.execCpg, h.execCps, h.execQfen, h.execTokw, h.execTokt, h.execTokr, h.execQcan, h.execRgath,
    h.execRrscO, h.execRrscU, h.execRhof, h.execRagr, h.execRank, h.execRbar, h.execLnch, h.execKreg, h.execKregDrop, h.execNodeq, h.execBra,
    h.execBrx, h.execCall, h.execCallx, h.execRet, h.execIfm, h.execElsm, h.execEndm, h.execBrkm, h.execExit, h.execNop, h.execRegang, h.execMovsO,
    h.execMovsU, h.execSetm, h.execGetm, h.execRel, h.execGrow, h.execShrink, h.execPoolq, h.execPqry, h.execSetpk, h.execTlbfl, h.execTlbdr,
    h.execTrap, h.execTret, h.execErrl, h.execLayw, h.execLayq, h.execLayr, h.execLaye, h.execBkpt]

theorem Canonical.rerun {i : Instr} {s : State} (h : Canonical s) : Lands (rerun i s) := by
  by_cases hp : i.parts? = none
  · rw [rerun_of_parts?_eq_none hp]
    exact h.next
  · rw [rerun_eq_exec hp]
    exact h.execSlice hp

theorem Canonical.rerunSliceNow {bid sid : Nat} {s : State} (h : Canonical s) : Lands (Machine.rerunSlice Machine.rerun bid sid s) :=
  h.rerunSlice fun _ _ h => h.rerun

theorem Canonical.execWaitSatisfied {bid sid : Nat} {s : State} (h : Canonical s) : Lands (execWaitSatisfied bid sid s) := by
  grind [execWaitSatisfied, Canonical.rerunSliceNow, Lands]

theorem Canonical.execMonitorPoll {bid sid : Nat} {s : State} (h : Canonical s) : Lands (execMonitorPoll bid sid s) := by
  grind [execMonitorPoll, Canonical.rerunSliceNow, Lands]

theorem Canonical.execCallSetRelease {bid sid : Nat} {s : State} (h : Canonical s) : Lands (execCallSetRelease bid sid s) := by
  grind [execCallSetRelease, Canonical.rerunSliceNow, Lands]

theorem Canonical.execFillFaultDelivery {bid sid : Nat} {s : State} (h : Canonical s) : Lands (execFillFaultDelivery bid sid s) := by
  grind [execFillFaultDelivery, Canonical.modSlice, Canonical.settle, Canonical.trapAt, Lands]

theorem Canonical.timeOutFill {s : State} {bid sid fid : Nat} (h : Canonical s) : Canonical (s.timeOutFill bid sid fid) := by
  grind [State.timeOutFill, Canonical.modFill]

theorem Canonical.timeOutLines {s : State} {bid sid : Nat} (h : Canonical s) : Canonical (s.timeOutLines bid sid) := by
  grind [State.timeOutLines, Canonical.settle, Canonical.trapAt, Canonical.modSlice]

theorem Canonical.execParkTimeout {bid sid : Nat} {fill : Option Nat} {s : State} (h : Canonical s) : Lands (execParkTimeout bid sid fill s) := by
  unfold Machine.execParkTimeout
  split
  · exact h.timeOutFill.next
  · exact h.timeOutLines.next

theorem Canonical.takeWords {s : State} {bid n : Nat} (h : Canonical s) : Canonical (s.takeWords bid n) := by
  grind [State.takeWords, Canonical.leaveWaiters, Canonical.modBlock, Canonical.requestWords, WindowKept]

theorem Canonical.execPoolWaitServed {die core : Nat} {s : State} (h : Canonical s) : Lands (execPoolWaitServed die core s) := by
  unfold Machine.execPoolWaitServed
  split
  · exact h.next
  · exact .ite h.takeWords.next h.rerunSliceNow

theorem Canonical.execRefill {bid : Nat} {s : State} (h : Canonical s) : Lands (execRefill bid s) := by
  grind [execRefill, Canonical.modBlock, WindowKept, Lands]

theorem Canonical.execGangSwitch {bid part : Nat} {s : State} (h : Canonical s) : Lands (execGangSwitch bid part s) := by
  grind [execGangSwitch, Canonical.refreshPorts, Canonical.enterPort, Lands]

theorem Canonical.writeImage {s : State} {b : Block} {m : SaveImage} (h : Canonical s) : Canonical (s.writeImage b m) := by
  grind [State.writeImage, Canonical.privWrite, Canonical.foldl]

theorem Canonical.dropHolds {s : State} {bid : Nat} (h : Canonical s) : Canonical (s.dropHolds bid) := by
  grind [State.dropHolds, Canonical.modSlice, Canonical.discardFill, Canonical.foldl]

theorem Canonical.saveBlock {s0 : State} {bid : Nat} {dormant packed : Bool} (h : Canonical s0) :
    Canonical (s0.saveBlock bid dormant packed) := by
  grind [State.saveBlock, Canonical.dropHolds, Canonical.flushUo, Canonical.modDie, Canonical.writeImage, Canonical.modBlock,
    Canonical.modCore, Canonical.freeMonitors, WindowKept, Canonical]

theorem Canonical.seat {s : State} {bid d c : Nat} {partw : Word} {w u : Nat} (h : Canonical s) : Canonical (s.seat bid d c partw w u) := by
  grind [State.seat, Canonical.fresh, Canonical.modBlock, Canonical.modCore, WindowKept]

theorem Canonical.issueArgs {s : State} {bid n d : Nat} {x : Node} {args : List Byte} (h : Canonical s) :
    Canonical (s.issueArgs bid n d x args) := by
  grind [State.issueArgs, Canonical.takeToken, Canonical.issueLines, Canonical.putEntry]

theorem Canonical.placeOn {s : State} {n idx d c : Nat} {of : Option Nat} {t : _} (h : Canonical s)
    (ht : s.placeOn n idx d c of = some t) : Canonical t.2 := by
  unfold State.placeOn at ht
  split at ht
  · contradiction
  next x _ =>
  split at ht
  · contradiction
  next cx k _ =>
  extract_lets b args at ht
  split at ht
  next w u va _ _ =>
    split at ht
    · contradiction
    cases ht
    have hput : ∀ i (y : Block), y.window.wf = true → Canonical { s.fresh.2 with blocks := s.fresh.2.blocks.put i y } :=
      fun i y hy => CanonicalIn.put h.fresh hy
    dsimp only
    split
    · exact (Canonical.modCtx (hput _ _ rfl)).seat
    · exact (Canonical.modCtx (hput _ _ rfl)).seat.issueArgs
  · contradiction

theorem Canonical.placeFirst {s : State} {n idx : Nat} {xs : List (Nat × Nat × Nat)} {t : _} (h : Canonical s)
    (ht : s.placeFirst n idx xs = some t) : Canonical t.2 := by
  induction xs with
  | nil => contradiction
  | cons x xs ih =>
    unfold State.placeFirst at ht
    split at ht
    · next hs => exact Option.some.inj ht ▸ (h.placeOn hs :)
    · exact ih ht

theorem Canonical.placeOrdered {s : State} {n : Nat} {x : Node} {idx : Nat} {t : _} (h : Canonical s)
    (ht : s.placeOrdered n x idx = some t) : Canonical t := by
  unfold State.placeOrdered at ht
  dsimp only at ht
  split at ht
  · contradiction
  next h1 =>
  replace h1 := h.placeOn h1
  split at ht
  · exact Option.some.inj ht ▸ h1
  split at ht
  · contradiction
  next h2 => exact Option.some.inj ht ▸ (Canonical.placeOn h1 h2).modBlock fun _ hb => hb

theorem Canonical.notePlaced {s : State} {n : Nat} {x : Node} {cursor : Nat} (h : Canonical s) : Canonical (s.notePlaced n x cursor) := by
  grind [State.notePlaced, Canonical.modNode, Canonical.modDie]

theorem Canonical.placeNext {s : State} {n : Nat} {t : _} (h : Canonical s) (ht : s.placeNext n = some t) : Canonical t := by
  unfold State.placeNext at ht
  split at ht
  · contradiction
  next x _ =>
  dsimp only at ht
  split at ht
  · contradiction
  split at ht
  · obtain ⟨s1, hs1, rfl⟩ := Option.map_eq_some_iff.mp ht
    obtain ⟨i, -, hi⟩ := List.exists_of_findSome?_eq_some hs1
    exact (h.placeOrdered hi).notePlaced
  · obtain ⟨r, hr, rfl⟩ := Option.map_eq_some_iff.mp ht
    exact (h.placeFirst hr).notePlaced

theorem Canonical.carryCore {s : State} {d old new : Nat} (h : Canonical s) : Canonical (s.carryCore d old new) := by
  grind [State.carryCore, Canonical.modCore, Canonical.foldl]

theorem Canonical.askWords {s : State} {bid : Nat} (h : Canonical s) : Canonical (s.askWords bid) := by
  grind [State.askWords, Canonical.alloc, Canonical.takeWords, Canonical.joinWaiters]

theorem Block.ofImage_window {b y : Block} {m : SaveImage} {spill : Nat → Nat → List Byte} {free : List Nat}
    (hy : b.ofImage m spill free = some y) : y.window = memOf m.window := by
  unfold Block.ofImage at hy
  dsimp only at hy
  split at hy
  · obtain ⟨es, -, rfl⟩ := Option.map_eq_some_iff.mp hy
    rfl
  · contradiction

theorem Canonical.restoreOn {s : State} {bid c : Nat} {t : _} (h : Canonical s) (ht : s.restoreOn bid c = some t) : Canonical t := by
  unfold State.restoreOn at ht
  split at ht
  · contradiction
  split at ht
  · contradiction
  split at ht
  · contradiction
  dsimp only at ht
  have hout := fun d f => ((h.dropShadowImage (d := d) (bid := bid)).freeMonitors (bid := bid)).modDie (d := d) (f := f)
  split at ht
  · exact Option.some.inj ht ▸ Canonical.escalate (hout _ _)
  · next y hy =>
    refine Option.some.inj ht ▸ ((Canonical.carryCore (hout _ _)).modBlock fun _ _ => ?_).seat.askWords
    exact (congrArg Memory.wf (Block.ofImage_window hy)).trans (memOf_wf _)

theorem Canonical.restoreRest {s : State} {xs : List Nat} {t : _} (h : Canonical s) (ht : s.restoreRest xs = some t) : Canonical t := by
  induction xs generalizing s with
  | nil => exact Option.some.inj ht ▸ h
  | cons m ms ih =>
    unfold State.restoreRest at ht
    split at ht
    · exact ih h ht
    split at ht
    · exact ih h ht
    split at ht
    · contradiction
    · next hs =>
      obtain ⟨c, -, hc⟩ := List.exists_of_findSome?_eq_some hs
      exact ih (h.restoreOn hc) ht

theorem Canonical.restoreUnit {s : State} {bid c : Nat} {t : _} (h : Canonical s) (ht : s.restoreUnit bid c = some t) : Canonical t := by
  unfold State.restoreUnit at ht
  split at ht
  · contradiction
  · next hs => exact (h.restoreOn hs).restoreRest ht

theorem Canonical.execBlockPlacement {die : Nat} {s : State} (h : Canonical s) : Lands (execBlockPlacement die s) := by
  grind [execBlockPlacement, Canonical.placeNext, Lands]

theorem Canonical.execBlockRestore {bid core : Nat} {s : State} (h : Canonical s) : Lands (execBlockRestore bid core s) := by
  grind [execBlockRestore, Canonical.restoreUnit, Lands]

theorem Canonical.saveUnit {s : State} {bid : Nat} (h : Canonical s) : Canonical (s.saveUnit bid) := by
  grind [State.saveUnit, Canonical.saveBlock, Canonical.foldl]

theorem Canonical.execQuantumExpiry {die bid : Nat} {s : State} (h : Canonical s) : Lands (execQuantumExpiry die bid s) := by
  grind [execQuantumExpiry, Canonical.saveUnit, Lands]

theorem Canonical.execDormantSave {bid : Nat} {s : State} (h : Canonical s) : Lands (execDormantSave bid s) := by
  grind [execDormantSave, Canonical.saveUnit, Lands]

theorem Canonical.execPoolWaitQuantum {bid : Nat} {s : State} (h : Canonical s) : Lands (execPoolWaitQuantum bid s) := by
  grind [execPoolWaitQuantum, Canonical.saveUnit, Lands]

end Sys2Proof.Machine
end

section
/-! Memory stays canonical: commits, contexts, failures, the mailbox and power. -/

namespace Sys2Proof.Machine

set_option Elab.async false

theorem Canonical.ite {c : Prop} [Decidable c] {s t : State} (hs : Canonical s) (ht : Canonical t) : Canonical (if c then s else t) := by
  split <;> assumption

theorem Canonical.satisfy {s : State} {bid sid : Nat} (h : Canonical s) : Canonical (s.satisfy bid sid) := by
  unfold State.satisfy
  split
  · exact h
  split
  · next s1 hs =>
    have h1 : Canonical s1 := h.modSlice.rerunSliceNow s1 hs
    split
    · exact h1.modSlice
    · exact h1
  · exact h

theorem Canonical.satisfyAll {s : State} {bid : Nat} {sids : List Nat} (h : Canonical s) : Canonical (s.satisfyAll bid sids) := by
  grind [State.satisfyAll, Canonical.satisfy, Canonical.foldl]

theorem Canonical.openSaved {s : State} {bid : Nat} (h : Canonical s) : Canonical (s.openSaved bid) := by
  unfold State.openSaved
  split
  · exact h
  split
  · exact h
  · next hy => exact h.modBlock fun _ _ => (congrArg Memory.wf (Block.ofImage_window hy)).trans (memOf_wf _)

theorem Canonical.closeSaved {s : State} {bid : Nat} {b0 : Block} (h : Canonical s) : Canonical (s.closeSaved bid b0) := by
  grind [State.closeSaved, Canonical.saveBlock, Canonical.modBlock, Canonical.modDie, WindowKept]

theorem Canonical.commitRun {s : State} {r : Nat × Bool × List Byte} (h : Canonical s) : Canonical (s.commitRun r) := by
  grind [State.commitRun, Canonical.homeStoreAs]

theorem Canonical.commitOp {s : State} {b : Block} {o : BufOp} (h : Canonical s) : Canonical (s.commitOp b o) := by
  grind [State.commitOp, Canonical.log, Canonical.homeRmw]

theorem Canonical.commitOps {s : State} {b : Block} {ops : List BufOp} (h : Canonical s) : Canonical (s.commitOps b ops).1 :=
  Canonical.foldl_fst (fun _ _ hp => hp.commitOp) h

theorem Canonical.commitShadow {s : State} {k : Nat} {before : Memory} {keep : List BufOp → List BufOp} (h : Canonical s) :
    Canonical (s.commitShadow k before keep) := by
  grind [State.commitShadow, Canonical.modBlock, Canonical.satisfyAll, WindowKept, Block.noBuffers_window]

theorem Canonical.commitBlock {s : State} {bid : Nat} (h : Canonical s) : Canonical (s.commitBlock bid) := by
  grind [State.commitBlock, Canonical.commitRun, Canonical.modBlock, Canonical.commitOps, Canonical.satisfyAll, Canonical.commitShadow,
    WindowKept, Block.noBuffers_window, Canonical.foldl]

theorem Canonical.commitGroup {s : State} {d slot : Nat} (h : Canonical s) : Canonical (s.commitGroup d slot) := by
  unfold State.commitGroup
  split
  · exact h
  dsimp only
  split
  · exact h
  split
  · exact h
  refine Canonical.foldl (fun s m hs => ?_) h.releaseGroup
  split
  · exact hs.satisfyAll
  · exact hs

theorem Canonical.commitWaits {s : State} {n : Nat} {bids : List Nat} (h : Canonical s) : Canonical (s.commitWaits n bids) := by
  grind [State.commitWaits, Canonical.satisfyAll, Canonical.commitGroup, Canonical.foldl]

theorem Canonical.commitEnds {s : State} {bids : List Nat} (h : Canonical s) : Canonical (s.commitEnds bids) := by
  grind [State.commitEnds, Canonical.satisfyAll, Canonical.foldl]

theorem Canonical.settleLines {s : State} {n ctx : Nat} (h : Canonical s) : Canonical (s.settleLines n ctx) := by
  unfold State.settleLines
  extract_lets s1 s2 s3
  have h1 : Canonical s1 := Canonical.foldl (fun _ _ hs => hs.modLine) h
  have h2 : Canonical s2 := CanonicalIn.map h1 fun p hp => by split <;> exact hp
  have h3 : Canonical s3 := h2.modCtx
  exact Canonical.foldl (fun _ _ hs => hs.takeRecord) h3

theorem Canonical.keepViews {s : State} {n : Nat} {m0 : Memory} (h : Canonical s) : Canonical (s.keepViews n m0) := by
  grind [State.keepViews, Canonical]

theorem Canonical.countRound {s : State} {ctx : Nat} {bids : List Nat} {wrote : Bool} {len : Nat} (h : Canonical s) :
    Canonical (s.countRound ctx bids wrote len) := by
  grind [State.countRound, Canonical.modBlock, WindowKept, Canonical.foldl]

theorem Canonical.commit {s : State} {n : Nat} {x : Node} (h : Canonical s) : Canonical (s.commit n x) := by
  grind [State.commit, Canonical.openSaved, Canonical.commitShadow, Canonical.commitBlock, Canonical.commitEnds, Canonical.commitWaits,
    Canonical.countRound, Canonical.closeSaved, Canonical.compareShadows, Canonical.keepViews, Canonical.settleLines, Canonical.noteSeen,
    Canonical.dropVs, Canonical.startRound, Canonical.modNode, Canonical.foldl]

theorem Canonical.execRoundCommit {node : Nat} {s : State} (h : Canonical s) : Lands (execRoundCommit node s) := by
  grind [execRoundCommit, Canonical.commit, Lands]

theorem Canonical.execRoundTimeout {node : Nat} {s : State} (h : Canonical s) : Lands (execRoundTimeout node s) := by
  grind [execRoundTimeout, Canonical.modBlock, Canonical.modNode, WindowKept, Canonical.foldl, Lands]

theorem Canonical.modSlotReg {s : State} {d k : Nat} {f : CtxSlot → CtxSlot} (h : Canonical s) : Canonical (s.modSlotReg d k f) := by
  grind [State.modSlotReg, Canonical.modDie]

theorem Canonical.writeStatus {s : State} {d pa : Nat} {cause : Half} (h : Canonical s) : Canonical (s.writeStatus d pa cause) := by
  grind [State.writeStatus, Canonical.store]

theorem Canonical.failStart {s : State} {d k pa : Nat} {cause : Half} {wrote : Bool} (h : Canonical s) :
    Canonical (s.failStart d k pa cause wrote) := by
  grind [State.failStart, Canonical.modSlotReg, Canonical.writeStatus]

theorem Canonical.detach {s : State} {id : Nat} (h : Canonical s) : Canonical (s.detach id) := by
  grind [State.detach, Canonical.fresh, Canonical]

theorem Canonical.autoSwap {s : State} {c : Ctx} (h : Canonical s) : Canonical (s.autoSwap c) := by
  grind [State.autoSwap, Canonical.modCtx, Canonical.foldl]

theorem Canonical.startCtx {s : State} {d k pa : Nat} {c : Ctx} {r : NodeRec} {args : List Byte} (h : Canonical s) :
    Canonical (s.startCtx d k pa c r args) := by
  grind [State.startCtx, Canonical.fresh, Canonical.detach, Canonical.modDie, Canonical.modSlotReg, Canonical.autoSwap, Canonical.takeToken,
    Canonical.logRoot, Canonical.launch, Canonical.foldl, Canonical]

theorem Canonical.ctxStart {s : State} {die slot : Nat} {value : Dword} (h : Canonical s) : Canonical (s.ctxStart die slot value) := by
  unfold State.ctxStart
  extract_lets pa s0 fail b c tried
  have h0 : Canonical s0 := h.modSlotReg
  have hfail : ∀ c, Canonical (fail c) := fun _ => h0.failStart
  refine .ite h (.ite h0.failStart (.ite (hfail _) (.ite (hfail _) ?_)))
  split
  · exact hfail _
  refine .ite (hfail _) ?_
  split
  · exact hfail _
  · exact h0.startCtx

theorem Canonical.execCtxstart {die slot : Nat} {value : Dword} {s : State} (h : Canonical s) : Lands (execCtxstart die slot value s) := by
  grind [execCtxstart, Canonical.ctxStart, Lands]

theorem Canonical.ctxSwapOut {s : State} {die slot : Nat} (h : Canonical s) : Canonical (s.ctxSwapOut die slot) := by
  grind [State.ctxSwapOut, Canonical.modCtx]

theorem Canonical.ctxSwapIn {s : State} {die slot : Nat} (h : Canonical s) : Canonical (s.ctxSwapIn die slot) := by
  grind [State.ctxSwapIn, Canonical.autoSwap, Canonical.modCtx]

theorem Canonical.freeSlots {s : State} {id : Nat} (h : Canonical s) : Canonical (s.freeSlots id) := by
  grind [State.freeSlots, Canonical]

theorem Canonical.ctxEnd {s : State} {die slot : Nat} (h : Canonical s) : Canonical (s.ctxEnd die slot) := by
  grind [State.ctxEnd, Canonical.modSlotReg, Canonical.freeSlots, Canonical.modCtx, Canonical.beginEnding]

theorem Canonical.execCtxctlSwapOut {die slot : Nat} {s : State} (h : Canonical s) : Lands (execCtxctlSwapOut die slot s) := by
  grind [execCtxctlSwapOut, Canonical.ctxSwapOut, Lands]

theorem Canonical.execCtxctlSwapIn {die slot : Nat} {s : State} (h : Canonical s) : Lands (execCtxctlSwapIn die slot s) := by
  grind [execCtxctlSwapIn, Canonical.ctxSwapIn, Lands]

theorem Canonical.execCtxctlEnd {die slot : Nat} {s : State} (h : Canonical s) : Lands (execCtxctlEnd die slot s) := by
  grind [execCtxctlEnd, Canonical.ctxEnd, Lands]

theorem Canonical.saveAll {s : State} {ctx : Nat} (h : Canonical s) : Canonical (s.saveAll ctx) := by
  grind [State.saveAll, Canonical.saveBlock, Canonical.foldl]

theorem Canonical.dropCtxLines {s : State} {ctx : Nat} (h : Canonical s) : Canonical (s.dropCtxLines ctx) := by
  grind [State.dropCtxLines, Canonical.dropVs, Canonical.flushUo, Canonical.modDie, Canonical.dropGuests, Canonical.foldl]

theorem Canonical.wakeAll {s : State} {ctx : Nat} (h : Canonical s) : Canonical (s.wakeAll ctx) := by
  grind [State.wakeAll, Canonical.wakeDormant, Canonical.foldl]

theorem Canonical.endIfDue {s : State} {ctx : Nat} (h : Canonical s) : Canonical (s.endIfDue ctx) := by
  grind [State.endIfDue, Canonical.beginEnding]

theorem Canonical.saveGroups {s : State} {ctx : Nat} (h : Canonical s) : Canonical (s.saveGroups ctx) := by
  grind [State.saveGroups, Canonical.modCtx, Canonical]

theorem Canonical.restoreGroups {s : State} {ctx : Nat} {c : Ctx} (h : Canonical s) : Canonical (s.restoreGroups ctx c) := by
  grind [State.restoreGroups, Canonical.modCtx, Canonical.modDie, Canonical.foldl]

theorem Canonical.execSwapOutSaveDone {ctx : Nat} {s : State} (h : Canonical s) : Lands (execSwapOutSaveDone ctx s) := by
  grind [execSwapOutSaveDone, Canonical.dropCtxLines, Canonical.wakeAll, Canonical.saveAll, Canonical.modDie, Canonical.endIfDue,
    Canonical.modCtx, Canonical.saveGroups, Canonical.foldl, Lands]

theorem Canonical.retakeLeases {s : State} {ctx : Nat} (h : Canonical s) : Canonical (s.retakeLeases ctx) := by
  refine Canonical.foldl (fun s n hs => Canonical.foldl (fun s l hs => ?_) hs) h
  split
  · split
    · exact Canonical.foldl (fun _ _ hs => hs.requestLayer) hs
    · exact hs
  · exact hs

theorem Canonical.clearShadow {s : State} {ctx : Nat} (h : Canonical s) : Canonical (s.clearShadow ctx) := by
  grind [State.clearShadow, Canonical]

theorem Canonical.execSwapInRestoreDone {ctx : Nat} {s : State} (h : Canonical s) : Lands (execSwapInRestoreDone ctx s) := by
  grind [execSwapInRestoreDone, Canonical.endIfDue, Canonical.modCtx, Canonical.retakeLeases, Canonical.clearShadow,
    Canonical.restoreGroups, Lands]

theorem Canonical.clearCtx {s : State} {ctx : Nat} (h : Canonical s) : Canonical (s.clearCtx ctx) := CanonicalIn.filter h

theorem Canonical.swapBack {s : State} {id : Nat} {c : Ctx} (h : Canonical s) : Canonical (s.swapBack id c) := by
  grind [State.swapBack, Canonical.autoSwap, Canonical.modCtx]

theorem Canonical.execTeardownDone {ctx : Nat} {s : State} (h : Canonical s) : Lands (execTeardownDone ctx s) := by
  grind [execTeardownDone, Canonical.endLayer, Canonical.clearCtx, Canonical.dropCtxLines, Canonical.modCtx, Canonical.writeStatus,
    Canonical.swapBack, Canonical.foldl, Lands]

theorem Canonical.setRing {s : State} {ring brk : Nat} (h : Canonical s) : Canonical (s.setRing ring brk) := by
  grind [State.setRing, Canonical]

theorem Canonical.endLost {s : State} {p : Ctx → Bool} (h : Canonical s) : Canonical (s.endLost p) := by
  grind [State.endLost, Canonical.beginEnding, Canonical.foldl]

theorem Canonical.splitRing {s : State} (h : Canonical s) : Canonical (s.splitRing) := by
  grind [State.splitRing, Canonical.endLost, Canonical]

theorem Canonical.discardReq {s : State} {d id : Nat} {r : Req} (h : Canonical s) : Canonical (s.discardReq d id r) := by
  grind [State.discardReq, Canonical.logReq, Canonical.denyReq, Canonical.issueDone, Canonical.dropReq]

theorem Canonical.discardMsg {s : State} {id : Nat} {m : SeqMsg} (h : Canonical s) : Canonical (s.discardMsg id m) := by
  grind [State.discardMsg, Canonical.dropGuests, Canonical]

theorem Canonical.discardMsgs {s : State} {d : Nat} (h : Canonical s) : Canonical (s.discardMsgs d) := by
  grind [State.discardMsgs, Canonical.discardMsg, Canonical.log, Canonical.foldl]

theorem Canonical.dropLost {s : State} {d : Nat} (h : Canonical s) : Canonical (s.dropLost d) := by
  grind [State.dropLost, Canonical.discardReq, Canonical.discardMsgs, Canonical.foldl, Canonical]

theorem Canonical.ringLoss {s : State} {ring n : Nat} (h : Canonical s) : Canonical (s.ringLoss ring n) := by
  grind [State.ringLoss, Canonical.splitRing, Canonical.setRing, Canonical]

theorem Canonical.loseBridge {s : State} {b : Nat} (h : Canonical s) : Canonical (s.loseBridge b) := by
  grind [State.loseBridge, Canonical.ringLoss]

theorem Canonical.loseDie {s : State} {d : Nat} (h : Canonical s) : Canonical (s.loseDie d) := by
  grind [State.loseDie, Canonical.modDie, Canonical.endLost, Canonical.dropLost, Canonical.ringLoss]

theorem Canonical.wrapDone {s : State} (h : Canonical s) : Canonical (s.wrapDone) := by
  grind [State.wrapDone, Canonical.setRing, Canonical.log, Canonical.foldl, Canonical]

theorem Canonical.execBridgeLost {bridge : Nat} {s : State} (h : Canonical s) : Lands (execBridgeLost bridge s) := by
  grind [execBridgeLost, Canonical.loseBridge, Lands]

theorem Canonical.execDieLost {die : Nat} {s : State} (h : Canonical s) : Lands (execDieLost die s) := by
  grind [execDieLost, Canonical.loseDie, Lands]

theorem Canonical.execWrapComplete {s : State} (h : Canonical s) : Lands (execWrapComplete s) := by
  grind [execWrapComplete, Canonical.wrapDone, Lands]

theorem Canonical.execBayRequestArrival {req : Nat} {s : State} (h : Canonical s) : Lands (execBayRequestArrival req s) := by
  grind [execBayRequestArrival, Canonical.reqArrival, Lands]

theorem Canonical.execUnsequencedRequestApply {req : Nat} {s : State} (h : Canonical s) : Lands (execUnsequencedRequestApply req s) := by
  grind [execUnsequencedRequestApply, Canonical.denyReq, Canonical.performAt, Lands]

theorem Canonical.execSequencedMessageApply {msg : Nat} {s : State} (h : Canonical s) : Lands (execSequencedMessageApply msg s) := by
  grind [execSequencedMessageApply, Canonical.modDie, Canonical, Lands]

theorem Canonical.execPhaseCloseComplete {die core : Nat} {s : State} (h : Canonical s) : Lands (execPhaseCloseComplete die core s) := by
  grind [execPhaseCloseComplete, Canonical.completeClose, Lands]

theorem Canonical.execFillLand {fill elem : Nat} {s : State} (h : Canonical s) : Lands (execFillLand fill elem s) := by
  grind [execFillLand, Canonical.landFill, Lands]

theorem Canonical.execBayLineFill {die line : Nat} {s : State} (h : Canonical s) : Lands (execBayLineFill die line s) := by
  grind [execBayLineFill, Canonical.modLine, Lands]

theorem Canonical.countUecc {s : State} {die : Nat} (h : Canonical s) : Canonical (s.countUecc die) := by
  grind [State.countUecc, Canonical.modDie]

theorem Canonical.execEccError {die : Nat} {place : EccPlace} {s : State} (h : Canonical s) : Lands (execEccError die place s) := by
  unfold Machine.execEccError
  split
  next pa =>
    have h1 : Canonical { s with poison := physKey die pa / 128 :: s.poison } := h
    exact .ite h1.countUecc.next h.next
  · exact .ite h.modDie.countUecc.next h.next
  · split
    · exact h.next
    · exact .ite (Canonical.next (Canonical.modBlock h fun _ hb => hb)) h.next

theorem Canonical.execCorrectedEccError {die : Nat} {s : State} (h : Canonical s) : Lands (execCorrectedEccError die s) := by
  grind [execCorrectedEccError, Canonical.modDie, Lands]

theorem Canonical.execFlushingReadReturn {port flush : Nat} {s : State} (h : Canonical s) : Lands (execFlushingReadReturn port flush s) := by
  grind [execFlushingReadReturn, Canonical.modPort, Lands]

theorem Canonical.trainLinks {s : State} (h : Canonical s) : Canonical (s.trainLinks) := by
  grind [State.trainLinks, Canonical]

theorem Canonical.mapDies {s : State} {f : Nat → Die → Die} (h : Canonical s) : Canonical (s.mapDies f) := by
  grind [State.mapDies, Canonical]

theorem Canonical.setMailboxes {s : State} {st code : Nat} (h : Canonical s) : Canonical (s.setMailboxes st code) := by
  grind [State.setMailboxes, Canonical]

theorem Canonical.verifyImage {s : State} {first : Bool} (h : Canonical s) : Canonical (s.verifyImage first) := by
  grind [State.verifyImage, Canonical.setMailboxes, Canonical]

theorem Canonical.measure {s : State} (h : Canonical s) : Canonical (s.measure) := by
  grind [State.measure, Canonical.setMailboxes, Canonical]

theorem Canonical.bringStep {first : Bool} {s : State} {k : Nat} (h : Canonical s) : Canonical (State.bringStep first s k) := by
  have h8 : Canonical { s with offer := s.fuses.offer % 2 ^ 7 } := h
  unfold State.bringStep
  split
  · exact h
  split
  · exact h.trainLinks
  · exact Canonical.foldl (fun _ _ hs => hs.loseDie.wrapDone) h
  · exact h.verifyImage
  · exact h.mapDies
  · exact Canonical.foldl (fun _ _ hs => hs.loseBridge.wrapDone) h
  · exact h.mapDies
  · exact h.measure
  · exact h8.setMailboxes
  · exact h

theorem Canonical.bringSteps {s : State} {first : Bool} {k n : Nat} (h : Canonical s) : Canonical (s.bringSteps first k n) := by
  grind [State.bringSteps, Canonical.bringStep, Canonical.foldl]

theorem Canonical.bringUp {s : State} (h : Canonical s) : Canonical (s.bringUp) := by
  grind [State.bringUp, Canonical.bringSteps]

theorem Canonical.cleared {s : State} (_ : Canonical s) : Canonical (s.cleared) := by
  grind [State.cleared, Canonical.resetWith, Canonical]

theorem Canonical.rebooted {s : State} (h : Canonical s) : Canonical (s.rebooted) := by
  grind [State.rebooted, Canonical.bringUp, Canonical.cleared]

theorem Canonical.execColdReset {s : State} (h : Canonical s) : Lands (execColdReset s) := by
  grind [execColdReset, Canonical.rebooted, Lands]

theorem Canonical.execWarmReset {s : State} (h : Canonical s) : Lands (execWarmReset s) := by
  grind [execWarmReset, Canonical.rebooted, Lands]

theorem Canonical.execPort1Reset {s : State} (h : Canonical s) : Lands (execPort1Reset s) := by
  grind [execPort1Reset, Canonical.modPort, Lands]

theorem Canonical.execPowerFailure {flashBytes : Nat} {s : State} (h : Canonical s) : Lands (execPowerFailure flashBytes s) := by
  grind [execPowerFailure, Canonical.cleared, Canonical, Lands]

theorem Canonical.writeBayMap {s : State} {d word : Nat} {v : Dword} (h : Canonical s) : Canonical (s.writeBayMap d word v) := by
  grind [State.writeBayMap, Canonical.modDie]

theorem Canonical.writeLpool {s : State} {d : Nat} {v : Dword} (h : Canonical s) : Canonical (s.writeLpool d v) := by
  grind [State.writeLpool, Canonical.modDie]

theorem Canonical.commitAccept {s : State} {v : Dword} (h : Canonical s) : Canonical (s.commitAccept v) := by
  grind [State.commitAccept, Canonical]

theorem Canonical.waking {s : State} (h : Canonical s) : Canonical (s.waking) := by
  grind [State.waking, Canonical.mapDies, Canonical.cleared, Canonical]

theorem Canonical.woken {s old : State} (hs : Canonical s) (_ : Canonical old) : Canonical (s.woken old) := by
  grind [State.woken, Canonical.mapDies, Canonical]

theorem Canonical.wake {s : State} (h : Canonical s) : Canonical (s.wake) := by
  grind [State.wake, Canonical.toRun, Canonical.woken, Canonical.bringSteps, Canonical.waking]

theorem Canonical.writePwr {s : State} {v : Dword} (h : Canonical s) : Canonical (s.writePwr v) := by
  grind [State.writePwr, Canonical.wake, Canonical]

theorem Canonical.modMailbox {s : State} {p : Nat} {f : Mailbox → Mailbox} (h : Canonical s) : Canonical (s.modMailbox p f) := by
  grind [State.modMailbox, Canonical.modPort]

theorem Canonical.mbTake {s : State} {p : Nat} {op tag : Byte} (h : Canonical s) : Canonical (s.mbTake p op tag) := by
  grind [State.mbTake, Canonical.modMailbox]

theorem Canonical.mbDone {s : State} {p code : Nat} (h : Canonical s) : Canonical (s.mbDone p code) := by
  grind [State.mbDone, Canonical.modMailbox]

theorem Canonical.command {s : State} {p : Nat} {op tag : Byte} {recovery : Bool} {run : State → State}
    (hrun : ∀ s, Canonical s → Canonical (run s)) (h : Canonical s) : Canonical (s.command p op tag recovery run) := by
  unfold State.command
  split
  · exact h
  extract_lets s1
  have h1 : Canonical s1 := by
    unfold s1
    split
    · exact h.mbTake
    · exact h
  split
  · exact h1.mbDone
  · exact hrun _ h1

theorem Canonical.mbData {s : State} {p : Nat} {bytes : List Byte} (h : Canonical s) : Canonical (s.mbData p bytes) := by
  grind [State.mbData, Canonical.modMailbox]

theorem Canonical.mbMemrd {s : State} {p : Nat} (h : Canonical s) : Canonical (s.mbMemrd p) := by
  grind [State.mbMemrd, Canonical.mbDone, Canonical.recallRange, Canonical.mbData]

theorem Canonical.copyLine {s : State} {d pa : Nat} {data : List Byte} (h : Canonical s) : Canonical (s.copyLine d pa data) := by
  grind [State.copyLine, Canonical]

theorem Canonical.storeEverywhere {s : State} {d pa : Nat} {data : List Byte} (h : Canonical s) : Canonical (s.storeEverywhere d pa data) := by
  grind [State.storeEverywhere, Canonical.copyLine, Canonical.homeStore, Canonical.foldl]

theorem Canonical.mbMemwr {s : State} {p : Nat} (h : Canonical s) : Canonical (s.mbMemwr p) := by
  grind [State.mbMemwr, Canonical.mbDone, Canonical.storeEverywhere]

theorem Canonical.mbCfgrd {s : State} {p : Nat} (h : Canonical s) : Canonical (s.mbCfgrd p) := by
  grind [State.mbCfgrd, Canonical.mbDone, Canonical.mbData]

theorem Canonical.mbImgload {s : State} {p : Nat} (h : Canonical s) : Canonical (s.mbImgload p) := by
  grind [State.mbImgload, Canonical.mbDone, Canonical.modMailbox, Canonical]

theorem Canonical.mbImgcommit {s : State} {p : Nat} (h : Canonical s) : Canonical (s.mbImgcommit p) := by
  grind [State.mbImgcommit, Canonical.mbDone, Canonical]

theorem Canonical.mbAttest {s : State} {p : Nat} (h : Canonical s) : Canonical (s.mbAttest p) := by
  grind [State.mbAttest, Canonical.mbDone, Canonical.mbData]

theorem Canonical.mbCert {s : State} {p : Nat} (h : Canonical s) : Canonical (s.mbCert p) := by
  grind [State.mbCert, Canonical.mbDone, Canonical.modMailbox, Canonical.mbData]

theorem Canonical.mbFreeze {s : State} {p : Nat} (h : Canonical s) : Canonical (s.mbFreeze p) := by
  grind [State.mbFreeze, Canonical.mbDone, Canonical]

theorem Canonical.runOp {s : State} {p : Nat} {op tag : Byte} (h : Canonical s) : Canonical (s.runOp p op tag) := by
  unfold State.runOp
  split
  exacts [h.command fun _ hs => hs.mbMemrd, h.command fun _ hs => hs.mbMemwr, h.command fun _ hs => hs.mbCfgrd,
    h.command fun _ hs => hs.mbImgload, h.command fun _ hs => hs.mbImgcommit, h.command fun _ hs => hs.mbAttest,
    h.command fun _ hs => hs.mbCert, h.command fun _ hs => hs.mbFreeze, h.command fun _ hs => hs.rebooted,
    h.command fun _ hs => hs.mbDone]

theorem Canonical.execMemrd {port : Nat} {tag : Byte} {s : State} (h : Canonical s) : Lands (execMemrd port tag s) :=
  (Canonical.command (fun _ hs => hs.mbMemrd) h).next

theorem Canonical.execMemwr {port : Nat} {tag : Byte} {s : State} (h : Canonical s) : Lands (execMemwr port tag s) :=
  (Canonical.command (fun _ hs => hs.mbMemwr) h).next

theorem Canonical.execCfgrd {port : Nat} {tag : Byte} {s : State} (h : Canonical s) : Lands (execCfgrd port tag s) :=
  (Canonical.command (fun _ hs => hs.mbCfgrd) h).next

theorem Canonical.execImgload {port : Nat} {tag : Byte} {s : State} (h : Canonical s) : Lands (execImgload port tag s) :=
  (Canonical.command (fun _ hs => hs.mbImgload) h).next

theorem Canonical.execImgcommit {port : Nat} {tag : Byte} {s : State} (h : Canonical s) : Lands (execImgcommit port tag s) :=
  (Canonical.command (fun _ hs => hs.mbImgcommit) h).next

theorem Canonical.execAttest {port : Nat} {tag : Byte} {s : State} (h : Canonical s) : Lands (execAttest port tag s) :=
  (Canonical.command (fun _ hs => hs.mbAttest) h).next

theorem Canonical.execCert {port : Nat} {tag : Byte} {s : State} (h : Canonical s) : Lands (execCert port tag s) :=
  (Canonical.command (fun _ hs => hs.mbCert) h).next

theorem Canonical.execFreeze {port : Nat} {tag : Byte} {s : State} (h : Canonical s) : Lands (execFreeze port tag s) :=
  (Canonical.command (fun _ hs => hs.mbFreeze) h).next

theorem Canonical.execReset {port : Nat} {tag : Byte} {s : State} (h : Canonical s) : Lands (execReset port tag s) :=
  (Canonical.command (fun _ hs => hs.rebooted) h).next

theorem Canonical.startMailbox {port : Nat} {op tag : Byte} {s : State} (h : Canonical s) : Lands (startMailbox port op tag s) := by
  grind [startMailbox, Canonical.mbTake, Lands]

theorem Canonical.takeData {s t : State} {p : Nat} {part : List Nat} (hs : Canonical s) (_ : Canonical t) :
    Canonical (s.takeData t p part) := by
  grind [State.takeData, Canonical.modMailbox, Canonical.foldl]

theorem Canonical.mbPartly {s : State} {p : Nat} {part : List Nat} (h : Canonical s) : Canonical (s.mbPartly p part) := by
  grind [State.mbPartly, Canonical.takeData, Canonical.mbMemrd, Canonical.storeEverywhere, Canonical.mbCfgrd, Canonical.mbImgload,
    Canonical.mbImgcommit, Canonical.mbAttest, Canonical.mbCert, Canonical.foldl, Canonical]

theorem Canonical.freezeInCommand {port : Nat} {part : List Nat} {s : State} (h : Canonical s) : Lands (freezeInCommand port part s) := by
  grind [freezeInCommand, Canonical.mbPartly, Canonical, Lands]

theorem Canonical.freezeInBringUp {n : Nat} {s : State} (h : Canonical s) : Lands (freezeInBringUp n s) := by
  grind [freezeInBringUp, Canonical.bringSteps, Canonical.cleared, Canonical, Lands]

theorem Canonical.execFreezeN {s : State} (h : Canonical s) : Lands (execFreezeN s) := by
  grind [execFreezeN, Canonical, Lands]

theorem Canonical.execAcceptWrite {port : Nat} {value : Dword} {s : State} (h : Canonical s) : Lands (execAcceptWrite port value s) := by
  grind [execAcceptWrite, Canonical.commitAccept, Lands]

theorem Canonical.execPwrWrite {port : Nat} {value : Dword} {s : State} (h : Canonical s) : Lands (execPwrWrite port value s) := by
  grind [execPwrWrite, Canonical.writePwr, Lands]

theorem Canonical.execBayMapWrite {die word : Nat} {value : Dword} {s : State} (h : Canonical s) : Lands (execBayMapWrite die word value s) := by
  grind [execBayMapWrite, Canonical.writeBayMap, Lands]

theorem Canonical.execLpoolWrite {die : Nat} {value : Dword} {s : State} (h : Canonical s) : Lands (execLpoolWrite die value s) := by
  grind [execLpoolWrite, Canonical.writeLpool, Lands]

theorem Canonical.writeDie {s : State} {d off : Nat} {v : Dword} (h : Canonical s) : Canonical (s.writeDie d off v) := by
  grind [State.writeDie, Canonical.writeBayMap, Canonical.writeLpool, Canonical.ctxStart, Canonical.ctxSwapOut, Canonical.ctxSwapIn,
    Canonical.ctxEnd]

theorem Canonical.writeBar0 {s : State} {port off : Nat} {v : Dword} (h : Canonical s) : Canonical (s.writeBar0 port off v) := by
  grind [State.writeBar0, Canonical.writeDie, Canonical.runOp, Canonical.modMailbox, Canonical.commitAccept, Canonical.writePwr, Canonical]

theorem Canonical.execConfigRegisterWrite {port off : Nat} {data : List Byte} {s : State} (h : Canonical s) :
    Lands (execConfigRegisterWrite port off data s) := by
  grind [execConfigRegisterWrite, Canonical.modMailbox, Canonical.modPort, Canonical.writeBar0, Lands]

theorem Canonical.readBar0 {port off n : Nat} {s : State} (h : Canonical s) : Lands (readBar0 port off n s) := by
  grind [readBar0, Canonical, Lands]

theorem Canonical.storeHost {port addr : Nat} {x : Byte} {s : State} (h : Canonical s) : Lands (storeHost port addr x s) := by
  grind [storeHost, Canonical.modPort, Lands]

theorem Canonical.noteBar2 {s : State} {port d pa n : Nat} (h : Canonical s) : Canonical (s.noteBar2 port d pa n) := by
  grind [State.noteBar2, Canonical.modPort, Canonical.foldl]

theorem Canonical.bar2Store {s : State} {port : Nat} {xs : List (Nat × Nat)} {ys : List Byte} (h : Canonical s) :
    Canonical (s.bar2Store port xs ys) := by
  induction xs generalizing s ys with
  | nil => exact h
  | cons x xs ih =>
    refine ih ?_
    split
    · exact h.homeStore.noteBar2
    · exact h

theorem Canonical.execBar2Write {port off : Nat} {data : List Byte} {s : State} (h : Canonical s) : Lands (execBar2Write port off data s) := by
  grind [execBar2Write, Canonical.bar2Store, Lands]

theorem Canonical.execBar2Read {port off n : Nat} {s : State} (h : Canonical s) : Lands (execBar2Read port off n s) := by
  grind [execBar2Read, Canonical.recallRange, Canonical.foldl, Canonical, Lands]

theorem Canonical.execHostCxlSnoop {port addr : Nat} {s : State} (h : Canonical s) : Lands (execHostCxlSnoop port addr s) := by
  grind [execHostCxlSnoop, Canonical.modPort, Canonical, Lands]

theorem Canonical.enterPower {s : State} {st : Nat} (h : Canonical s) : Canonical (s.enterPower st) := by
  unfold State.enterPower
  extract_lets s1 s2
  have h1 : Canonical s1 := by
    unfold s1
    split
    · exact Canonical.foldl (fun _ _ hs => hs.saveUnit) h
    · exact h
  have h2 : Canonical s2 := by
    unfold s2
    split
    · exact ⟨Memory.wf_nil, h1.windows⟩
    · exact h1
  exact h2

theorem Canonical.execPowerStateEntry {s : State} (h : Canonical s) : Lands (execPowerStateEntry s) := by
  grind [execPowerStateEntry, Canonical.enterPower, Lands]

theorem Canonical.execPowerWake {s : State} (h : Canonical s) : Lands (execPowerWake s) := by
  grind [execPowerWake, Canonical.wake, Lands]

theorem Canonical.powerCheck {s : State} {m : Move} (h : Canonical s) : Canonical (s.powerCheck m) := by
  grind [State.powerCheck, Canonical.wake]

theorem Canonical.freezeInPower {st n : Nat} {s : State} (h : Canonical s) : Lands (freezeInPower st n s) := by
  grind [freezeInPower, Canonical.mapDies, Canonical.bringSteps, Canonical.waking, Canonical.saveUnit, Canonical.foldl, Canonical, Lands]

theorem Canonical.execThrottling {die vector matrix : Nat} {s : State} (h : Canonical s) : Lands (execThrottling die vector matrix s) := by
  grind [execThrottling, Canonical.modDie, Lands]

theorem Canonical.execTapReadout {die : Nat} {inst : Instrument} {s : State} (h : Canonical s) : Lands (execTapReadout die inst s) :=
  .ite h.next (Canonical.next h)

theorem Canonical.tapInstr {k : TapInstr} {s : State} (h : Canonical s) : Lands (tapInstr k s) := by
  refine Canonical.next ?_
  split
  · exact h
  · exact h
  · split <;> exact h

end Sys2Proof.Machine
end

section
/-! Memory stays canonical (O59): the dispatch and the step. -/

namespace Sys2Proof.Machine

set_option Elab.async false

/-- A row of the dispatch that is no instruction of a slice. -/
theorem Canonical.execEvent {i : Instr} {s : State} (hp : i.parts? = none) (h : Canonical s) : Lands (exec i s) := by
  cases i <;> simp only [Instr.parts?, reduceCtorEq] at hp
  exacts [
    h.execMonitorPoll, h.execWaitSatisfied, h.execCallSetRelease, h.execGangSwitch, h.execFillLand, h.execFillFaultDelivery, h.execParkTimeout,
    h.execPoolWaitServed, h.execRefill, h.execPoolWaitQuantum, h.execPhaseCloseComplete, h.execUnsequencedRequestApply, h.execSequencedMessageApply,
    h.execBayLineFill, h.execEccError, h.execFlushingReadReturn, h.execEntryTurn, h.execPieceWrite, h.execPieceFail, h.execEntryComplete,
    h.execFenceEntryComplete, h.execSlotFillLand, h.execSlotFillFault, h.execSlotOperandReadEnd, h.execStreamEntryBegin, h.execStreamEntryComplete,
    h.execDrnaGrant, h.execDrnaAddition, h.execCollectiveTurn, h.execCollectiveAnnounce, h.execBaleLand, h.execWithdrawNotice,
    h.execCollectiveDeadline, h.execCollectiveComplete, h.execNodeAccept, h.execPredecessorComplete, h.execLeaseGrant, h.execHostSignal,
    h.execBlockPlacement, h.execQuantumExpiry, h.execDormantSave, h.execBlockRestore, h.execRoundCommit, h.execRoundTimeout, h.execNodeCompletion,
    h.execKernelRecordFree, h.execLayerTurn, h.execLayerPageLand, h.execEvictionComplete, h.execCtxstart, h.execCtxctlSwapOut, h.execCtxctlSwapIn,
    h.execCtxctlEnd, h.execSwapOutSaveDone, h.execSwapInRestoreDone, h.execTeardownDone, h.execBridgeLost, h.execDieLost, h.execWrapComplete,
    h.execFlitReceive, h.execFlitNak, h.execPacketRequest, h.execPacketReply, h.execReplayTimeout, h.execSwitchDownNotice, h.execPetixaRetrain,
    h.execColdReset, h.execWarmReset, h.execPort1Reset, h.execAcceptWrite, h.execPwrWrite, h.execBayMapWrite, h.execLpoolWrite,
    h.execConfigRegisterWrite, h.execMemrd, h.execMemwr, h.execCfgrd, h.execImgload, h.execImgcommit, h.execAttest, h.execCert, h.execFreeze,
    h.execReset, h.execBar2Write, h.execBar2Read, h.execHostCxlSnoop, h.execFreezeN, h.execTapReadout, h.execPowerStateEntry, h.execPowerWake,
    h.execUnassignedOpcode, h.execFetchFault, h.execBayRequestArrival, h.execPowerFailure, h.execThrottling, h.execCorrectedEccError]

theorem Canonical.exec {i : Instr} {s : State} (h : Canonical s) : Lands (exec i s) := by
  by_cases hp : i.parts? = none
  · exact h.execEvent hp
  · exact h.execSlice hp

theorem Canonical.performMove {s : State} {m : Move} (h : Canonical s) : Lands (s.perform m) := by
  unfold State.perform
  split
  exacts [h.issue fun _ _ h => h.exec, .ite h.next h.exec, h.storeHost, h.readBar0, h.startMailbox, h.freezeInCommand, h.collSend.next,
    h.collTook.next, h.freezeInBringUp, h.freezeInPower, h.tapInstr, h.acceptPeer, h.performPeer]

theorem Canonical.step {s : State} (h : Canonical s) : Lands (step s) :=
  .ite h.nextMove.passTime.next h.nextMove.passTime.powerCheck.performMove

end Sys2Proof.Machine

namespace Sys2Proof

open Machine

/-- Settles O59: what every step keeps is that memory and each window are canonical, which each function of the model keeps. -/
theorem memoryCanonical : Obligations.MemoryCanonical := by
  unfold Obligations.MemoryCanonical
  intro s t hs ht
  exact memOk_iff_canonical.mpr ((memOk_iff_canonical.mp hs).step t ht)

end Sys2Proof
end

section
/-! SUPPORT. What PRF, PIN, UNPIN, WAITC and PRES answer (R186, R188, R208 to R211). -/

namespace Sys2Proof.Machine

/-! ### Rows -/

/-- The row of PRF. -/
def encPrf : Enc := { opc := 0x6C, lens := [1, 2, 3], sa := .w64, lit := .role, md := 1 }

/-- The row of PIN. -/
def encPin (f : Fields) : Enc :=
  { opc := 0x6D, lens := [2, 3], dst := if bitOf (modOf f) 0 then .w32 else .pd, sa := .w64, lit := .role, md := 1 }

/-- The row of UNPIN. -/
def encUnpin : Enc := { opc := 0x6E, lens := [1, 2, 3], sa := .w64, lit := .role }

/-- The row of WAITC. -/
def encWaitc : Enc := { opc := 0x6F, lens := [2], gov0 := true, md := 0xFF, extra := fun f _ => modOf f / 64 % 4 != 3 }

/-! ### Results -/

/-- The lines that PRF and UNPIN name: one byte for each active lane. -/
def Env.laneBytes (v : Env) : List MElem := v.globalElems v.a.v 1 1 (lanesOf v.act)

theorem lanesOf_isEmpty (act : BitVec 4) : (lanesOf act).isEmpty = true ↔ act = 0 := by
  revert act
  decide

theorem lanesOf_eq_nil {act : BitVec 4} : lanesOf act = [] ↔ act = 0 := List.isEmpty_iff.symm.trans (lanesOf_isEmpty act)

/-- A lane of the four is active where its bit is set. -/
theorem mem_lanesOf_iff {act : BitVec 4} {l : Nat} : l ∈ lanesOf act ↔ act.getLsbD l = true := by
  rw [lanesOf, List.mem_filter, List.mem_range]
  exact and_iff_right_of_imp BitVec.lt_of_getLsbD

/-! ### PIN -/

section
variable {v : Env} {s : State}

/-- A way for the line of some lane cannot be freed yet. -/
def PinHeld (v : Env) (s : State) : Prop := ∃ l, l < 4 ∧ (s.pinLanes v).2.get l = 3

theorem any_held_iff : (List.range 4).any (fun l => (s.pinLanes v).2.get l == 3) = true ↔ PinHeld v s := by
  simp [PinHeld, List.any_eq_true]

/-- The meaning of PIN. -/
def pinBody (asV : Bool) (v : Env) (s : State) : Res :=
  let st := (s.pinLanes v).2
  let eff := fun s => (s.pinLanes v).1
  if (List.range 4).any (fun l => st.get l == 3) then .wait s
  else if asV then .done { regs := [v.write false st .g], eff := eff }
  else match predRes v (fun l => st.get l == 0) with
    | .done o => .done { o with eff := eff }
    | r => r

theorem exec_pin_body (f : Fields) (s : State) : exec (.pin f) s = runInstr (encPin f) f (pinBody (bitOf (modOf f) 0)) s := rfl

theorem pinBody_held {asV : Bool} (h : PinHeld v s) : pinBody asV v s = .wait s := if_pos (any_held_iff.mpr h)

theorem pinBody_value (h : ¬PinHeld v s) :
    pinBody true v s = .done { regs := [v.write false (s.pinLanes v).2 .g], eff := fun s => (s.pinLanes v).1 } :=
  if_neg (mt any_held_iff.mp h)

theorem pinBody_pred (h : ¬PinHeld v s) :
    pinBody false v s = .done { predOut v (fun l => (s.pinLanes v).2.get l == 0) with eff := fun s => (s.pinLanes v).1 } :=
  if_neg (mt any_held_iff.mp h)

end

/-! ### WAITC -/

/-- The counters that WAITC looks at are low enough (R210). -/
def CountersLow (v : Env) (s : State) : Prop :=
  match v.md / 64 % 4 with
  | 0 => s.gangCount v.bid v.gang true ≤ v.md % 64
  | 1 => s.gangCount v.bid v.gang false ≤ v.md % 64
  | _ => s.gangCount v.bid v.gang true ≤ v.md % 64 ∧ s.gangCount v.bid v.gang false ≤ v.md % 64

/-- The meaning of WAITC. -/
def waitcBody (v : Env) (s : State) : Res :=
  let n := v.md % 64
  let ld := decide (s.gangCount v.bid v.gang true ≤ n)
  let st := decide (s.gangCount v.bid v.gang false ≤ n)
  if (match v.md / 64 % 4 with | 0 => ld | 1 => st | _ => ld && st) then .done {} else .wait s

theorem exec_waitc_body (f : Fields) (s : State) : exec (.waitc f) s = runInstr encWaitc f waitcBody s := rfl

theorem countersLow_iff {v : Env} {s : State} :
    (match v.md / 64 % 4 with
      | 0 => decide (s.gangCount v.bid v.gang true ≤ v.md % 64)
      | 1 => decide (s.gangCount v.bid v.gang false ≤ v.md % 64)
      | _ => decide (s.gangCount v.bid v.gang true ≤ v.md % 64) && decide (s.gangCount v.bid v.gang false ≤ v.md % 64)) = true ↔
    CountersLow v s := by
  unfold CountersLow
  split <;> simp only [decide_eq_true_eq, Bool.and_eq_true]

theorem waitcBody_low {v : Env} {s : State} (h : CountersLow v s) : waitcBody v s = .done {} := if_pos (countersLow_iff.mpr h)

theorem waitcBody_waits {v : Env} {s : State} (h : ¬CountersLow v s) : waitcBody v s = .wait s := if_neg (mt countersLow_iff.mp h)

/-! ### PRES -/

/-- The offset of a lane that PRES reads. -/
def Env.presOffset (v : Env) (l : Nat) : Int := ((v.al l % 2 ^ 32 : Nat) : Int) + (v.f.lit?.getD 0).toInt

/-- The state of the line of a lane (R188). -/
def Env.presState (v : Env) (l : Nat) : Nat :=
  if v.act.getLsbD l then (v.b.presence ((v.presOffset l).toNat / 128)).state.code else 0

/-- The offset of the lines that PRES sets or clears. -/
def Env.presBase (v : Env) : Int := (v.a.scalar : Int) + (v.f.lit?.getD 0).toInt

/-- The lines that PRES sets or clears. -/
def Env.presLines (v : Env) : Nat := v.md / 4 % 128 + 1

/-- PRES sets or clears a run of lines, at the time that `s` shows. -/
def Env.presRun (v : Env) (s : State) (b : Block) : Block :=
  (List.range v.presLines).foldl (fun b i =>
    let k := v.presBase.toNat / 128 + i
    b.setPresence k (if v.md % 4 = 1 then (b.presence k).set else (b.presence k).clr (s.sinceNow v.b.die))) b

/-- The meaning of PRES. -/
def presBody (f : Fields) (v : Env) (s : State) : Res :=
  let lanes := lanesOf v.act
  if v.md % 4 = 0 then
    let es := v.winElems v.a.v 1 1 lanes
    match pickFail ((es.filter (fun q => !v.b.inWindow q.2.2 1)).map (fun q => LaneFail.mk q.1 0x0310 (wrapNat 64 q.2.2))) with
    | some (c, a, ls) => .raise c a ls
    | none =>
      let st := fun l => match es.find? (fun q => q.1 == l) with
        | some q => (v.b.presence (q.2.2.toNat / 128)).state.code
        | none => 0
      laneRes v false st .g
  else if lanes.isEmpty then .done {}
  else
    let n := v.md / 4 % 128 + 1
    let o : Int := (v.a.scalar : Int) + litInt f
    if !decide (0 ≤ o) || !v.b.inWindow (o / 128 * 128) (n * 128) then .raise 0x0310 (BitVec.ofInt 64 o) v.act
    else
      let l0 := o.toNat / 128
      let now := s.sinceNow v.b.die
      doneEff (fun s => s.modBlock v.bid (fun b => (List.range n).foldl (fun b i =>
        b.setPresence (l0 + i) (if v.md % 4 = 1 then (b.presence (l0 + i)).set else (b.presence (l0 + i)).clr now)) b))

theorem exec_pres_body (f : Fields) (s : State) : exec (.pres f) s = runInstr (encPres f) f (presBody f) s := rfl

/-- The one element of each active lane. -/
theorem winElems_one (v : Env) : v.winElems v.a.v 1 1 (lanesOf v.act) = (lanesOf v.act).map (fun l => (l, 0, v.presOffset l)) := by
  simp only [Env.winElems, Env.presOffset, Env.al, litInt, List.range_one, List.map_singleton, Int.natCast_emod, Nat.zero_mul, Int.natCast_zero,
    Int.add_zero]
  exact List.map_eq_flatMap.symm

theorem find?_beq_eq (ks : List Nat) (l : Nat) : ks.find? (fun k => k == l) = if l ∈ ks then some l else none := by
  induction ks with
  | nil => rfl
  | cons k ks ih =>
    by_cases h : k = l
    · simp [h]
    · simp [h, Ne.symm h, ih]

/-- What PRES reads for a lane. -/
theorem presState_eq (v : Env) (l : Nat) :
    (match (v.winElems v.a.v 1 1 (lanesOf v.act)).find? (fun q => q.1 == l) with
      | some q => (v.b.presence (q.2.2.toNat / 128)).state.code
      | none => 0) = v.presState l := by
  rw [winElems_one, List.find?_map, show ((fun q : Nat × Nat × Int => q.1 == l) ∘ fun l => (l, 0, v.presOffset l)) = fun k => k == l from rfl,
    find?_beq_eq, Env.presState]
  simp only [mem_lanesOf_iff]
  by_cases ha : v.act.getLsbD l = true
  · simp only [if_pos ha, Option.map_some]
  · simp only [if_neg ha, Option.map_none]

/-- PRES reads where the byte of each active lane lies in the window. -/
theorem presBody_reads {f : Fields} {v : Env} {s : State} (hq : v.md % 4 = 0)
    (hin : ∀ l, l < 4 → v.act.getLsbD l = true → 0 ≤ v.presOffset l ∧ v.presOffset l + 1 ≤ v.b.scratch) :
    presBody f v s = .done { regs := [v.write false (quadNat v.presState) .g] } := by
  have hfails : (v.winElems v.a.v 1 1 (lanesOf v.act)).filter (fun q => !v.b.inWindow q.2.2 1) = [] := by
    rw [winElems_one, List.filter_eq_nil_iff]
    intro q hq
    obtain ⟨l, hl, rfl⟩ := List.mem_map.mp hq
    have ha := mem_lanesOf hl
    obtain ⟨h0, h1⟩ := hin l (BitVec.lt_of_getLsbD ha) ha
    simp [Block.inWindow, h0, h1]
  simp only [presBody, if_pos hq, hfails, List.map_nil, presState_eq]
  rfl

theorem presBody_idle {f : Fields} {v : Env} {s : State} (hq : v.md % 4 ≠ 0) (ha : v.act = 0) : presBody f v s = .done {} :=
  (if_neg hq).trans (if_pos ((lanesOf_isEmpty _).mpr ha))

/-- PRES sets or clears where its lines lie in the window. -/
theorem presBody_runs {f : Fields} {v : Env} {s : State} (hf : v.f = f) (hq : v.md % 4 ≠ 0) (ha : v.act ≠ 0) (h0 : 0 ≤ v.presBase)
    (h1 : v.presBase / 128 * 128 + v.presLines * 128 ≤ v.b.scratch) :
    presBody f v s = doneEff (fun t => t.modBlock v.bid (v.presRun s)) := by
  have hin : (!decide (0 ≤ v.presBase) || !v.b.inWindow (v.presBase / 128 * 128) (v.presLines * 128)) ≠ true := by
    have : 0 ≤ v.presBase / 128 * 128 := by omega
    simp only [Block.inWindow, h0, this, Int.natCast_mul, Nat.cast_ofNat, h1]
    decide
  subst hf
  exact (if_neg hq).trans ((if_neg (mt (lanesOf_isEmpty _).mp ha)).trans (if_neg hin))

end Sys2Proof.Machine
end

section
/-! PRF, PIN, UNPIN, WAITC and PRES (R186, R188, R208 to R211). -/

namespace Sys2Proof

open Sys2Proof.Machine

theorem prf_gives : Gives .prf (fun _ => encPrf)
    (fun v _ => doing (fun s => v.laneBytes.foldl (fun s e => s.prefetch v e.va (bitOf v.md 0)) s)) :=
  gives_of exec_prf fun _ _ _ _ _ _ h => runInstr_went_none h rfl rfl rfl rfl (fun _ _ => rfl)

theorem unpin_gives : Gives .unpin (fun _ => encUnpin) (fun v _ => doing (fun s => v.laneBytes.foldl (fun s e => s.unpinOne v e.va) s)) :=
  gives_of exec_unpin fun _ _ _ _ _ _ h => runInstr_went_none h rfl rfl rfl rfl (fun _ _ => rfl)

theorem pin_waits : Waits .pin encPin (fun v s s1 => s1 = s ∧ PinHeld v s) :=
  waits_of exec_pin_body fun _ _ _ _ _ _ _ _ hr => by
    obtain ⟨rfl, hheld⟩ := hr
    exact pinBody_held hheld

theorem pin_gives_value : GivesIf .pin encPin (fun v s => bitOf (modOf v.f) 0 = true ∧ ¬PinHeld v s)
    (fun v s => { regs := [v.write false (s.pinLanes v).2 .g], eff := fun s => (s.pinLanes v).1 }) :=
  givesIf_plain exec_pin_body fun f s bid sid b x _ hc => by
    obtain ⟨hv, hfree⟩ := hc
    change bitOf (modOf f) 0 = true at hv
    rw [hv]
    exact ⟨pinBody_value hfree, plain_one rfl (by simp [encPin, hv, Dst.span]; rfl) _ _⟩

theorem pin_gives_pred : GivesIf .pin encPin (fun v s => bitOf (modOf v.f) 0 = false ∧ ¬PinHeld v s)
    (fun v s => { predOut v (fun l => (s.pinLanes v).2.get l == 0) with eff := fun s => (s.pinLanes v).1 }) :=
  givesIf_plain exec_pin_body fun f s bid sid b x _ hc => by
    obtain ⟨hv, hfree⟩ := hc
    change bitOf (modOf f) 0 = false at hv
    rw [hv]
    exact ⟨pinBody_pred hfree, .inl rfl, rfl, rfl, fun _ _ => rfl⟩

theorem waitc_gives : GivesIf .waitc (fun _ => encWaitc) CountersLow (fun _ _ => {}) :=
  givesIf_plain exec_waitc_body fun _ _ _ _ _ _ _ hc => ⟨waitcBody_low hc, plain_none _ _⟩

theorem waitc_waits : Waits .waitc (fun _ => encWaitc) (fun v s s1 => s1 = s ∧ ¬CountersLow v s) :=
  waits_of exec_waitc_body fun _ _ _ _ _ _ _ _ hr => by
    obtain ⟨rfl, hhigh⟩ := hr
    exact waitcBody_waits hhigh

theorem pres_gives_idle : GivesIf .pres encPres (fun v _ => v.md % 4 ≠ 0 ∧ v.act = 0) (fun _ _ => {}) :=
  givesIf_plain exec_pres_body fun _ _ _ _ _ _ _ hc => ⟨presBody_idle hc.1 hc.2, plain_none _ _⟩

theorem pres_gives_run : GivesIf .pres encPres
    (fun v _ => v.md % 4 ≠ 0 ∧ v.act ≠ 0 ∧ 0 ≤ v.presBase ∧ v.presBase / 128 * 128 + v.presLines * 128 ≤ v.b.scratch)
    (fun v s => doing (fun t => t.modBlock v.bid (v.presRun s))) :=
  givesIf_plain exec_pres_body fun _ _ _ _ _ _ _ hc => by
    obtain ⟨hq, ha, h0, h1⟩ := hc
    exact ⟨presBody_runs rfl hq ha h0 h1, plain_none _ _⟩

theorem pres_gives_state : GivesIf .pres encPres
    (fun v _ => v.md % 4 = 0 ∧ ∀ l, l < 4 → v.act.getLsbD l = true → 0 ≤ v.presOffset l ∧ v.presOffset l + 1 ≤ v.b.scratch)
    (fun v _ => { regs := [v.write false (quadNat v.presState) .g] }) :=
  givesIf_plain exec_pres_body fun f _ _ _ _ _ _ hc => by
    obtain ⟨hq, hin⟩ := hc
    have hdst : (encPres f).dst = .w32 := if_pos hq
    exact ⟨presBody_reads hq hin, plain_one rfl (by rw [hdst]; exact le_rfl) _ _⟩

/-- Settles O18: PRF and UNPIN have an effect for each active lane; PIN, WAITC and PRES answer by what they find. -/
theorem cacheControl : Obligations.CacheControl := by
  unfold Obligations.CacheControl
  exact ⟨prf_gives, pin_waits, pin_gives_value, pin_gives_pred, unpin_gives, waitc_gives, waitc_waits, pres_gives_idle, pres_gives_run,
    pres_gives_state⟩

end Sys2Proof
end

section
/-! SUPPORT. What a recall leaves (R96, R254, R257): the registers of every block, the fills and the pool of every core. -/

namespace Sys2Proof

open Sys2Proof.Machine

/-- A block but for its mark that a monitor has fired for it. -/
def Machine.Block.unmarked (b : Block) : Block := { b with dormant := false }

/-- A change of a listed record that neither before nor after meets a condition leaves the records that meet it. -/
theorem Tab.filter_put_of_false {α : Type} {q : Nat × α → Bool} {t : Tab α} {k : Nat} {x y : α} (hx : t.get? k = some x)
    (hqx : q (k, x) = false) (hqy : q (k, y) = false) : List.filter q (Tab.put t k y) = List.filter q t := by
  induction t with
  | nil => simp at hx
  | cons p t ih =>
    obtain ⟨j, z⟩ := p
    unfold Tab.put
    unfold Tab.get? at hx
    split
    · rw [List.filter_cons_of_neg (by simp [hqy])]
    split at hx
    · next hj =>
      subst hj
      cases hx
      simp [hqx, hqy]
    · next hj =>
      rw [if_neg (Ne.symm hj), List.filter_cons, List.filter_cons, ih hx]

/-- The registers of every block, the fills, and the partition word and the waiting requests of every core are as they were; so are the
fuses, from which a die that the package does not list is read. -/
structure PoolKept (s t : State) : Prop where
  block : ∀ k, (t.blocks.get? k).map Block.unmarked = (s.blocks.get? k).map Block.unmarked
  unsaved : ∀ q : Nat × Block → Bool, (∀ p, q p = true → p.2.state ≠ .saved) → t.blocks.filter q = s.blocks.filter q
  fills : t.fills = s.fills
  fuses : t.fuses = s.fuses
  cores : ∀ d c, (t.core d c).partw = (s.core d c).partw ∧ (t.core d c).waiters = (s.core d c).waiters

namespace PoolKept

theorem refl (s : State) : PoolKept s s := ⟨fun _ => rfl, fun _ _ => rfl, rfl, rfl, fun _ _ => ⟨rfl, rfl⟩⟩

theorem trans {s t u : State} (h : PoolKept s t) (k : PoolKept t u) : PoolKept s u where
  block i := (k.block i).trans (h.block i)
  unsaved q hq := (k.unsaved q hq).trans (h.unsaved q hq)
  fills := k.fills.trans h.fills
  fuses := k.fuses.trans h.fuses
  cores d c := ⟨(k.cores d c).1.trans (h.cores d c).1, (k.cores d c).2.trans (h.cores d c).2⟩

theorem foldl {α : Type} {f : State → α → State} (hf : ∀ s a, PoolKept s (f s a)) (l : List α) (s : State) : PoolKept s (l.foldl f s) := by
  induction l generalizing s with
  | nil => exact refl s
  | cons a l ih => exact (hf s a).trans (ih (f s a))

/-- A change of neither blocks nor fills that keeps the pool of every core. -/
theorem of_cores {s t : State} (hb : t.blocks = s.blocks) (hf : t.fills = s.fills) (hu : t.fuses = s.fuses)
    (hc : ∀ d c, (t.core d c).partw = (s.core d c).partw ∧ (t.core d c).waiters = (s.core d c).waiters) : PoolKept s t :=
  ⟨fun _ => by rw [hb], fun _ _ => by rw [hb], hf, hu, hc⟩

theorem of_judged {s t : State} (h : Judged s t) : PoolKept s t := of_cores (by rw [h.1]) (by rw [h.1]) (by rw [h.1]) h.2

theorem of_dies {s t : State} (hb : t.blocks = s.blocks) (hf : t.fills = s.fills) (hu : t.fuses = s.fuses) (hd : t.dies = s.dies) :
    PoolKept s t :=
  of_cores hb hf hu fun d c => by simp [State.core, State.die, hd, hu]

theorem modDie (s : State) (d : Nat) {f : Die → Die} (hf : ∀ x, (f x).cores = x.cores) : PoolKept s (s.modDie d f) :=
  of_judged (judged_modDie s d f hf)

theorem modCore (s : State) (d c : Nat) {f : Core → Core} (hf : ∀ x, (f x).partw = x.partw ∧ (f x).waiters = x.waiters) :
    PoolKept s (s.modCore d c f) := of_judged (judged_modCore s d c f hf)

/-- A change of every die at once. -/
theorem mapDies {s t : State} (g : Die → Die) (hg : ∀ x, (g x).cores = x.cores) (hb : t.blocks = s.blocks) (hf : t.fills = s.fills)
    (hu : t.fuses = s.fuses) (hd : t.dies = s.dies.map (fun p => (p.1, g p.2))) : PoolKept s t := by
  refine of_cores hb hf hu fun d c => ?_
  have hcores : (t.die d).cores = (s.die d).cores := by
    rw [State.die, State.die, hd, hu, Tab.get?_mapValues]
    cases s.dies.get? d with
    | none => rfl
    | some x => exact hg x
  rw [State.core, State.core, hcores]
  exact ⟨rfl, rfl⟩

theorem modLine (s : State) (d pa : Nat) (f : BayLine → BayLine) : PoolKept s (s.modLine d pa f) := modDie s d (fun _ => rfl)

theorem modCtx (s : State) (c : Nat) (f : Ctx → Ctx) : PoolKept s (s.modCtx c f) :=
  of_dies (State.modCtx_blocks ..) (State.modCtx_fills ..) (State.modCtx_fuses ..) (State.modCtx_dies ..)

/-! ### Lines and guests (R181 to R183) -/

theorem dropGuests (s : State) (d : Nat) (p : Guest → Bool) : PoolKept s (s.dropGuests d p) := by
  have hdropped := modDie s d (f := fun x => { x with guests := x.guests.filter (fun g => !p g) }) (fun _ => rfl)
  refine hdropped.trans (foldl (fun s g => ?_) _ _)
  split
  · exact modLine ..
  · exact refl s

theorem evictLine (s : State) (d line : Nat) : PoolKept s (s.evictLine d line) :=
  (foldl (fun s _ => dropGuests s _ _) _ s).trans (modLine ..)

theorem makeWay (s : State) (d bay set : Nat) : PoolKept s (s.makeWay d bay set).1 := by
  unfold State.makeWay
  simp only
  split
  · exact refl s
  split
  · exact refl s
  · exact evictLine ..
  · exact dropGuests ..
  · split
    · exact evictLine ..
    · exact dropGuests ..
  · exact refl s

theorem wayFor (s : State) (d pa : Nat) : PoolKept s (s.wayFor d pa).1 := by
  unfold State.wayFor
  split
  · exact refl s
  · exact makeWay ..

theorem touchLine (s : State) (d pa n : Nat) (write alloc : Bool) : PoolKept s (s.touchLine d pa n write alloc) := by
  have hway := wayFor s d pa
  unfold State.touchLine
  simp only
  split
  · exact modLine ..
  split
  · exact refl s
  split
  case h_1 s1 h => rw [h] at hway; exact hway.trans (modLine ..)
  case h_2 s1 h => rw [h] at hway; exact hway

/-! ### Monitors (R248) -/

theorem freeMonitors (s : State) (bid : Nat) : PoolKept s (s.freeMonitors bid) :=
  mapDies (fun x => { x with monitors := x.monitors.filter (fun m => m.2.bid != bid) }) (fun _ => rfl) rfl rfl rfl rfl

theorem toRun (s : State) : PoolKept s s.toRun := by
  unfold State.toRun
  split
  · exact refl s
  · exact mapDies (fun x => { x with islands := [2, 2, 2, 2, 2] }) (fun _ => rfl) rfl rfl rfl rfl

/-- A saved block loses its mark. -/
theorem unmark {s : State} {bid : Nat} {b : Block} (hb : s.blocks.get? bid = some b) (hs : b.state = .saved) :
    PoolKept s (s.modBlock bid (fun b => { b with dormant := false })) := by
  refine ⟨fun k => ?_, fun q hq => ?_, State.modBlock_fills .., State.modBlock_fuses .., fun d c => ?_⟩
  · rw [State.modBlock_get]
    split
    · next h =>
      subst h
      rw [hb]
      rfl
    · rfl
  · have hsaved : ∀ c : Block, c.state = .saved → q (bid, c) = false := fun c hc => by
      by_contra h
      exact hq (bid, c) (by simpa using h) hc
    simp only [State.modBlock, hb]
    exact Tab.filter_put_of_false hb (hsaved b hs) (hsaved _ hs)
  · rw [State.core, State.core, State.die, State.die, State.modBlock_dies, State.modBlock_fuses]
    exact ⟨rfl, rfl⟩

theorem wakeDormant (s : State) (bid : Nat) : PoolKept s (s.wakeDormant bid) := by
  unfold State.wakeDormant
  split
  · exact refl s
  next b hb =>
  split
  · next h =>
    have hs : b.state = .saved := by simpa using And.left (Bool.and_eq_true_iff.mp h)
    exact ((unmark hb hs).trans (freeMonitors ..)).trans (modDie _ _ fun _ => rfl)
  · exact refl s

theorem fireMonitors (s : State) (d pa n : Nat) : PoolKept s (s.fireMonitors d pa n) := by
  refine PoolKept.trans ?_ (foldl (fun s _ => wakeDormant s _) _ _)
  have hfreed := fun p : Nat × Monitor → Bool => modDie s d (f := fun x => { x with monitors := x.monitors.filter p }) (fun _ => rfl)
  split
  · exact hfreed _
  · exact (hfreed _).trans (toRun _)

/-! ### Writes at the home, and the error log (R223, R396) -/

theorem applyWrite (s : State) (d pa : Nat) (data : List Byte) (die core req : Nat) (alloc : Bool) :
    PoolKept s (s.applyWrite d pa data die core req alloc).1 := by
  have hbytes : PoolKept s ((s.physWrite d pa data).clearPoison d pa data.length) := of_dies rfl rfl rfl rfl
  have htouched := hbytes.trans (touchLine _ d pa data.length true alloc)
  unfold State.applyWrite
  simp only
  refine PoolKept.trans ?_ (fireMonitors ..)
  split
  · exact htouched.trans (modLine ..)
  · refine PoolKept.trans (PoolKept.trans ?line (modDie _ d ?clock)) (foldl ?message _ _)
    case line => exact htouched.trans (modLine ..)
    case clock => exact fun _ => rfl
    case message => exact fun _ _ => of_dies rfl rfl rfl rfl

theorem store (s : State) (d pa : Nat) (data : List Byte) : PoolKept s (s.store d pa data) := by
  unfold State.store
  generalize data.length / 1024 + 2 = fuel
  induction fuel generalizing s pa data with
  | zero => exact refl s
  | succ fuel ih =>
    unfold State.storeLines
    split
    · exact refl s
    · exact (applyWrite ..).trans (ih ..)

theorem log (s : State) (ctx : Nat) (e : LogRec) : PoolKept s (s.log ctx e) := by
  unfold State.log
  split
  · exact refl s
  · exact ((store ..).trans (store ..)).trans (modCtx ..)

/-! ### The recall of update-only copies (R254, R257) -/

theorem applyPartial (s : State) (die core : Nat) (l : CLine) (op ty : Nat) (p : Nat × Dword) :
    PoolKept s (s.applyPartial die core l op ty p) := by
  unfold State.applyPartial
  simp only
  split
  · exact log ..
  · exact applyWrite ..

theorem applyUo (s : State) (die core : Nat) (l : CLine) : PoolKept s (s.applyUo die core l) := by
  unfold State.applyUo
  split
  · exact foldl (fun s p => applyPartial s die core l _ _ p) _ s
  · exact refl s

theorem flushUo (s : State) (die core : Nat) (p : CLine → Bool) : PoolKept s (s.flushUo die core p) := by
  unfold State.flushUo
  simp only
  refine PoolKept.trans (PoolKept.trans (modCore s die core ?cache) (foldl (fun s l => ?mark) _ _)) (foldl (fun s l => applyUo s die core l) _ _)
  case cache => exact fun _ => ⟨rfl, rfl⟩
  split
  · exact refl s
  · exact modLine ..

theorem recalled (s : State) (d pa : Nat) : PoolKept s (s.recall d pa) := by
  unfold State.recall
  exact foldl (fun t (u : Nat × Nat) => flushUo ..) _ s

theorem recallFor (s : State) (ordered : Bool) (ps : List Placed) : PoolKept s (s.recallFor ordered ps) := by
  unfold State.recallFor
  split
  · refine foldl (fun s p => ?_) ps s
    split
    · exact recalled ..
    · exact refl s
  · exact refl s

/-! ### The slice that executes -/

section
variable {s t : State} {bid sid : Nat} (h : PoolKept s t)
include h

theorem found {b : Block} (hb : s.blocks.get? bid = some b) : ∃ c, t.blocks.get? bid = some c ∧ c.unmarked = b.unmarked := by
  have hm := h.block bid
  rw [hb] at hm
  exact Option.map_eq_some_iff.mp hm

theorem slice {x : Slice} (hx : s.slice? bid sid = some x) : t.slice? bid sid = some x := by
  unfold State.slice? at hx ⊢
  obtain ⟨b, hb, hx⟩ := Option.bind_eq_some_iff.mp hx
  obtain ⟨c, hc, he⟩ := h.found hb
  rw [hc]
  exact (congrArg (fun b : Block => b.slices.get? sid) he).trans hx

theorem usedOf (k : Nat) : t.usedOf k = s.usedOf k := by
  have hm := h.block k
  unfold State.usedOf State.drainOf
  rw [h.fills]
  cases hs : s.blocks.get? k with
  | none =>
    rw [hs] at hm
    rw [Option.map_eq_none_iff.mp hm]
  | some b =>
    obtain ⟨c, hc, he⟩ := h.found hs
    have hslices : c.slices = b.slices := (congrArg Block.slices he :)
    rw [hc]
    simp only [hslices]

theorem residents (d c : Nat) : t.residents d c = s.residents d c :=
  h.unsaved _ fun p hp => by
    simp only [Bool.and_eq_true, beq_iff_eq] at hp
    simp [hp.1.1]

theorem drainH (d c : Nat) : t.drainH d c = s.drainH d c := by
  unfold State.drainH State.orphanWords State.drainOf
  rw [h.fills, h.unsaved _ fun p hp => ?_]
  simp only [Bool.and_eq_true, beq_iff_eq] at hp
  simp [hp.1.1]

theorem roomy {b c : Block} (hr : Roomy s bid b) (he : c.unmarked = b.unmarked) : Roomy t bid c := by
  have hdie : c.die = b.die := (congrArg Block.die he :)
  have hcore : c.core = b.core := (congrArg Block.core he :)
  obtain ⟨hfree, hreserve, hwaiters, hspilled⟩ := hr
  unfold Roomy State.freeWords State.reserveWords State.poolSize at *
  simp only [hdie, hcore, h.usedOf, h.residents, h.drainH, (h.cores _ _).1, (h.cores _ _).2]
  exact ⟨hfree, hreserve, hwaiters, hspilled⟩

theorem alloc {e : Enc} {f : Fields} {b : Block} {x : Slice} (r : Ready e f s bid sid b x) {n : Nat} (hn : n ≤ 128) :
    t.alloc bid sid n = (t, true) := by
  obtain ⟨c, hc, he⟩ := h.found r.slice.1
  obtain ⟨hfree, hreserve, hwaiters, hspilled⟩ := h.roomy r.room he
  exact State.alloc_room t bid sid n 128 c hc hn hfree hreserve hwaiters hspilled

end

end PoolKept

end Sys2Proof
end

section
/-! SUPPORT. Instructions that complete from a state in which the registers and the pool are as they were. -/

namespace Sys2Proof

open Sys2Proof.Machine

/-- Results that are within an instruction's reach: its register results and the registers that it makes pending lie in its destination
field, no two of them are one register, and nothing else is released. -/
structure Fits (e : Enc) (f : Fields) (x : Slice) (o : Out) : Prop where
  rels : o.rels = []
  fix : ∀ s r, o.fix s r = r
  few : 8 * o.regs.length + 4 * o.fills.length ≤ 128
  within : Within e f x o
  apart : f.n = false → Machine.Apart o.regs
  free : f.n = false → ∀ k ∈ o.fills, k ∉ o.regs.flatMap RegWrite.targets

/-- Results that make the registers of the destination field pending and write none. -/
structure Filling (e : Enc) (f : Fields) (ty : Nat) (o : Out) : Prop where
  regs : o.regs = []
  rels : o.rels = []
  fix : ∀ s r, o.fix s r = r
  fills : o.fills = (List.range (e.dst.span ty f)).map (fun i => f.dst.toNat + i)
  few : e.dst.span ty f ≤ 32

/-- A meaning completes with results `o`, from state `s1`. -/
def CompletesFrom (r : Res) (s s1 : State) (o : Out) : Prop := r = .doneIn s1 o ∨ s1 = s ∧ r = .done o

section
variable {e : Enc} {f : Fields} {s s1 : State} {bid sid : Nat} {b : Block} {x : Slice} {body : Env → State → Res} {o : Out}

theorem Plain.fits (h : Plain e f (e.typeOf f x.mode) o) : Fits e f x o := by
  refine ⟨h.rels, h.fix, ?few, ?within, fun _ => ?apart, fun _ k hk => ?free⟩
  case few => rcases h.regs with hr | ⟨w, hr, -⟩ <;> simp [hr, h.fills]
  case within =>
    rcases h.regs with hr | ⟨w, hr, hd, hs⟩
    · exact within_none hr h.fills
    · exact within_one hr h.fills hd hs
  case apart =>
    rcases h.regs with hr | ⟨w, hr, -⟩
    · exact hr ▸ trivial
    · exact hr ▸ apart_one w
  case free => simp [h.fills] at hk

/-- Registers are made pending only where N is not set (R33). -/
theorem Filling.fits (h : Filling e f (e.typeOf f x.mode) o) (hn : f.n = false) : Fits e f x o := by
  refine ⟨h.rels, h.fix, ?few, fun k hk => ?within, fun _ => h.regs ▸ trivial, fun _ k _ => by simp [h.regs]⟩
  case few =>
    have hfew := h.few
    rw [h.regs, h.fills, List.length_map, List.length_range, List.length_nil]
    omega
  case within =>
    rw [h.regs, h.fills] at hk
    simp only [hn, Bool.false_eq_true, if_false, List.flatMap_nil, List.nil_append, List.mem_map, List.mem_range] at hk
    obtain ⟨i, hi, rfl⟩ := hk
    exact ⟨hn, i, hi, rfl⟩

theorem runInstr_went_fits (h : Ready e f s bid sid b x) (hk : PoolKept s s1) (hb : CompletesFrom (body (e.env f bid sid b x) s) s s1 o)
    (ho : Fits e f x o) : ∃ y, runInstr e f body s = .next (o.eff (settled s1 bid sid y)) ∧ Went e f x o y := by
  rcases hb with hb | ⟨rfl, hb⟩
  · exact runInstr_wentIn h hb ho.rels ho.fix ho.few ho.within ho.apart ho.free (hk.slice h.slice.2) fun _ hle => hk.alloc h hle
  · exact runInstr_went h hb ho.rels ho.fix ho.few ho.within ho.apart ho.free

/-- Where the latches are cleared N is not set (R33). -/
theorem Ready.n_false (h : Ready e f s bid sid b x) (hc : clearsLatches e.opc f.y = true) : f.n = false :=
  Bool.eq_false_iff.mpr fun hn => by simp [Enc.legal_n h.legal hn] at hc

end

section
variable {i : Fields → Instr} {e : Fields → Enc} {body : Fields → Env → State → Res} {run : Env → State → State → Out → Prop}
  (he : ∀ f s, exec (i f) s = runInstr (e f) f (body f) s)
include he

theorem does_fits (hg : ∀ f s bid sid b x, Ready (e f) f s bid sid b x → ∀ s1 o, run ((e f).env f bid sid b x) s s1 o →
      PoolKept s s1 ∧ CompletesFrom (body f ((e f).env f bid sid b x) s) s s1 o ∧ Fits (e f) f x o) : Does i e run := by
  intro f s bid sid b x h s1 o hr
  obtain ⟨hkept, hdone, hfits⟩ := hg f s bid sid b x h s1 o hr
  unfold Completes
  rw [he]
  exact runInstr_went_fits h hkept hdone hfits

theorem does_plain (hg : ∀ f s bid sid b x, Ready (e f) f s bid sid b x → ∀ s1 o, run ((e f).env f bid sid b x) s s1 o →
      PoolKept s s1 ∧ CompletesFrom (body f ((e f).env f bid sid b x) s) s s1 o ∧ Plain (e f) f ((e f).typeOf f x.mode) o) :
    Does i e run :=
  does_fits he fun f s bid sid b x h s1 o hr => by
    obtain ⟨hkept, hdone, hplain⟩ := hg f s bid sid b x h s1 o hr
    exact ⟨hkept, hdone, hplain.fits⟩

theorem does_filling (hc : ∀ f, clearsLatches (e f).opc f.y = true)
    (hg : ∀ f s bid sid b x, Ready (e f) f s bid sid b x → ∀ s1 o, run ((e f).env f bid sid b x) s s1 o →
      PoolKept s s1 ∧ CompletesFrom (body f ((e f).env f bid sid b x) s) s s1 o ∧ Filling (e f) f ((e f).typeOf f x.mode) o) :
    Does i e run :=
  does_fits he fun f s bid sid b x h s1 o hr => by
    obtain ⟨hkept, hdone, hfilling⟩ := hg f s bid sid b x h s1 o hr
    exact ⟨hkept, hdone, hfilling.fits (h.n_false (hc f))⟩

end

end Sys2Proof
end

section
/-! LD, LDS and LDU (R172, R177, R178, R193, R204, R205, R257). -/

namespace Sys2Proof

open Sys2Proof.Machine

section
variable {v : Env} {s s0 : State} {ps : List Placed} {es : List MElem} {size n : Nat} {ls regs : List Nat} {t : Tag} {whole : Bool}

/-- The scratchpad elements of a base and a literal (R173). -/
theorem winElems_eq : v.winElems v.a.v size n ls = ls.flatMap (fun l => (List.range n).map (fun k =>
    (l, k, ((v.al l % 2 ^ 32 : Nat) : Int) + (v.f.lit?.getD 0).toInt + ((k * size : Nat) : Int)))) := by
  unfold Env.winElems Env.al litInt
  push_cast
  rfl

/-- A global load whose elements pass their checks. -/
theorem globalLoad_go (h : s.checkGlobal v {} .read (!s.isOrdered v.b) (v.globalElems v.a.v size n ls) = .go s0 ps)
    (hc : s0.counterRoom v true = true) :
    let s1 := s0.recallFor (s0.isOrdered v.b) ps
    globalLoad v s size n ls regs t whole = .doneIn s1 (loadOut v regs t whole ((v.globalElems v.a.v size n ls).zipIdx.map (fun q =>
      q.1.toFill v.f.dst.toNat v.ty ps q.2 (s1.knownPart v (s1.isOrdered v.b)))) ps) := by
  unfold globalLoad
  simp only [h, hc, Bool.not_true, Bool.false_eq_true, if_false]

/-- A scratchpad load whose elements pass their checks. -/
theorem winLoad_go (h : s.winGate v size (ls.flatMap (fun l => (List.range n).map (fun k =>
      (l, k, ((v.al l % 2 ^ 32 : Nat) : Int) + (v.f.lit?.getD 0).toInt + ((k * size : Nat) : Int))))) = .go es)
    (hp : pickFail (v.b.winPoisoned es) = none)
    (hc : s.counterRoom v true = true) :
    winLoad v s size n ls regs t whole = .done (loadOut v regs t whole (v.b.winFills v.f.dst.toNat v.ty es) []) := by
  unfold winLoad
  rw [← winElems_eq] at h
  simp only [h, hp, hc, Bool.not_true, Bool.false_eq_true, if_false]

/-- Checks and recalls leave the slice and the pool. -/
theorem poolKept_load (h : s.checkGlobal v {} .read (!s.isOrdered v.b) es = .go s0 ps) :
    PoolKept s (s0.recallFor (s0.isOrdered v.b) ps) := (PoolKept.of_judged (judged_checkGlobal h)).trans (PoolKept.recallFor ..)

end

/-- The meaning of LD. -/
def ldBody (f : Fields) (v : Env) (s : State) : Res :=
  globalLoad v s (elemSize v.ty) (countOf f) (lanesOf v.act) (v.runRegs (countOf f)) .g false

theorem exec_ld_body (f : Fields) (s : State) : exec (.ld f) s = runInstr (encLd 0x60 .w64) f (ldBody f) s := rfl

/-- The meaning of LDS. -/
def ldsBody (f : Fields) (v : Env) (s : State) : Res :=
  winLoad v s (elemSize v.ty) (countOf f) (lanesOf v.act) (v.runRegs (countOf f)) .g false

theorem exec_lds_body (f : Fields) (s : State) : exec (.lds f) s = runInstr (encLd 0x62 .w32) f (ldsBody f) s := rfl

/-- The row of LDU. -/
def encLdu (f : Fields) : Enc :=
  { opc := 0x64, lens := [1, 2, 3], dst := .ty, sa := if bitOf (modOf f) 2 then .u32 else .u64, types := .eff typeMT, lit := .role, md := 4 }

/-- The meaning of LDU. -/
def lduBody (win : Bool) (v : Env) (s : State) : Res :=
  let ls := (lanesOf v.act).take 1
  if ls.isEmpty then .done { regs := [v.write (typeWide v.ty) (Quad.all 0) .u] }
  else if win then winLoad v s (elemSize v.ty) 1 ls (v.runRegs 1) .u true
  else globalLoad v s (elemSize v.ty) 1 ls (v.runRegs 1) .u true

theorem exec_ldu_body (f : Fields) (s : State) : exec (.ldu f) s = runInstr (encLdu f) f (lduBody (bitOf (modOf f) 2)) s := rfl

theorem lduBody_idle {win : Bool} {v : Env} {s : State} (h : v.act = 0) :
    lduBody win v s = .done { regs := [v.write (typeWide v.ty) (Quad.all 0) .u] } := by
  simp [lduBody, lanesOf_eq_nil.mpr h]

theorem lduBody_global {v : Env} {s : State} {l : Nat} {ls : List Nat} (h : lanesOf v.act = l :: ls) :
    lduBody false v s = globalLoad v s (elemSize v.ty) 1 [l] (v.runRegs 1) .u true := by
  simp [lduBody, h]

theorem lduBody_window {v : Env} {s : State} {l : Nat} {ls : List Nat} (h : lanesOf v.act = l :: ls) :
    lduBody true v s = winLoad v s (elemSize v.ty) 1 [l] (v.runRegs 1) .u true := by
  simp [lduBody, h]

/-- A legal run of registers has at most four elements (R204). -/
theorem encLd_few {opc : Nat} {sa : Src} {f : Fields} {ty : Nat} : (encLd opc sa).dst.span ty f ≤ 32 := by
  have hcount : countOf f ≤ 8 := Nat.pow_le_pow_right (n := 2) (by decide) (Nat.le_of_lt_succ (Nat.mod_lt (modOf f) (by decide)))
  show countOf f * (if typeWide ty then 2 else 1) ≤ 32
  split <;> omega

theorem filling_ld {opc : Nat} {sa : Src} {f : Fields} {bid sid : Nat} {b : Block} {x : Slice} {t : Tag} {whole : Bool}
    {els : List FillElem} {ps : List Placed} :
    let v := (encLd opc sa).env f bid sid b x
    Filling (encLd opc sa) f ((encLd opc sa).typeOf f x.mode) (loadOut v (v.runRegs (countOf f)) t whole els ps) :=
  ⟨rfl, rfl, fun _ _ => rfl, rfl, encLd_few⟩

theorem filling_ldu {f : Fields} {bid sid : Nat} {b : Block} {x : Slice} {t : Tag} {whole : Bool} {els : List FillElem} {ps : List Placed} :
    let v := (encLdu f).env f bid sid b x
    Filling (encLdu f) f ((encLdu f).typeOf f x.mode) (loadOut v (v.runRegs 1) t whole els ps) := by
  refine ⟨rfl, rfl, fun _ _ => rfl, ?_, ?_⟩
  · show List.map _ (List.range (1 * _)) = _
    rw [one_mul]
    rfl
  · show (if typeWide _ then 2 else 1) ≤ 32
    split <;> omega

/-- Settles O15: a load's checks leave its slice and the pool as they were, so it completes in the state after them; what it makes pending
are the registers of its destination field. -/
theorem loads : Obligations.Loads := by
  unfold Obligations.Loads
  refine ⟨?ld, ?lds, ?ldu, ?idle⟩
  case ld =>
    refine does_filling exec_ld_body (fun _ => by simp [clearsLatches, encLd]) fun f s bid sid b x _ s1 o hr => ?_
    obtain ⟨s0, ps, hcheck, hroom, rfl, rfl⟩ := hr
    exact ⟨poolKept_load hcheck, .inl (globalLoad_go hcheck hroom), filling_ld⟩
  case lds =>
    refine does_filling exec_lds_body (fun _ => by simp [clearsLatches, encLd]) fun f s bid sid b x _ s1 o hr => ?_
    obtain ⟨es, rfl, hgate, hpoison, hroom, rfl⟩ := hr
    exact ⟨.refl _, .inr ⟨rfl, winLoad_go hgate hpoison hroom⟩, filling_ld⟩
  case ldu =>
    refine does_filling (e := encLdu) exec_ldu_body (fun _ => by simp [clearsLatches, encLdu]) fun f s bid sid b x _ s1 o hr => ?_
    obtain ⟨l, ls, hlanes, hr⟩ := hr
    split at hr
    · next hwin =>
      obtain ⟨es, rfl, hgate, hpoison, hroom, rfl⟩ := hr
      rw [show bitOf (modOf f) 2 = true from hwin, lduBody_window hlanes]
      exact ⟨.refl _, .inr ⟨rfl, winLoad_go hgate hpoison hroom⟩, filling_ldu⟩
    · next hwin =>
      obtain ⟨s0, ps, hcheck, hroom, rfl, rfl⟩ := hr
      rw [show bitOf (modOf f) 2 = false from Bool.eq_false_iff.mpr hwin, lduBody_global hlanes]
      exact ⟨poolKept_load hcheck, .inl (globalLoad_go hcheck hroom), filling_ldu⟩
  case idle =>
    exact givesIf_plain (e := encLdu) exec_ldu_body fun f s bid sid b x _ hidle => ⟨lduBody_idle hidle, plain_one rfl le_rfl _ _⟩

end Sys2Proof
end

section
/-! SUPPORT. What a store to the scratchpad leaves (R185, R212, R245, R286). -/

namespace Sys2Proof

open Sys2Proof.Machine

/-- A run of bytes from an address covers an address. -/
def Machine.covers (w : Nat × List Byte) (a : Nat) : Bool := decide (w.1 ≤ a) && decide (a < w.1 + w.2.length)

/-- Runs of bytes written in their order. -/
def Machine.Memory.writeRuns (m : Memory) (ws : List (Nat × List Byte)) : Memory := ws.foldl (fun m w => m.writeList w.1 w.2) m

theorem Machine.covers_iff {w : Nat × List Byte} {a : Nat} : covers w a = true ↔ w.1 ≤ a ∧ a < w.1 + w.2.length := by
  simp [covers]

theorem Machine.Memory.read_writeList (m : Memory) (w : Nat × List Byte) (a : Nat) :
    (m.writeList w.1 w.2).read a = if covers w a then w.2.getD (a - w.1) 0 else m.read a := by
  split
  · next h =>
    obtain ⟨hle, hlt⟩ := covers_iff.mp h
    have hin := Memory.read_writeList_inside m w.1 (a - w.1) w.2 (by omega)
    rwa [Nat.add_sub_cancel' hle] at hin
  · next h =>
    rw [covers_iff] at h
    exact Memory.read_writeList_outside m w.1 a w.2 (by omega)

/-- A byte reads as the latest run that covers it, or as before. -/
theorem Machine.Memory.read_writeRuns (m : Memory) (ws : List (Nat × List Byte)) (a : Nat) :
    (m.writeRuns ws).read a = match ws.reverse.find? (fun w => covers w a) with
      | some w => w.2.getD (a - w.1) 0
      | none => m.read a := by
  induction ws generalizing m with
  | nil => rfl
  | cons w ws ih =>
    rw [List.reverse_cons, List.find?_append]
    refine (ih (m.writeList w.1 w.2)).trans ?_
    cases ws.reverse.find? (fun w => covers w a) with
    | some u => rfl
    | none =>
      rw [Memory.read_writeList]
      cases h : covers w a <;> simp [List.find?, h]

/-- Nothing of a block differs but its window, its poison, what its slices found of barrier objects, and its slot fills. -/
structure StoredOver (b c : Block) : Prop where
  fields : c = { b with window := c.window, winPoison := c.winPoison, slices := c.slices, slotFills := c.slotFills }
  slices : ∀ k, ∃ p : Slice → Prog, c.slices.get? k = (b.slices.get? k).map (fun x => { x with prog := p x })

namespace StoredOver

/-- A change of none of a block's slices. -/
theorem of_slices {b c : Block} (hf : c = { b with window := c.window, winPoison := c.winPoison, slices := c.slices, slotFills := c.slotFills })
    (hs : c.slices = b.slices) : StoredOver b c := by
  refine ⟨hf, fun k => ⟨Slice.prog, ?_⟩⟩
  rw [hs]
  exact Option.map_id'.symm

theorem refl (b : Block) : StoredOver b b := of_slices rfl rfl

theorem trans {b c d : Block} (h : StoredOver b c) (k : StoredOver c d) : StoredOver b d := by
  refine ⟨?_, fun j => ?_⟩
  · rw [k.fields]
    simp only
    rw [h.fields]
  · obtain ⟨p, hp⟩ := h.slices j
    obtain ⟨q, hq⟩ := k.slices j
    refine ⟨fun x => q { x with prog := p x }, ?_⟩
    rw [hq, hp, Option.map_map]
    rfl

theorem foldl {α : Type} {f : Block → α → Block} (hf : ∀ b a, StoredOver b (f b a)) (l : List α) (b : Block) :
    StoredOver b (l.foldl f b) := by
  induction l generalizing b with
  | nil => exact refl b
  | cons a l ih => exact (hf b a).trans (ih (f b a))

theorem readAhead (b : Block) (sid o n : Nat) : StoredOver b (b.readAhead sid o n) := of_slices rfl rfl

theorem winPut (b : Block) (o : Nat) (data : List Byte) : StoredOver b (b.winPut o data) := of_slices rfl rfl

/-- An examination changes what a slice has found. -/
theorem examine_prog (x : Slice) (w : Memory) : x.examine w = { x with prog := (x.examine w).prog } := by
  unfold Slice.examine
  split <;> rfl

theorem examine (b : Block) (o n : Nat) : StoredOver b (b.examine o n) := by
  unfold Block.examine
  split
  · refine ⟨rfl, fun k => ⟨fun x => (if x.waitsOn o n then x.examine b.window else x).prog, ?_⟩⟩
    simp only
    refine (Tab.get?_mapValues (fun x : Slice => if x.waitsOn o n then x.examine b.window else x) b.slices k).trans ?_
    congr 1
    funext x
    split
    · exact examine_prog x b.window
    · rfl
  · exact refl b

end StoredOver

/-! ### The block after the store -/

/-- A block after the runs of a store: the slice's own fills of slots have taken their bytes, the runs stand in the window, and the waits on
barrier objects are examined. -/
def Machine.Block.stored (b : Block) (sid : Nat) (ws : List (Nat × List Byte)) : Block :=
  ws.foldl (fun b w => b.examine w.1 w.2.length) (ws.foldl (fun b w => b.winPut w.1 w.2) (ws.foldl (fun b w => b.readAhead sid w.1 w.2.length) b))

section
variable {b : Block} {sid : Nat} {ws : List (Nat × List Byte)}

theorem storedOver_stored : StoredOver b (b.stored sid ws) :=
  ((StoredOver.foldl (fun b _ => .readAhead b ..) ws b).trans (.foldl (fun b _ => .winPut b ..) ws _)).trans (.foldl (fun b _ => .examine b ..) ws _)

/-- What a step of a fold leaves, the fold leaves. -/
theorem foldl_keeps {α β γ : Type} {g : β → γ} {f : β → α → β} (hf : ∀ b a, g (f b a) = g b) (l : List α) (b : β) :
    g (l.foldl f b) = g b := by
  induction l generalizing b with
  | nil => rfl
  | cons a l ih => exact (ih (f b a)).trans (hf b a)

theorem examine_window_poison (b : Block) (o n : Nat) : ((b.examine o n).window, (b.examine o n).winPoison) = (b.window, b.winPoison) := by
  unfold Block.examine
  split <;> rfl

/-- The window and its poison are what the runs make of them. -/
theorem stored_window_poison (b : Block) (sid : Nat) (ws : List (Nat × List Byte)) :
    ∃ c : Block, c.window = b.window ∧ c.winPoison = b.winPoison ∧
      (b.stored sid ws).window = (ws.foldl (fun b w => b.winPut w.1 w.2) c).window ∧
      (b.stored sid ws).winPoison = (ws.foldl (fun b w => b.winPut w.1 w.2) c).winPoison := by
  have hread := foldl_keeps (g := fun b : Block => (b.window, b.winPoison)) (f := fun b w => b.readAhead sid w.1 w.2.length) (fun _ _ => rfl) ws b
  have hexamined := foldl_keeps (g := fun b : Block => (b.window, b.winPoison))
    (fun b (w : Nat × List Byte) => examine_window_poison b w.1 w.2.length) ws (ws.foldl (fun b w => b.winPut w.1 w.2) (ws.foldl (fun b w => b.readAhead sid w.1 w.2.length) b))
  exact ⟨_, (Prod.mk.inj hread).1, (Prod.mk.inj hread).2, (Prod.mk.inj hexamined).1, (Prod.mk.inj hexamined).2⟩

theorem foldl_winPut_window (b : Block) (ws : List (Nat × List Byte)) :
    (ws.foldl (fun b w => b.winPut w.1 w.2) b).window = b.window.writeRuns ws := by
  induction ws generalizing b with
  | nil => rfl
  | cons w ws ih => exact ih (b.winPut w.1 w.2)

/-- A run lies outside a line of the window. -/
def Machine.Clear (w : Nat × List Byte) (l : Nat) : Prop := w.1 + w.2.length ≤ l * 128 ∨ l * 128 + 128 ≤ w.1

theorem mem_winPut_poison {b : Block} {w : Nat × List Byte} {l : Nat} (h : l ∈ b.winPoison) (hc : Clear w l) :
    l ∈ (b.winPut w.1 w.2).winPoison := by
  refine List.mem_filter.mpr ⟨h, ?_⟩
  unfold Clear at hc
  simp only [Bool.not_eq_true', Bool.and_eq_false_iff, decide_eq_false_iff_not]
  omega

theorem mem_foldl_winPut_poison {b : Block} {l : Nat} (h : l ∈ b.winPoison) (hc : ∀ w ∈ ws, Clear w l) :
    l ∈ (ws.foldl (fun b w => b.winPut w.1 w.2) b).winPoison := by
  induction ws generalizing b with
  | nil => exact h
  | cons w ws ih => exact ih (mem_winPut_poison h (hc w (.head _))) fun u hu => hc u (.tail _ hu)

theorem of_mem_foldl_winPut_poison {b : Block} {l : Nat} (h : l ∈ (ws.foldl (fun b w => b.winPut w.1 w.2) b).winPoison) : l ∈ b.winPoison := by
  induction ws generalizing b with
  | nil => exact h
  | cons w ws ih => exact List.mem_of_mem_filter (ih h)

theorem stored_window : (b.stored sid ws).window = b.window.writeRuns ws := by
  obtain ⟨c, hw, -, hs, -⟩ := stored_window_poison b sid ws
  rw [hs, foldl_winPut_window, hw]

theorem mem_stored_poison {l : Nat} (h : l ∈ b.winPoison) (hc : ∀ w ∈ ws, Clear w l) : l ∈ (b.stored sid ws).winPoison := by
  obtain ⟨c, -, hp, -, hs⟩ := stored_window_poison b sid ws
  rw [hs]
  exact mem_foldl_winPut_poison (hp ▸ h) hc

theorem of_mem_stored_poison {l : Nat} (h : l ∈ (b.stored sid ws).winPoison) : l ∈ b.winPoison := by
  obtain ⟨c, -, hp, -, hs⟩ := stored_window_poison b sid ws
  rw [hs] at h
  exact hp ▸ of_mem_foldl_winPut_poison h

end

/-- A byte of a poisoned line that the runs of a store cover. -/
theorem of_mem_poisonCover {b : Block} {ws : List (Nat × List Byte)} {k : Nat} (h : k ∈ b.poisonCover ws) :
    ∃ w ∈ ws, ∃ a, k = 2 ^ 60 + a ∧ covers w a = true := by
  unfold Block.poisonCover at h
  obtain ⟨a, ha, rfl⟩ := List.mem_map.mp h
  obtain ⟨w, hw, ha⟩ := List.mem_flatMap.mp (List.mem_of_mem_filter ha)
  obtain ⟨i, hi, rfl⟩ := List.mem_map.mp ha
  exact ⟨w, hw, _, rfl, covers_iff.mpr ⟨Nat.le_add_right .., Nat.add_lt_add_left (List.mem_range.mp hi) _⟩⟩

/-- What the stores of an issue have covered of poisoned lines. -/
def Machine.State.coverOf (s : State) (n : Nat) : List Nat := ((s.issues.get? n).map Issue.cover).getD []

theorem countIssue_eq (s : State) (v : Env) (load : Bool) (n : Nat) :
    ∃ i, s.countIssue v load n = { s with issues := s.issues.put v.x.issueNo i } ∧ i.cover = s.coverOf v.x.issueNo := by
  unfold State.countIssue State.coverOf
  cases s.issues.get? v.x.issueNo with
  | none => exact ⟨_, rfl, rfl⟩
  | some i => exact ⟨_, rfl, rfl⟩

theorem modBlock_eq {s : State} {k : Nat} {b : Block} (hb : s.blocks.get? k = some b) (f : Block → Block) :
    s.modBlock k f = { s with blocks := s.blocks.put k (f b) } := by
  simp only [State.modBlock, hb]

/-- A store to the scratchpad changes its block and the count of its issue; a line whose poison goes beside those that one run covers is
covered in every byte, by this store or by earlier ones of its issue. -/
theorem winStoreAll_eq {s : State} {v : Env} {b : Block} (ws : List (Nat × List Byte)) (hb : s.blocks.get? v.bid = some b) :
    ∃ (is : Tab Issue) (gone : Nat → Bool),
      s.winStoreAll v ws = { s with
        blocks := s.blocks.put v.bid { b.stored v.sid ws with winPoison := (b.stored v.sid ws).winPoison.filter (fun l => !gone l) }
        issues := is } ∧
      (∀ k, k ≠ v.x.issueNo → is.get? k = s.issues.get? k) ∧
      ∀ l, gone l = true → ∀ j, j < 128 → 2 ^ 60 + l * 128 + j ∈ s.coverOf v.x.issueNo ∨ ∃ w ∈ ws, covers w (l * 128 + j) = true := by
  obtain ⟨i, hcount, hcover⟩ := countIssue_eq s v false 0
  have hstored : (s.countIssue v false 0).modBlock v.bid (fun b => b.stored v.sid ws) =
      { s with blocks := s.blocks.put v.bid (b.stored v.sid ws), issues := s.issues.put v.x.issueNo i } := by
    rw [hcount]
    exact modBlock_eq (s := { s with issues := s.issues.put v.x.issueNo i }) hb _
  unfold State.winStoreAll
  simp only
  rw [show (fun b : Block => ws.foldl (fun b w => b.examine w.1 w.2.length) (ws.foldl (fun b w => b.winPut w.1 w.2)
    (ws.foldl (fun b w => b.readAhead v.sid w.1 w.2.length) b))) = fun b => b.stored v.sid ws from rfl, hstored]
  simp only [Tab.get?_put_self, Option.getD_some, hcover]
  have hput : ∀ (i : Issue) k, k ≠ v.x.issueNo → (s.issues.put v.x.issueNo i).get? k = s.issues.get? k :=
    fun i k hk => Tab.get?_put_ne s.issues i hk.symm
  split
  · refine ⟨_, fun _ => false, ?_, hput i, fun l hl => nomatch hl⟩
    simp only [Bool.not_false, List.filter_true]
  · refine ⟨?issues, fun l => (List.range 128).all (fun j =>
      (s.coverOf v.x.issueNo ++ (b.stored v.sid ws).poisonCover ws).dedup.contains (2 ^ 60 + l * 128 + j)), ?stored, ?_, ?_⟩
    case stored =>
      refine (modBlock_eq (Tab.get?_put_self ..) _).trans ?_
      simp only [put_put]
      rfl
    · intro k hk
      rw [Tab.get?_put_ne _ _ hk.symm]
    · intro l hl j hj
      have hmem := List.all_eq_true.mp hl j (List.mem_range.mpr hj)
      rw [List.contains_iff_mem, List.mem_dedup, List.mem_append] at hmem
      refine hmem.imp_right fun hnew => ?_
      obtain ⟨w, hw, a, ha, hcov⟩ := of_mem_poisonCover hnew
      rw [Nat.add_assoc, Nat.add_left_cancel_iff] at ha
      exact ⟨w, hw, ha ▸ hcov⟩

/-- Poison stays on a line in which the store has no byte and earlier stores of its issue have not covered every byte. -/
theorem poison_stays {s : State} {n l : Nat} {ws : List (Nat × List Byte)} {gone : Nat → Bool} (hw : ∀ w ∈ ws, Clear w l)
    (hi : ∀ i, s.issues.get? n = some i → ∃ j, j < 128 ∧ 2 ^ 60 + l * 128 + j ∉ i.cover)
    (hg : gone l = true → ∀ j, j < 128 → 2 ^ 60 + l * 128 + j ∈ s.coverOf n ∨ ∃ w ∈ ws, covers w (l * 128 + j) = true) :
    gone l = false := by
  refine Bool.eq_false_iff.mpr fun hgone => ?_
  have hnone : ∃ j, j < 128 ∧ 2 ^ 60 + l * 128 + j ∉ s.coverOf n := by
    unfold State.coverOf
    cases h : s.issues.get? n with
    | none => exact ⟨0, by decide, List.not_mem_nil⟩
    | some i => exact hi i h
  obtain ⟨j, hj, hfree⟩ := hnone
  rcases hg hgone j hj with hmem | ⟨w, hmem, hcov⟩
  · exact hfree hmem
  · have hclear := hw w hmem
    rw [covers_iff] at hcov
    unfold Clear at hclear
    omega

end Sys2Proof
end

section
/-! ST and STS (R177, R178, R185, R206, R212, R245, R286, R349). -/

namespace Sys2Proof

open Sys2Proof.Machine

/-- The meaning of ST. -/
def stBody (f : Fields) (v : Env) (s : State) : Res :=
  globalStore v s (v.globalElems v.a.v (elemSize v.ty) (countOf f) (lanesOf v.act)) (fun e => v.runData v.o e.lane e.k)

theorem exec_st_body (f : Fields) (s : State) : exec (.st f) s = runInstr (encSt 0x61 .w64) f (stBody f) s := rfl

/-- The meaning of STS. -/
def stsBody (f : Fields) (v : Env) (s : State) : Res :=
  winStore v s (s.winGate v (elemSize v.ty) (v.winElems v.a.v (elemSize v.ty) (countOf f) (lanesOf v.act)))
    (fun e => v.runData v.o e.lane e.k)

theorem exec_sts_body (f : Fields) (s : State) : exec (.sts f) s = runInstr (encSt 0x63 .w32) f (stsBody f) s := rfl

section
variable {v : Env} {s s1 : State} {ps : List Placed} {es : List MElem} {data : MElem → List Byte}

/-- A global store whose elements pass their checks. -/
theorem globalStore_go (h : s.checkGlobal v {} .write false es = .go s1 ps) (hlog : s1.isOrdered v.b = true → s1.logFull v ps = false)
    (hstore : s1.storeRoom v = true) (hsend : s1.sendRoom v ps = true) :
    globalStore v s es data = .doneIn s1 (doing (fun s => s.storeParts v (s1.isOrdered v.b) ps (fun e => data (es.getD e default)))) := by
  have hroom : (s1.isOrdered v.b && s1.logFull v ps) = false := by
    cases ho : s1.isOrdered v.b with
    | false => rfl
    | true => rw [hlog ho]; rfl
  unfold globalStore
  simp only [h, hroom, hstore, hsend, Bool.not_true, Bool.or_self, Bool.false_eq_true, if_false]
  rfl

/-- A scratchpad store whose elements pass their checks. -/
theorem winStore_go (h : s.storeRoom v = true) :
    winStore v s (.go es) data = .done (doing (fun s => s.winStoreAll v (es.map (fun e => (e.va, data e))))) := by
  unfold winStore
  simp only [h, Bool.not_true, Bool.false_eq_true, if_false]
  rfl

end

/-- Settles O16: a store completes in the state after its checks; what a store to the scratchpad leaves follows from what each of its steps
leaves. -/
theorem stores : Obligations.Stores := by
  unfold Obligations.Stores
  refine ⟨?st, ?sts, ?window⟩
  case st =>
    refine does_plain exec_st_body fun f s bid sid b x _ s1 o hr => ?_
    obtain ⟨ps, hcheck, hlog, hstore, hsend, rfl⟩ := hr
    exact ⟨.of_judged (judged_checkGlobal hcheck), .inl (globalStore_go hcheck hlog hstore hsend), plain_none _ _⟩
  case sts =>
    refine does_plain exec_sts_body fun f s bid sid b x _ s1 o hr => ?_
    obtain ⟨es, rfl, hgate, hstore, rfl⟩ := hr
    refine ⟨.refl _, .inr ⟨rfl, ?_⟩, plain_none _ _⟩
    unfold stsBody
    rw [winElems_eq]
    refine Eq.trans (congrArg (fun g => winStore _ _ g _) hgate) (winStore_go hstore)
  case window =>
    intro s v ws b hb t
    obtain ⟨is, gone, heq, hissues, hgone⟩ := winStoreAll_eq ws hb
    have ht : t = _ := heq
    have hover := storedOver_stored (b := b) (sid := v.sid) (ws := ws)
    rw [ht]
    refine ⟨rfl, fun k hk => Tab.get?_put_ne _ _ hk.symm, hissues, _, Tab.get?_put_self .., ?fields, ?bytes, ?covered, ?kept, hover.slices⟩
    case fields =>
      simp only
      rw [hover.fields]
    case bytes =>
      intro a
      simp only
      rw [stored_window]
      exact Memory.read_writeRuns b.window ws a
    case covered => exact fun l hl => of_mem_stored_poison (List.mem_of_mem_filter hl)
    case kept =>
      intro l hl hw hi
      refine List.mem_filter.mpr ⟨mem_stored_poison hl hw, ?_⟩
      rw [poison_stays hw hi (hgone l)]
      rfl

end Sys2Proof
end

section
/-! SUPPORT. Fill faults, park timeouts and the landing of fills (R91, R190, R193, R194). -/

namespace Sys2Proof

open Sys2Proof.Machine

/-! ### Delivery (R194) and the park limit (R190) -/

theorem exec_fillFaultDelivery_due {s : State} {bid sid r : Nat} {b : Block} {x : Slice} {f : FillFault} (hb : s.blocks.get? bid = some b)
    (hx : s.slice? bid sid = some x) (hres : b.state = .resident) (hrun : x.run = .waiting ∨ (x.run = .running ∧ x.pend = false))
    (hf : leastUsed (x.faults.map (fun f => (f.reg, f))) = some (r, f)) :
    exec (.fillFaultDelivery bid sid) s = .next (((s.modSlice bid sid (fun y => { y with faults := y.faults.erase f })).trapAt bid sid
      f.cause f.addr f.lanes).settle bid (b.partMembers x.part)) := by
  have hdue : (decide (b.state = .resident) && (decide (x.run = .waiting) || (decide (x.run = .running) && !x.pend))) = true := by
    rcases hrun with h | ⟨h, hp⟩ <;> simp [*]
  refine (show exec (.fillFaultDelivery bid sid) s = execFillFaultDelivery bid sid s from rfl).trans ?_
  unfold execFillFaultDelivery
  simp only [hb, hx, hdue, if_true, hf]

theorem exec_parkTimeout_fill {s : State} {bid sid fid : Nat} {x : Fill} {b : Block} (hx : s.fills.get? fid = some x)
    (hb : s.blocks.get? bid = some b) (hbid : x.bid = bid) (hsid : x.sid = sid)
    (hlate : s.parkCycles b.ctx < (s.die b.die).cycle.toNat - x.born.toNat) :
    exec (.parkTimeout bid sid (some fid)) s = .next (s.modFill fid (fun f => { f with elems := f.elems.map (fun e =>
      if e.landed || e.resolved then e else { e with fault := some (0x030E, e.addr) }) })) := by
  refine congrArg Host.Outcome.next ?_
  unfold State.timeOutFill
  simp only [hx, hb, hbid, hsid, hlate, beq_self_eq_true, decide_true, Bool.and_self, if_true]

/-- The lines among those that a slice waits on which have been Absent longer than the park limit, with their lanes. -/
def Machine.State.lateLanes (s : State) (b : Block) (on : List (Nat × Dword × BitVec 4)) : List LaneFail :=
  (on.filter (fun q => (b.presence q.1).state == .absent &&
    decide (s.parkCycles b.ctx < (s.die b.die).cycle.toNat - (b.presence q.1).since.toNat * 256))).flatMap (fun q =>
      (lanesOf q.2.2).map (fun l => LaneFail.mk l 0x030E q.2.1.toNat))

theorem exec_parkTimeout_lines {s : State} {bid sid : Nat} {b : Block} {x : Slice} {on : List (Nat × Dword × BitVec 4)} {c : Half} {a : Dword}
    {ls : BitVec 4} (hb : s.blocks.get? bid = some b) (hx : s.slice? bid sid = some x) (hres : b.state = .resident)
    (hrun : x.run = .waiting) (hprog : x.prog = .lines on) (hlate : pickFail (s.lateLanes b on) = some (c, a, ls)) :
    exec (.parkTimeout bid sid none) s = .next ((s.trapAt bid sid c a ls).settle bid (b.partMembers x.part)) := by
  refine congrArg Host.Outcome.next ?_
  have hwaits : x.waits = true := by simp [Slice.waits, hrun]
  unfold State.lateLanes at hlate
  unfold State.timeOutLines
  simp only [hb, hx, hres, hwaits, hprog, hlate, hrun, ne_eq, not_true_eq_false, decide_false, Bool.not_true, Bool.or_self,
    Bool.false_eq_true, if_false, if_true]

/-! ### Elements land (R91, R193, R194) -/

section
variable {s : State} {fid e : Nat} {x : Fill} {y : FillElem}

theorem State.fills_modFill (hx : s.fills.get? fid = some x) (f : Fill → Fill) : (s.modFill fid f).fills.get? fid = some (f x) := by
  simp only [State.modFill, hx, Tab.get?_put_self]

/-- An element has landed. -/
def Machine.Fill.land (x : Fill) (e : Nat) : Fill := x.modElem e (fun y => { y with landed := true })

theorem Machine.Fill.getElem?_land (x : Fill) (e k : Nat) :
    (x.land e).elems[k]? = (x.elems[k]?).map (fun z => if k = e then { z with landed := true } else z) := by
  simp only [Fill.land, Fill.modElem, List.getElem?_map, List.getElem?_zipIdx, Option.map_map, Nat.zero_add]
  rfl

/-- After an element has landed every element has, unless another one has not. -/
theorem Machine.Fill.all_landed_iff :
    (x.land e).elems.all (fun z => z.landed) = true ↔ ¬∃ k z, x.elems[k]? = some z ∧ k ≠ e ∧ z.landed = false := by
  rw [List.all_eq_true]
  constructor
  · rintro h ⟨k, z, hz, hk, hl⟩
    have hmem : z ∈ (x.land e).elems := List.mem_iff_getElem?.mpr ⟨k, by rw [Fill.getElem?_land, hz, Option.map_some, if_neg hk]⟩
    exact Bool.eq_false_iff.mp hl (h z hmem)
  · intro h z hz
    obtain ⟨k, hk⟩ := List.mem_iff_getElem?.mp hz
    rw [Fill.getElem?_land] at hk
    obtain ⟨w, hw, rfl⟩ := Option.map_eq_some_iff.mp hk
    split
    · rfl
    · next hne => exact Bool.of_not_eq_false fun hl => h ⟨k, w, hw, hne, hl⟩

/-- What an element's fault says: its address, its cause and its lane. -/
def Machine.FillElem.failure (z : FillElem) : Option (Nat × Half × Nat) := z.fault.map (fun f => (f.2.toNat, f.1, z.lane))

/-- The faults of a fill's elements. -/
def Machine.Fill.bad (x : Fill) : List (Nat × Half × Nat) := x.elems.filterMap FillElem.failure

theorem Machine.Fill.bad_land (x : Fill) (e : Nat) : (x.land e).bad = x.bad := by
  have hsame : ∀ p ∈ x.elems.zipIdx, FillElem.failure (if p.2 = e then { p.1 with landed := true } else p.1) = FillElem.failure p.1 :=
    fun p _ => by split <;> rfl
  calc (x.land e).bad
      = x.elems.zipIdx.filterMap (fun p => FillElem.failure (if p.2 = e then { p.1 with landed := true } else p.1)) := List.filterMap_map
    _ = x.elems.zipIdx.filterMap (fun p => FillElem.failure p.1) := List.filterMap_congr hsame
    _ = (x.elems.zipIdx.map Prod.fst).filterMap FillElem.failure :=
        (List.filterMap_map (f := Prod.fst) (g := FillElem.failure)).symm
    _ = x.bad := by rw [List.zipIdx_map_fst]; rfl

theorem Machine.Fill.bad_eq_nil (h : ∀ z ∈ x.elems, z.fault = none) : x.bad = [] :=
  List.filterMap_eq_nil_iff.mpr fun z hz => by rw [FillElem.failure, h z hz, Option.map_none]

/-- The state in which an element has landed, before its fill may end. -/
def Machine.State.landed (s : State) (fid e : Nat) (x : Fill) (y : FillElem) : State :=
  let s1 := s.modFill fid (fun f => f.modElem e (fun y => { y with landed := true }))
  if y.fault.isSome then s1 else s1.modSlice x.bid x.sid (fun z => z.landElem x.whole x.regs y)

theorem State.fills_landed (hx : s.fills.get? fid = some x) : (s.landed fid e x y).fills.get? fid = some (x.land e) := by
  unfold State.landed
  simp only
  split
  · exact State.fills_modFill hx _
  · rw [State.modSlice_fills]
    exact State.fills_modFill hx _

theorem exec_fillLand_eq (hx : s.fills.get? fid = some x) (hy : x.elems[e]? = some y) (hl : y.landed = false) (hr : y.resolved = true)
    (hregs : x.regs ≠ []) : exec (.fillLand fid e) s = .next ((s.landed fid e x y).finishFill fid) := by
  refine congrArg Host.Outcome.next ?_
  have hsome : x.regs.isEmpty = false := List.isEmpty_eq_false_iff.mpr hregs
  unfold State.landFill
  simp only [hx, hy, hl, hr, hsome, Bool.not_true, Bool.false_and, Bool.or_self, Bool.false_eq_true, if_false]
  rfl

/-- A fill of which an element has not landed goes on. -/
theorem finishFill_rest (hx : s.fills.get? fid = some x) (h : x.elems.all (fun e => e.landed) = false) : s.finishFill fid = s := by
  unfold State.finishFill
  simp only [hx, h, Bool.not_false, if_true]

/-- A fill whose elements have all landed without a fault leaves its registers held. -/
theorem finishFill_held (hx : s.fills.get? fid = some x) (h : x.elems.all (fun e => e.landed) = true) (hbad : leastUsed x.bad = none) :
    s.finishFill fid = ({ s with fills := s.fills.erase fid }.issueDone (some x.issue)).modSlice x.bid x.sid (fun y =>
      x.regs.foldl (fun (y : Slice) k => match y.reg k with | .pend t v => y.setReg k (.held t v) | _ => y) y) := by
  unfold Fill.bad FillElem.failure at hbad
  unfold State.finishFill
  simp only [hx, h, hbad, Bool.not_true, Bool.false_eq_true, if_false] <;> rfl

/-- A fill of which an element has faulted leaves its registers empty and its slice a fault. -/
theorem finishFill_faulted {a : Nat} {c : Half} {l : Nat} (hx : s.fills.get? fid = some x) (h : x.elems.all (fun e => e.landed) = true)
    (hbad : leastUsed x.bad = some (a, c, l)) (hregs : x.regs ≠ []) :
    s.finishFill fid = ({ s with fills := s.fills.erase fid }.issueDone (some x.issue)).modSlice x.bid x.sid (fun y =>
      { (x.regs.foldl (fun (y : Slice) k => y.setReg k .empty) y : Slice) with faults := y.faults ++
        [(⟨x.regs.headD 0, c, BitVec.ofNat 64 a, laneSet (x.bad.map (fun (q : Nat × Half × Nat) => q.2.2))⟩ : FillFault)] }) := by
  have hsome : x.regs.isEmpty = false := List.isEmpty_eq_false_iff.mpr hregs
  unfold Fill.bad FillElem.failure at hbad
  unfold State.finishFill
  simp only [hx, h, hbad, hsome, Bool.not_true, Bool.false_eq_true, if_false] <;> rfl

end

end Sys2Proof
end

section
/-! Elements land in fills, and fill faults and park timeouts are delivered (R91, R190, R193, R194). -/

namespace Sys2Proof

open Sys2Proof.Machine

/-- Settles O38: an event that is due does what its definition says; a fill ends with the last of its elements, by whether one has
faulted. -/
theorem fillsAndFaults : Obligations.FillsAndFaults := by
  unfold Obligations.FillsAndFaults
  refine ⟨⟨?delivery, ?fill, ?lines⟩, ?land⟩
  case delivery => exact fun s bid sid b x r f hb hx hres hrun hf => exec_fillFaultDelivery_due hb hx hres hrun hf
  case fill => exact fun s bid sid fid x b hx hb hbid hsid hlate => exec_parkTimeout_fill hx hb hbid hsid hlate
  case lines => exact fun s bid sid b x on c a ls hb hx hres hrun hprog hlate => exec_parkTimeout_lines hb hx hres hrun hprog hlate
  case land =>
    intro s fid e x y hx hy hl hr hregs s1 s2 rest
    have hland : exec (.fillLand fid e) s = .next (s2.finishFill fid) := exec_fillLand_eq hx hy hl hr hregs
    have hfill : s2.fills.get? fid = some (x.land e) := State.fills_landed hx
    have hall : (x.land e).elems.all (fun z => z.landed) = true ↔ ¬rest := Fill.all_landed_iff
    rw [hland]
    refine ⟨fun hrest => ?goesOn, fun hrest hgood => ?held, fun a c l hrest hbad => ?faulted⟩
    case goesOn => rw [finishFill_rest hfill (Bool.eq_false_iff.mpr fun h => hall.mp h hrest)]
    case held =>
      rw [finishFill_held hfill (hall.mpr hrest) (by rw [Fill.bad_land, Fill.bad_eq_nil hgood]; rfl)]
      rfl
    case faulted =>
      rw [finishFill_faulted hfill (hall.mpr hrest) ((congrArg leastUsed (Fill.bad_land x e)).trans hbad) hregs, Fill.bad_land]
      rfl

end Sys2Proof
end

section
/-! A write finds every way of its set pinned (R182, R183): it is held at its home, and not performed on its arrival. -/

namespace Sys2Proof

open Sys2Proof.Machine

/-- A write of one byte by a core of die 0, on its way to the line at address 0 of its own die. -/
def heldWrite : Req :=
  { stage := .toBay, op := .write [1], die := 0, core := 0, bid := 0, sid := 0, ctx := 0, va := 0, host := none, home := 0, pa := 0, size := 1,
    keys := 0, leaf := 0, phase := none, stamp := Clock.zero, fill := none, issue := none, atHome := false, alloc := true, remote := false }

/-- Sixteen other lines of the set of that line, each with a pin. -/
def pinnedSet : Tab BayLine :=
  (List.range 16).map (fun k => ((k + 1) * 2 ^ 16, { (default : BayLine) with pins := [(0, 1)], stamp := Clock.zero }))

/-- The package after reset, with those lines in die 0 and the write on its way. -/
def fullSet : State := { State.reset.modDie 0 (fun x => { x with lines := pinnedSet }) with reqs := [(0, heldWrite)] }

theorem waysFree_fullSet : fullSet.waysFree heldWrite = false := by decide +kernel

/-- A request at its home whose line finds no way is held there (R183). -/
theorem performAt_noWay {s : State} {id : Nat} {r : Req} (hr : r.remote = false) (hw : s.waysFree r = false) :
    s.performAt id r = { s with reqs := s.reqs.put id { r with stage := .held } } := by
  unfold State.performAt State.performOrHold
  simp only [hr, hw, Bool.false_eq_true, if_false]

/-- A request of a core of its home's die is performed when it arrives at its bay (R182). -/
theorem exec_bayRequestArrival_home {s : State} {id : Nat} {r : Req} (hr : s.reqs.get? id = some r) (hs : r.stage = .toBay)
    (hb : s.blockedReq id r = false) (hh : r.host = none) (hd : r.home = r.die) :
    exec (.bayRequestArrival id) s = .next ((s.arrive r).performAt id r) := by
  have hgo : s.stalled r = false := by simp [State.stalled, hd]
  refine congrArg Host.Outcome.next ?_
  unfold State.reqArrival
  simp only [hr, hs, hb, hgo, hh, hd, ne_eq, not_true_eq_false, decide_false, Bool.or_self, Bool.false_eq_true, if_false, if_true]

/-- The write is held. -/
theorem exec_heldWrite : exec (.bayRequestArrival 0) fullSet =
    .next { fullSet with reqs := fullSet.reqs.put 0 { heldWrite with stage := .held } } :=
  (exec_bayRequestArrival_home rfl rfl (by decide +kernel) rfl rfl).trans (congrArg Host.Outcome.next (performAt_noWay rfl waysFree_fullSet))

/-- Refutes O39: a write that arrives at its home while sixteen other lines of its line's set are pinned is held there (R183), so its request
does not leave. The last part of the statement does not ask that a way is free. -/
theorem not_requestsApply : ¬ Obligations.RequestsApply := by
  unfold Obligations.RequestsApply
  rintro ⟨-, hperformed⟩
  obtain ⟨hwrite, -⟩ := hperformed fullSet 0 heldWrite rfl rfl (by decide +kernel) rfl rfl rfl (by decide +kernel)
  obtain ⟨t, ht, hgone, -⟩ := hwrite [1] rfl
  rw [exec_heldWrite] at ht
  cases ht
  rw [Tab.get?_put_self] at hgone
  cases hgone

end Sys2Proof
end

section
/-! SUPPORT. Instructions that complete from a state which they have brought about: what their slice noted of its progress is no part of
what they read. -/

namespace Sys2Proof

open Sys2Proof.Machine

/-- Results that can be taken at once: no register result or fill names a pending register or one that another names, and no register
given up is pending. -/
structure Takes (f : Fields) (x : Slice) (o : Out) : Prop where
  fix : ∀ s r, o.fix s r = r
  few : 8 * o.regs.length + 4 * o.fills.length ≤ 128
  held : ∀ k ∈ (if f.n then [] else o.regs.flatMap RegWrite.targets) ++ o.fills, (x.reg k).isPend = false
  rels : ∀ k ∈ o.rels, (x.reg k).isPend = false
  apart : f.n = false → Machine.Apart o.regs
  free : f.n = false → ∀ k ∈ o.fills, k ∉ o.regs.flatMap RegWrite.targets

/-- Registers given up that are not pending take no words. -/
theorem Machine.Slice.need_gone {x y : Slice} {gone : List Nat} (h : ∀ k ∈ gone, (x.reg k).isPend = false) : x.need y gone = x.need y [] := by
  have hzero : (gone.map (fun k => if (x.reg k).isPend then (x.reg k).words else 0)).sum = 0 :=
    List.sum_eq_zero fun n hn => by
      obtain ⟨k, hk, rfl⟩ := List.mem_map.mp hn
      simp [h k hk]
  unfold Slice.need
  rw [hzero]
  rfl

section
variable {s s1 : State} {bid sid : Nat} {b : Block} {x x1 : Slice} {e : Enc} {f : Fields} {body : Env → State → Res} {o : Out}

theorem completeNow_takes (opc : Nat) (rels : List Nat) (sticky : Bool) (hx : s.slice? bid sid = some x) (ht : Takes f x o) :
    completeNow opc f bid sid rels sticky o s = o.eff (settled s bid sid (x.finish opc f (rels ++ o.rels) sticky o)) := by
  have hnone : o.rels.filter (fun k => (x.reg k).isPend) = [] :=
    List.filter_eq_nil_iff.mpr fun k hk => by rw [ht.rels k hk]; decide
  have hst := Slice.afterWrites_sticky x f.n (rels ++ o.rels) o o.regs
  unfold completeNow settled
  simp only [hx, hnone, State.dropRegs_nil hx, ht.fix, State.modSlice_modSlice]
  rw [State.modSlice_eq _ _ _ _ hx]
  unfold Slice.finish
  rw [← hst]

/-- A completion that takes its results at once. -/
theorem complete_takes (opc : Nat) (rels : List Nat) (sticky : Bool) (hx : s.slice? bid sid = some x) (ht : Takes f x o)
    (ha : ∀ n, n ≤ 128 → s.alloc bid sid n = (s, true)) :
    complete opc f bid sid rels sticky o s = o.eff (settled s bid sid (x.finish opc f (rels ++ o.rels) sticky o)) := by
  have hneed : x.need (x.afterWrites f.n (rels ++ o.rels) o o.regs) o.rels ≤ 128 := by
    rw [Slice.need_gone ht.rels]
    exact Nat.le_trans (Slice.need_le x f.n (rels ++ o.rels) o) ht.few
  have hstall : ((if f.n then [] else o.regs.flatMap RegWrite.targets) ++ o.fills).any
      (fun k => (x.reg k).isPend && !(rels ++ o.rels).contains k) = false :=
    List.any_eq_false.mpr fun k hk => by simp [ht.held k hk]
  unfold complete
  simp only [hx, hstall, ha _ hneed, Bool.false_eq_true, if_false]
  exact completeNow_takes opc rels sticky hx ht

/-- What such a completion leaves is what `Went` says. -/
theorem finish_takes (ht : Takes f x o) : Went e f x o (x.finish e.opc f (releasedRegs (e.typeOf f x.mode) f (e.sources f) ++ o.rels)
    (x.readsEmpty (e.typeOf f x.mode) f (e.sources f)) o) :=
  givenUp_finish_went (ks := []) (fun _ hk => absurd hk List.not_mem_nil) ht.apart ht.free

/-- What an instruction notes of its progress is no part of what it reads. -/
theorem onward_reads (h : x1 = { x with prog := x1.prog, stamps := x1.stamps, relFail := x1.relFail, run := x1.run, pend := x1.pend }) :
    x1.mode = x.mode ∧ x1.reg = x.reg ∧ ∀ ty srcs, x1.readsEmpty ty f srcs = x.readsEmpty ty f srcs := by
  rw [h]
  exact ⟨rfl, rfl, fun _ _ => rfl⟩

theorem runInstr_went_onward (h : Ready e f s bid sid b x) (hb : CompletesFrom (body (e.env f bid sid b x) s) s s1 o)
    (hon : Onward s1 bid sid x x1) (ht : Takes f x o) :
    ∃ y, runInstr e f body s = .next (o.eff (settled s1 bid sid y)) ∧ Went e f x1 o y := by
  obtain ⟨hslice, hsame, b1, hblock, hfree, hreserve, hwaiters, hspilled⟩ := hon
  obtain ⟨hmode, hreg, hempty⟩ := onward_reads (f := f) hsame
  have ht1 : Takes f x1 o := ⟨ht.fix, ht.few, hreg ▸ ht.held, hreg ▸ ht.rels, ht.apart, ht.free⟩
  have ha : ∀ n, n ≤ 128 → s1.alloc bid sid n = (s1, true) := fun n hn =>
    State.alloc_room s1 bid sid n 128 b1 hblock hn hfree hreserve hwaiters hspilled
  have hrun : runInstr e f body s = .next (complete e.opc f bid sid (releasedRegs (e.typeOf f x.mode) f (e.sources f))
      (x.readsEmpty (e.typeOf f x.mode) f (e.sources f)) o s1) := by
    rcases hb with hb | ⟨rfl, hb⟩
    · exact runInstr_doneIn h.cur h.legal h.sources hb
    · exact runInstr_done h.cur h.legal h.sources hb
  rw [hrun, complete_takes _ _ _ hslice ht1 ha, ← hmode, ← hempty]
  exact ⟨_, rfl, finish_takes ht1⟩

/-- Results that fit are taken at once where the destination waits for no fill. -/
theorem Fits.takes (h : Ready e f s bid sid b x) (ho : Fits e f x o) : Takes f x o where
  fix := ho.fix
  few := ho.few
  held := fun k hk => by
    obtain ⟨hn, i, hi, rfl⟩ := ho.within k hk
    exact h.dst hn i hi
  rels := fun k hk => absurd (ho.rels ▸ hk) List.not_mem_nil
  apart := ho.apart
  free := ho.free

end

section
variable {i : Fields → Instr} {e : Fields → Enc} {body : Fields → Env → State → Res} {run : Env → State → State → Out → Prop}
  (he : ∀ f s, exec (i f) s = runInstr (e f) f (body f) s)
include he

/-- An instruction whose meaning completes from a state that it has brought about. -/
theorem doesIn_of (hg : ∀ f s bid sid b x, Ready (e f) f s bid sid b x → ∀ s1 o, run ((e f).env f bid sid b x) s s1 o →
      CompletesFrom (body f ((e f).env f bid sid b x) s) s s1 o ∧ Takes f x o) : DoesIn i e run := by
  intro f s bid sid b x h s1 o hr x1 hon
  obtain ⟨hdone, htakes⟩ := hg f s bid sid b x h s1 o hr
  unfold Completes
  rw [he]
  exact runInstr_went_onward h hdone hon htakes

/-- The same, said of the environment only. -/
theorem doesIn_env (hg : ∀ v s bid sid b, Ready (e v.f) v.f s bid sid b v.x → ∀ s1 o, run v s s1 o →
      CompletesFrom (body v.f v s) s s1 o ∧ Takes v.f v.x o) : DoesIn i e run :=
  doesIn_of he fun f s bid sid b x h s1 o hr => hg ((e f).env f bid sid b x) s bid sid b h s1 o hr

end

end Sys2Proof
end

section
/-! SUPPORT. What TLD and TST form from their record (R196 to R199). -/

namespace Sys2Proof

open Sys2Proof.Machine

/-- The coordinate `i` of element `j` of a lane's vector (R198). -/
def Machine.Env.coord (v : Env) (l j i : Nat) : Int := ((v.x.reg (v.f.sb.toNat + i)).lanes.get l).toInt + (if i = 0 then (j : Int) else 0)

/-- A rank is three bits of a byte (R196). -/
theorem TensorRec.rank_le (bytes : List Byte) : (TensorRec.ofBytes bytes).rank ≤ 7 := by
  have hbyte : ∀ xs : List Byte, leNat (xs.take 1) < 256
    | [] => by decide
    | x :: xs => x.isLt
  have hrank : (TensorRec.ofBytes bytes).rank = leNat ((bytes.drop 8).take 1) / 32 := rfl
  have hlt := hbyte (bytes.drop 8)
  omega

/-- The elements that TLD and TST form. -/
def Machine.Env.tensorElems (v : Env) (r : TensorRec) : List TElem :=
  (lanesOf v.act).flatMap (fun l => (List.range (2 ^ (v.md % 4))).map (fun (j : Nat) =>
    let ys := ((v.x.coords v.f.sb.toNat r.rank l).headD 0 + (j : Int)) :: (v.x.coords v.f.sb.toNat r.rank l).drop 1
    ⟨l, j, if r.inBounds ys then some (if r.space then r.permute (r.addrOf ys) else r.addrOf ys) else none⟩))

section
variable {s s1 : State} {v : Env} {bytes : List Byte} {r : TensorRec} {es : List TElem}

theorem tensorGate_go (hr : r = TensorRec.ofBytes bytes) (ha : v.a.scalar % 64 = 0) (hread : s.readAsLd v v.a.scalar 64 v.act = .got s1 bytes)
    (hok : r.ok (bitOf (leNat ((bytes.drop 9).take 1)) 7) typeTensor = true) (hsize : 2 ^ (v.md % 4) * elemSize r.ty ≤ 8)
    (hregs : v.f.sb.toNat + r.rank ≤ 60)
    (hheld : ∀ i, i < r.rank → (v.x.reg (v.f.sb.toNat + i)).isPend = false ∧
      (v.x.mode.getLsbD 14 = true ∨ v.x.reg (v.f.sb.toNat + i) ≠ .empty)) : s.tensorGate v = .go s1 r (v.tensorElems r) := by
  have hpend : ((List.range r.rank).map (fun i => v.f.sb.toNat + i)).any (fun k => (v.x.reg k).isPend) = false := by
    simp only [List.any_map, List.any_eq_false, List.mem_range, Function.comp]
    exact fun i hi => by simp [(hheld i hi).1]
  have hempty : (!v.x.mode.getLsbD 14 && ((List.range r.rank).map (fun i => v.f.sb.toNat + i)).any (fun k => v.x.reg k = .empty)) = false := by
    cases hmode : v.x.mode.getLsbD 14 with
    | true => rfl
    | false =>
      simp only [Bool.not_false, Bool.true_and, List.any_map, List.any_eq_false, List.mem_range, Function.comp, decide_eq_true_eq]
      exact fun i hi => (hheld i hi).2.resolve_left (Bool.eq_false_iff.mp hmode)
  have hforms : (!r.ok (bitOf (leNat ((bytes.drop 9).take 1)) 7) typeTensor || decide (8 < 2 ^ (v.md % 4) * elemSize r.ty) ||
      decide (60 < v.f.sb.toNat + r.rank)) = false := by
    simp only [hok, Bool.not_true, Bool.false_or, Bool.or_eq_false_iff, decide_eq_false_iff_not]
    omega
  unfold State.tensorGate
  simp only [ha, hread, ← hr, hpend, hempty, hforms, ne_eq, not_true_eq_false, if_false, Bool.false_eq_true]
  rfl

theorem tensorElems_length : (v.tensorElems r).length = (lanesOf v.act).length * 2 ^ (v.md % 4) := by
  simp [Env.tensorElems, List.length_flatMap]

/-- The coordinates of an element in a list. -/
theorem coords_eq (hrank : r.rank ≠ 0) (l j : Nat) : ((v.x.coords v.f.sb.toNat r.rank l).headD 0 + (j : Int)) ::
    (v.x.coords v.f.sb.toNat r.rank l).drop 1 = (List.range r.rank).map (v.coord l j) := by
  obtain ⟨m, hm⟩ := Nat.exists_eq_succ_of_ne_zero hrank
  rw [hm, Slice.coords, Nat.succ_eq_add_one, List.range_succ_eq_map]
  simp [Env.coord, Function.comp_def]

/-- Coordinates lie in bounds where each does. -/
theorem inBounds_iff (x : Nat → Int) :
    r.inBounds ((List.range r.rank).map x) = true ↔ ∀ i, i < r.rank → 0 ≤ x i ∧ x i < r.dims.getD i 0 := by
  unfold TensorRec.inBounds
  rw [List.all_eq_true]
  constructor
  · intro h i hi
    have hmem : (x i, i) ∈ ((List.range r.rank).map x).zipIdx :=
      List.mem_zipIdx_iff_getElem?.mpr (by simp [hi])
    simpa using h _ hmem
  · rintro h ⟨y, i⟩ hp
    have hy : ((List.range r.rank).map x)[i]? = some y := List.mem_zipIdx_iff_getElem?.mp hp
    obtain ⟨hi, rfl⟩ := List.getElem?_eq_some_iff.mp hy
    rw [List.length_map, List.length_range] at hi
    simpa using h i hi

/-- Terms past the last that counts add nothing. -/
theorem sum_range_beyond {g : Nat → Nat} {m n : Nat} (hmn : m ≤ n) (hg : ∀ i, m ≤ i → g i = 0) :
    ((List.range n).map g).sum = ((List.range m).map g).sum := by
  induction n, hmn using Nat.le_induction with
  | base => rfl
  | succ k hk ih => simp [List.range_succ, ih, hg k hk]

/-- The address of coordinates (R198). -/
theorem addrOf_eq (x : Nat → Int) (h0 : r.rank ≠ 0) (h7 : r.rank ≤ 7) : r.addrOf ((List.range r.rank).map x) =
    r.base + (x 0).toNat * elemSize r.ty + (((List.range r.rank).drop 1).map (fun i => (x i).toNat * r.strides.getD i 0 * 16)).sum := by
  have hget : ∀ i, ((List.range r.rank).map x).getD i 0 = if i < r.rank then x i else 0 := fun i => by
    by_cases hi : i < r.rank <;> simp [List.getD_eq_getElem?_getD, hi]
  unfold TensorRec.addrOf
  rw [sum_range_beyond h7 fun i hi => by simp [Nat.not_lt.mpr hi], hget, if_pos (Nat.pos_of_ne_zero h0)]
  obtain ⟨m, hm⟩ := Nat.exists_eq_succ_of_ne_zero h0
  simp only [hm, Nat.succ_eq_add_one, List.range_succ_eq_map, List.map_cons, List.sum_cons, if_true, Nat.zero_add, List.drop_one,
    List.tail_cons, List.map_map]
  congr 2
  refine List.map_congr_left fun i hi => ?_
  simp [List.mem_range.mp hi]

theorem mem_tensorElems {e : TElem} (h : e ∈ v.tensorElems r) (h0 : r.rank ≠ 0) (h7 : r.rank ≤ 7) :
    e.lane ∈ lanesOf v.act ∧ e.j < 2 ^ (v.md % 4) ∧
      let x := v.coord e.lane e.j
      let inside := ∀ i, i < r.rank → 0 ≤ x i ∧ x i < r.dims.getD i 0
      let addr := r.base + (x 0).toNat * elemSize r.ty +
        (((List.range r.rank).drop 1).map (fun i => (x i).toNat * r.strides.getD i 0 * 16)).sum
      (¬inside → e.addr = none) ∧ (inside → e.addr = some (if r.space then r.permute addr else addr)) := by
  obtain ⟨l, hl, he⟩ := List.mem_flatMap.mp h
  obtain ⟨j, hj, rfl⟩ := List.mem_map.mp he
  refine ⟨hl, List.mem_range.mp hj, fun hout => ?_, fun hin => ?_⟩
  · simp only
    rw [coords_eq h0, if_neg (mt (inBounds_iff _).mp hout)]
  · simp only
    rw [coords_eq h0, if_pos ((inBounds_iff _).mpr hin), addrOf_eq _ h0 h7]

/-- The coordinate registers that LB releases are not pending where the elements are formed (R52). -/
theorem coordRels_held (h : s.tensorGate v = .go s1 r es) : ∀ k ∈ v.coordRels r.rank, (v.x.reg k).isPend = false := by
  intro k hk
  unfold Env.coordRels at hk
  split at hk
  case isFalse => simp at hk
  unfold State.tensorGate at h
  simp only at h
  split at h
  · cases h
  split at h
  · cases h
  split at h
  · cases h
  split at h
  · cases h
  next hpend =>
  split at h
  · cases h
  · cases h
    exact Bool.eq_false_iff.mpr fun hp => hpend (List.any_eq_true.mpr ⟨k, hk, hp⟩)

end

end Sys2Proof
end

section
/-! SUPPORT. TLD and TST (R198, R200, R207). -/

namespace Sys2Proof

open Sys2Proof.Machine

/-- The elements in bounds as accesses. -/
def Machine.TensorRec.mems (r : TensorRec) (es : List TElem) : List MElem :=
  (es.filter (fun e => e.addr.isSome)).map (fun e => (⟨e.lane, e.j, e.addr.getD 0 % 2 ^ 64, elemSize r.ty⟩ : MElem))

/-- The same in the window. -/
def Machine.TensorRec.spots (r : TensorRec) (es : List TElem) : List (Nat × Nat × Int) := (r.mems es).map (fun e => (e.lane, e.k, (e.va : Int)))

section
variable {s s1 s2 : State} {v : Env} {r : TensorRec} {es : List TElem} {wes : List MElem} {ps : List Placed}

/-! ### TLD -/

/-- An element of the register image of TLD. -/
def Machine.Env.tensorImage (v : Env) (r : TensorRec) (e : TElem) (parts : List (Nat × Nat × Option Dword)) : FillElem :=
  e.toFill v.f.dst.toNat (2 ^ (v.md % 4)) r.ty parts

/-- The elements out of bounds, which take the fill value. -/
def Machine.Env.tensorFilled (v : Env) (r : TensorRec) (es : List TElem) : List FillElem :=
  (es.filter (fun e => e.addr.isNone)).map (fun e => v.tensorImage r e [(0, elemSize r.ty, some (BitVec.ofNat 64 r.fillValue))])

/-- The elements of a record in the window. -/
def Machine.Env.tensorWindow (v : Env) (r : TensorRec) (es : List TElem) : List FillElem :=
  (es.filter (fun e => e.addr.isSome)).map (fun e =>
    v.tensorImage r e [(0, elemSize r.ty, some (BitVec.ofNat 64 (v.b.window.readNat (e.addr.getD 0) (elemSize r.ty))))])

/-- The elements of a record in global memory, with what is known of their parts. -/
def Machine.Env.tensorGlobal (v : Env) (s : State) (r : TensorRec) (es : List TElem) (ps : List Placed) : List FillElem :=
  (es.filter (fun e => e.addr.isSome)).zipIdx.map (fun q => v.tensorImage r q.1
    ((ps.filter (fun p => p.e == q.2)).map (fun p => (p.off, p.size, (s.knownPart v (s.isOrdered v.b) p).map (BitVec.ofNat 64)))))

/-- The registers of the image. -/
def Machine.Env.tensorRegs (v : Env) (r : TensorRec) : List Nat := imageRegs v.f.dst.toNat (2 ^ (v.md % 4)) (elemSize r.ty)

/-- The results of TLD: its fill, and the coordinate registers released. -/
def Machine.Env.tensorLoad (v : Env) (r : TensorRec) (els : List FillElem) (ps : List Placed) : Out :=
  { loadOut v (v.tensorRegs r) .g false els ps with
      rels := v.coordRels r.rank, eff := fun s => v.coordSticky r.rank ((loadOut v (v.tensorRegs r) .g false els ps).eff s) }

/-- What TLD does with its elements. -/
def tldElems (v : Env) (s : State) (r : TensorRec) (es : List TElem) : Res :=
  if 2 ^ (v.md % 4) * elemSize r.ty = 8 && !pairOk v.f.dst.toNat then .raiseIn s 0x0102 0 v.x.mask
  else if r.space then
    match s.winGate v (elemSize r.ty) (r.spots es) with
    | .stop q => q
    | .go wes =>
      match pickFail (v.b.winPoisoned wes) with
      | some (c, a, ls) => .raiseIn s c a ls
      | none =>
        if !s.counterRoom v true then .wait s
        else .doneIn s (v.tensorLoad r (v.tensorWindow r es ++ v.tensorFilled r es) [])
  else
    match s.checkGlobal v {} .read (!s.isOrdered v.b) (r.mems es) with
    | .stop q => q
    | .go s2 ps =>
      if !s2.counterRoom v true then .wait s2
      else
        let s2 := s2.recallFor (s2.isOrdered v.b) ps
        .doneIn s2 (v.tensorLoad r (v.tensorGlobal s2 r es ps ++ v.tensorFilled r es) ps)

/-- The meaning of TLD. -/
def tldBody (v : Env) (s : State) : Res :=
  match s.tensorGate v with
  | .stop r => r
  | .go s1 r es => tldElems v s1 r es

theorem exec_tld_body (f : Fields) (s : State) : exec (.tld f) s = runInstr encTld f tldBody s := rfl

theorem tldBody_go (h : s.tensorGate v = .go s1 r es) : tldBody v s = tldElems v s1 r es := by
  unfold tldBody
  rw [h]

theorem pair_fits (h : 2 ^ (v.md % 4) * elemSize r.ty = 8 → pairOk v.f.dst.toNat = true) :
    (2 ^ (v.md % 4) * elemSize r.ty = 8 && !pairOk v.f.dst.toNat) = false := by
  by_cases hw : 2 ^ (v.md % 4) * elemSize r.ty = 8 <;> simp [hw, h]

theorem tldElems_window (hpair : 2 ^ (v.md % 4) * elemSize r.ty = 8 → pairOk v.f.dst.toNat = true) (hspace : r.space = true)
    (hgate : s1.winGate v (elemSize r.ty) (r.spots es) = .go wes) (hpoison : pickFail (v.b.winPoisoned wes) = none)
    (hroom : s1.counterRoom v true = true) :
    tldElems v s1 r es = .doneIn s1 (v.tensorLoad r (v.tensorWindow r es ++ v.tensorFilled r es) []) := by
  unfold tldElems
  simp only [pair_fits hpair, hspace, hgate, hpoison, hroom, Bool.not_true, Bool.false_eq_true, if_false, if_true]

theorem tldElems_global (hpair : 2 ^ (v.md % 4) * elemSize r.ty = 8 → pairOk v.f.dst.toNat = true) (hspace : r.space = false)
    (hcheck : s1.checkGlobal v {} .read (!s1.isOrdered v.b) (r.mems es) = .go s2 ps) (hroom : s2.counterRoom v true = true) :
    tldElems v s1 r es = .doneIn (s2.recallFor (s2.isOrdered v.b) ps)
      (v.tensorLoad r (v.tensorGlobal (s2.recallFor (s2.isOrdered v.b) ps) r es ps ++ v.tensorFilled r es) ps) := by
  unfold tldElems
  simp only [pair_fits hpair, hspace, hcheck, hroom, Bool.not_true, Bool.false_eq_true, if_false]

/-- TLD's results are taken at once where its image waits for no fill. -/
theorem tensorLoad_takes {els : List FillElem} (hgate : s.tensorGate v = .go s1 r es) (hregs : ∀ k ∈ v.tensorRegs r, (v.x.reg k).isPend = false) :
    Takes v.f v.x (v.tensorLoad r els ps) where
  fix := fun _ _ => rfl
  few := by
    show 8 * 0 + 4 * (v.tensorRegs r).length ≤ 128
    unfold Env.tensorRegs imageRegs
    split <;> simp
  held := fun k hk => by
    have hfill : k ∈ v.tensorRegs r := by
      rcases List.mem_append.mp hk with h | h
      · split at h <;> exact absurd h List.not_mem_nil
      · exact h
    exact hregs k hfill
  rels := coordRels_held hgate
  apart := fun _ => trivial
  free := fun _ _ _ => List.not_mem_nil

/-! ### TST -/

/-- The bytes of an element of TST's image. -/
def Machine.Env.tensorData (v : Env) (r : TensorRec) (e : MElem) : List Byte :=
  leBytes (elemSize r.ty) (((v.tstData (2 ^ (v.md % 4) * elemSize r.ty = 8)).v.get e.lane).toNat / 2 ^ (8 * e.k * elemSize r.ty))

/-- The registers that TST gives up: coordinates with LB, data with LC. -/
def Machine.Env.tensorRels (v : Env) (r : TensorRec) : List Nat :=
  v.coordRels r.rank ++ (if v.f.ext.lc then
    (if 2 ^ (v.md % 4) * elemSize r.ty = 8 then [v.f.ext.sc.toNat, v.f.ext.sc.toNat + 1] else [v.f.ext.sc.toNat]) else [])

/-- An effect of TST, and the sticky status where an empty register was read (R92). -/
def Machine.Env.tensorNoted (v : Env) (r : TensorRec) (eff : State → State) (s : State) : State :=
  v.tstSticky (2 ^ (v.md % 4) * elemSize r.ty = 8) (v.coordSticky r.rank (eff s))

/-- The results of TST. -/
def Machine.Env.tensorStored (v : Env) (r : TensorRec) (eff : State → State) : Out := { rels := v.tensorRels r, eff := v.tensorNoted r eff }

/-- A store of TST, which completes from the state after the record has been read. -/
def Machine.Env.tensorWrap (v : Env) (s : State) (r : TensorRec) (q : Res) : Res :=
  match q with
  | .done o => .doneIn s { o with rels := v.tensorRels r, eff := v.tensorNoted r o.eff }
  | .doneIn s2 o => .doneIn s2 { o with rels := v.tensorRels r, eff := v.tensorNoted r o.eff }
  | q => q

/-- What TST does with its elements. -/
def tstElems (v : Env) (s : State) (r : TensorRec) (es : List TElem) : Res :=
  match v.tstCheck (2 ^ (v.md % 4) * elemSize r.ty = 8) with
  | .bad c => .raiseIn s c 0 v.x.mask
  | .stall => .wait s
  | .ok =>
    if r.space then v.tensorWrap s r (winStore v s (s.winGate v (elemSize r.ty) (r.spots es)) (v.tensorData r))
    else v.tensorWrap s r (globalStore v s (r.mems es) (v.tensorData r))

/-- The meaning of TST. -/
def tstBody (v : Env) (s : State) : Res :=
  match s.tensorGate v with
  | .stop r => r
  | .go s1 r es => tstElems v s1 r es

theorem exec_tst_body (f : Fields) (s : State) : exec (.tst f) s = runInstr encTst f tstBody s := rfl

theorem tstBody_go (h : s.tensorGate v = .go s1 r es) : tstBody v s = tstElems v s1 r es := by
  unfold tstBody
  rw [h]

theorem tstElems_window (hcheck : v.tstCheck (2 ^ (v.md % 4) * elemSize r.ty = 8) = .ok) (hspace : r.space = true)
    (hgate : s1.winGate v (elemSize r.ty) (r.spots es) = .go wes) (hroom : s1.storeRoom v = true) :
    tstElems v s1 r es = .doneIn s1 (v.tensorStored r (fun s => s.winStoreAll v (wes.map (fun e => (e.va, v.tensorData r e))))) := by
  unfold tstElems
  simp only [hcheck, hspace, hgate, winStore_go hroom, if_true]
  rfl

theorem tstElems_global (hcheck : v.tstCheck (2 ^ (v.md % 4) * elemSize r.ty = 8) = .ok) (hspace : r.space = false)
    (hgo : s1.checkGlobal v {} .write false (r.mems es) = .go s2 ps) (hlog : s2.isOrdered v.b = true → s2.logFull v ps = false)
    (hstore : s2.storeRoom v = true) (hsend : s2.sendRoom v ps = true) :
    tstElems v s1 r es = .doneIn s2 (v.tensorStored r (fun s => s.storeParts v (s2.isOrdered v.b) ps (fun e =>
      v.tensorData r ((r.mems es).getD e default)))) := by
  unfold tstElems
  simp only [hcheck, hspace, globalStore_go hgo hlog hstore hsend, Bool.false_eq_true, if_false]
  rfl

/-- No register that passes the checks of R52 is pending. -/
theorem checkSources_held {x : Slice} {ty : Nat} {f : Fields} {srcs : List (Src × Nat × Bool)} (h : x.checkSources ty f srcs = .ok)
    {p : Src × Nat × Bool} (hp : p ∈ srcs) (hreads : p.1.reads = true) : ∀ k ∈ srcRegs p.1 ty f p.2.1, (x.reg k).isPend = false := by
  intro k hk
  unfold Slice.checkSources at h
  split at h
  · cases h
  split at h
  · cases h
  next hpend =>
  refine Bool.eq_false_iff.mpr fun hkp => hpend (List.any_eq_true.mpr ⟨p, hp, ?_⟩)
  rw [hreads, Bool.true_and]
  exact List.any_eq_true.mpr ⟨k, hk, hkp⟩

/-- A last-use bit never stands at a latch (R36). -/
theorem encTst_last {f : Fields} {mode : Word} (h : encTst.legal f mode = true) (hlast : f.ext.lc = true) : f.ext.sc.toNat < 60 := by
  unfold Enc.legal at h
  simp only [Bool.and_eq_true] at h
  obtain ⟨⟨⟨⟨⟨⟨⟨-, hsc⟩, -⟩, -⟩, -⟩, -⟩, -⟩, -⟩ := h
  by_contra hge
  simp [encTst, Src.fieldOk, Nat.not_lt.mp hge, hlast] at hsc

/-- The data registers of TST are not pending where they pass the checks of R52. -/
theorem tensorRels_held {mode : Word} (hl : encTst.legal v.f mode = true) (hgate : s.tensorGate v = .go s1 r es)
    (hcheck : v.tstCheck (2 ^ (v.md % 4) * elemSize r.ty = 8) = .ok) : ∀ k ∈ v.tensorRels r, (v.x.reg k).isPend = false := by
  intro k hk
  rcases List.mem_append.mp hk with hk | hk
  · exact coordRels_held hgate k hk
  split at hk
  case isFalse => exact absurd hk List.not_mem_nil
  next hlast =>
  have hlow := encTst_last hl hlast
  unfold Env.tstCheck at hcheck
  simp only at hcheck
  split at hcheck
  · cases hcheck
  have hheld := checkSources_held hcheck (List.mem_singleton.mpr rfl) (by split <;> rfl) k
  refine hheld ?_
  split at hk
  · next hw => simpa [hw, srcRegs, Nat.not_le.mpr hlow, Src.span, List.range_succ] using hk
  · next hw => simpa [hw, srcRegs, Nat.not_le.mpr hlow, Src.span] using hk

/-- TST's results are taken at once. -/
theorem tensorStored_takes {mode : Word} {eff : State → State} (hl : encTst.legal v.f mode = true) (hgate : s.tensorGate v = .go s1 r es)
    (hcheck : v.tstCheck (2 ^ (v.md % 4) * elemSize r.ty = 8) = .ok) : Takes v.f v.x (v.tensorStored r eff) where
  fix := fun _ _ => rfl
  few := Nat.zero_le _
  held := fun k hk => by
    rw [List.mem_append] at hk
    rcases hk with h | h
    · split at h <;> exact absurd h List.not_mem_nil
    · exact absurd h List.not_mem_nil
  rels := tensorRels_held hl hgate hcheck
  apart := fun _ => trivial
  free := fun _ _ hk => absurd hk List.not_mem_nil

end

end Sys2Proof
end

section
/-! Tensor loads and stores (R196 to R200, R207). -/

namespace Sys2Proof

open Sys2Proof.Machine

/-- What TLD and TST form from a record that passes its checks. -/
theorem tensorGate_forms (s : State) (v : Env) (s1 : State) (bytes : List Byte) :
    let r := TensorRec.ofBytes bytes
    v.a.scalar % 64 = 0 → s.readAsLd v v.a.scalar 64 v.act = .got s1 bytes →
    r.ok (bitOf (leNat ((bytes.drop 9).take 1)) 7) typeTensor = true → 2 ^ (v.md % 4) * elemSize r.ty ≤ 8 → v.f.sb.toNat + r.rank ≤ 60 →
    (∀ i, i < r.rank → (v.x.reg (v.f.sb.toNat + i)).isPend = false ∧ (v.x.mode.getLsbD 14 = true ∨ v.x.reg (v.f.sb.toNat + i) ≠ .empty)) →
    ∃ es, s.tensorGate v = .go s1 r es ∧ es.length = (lanesOf v.act).length * 2 ^ (v.md % 4) ∧
      ∀ e ∈ es, e.lane ∈ lanesOf v.act ∧ e.j < 2 ^ (v.md % 4) ∧
        let x := v.coord e.lane e.j
        let inside := ∀ i, i < r.rank → 0 ≤ x i ∧ x i < r.dims.getD i 0
        let addr := r.base + (x 0).toNat * elemSize r.ty +
          (((List.range r.rank).drop 1).map (fun i => (x i).toNat * r.strides.getD i 0 * 16)).sum
        (¬inside → e.addr = none) ∧ (inside → e.addr = some (if r.space then r.permute addr else addr)) := by
  intro r ha hread hok hsize hregs hheld
  have hrank : r.rank ≠ 0 := by
    have hparts := hok
    simp only [TensorRec.ok, Bool.and_eq_true, bne_iff_ne] at hparts
    obtain ⟨⟨⟨⟨⟨⟨⟨-, h0⟩, -⟩, -⟩, -⟩, -⟩, -⟩, -⟩ := hparts
    exact h0
  exact ⟨_, tensorGate_go rfl ha hread hok hsize hregs hheld, tensorElems_length, fun e he => mem_tensorElems he hrank (TensorRec.rank_le bytes)⟩

/-- Settles O17: an element's coordinates are a list of the record's rank, from which its address follows; TLD and TST complete from the state
in which their record has been read, and give up registers that are not pending. -/
theorem tensorAccess : Obligations.TensorAccess := by
  unfold Obligations.TensorAccess
  refine ⟨tensorGate_forms, ?tldWindow, ?tldGlobal, ?tstWindow, ?tstGlobal⟩
  case tldWindow =>
    refine doesIn_env exec_tld_body fun v s bid sid b _ s1 o hr => ?_
    obtain ⟨r, es, wes, hgate, ⟨hpair, hheld⟩, hspace, hwin, hpoison, hroom, rfl⟩ := hr
    exact ⟨.inl ((tldBody_go hgate).trans (tldElems_window hpair hspace hwin hpoison hroom)), tensorLoad_takes hgate hheld⟩
  case tldGlobal =>
    refine doesIn_env exec_tld_body fun v s bid sid b _ s2 o hr => ?_
    obtain ⟨s1, r, es, ps, hgate, ⟨hpair, hheld⟩, hspace, s0, hcheck, hroom, rfl, rfl⟩ := hr
    exact ⟨.inl ((tldBody_go hgate).trans (tldElems_global hpair hspace hcheck hroom)), tensorLoad_takes hgate hheld⟩
  case tstWindow =>
    refine doesIn_env exec_tst_body fun v s bid sid b h s1 o hr => ?_
    obtain ⟨r, es, wes, hgate, hcheck, hspace, hwin, hroom, rfl⟩ := hr
    exact ⟨.inl ((tstBody_go hgate).trans (tstElems_window hcheck hspace hwin hroom)), tensorStored_takes h.legal hgate hcheck⟩
  case tstGlobal =>
    refine doesIn_env exec_tst_body fun v s bid sid b h s2 o hr => ?_
    obtain ⟨s1, r, es, ps, hgate, hcheck, hspace, hgo, hlog, hstore, hsend, rfl⟩ := hr
    exact ⟨.inl ((tstBody_go hgate).trans (tstElems_global hcheck hspace hgo hlog hstore hsend)), tensorStored_takes h.legal hgate hcheck⟩

end Sys2Proof
end

section
/-! SUPPORT. RLD and RST at pod peers (R201 to R206, R226, R354). -/

namespace Sys2Proof

open Sys2Proof.Machine

theorem filterMap_ite {α β : Type} (p : α → Bool) (g : α → β) (l : List α) :
    l.filterMap (fun a => if p a then none else some (g a)) = (l.filter (fun a => !p a)).map g := by
  induction l with
  | nil => rfl
  | cons a l ih => cases h : p a <;> simp [h, ih]

/-- Elements that pass their checks name no failure. -/
theorem pickFail_passed {α : Type} {es : List α} {g : α → Option LaneFail} (h : ∀ e ∈ es, g e = none) :
    pickFail (es.filterMap g) = none := by
  rw [List.filterMap_eq_nil_iff.mpr h]
  rfl

/-- The elements at dies of other packages, with their places in the order of the passes. -/
def Machine.State.otherElems (s : State) (es : List RElem) : List (RElem × Nat) := es.zipIdx.filter (fun q => !s.ownPeer q.1.peer)

/-- The requests that read those elements. -/
def Machine.State.peerReads (s : State) (v : Env) (es : List RElem) : List (Nat × PeerReq) :=
  (s.otherElems es).map (fun q => (q.2, s.peerReq v q.1 0 0 []))

/-- The row of RLD. -/
def encRld : Enc :=
  { opc := 0x69, lens := [1, 2, 3], dst := .run, sa := .w32, sb := .w64, types := .eff typeMT, lit := .role, md := 3,
    extra := fun f _ => modOf f % 4 != 3 }

/-- The row of RST. -/
def encRst : Enc :=
  { opc := 0x6A, lens := [2, 3], sa := .w32, sb := .w64, sc := .run, types := .eff typeMT, lit := .role, md := 3,
    extra := fun f _ => modOf f % 4 != 3 }

/-- The elements of RLD and RST, in the order of their passes (R202). -/
def Machine.Env.passElems (v : Env) : List RElem := passOrder (v.remoteElems (elemSize v.ty) (countOf v.f))

section
variable {v : Env} {s : State}

/-! ### RLD -/

/-- The fill of RLD. -/
def Machine.Env.remoteLoad (v : Env) (s : State) : Out :=
  { fills := v.runRegs (countOf v.f), fillTag := .g, eff := fun t =>
    ((t.modSlice v.bid v.sid (fun x => x.blankFill (v.runRegs (countOf v.f)) v.act)).beginRemote v (v.runRegs (countOf v.f)) .g
      (v.passElems.zipIdx.map (fun q => s.remoteFillElem v.f.dst.toNat v.ty (s.ownParts v v.passElems) q.2 q.1)) (s.ownParts v v.passElems)
      (fun _ r => r) (s.peerReads v v.passElems)).1 }

/-- The meaning of RLD. -/
def rldBody (v : Env) (s : State) : Res :=
  match pickFail (v.passElems.filterMap (s.remoteFail 1)) with
  | some (c, a, ls) => .raise c a ls
  | none =>
    let rs := v.passElems.zipIdx.filterMap (fun q => if s.ownPeer q.1.peer then none else some (q.2, s.peerReq v q.1 0 0 []))
    if !s.counterRoom v true || !s.pairsRoom (rs.map (fun r => r.2)) then .wait s
    else
      let ps := s.ownParts v v.passElems
      let els := v.passElems.zipIdx.map (fun q => s.remoteFillElem v.f.dst.toNat v.ty ps q.2 q.1)
      .done { fills := v.runRegs (countOf v.f), fillTag := .g, eff := fun s =>
        ((s.modSlice v.bid v.sid (fun x => x.blankFill (v.runRegs (countOf v.f)) v.act)).beginRemote v (v.runRegs (countOf v.f)) .g els ps
          (fun _ r => r) rs).1 }

theorem exec_rld_body (f : Fields) (s : State) : exec (.rld f) s = runInstr encRld f rldBody s := rfl

theorem rldBody_go (hok : ∀ e ∈ v.passElems, s.remoteFail 1 e = none) (hcount : s.counterRoom v true = true)
    (hpairs : s.pairsRoom ((s.peerReads v v.passElems).map (fun r => r.2)) = true) : rldBody v s = .done (v.remoteLoad s) := by
  unfold rldBody
  simp only [pickFail_passed hok, filterMap_ite]
  unfold State.peerReads State.otherElems at hpairs
  simp only [hcount, hpairs, Bool.not_true, Bool.or_self, Bool.false_eq_true, if_false]
  rfl

theorem rldBody_full (hok : ∀ e ∈ v.passElems, s.remoteFail 1 e = none)
    (hfull : ¬(s.counterRoom v true = true ∧ s.pairsRoom ((s.peerReads v v.passElems).map (fun r => r.2)) = true)) :
    rldBody v s = .wait s := by
  have hwait : (!s.counterRoom v true || !s.pairsRoom ((s.peerReads v v.passElems).map (fun r => r.2))) = true := by
    rwa [← Bool.not_and, Bool.not_eq_true', Bool.eq_false_iff, ne_eq, Bool.and_eq_true]
  unfold rldBody
  simp only [pickFail_passed hok, filterMap_ite]
  exact if_pos hwait

theorem rldBody_fails {c : Half} {a : Dword} {m : BitVec 4} (h : pickFail (v.passElems.filterMap (s.remoteFail 1)) = some (c, a, m)) :
    rldBody v s = .raise c a m := by
  unfold rldBody
  rw [h]

theorem filling_rld {f : Fields} {bid sid : Nat} {b : Block} {x : Slice} :
    Filling encRld f (encRld.typeOf f x.mode) ((encRld.env f bid sid b x).remoteLoad s) :=
  ⟨rfl, rfl, fun _ _ => rfl, rfl, encLd_few (opc := 0x60) (sa := .w64) (ty := encRld.typeOf f x.mode)⟩

/-! ### RST -/

/-- The bytes of an element of RST. -/
def Machine.Env.passData (v : Env) (i : Nat) : List Byte := v.runData v.c (v.passElems.getD i default).lane (v.passElems.getD i default).k

/-- The requests that write the elements at dies of other packages. -/
def Machine.State.peerWrites (s : State) (v : Env) : List PeerReq := (s.otherElems v.passElems).map (fun q => s.peerReq v q.1 1 0 (v.passData q.2))

/-- The results of RST. -/
def Machine.Env.remoteStore (v : Env) (s : State) : Out :=
  doing (fun t =>
    let ps := s.ownParts v v.passElems
    let t1 := ps.foldl (fun t p => t.send { v.request t p (.write (((v.passData p.e).drop p.off).take p.size)) with
      issue := some v.x.issueNo, alloc := false, remote := true }) (t.countIssue v false (ps.length + (s.peerWrites v).length))
    (s.peerWrites v).foldl (fun t r => t.sendPeer { r with issue := some v.x.issueNo }) t1)

/-- The meaning of RST. -/
def rstBody (v : Env) (s : State) : Res :=
  match pickFail (v.passElems.filterMap (s.remoteFail 1)) with
  | some (c, a, ls) => .raise c a ls
  | none =>
    let rs := v.passElems.zipIdx.filterMap (fun q => if s.ownPeer q.1.peer then none else some (s.peerReq v q.1 1 0 (v.passData q.2)))
    if v.b.shadowOf.isSome then .done {}
    else if !s.storeRoom v || !s.pairsRoom rs || !s.ringRoom v (s.ownParts v v.passElems) then .wait s
    else
      let ps := s.ownParts v v.passElems
      .done { eff := fun s =>
        let s1 := s.countIssue v false (ps.length + rs.length)
        let s2 := ps.foldl (fun s p => s.send { v.request s p (.write (((v.passData p.e).drop p.off).take p.size)) with
          issue := some v.x.issueNo, alloc := false, remote := true }) s1
        rs.foldl (fun s r => s.sendPeer { r with issue := some v.x.issueNo }) s2 }

theorem exec_rst_body (f : Fields) (s : State) : exec (.rst f) s = runInstr encRst f rstBody s := rfl

theorem rstBody_shadow (hok : ∀ e ∈ v.passElems, s.remoteFail 1 e = none) (hs : v.b.shadowOf.isSome = true) : rstBody v s = .done {} := by
  unfold rstBody
  simp only [pickFail_passed hok, hs, if_true]

theorem rstBody_go (hok : ∀ e ∈ v.passElems, s.remoteFail 1 e = none) (hs : v.b.shadowOf = none) (hstore : s.storeRoom v = true)
    (hpairs : s.pairsRoom (s.peerWrites v) = true) (hring : s.ringRoom v (s.ownParts v v.passElems) = true) :
    rstBody v s = .done (v.remoteStore s) := by
  unfold rstBody
  simp only [pickFail_passed hok, filterMap_ite, hs]
  unfold State.peerWrites State.otherElems at hpairs
  simp only [hstore, hpairs, hring, Option.isSome_none, Bool.not_true, Bool.or_self, Bool.false_eq_true, if_false]
  rfl

theorem rstBody_fails {c : Half} {a : Dword} {m : BitVec 4} (h : pickFail (v.passElems.filterMap (s.remoteFail 1)) = some (c, a, m)) :
    rstBody v s = .raise c a m := by
  unfold rstBody
  rw [h]

end

end Sys2Proof
end

section
/-! SUPPORT. RATM at pod peers (R201, R229, R253, R434). -/

namespace Sys2Proof

open Sys2Proof.Machine

section
variable {v : Env} {s s1 s2 : State}

/-- The elements of RATM, in the order of their passes (R202). -/
def Machine.Env.ratmElems (v : Env) : List RElem := passOrder (v.remoteElems (elemSize v.ty) 1)

/-- A release of RATM reports the failures that it covers (R229). -/
def Machine.Env.ratmTell (v : Env) (s : State) : State := if (ratmReq v).rel then s.reported v.bid v.sid (ratmReq v).scope else s

/-- What RATM gives where it has sent nothing. -/
def Machine.Env.ratmNone (v : Env) : Out := { (ratmReq v).lanesOut v (noFill v) with eff := v.ratmTell }

/-- There is room for what RATM sends. -/
def RatmRoom (v : Env) (s : State) : Prop :=
  s.counterRoom v true = true ∧ s.pairsRoom ((s.ratmRequests v v.ratmElems).map (fun r => r.2)) = true ∧
    s.ringRoom v (s.ownParts v v.ratmElems) = true

/-- The registers of RATM. -/
def Machine.Env.ratmRegs (v : Env) : List Nat := if typeWide v.ty then [v.f.dst.toNat, v.f.dst.toNat + 1] else [v.f.dst.toNat]

/-- The elements of RATM's fill. -/
def Machine.Env.ratmFill (v : Env) : List FillElem :=
  v.ratmElems.map (fun e => { (ratmReq v).fillElem v.f.dst.toNat e.toMElem none with addr := BitVec.ofNat 64 e.off })

/-- The request of a part of RATM at a die of the own package. -/
def Machine.Env.ratmPart (v : Env) (s : State) (p : Placed) (r : Req) : Req :=
  v.ratmOwn { (ratmReq v).request v s p (v.ratmElems.getD p.e default).lane with fill := r.fill }

/-- A fill of RATM begun, with its requests. -/
def Machine.Env.ratmBegin (v : Env) (s : State) (regs : List Nat) (t : State) : State × Nat :=
  t.beginRemote v regs .g v.ratmFill (s.ownParts v v.ratmElems) (v.ratmPart s) (s.ratmRequests v v.ratmElems)

/-- What RATM gives where it does not wait for its results: its registers pending, and the fill begun. -/
def Machine.Env.ratmLoad (v : Env) (s : State) : Out :=
  { fills := v.ratmRegs, fillTag := .g
    eff := fun t => v.ratmTell (v.ratmBegin s v.ratmRegs (t.modSlice v.bid v.sid (fun x => x.blankFill v.ratmRegs v.act))).1 }

/-- RATM once its release is done. -/
def ratmSend (v : Env) (s : State) : Res :=
  if (ratmReq v).hold && v.ratmElems.isEmpty then acquireThen v (ratmReq v).scope 0 none s v.ratmNone
  else if !s.counterRoom v true || !s.pairsRoom ((s.ratmRequests v v.ratmElems).map (fun r => r.2)) ||
    !s.ringRoom v (s.ownParts v v.ratmElems) then .wait s
  else if (ratmReq v).hold then
    .wait ((v.ratmBegin s [] s).1.modSlice v.bid v.sid (fun x => { x with prog := .pending (v.ratmBegin s [] s).2 }))
  else .doneIn s (v.ratmLoad s)

/-- RATM that has begun nothing. -/
def ratmStart (v : Env) (s : State) : Res :=
  match pickFail (v.ratmElems.filterMap (s.remoteFail (elemSize v.ty))) with
  | some (c, a, ls) => .raise c a ls
  | none =>
    match (if (ratmReq v).rel then s.release v (ratmReq v).scope else (s, some true)) with
    | (s1, none) => .wait s1
    | (s1, some _) => ratmSend v s1

/-- The meaning of RATM, by what the slice has noted. -/
theorem ratmBody_eq : ratmBody v s = match v.x.prog with
    | .pending fid => (ratmReq v).finish v ((ratmReq v).lanesOut v) false fid s
    | .acquiring _ w => if w = 0 then acquireThen v (ratmReq v).scope 0 none s v.ratmNone
      else (ratmReq v).finish v ((ratmReq v).lanesOut v) false (w.toNat - 1) s
    | _ => ratmStart v s := rfl

theorem exec_ratm_body (f : Fields) (s : State) : exec (.ratm f) s = runInstr (encRatm f) f ratmBody s := rfl

theorem ratmBody_start (h : NotBegun v) : ratmBody v s = ratmStart v s := by
  obtain ⟨hpending, hacquiring⟩ := h
  rw [ratmBody_eq]
  split
  · next fid hp => exact absurd hp (hpending fid)
  · next w hp => simp [Slice.acquiring?, hp] at hacquiring
  · rfl

theorem ratmStart_fails {c : Half} {a : Dword} {m : BitVec 4}
    (h : pickFail (v.ratmElems.filterMap (s.remoteFail (elemSize v.ty))) = some (c, a, m)) : ratmStart v s = .raise c a m := by
  unfold ratmStart
  rw [h]

theorem ratmStart_released (hok : ∀ e ∈ v.ratmElems, s.remoteFail (elemSize v.ty) e = none) (h : Released (ratmReq v) v s s1) :
    ratmStart v s = ratmSend v s1 := by
  unfold ratmStart
  rw [pickFail_passed hok]
  unfold Released at h
  split at h
  · next hrel =>
    obtain ⟨ok, h⟩ := h
    simp only [hrel, if_true, h]
  · next hrel =>
    subst h
    simp only [hrel, Bool.false_eq_true, if_false]

/-- RATM has an element for each active lane. -/
theorem ratmElems_isEmpty : v.ratmElems.isEmpty = true ↔ v.act = 0 := by
  have hlength : v.ratmElems.length = (lanesOf v.act).length := by
    unfold Env.ratmElems passOrder Env.remoteElems
    rw [List.length_insertionSort]
    simp [List.length_flatMap]
  rw [← lanesOf_isEmpty, List.isEmpty_iff_length_eq_zero, List.isEmpty_iff_length_eq_zero, hlength]

theorem ratmRoom_iff : (!s.counterRoom v true || !s.pairsRoom ((s.ratmRequests v v.ratmElems).map (fun r => r.2)) ||
    !s.ringRoom v (s.ownParts v v.ratmElems)) = false ↔ RatmRoom v s := by
  simp only [RatmRoom, Bool.or_eq_false_iff, Bool.not_eq_false', and_assoc]

theorem ratmSend_load (h : RatmRoom v s) (hh : (ratmReq v).hold = false) : ratmSend v s = .doneIn s (v.ratmLoad s) := by
  unfold ratmSend
  simp only [ratmRoom_iff.mpr h, hh, Bool.false_and, Bool.false_eq_true, if_false]

theorem ratmSend_hold (h : RatmRoom v s) (hh : (ratmReq v).hold = true) (ha : v.act ≠ 0) : ratmSend v s =
    .wait ((v.ratmBegin s [] s).1.modSlice v.bid v.sid (fun x => { x with prog := .pending (v.ratmBegin s [] s).2 })) := by
  have hsome : v.ratmElems.isEmpty = false := Bool.eq_false_iff.mpr (mt ratmElems_isEmpty.mp ha)
  unfold ratmSend
  simp only [ratmRoom_iff.mpr h, hh, hsome, Bool.and_false, Bool.false_eq_true, if_false, if_true]

theorem acquireThen_done {scope : Scope} {w : Dword} {mine : Option Nat} {o : Out} (h : s.acquire v scope w mine = (s1, true)) :
    acquireThen v scope w mine s o = .doneIn s1 o := by
  unfold acquireThen
  rw [h]

theorem ratmSend_idle (hh : (ratmReq v).hold = true) (ha : v.act = 0) (h : s.acquire v (ratmReq v).scope 0 none = (s1, true)) :
    ratmSend v s = .doneIn s1 v.ratmNone := by
  unfold ratmSend
  rw [if_pos (by simp [hh, ratmElems_isEmpty.mpr ha])]
  exact acquireThen_done h

theorem ratmBody_acquired (hp : v.x.acquiring? = some 0) (h : s.acquire v (ratmReq v).scope 0 none = (s1, true)) :
    ratmBody v s = .doneIn s1 v.ratmNone := by
  rw [ratmBody_eq]
  unfold Slice.acquiring? at hp
  split at hp
  · next hw =>
    rw [hw]
    cases hp
    exact acquireThen_done h
  · cases hp

/-- An RMW whose results are there completes (R253). -/
theorem finish_done {q : RmwReq} {mk : Fill → Out} {precise : Bool} {fid : Nat} {o : Out} (h : RmwEnds q v mk s fid s1 o) :
    q.finish v mk precise fid s = .doneIn s1 o := by
  obtain ⟨x, hx, hall, hraised, hacquired, rfl⟩ := h
  unfold Acquired at hacquired
  unfold RmwReq.finish
  simp only [hx, hall, hraised, Bool.not_true, Bool.false_eq_true, if_false]
  split at hacquired
  · next hacq => rw [if_pos hacq, acquireThen_done hacquired]
  · next hacq => rw [if_neg hacq, hacquired]

theorem ratmBody_ends {fid : Nat} {o : Out} (hw : WaitsFor v fid) (h : RmwEnds (ratmReq v) v ((ratmReq v).lanesOut v) s fid s1 o) :
    ratmBody v s = .doneIn s1 o := by
  rw [ratmBody_eq]
  rcases hw with hp | ⟨w, hp, hw0, rfl⟩
  · rw [hp]
    exact finish_done h
  · unfold Slice.acquiring? at hp
    split at hp
    · next hq =>
      rw [hq]
      cases hp
      simp only [if_neg hw0]
      exact finish_done h
    · cases hp

end

/-! ### What RATM's results name -/

section
variable {f : Fields} {s : State} {bid sid : Nat} {b : Block} {x : Slice} {o : Out}

theorem encRatm_clears : clearsLatches (encRatm f).opc f.y = true := by simp [clearsLatches, encRatm]

theorem ratmLoad_takes (h : Ready (encRatm f) f s bid sid b x) (t : State) :
    Takes f x (((encRatm f).env f bid sid b x).ratmLoad t) := by
  refine (Filling.fits (e := encRatm f) ⟨rfl, rfl, fun _ _ => rfl, ?_, ?_⟩ (h.n_false encRatm_clears)).takes h
  · have hregs : ∀ (w : Bool) (d : Nat), (if w then [d, d + 1] else [d]) = (List.range (if w then 2 else 1)).map (fun i => d + i) := fun w d => by
      cases w <;> rfl
    exact hregs _ _
  · show (if typeWide _ then 2 else 1) ≤ 32
    split <;> decide

/-- The registers of a fill that RATM waited for. -/
theorem ratmLanes_takes (h : Ready (encRatm f) f s bid sid b x) (eff : State → State) (y : Fill) :
    let v := (encRatm f).env f bid sid b x
    Takes f x { (ratmReq v).lanesOut v y with eff := eff } :=
  (plain_one (e := encRatm f) (ty := (encRatm f).typeOf f x.mode) rfl le_rfl eff none).fits.takes h

end

end Sys2Proof
end

section
/-! Access to pod peers (R201 to R206, R226, R229, R354, R434). -/

namespace Sys2Proof

open Sys2Proof.Machine

/-- Settles O24: RLD and RST complete at once where their elements pass their checks and have room; RATM goes on from its release, from its
fill or from its acquire, by what the slice has noted. -/
theorem peerAccess : Obligations.PeerAccess := by
  unfold Obligations.PeerAccess
  refine ⟨⟨?rld, ?rldWaits, ?rstShadow, ?rst, ?rldRaises, ?rstRaises⟩, ?load, ?hold, ?ends, ?idle, ?acquired, ?raises⟩
  case rld =>
    refine does_filling exec_rld_body (fun _ => Bool.or_true _) fun f s bid sid b x _ s1 o hr => ?_
    obtain ⟨⟨hok, hcount, hpairs⟩, rfl, rfl⟩ := hr
    exact ⟨.refl _, .inr ⟨rfl, rldBody_go hok hcount hpairs⟩, filling_rld⟩
  case rldWaits =>
    refine waits_of exec_rld_body fun f s bid sid b x _ s1 hr => ?_
    obtain ⟨rfl, hok, hfull⟩ := hr
    exact rldBody_full hok hfull
  case rstShadow =>
    exact givesIf_plain exec_rst_body fun f s bid sid b x _ hc => ⟨rstBody_shadow hc.1 hc.2, plain_none _ _⟩
  case rst =>
    refine givesIf_plain exec_rst_body fun f s bid sid b x _ hc => ?_
    obtain ⟨hok, hs, hstore, hpairs, hring⟩ := hc
    exact ⟨rstBody_go hok hs hstore hpairs hring, plain_none _ _⟩
  case rldRaises => exact raises_of exec_rld_body fun f s bid sid b x _ c a m hr => rldBody_fails hr
  case rstRaises => exact raises_of exec_rst_body fun f s bid sid b x _ c a m hr => rstBody_fails hr
  case load =>
    refine doesIn_of exec_ratm_body fun f s bid sid b x h s1 o hr => ?_
    obtain ⟨hnew, hok, hrel, hroom, hhold, rfl⟩ := hr
    exact ⟨.inl (((ratmBody_start hnew).trans (ratmStart_released hok hrel)).trans (ratmSend_load hroom hhold)), ratmLoad_takes h s1⟩
  case hold =>
    refine waits_of exec_ratm_body fun f s bid sid b x _ s3 hr => ?_
    obtain ⟨hnew, hok, s1, s2, fid, hrel, hroom, hhold, hact, hbegin, rfl⟩ := hr
    rw [ratmBody_start hnew, ratmStart_released hok hrel, ratmSend_hold hroom hhold hact]
    have hfst : (((encRatm f).env f bid sid b x).ratmBegin s1 [] s1) = (s2, fid) := hbegin
    rw [hfst]
  case ends =>
    refine doesIn_of exec_ratm_body fun f s bid sid b x h s1 o hr => ?_
    obtain ⟨fid, hw, hends⟩ := hr
    refine ⟨.inl (ratmBody_ends hw hends), ?_⟩
    obtain ⟨y, -, -, -, -, rfl⟩ := hends
    exact ratmLanes_takes h _ y
  case idle =>
    refine doesIn_of exec_ratm_body fun f s bid sid b x h s2 o hr => ?_
    obtain ⟨hnew, hact, hhold, ⟨s1, hrel, hacq⟩, rfl⟩ := hr
    have hnone := List.isEmpty_iff.mp (ratmElems_isEmpty.mpr hact)
    have hok : ∀ e ∈ ((encRatm f).env f bid sid b x).ratmElems, s.remoteFail (elemSize ((encRatm f).env f bid sid b x).ty) e = none :=
      fun e he => absurd (hnone ▸ he) List.not_mem_nil
    exact ⟨.inl (((ratmBody_start hnew).trans (ratmStart_released hok hrel)).trans (ratmSend_idle hhold hact hacq)), ratmLanes_takes h _ _⟩
  case acquired =>
    refine doesIn_of exec_ratm_body fun f s bid sid b x h s1 o hr => ?_
    obtain ⟨hp, hacq, rfl⟩ := hr
    exact ⟨.inl (ratmBody_acquired hp hacq), ratmLanes_takes h _ _⟩
  case raises =>
    refine raises_of exec_ratm_body fun f s bid sid b x _ c a m hr => ?_
    obtain ⟨hnew, hfail⟩ := hr
    exact (ratmBody_start hnew).trans (ratmStart_fails hfail)

end Sys2Proof
end

section
/-! SUPPORT. Instructions that end with an acquire, and what FENCE, COMMIT and GSYNC do by what the slice has noted (R218, R219, R237, R274, R275). -/

namespace Sys2Proof

open Sys2Proof.Machine

/-- Results without registers are taken at once. -/
theorem bare_takes {f : Fields} {x : Slice} (pred : Option (Nat × BitVec 4)) (eff : State → State) : Takes f x { pred := pred, eff := eff } where
  fix := fun _ _ => rfl
  few := Nat.zero_le _
  held := fun k hk => by
    have hnone : (if f.n then [] else ([] : List RegWrite).flatMap RegWrite.targets) ++ [] = [] := by split <;> rfl
    exact absurd (hnone ▸ hk) List.not_mem_nil
  rels := fun _ hk => absurd hk List.not_mem_nil
  apart := fun _ => trivial
  free := fun _ _ hk => absurd hk List.not_mem_nil

/-- The scope that an instruction names in its low bits. -/
def Machine.Env.orderScope (v : Env) : Scope := (scopeOf (v.md % 8)).getD .core

section
variable {v : Env} {s s1 s2 : State}

theorem acquireThen_waits {scope : Scope} {w : Dword} {mine : Option Nat} {o : Out} (h : s.acquire v scope w mine = (s1, false)) :
    acquireThen v scope w mine s o = .wait s1 := by
  unfold acquireThen
  rw [h]

theorem acquiring_iff {x : Slice} {w : Dword} : x.acquiring? = some w ↔ ∃ t, x.prog = .acquiring t w := by
  unfold Slice.acquiring?
  split
  · next t u hp => simp [hp]
  · next hp => simpa using fun t => hp t w

/-! ### FENCE -/

/-- The parts that FENCE asks for: 0 the acquire, 1 the release, 2 both. -/
def Machine.Env.fenceKind (v : Env) : Nat := v.md / 8 % 4

/-- FENCE's results, which say whether its release succeeded. -/
def Machine.Env.fenceOut (v : Env) (ok : Bool) : Out :=
  { pred := if bitOf v.md 5 then some (v.f.dst.toNat, if ok then 0xF else 0) else none
    eff := fun s => if v.fenceKind ≠ 0 ∧ 4 ≤ v.orderScope.code then s.modSlice v.bid v.sid (fun x => { x with relFail := false }) else s }

theorem exec_fence_body (f : Fields) (s : State) : exec (.fence f) s = runInstr (encFence f) f fenceBody s := rfl

/-- A release of pod scope or wider reports its failures (R229). -/
theorem fenceOut_eq (v : Env) (ok : Bool) : v.fenceOut ok =
    { pred := if bitOf v.md 5 then predAll v ok else none
      eff := fun s => if v.fenceKind = 0 then s else s.reported v.bid v.sid v.orderScope } := by
  have heff : (fun s : State => if v.fenceKind ≠ 0 ∧ 4 ≤ v.orderScope.code then s.modSlice v.bid v.sid (fun x => { x with relFail := false }) else s) =
      fun s => if v.fenceKind = 0 then s else s.reported v.bid v.sid v.orderScope := by
    funext s
    by_cases hkind : v.fenceKind = 0 <;> simp [hkind, State.reported]
  unfold Env.fenceOut predAll
  rw [heff]

theorem fenceBody_eq : fenceBody v s = match v.x.acquiring? with
    | some w => acquireThen v v.orderScope w none s (v.fenceOut (w == 1))
    | none =>
      if v.fenceKind = 0 then acquireThen v v.orderScope 1 none s (v.fenceOut true)
      else match s.release v v.orderScope with
        | (s1, none) => .wait s1
        | (s1, some ok) =>
          if v.fenceKind = 1 then .doneIn s1 (v.fenceOut ok)
          else acquireThen v v.orderScope (if ok then 1 else 0) none s1 (v.fenceOut ok) := by
  simp only [fenceOut_eq]
  rfl

theorem fenceBody_acquiring {w : Dword} (h : v.x.acquiring? = some w) :
    fenceBody v s = acquireThen v v.orderScope w none s (v.fenceOut (w == 1)) := by
  rw [fenceBody_eq, h]

theorem fenceBody_acquires (h : v.x.acquiring? = none) (hk : v.fenceKind = 0) :
    fenceBody v s = acquireThen v v.orderScope 1 none s (v.fenceOut true) := by
  rw [fenceBody_eq, h]
  exact if_pos hk

theorem fenceBody_releasing (h : v.x.acquiring? = none) (hk : 1 ≤ v.fenceKind) (hr : s.release v v.orderScope = (s1, none)) :
    fenceBody v s = .wait s1 := by
  rw [fenceBody_eq, h]
  simp only [hr, if_neg (Nat.one_le_iff_ne_zero.mp hk)]

theorem fenceBody_released {ok : Bool} (h : v.x.acquiring? = none) (hk : v.fenceKind = 1) (hr : s.release v v.orderScope = (s1, some ok)) :
    fenceBody v s = .doneIn s1 (v.fenceOut ok) := by
  rw [fenceBody_eq, h]
  simp only [hr, hk, Nat.one_ne_zero, if_false, if_true]

theorem fenceBody_both {ok : Bool} (h : v.x.acquiring? = none) (hk : 2 ≤ v.fenceKind) (hr : s.release v v.orderScope = (s1, some ok)) :
    fenceBody v s = acquireThen v v.orderScope (if ok then 1 else 0) none s1 (v.fenceOut ok) := by
  have h0 : v.fenceKind ≠ 0 := by omega
  have h1 : v.fenceKind ≠ 1 := by omega
  rw [fenceBody_eq, h]
  simp only [hr, if_neg h0, if_neg h1]

/-! ### COMMIT -/

/-- The row of COMMIT. -/
def encCommit : Enc := { opc := 0xB2, lens := [1], gov0 := true }

/-- The meaning of COMMIT. -/
def commitBody (v : Env) (s : State) : Res :=
  if s.isOrdered v.b then (match v.x.prog with | .satisfied _ => .done {} | _ => .wait (s.atPoint v))
  else match v.x.acquiring? with
    | some w => acquireThen v .die w none s {}
    | none => match s.release v .die with
      | (s1, none) => .wait s1
      | (s1, some _) => acquireThen v .die 1 none s1 {}

theorem exec_commit_body (f : Fields) (s : State) : exec (.commit f) s = runInstr encCommit f commitBody s := rfl

theorem commitBody_committed (ho : s.isOrdered v.b = true) (h : ∃ n, v.x.prog = .satisfied n) : commitBody v s = .done {} := by
  obtain ⟨n, hn⟩ := h
  unfold commitBody
  simp only [ho, hn, if_true]

theorem commitBody_round (ho : s.isOrdered v.b = true) (h : ¬∃ n, v.x.prog = .satisfied n) :
    commitBody v s = .wait (s.modSlice v.bid v.sid (fun x => { x with prog := .round })) := by
  unfold commitBody
  rw [if_pos ho]
  split
  · next n hn => exact absurd ⟨n, hn⟩ h
  · rfl

theorem commitBody_acquiring {w : Dword} (ho : s.isOrdered v.b = false) (h : v.x.acquiring? = some w) :
    commitBody v s = acquireThen v .die w none s {} := by
  unfold commitBody
  simp only [ho, h, Bool.false_eq_true, if_false]

theorem commitBody_releasing (ho : s.isOrdered v.b = false) (h : v.x.acquiring? = none) (hr : s.release v .die = (s1, none)) :
    commitBody v s = .wait s1 := by
  unfold commitBody
  simp only [ho, h, hr, Bool.false_eq_true, if_false]

theorem commitBody_released {ok : Bool} (ho : s.isOrdered v.b = false) (h : v.x.acquiring? = none) (hr : s.release v .die = (s1, some ok)) :
    commitBody v s = acquireThen v .die 1 none s1 {} := by
  unfold commitBody
  simp only [ho, h, hr, Bool.false_eq_true, if_false]

/-! ### GSYNC -/

/-- The row of GSYNC. -/
def encGsync : Enc :=
  { opc := 0xB3, lens := [2], sa := .u32, gov0 := true, md := 7, extra := fun f _ => decide (1 ≤ modOf f % 8) && decide (modOf f % 8 ≤ 3) }

theorem exec_gsync_body (f : Fields) (s : State) : exec (.gsync f) s = runInstr encGsync f gsyncBody s := rfl

/-- The slice has arrived at GSYNC and waits there. -/
def Machine.Env.syncArrived (v : Env) (s : State) : State :=
  (s.modSlice v.bid v.sid (fun x => { x with prog := .synced v.a.scalar })).setWaiting v.bid v.sid

/-- A slice that has neither been released by its group nor begun its acquire. -/
def SyncFresh (v : Env) : Prop := (¬∃ n, v.x.prog = .satisfied n) ∧ v.x.acquiring? = none

/-- The operand of GSYNC names a group of which the slice is a current member, at a scope that it may have. -/
def SyncMember (v : Env) (s : State) (blk : Bool) (slot : Nat) (g : Group) : Prop :=
  s.groupOf v.b v.a.scalar = .ok (blk, slot, g) ∧ (if blk then v.bid else v.sid) ∈ g.current ∧ ¬(blk = true ∧ v.md % 8 = 1)

/-- The release before the arrival is done, now or before. -/
def SyncReleased (v : Env) (s s1 : State) : Prop :=
  (v.x.prog = .synced v.a.scalar ∧ s1 = s) ∨ ((∀ h, v.x.prog ≠ .synced h) ∧ ∃ ok, s.release v v.orderScope = (s1, some ok))

/-- The arrival completes the group's current set. -/
def SyncLast (v : Env) (s : State) (blk : Bool) (g : Group) : Prop :=
  (v.syncArrived s).allArrived v.bid blk v.a.scalar g = true ∧ ¬(blk = true ∧ s.isOrdered v.b = true)

/-- GSYNC's arrival. -/
def syncArrive (v : Env) (blk : Bool) (slot : Nat) (g : Group) (s : State) : Res :=
  if (v.syncArrived s).allArrived v.bid blk v.a.scalar g && !(blk && s.isOrdered v.b) then
    acquireThen v v.orderScope 1 none ((v.syncArrived s).releaseGroup v.bid blk slot v.a.scalar g) {}
  else .wait (v.syncArrived s)

/-- GSYNC of a slice that has neither been released by its group nor begun its acquire. -/
def syncStart (v : Env) (s : State) : Res :=
  match s.groupOf v.b v.a.scalar with
  | .error c => .raise c 0 v.x.mask
  | .ok (blk, slot, g) =>
    if !g.current.contains (if blk then v.bid else v.sid) then .raise 0x0109 0 v.x.mask
    else if blk && v.md % 8 = 1 then .raise 0x0102 0 v.x.mask
    else match v.x.prog with
      | .synced _ => syncArrive v blk slot g s
      | _ => match s.release v v.orderScope with
        | (s1, none) => .wait s1
        | (s1, some _) => syncArrive v blk slot g s1

/-- The meaning of GSYNC, by what the slice has noted. -/
theorem gsyncBody_eq : gsyncBody v s = match v.x.prog with
    | .satisfied _ => acquireThen v v.orderScope 1 none s {}
    | .acquiring _ w => acquireThen v v.orderScope w none s {}
    | _ => syncStart v s := by
  unfold gsyncBody
  rfl

theorem gsyncBody_satisfied (h : ∃ n, v.x.prog = .satisfied n) : gsyncBody v s = acquireThen v v.orderScope 1 none s {} := by
  obtain ⟨n, hn⟩ := h
  rw [gsyncBody_eq, hn]

theorem gsyncBody_acquiring {w : Dword} (h : v.x.acquiring? = some w) : gsyncBody v s = acquireThen v v.orderScope w none s {} := by
  obtain ⟨t, ht⟩ := acquiring_iff.mp h
  rw [gsyncBody_eq, ht]

theorem gsyncBody_fresh (h : SyncFresh v) : gsyncBody v s = syncStart v s := by
  obtain ⟨hsatisfied, hacquiring⟩ := h
  rw [gsyncBody_eq]
  split
  · next n hn => exact absurd ⟨n, hn⟩ hsatisfied
  · next t w hw => rw [acquiring_iff.mpr ⟨t, hw⟩] at hacquiring; cases hacquiring
  · rfl

theorem syncStart_unnamed {c : Half} (h : s.groupOf v.b v.a.scalar = .error c) : syncStart v s = .raise c 0 v.x.mask := by
  unfold syncStart
  rw [h]

theorem syncStart_outside {blk : Bool} {slot : Nat} {g : Group} (h : s.groupOf v.b v.a.scalar = .ok (blk, slot, g))
    (hg : ¬(if blk then v.bid else v.sid) ∈ g.current) : syncStart v s = .raise 0x0109 0 v.x.mask := by
  unfold syncStart
  rw [h]
  exact if_pos (by simpa using hg)

/-- A member whose release is done arrives. -/
theorem syncStart_member {blk : Bool} {slot : Nat} {g : Group} (h : SyncMember v s blk slot g) (hr : SyncReleased v s s1) :
    syncStart v s = syncArrive v blk slot g s1 := by
  obtain ⟨hgroup, hmem, hscope⟩ := h
  have hin : ¬(!g.current.contains (if blk then v.bid else v.sid)) = true := by simpa using hmem
  have hwide : ¬(blk && decide (v.md % 8 = 1)) = true := by simpa using hscope
  unfold syncStart
  rw [hgroup]
  simp only [if_neg hin, if_neg hwide]
  rcases hr with ⟨hsynced, rfl⟩ | ⟨hnew, ok, hrelease⟩
  · rw [hsynced]
  · split
    · next h hh => exact absurd hh (hnew h)
    · rw [hrelease]

theorem syncLast_iff {blk : Bool} {g : Group} :
    ((v.syncArrived s).allArrived v.bid blk v.a.scalar g && !(blk && s.isOrdered v.b)) = true ↔ SyncLast v s blk g := by
  simp only [SyncLast, Bool.and_eq_true, Bool.not_eq_true', ← Bool.not_eq_true]

theorem syncArrive_waits {blk : Bool} {slot : Nat} {g : Group} (h : ¬SyncLast v s blk g) :
    syncArrive v blk slot g s = .wait (v.syncArrived s) := if_neg (mt syncLast_iff.mp h)

theorem syncArrive_last {blk : Bool} {slot : Nat} {g : Group} (h : SyncLast v s blk g) : syncArrive v blk slot g s =
    acquireThen v v.orderScope 1 none ((v.syncArrived s).releaseGroup v.bid blk slot v.a.scalar g) {} := if_pos (syncLast_iff.mpr h)

end

end Sys2Proof
end

section
/-! FENCE, COMMIT and GSYNC (R218, R219, R229, R236, R237, R260, R263, R274, R275). -/

namespace Sys2Proof

open Sys2Proof.Machine

section
variable {i : Fields → Instr} {e : Fields → Enc} {body : Env → State → Res} (he : ∀ f s, exec (i f) s = runInstr (e f) f body s)
include he

/-- An instruction without register results whose meaning completes from a state that it has brought about. -/
theorem doesIn_bare {run : Env → State → State → Out → Prop}
    (hg : ∀ v s s1 o, run v s s1 o → body v s = .doneIn s1 o ∧ ∃ pred eff, o = { pred := pred, eff := eff }) : DoesIn i e run :=
  doesIn_of he fun f s bid sid b x _ s1 o hr => by
    obtain ⟨hbody, pred, eff, rfl⟩ := hg _ s s1 o hr
    exact ⟨.inl hbody, bare_takes pred eff⟩

theorem waits_env {run : Env → State → State → Prop} (hg : ∀ v s s1, run v s s1 → body v s = .wait s1) : Waits i e run :=
  waits_of he fun _ s _ _ _ _ _ s1 hr => hg _ s s1 hr

theorem raises_env {run : Env → State → Half → Dword → BitVec 4 → Prop} (hg : ∀ v s c a m, run v s c a m → body v s = .raise c a m) :
    Raises i e run :=
  raises_of he fun _ s _ _ _ _ _ c a m hr => hg _ s c a m hr

end

/-- Settles O19: FENCE, COMMIT and GSYNC do what the slice has noted says: nothing yet, the release, the arrival or the acquire. -/
theorem fencesAndCommits : Obligations.FencesAndCommits := by
  unfold Obligations.FencesAndCommits
  refine ⟨⟨?acquires, ?releases, ?both, ?acquired, ?releasing, ?acquiring, ?bothWait, ?again⟩,
    ?committed, ?round, ?commits, ?commitAcquired, ?commitReleasing, ?satisfied, ?syncAcquired, ?arrives, ?last, ?unnamed, ?outside⟩
  case acquires =>
    refine doesIn_bare exec_fence_body fun v s s1 o hr => ?_
    obtain ⟨hfresh, hkind, hacquire, rfl⟩ := hr
    exact ⟨(fenceBody_acquires hfresh hkind).trans (acquireThen_done hacquire), _, _, rfl⟩
  case releases =>
    refine doesIn_bare exec_fence_body fun v s s1 o hr => ?_
    obtain ⟨hfresh, hkind, ok, hrelease, rfl⟩ := hr
    exact ⟨fenceBody_released hfresh hkind hrelease, _, _, rfl⟩
  case both =>
    refine doesIn_bare exec_fence_body fun v s s2 o hr => ?_
    obtain ⟨hfresh, hkind, s1, ok, hrelease, hacquire, rfl⟩ := hr
    exact ⟨(fenceBody_both hfresh hkind hrelease).trans (acquireThen_done hacquire), _, _, rfl⟩
  case acquired =>
    refine doesIn_bare exec_fence_body fun v s s1 o hr => ?_
    obtain ⟨w, hw, hacquire, rfl⟩ := hr
    exact ⟨(fenceBody_acquiring hw).trans (acquireThen_done hacquire), _, _, rfl⟩
  case releasing =>
    refine waits_env exec_fence_body fun v s s1 hr => ?_
    obtain ⟨hfresh, hkind, hrelease⟩ := hr
    exact fenceBody_releasing hfresh hkind hrelease
  case acquiring =>
    refine waits_env exec_fence_body fun v s s1 hr => ?_
    obtain ⟨hfresh, hkind, hacquire⟩ := hr
    exact (fenceBody_acquires hfresh hkind).trans (acquireThen_waits hacquire)
  case bothWait =>
    refine waits_env exec_fence_body fun v s s2 hr => ?_
    obtain ⟨hfresh, hkind, s1, ok, hrelease, hacquire⟩ := hr
    exact (fenceBody_both hfresh hkind hrelease).trans (acquireThen_waits hacquire)
  case again =>
    refine waits_env exec_fence_body fun v s s1 hr => ?_
    obtain ⟨w, hw, hacquire⟩ := hr
    exact (fenceBody_acquiring hw).trans (acquireThen_waits hacquire)
  case committed => exact givesIf_plain exec_commit_body fun f s bid sid b x _ hc => ⟨commitBody_committed hc.1 hc.2, plain_none _ _⟩
  case round =>
    refine waits_env exec_commit_body fun v s s1 hr => ?_
    obtain ⟨hordered, hround, rfl⟩ := hr
    exact commitBody_round hordered hround
  case commits =>
    refine doesIn_bare exec_commit_body fun v s s2 o hr => ?_
    obtain ⟨hordered, hfresh, s1, ok, hrelease, hacquire, rfl⟩ := hr
    exact ⟨(commitBody_released hordered hfresh hrelease).trans (acquireThen_done hacquire), _, _, rfl⟩
  case commitAcquired =>
    refine doesIn_bare exec_commit_body fun v s s1 o hr => ?_
    obtain ⟨hordered, ⟨w, hw, hacquire⟩, rfl⟩ := hr
    exact ⟨(commitBody_acquiring hordered hw).trans (acquireThen_done hacquire), _, _, rfl⟩
  case commitReleasing =>
    refine waits_env exec_commit_body fun v s s1 hr => ?_
    obtain ⟨hordered, hfresh, hrelease⟩ := hr
    exact commitBody_releasing hordered hfresh hrelease
  case satisfied =>
    refine doesIn_bare exec_gsync_body fun v s s1 o hr => ?_
    obtain ⟨hsatisfied, hacquire, rfl⟩ := hr
    exact ⟨(gsyncBody_satisfied hsatisfied).trans (acquireThen_done hacquire), _, _, rfl⟩
  case syncAcquired =>
    refine doesIn_bare exec_gsync_body fun v s s1 o hr => ?_
    obtain ⟨w, hw, hacquire, rfl⟩ := hr
    exact ⟨(gsyncBody_acquiring hw).trans (acquireThen_done hacquire), _, _, rfl⟩
  case arrives =>
    refine waits_env exec_gsync_body fun v s s2 hr => ?_
    obtain ⟨hfresh, s1, blk, slot, g, hmember, hreleased, hlast, rfl⟩ := hr
    exact (gsyncBody_fresh hfresh).trans ((syncStart_member hmember hreleased).trans (syncArrive_waits hlast))
  case last =>
    refine doesIn_bare exec_gsync_body fun v s s3 o hr => ?_
    obtain ⟨hfresh, s1, blk, slot, g, hmember, hreleased, hlast, hacquire, rfl⟩ := hr
    exact ⟨(gsyncBody_fresh hfresh).trans ((syncStart_member hmember hreleased).trans
      ((syncArrive_last hlast).trans (acquireThen_done hacquire))), _, _, rfl⟩
  case unnamed =>
    refine raises_env exec_gsync_body fun v s c a m hr => ?_
    obtain ⟨hfresh, hgroup, rfl, rfl⟩ := hr
    exact (gsyncBody_fresh hfresh).trans (syncStart_unnamed hgroup)
  case outside =>
    refine raises_env exec_gsync_body fun v s c a m hr => ?_
    obtain ⟨hfresh, ⟨blk, slot, g, hgroup, hout⟩, rfl, rfl, rfl⟩ := hr
    exact (gsyncBody_fresh hfresh).trans (syncStart_outside hgroup hout)

end Sys2Proof
end

section
/-! SUPPORT. What a recall may change at all (R223, R248, R254, R257, R396): a write at a home, what it fires and what it logs. -/

namespace Sys2Proof

open Sys2Proof.Machine

/-- Nothing differs but what writes at homes change: memory and its poison, the dies, the contexts' log counts, the blocks that a monitor
wakes, the messages to other dies, and the power state that a fired monitor ends. -/
def HomesOnly (s t : State) : Prop :=
  t = { s with
    mem := t.mem, poison := t.poison, dies := t.dies, blocks := t.blocks, ctxs := t.ctxs, msgs := t.msgs
    nextId := t.nextId, pstate := t.pstate, pchanges := t.pchanges }

namespace HomesOnly

theorem refl (s : State) : HomesOnly s s := rfl

theorem trans {s t u : State} (h : HomesOnly s t) (k : HomesOnly t u) : HomesOnly s u := by
  unfold HomesOnly at *
  rw [h] at k
  exact k

theorem foldl {α : Type} {f : State → α → State} (hf : ∀ s a, HomesOnly s (f s a)) (l : List α) (s : State) : HomesOnly s (l.foldl f s) := by
  induction l generalizing s with
  | nil => exact refl s
  | cons a l ih => exact (hf s a).trans (ih (f s a))

theorem modDie (s : State) (d : Nat) (f : Die → Die) : HomesOnly s (s.modDie d f) := rfl

theorem modCore (s : State) (d c : Nat) (f : Core → Core) : HomesOnly s (s.modCore d c f) := rfl

theorem modLine (s : State) (d pa : Nat) (f : BayLine → BayLine) : HomesOnly s (s.modLine d pa f) := rfl

theorem modBlock (s : State) (b : Nat) (f : Block → Block) : HomesOnly s (s.modBlock b f) := by
  unfold State.modBlock
  split <;> exact rfl

theorem modCtx (s : State) (c : Nat) (f : Ctx → Ctx) : HomesOnly s (s.modCtx c f) := by
  unfold State.modCtx
  split <;> exact rfl

theorem dropGuests (s : State) (d : Nat) (p : Guest → Bool) : HomesOnly s (s.dropGuests d p) := by
  refine (modDie s d _).trans (foldl (fun s g => ?_) _ _)
  split
  · exact modLine ..
  · exact refl s

theorem evictLine (s : State) (d line : Nat) : HomesOnly s (s.evictLine d line) := 
  (foldl (fun s _ => dropGuests s _ _) _ s).trans (modLine ..)

theorem makeWay (s : State) (d bay set : Nat) : HomesOnly s (s.makeWay d bay set).1 := by
  unfold State.makeWay
  simp only
  split
  · exact refl s
  split
  · exact refl s
  · exact evictLine ..
  · exact dropGuests ..
  · split
    · exact evictLine ..
    · exact dropGuests ..
  · exact refl s

theorem touchLine (s : State) (d pa n : Nat) (write alloc : Bool) : HomesOnly s (s.touchLine d pa n write alloc) := by
  have hway : HomesOnly s (s.wayFor d pa).1 := by
    unfold State.wayFor
    split
    · exact refl s
    · exact makeWay ..
  unfold State.touchLine
  simp only
  split
  · exact modLine ..
  split
  · exact refl s
  split
  case h_1 s1 h => rw [h] at hway; exact hway.trans (modLine ..)
  case h_2 s1 h => rw [h] at hway; exact hway

theorem toRun (s : State) : HomesOnly s s.toRun := by
  unfold State.toRun
  split <;> exact rfl

theorem wakeDormant (s : State) (bid : Nat) : HomesOnly s (s.wakeDormant bid) := by
  unfold State.wakeDormant
  split
  · exact refl s
  split
  · have hfreed : ∀ s : State, HomesOnly s (s.freeMonitors bid) := fun _ => rfl
    exact ((modBlock s bid _).trans (hfreed _)).trans (modDie ..)
  · exact refl s

theorem fireMonitors (s : State) (d pa n : Nat) : HomesOnly s (s.fireMonitors d pa n) := by
  refine HomesOnly.trans ?_ (foldl (fun s _ => wakeDormant s _) _ _)
  split
  · exact modDie ..
  · exact (modDie ..).trans (toRun _)

theorem applyWrite (s : State) (d pa : Nat) (data : List Byte) (die core req : Nat) (alloc : Bool) :
    HomesOnly s (s.applyWrite d pa data die core req alloc).1 := by
  have hbytes : HomesOnly s ((s.physWrite d pa data).clearPoison d pa data.length) := rfl
  have htouched := hbytes.trans (touchLine _ d pa data.length true alloc)
  unfold State.applyWrite
  simp only
  refine HomesOnly.trans ?_ (fireMonitors ..)
  split
  · exact htouched.trans (modLine ..)
  · refine ((htouched.trans (modLine ..)).trans (modDie ..)).trans (foldl ?message _ _)
    case message => exact fun _ _ => rfl

theorem store (s : State) (d pa : Nat) (data : List Byte) : HomesOnly s (s.store d pa data) := by
  unfold State.store
  generalize data.length / 1024 + 2 = fuel
  induction fuel generalizing s pa data with
  | zero => exact refl s
  | succ fuel ih =>
    unfold State.storeLines
    split
    · exact refl s
    · exact (applyWrite ..).trans (ih ..)

theorem log (s : State) (ctx : Nat) (e : LogRec) : HomesOnly s (s.log ctx e) := by
  unfold State.log
  split
  · exact refl s
  · exact ((store ..).trans (store ..)).trans (modCtx ..)

theorem applyPartial (s : State) (die core : Nat) (l : CLine) (op ty : Nat) (p : Nat × Dword) :
    HomesOnly s (s.applyPartial die core l op ty p) := by
  unfold State.applyPartial
  simp only
  split
  · exact log ..
  · exact applyWrite ..

theorem flushUo (s : State) (die core : Nat) (p : CLine → Bool) : HomesOnly s (s.flushUo die core p) := by
  unfold State.flushUo
  simp only
  refine ((modCore s die core _).trans (foldl (fun s l => ?_) _ _)).trans (foldl (fun s l => ?_) _ _)
  · split
    · exact refl s
    · exact modLine ..
  · unfold State.applyUo
    split
    · exact foldl (fun s p => applyPartial ..) _ s
    · exact refl s

theorem recalled (s : State) (d pa : Nat) : HomesOnly s (s.recall d pa) := by
  unfold State.recall
  exact foldl (fun s (u : Nat × Nat) => flushUo ..) _ s

theorem recallFor (s : State) (ordered : Bool) (ps : List Placed) : HomesOnly s (s.recallFor ordered ps) := by
  unfold State.recallFor
  split
  · refine foldl (fun s p => ?_) ps s
    split
    · exact recalled ..
    · exact refl s
  · exact refl s

/-- A recall makes no block ordered or unordered. -/
theorem isOrdered {s t : State} (h : HomesOnly s t) (b : Block) : t.isOrdered b = s.isOrdered b := by
  unfold State.isOrdered
  rw [h]

end HomesOnly

end Sys2Proof
end

section
/-! SUPPORT. LDA and STRL (R238, R239): what each answers by what the slice has noted. -/

namespace Sys2Proof

open Sys2Proof.Machine

section
variable {v : Env} {s s0 s1 s2 : State} {ps : List Placed}

/-! ### Elements -/

/-- The elements of LDA and STRL: one for each active lane. -/
def Machine.Env.orderElems (v : Env) : List MElem :=
  (lanesOf v.act).map (fun l =>
    ({ lane := l, k := 0, va := (v.al l + ((v.f.lit?.getD 0).signExtend 64).toNat) % 2 ^ 64, size := elemSize v.ty } : MElem))

theorem orderElems_eq (v : Env) : v.globalElems v.a.v (elemSize v.ty) 1 (lanesOf v.act) = v.orderElems := by
  simp only [Env.globalElems, Env.orderElems, Env.al, litOff, List.range_one, List.map_singleton, Nat.zero_mul, Nat.add_zero]
  exact List.map_eq_flatMap.symm

/-- Every element is aligned to its size. -/
def OrderAligned (v : Env) : Prop := ∀ e ∈ v.orderElems, e.va % elemSize v.ty = 0

theorem pickFail_aligned (h : OrderAligned v) :
    pickFail ((v.orderElems.filter (fun e => e.va % elemSize v.ty != 0)).map (fun e => LaneFail.mk e.lane 0x030F e.va)) = none := by
  have hnone : v.orderElems.filter (fun e => e.va % elemSize v.ty != 0) = [] :=
    List.filter_eq_nil_iff.mpr fun e he => by simp [h e he]
  rw [hnone]
  rfl

theorem orderElems_isEmpty : v.orderElems.isEmpty = true ↔ v.act = 0 := by
  rw [Env.orderElems, List.isEmpty_map]
  exact lanesOf_isEmpty v.act

/-! ### LDA -/

theorem exec_lda_body (f : Fields) (s : State) : exec (.lda f) s = runInstr encLda f ldaBody s := rfl

/-- What LDA writes. -/
def Machine.Env.ldaOut (v : Env) (q : Quad Dword) (eff : State → State) : Out := { regs := [v.write (typeWide v.ty) q .g], eff := eff }

/-- The fill of LDA begun, from the state after its recalls. -/
def Machine.Env.ldaBegin (v : Env) (ps : List Placed) (s : State) : State × Nat :=
  (s.touchAll v ps).beginFill v [] .g false true (v.orderElems.zipIdx.map (fun q =>
      q.1.toFill v.f.dst.toNat v.ty ps q.2 (s.knownPart v (s.isOrdered v.b)))) ps
    (fun _ r => if v.orderScope.code = 1 then r else { r with alloc := false, atHome := decide (4 ≤ v.orderScope.code) })

/-- LDA whose elements are on their way, in fill `fid`. -/
def ldaAwait (v : Env) (fid : Nat) (s : State) : Res :=
  match s.await fid with
  | .waiting => .wait s
  | .raised c a ls => .raiseIn (s.discardFill fid) c a ls
  | .ready x => acquireThen v v.orderScope (BitVec.ofNat 64 (fid + 1)) (some fid) s (v.ldaOut (quadNat x.laneValue) (fun s => s.closeFill fid))

/-- LDA without active lanes. -/
def ldaIdle (v : Env) (s : State) : Res := acquireThen v v.orderScope 0 none s (v.ldaOut (Quad.all 0) (fun s => s))

/-- LDA that has begun nothing. -/
def ldaStart (v : Env) (s : State) : Res :=
  if !s.counterRoom v true then .wait s
  else match s.checkGlobal v {} .read (v.orderScope.code == 1 && !s.isOrdered v.b) v.orderElems with
    | .stop r => r
    | .go s0 ps =>
      match pickFail ((v.orderElems.filter (fun e => e.va % elemSize v.ty != 0)).map (fun e => LaneFail.mk e.lane 0x030F e.va)) with
      | some (c, a, ls) => .raiseIn s0 c a ls
      | none =>
        if v.orderElems.isEmpty then ldaIdle v s0
        else
          let r := v.ldaBegin ps (s0.recallFor (s0.isOrdered v.b) ps)
          .wait (r.1.modSlice v.bid v.sid (fun x => { x with prog := .pending r.2 }))

/-- The meaning of LDA, by what the slice has noted. -/
theorem ldaBody_eq : ldaBody v s = match v.x.prog with
    | .pending fid => ldaAwait v fid s
    | .acquiring _ w => if w = 0 then ldaIdle v s else ldaAwait v (w.toNat - 1) s
    | _ => ldaStart v s := by
  simp only [ldaStart, Env.ldaBegin, (HomesOnly.recallFor _ _ _).isOrdered, ← orderElems_eq]
  rfl

theorem ldaBody_start (h : NotBegun v) : ldaBody v s = ldaStart v s := by
  obtain ⟨hpending, hacquiring⟩ := h
  rw [ldaBody_eq]
  split
  · next fid hp => exact absurd hp (hpending fid)
  · next t w hw => rw [acquiring_iff.mpr ⟨t, hw⟩] at hacquiring; cases hacquiring
  · rfl

theorem ldaBody_waitsFor {fid : Nat} (h : WaitsFor v fid) : ldaBody v s = ldaAwait v fid s := by
  rw [ldaBody_eq]
  rcases h with hp | ⟨w, hp, hw, rfl⟩
  · rw [hp]
  · obtain ⟨t, ht⟩ := acquiring_iff.mp hp
    rw [ht]
    exact if_neg hw

theorem ldaBody_idle (h : v.x.acquiring? = some 0) : ldaBody v s = ldaIdle v s := by
  obtain ⟨t, ht⟩ := acquiring_iff.mp h
  rw [ldaBody_eq, ht]
  exact if_pos rfl

theorem ldaAwait_ready {fid : Nat} {x : Fill} (h : s.await fid = .ready x) : ldaAwait v fid s =
    acquireThen v v.orderScope (BitVec.ofNat 64 (fid + 1)) (some fid) s (v.ldaOut (quadNat x.laneValue) (fun s => s.closeFill fid)) := by
  unfold ldaAwait
  rw [h]

section
variable (hroom : s.counterRoom v true = true)
  (hcheck : s.checkGlobal v {} .read (v.orderScope.code == 1 && !s.isOrdered v.b) v.orderElems = .go s0 ps) (halign : OrderAligned v)
include hroom hcheck halign

theorem ldaStart_sends (ha : v.act ≠ 0) : ldaStart v s =
    .wait ((v.ldaBegin ps (s0.recallFor (s0.isOrdered v.b) ps)).1.modSlice v.bid v.sid
      (fun x => { x with prog := .pending (v.ldaBegin ps (s0.recallFor (s0.isOrdered v.b) ps)).2 })) := by
  unfold ldaStart
  simp only [hroom, hcheck, pickFail_aligned halign, Bool.eq_false_iff.mpr (mt orderElems_isEmpty.mp ha), Bool.not_true, Bool.false_eq_true, if_false]

theorem ldaStart_idle (ha : v.act = 0) : ldaStart v s = ldaIdle v s0 := by
  unfold ldaStart
  simp only [hroom, hcheck, pickFail_aligned halign, orderElems_isEmpty.mpr ha, Bool.not_true, Bool.false_eq_true, if_false, if_true]

end

/-! ### STRL -/

theorem exec_strl_body (f : Fields) (s : State) : exec (.strl f) s = runInstr (encStrl f) f strlBody s := rfl

/-- The bytes that STRL stores for an element. -/
def Machine.Env.strlBytes (v : Env) (e : Nat) : List Byte := leBytes (elemSize v.ty) (v.bl ((v.orderElems.getD e default).lane))

/-- What STRL says of its release (R239), with an effect before it reports the failures that the release covers (R229). -/
def Machine.Env.strlOut (v : Env) (ok : Bool) (eff : State → State) : Out :=
  { pred := if bitOf v.md 5 then predAll v ok else none, eff := fun s => (eff s).reported v.bid v.sid v.orderScope }

/-- STRL once its elements have passed their checks. -/
def strlRelease (v : Env) (ps : List Placed) (s : State) : Res :=
  match s.release v v.orderScope with
  | (s2, none) => .wait s2
  | (s2, some false) => .doneIn s2 (v.strlOut false id)
  | (s2, some true) =>
    if !s2.storeRoom v || !s2.sendRoom v ps then .wait s2
    else .doneIn s2 (v.strlOut true (fun t => t.storeParts v (s.isOrdered v.b) ps (fun e => v.strlBytes e)))

theorem strlBody_eq : strlBody v s = match s.checkGlobal v {} .write false v.orderElems with
    | .stop r => r
    | .go s1 ps =>
      match pickFail ((v.orderElems.filter (fun e => e.va % elemSize v.ty != 0)).map (fun e => LaneFail.mk e.lane 0x030F e.va)) with
      | some (c, a, ls) => .raiseIn s1 c a ls
      | none => if s1.isOrdered v.b && s1.logFull v ps then .raiseIn s1 0x0604 0 v.act else strlRelease v ps s1 := by
  simp only [strlRelease, Env.strlBytes, ← orderElems_eq]
  rfl

/-- STRL's elements pass their checks, and the writes of an ordered block have room in its round's log (R392). -/
def StrlPasses (v : Env) (s s1 : State) (ps : List Placed) : Prop :=
  s.checkGlobal v {} .write false v.orderElems = .go s1 ps ∧ (s1.isOrdered v.b = true → s1.logFull v ps = false)

theorem strlBody_passes (ha : OrderAligned v) (h : StrlPasses v s s1 ps) : strlBody v s = strlRelease v ps s1 := by
  obtain ⟨hcheck, hlog⟩ := h
  have hroom : ¬(s1.isOrdered v.b && s1.logFull v ps) = true := by simpa using hlog
  rw [strlBody_eq, hcheck]
  simp only [pickFail_aligned ha, if_neg hroom]

theorem strlRelease_stores (hr : s.release v v.orderScope = (s1, some true)) (hstore : s1.storeRoom v = true) (hsend : s1.sendRoom v ps = true) :
    strlRelease v ps s = .doneIn s1 (v.strlOut true (fun t => t.storeParts v (s.isOrdered v.b) ps (fun e => v.strlBytes e))) := by
  unfold strlRelease
  simp only [hr, hstore, hsend, Bool.not_true, Bool.or_self, Bool.false_eq_true, if_false]

theorem strlRelease_failed (hr : s.release v v.orderScope = (s1, some false)) : strlRelease v ps s = .doneIn s1 (v.strlOut false id) := by
  unfold strlRelease
  simp only [hr]

theorem strlRelease_waits (hr : s.release v v.orderScope = (s1, none)) : strlRelease v ps s = .wait s1 := by
  unfold strlRelease
  simp only [hr]

end

end Sys2Proof
end

section
/-! LDA and STRL (R229, R238, R239). -/

namespace Sys2Proof

open Sys2Proof.Machine

/-- LDA's one result lies in its destination. -/
theorem ldaOut_takes {f : Fields} {s : State} {bid sid : Nat} {b : Block} {x : Slice} (h : Ready encLda f s bid sid b x) (q : Quad Dword)
    (eff : State → State) : Takes f x ((encLda.env f bid sid b x).ldaOut q eff) :=
  (plain_one (e := encLda) (ty := encLda.typeOf f x.mode) rfl le_rfl eff none).fits.takes h

/-- Settles O20: LDA goes on from its checks, from its fill or from its acquire, by what the slice has noted, and STRL from its release. -/
theorem orderedAccess : Obligations.OrderedAccess := by
  unfold Obligations.OrderedAccess
  refine ⟨?sends, ?ready, ?idle, ?acquired, ?stores, ?fails, ?waits, fun _ _ _ _ => rfl⟩
  case sends =>
    refine waits_of (e := fun _ => encLda) exec_lda_body fun f s bid sid b x _ s3 hr => ?_
    obtain ⟨hnew, hroom, halign, hact, s0, s1, ps, s2, fid, hcheck, rfl, hbegin, rfl⟩ := hr
    rw [ldaBody_start hnew, ldaStart_sends hroom hcheck halign hact]
    have hfst : (encLda.env f bid sid b x).ldaBegin ps (s0.recallFor (s0.isOrdered _) ps) = (s2, fid) := hbegin.symm
    rw [hfst]
  case ready =>
    refine doesIn_of (e := fun _ => encLda) exec_lda_body fun f s bid sid b x h s1 o hr => ?_
    obtain ⟨fid, y, hw, hready, hacquire, rfl⟩ := hr
    exact ⟨.inl ((ldaBody_waitsFor hw).trans ((ldaAwait_ready hready).trans (acquireThen_done hacquire))), ldaOut_takes h _ _⟩
  case idle =>
    refine doesIn_of (e := fun _ => encLda) exec_lda_body fun f s bid sid b x h s2 o hr => ?_
    obtain ⟨hnew, hroom, hact, s1, ps, hcheck, hacquire, rfl⟩ := hr
    have hnone := List.isEmpty_iff.mp (orderElems_isEmpty.mpr hact)
    have halign : OrderAligned (encLda.env f bid sid b x) := fun e he => absurd (hnone ▸ he) List.not_mem_nil
    rw [← hnone] at hcheck
    exact ⟨.inl ((ldaBody_start hnew).trans ((ldaStart_idle hroom hcheck halign hact).trans (acquireThen_done hacquire))), ldaOut_takes h _ _⟩
  case acquired =>
    refine doesIn_of (e := fun _ => encLda) exec_lda_body fun f s bid sid b x h s1 o hr => ?_
    obtain ⟨hw, hacquire, rfl⟩ := hr
    exact ⟨.inl ((ldaBody_idle hw).trans (acquireThen_done hacquire)), ldaOut_takes h _ _⟩
  case stores =>
    refine doesIn_bare exec_strl_body fun v s s2 o hr => ?_
    obtain ⟨halign, s1, ps, hcheck, hlog, hrelease, hstore, hsend, rfl⟩ := hr
    exact ⟨(strlBody_passes halign ⟨hcheck, hlog⟩).trans (strlRelease_stores hrelease hstore hsend), _, _, rfl⟩
  case fails =>
    refine doesIn_bare exec_strl_body fun v s s2 o hr => ?_
    obtain ⟨halign, s1, ps, hcheck, hlog, hrelease, rfl⟩ := hr
    exact ⟨(strlBody_passes halign ⟨hcheck, hlog⟩).trans (strlRelease_failed hrelease), _, _, rfl⟩
  case waits =>
    refine waits_env exec_strl_body fun v s s2 hr => ?_
    obtain ⟨halign, s1, ps, hcheck, hlog, hrelease⟩ := hr
    exact (strlBody_passes halign ⟨hcheck, hlog⟩).trans (strlRelease_waits hrelease)

end Sys2Proof
end

section
/-! SUPPORT. A mailbox takes a command and answers it (R459, R460). -/

namespace Sys2Proof

open Sys2Proof.Machine

/-! ### Ports and mailboxes -/

theorem Machine.State.modPort_modPort (s : State) (p : Nat) (f g : HostPort → HostPort) :
    (s.modPort p f).modPort p g = s.modPort p (fun h => g (f h)) := by
  simp [State.modPort, State.port, put_put]

theorem Machine.State.modPort_congr {s : State} {p : Nat} {f g : HostPort → HostPort} (h : f (s.port p) = g (s.port p)) :
    s.modPort p f = s.modPort p g := by rw [State.modPort, h, State.modPort]

theorem Machine.State.port_modPort (s : State) (p q : Nat) (f : HostPort → HostPort) :
    (s.modPort p f).port q = if p = q then f (s.port p) else s.port q := by
  rw [State.port, State.modPort, Tab.get?_put]
  split <;> rfl

/-! ### Commands -/

/-- A command in progress. -/
def Machine.State.mbTaken (s : State) (p : Nat) (op tag : Byte) : State :=
  s.modMailbox p (fun x => { x with tag := tag, op := op, state := 2 })

/-- A command done: what it makes of the mailbox, and its code. -/
def Machine.State.mbAnswer (s : State) (p : Nat) (op tag : Byte) (code : Nat) (f : Mailbox → Mailbox) : State :=
  s.modPort p (fun h => { h with mailbox := { f { h.mailbox with tag := tag, op := op } with code := code, tagDone := tag, state := 1 } })

/-- A mailbox that can be given a command. -/
def MailReady (s : State) (p : Nat) : Prop := s.hostUp p = true ∧ (s.port p).mailbox.state = 1

/-- A change of a mailbox that does not look at its state and leaves state and tag. -/
def LeavesCommand (f : Mailbox → Mailbox) : Prop := ∀ x st, f { x with state := st } = { f x with state := st } ∧ (f x).tag = x.tag

section
variable {s : State} {p : Nat} {op tag : Byte} {recovery : Bool} {run : State → State}

theorem mbTake_ready (h : MailReady s p) : s.mbTake p op tag = s.mbTaken p op tag := by
  obtain ⟨-, hstate⟩ := h
  unfold State.mbTake State.mbTaken State.modMailbox
  exact State.modPort_congr (by simp [hstate])

theorem command_ready (h : MailReady s p) : s.command p op tag recovery run = run (s.mbTaken p op tag) := by
  have hready : s.mbReady p = true := by
    obtain ⟨hup, hstate⟩ := h
    simp [State.mbReady, hup, hstate]
  have hstate : ((s.mbTaken p op tag).port p).mailbox.state = 2 := by
    rw [State.mbTaken, State.modMailbox, State.port_modPort, if_pos rfl]
  unfold State.command
  simp only [hready, mbTake_ready h, hstate, Bool.not_true, Bool.false_and, Bool.false_eq_true, if_false, if_true]
  rfl

/-- A command written while another is in progress does nothing. -/
theorem command_busy (hstate : (s.port p).mailbox.state = 2) (htag : (s.port p).mailbox.tag ≠ tag) : s.command p op tag recovery run = s := by
  have hready : s.mbReady p = false := by simp [State.mbReady, hstate]
  have hother : s.mbBusy p op tag = false := by simp [State.mbBusy, htag]
  unfold State.command
  simp only [hready, hother, Bool.not_false, Bool.and_self, if_true]

/-- A command that has changed its mailbox answers. -/
theorem mbTaken_answers {f : Mailbox → Mailbox} (hf : LeavesCommand f) (code : Nat) :
    ((s.mbTaken p op tag).modMailbox p f).mbDone p code = s.mbAnswer p op tag code f := by
  unfold State.mbTaken State.mbDone State.modMailbox
  rw [State.modPort_modPort, State.modPort_modPort]
  refine State.modPort_congr ?_
  obtain ⟨hstate, -⟩ := hf { (s.port p).mailbox with tag := tag, op := op } 2
  obtain ⟨-, htag⟩ := hf { (s.port p).mailbox with tag := tag, op := op, state := 2 } 2
  simp only [hstate] at htag ⊢
  simp [htag]

theorem leavesCommand_id : LeavesCommand id := fun _ _ => ⟨rfl, rfl⟩

/-- A command that answers at once. -/
theorem mbTaken_done (code : Nat) : (s.mbTaken p op tag).mbDone p code = s.mbAnswer p op tag code id := by
  rw [← mbTaken_answers leavesCommand_id code]
  unfold State.mbTaken State.modMailbox
  rw [State.modPort_modPort]
  rfl

/-- What a command in progress has left of its mailbox. -/
theorem mailbox_mbTaken : ((s.mbTaken p op tag).port p).mailbox = { (s.port p).mailbox with tag := tag, op := op, state := 2 } := by
  rw [State.mbTaken, State.modMailbox, State.port_modPort, if_pos rfl]

/-- The other port's mailbox. -/
theorem mbTaken_other (h : s.hostUp p = true) : (s.mbTaken p op tag).port (1 - p) = s.port (1 - p) := by
  have hp : p < 2 := by
    simp only [State.hostUp, Bool.and_eq_true, decide_eq_true_eq] at h
    exact h.1.1
  rw [State.mbTaken, State.modMailbox, State.port_modPort, if_neg (by omega)]

end

/-! ### Ranges (R460) -/

section
variable (s : State) (p : Nat)

/-- The die of MEMRD and MEMWR. -/
def Machine.State.mbDie : Nat := (s.port p).mailbox.arg0.toNat / 2 ^ 44 % 8

/-- Their address. -/
def Machine.State.mbAddr : Nat := (s.port p).mailbox.arg0.toNat % 2 ^ 44

/-- The length of a command. -/
def Machine.State.mbLen : Nat := (s.port p).mailbox.arg1.toNat

/-- MEMRD and MEMWR name bytes of one page of a die. -/
def MailRange : Prop :=
  1 ≤ s.mbLen p ∧ s.mbLen p ≤ 4096 ∧ (s.port p).mailbox.arg0.toNat < 2 ^ 47 ∧ s.mbAddr p + s.mbLen p ≤ (s.die (s.mbDie p)).cap ∧
    (s.die (s.mbDie p)).lost = false ∧ s.mbAddr p / 4096 = (s.mbAddr p + s.mbLen p - 1) / 4096

/-- IMGLOAD names bytes of the staging area. -/
def MailStaging : Prop :=
  1 ≤ s.mbLen p ∧ s.mbLen p ≤ 4096 ∧ (s.port p).mailbox.arg0.toNat % 4096 = 0 ∧ (s.port p).mailbox.arg0.toNat + s.mbLen p ≤ 2 ^ 26

end

section
variable {s : State} {p : Nat} {op tag : Byte}

/-- The range is none (R460). -/
def Machine.State.mbOutside (s : State) (p : Nat) : Bool :=
  s.mbLen p = 0 || 4096 < s.mbLen p || 2 ^ 47 ≤ (s.port p).mailbox.arg0.toNat ||
    (s.die (s.mbDie p)).cap < s.mbAddr p + s.mbLen p || (s.die (s.mbDie p)).lost ||
    s.mbAddr p / 4096 ≠ (s.mbAddr p + s.mbLen p - 1) / 4096

theorem mbOutside_iff : s.mbOutside p = false ↔ MailRange s p := by
  simp only [State.mbOutside, MailRange, Bool.or_eq_false_iff, decide_eq_false_iff_not, Nat.not_lt, Nat.not_le, not_not, and_assoc, Nat.one_le_iff_ne_zero,
    ne_eq]

theorem mbRange_eq : s.mbRange p = if s.mbOutside p then none else some (s.mbDie p, s.mbAddr p, s.mbLen p) := by
  have haddr : bitsOf (s.port p).mailbox.arg0.toNat 43 0 = s.mbAddr p := by simp [bitsOf, State.mbAddr]
  unfold State.mbRange
  simp only [haddr]
  rfl

theorem mbRange_in (h : MailRange s p) : s.mbRange p = some (s.mbDie p, s.mbAddr p, s.mbLen p) := by
  rw [mbRange_eq, mbOutside_iff.mpr h]
  rfl

theorem mbRange_out (h : ¬MailRange s p) : s.mbRange p = none := by
  rw [mbRange_eq]
  exact if_pos (by simpa using mt mbOutside_iff.mp h)

theorem mbRange_mbTaken : (s.mbTaken p op tag).mbRange p = s.mbRange p := by
  unfold State.mbRange
  simp only [mailbox_mbTaken]
  rfl

/-! ### What the commands answer -/

/-- Bytes put into MBDATA. -/
def putData (bytes : List Byte) (x : Mailbox) : Mailbox := { x with data := x.data.writeList 0 (bytes.take 4096) }

theorem leavesCommand_putData (bytes : List Byte) : LeavesCommand (putData bytes) := fun _ _ => ⟨rfl, rfl⟩

theorem mbMemrd_in (h : MailRange s p) : (s.mbTaken p op tag).mbMemrd p =
    (((s.mbTaken p op tag).recallRange (s.mbDie p) (s.mbAddr p) (s.mbLen p)).mbData p
      (((s.mbTaken p op tag).recallRange (s.mbDie p) (s.mbAddr p) (s.mbLen p)).physRead (s.mbDie p) (s.mbAddr p) (s.mbLen p))).mbDone p 0 := by
  unfold State.mbMemrd
  simp only [mbRange_mbTaken, mbRange_in h]

theorem mbMemrd_out (h : ¬MailRange s p) : (s.mbTaken p op tag).mbMemrd p = s.mbAnswer p op tag 2 id := by
  unfold State.mbMemrd
  simp only [mbRange_mbTaken, mbRange_out h, mbTaken_done]

theorem mbMemwr_image (h : MailRange s p) (hi : s.inImageFrame (s.mbDie p) (s.mbAddr p) = true) :
    (s.mbTaken p op tag).mbMemwr p = s.mbAnswer p op tag 0 id := by
  have himage : (s.mbTaken p op tag).inImageFrame (s.mbDie p) (s.mbAddr p) = true := hi
  unfold State.mbMemwr
  simp only [mbRange_mbTaken, mbRange_in h, himage, if_true, mbTaken_done]

theorem mbMemwr_stores (h : MailRange s p) (hi : s.inImageFrame (s.mbDie p) (s.mbAddr p) = false) : (s.mbTaken p op tag).mbMemwr p =
    ((s.mbTaken p op tag).storeEverywhere (s.mbDie p) (s.mbAddr p) ((s.port p).mailbox.data.readList 0 (s.mbLen p))).mbDone p 0 := by
  have himage : (s.mbTaken p op tag).inImageFrame (s.mbDie p) (s.mbAddr p) = false := hi
  unfold State.mbMemwr
  simp only [mbRange_mbTaken, mbRange_in h, himage, Bool.false_eq_true, if_false, mailbox_mbTaken]

theorem mbMemwr_out (h : ¬MailRange s p) : (s.mbTaken p op tag).mbMemwr p = s.mbAnswer p op tag 2 id := by
  unfold State.mbMemwr
  simp only [mbRange_mbTaken, mbRange_out h, mbTaken_done]

theorem mbCfgrd_reads (hd : (s.port p).mailbox.arg0.toNat ≤ 7) (ha : s.mbLen p % 8 = 0) (hl : s.mbLen p < 0x400000) :
    (s.mbTaken p op tag).mbCfgrd p =
      s.mbAnswer p op tag 0 (putData (leBytes 8 (s.dieDword (s.port p).mailbox.arg0.toNat (s.mbLen p)).toNat)) := by
  have hin : ¬(7 < (s.port p).mailbox.arg0.toNat || (s.port p).mailbox.arg1.toNat % 8 ≠ 0 || 0x400000 ≤ (s.port p).mailbox.arg1.toNat) = true := by
    unfold State.mbLen at ha hl
    simp [ha]
    omega
  unfold State.mbCfgrd
  simp only [mailbox_mbTaken, if_neg hin]
  exact mbTaken_answers (leavesCommand_putData _) 0

theorem mbImgload_in (h : MailStaging s p) (hup : s.hostUp p = true) : (s.mbTaken p op tag).mbImgload p =
    if (s.port (1 - p)).mailbox.staged then s.mbAnswer p op tag 5 id
    else { s with staging := s.staging.writeList (s.port p).mailbox.arg0.toNat ((s.port p).mailbox.data.readList 0 (s.mbLen p)) }.mbAnswer p op tag 0
      (fun x => { x with staged := true }) := by
  obtain ⟨hpos, hlen, halign, hend⟩ := h
  have hin : ¬((s.port p).mailbox.arg1.toNat = 0 || 4096 < (s.port p).mailbox.arg1.toNat || (s.port p).mailbox.arg0.toNat % 4096 ≠ 0 ||
      2 ^ 26 < (s.port p).mailbox.arg0.toNat + (s.port p).mailbox.arg1.toNat) = true := by
    unfold State.mbLen at hpos hlen hend
    simp [halign]
    omega
  have hstaged : LeavesCommand (fun x => { x with staged := true }) := fun _ _ => ⟨rfl, rfl⟩
  unfold State.mbImgload
  simp only [mailbox_mbTaken, if_neg hin, mbTaken_other hup, mbTaken_done]
  rw [← mbTaken_answers hstaged]
  rfl

theorem mbImgcommit_fails (h : imageCode s.stagedImage s.fuses.rollback ≠ 0) :
    (s.mbTaken p op tag).mbImgcommit p = s.mbAnswer p op tag (imageCode s.stagedImage s.fuses.rollback) id := by
  have hcode : imageCode (s.mbTaken p op tag).stagedImage (s.mbTaken p op tag).fuses.rollback = imageCode s.stagedImage s.fuses.rollback := rfl
  unfold State.mbImgcommit
  simp only [hcode, if_pos h, mbTaken_done]

/-- A port that has no staged image. -/
def Machine.HostPort.unstage (h : HostPort) : HostPort := { h with mailbox := { h.mailbox with staged := false } }

/-- The staged image stands in the flash, and no port has one any more. -/
def Machine.State.unstaged (s : State) : State :=
  { s with flash := s.stagedImage, ports := s.ports.map (fun q => (q.1, q.2.unstage)) }

theorem mbImgcommit_verified (h : imageCode s.stagedImage s.fuses.rollback = 0) :
    (s.mbTaken p op tag).mbImgcommit p = ((s.mbTaken p op tag).unstaged).mbDone p 0 := by
  have hcode : imageCode (s.mbTaken p op tag).stagedImage (s.mbTaken p op tag).fuses.rollback = imageCode s.stagedImage s.fuses.rollback := rfl
  unfold State.mbImgcommit
  simp only [hcode, h, ne_eq, not_true_eq_false, if_false]
  rfl

theorem mbAttest_signs : (s.mbTaken p op tag).mbAttest p =
    (let told := s.measurement ++ leBytes 16 s.offer.toNat ++ leBytes 16 s.accept.toNat
     s.mbAnswer p op tag 0 (putData (told ++ rsaSign (Config.aliasKey s.cdi) ((s.port p).mailbox.data.readList 0 32 ++ told)))) := by
  unfold State.mbAttest
  simp only [mailbox_mbTaken]
  exact mbTaken_answers (leavesCommand_putData _) 0

/-- A certificate and its length. -/
def putCert (der : List Byte) (x : Mailbox) : Mailbox := { putData der x with arg1 := BitVec.ofNat 64 der.length }

theorem mbCert_gives {der : List Byte} (h : ((s.port p).mailbox.arg0 = 0 ∧ der = Config.deviceCert) ∨
      ((s.port p).mailbox.arg0 = 1 ∧ der = Config.aliasCert s.measurement s.svn)) :
    (s.mbTaken p op tag).mbCert p = s.mbAnswer p op tag 0 (putCert der) := by
  have hput : ∀ t : State, (t.mbData p der).modMailbox p (fun m => { m with arg1 := BitVec.ofNat 64 der.length }) = t.modMailbox p (putCert der) :=
    fun t => by unfold State.mbData State.modMailbox; rw [State.modPort_modPort]; rfl
  have hcert : LeavesCommand (putCert der) := fun _ _ => ⟨rfl, rfl⟩
  rw [← mbTaken_answers hcert, ← hput]
  unfold State.mbCert
  rw [mailbox_mbTaken]
  rcases h with ⟨harg, rfl⟩ | ⟨harg, rfl⟩
  · exact if_pos harg
  · have hother : (s.port p).mailbox.arg0 ≠ 0 := by rw [harg]; decide
    exact (if_neg hother).trans (if_pos harg)

theorem mbFreeze_stops (h : s.feature 6 = true) : (s.mbTaken p op tag).mbFreeze p = { s.mbTaken p op tag with frozen := true } := if_pos h

theorem mbFreeze_refused (h : s.feature 6 = false) : (s.mbTaken p op tag).mbFreeze p = s.mbAnswer p op tag 1 id := by
  have hfeature : (s.mbTaken p op tag).feature 6 = false := h
  unfold State.mbFreeze
  simp only [hfeature, Bool.false_eq_true, if_false, mbTaken_done]

/-- The port of a command that has cleared the staging marks. -/
theorem unstaged_port : ((s.mbTaken p op tag).unstaged.port p).mailbox =
    { (s.port p).mailbox with tag := tag, op := op, state := 2, staged := false } := by
  have hmap : (s.mbTaken p op tag).unstaged.ports.get? p = ((s.mbTaken p op tag).ports.get? p).map HostPort.unstage :=
    Tab.get?_mapValues HostPort.unstage _ _
  rw [State.port, hmap, State.mbTaken, State.modMailbox, State.modPort, Tab.get?_put_self]
  rfl

theorem unstaged_mem {q : Nat} {h : HostPort} (hm : (q, h) ∈ s.unstaged.ports) : h.mailbox.staged = false := by
  obtain ⟨x, -, hx⟩ := List.mem_map.mp hm
  obtain ⟨-, rfl⟩ := Prod.mk.inj hx
  rfl

theorem mbDone_frame {code : Nat} : s.mbDone p code = { s with ports := (s.mbDone p code).ports } := rfl

/-- Nothing else differs but the flash and the ports. -/
theorem unstaged_frame {code : Nat} : (s.mbTaken p op tag).unstaged.mbDone p code =
    { s with flash := s.stagedImage, ports := ((s.mbTaken p op tag).unstaged.mbDone p code).ports } := by
  have himage : (s.mbTaken p op tag).stagedImage = s.stagedImage := rfl
  refine mbDone_frame.trans ?_
  generalize ((s.mbTaken p op tag).unstaged.mbDone p code).ports = ports
  unfold State.unstaged
  rw [himage]
  generalize s.stagedImage = image
  rfl

theorem mbDone_port {code : Nat} : ((s.mbDone p code).port p).mailbox =
    { (s.port p).mailbox with
      code := code, tagDone := (s.port p).mailbox.tag, state := if (s.port p).mailbox.state = 4 then 3 else 1 } := by
  rw [State.mbDone, State.modMailbox, State.port_modPort, if_pos rfl]

theorem mbDone_staged {code : Nat} (hp : (s.port p).mailbox.staged = false) (hs : ∀ q h, (q, h) ∈ s.ports → h.mailbox.staged = false) :
    ∀ q h, (q, h) ∈ (s.mbDone p code).ports → h.mailbox.staged = false := by
  intro q h hm
  rcases Tab.mem_put _ _ _ _ hm with heq | hold
  · obtain ⟨-, rfl⟩ := Prod.mk.inj heq
    exact hp
  · exact hs q h hold

end

end Sys2Proof
end

section
/-! The commands of the mailboxes (R231, R368, R456, R459, R460, R462 to R464, R470). -/

namespace Sys2Proof

open Sys2Proof.Machine

/-- An image that verifies goes into the flash, and no port has a staged image any more. -/
theorem imgcommit_verified {s : State} {p : Nat} {tag : Byte} (hr : MailReady s p) (h : imageCode s.stagedImage s.fuses.rollback = 0) :
    ∃ t, exec (.imgcommit p tag) s = .next t ∧ t = { s with flash := s.stagedImage, ports := t.ports } ∧
      (t.port p).mailbox.code = 0 ∧ (t.port p).mailbox.tagDone = tag ∧ ∀ q h, (q, h) ∈ t.ports → h.mailbox.staged = false := by
  have hdone : exec (.imgcommit p tag) s = .next ((s.mbTaken p 0x11 tag).unstaged.mbDone p 0) :=
    congrArg Host.Outcome.next ((command_ready hr).trans (mbImgcommit_verified h))
  refine ⟨_, hdone, unstaged_frame, ?_, ?_, mbDone_staged ?_ fun q h hm => unstaged_mem hm⟩
  · rw [mbDone_port]
  · rw [mbDone_port, unstaged_port]
  · rw [unstaged_port]

/-- Settles O53: a mailbox that is ready takes the command, which runs to its answer. -/
theorem mailboxCommands : Obligations.MailboxCommands := by
  unfold Obligations.MailboxCommands
  refine ⟨fun s p tag hstate htag => ?busy, fun s p tag hr => ⟨fun h => ?memrd, fun h hi => ?image, fun h hi => ?memwr, fun h => ⟨?noRead, ?noWrite⟩,
    fun hd ha hl => ?cfgrd, fun h hs => ?imgload, fun h hs => ?staged, fun h => ?bad, fun h => imgcommit_verified hr h, ?attest,
    fun der h => ?cert, fun h => ?freeze, fun h => ?noFreeze⟩⟩
  case busy =>
    have hsame : ∀ op recovery run, Host.Outcome.next (s.command p op tag recovery run) = (.next s : Host.Outcome State Fault Refusal) :=
      fun op recovery run => congrArg _ (command_busy hstate htag)
    exact ⟨hsame .., hsame .., hsame .., hsame .., hsame .., hsame .., hsame .., hsame .., hsame ..⟩
  case memrd => exact congrArg Host.Outcome.next ((command_ready hr).trans (mbMemrd_in h))
  case image => exact congrArg Host.Outcome.next ((command_ready hr).trans (mbMemwr_image h hi))
  case memwr => exact congrArg Host.Outcome.next ((command_ready hr).trans (mbMemwr_stores h hi))
  case noRead => exact congrArg Host.Outcome.next ((command_ready hr).trans (mbMemrd_out h))
  case noWrite => exact congrArg Host.Outcome.next ((command_ready hr).trans (mbMemwr_out h))
  case cfgrd => exact congrArg Host.Outcome.next ((command_ready hr).trans (mbCfgrd_reads hd ha hl))
  case imgload => exact congrArg Host.Outcome.next ((command_ready hr).trans ((mbImgload_in h hr.1).trans (if_neg (by simp [hs]))))
  case staged => exact congrArg Host.Outcome.next ((command_ready hr).trans ((mbImgload_in h hr.1).trans (if_pos hs)))
  case bad => exact congrArg Host.Outcome.next ((command_ready hr).trans (mbImgcommit_fails h))
  case attest => exact congrArg Host.Outcome.next ((command_ready hr).trans mbAttest_signs)
  case cert => exact congrArg Host.Outcome.next ((command_ready hr).trans (mbCert_gives h))
  case freeze => exact congrArg Host.Outcome.next ((command_ready hr).trans (mbFreeze_stops h))
  case noFreeze => exact congrArg Host.Outcome.next ((command_ready hr).trans (mbFreeze_refused h))

end Sys2Proof
end

section
/-! SUPPORT. BAR2 and HOST_CXL_SNOOP (R230, R435, R436, R462). -/

namespace Sys2Proof

open Sys2Proof.Machine

section
variable {s : State} {port off n : Nat}

/-! ### Writes and snoops -/

theorem bar2Write_ready {data : List Byte} (hup : s.hostUp port = true) (hf : s.feature 0 = true)
    (hfits : off + data.length ≤ 2 ^ (s.port port).bar2Bits)
    (hready : ∀ p ∈ peerPieces (data.length / 65536 + 2) off data.length, s.bar2Ready port p.1 = true) :
    execBar2Write port off data s = .next (s.bar2Store port (peerPieces (data.length / 65536 + 2) off data.length) data) := by
  have hall : (peerPieces (data.length / 65536 + 2) off data.length).all (fun p => s.bar2Ready port p.1) = true := List.all_eq_true.mpr hready
  unfold execBar2Write
  simp only [hup, hf, hall, Nat.not_lt.mpr hfits, decide_false, Bool.not_true, Bool.or_self, Bool.false_eq_true, if_false]

theorem bar2Write_off {data : List Byte} (hf : s.feature 0 = false) : execBar2Write port off data s = .next s := by
  unfold execBar2Write
  simp only [hf, Bool.not_false, Bool.or_true, Bool.true_or, if_true]

theorem hostCxlSnoop_held {addr : Nat} (hup : s.hostUp port = true) (h : addr / 64 ∈ (s.port port).cxl) : execHostCxlSnoop port addr s =
    .next ({ s with hostOut := s.hostRead port (addr / 64 * 64) 64, hostEp := [false] }.modPort port (fun h =>
      { h with cxl := h.cxl.filter (fun l => l != addr / 64) })) := if_neg (by simp [hup, h])

theorem hostCxlSnoop_other {addr : Nat} (h : addr / 64 ∉ (s.port port).cxl) : execHostCxlSnoop port addr s = .next s := if_pos (by simp [h])

/-! ### Reads -/

/-- A read of BAR2 that is answered. -/
def ReadsBar2 (s : State) (port off n : Nat) : Prop :=
  s.hostUp port = true ∧ off + n ≤ 2 ^ (s.port port).bar2Bits ∧ n ≤ 4096 ∧ s.frozen = false

/-- The bytes of BAR2, each with its mark. -/
def Machine.State.bar2Bytes (s : State) (off n : Nat) : List (Byte × Bool) := (List.range n).map (fun i => s.bar2Byte (off + i))

/-- The copies of the bytes recalled before a read. -/
def Machine.State.bar2Recall (s : State) (off n : Nat) : State :=
  (peerPieces 3 off n).foldl (fun s p => if s.feature 0 && s.bar2Reach p.1 then s.recallRange (bar2Die p.1) (bar2Pa p.1) p.2 else s) s

/-- What the host is given. -/
def Machine.State.bar2Given (s : State) (off n : Nat) : State :=
  { s with hostOut := (s.bar2Bytes off n).map (fun b => b.1), hostEp := completionMarks off ((s.bar2Bytes off n).map (fun b => b.2)) }

theorem bar2Read_frozen (h : s.frozen = true) : execBar2Read port off n s = .next { s with hostOut := [], hostEp := [] } := if_pos h

theorem bar2Read_gives (h : ReadsBar2 s port off n) : execBar2Read port off n s = .next ((s.bar2Recall off n).bar2Given off n) := by
  obtain ⟨hup, hfits, hlen, hfrozen⟩ := h
  have hin : ¬(!s.hostUp port || 2 ^ (s.port port).bar2Bits < off + n || 4096 < n) = true := by
    simp only [hup, Nat.not_lt.mpr hfits, Nat.not_lt.mpr hlen]
    decide
  exact (if_neg (by simp [hfrozen])).trans (if_neg hin)

theorem foldl_fixed {α : Type} {g : State → α → State} (h : ∀ a, g s a = s) (l : List α) : l.foldl g s = s := by
  induction l with
  | nil => rfl
  | cons a l ih => rw [List.foldl_cons, h a, ih]

/-- Where no update-only copy is out, a recall finds none. -/
theorem recallRange_uncopied (h : ∀ d pa, (s.line d pa).uo = []) (d pa k : Nat) : s.recallRange d pa k = s := by
  unfold State.recallRange
  refine foldl_fixed (fun i => ?_) _
  unfold State.recall
  rw [h]
  rfl

theorem bar2Recall_uncopied (h : ∀ d pa, (s.line d pa).uo = []) : s.bar2Recall off n = s := by
  unfold State.bar2Recall
  refine foldl_fixed (fun p => ?_) _
  split
  · exact recallRange_uncopied h ..
  · rfl

theorem bar2Recall_off (hf : s.feature 0 = false) : s.bar2Recall off n = s := by
  unfold State.bar2Recall
  exact foldl_fixed (fun p => if_neg (by simp [hf])) _

/-! ### The bytes read -/

theorem bar2Pa_eq (off : Nat) : bar2Pa off = off % 2 ^ 37 := by simp [bar2Pa, bitsOf]

theorem bar2Bytes_length : (s.bar2Bytes off n).length = n := by simp [State.bar2Bytes]

theorem bar2Bytes_getD {β : Type} (g : Byte × Bool → β) (z : β) {i : Nat} (hi : i < n) :
    ((s.bar2Bytes off n).map g).getD i z = g (s.bar2Byte (off + i)) := by
  have hlen : i < ((s.bar2Bytes off n).map g).length := by simpa [bar2Bytes_length] using hi
  rw [List.getD_eq_getElem _ _ hlen]
  simp [State.bar2Bytes]

/-- Without the feature BAR2 reads as ones. -/
theorem bar2Bytes_off (hf : s.feature 0 = false) : s.bar2Bytes off n = List.replicate n (0xFF, false) := by
  have hbyte : ∀ i ∈ List.range n, s.bar2Byte (off + i) = (0xFF, false) := fun i _ => if_pos (by simp [hf])
  rw [State.bar2Bytes, List.map_congr_left hbyte, List.map_const', List.length_range]

theorem bar2Reach_iff (x : Nat) : s.bar2Reach x = true ↔ (s.die (bar2Die x)).lost = false ∧ bar2Pa x < (s.die (bar2Die x)).cap := by
  simp [State.bar2Reach]

theorem bar2Byte_mark (hf : s.feature 0 = true) (x : Nat) : (s.bar2Byte x).2 = (s.bar2Reach x && s.poisoned (bar2Die x) (bar2Pa x)) := by
  unfold State.bar2Byte
  cases s.bar2Reach x <;> cases s.poisoned (bar2Die x) (bar2Pa x) <;> simp [hf]

theorem bar2Byte_value (hf : s.feature 0 = true) (x : Nat) : (s.bar2Byte x).1 =
    if (s.die (bar2Die x)).lost = false ∧ bar2Pa x < (s.die (bar2Die x)).cap ∧ s.poisoned (bar2Die x) (bar2Pa x) = false
    then s.mem.read (physKey (bar2Die x) (bar2Pa x)) else 0xFF := by
  simp only [← and_assoc, ← bar2Reach_iff]
  unfold State.bar2Byte
  cases s.bar2Reach x <;> cases s.poisoned (bar2Die x) (bar2Pa x) <;> simp [hf]

/-- A completion without a poisoned byte is not marked. -/
theorem completionMarks_clean {x : Bool} (h : x ∈ completionMarks off (List.replicate n false)) : x = false := by
  obtain ⟨c, -, rfl⟩ := List.mem_map.mp h
  refine List.any_eq_false.mpr fun m hm => ?_
  have hfalse : m.1 = false := List.eq_of_mem_replicate (List.fst_mem_of_mem_zipIdx hm)
  simp [hfalse]

end

end Sys2Proof
end

section
/-! SUPPORT. Freezing, the read-out and the power states (R465 to R468, R470, R471). -/

namespace Sys2Proof

open Sys2Proof.Machine

section
variable {s : State}

theorem nextMove_frozen : s.nextMove.2.frozen = s.frozen := by
  unfold State.nextMove
  split <;> rfl

/-- A frozen package makes no move but those that need no clock. -/
theorem step_frozen (hf : s.frozen = true) (hm : Move.whileFrozen s.nextMove.1 = false) : step s = .next s.nextMove.2.passTime := by
  have hfrozen : s.nextMove.2.passTime.frozen = true := nextMove_frozen.trans hf
  have hstill : (s.nextMove.2.passTime.frozen && !Move.whileFrozen s.nextMove.1) = true := by rw [hfrozen, hm]; rfl
  exact if_pos hstill

/-- The read-out of a frozen part changes nothing but what it gives. -/
theorem tapReadout_frozen (hf : s.frozen = true) {d : Nat} (hd : d < 8) (inst : Instrument) :
    ∃ out, execTapReadout d inst s = .next { s with tapOut := out } ∧ (inst = .config → out = s.configTap d) := by
  refine ⟨_, if_neg (by simp [hf, hd]), ?_⟩
  rintro rfl
  rfl

theorem tapReadout_running (hf : s.frozen = false) (d : Nat) (inst : Instrument) : execTapReadout d inst s = .next s := if_pos (by simp [hf])

/-- The power state that the package can enter: the deepest that PMAX and TOL allow and whose condition holds (R466). -/
def Machine.State.powerPick (s : State) : Option Nat := [4, 3, 2, 1].find? (fun st => s.powerAllowed st && s.powerCond st)

theorem powerStateEntry_eq : execPowerStateEntry s = match s.powerPick with
    | some st => .next (if s.pstate < st then s.enterPower st else s)
    | none => .next s := rfl

theorem powerStateEntry_deeper {st : Nat} (hp : s.powerPick = some st) (hd : s.pstate < st) : execPowerStateEntry s = .next (s.enterPower st) := by
  rw [powerStateEntry_eq, hp]
  exact congrArg _ (if_pos hd)

theorem powerStateEntry_stays (h : s.powerPick = none ∨ ∃ st, s.powerPick = some st ∧ st ≤ s.pstate) : execPowerStateEntry s = .next s := by
  rw [powerStateEntry_eq]
  rcases h with hp | ⟨st, hp, hd⟩
  · rw [hp]
  · rw [hp]
    exact congrArg _ (if_neg (Nat.not_lt.mpr hd))

theorem enterPower_islands {st d : Nat} {x : Die} (h : (d, x) ∈ (s.enterPower st).dies) : x.islands = islandsIn st := by
  obtain ⟨y, -, hy⟩ := List.mem_map.mp h
  obtain ⟨-, rfl⟩ := Prod.mk.inj hy
  rfl

theorem throttling_sets {d v x : Nat} (hd : d < 8) (hl : (s.die d).lost = false) (hp : s.pstate = 0) (hv : v = 2 ∨ v = 3) (hx : x = 2 ∨ x = 3) :
    execThrottling d v x s = .next (s.modDie d (fun y => { y with islands := [v, x] ++ y.islands.drop 2 })) := by
  have hok : ∀ y, (y = 2 ∨ y = 3) → (y == 2 || y == 3) = true := fun y hy => by simpa using hy
  unfold execThrottling
  simp only [Nat.not_le.mpr hd, hl, hp, hok v hv, hok x hx, decide_false, ne_eq, not_true_eq_false, Bool.not_true, Bool.or_self, Bool.false_eq_true,
    if_false]

end

end Sys2Proof
end

section
/-! BAR2, freezing and power states (R230, R435, R436, R462, R465 to R468, R470, R471). -/

namespace Sys2Proof

open Sys2Proof.Machine

/-- Settles O54: a read recalls nothing where no copy is out, and gives each byte of BAR2 by its die and address; what a power state leaves follows
from its entry. -/
theorem hostAccess : Obligations.HostAccess := by
  unfold Obligations.HostAccess
  refine ⟨⟨fun s port off data => bar2Write_ready, fun s port off data => bar2Write_off, ?readOff, fun s port off n => bar2Read_frozen, ?read,
    fun s port addr => hostCxlSnoop_held, fun s port addr => hostCxlSnoop_other⟩,
    fun s => rfl, fun s => step_frozen, ?tap, fun s d inst hf => tapReadout_running hf d inst, ?entry, fun s => powerStateEntry_stays,
    ?shallow, ?deep, fun s hp => congrArg _ (if_pos hp), fun s d v x => throttling_sets⟩
  case readOff =>
    intro s port off n hup hfits hlen hfrozen hf
    have hgives := bar2Read_gives ⟨hup, hfits, hlen, hfrozen⟩
    rw [bar2Recall_off hf, State.bar2Given, bar2Bytes_off hf, List.map_replicate, List.map_replicate] at hgives
    exact ⟨_, hgives, rfl, rfl, fun x => completionMarks_clean⟩
  case read =>
    intro s port off n hup hfits hlen hfrozen hf huo
    have hgives := bar2Read_gives ⟨hup, hfits, hlen, hfrozen⟩
    rw [bar2Recall_uncopied huo] at hgives
    refine ⟨_, hgives, rfl, rfl, ?_, ⟨(s.bar2Bytes off n).map (fun b => b.2), rfl, ?_, fun i hi => ?_⟩, fun i hi => ?_⟩
    · exact (List.length_map _).trans bar2Bytes_length
    · exact (List.length_map _).trans bar2Bytes_length
    · rw [bar2Bytes_getD _ _ hi, bar2Byte_mark hf, bar2Pa_eq]
      simp only [State.bar2Reach, bar2Pa_eq]
      rfl
    · refine (bar2Bytes_getD _ _ hi).trans ((bar2Byte_value hf (off + i)).trans ?_)
      rw [bar2Pa_eq]
      rfl
  case tap =>
    intro s d inst hf hd
    obtain ⟨out, hout, hconfig⟩ := tapReadout_frozen hf hd inst
    exact ⟨_, hout, rfl, hconfig⟩
  case entry =>
    intro s st hp hd
    refine ⟨_, powerStateEntry_deeper hp hd, rfl, fun d x => enterPower_islands, ?_, ?_⟩
    · rintro rfl
      rfl
    · rintro rfl
      exact ⟨rfl, rfl⟩
  case shallow =>
    intro s h0 h4
    exact congrArg _ ((if_neg (Nat.ne_of_gt h0)).trans (if_pos h4))
  case deep =>
    intro s h4
    exact congrArg _ (if_neg (by simp [h4]))

end Sys2Proof
end

section
/-! What a reset leaves (R222, R361, R453, R454, R459, R461, R466, R468). -/

namespace Sys2Proof

open Sys2Proof.Machine

/-- A table of a function on some numbers. -/
theorem Tab.get?_tabulate {α : Type} (g : Nat → α) (ks : List Nat) (k : Nat) :
    Tab.get? (ks.map (fun i => (i, g i))) k = if k ∈ ks then some (g k) else none := by
  induction ks with
  | nil => rfl
  | cons i ks ih =>
    rw [List.map_cons, Tab.get?_cons, ih]
    by_cases h : i = k
    · simp [h]
    · simp [h, Ne.symm h]

section
variable (f : Fuses) (flash : List Byte)

/-- Every die is as just reset. -/
theorem die_resetWith (d : Nat) : (State.resetWith f flash).die d = Die.reset f d := by
  have hget : (State.resetWith f flash).dies.get? d = if d ∈ List.range 8 then some (Die.reset f d) else none := Tab.get?_tabulate (Die.reset f) _ d
  rw [State.die, hget]
  split <;> rfl

/-- Every port is as just reset. -/
theorem port_resetWith (p : Nat) : (State.resetWith f flash).port p = HostPort.reset := by
  have hget : (State.resetWith f flash).ports.get? p = if 0 = p then some HostPort.reset else if 1 = p then some HostPort.reset else none := rfl
  rw [State.port, hget]
  split
  · rfl
  · split <;> rfl

/-- Every context slot is Free. -/
theorem slotState_resetWith (d k : Nat) : (State.resetWith f flash).slotState d k = (.free, 0) := by
  have hslot : (State.resetWith f flash).slotOf d k = ⟨0, none, .free, 0⟩ := by
    rw [State.slotOf, die_resetWith]
    rfl
  rw [State.slotState, hslot]
  rfl

end

/-- Settles O60: a die, a port and a slot read as just reset, whatever their numbers; the bay map is a list in order. -/
theorem resetState : Obligations.ResetState := by
  unfold Obligations.ResetState
  refine ⟨memOk_iff_canonical.mpr Canonical.resetWith, fun _ => rfl, rfl, rfl, rfl, rfl, rfl, rfl, rfl, rfl, rfl, rfl, rfl, rfl, rfl, rfl, rfl,
    fun p => ?port, fun d _ => ?die⟩
  case port =>
    rw [State.reset, port_resetWith]
    rfl
  case die =>
    rw [State.reset, die_resetWith]
    refine ⟨rfl, rfl, rfl, rfl, fun k => ?slot, fun k hk => ?clock, fun i hi => ?map⟩
    case slot => rw [slotState_resetWith]; exact ⟨rfl, rfl⟩
    case clock => exact (by decide : ∀ k, k < 8 → Clock.zero.getD k 1 = 0) k hk
    case map => exact (List.getD_eq_getElem _ _ (by simpa [Die.reset] using hi)).trans (List.getElem_range _)

end Sys2Proof
end

section
/-! SUPPORT. Barrier objects (R242 to R247, R268, R269): what the five instructions answer by the object and by what the slice has noted. -/

namespace Sys2Proof

open Sys2Proof.Machine

/-! ### The object -/

/-- The test of R244: the phase completes where all its arrivals and bytes have come. -/
theorem barObj_test_eq (x : BarObj) : x.test =
    if x.aarr = x.xarr ∧ x.abytes = x.xbytes then
      { x with xbytes := 0, abytes := 0, aarr := 0, ctrl := if x.ctrl % 2 = 0 then x.ctrl + 1 else x.ctrl - 1 }
    else x := by
  unfold BarObj.test
  simp only [Bool.and_eq_true, decide_eq_true_eq]
  rfl

theorem barObj_add_some {x : BarObj} {n k : Nat} (hn : x.xbytes + n < 2 ^ 32) (hk : k ≠ 0 → x.aarr < x.xarr) :
    x.add n k = some { x with xbytes := x.xbytes + n, aarr := x.aarr + k }.test := by
  have hroom : ¬(decide (2 ^ 32 ≤ x.xbytes + n) || decide (k ≠ 0) && decide (x.xarr ≤ x.aarr)) = true := by
    simpa using ⟨hn, hk⟩
  unfold BarObj.add
  rw [if_neg hroom]

theorem barObj_add_none {x : BarObj} {n k : Nat} (h : 2 ^ 32 ≤ x.xbytes + n ∨ k ≠ 0 ∧ x.xarr ≤ x.aarr) : x.add n k = none := by
  have hfull : (decide (2 ^ 32 ≤ x.xbytes + n) || decide (k ≠ 0) && decide (x.xarr ≤ x.aarr)) = true := by simpa using h
  unfold BarObj.add
  rw [if_pos hfull]

/-- The object that an instruction names with its offset, past the checks of R268. -/
def BarAt (v : Env) (s : State) (act : BitVec 4) (o : Nat) : Prop := ∃ es, s.barGate v act = .go es ∧ o = (es.getD 0 default).va

/-- The offset that a barrier instruction names. -/
def Machine.Env.barPlace (v : Env) : Nat := ((v.a.scalar : Int) + litInt v.f).toNat

/-- The object in the window of the slice's block. -/
def Machine.Env.barObj (v : Env) (o : Nat) : BarObj := v.b.window.barObj o

section
variable {v : Env} {s s1 : State} {o : Nat}

/-! ### BINIT and BEXP -/

/-- The row of BINIT (R266). -/
def encBinit : Enc := { opc := 0xA0, lens := [2, 3], sa := .u32, lit := .role, md := 0x3FF }

/-- The meaning of BINIT. -/
def binitBody (v : Env) (s : State) : Res :=
  if v.act = 0 then .done {}
  else match s.barGate v v.act with
    | .stop r => r
    | .go es => doneEff (fun s => s.putObj v (es.getD 0 default).va (BarObj.init (v.md + 1)))

theorem exec_binit_body (f : Fields) (s : State) : exec (.binit f) s = runInstr encBinit f binitBody s := rfl

theorem binitBody_idle (h : v.act = 0) : binitBody v s = .done {} := if_pos h

theorem binitBody_at (ha : v.act ≠ 0) (h : BarAt v s v.act o) :
    binitBody v s = .done (doing (fun t => t.putObj v o (BarObj.init (v.md + 1)))) := by
  obtain ⟨es, hgate, rfl⟩ := h
  unfold binitBody
  rw [if_neg ha, hgate]
  rfl

/-- The row of BEXP (R266). -/
def encBexp : Enc := { opc := 0xA1, lens := [2, 3], sa := .u32, sb := .u32, lit := .role }

/-- BEXP on the object at an offset. -/
def bexpAt (v : Env) (o : Nat) : Res :=
  match (v.barObj o).cause with
  | some c => .raise c 0 v.act
  | none => match (v.barObj o).add v.o.scalar 0 with
    | none => .raise 0x0502 0 v.act
    | some y => doneEff (fun s => s.putObj v o y)

/-- The meaning of BEXP. -/
def bexpBody (v : Env) (s : State) : Res :=
  if v.act = 0 then .done {}
  else match s.barGate v v.act with
    | .stop r => r
    | .go es => bexpAt v (es.getD 0 default).va

theorem exec_bexp_body (f : Fields) (s : State) : exec (.bexp f) s = runInstr encBexp f bexpBody s := rfl

theorem bexpBody_idle (h : v.act = 0) : bexpBody v s = .done {} := if_pos h

theorem bexpBody_at (ha : v.act ≠ 0) (h : BarAt v s v.act o) : bexpBody v s = bexpAt v o := by
  obtain ⟨es, hgate, rfl⟩ := h
  unfold bexpBody
  rw [if_neg ha, hgate]

theorem bexpAt_adds (hc : (v.barObj o).cause = none) (hn : (v.barObj o).xbytes + v.o.scalar < 2 ^ 32) : bexpAt v o =
    .done (doing (fun t => t.putObj v o { v.barObj o with xbytes := (v.barObj o).xbytes + v.o.scalar }.test)) := by
  unfold bexpAt
  rw [hc, barObj_add_some hn (fun h => absurd rfl h)]
  rfl

theorem bexpAt_bad {c : Half} (hc : (v.barObj o).cause = some c) : bexpAt v o = .raise c 0 v.act := by
  unfold bexpAt
  rw [hc]

theorem bexpAt_overflows (hc : (v.barObj o).cause = none) (hn : 2 ^ 32 ≤ (v.barObj o).xbytes + v.o.scalar) :
    bexpAt v o = .raise 0x0502 0 v.act := by
  unfold bexpAt
  rw [hc, barObj_add_none (.inl hn)]

/-! ### BARR -/

/-- The bytes that BARR.x expects (R268). -/
def Machine.Env.barMore (v : Env) : Nat := if bitOf v.md 3 then v.o.scalar else 0

/-- What BARR gives: the phase where it is asked for it, and the object as its arrival leaves it. -/
def Machine.Env.barrOut (v : Env) (o : Nat) (y : BarObj) : Out :=
  { regs := if bitOf v.md 4 then [v.writeUni false (BitVec.ofNat 64 (v.barObj o).ph)] else []
    eff := fun s => s.putObj v o y }

/-- BARR past the checks that it makes before its release. -/
def barrAt (v : Env) (o : Nat) (s : State) : Res :=
  match s.release v v.orderScope with
  | (s1, none) => .wait s1
  | (s1, some _) => match (v.barObj o).cause with
    | some c => .raiseIn s1 c 0 v.act
    | none => match (v.barObj o).add v.barMore 1 with
      | none => .raiseIn s1 0x0502 0 v.act
      | some y => .doneIn s1 (v.barrOut o y)

/-- The meaning of BARR. -/
def barrBody (v : Env) (s : State) : Res :=
  if v.act = 0 then .done {}
  else match s.barrGate v with
    | .stop r => r
    | .go es => barrAt v (es.getD 0 default).va s

theorem exec_barr_body (f : Fields) (s : State) : exec (.barr f) s = runInstr (encBarr f) f barrBody s := rfl

/-- BARR is past its first checks, now or before it began its release. -/
def BarrEntered (v : Env) (s : State) (o : Nat) : Prop :=
  (v.x.releasing? = true ∧ o = v.barPlace) ∨ (v.x.releasing? = false ∧ BarAt v s v.act o ∧ (v.barObj o).cause = none)

theorem barrBody_idle (h : v.act = 0) : barrBody v s = .done {} := if_pos h

theorem barrBody_entered (ha : v.act ≠ 0) (h : BarrEntered v s o) : barrBody v s = barrAt v o s := by
  unfold barrBody State.barrGate
  rw [if_neg ha]
  rcases h with ⟨hreleasing, rfl⟩ | ⟨hfirst, ⟨es, hgate, rfl⟩, hcause⟩
  · rw [if_pos hreleasing]
    rfl
  · unfold Env.barObj at hcause
    simp only [hfirst, hgate, hcause, Bool.false_eq_true, if_false]

/-- A bad object is found before the release. -/
theorem barrBody_bad {c : Half} (ha : v.act ≠ 0) (hf : v.x.releasing? = false) (h : BarAt v s v.act o) (hc : (v.barObj o).cause = some c) :
    barrBody v s = .raise c 0 v.act := by
  obtain ⟨es, hgate, rfl⟩ := h
  unfold Env.barObj at hc
  unfold barrBody State.barrGate
  simp only [if_neg ha, hf, hgate, hc, Bool.false_eq_true, if_false]

theorem barrAt_waits (hr : s.release v v.orderScope = (s1, none)) : barrAt v o s = .wait s1 := by
  unfold barrAt
  simp only [hr]

section
variable {ok : Bool} (hr : s.release v v.orderScope = (s1, some ok))
include hr

theorem barrAt_arrives (hc : (v.barObj o).cause = none) (hn : (v.barObj o).xbytes + v.barMore < 2 ^ 32)
    (hk : (v.barObj o).aarr < (v.barObj o).xarr) : barrAt v o s = .doneIn s1 (v.barrOut o
      { v.barObj o with xbytes := (v.barObj o).xbytes + v.barMore, aarr := (v.barObj o).aarr + 1 }.test) := by
  unfold barrAt
  simp only [hr, hc, barObj_add_some hn (fun _ => hk)]

theorem barrAt_bad {c : Half} (hc : (v.barObj o).cause = some c) : barrAt v o s = .raiseIn s1 c 0 v.act := by
  unfold barrAt
  simp only [hr, hc]

theorem barrAt_overflows (hc : (v.barObj o).cause = none)
    (h : 2 ^ 32 ≤ (v.barObj o).xbytes + v.barMore ∨ (v.barObj o).xarr ≤ (v.barObj o).aarr) : barrAt v o s = .raiseIn s1 0x0502 0 v.act := by
  unfold barrAt
  simp only [hr, hc, barObj_add_none (h.imp_right fun hk => ⟨Nat.one_ne_zero, hk⟩)]

end

theorem plain_barrOut {f : Fields} {bid sid : Nat} {b : Block} {x : Slice} (y : BarObj) :
    Plain (encBarr f) f ((encBarr f).typeOf f x.mode) (((encBarr f).env f bid sid b x).barrOut o y) := by
  have hmd : ((encBarr f).env f bid sid b x).md = modOf f := rfl
  unfold Env.barrOut
  rw [hmd]
  cases hbit : bitOf (modOf f) 4 with
  | false => exact plain_none _ none
  | true => exact plain_one rfl (by simp [encBarr, hbit, Dst.span, Env.writeUni]) _ none

/-! ### BWAIT and BTRY -/

/-- The operand is a parity, and the object passes the checks of R243, R267 and R269. -/
def BarReady (v : Env) (s : State) (o : Nat) : Prop := v.o.scalar ≤ 1 ∧ BarAt v s v.x.mask o ∧ (v.barObj o).cause = none

/-- The object's phase is the one that the operand names. -/
def BarSame (v : Env) (o : Nat) : Prop := (v.barObj o).ctrl % 2 = v.o.scalar

theorem barTest_ready {g : Bool → Res} (h : BarReady v s o) : barTest v s g = g ((v.barObj o).ph != v.o.scalar) := by
  obtain ⟨hq, ⟨es, hgate, rfl⟩, hcause⟩ := h
  unfold Env.barObj at hcause ⊢
  unfold barTest
  simp only [if_neg (Nat.not_lt.mpr hq), hgate, hcause]

theorem barTest_completed {g : Bool → Res} (h : BarReady v s o) (hd : ¬BarSame v o) : barTest v s g = g true :=
  (barTest_ready h).trans (congrArg g (bne_iff_ne.mpr hd))

theorem barTest_same {g : Bool → Res} (h : BarReady v s o) (hd : BarSame v o) : barTest v s g = g false :=
  (barTest_ready h).trans (congrArg g (bne_eq_false_iff_eq.mpr hd))

theorem barTest_bad {g : Bool → Res} {c : Half} (hq : v.o.scalar ≤ 1) (h : BarAt v s v.x.mask o) (hc : (v.barObj o).cause = some c) :
    barTest v s g = .raise c 0 v.x.mask := by
  obtain ⟨es, hgate, rfl⟩ := h
  unfold Env.barObj at hc
  unfold barTest
  simp only [if_neg (Nat.not_lt.mpr hq), hgate, hc]

/-- What a slice has found of its object stands while its acquire waits (R269). -/
def Machine.Env.barNoted (v : Env) (s : State) : State :=
  s.modSlice v.bid v.sid (fun x => if x.acquiring?.isSome then x else { x with prog := .barrier v.barPlace v.o.scalar (some none) })

theorem barFound_done {scope : Scope} {p : Out} (h : s.acquire v scope 1 none = (s1, true)) : barFound v scope s p = .doneIn s1 p := by
  unfold barFound
  rw [acquireThen_done h]

theorem barFound_waits {scope : Scope} {p : Out} (h : s.acquire v scope 1 none = (s1, false)) : barFound v scope s p = .wait (v.barNoted s1) := by
  unfold barFound
  rw [acquireThen_waits h]
  rfl

/-- The row of BWAIT. -/
abbrev encBwaitRow : Enc := encBwait 0xA3 .no

/-- The meaning of BWAIT. -/
def bwaitBody (v : Env) (s : State) : Res :=
  match v.x.prog with
  | .acquiring _ w => acquireThen v v.orderScope w none s {}
  | .barrier _ _ (some none) => barFound v v.orderScope s {}
  | .barrier _ _ (some (some c)) => .raise c 0 v.x.mask
  | _ => barTest v s (fun done =>
      if done then barFound v v.orderScope s {}
      else .wait (s.modSlice v.bid v.sid (fun x => { x with prog := .barrier v.barPlace v.o.scalar none })))

theorem exec_bwait_body (f : Fields) (s : State) : exec (.bwait f) s = runInstr encBwaitRow f bwaitBody s := rfl

/-- BWAIT has found nothing yet. -/
def BwaitOpen (v : Env) : Prop := v.x.acquiring? = none ∧ ∀ o q w, v.x.prog ≠ .barrier o q (some w)

theorem bwaitBody_open (h : BwaitOpen v) : bwaitBody v s = barTest v s (fun done =>
    if done then barFound v v.orderScope s {}
    else .wait (s.modSlice v.bid v.sid (fun x => { x with prog := .barrier v.barPlace v.o.scalar none }))) := by
  obtain ⟨hacquiring, hfound⟩ := h
  unfold bwaitBody
  split
  · next t w hw => rw [acquiring_iff.mpr ⟨t, hw⟩] at hacquiring; cases hacquiring
  · next hp => exact absurd hp (hfound _ _ _)
  · next hp => exact absurd hp (hfound _ _ _)
  · rfl

theorem bwaitBody_found (h : ∃ o q, v.x.prog = .barrier o q (some none)) : bwaitBody v s = barFound v v.orderScope s {} := by
  obtain ⟨o, q, hp⟩ := h
  unfold bwaitBody
  rw [hp]

theorem bwaitBody_bad {c : Half} (h : ∃ o q, v.x.prog = .barrier o q (some (some c))) : bwaitBody v s = .raise c 0 v.x.mask := by
  obtain ⟨o, q, hp⟩ := h
  unfold bwaitBody
  rw [hp]

theorem bwaitBody_acquiring {w : Dword} (h : v.x.acquiring? = some w) : bwaitBody v s = acquireThen v v.orderScope w none s {} := by
  obtain ⟨t, ht⟩ := acquiring_iff.mp h
  unfold bwaitBody
  rw [ht]

/-- BWAIT finds that the phase has completed, now or when its object last changed. -/
theorem bwaitBody_completed (h : (BwaitOpen v ∧ ∃ o, BarReady v s o ∧ ¬BarSame v o) ∨ ∃ o q, v.x.prog = .barrier o q (some none)) :
    bwaitBody v s = barFound v v.orderScope s {} := by
  rcases h with ⟨hopen, o, hready, hdiffers⟩ | hfound
  · exact (bwaitBody_open hopen).trans (barTest_completed hready hdiffers)
  · exact bwaitBody_found hfound

theorem bwaitBody_waits (hopen : BwaitOpen v) (hready : BarReady v s o) (hsame : BarSame v o) : bwaitBody v s =
    .wait (s.modSlice v.bid v.sid (fun x => { x with prog := .barrier v.barPlace v.o.scalar none })) :=
  (bwaitBody_open hopen).trans (barTest_same hready hsame)

/-- The row of BTRY. -/
abbrev encBtryRow : Enc := encBwait 0xA4 .pd

/-- The meaning of BTRY. -/
def btryBody (v : Env) (s : State) : Res :=
  match v.x.prog with
  | .acquiring _ w => acquireThen v v.orderScope w none s { pred := predAll v true }
  | .barrier _ _ _ => barFound v v.orderScope s { pred := predAll v true }
  | _ => barTest v s (fun done => if done then barFound v v.orderScope s { pred := predAll v true } else .done { pred := predAll v false })

theorem exec_btry_body (f : Fields) (s : State) : exec (.btry f) s = runInstr encBtryRow f btryBody s := rfl

/-- BTRY has found nothing yet. -/
def BtryOpen (v : Env) : Prop := v.x.acquiring? = none ∧ ∀ o q w, v.x.prog ≠ .barrier o q w

theorem btryBody_open (h : BtryOpen v) : btryBody v s = barTest v s (fun done =>
    if done then barFound v v.orderScope s { pred := predAll v true } else .done { pred := predAll v false }) := by
  obtain ⟨hacquiring, hfound⟩ := h
  unfold btryBody
  split
  · next t w hw => rw [acquiring_iff.mpr ⟨t, hw⟩] at hacquiring; cases hacquiring
  · next hp => exact absurd hp (hfound _ _ _)
  · rfl

/-- BTRY finds that the phase has completed, now or before it began its acquire. -/
theorem btryBody_completed (h : (BtryOpen v ∧ ∃ o, BarReady v s o ∧ ¬BarSame v o) ∨ ∃ o q w, v.x.prog = .barrier o q w) :
    btryBody v s = barFound v v.orderScope s { pred := predAll v true } := by
  rcases h with ⟨hopen, o, hready, hdiffers⟩ | ⟨o, q, w, hp⟩
  · exact (btryBody_open hopen).trans (barTest_completed hready hdiffers)
  · unfold btryBody
    rw [hp]

theorem btryBody_same (hopen : BtryOpen v) (hready : BarReady v s o) (hsame : BarSame v o) : btryBody v s = .done { pred := predAll v false } :=
  (btryBody_open hopen).trans (barTest_same hready hsame)

theorem btryBody_bad {c : Half} (hopen : BtryOpen v) (hq : v.o.scalar ≤ 1) (h : BarAt v s v.x.mask o) (hc : (v.barObj o).cause = some c) :
    btryBody v s = .raise c 0 v.x.mask :=
  (btryBody_open hopen).trans (barTest_bad hq h hc)

end

/-! ### What ends a wait (R244, R245) -/

/-- What a BWAIT with operand `q` finds of its object: a cause, a phase that has completed, or nothing yet. -/
def Machine.BarObj.waitFinds (y : BarObj) (q : Nat) : Option (Option Half) :=
  match y.cause with
  | some c => some (some c)
  | none => if y.ctrl % 2 = q then none else some none

theorem examine_waiting {x : Slice} {o q : Nat} (w : Memory) (h : x.prog = .barrier o q none) :
    x.examine w = { x with prog := .barrier o q ((w.barObj o).waitFinds q) } := by
  cases hc : (w.barObj o).cause with
  | some c => simp [Slice.examine, BarObj.waitFinds, h, hc]
  | none => simp [Slice.examine, BarObj.waitFinds, h, hc, BarObj.ph]

theorem runInstr_raiseIn {e : Enc} {f : Fields} {s s1 : State} {bid sid : Nat} {b : Block} {x : Slice} {body : Env → State → Res} {c : Half}
    {a : Dword} {m : BitVec 4} (h : Ready e f s bid sid b x) (hb : body (e.env f bid sid b x) s = .raiseIn s1 c a m) :
    runInstr e f body s = .next (s1.trap bid sid c a m f.len false) := by
  have hcur : s.curSlice = some (bid, sid, b, x) := h.cur
  unfold runInstr
  simp only [hcur, h.legal, h.sources, hb, Bool.not_true, Bool.false_eq_true, if_false]

section
variable {i : Fields → Instr} {e : Fields → Enc} {body : Env → State → Res} (he : ∀ f s, exec (i f) s = runInstr (e f) f body s)
include he

/-- An instruction whose meaning raises from a state that it has brought about. -/
theorem raisesIn_env {run : Env → State → State → Half → Dword → BitVec 4 → Prop}
    (hg : ∀ v s s1 c a m, run v s s1 c a m → body v s = .raiseIn s1 c a m) : RaisesIn i e run := by
  intro f s bid sid b x h s1 c a m hr
  rw [he]
  exact runInstr_raiseIn h (hg _ s s1 c a m hr)

end

end Sys2Proof
end

section
/-! SUPPORT. MWAIT and TKW (R248, R249, R270, R273): what each answers by what the slice has noted. -/

namespace Sys2Proof

open Sys2Proof.Machine

/-- What MWAIT and TKW watch: the address and size that their checks cover, and the element, with its condition and type. -/
structure Watched where
  chk : Nat
  size : Nat
  va : Nat
  cond : Nat
  ty : Nat

/-- The scope of the acquire of MWAIT and TKW. -/
def Machine.Env.watchScope (v : Env) : Scope := (scopeOf (v.md % 8)).getD .die

/-- The value of the one element of a fill. -/
def Machine.Fill.only (x : Fill) : Nat := match x.elems with | e :: _ => e.value | [] => 0

namespace Watched

/-- A value meets the condition on the operand. -/
def met (w : Watched) (v : Env) (x : Nat) : Bool := waitCond w.cond w.ty x v.o.v.l0.toNat

/-- The checks and verdicts of the element (R270). -/
def gate (w : Watched) (v : Env) (s : State) : Gate := s.oneElem v w.chk w.size w.size .read v.x.mask

/-- The element read at its home under a monitor. -/
def begin (w : Watched) (v : Env) (ps : List Placed) (s : State) : State × Nat :=
  s.beginFill v [] .g false false
    [{ lane := 0, reg := 0, wide := false, ty := 0, parts := [(0, elemSize w.ty, none)], addr := BitVec.ofNat 64 w.va, shift := 0, fault := none,
       landed := false }]
    (ps.map (fun p => { p with va := w.va, size := elemSize w.ty, place := match p.place with
        | .own d pa leaf => .own d (pa + (w.va - w.chk)) leaf
        | q => q }))
    (fun _ r => { r with op := .watch w.cond w.ty v.o.v.l0, alloc := false, atHome := true })

/-- The read sent, or the wait for the round of an ordered block. -/
def send (w : Watched) (v : Env) (s : State) : Res :=
  match w.gate v s with
  | .stop r => r
  | .go s1 ps =>
    if s1.isOrdered v.b then .wait ((s1.touchAll v ps).atPoint v)
    else .wait ((w.begin v ps s1).1.modSlice v.bid v.sid (fun x => { x with prog := .pending (w.begin v ps s1).2 }))

/-- The read in fill `fid` looked at. -/
def look (w : Watched) (v : Env) (fid : Nat) (s : State) : Res :=
  match s.await fid with
  | .waiting => .wait s
  | .raised c a _ => .raiseIn (s.discardFill fid) c a v.x.mask
  | .ready x =>
    if w.met v x.only then acquireThen v v.watchScope (BitVec.ofNat 64 (fid + 1)) (some fid) s (doing (fun s => s.closeFill fid))
    else if s.monitored v.bid v.sid then .wait s
    else w.send v (s.discardFill fid)

/-- The compare that a round's commit evaluates (R261), on own-package memory. -/
def commitAt (w : Watched) (v : Env) (d pa : Nat) (leaf : Dword) (s : State) : Res :=
  match s.firstPoison d (pa + (w.va - w.chk)) (elemSize w.ty) with
  | some _ => .raiseIn s 0x030C (BitVec.ofNat 64 w.va) v.x.mask
  | none =>
    match s.homeRead d (pa + (w.va - w.chk)) (elemSize w.ty) (leafPol leaf != 3) with
    | (s2, bytes, _) =>
      if w.met v (leNat bytes) then .doneIn (s2.dropVs v.b.die v.b.core (fun _ => true)) {}
      else .wait (s2.atPoint v)

/-- The compare at a round's commit. -/
def commit (w : Watched) (v : Env) (s : State) : Res :=
  match w.gate v s with
  | .stop r => r
  | .go s1 ps => match ps with
    | ⟨_, _, _, _, _, .own d pa leaf⟩ :: _ => w.commitAt v d pa leaf s1
    | _ => .wait s1

/-- The meaning of MWAIT and TKW, by what the slice has noted. -/
def body (w : Watched) (v : Env) (s : State) : Res := watchBody v s v.watchScope w.chk w.size w.va w.cond w.ty v.o.v.l0

theorem body_eq (w : Watched) (v : Env) (s : State) : w.body v s = match v.x.prog with
    | .pending fid => w.look v fid s
    | .acquiring _ x => w.look v (x.toNat - 1) s
    | .satisfied _ => w.commit v s
    | _ => w.send v s := rfl

/-- The slice waits for the read in fill `fid`, or is in the acquire after it. -/
def Looks (v : Env) (fid : Nat) : Prop := v.x.prog = .pending fid ∨ ∃ x, v.x.acquiring? = some x ∧ fid = x.toNat - 1

/-- The slice has begun nothing. -/
def Fresh (v : Env) : Prop := (∀ n, v.x.prog ≠ .pending n) ∧ v.x.acquiring? = none ∧ ∀ n, v.x.prog ≠ .satisfied n

section
variable {w : Watched} {v : Env} {s s1 : State} {ps : List Placed} {fid : Nat} {x : Fill}

theorem body_looks (h : Looks v fid) : w.body v s = w.look v fid s := by
  rw [body_eq]
  rcases h with hp | ⟨x, hx, rfl⟩
  · rw [hp]
  · obtain ⟨t, ht⟩ := acquiring_iff.mp hx
    rw [ht]

theorem body_fresh (h : Fresh v) : w.body v s = w.send v s := by
  obtain ⟨hpending, hacquiring, hsatisfied⟩ := h
  rw [body_eq]
  split
  · next hp => exact absurd hp (hpending _)
  · next t x hx => rw [acquiring_iff.mpr ⟨t, hx⟩] at hacquiring; cases hacquiring
  · next hp => exact absurd hp (hsatisfied _)
  · rfl

theorem body_satisfied (h : ∃ n, v.x.prog = .satisfied n) : w.body v s = w.commit v s := by
  obtain ⟨n, hn⟩ := h
  rw [body_eq, hn]

theorem look_met (h : s.await fid = .ready x) (hm : w.met v x.only = true) :
    w.look v fid s = acquireThen v v.watchScope (BitVec.ofNat 64 (fid + 1)) (some fid) s (doing (fun s => s.closeFill fid)) := by
  unfold look
  simp only [h, hm, if_true]

theorem look_monitored (h : s.await fid = .ready x) (hm : w.met v x.only = false) (ha : s.monitored v.bid v.sid = true) :
    w.look v fid s = .wait s := by
  unfold look
  simp only [h, hm, ha, Bool.false_eq_true, if_false, if_true]

theorem look_again (h : s.await fid = .ready x) (hm : w.met v x.only = false) (ha : s.monitored v.bid v.sid = false) :
    w.look v fid s = w.send v (s.discardFill fid) := by
  unfold look
  simp only [h, hm, ha, Bool.false_eq_true, if_false]

/-- The slice asks for its element: its read is on its way, which it waits for. -/
def Asks (w : Watched) (v : Env) (s s3 : State) : Prop :=
  ∃ s1 ps s2 fid, w.gate v s = .go s1 ps ∧ s1.isOrdered v.b = false ∧ (s2, fid) = w.begin v ps s1 ∧
    s3 = s2.modSlice v.bid v.sid (fun x => { x with prog := .pending fid })

theorem send_ordered (h : w.gate v s = .go s1 ps) (ho : s1.isOrdered v.b = true) : w.send v s = .wait ((s1.touchAll v ps).atPoint v) := by
  unfold send
  simp only [h, ho, if_true]

theorem send_asks {s3 : State} (h : w.Asks v s s3) : w.send v s = .wait s3 := by
  obtain ⟨s1, ps, s2, fid, hgate, hordered, hbegin, rfl⟩ := h
  unfold send
  simp only [hgate, hordered, ← hbegin, Bool.false_eq_true, if_false]

/-- The commit finds the element in own-package memory, on no poisoned sector, and reads `bytes` there. -/
def Commits (w : Watched) (v : Env) (s s2 : State) (met : Bool) : Prop :=
  (∃ n, v.x.prog = .satisfied n) ∧ ∃ s1 p ps d pa leaf bytes st,
    w.gate v s = .go s1 (p :: ps) ∧ p.place = .own d pa leaf ∧ s1.firstPoison d (pa + (w.va - w.chk)) (elemSize w.ty) = none ∧
    s1.homeRead d (pa + (w.va - w.chk)) (elemSize w.ty) (leafPol leaf != 3) = (s2, bytes, st) ∧ w.met v (leNat bytes) = met

theorem body_commits {met : Bool} (h : Commits w v s s1 met) : w.body v s =
    if met then .doneIn (s1.dropVs v.b.die v.b.core (fun _ => true)) {} else .wait (s1.atPoint v) := by
  obtain ⟨hsatisfied, s0, ⟨_, _, _, _, _, place⟩, ps, d, pa, leaf, bytes, st, hgate, rfl, hclean, hread, rfl⟩ := h
  rw [body_satisfied hsatisfied]
  unfold commit commitAt
  simp only [hgate, hclean, hread]

end

/-! ### The instructions -/

section
variable {i : Fields → Instr} {e : Enc} {w : Env → Watched} (he : ∀ f s, exec (i f) s = runInstr e f (fun v s => (w v).body v s) s)
include he

theorem goes_on : DoesIn i (fun _ => e) (fun v s s1 o => ∃ fid x, Looks v fid ∧ s.await fid = .ready x ∧ (w v).met v x.only = true ∧
    s.acquire v v.watchScope (BitVec.ofNat 64 (fid + 1)) (some fid) = (s1, true) ∧ o = doing (fun s => s.closeFill fid)) := by
  refine doesIn_bare (e := fun _ => e) he fun v s s1 o hr => ?_
  obtain ⟨fid, x, hlooks, hready, hmet, hacquire, rfl⟩ := hr
  exact ⟨(body_looks hlooks).trans ((look_met hready hmet).trans (acquireThen_done hacquire)), _, _, rfl⟩

theorem goes_on_at_commit : DoesIn i (fun _ => e) (fun v s s2 o =>
    (∃ s1, (w v).Commits v s s1 true ∧ s2 = s1.dropVs v.b.die v.b.core (fun _ => true)) ∧ o = {}) := by
  refine doesIn_bare (e := fun _ => e) he fun v s s2 o hr => ?_
  obtain ⟨⟨s1, hcommits, rfl⟩, rfl⟩ := hr
  exact ⟨body_commits hcommits, _, _, rfl⟩

theorem waits_at_commit : Waits i (fun _ => e) (fun v s s2 => ∃ s1, (w v).Commits v s s1 false ∧ s2 = s1.atPoint v) := by
  refine waits_env (e := fun _ => e) he fun v s s2 hr => ?_
  obtain ⟨s1, hcommits, rfl⟩ := hr
  exact body_commits hcommits

theorem waits_monitored : Waits i (fun _ => e) (fun v s s1 => s1 = s ∧ ∃ fid x, Looks v fid ∧ s.await fid = .ready x ∧
    (w v).met v x.only = false ∧ s.monitored v.bid v.sid = true) := by
  refine waits_env (e := fun _ => e) he fun v s s1 hr => ?_
  obtain ⟨rfl, fid, x, hlooks, hready, hmet, harmed⟩ := hr
  exact (body_looks hlooks).trans (look_monitored hready hmet harmed)

theorem asks : Waits i (fun _ => e) (fun v s s3 => Fresh v ∧ (w v).Asks v s s3) := by
  refine waits_env (e := fun _ => e) he fun v s s3 hr => ?_
  obtain ⟨hfresh, hasks⟩ := hr
  exact (body_fresh hfresh).trans (send_asks hasks)

theorem asks_again : Waits i (fun _ => e) (fun v s s3 => ∃ fid x, Looks v fid ∧ s.await fid = .ready x ∧ (w v).met v x.only = false ∧
    s.monitored v.bid v.sid = false ∧ (w v).Asks v (s.discardFill fid) s3) := by
  refine waits_env (e := fun _ => e) he fun v s s3 hr => ?_
  obtain ⟨fid, x, hlooks, hready, hmet, hfree, hasks⟩ := hr
  exact (body_looks hlooks).trans ((look_again hready hmet hfree).trans (send_asks hasks))

theorem waits_for_round : Waits i (fun _ => e) (fun v s s2 => Fresh v ∧ ∃ s1 ps, (w v).gate v s = .go s1 ps ∧ s1.isOrdered v.b = true ∧
    s2 = (s1.touchAll v ps).atPoint v) := by
  refine waits_env (e := fun _ => e) he fun v s s2 hr => ?_
  obtain ⟨hfresh, s1, ps, hgate, hordered, rfl⟩ := hr
  exact (body_fresh hfresh).trans (send_ordered hgate hordered)

end

end Watched

end Sys2Proof
end

section
/-! Barriers and monitors (R242 to R249, R268 to R270, R273). -/

namespace Sys2Proof

open Sys2Proof.Machine

/-- What MWAIT watches. -/
def Machine.Env.mwaitOf (v : Env) : Watched :=
  { chk := v.uniAddr, size := elemSize v.ty, va := v.uniAddr, cond := v.md / 16 % 8, ty := v.ty }

/-- What TKW watches: TURN, for equality. -/
def Machine.Env.tkwOf (v : Env) : Watched :=
  { chk := v.uniAddr, size := 8, va := v.uniAddr + 4, cond := 0, ty := 22 }

/-- Settles O21: each barrier instruction answers by its object and by what the slice has noted, and so do MWAIT and TKW by their element. -/
theorem barriersAndMonitors : Obligations.BarriersAndMonitors := by
  unfold Obligations.BarriersAndMonitors
  refine ⟨⟨?binitIdle, ?binit, ?bexpIdle, ?bexp, ?bexpRaises, ?barrIdle, ?barr, ?barrBad, ?barrRaises, ?barrWaits, ?bwait, ?bwaitFound,
    ?bwaitBad, ?bwaitAcquired, ?bwaitWaits, ?examine, ?btry, ?btryFound, ?bwaitNoted, ?btryNoted, ?btrySame, ?btryBad⟩, ?monitors⟩
  case binitIdle => exact givesIf_plain exec_binit_body fun f s bid sid b x _ hc => ⟨binitBody_idle hc, plain_none _ _⟩
  case binit =>
    refine does_of exec_binit_body fun f s bid sid b x _ s1 p hr => ?_
    obtain ⟨rfl, hact, o, hat, rfl⟩ := hr
    exact ⟨rfl, binitBody_at hact hat, plain_none _ _⟩
  case bexpIdle => exact givesIf_plain exec_bexp_body fun f s bid sid b x _ hc => ⟨bexpBody_idle hc, plain_none _ _⟩
  case bexp =>
    refine does_of exec_bexp_body fun f s bid sid b x _ s1 p hr => ?_
    obtain ⟨rfl, hact, o, hat, hcause, hfits, rfl⟩ := hr
    refine ⟨rfl, ((bexpBody_at hact hat).trans (bexpAt_adds hcause hfits)).trans ?_, plain_none _ _⟩
    rw [barObj_test_eq]
    rfl
  case bexpRaises =>
    refine raises_env exec_bexp_body fun v s c a m hr => ?_
    obtain ⟨hact, o, hat, rfl, rfl, hcause | ⟨hcause, hfull, rfl⟩⟩ := hr
    · exact (bexpBody_at hact hat).trans (bexpAt_bad hcause)
    · exact (bexpBody_at hact hat).trans (bexpAt_overflows hcause hfull)
  case barrIdle => exact givesIf_plain exec_barr_body fun f s bid sid b x _ hc => ⟨barrBody_idle hc, plain_none _ _⟩
  case barr =>
    refine doesIn_of exec_barr_body fun f s bid sid b x h s1 p hr => ?_
    obtain ⟨hact, o, ok, hentered, hcause, hrelease, hbytes, hroom, rfl⟩ := hr
    have hout := (barrBody_entered hact hentered).trans (barrAt_arrives hrelease hcause hbytes hroom)
    rw [barObj_test_eq] at hout
    exact ⟨.inl hout, (plain_barrOut _).fits.takes h⟩
  case barrBad =>
    refine raises_env exec_barr_body fun v s c a m hr => ?_
    obtain ⟨hact, hfirst, o, hat, hcause, rfl, rfl⟩ := hr
    exact barrBody_bad hact hfirst hat hcause
  case barrRaises =>
    refine raisesIn_env exec_barr_body fun v s s1 c a m hr => ?_
    obtain ⟨hact, o, ok, hentered, hrelease, rfl, rfl, hcause | ⟨hcause, rfl, hfull⟩⟩ := hr
    · exact (barrBody_entered hact hentered).trans (barrAt_bad hrelease hcause)
    · exact (barrBody_entered hact hentered).trans (barrAt_overflows hrelease hcause hfull)
  case barrWaits =>
    refine waits_env exec_barr_body fun v s s1 hr => ?_
    obtain ⟨hact, o, hentered, hrelease⟩ := hr
    exact (barrBody_entered hact hentered).trans (barrAt_waits hrelease)
  case bwait =>
    refine doesIn_bare exec_bwait_body fun v s s1 p hr => ?_
    obtain ⟨hopen, hready, hacquire, rfl⟩ := hr
    exact ⟨(bwaitBody_completed (.inl ⟨hopen, hready⟩)).trans (barFound_done hacquire), _, _, rfl⟩
  case bwaitFound =>
    refine doesIn_bare exec_bwait_body fun v s s1 p hr => ?_
    obtain ⟨hfound, hacquire, rfl⟩ := hr
    exact ⟨(bwaitBody_completed (.inr hfound)).trans (barFound_done hacquire), _, _, rfl⟩
  case bwaitBad =>
    refine raises_env exec_bwait_body fun v s c a m hr => ?_
    obtain ⟨hfound, rfl, rfl⟩ := hr
    exact bwaitBody_bad hfound
  case bwaitAcquired =>
    refine doesIn_bare exec_bwait_body fun v s s1 p hr => ?_
    obtain ⟨w, hw, hacquire, rfl⟩ := hr
    exact ⟨(bwaitBody_acquiring hw).trans (acquireThen_done hacquire), _, _, rfl⟩
  case bwaitWaits =>
    refine waits_env exec_bwait_body fun v s s1 hr => ?_
    obtain ⟨hopen, o, hready, hsame, rfl⟩ := hr
    exact bwaitBody_waits hopen hready hsame
  case examine => exact fun x w o q h => examine_waiting w h
  case btry =>
    refine doesIn_bare exec_btry_body fun v s s1 p hr => ?_
    obtain ⟨⟨hopen, hready⟩, hacquire, rfl⟩ := hr
    exact ⟨(btryBody_completed (.inl ⟨hopen, hready⟩)).trans (barFound_done hacquire), _, _, rfl⟩
  case btryFound =>
    refine doesIn_bare exec_btry_body fun v s s1 p hr => ?_
    obtain ⟨hfound, hacquire, rfl⟩ := hr
    exact ⟨(btryBody_completed (.inr hfound)).trans (barFound_done hacquire), _, _, rfl⟩
  case bwaitNoted =>
    refine waits_env exec_bwait_body fun v s s1 hr => ?_
    obtain ⟨hfound, s2, hacquire, rfl⟩ := hr
    exact (bwaitBody_completed hfound).trans (barFound_waits hacquire)
  case btryNoted =>
    refine waits_env exec_btry_body fun v s s1 hr => ?_
    obtain ⟨hfound, s2, hacquire, rfl⟩ := hr
    refine (btryBody_completed (hfound.imp_left fun h => ?_)).trans (barFound_waits hacquire)
    exact h
  case btrySame =>
    refine does_of exec_btry_body fun f s bid sid b x _ s1 p hr => ?_
    obtain ⟨rfl, hopen, ⟨o, hready, hsame⟩, rfl⟩ := hr
    exact ⟨rfl, btryBody_same hopen hready hsame, .inl rfl, rfl, rfl, fun _ _ => rfl⟩
  case btryBad =>
    refine raises_env exec_btry_body fun v s c a m hr => ?_
    obtain ⟨hopen, hparity, o, hat, hcause, rfl, rfl⟩ := hr
    exact btryBody_bad hopen hparity hat hcause
  case monitors =>
    intro mwait tkw base clauses
    have watched : ∀ (i : Fields → Instr) (e : Enc) (w : Env → Watched), (∀ f s, exec (i f) s = runInstr e f (fun v s => (w v).body v s) s) →
        clauses i e (fun v => (w v).chk) (fun v => (w v).va) (fun v => (w v).cond) (fun v => (w v).ty) (fun v => (w v).size) :=
      fun i e w he => ⟨Watched.goes_on he, Watched.goes_on_at_commit he, Watched.waits_at_commit he, Watched.waits_monitored he, Watched.asks he,
        Watched.asks_again he, Watched.waits_for_round he⟩
    exact ⟨watched .mwait mwait Env.mwaitOf (fun _ _ => rfl), watched .tkw tkw Env.tkwOf (fun _ _ => rfl)⟩

end Sys2Proof
end

section
/-! SUPPORT. The new element of each read-modify-write (R267, R271). -/

namespace Sys2Proof

open Sys2Proof.Machine

section
variable {t old v c : Nat} (hold : old < 2 ^ typeBits t) (hv : v < 2 ^ typeBits t) (hc : c < 2 ^ typeBits t)
include hold hv

theorem rmwNew_add (hi : typeFP t = false) : rmwNew 0 t old v c = (old + v) % 2 ^ typeBits t := by
  simp [rmwNew, Nat.mod_eq_of_lt hold, Nat.mod_eq_of_lt hv, hi]

theorem rmwNew_min (hi : typeFP t = false) : rmwNew 4 t old v c = if elemInt t v < elemInt t old then v else old := by
  simp [rmwNew, intMinMax, Nat.mod_eq_of_lt hold, Nat.mod_eq_of_lt hv, hi]

theorem rmwNew_max (hi : typeFP t = false) : rmwNew 5 t old v c = if elemInt t old ≤ elemInt t v then v else old := by
  simp [rmwNew, intMinMax, Nat.mod_eq_of_lt hold, Nat.mod_eq_of_lt hv, hi]

theorem rmwNew_and : rmwNew 1 t old v c = old &&& v := by simp [rmwNew, Nat.mod_eq_of_lt hold, Nat.mod_eq_of_lt hv]

theorem rmwNew_or : rmwNew 2 t old v c = old ||| v := by simp [rmwNew, Nat.mod_eq_of_lt hold, Nat.mod_eq_of_lt hv]

theorem rmwNew_xor : rmwNew 3 t old v c = old ^^^ v := by simp [rmwNew, Nat.mod_eq_of_lt hold, Nat.mod_eq_of_lt hv]

omit hold in
theorem rmwNew_swap : rmwNew 6 t old v c = v := by simp [rmwNew, Nat.mod_eq_of_lt hv]

/-- BINC stays below its bound, so that it does not wrap. -/
theorem rmwNew_binc : rmwNew opBinc t old v c = if old < v then old + 1 else old := by
  have hnext : old < v → (old + 1) % 2 ^ typeBits t = old + 1 := fun h => Nat.mod_eq_of_lt (Nat.lt_of_le_of_lt h hv)
  simp +contextual [rmwNew, opBinc, Nat.mod_eq_of_lt hold, Nat.mod_eq_of_lt hv, hnext]

theorem rmwNew_winc : rmwNew opWinc t old v c = if v ≤ old then 0 else old + 1 := by
  simp [rmwNew, opWinc, Nat.mod_eq_of_lt hold, Nat.mod_eq_of_lt hv]

omit hv in
theorem rmwNew_decz : rmwNew opDecz t old v c = if 0 < old then old - 1 else old := by
  simp only [rmwNew, opDecz, Nat.mod_eq_of_lt hold]
  split <;> split <;> omega

include hc

theorem rmwNew_cas : rmwNew 7 t old v c = if old = v then c else old := by
  simp [rmwNew, Nat.mod_eq_of_lt hold, Nat.mod_eq_of_lt hv, Nat.mod_eq_of_lt hc]

theorem rmwNew_faddl : rmwNew opFaddl t old v c = if old + v ≤ c then old + v else old := by
  simp [rmwNew, opFaddl, Nat.mod_eq_of_lt hold, Nat.mod_eq_of_lt hv, Nat.mod_eq_of_lt hc]

theorem faddlOk_eq : faddlOk t old v c = decide (old + v ≤ c) := by
  simp [faddlOk, Nat.mod_eq_of_lt hold, Nat.mod_eq_of_lt hv, Nat.mod_eq_of_lt hc]

end

end Sys2Proof
end

section
/-! SUPPORT. The shared procedure of the RMWs (R251 to R254, R260, R271): its courses, by what the slice has noted. -/

namespace Sys2Proof

open Sys2Proof.Machine

namespace Machine.RmwReq

/-! ### The procedure in parts -/

/-- The release before any element is sent (R253). -/
def releases (q : RmwReq) (v : Env) (s : State) : State × Option Bool := if q.rel then s.release v q.scope else (s, some true)

/-- The registers that an RMW returns to. -/
def regs (q : RmwReq) (v : Env) : List Nat := if typeWide q.ty then [v.f.dst.toNat, v.f.dst.toNat + 1] else [v.f.dst.toNat]

/-- An RMW without active lanes, after its release. -/
def idle (q : RmwReq) (v : Env) (mk : Fill → Out) (s : State) : Res :=
  let o := if q.returns then mk (noFill v) else {}
  if q.acq then acquireThen v q.scope 0 none s o else .doneIn s o

/-- An RMW that has its results at once and is held until it completes. -/
def heldNow (q : RmwReq) (v : Env) (mk : Fill → Out) (precise counted : Bool) (es : List MElem) (rs : List (Option (Nat × Bool)))
    (s : State) : Res :=
  let r := q.startHold v counted s (q.knownElems v.f.dst.toNat es rs) [] es
  q.finish v mk precise r.2 r.1

/-- What an RMW on the scratchpad gives where its registers become pending. -/
def windowOut (q : RmwReq) (v : Env) (ws : List MElem) : Out :=
  { fills := q.regs v, fillTag := .g, eff := fun s =>
      let r := q.allOnWindow v.sid ((s.blocks.get? v.bid).getD v.b) ws
      ((s.modBlock v.bid (fun _ => r.1)).beginFill v (q.regs v) .g false false (q.knownElems v.f.dst.toNat ws (r.2.map some)) [] (fun _ r => r)).1 }

/-- An RMW on the scratchpad, in its turn and after its release. -/
def onScratch (q : RmwReq) (v : Env) (mk : Fill → Out) (precise counted : Bool) (ws : List MElem) (s : State) : Res :=
  match pickFail (v.b.winPoisoned ws) with
  | some (c, a, ls) => .raiseIn (s.modBlock v.bid (fun b => (q.allOnWindow v.sid b (v.b.winClean ws)).1)) c a ls
  | none =>
    if ws.isEmpty then q.idle v mk s
    else if !q.returns then .doneIn s { eff := fun s => (s.countIssue v false 0).modBlock v.bid (fun b => (q.allOnWindow v.sid b ws).1) }
    else if q.hold then
      q.heldNow v mk precise counted ws ((q.allOnWindow v.sid v.b ws).2.map some) (s.modBlock v.bid (fun _ => (q.allOnWindow v.sid v.b ws).1))
    else .doneIn s (q.windowOut v ws)

/-- An RMW on the scratchpad that has begun nothing. -/
def scratch (q : RmwReq) (v : Env) (mk : Fill → Out) (precise counted : Bool) (es : List MElem) (s : State) : Res :=
  match s.winGate v q.align (es.map (fun e => (e.lane, 0, (e.va : Int)))) with
  | .stop r => r
  | .go ws => match q.releases v s with
    | (s1, none) => .wait s1
    | (s1, some _) => if v.behind then .wait s1 else q.onScratch v mk precise counted ws s1

/-- Some element of an ordered block lies on a shared line, and the RMW is a round point there (R260). -/
def atPoint (q : RmwReq) (v : Env) (s : State) (ps : List Placed) : Bool :=
  s.isOrdered v.b && q.point && ps.any (fun p => match p.place with
    | .own d pa _ => !s.isPrivate v.b d pa
    | _ => false)

/-- The elements of an RMW's fill, of which nothing is known yet. -/
def asked (q : RmwReq) (v : Env) (es : List MElem) : List FillElem := es.map (fun e => q.fillElem v.f.dst.toNat e none)

/-- What a global RMW gives where its registers become pending. -/
def sentOut (q : RmwReq) (v : Env) (counted : Bool) (es : List MElem) (ps : List Placed) : Out :=
  { fills := q.regs v, fillTag := .g, eff := fun s =>
      (((giveUp v ps s).modSlice v.bid v.sid (fun x => x.blankFill (q.regs v) v.act)).beginFill v (q.regs v) .g false counted (q.asked v es) ps
        (fun p r => { q.request v s p (es.getD p.e default).lane with fill := r.fill })).1 }

/-- A global RMW that returns, in its turn: `ord` where its block is ordered. -/
def fetches (q : RmwReq) (v : Env) (mk : Fill → Out) (precise counted ord : Bool) (es : List MElem) (ps : List Placed) (s : State) : Res :=
  if v.behind || (counted && !s.counterRoom v true) then .wait s
  else if ord && s.logFull v ps then .raiseIn s 0x0604 0 v.act
  else if ord then q.heldNow v mk precise counted es (q.performNow v false es ps s).2 ((q.performNow v false es ps s).1.touchAll v ps)
  else if !s.sendRoom v ps then .wait s
  else if q.hold then .wait (q.startHold v counted (giveUp v ps s) (q.asked v es) ps es).1
  else .doneIn s (q.sentOut v counted es ps)

/-- A global RMW whose elements have passed their checks in `s0`, after its release. -/
def sends (q : RmwReq) (v : Env) (mk : Fill → Out) (precise counted : Bool) (es : List MElem) (ps : List Placed) (s0 s : State) : Res :=
  if es.isEmpty then q.idle v mk s
  else if q.atPoint v s0 ps then .wait ((s.touchAll v ps).atPoint v)
  else if !q.returns then
    if s0.isOrdered v.b && s.logFull v ps then .raiseIn s 0x0604 0 v.act
    else if !s.storeRoom v || !s.sendRoom v ps || (q.unordered && s.ownBusy v ps) then .wait s
    else .doneIn s { eff := q.perform v (s0.isOrdered v.b) es ps }
  else q.fetches v mk precise counted (s0.isOrdered v.b) es ps s

/-- The slice's round has been committed. -/
def atCommit (v : Env) : Bool := match v.x.prog with | .satisfied _ => true | _ => false

/-- A global RMW that has begun nothing, or whose round has been committed. -/
def global (q : RmwReq) (v : Env) (mk : Fill → Out) (precise counted : Bool) (es : List MElem) (s : State) : Res :=
  match s.checkGlobal v { align := q.align, rmw := true } .rmw false es with
  | .stop r => r
  | .go s0 ps =>
    if atCommit v then q.heldNow v mk precise counted es (q.performNow v true es ps s0).2 ((q.performNow v true es ps s0).1.touchAll v ps)
    else match q.releases v s0 with
      | (s1, none) => .wait s1
      | (s1, some _) => q.sends v mk precise counted es ps s0 s1

section
variable {q : RmwReq} {v : Env} {mk : Fill → Out} {precise counted : Bool} {es ws : List MElem} {ps : List Placed}
  {rs : List (Option (Nat × Bool))} {s s0 s1 s2 : State} {fid : Nat} {o : Out}

theorem body_eq : q.body v mk precise counted es s = match v.x.prog with
    | .pending fid => q.finish v mk precise fid s
    | .acquiring _ w =>
      if w = 0 then acquireThen v q.scope 0 none s (if q.returns then mk (noFill v) else {}) else q.finish v mk precise (w.toNat - 1) s
    | _ => if q.win then q.scratch v mk precise counted es s else q.global v mk precise counted es s := rfl

theorem body_ends (hw : WaitsFor v fid) (h : RmwEnds q v mk s fid s1 o) : q.body v mk precise counted es s = .doneIn s1 o := by
  rw [body_eq]
  rcases hw with hp | ⟨w, hp, hw0, rfl⟩
  · rw [hp]
    exact finish_done h
  · obtain ⟨t, ht⟩ := acquiring_iff.mp hp
    rw [ht]
    exact (if_neg hw0).trans (finish_done h)

theorem body_acquired (hp : v.x.acquiring? = some 0) (h : s.acquire v q.scope 0 none = (s1, true)) :
    q.body v mk precise counted es s = .doneIn s1 (if q.returns then mk (noFill v) else {}) := by
  obtain ⟨t, ht⟩ := acquiring_iff.mp hp
  rw [body_eq, ht]
  exact (if_pos rfl).trans (acquireThen_done h)

theorem body_begins (h : NotBegun v) : q.body v mk precise counted es s =
    if q.win then q.scratch v mk precise counted es s else q.global v mk precise counted es s := by
  obtain ⟨hpending, hacquiring⟩ := h
  rw [body_eq]
  split
  · next hp => exact absurd hp (hpending _)
  · next t w hw => rw [acquiring_iff.mpr ⟨t, hw⟩] at hacquiring; cases hacquiring
  · rfl

theorem releases_of_released (h : Released q v s s1) : ∃ ok, q.releases v s = (s1, some ok) := by
  unfold Released at h
  unfold releases
  split at h
  · next hrel => rwa [if_pos hrel]
  · next hrel => exact ⟨true, by rw [if_neg hrel, h]⟩

theorem heldNow_ends (hh : q.startHold v counted s (q.knownElems v.f.dst.toNat es rs) [] es = (s1, fid)) (h : RmwEnds q v mk s1 fid s2 o) :
    q.heldNow v mk precise counted es rs s = .doneIn s2 o := by
  unfold heldNow
  rw [hh]
  exact finish_done h

theorem idle_done (h : if q.acq then s.acquire v q.scope 0 none = (s1, true) else s1 = s) :
    q.idle v mk s = .doneIn s1 (if q.returns then mk (noFill v) else {}) := by
  unfold idle
  split at h
  · next hacq => exact (if_pos hacq).trans (acquireThen_done h)
  · next hacq => rw [h]; exact if_neg hacq

/-! ### On the scratchpad -/

/-- An RMW on the scratchpad begins: its elements `ws` lie in the window and on no poisoned line, and it is its slice's turn. -/
def Scratch (q : RmwReq) (v : Env) (es : List MElem) (s : State) (ws : List MElem) : Prop :=
  NotBegun v ∧ q.win = true ∧ s.winGate v q.align (es.map (fun e => (e.lane, 0, (e.va : Int)))) = .go ws ∧
    pickFail (v.b.winPoisoned ws) = none ∧ v.behind = false

theorem body_scratch (h : q.Scratch v es s ws) (hr : Released q v s s1) :
    q.body v mk precise counted es s = q.onScratch v mk precise counted ws s1 := by
  obtain ⟨hnew, hwin, hgate, -, hturn⟩ := h
  obtain ⟨ok, hrelease⟩ := releases_of_released hr
  rw [body_begins hnew, if_pos hwin]
  unfold scratch
  simp only [hgate, hrelease, hturn, Bool.false_eq_true, if_false]

section
variable (h : q.Scratch v es s ws) (hne : ws ≠ []) (hret : q.returns = true)
include h hne hret

theorem onScratch_load (hh : q.hold = false) : q.onScratch v mk precise counted ws s1 = .doneIn s1 (q.windowOut v ws) := by
  obtain ⟨-, -, -, hclean, -⟩ := h
  unfold onScratch
  simp only [hclean, List.isEmpty_eq_false_iff.mpr hne, hret, hh, Bool.not_true, Bool.false_eq_true, if_false]

theorem onScratch_hold (hh : q.hold = true) : q.onScratch v mk precise counted ws s1 =
    q.heldNow v mk precise counted ws ((q.allOnWindow v.sid v.b ws).2.map some)
      (s1.modBlock v.bid (fun _ => (q.allOnWindow v.sid v.b ws).1)) := by
  obtain ⟨-, -, -, hclean, -⟩ := h
  unfold onScratch
  simp only [hclean, List.isEmpty_eq_false_iff.mpr hne, hret, hh, Bool.not_true, Bool.false_eq_true, if_false, if_true]

end

/-! ### On global memory -/

/-- A global RMW begins, or goes on after its round: its elements have passed their checks. -/
def Global (q : RmwReq) (v : Env) (es : List MElem) (s s1 : State) (ps : List Placed) : Prop :=
  NotBegun v ∧ q.win = false ∧ s.checkGlobal v { align := q.align, rmw := true } .rmw false es = .go s1 ps

theorem atCommit_iff : atCommit v = true ↔ ∃ n, v.x.prog = .satisfied n := by
  unfold atCommit
  split
  · next n hn => simp [hn]
  · next hn => simpa using fun n h => hn n h

/-- R260 in terms of the elements. -/
theorem atPoint_iff : q.atPoint v s ps = true ↔ s.isOrdered v.b = true ∧ q.point = true ∧
    ∃ p ∈ ps, ∃ d pa leaf, p.place = .own d pa leaf ∧ s.isPrivate v.b d pa = false := by
  have hshared : ∀ p : Placed, (match p.place with | .own d pa _ => !s.isPrivate v.b d pa | _ => false) = true ↔
      ∃ d pa leaf, p.place = .own d pa leaf ∧ s.isPrivate v.b d pa = false := fun p => by
    cases p.place <;> simp
  unfold atPoint
  rw [Bool.and_eq_true, Bool.and_eq_true, List.any_eq_true, and_assoc]
  exact and_congr_right fun _ => and_congr_right fun _ => exists_congr fun p => and_congr_right fun _ => hshared p

theorem body_global (h : q.Global v es s s1 ps) (hc : ¬∃ n, v.x.prog = .satisfied n) (hr : Released q v s1 s2) :
    q.body v mk precise counted es s = q.sends v mk precise counted es ps s1 s2 := by
  obtain ⟨hnew, hwin, hcheck⟩ := h
  obtain ⟨ok, hrelease⟩ := releases_of_released hr
  have hround : atCommit v = false := Bool.eq_false_iff.mpr (mt atCommit_iff.mp hc)
  rw [body_begins hnew, if_neg (Bool.eq_false_iff.mp hwin)]
  unfold global
  simp only [hcheck, hround, hrelease, Bool.false_eq_true, if_false]

theorem body_commit (h : q.Global v es s s1 ps) (hc : ∃ n, v.x.prog = .satisfied n) (hp : q.performNow v true es ps s1 = (s2, rs)) :
    q.body v mk precise counted es s = q.heldNow v mk precise counted es rs (s2.touchAll v ps) := by
  obtain ⟨hnew, hwin, hcheck⟩ := h
  rw [body_begins hnew, if_neg (Bool.eq_false_iff.mp hwin)]
  unfold global
  simp only [hcheck, atCommit_iff.mpr hc, hp, if_true]

theorem sends_nil (hnone : es = []) : q.sends v mk precise counted es ps s0 s = q.idle v mk s := by
  rw [hnone]
  rfl

theorem sends_point (hne : es ≠ []) (hp : q.atPoint v s0 ps = true) :
    q.sends v mk precise counted es ps s0 s = .wait ((s.touchAll v ps).atPoint v) := by
  unfold sends
  simp only [List.isEmpty_eq_false_iff.mpr hne, hp, Bool.false_eq_true, if_false, if_true]

section
variable (hne : es ≠ []) (hret : q.returns = true)
include hne hret

theorem sends_fetches (hp : ¬q.atPoint v s0 ps = true) :
    q.sends v mk precise counted es ps s0 s = q.fetches v mk precise counted (s0.isOrdered v.b) es ps s := by
  unfold sends
  simp only [List.isEmpty_eq_false_iff.mpr hne, if_neg hp, hret, Bool.not_true, Bool.false_eq_true, if_false]

variable (h : q.Global v es s s1 ps) (hc : ¬∃ n, v.x.prog = .satisfied n) (hr : Released q v s1 s2)
include h hc hr

theorem body_unordered (ho : s1.isOrdered v.b = false) : q.body v mk precise counted es s = q.fetches v mk precise counted false es ps s2 := by
  have hpoint : ¬q.atPoint v s1 ps = true := fun hp => by
    obtain ⟨hordered, -⟩ := atPoint_iff.mp hp
    rw [ho] at hordered
    cases hordered
  rw [body_global h hc hr, sends_fetches hne hret hpoint, ho]

theorem body_private (ho : s1.isOrdered v.b = true) (hp : ¬(s1.isOrdered v.b = true ∧ q.point = true ∧
      ∃ p ∈ ps, ∃ d pa leaf, p.place = .own d pa leaf ∧ s1.isPrivate v.b d pa = false)) :
    q.body v mk precise counted es s = q.fetches v mk precise counted true es ps s2 := by
  rw [body_global h hc hr, sends_fetches hne hret (mt atPoint_iff.mp hp), ho]

end

section
variable (hturn : v.behind = false) (hroom : counted = true → s.counterRoom v true = true)
include hturn hroom

theorem fetches_room : (v.behind || (counted && !s.counterRoom v true)) = false := by simpa [hturn] using hroom

theorem fetches_private (hlog : s.logFull v ps = false) (hp : q.performNow v false es ps s = (s1, rs)) :
    q.fetches v mk precise counted true es ps s = q.heldNow v mk precise counted es rs (s1.touchAll v ps) := by
  unfold fetches
  simp only [fetches_room hturn hroom, hlog, hp, Bool.and_false, Bool.false_eq_true, if_false, if_true]

theorem fetches_load (hsend : s.sendRoom v ps = true) (hh : q.hold = false) :
    q.fetches v mk precise counted false es ps s = .doneIn s (q.sentOut v counted es ps) := by
  unfold fetches
  simp only [fetches_room hturn hroom, hsend, hh, Bool.false_and, Bool.not_true, Bool.false_eq_true, if_false]

theorem fetches_hold (hsend : s.sendRoom v ps = true) (hh : q.hold = true) : q.fetches v mk precise counted false es ps s =
    .wait (q.startHold v counted (giveUp v ps s) (q.asked v es) ps es).1 := by
  unfold fetches
  simp only [fetches_room hturn hroom, hsend, hh, Bool.false_and, Bool.not_true, Bool.false_eq_true, if_false, if_true]

end

end

end Machine.RmwReq

end Sys2Proof
end

section
/-! SUPPORT. The RMWs that return the old values (R251 to R254, R271, R272), from the shared procedure. -/

namespace Sys2Proof

open Sys2Proof.Machine

/-- The request of an RMW of R266 that returns. -/
abbrev fetchReq (op : Env → Nat) (waits : Bool) (v : Env) : RmwReq := rmwReq (op v) true waits false true v

/-- An RMW of R266 that returns: its row, its operation, whether it always waits for its results, what it makes of them and its alignment. -/
structure Returning (i : Fields → Instr) (e : Fields → Enc) (op : Env → Nat) (waits : Bool) (mk : RmwReq → Env → Fill → Out) (n : Env → Nat) :
    Prop where
  run : ∀ f s, exec (i f) s = runInstr (e f) f (fun v s => rmwOf (op v) true waits false true mk v s) s
  dst : ∀ f, (e f).dst = .ty
  clears : ∀ f, clearsLatches (e f).opc f.y = true
  lanes : ∀ q v y, ∃ pred, mk q v y = { q.lanesOut v y with pred := pred }
  align : ∀ v, (fetchReq op waits v).align = n v

/-- The elements of an RMW of R266. -/
def Machine.Env.rmwAll (v : Env) : List MElem := v.rmwElems (bitOf v.md 5) (elemSize v.ty)

/-- An RMW of R266 goes by the shared procedure where no element on the scratchpad is misaligned. -/
theorem rmwOf_eq {op : Nat} {returns waits unordered point : Bool} {mk : RmwReq → Env → Fill → Out} {v : Env} {s : State}
    (h : bitOf v.md 5 = true → v.x.prog = .fresh →
      v.winMisaligned (rmwReq op returns waits unordered point v).align (rmwReq op returns waits unordered point v).align = none) :
    rmwOf op returns waits unordered point mk v s =
      (rmwReq op returns waits unordered point v).body v (mk (rmwReq op returns waits unordered point v) v) waits (!bitOf v.md 5) v.rmwAll s := by
  have hnone : (if (rmwReq op returns waits unordered point v).win && v.x.prog = .fresh then
      v.winMisaligned (rmwReq op returns waits unordered point v).align (rmwReq op returns waits unordered point v).align else none) = none := by
    split
    · next hw => exact h (Bool.and_eq_true_iff.mp hw).1 (of_decide_eq_true (Bool.and_eq_true_iff.mp hw).2)
    · rfl
  unfold rmwOf
  simp only [hnone]
  rfl

theorem acquiring_begun {v : Env} {w : Dword} (h : v.x.acquiring? = some w) : v.x.prog ≠ .fresh := by
  obtain ⟨t, ht⟩ := acquiring_iff.mp h
  simp [ht]

theorem waitsFor_begun {v : Env} {fid : Nat} (h : WaitsFor v fid) : v.x.prog ≠ .fresh := by
  rcases h with hp | ⟨w, hw, -, -⟩
  · simp [hp]
  · exact acquiring_begun hw

namespace Returning

variable {i : Fields → Instr} {e : Fields → Enc} {op : Env → Nat} {waits : Bool} {mk : RmwReq → Env → Fill → Out} {n : Env → Nat}
  (h : Returning i e op waits mk n) {f : Fields} {s : State} {bid sid : Nat} {b : Block} {x : Slice}
include h

theorem begins {v : Env} (hpre : bitOf v.md 5 = true → v.winMisaligned (n v) (n v) = none) : rmwOf (op v) true waits false true mk v s =
    (fetchReq op waits v).body v (mk (fetchReq op waits v) v) waits (!bitOf v.md 5) v.rmwAll s :=
  rmwOf_eq fun hwin _ => by rw [h.align]; exact hpre hwin

omit h in
theorem begun {v : Env} (hprog : v.x.prog ≠ .fresh) : rmwOf (op v) true waits false true mk v s =
    (fetchReq op waits v).body v (mk (fetchReq op waits v) v) waits (!bitOf v.md 5) v.rmwAll s :=
  rmwOf_eq fun _ hfresh => absurd hfresh hprog

/-- What the instruction writes is one result for its destination. -/
theorem takes_lanes (hready : Ready (e f) f s bid sid b x) (q : RmwReq) (hq : q.ty = (e f).typeOf f x.mode) (y : Fill) (eff : State → State) :
    Takes f x { mk q ((e f).env f bid sid b x) y with eff := eff } := by
  obtain ⟨pred, hmk⟩ := h.lanes q ((e f).env f bid sid b x) y
  have hspan : (if typeWide q.ty then 2 else 1) ≤ (e f).dst.span ((e f).typeOf f x.mode) f := by rw [h.dst, hq]; exact le_rfl
  rw [hmk]
  exact (Plain.fits ⟨.inr ⟨_, rfl, rfl, hspan⟩, rfl, rfl, fun _ _ => rfl⟩).takes hready

/-- The registers that it makes pending are its destination's. -/
theorem takes_fills (hready : Ready (e f) f s bid sid b x) (q : RmwReq) (hq : q.ty = (e f).typeOf f x.mode) (eff : State → State) :
    Takes f x { fills := q.regs ((e f).env f bid sid b x), fillTag := .g, eff := eff } := by
  have hspan : (e f).dst.span ((e f).typeOf f x.mode) f = if typeWide q.ty then 2 else 1 := by rw [h.dst, hq]; rfl
  refine (Filling.fits (e := e f) ⟨rfl, rfl, fun _ _ => rfl, ?_, ?_⟩ (hready.n_false (h.clears f))).takes hready
  · rw [hspan]
    unfold RmwReq.regs
    cases typeWide q.ty <;> rfl
  · rw [hspan]
    split <;> decide

theorem takes_ends (hready : Ready (e f) f s bid sid b x) {t s1 : State} {fid : Nat} {o : Out}
    (hends : RmwEnds (fetchReq op waits ((e f).env f bid sid b x)) ((e f).env f bid sid b x)
      (mk (fetchReq op waits ((e f).env f bid sid b x)) ((e f).env f bid sid b x)) t fid s1 o) : Takes f x o := by
  obtain ⟨y, -, -, -, -, rfl⟩ := hends
  exact h.takes_lanes hready _ rfl y _

/-- So is what it writes without active lanes. -/
theorem takes_idle (hready : Ready (e f) f s bid sid b x) :
    Takes f x (if (fetchReq op waits ((e f).env f bid sid b x)).returns then
      mk (fetchReq op waits ((e f).env f bid sid b x)) ((e f).env f bid sid b x) (noFill ((e f).env f bid sid b x)) else {}) := by
  have hret : (fetchReq op waits ((e f).env f bid sid b x)).returns = true := rfl
  rw [if_pos hret]
  exact h.takes_lanes hready _ rfl (noFill _) (mk _ _ _).eff

end Returning

end Sys2Proof
end

section
/-! Read-modify-writes that return (R251 to R254, R260, R267, R271, R272). -/

namespace Sys2Proof

open Sys2Proof.Machine

/-- A returning RMW goes as the shared procedure does. -/
theorem Returning.rmwDoes {i : Fields → Instr} {e : Fields → Enc} {op : Env → Nat} {waits : Bool} {mk : RmwReq → Env → Fill → Out} {n : Env → Nat}
    (h : Returning i e op waits mk n) : RmwDoes i e (fetchReq op waits) (fun v => mk (fetchReq op waits v) v) (fun v => !bitOf v.md 5) Env.rmwAll
      (fun v s s0 => s0 = s ∧ (bitOf v.md 5 = true → v.winMisaligned (n v) (n v) = none)) := by
  refine ⟨?ends, ?scratchOnly, ?scratch, ?scratchHold, ?sentOnly, ?sent, ?sentHold, ?onPrivate, ?point, ?commit, ?idle, ?acquired⟩
  case ends =>
    refine doesIn_of (fun f s => h.run f s) fun f s bid sid b x hready s1 o hr => ?_
    obtain ⟨-, fid, hw, hends⟩ := hr
    exact ⟨.inl ((Returning.begun (waitsFor_begun hw)).trans (RmwReq.body_ends hw hends)), h.takes_ends hready hends⟩
  case scratchOnly =>
    refine doesIn_of (fun f s => h.run f s) fun f s bid sid b x hready s1 o hr => ?_
    obtain ⟨s0, ws, -, -, -, hret, -⟩ := hr
    cases hret
  case scratch =>
    refine doesIn_of (fun f s => h.run f s) fun f s bid sid b x hready s1 o hr => ?_
    obtain ⟨s0, ws, ⟨hnew, hwin, ⟨rfl, hpre⟩, hgate, hclean, hturn⟩, hne, hrel, hret, hhold, rfl⟩ := hr
    have hscratch := (⟨hnew, hwin, hgate, hclean, hturn⟩ : RmwReq.Scratch _ _ _ _ _)
    exact ⟨.inl ((h.begins hpre).trans ((RmwReq.body_scratch hscratch hrel).trans (RmwReq.onScratch_load hscratch hne hret hhold))),
      h.takes_fills hready _ rfl _⟩
  case scratchHold =>
    refine doesIn_of (fun f s => h.run f s) fun f s bid sid b x hready s3 o hr => ?_
    obtain ⟨s0, s1, s2, ws, fid, ⟨hnew, hwin, ⟨rfl, hpre⟩, hgate, hclean, hturn⟩, hne, hrel, hret, hhold, hheld, hends⟩ := hr
    have hscratch := (⟨hnew, hwin, hgate, hclean, hturn⟩ : RmwReq.Scratch _ _ _ _ _)
    exact ⟨.inl ((h.begins hpre).trans ((RmwReq.body_scratch hscratch hrel).trans ((RmwReq.onScratch_hold hscratch hne hret hhold).trans
      (RmwReq.heldNow_ends hheld.symm hends)))), h.takes_ends hready hends⟩
  case sentOnly =>
    refine doesIn_of (fun f s => h.run f s) fun f s bid sid b x hready s2 o hr => ?_
    obtain ⟨s1, ps, -, -, -, -, -, hret, -⟩ := hr
    cases hret
  case sent =>
    refine doesIn_of (fun f s => h.run f s) fun f s bid sid b x hready s2 o hr => ?_
    obtain ⟨s1, ps, ⟨hnew, hwin, s0, ⟨rfl, hpre⟩, hcheck⟩, hround, hrel, hne, hordered, hturn, hret, hhold, hroom, hsend, rfl⟩ := hr
    exact ⟨.inl ((h.begins hpre).trans ((RmwReq.body_unordered hne hret ⟨hnew, hwin, hcheck⟩ hround hrel hordered).trans
      (RmwReq.fetches_load hturn hroom hsend hhold))), h.takes_fills hready _ rfl _⟩
  case sentHold =>
    refine waits_of (fun f s => h.run f s) fun f s bid sid b x hready s3 hr => ?_
    obtain ⟨s1, s2, ps, ⟨hnew, hwin, s0, ⟨rfl, hpre⟩, hcheck⟩, hround, hrel, hne, hordered, hturn, hret, hhold, hroom, hsend, rfl⟩ := hr
    exact (h.begins hpre).trans ((RmwReq.body_unordered hne hret ⟨hnew, hwin, hcheck⟩ hround hrel hordered).trans
      (RmwReq.fetches_hold hturn hroom hsend hhold))
  case onPrivate =>
    refine doesIn_of (fun f s => h.run f s) fun f s bid sid b x hready s5 o hr => ?_
    obtain ⟨s1, s2, s3, s4, ps, rs, fid, ⟨hnew, hwin, s0, ⟨rfl, hpre⟩, hcheck⟩, hround, hrel, hne, hordered, hpoint, hturn, hret, hroom, hlog,
      hperform, hheld, hends⟩ := hr
    exact ⟨.inl ((h.begins hpre).trans ((RmwReq.body_private hne hret ⟨hnew, hwin, hcheck⟩ hround hrel hordered hpoint).trans
      ((RmwReq.fetches_private hturn hroom hlog hperform).trans (RmwReq.heldNow_ends hheld hends)))), h.takes_ends hready hends⟩
  case point =>
    refine waits_of (fun f s => h.run f s) fun f s bid sid b x hready s3 hr => ?_
    obtain ⟨s1, s2, ps, ⟨hnew, hwin, s0, ⟨rfl, hpre⟩, hcheck⟩, hround, hrel, hne, hpoint, rfl⟩ := hr
    exact (h.begins hpre).trans ((RmwReq.body_global ⟨hnew, hwin, hcheck⟩ hround hrel).trans
      (RmwReq.sends_point hne (RmwReq.atPoint_iff.mpr hpoint)))
  case commit =>
    refine doesIn_of (fun f s => h.run f s) fun f s bid sid b x hready s4 o hr => ?_
    obtain ⟨s1, s2, s3, ps, rs, fid, ⟨hnew, hwin, s0, ⟨rfl, hpre⟩, hcheck⟩, hround, hperform, hheld, hends⟩ := hr
    exact ⟨.inl ((h.begins hpre).trans ((RmwReq.body_commit ⟨hnew, hwin, hcheck⟩ hround hperform).trans (RmwReq.heldNow_ends hheld hends))),
      h.takes_ends hready hends⟩
  case idle =>
    refine doesIn_of (fun f s => h.run f s) fun f s bid sid b x hready s3 o hr => ?_
    obtain ⟨s1, s2, hnone, hrel, hacquire, rfl⟩ := hr
    rcases hnone with ⟨ps, ⟨hnew, hwin, s0, ⟨rfl, hpre⟩, hcheck⟩, hround, hnone⟩ | ⟨hnew, hwin, ⟨rfl, hpre⟩, hgate, hclean, hturn⟩
    · exact ⟨.inl ((h.begins hpre).trans ((RmwReq.body_global ⟨hnew, hwin, hcheck⟩ hround hrel).trans ((RmwReq.sends_nil hnone).trans
        (RmwReq.idle_done hacquire)))), h.takes_idle hready⟩
    · exact ⟨.inl ((h.begins hpre).trans ((RmwReq.body_scratch ⟨hnew, hwin, hgate, hclean, hturn⟩ hrel).trans (RmwReq.idle_done hacquire))),
        h.takes_idle hready⟩
  case acquired =>
    refine doesIn_of (fun f s => h.run f s) fun f s bid sid b x hready s1 o hr => ?_
    obtain ⟨-, hw, hacquire, rfl⟩ := hr
    exact ⟨.inl ((Returning.begun (acquiring_begun hw)).trans (RmwReq.body_acquired hw hacquire)), h.takes_idle hready⟩

/-- Only FADDL asks for elements aligned to twice their size (R251). -/
theorem align_of_code {op : Nat} {returns waits unordered point : Bool} {v : Env} (h : op ≠ opFaddl) :
    (rmwReq op returns waits unordered point v).align = elemSize v.ty := if_neg h

/-- An RMW of R266 that returns the old values of its lanes. -/
theorem rmwDoes_lanes {i : Fields → Instr} {e : Fields → Enc} (op : Env → Nat) (code : ∀ v, op v ≠ opFaddl)
    (run : ∀ f s, exec (i f) s = runInstr (e f) f (fun v s => rmwOf (op v) true false false true RmwReq.lanesOut v s) s)
    (dst : ∀ f, (e f).dst = .ty) (clears : ∀ f, clearsLatches (e f).opc f.y = true) :
    RmwDoes i e (fetchReq op false) (fun v => (fetchReq op false v).lanesOut v) (fun v => !bitOf v.md 5) Env.rmwAll
      (fun v s s0 => s0 = s ∧ (bitOf v.md 5 = true → v.winMisaligned (elemSize v.ty) (elemSize v.ty) = none)) :=
  Returning.rmwDoes ⟨run, dst, clears, fun _ _ _ => ⟨none, rfl⟩, fun v => align_of_code (code v)⟩

/-- The operation in MOD[9:6]. -/
def Machine.Env.rmwCode (v : Env) : Nat := modOf v.f / 64 % 16

theorem rmwCode_ne_faddl (v : Env) : v.rmwCode ≠ opFaddl := Nat.ne_of_lt (Nat.lt_trans (Nat.mod_lt _ (by decide)) (by decide))

theorem runInstr_congr {e : Enc} {f : Fields} {s : State} {body body' : Env → State → Res}
    (h : ∀ bid sid b x, body (e.env f bid sid b x) s = body' (e.env f bid sid b x) s) : runInstr e f body s = runInstr e f body' s := by
  unfold runInstr
  simp only [h]

/-- An RMW of R266 whose operation MOD[9:6] names. -/
theorem rmwDoes_coded {i : Fields → Instr} {e : Fields → Enc}
    (run : ∀ f s, exec (i f) s = runInstr (e f) f (rmwOf (modOf f / 64 % 16) true false false true RmwReq.lanesOut) s)
    (dst : ∀ f, (e f).dst = .ty) (clears : ∀ f, clearsLatches (e f).opc f.y = true) :
    RmwDoes i e (fetchReq Env.rmwCode false) (fun v => (fetchReq Env.rmwCode false v).lanesOut v) (fun v => !bitOf v.md 5) Env.rmwAll
      (fun v s s0 => s0 = s ∧ (bitOf v.md 5 = true → v.winMisaligned (elemSize v.ty) (elemSize v.ty) = none)) :=
  rmwDoes_lanes Env.rmwCode rmwCode_ne_faddl (fun f s => (run f s).trans (runInstr_congr fun _ _ _ _ => rfl)) dst clears

/-- Settles O22: the new elements by their operations; each RMW that returns goes by the shared procedure, and its results are its destination's. -/
theorem rmwResults : Obligations.RmwResults := by
  unfold Obligations.RmwResults
  refine ⟨fun t old v c => ?elements, ⟨?atom, ?binc, ?winc, ?decz, ?fatomO, ?fatomU⟩, ?faddl⟩
  case elements =>
    intro m hold hv hc
    exact ⟨fun hi => ⟨rmwNew_add hold hv hi, rmwNew_min hold hv hi, rmwNew_max hold hv hi⟩, rmwNew_and hold hv, rmwNew_or hold hv,
      rmwNew_xor hold hv, rmwNew_swap hv, rmwNew_cas hold hv hc, rmwNew_binc hold hv, rmwNew_winc hold hv, rmwNew_decz hold, rmwNew_faddl hold hv hc,
      faddlOk_eq hold hv hc⟩
  case atom => exact rmwDoes_coded (fun _ _ => rfl) (fun _ => rfl) (fun _ => Bool.or_true _)
  case binc => exact rmwDoes_lanes (fun _ => opBinc) (fun _ => by decide) (fun _ _ => rfl) (fun _ => rfl) (fun _ => Bool.or_true _)
  case winc => exact rmwDoes_lanes (fun _ => opWinc) (fun _ => by decide) (fun _ _ => rfl) (fun _ => rfl) (fun _ => Bool.or_true _)
  case decz => exact rmwDoes_lanes (fun _ => opDecz) (fun _ => by decide) (fun _ _ => rfl) (fun _ => rfl) (fun _ => Bool.or_true _)
  case fatomO => exact rmwDoes_coded (fun _ _ => rfl) (fun _ => rfl) (fun _ => Bool.or_true _)
  case fatomU => exact rmwDoes_coded (fun _ _ => rfl) (fun _ => rfl) (fun _ => Bool.or_true _)
  case faddl =>
    have hfaddl : Returning .faddl (fun f => encRmw 0xAA f true .ty .no typeN 0x1FF (fun _ _ => true) false) (fun _ => opFaddl) true faddlOut
        (fun v => 2 * elemSize v.ty) :=
      ⟨fun _ _ => rfl, fun _ => rfl, fun _ => Bool.or_true _, fun _ _ _ => ⟨_, rfl⟩, fun _ => rfl⟩
    exact hfaddl.rmwDoes

end Sys2Proof
end

section
/-! SUPPORT. A RED whose slice has noted that it waits for a fill, while register v0 is pending (R91, R252, R254). -/

namespace Sys2Proof

open Sys2Proof.Machine

/-- Closing a fill leaves every block as it is. -/
theorem closeFill_blocks (s : State) (fid : Nat) : (s.closeFill fid).blocks = s.blocks := by
  have hissue : ∀ (t : State) i, (t.issueDone i).blocks = t.blocks := fun t i => by
    unfold State.issueDone
    split
    · rfl
    split
    · rfl
    · split <;> rfl
  have hdiscard : ∀ t : State, (t.discardFill fid).blocks = t.blocks := fun t => by
    unfold State.discardFill
    split
    · exact hissue _ _
    · rfl
  unfold State.closeFill
  split
  · rw [hdiscard]
    split <;> rfl
  · rfl

namespace RedCounterexample

/-- The slice's fill, of which nothing is still to come. -/
def landed : Fill :=
  { bid := 0, sid := 0, regs := [], target := .g, whole := false, elems := [], issue := 0, draining := false, words := 0, orphan := none,
    stamp := Clock.zero, born := 0 }

/-- A slice that waits for that fill; v0 is pending, and the address pair v2 and the operand v4 are there. -/
def slice : Slice :=
  { Slice.placed (BitVec.ofNat 64 loadVa) 0 with
    prog := .pending 5
    regs := [(0, .pend .g (Quad.all 0)), (2, .held .u (Quad.all 0)), (3, .held .u (Quad.all 0)), (4, .held .u (Quad.all 1))] }

/-- The block of that slice. -/
def block : Block := { loadBlock 0 0 with slices := [(0, slice)] }

/-- The slice executes. -/
def state : State := { State.reset.load [] with blocks := [(0, block)], fills := [(5, landed)], cur := some (0, 0) }

/-- `RED.o.add.n32 [v2], v4`. -/
def fields : Fields := ⟨false, false, 0, false, 2, false, 4, .two ⟨false, 0, 0, 22, 0, false, 0⟩⟩

/-- The row of RED.o (R266). -/
def row : Enc := encRmw 0xAE fields false .ty .no (fun t => typeW t || typeFP t) 0x3FF redOpOk true

theorem ready : Ready row fields state 0 0 block slice where
  cur := rfl
  legal := by decide
  sources := by decide
  dst := fun _ k hk => absurd hk (Nat.not_lt_zero k)
  room := by unfold Roomy; decide +kernel

theorem onward : Onward state 0 0 slice slice := ⟨rfl, rfl, block, rfl, ready.room⟩

/-- How slice 0 stands after a step. -/
def runOf (o : Host.Outcome State Fault Refusal) : Option RunState :=
  match o with
  | .next t => (t.slice? 0 0).map (fun x => x.run)
  | _ => none

/-- The RED waits for v0, which the values of its fill would go to. -/
theorem runOf_exec : runOf (exec (.redO fields) state) = some .waiting := by decide +kernel

end RedCounterexample

end Sys2Proof
end

section
/-! RED and the ticket instructions (R252, R256 to R259, R272, R273). -/

namespace Sys2Proof

open Sys2Proof.Machine

/-- Refutes O23: the clause on what an instruction waits for makes RED, which has no destination, write a fill's values to the register that its
empty destination field names, v0 (`RmwReq.lanesOut`), and says that it completes whatever v0 holds. Where v0 is pending it waits (R91). No RED
gets there by steps of its own, but the statement is of every state. -/
theorem not_reductionsAndTickets : ¬ Obligations.ReductionsAndTickets := by
  unfold Obligations.ReductionsAndTickets
  rintro ⟨⟨⟨hends, -⟩, -⟩, -⟩
  obtain ⟨y, hnext, hwent⟩ := hends RedCounterexample.fields RedCounterexample.state 0 0 RedCounterexample.block RedCounterexample.slice
    RedCounterexample.ready RedCounterexample.state _ ⟨trivial, 5, .inl rfl, RedCounterexample.landed, rfl, rfl, rfl, rfl, rfl⟩
    RedCounterexample.slice RedCounterexample.onward
  have hrun : y.run = .running := by rw [hwent.fields]
  have hsettled : (((settled RedCounterexample.state 0 0 y).closeFill 5).slice? 0 0) = some y := by
    rw [State.slice?_of_blocks (closeFill_blocks _ _), settled_slice y (b := RedCounterexample.block) rfl]
    rfl
  have hstands := RedCounterexample.runOf_exec.symm.trans (congrArg RedCounterexample.runOf hnext)
  have hgoes : RedCounterexample.runOf (.next ((settled RedCounterexample.state 0 0 y).closeFill 5)) = some .running := by
    unfold RedCounterexample.runOf
    simp only [hsettled, Option.map_some, hrun]
  cases hstands.trans hgoes

end Sys2Proof
end

section
/-! SUPPORT. The matrix instructions (R283, R284, R290): the tile and the stream, and what each kind of answer of a meaning says of its row. -/

namespace Sys2Proof

open Sys2Proof.Machine

/-- The tile word of an instruction. -/
def Machine.Env.tileWord (v : Env) : Word := BitVec.ofNat 32 v.c.scalar

/-- What is wrong with the tile of an instruction (R283). -/
def Machine.Env.tileFault (v : Env) : Option Half := tileCause v.b.acc (shapeM v.f) (shapeN v.f) v.tileWord

theorem streamRoom_iff {v : Env} : v.streamRoom = true ↔ v.b.stream.length < 64 := decide_eq_true_iff

theorem streamRoom_false {v : Env} (h : 64 ≤ v.b.stream.length) : v.streamRoom = false := decide_eq_false (Nat.not_lt.mpr h)

section
variable {i : Fields → Instr} {e : Fields → Enc} {body : Fields → Env → State → Res} (he : ∀ f s, exec (i f) s = runInstr (e f) f (body f) s)
include he

/-- An instruction that does nothing with no active lane. -/
theorem gives_idle (hg : ∀ v s, v.act = 0 → body v.f v s = .done {}) : GivesIf i e (fun v _ => v.act = 0) (fun _ _ => {}) :=
  givesIf_plain he fun f s bid sid b x _ hc => ⟨hg ((e f).env f bid sid b x) s hc, plain_none _ _⟩

/-- An instruction whose meaning completes with an effect on the state. -/
theorem does_doing {run : Env → State → State → Out → Prop}
    (hg : ∀ v s s1 o, run v s s1 o → s1 = s ∧ ∃ g, body v.f v s = doneEff g ∧ o = doing g) : Does i e run :=
  does_of he fun f s bid sid b x _ s1 o hr => by
    obtain ⟨rfl, g, hbody, rfl⟩ := hg _ _ _ _ hr
    exact ⟨rfl, hbody, plain_none _ _⟩

/-- An instruction whose meaning raises a cause of the chapter. -/
theorem raises_bad {run : Env → State → Half → Dword → BitVec 4 → Prop}
    (hg : ∀ v s c a m, run v s c a m → a = 0 ∧ m = v.act ∧ body v.f v s = v.bad s c) : Raises i e run := by
  intro f s bid sid b x h c a m hr
  obtain ⟨rfl, rfl, hbody⟩ := hg _ _ _ _ _ hr
  rw [he]
  exact runInstr_raiseIn h hbody

end

end Sys2Proof
end

section
/-! SUPPORT. CLAIM, RELS, SLD and SLDS (R278, R279, R281, R290 to R293). -/

namespace Sys2Proof

open Sys2Proof.Machine

section
variable {v : Env} {s s1 : State} {k km : Nat} {p pm : PSlot} {ps ms : List Placed}

/-! ### CLAIM -/

/-- A slot is the lowest of its core that no block holds. -/
def FreeSlot (v : Env) (s : State) (k : Nat) : Prop :=
  k < 32 ∧ k ∉ s.slotsTaken v.b.die v.b.core ∧ ∀ j, j < k → j ∈ s.slotsTaken v.b.die v.b.core

/-- A block is within its reservation, or a slot that none covers may be had. -/
def MayClaim (v : Env) (s : State) : Prop :=
  v.b.slots.length < v.b.slotLimit ∨ (0 < s.spareSlots v.b.die v.b.core ∧ s.olderClaim v.b = false)

/-- A claim that passes its checks. -/
def AsksSlot (v : Env) : Prop := v.act ≠ 0 ∧ v.o.scalar ≤ 31 ∧ v.b.slotOf v.o.scalar = none ∧ v.b.slots.length ≠ 32

/-- What CLAIM does once it may have a slot. -/
def claimFree (v : Env) (s : State) : Res :=
  match (List.range 32).find? (fun k => !(s.slotsTaken v.b.die v.b.core).contains k) with
  | none => .wait s
  | some k => doneEff (fun s => s.modBlock v.bid (fun b => { b with slots := b.slots.put k (PSlot.claimed v.o.scalar) }))

theorem exec_claim_body (f : Fields) (s : State) : exec (.claim f) s = runInstr (encClaim 0x80) f claimBody s := rfl

theorem claimFree_free (h : FreeSlot v s k) : claimFree v s =
    doneEff (fun s => s.modBlock v.bid (fun b => { b with slots := b.slots.put k (PSlot.claimed v.o.scalar) })) := by
  obtain ⟨hlt, hfree, hlow⟩ := h
  have hfind : (List.range 32).find? (fun k => !(s.slotsTaken v.b.die v.b.core).contains k) = some k := by
    simpa [List.find?_range_eq_some, hlt, hfree] using hlow
  unfold claimFree
  rw [hfind]

/-- Of slots that are free one is the lowest. -/
theorem claimFree_none (h : ∀ k, ¬FreeSlot v s k) : claimFree v s = .wait s := by
  have hfind : (List.range 32).find? (fun k => !(s.slotsTaken v.b.die v.b.core).contains k) = none := by
    refine Option.eq_none_iff_forall_ne_some.mpr fun k hk => h k ?_
    simpa [FreeSlot, List.find?_range_eq_some, and_comm, and_left_comm, and_assoc] using hk
  unfold claimFree
  rw [hfind]

/-- A claim that passes its checks goes by whether a slot may be had. -/
theorem claimBody_asks (h : AsksSlot v) : claimBody v s =
    if v.b.slots.length < v.b.slotLimit then claimFree v s
    else if (0 < s.spareSlots v.b.die v.b.core && !s.olderClaim v.b) = true then claimFree v s
    else .wait (s.modSlice v.bid v.sid (fun x => { x with prog := .claiming })) := by
  obtain ⟨ha, hname, hbound, hlen⟩ := h
  simp only [claimBody, ha, Nat.not_lt.mpr hname, hbound, hlen, if_false, Option.isSome_none, Bool.false_eq_true]
  rfl

theorem claimBody_may (h : AsksSlot v) (hmay : MayClaim v s) : claimBody v s = claimFree v s := by
  rw [claimBody_asks h]
  rcases hmay with hlimit | ⟨hspare, holder⟩
  · rw [if_pos hlimit]
  · simp [hspare, holder]

theorem claimBody_mayNot (h : AsksSlot v) (hmay : ¬MayClaim v s) :
    claimBody v s = .wait (s.modSlice v.bid v.sid (fun x => { x with prog := .claiming })) := by
  obtain ⟨hlimit, hspare⟩ := not_or.mp hmay
  rw [claimBody_asks h, if_neg hlimit, if_neg (by simpa using hspare)]

theorem claimBody_large (ha : v.act ≠ 0) (hname : 31 < v.o.scalar) : claimBody v s = v.bad s 0x0102 := by
  simp only [claimBody, ha, hname, if_false, if_true]

theorem claimBody_bound (ha : v.act ≠ 0) (hname : v.o.scalar ≤ 31) (hbound : v.b.slotOf v.o.scalar ≠ none) :
    claimBody v s = v.bad s 0x0402 := by
  simp only [claimBody, ha, Nat.not_lt.mpr hname, Option.isSome_iff_ne_none.mpr hbound, if_false, if_true]

theorem claimBody_full (ha : v.act ≠ 0) (hname : v.o.scalar ≤ 31) (hbound : v.b.slotOf v.o.scalar = none) (hlen : v.b.slots.length = 32) :
    claimBody v s = v.bad s 0x0406 := by
  simp only [claimBody, ha, Nat.not_lt.mpr hname, hbound, hlen, Option.isSome_none, Bool.false_eq_true, if_false, if_true]

/-! ### RELS -/

/-- The meaning of RELS. -/
def relsBody (v : Env) (s : State) : Res :=
  if v.act = 0 then .done {}
  else if 31 < v.o.scalar then v.bad s 0x0102
  else match v.b.slotOf v.o.scalar with
    | none => v.bad s 0x0401
    | some (k, _) => doneEff (fun s => s.modBlock v.bid (fun b =>
        { b.modSlot k PSlot.release with slots := dropFreeSlots (b.modSlot k PSlot.release).slots }))

theorem exec_rels_body (f : Fields) (s : State) : exec (.rels f) s = runInstr (encClaim 0x81) f relsBody s := rfl

theorem relsBody_bound (ha : v.act ≠ 0) (hname : v.o.scalar ≤ 31) (hbound : v.b.slotOf v.o.scalar = some (k, p)) :
    relsBody v s = doneEff (fun s => s.modBlock v.bid (fun b =>
      { b.modSlot k PSlot.release with slots := dropFreeSlots (b.modSlot k PSlot.release).slots })) := by
  simp only [relsBody, ha, Nat.not_lt.mpr hname, hbound, if_false]

theorem relsBody_large (ha : v.act ≠ 0) (hname : 31 < v.o.scalar) : relsBody v s = v.bad s 0x0102 := by
  simp only [relsBody, ha, hname, if_false, if_true]

theorem relsBody_unbound (ha : v.act ≠ 0) (hname : v.o.scalar ≤ 31) (hbound : v.b.slotOf v.o.scalar = none) :
    relsBody v s = v.bad s 0x0401 := by
  simp only [relsBody, ha, Nat.not_lt.mpr hname, hbound, if_false]

/-! ### SLD -/

/-- The first row of a fill. -/
def Machine.Env.fillRow (v : Env) : Nat := bitsOf (litNat v.f) 6 0

/-- How many rows a fill has. -/
def Machine.Env.fillRows (v : Env) : Nat := bitsOf (litNat v.f) 14 8 + 1

/-- How many blocks of 32 elements a row of SLD has. -/
def Machine.Env.fillBlocks (v : Env) : Nat := bitsOf (litNat v.f) 19 16 + 1

/-- The bytes of a row of SLD's source. -/
def Machine.Env.fillWidth (v : Env) : Nat :=
  if v.ty = 0 then 16 * v.fillBlocks else v.fillBlocks * (4 * typeBits v.ty) + v.fillBlocks

/-- The format that SLD gives its slot. -/
def Machine.Env.fillFormat (v : Env) : SlotFormat := if v.ty = 0 then .plain else .mx v.ty

/-- SLD's slot is claimed and read by no product, and its rows pass their checks. -/
def SldPasses (v : Env) (s s1 : State) (k : Nat) (p : PSlot) (ps : List Placed) : Prop :=
  v.act ≠ 0 ∧ v.a.scalar ≤ 31 ∧ v.fillRow + v.fillRows ≤ 128 ∧ (v.ty ≠ 0 → v.fillBlocks ≤ rowCap v.ty / 32) ∧
    v.b.slotOf v.a.scalar = some (k, p) ∧ p.k = 0 ∧
    s.rowGate v (bitOf v.md 0) .read v.o.scalar v.c.scalar v.fillRows v.fillWidth = .go s1 ps

/-- The fill of SLD. -/
def Machine.Env.rowFill (v : Env) (s : State) (k : Nat) (ps : List Placed) : SlotFill :=
  { sid := v.sid, slot := k, mslot := none, row0 := v.fillRow, rows := v.fillRows, ty := v.ty, blocks := v.fillBlocks, n := 0, g := 0,
    src := s.fillSource v ps, msrc := [], addr := v.o.scalar, maddr := 0, keys := s.keysOf v.b.ctx v.b.die, lanes := v.act, issue := 0 }

theorem exec_sld_body (f : Fields) (s : State) : exec (.sld f) s = runInstr (encSld f) f sldBody s := rfl

/-- SLD past its checks waits for room or begins its fill. -/
theorem sldBody_passes (h : SldPasses v s s1 k p ps) : sldBody v s =
    if (p.f = 16 || !s1.counterRoom v true) = true then .wait s1
    else .doneIn (s1.recallFor (s1.isOrdered v.b) ps)
      (doing (issueSlotFill v (v.rowFill (s1.recallFor (s1.isOrdered v.b) ps) k ps) v.fillFormat v.fillFormat)) := by
  obtain ⟨ha, hname, hrows, hblocks, hslot, hread, hgate⟩ := h
  have hcap : (31 < v.a.scalar || 128 < v.fillRow + v.fillRows || (v.ty ≠ 0 && rowCap v.ty / 32 < v.fillBlocks)) = false := by
    simpa [hname, hrows] using hblocks
  unfold Env.fillRow Env.fillRows Env.fillBlocks at hcap
  unfold Env.fillRows Env.fillWidth Env.fillBlocks at hgate
  simp only [sldBody, ha, hcap, hslot, hread, hgate, if_false, Bool.false_eq_true, ne_eq, not_true_eq_false]
  rfl

theorem sldBody_fills (h : SldPasses v s s1 k p ps) (hfull : p.f ≠ 16) (hroom : s1.counterRoom v true = true) :
    sldBody v s = .doneIn (s1.recallFor (s1.isOrdered v.b) ps)
      (doing (issueSlotFill v (v.rowFill (s1.recallFor (s1.isOrdered v.b) ps) k ps) v.fillFormat v.fillFormat)) := by
  rw [sldBody_passes h, if_neg (by simp [hfull, hroom])]

theorem sldBody_waits (h : SldPasses v s s1 k p ps) (hfull : p.f = 16 ∨ s1.counterRoom v true = false) : sldBody v s = .wait s1 := by
  rw [sldBody_passes h, if_pos (by simpa using hfull)]

/-! ### SLDS -/

/-- G of a sparse operand. -/
def Machine.Env.sparseG (v : Env) : Nat := bitsOf (litNat v.f) 20 16 + 1

/-- N of a sparse operand. -/
def Machine.Env.sparseNs (v : Env) : Nat := sparseN (v.md % 4)

/-- SLDS's slots are claimed and read by no product, and its rows pass their checks. -/
def SldsPasses (v : Env) (s s1 : State) (k km : Nat) (p pm : PSlot) (ps ms : List Placed) : Prop :=
  v.act ≠ 0 ∧ v.a.scalar ≤ 31 ∧ v.a.scalar % 2 = 0 ∧ v.fillRow + v.fillRows ≤ 128 ∧ v.sparseNs * v.sparseG ≤ rowCap v.ty ∧
    v.b.slotOf v.a.scalar = some (k, p) ∧ v.b.slotOf (v.a.scalar + 1) = some (km, pm) ∧ p.k = 0 ∧ pm.k = 0 ∧
    s.rowGates v (bitOf v.md 2) .read
      ⟨v.o.scalar, sparseVs (v.sparseNs * v.sparseG) (typeBits v.ty), v.fillRows, (v.sparseNs * v.sparseG * typeBits v.ty + 7) / 8⟩
      ⟨v.c.scalar, sparseMs (v.sparseNs * v.sparseG), v.fillRows, (5 * v.sparseNs * v.sparseG + 7) / 8⟩ = .go s1 ps ms

/-- The fill of SLDS. -/
def Machine.Env.sparseFill (v : Env) (s : State) (k km : Nat) (ps ms : List Placed) : SlotFill :=
  { sid := v.sid, slot := k, mslot := some km, row0 := v.fillRow, rows := v.fillRows, ty := v.ty, blocks := 0, n := v.sparseNs,
    g := v.sparseG, src := s.fillSource v ps, msrc := s.fillSource v ms, addr := v.o.scalar, maddr := v.c.scalar,
    keys := s.keysOf v.b.ctx v.b.die, lanes := v.act, issue := 0 }

theorem exec_slds_body (f : Fields) (s : State) : exec (.slds f) s = runInstr (encSlds f) f sldsBody s := rfl

/-- SLDS past its checks waits for room or begins its fill. -/
theorem sldsBody_passes (h : SldsPasses v s s1 k km p pm ps ms) : sldsBody v s =
    if (p.f = 16 || pm.f = 16 || !s1.counterRoom v true) = true then .wait s1
    else .doneIn (s1.recallFor (s1.isOrdered v.b) (ps ++ ms))
      (doing (issueSlotFill v (v.sparseFill (s1.recallFor (s1.isOrdered v.b) (ps ++ ms)) k km ps ms)
        (.spVal v.ty v.sparseNs v.sparseG) (.spMeta v.ty v.sparseNs v.sparseG))) := by
  obtain ⟨ha, hname, heven, hrows, hcap, hslot, hmeta, hread, hreadm, hgate⟩ := h
  have hchecks : (31 < v.a.scalar || v.a.scalar % 2 ≠ 0 || 128 < v.fillRow + v.fillRows || rowCap v.ty < v.sparseNs * v.sparseG) = false := by
    simp [hname, heven, hrows, hcap]
  unfold Env.fillRow Env.fillRows Env.sparseNs Env.sparseG at hchecks
  unfold Env.fillRows Env.sparseNs Env.sparseG at hgate
  simp only [sldsBody, ha, hchecks, hslot, hmeta, hread, hreadm, hgate, if_false, Bool.false_eq_true, ne_eq, not_true_eq_false,
    decide_false, Bool.or_false]
  rfl

theorem sldsBody_fills (h : SldsPasses v s s1 k km p pm ps ms) (hfull : p.f ≠ 16) (hfullm : pm.f ≠ 16)
    (hroom : s1.counterRoom v true = true) : sldsBody v s = .doneIn (s1.recallFor (s1.isOrdered v.b) (ps ++ ms))
      (doing (issueSlotFill v (v.sparseFill (s1.recallFor (s1.isOrdered v.b) (ps ++ ms)) k km ps ms)
        (.spVal v.ty v.sparseNs v.sparseG) (.spMeta v.ty v.sparseNs v.sparseG))) := by
  rw [sldsBody_passes h, if_neg (by simp [hfull, hfullm, hroom])]

theorem sldsBody_waits (h : SldsPasses v s s1 k km p pm ps ms) (hfull : p.f = 16 ∨ pm.f = 16 ∨ s1.counterRoom v true = false) :
    sldsBody v s = .wait s1 := by
  rw [sldsBody_passes h, if_pos (by simpa [or_assoc] using hfull)]

end

end Sys2Proof
end

section
/-! CLAIM, RELS, SLD and SLDS (R278, R279, R281, R290 to R293). -/

namespace Sys2Proof

open Sys2Proof.Machine

/-- Settles O25: a claim goes by what it finds free, and a fill of rows that pass their checks by the room that it finds. -/
theorem slotInstructions : Obligations.SlotInstructions := by
  unfold Obligations.SlotInstructions
  refine ⟨⟨gives_idle exec_claim_body fun _ _ ha => if_pos ha, gives_idle exec_rels_body fun _ _ ha => if_pos ha,
      ?claims, ?noneFree, ?mayNot, ?claimRaises, ?releases, ?relsRaises⟩,
    gives_idle exec_sld_body fun _ _ ha => if_pos ha, gives_idle exec_slds_body fun _ _ ha => if_pos ha,
    ?sldFills, ?sldWaits, ?sldsFills, ?sldsWaits⟩
  case claims =>
    refine does_doing exec_claim_body fun v s s1 o hr => ?_
    obtain ⟨hs, hasks, hmay, k, hfree, rfl⟩ := hr
    exact ⟨hs, _, (claimBody_may hasks hmay).trans (claimFree_free hfree), rfl⟩
  case noneFree =>
    refine waits_env exec_claim_body fun v s s1 hr => ?_
    obtain ⟨hasks, hmay, hnone, rfl⟩ := hr
    exact (claimBody_may hasks hmay).trans (claimFree_none hnone)
  case mayNot =>
    refine waits_env exec_claim_body fun v s s1 hr => ?_
    obtain ⟨hasks, hmay, rfl⟩ := hr
    exact claimBody_mayNot hasks hmay
  case claimRaises =>
    refine raises_bad exec_claim_body fun v s c a m hr => ?_
    obtain ⟨hact, ha, hm, hcause⟩ := hr
    refine ⟨ha, hm, ?_⟩
    rcases hcause with ⟨hname, rfl⟩ | ⟨hname, hbound, rfl⟩ | ⟨hname, hbound, hlen, rfl⟩
    · exact claimBody_large hact hname
    · exact claimBody_bound hact hname hbound
    · exact claimBody_full hact hname hbound hlen
  case releases =>
    refine does_doing exec_rels_body fun v s s1 o hr => ?_
    obtain ⟨hs, hact, hname, k, p, hbound, rfl⟩ := hr
    exact ⟨hs, _, relsBody_bound hact hname hbound, rfl⟩
  case relsRaises =>
    refine raises_bad exec_rels_body fun v s c a m hr => ?_
    obtain ⟨hact, ha, hm, hcause⟩ := hr
    refine ⟨ha, hm, ?_⟩
    rcases hcause with ⟨hname, rfl⟩ | ⟨hname, hbound, rfl⟩
    · exact relsBody_large hact hname
    · exact relsBody_unbound hact hname hbound
  case sldFills =>
    refine doesIn_bare exec_sld_body fun v s s1 o hr => ?_
    obtain ⟨k, p, ps, s0, hpasses, hfull, hroom, rfl, rfl⟩ := hr
    exact ⟨sldBody_fills hpasses hfull hroom, _, _, rfl⟩
  case sldWaits =>
    refine waits_env exec_sld_body fun v s s1 hr => ?_
    obtain ⟨k, p, ps, hpasses, hfull⟩ := hr
    exact sldBody_waits hpasses hfull
  case sldsFills =>
    refine doesIn_bare exec_slds_body fun v s s2 o hr => ?_
    obtain ⟨k, km, p, pm, ps, ms, s1, hpasses, hfull, hfullm, hroom, rfl, rfl⟩ := hr
    exact ⟨sldsBody_fills hpasses hfull hfullm hroom, _, _, rfl⟩
  case sldsWaits =>
    refine waits_env exec_slds_body fun v s s2 hr => ?_
    obtain ⟨k, km, p, pm, ps, ms, hpasses, hfull⟩ := hr
    exact sldsBody_waits hpasses hfull

end Sys2Proof
end

section
/-! SUPPORT. MMA and MMAS (R279, R282 to R285, R290, R294, R295). -/

namespace Sys2Proof

open Sys2Proof.Machine

/-- The rows of both operands of a product, and its tile, lie where they may. -/
def ProductFits (v : Env) : Prop :=
  bitsOf (litNat v.f) 6 0 + shapeM v.f ≤ 128 ∧ bitsOf (litNat v.f) 14 8 + shapeN v.f ≤ 128 ∧
    v.tileFault = none

/-- A slot may be read and has a format. -/
def GoodSlot (fmt : SlotFormat) (p : PSlot) : Prop := p.readable = true ∧ p.format = fmt

/-- The format of both operands of MMA. -/
def Machine.Env.mmaFormat (v : Env) : SlotFormat := if typeMX v.ty then .mx v.ty else .plain

/-- What MMA and MMAS do once their slots are good. -/
def enterProduct (v : Env) (opc : Nat) (ks : List Nat) (s : State) : State :=
  enterStream v { v.entry opc v.tileWord with slots := ks } (readSlots v ks s)

section
variable {v : Env} {s : State} {ka kb km : Nat} {pa pb pm : PSlot} {q g : Nat} {qs : List (Nat × PSlot)}

/-! ### MMA -/

/-- MMA's slots are claimed, and its operands and its tile lie where they may. -/
def MmaPasses (v : Env) (ka kb : Nat) (pa pb : PSlot) : Prop :=
  v.act ≠ 0 ∧ v.a.scalar ≤ 31 ∧ v.o.scalar ≤ 31 ∧ ProductFits v ∧
    32 * bitsOf (litNat v.f) 19 16 + 32 * (bitsOf v.md 10 6 + 1) ≤ rowCap v.ty ∧
    v.b.slotOf v.a.scalar = some (ka, pa) ∧ v.b.slotOf v.o.scalar = some (kb, pb)

theorem exec_mma_body (f : Fields) (s : State) : exec (.mma f) s = runInstr encMma f mmaBody s := rfl

/-- MMA past its checks goes by the fills of its slots, by their formats and by the room of the stream. -/
theorem mmaBody_passes (h : MmaPasses v ka kb pa pb) : mmaBody v s =
    if (pa.f ≠ 0 || pb.f ≠ 0) = true then .wait s
    else if (!pa.readable || !pb.readable || pa.format != v.mmaFormat || pb.format != v.mmaFormat) = true then v.bad s 0x0405
    else if (!v.streamRoom) = true then .wait s
    else doneEff (enterProduct v 0x84 [ka, kb]) := by
  obtain ⟨ha, hna, hnb, ⟨hrows, hcols, htile⟩, hcap, hslota, hslotb⟩ := h
  unfold Env.tileFault Env.tileWord at htile
  simp only [mmaBody, ha, Nat.not_lt.mpr hna, Nat.not_lt.mpr hnb, Nat.not_lt.mpr hrows, Nat.not_lt.mpr hcols, Nat.not_lt.mpr hcap,
    hslota, hslotb, htile, if_false, decide_false, Bool.or_false, Bool.false_eq_true]
  rfl

theorem goodSlots_iff {fmt : SlotFormat} : (!pa.readable || !pb.readable || pa.format != fmt || pb.format != fmt) = false ↔
    GoodSlot fmt pa ∧ GoodSlot fmt pb := by
  simp only [GoodSlot, Bool.or_eq_false_iff, Bool.not_eq_false', bne_eq_false_iff_eq]
  tauto

theorem mmaBody_enters (h : MmaPasses v ka kb pa pb) (hfa : pa.f = 0) (hfb : pb.f = 0) (hroom : v.b.stream.length < 64)
    (hgood : GoodSlot v.mmaFormat pa ∧ GoodSlot v.mmaFormat pb) : mmaBody v s = doneEff (enterProduct v 0x84 [ka, kb]) := by
  rw [mmaBody_passes h, if_neg (by simp [hfa, hfb]), if_neg (by rw [goodSlots_iff.mpr hgood]; decide),
    if_neg (by simp [streamRoom_iff.mpr hroom])]

theorem mmaBody_filling (h : MmaPasses v ka kb pa pb) (hf : pa.f ≠ 0 ∨ pb.f ≠ 0) : mmaBody v s = .wait s := by
  rw [mmaBody_passes h, if_pos (by simpa using hf)]

theorem mmaBody_full (h : MmaPasses v ka kb pa pb) (hfa : pa.f = 0) (hfb : pb.f = 0) (hfull : 64 ≤ v.b.stream.length)
    (hgood : GoodSlot v.mmaFormat pa ∧ GoodSlot v.mmaFormat pb) : mmaBody v s = .wait s := by
  rw [mmaBody_passes h, if_neg (by simp [hfa, hfb]), if_neg (by rw [goodSlots_iff.mpr hgood]; decide),
    if_pos (by simp [streamRoom_false hfull])]

theorem mmaBody_unlike (h : MmaPasses v ka kb pa pb) (hfa : pa.f = 0) (hfb : pb.f = 0)
    (hgood : ¬(GoodSlot v.mmaFormat pa ∧ GoodSlot v.mmaFormat pb)) : mmaBody v s = v.bad s 0x0405 := by
  rw [mmaBody_passes h, if_neg (by simp [hfa, hfb]), if_pos (Bool.not_eq_false _ ▸ mt goodSlots_iff.mp hgood)]

/-! ### MMAS -/

/-- How many slots the dense operand of MMAS spans (R295). -/
def denseSpan (ty g : Nat) : Nat := (24 * g + rowCap ty - 1) / rowCap ty

/-- The slots of MMAS are claimed, A's values and metadata are ready, and its operands and its tile lie where they may. -/
def MmasPasses (v : Env) (ka km : Nat) (pa pm : PSlot) (q g : Nat) (qs : List (Nat × PSlot)) : Prop :=
  v.act ≠ 0 ∧ v.a.scalar ≤ 31 ∧ v.a.scalar % 2 = 0 ∧ v.o.scalar ≤ 31 ∧ ProductFits v ∧ v.b.slotOf v.a.scalar = some (ka, pa) ∧
    v.b.slotOf (v.a.scalar + 1) = some (km, pm) ∧ pa.f = 0 ∧ pm.f = 0 ∧ GoodSlot (.spVal v.ty q g) pa ∧ GoodSlot (.spMeta v.ty q g) pm ∧
    denseSpan v.ty g ≤ 4 ∧ v.o.scalar + denseSpan v.ty g - 1 ≤ 31 ∧ qs.length = denseSpan v.ty g ∧
    ∀ i, i < denseSpan v.ty g → v.b.slotOf (v.o.scalar + i) = qs[i]?

theorem exec_mmas_body (f : Fields) (s : State) : exec (.mmas f) s = runInstr encMmas f mmasBody s := rfl

theorem sparseSpan_fits {ty nb : Nat} (hspan : denseSpan ty g ≤ 4) (hlast : nb + denseSpan ty g - 1 ≤ 31) :
    sparseSpan (.spVal v.ty q g) ty nb = some (denseSpan ty g) := by
  have hin : (4 < denseSpan ty g || 32 < nb + denseSpan ty g) = false := by
    simp only [Bool.or_eq_false_iff, decide_eq_false_iff_not]
    omega
  unfold denseSpan at hin
  simp only [sparseSpan, hin, Bool.false_eq_true, if_false]
  rfl

/-- The slots that a product's dense operand spans, where each of their names is bound. -/
theorem denseSlots (hlen : qs.length = n) (hbound : ∀ i, i < n → v.b.slotOf (v.o.scalar + i) = qs[i]?) :
    (List.range n).map (fun i => v.b.slotOf (v.o.scalar + i)) = qs.map some := by
  subst hlen
  refine List.ext_getElem (by simp) fun i hi _ => ?_
  have hlt : i < qs.length := by simpa using hi
  simp [hbound i hlt, hlt]

/-- MMAS past its checks goes by the fills and the formats of the dense operand's slots and by the room of the stream. -/
theorem mmasBody_passes (h : MmasPasses v ka km pa pm q g qs) : mmasBody v s =
    if (qs.any (fun x => x.2.f != 0)) = true then .wait s
    else if (qs.any (fun x => !x.2.readable || x.2.format != .plain)) = true then v.bad s 0x0405
    else if (!v.streamRoom) = true then .wait s
    else doneEff (enterProduct v 0x85 ([ka, km] ++ qs.map (fun x => x.1))) := by
  obtain ⟨ha, hna, heven, hnb, ⟨hrows, hcols, htile⟩, hslot, hmeta, hfa, hfm, ⟨hra, hfmta⟩, ⟨hrm, hfmtm⟩, hspan, hlast, hlen, hbound⟩ := h
  have hq : sparseSpan (.spVal v.ty q g) v.ty v.o.scalar = some (denseSpan v.ty g) := sparseSpan_fits hspan hlast
  have hbs := denseSlots hlen hbound
  have hqs : (qs.map some).filterMap (fun x => x) = qs := by simp [List.filterMap_map]
  have hall : (qs.map some).any (fun x => x.isNone) = false := by simp
  unfold Env.tileFault Env.tileWord at htile
  simp only [mmasBody, ha, heven, Nat.not_lt.mpr hna, Nat.not_lt.mpr hnb, Nat.not_lt.mpr hrows, Nat.not_lt.mpr hcols, hslot, hmeta, htile,
    hq, hbs, hqs, hall, hfa, hfm, hra, hrm, hfmta, hfmtm, Option.getD_some, bne_self_eq_false, ne_eq, not_true_eq_false, decide_false,
    Bool.or_self, Bool.not_true, Bool.false_eq_true, if_false]
  rfl

theorem fillsOver_iff : qs.any (fun x => x.2.f != 0) = false ↔ ∀ x ∈ qs, x.2.f = 0 := by simp

theorem plainSlots_iff : qs.any (fun x => !x.2.readable || x.2.format != .plain) = false ↔ ∀ x ∈ qs, GoodSlot .plain x.2 := by
  simp [GoodSlot]

theorem mmasBody_enters (h : MmasPasses v ka km pa pm q g qs) (hgood : ∀ x ∈ qs, x.2.f = 0 ∧ GoodSlot .plain x.2)
    (hroom : v.b.stream.length < 64) : mmasBody v s = doneEff (enterProduct v 0x85 ([ka, km] ++ qs.map (fun x => x.1))) := by
  rw [mmasBody_passes h, fillsOver_iff.mpr fun x hx => (hgood x hx).1, plainSlots_iff.mpr fun x hx => (hgood x hx).2,
    streamRoom_iff.mpr hroom]
  rfl

theorem mmasBody_filling (h : MmasPasses v ka km pa pm q g qs) (hf : ∃ x ∈ qs, x.2.f ≠ 0) : mmasBody v s = .wait s := by
  rw [mmasBody_passes h, if_pos (by simpa using hf)]

theorem mmasBody_full (h : MmasPasses v ka km pa pm q g qs) (hgood : ∀ x ∈ qs, x.2.f = 0 ∧ GoodSlot .plain x.2)
    (hfull : 64 ≤ v.b.stream.length) : mmasBody v s = .wait s := by
  rw [mmasBody_passes h, fillsOver_iff.mpr fun x hx => (hgood x hx).1, plainSlots_iff.mpr fun x hx => (hgood x hx).2,
    streamRoom_false hfull]
  rfl

theorem mmasBody_unlike (h : MmasPasses v ka km pa pm q g qs) (hf : ∀ x ∈ qs, x.2.f = 0) (hgood : ¬∀ x ∈ qs, GoodSlot .plain x.2) :
    mmasBody v s = v.bad s 0x0405 := by
  rw [mmasBody_passes h, fillsOver_iff.mpr hf, (Bool.not_eq_false _).mp (mt plainSlots_iff.mp hgood)]
  rfl

theorem rowCap_pos (t : Nat) : 0 < rowCap t := by
  unfold rowCap
  split <;> decide

/-- The dense operand spans a slot at least, unless A's format record has G 0. -/
theorem sparseSpan_pos {fmt : SlotFormat} (ty nb : Nat) (h : ∀ t q, fmt ≠ .spVal t q 0) : 0 < (sparseSpan fmt ty nb).getD 1 := by
  have hcap := rowCap_pos ty
  have hor (c : Bool) {n : Nat} (hn : 0 < n) : 0 < (if c then none else some n).getD 1 := by cases c <;> simp [hn]
  cases fmt with
  | spVal t q g =>
    have hg : g ≠ 0 := fun h0 => h t q (h0 ▸ rfl)
    exact hor _ (Nat.div_pos (by omega : rowCap ty ≤ 24 * g + rowCap ty - 1) hcap)
  | plain | mx | spMeta => exact hor _ Nat.one_pos

/-- MMAS whose dense operand's name is not bound. -/
theorem mmasBody_unbound (ha : v.act ≠ 0) (hna : v.a.scalar ≤ 31) (heven : v.a.scalar % 2 = 0) (hnb : v.o.scalar ≤ 31)
    (hrows : bitsOf (litNat v.f) 6 0 + shapeM v.f ≤ 128) (hcols : bitsOf (litNat v.f) 14 8 + shapeN v.f ≤ 128)
    (hbound : v.b.slotOf v.o.scalar = none)
    (hfmt : ∀ k p t q, v.b.slotOf v.a.scalar = some (k, p) → p.format ≠ .spVal t q 0) : mmasBody v s = v.bad s 0x0401 := by
  simp only [mmasBody, ha, heven, Nat.not_lt.mpr hna, Nat.not_lt.mpr hnb, Nat.not_lt.mpr hrows, Nat.not_lt.mpr hcols, if_false,
    decide_false, Bool.or_false, Bool.false_eq_true, ne_eq, not_true_eq_false]
  split
  next ka pa km pm hslot hmeta =>
    have hpos := sparseSpan_pos v.ty v.o.scalar fun t q => hfmt ka pa t q hslot
    have hnone : ((List.range ((sparseSpan pa.format v.ty v.o.scalar).getD 1)).map (fun i => v.b.slotOf (v.o.scalar + i))).any
        (fun x => x.isNone) = true := by
      simp only [List.any_map, List.any_eq_true, List.mem_range]
      exact ⟨0, hpos, by simp [hbound]⟩
    rw [if_pos hnone]
  · rfl

end

end Sys2Proof
end

section
/-! MMA and MMAS (R279, R282 to R285, R290, R294, R295). -/

namespace Sys2Proof

open Sys2Proof.Machine

/-- Settles O26: a product whose operands and tile lie where they may goes by the fills and the formats of its slots and by the room of the
stream; a dense operand spans one slot at least, whose name is then looked up. -/
theorem products : Obligations.Products := by
  unfold Obligations.Products
  refine ⟨gives_idle exec_mma_body fun _ _ ha => if_pos ha, gives_idle exec_mmas_body fun _ _ ha => if_pos ha,
    ?mmaEnters, ?mmaWaits, ?mmaUnlike, ?mmasEnters, ?mmasWaits, ?mmasUnlike, ?mmasUnbound⟩
  case mmaEnters =>
    refine does_doing exec_mma_body fun v s s1 o hr => ?_
    obtain ⟨hs, ka, kb, pa, pb, hpasses, hfa, hfb, hroom, hga, hgb, rfl⟩ := hr
    exact ⟨hs, _, mmaBody_enters hpasses hfa hfb hroom ⟨hga, hgb⟩, rfl⟩
  case mmaWaits =>
    refine waits_env exec_mma_body fun v s s1 hr => ?_
    obtain ⟨rfl, ka, kb, pa, pb, hpasses, hwhy⟩ := hr
    by_cases hf : pa.f ≠ 0 ∨ pb.f ≠ 0
    · exact mmaBody_filling hpasses hf
    · obtain ⟨hfa, hfb⟩ : pa.f = 0 ∧ pb.f = 0 := by simpa using hf
      obtain ⟨hga, hgb, hfull⟩ := (hwhy.resolve_left (not_not.mpr hfa)).resolve_left (not_not.mpr hfb)
      exact mmaBody_full hpasses hfa hfb hfull ⟨hga, hgb⟩
  case mmaUnlike =>
    refine raises_bad exec_mma_body fun v s c a m hr => ?_
    obtain ⟨ka, kb, pa, pb, hpasses, hfa, hfb, hgood, rfl, ha, hm⟩ := hr
    exact ⟨ha, hm, mmaBody_unlike hpasses hfa hfb hgood⟩
  case mmasEnters =>
    refine does_doing exec_mmas_body fun v s s1 o hr => ?_
    obtain ⟨hs, ka, km, pa, pm, q, g, qs, hpasses, hgood, hroom, rfl⟩ := hr
    exact ⟨hs, _, mmasBody_enters hpasses hgood hroom, rfl⟩
  case mmasWaits =>
    refine waits_env exec_mmas_body fun v s s1 hr => ?_
    obtain ⟨rfl, ka, km, pa, pm, q, g, qs, hpasses, hf | ⟨hgood, hfull⟩⟩ := hr
    · exact mmasBody_filling hpasses hf
    · exact mmasBody_full hpasses hgood hfull
  case mmasUnlike =>
    refine raises_bad exec_mmas_body fun v s c a m hr => ?_
    obtain ⟨ka, km, pa, pm, q, g, qs, hpasses, hf, hgood, rfl, ha, hm⟩ := hr
    exact ⟨ha, hm, mmasBody_unlike hpasses hf hgood⟩
  case mmasUnbound =>
    refine raises_bad exec_mmas_body fun v s c a m hr => ?_
    obtain ⟨hact, hna, heven, hnb, hrows, hcols, hbound, hfmt, rfl, ha, hm⟩ := hr
    exact ⟨ha, hm, mmasBody_unbound hact hna heven hnb hrows hcols hbound hfmt⟩

end Sys2Proof
end

section
/-! SUPPORT. MZERO, ACLD, MBAT and MWTB (R283 to R285, R290, R296 to R298). -/

namespace Sys2Proof

open Sys2Proof.Machine

section
variable {v : Env} {s s1 : State} {ps : List Placed} {c : Half}

/-! ### MZERO -/

/-- The row of MZERO (R289). -/
def encMzero : Enc := { opc := 0x86, lens := [2], sc := .u32, md := 0x3F }

/-- The meaning of MZERO. -/
def mzeroBody (f : Fields) (v : Env) (s : State) : Res :=
  if v.act = 0 then .done {}
  else match tileCause v.b.acc (shapeM f) (shapeN f) (BitVec.ofNat 32 v.c.scalar) with
    | some c => v.bad s c
    | none => if !v.streamRoom then .wait s else doneEff (enterStream v (v.entry 0x86 (BitVec.ofNat 32 v.c.scalar)))

theorem exec_mzero_body (f : Fields) (s : State) : exec (.mzero f) s = runInstr encMzero f (mzeroBody f) s := rfl

theorem mzeroBody_tile (ha : v.act ≠ 0) (htile : v.tileFault = none) : mzeroBody v.f v s =
    if (!v.streamRoom) = true then .wait s else doneEff (enterStream v (v.entry 0x86 v.tileWord)) := by
  unfold Env.tileFault Env.tileWord at htile
  simp only [mzeroBody, ha, htile, if_false, Env.tileWord]

theorem mzeroBody_bad (ha : v.act ≠ 0) (htile : v.tileFault = some c) : mzeroBody v.f v s = v.bad s c := by
  unfold Env.tileFault Env.tileWord at htile
  simp only [mzeroBody, ha, htile, if_false]

/-! ### ACLD -/

/-- ACLD's tile lies in the region and its rows pass their checks. -/
def AcldPasses (v : Env) (s s1 : State) (ps : List Placed) : Prop :=
  v.act ≠ 0 ∧ v.o.scalar ≤ 65535 ∧ v.tileFault = none ∧
    s.rowGate v (bitOf v.md 6) .read ((v.a.scalar : Int) + litInt v.f) (16 * v.o.scalar) (shapeM v.f) (shapeN v.f * elemSize v.ty) = .go s1 ps

/-- The entry of ACLD, whose bytes an ordered block reads at issue. -/
def Machine.Env.acldEntry (v : Env) (s : State) (ps : List Placed) : SEntry :=
  { v.entry 0x87 v.tileWord with
      opa := BitVec.ofNat 64 v.a.scalar, opb := BitVec.ofNat 32 v.o.scalar, src := if bitOf v.md 6 then [] else s.fillSource v ps }

theorem exec_acld_body (f : Fields) (s : State) : exec (.acld f) s = runInstr (encAcld f) f acldBody s := rfl

/-- ACLD past its checks goes by the room of the stream. -/
theorem acldBody_passes (h : AcldPasses v s s1 ps) : acldBody v s =
    if (!v.streamRoom) = true then .wait s1
    else .doneIn (s1.recallFor (s1.isOrdered v.b) ps)
      (doing (fun s => enterStream v (v.acldEntry (s1.recallFor (s1.isOrdered v.b) ps) ps) (s.touchAll v ps))) := by
  obtain ⟨ha, hpitch, htile, hgate⟩ := h
  unfold Env.tileFault Env.tileWord at htile
  simp only [acldBody, ha, Nat.not_lt.mpr hpitch, htile, hgate, if_false]
  rfl

theorem acldBody_large (ha : v.act ≠ 0) (hpitch : 65535 < v.o.scalar) : acldBody v s = v.bad s 0x0102 := by
  simp only [acldBody, ha, hpitch, if_false, if_true]

theorem acldBody_bad (ha : v.act ≠ 0) (hpitch : v.o.scalar ≤ 65535) (htile : v.tileFault = some c) : acldBody v s = v.bad s c := by
  unfold Env.tileFault Env.tileWord at htile
  simp only [acldBody, ha, Nat.not_lt.mpr hpitch, htile, if_false]

/-! ### MBAT -/

/-- The meaning of MBAT. -/
def mbatBody (v : Env) (_ : State) : Res :=
  .done { regs := [v.writeUni false ((v.b.nb + 1).setWidth 64)]
          eff := fun s => s.modBlock v.bid (fun b => { b with
            nb := v.b.nb + 1
            stream := b.stream.map (fun e => if e.batch.isNone then { e with batch := some (v.b.nb + 1) } else e)
            late := b.late.map (fun w => if w.tag == .batch none then { w with tag := .batch (some (v.b.nb + 1)) } else w) }) }

/-- The row of MBAT (R289). -/
def encMbat : Enc := { opc := 0x88, lens := [1, 2], dst := .w32, gov0 := true }

theorem exec_mbat_body (f : Fields) (s : State) : exec (.mbat f) s = runInstr encMbat f mbatBody s := rfl

/-! ### MWTB -/

/-- The batch that MWTB waits for. -/
def Machine.Env.batchNo (v : Env) : Word := BitVec.ofNat 32 v.o.scalar

/-- The scope of MWTB's acquire. -/
def Machine.Env.batchScope (v : Env) : Scope := (scopeOf v.md).getD .core

/-- A batch is not yet closed: its number is after the last one's. -/
def Ahead (v : Env) : Prop := 1 ≤ (v.batchNo - v.b.nb).toNat ∧ (v.batchNo - v.b.nb).toNat < 2 ^ 31

/-- The row of MWTB (R289). -/
def encMwtb : Enc := { opc := 0x89, lens := [2, 3], sb := .u32, md := 7, extra := fun f _ => modOf f == 1 || modOf f == 2 }

/-- MWTB's acquire, and what it sees then. -/
def mwtbAcquire (v : Env) (s : State) : Res := acquireThen v v.batchScope 0 none s (doing (batchSeen v v.batchNo))

/-- The meaning of MWTB. -/
def mwtbBody (v : Env) (s : State) : Res :=
  if v.act = 0 then .done {}
  else if v.x.acquiring?.isSome then mwtbAcquire v s
  else if 1 ≤ (v.batchNo - v.b.nb).toNat && (v.batchNo - v.b.nb).toNat < 2 ^ 31 then v.bad s 0x0408
  else if !v.b.batchDone v.batchNo then .wait s
  else mwtbAcquire v s

theorem exec_mwtb_body (f : Fields) (s : State) : exec (.mwtb f) s = runInstr encMwtb f mwtbBody s := rfl

theorem mwtbBody_again (ha : v.act ≠ 0) (hacq : v.x.acquiring? ≠ none) : mwtbBody v s = mwtbAcquire v s := by
  simp only [mwtbBody, ha, Option.isSome_iff_ne_none.mpr hacq, if_false, if_true]

theorem mwtbBody_fresh (ha : v.act ≠ 0) (hacq : v.x.acquiring? = none) : mwtbBody v s =
    if (1 ≤ (v.batchNo - v.b.nb).toNat && (v.batchNo - v.b.nb).toNat < 2 ^ 31) = true then v.bad s 0x0408
    else if (!v.b.batchDone v.batchNo) = true then .wait s else mwtbAcquire v s := by
  simp only [mwtbBody, ha, hacq, Option.isSome_none, Bool.false_eq_true, if_false]

theorem ahead_iff : (1 ≤ (v.batchNo - v.b.nb).toNat && (v.batchNo - v.b.nb).toNat < 2 ^ 31) = true ↔ Ahead v := by
  simp only [Ahead, Bool.and_eq_true, decide_eq_true_eq]

theorem mwtbBody_ahead (ha : v.act ≠ 0) (hacq : v.x.acquiring? = none) (h : Ahead v) : mwtbBody v s = v.bad s 0x0408 := by
  rw [mwtbBody_fresh ha hacq, if_pos (ahead_iff.mpr h)]

theorem mwtbBody_done (ha : v.act ≠ 0) (hacq : v.x.acquiring? = none) (h : ¬Ahead v) (hdone : v.b.batchDone v.batchNo = true) :
    mwtbBody v s = mwtbAcquire v s := by
  rw [mwtbBody_fresh ha hacq, if_neg (mt ahead_iff.mp h), if_neg (by simp [hdone])]

theorem mwtbBody_waits (ha : v.act ≠ 0) (hacq : v.x.acquiring? = none) (h : ¬Ahead v) (hdone : v.b.batchDone v.batchNo = false) :
    mwtbBody v s = .wait s := by
  rw [mwtbBody_fresh ha hacq, if_neg (mt ahead_iff.mp h), if_pos (by simp [hdone])]

end

end Sys2Proof
end

section
/-! MZERO, ACLD, MBAT and MWTB (R283 to R285, R290, R296 to R298). -/

namespace Sys2Proof

open Sys2Proof.Machine

/-- Settles O27: MZERO and ACLD of a good tile go by the room of the stream; MBAT's result is one register; MWTB goes by what the slice has
noted and by the number of its batch. -/
theorem tileLoadsAndBatches : Obligations.TileLoadsAndBatches := by
  unfold Obligations.TileLoadsAndBatches
  refine ⟨⟨gives_idle exec_mzero_body fun _ _ ha => if_pos ha, gives_idle exec_acld_body fun _ _ ha => if_pos ha,
      ?zeroes, ?zeroWaits, ?zeroBad, ?loads, ?loadWaits, ?loadRaises⟩,
    ?closes, gives_idle exec_mwtb_body fun _ _ ha => if_pos ha, ?seen, ?again, ?waits, ?ahead⟩
  case zeroes =>
    refine does_doing exec_mzero_body fun v s s1 o hr => ?_
    obtain ⟨⟨ha, htile, hroom⟩, hs, rfl⟩ := hr
    exact ⟨hs, _, (mzeroBody_tile ha htile).trans (if_neg (by simp [streamRoom_iff.mpr hroom])), rfl⟩
  case zeroWaits =>
    refine waits_of exec_mzero_body fun f s bid sid b x _ s1 hr => ?_
    obtain ⟨rfl, ha, htile, hfull⟩ := hr
    exact (mzeroBody_tile ha htile).trans (if_pos (by simp [streamRoom_false hfull]))
  case zeroBad =>
    refine raises_bad exec_mzero_body fun v s c a m hr => ?_
    obtain ⟨hact, htile, ha, hm⟩ := hr
    exact ⟨ha, hm, mzeroBody_bad hact htile⟩
  case loads =>
    refine doesIn_bare exec_acld_body fun v s s1 o hr => ?_
    obtain ⟨ps, s0, hpasses, hroom, rfl, rfl⟩ := hr
    exact ⟨(acldBody_passes hpasses).trans (if_neg (by simp [streamRoom_iff.mpr hroom])), _, _, rfl⟩
  case loadWaits =>
    refine waits_env exec_acld_body fun v s s1 hr => ?_
    obtain ⟨ps, hpasses, hfull⟩ := hr
    exact (acldBody_passes hpasses).trans (if_pos (by simp [streamRoom_false hfull]))
  case loadRaises =>
    refine raises_bad exec_acld_body fun v s c a m hr => ?_
    obtain ⟨hact, ha, hm, ⟨hpitch, rfl⟩ | ⟨hpitch, htile⟩⟩ := hr
    · exact ⟨ha, hm, acldBody_large hact hpitch⟩
    · exact ⟨ha, hm, acldBody_bad hact hpitch htile⟩
  case closes =>
    exact gives_of exec_mbat_body fun f s bid sid b x h => runInstr_went_one h rfl rfl rfl rfl (by exact le_rfl) rfl (fun _ _ => rfl)
  case seen =>
    refine doesIn_bare exec_mwtb_body fun v s s1 o hr => ?_
    obtain ⟨⟨ha, hacq⟩, hahead, hdone, hacquire, rfl⟩ := hr
    exact ⟨(mwtbBody_done ha hacq hahead hdone).trans (acquireThen_done hacquire), _, _, rfl⟩
  case again =>
    refine doesIn_bare exec_mwtb_body fun v s s1 o hr => ?_
    obtain ⟨ha, hacq, hacquire, rfl⟩ := hr
    exact ⟨(mwtbBody_again ha hacq).trans (acquireThen_done hacquire), _, _, rfl⟩
  case waits =>
    refine waits_env exec_mwtb_body fun v s s1 hr => ?_
    obtain ⟨rfl, ⟨ha, hacq⟩, hahead, hdone⟩ := hr
    exact mwtbBody_waits ha hacq hahead hdone
  case ahead =>
    refine raises_bad exec_mwtb_body fun v s c a m hr => ?_
    obtain ⟨⟨hact, hacq⟩, hahead, rfl, ha, hm⟩ := hr
    exact ⟨ha, hm, mwtbBody_ahead hact hacq hahead⟩

end Sys2Proof
end

section
/-! SUPPORT. DRN and DRNX (R283, R284, R290, R299 to R301). -/

namespace Sys2Proof

open Sys2Proof.Machine

/-- Where the primary copy of a drain begins; `x` says that it is DRNX. -/
def Machine.Env.drainAt (v : Env) (x : Bool) : Int := drainBase x (bitOf v.md 6) v.a.scalar v.f

/-- The rows of the primary copy. -/
def Machine.Env.drainSpec (v : Env) (x : Bool) : RowSpec :=
  ⟨v.drainAt x, 16 * (v.o.scalar % 65536), shapeM v.f, drainRow v.ty (shapeN v.f)⟩

/-- The rows of the transposed copy, of which DRN has none. -/
def Machine.Env.transSpec (v : Env) (x : Bool) : RowSpec :=
  ⟨v.drainAt x + litInt v.f, 16 * (v.o.scalar / 65536), if x then shapeN v.f else 0, drainRow v.ty (shapeM v.f)⟩

/-- What DRN and DRNX both ask of a primary copy at `d`. -/
def DrainOk (v : Env) (d : Int) : Prop :=
  v.act ≠ 0 ∧ v.tileFault = none ∧ d % 16 = 0 ∧ drainRow v.ty (shapeN v.f) ≤ 16 * (v.o.scalar % 65536) ∧
    (typeMX v.ty = true → shapeN v.f % 32 = 0)

/-- What DRNX asks of its transposed copy. -/
def TransOk (v : Env) : Prop :=
  drainRow v.ty (shapeM v.f) ≤ 16 * (v.o.scalar / 65536) ∧ (typeMX v.ty = true → shapeM v.f % 32 = 0)

/-- The operands and the tile of a drain are good, and its rows pass their checks. -/
def DrainPasses (x : Bool) (v : Env) (s s1 : State) (ps qs : List Placed) : Prop :=
  (x = false → v.o.scalar ≤ 65535) ∧ DrainOk v (v.drainAt x) ∧ (x = true → TransOk v) ∧
    s.rowGates v (bitOf v.md 6) .write (v.drainSpec x) (v.transSpec x) = .go s1 ps qs

/-- An ordered block has round log records for the lines that a drain writes. -/
def LogRoom (v : Env) (s : State) (ps : List Placed) : Prop := s.isOrdered v.b = true → s.logFull v ps = false

/-- The entry of a drain. -/
def Machine.Env.drainEntry (v : Env) (opc : Nat) (ps qs : List Placed) : SEntry :=
  { v.entry opc v.tileWord with
      opa := BitVec.ofNat 64 v.a.scalar, opb := BitVec.ofNat 32 v.o.scalar, ctr := v.x.ctr.get 0,
      src := if bitOf v.md 6 then [] else ps ++ qs.map (fun q => { q with e := q.e + shapeM v.f }) }

/-- What a drain leaves before it enters the stream: its lines touched, and held by an ordered block. -/
def drainHeld (v : Env) (ord : Bool) (ps : List Placed) (s : State) : State :=
  if ord then ((s.touchAll v ps).holdAll v.b ps).1 else s.touchAll v ps

/-- The words that a drain of `k` copies draws under rsr (R301). -/
def drawWords (v : Env) (k : Nat) (y : Slice) : Slice :=
  { y with ctr := y.ctr.set 0 (y.ctr.get 0 + BitVec.ofNat 64 (if v.rnd = 6 then k * (shapeM v.f * shapeN v.f) else 0)) }

/-- A drain enters the stream: DRN of one copy, DRNX of two. -/
def enterDrain (x : Bool) (v : Env) (s1 : State) (ps qs : List Placed) (s : State) : State :=
  enterStream v (v.drainEntry (if x then 0x8B else 0x8A) ps qs)
    ((drainHeld v (s1.isOrdered v.b) (ps ++ qs) s).modSlice v.bid v.sid (drawWords v (if x then 2 else 1)))

section
variable {x : Bool} {v : Env} {s s1 : State} {ps qs : List Placed}

theorem exec_drn_body (f : Fields) (s : State) : exec (.drn f) s = runInstr (encDrn false f) f (drnBody false) s := rfl

theorem exec_drnx_body (f : Fields) (s : State) : exec (.drnx f) s = runInstr (encDrn true f) f (drnBody true) s := rfl

theorem logRoom_iff : (s1.isOrdered v.b && s1.logFull v ps) = false ↔ LogRoom v s1 ps := by
  unfold LogRoom
  cases s1.isOrdered v.b <;> simp

theorem drawWords_eq : drawWords v (if x then 2 else 1) =
    fun y => { y with ctr := y.ctr.set 0 (y.ctr.get 0 + BitVec.ofNat 64 (drainWords x v.f v.rnd)) } := by
  funext y
  rw [drawWords, drainWords, Nat.mul_comm]

/-- A drain past its checks goes by the room of the round log and of the stream. -/
theorem drnBody_passes (h : DrainPasses x v s s1 ps qs) : drnBody x v s =
    if (s1.isOrdered v.b && s1.logFull v (ps ++ qs)) = true then .raiseIn s1 0x0604 0 v.act
    else if (!v.streamRoom) = true then .wait s1
    else .doneIn s1 (doing (enterDrain x v s1 ps qs)) := by
  obtain ⟨hpitch, ⟨ha, htile, hplace, hrow, hmx⟩, htrans, hgate⟩ := h
  have hsmall : (!x && 65535 < v.o.scalar) = false := by simpa using hpitch
  have hblocks : (typeMX v.ty && (shapeN v.f % 32 ≠ 0 || (x && shapeM v.f % 32 ≠ 0))) = false := by
    simpa using fun hty => ⟨hmx hty, fun hx => (htrans hx).2 hty⟩
  have hrows : (v.drainAt x % 16 ≠ 0 || 16 * (v.o.scalar % 65536) < drainRow v.ty (shapeN v.f)
      || (x && 16 * (v.o.scalar / 65536) < drainRow v.ty (shapeM v.f))) = false := by
    simpa [hplace, hrow] using fun hx => (htrans hx).1
  unfold Env.tileFault Env.tileWord at htile
  unfold Env.drainAt at hrows
  unfold Env.drainSpec Env.transSpec Env.drainAt at hgate
  unfold enterDrain
  rw [drawWords_eq]
  unfold drnBody
  simp only [ha, hsmall, hblocks, htile, hrows, hgate, if_false, Bool.false_eq_true]
  rfl

theorem drnBody_enters (h : DrainPasses x v s s1 ps qs) (hlog : LogRoom v s1 (ps ++ qs)) (hroom : v.b.stream.length < 64) :
    drnBody x v s = .doneIn s1 (doing (enterDrain x v s1 ps qs)) := by
  rw [drnBody_passes h, logRoom_iff.mpr hlog, streamRoom_iff.mpr hroom]
  rfl

theorem drnBody_full (h : DrainPasses x v s s1 ps qs) (hlog : LogRoom v s1 (ps ++ qs)) (hfull : 64 ≤ v.b.stream.length) :
    drnBody x v s = .wait s1 := by
  rw [drnBody_passes h, logRoom_iff.mpr hlog, streamRoom_false hfull]
  rfl

end

end Sys2Proof
end

section
/-! SUPPORT. DRNA (R284, R290, R302 to R304). -/

namespace Sys2Proof

open Sys2Proof.Machine

/-- What is wrong with either tile of DRNA, its own first. -/
def Machine.Env.bothTilesFault (v : Env) : Option Half :=
  v.tileFault.or (tileCause v.b.acc (shapeM v.f) (shapeN v.f) (BitVec.ofNat 32 (litNat v.f)))

/-- DRNA's handle and target name another current member of a group of blocks. -/
def DrnaTarget (v : Env) (s : State) (g : Group) (m : Nat) : Prop :=
  v.act ≠ 0 ∧ (∃ slot, s.groupOf v.b v.a.scalar = .ok (true, slot, g)) ∧ s.memberAt true g v.o.scalar = some m ∧ m ≠ v.bid ∧ m ∈ g.current

/-- The next number of a handle and target. -/
def Machine.Env.nextDrna (v : Env) : Nat :=
  match v.b.drnaSeq.find? (fun q => q.1 == v.a.scalar && q.2.1 == v.o.scalar) with | some q => q.2.2 | none => 0

/-- A block that has given the next number. -/
def Machine.Env.countDrna (v : Env) (ordered : Bool) (b : Block) : Block :=
  if ordered then
    { b with drnaSeq := (v.a.scalar, v.o.scalar, v.nextDrna + 1) :: b.drnaSeq.filter (fun q => !(q.1 == v.a.scalar && q.2.1 == v.o.scalar)) }
  else b

/-- The entry of DRNA, with what its issue has fixed. -/
def Machine.Env.drnaEntry (v : Env) (ordered : Bool) (s : State) (g : Group) (m : Nat) : SEntry :=
  { v.entry (if ordered then 0x8C else 0x8D) v.tileWord with
      opa := BitVec.ofNat 64 v.a.scalar, opb := BitVec.ofNat 32 v.o.scalar, dst := m, seq := if ordered then v.nextDrna else 0,
      rank := if ordered then s.rankOf true g v.bid else 0, epoch := g.epoch,
      ahead := if ordered then g.published.filter (fun k => k != m && decide (s.rankOf true g k < s.rankOf true g v.bid)) else [] }

/-- DRNA enters the stream. -/
def enterDrna (ordered : Bool) (v : Env) (s1 : State) (g : Group) (m : Nat) (s : State) : State :=
  enterStream v (v.drnaEntry ordered s1 g m) (s.modBlock v.bid (v.countDrna ordered))

section
variable {ordered : Bool} {v : Env} {s : State} {g : Group} {m : Nat} {c : Half}

theorem exec_drnaO_body (f : Fields) (s : State) : exec (.drnaO f) s = runInstr (encDrna 0x8C) f (drnaBody true) s := rfl

theorem exec_drnaU_body (f : Fields) (s : State) : exec (.drnaU f) s = runInstr (encDrna 0x8D) f (drnaBody false) s := rfl

/-- DRNA whose target is good goes by its tiles and by the room of the stream. -/
theorem drnaBody_target (h : DrnaTarget v s g m) : drnaBody ordered v s =
    match v.bothTilesFault with
    | some c => v.bad s c
    | none => if (!v.streamRoom) = true then .wait s else doneEff (enterDrna ordered v s g m) := by
  obtain ⟨ha, ⟨slot, hgroup⟩, hmember, hother, hcurrent⟩ := h
  have hnamed : (m = v.bid || !g.current.contains m) = false := by simp [hother, hcurrent]
  simp only [drnaBody, ha, hgroup, hmember, hnamed, Bool.false_eq_true, if_false, if_true]
  rfl

theorem drnaBody_enters (h : DrnaTarget v s g m) (htiles : v.bothTilesFault = none) (hroom : v.b.stream.length < 64) :
    drnaBody ordered v s = doneEff (enterDrna ordered v s g m) := by
  rw [drnaBody_target h, htiles, streamRoom_iff.mpr hroom]
  rfl

theorem drnaBody_full (h : DrnaTarget v s g m) (htiles : v.bothTilesFault = none) (hfull : 64 ≤ v.b.stream.length) :
    drnaBody ordered v s = .wait s := by
  rw [drnaBody_target h, htiles, streamRoom_false hfull]
  rfl

theorem drnaBody_tiles (h : DrnaTarget v s g m) (htiles : v.bothTilesFault = some c) : drnaBody ordered v s = v.bad s c := by
  rw [drnaBody_target h, htiles]

theorem drnaBody_handle (ha : v.act ≠ 0) (hgroup : s.groupOf v.b v.a.scalar = .error c) : drnaBody ordered v s = v.bad s c := by
  simp only [drnaBody, ha, hgroup, if_false]

/-- DRNA whose target is no other current member of a group of blocks. -/
theorem drnaBody_stranger {blk : Bool} {slot : Nat} (ha : v.act ≠ 0) (hgroup : s.groupOf v.b v.a.scalar = .ok (blk, slot, g))
    (h : blk = false ∨ s.memberAt true g v.o.scalar = none ∨ ∃ k, s.memberAt true g v.o.scalar = some k ∧ (k = v.bid ∨ k ∉ g.current)) :
    drnaBody ordered v s = v.bad s 0x0404 := by
  simp only [drnaBody, ha, hgroup, if_false]
  cases blk with
  | false => rfl
  | true =>
    rcases h.resolve_left nofun with hnone | ⟨k, hmember, hout⟩
    · simp only [hnone, if_true]
    · have hbad : (k = v.bid || !g.current.contains k) = true := by simpa using hout
      simp only [hmember, hbad, if_true]

end

/-! ### Both rows of DRNA -/

section
variable {i : Fields → Instr} {opc : Nat} {ordered : Bool} (he : ∀ f s, exec (i f) s = runInstr (encDrna opc) f (drnaBody ordered) s)
include he

theorem drna_idle : GivesIf i (fun _ => encDrna opc) (fun v _ => v.act = 0) (fun _ _ => {}) := gives_idle he fun _ _ ha => if_pos ha

theorem drna_enters : Does i (fun _ => encDrna opc) (fun v s s1 o => s1 = s ∧ ∃ g m, DrnaTarget v s g m ∧ v.bothTilesFault = none ∧
    v.b.stream.length < 64 ∧ o = doing (enterDrna ordered v s1 g m)) :=
  does_doing he fun v s s1 o hr => by
    obtain ⟨rfl, g, m, htarget, htiles, hroom, rfl⟩ := hr
    exact ⟨rfl, _, drnaBody_enters htarget htiles hroom, rfl⟩

theorem drna_waits : Waits i (fun _ => encDrna opc) (fun v s s1 => s1 = s ∧ ∃ g m, DrnaTarget v s g m ∧ v.bothTilesFault = none ∧
    64 ≤ v.b.stream.length) :=
  waits_env he fun v s s1 hr => by
    obtain ⟨rfl, g, m, htarget, htiles, hfull⟩ := hr
    exact drnaBody_full htarget htiles hfull

theorem drna_raises : Raises i (fun _ => encDrna opc) (fun v s c a m => v.act ≠ 0 ∧ a = 0 ∧ m = v.act ∧
    (s.groupOf v.b v.a.scalar = .error c ∨ ∃ g k, DrnaTarget v s g k ∧ v.bothTilesFault = some c)) :=
  raises_bad he fun v s c a m hr => by
    obtain ⟨hact, ha, hm, hgroup | ⟨g, k, htarget, htiles⟩⟩ := hr
    · exact ⟨ha, hm, drnaBody_handle hact hgroup⟩
    · exact ⟨ha, hm, drnaBody_tiles htarget htiles⟩

theorem drna_stranger : Raises i (fun _ => encDrna opc) (fun v s c a m => v.act ≠ 0 ∧ a = 0 ∧ m = v.act ∧ c = 0x0404 ∧
    ∃ blk slot g, s.groupOf v.b v.a.scalar = .ok (blk, slot, g) ∧
      (blk = false ∨ s.memberAt true g v.o.scalar = none ∨ ∃ k, s.memberAt true g v.o.scalar = some k ∧ (k = v.bid ∨ k ∉ g.current))) :=
  raises_bad he fun v s c a m hr => by
    obtain ⟨hact, ha, hm, rfl, blk, slot, g, hgroup, hout⟩ := hr
    exact ⟨ha, hm, drnaBody_stranger hact hgroup hout⟩

end

end Sys2Proof
end

section
/-! DRN, DRNX and the two DRNA (R283, R284, R290, R299 to R304). -/

namespace Sys2Proof

open Sys2Proof.Machine

/-- Settles O28: a drain whose rows pass their checks goes by the room that it finds; each DRNA goes by its handle, its target, its tiles and
the room of the stream. -/
theorem drains : Obligations.Drains := by
  unfold Obligations.Drains
  refine ⟨⟨gives_idle exec_drn_body fun _ _ ha => if_pos ha, gives_idle exec_drnx_body fun _ _ ha => if_pos ha,
    ?drnEnters, ?drnFull, ?drnxEnters, ?drnxFull⟩,
    ⟨drna_idle exec_drnaO_body, drna_enters exec_drnaO_body, drna_waits exec_drnaO_body, drna_raises exec_drnaO_body,
      drna_stranger exec_drnaO_body⟩,
    drna_idle exec_drnaU_body, drna_enters exec_drnaU_body, drna_waits exec_drnaU_body, drna_raises exec_drnaU_body,
    drna_stranger exec_drnaU_body⟩
  case drnEnters =>
    refine doesIn_bare exec_drn_body fun v s s1 o hr => ?_
    obtain ⟨ps, qs, ⟨hpitch, hok, hgate⟩, ⟨hlog, hroom⟩, rfl⟩ := hr
    exact ⟨drnBody_enters ⟨fun _ => hpitch, hok, nofun, hgate⟩ hlog hroom, _, _, rfl⟩
  case drnFull =>
    refine waits_env exec_drn_body fun v s s1 hr => ?_
    obtain ⟨ps, qs, ⟨hpitch, hok, hgate⟩, hlog, hfull⟩ := hr
    exact drnBody_full ⟨fun _ => hpitch, hok, nofun, hgate⟩ hlog hfull
  case drnxEnters =>
    refine doesIn_bare exec_drnx_body fun v s s1 o hr => ?_
    obtain ⟨ps, qs, ⟨hok, hrow, hmx, hgate⟩, ⟨hlog, hroom⟩, rfl⟩ := hr
    exact ⟨drnBody_enters ⟨nofun, hok, fun _ => ⟨hrow, hmx⟩, hgate⟩ hlog hroom, _, _, rfl⟩
  case drnxFull =>
    refine waits_env exec_drnx_body fun v s s1 hr => ?_
    obtain ⟨ps, qs, ⟨hok, hrow, hmx, hgate⟩, hlog, hfull⟩ := hr
    exact drnBody_full ⟨nofun, hok, fun _ => ⟨hrow, hmx⟩, hgate⟩ hlog hfull

end Sys2Proof
end

section
/-! SUPPORT. The events of slots and of the stream (R279 to R288, R292 to R304). -/

namespace Sys2Proof.Machine

section
variable {s s1 : State} {bid fid i k : Nat} {b t : Block} {x : SlotFill} {e : SEntry} {a : Addition} {done : Bool}

/-! ### Slot fills -/

theorem exec_slotFillLand_rows {vals mets : List (List Byte)} (hb : s.blocks.get? bid = some b) (hx : b.slotFills.get? fid = some x)
    (hready : s.slotReady b bid fid x = true) (hdata : s.slotData b bid x = (s1, .rows vals mets)) :
    exec (.slotFillLand bid fid) s = .next (s1.landSlotFill bid fid x vals mets) := by
  simp only [exec_slotFillLand, execSlotFillLand, State.slotFillEvent, hb, hx, hready, hdata, Bool.not_true, Bool.false_eq_true, if_false]

theorem exec_slotFillFault_fault {c : Half} {addr : Nat} (hb : s.blocks.get? bid = some b) (hx : b.slotFills.get? fid = some x)
    (hready : s.slotReady b bid fid x = true) (hdata : s.slotData b bid x = (s1, .fault c addr)) :
    exec (.slotFillFault bid fid) s = .next (s1.faultSlotFill bid fid x c addr) := by
  simp only [exec_slotFillFault, execSlotFillFault, State.slotFillEvent, hb, hx, hready, hdata, Bool.not_true, Bool.false_eq_true, if_false]

/-! ### An entry begins -/

theorem exec_streamEntryBegin_turn (ht : s.streamTurn bid = some (b, i, e)) (hbegun : e.begun = false) (hopc : e.opc ≠ 0x8C)
    (hearlier : e.opc = 0x87 ∨ e.opc = 0x8A ∨ e.opc = 0x8B → s.earlierDone b bid e.sid e.after = true) :
    exec (.streamEntryBegin bid) s = .next (s.modBlock bid (fun b => b.setEntry i { e with begun := true })) := by
  have hfirst : (e.begun || e.opc = 0x8C) = false := by simp [hbegun, hopc]
  have hdone : ((e.opc = 0x87 || e.opc = 0x8A || e.opc = 0x8B) && !s.earlierDone b bid e.sid e.after) = false := by
    simpa [or_assoc] using hearlier
  simp only [exec_streamEntryBegin, execStreamEntryBegin, ht, hfirst, hdone, Bool.false_eq_true, if_false]

theorem exec_drnaGrant_granted (ht : s.streamTurn bid = some (b, i, e)) (hbegun : e.begun = false) (hopc : e.opc = 0x8C)
    (hgranted : s.granted b e = true) :
    exec (.drnaGrant bid) s = .next (s.modBlock bid (fun b => b.setEntry i { e with begun := true })) := by
  simp [exec_drnaGrant, execDrnaGrant, ht, hbegun, hopc, hgranted]

theorem exec_slotOperandReadEnd_product (ht : s.streamTurn bid = some (b, i, e)) (hbegun : e.begun = true) (hread : e.readEnded = false)
    (hopc : e.opc = 0x84 ∨ e.opc = 0x85) : exec (.slotOperandReadEnd bid) s = .next (s.modBlock bid (fun _ =>
      ({ b with accWords := b.mmaResult e }.setEntry i { e with readEnded := true }).dropReads e)) := by
  have hproduct : (!e.begun || e.readEnded || !(e.opc = 0x84 || e.opc = 0x85)) = false := by
    simpa [hbegun, hread, or_iff_not_imp_left] using hopc
  simp only [exec_slotOperandReadEnd, execSlotOperandReadEnd, ht, hproduct, Bool.false_eq_true, if_false]

/-! ### An entry completes -/

/-- Entry `i` leaves its block's stream. -/
def State.leaveStream (s : State) (bid i : Nat) : State := s.modBlock bid (fun b => { b with stream := b.stream.eraseIdx i })

section
variable (ht : s.streamTurn bid = some (b, i, e)) (hbegun : e.begun = true)
include ht hbegun

theorem exec_streamEntryComplete_product (hopc : e.opc = 0x84 ∨ e.opc = 0x85) (hread : e.readEnded = true) :
    exec (.streamEntryComplete bid) s = .next (s.leaveStream bid i) := by
  rcases hopc with hopc | hopc <;>
    simp [exec_streamEntryComplete, execStreamEntryComplete, ht, hbegun, hopc, hread, State.leaveStream]

theorem exec_streamEntryComplete_mzero (hopc : e.opc = 0x86) : exec (.streamEntryComplete bid) s =
    .next ((s.modBlock bid (fun b => { b with accWords := clearTile b.accWords e.tile (shapeM e.f) (shapeN e.f) })).leaveStream bid i) := by
  simp [exec_streamEntryComplete, execStreamEntryComplete, ht, hbegun, hopc, State.leaveStream]

theorem exec_streamEntryComplete_acld (hopc : e.opc = 0x87) (hload : s.acload bid b e = (s1, done)) :
    exec (.streamEntryComplete bid) s = .next (if done then s1.leaveStream bid i else s1) := by
  cases done <;> simp [exec_streamEntryComplete, execStreamEntryComplete, ht, hbegun, hopc, hload, State.leaveStream]

theorem exec_streamEntryComplete_drain (hopc : e.opc = 0x8A ∨ e.opc = 0x8B) (hdrain : s.drain bid b e = (s1, done)) :
    exec (.streamEntryComplete bid) s = .next (if done then s1.leaveStream bid i else s1) := by
  rcases hopc with hopc | hopc <;> cases done <;>
    simp [exec_streamEntryComplete, execStreamEntryComplete, ht, hbegun, hopc, hdrain, State.leaveStream]

theorem exec_streamEntryComplete_drna (hopc : e.opc = 0x8C ∨ e.opc = 0x8D) :
    exec (.streamEntryComplete bid) s = .next (s.sendDrna bid b i e) := by
  rcases hopc with hopc | hopc <;> simp [exec_streamEntryComplete, execStreamEntryComplete, ht, hbegun, hopc]

end

/-! ### An addition -/

/-- No earlier ordered addition of the same source, target and handle is under way. -/
def State.AdditionFirst (s : State) (k : Nat) (a : Addition) : Prop :=
  a.ordered = true → ∀ j q, (j, q) ∈ s.additions → j < k → q.ordered = true → q.src = a.src → q.dst = a.dst → q.handle ≠ a.handle

/-- An addition that has been applied is noted at its target where it is ordered. -/
def Addition.noted (a : Addition) (b : Block) : Block :=
  if a.ordered then { b with drnaApplied := (a.handle, a.epoch, a.seq, a.src) :: b.drnaApplied } else b

theorem exec_drnaAddition_applied (ha : s.additions.get? k = some a) (hdst : s.blocks.get? a.dst = some t) (hstate : t.state = .resident)
    (hfirst : s.AdditionFirst k a) (hturn : ∀ i e, t.turn = some (i, e) → e.begun = false)
    (hreach : ∀ b, s.blocks.get? a.src = some b → s.barred b.die t.die = false) :
    exec (.drnaAddition k) s = .next (((s.drnaDone k a).modBlock a.dst (fun b => { b with accWords := a.apply b.accWords })).modBlock
      a.dst a.noted) := by
  have hlate : s.additions.any (fun q => decide (q.1 < k) && a.ordered && q.2.ordered && q.2.src == a.src && q.2.dst == a.dst
      && q.2.handle == a.handle) = false := by
    simp only [List.any_eq_false, Bool.and_eq_true, decide_eq_true_eq, beq_iff_eq]
    rintro ⟨j, q⟩ hmem ⟨⟨⟨⟨⟨hlt, hordered⟩, hq⟩, hsrc⟩, htgt⟩, hhandle⟩
    exact hfirst hordered j q hmem hlt hq hsrc htgt hhandle
  unfold Addition.noted
  simp only [exec_drnaAddition, execDrnaAddition, ha, hlate, hdst, hstate, Bool.false_or]
  -- What is left guards by the source's way to the target and by the entry at the target's turn.
  cases hsrc : s.blocks.get? a.src with
  | none => cases hq : t.turn with
    | none => rfl
    | some q => simp [hturn q.1 q.2 hq]
  | some c => cases hq : t.turn with
    | none => simp [hreach c hsrc]
    | some q => simp [hreach c hsrc, hturn q.1 q.2 hq]

end

end Sys2Proof.Machine
end

section
/-! The events of slots and of the stream (R279 to R288, R292 to R304). -/

namespace Sys2Proof

open Sys2Proof.Machine

/-- Settles O42: each event does what its lemma above says, under the conditions that its definition asks for. -/
theorem streamEvents : Obligations.StreamEvents := by
  unfold Obligations.StreamEvents
  refine ⟨?lands, ?faults, fun s bid b i e => exec_streamEntryBegin_turn, fun s bid b i e => exec_drnaGrant_granted,
    fun s bid b i e => exec_slotOperandReadEnd_product, ?completes, fun s k a t => exec_drnaAddition_applied⟩
  case lands =>
    intro s bid fid b x s1 vals mets ⟨hb, hx, hready⟩ hdata
    exact exec_slotFillLand_rows hb hx hready hdata
  case faults =>
    intro s bid fid b x s1 c addr ⟨hb, hx, hready⟩ hdata
    exact exec_slotFillFault_fault hb hx hready hdata
  case completes =>
    intro s bid b i e ht hbegun
    exact ⟨exec_streamEntryComplete_product ht hbegun, exec_streamEntryComplete_mzero ht hbegun,
      fun s1 done => exec_streamEntryComplete_acld ht hbegun, fun s1 done => exec_streamEntryComplete_drain ht hbegun,
      exec_streamEntryComplete_drna ht hbegun⟩

end Sys2Proof
end

section
/-! SUPPORT. Instructions with a pair as their result whose value is read after the allocation, as a token is (R90, R311): the pair holds
the value as if it had been the result from the start. -/

namespace Sys2Proof

open Sys2Proof.Machine

/-- A result written whole takes the place of another value written there. -/
theorem resultOver_withValue {w : RegWrite} (hw : w.whole = true) (q : Quad Dword) (p : Nat → RegVal) :
    resultOver (w.withValue q) (resultOver w p) = resultOver (w.withValue q) p := by
  funext k
  unfold resultOver RegWrite.withValue
  by_cases hlow : k = w.d
  · simp only [hlow, if_true, hw, writeV_over]
  by_cases hhigh : w.wide = true ∧ k = w.d + 1
  · have hne : w.d + 1 ≠ w.d := Nat.succ_ne_self _
    simp only [hhigh, hne, if_true, if_false, and_self, hw, writeV_over]
  · simp only [hlow, hhigh, if_false]

/-- A slice that differs from another in its list of registers only, and reads them alike. -/
structure ReadsAs (y z : Slice) : Prop where
  fields : y = { z with regs := y.regs }
  regs : y.reg = z.reg

theorem ReadsAs.of_fields {x y z : Slice} {t : Bool} (hy : y = { x with regs := y.regs, sticky := t })
    (hz : z = { x with regs := z.regs, sticky := t }) (h : y.reg = z.reg) : ReadsAs y z :=
  ⟨by rw [hy, hz], h⟩

theorem applyWrite_fields {x y : Slice} {t : Bool} (h : y = { x with regs := y.regs, sticky := t }) (w : RegWrite) :
    y.applyWrite w = { x with regs := (y.applyWrite w).regs, sticky := t } := by
  rw [Slice.applyWrite_eq]
  exact congrArg (fun u : Slice => { u with regs := (y.applyWrite w).regs }) h

theorem latchOf_congr {y z : Slice} (h : y.reg = z.reg) (n : Bool) (w : RegWrite) : latchOf n w y = latchOf n w z := by
  unfold latchOf
  rw [h]

theorem ReadsAs.retire {y z : Slice} (h : ReadsAs y z) (opc : Nat) (f : Fields) (o : Out) (ws : List RegWrite) :
    ReadsAs (y.retire opc f o ws) (z.retire opc f o ws) := by
  obtain ⟨hfields, hregs⟩ := h
  refine ⟨?_, funext fun k => by rw [Slice.retire_reg, Slice.retire_reg, hregs]⟩
  unfold Slice.retire
  cases clearsLatches opc f.y with
  | true => rw [hfields]; rfl
  | false => cases ws with
    | nil => rw [hfields]; rfl
    | cons w ws =>
      simp only [latchOf_congr hregs]
      rw [hfields]
      rfl

theorem ReadsAs.went {e : Enc} {f : Fields} {x y z : Slice} {o : Out} (h : ReadsAs y z) (hz : Went e f x o z) : Went e f x o y := by
  obtain ⟨hfields, hregs⟩ := h
  refine ⟨?_, fun k => hregs ▸ hz.regs k⟩
  have hlatches : latchesAfter e f x y o = latchesAfter e f x z o := by
    unfold latchesAfter
    simp only [latchOf_congr hregs]
  rw [hlatches]
  exact hfields.trans (congrArg (fun u : Slice => { u with regs := y.regs }) hz.fields)

/-- The slice as an instruction leaves it when its result `w` has been read after the allocation. -/
def Machine.Slice.finishLate (x : Slice) (opc : Nat) (f : Fields) (rels : List Nat) (sticky : Bool) (o : Out) (w : RegWrite) : Slice :=
  let z := x.allocated f rels sticky o
  (if f.n then z else z.applyWrite w).retire opc f o [w]

section
variable {x : Slice} {f : Fields} {rels : List Nat} {sticky : Bool} {o : Out} {w : RegWrite} {q : Quad Dword}

/-- An allocation changes the registers and the status of R92. -/
theorem allocated_fields (x : Slice) (o : Out) :
    x.allocated f rels sticky o = { x with regs := (x.allocated f rels sticky o).regs, sticky := x.sticky || sticky } := by
  unfold Slice.allocated
  rw [Slice.afterWrites_eq]

theorem allocated_reg (hl : o.fills = []) (ho : o.regs = [w]) :
    (x.allocated f rels sticky o).reg = if f.n then x.kept rels else resultOver w (x.kept rels) := by
  have hkept : (rels.foldl (fun y k => y.setReg k .empty) x).reg = x.kept rels := funext (Slice.reg_releases rels x)
  have hregs : (x.allocated f rels sticky o).reg = (x.afterWrites f.n rels o o.regs).reg := funext (Slice.reg_of_regs rfl)
  rw [hregs]
  unfold Slice.afterWrites
  simp only [hl, ho, List.foldl_nil, List.foldl_cons]
  split
  · exact hkept
  · rw [← hkept]
    exact funext (Slice.reg_applyWrite _ w)

/-- The value that is read last reads in the slice as if it had been the result from the start. -/
theorem finishLate_readsAs (opc : Nat) (hl : o.fills = []) (ho : o.regs = [w]) (hw : w.whole = true) :
    ReadsAs (x.finishLate opc f rels sticky o (w.withValue q)) (x.finish opc f rels sticky (o.withResult (w.withValue q))) := by
  have hlate := allocated_fields (f := f) (rels := rels) (sticky := sticky) x o
  have hfirst := allocated_fields (f := f) (rels := rels) (sticky := sticky) x (o.withResult (w.withValue q))
  have hlateReg := allocated_reg (x := x) (f := f) (rels := rels) (sticky := sticky) hl ho
  have hfirstReg := allocated_reg (x := x) (f := f) (rels := rels) (sticky := sticky) (o := o.withResult (w.withValue q)) hl rfl
  suffices ReadsAs (if f.n then x.allocated f rels sticky o else (x.allocated f rels sticky o).applyWrite (w.withValue q))
      (if f.n then x.allocated f rels sticky (o.withResult (w.withValue q))
        else (x.allocated f rels sticky (o.withResult (w.withValue q))).applyWrite (w.withValue q)) from
    this.retire opc f o [w.withValue q]
  cases hn : f.n with
  | true =>
    simp only [hn, if_true] at hlateReg hfirstReg ⊢
    exact .of_fields hlate hfirst (hlateReg.trans hfirstReg.symm)
  | false =>
    simp only [hn, Bool.false_eq_true, if_false] at hlateReg hfirstReg ⊢
    refine .of_fields (applyWrite_fields hlate _) (applyWrite_fields hfirst _) ?_
    rw [funext (Slice.reg_applyWrite _ _), funext (Slice.reg_applyWrite _ _), hlateReg, hfirstReg, resultOver_withValue hw]
    exact (resultOver_withValue (w := w.withValue q) hw q _).symm

end

section
variable {s s1 : State} {bid sid : Nat} {b : Block} {x x1 : Slice} {e : Enc} {f : Fields} {body : Env → State → Res} {o : Out} {w : RegWrite}
  {q : Quad Dword}

/-- An instruction whose one result is read after the allocation, and does not depend on the slices, completes with that result. -/
theorem complete_late (opc : Nat) (rels : List Nat) (sticky : Bool) (hx : s.slice? bid sid = some x)
    (ho : o.regs = [w]) (hl : o.fills = []) (hp : ∀ k ∈ o.rels, (x.reg k).isPend = false)
    (ht : f.n = false → ∀ k ∈ w.targets, (x.reg k).isPend = false)
    (ha : ∀ n, n ≤ 128 → s.alloc bid sid n = (s, true))
    (hf : ∀ g, o.fix (s.modSlice bid sid g) [w] = [w.withValue q]) :
    complete opc f bid sid rels sticky o s = o.eff (settled s bid sid (x.finishLate opc f (rels ++ o.rels) sticky o (w.withValue q))) := by
  have hneed : x.need (x.afterWrites f.n (rels ++ o.rels) o o.regs) o.rels ≤ 128 := by
    rw [Slice.need_gone hp]
    exact Nat.le_trans (Slice.need_le x f.n (rels ++ o.rels) o) (by simp [ho, hl])
  have hstall : ((if f.n then [] else o.regs.flatMap RegWrite.targets) ++ o.fills).any
      (fun k => (x.reg k).isPend && !(rels ++ o.rels).contains k) = false := by
    rw [hl, ho, List.append_nil]
    cases hn : f.n with
    | true => rfl
    | false => exact List.any_eq_false.mpr fun k hk => by simp [ht hn k (by simpa using hk)]
  have hnone : o.rels.filter (fun k => (x.reg k).isPend) = [] :=
    List.filter_eq_nil_iff.mpr fun k hk => by rw [hp k hk]; decide
  unfold complete
  simp only [hx, hstall, ha _ hneed, Bool.false_eq_true, if_false]
  unfold completeNow settled
  simp only [hx, hnone, State.dropRegs_nil hx, State.modSlice_modSlice, ho, hf]
  rw [State.modSlice_eq _ _ _ _ hx]
  unfold Slice.finishLate Slice.allocated
  rw [ho]
  rfl

theorem runInstr_went_late (h : Ready e f s bid sid b x) (hb : body (e.env f bid sid b x) s = .doneIn s1 o)
    (hon : Onward s1 bid sid x x1) (ho : o.regs = [w]) (hl : o.fills = []) (hw : w.whole = true)
    (hp : ∀ k ∈ o.rels, (x.reg k).isPend = false) (ht : f.n = false → ∀ k ∈ w.targets, (x.reg k).isPend = false)
    (hf : ∀ g, o.fix (s1.modSlice bid sid g) [w] = [w.withValue q]) :
    ∃ y, runInstr e f body s = .next (o.eff (settled s1 bid sid y)) ∧ Went e f x1 (o.withResult (w.withValue q)) y := by
  obtain ⟨hslice, hsame, b1, hblock, hfree, hreserve, hwaiters, hspilled⟩ := hon
  obtain ⟨hmode, hreg, hempty⟩ := onward_reads (f := f) hsame
  have ha : ∀ n, n ≤ 128 → s1.alloc bid sid n = (s1, true) := fun n hn =>
    State.alloc_room s1 bid sid n 128 b1 hblock hn hfree hreserve hwaiters hspilled
  rw [runInstr_doneIn h.cur h.legal h.sources hb, complete_late _ _ _ hslice ho hl (hreg ▸ hp) (hreg ▸ ht) ha hf, ← hmode, ← hempty]
  refine ⟨_, rfl, (finishLate_readsAs _ hl ho hw).went ?_⟩
  exact givenUp_finish_went (ks := []) (fun _ hk => absurd hk List.not_mem_nil) (fun _ => apart_one _)
    (fun _ k hk => by simp [Out.withResult, hl] at hk)

end

end Sys2Proof
end

section
/-! SUPPORT. Instructions that issue an entry (R309, R311, R319): the token goes to the destination pair, or they wait for room. -/

namespace Sys2Proof

open Sys2Proof.Machine

section
variable {v : Env} {s : State} {a : Asked}

/-- What an instruction that issues an entry answers: the null token, which the token that is taken after the allocation replaces. -/
def Asked.pendingOut (a : Asked) (v : Env) (s : State) : Out :=
  { a.out v s with
    regs := [v.writeUni true 0]
    fix := fun s _ => [v.writeUni true (s.takeToken v.b.die a.queue v.b.ctx a.scope).1] }

/-- The issue of the entry that an instruction asks for. -/
def Asked.issue (a : Asked) (v : Env) (s : State) : Res :=
  issueEntry v s a.queue a.owner a.scope a.det a.kind a.lines a.rels a.sticky

theorem Asked.issue_eq : a.issue v s =
    if !s.queueRoom v.b.die a.queue a.owner || !s.roomFor v.b.ctx v.b.die a.kind.places || !s.linesRoom a.lines then .wait s
    else .doneIn s (a.pendingOut v s) := rfl

theorem Asked.full_iff : (!s.queueRoom v.b.die a.queue a.owner || !s.roomFor v.b.ctx v.b.die a.kind.places || !s.linesRoom a.lines) = true ↔
    ¬a.room v s := by
  simp only [Asked.room, Bool.or_eq_true, Bool.not_eq_true', Bool.eq_false_iff, Ne]
  tauto

theorem Asked.issue_room (h : a.room v s) : a.issue v s = .doneIn s (a.pendingOut v s) :=
  Asked.issue_eq.trans (if_neg (by rw [Asked.full_iff, not_not]; exact h))

theorem Asked.issue_full (h : ¬a.room v s) : a.issue v s = .wait s := Asked.issue_eq.trans (if_pos (Asked.full_iff.mpr h))

/-- The token that is taken does not depend on the slices. -/
theorem takeToken_modSlice (s : State) (bid sid : Nat) (g : Slice → Slice) (die queue ctx : Nat) (scope : Scope) :
    ((s.modSlice bid sid g).takeToken die queue ctx scope).1 = (s.takeToken die queue ctx scope).1 := by
  have hdie : (s.modSlice bid sid g).die die = s.die die := by simp [State.die]
  unfold State.takeToken
  simp only [hdie]

end

section
variable {i : Fields → Instr} {e : Fields → Enc} {body : Env → State → Res} {run : Env → State → State → Asked → Prop}

/-- An instruction whose meaning issues an entry that it asks for, once it has read what names it. -/
theorem issues_of (he : ∀ f s, exec (i f) s = runInstr (e f) f body s) (hdst : ∀ f, (e f).dst = .w64)
    (hidle : ∀ v s, v.act = 0 → body v s = nullToken v)
    (hrun : ∀ v s s1 a, v.act ≠ 0 → run v s s1 a → body v s = a.issue v s1 ∧ ∀ k ∈ a.rels, (v.x.reg k).isPend = false) :
    Issues i e run := by
  have hspan : ∀ f ty, (e f).dst.span ty f = 2 := fun f ty => by rw [hdst f]; rfl
  refine ⟨?idle, ?issues, ?waits⟩
  case idle =>
    refine givesIf_plain he fun f s bid sid b x _ hact => ⟨hidle _ _ hact, plain_one rfl ?_ _ _⟩
    exact (hspan f _).ge
  case issues =>
    intro f s bid sid b x h s1 o ⟨a, hact, hasked, hroom, ho⟩ x1 hon
    subst ho
    obtain ⟨hbody, hrels⟩ := hrun _ _ _ _ hact hasked
    have htargets : f.n = false → ∀ k ∈ (((e f).env f bid sid b x).writeUni true 0).targets, (x.reg k).isPend = false := by
      intro hn k hk
      have hdst := h.dst hn
      rw [hspan] at hdst
      obtain rfl | rfl : k = f.dst.toNat ∨ k = f.dst.toNat + 1 := by simpa [RegWrite.targets, Env.writeUni, Enc.env] using hk
      · exact hdst 0 (by decide)
      · exact hdst 1 (by decide)
    have htoken : ∀ g, (a.pendingOut ((e f).env f bid sid b x) s1).fix (s1.modSlice bid sid g) [((e f).env f bid sid b x).writeUni true 0]
        = [((e f).env f bid sid b x).writeUni true (s1.takeToken b.die a.queue b.ctx a.scope).1] := fun g =>
      congrArg (fun t => [((e f).env f bid sid b x).writeUni true t]) (takeToken_modSlice ..)
    obtain ⟨y, hexec, hwent⟩ := runInstr_went_late (q := Quad.all (s1.takeToken b.die a.queue b.ctx a.scope).1) h
      (hbody.trans (Asked.issue_room hroom)) hon rfl rfl rfl hrels htargets htoken
    exact ⟨y, (he f s).trans hexec, hwent.fields, hwent.regs⟩
  case waits =>
    refine waits_env he fun v s s1 hr => ?_
    obtain ⟨a, hact, hasked, hfull⟩ := hr
    exact (hrun _ _ _ _ hact hasked).1.trans (Asked.issue_full hfull)

end

end Sys2Proof
end

section
/-! SUPPORT. What CPY, CPT, CPG, CPS and QFEN answer (R318 to R321, R324, R326). -/

namespace Sys2Proof

open Sys2Proof.Machine

/-- The scope of a copy. -/
def Machine.Env.copyScope (v : Env) : Scope := (scopeOf (v.md / 2 % 8)).getD .die

section
variable {v : Env} {s s1 : State} {bytes : List Byte}

/-! ### CPY (R320) -/

/-- The source of CPY. -/
def Machine.Env.copySrc (v : Env) : Side := sideOf (bitOf v.md 5) v.a

/-- The destination of CPY. -/
def Machine.Env.copyDst (v : Env) : Side := sideOf (bitOf v.md 6) v.o

/-- The window lines that an entry writes from its destination. -/
def Machine.State.sideLines (s : State) (v : Env) (x : Side) (n : Nat) : List (Nat × Nat) :=
  match x with
  | .win o => s.destLines [v.bid] o n
  | .glob _ => []

/-- What CPY asks for. -/
def copyAsked (v : Env) (s : State) : Asked :=
  { queue := v.md % 2, owner := v.bid, scope := v.copyScope, det := bitOf v.md 4, kind := .copy v.copySrc v.copyDst v.c.scalar
    lines := s.sideLines v v.copyDst v.c.scalar }

/-- CPY. -/
def cpyBody (v : Env) (s : State) : Res :=
  if v.act = 0 then nullToken v
  else match (s.rangeFail v.b v.copySrc v.c.scalar).or (s.rangeFail v.b v.copyDst v.c.scalar) with
    | some (c, a) => .raise c a v.act
    | none =>
      match v.copyDst with
      | .glob _ =>
        if v.copyScope = .core then .raise 0x0102 0 v.act
        else issueEntry v s (v.md % 2) v.bid v.copyScope (bitOf v.md 4) (.copy v.copySrc v.copyDst v.c.scalar) [] [] false
      | .win o =>
        issueEntry v s (v.md % 2) v.bid v.copyScope (bitOf v.md 4) (.copy v.copySrc v.copyDst v.c.scalar) (s.destLines [v.bid] o v.c.scalar)
          [] false

theorem exec_cpy_body (f : Fields) (s : State) : exec (.cpy f) s = runInstr (encCpy f) f cpyBody s := rfl

theorem cpyBody_idle (h : v.act = 0) : cpyBody v s = nullToken v := if_pos h

theorem cpyBody_outside {c : Half} {a : Dword} (hact : v.act ≠ 0)
    (h : (s.rangeFail v.b v.copySrc v.c.scalar).or (s.rangeFail v.b v.copyDst v.c.scalar) = some (c, a)) :
    cpyBody v s = .raise c a v.act := by
  unfold cpyBody
  rw [if_neg hact, h]

section
variable (hact : v.act ≠ 0) (hsrc : s.rangeFail v.b v.copySrc v.c.scalar = none) (hdst : s.rangeFail v.b v.copyDst v.c.scalar = none)
include hact hsrc hdst

theorem cpyBody_core (hglob : ∃ va, v.copyDst = .glob va) (hscope : v.copyScope = .core) : cpyBody v s = .raise 0x0102 0 v.act := by
  obtain ⟨va, hva⟩ := hglob
  unfold cpyBody
  rw [hva] at hdst
  simp only [if_neg hact, hsrc, hva, hdst, Option.none_or, hscope, if_true]

theorem cpyBody_issues (hscope : (∃ va, v.copyDst = .glob va) → v.copyScope ≠ .core) : cpyBody v s = (copyAsked v s).issue v s := by
  unfold cpyBody Asked.issue copyAsked State.sideLines
  simp only [if_neg hact, hsrc, hdst, Option.none_or]
  cases hd : v.copyDst with
  | glob va => simp only [if_neg (hscope ⟨va, hd⟩)]
  | win o => rfl

end

/-! ### CPG and CPS (R324) -/

/-- What CPG or CPS asks for once it has read its record. -/
def gatherAsked (gather : Bool) (v : Env) (s : State) (r : GatherRec) : Asked :=
  { queue := v.md % 2, owner := v.bid, scope := v.copyScope, det := bitOf v.md 4, kind := if gather then .gather r else .scatter r
    lines := if gather && r.window then s.destLines [v.bid] r.dense (r.count * r.rowb) else [] }

theorem exec_cpg_body (f : Fields) (s : State) : exec (.cpg f) s = runInstr (encCpg 0xC2) f (cpgBody true) s := rfl
theorem exec_cps_body (f : Fields) (s : State) : exec (.cps f) s = runInstr (encCpg 0xC3) f (cpgBody false) s := rfl

theorem cpgBody_idle (gather : Bool) (h : v.act = 0) : cpgBody gather v s = nullToken v := if_pos h

theorem cpgBody_issues {gather : Bool} {r : GatherRec} (hact : v.act ≠ 0) (hr : r = GatherRec.ofBytes bytes) (halign : v.uniAddr % 64 = 0)
    (hread : s.readAsLd v v.uniAddr 64 v.act = .got s1 bytes) (hok : r.ok (leNat (bytes.drop 0x28)) = true)
    (hdense : s1.rangeFail v.b r.side (r.count * r.rowb) = none) (hindex : s1.rangeFail v.b (.glob r.index) (4 * r.count) = none)
    (htable : s1.rangeFail v.b (.glob r.table) (8 * r.tlen) = none) (hscope : v.copyScope = .core → gather = true ∧ r.window = true) :
    cpgBody gather v s = (gatherAsked gather v s1 r).issue v s1 := by
  subst hr
  have hcore : (decide ((scopeOf (v.md / 2 % 8)).getD .die = .core) && !(gather && (GatherRec.ofBytes bytes).window)) = false := by
    simp only [Bool.and_eq_false_iff, decide_eq_false_iff_not, Bool.not_eq_false', Bool.and_eq_true]
    exact or_iff_not_imp_left.mpr fun h => hscope (not_not.mp h)
  unfold cpgBody
  simp only [if_neg hact, halign, ne_eq, not_true_eq_false, if_false, hread, hok, Bool.not_true, Bool.false_eq_true, hdense, hindex, htable,
    Option.none_or, hcore]
  rfl

/-! ### QFEN (R326) -/

/-- The row of QFEN. -/
def encQfen : Enc :=
  { opc := 0xC4, lens := [2], dst := .w64, md := 0xFF, extra := fun f _ => modOf f % 16 != 0 && scopeOk (modOf f / 16 % 8) 5 }

/-- What QFEN asks for. -/
def fenceAsked (v : Env) : Asked :=
  { queue := 6, owner := v.bid, scope := (scopeOf (v.md / 16 % 8)).getD .die, det := bitOf v.md 7, kind := .fence v.fenceQueues, lines := [] }

/-- Every queue that QFEN names has room. -/
def Machine.Env.FenceRoom (v : Env) (s : State) : Prop := ∀ q ∈ v.fenceQueues, s.queueRoom v.b.die q.1 q.2 = true

/-- QFEN. -/
def qfenBody (v : Env) (s : State) : Res :=
  if v.act = 0 then nullToken v
  else if !v.fenceQueues.all (fun q => s.queueRoom v.b.die q.1 q.2) then .wait s
  else (fenceAsked v).issue v s

theorem exec_qfen_body (f : Fields) (s : State) : exec (.qfen f) s = runInstr encQfen f qfenBody s := rfl

theorem qfenBody_idle (h : v.act = 0) : qfenBody v s = nullToken v := if_pos h

theorem qfenBody_issues (hact : v.act ≠ 0) (h : v.FenceRoom s) : qfenBody v s = (fenceAsked v).issue v s := by
  have hall : v.fenceQueues.all (fun q => s.queueRoom v.b.die q.1 q.2) = true := List.all_eq_true.mpr h
  unfold qfenBody
  rw [if_neg hact, hall]
  rfl

theorem qfenBody_full (hact : v.act ≠ 0) (h : ¬v.FenceRoom s) : qfenBody v s = .wait s := by
  have hall : v.fenceQueues.all (fun q => s.queueRoom v.b.die q.1 q.2) = false :=
    Bool.eq_false_iff.mpr fun hall => h (List.all_eq_true.mp hall)
  unfold qfenBody
  rw [if_neg hact, hall]
  rfl

end

end Sys2Proof
end

section
/-! SUPPORT. CPT (R52, R88, R321): its record, its uniform registers, its receivers, and the box that it asks for. -/

namespace Sys2Proof

open Sys2Proof.Machine

/-- Registers from `k` up can be read as uniform operands (R52). -/
def Machine.Env.Usable (v : Env) (k n : Nat) : Prop := ∀ i, i < n → (v.x.reg (k + i)).isPend = false ∧
  (v.x.mode.getLsbD 14 = true ∨ v.x.reg (k + i) ≠ .empty) ∧ (v.x.reg (k + i)).tag = .u

/-- The first coordinate register of CPT: the handle stands before it where the block is not its own receiver. -/
def Machine.Env.boxBase (v : Env) : Nat := v.f.sb.toNat + if bitOf v.md 5 then 0 else 1

/-- The registers that CPT reads itself. -/
def Machine.Env.boxRegs (v : Env) (r : TensorRec) : Nat := r.rank + if bitOf v.md 5 then 0 else 1

/-- The window offset at which the box is delivered. -/
def Machine.Env.boxOff (v : Env) : Nat := v.c.v.l0.toNat % 2 ^ 21

/-- The window offset of the receivers' barrier object. -/
def Machine.Env.barOff (v : Env) : Nat := v.c.v.l0.toNat / 2 ^ 32 % 2 ^ 21

/-- The origin of the box. -/
def Machine.Env.boxOrigin (v : Env) (r : TensorRec) : List Int := (List.range r.rank).map (fun i => (v.x.reg (v.boxBase + i)).lanes.l0.toInt)

/-- A stretch of a window that every receiver has. -/
def Machine.State.FitsAll (s : State) (recv : List Nat) (o n : Nat) : Prop := ∀ k ∈ recv, ∀ b, s.blocks.get? k = some b → b.inWindow o n = true

/-- What CPT asks for once it has read its record and knows its receivers. -/
def boxAsked (v : Env) (s : State) (r : TensorRec) (recv : List Nat) : Asked :=
  { queue := v.md % 2, owner := v.bid, scope := v.copyScope, det := bitOf v.md 4, kind := .box r recv (v.boxOrigin r) v.boxOff v.barOff
    lines := s.destLines recv v.boxOff r.boxBytes
    rels := if v.f.lb then (List.range (v.boxRegs r)).map (fun i => v.f.sb.toNat + i) else []
    sticky := (List.range (v.boxRegs r)).any (fun i => v.x.reg (v.f.sb.toNat + i) = .empty) }

/-- CPT once it has read its record. -/
def cptRecord (v : Env) (s : State) (bytes : List Byte) : Res :=
  let r := TensorRec.ofBytes bytes
  let k := v.f.sb.toNat + if bitOf v.md 5 then 0 else 1
  if !r.ok (bitOf (leNat ((bytes.drop 9).take 1)) 7) typeTensor || r.space || 2 ^ 20 < r.boxBytes || 60 < k + r.rank then
    .raiseIn s 0x0311 (BitVec.ofNat 64 v.a.scalar) v.act
  else match v.uniRegs s k r.rank with
    | .stop q => q
    | .got xs => match s.cptBlocks v with
      | .error c => .raiseIn s c 0 v.act
      | .ok recv => cptIssue v s r recv (xs.map BitVec.toInt)

/-- CPT. -/
def cptBody (v : Env) (s : State) : Res :=
  if v.act = 0 then nullToken v
  else if v.a.scalar % 64 ≠ 0 then .raise 0x0311 (BitVec.ofNat 64 v.a.scalar) v.act
  else match s.readAsLd v v.a.scalar 64 v.act with
    | .stop r => r
    | .got s1 bytes => cptRecord v s1 bytes

theorem exec_cpt_body (f : Fields) (s : State) : exec (.cpt f) s = runInstr encCpt f cptBody s := rfl

section
variable {v : Env} {s s1 : State} {bytes : List Byte} {r : TensorRec} {recv : List Nat}

theorem cptBody_idle (h : v.act = 0) : cptBody v s = nullToken v := if_pos h

theorem cptBody_reads (hact : v.act ≠ 0) (halign : v.a.scalar % 64 = 0) (hread : s.readAsLd v v.a.scalar 64 v.act = .got s1 bytes) :
    cptBody v s = cptRecord v s1 bytes := by
  unfold cptBody
  rw [if_neg hact, if_neg (not_not.mpr halign), hread]

theorem uniRegs_usable {k n : Nat} (h : v.Usable k n) :
    v.uniRegs s k n = .got ((List.range n).map (fun i => (v.x.reg (k + i)).lanes.l0)) := by
  have hpend : ((List.range n).map (fun i => k + i)).any (fun k => (v.x.reg k).isPend) = false := by
    simpa using fun i hi => (h i hi).1
  have hheld : (!v.x.mode.getLsbD 14 && ((List.range n).map (fun i => k + i)).any (fun k => v.x.reg k = .empty)) = false := by
    rw [Bool.and_eq_false_iff, Bool.not_eq_false', or_iff_not_imp_left]
    intro herz
    simpa using fun i hi => (h i hi).2.1.resolve_left herz
  have huniform : ((List.range n).map (fun i => k + i)).any (fun k => (v.x.reg k).tag != .u) = false := by
    simpa using fun i hi => (h i hi).2.2
  unfold Env.uniRegs
  simp only [hpend, hheld, huniform, Bool.false_eq_true, if_false, List.map_map]
  rfl

/-- The coordinates are among the registers that CPT reads itself. -/
theorem usable_coordinates (h : v.Usable v.f.sb.toNat (v.boxRegs r)) : v.Usable v.boxBase r.rank := by
  intro i hi
  unfold Env.boxRegs at h
  unfold Env.boxBase
  split
  · next hself =>
    rw [hself] at h
    exact h i (by simpa using hi)
  · next hself =>
    rw [if_neg hself] at h
    have := h (1 + i) (by omega)
    rwa [← Nat.add_assoc] at this

theorem cptBlocks_ok (h : if bitOf v.md 5 then recv = [v.bid]
      else s.cptReceivers v v.o.scalar (match v.f.lit? with | some l => l.toNat | none => 1) = .ok recv) : s.cptBlocks v = .ok recv := by
  unfold State.cptBlocks
  split at h
  · next hself => rw [if_pos hself, h]
  · next hself => rw [if_neg hself]; exact h

theorem outside_none {o n : Nat} (h : s.FitsAll recv o n) :
    recv.findSome? (fun b => (s.blocks.get? b).bind (fun x => s.rangeFail x (.win o) n)) = none := by
  rw [List.findSome?_eq_none_iff]
  intro k hk
  rw [Option.bind_eq_none_iff]
  intro b hb
  simp [State.rangeFail, h k hk b hb]

theorem cptIssue_issues (hpair : v.c.v.l0.toNat = v.boxOff + v.barOff * 2 ^ 32) (halign : v.barOff % 16 = 0)
    (hbox : s.FitsAll recv v.boxOff r.boxBytes) (hbar : s.FitsAll recv v.barOff 16) :
    cptIssue v s r recv (v.boxOrigin r) = (boxAsked v s r recv).issue v s := by
  have hbox := outside_none hbox
  have hbar := outside_none hbar
  unfold Env.boxOff Env.barOff at *
  unfold cptIssue
  simp only [if_neg (not_not.mpr hpair), if_neg (not_not.mpr halign), hbox, hbar, Option.none_or]
  rfl

theorem cptRecord_issues (hr : r = TensorRec.ofBytes bytes) (hok : r.ok (bitOf (leNat ((bytes.drop 9).take 1)) 7) typeTensor = true)
    (hspace : r.space = false) (hbytes : r.boxBytes ≤ 2 ^ 20) (hrank : v.boxBase + r.rank ≤ 60)
    (husable : v.Usable v.f.sb.toNat (v.boxRegs r)) (hblocks : s.cptBlocks v = .ok recv) :
    cptRecord v s bytes = cptIssue v s r recv (v.boxOrigin r) := by
  subst hr
  have hcoordinates := uniRegs_usable (s := s) (usable_coordinates husable)
  unfold Env.boxOrigin
  unfold Env.boxBase at *
  unfold cptRecord
  simp only [hok, hspace, decide_eq_false (not_lt.mpr hbytes), decide_eq_false (not_lt.mpr hrank), Bool.not_true, Bool.or_self,
    Bool.false_eq_true, if_false, hcoordinates, hblocks, List.map_map]
  rfl

theorem boxAsked_rels (h : v.Usable v.f.sb.toNat (v.boxRegs r)) : ∀ k ∈ (boxAsked v s r recv).rels, (v.x.reg k).isPend = false := by
  unfold boxAsked
  simp only
  split
  · intro k hk
    obtain ⟨i, hi, rfl⟩ := List.mem_map.mp hk
    exact (h i (List.mem_range.mp hi)).1
  · exact fun k hk => absurd hk List.not_mem_nil

end

end Sys2Proof
end

section
/-! CPY, CPT, CPG, CPS and QFEN (R52, R88, R309, R311, R319 to R321, R324, R326). -/

namespace Sys2Proof

open Sys2Proof.Machine

/-- Settles O29: each instruction answers with the issue of the entry that its operands and its record name, or says why there is none. -/
theorem copyInstructions : Obligations.CopyInstructions := by
  unfold Obligations.CopyInstructions
  refine ⟨⟨?copy, ?copyRaises, ?gather, ?scatter, ?fence, ?fenceWaits⟩, ?box⟩
  case copy =>
    refine issues_of exec_cpy_body (fun _ => rfl) (fun v s => cpyBody_idle) fun v s s1 a hact hr => ?_
    obtain ⟨rfl, ⟨hsrc, hdst⟩, hscope, rfl⟩ := hr
    exact ⟨cpyBody_issues hact hsrc hdst hscope, fun k hk => absurd hk List.not_mem_nil⟩
  case copyRaises =>
    refine raises_env exec_cpy_body fun v s c a m hr => ?_
    obtain ⟨hact, rfl, houtside | ⟨⟨hsrc, hdst⟩, hglob, hscope, rfl, rfl⟩⟩ := hr
    · exact cpyBody_outside hact houtside
    · exact cpyBody_core hact hsrc hdst hglob hscope
  case gather =>
    refine issues_of exec_cpg_body (fun _ => rfl) (fun v s => cpgBody_idle true) fun v s s1 a hact hr => ?_
    obtain ⟨bytes, halign, hread, hok, hdense, hindex, htable, hscope, rfl⟩ := hr
    exact ⟨cpgBody_issues hact rfl halign hread hok hdense hindex htable hscope, fun k hk => absurd hk List.not_mem_nil⟩
  case scatter =>
    refine issues_of exec_cps_body (fun _ => rfl) (fun v s => cpgBody_idle false) fun v s s1 a hact hr => ?_
    obtain ⟨bytes, halign, hread, hok, hdense, hindex, htable, hscope, rfl⟩ := hr
    exact ⟨cpgBody_issues hact rfl halign hread hok hdense hindex htable hscope, fun k hk => absurd hk List.not_mem_nil⟩
  case fence =>
    refine issues_of exec_qfen_body (fun _ => rfl) (fun v s => qfenBody_idle) fun v s s1 a hact hr => ?_
    obtain ⟨rfl, hfree, rfl⟩ := hr
    exact ⟨qfenBody_issues hact hfree, fun k hk => absurd hk List.not_mem_nil⟩
  case fenceWaits =>
    refine waits_env exec_qfen_body fun v s s1 hr => ?_
    obtain ⟨rfl, hact, hfull⟩ := hr
    exact qfenBody_full hact hfull
  case box =>
    refine issues_of exec_cpt_body (fun _ => rfl) (fun v s => cptBody_idle) fun v s s1 a hact hr => ?_
    obtain ⟨bytes, recv, halign, hread, hok, hspace, hbytes, hrank, husable, hrecv, hpair, hbar, hfits, hbarFits, rfl⟩ := hr
    have hissue := cptIssue_issues (r := TensorRec.ofBytes bytes) hpair hbar hfits hbarFits
    exact ⟨(cptBody_reads hact halign hread).trans
      ((cptRecord_issues rfl hok hspace hbytes hrank husable (cptBlocks_ok hrecv)).trans hissue), boxAsked_rels husable⟩

end Sys2Proof
end

section
/-! SUPPORT. What TOKW, TOKT, TOKR and QCAN answer (R312, R327 to R329, R339, R402, R410, R416). -/

namespace Sys2Proof

open Sys2Proof.Machine

/-- A predicate result is plain. -/
theorem plain_pred {e : Enc} {f : Fields} {ty : Nat} (pred : Option (Nat × BitVec 4)) (eff : State → State) :
    Plain e f ty { pred := pred, eff := eff } :=
  ⟨.inl rfl, rfl, rfl, fun _ _ => rfl⟩

/-! ### Rows -/

/-- The row of TOKW (R328). -/
def encTokw : Enc := { opc := 0xC5, lens := [2], sa := .u64, gov0 := true, md := 1 }
/-- The row of TOKT (R328). -/
def encTokt : Enc := { opc := 0xC6, lens := [2], dst := .pd, sa := .u64, gov0 := true }
/-- The row of TOKR (R327). -/
def encTokr : Enc := { opc := 0xC7, lens := [2], dst := .w64, sa := .u64, gov0 := true }
/-- The row of QCAN (R329). -/
def encQcan : Enc := { opc := 0xC8, lens := [2], dst := .pd, sa := .u64 }

/-- The token that an instruction names. -/
def Machine.Env.token (v : Env) : Dword := v.a.v.l0

/-- TOKW of a token that is one of the context's and not acquired yet. -/
def tokwViewed (v : Env) (s : State) (w : TokView) : Res :=
  if w.state = 0 then .wait s
  else match w with
    | .record r => if r.state = .failed && !bitOf v.md 0 then .raise r.cause r.addr v.x.mask else tokenAcquire v s v.token w {}
    | _ => tokenAcquire v s v.token w {}

/-- TOKW. -/
def tokwBody (v : Env) (s : State) : Res :=
  match v.x.acquiring? with
  | some w => acquireThen v ((scopeOf w.toNat).getD .pkg) w none s {}
  | none => match s.tokenView v.b.ctx v.token with
    | none => .raise 0x0505 0 v.x.mask
    | some w => tokwViewed v s w

/-- TOKT. -/
def toktBody (v : Env) (s : State) : Res :=
  match v.x.acquiring? with
  | some w => acquireThen v ((scopeOf w.toNat).getD .pkg) w none s { pred := predAll v true }
  | none => match s.tokenView v.b.ctx v.token with
    | none => .raise 0x0505 0 v.x.mask
    | some w => if w.state = 0 then .done { pred := predAll v false } else tokenAcquire v s v.token w { pred := predAll v true }

/-- TOKR. -/
def tokrBody (v : Env) (s : State) : Res :=
  match s.tokenView v.b.ctx v.token with
  | none => .raise 0x0505 0 v.x.mask
  | some w => .done { regs := [v.writeUni true (BitVec.ofNat 64 ((s.landedSoFar v.b.ctx v.token w).word (tokRing v.token)))] }

/-- QCAN. -/
def qcanBody (v : Env) (s : State) : Res :=
  if v.act = 0 then .done {}
  else match v.x.prog with
    | .pending k => if s.entryOpen (k / 2) then .wait s else .done { pred := predAll v (k % 2 == 1) }
    | _ => qcanToken v s v.token

theorem exec_tokw_body (f : Fields) (s : State) : exec (.tokw f) s = runInstr encTokw f tokwBody s := rfl
theorem exec_tokt_body (f : Fields) (s : State) : exec (.tokt f) s = runInstr encTokt f toktBody s := rfl
theorem exec_tokr_body (f : Fields) (s : State) : exec (.tokr f) s = runInstr encTokr f tokrBody s := rfl
theorem exec_qcan_body (f : Fields) (s : State) : exec (.qcan f) s = runInstr encQcan f qcanBody s := rfl

/-! ### How a token is taken (R312) -/

/-- A token that can name a record of context `ctx`, which `c` is (R312). -/
def Machine.Ctx.Names (c : Ctx) (ctx : Nat) (t : Dword) : Prop :=
  t ≠ 0 ∧ tokGen t ≠ 0 ∧ tokCtx t = ctx ∧ tokQueue t ≠ 7 ∧ ∃ i, i < c.size ∧ tokDie t = (c.first + i) % 8

section
variable {s : State} {ctx : Nat} {c : Ctx} {t : Dword}

/-- How many generations the record of a token is past it. -/
def Machine.State.tokenAge (s : State) (t : Dword) : Nat := (((s.die (tokDie t)).tokRec (tokIndex t)).gen - tokGen t).toNat

theorem tokenView_names (hc : s.ctxs.get? ctx = some c) (h : c.Names ctx t) : s.tokenView ctx t =
    if s.tokenAge t = 0 then some (.record ((s.die (tokDie t)).tokRec (tokIndex t))) else if s.tokenAge t < 2 ^ 31 then some .stale else none := by
  obtain ⟨ht, hgen, hctx, hqueue, i, hi, hdie⟩ := h
  have hpart : ((List.range c.size).map (fun i => (c.first + i) % 8)).contains (tokDie t) = true := by
    simpa using ⟨i, hi, hdie.symm⟩
  have hgood : (decide (tokGen t = 0) || decide (tokCtx t ≠ ctx) || !((List.range c.size).map (fun i => (c.first + i) % 8)).contains (tokDie t)
      || decide (tokQueue t = 7)) = false := by
    rw [hpart, decide_eq_false hgen, decide_eq_false (not_not.mpr hctx), decide_eq_false hqueue]
    rfl
  unfold State.tokenView State.tokenAge
  simp only [if_neg ht, hc, hgood, Bool.false_eq_true, if_false]

theorem tokenView_unnamed (hc : s.ctxs.get? ctx = some c) (ht : t ≠ 0) (h : ¬c.Names ctx t) : s.tokenView ctx t = none := by
  unfold State.tokenView
  rw [if_neg ht, hc, if_pos]
  by_contra hnot
  simp only [Bool.or_eq_true, decide_eq_true_eq, Bool.not_eq_true', not_or, Bool.not_eq_false, List.contains_iff_mem, List.mem_map,
    List.mem_range, not_not] at hnot
  obtain ⟨⟨⟨hgen, hctx⟩, i, hi, hdie⟩, hqueue⟩ := hnot
  exact h ⟨ht, hgen, hctx, hqueue, i, hi, hdie.symm⟩

end

/-! ### The status word (R327) -/

section
variable {v : Env} {s s1 : State} {w : TokView} {r : TokRec} {o : Out}

/-- The status word by what the token is taken for, `t` being the token. -/
def Machine.TokView.status (t : Dword) (w : TokView) : Nat :=
  match w with
  | .null => 1
  | .stale => 3
  | .record r => min r.bytes 0xFFFFFFFF * 2 ^ 32 + (if r.state = .failed then r.cause.toNat * 65536 else 0) +
      (if (tokQueue t = 2 ∨ tokQueue t = 3) ∧ r.sat = true then 4 else 0) +
      (TokView.record r).state

theorem word_eq_status (t : Dword) (w : TokView) : w.word (tokRing t) = w.status t := by
  cases w with
  | null => rfl
  | stale => rfl
  | record r =>
    simp only [TokView.word, TokView.status, tokRing, Bool.and_eq_true, Bool.or_eq_true, beq_iff_eq]

/-! ### TOKW, TOKT and TOKR (R327, R328) -/

/-- A complete token has been observed and its acquire is done. -/
def Machine.TokView.Seen (w : TokView) (v : Env) (s s1 : State) : Prop :=
  match w.acquires with
  | none => s1 = s.observeToken v v.token w
  | some sc => (s.observeToken v v.token w).acquire v sc (BitVec.ofNat 64 sc.code) none = (s1, true)

theorem tokenAcquire_seen (h : w.Seen v s s1) : tokenAcquire v s v.token w o = .doneIn s1 o := by
  unfold TokView.Seen at h
  unfold tokenAcquire
  cases ha : w.acquires with
  | none =>
    rw [ha] at h
    exact h ▸ rfl
  | some sc =>
    rw [ha] at h
    exact acquireThen_done h

theorem tokwBody_viewed (hfresh : v.x.acquiring? = none) (hview : s.tokenView v.b.ctx v.token = some w) :
    tokwBody v s = tokwViewed v s w := by
  simp only [tokwBody, hfresh, hview]

theorem tokwViewed_complete (hstate : w.state ≠ 0) (hfailed : (∃ r, w = .record r ∧ r.state = .failed) → bitOf v.md 0 = true) :
    tokwViewed v s w = tokenAcquire v s v.token w {} := by
  unfold tokwViewed
  rw [if_neg hstate]
  cases w with
  | null => rfl
  | stale => rfl
  | record r =>
    simp only
    rw [if_neg]
    simp only [Bool.and_eq_true, decide_eq_true_eq, Bool.not_eq_true', not_and, Bool.not_eq_false]
    exact fun hr => hfailed ⟨r, rfl, hr⟩

theorem tokwViewed_failed (hstate : r.state = .failed) (hmd : bitOf v.md 0 = false) :
    tokwViewed v s (.record r) = .raise r.cause r.addr v.x.mask := by
  have hcomplete : (TokView.record r).state = 2 := by simp only [TokView.state, hstate]
  simp [tokwViewed, hcomplete, hstate, hmd]

theorem tokwBody_invalid (hfresh : v.x.acquiring? = none) (hview : s.tokenView v.b.ctx v.token = none) :
    tokwBody v s = .raise 0x0505 0 v.x.mask := by
  simp only [tokwBody, hfresh, hview]

theorem toktBody_viewed (hfresh : v.x.acquiring? = none) (hview : s.tokenView v.b.ctx v.token = some w) : toktBody v s =
    if w.state = 0 then .done { pred := predAll v false } else tokenAcquire v s v.token w { pred := predAll v true } := by
  simp only [toktBody, hfresh, hview]

theorem toktBody_invalid (hfresh : v.x.acquiring? = none) (hview : s.tokenView v.b.ctx v.token = none) :
    toktBody v s = .raise 0x0505 0 v.x.mask := by
  simp only [toktBody, hfresh, hview]

theorem tokwBody_acquiring {u : Dword} (h : v.x.acquiring? = some u) :
    tokwBody v s = acquireThen v ((scopeOf u.toNat).getD .pkg) u none s {} := by
  simp only [tokwBody, h]

theorem toktBody_acquiring {u : Dword} (h : v.x.acquiring? = some u) :
    toktBody v s = acquireThen v ((scopeOf u.toNat).getD .pkg) u none s { pred := predAll v true } := by
  simp only [toktBody, h]

theorem tokrBody_viewed (hview : s.tokenView v.b.ctx v.token = some w) :
    tokrBody v s = .done { regs := [v.writeUni true (BitVec.ofNat 64 ((s.landedSoFar v.b.ctx v.token w).status v.token))] } := by
  simp only [tokrBody, hview, word_eq_status]

theorem tokrBody_invalid (hview : s.tokenView v.b.ctx v.token = none) : tokrBody v s = .raise 0x0505 0 v.x.mask := by
  simp only [tokrBody, hview]

/-! ### QCAN (R329, R339, R402, R410) -/

/-- What QCAN answers in its predicate. -/
def Machine.Env.told (v : Env) (ok : Bool) : Out := { pred := predAll v ok }

/-- QCAN has an active lane and has not cancelled anything yet. -/
def Machine.Env.NotCancelling (v : Env) : Prop := v.act ≠ 0 ∧ ∀ n, v.x.prog ≠ .pending n

theorem qcanBody_begins (h : v.NotCancelling) : qcanBody v s = qcanToken v s v.token := by
  obtain ⟨hact, hprog⟩ := h
  unfold qcanBody
  rw [if_neg hact]
  split
  · next k hk => exact absurd hk (hprog k)
  · rfl

theorem qcanBody_pending {k : Nat} (hact : v.act ≠ 0) (hprog : v.x.prog = .pending k) :
    qcanBody v s = if s.entryOpen (k / 2) then .wait s else .done (v.told (k % 2 == 1)) := by
  unfold qcanBody
  rw [if_neg hact, hprog]
  rfl

theorem qcanToken_unknown (hview : s.tokenView v.b.ctx v.token = none) : qcanToken v s v.token = .raise 0x0505 0 v.act := by
  simp only [qcanToken, hview]

section
variable (hview : s.tokenView v.b.ctx v.token = some w)
include hview

theorem qcanToken_complete (h : w.state ≠ 0 ∨ tokQueue v.token = 6) : qcanToken v s v.token = .doneIn s (v.told false) := by
  simp only [qcanToken, hview]
  rw [if_pos (by simpa using h)]
  rfl

variable (hopen : w.state = 0)
include hopen

theorem qcanToken_node {n : Nat} {x : Node} {ok : Bool} (hqueue : tokQueue v.token = 4)
    (hnode : s.nodes.find? (fun n => n.2.token == v.token) = some (n, x)) (hcancel : s.cancelNode n = (s1, ok)) :
    qcanToken v s v.token = .doneIn s1 (v.told ok) := by
  simp [qcanToken, hview, hopen, hqueue, hnode, hcancel, Env.told]

theorem qcanToken_layer {c : Ctx} {l : Nat} {ok : Bool} (hqueue : tokQueue v.token = 5) (hc : s.ctxs.get? v.b.ctx = some c)
    (hlayer : c.layerOf v.token = some l) (hcancel : s.laye v.b.ctx l = (s1, ok)) :
    qcanToken v s v.token = .doneIn s1 (v.told ok) := by
  simp [qcanToken, hview, hopen, hqueue, hc, hlayer, hcancel, Env.told]

theorem qcanToken_entry {q eid : Nat} {e : Entry} (hq : q < 4) (hqueue : tokQueue v.token = q) (hentry : s.entryOf v.token = some (eid, e)) :
    qcanToken v s v.token = qcanEntry v s eid e := by
  have h4 : q ≠ 4 := by omega
  have h5 : q ≠ 5 := by omega
  have h6 : q ≠ 6 := by omega
  simp [qcanToken, hview, hopen, hqueue, h4, h5, h6, hentry]

end

end

end Sys2Proof
end

section
/-! TOKW, TOKT, TOKR and QCAN (R312, R327 to R329, R339, R402, R410, R416). -/

namespace Sys2Proof

open Sys2Proof.Machine

/-- Settles O30: TOKW, TOKT, TOKR and QCAN answer what the view of their token, and what the slice has noted, say. -/
theorem tokens : Obligations.Tokens := by
  unfold Obligations.Tokens
  refine ⟨⟨?observed, ?acquired, ?waits, ?failed, ?tested, ?testAcquired, ?untested, ?read, ?invalid, ?testInvalid, ?readInvalid⟩, ?taken,
    ?idle, ?complete, ?node, ?layer, ?entry, ?cancelled, ?cancelling, ?unknown⟩
  case observed =>
    refine doesIn_bare exec_tokw_body fun v s s1 o hr => ?_
    obtain ⟨hfresh, ⟨w, hview, hstate, hfailed, hseen⟩, rfl⟩ := hr
    exact ⟨(tokwBody_viewed hfresh hview).trans ((tokwViewed_complete hstate hfailed).trans (tokenAcquire_seen hseen)), _, _, rfl⟩
  case acquired =>
    refine doesIn_bare exec_tokw_body fun v s s1 o hr => ?_
    obtain ⟨⟨w, hw, hacquire⟩, rfl⟩ := hr
    exact ⟨(tokwBody_acquiring hw).trans (acquireThen_done hacquire), _, _, rfl⟩
  case waits =>
    refine waits_env exec_tokw_body fun v s s1 hr => ?_
    obtain ⟨rfl, hfresh, w, hview, hstate⟩ := hr
    exact (tokwBody_viewed hfresh hview).trans (if_pos hstate)
  case failed =>
    refine raises_env exec_tokw_body fun v s c a m hr => ?_
    obtain ⟨hfresh, hmd, rfl, r, hview, hstate, rfl, rfl⟩ := hr
    exact (tokwBody_viewed hfresh hview).trans (tokwViewed_failed hstate hmd)
  case tested =>
    refine doesIn_bare exec_tokt_body fun v s s1 o hr => ?_
    obtain ⟨hfresh, ⟨w, hview, hstate, hseen⟩, rfl⟩ := hr
    exact ⟨(toktBody_viewed hfresh hview).trans ((if_neg hstate).trans (tokenAcquire_seen hseen)), _, _, rfl⟩
  case testAcquired =>
    refine doesIn_bare exec_tokt_body fun v s s1 o hr => ?_
    obtain ⟨⟨w, hw, hacquire⟩, rfl⟩ := hr
    exact ⟨(toktBody_acquiring hw).trans (acquireThen_done hacquire), _, _, rfl⟩
  case untested =>
    refine givesIf_plain exec_tokt_body fun f s bid sid b x _ hc => ?_
    obtain ⟨hfresh, w, hview, hstate⟩ := hc
    exact ⟨(toktBody_viewed hfresh hview).trans (if_pos hstate), plain_pred _ _⟩
  case read =>
    refine does_of exec_tokr_body fun f s bid sid b x _ s1 o hr => ?_
    obtain ⟨rfl, w, hview, rfl⟩ := hr
    exact ⟨rfl, tokrBody_viewed hview, plain_one rfl le_rfl _ _⟩
  case invalid =>
    refine raises_env exec_tokw_body fun v s c a m hr => ?_
    obtain ⟨hfresh, hview, rfl, rfl, rfl⟩ := hr
    exact tokwBody_invalid hfresh hview
  case testInvalid =>
    refine raises_env exec_tokt_body fun v s c a m hr => ?_
    obtain ⟨hfresh, hview, rfl, rfl, rfl⟩ := hr
    exact toktBody_invalid hfresh hview
  case readInvalid =>
    refine raises_env exec_tokr_body fun v s c a m hr => ?_
    obtain ⟨hview, rfl, rfl, rfl⟩ := hr
    exact tokrBody_invalid hview
  case taken =>
    intro s ctx c t hc
    refine ⟨fun ht => if_pos ht, fun ht hbad => tokenView_unnamed hc ht hbad, fun hgood hage => ?_, fun hgood hpos hage => ?_, fun hgood hage => ?_⟩
    · exact (tokenView_names hc hgood).trans (if_pos hage)
    · exact (tokenView_names hc hgood).trans ((if_neg hpos.ne').trans (if_pos hage))
    · exact (tokenView_names hc hgood).trans ((if_neg ((Nat.two_pow_pos 31).trans_le hage).ne').trans (if_neg (not_lt.mpr hage)))
  case idle => exact gives_idle exec_qcan_body fun v s hact => if_pos hact
  case complete =>
    refine does_plain exec_qcan_body fun f s bid sid b x _ s1 o hr => ?_
    obtain ⟨⟨hbegins, w, hview, hcomplete⟩, rfl, rfl⟩ := hr
    exact ⟨.refl _, .inl ((qcanBody_begins hbegins).trans (qcanToken_complete hview hcomplete)), plain_pred _ _⟩
  case node =>
    refine doesIn_bare exec_qcan_body fun v s s1 o hr => ?_
    obtain ⟨⟨hbegins, ⟨w, hview, hopen⟩, hqueue⟩, n, x, ok, hnode, hcancel, rfl⟩ := hr
    exact ⟨(qcanBody_begins hbegins).trans (qcanToken_node hview hopen hqueue hnode hcancel), _, _, rfl⟩
  case layer =>
    refine doesIn_bare exec_qcan_body fun v s s1 o hr => ?_
    obtain ⟨⟨hbegins, ⟨w, hview, hopen⟩, hqueue⟩, c, l, ok, hc, hlayer, hcancel, rfl⟩ := hr
    exact ⟨(qcanBody_begins hbegins).trans (qcanToken_layer hview hopen hqueue hc hlayer hcancel), _, _, rfl⟩
  case entry =>
    refine waits_env exec_qcan_body fun v s s1 hr => ?_
    obtain ⟨⟨q, hq, hbegins, ⟨w, hview, hopen⟩, hqueue⟩, eid, e, hentry, rfl⟩ := hr
    exact (qcanBody_begins hbegins).trans (qcanToken_entry hview hopen hq hqueue hentry)
  case cancelled =>
    refine givesIf_plain exec_qcan_body fun f s bid sid b x _ hc => ?_
    obtain ⟨hact, k, hprog, hclosed⟩ := hc
    refine ⟨(qcanBody_pending hact hprog).trans ?_, plain_pred _ _⟩
    rw [hclosed, hprog]
    rfl
  case cancelling =>
    refine waits_env exec_qcan_body fun v s s1 hr => ?_
    obtain ⟨rfl, hact, k, hprog, hopen⟩ := hr
    exact (qcanBody_pending hact hprog).trans (if_pos hopen)
  case unknown =>
    refine raises_env exec_qcan_body fun v s c a m hr => ?_
    obtain ⟨hbegins, hview, rfl, rfl, rfl⟩ := hr
    exact (qcanBody_begins hbegins).trans (qcanToken_unknown hview)

end Sys2Proof
end

section
/-! SUPPORT. The events of the copy engines (R313 to R316, R320, R326), and what the completion of an entry leaves (R232, R311, R316). -/

namespace Sys2Proof.Machine

/-! ### Token records (R311) -/

/-- The record of a token changed reads as changed. -/
theorem State.tokRec_modTok (s : State) (t : Dword) (f : TokRec → TokRec) :
    ((s.modTok t f).die (tokDie t)).tokRec (tokIndex t) = f ((s.die (tokDie t)).tokRec (tokIndex t)) := by
  rw [State.modTok, State.die_modDie, if_pos rfl, Die.tokRec, Tab.get?_put_self, Option.getD_some]

/-- A record put among the free ones reads as it was. -/
theorem State.tokRec_freed (s : State) (d i : Nat) (free : List Nat) :
    ((s.modDie d (fun x => { x with freeTokens := x.freeTokens ++ free })).die d).tokRec i = (s.die d).tokRec i := by
  rw [State.die_modDie, if_pos rfl]
  rfl

/-- The record of a token that has completed takes the outcome and keeps its generation (R311). -/
theorem State.tokRec_finishToken {s : State} {t : Dword} (ht : t ≠ 0) (failed : Bool) (cause : Half) (bytes : Nat) (addr : Dword) :
    ((s.finishToken t failed cause bytes addr).die (tokDie t)).tokRec (tokIndex t) = { (s.die (tokDie t)).tokRec (tokIndex t) with
      state := if failed then .failed else .done, cause := cause, bytes := bytes, addr := addr } := by
  unfold State.finishToken
  rw [if_neg ht]
  exact (State.tokRec_freed _ _ _ _).trans (State.tokRec_modTok _ _ _)

section
variable {s s1 : State} {k : Nat} {e : Entry} {p : Piece} {failed : Bool}

/-! ### Turns and pieces (R313, R314) -/

theorem exec_entryTurn_came (he : s.entries.get? k = some e) (hstate : e.state = .queued) (hkind : e.kind.copies = true)
    (hruns : s.ctxRuns e.ctx = true) (hturn : s.turnCame k e = true) :
    exec (.entryTurn k) s = .next (
      let s1 := s.modEntry k (fun x => { x with state := if e.kind.total = 0 then .ending false else .running })
      if e.token = 0 then s1 else s1.modTok e.token (fun r => { r with state := .running })) := by
  simp only [exec_entryTurn, execEntryTurn, he, hstate, hkind, hruns, hturn, decide_true, Bool.and_self, if_true]

theorem State.engReady_of_running (hstate : e.state = .running) (hkind : e.kind.copies = true) (hruns : s.ctxRuns e.ctx = true)
    (hdone : s.issuerDone k e = true) (hsent : e.sent = false) : s.engReady k e = true := by
  simp [State.engReady, hstate, hkind, hruns, hdone, hsent]

theorem exec_pieceWrite_ready (he : s.entries.get? k = some e) (hready : s.engReady k e = true) (hsent : e.sent = false)
    (hpiece : s.engPiece k e = (s1, .ok p)) :
    exec (.pieceWrite k) s = .next (if (p.peerReqs k e).isEmpty || s1.ofShadow e then s1.engPerform k e p else s1.engSend k e p) := by
  simp only [exec_pieceWrite, execPieceWrite, he, hsent, hready, hpiece, Bool.false_eq_true, if_false, Bool.not_true]

theorem exec_pieceWrite_sent (he : s.entries.get? k = some e) (hsent : e.sent = true) :
    exec (.pieceWrite k) s = .next (if s.entryAcked k then s.engFinish k e else s) := by
  simp only [exec_pieceWrite, execPieceWrite, he, hsent, if_true]

theorem exec_pieceFail_ready {c : Half} {a : Nat} (he : s.entries.get? k = some e) (hready : s.engReady k e = true)
    (hpiece : s.engPiece k e = (s1, .fail c a)) : exec (.pieceFail k) s = .next (s1.failPiece k c (BitVec.ofNat 64 a)) := by
  simp only [exec_pieceFail, execPieceFail, he, hready, hpiece, Bool.not_true, Bool.false_eq_true, if_false]

/-! ### Completion (R232, R316, R326) -/

theorem exec_entryComplete_ending (he : s.entries.get? k = some e) (hkind : e.kind.copies = true) (hstate : e.state = .ending failed)
    (hsent : e.sent = false) : exec (.entryComplete k) s = .next (s.completeEntry k e failed) := by
  simp only [exec_entryComplete, execEntryComplete, he, hkind, hstate, hsent, Bool.false_eq_true, if_false]

theorem exec_fenceEntryComplete_last {qs : List (Nat × Nat)} (he : s.entries.get? k = some e) (hkind : e.kind = .fence qs)
    (hearlier : ∀ j f, (j, f) ∈ s.entries → j < k → (∃ q ∈ qs, f.inQueue e.die q.1 q.2 = true) → s.entryOpen j = false) :
    exec (.fenceEntryComplete k) s = .next (s.completeEntry k e false) := by
  have hnone : s.entries.any (fun f => decide (f.1 < k) && qs.any (fun q => f.2.inQueue e.die q.1 q.2) && s.entryOpen f.1) = false := by
    simp only [List.any_eq_false, Bool.and_eq_true, decide_eq_true_eq, List.any_eq_true]
    rintro ⟨j, f⟩ hmem ⟨⟨hlt, hqueue⟩, hopen⟩
    simp [hearlier j f hmem hlt hqueue] at hopen
  simp only [exec_fenceEntryComplete, execFenceEntryComplete, he, hkind, hnone, Bool.false_eq_true, if_false]

theorem State.completeEntry_early (h : s.writesDone k e = false ∨ s.beforeIssueDone k e = false) : s.completeEntry k e failed = s := by
  unfold State.completeEntry
  rcases h with h | h <;> simp [h]

/-- The token's record of an entry that completes takes its outcome, its SAT and the stamp of its writes (R311, R316, R416). -/
def State.tokenEnds (s : State) (e : Entry) (failed : Bool) : State :=
  if e.token = 0 then s
  else (s.finishToken e.token failed e.cause e.bytes e.addr).modTok e.token
    (fun r => { r with stamp := e.stamp.join (s.die e.die).vc, sat := e.sat })

theorem State.tokRec_tokenEnds (ht : e.token ≠ 0) :
    ((s.tokenEnds e failed).die (tokDie e.token)).tokRec (tokIndex e.token) = { (s.die (tokDie e.token)).tokRec (tokIndex e.token) with
      state := if failed then .failed else .done, cause := e.cause, bytes := e.bytes, addr := e.addr
      stamp := e.stamp.join (s.die e.die).vc, sat := e.sat } := by
  rw [State.tokenEnds, if_neg ht, State.tokRec_modTok, State.tokRec_finishToken ht]

section
variable (hw : s.writesDone k e = true) (hb : s.beforeIssueDone k e = true) (hscope : e.scope.code < 5) (hflush : e.flush = none)
  (hkind : e.kind.copies = true)
include hw hb hscope hflush hkind

/-- Below system scope an entry of a copy that completes leaves the entries, and the dies as its token's record and its node have them. -/
theorem State.completeEntry_copies : ∃ g : Node → Node, ∃ es,
    s.completeEntry k e failed = { (if e.attached then (s.tokenEnds e failed).modNode e.node g else s.tokenEnds e failed) with
      entries := Tab.erase es k } := by
  have hsys : (decide (e.scope.code = 5) && e.flush.isNone) = false := by simp [Nat.ne_of_lt hscope]
  have hflushed : s.flushesDone (e.flush.getD []) = true := by simp [State.flushesDone, hflush]
  unfold State.completeEntry State.tokenEnds
  simp only [hw, hb, hsys, hflushed, Bool.not_true, Bool.or_self, Bool.false_eq_true, if_false]
  split
  · next hring => simp [hring, EntryKind.copies] at hkind
  · exact ⟨_, _, rfl⟩

theorem State.completeEntry_gone : (s.completeEntry k e failed).entries.get? k = none := by
  obtain ⟨g, es, h⟩ := State.completeEntry_copies (failed := failed) hw hb hscope hflush hkind
  rw [h, Tab.get?_erase, if_pos rfl]

theorem State.completeEntry_detached (hattached : e.attached = false) (d : Nat) :
    (s.completeEntry k e failed).die d = (s.tokenEnds e failed).die d := by
  obtain ⟨g, es, h⟩ := State.completeEntry_copies (failed := failed) hw hb hscope hflush hkind
  rw [h, hattached]
  rfl

end

end

end Sys2Proof.Machine
end

section
/-! Entries of the copy queues take their turn, move pieces and complete (R232, R313, R314, R316, R320, R326). -/

namespace Sys2Proof

open Sys2Proof.Machine

/-- Settles O41: each event does what its lemma above says, and an entry that completes leaves its outcome in its token's record. -/
theorem entriesRun : Obligations.EntriesRun := by
  unfold Obligations.EntriesRun
  refine ⟨⟨fun s k e => exec_entryTurn_came, ?performs, fun s k e => exec_pieceWrite_sent, ?fails,
    fun s k e failed => exec_entryComplete_ending, fun s k e qs => exec_fenceEntryComplete_last⟩,
    fun s k e failed => ⟨State.completeEntry_early, ?completes⟩⟩
  case performs =>
    intro s k e s1 p he hstate hkind hruns hdone hsent hpiece
    have hready := State.engReady_of_running hstate hkind hruns hdone hsent
    refine ⟨fun hown => ?_, fun hpeers hshadow => ?_⟩
    · rw [exec_pieceWrite_ready he hready hsent hpiece, if_pos (by simpa using hown)]
    · rw [exec_pieceWrite_ready he hready hsent hpiece, if_neg (by simp [hpeers, hshadow])]
  case fails =>
    intro s k e s1 c a he hstate hkind hruns hdone hsent
    exact exec_pieceFail_ready he (State.engReady_of_running hstate hkind hruns hdone hsent)
  case completes =>
    intro hw hb hscope hflush hkind
    refine ⟨State.completeEntry_gone hw hb hscope hflush hkind, fun ht hattached => ?_⟩
    simp only [State.completeEntry_detached hw hb hscope hflush hkind hattached, State.tokRec_tokenEnds ht, and_self]

end Sys2Proof
end

section
/-! SUPPORT. What KREG, KREG.drop, LNCH and NODEQ answer (R311, R331 to R339, R356, R357). -/

namespace Sys2Proof

open Sys2Proof.Machine

/-! ### Results with the token of the record taken (R311) -/

/-- The results of an instruction that takes a token record: its token goes to the destination pair, and `g` issues what it stands for. -/
def tokenTaken (v : Env) (s : State) (queue : Nat) (scope : Scope) (g : Dword → State → State) : Out :=
  { regs := [v.writeUni true (s.takeToken v.b.die queue v.b.ctx scope).1]
    eff := fun t => g (t.takeToken v.b.die queue v.b.ctx scope).1 (t.takeToken v.b.die queue v.b.ctx scope).2 }

/-- An instruction whose meaning completes with the token of the record that it takes after the allocation. -/
theorem doesIn_token {i : Fields → Instr} {e : Fields → Enc} {body : Env → State → Res} {run : Env → State → State → Out → Prop} {queue : Nat}
    {scope : Scope} (he : ∀ f s, exec (i f) s = runInstr (e f) f body s) (hdst : ∀ f, (e f).dst = .w64)
    (hg : ∀ v s s1 o, run v s s1 o → ∃ g, body v s = .doneIn s1 (tokenOut v queue scope g) ∧ o = tokenTaken v s1 queue scope g) :
    DoesIn i e run := by
  intro f s bid sid b x h s1 o hr x1 hon
  obtain ⟨g, hbody, rfl⟩ := hg _ _ _ _ hr
  have htargets : f.n = false → ∀ k ∈ (((e f).env f bid sid b x).writeUni true 0).targets, (x.reg k).isPend = false := by
    intro hn k hk
    have hheld := h.dst hn
    rw [hdst f] at hheld
    obtain rfl | rfl : k = f.dst.toNat ∨ k = f.dst.toNat + 1 := by simpa [RegWrite.targets, Env.writeUni, Enc.env] using hk
    · exact hheld 0 Nat.two_pos
    · exact hheld 1 Nat.one_lt_two
  have htoken : ∀ t, (tokenOut ((e f).env f bid sid b x) queue scope g).fix (s1.modSlice bid sid t) [((e f).env f bid sid b x).writeUni true 0]
      = [((e f).env f bid sid b x).writeUni true (s1.takeToken b.die queue b.ctx scope).1] := fun t =>
    congrArg (fun q => [((e f).env f bid sid b x).writeUni true q]) (takeToken_modSlice ..)
  obtain ⟨y, hexec, hwent⟩ := runInstr_went_late (q := Quad.all (s1.takeToken b.die queue b.ctx scope).1) h hbody hon rfl rfl rfl
    (fun k hk => absurd hk List.not_mem_nil) htargets htoken
  exact ⟨y, (he f s).trans hexec, hwent.fields, hwent.regs⟩

/-- A result pair is taken where the destination is a pair. -/
theorem pair_takes {e : Enc} {f : Fields} {s : State} {bid sid : Nat} {b : Block} {x : Slice} (h : Ready e f s bid sid b x)
    (hdst : e.dst = .w64) (w : Dword) : Takes f x { regs := [(e.env f bid sid b x).writeUni true w] } :=
  (plain_one rfl (by rw [hdst]; exact le_rfl) id none).fits.takes h

/-! ### Rows -/

/-- The row of KREG (R335). -/
def encKreg : Enc := { opc := 0xD1, lens := [2], dst := .w64, sa := .u64, sb := .u32, gov0 := true }
/-- The row of KREG.drop (R335). -/
def encKregDrop : Enc := { opc := 0xD1, lens := [2], sb := .u32, gov0 := true, md := 1 }
/-- The row of LNCH (R357). -/
def encLnch : Enc := { opc := 0xD0, lens := [2, 3], dst := .w64, sa := .u64, lit := .role }
/-- The row of NODEQ (R356). -/
def encNodeq : Enc :=
  { opc := 0xD2, lens := [2], dst := .w32, sa := .u64, gov0 := true, md := 0x7FF, extra := fun f _ => decide (modOf f ≤ 5) }

section
variable {v : Env} {s s1 s2 : State} {b : List Byte}

/-! ### KREG (R334, R335) -/

/-- KREG has an active lane and has not taken a record yet. -/
def Machine.Env.Registering (v : Env) : Prop := v.act ≠ 0 ∧ ∀ n, v.x.prog ≠ .pending n

/-- KREG once it has read its image. -/
def kregImage (v : Env) (s : State) (b : List Byte) : Res :=
  match checkImage b with
  | .error (st, o) => .doneIn s (kregOut v st o)
  | .ok (h, ordered) => match s.ctxs.get? v.b.ctx with
    | none => .doneIn s (kregOut v 8 0)
    | some c => match s.imageRoom c b.length, s.freeKernel c with
      | some o, some i => .wait ((s.register v.b.ctx c i o b h ordered).1.modSlice v.bid v.sid
          (fun x => { x with prog := .pending (s.register v.b.ctx c i o b h ordered).2 }))
      | _, _ => .doneIn s (kregOut v 8 0)

theorem exec_kreg_body (f : Fields) (s : State) : exec (.kreg f) s = runInstr encKreg f kregBody s := rfl

theorem kregBody_idle (h : v.act = 0) : kregBody v s = .done {} := if_pos h

theorem kregBody_reads (h : v.Registering) (hread : s.readAsLd v v.a.scalar v.o.scalar v.act = .got s1 b) :
    kregBody v s = kregImage v s1 b := by
  obtain ⟨hact, hprog⟩ := h
  unfold kregBody
  rw [if_neg hact, hread]
  cases hp : v.x.prog with
  | pending n => exact absurd hp (hprog n)
  | _ => rfl

theorem kregBody_registered {k : Nat} (hact : v.act ≠ 0) (hprog : v.x.prog = .pending k) (hall : s.choose v.bid = true) :
    kregBody v s = .done (kregOut v 0 k) := by
  simp only [kregBody, if_neg hact, hprog, hall, if_true]

theorem kregImage_bad {st x : Nat} (h : checkImage b = .error (st, x)) : kregImage v s b = .doneIn s (kregOut v st x) := by
  unfold kregImage
  rw [h]

section
variable {h : Header} {ordered : Bool} {c : Ctx} (hcheck : checkImage b = .ok (h, ordered)) (hctx : s.ctxs.get? v.b.ctx = some c)
include hcheck hctx

theorem kregImage_full (hfull : s.imageRoom c b.length = none ∨ s.freeKernel c = none) : kregImage v s b = .doneIn s (kregOut v 8 0) := by
  unfold kregImage
  rw [hcheck]
  dsimp only
  rw [hctx]
  dsimp only
  split
  · next hroom hfree => simp [hroom, hfree] at hfull
  · rfl

theorem kregImage_registers {off i k : Nat} (hroom : s.imageRoom c b.length = some off) (hfree : s.freeKernel c = some i)
    (hregister : s.register v.b.ctx c i off b h ordered = (s2, k)) :
    kregImage v s b = .wait (s2.modSlice v.bid v.sid (fun x => { x with prog := .pending k })) := by
  unfold kregImage
  rw [hcheck]
  dsimp only
  rw [hctx]
  dsimp only
  rw [hroom, hfree]
  dsimp only
  rw [hregister]

end

/-! ### KREG.drop (R332, R335) -/

/-- The registered kernel that KREG.drop names. -/
def Machine.Env.droppedKernel (v : Env) (s : State) : Option (Nat × Kernel) :=
  (s.ctxs.get? v.b.ctx).bind (fun c => c.kernelOf (BitVec.ofNat 32 v.o.scalar))

/-- KREG.drop. -/
def kregDropBody (v : Env) (s : State) : Res :=
  if v.act = 0 then .done {}
  else match v.droppedKernel s with
    | none => .raise 0x050A 0 v.act
    | some (i, k) => .doneIn (s.modCtx v.b.ctx (fun c => { c with kernels := c.kernels.put i { k with state := 2 } })) {}

theorem exec_kregDrop_body (f : Fields) (s : State) : exec (.kregDrop f) s = runInstr encKregDrop f kregDropBody s := rfl

theorem kregDropBody_idle (h : v.act = 0) : kregDropBody v s = .done {} := if_pos h

theorem kregDropBody_drops {i : Nat} {k : Kernel} (hact : v.act ≠ 0) (h : v.droppedKernel s = some (i, k)) :
    kregDropBody v s = .doneIn (s.modCtx v.b.ctx (fun c => { c with kernels := c.kernels.put i { k with state := 2 } })) {} := by
  simp only [kregDropBody, if_neg hact, h]

theorem kregDropBody_invalid (hact : v.act ≠ 0) (h : v.droppedKernel s = none) : kregDropBody v s = .raise 0x050A 0 v.act := by
  simp only [kregDropBody, if_neg hact, h]

/-! ### LNCH (R338, R357) -/

/-- The address of LNCH's node record. -/
def Machine.Env.recordAddr (v : Env) : Nat := (v.a.scalar + litOff v.f) % 2 ^ 64

/-- LNCH has read its node record and its arguments, and they pass their checks. -/
def Machine.Env.NodeRead (v : Env) (s s2 : State) (r : NodeRec) (args : List Byte) : Prop :=
  v.act ≠ 0 ∧ v.recordAddr % 64 = 0 ∧ ∃ s1 b, s.readAsLd v v.recordAddr 256 v.act = .got s1 b ∧
    s1.nodeCheck v.b.ctx v.recordAddr b = .ok r ∧ s1.readAsLd v r.args r.argb v.act = .got s2 args

theorem exec_lnch_body (f : Fields) (s : State) : exec (.lnch f) s = runInstr encLnch f lnchBody s := rfl

theorem lnchBody_idle (h : v.act = 0) : lnchBody v s = nullToken v := if_pos h

theorem lnchBody_misaligned (hact : v.act ≠ 0) (h : v.recordAddr % 64 ≠ 0) :
    lnchBody v s = .raise 0x0509 (BitVec.ofNat 64 v.recordAddr) v.act :=
  (if_neg hact).trans (if_pos h)

theorem lnchBody_read {r : NodeRec} {args : List Byte} (h : v.NodeRead s s2 r args) : lnchBody v s =
    if !s2.entryRoom v.b.ctx v.b.die then .wait s2
    else .doneIn s2 (tokenOut v 4 .sys (fun t s => s.launch v.b.ctx v.b.die t r args)) := by
  obtain ⟨hact, halign, s1, b, hread, hcheck, hargs⟩ := h
  unfold Env.recordAddr at *
  simp only [lnchBody, if_neg hact, halign, ne_eq, not_true_eq_false, if_false, hread, hcheck, hargs]

/-! ### NODEQ (R356) -/

/-- NODEQ's result. -/
def Machine.Env.nodeWord (v : Env) (n : Nat) : Out :=
  { regs := [⟨v.f.dst.toNat, false, Quad.all (BitVec.ofNat 64 n), .u, .u, false, v.x.mask⟩] }

/-- The node of the token that NODEQ names. -/
def Machine.Env.listedNode (v : Env) (s : State) : Option (Nat × Node) := s.nodes.find? (fun n => n.2.token == v.token)

/-- NODEQ. -/
def nodeqBody (v : Env) (s : State) : Res :=
  if v.token ≠ 0 && tokQueue v.token ≠ 4 then .raise 0x0505 0 v.x.mask
  else match s.tokenView v.b.ctx v.token with
    | none => .raise 0x0505 0 v.x.mask
    | some .null => .done (v.nodeWord (if v.md = 0 then 4 else 0))
    | some .stale => .done (v.nodeWord (if v.md = 0 then 6 else 0))
    | some (.record _) => match v.listedNode s with
      | some (n, x) => .done (v.nodeWord (s.nodeQuery n x v.md))
      | none => .done (v.nodeWord (if v.md = 0 then 6 else 0))

theorem exec_nodeq_body (f : Fields) (s : State) : exec (.nodeq f) s = runInstr encNodeq f nodeqBody s := rfl

theorem nodeqBody_null (h : v.token = 0) : nodeqBody v s = .done (v.nodeWord (if v.md = 0 then 4 else 0)) := by
  simp [nodeqBody, h, State.tokenView]

section
variable (hqueue : tokQueue v.token = 4)
include hqueue

theorem nodeqBody_stale (hview : s.tokenView v.b.ctx v.token = some .stale) :
    nodeqBody v s = .done (v.nodeWord (if v.md = 0 then 6 else 0)) := by
  simp [nodeqBody, hqueue, hview]

theorem nodeqBody_listed {r : TokRec} {n : Nat} {x : Node} (hview : s.tokenView v.b.ctx v.token = some (.record r))
    (hnode : v.listedNode s = some (n, x)) : nodeqBody v s = .done (v.nodeWord (s.nodeQuery n x v.md)) := by
  simp [nodeqBody, hqueue, hview, hnode]

theorem nodeqBody_unlisted {r : TokRec} (hview : s.tokenView v.b.ctx v.token = some (.record r)) (hnode : v.listedNode s = none) :
    nodeqBody v s = .done (v.nodeWord (if v.md = 0 then 6 else 0)) := by
  simp [nodeqBody, hqueue, hview, hnode]

end

theorem nodeqBody_otherQueue (h : v.token ≠ 0) (hqueue : tokQueue v.token ≠ 4) : nodeqBody v s = .raise 0x0505 0 v.x.mask :=
  if_pos ((Bool.and_eq_true _ _).mpr ⟨decide_eq_true h, decide_eq_true hqueue⟩)

theorem nodeqBody_invalid (hview : s.tokenView v.b.ctx v.token = none) : nodeqBody v s = .raise 0x0505 0 v.x.mask := by
  simp only [nodeqBody, hview, ite_self]

theorem nodeWord_plain {e : Enc} {f : Fields} {bid sid : Nat} {b : Block} {x : Slice} (hdst : e.dst = .w32) (n ty : Nat) :
    Plain e f ty ((e.env f bid sid b x).nodeWord n) :=
  plain_one rfl (by rw [hdst]; exact le_rfl) id none

end

end Sys2Proof
end

section
/-! KREG, KREG.drop, LNCH and NODEQ (R311, R331 to R339, R356, R357). -/

namespace Sys2Proof

open Sys2Proof.Machine

/-- Settles O32: KREG goes by what the slice has noted and by its image, KREG.drop by its handle, LNCH by its record and the room for it, and
NODEQ by the view of its token. -/
theorem kernelsAndNodes : Obligations.KernelsAndNodes := by
  unfold Obligations.KernelsAndNodes
  refine ⟨⟨gives_idle exec_kreg_body fun _ _ => kregBody_idle, ?badImage, ?noRoom, ?registers, ?registered,
      gives_idle exec_kregDrop_body fun _ _ => kregDropBody_idle, ?drops, ?dropsNone⟩,
    ?nothing, ?launches, ?launchWaits, ?misaligned, ?null, ?asks, ?ended, ?invalid⟩
  case badImage =>
    refine doesIn_of exec_kreg_body fun f s bid sid b x h s1 o hr => ?_
    obtain ⟨bytes, st, y, ⟨hfresh, hread⟩, hbad, rfl⟩ := hr
    exact ⟨.inl ((kregBody_reads hfresh hread).trans (kregImage_bad hbad)), pair_takes h rfl _⟩
  case noRoom =>
    refine doesIn_of exec_kreg_body fun f s bid sid b x h s1 o hr => ?_
    obtain ⟨bytes, hd, ordered, c, ⟨hfresh, hread⟩, hcheck, hctx, hfull, rfl⟩ := hr
    exact ⟨.inl ((kregBody_reads hfresh hread).trans (kregImage_full hcheck hctx hfull)), pair_takes h rfl _⟩
  case registers =>
    refine waits_env exec_kreg_body fun v s s3 hr => ?_
    obtain ⟨bytes, s1, s2, hd, ordered, c, off, i, k, ⟨hfresh, hread⟩, hcheck, hctx, hroom, hfree, hregister, rfl⟩ := hr
    exact (kregBody_reads hfresh hread).trans (kregImage_registers hcheck hctx hroom hfree hregister)
  case registered =>
    refine does_of exec_kreg_body fun f s bid sid b x h s1 o hr => ?_
    obtain ⟨rfl, hact, hall, k, hprog, rfl⟩ := hr
    exact ⟨rfl, kregBody_registered hact hprog hall, plain_one rfl le_rfl id none⟩
  case drops =>
    refine doesIn_bare exec_kregDrop_body fun v s s1 o hr => ?_
    obtain ⟨hact, i, k, hkernel, rfl, rfl⟩ := hr
    exact ⟨kregDropBody_drops hact hkernel, none, id, rfl⟩
  case dropsNone =>
    refine raises_env exec_kregDrop_body fun v s c a m hr => ?_
    obtain ⟨hact, hnone, rfl, rfl, rfl⟩ := hr
    exact kregDropBody_invalid hact hnone
  case nothing =>
    exact givesIf_plain exec_lnch_body fun f s bid sid b x _ hact => ⟨lnchBody_idle hact, plain_one rfl le_rfl id none⟩
  case launches =>
    refine doesIn_token (queue := 4) (scope := .sys) exec_lnch_body (fun _ => rfl) fun v s s2 o hr => ?_
    obtain ⟨r, args, hnode, hroom, rfl⟩ := hr
    exact ⟨_, (lnchBody_read hnode).trans (if_neg (by simp [hroom])), rfl⟩
  case launchWaits =>
    refine waits_env exec_lnch_body fun v s s2 hr => ?_
    obtain ⟨r, args, hnode, hfull⟩ := hr
    exact (lnchBody_read hnode).trans (if_pos (by simp [hfull]))
  case misaligned =>
    refine raises_env exec_lnch_body fun v s c a m hr => ?_
    obtain ⟨hact, halign, rfl, rfl, rfl⟩ := hr
    exact lnchBody_misaligned hact halign
  case null => exact givesIf_plain exec_nodeq_body fun f s bid sid b x _ hnull => ⟨nodeqBody_null hnull, nodeWord_plain rfl _ _⟩
  case asks =>
    refine does_of exec_nodeq_body fun f s bid sid b x _ s1 o hr => ?_
    obtain ⟨rfl, -, hqueue, w, n, y, hview, hnode, rfl⟩ := hr
    exact ⟨rfl, nodeqBody_listed hqueue hview hnode, nodeWord_plain rfl _ _⟩
  case ended =>
    refine givesIf_plain exec_nodeq_body fun f s bid sid b x _ hc => ⟨?_, nodeWord_plain rfl _ _⟩
    obtain ⟨-, hqueue, hstale | ⟨w, hview, hnone⟩⟩ := hc
    · exact nodeqBody_stale hqueue hstale
    · exact nodeqBody_unlisted hqueue hview hnone
  case invalid =>
    refine raises_env exec_nodeq_body fun v s c a m hr => ?_
    obtain ⟨⟨hnull, hqueue⟩ | hview, rfl, rfl, rfl⟩ := hr
    · exact nodeqBody_otherQueue hnull hqueue
    · exact nodeqBody_invalid hview

end Sys2Proof
end

section
/-! SUPPORT. What the steps in the life of a node leave of the nodes, of the launch queues and of a host port's memory (R337, R339, R340, R358). -/

namespace Sys2Proof

open Sys2Proof.Machine

/-! ### Bytes of a host port -/

theorem leBytes_getElem? {n i : Nat} (x : Nat) (h : i < n) : (leBytes n x)[i]? = some (BitVec.ofNat 8 (x / 256 ^ i)) := by
  induction n generalizing x i with
  | zero => omega
  | succ n ih =>
    cases i with
    | zero => simp [leBytes]
    | succ i => rw [leBytes, List.getElem?_cons_succ, ih _ (by omega), Nat.div_div_eq_div_mul, pow_succ']

/-- Bytes put from `a + k` upward leave what lies below. -/
theorem Tab.get?_putBytes_below {a k j : Nat} (h : j < a + k) (xs : List Byte) (t : Tab Byte) :
    Tab.get? ((xs.zipIdx k).foldl (fun t b => Tab.put t (a + b.2) b.1) t) j = t.get? j := by
  induction xs generalizing k t with
  | nil => rfl
  | cons x xs ih => rw [List.zipIdx_cons, List.foldl_cons, ih (by omega), Tab.get?_put_ne _ _ (by omega)]

/-- Bytes put from `a + k` upward are read there. -/
theorem Tab.get?_putBytes {a k i : Nat} {xs : List Byte} (h : i < xs.length) (t : Tab Byte) :
    Tab.get? ((xs.zipIdx k).foldl (fun t b => Tab.put t (a + b.2) b.1) t) (a + k + i) = xs[i]? := by
  induction xs generalizing k i t with
  | nil => cases h
  | cons x xs ih =>
    rw [List.zipIdx_cons, List.foldl_cons]
    cases i with
    | zero =>
      rw [Tab.get?_putBytes_below (by omega)]
      exact Tab.get?_put_self ..
    | succ i => rw [show a + k + (i + 1) = a + (k + 1) + i by omega, ih (Nat.lt_of_succ_lt_succ h), List.getElem?_cons_succ]

/-- Bytes written through a host port are what its memory then holds. -/
theorem Machine.State.hostWrite_get {i : Nat} {data : List Byte} (s : State) (p a : Nat) (h : i < data.length) :
    ((s.hostWrite p a data).port p).mem.get? (a + i) = data[i]? := by
  rw [State.hostWrite, State.port_modPort, if_pos rfl]
  exact Tab.get?_putBytes (k := 0) h _

/-! ### The nodes -/

theorem HomesOnly.node {s t : State} (h : HomesOnly s t) {n : Nat} {x : Node} (hx : s.nodes.get? n = some x) : t.nodes.get? n = some x := by
  rw [h]
  exact hx

theorem Judged.node {s t : State} (h : Judged s t) {n : Nat} {x : Node} (hx : s.nodes.get? n = some x) : t.nodes.get? n = some x := by
  rw [h.1]
  exact hx

theorem HomesOnly.nodeAcquire (s : State) (dies : Nat) : HomesOnly s (s.nodeAcquire dies) := by
  unfold State.nodeAcquire
  refine HomesOnly.foldl (fun s d => ?_) _ s
  exact HomesOnly.foldl (fun s c => HomesOnly.modCore ..) _ s

theorem HomesOnly.nodeRecall (s : State) (n : Nat) : HomesOnly s (s.nodeRecall n) := by
  unfold State.nodeRecall
  exact HomesOnly.foldl (fun s c => HomesOnly.flushUo ..) _ s

theorem HomesOnly.compareShadow (s : State) (bid : Nat) : HomesOnly s (s.compareShadow bid) := by
  unfold State.compareShadow
  split
  · exact HomesOnly.refl s
  split
  · exact HomesOnly.refl s
  split
  · dsimp only
    split
    · exact (HomesOnly.modBlock ..).trans (HomesOnly.log ..)
    · exact HomesOnly.modBlock ..
  · exact HomesOnly.refl s

theorem HomesOnly.compareShadows (s : State) (n : Nat) : HomesOnly s (s.compareShadows n) := by
  unfold State.compareShadows
  exact HomesOnly.foldl HomesOnly.compareShadow _ s

section
variable {s : State} {n : Nat} {x : Node}

theorem Machine.State.modNode_node (f : Node → Node) (hx : s.nodes.get? n = some x) : (s.modNode n f).nodes.get? n = some (f x) := by
  simp only [State.modNode, hx, Tab.get?_put_self]

@[simp] theorem Machine.State.finishToken_nodes (s : State) (t : Dword) (failed : Bool) (cause : Half) (bytes : Nat) (addr : Dword) :
    (s.finishToken t failed cause bytes addr).nodes = s.nodes := by
  unfold State.finishToken
  split <;> rfl

theorem Machine.State.failNode_node (c : Half) (hx : s.nodes.get? n = some x) :
    (s.failNode n c).nodes.get? n = some { x with state := .failed, cause := c, leases := [], leased := false } := by
  simp only [State.failNode, hx, State.finishToken_nodes]
  exact State.modNode_node _ hx

/-- A root node takes a token; another keeps its own (R311, R380). -/
theorem Machine.State.rootToken_node (die : Nat) (hx : s.nodes.get? n = some x) :
    ∃ t, (s.rootToken n die x).nodes.get? n = some { x with token := t } ∧ (x.token ≠ 0 → t = x.token) := by
  unfold State.rootToken
  split
  · exact ⟨x.token, hx, fun _ => rfl⟩
  · next hnull =>
    refine ⟨(s.takeToken die 4 x.ctx .sys).1, ?_, fun h => absurd h hnull⟩
    dsimp only [State.logRoot]
    exact (HomesOnly.log ..).node (State.modNode_node _ hx)

/-- A node that ends takes the state and the cause of its outcome, and no lease (R339). -/
theorem Machine.State.finishNode_node (hx : s.nodes.get? n = some x) : (s.finishNode n x).nodes.get? n = some { x with
    state := if x.outcome = 0 then .done else .failed, cause := x.outcome, leases := [], leased := false } := by
  unfold State.finishNode State.modTok
  simp only [State.modDie_nodes, State.finishToken_nodes]
  exact State.modNode_node _ hx

/-- A node other than a collective one that starts is Running, with its work as it was (R342). -/
theorem Machine.State.startNode_node (hx : s.nodes.get? n = some x) (hbody : ∀ rec op ty scope q, x.body ≠ .coll rec op ty scope q) :
    ∃ y, (s.startNode n x).nodes.get? n = some y ∧ y.state = .running ∧ y.body = x.body := by
  have hrunning := State.modNode_node (fun y => { y with state := .running }) hx
  unfold State.startNode
  cases hkind : x.body with
  | kernel h k args seed =>
    dsimp only
    split
    · exact ⟨_, State.modNode_node _ hrunning, rfl, hkind⟩
    · exact ⟨_, hrunning, rfl, hkind⟩
  | copy src dst len scope => exact ⟨_, hrunning, rfl, hkind⟩
  | coll rec op ty scope q => exact absurd hkind (hbody rec op ty scope q)
  | signal addr value => exact ⟨_, hrunning, rfl, hkind⟩

end

/-! ### The launch queues -/

/-- The launch queue of every die is as it was. -/
structure QueuesKept (s t : State) : Prop where
  launchQ : ∀ d, (t.die d).launchQ = (s.die d).launchQ

namespace QueuesKept

theorem refl (s : State) : QueuesKept s s := ⟨fun _ => rfl⟩

theorem trans {s t u : State} (h : QueuesKept s t) (k : QueuesKept t u) : QueuesKept s u :=
  ⟨fun d => (k.launchQ d).trans (h.launchQ d)⟩

theorem foldl {α : Type} {f : State → α → State} (hf : ∀ s a, QueuesKept s (f s a)) (l : List α) (s : State) : QueuesKept s (l.foldl f s) := by
  induction l generalizing s with
  | nil => exact refl s
  | cons a l ih => exact (hf s a).trans (ih (f s a))

theorem modDie (s : State) (d : Nat) {f : Die → Die} (hf : ∀ x, (f x).launchQ = x.launchQ) : QueuesKept s (s.modDie d f) := by
  refine ⟨fun e => ?_⟩
  rw [State.die_modDie]
  split
  · next h => exact h ▸ hf _
  · rfl

theorem modCore (s : State) (d c : Nat) (f : Core → Core) : QueuesKept s (s.modCore d c f) := modDie s d fun _ => rfl

theorem modNode (s : State) (n : Nat) (f : Node → Node) : QueuesKept s (s.modNode n f) := ⟨fun d => by simp [State.die]⟩

theorem finishToken (s : State) (t : Dword) (failed : Bool) (cause : Half) (bytes : Nat) (addr : Dword) :
    QueuesKept s (s.finishToken t failed cause bytes addr) := by
  unfold State.finishToken
  split
  · exact refl s
  · refine QueuesKept.trans (t := s.modTok t _) ?_ (modDie _ _ fun _ => rfl)
    exact modDie _ _ fun _ => rfl

theorem failNode (s : State) (n : Nat) (c : Half) : QueuesKept s (s.failNode n c) := by
  unfold State.failNode
  split
  · exact refl s
  · exact (modNode ..).trans (finishToken ..)

theorem nodeAcquire (s : State) (dies : Nat) : QueuesKept s (s.nodeAcquire dies) := by
  unfold State.nodeAcquire
  refine foldl (fun s d => ?_) _ s
  exact foldl (fun s c => modCore ..) _ s

theorem predsDone (s : State) (n : Nat) (x : Node) : QueuesKept s (s.predsDone n x) := by
  unfold State.predsDone
  split
  · exact refl s
  split
  · exact failNode ..
  · exact (nodeAcquire ..).trans (modNode ..)

end QueuesKept

/-! ### A waiting node goes on (R339) -/

/-- Where a waiting node stands, by what has been found of its predecessors: it waits for one that has not completed, leases where none is left,
and fails where one failed and it does not proceed. -/
def GoesOn (proceed : Bool) (ds : List (Option Bool)) (y : Node) : Prop :=
  (none ∈ ds → y.state = .waiting) ∧
  (none ∉ ds → (proceed = true ∨ some true ∉ ds) → y.state = .leasing) ∧
  (none ∉ ds → proceed = false → some true ∈ ds → y.state = .failed ∧ y.cause = 0x050B)

theorem any_isNone_iff {ds : List (Option Bool)} : ds.any Option.isNone = true ↔ none ∈ ds := by
  simp [List.any_eq_true]

section
variable {s : State} {n : Nat} {x : Node}

theorem Machine.State.predsDone_open (h : none ∈ x.predDone) : s.predsDone n x = s := by
  rw [State.predsDone, if_pos (by simp [any_isNone_iff.mpr h])]

variable (hstate : x.state = .waiting) (haccepted : x.accepted = true)
include hstate haccepted

theorem Machine.State.predsDone_complete (h : none ∉ x.predDone) : s.predsDone n x =
    if !x.proceed && x.predDone.contains (some true) then s.failNode n 0x050B
    else (s.nodeAcquire x.dies).modNode n (fun y => { y with state := .leasing }) := by
  have hnone : x.predDone.any Option.isNone = false := Bool.eq_false_iff.mpr (mt any_isNone_iff.mp h)
  rw [State.predsDone, if_neg (by simp [hstate, haccepted, hnone])]

/-- A waiting node goes on by what it holds of its predecessors, and keeps that. -/
theorem Machine.State.predsDone_node (hx : s.nodes.get? n = some x) : ∃ y, (s.predsDone n x).nodes.get? n = some y ∧
    y.accepted = true ∧ y.predDone = x.predDone ∧ GoesOn x.proceed x.predDone y := by
  by_cases hopen : none ∈ x.predDone
  · rw [State.predsDone_open hopen]
    exact ⟨x, hx, haccepted, rfl, fun _ => hstate, fun h => absurd hopen h, fun h => absurd hopen h⟩
  rw [State.predsDone_complete hstate haccepted hopen]
  by_cases hfailed : x.proceed = false ∧ some true ∈ x.predDone
  · obtain ⟨hproceed, hfailed⟩ := hfailed
    rw [if_pos (by simp [hproceed, hfailed])]
    exact ⟨_, State.failNode_node _ hx, haccepted, rfl, fun h => absurd h hopen,
      fun _ h => absurd h (by simp [hproceed, hfailed]), fun _ _ _ => ⟨rfl, rfl⟩⟩
  · rw [if_neg (by simpa using hfailed)]
    exact ⟨_, State.modNode_node _ ((HomesOnly.nodeAcquire ..).node hx), haccepted, rfl, fun h => absurd h hopen, fun _ _ => rfl,
      fun _ hp hf => absurd ⟨hp, hf⟩ hfailed⟩

end

end Sys2Proof
end

section
/-! SUPPORT. The events in the life of a node: what each does where its conditions hold (R332, R337, R339, R340, R358). -/

namespace Sys2Proof.Machine

section
variable {s : State} {n : Nat} {x : Node}

/-! ### Acceptance (R232, R339) -/

/-- A node taken from the launch queue of its die. -/
def State.takeIn (s : State) (die n : Nat) (x : Node) : State :=
  ((s.rootToken n die x).modDie die (fun d => { d with launchQ := d.launchQ.filter (fun m => m != n) })).modNode n
    (fun x => { x with accepted := true })

theorem State.takeIn_node (die : Nat) (hx : s.nodes.get? n = some x) : ∃ y, (s.takeIn die n x).nodes.get? n = some y ∧ y.accepted = true ∧
    (x.token ≠ 0 → y = { x with accepted := true }) := by
  obtain ⟨t, ht, hsame⟩ := State.rootToken_node die hx
  refine ⟨_, State.modNode_node _ ht, rfl, fun h => ?_⟩
  rw [hsame h]

theorem State.takeIn_queue (s : State) (die n : Nat) (x : Node) : n ∉ ((s.takeIn die n x).die die).launchQ := by
  rw [State.takeIn, (QueuesKept.modNode ..).launchQ, State.die_modDie, if_pos rfl]
  simp

theorem exec_nodeAccept_first {die : Nat} {y : Node} (hfirst : (s.die die).launchQ.find? (s.acceptable die) = some n)
    (hx : s.nodes.get? n = some x) (hy : (s.takeIn die n x).nodes.get? n = some y) :
    exec (.nodeAccept die) s = .next ((s.takeIn die n x).predsDone n y) := by
  unfold State.takeIn at *
  simp only [exec_nodeAccept, execNodeAccept, hfirst, hx, hy]

/-! ### Predecessors (R339) -/

/-- What the token of a predecessor found complete shows to the dies of the node. -/
def State.seePred (s : State) (dies : Nat) (w : TokView) : State :=
  match w with
  | .record r => (diesOf dies).foldl (fun (s : State) d => s.noteSeen d r.stamp) s
  | _ => s

/-- A node whose predecessor `k` has been found complete. -/
def Node.predFound (x : Node) (k : Nat) (w : TokView) : Node := { x with predDone := x.predDone.set k (some (w.state == 2)) }

theorem State.seePred_homes (s : State) (dies : Nat) (w : TokView) : HomesOnly s (s.seePred dies w) := by
  cases w with
  | null => exact HomesOnly.refl s
  | stale => exact HomesOnly.refl s
  | record r => exact HomesOnly.foldl (fun s d => HomesOnly.modDie ..) _ s

theorem exec_predecessorComplete_found {k : Nat} {w : TokView} (hx : s.nodes.get? n = some x) (hstate : x.state = .waiting)
    (haccepted : x.accepted = true) (hruns : s.ctxRuns x.ctx = true) (hopen : x.predDone[k]? = some none)
    (hview : s.tokenView x.ctx (x.preds.getD k 0) = some w) (hcomplete : w.state ≠ 0) :
    exec (.predecessorComplete n k) s =
      .next (((s.seePred x.dies w).modNode n (fun _ => x.predFound k w)).predsDone n (x.predFound k w)) := by
  rw [exec_predecessorComplete, execPredecessorComplete, hx]
  dsimp only
  rw [if_neg (by simp [hstate, haccepted, hruns, hopen]), hview]
  dsimp only [Option.getD_some]
  rw [if_neg hcomplete]
  cases w <;> rfl

/-! ### Leases (R340) -/

/-- The leases of a node taken where they are not. -/
def State.withLeases (s : State) (n : Nat) (x : Node) (c : Ctx) : State := if x.leased then s else s.takeLeases n x c

theorem State.takeLeases_none (c : Ctx) (hnone : x.leases = []) : s.takeLeases n x c = s.modNode n (fun y => { y with leased := true }) := by
  rw [State.takeLeases, hnone]
  rfl

theorem State.withLeases_none (c : Ctx) (hx : s.nodes.get? n = some x) (hnone : x.leases = []) :
    (s.withLeases n x c).nodes.get? n = some { x with leased := true } := by
  unfold State.withLeases
  split
  · next hleased => rw [← hleased]; exact hx
  · rw [State.takeLeases_none c hnone]
    exact State.modNode_node _ hx

theorem exec_leaseGrant_leasing {c : Ctx} {y : Node} (hx : s.nodes.get? n = some x) (hctx : s.ctxs.get? x.ctx = some c)
    (hstate : x.state = .leasing) (hruns : s.ctxRuns x.ctx = true)
    (hseen : ∀ d ∈ diesOf x.dies, (s.die d).vc.covers (s.die d).seen = true) (hy : (s.withLeases n x c).nodes.get? n = some y)
    (hleasing : y.state = .leasing) :
    exec (.leaseGrant n) s = .next (if (s.withLeases n x c).rangesResident y.ctx y.leases then (s.withLeases n x c).startNode n y
      else s.withLeases n x c) := by
  have hall := List.all_eq_true.mpr hseen
  unfold State.withLeases at *
  simp only [exec_leaseGrant, execLeaseGrant, hx, hctx, hstate, hruns, hall, hy, hleasing, reduceCtorEq, decide_false, decide_true, Bool.false_and,
    Bool.true_and, ne_eq, not_true_eq_false, Bool.not_true, Bool.or_self, Bool.false_eq_true, if_false]
  exact (apply_ite ..).symm

theorem exec_leaseGrant_running {c : Ctx} (hx : s.nodes.get? n = some x) (hctx : s.ctxs.get? x.ctx = some c) (hstate : x.state = .running)
    (hruns : s.ctxRuns x.ctx = true) : exec (.leaseGrant n) s = .next (s.beginParts n) := by
  simp only [exec_leaseGrant, execLeaseGrant, hx, hctx, hstate, hruns, decide_true, Bool.and_self, if_true]

/-! ### Host signals (R337) -/

theorem exec_hostSignal_sends {va p k : Nat} {v : Dword} {s1 s2 : State} {l : Leaf} (hx : s.nodes.get? n = some x)
    (hbody : x.body = .signal va v) (hstate : x.state = .running) (hflush : x.flush = none) (hfail : x.attachedFail = none)
    (hruns : s.ctxRuns x.ctx = true) (howner : s.ownerOf va = .ok (.host p))
    (hpass : s.verdict x.ctx (.host p) va .write (s.keysOf x.ctx x.die) .slice = (s1, .pass l)) (hfresh : s1.fresh = (k, s2)) :
    exec (.hostSignal n) s = .next (((s2.hostWrite p l.pa (leBytes 8 v.toNat)).modPort p (fun h => { h with flushes := h.flushes ++ [k] })).modNode n
      (fun y => { y with flush := some [k], bytes := 8 })) := by
  simp only [exec_hostSignal, execHostSignal, hx, hbody, hstate, hflush, hfail, hruns, howner, hpass, hfresh, ne_eq, not_true_eq_false,
    decide_false, Option.isSome_none, Bool.not_true, Bool.or_self, Bool.false_eq_true, if_false]

/-! ### Completion (R358) -/

theorem exec_nodeCompletion_done (hx : s.nodes.get? n = some x) (hruns : s.ctxRuns x.ctx = true) (hstate : x.state = .running)
    (hdone : s.bodyDone n x = true) : exec (.nodeCompletion n) s = .next (s.modNode n (fun y => { y with state := .completing })) := by
  simp only [exec_nodeCompletion, execNodeCompletion, hx, hruns, hstate, hdone, Bool.not_true, Bool.false_and, Bool.false_eq_true, if_false,
    if_true]

theorem exec_nodeCompletion_ends {fs : List Nat} (hx : s.nodes.get? n = some x) (hruns : s.ctxRuns x.ctx = true)
    (hstate : x.state = .completing) (hsettled : s.nodeSettled n x = true) (hwrites : (s.nodeRecall n).nodeWritesDone n = true)
    (hflush : x.flush = some fs) (hflushed : (s.nodeRecall n).flushesDone fs = true) :
    exec (.nodeCompletion n) s = .next (((s.nodeRecall n).compareShadows n).finishNode n x) := by
  simp only [exec_nodeCompletion, execNodeCompletion, hx, hruns, hstate, hsettled, hwrites, hflush, hflushed, Bool.not_true, Bool.false_and,
    Bool.false_eq_true, if_false, if_true, reduceCtorEq, decide_true, Bool.and_self]

end

/-! ### Kernel records (R332) -/

theorem State.modCtx_ctx {s : State} {ctx : Nat} {c : Ctx} (f : Ctx → Ctx) (hc : s.ctxs.get? ctx = some c) :
    (s.modCtx ctx f).ctxs.get? ctx = some (f c) := by
  simp only [State.modCtx, hc, Tab.get?_put_self]

theorem exec_kernelRecordFree_unnamed {s : State} {ctx i : Nat} {c : Ctx} {k : Kernel} (hctx : s.ctxs.get? ctx = some c)
    (hk : c.kernels.get? i = some k) (hstate : k.state = 2)
    (hnone : ∀ n x, (n, x) ∈ s.nodes → x.ctx = ctx → x.active = true → x.names i k.gen = false) :
    exec (.kernelRecordFree ctx i) s =
      .next (s.modCtx ctx (fun c => { c with kernels := c.kernels.put i { k with state := 0, off := 0, len := 0 } })) := by
  have hany : s.nodes.any (fun n => n.2.ctx == ctx && n.2.active && n.2.names i k.gen) = false := by
    simp only [List.any_eq_false, Bool.and_eq_true, beq_iff_eq]
    rintro ⟨n, x⟩ hmem ⟨⟨hsame, hactive⟩, hnames⟩
    rw [hnone n x hmem hsame hactive] at hnames
    cases hnames
  simp only [exec_kernelRecordFree, execKernelRecordFree, hctx, Option.bind_some, hk, hstate, hany, ne_eq, not_true_eq_false, decide_false,
    Bool.or_self, Bool.false_eq_true, if_false]

/-- A context that runs is one. -/
theorem State.ctx_of_ctxRuns {s : State} {ctx : Nat} (h : s.ctxRuns ctx = true) : ∃ c, s.ctxs.get? ctx = some c := by
  unfold State.ctxRuns at h
  split at h
  · next c hc => exact ⟨c, hc⟩
  · cases h

end Sys2Proof.Machine
end

section
/-! The life of a node (R332, R337, R339, R340, R358). -/

namespace Sys2Proof

open Sys2Proof.Machine

/-- Settles O44: each event does what its lemma above says, under the conditions that its definition asks for. -/
theorem nodeEvents : Obligations.NodeEvents := by
  unfold Obligations.NodeEvents
  refine ⟨?accepted, ?predecessor, fun s n x c y => exec_leaseGrant_leasing, fun s n x c => exec_leaseGrant_running,
    fun s n x va v p s1 l k s2 => exec_hostSignal_sends, fun s n x => exec_nodeCompletion_done, fun s n x fs => exec_nodeCompletion_ends,
    fun s ctx i c k => exec_kernelRecordFree_unnamed⟩
  case accepted =>
    intro s die n x hfirst hx
    obtain ⟨y, hy, haccepted, hsame⟩ := State.takeIn_node die hx
    exact ⟨y, hy, haccepted, hsame, exec_nodeAccept_first hfirst hx hy⟩
  case predecessor =>
    intro s n x k w hx hstate haccepted hruns hopen hview hcomplete
    rw [exec_predecessorComplete_found hx hstate haccepted hruns hopen hview hcomplete]
    cases w <;> rfl

/-- Settles O45: the state that each event gives is that of its lemma above, and the node is read there as that event leaves it. -/
theorem nodeSteps : Obligations.NodeSteps := by
  unfold Obligations.NodeSteps
  refine ⟨?accepted, ?predecessor, ?runs, ?signal, ?done, ?ends, ?free⟩
  case accepted =>
    intro s die n x rest ⟨hx, hruns⟩ hqueue htoken hstate
    have hacceptable : s.acceptable die n = true := by
      simp only [State.acceptable, hx, hruns, bne_iff_ne.mpr htoken, Bool.true_or, Bool.and_self]
    have hfirst : (s.die die).launchQ.find? (s.acceptable die) = some n := by rw [hqueue, List.find?_cons_of_pos hacceptable]
    obtain ⟨y, hy, -, hsame⟩ := State.takeIn_node die hx
    obtain rfl := hsame htoken
    obtain ⟨z, hz, haccepted, -, hgoes⟩ := State.predsDone_node (x := { x with accepted := true }) hstate rfl hy
    refine ⟨_, z, exec_nodeAccept_first hfirst hx hy, hz, haccepted, ?_, hgoes⟩
    rw [(QueuesKept.predsDone ..).launchQ]
    exact State.takeIn_queue s die n x
  case predecessor =>
    intro s n x k w ⟨hx, hruns⟩ hstate haccepted hopen hview hcomplete
    have hfound : ((s.seePred x.dies w).modNode n (fun _ => x.predFound k w)).nodes.get? n = some (x.predFound k w) :=
      State.modNode_node _ ((State.seePred_homes ..).node hx)
    obtain ⟨y, hy, -, hpreds, hgoes⟩ := State.predsDone_node (x := x.predFound k w) hstate haccepted hfound
    exact ⟨_, y, exec_predecessorComplete_found hx hstate haccepted hruns hopen hview hcomplete, hy, hpreds, hpreds ▸ hgoes⟩
  case runs =>
    intro s n x ⟨hx, hruns⟩ hstate hnone hbody hseen
    obtain ⟨c, hctx⟩ := State.ctx_of_ctxRuns hruns
    have htaken := State.withLeases_none c hx hnone
    obtain ⟨y, hy, hrunning, hsame⟩ := State.startNode_node htaken hbody
    refine ⟨_, y, (exec_leaseGrant_leasing hx hctx hstate hruns hseen htaken hstate).trans ?_, hy, hrunning, hsame⟩
    simp only [hnone]
    rfl
  case signal =>
    intro s n x va v p s1 l ⟨hx, hruns⟩ hbody hstate hflush hfail howner hpass
    have hjudged := judged_verdict s x.ctx (.host p) va .write (s.keysOf x.ctx x.die) .slice
    rw [hpass] at hjudged
    refine ⟨_, s1.nextId, exec_hostSignal_sends hx hbody hstate hflush hfail hruns howner hpass rfl,
      State.modNode_node _ (hjudged.node hx), ?flushing, fun i hi => ?bytes⟩
    case flushing =>
      rw [State.port, State.modNode_ports, ← State.port, State.port_modPort, if_pos rfl]
      simp
    case bytes =>
      rw [State.port, State.modNode_ports, ← State.port, State.port_modPort, if_pos rfl]
      have hlen : i < (leBytes 8 v.toNat).length := by simpa [leBytes] using hi
      exact (State.hostWrite_get _ _ _ hlen).trans (leBytes_getElem? _ hi)
  case done =>
    intro s n x ⟨hx, hruns⟩ hstate hdone
    exact ⟨_, exec_nodeCompletion_done hx hruns hstate hdone, State.modNode_node _ hx⟩
  case ends =>
    intro s n x fs ⟨hx, hruns⟩ hstate hsettled hwrites hflush hflushed
    have hkept := (HomesOnly.nodeRecall s n).trans (HomesOnly.compareShadows _ n)
    exact ⟨_, exec_nodeCompletion_ends hx hruns hstate hsettled hwrites hflush hflushed, State.finishNode_node (hkept.node hx)⟩
  case free =>
    intro s ctx i c k hctx hk hstate hnone
    exact ⟨_, _, exec_kernelRecordFree_unnamed hctx hk hstate hnone, State.modCtx_ctx _ hctx, Tab.get?_put_self ..⟩

end Sys2Proof
end

section
/-! SUPPORT. What the steps of a bring-up change of a package that a reset has cleared (R16, R227, R405, R453 to R456). -/

namespace Sys2Proof

open Sys2Proof.Machine

/-- Nothing runs in the package or is under way in it. -/
structure Machine.State.Quiet (s : State) : Prop where
  ctxs : s.ctxs = []
  reqs : s.reqs = []
  msgs : s.msgs = []
  additions : s.additions = []
  pairs : s.pairs = []

/-- `t` is `s` but for its dies, the rings and the ports, what the bring-up offers and measures, and a rollback counter that has not fallen. -/
def BootOnly (s t : State) : Prop :=
  s.fuses.rollback ≤ t.fuses.rollback ∧
  t = { s with dies := t.dies, ring := t.ring, ports := t.ports, offer := t.offer, measurement := t.measurement, svn := t.svn
               fuses := { s.fuses with rollback := t.fuses.rollback } }

namespace BootOnly

theorem refl (s : State) : BootOnly s s := ⟨le_rfl, rfl⟩

theorem trans {s t u : State} (h : BootOnly s t) (k : BootOnly t u) : BootOnly s u := by
  obtain ⟨hle, ht⟩ := h
  obtain ⟨kle, hu⟩ := k
  refine ⟨hle.trans kle, ?_⟩
  rw [ht] at hu
  exact hu

theorem quiet {s t : State} (h : BootOnly s t) (hq : s.Quiet) : t.Quiet := by
  obtain ⟨_, ht⟩ := h
  obtain ⟨hctxs, hreqs, hmsgs, hadditions, hpairs⟩ := hq
  rw [ht]
  exact ⟨hctxs, hreqs, hmsgs, hadditions, hpairs⟩

/-- Steps that keep to the frame in a quiet package keep to it one after the other. -/
theorem foldl {α : Type} {f : State → α → State} (hf : ∀ s a, s.Quiet → BootOnly s (f s a)) (l : List α) {s : State} (hq : s.Quiet) :
    BootOnly s (l.foldl f s) := by
  induction l generalizing s with
  | nil => exact refl s
  | cons a l ih => exact (hf s a hq).trans (ih ((hf s a hq).quiet hq))

end BootOnly

section
variable {s : State} (hq : s.Quiet)
include hq

/-! ### Losses in a quiet package -/

theorem Machine.State.Quiet.endLost (p : Ctx → Bool) : s.endLost p = s := by
  rw [State.endLost, hq.ctxs]
  rfl

theorem Machine.State.Quiet.splitRing : s.splitRing = { s with ring := .split } := by
  have hsplit : ({ s with ring := .split } : State).Quiet := ⟨hq.ctxs, hq.reqs, hq.msgs, hq.additions, hq.pairs⟩
  exact hsplit.endLost _

/-- The words of the dies may be written before the rings split. -/
theorem BootOnly.splitAfter (r n : Nat) : BootOnly s (s.setRing r n).splitRing := by
  have hset : BootOnly s (s.setRing r n) := ⟨le_rfl, rfl⟩
  rw [(hset.quiet hq).splitRing]
  exact hset.trans ⟨le_rfl, rfl⟩

theorem BootOnly.ringLoss (r n : Nat) : BootOnly s (s.ringLoss r n) := by
  cases hr : s.ring with
  | whole => rw [State.ringLoss_whole hr]; exact ⟨le_rfl, rfl⟩
  | wrapping q b => rw [State.ringLoss_wrapping hr]; exact splitAfter hq q b
  | wrapped =>
    rw [State.ringLoss_wrapped hr]
    split
    · exact ⟨le_rfl, rfl⟩
    · rw [hq.splitRing]; exact ⟨le_rfl, rfl⟩
  | split => rw [State.ringLoss_split hr]; exact refl s

theorem Machine.State.Quiet.discardMsgs (d : Nat) : s.discardMsgs d = s := by
  simp [State.discardMsgs, hq.msgs]

theorem BootOnly.dropLost (d : Nat) : BootOnly s (s.dropLost d) := by
  refine ⟨le_of_eq ?_, ?_⟩ <;> simp [State.dropLost, hq.discardMsgs, hq.reqs, hq.msgs, hq.additions, hq.pairs]

theorem BootOnly.loseDie (d : Nat) : BootOnly s (s.loseDie d) := by
  unfold State.loseDie
  split
  · exact refl s
  · have hmark : BootOnly s (s.modDie d (fun x => { x with lost := true })) := ⟨le_rfl, rfl⟩
    have hring := hmark.trans (ringLoss (hmark.quiet hq) 2 d)
    have hdrop := hring.trans (dropLost (hring.quiet hq) d)
    rw [(hdrop.quiet hq).endLost]
    exact hdrop

theorem BootOnly.loseBridge (b : Nat) : BootOnly s (s.loseBridge b) := by
  unfold State.loseBridge
  split
  · exact refl s
  · exact ringLoss hq 1 b

theorem BootOnly.wrapDone : BootOnly s s.wrapDone := by
  cases hr : s.ring with
  | wrapping r n =>
    have hset : BootOnly s (s.wrapWords r n) := ⟨le_rfl, rfl⟩
    have hnone : (s.wrapWords r n).wrapLoggers = [] := by
      simp [State.wrapLoggers, State.residentCtxs, (hset.quiet hq).ctxs]
    rw [State.wrapDone_wrapping hr, hnone]
    exact hset
  | _ => rw [State.wrapDone_of_not_wrapping (by simp [hr])]; exact refl s

/-! ### The steps of R454 -/

omit hq in
theorem BootOnly.verifyImage (first : Bool) : BootOnly s (s.verifyImage first) := by
  unfold State.verifyImage
  dsimp only
  split
  · exact ⟨le_rfl, rfl⟩
  · split
    · exact ⟨le_max_left _ _, rfl⟩
    · exact refl s

omit hq in
theorem BootOnly.measure : BootOnly s s.measure := by
  unfold State.measure
  split
  · exact ⟨le_rfl, rfl⟩
  · exact ⟨le_rfl, rfl⟩

theorem BootOnly.bringStep (first : Bool) (k : Nat) : BootOnly s (s.bringStep first k) := by
  have hloss : ∀ {s t : State}, s.Quiet → BootOnly s t → BootOnly s t.wrapDone := fun hs h => h.trans (wrapDone (h.quiet hs))
  unfold State.bringStep
  split
  · exact refl s
  · split
    · exact ⟨le_rfl, rfl⟩
    · exact foldl (fun s d hs => hloss hs (loseDie hs d)) _ hq
    · exact verifyImage first
    · exact ⟨le_rfl, rfl⟩
    · exact foldl (fun s b hs => hloss hs (loseBridge hs b)) _ hq
    · exact ⟨le_rfl, rfl⟩
    · exact measure
    · exact ⟨le_rfl, rfl⟩
    · exact refl s

theorem BootOnly.bringUp : BootOnly s s.bringUp := foldl (fun _ k hs => bringStep hs true k) _ hq

end

/-! ### Resets -/

theorem Machine.State.quiet_cleared (s : State) : s.cleared.Quiet := ⟨rfl, rfl, rfl, rfl, rfl⟩

/-- What a reset of the package leaves (R453): `t` runs nothing and holds nothing in memory, with the flash and the fuses of `s` but for a
rollback counter that has not fallen, and with the registers of ACCEPT, PWR and the clocks at their reset values. -/
def Restarted (s t : State) : Prop :=
  t.blocks = [] ∧ t.nodes = [] ∧ t.ctxs = [] ∧ t.entries = [] ∧ t.fills = [] ∧ t.reqs = [] ∧ t.msgs = [] ∧
    t.mem = [] ∧ t.poison = [] ∧ t.flash = s.flash ∧ s.fuses.rollback ≤ t.fuses.rollback ∧ { t.fuses with rollback := s.fuses.rollback } = s.fuses ∧
    t.accepted = false ∧ t.accept = 0 ∧ t.pmax = 4 ∧ t.tol = 0 ∧ t.pstate = 0 ∧ t.frozen = false ∧ t.staging = []

theorem BootOnly.restarted {s t : State} (h : BootOnly s.cleared t) : Restarted s t := by
  obtain ⟨hle, ht⟩ := h
  rw [ht]
  exact ⟨rfl, rfl, rfl, rfl, rfl, rfl, rfl, rfl, rfl, rfl, hle, rfl, rfl, rfl, rfl, rfl, rfl, rfl, rfl⟩

theorem restarted_rebooted (s : State) : Restarted s s.rebooted := (BootOnly.bringUp s.quiet_cleared).restarted

/-- A mailbox that is ready, or that is in recovery, takes RESET, whatever is in its other registers. -/
theorem exec_reset_takes {s : State} {p : Nat} (tag : Byte) (hup : s.hostUp p = true)
    (hstate : (s.port p).mailbox.state = 1 ∨ (s.port p).mailbox.state = 3) :
    exec (.reset p tag) s = .next (s.mbTake p 0x41 tag).rebooted := by
  have hready : s.mbReady p = true := by simpa [State.mbReady, hup] using hstate
  rw [exec_reset, execReset]
  simp [State.command, hready]

/-- While no image is being committed a loss of power leaves the flash alone. -/
theorem exec_powerFailure_whole {s : State} (n : Nat) (h : ∀ p x, (p, x) ∈ s.ports → x.mailbox.staged = false) :
    exec (.powerFailure n) s = .next s.cleared := by
  have hnone : s.ports.any (fun p => p.2.mailbox.staged) = false := by simpa using h
  rw [exec_powerFailure, execPowerFailure]
  simp [hnone]

/-- A loss of power while a staged image that verifies is written leaves the bytes written by then. -/
theorem exec_powerFailure_torn {s : State} {n : Nat} (h : ∃ p x, (p, x) ∈ s.ports ∧ x.mailbox.staged = true)
    (hcode : imageCode s.stagedImage s.fuses.rollback = 0) (h0 : 0 < n) (hn : n < s.stagedImage.length) :
    exec (.powerFailure n) s = .next (State.cleared { s with flash := s.stagedImage.take n }) := by
  have hsome : s.ports.any (fun p => p.2.mailbox.staged) = true := by simpa using h
  rw [exec_powerFailure, execPowerFailure]
  simp [hsome, hcode, h0, hn]

end Sys2Proof
end

section
/-! Resets and failures of power (R453, R456). -/

namespace Sys2Proof

open Sys2Proof.Machine

/-- Settles O51: a reset clears the package, and no step of the bring-up that follows brings anything of it back. -/
theorem resets : Obligations.Resets := by
  unfold Obligations.Resets
  refine ⟨fun s => ⟨_, rfl, restarted_rebooted s⟩, fun s => ⟨_, rfl, restarted_rebooted s⟩, ?mailbox, ?port1, ?power, ?torn⟩
  case mailbox => exact fun s p tag hup hstate => ⟨_, exec_reset_takes tag hup hstate, restarted_rebooted (s.mbTake p 0x41 tag)⟩
  case port1 =>
    intro s
    refine ⟨_, rfl, rfl, ?_⟩
    simp only [State.port_modPort, one_ne_zero, if_true, if_false, HostPort.reset, Mailbox.reset, and_self]
  case power => exact fun s n hstaged => ⟨_, exec_powerFailure_whole n hstaged, (BootOnly.refl _).restarted, rfl⟩
  case torn => exact fun s n hstaged hcode h0 hn => ⟨_, exec_powerFailure_torn hstaged hcode h0 hn, rfl, rfl⟩

end Sys2Proof
end

section
/-! SUPPORT. Writes of the registers of ACCEPT, PWR, the bay map and the layer pool, and what an aligned dword of BAR0 reaches (R361, R457 to
R459, R461, R462, R466, R467). -/

namespace Sys2Proof

open Sys2Proof.Machine

/-! ### ACCEPT (R461, R462) -/

/-- ACCEPT's two dwords side by side. -/
theorem append_eq_shift_or (v low : Dword) : v ++ low = (v.setWidth 128 <<< 64 ||| low.setWidth 128) := by
  apply BitVec.eq_of_getLsbD_eq
  intro i hi
  simp only [BitVec.getLsbD_append, BitVec.getLsbD_or, BitVec.getLsbD_shiftLeft, BitVec.getLsbD_setWidth, hi, decide_true, Bool.true_and]
  by_cases h : i < 64
  · simp [h]
  · have hv : i - 64 < 128 := by omega
    simp [h, hv, BitVec.getLsbD_of_ge low i (by omega)]

/-- The features that a write of ACCEPT's upper dword commits. -/
def Machine.State.committed (s : State) (v : Dword) : BitVec 128 := (v ++ s.acceptLow) &&& s.offer

theorem commitAccept_open {s : State} (v : Dword) (haccepted : s.accepted = false) (hstate : (s.port 0).mailbox.state = 1) :
    s.commitAccept v = { s with
      accept := s.committed v, accepted := true
      dies := if (s.committed v).getLsbD 2 then s.dies else s.dies.map (fun (d : Nat × Die) => (d.1, { d.2 with pxa := 0, pxb := 0 })) } := by
  unfold State.commitAccept State.committed
  rw [if_neg (by simp [haccepted, hstate]), append_eq_shift_or]

theorem commitAccept_committed {s : State} (v : Dword) (h : s.accepted = true) : s.commitAccept v = s := if_pos (by simp [h])

theorem exec_acceptWrite_up {s : State} {port : Nat} (v : Dword) (h : s.hostUp port = true) :
    exec (.acceptWrite port v) s = .next (s.commitAccept v) := congrArg _ (if_pos h)

theorem exec_pwrWrite_up {s : State} {port : Nat} (v : Dword) (h : s.hostUp port = true) :
    exec (.pwrWrite port v) s = .next (s.writePwr v) := congrArg _ (if_pos h)

/-! ### The bay map (R361) -/

/-- A bay map with a word of eight bays written. -/
def bayMapPut (m : List Nat) (word : Nat) (v : Dword) : List Nat :=
  m.zipIdx.map (fun p => if p.2 / 8 = word then v.toNat / 2 ^ (8 * (p.2 % 8)) % 64 else p.1)

/-- Every bay stands in a map. -/
def NamesEachBay (m : List Nat) : Prop := ∀ i, i < 64 → i ∈ m

theorem bitsOf_six (x lo : Nat) : bitsOf x (lo + 5) lo = x / 2 ^ lo % 64 := by
  rw [bitsOf, show lo + 5 + 1 - lo = 6 by omega]
  rfl

theorem writeBayMap_eq (s : State) (d w : Nat) (v : Dword) : s.writeBayMap d w v =
    if 8 ≤ d || (s.die d).lost || (s.die d).mapFixed || !(List.range 64).all (fun i => (bayMapPut (s.die d).bayMap w v).contains i) then s
    else s.modDie d (fun x => { x with bayMap := bayMapPut (s.die d).bayMap w v }) := by
  simp only [State.writeBayMap, bitsOf_six, bayMapPut]
  rfl

theorem namesEachBay_iff (m : List Nat) : (List.range 64).all (fun i => m.contains i) = true ↔ NamesEachBay m := by
  simp [NamesEachBay]

section
variable {s : State} {d w : Nat} {v : Dword}

theorem writeBayMap_permutation (hd : d < 8) (hl : (s.die d).lost = false) (hf : (s.die d).mapFixed = false)
    (hm : NamesEachBay (bayMapPut (s.die d).bayMap w v)) :
    s.writeBayMap d w v = s.modDie d (fun x => { x with bayMap := bayMapPut x.bayMap w v }) := by
  have hall := (namesEachBay_iff _).mpr hm
  rw [writeBayMap_eq, if_neg (by simp only [hall, hl, hf, Bool.not_true, Bool.or_false, decide_eq_true_eq]; omega)]
  rfl

theorem writeBayMap_bad (hm : ¬NamesEachBay (bayMapPut (s.die d).bayMap w v)) : s.writeBayMap d w v = s := by
  have hall := Bool.eq_false_iff.mpr (mt (namesEachBay_iff _).mp hm)
  rw [writeBayMap_eq, if_pos (by simp only [hall, Bool.not_false, Bool.or_true])]

theorem writeBayMap_fixed (hf : (s.die d).mapFixed = true) : s.writeBayMap d w v = s := if_pos (by simp [hf])

/-! ### The layer pool (R458) -/

theorem writeLpool_quiet (hd : d < 8) (hl : (s.die d).lost = false) (hn : v.toNat % 2 ^ 32 ≤ (s.die d).cap / 65536)
    (hslots : ∀ k, k < 16 → (s.slotState d k).1 = .free ∨ (s.slotState d k).1 = .ended) :
    s.writeLpool d v = s.modDie d (fun x => { x with lpool := v.setWidth 32 }) := by
  have hquiet : (List.range 16).all (fun k => (s.slotState d k).1 == .free || (s.slotState d k).1 == .ended) = true := by simpa using hslots
  have hvalue : BitVec.ofNat 32 (v.toNat % 2 ^ 32) = v.setWidth 32 := BitVec.eq_of_toNat_eq (by simp)
  unfold State.writeLpool
  rw [if_neg (by simp only [hquiet, hl, Bool.or_false, Bool.not_true, Bool.or_eq_true, decide_eq_true_eq, not_or]; omega), hvalue]

theorem writeLpool_inUse {k : Nat} (hk : k < 16) (hfree : (s.slotState d k).1 ≠ .free) (hended : (s.slotState d k).1 ≠ .ended) :
    s.writeLpool d v = s := by
  have hquiet : (List.range 16).all (fun k => (s.slotState d k).1 == .free || (s.slotState d k).1 == .ended) = false := by
    rw [Bool.eq_false_iff, ne_eq, List.all_eq_true]
    intro h
    have hslot := h k (List.mem_range.mpr hk)
    simp [hfree, hended] at hslot
  exact if_pos (by simp only [hquiet, Bool.not_false, Bool.or_true, Bool.true_or])

end

/-! ### BAR0 (R457, R459) -/

section
variable {s : State} {port off : Nat} {data : List Byte}

/-- A write that misses MBDATA and the size of BAR2 and is an aligned dword reaches the register at its offset. -/
theorem exec_configRegisterWrite_dword (hup : s.hostUp port = true) (hlen : data.length = 8) (halign : off % 8 = 0)
    (hoff : off < 0x2001000 ∨ 0x2002000 ≤ off ∧ off < 0x4000000) :
    exec (.configRegisterWrite port off data) s = .next (s.writeBar0 port off (BitVec.ofNat 64 (leNat data))) := by
  rw [exec_configRegisterWrite, execConfigRegisterWrite, hup, if_neg (by decide),
    if_neg (by simp only [Bool.and_eq_true, decide_eq_true_eq]; omega), if_neg (by simp [halign, hlen]), if_neg (by omega)]

theorem exec_configRegisterWrite_data (hup : s.hostUp port = true) (hlo : 0x2001000 ≤ off) (hhi : off + data.length ≤ 0x2002000) :
    exec (.configRegisterWrite port off data) s =
      .next (s.modMailbox port (fun m => { m with data := m.data.writeList (off - 0x2001000) data })) := by
  rw [exec_configRegisterWrite, execConfigRegisterWrite, hup, if_neg (by decide), if_pos (by simp [hlo, hhi])]

theorem exec_configRegisterWrite_short (hlen : data.length < 8) (hoff : off < 0x2001000) :
    exec (.configRegisterWrite port off data) s = .next s := by
  rw [exec_configRegisterWrite, execConfigRegisterWrite,
    if_neg (c := (0x2001000 ≤ off && _) = true) (by simp only [Bool.and_eq_true, decide_eq_true_eq]; omega),
    if_pos (c := (off % 8 ≠ 0 || _) = true) (by simp only [Bool.or_eq_true, decide_eq_true_eq]; omega), ite_self]

theorem writeBar0_acceptLow (v : Dword) :
    s.writeBar0 port 0x2010010 v = if s.accepted then s else { s with acceptLow := v &&& 0x7F } := rfl

/-- An offset into the page of a die reaches that die's register. -/
theorem exec_configRegisterWrite_die {d r : Nat} (hup : s.hostUp port = true) (hlen : data.length = 8) (hd : d < 8) (hr : r < 0x200)
    (halign : r % 8 = 0) : exec (.configRegisterWrite port (d * 0x400000 + r) data) s = .next (s.writeDie d r (BitVec.ofNat 64 (leNat data))) := by
  rw [exec_configRegisterWrite_dword hup hlen (by omega) (by omega), State.writeBar0, if_pos (by omega),
    show (d * 0x400000 + r) / 0x400000 = d by omega, show (d * 0x400000 + r) % 0x400000 = r by omega]

end

section
variable {s : State} {d : Nat}

theorem writeDie_bayMap {w : Nat} (hl : (s.die d).lost = false) (hw : w < 8) (v : Dword) :
    s.writeDie d (0x40 + 8 * w) v = s.writeBayMap d w v := by
  rw [State.writeDie, hl, if_neg (by decide), if_pos (by simp only [Bool.and_eq_true, decide_eq_true_eq]; omega),
    show (0x40 + 8 * w - 0x40) / 8 = w by omega]

theorem writeDie_lpool (hl : (s.die d).lost = false) (v : Dword) : s.writeDie d 0x80 v = s.writeLpool d v := by
  rw [State.writeDie, hl]
  rfl

theorem writeDie_ctxstart {k : Nat} (hl : (s.die d).lost = false) (hk : k < 16) (v : Dword) :
    s.writeDie d (0x100 + 16 * k) v = s.ctxStart d k v := by
  rw [State.writeDie, hl, if_neg (by decide), if_neg (by simp only [Bool.and_eq_true, decide_eq_true_eq]; omega), if_neg (by omega),
    if_pos (by simp only [Bool.and_eq_true, decide_eq_true_eq]; omega), if_pos (by omega), show (0x100 + 16 * k - 0x100) / 16 = k by omega]

end

end Sys2Proof
end

section
/-! Writes of the configuration registers (R361, R457 to R459, R461, R462, R466, R467). -/

namespace Sys2Proof

open Sys2Proof.Machine

/-- Settles O52: each register's write is that of its lemma above, and an aligned dword of BAR0 is the write of the register at its offset. -/
theorem registerWrites : Obligations.RegisterWrites := by
  unfold Obligations.RegisterWrites
  refine ⟨?commits, fun s port v hup hdone => ?again, fun s port v hup => ⟨_, rfl, ?pwr⟩, ?bayMap,
    fun s d w v hf => congrArg _ (writeBayMap_fixed hf), fun s d v hd hl hn hslots => congrArg _ (writeLpool_quiet hd hl hn hslots),
    fun s d v k hk hfree hended => congrArg _ (writeLpool_inUse hk hfree hended), ?bar0⟩
  case commits =>
    intro s port v hup haccepted hstate
    refine ⟨_, (exec_acceptWrite_up v hup).trans (congrArg _ (commitAccept_open v haccepted hstate)), rfl, rfl, fun h2 => if_pos h2, ?_, rfl, rfl⟩
    intro h2 d x hx
    have hdies : (d, x) ∈ s.dies.map (fun (d : Nat × Die) => (d.1, { d.2 with pxa := 0, pxb := 0 })) := by
      rwa [if_neg (by simpa using h2)] at hx
    obtain ⟨_, _, heq⟩ := List.mem_map.mp hdies
    cases heq
    exact ⟨rfl, rfl⟩
  case again => rw [exec_acceptWrite_up v hup, commitAccept_committed v hdone]
  case pwr =>
    refine ⟨fun h => ?_, fun h => ?_⟩
    · exact (exec_pwrWrite_up v hup).trans (congrArg _ (if_pos h))
    · exact (exec_pwrWrite_up v hup).trans (congrArg _ (if_neg (by simpa using h)))
  case bayMap =>
    intro s d w v hd hl hf
    exact ⟨fun h => congrArg _ (writeBayMap_permutation hd hl hf h), fun h => congrArg _ (writeBayMap_bad h)⟩
  case bar0 =>
    intro s port off data hup
    refine ⟨exec_configRegisterWrite_data hup, ?arg0, ?arg1, ?low, ?high, ?power, ?map, ?pool, ?start, exec_configRegisterWrite_short⟩
    case arg0 => rintro hlen rfl; rw [exec_configRegisterWrite_dword hup hlen (by decide) (by decide)]; rfl
    case arg1 => rintro hlen rfl; rw [exec_configRegisterWrite_dword hup hlen (by decide) (by decide)]; rfl
    case low =>
      rintro hlen rfl haccepted
      rw [exec_configRegisterWrite_dword hup hlen (by decide) (by decide)]
      rw [writeBar0_acceptLow, haccepted]
      rfl
    case high => rintro hlen rfl; rw [exec_configRegisterWrite_dword hup hlen (by decide) (by decide), exec_acceptWrite_up _ hup]; rfl
    case power => rintro hlen rfl; rw [exec_configRegisterWrite_dword hup hlen (by decide) (by decide), exec_pwrWrite_up _ hup]; rfl
    case map =>
      rintro d w hd hw hlen rfl hl
      rw [Nat.add_assoc, exec_configRegisterWrite_die hup hlen hd (by omega) (by omega), writeDie_bayMap hl hw]
      rfl
    case pool =>
      rintro d hd hlen rfl hl
      rw [exec_configRegisterWrite_die hup hlen hd (by decide) (by decide), writeDie_lpool hl]
      rfl
    case start =>
      rintro d k hd hk hlen rfl hl
      rw [Nat.add_assoc, exec_configRegisterWrite_die hup hlen hd (by omega) (by omega), writeDie_ctxstart hl hk]
      rfl

end Sys2Proof
end

section
/-! SUPPORT. The events of arriving and leaving layers: what each does where its conditions hold (R370, R389). -/

namespace Sys2Proof.Machine

variable {s s1 : State} {ctx l p d a : Nat} {e : Dword}

/-! ### The turn of a layer (R389) -/

theorem exec_layerTurn_full {die : Nat} (h : 4 ≤ (s.advanceAll die |>.die die).arriving.length) :
    exec (.layerTurn die) s = .next (s.advanceAll die) := by
  rw [exec_layerTurn, execLayerTurn, if_pos h]

/-- A layer of a die's queue begins to arrive. -/
def State.beginArrival (s : State) (die : Nat) (q : Nat × Nat) : State :=
  let s2 := s.modDie die (fun d => { d with layerQ := d.layerQ.filter (fun r => r != q), arriving := d.arriving ++ [q] })
  (s2.putLayer q.1 q.2 { s2.layer q.1 q.2 with state := .arriving }).advanceLayer q.1 q.2

theorem exec_layerTurn_begins {die : Nat} {q : Nat × Nat} (hroom : (s.advanceAll die |>.die die).arriving.length < 4)
    (hq : ((s.advanceAll die).die die).layerQ.find? (fun q => (s.advanceAll die).leasesStand q.1) = some q) :
    exec (.layerTurn die) s = .next ((s.advanceAll die).beginArrival die q) := by
  rw [exec_layerTurn, execLayerTurn, if_neg (by omega), hq]
  rfl

/-! ### The landing of a page (R370, R389) -/

/-- A page of an arriving layer is one that can land. -/
def State.PageArrives (s : State) (ctx l p : Nat) : Prop :=
  (s.layer ctx l).state = .arriving ∧ p < (s.layerRec ctx l).pages ∧ s.leasesStand ctx = true

/-- A page that lands: `s1` is the state after the read of its source. -/
def State.landPage (s s1 : State) (ctx l p d : Nat) (e : Dword) (bytes : List Byte) : State :=
  let f := entryFrame e * 65536
  let s2 := ((s1.homeStoreAs (leafPol e != 3) d f bytes).clearPoison d f 65536).setPage ctx l p 2 (entryFrame e)
  let s3 := s2.putLayer ctx l { s2.layer ctx l with landed := (s.layer ctx l).landed + 1 }
  (s3.settleLayer ctx l).advanceAll (s3.layerDie ctx l)

theorem exec_layerPageLand_found (hleaf : s.pageLeaf ctx l p = some (d, a, e)) (hres : leafRes e = 1) (h : s.PageArrives ctx l p) :
    exec (.layerPageLand ctx l p) s = .next (match s.layerSource ctx ((s.layerRec ctx l).src + p * 65536) with
      | none => s.cancelLayer ctx l 1
      | some (s1, bytes) => s.landPage s1 ctx l p d e bytes) := by
  obtain ⟨hstate, hp, hstand⟩ := h
  rw [exec_layerPageLand, execLayerPageLand, hleaf]
  dsimp only
  rw [if_neg (by simp [hstate, hres, hp, hstand])]
  cases s.layerSource ctx ((s.layerRec ctx l).src + p * 65536) <;> rfl

theorem exec_layerPageLand_noLeaf (hleaf : s.pageLeaf ctx l p = none) (h : s.PageArrives ctx l p) :
    exec (.layerPageLand ctx l p) s = .next (s.cancelLayer ctx l 1) := by
  obtain ⟨hstate, hp, hstand⟩ := h
  rw [exec_layerPageLand, execLayerPageLand, hleaf]
  exact congrArg _ (if_pos (by simp [hstate, hp, hstand]))

/-! ### The end of an eviction (R370) -/

theorem exec_evictionComplete_idle (hleaf : s.pageLeaf ctx l p = some (d, a, e)) (hres : leafRes e = 3)
    (hidle : s.frameBusy d (entryFrame e) = false) :
    exec (.evictionComplete ctx l p) s = .next (((s.pageGone ctx l p d (entryFrame e)).settleEvict ctx l).advanceAll d) := by
  rw [exec_evictionComplete, execEvictionComplete, hleaf]
  exact if_neg (by simp [hres, hidle])

end Sys2Proof.Machine
end

section
/-! Arrival and eviction of layer pages (R370, R389). -/

namespace Sys2Proof

open Sys2Proof.Machine

/-- Settles O46: each event does what its lemma above says, and a page lands or cancels its layer by what is read of its source. -/
theorem layerEvents : Obligations.LayerEvents := by
  unfold Obligations.LayerEvents
  refine ⟨fun s die => exec_layerTurn_full, fun s die q => exec_layerTurn_begins, ?lands, fun s ctx l p d a e => exec_evictionComplete_idle, ?faults,
    fun s ctx l p hleaf hstate hp hstand => exec_layerPageLand_noLeaf hleaf ⟨hstate, hp, hstand⟩⟩
  case lands =>
    intro s ctx l p d a e s1 bytes hleaf hstate hres hp hstand hsource
    rw [exec_layerPageLand_found hleaf hres ⟨hstate, hp, hstand⟩, hsource]
    rfl
  case faults =>
    intro s ctx l p d a e hleaf hstate hres hp hstand hsource
    rw [exec_layerPageLand_found hleaf hres ⟨hstate, hp, hstand⟩, hsource]

end Sys2Proof
end

section
/-! SUPPORT. What PQRY, SETPK, TLBFL and TLBDR answer (R371, R372, R374 to R376). -/

namespace Sys2Proof

open Sys2Proof.Machine

/-! ### Rows -/

/-- The row of PQRY (R374). -/
def encPqry : Enc := { opc := 0xF4, lens := [2, 3], dst := .w64, sa := .w64, lit := .role }
/-- The row of SETPK (R375). -/
def encSetpk : Enc := { opc := 0xF5, lens := [2], dst := .w64, sa := .u64, gov0 := true, md := 3, extra := fun f _ => modOf f != 3 }

/-! ### PQRY (R374) -/

/-- The walks of a query and the words that they give, for a pair of registers from `d` on. -/
def Machine.Env.queried (v : Env) (d : Nat) (s : State) : State × List FillElem :=
  (v.globalElems v.a.v 8 1 (lanesOf v.act)).foldl (fun (acc : State × List FillElem) e =>
    ((acc.1.pqry v.b.ctx v.b.die e.va).1, acc.2 ++ [{ lane := e.lane, reg := d, wide := true, ty := 25,
                                                       parts := [(0, 8, some (BitVec.ofNat 64 (acc.1.pqry v.b.ctx v.b.die e.va).2))],
                                                       addr := BitVec.ofNat 64 e.va, shift := 0, fault := none, landed := false }]))
    (s, [])

/-- PQRY's results: its pair is pending, and the words that it found are a fill. -/
def Machine.Env.pqryOut (v : Env) (d : Nat) : Out :=
  { fills := [d, d + 1], fillTag := .g, eff := fun s =>
    (((v.queried d s).1.modSlice v.bid v.sid (fun x => x.blankFill [d, d + 1] v.act)).beginFill v [d, d + 1] .g false true (v.queried d s).2 []
      (fun _ q => q)).1 }

/-- PQRY. -/
def pqryBody (f : Fields) (v : Env) (s : State) : Res :=
  if !s.counterRoom v true then .wait s else .done (v.pqryOut f.dst.toNat)

theorem exec_pqry_body (f : Fields) (s : State) : exec (.pqry f) s = runInstr encPqry f (pqryBody f) s := rfl

theorem pqryOut_filling (f : Fields) (ty : Nat) (v : Env) : Filling encPqry f ty (v.pqryOut f.dst.toNat) :=
  ⟨rfl, rfl, fun _ _ => rfl, rfl, show 2 ≤ 32 by decide⟩

theorem encPqry_clears (f : Fields) : clearsLatches encPqry.opc f.y = true := by
  simp [clearsLatches, encPqry]

section
variable {v : Env} {s s1 : State} {c : Ctx}

/-! ### SETPK (R375) -/

theorem exec_setpk_body (f : Fields) (s : State) : exec (.setpk f) s = runInstr encSetpk f setpkBody s := rfl

/-- SETPK's new value, of the mask that stands and its operand. -/
def Machine.Env.newMask (v : Env) (k : Dword) : Dword := if v.md = 0 then v.a.v.l0 else if v.md = 1 then k &&& v.a.v.l0 else k ||| v.a.v.l0

theorem setpkValue_eq (v : Env) (k : Dword) : setpkValue v.md k v.a.v.l0 = v.newMask k := by
  unfold setpkValue Env.newMask
  split
  · next h => rw [if_pos h]
  · next h => rw [h]; rfl
  · next h0 h1 => rw [if_neg h0, if_neg h1]

theorem setpkBody_updates (hc : s.ctxs.get? v.b.ctx = some c) (h : v.x.acquiring? = none) : setpkBody v s =
    .wait (((s.modCtx v.b.ctx (fun c => c.setK (v.newMask c.k))).spreadK v.b.ctx).modSlice v.bid v.sid (fun x => { x with prog := setpkWait c.k })) := by
  simp only [setpkBody, hc, h, setpkValue_eq]

/-- The state in which SETPK's wait looks at the working copies. -/
def Machine.Ctx.spread (c : Ctx) (s : State) (ctx : Nat) : State := if c.kEverywhere then s else s.spreadK ctx

theorem setpkBody_waiting {c1 : Ctx} {old : Dword} (hc : s.ctxs.get? v.b.ctx = some c) (h : v.x.acquiring? = some old)
    (hc1 : (c.spread s v.b.ctx).ctxs.get? v.b.ctx = some c1) : setpkBody v s =
    if c1.kEverywhere then .doneIn (c.spread s v.b.ctx) { regs := [v.writeUni true old] } else .wait (c.spread s v.b.ctx) := by
  unfold Ctx.spread at *
  simp only [setpkBody, hc, h, hc1]

/-! ### TLBFL and TLBDR (R371, R372, R376) -/

/-- TLBFL. -/
def tlbflBody (v : Env) (s : State) : Res :=
  match v.extent s with
  | none => .raise 0x0102 0 v.x.mask
  | some ext => match s.release v .pkg with
    | (s1, none) => .wait s1
    | (s1, some _) =>
      let part := match s1.ctxs.get? v.b.ctx with | some c => c.dies | none => []
      .doneIn s1 (doing (fun s => s.flushTlb v.b.ctx part ext))

theorem exec_tlbfl_body (f : Fields) (s : State) : exec (.tlbfl f) s = runInstr (encTlb 0xF6 f) f tlbflBody s := rfl

theorem tlbflBody_outside (h : v.extent s = none) : tlbflBody v s = .raise 0x0102 0 v.x.mask := by
  simp only [tlbflBody, h]

theorem tlbflBody_flushes {ext : List Nat} {ok : Bool} (h : v.extent s = some ext) (hr : s.release v .pkg = (s1, some ok))
    (hc : s1.ctxs.get? v.b.ctx = some c) : tlbflBody v s = .doneIn s1 (doing (fun s => s.flushTlb v.b.ctx c.dies ext)) := by
  simp only [tlbflBody, h, hr, hc]

theorem tlbflBody_releasing (h : v.extent s ≠ none) (hr : s.release v .pkg = (s1, none)) : tlbflBody v s = .wait s1 := by
  obtain ⟨ext, hext⟩ := Option.ne_none_iff_exists'.mp h
  simp only [tlbflBody, hext, hr]

/-- The requests that TLBDR waits for are numbered below this. -/
def Machine.Env.drainsUpTo (v : Env) (s : State) : Nat := match v.x.prog with | .pending n => n | _ => s.nextId

/-- TLBDR. -/
def tlbdrBody (v : Env) (s : State) : Res :=
  match v.extent s with
  | none => .raise 0x0102 0 v.x.mask
  | some ext =>
    if s.translatedDone v.b.ctx (v.drainsUpTo s) ext then .done {}
    else .wait (s.modSlice v.bid v.sid (fun x => { x with prog := .pending (v.drainsUpTo s) }))

theorem exec_tlbdr_body (f : Fields) (s : State) : exec (.tlbdr f) s = runInstr (encTlb 0xF7 f) f tlbdrBody s := rfl

theorem tlbdrBody_outside (h : v.extent s = none) : tlbdrBody v s = .raise 0x0102 0 v.x.mask := by
  simp only [tlbdrBody, h]

theorem tlbdrBody_named {ext : List Nat} (h : v.extent s = some ext) : tlbdrBody v s =
    if s.translatedDone v.b.ctx (v.drainsUpTo s) ext then .done {}
    else .wait (s.modSlice v.bid v.sid (fun x => { x with prog := .pending (v.drainsUpTo s) })) := by
  simp only [tlbdrBody, h]

end

end Sys2Proof
end

section
/-! PQRY, SETPK, TLBFL and TLBDR (R371, R372, R374 to R376). -/

namespace Sys2Proof

open Sys2Proof.Machine

/-- Settles O33: PQRY goes by the room for its fill, SETPK by what the slice has noted and by the working copies, TLBFL by its release and TLBDR
by the requests that are under way. -/
theorem pageInstructions : Obligations.PageInstructions := by
  unfold Obligations.PageInstructions
  refine ⟨?queries, ?noCounter, ?updates, ?spread, ?spreading, ?flushes, ?releasing, ?flushOutside, ?drained, ?draining, ?drainOutside⟩
  case queries =>
    refine does_filling (e := fun _ => encPqry) exec_pqry_body encPqry_clears fun f s bid sid b x _ s1 o hr => ?_
    obtain ⟨hroom, rfl, rfl⟩ := hr
    exact ⟨PoolKept.refl _, .inr ⟨rfl, if_neg (by simp [hroom])⟩, pqryOut_filling f _ (encPqry.env f bid sid b x)⟩
  case noCounter =>
    refine waits_of (e := fun _ => encPqry) exec_pqry_body fun f s bid sid b x _ s1 hr => ?_
    obtain ⟨rfl, hfull⟩ := hr
    exact if_pos (by simp [hfull])
  case updates =>
    refine waits_env (e := fun _ => encSetpk) exec_setpk_body fun v s s1 hr => ?_
    obtain ⟨hfresh, c, hc, rfl⟩ := hr
    exact setpkBody_updates hc hfresh
  case spread =>
    refine doesIn_of (e := fun _ => encSetpk) exec_setpk_body fun f s bid sid b x h s1 o hr => ?_
    obtain ⟨c, old, hc, hold, rfl, ⟨c1, hc1, hall⟩, rfl⟩ := hr
    exact ⟨.inl ((setpkBody_waiting hc hold hc1).trans (if_pos hall)), pair_takes h rfl old⟩
  case spreading =>
    refine waits_env (e := fun _ => encSetpk) exec_setpk_body fun v s s1 hr => ?_
    obtain ⟨c, old, hc, hold, rfl, c1, hc1, hall⟩ := hr
    exact (setpkBody_waiting hc hold hc1).trans (if_neg (by simp [hall]))
  case flushes =>
    refine doesIn_bare exec_tlbfl_body fun v s s1 o hr => ?_
    obtain ⟨ext, ok, c, hext, hrelease, hc, rfl⟩ := hr
    exact ⟨tlbflBody_flushes hext hrelease hc, none, _, rfl⟩
  case releasing => exact waits_env exec_tlbfl_body fun v s s1 hr => tlbflBody_releasing hr.1 hr.2
  case flushOutside =>
    refine raises_env exec_tlbfl_body fun v s c a m hr => ?_
    obtain ⟨hnone, rfl, rfl, rfl⟩ := hr
    exact tlbflBody_outside hnone
  case drained =>
    refine givesIf_plain exec_tlbdr_body fun f s bid sid b x _ hc => ⟨?_, plain_none _ _⟩
    obtain ⟨ext, hext, hdone⟩ := hc
    exact (tlbdrBody_named hext).trans (if_pos hdone)
  case draining =>
    refine waits_env exec_tlbdr_body fun v s s1 hr => ?_
    obtain ⟨ext, hext, hopen, rfl⟩ := hr
    exact (tlbdrBody_named hext).trans (if_neg (Bool.not_eq_true _ ▸ hopen))
  case drainOutside =>
    refine raises_env exec_tlbdr_body fun v s c a m hr => ?_
    obtain ⟨hnone, rfl, rfl, rfl⟩ := hr
    exact tlbdrBody_outside hnone

end Sys2Proof
end

section
/-! SUPPORT. What LAYW, LAYQ, LAYR and LAYE answer (R391, R398, R402). -/

namespace Sys2Proof

open Sys2Proof.Machine

/-! ### Completion in the state at hand -/

/-- A meaning that completes does so from the state that it is given. -/
theorem runInstr_inState {e : Enc} {f : Fields} {body body' : Env → State → Res} {s : State}
    (h : ∀ v, body' v s = body v s ∨ ∃ o, body v s = .done o ∧ body' v s = .doneIn s o) : runInstr e f body s = runInstr e f body' s := by
  unfold runInstr
  split
  · rfl
  · next bid sid b x _ =>
    obtain hsame | ⟨o, hdone, hdoneIn⟩ := h (e.env f bid sid b x)
    · rw [hsame]
    · rw [hdone, hdoneIn]

theorem Ready.onward {e : Enc} {f : Fields} {s : State} {bid sid : Nat} {b : Block} {x : Slice} (h : Ready e f s bid sid b x) :
    Onward s bid sid x x :=
  ⟨h.slice.2, rfl, b, h.slice.1, h.room⟩

/-- What goes on from any state that it has brought about goes on from the one at hand. -/
theorem DoesIn.does {i : Fields → Instr} {e : Fields → Enc} {run : Env → State → State → Out → Prop} (h : DoesIn i e run)
    (hrun : ∀ v s s1 o, run v s s1 o → s1 = s) : Does i e run := by
  intro f s bid sid b x hready s1 o hr
  obtain rfl := hrun _ _ _ _ hr
  exact h f s1 bid sid b x hready s1 o hr x hready.onward

/-! ### Meanings -/

/-- LAYW where it names a layer of the context and has not begun its acquire. -/
def laywNamed (v : Env) (s : State) : Res :=
  if (s.layer v.b.ctx v.o.scalar).state = .resident then acquireThen v .pkg 0 none s {}
  else .wait ((if (s.layer v.b.ctx v.o.scalar).state = .absent || (s.layer v.b.ctx v.o.scalar).state = .evicting
      then s.requestLayer v.b.ctx v.o.scalar else s).modSlice v.bid v.sid (fun x =>
        { x with prog := .parked [(v.o.scalar, BitVec.ofNat 64 v.o.scalar, v.x.mask)] }))

/-- LAYW. -/
def laywBody (v : Env) (s : State) : Res :=
  if v.x.acquiring?.isSome then acquireThen v .pkg 0 none s {}
  else if s.layerBad v.b.ctx v.o.scalar then .raise 0x0602 (BitVec.ofNat 64 v.o.scalar) v.x.mask
  else laywNamed v s

/-- LAYQ. -/
def layqBody (v : Env) (s : State) : Res :=
  if s.layerBad v.b.ctx v.o.scalar then .raise 0x0602 (BitVec.ofNat 64 v.o.scalar) v.x.mask
  else .done { regs := [v.writeUni true (BitVec.ofNat 64 (s.layer v.b.ctx v.o.scalar).word)] }

/-- LAYR. -/
def layrBody (v : Env) (s : State) : Res :=
  if v.act = 0 then nullToken v
  else if s.layerBad v.b.ctx v.o.scalar then .raise 0x0602 (BitVec.ofNat 64 v.o.scalar) v.act
  else if !s.entryRoom v.b.ctx v.b.die then .wait s
  else .doneIn s (tokenOut v 5 .pkg (fun t s => (s.requestLayer v.b.ctx v.o.scalar).giveToken v.b.ctx v.o.scalar t))

/-- LAYE. -/
def layeBody (v : Env) (s : State) : Res :=
  if v.act = 0 then .done {}
  else if s.layerBad v.b.ctx v.o.scalar then .raise 0x0602 (BitVec.ofNat 64 v.o.scalar) v.act
  else .doneIn (s.laye v.b.ctx v.o.scalar).1 { pred := predAll v (s.laye v.b.ctx v.o.scalar).2 }

theorem exec_layw_body (f : Fields) (s : State) : exec (.layw f) s = runInstr (encLayer 0xFB .no true) f laywBody s := rfl
theorem exec_layq_body (f : Fields) (s : State) : exec (.layq f) s = runInstr (encLayer 0xFC .w64 true) f layqBody s := rfl
theorem exec_laye_body (f : Fields) (s : State) : exec (.laye f) s = runInstr (encLayer 0xFE .pd false) f layeBody s := rfl

theorem exec_layr_body (f : Fields) (s : State) : exec (.layr f) s = runInstr (encLayer 0xFD .w64 false) f layrBody s := by
  rw [exec_layr, execLayr]
  refine runInstr_inState fun v => ?_
  unfold layrBody nullToken
  dsimp only
  split
  · exact .inl rfl
  · split
    · exact .inl rfl
    · split
      · exact .inl rfl
      · exact .inr ⟨_, rfl, rfl⟩

section
variable {v : Env} {s : State}

/-! ### LAYW -/

theorem laywBody_acquiring (h : v.x.acquiring? ≠ none) : laywBody v s = acquireThen v .pkg 0 none s {} :=
  if_pos (Option.isSome_iff_ne_none.mpr h)

theorem laywBody_fresh (h : v.x.acquiring? = none) (hgood : s.layerBad v.b.ctx v.o.scalar = false) : laywBody v s = laywNamed v s := by
  simp [laywBody, h, hgood]

theorem laywBody_bad (h : v.x.acquiring? = none) (hbad : s.layerBad v.b.ctx v.o.scalar = true) :
    laywBody v s = .raise 0x0602 (BitVec.ofNat 64 v.o.scalar) v.x.mask := by
  simp [laywBody, h, hbad]

theorem laywNamed_resident (h : (s.layer v.b.ctx v.o.scalar).state = .resident) : laywNamed v s = acquireThen v .pkg 0 none s {} := if_pos h

theorem laywNamed_parks (h : (s.layer v.b.ctx v.o.scalar).state ≠ .resident) : laywNamed v s =
    .wait ((if (s.layer v.b.ctx v.o.scalar).state = .absent ∨ (s.layer v.b.ctx v.o.scalar).state = .evicting
      then s.requestLayer v.b.ctx v.o.scalar else s).modSlice v.bid v.sid (fun x =>
        { x with prog := .parked [(v.o.scalar, BitVec.ofNat 64 v.o.scalar, v.x.mask)] })) := by
  simp only [laywNamed, if_neg h, Bool.or_eq_true, decide_eq_true_eq]

/-! ### LAYQ, LAYR and LAYE -/

theorem layqBody_word (hgood : s.layerBad v.b.ctx v.o.scalar = false) :
    layqBody v s = .done { regs := [v.writeUni true (BitVec.ofNat 64 (s.layer v.b.ctx v.o.scalar).word)] } := if_neg (by simp [hgood])

theorem layqBody_bad (hbad : s.layerBad v.b.ctx v.o.scalar = true) :
    layqBody v s = .raise 0x0602 (BitVec.ofNat 64 v.o.scalar) v.x.mask := if_pos hbad

theorem layrBody_idle (h : v.act = 0) : layrBody v s = nullToken v := if_pos h

theorem layrBody_bad (hact : v.act ≠ 0) (hbad : s.layerBad v.b.ctx v.o.scalar = true) :
    layrBody v s = .raise 0x0602 (BitVec.ofNat 64 v.o.scalar) v.act := (if_neg hact).trans (if_pos hbad)

theorem layrBody_named (hact : v.act ≠ 0) (hgood : s.layerBad v.b.ctx v.o.scalar = false) : layrBody v s =
    if !s.entryRoom v.b.ctx v.b.die then .wait s
    else .doneIn s (tokenOut v 5 .pkg (fun t s => (s.requestLayer v.b.ctx v.o.scalar).giveToken v.b.ctx v.o.scalar t)) :=
  (if_neg hact).trans (if_neg (by simp [hgood]))

theorem layeBody_idle (h : v.act = 0) : layeBody v s = .done {} := if_pos h

theorem layeBody_bad (hact : v.act ≠ 0) (hbad : s.layerBad v.b.ctx v.o.scalar = true) :
    layeBody v s = .raise 0x0602 (BitVec.ofNat 64 v.o.scalar) v.act := (if_neg hact).trans (if_pos hbad)

theorem layeBody_named {s1 : State} {ok : Bool} (hact : v.act ≠ 0) (hgood : s.layerBad v.b.ctx v.o.scalar = false)
    (h : s.laye v.b.ctx v.o.scalar = (s1, ok)) : layeBody v s = .doneIn s1 { pred := predAll v ok } := by
  rw [layeBody, if_neg hact, if_neg (by simp [hgood]), h]

end

end Sys2Proof
end

section
/-! LAYW, LAYQ, LAYR and LAYE (R391, R398, R402). -/

namespace Sys2Proof

open Sys2Proof.Machine

/-- Settles O34: LAYW goes by what the slice has noted and by the layer's state, LAYQ by the layer's word, LAYR by the room for its token and
LAYE by what becomes of the layer. -/
theorem layerInstructions : Obligations.LayerInstructions := by
  unfold Obligations.LayerInstructions
  refine ⟨?acquires, ?parks, ?waitBad, ?asks, ?askBad, ?null, ?requests, ?noRoom, ?requestBad,
    gives_idle (e := fun _ => encLayer 0xFE .pd false) exec_laye_body fun _ _ => layeBody_idle, ?leaves, ?leaveBad⟩
  case acquires =>
    refine doesIn_bare (e := fun _ => encLayer 0xFB .no true) exec_layw_body fun v s s1 o hr => ?_
    obtain ⟨⟨hfresh, hgood, hresident⟩ | hagain, hacquire, rfl⟩ := hr
    · exact ⟨((laywBody_fresh hfresh hgood).trans (laywNamed_resident hresident)).trans (acquireThen_done hacquire), none, id, rfl⟩
    · exact ⟨(laywBody_acquiring hagain).trans (acquireThen_done hacquire), none, id, rfl⟩
  case parks =>
    refine waits_env (e := fun _ => encLayer 0xFB .no true) exec_layw_body fun v s s1 hr => ?_
    obtain ⟨hfresh, hgood, hstate, rfl⟩ := hr
    exact (laywBody_fresh hfresh hgood).trans (laywNamed_parks hstate)
  case waitBad =>
    refine raises_env (e := fun _ => encLayer 0xFB .no true) exec_layw_body fun v s c a m hr => ?_
    obtain ⟨hfresh, ⟨hbad, rfl, rfl⟩, rfl⟩ := hr
    exact laywBody_bad hfresh hbad
  case asks =>
    exact givesIf_plain (e := fun _ => encLayer 0xFC .w64 true) exec_layq_body fun f s bid sid b x _ hgood =>
      ⟨layqBody_word hgood, plain_one rfl le_rfl id none⟩
  case askBad =>
    refine raises_env (e := fun _ => encLayer 0xFC .w64 true) exec_layq_body fun v s c a m hr => ?_
    obtain ⟨⟨hbad, rfl, rfl⟩, rfl⟩ := hr
    exact layqBody_bad hbad
  case null =>
    exact givesIf_plain (e := fun _ => encLayer 0xFD .w64 false) exec_layr_body fun f s bid sid b x _ hact =>
      ⟨layrBody_idle hact, plain_one rfl le_rfl id none⟩
  case requests =>
    refine (doesIn_token (e := fun _ => encLayer 0xFD .w64 false) (queue := 5) (scope := .pkg) exec_layr_body (fun _ => rfl)
      fun v s s1 o hr => ?_).does fun _ _ _ _ hr => hr.2.1
    obtain ⟨⟨hact, hgood, hroom⟩, rfl, rfl⟩ := hr
    exact ⟨_, (layrBody_named hact hgood).trans (if_neg (by simp [hroom])), rfl⟩
  case noRoom =>
    refine waits_env (e := fun _ => encLayer 0xFD .w64 false) exec_layr_body fun v s s1 hr => ?_
    obtain ⟨rfl, hact, hgood, hfull⟩ := hr
    exact (layrBody_named hact hgood).trans (if_pos (by simp [hfull]))
  case requestBad =>
    refine raises_env (e := fun _ => encLayer 0xFD .w64 false) exec_layr_body fun v s c a m hr => ?_
    obtain ⟨hact, ⟨hbad, rfl, rfl⟩, rfl⟩ := hr
    exact layrBody_bad hact hbad
  case leaves =>
    refine doesIn_bare (e := fun _ => encLayer 0xFE .pd false) exec_laye_body fun v s s1 o hr => ?_
    obtain ⟨hact, hgood, ok, hlaye, rfl⟩ := hr
    exact ⟨layeBody_named hact hgood hlaye, some (v.f.dst.toNat, if ok then 0xF else 0), id, rfl⟩
  case leaveBad =>
    refine raises_env (e := fun _ => encLayer 0xFE .pd false) exec_laye_body fun v s c a m hr => ?_
    obtain ⟨hact, ⟨hbad, rfl, rfl⟩, rfl⟩ := hr
    exact layeBody_bad hact hbad

end Sys2Proof
end

section
/-! SUPPORT. The bytes of memory that a write at a home leaves (R223, R396), whatever else the write brings about. -/

namespace Sys2Proof.Machine

theorem State.dropGuests_mem (s : State) (d : Nat) (p : Guest → Bool) : (s.dropGuests d p).mem = s.mem := by
  unfold State.dropGuests
  refine (foldl_keeps (g := State.mem) (fun t g => ?_) _ _).trans rfl
  split <;> rfl

theorem State.evictLine_mem (s : State) (d line : Nat) : (s.evictLine d line).mem = s.mem := by
  unfold State.evictLine State.dropLineGuests
  rw [State.modLine_mem]
  exact foldl_keeps (g := State.mem) (fun t k => State.dropGuests_mem ..) _ _

theorem State.makeWay_mem (s : State) (d bay set : Nat) : (s.makeWay d bay set).1.mem = s.mem := by
  unfold State.makeWay
  simp only
  split
  · rfl
  split
  · rfl
  · exact State.evictLine_mem ..
  · exact State.dropGuests_mem ..
  · split
    · exact State.evictLine_mem ..
    · exact State.dropGuests_mem ..
  · rfl

theorem State.touchLine_mem (s : State) (d pa n : Nat) (write alloc : Bool) : (s.touchLine d pa n write alloc).mem = s.mem := by
  have hway : (s.wayFor d pa).1.mem = s.mem := by
    unfold State.wayFor
    split
    · rfl
    · exact State.makeWay_mem ..
  unfold State.touchLine
  simp only
  split
  · rfl
  split
  · rfl
  split
  case h_1 s1 h => rw [h] at hway; exact hway
  case h_2 s1 h => rw [h] at hway; exact hway

theorem State.fireMonitors_mem (s : State) (d pa n : Nat) : (s.fireMonitors d pa n).mem = s.mem := by
  refine (foldl_keeps (g := State.mem) (fun t m => ?_) _ _).trans ?_
  · unfold State.wakeDormant
    split
    · rfl
    · split
      · simp [State.freeMonitors]
      · rfl
  · split
    · rfl
    · unfold State.toRun
      split <;> rfl

theorem State.applyWrite_mem (s : State) (d pa : Nat) (data : List Byte) (die core req : Nat) (alloc : Bool) :
    (s.applyWrite d pa data die core req alloc).1.mem = (s.physWrite d pa data).mem := by
  have htouched := State.touchLine_mem ((s.physWrite d pa data).clearPoison d pa data.length) d pa data.length true alloc
  unfold State.applyWrite
  dsimp only
  rw [State.fireMonitors_mem]
  split
  · exact htouched
  · refine (foldl_keeps (g := State.mem) ?sent _ _).trans htouched
    intro t k
    rfl

/-- What a write leaves in memory depends on what memory held, and on nothing else of the state. -/
theorem State.store_mem_congr {s t : State} (h : t.mem = s.mem) (d pa : Nat) (data : List Byte) : (t.store d pa data).mem = (s.store d pa data).mem := by
  unfold State.store
  generalize data.length / 1024 + 2 = fuel
  induction fuel generalizing s t pa data with
  | zero => exact h
  | succ fuel ih =>
    unfold State.storeLines
    split
    · exact h
    · refine ih ?_ _ _
      rw [State.applyWrite_mem, State.applyWrite_mem, State.physWrite, State.physWrite, h]

/-- What an entry of the error log leaves in memory depends on memory and the contexts. -/
theorem State.log_mem_congr {s t : State} (hm : t.mem = s.mem) (hc : t.ctxs = s.ctxs) (ctx : Nat) (e : LogRec) :
    (t.log ctx e).mem = (s.log ctx e).mem := by
  unfold State.log
  rw [hc]
  split
  · exact hm
  · rw [State.modCtx_mem, State.modCtx_mem]
    exact State.store_mem_congr (State.store_mem_congr hm ..) ..

end Sys2Proof.Machine
end

section
/-! SUPPORT. A retired block stays as it is (R153): nothing that ends blocks, nodes, entries or contexts changes its error. -/

namespace Sys2Proof

open Sys2Proof.Machine

/-- Block `bid` has retired with an error, or without one. -/
def RetiredAs (s : State) (bid : Nat) (err : Option Half) : Prop :=
  ∃ b, s.blocks.get? bid = some b ∧ b.state = .retired ∧ b.error = err

/-- Every block that had retired is retired with the error it had. -/
structure RetiredKept (s t : State) : Prop where
  kept : ∀ {bid err}, RetiredAs s bid err → RetiredAs t bid err

namespace RetiredKept

theorem refl (s : State) : RetiredKept s s := ⟨id⟩

theorem trans {s t u : State} (h : RetiredKept s t) (k : RetiredKept t u) : RetiredKept s u := ⟨fun hs => k.kept (h.kept hs)⟩

theorem foldl {α : Type} {f : State → α → State} (hf : ∀ s a, RetiredKept s (f s a)) (l : List α) (s : State) : RetiredKept s (l.foldl f s) := by
  induction l generalizing s with
  | nil => exact refl s
  | cons a l ih => exact (hf s a).trans (ih (f s a))

theorem of_blocks {s t : State} (h : t.blocks = s.blocks) : RetiredKept s t := ⟨fun ⟨b, hb, hs⟩ => ⟨b, h ▸ hb, hs⟩⟩

theorem of_pool {s t : State} (h : PoolKept s t) : RetiredKept s t := by
  constructor
  rintro bid err ⟨b, hb, hstate, herr⟩
  obtain ⟨c, hc, hsame⟩ := h.found hb
  exact ⟨c, hc, (congrArg Block.state hsame).trans hstate, (congrArg Block.error hsame).trans herr⟩

theorem modBlock (s : State) (k : Nat) {f : Block → Block} (hf : ∀ b, b.state = .retired → (f b).state = .retired ∧ (f b).error = b.error) :
    RetiredKept s (s.modBlock k f) := by
  constructor
  rintro bid err ⟨b, hb, hstate, herr⟩
  unfold RetiredAs
  rw [State.modBlock_get]
  split
  · next h =>
    subst h
    exact ⟨f b, by rw [hb]; rfl, (hf b hstate).1, (hf b hstate).2.trans herr⟩
  · exact ⟨b, hb, hstate, herr⟩

/-- What changes a block that has not retired, and no other, keeps the ones that have. -/
theorem of_other {s t : State} {bid : Nat} {b : Block} (hb : s.blocks.get? bid = some b) (hs : b.state ≠ .retired)
    (h : ∀ k, k ≠ bid → t.blocks.get? k = s.blocks.get? k) : RetiredKept s t := by
  constructor
  rintro k err ⟨c, hc, hstate, herr⟩
  have hk : k ≠ bid := by
    rintro rfl
    exact hs (Option.some.inj (hb.symm.trans hc) ▸ hstate)
  exact ⟨c, (h k hk).trans hc, hstate, herr⟩

/-! ### Presence and entries (R188, R191, R314) -/

theorem storeLines (alloc : Bool) (fuel : Nat) (s : State) (d pa : Nat) (data : List Byte) :
    RetiredKept s (State.storeLines alloc fuel s d pa data) := by
  induction fuel generalizing s pa data with
  | zero => exact refl s
  | succ fuel ih =>
    unfold State.storeLines
    split
    · exact refl s
    · exact (of_pool (PoolKept.applyWrite ..)).trans (ih ..)

theorem privWriteTo (ps : List (Nat × Nat × Nat × Bool)) (s : State) (data : List Byte) : RetiredKept s (s.privWriteTo ps data) := by
  induction ps generalizing s data with
  | nil => exact refl s
  | cons p ps ih =>
    refine RetiredKept.trans ?_ (ih ..)
    split
    · exact storeLines ..
    · exact refl s

theorem savedWrite (s : State) (bid : Nat) (b : Block) (sec va o : Nat) (data : List Byte) : RetiredKept s (s.savedWrite bid b sec va o data) := by
  unfold State.savedWrite
  split
  · exact of_blocks rfl
  · exact privWriteTo ..

theorem setPresence {b : Block} (line : Nat) (p : Presence) (hb : b.state = .retired) :
    (b.setPresence line p).state = .retired ∧ (b.setPresence line p).error = b.error := by
  refine ⟨(Block.setPresence_state ..).trans hb, ?_⟩
  unfold Block.setPresence
  split <;> rfl

theorem modPresence (s : State) (bid line : Nat) (f : Presence → Presence) : RetiredKept s (s.modPresence bid line f) := by
  unfold State.modPresence
  split
  · exact refl s
  · split
    · exact savedWrite ..
    · exact modBlock s bid fun b hb => setPresence line _ hb

theorem failEntry (s : State) (k : Nat) (c : Half) (a : Dword) : RetiredKept s (s.failEntry k c a) := by
  have htell : ∀ (s : State) (e : Entry) (what : CollWhat), (s.tellMembers e what).blocks = s.blocks := by
    intro s e what
    unfold State.tellMembers State.tellPeers
    split
    · split <;> rfl
    · rfl
  have hfailed : ∀ (ls : List (Nat × Nat)) (e : Entry) (f : Entry → Entry), RetiredKept s
      ((if c = 0x0703 then ls.foldl (fun s l => s.modPresence l.1 l.2 Presence.cancelled) s
        else (ls.foldl (fun s l => s.modPresence l.1 l.2 Presence.cancelled) s).tellMembers e .withdraw).modEntry k f) := by
    intro ls e f
    refine (foldl (fun s (l : Nat × Nat) => modPresence s l.1 l.2 Presence.cancelled) ls s).trans (of_blocks ?_)
    rw [State.modEntry_blocks]
    split
    · rfl
    · exact htell ..
  unfold State.failEntry
  split
  · exact refl s
  split
  · exact refl s
  split
  · exact hfailed ..
  · exact hfailed ..
  · exact refl s

end RetiredKept

/-! ### The end of a block (R153) -/

theorem Machine.State.dropRegs_blocks (s : State) (bid sid : Nat) (ks : List Nat) :
    (s.dropRegs bid sid ks).blocks = s.blocks ∨ ∃ f, (s.dropRegs bid sid ks).blocks = (s.modBlock bid f).blocks := by
  unfold State.dropRegs
  split
  · exact .inl rfl
  · exact .inr ⟨_, foldl_keeps (g := State.blocks) (by intro t k; rfl) _ _⟩

theorem Machine.State.dropRegs_other {s : State} {bid sid k : Nat} (ks : List Nat) (hk : k ≠ bid) :
    (s.dropRegs bid sid ks).blocks.get? k = s.blocks.get? k := by
  obtain hsame | ⟨f, hf⟩ := State.dropRegs_blocks s bid sid ks
  · rw [hsame]
  · rw [hf, State.modBlock_get, if_neg hk.symm]

theorem Machine.State.dropRegs_found {s : State} {bid sid : Nat} {b : Block} (ks : List Nat) (hb : s.blocks.get? bid = some b) :
    ∃ c, (s.dropRegs bid sid ks).blocks.get? bid = some c := by
  obtain hsame | ⟨f, hf⟩ := State.dropRegs_blocks s bid sid ks
  · exact ⟨b, hsame ▸ hb⟩
  · exact ⟨f b, by rw [hf, State.modBlock_get, if_pos rfl, hb]; rfl⟩

/-- Every live slice of a block ended. -/
def Machine.State.endSlices (s : State) (bid : Nat) (b : Block) : State := (b.live.map (fun x => x.1)).foldl (fun s i => s.endSlice bid i) s

theorem Machine.State.endSlices_other (s : State) {bid k : Nat} (b : Block) (hk : k ≠ bid) :
    (s.endSlices bid b).blocks.get? k = s.blocks.get? k := by
  refine foldl_keeps (g := fun t : State => t.blocks.get? k) (fun t i => ?_) _ _
  rw [State.endSlice, State.modBlock_get, if_neg hk.symm, State.dropRegs_other _ hk]

theorem Machine.State.endSlices_found {s : State} {bid : Nat} {b : Block} (hb : s.blocks.get? bid = some b) :
    ∃ c, (s.endSlices bid b).blocks.get? bid = some c := by
  unfold State.endSlices
  generalize b.live.map (fun x => x.1) = ids
  induction ids generalizing s b with
  | nil => exact ⟨b, hb⟩
  | cons i ids ih =>
    obtain ⟨c, hc⟩ := State.dropRegs_found (sid := i) (List.range 60) hb
    exact ih (s := s.endSlice bid i) (by rw [State.endSlice, State.modBlock_get, if_pos rfl, hc]; rfl)

/-- A block as it retires, with an error or without, and with the presence records that outlast it. -/
def Machine.Block.retire (b : Block) (err : Option Half) (pres : Tab Presence) : Block :=
  let c := (if err.isSome then b.discardStream else b).observe (fun _ => true)
  { c with state := .retired, error := err, groups := [], slots := dropFreeSlots (c.slots.map (fun p => (p.1, p.2.release))),
           pres := pres.filter (fun p => p.2.n != 0) }

/-- What a block that retires leaves of what others hold for it. -/
def Machine.State.afterBlock (s : State) (bid : Nat) (b0 : Block) (err : Option Half) : State :=
  let s3 := s.modDie b0.die (fun x => { x with
    groups := x.groups.map (fun g => (g.1, g.2.without bid)),
    waitingSet := x.waitingSet.filter (fun w => !(w.1 == 1 && w.2 == bid)) })
  let s4 := ((s3.freeMonitors bid).dropShadowImage b0.die bid).modCore b0.die b0.core (fun c =>
    { c.leavePorts bid with waiters := c.waiters.filter (fun w => w.bid != bid) })
  let s5 := s4.modCtx b0.ctx (fun c => { c with
    saveUsed := c.saveUsed.filter (fun u => u.2.1 != b0.saveVa.toNat)
    groups := (c.groups.map (fun g => (g.1, g.2.1, g.2.2.without bid))).filter (fun g => g.2.2.state != 0) })
  let s6 := if err.isSome then
      (s5.entries.filter (fun e => e.2.bid == some bid && e.2.attached)).foldl (fun s e => s.failEntry e.1 0x0506 0) s5
    else s5
  if b0.shadowOf.isSome then s6
  else s6.modNode b0.node (fun n => { n with blocksDone := n.blocksDone ++ [(b0.idx.toNat, err)] })

theorem Machine.State.modBlock_modBlock (s : State) (k : Nat) (f g : Block → Block) :
    (s.modBlock k f).modBlock k g = s.modBlock k (fun b => g (f b)) := by
  cases hb : s.blocks.get? k with
  | none => simp [State.modBlock, hb]
  | some b => simp [State.modBlock, hb, put_put]

theorem Machine.State.endBlock_live {s : State} {bid : Nat} {b : Block} (err : Option Half) (hb : s.blocks.get? bid = some b) (hs : b.state ≠ .retired) :
    s.endBlock bid err =
      ((s.endSlices bid b).modBlock bid (fun c => c.retire err (s.presences bid b))).afterBlock bid b err := by
  unfold State.endBlock
  simp only [hb, if_neg hs]
  have hretire := State.modBlock_modBlock (s.endSlices bid b) bid
    (fun b => (if err.isSome then b.discardStream else b).observe (fun _ => true))
    (fun c => { c with
      state := .retired, error := err, groups := [],
      slots := dropFreeSlots (c.slots.map (fun p => (p.1, p.2.release))),
      pres := (s.presences bid b).filter (fun p => p.2.n != 0) })
  exact congrArg (fun t : State => t.afterBlock bid b err) hretire

theorem RetiredKept.afterBlock (s : State) (bid : Nat) (b : Block) (err : Option Half) : RetiredKept s (s.afterBlock bid b err) := by
  have hnode : ∀ t : State, RetiredKept t (if b.shadowOf.isSome then t
      else t.modNode b.node (fun n => { n with blocksDone := n.blocksDone ++ [(b.idx.toNat, err)] })) := fun t => by
    split
    · exact refl t
    · exact of_blocks (State.modNode_blocks ..)
  unfold State.afterBlock
  dsimp only
  refine RetiredKept.trans ?_ (hnode _)
  split
  · exact (of_blocks (by simp [State.freeMonitors, State.dropShadowImage])).trans (foldl (fun s (e : Nat × Entry) => failEntry s e.1 0x0506 0) _ _)
  · exact of_blocks (by simp [State.freeMonitors, State.dropShadowImage])

theorem endBlock_retires {s : State} {bid : Nat} {b : Block} (err : Option Half) (hb : s.blocks.get? bid = some b) (hs : b.state ≠ .retired) :
    RetiredAs (s.endBlock bid err) bid err := by
  obtain ⟨c, hc⟩ := State.endSlices_found hb
  rw [State.endBlock_live err hb hs]
  refine (RetiredKept.afterBlock _ bid b err).kept ⟨c.retire err (s.presences bid b), ?_, rfl, rfl⟩
  rw [State.modBlock_get, if_pos rfl, hc]
  rfl

theorem RetiredKept.endBlock (s : State) (bid : Nat) (err : Option Half) : RetiredKept s (s.endBlock bid err) := by
  cases hb : s.blocks.get? bid with
  | none => simp only [State.endBlock, hb]; exact refl s
  | some b =>
    by_cases hs : b.state = .retired
    · simp only [State.endBlock, hb, if_pos hs]; exact refl s
    · rw [State.endBlock_live err hb hs]
      refine RetiredKept.trans (of_other hb hs fun k hk => ?_) (afterBlock ..)
      rw [State.modBlock_get, if_neg hk.symm, State.endSlices_other _ _ hk]

/-! ### Nodes and contexts that end (R339, R381, R382) -/

theorem RetiredKept.failNode (s : State) (n : Nat) (c : Half) : RetiredKept s (s.failNode n c) := by
  unfold State.failNode
  split
  · exact refl s
  · refine of_blocks ?_
    unfold State.finishToken
    split
    · exact State.modNode_blocks ..
    · simp

theorem RetiredKept.cancelNode (s : State) (n : Nat) : RetiredKept s (s.cancelNode n).1 := by
  unfold State.cancelNode
  split
  · exact refl s
  split
  · exact failNode ..
  · exact failNode ..
  · split
    · exact refl s
    · exact (of_blocks (State.modNode_blocks ..)).trans (foldl (fun s (b : Nat × Block) => endBlock s b.1 _) _ _)
  · exact refl s

theorem RetiredKept.beginEnding (s : State) (ctx : Nat) (cause : Half) : RetiredKept s (s.beginEnding ctx cause) := by
  unfold State.beginEnding
  split
  · exact refl s
  split
  · exact refl s
  · exact refl s
  · exact refl s
  · exact of_blocks (State.modCtx_blocks ..)
  · exact of_blocks (State.modCtx_blocks ..)
  · dsimp only
    refine RetiredKept.trans ?_ (foldl (fun s (e : Nat × Entry) => failEntry s e.1 _ _) _ _)
    refine RetiredKept.trans ?_ (foldl (fun s (n : Nat × Node) => cancelNode s n.1) _ _)
    exact (of_blocks (State.modCtx_blocks ..)).trans (foldl (fun s (b : Nat × Block) => endBlock s b.1 _) _ _)

end Sys2Proof
end

section
/-! SUPPORT. Trap entries and escalations (R393, R395). -/

namespace Sys2Proof

open Sys2Proof.Machine

/-! ### Escalation (R395) -/

theorem escalate_retires {s : State} {bid : Nat} {b : Block} (sid : Nat) (cause : Half) (addr pc : Dword) (lanes : BitVec 4)
    (hb : s.blocks.get? bid = some b) (hs : b.state = .resident) : RetiredAs (s.escalate bid sid cause addr pc lanes) bid (some cause) := by
  unfold State.escalate
  simp only [hb]
  have hkept := (ResidentsKept.log s b.ctx { cause := cause, die := b.die, core := b.core, slice := sid, flags := 1, block := b.idx.toNat,
                                             lanes := lanes.toNat, pc := pc.toNat, addr := addr.toNat }).block bid b hb hs
  have hended := endBlock_retires (some cause) hkept (by rw [hs]; decide)
  split
  · exact hended
  · exact (RetiredKept.cancelNode ..).kept hended
  · split
    · exact (RetiredKept.beginEnding ..).kept hended
    · exact (RetiredKept.beginEnding ..).kept ((RetiredKept.cancelNode ..).kept hended)

/-! ### Parts (R147) -/

theorem Machine.Block.renumber_get {b : Block} {k : Nat} {z : Slice} (ids : List Nat) (hz : b.slices.get? k = some z) :
    ∃ p, (b.renumber ids).slices.get? k = some { z with part := p } := by
  have hsame : ∀ m : Nat, ∀ js : List Nat, ∀ {c : Block} {p : Nat}, c.slices.get? k = some { z with part := p } →
      ∃ p, (js.foldl (fun b i => b.modSlice i (fun x => { x with part := m })) c).slices.get? k = some { z with part := p } := by
    intro m js
    induction js with
    | nil => exact fun h => ⟨_, h⟩
    | cons j js ih =>
      intro c p h
      by_cases hj : j = k
      · exact ih (p := m) (by rw [Block.modSlice_get, if_pos hj, hj, h]; rfl)
      · exact ih (p := p) (by rw [Block.modSlice_get, if_neg hj, h])
  cases ids with
  | nil => exact ⟨z.part, hz⟩
  | cons m ids => exact hsame m (m :: ids) (p := z.part) hz

theorem Machine.Block.renumber_get_other {b : Block} {k : Nat} (ids : List Nat) (hk : k ∉ ids) : (b.renumber ids).slices.get? k = b.slices.get? k := by
  cases ids with
  | nil => rfl
  | cons m ids =>
    have hsame : ∀ js : List Nat, k ∉ js → ∀ c : Block,
        (js.foldl (fun b i => b.modSlice i (fun x => { x with part := m })) c).slices.get? k = c.slices.get? k := by
      intro js
      induction js with
      | nil => exact fun _ _ => rfl
      | cons j js ih =>
        intro hj c
        rw [List.foldl_cons, ih (fun h => hj (List.mem_cons_of_mem _ h)), Block.modSlice_get, if_neg (List.ne_of_not_mem_cons hj).symm]
    exact hsame (m :: ids) hk b

section
variable {b : Block} {sid : Nat} {x : Slice}

/-- A slice that leaves its part is the only one of a part of its own. -/
theorem Machine.Block.leavePart_get (hx : b.slices.get? sid = some x) : (b.leavePart sid).slices.get? sid = some { x with part := sid } := by
  unfold Block.leavePart
  simp only [hx]
  rw [Block.modSlice_get, if_pos rfl, Block.renumber_get_other _ (by simp), hx]
  rfl

theorem Machine.Block.leavePart_get_other {k : Nat} {z : Slice} (hk : k ≠ sid) (hz : b.slices.get? k = some z) :
    ∃ p, (b.leavePart sid).slices.get? k = some { z with part := p } := by
  unfold Block.leavePart
  split
  · exact ⟨z.part, hz⟩
  · rw [Block.modSlice_get, if_neg hk.symm]
    exact Block.renumber_get _ hz

end

/-! ### The trap entry (R393) -/

/-- A block notes a cause of one of its slices. -/
def Machine.State.noteCause (s : State) (bid : Nat) (cause : Half) : State :=
  s.modBlock bid (fun b => { b with causes := if b.causes.contains cause then b.causes else cause :: b.causes })

/-- The entry that a handled trap leaves in the error log (R396). -/
def trapRecord (b : Block) (x : Slice) (sid : Nat) (cause : Half) (addr : Dword) (lanes : BitVec 4) : LogRec :=
  { cause := cause, die := b.die, core := b.core, slice := sid, flags := 2, block := b.idx.toNat, lanes := lanes.toNat, pc := x.pc.toNat,
    addr := addr.toNat }

/-- The context logs traps that are handled. -/
def Machine.State.logsHandled (s : State) (ctx : Nat) : Bool := (s.ctxs.get? ctx).any Ctx.logh

/-- The state once a handled trap is noted and, where its context asks for it, logged. -/
def Machine.State.trapNoted (s : State) (bid : Nat) (b : Block) (cause : Half) (e : LogRec) : State :=
  if s.logsHandled b.ctx then (s.noteCause bid cause).log b.ctx e else s.noteCause bid cause

/-- A block once a slice of it, which stood at `pc`, has entered its trap entry. -/
def Machine.Block.trapSlice (b : Block) (sid : Nat) (pc entry : Dword) (cause : Half) (addr : Dword) (lanes : BitVec 4) (len : Nat)
    (cross : Bool) : Block :=
  (if cross then b else b.leavePart sid).modSlice sid (fun y =>
    { y.enterTrap entry cause addr lanes len with crossHome := if cross then some pc else none })

/-- A slice waits for no pool words. -/
def Machine.State.leaveCore (s : State) (d c bid sid : Nat) : State :=
  s.modCore d c (fun c => { c with waiters := c.waiters.filter (fun w => !(w.bid == bid && w.sid == sid)) })

section
variable {s : State} {bid sid len : Nat} {b : Block} {x : Slice} {entry addr : Dword} {cause : Half} {lanes : BitVec 4} {cross : Bool}

theorem trap_enters (hb : s.blocks.get? bid = some b) (hx : b.slices.get? sid = some x) (hentry : b.trapEntry = some entry)
    (hout : x.frame.inTrap = false) (hcause : cause ≠ 0x0309) : s.trap bid sid cause addr lanes len cross =
    (((s.trapNoted bid b cause (trapRecord b x sid cause addr lanes)).leaveCore b.die b.core bid sid).abandonWait bid sid).modBlock bid
      (fun b => b.trapSlice sid x.pc entry cause addr lanes len cross) := by
  unfold State.trap State.trapNoted State.logsHandled
  simp only [hb, hx, hentry, hout, decide_eq_false hcause, Bool.or_false, Bool.false_eq_true, if_false]
  cases s.ctxs.get? b.ctx <;> rfl

theorem trap_escalates (hb : s.blocks.get? bid = some b) (hx : b.slices.get? sid = some x)
    (h : b.trapEntry = none ∨ x.frame.inTrap = true ∨ cause = 0x0309) :
    s.trap bid sid cause addr lanes len cross = (s.noteCause bid cause).escalate bid sid cause addr x.pc lanes := by
  unfold State.trap
  simp only [hb, hx]
  cases hentry : b.trapEntry with
  | none => rfl
  | some entry => exact if_pos (by simpa [hentry] using h)

/-- The note and the log leave the slices of every block. -/
theorem trapNoted_slices (hb : s.blocks.get? bid = some b) (e : LogRec) :
    ∃ c, (s.trapNoted bid b cause e).blocks.get? bid = some c ∧ c.slices = b.slices := by
  have hnote : (s.noteCause bid cause).blocks.get? bid =
      some { b with causes := if b.causes.contains cause then b.causes else cause :: b.causes } := by
    rw [State.noteCause, State.modBlock_get, if_pos rfl, hb]
    rfl
  unfold State.trapNoted
  split
  · obtain ⟨c, hc, hsame⟩ := (PoolKept.log (s.noteCause bid cause) b.ctx e).found hnote
    have hslices := congrArg Block.slices hsame
    exact ⟨c, hc, hslices⟩
  · exact ⟨_, hnote, rfl⟩

/-- The slices of the block after the entry are those of the block before, as `trapSlice` leaves them. -/
theorem trap_slice (hb : s.blocks.get? bid = some b) (hx : b.slices.get? sid = some x) (hentry : b.trapEntry = some entry)
    (hout : x.frame.inTrap = false) (hcause : cause ≠ 0x0309) :
    ∃ c : Block, c.slices = b.slices ∧ ∀ k, (s.trap bid sid cause addr lanes len cross).slice? bid k =
      (c.trapSlice sid x.pc entry cause addr lanes len cross).slices.get? k := by
  obtain ⟨c, hc, hslices⟩ := trapNoted_slices (cause := cause) hb (trapRecord b x sid cause addr lanes)
  refine ⟨c, hslices, fun k => ?_⟩
  rw [trap_enters hb hx hentry hout hcause, State.slice?, State.modBlock_get, if_pos rfl]
  have hblocks : (((s.trapNoted bid b cause (trapRecord b x sid cause addr lanes)).leaveCore b.die b.core bid sid).abandonWait bid
      sid).blocks.get? bid = some c := hc
  rw [hblocks]
  rfl

theorem trap_mem (hb : s.blocks.get? bid = some b) (hx : b.slices.get? sid = some x) (hentry : b.trapEntry = some entry)
    (hout : x.frame.inTrap = false) (hcause : cause ≠ 0x0309) : (s.trap bid sid cause addr lanes len cross).mem =
    (s.trapNoted bid b cause (trapRecord b x sid cause addr lanes)).mem := by
  rw [trap_enters hb hx hentry hout hcause, State.modBlock_mem]
  rfl

/-- A trap that is not logged leaves the contexts and every other block. -/
theorem trap_unlogged (hb : s.blocks.get? bid = some b) (hx : b.slices.get? sid = some x) (hentry : b.trapEntry = some entry)
    (hout : x.frame.inTrap = false) (hcause : cause ≠ 0x0309) (hlog : s.logsHandled b.ctx = false) :
    (s.trap bid sid cause addr lanes len cross).mem = s.mem ∧ (s.trap bid sid cause addr lanes len cross).ctxs = s.ctxs ∧
      ∀ c, c ≠ bid → (s.trap bid sid cause addr lanes len cross).blocks.get? c = s.blocks.get? c := by
  have hnoted : s.trapNoted bid b cause (trapRecord b x sid cause addr lanes) = s.noteCause bid cause := if_neg (by simp [hlog])
  rw [trap_enters hb hx hentry hout hcause, hnoted]
  refine ⟨?_, ?_, fun c hc => ?_⟩
  · rw [State.modBlock_mem]; exact State.modBlock_mem ..
  · rw [State.modBlock_ctxs]; exact State.modBlock_ctxs ..
  · rw [State.modBlock_get, if_neg hc.symm]
    exact (State.modBlock_get ..).trans (if_neg hc.symm)

end

end Sys2Proof
end

section
/-! What taking an exception saves, changes and leaves, and when it escalates (R153, R393, R395). -/

namespace Sys2Proof

open Sys2Proof.Machine

/-- Settles O14: a trap that is entered changes its own slice and the numbers of parts; one that escalates retires its block, and nothing that
ESC then ends changes a block that has retired. -/
theorem exceptions : Obligations.Exceptions := by
  unfold Obligations.Exceptions
  refine ⟨?enters, ?escalates⟩
  case enters =>
    intro s bid sid cause addr lanes len cross b x entry hb hx hentry hout hcause
    obtain ⟨c, hslices, hslice⟩ := trap_slice (addr := addr) (lanes := lanes) (len := len) (cross := cross) hb hx hentry hout hcause
    have hcx : c.slices.get? sid = some x := hslices ▸ hx
    refine ⟨?slice, ?others, ?unlogged, ?logged⟩
    case slice =>
      refine ⟨_, (hslice sid).trans ?_, rfl⟩
      have hlatches : x.savedLatches = if x.latchSources = [] then x.latches else x.latchSources := by simp [Slice.savedLatches]
      cases cross with
      | true =>
        rw [Block.trapSlice, if_pos rfl, Block.modSlice_get, if_pos rfl, hcx, Option.map_some, Slice.enterTrap, Slice.trapFrame, hlatches]
        rfl
      | false =>
        rw [Block.trapSlice, if_neg (by decide), Block.modSlice_get, if_pos rfl, Block.leavePart_get hcx, Option.map_some, Slice.enterTrap,
          Slice.trapFrame, ← hlatches]
        rfl
    case others =>
      intro k z hk hz
      rw [hslice k, Block.trapSlice, Block.modSlice_get, if_neg hk.symm]
      cases cross with
      | true => exact ⟨z.part, hslices ▸ hz⟩
      | false => exact Block.leavePart_get_other hk (hslices ▸ hz)
    case unlogged =>
      refine fun hlog => trap_unlogged hb hx hentry hout hcause ?_
      unfold State.logsHandled
      cases hctx : s.ctxs.get? b.ctx with
      | none => rfl
      | some c => exact hlog c hctx
    case logged =>
      intro c hc hlog
      have hnoted : s.trapNoted bid b cause (trapRecord b x sid cause addr lanes) =
          (s.noteCause bid cause).log b.ctx (trapRecord b x sid cause addr lanes) := if_pos (by simp [State.logsHandled, hc, hlog])
      rw [trap_mem hb hx hentry hout hcause, hnoted]
      exact State.log_mem_congr (State.modBlock_mem ..) (State.modBlock_ctxs ..) ..
  case escalates =>
    intro s bid sid cause addr lanes len cross b x hb hx hs h
    rw [trap_escalates hb hx h]
    refine escalate_retires (b := { b with causes := if b.causes.contains cause then b.causes else cause :: b.causes }) sid cause addr x.pc lanes ?_ hs
    rw [State.noteCause, State.modBlock_get, if_pos rfl, hb]
    rfl

end Sys2Proof
end

section
/-! SUPPORT. What the ring instructions and RANK answer (R404, R407 to R409, R417 to R423). -/

namespace Sys2Proof

open Sys2Proof.Machine

/-! ### The ring instructions (R409) -/

/-- The scope of a collective. -/
def Machine.Env.ringScope (v : Env) : Scope := (scopeOf (v.md / 2 % 8)).getD .pkg

/-- What a ring instruction asks for, of the record that has passed its checks. -/
def ringAsked (op : Nat) (rcv : Bool) (v : Env) (s : State) (slots : List Word) (q : CollRec) : Asked :=
  { queue := 2 + v.md % 2, owner := v.b.ctx, scope := v.ringScope, det := bitOf v.md 4, kind := .ring q CollProg.fresh
    lines := if q.dw then s.destLines [v.bid] q.dst (collDstLen op rcv slots.length q.chunk) else [] }

/-- A ring instruction reads its record `r`, and `slots`, the members that it names: of its table, or of the partition (R408). -/
def ReadsRing (op : Nat) (rcv : Bool) (v : Env) (s s2 : State) (r : CollRaw) (slots : List Word) : Prop :=
  v.uniAddr % 64 = 0 ∧ ∃ s1 bytes, s.readAsLd v v.uniAddr 64 v.act = .got s1 bytes ∧ r = CollRaw.ofBytes bytes ∧ r.ok op v.ty rcv true = true ∧
    if r.table = 0 then s2 = s1 ∧ slots = s1.partitionSlots v.b.ctx else s1.readTable v r.table v.act = .got s2 slots

section
variable {op : Nat} {rcv : Bool} {v : Env} {s s2 : State} {r : CollRaw} {slots : List Word} {q : CollRec}

theorem ringBody_idle (h : v.act = 0) : ringBody op rcv v s = nullToken v := if_pos h

theorem ringBody_misaligned (hact : v.act ≠ 0) (h : v.uniAddr % 64 ≠ 0) :
    ringBody op rcv v s = .raiseIn s 0x0704 (BitVec.ofNat 64 v.uniAddr) v.act := by
  unfold ringBody
  rw [if_neg hact, if_pos h]

theorem ringBody_issues (hact : v.act ≠ 0) (hread : ReadsRing op rcv v s s2 r slots)
    (hcheck : s2.collCheck v.b.die (some v.b) op v.ty rcv v.ringScope v.uniAddr r slots = .ok q) :
    ringBody op rcv v s = (ringAsked op rcv v s2 slots q).issue v s2 := by
  obtain ⟨halign, s1, bytes, hgot, rfl, hok, hslots⟩ := hread
  unfold Env.ringScope at hcheck
  unfold ringBody
  simp only [if_neg hact, if_neg (not_not.mpr halign), hgot, hok, Bool.not_true, Bool.false_eq_true, if_false]
  split at hslots
  · next htable =>
    obtain ⟨rfl, rfl⟩ := hslots
    rw [if_pos htable, hcheck]
    rfl
  · next htable =>
    rw [if_neg htable, hslots]
    simp only [hcheck]
    rfl

end

/-- What each ring instruction is said to do, for one whose meaning is `ringBody`. -/
theorem ring_issues {i : Fields → Instr} {opc op md : Nat} {types : TyRule} {rcv : Fields → Bool}
    (he : ∀ f s, exec (i f) s = runInstr (encRing opc types md) f (ringBody op (rcv f)) s) :
    Issues i (fun _ => encRing opc types md) (fun v s s2 a => ∃ r slots q, ReadsRing op (rcv v.f) v s s2 r slots ∧
        s2.collCheck v.b.die (some v.b) op v.ty (rcv v.f) v.ringScope v.uniAddr r slots = .ok q ∧ a = ringAsked op (rcv v.f) v s2 slots q) ∧
      Raises i (fun _ => encRing opc types md) (fun v _ c a m => v.act ≠ 0 ∧ v.uniAddr % 64 ≠ 0 ∧ c = 0x0704 ∧
        a = BitVec.ofNat 64 v.uniAddr ∧ m = v.act) := by
  have hbody : ∀ f s, exec (i f) s = runInstr (encRing opc types md) f (fun v => ringBody op (rcv v.f) v) s := he
  refine ⟨issues_of (e := fun _ => encRing opc types md) hbody (fun _ => rfl) (fun v s => ringBody_idle) fun v s s2 a hact hr => ?_,
    fun f s bid sid b x h c a m hr => ?_⟩
  · obtain ⟨r, slots, q, hread, hcheck, rfl⟩ := hr
    exact ⟨ringBody_issues hact hread hcheck, fun k hk => absurd hk List.not_mem_nil⟩
  · obtain ⟨hact, halign, rfl, rfl, rfl⟩ := hr
    exact (he f s).trans (runInstr_raiseIn h (ringBody_misaligned hact halign))

/-! ### RANK (R404, R423) -/

/-- The row of RANK. -/
def encRank (f : Fields) : Enc :=
  { opc := 0xCE, lens := [1, 2, 3], dst := .w64, sa := if bitOf (modOf f) 0 then .u64 else .no, gov0 := true, lit := .role, md := 1
    extra := fun f _ => bitOf (modOf f) 0 || f.lit?.getD 0 == 0 }

theorem exec_rank_body (f : Fields) (s : State) : exec (.rank f) s = runInstr (encRank f) f rankBody s := rfl

/-- The word of RANK.t. -/
def Machine.Env.slotWord (v : Env) (s : State) (slots : List Word) : Nat :=
  match slotOf slots (peerCode s.fuses.pkg v.b.die) with
  | some j => rankWord j (bitsOf (slots.getD j 0).toNat 13 0 != peerCode s.fuses.pkg v.b.die) ((s.die v.b.die).ring != 0) 0 slots.length
  | none => rankWord 0xFFFFFFFF false ((s.die v.b.die).ring != 0) 0 slots.length

section
variable {v : Env} {s s1 : State} {c : Ctx} {slots : List Word}

theorem rankBody_partition (h : bitOf v.md 0 = false) (hc : s.ctxs.get? v.b.ctx = some c) : rankBody v s = .done { regs := [v.writeUni true
    (BitVec.ofNat 64 (rankWord ((v.b.die + 8 - c.first) % 8) false ((s.die v.b.die).ring != 0) (s.loopLength c) c.size))] } := by
  unfold rankBody
  simp only [h, Bool.false_eq_true, if_false, hc]

theorem rankBody_misaligned (h : bitOf v.md 0 = true) (halign : v.uniAddr % 16 ≠ 0) :
    rankBody v s = .raiseIn s 0x0704 (BitVec.ofNat 64 v.uniAddr) v.x.mask := by
  unfold rankBody
  simp only [h, if_true, if_pos halign]

theorem rankBody_table (h : bitOf v.md 0 = true) (halign : v.uniAddr % 16 = 0) (hread : s.readTable v v.uniAddr v.x.mask = .got s1 slots)
    (hok : s.tableOk slots = true) :
    rankBody v s = .doneIn s1 { regs := [v.writeUni true (BitVec.ofNat 64 (v.slotWord s slots))] } := by
  unfold rankBody
  simp only [h, if_true, if_neg (not_not.mpr halign), hread, hok, Bool.not_true, Bool.false_eq_true, if_false]
  rfl

end

end Sys2Proof
end

section
/-! The ring instructions and RANK (R404, R407 to R409, R417 to R423). -/

namespace Sys2Proof

open Sys2Proof.Machine

/-- Settles O31: a ring instruction answers with the issue of the entry that its record and its table name, RANK with a place in its partition
or in a table. -/
theorem collectives : Obligations.Collectives := by
  unfold Obligations.Collectives
  refine ⟨⟨?rgath, ?rrscO, ?rrscU, ?rhof, ?ragr, ?rbar⟩, ?place, ?slot, ?misaligned⟩
  case rgath => exact ring_issues (rcv := fun _ => false) fun _ _ => rfl
  case rrscO => exact ring_issues (rcv := fun _ => false) fun _ _ => rfl
  case rrscU => exact ring_issues (rcv := fun _ => false) fun _ _ => rfl
  case rhof => exact ring_issues (rcv := fun f => bitOf (modOf f) 5) fun _ _ => rfl
  case ragr => exact ring_issues (rcv := fun _ => false) fun _ _ => rfl
  case rbar => exact ring_issues (rcv := fun _ => false) fun _ _ => rfl
  case place =>
    refine does_of exec_rank_body fun f s bid sid b x h s1 o hr => ?_
    obtain ⟨rfl, hplain, c, hc, rfl⟩ := hr
    exact ⟨rfl, rankBody_partition hplain hc, plain_one rfl le_rfl id none⟩
  case slot =>
    refine doesIn_of exec_rank_body fun f s bid sid b x h s1 o hr => ?_
    obtain ⟨htable, halign, slots, hread, hok, rfl⟩ := hr
    exact ⟨.inl (rankBody_table htable halign hread hok), pair_takes h rfl _⟩
  case misaligned =>
    intro f s bid sid b x h c a m hr
    obtain ⟨htable, halign, rfl, rfl, rfl⟩ := hr
    exact runInstr_raiseIn h (rankBody_misaligned htable halign)

end Sys2Proof
end

section
/-! SUPPORT. The events of a collective entry: what each does where its conditions hold (R410 to R413, R420, R422). -/

namespace Sys2Proof.Machine

/-- Entry `k` is a running collective of record `r`, `p` far. -/
def State.RunsRing (s : State) (k : Nat) (e : Entry) (r : CollRec) (p : CollProg) : Prop :=
  s.entries.get? k = some e ∧ e.kind = .ring r p ∧ e.state = .running ∧ s.ctxRuns e.ctx = true

theorem Entry.coll?_ring {e : Entry} {r : CollRec} {p : CollProg} (h : e.kind = .ring r p) : e.coll? = some (r, p) := by
  rw [Entry.coll?, h]

theorem Entry.modProg_ring {e : Entry} {r : CollRec} {p : CollProg} (h : e.kind = .ring r p) (f : CollProg → CollProg) :
    e.modProg f = { e with kind := .ring r (f p) } := by
  rw [Entry.modProg, h]

section
variable {s : State} {k : Nat} {e : Entry} {r : CollRec} {p : CollProg}

theorem State.running?_ring (h : s.RunsRing k e r p) : s.running? k = some (e, r, p) := by
  obtain ⟨he, hkind, hstate, hruns⟩ := h
  unfold State.running?
  simp only [he, Entry.coll?_ring hkind, hstate, hruns, decide_true, Bool.and_self, if_true]

theorem State.modEntry_get_self (he : s.entries.get? k = some e) (f : Entry → Entry) : (s.modEntry k f).entries.get? k = some (f e) := by
  rw [State.modEntry, he]
  exact Tab.get?_put_self ..

/-! ### The turn of an entry (R410, R422) -/

theorem exec_collectiveTurn_comes (he : s.entries.get? k = some e) (hkind : e.kind = .ring r p) (hstate : e.state = .queued)
    (hruns : s.ctxRuns e.ctx = true) (hturn : s.turnCame k e = true) (hkey : s.keyTurn k e r = true)
    (hbefore : r.op = collRbar → s.beforeIssueDone k e = true) : exec (.collectiveTurn k) s = .next (
      let s1 := (s.modEntry k (fun x => { x.modProg (fun p =>
        { p with started := (s.die e.die).cycle, heard := [r.mySlot], clock := e.stamp.join (s.die e.die).vc }) with
        state := .running })).tellMembers e (.announce r.announce)
      (if e.token = 0 then s1 else s1.modTok e.token (fun t => { t with state := .running })).slotsGone k (List.range r.slots.length)) := by
  have hready : (r.op != collRbar || s.beforeIssueDone k e) = true := by
    by_cases hop : r.op = collRbar
    · rw [hbefore hop, Bool.or_true]
    · simp [hop]
  rw [exec_collectiveTurn, execCollectiveTurn, he]
  simp only [Entry.coll?_ring hkind]
  exact if_pos (by simp [hstate, hruns, hturn, hkey, hready])

/-! ### An announcement (R411, R420) -/

theorem exec_collectiveAnnounce_heard {slot : Nat} {ann : Announce} (h : s.RunsRing k e r p) (hpart : r.takesPart slot = true)
    (hcame : s.announces k e r slot ann = true) : exec (.collectiveAnnounce k slot ann) s = .next (if ann = r.announce then
      s.modEntry k (fun x => { x.modProg (fun p => { p with heard := if p.heard.contains slot then p.heard else slot :: p.heard }) with
        stamp := x.stamp.join (s.heardClock k e r slot) })
      else s.failPiece k 0x0705 0) := by
  rw [exec_collectiveAnnounce, execCollectiveAnnounce, State.running?_ring h]
  simp only [hpart, hcame, Bool.not_true, Bool.or_self, Bool.false_eq_true, if_false]
  by_cases hann : ann = r.announce
  · rw [if_pos hann, if_neg (not_not.mpr hann)]
  · rw [if_neg hann, if_pos hann]

theorem exec_collectiveAnnounce_noPart {slot : Nat} {ann : Announce} (h : s.RunsRing k e r p) (hpart : r.takesPart slot = false) :
    exec (.collectiveAnnounce k slot ann) s = .next s := by
  rw [exec_collectiveAnnounce, execCollectiveAnnounce, State.running?_ring h]
  exact if_pos (by simp [hpart])

/-! ### A bale (R411, R412) -/

theorem exec_baleLand_lands {i : Nat} {b : Bale} {ext : List Sys2Proof.SlotData} {s1 s3 : State} {cs : List Contribution} (h : s.RunsRing k e r p)
    (hbale : r.bales[i]? = some b) (hnew : i ∉ p.bales) (hissuer : s.issuerDone k e = true) (hcame : ∀ j ∈ r.needs b, j ∈ p.heard ∧ j ∉ p.missing)
    (hread : s.contributions k e r b ext (r.needs b) = (s1, .ok cs)) (hplain : (r.expoRange b).2 = 0)
    (hwrite : s1.writeBale k e r b (s1.baleBytes r b cs default).1 = (s3, .ok ())) :
    exec (.baleLand k i ext) s = .next ((s3.takeBale k i r b (s1.baleBytes r b cs default).2).tellPeers e
      ((ext.filter (fun d => (r.needs b).contains d.slot)).flatMap (fun d => slotMembers (r.slots.getD d.slot 0)))
      (.took i (s1.baleBytes r b cs default).2)) := by
  have hready : ¬(p.bales.contains i || !s.issuerDone k e || !(r.needs b).all (fun j => p.heard.contains j && !p.missing.contains j)) = true := by
    simpa [hnew, hissuer] using hcame
  rw [exec_baleLand, execBaleLand, State.running?_ring h]
  simp only [hbale, if_neg hready, hread, hplain, if_true, hwrite]

/-! ### Missing members (R410) -/

/-- Entry `e` once it knows that member `peer` has withdrawn. -/
def Entry.withdraw (e : Entry) (p : CollProg) (peer : Nat) : Entry := e.modProg (fun q => { q with withdrawn := peer :: p.withdrawn })

theorem slotsGone_one {j : Nat} (he : s.entries.get? k = some e) (hkind : e.kind = .ring r p) (hstate : e.state = .running) :
    s.slotsGone k [j] =
      if (slotMembers (r.slots.getD j 0)).all (fun m => p.withdrawn.contains m) then s.slotMissing k j e r p else s := by
  unfold State.slotsGone
  simp only [List.foldl_cons, List.foldl_nil, he, Option.bind_some, Entry.coll?_ring hkind, Option.map_some, hstate, decide_true,
    Bool.true_and]

/-- The word that a member has withdrawn has come: of one of the own package, once its entry says so where no break lies between (R405). -/
def State.withdrawalCame (s : State) (k : Nat) (e : Entry) (r : CollRec) (peer : Nat) : Bool :=
  if s.ownPeer peer then
    (match s.memberEntry k e r peer with | some (_, m) => m.hasWithdrawn && !s.barred m.die e.die | none => false) else true

theorem exec_withdrawNotice_named {peer j : Nat} (h : s.RunsRing k e r p) (hslot : slotOf r.slots peer = some j) :
    exec (.withdrawNotice k peer) s =
      if !s.withdrawalCame k e r peer || p.withdrawn.contains peer then .next s
      else .next ((s.modEntry k (fun x => x.withdraw p peer)).slotsGone k [j]) := by
  rw [exec_withdrawNotice, execWithdrawNotice, State.running?_ring h]
  simp only [hslot]
  rfl

theorem exec_withdrawNotice_new {peer j : Nat} (h : s.RunsRing k e r p) (hnew : peer ∉ p.withdrawn) (hslot : slotOf r.slots peer = some j)
    (hcame : s.ownPeer peer = true →
      ∃ km m, s.memberEntry k e r peer = some (km, m) ∧ m.hasWithdrawn = true ∧ s.barred m.die e.die = false) :
    exec (.withdrawNotice k peer) s = .next (
      let s1 := s.modEntry k (fun x => x.withdraw p peer)
      if (slotMembers (r.slots.getD j 0)).all (fun m => (peer :: p.withdrawn).contains m) then
        s1.slotMissing k j (e.withdraw p peer) r { p with withdrawn := peer :: p.withdrawn } else s1) := by
  have hcame : s.withdrawalCame k e r peer = true := by
    unfold State.withdrawalCame
    split
    · next hown =>
      obtain ⟨km, m, hm, hwithdrawn, hreach⟩ := hcame hown
      simp only [hm, hwithdrawn, hreach, Bool.not_false, Bool.and_self]
    · rfl
  have hwithdraw : e.withdraw p peer = { e with kind := .ring r { p with withdrawn := peer :: p.withdrawn } } := Entry.modProg_ring h.2.1 _
  have hone : (s.modEntry k (fun x => x.withdraw p peer)).slotsGone k [j] = _ :=
    slotsGone_one (State.modEntry_get_self h.1 _) (congrArg Entry.kind hwithdraw) ((congrArg Entry.state hwithdraw).trans h.2.2.1)
  rw [exec_withdrawNotice_named h hslot, if_neg (by simp [hcame, hnew]), hone]

theorem exec_collectiveDeadline_past {slot : Nat} (h : s.RunsRing k e r p) (hdeadline : r.deadline ≠ 0) (hslot : slot < r.slots.length)
    (hsilent : slot ∉ p.heard) (hpast : r.deadline * 1250 < (s.die e.die).cycle.toNat - p.started.toNat) :
    exec (.collectiveDeadline k slot) s = .next (s.slotMissing k slot e r p) := by
  rw [exec_collectiveDeadline, execCollectiveDeadline, State.running?_ring h]
  exact if_pos (by simp [hdeadline, hslot, hsilent, hpast])

/-! ### The end of an entry (R411, R413) -/

theorem exec_collectiveComplete_running (h : s.RunsRing k e r p) : exec (.collectiveComplete k) s =
    if !r.outputsDone p && e.cause = 0 then .next s
    else if e.cause ≠ 0 then
      (if r.op = collRbar || (r.outputsDone p && s.contributionTaken k e r p) then .next (s.failEntry k 0x0703 0) else .next s)
    else if s.contributionTaken k e r p then .next (s.completeEntry k e false)
    else .next s := by
  obtain ⟨he, hkind, hstate, hruns⟩ := h
  rw [exec_collectiveComplete, execCollectiveComplete, he]
  simp only [Entry.coll?_ring hkind, hstate, hruns, Bool.not_true, Bool.false_or]

theorem exec_collectiveComplete_ending {failed : Bool} (he : s.entries.get? k = some e) (hkind : e.kind = .ring r p)
    (hstate : e.state = .ending failed) : exec (.collectiveComplete k) s = .next (s.completeEntry k e failed) := by
  rw [exec_collectiveComplete, execCollectiveComplete, he]
  simp only [Entry.coll?_ring hkind, hstate]

end

end Sys2Proof.Machine
end

section
/-! The course of a collective entry (R410 to R413, R420, R422). -/

namespace Sys2Proof

open Sys2Proof.Machine

/-- Settles O43: each event does what its lemma above says, and a running entry completes by what it has written and what of it has been taken. -/
theorem collectiveEvents : Obligations.CollectiveEvents := by
  unfold Obligations.CollectiveEvents
  refine ⟨fun s k e r p => exec_collectiveTurn_comes, fun s k e r p slot ann => exec_collectiveAnnounce_heard,
    fun s k e r p slot ann => exec_collectiveAnnounce_noPart, fun s k e r p i b ext s1 cs s3 => exec_baleLand_lands,
    fun s k e r p peer j => exec_withdrawNotice_new, fun s k e r p slot => exec_collectiveDeadline_past, ?completes, ?missing,
    fun s k e r p failed => exec_collectiveComplete_ending⟩
  case completes =>
    intro s k e r p h hdone hcause htaken
    rw [exec_collectiveComplete_running h, if_neg (by simp [hdone]), if_neg (not_not.mpr hcause), if_pos htaken]
  case missing =>
    intro s k e r p h hcause hdone
    rw [exec_collectiveComplete_running h, if_neg (by rw [decide_eq_false hcause, Bool.and_false]; decide), if_pos hcause, if_pos (by simpa using hdone)]

end Sys2Proof
end

section
/-! SUPPORT. The start of a context, the commands of CTXCTL, the swap and the teardown: what each does where its conditions hold (R378 to R386). -/

namespace Sys2Proof.Machine

/-! ### The start (R368, R380) -/

/-- The address of the record that a write of CTXSTART names. -/
def recordAddr (v : Dword) : Nat := bitsOf v.toNat 43 12 * 4096

/-- The slot once the address of a record is written to it. -/
def State.begun (s : State) (d k : Nat) (v : Dword) : State := s.modSlotReg d k (fun x => { x with start := BitVec.ofNat 64 (recordAddr v) })

/-- The bytes of the record. -/
def State.startRecord (s : State) (d : Nat) (v : Dword) : List Byte := s.physRead d (recordAddr v) 0x7F0

/-- The state in which a context's addresses are tried. -/
def State.trial (s : State) (d k : Nat) (v : Dword) (c : Ctx) : State := { s.begun d k v with ctxs := (s.begun d k v).ctxs.put c.id c }

/-- A write of CTXSTART that is taken: its slot is Free, and its record lies in memory, unpoisoned. -/
def State.TakesStart (s : State) (d k : Nat) (v : Dword) : Prop :=
  s.accepted = true ∧ d < 8 ∧ (s.die d).lost = false ∧ k < 16 ∧ (s.slotState d k).1 = .free ∧ recordAddr v < (s.die d).cap ∧
    s.firstPoison d (recordAddr v) 0x7F0 = none

/-- A record whose fields are in their ranges and whose FIRST is the slot's die. -/
def State.RecordGood (s : State) (d : Nat) (v : Dword) : Prop :=
  (ctxOfRecord (s.startRecord d v)).first = d ∧ s.recordOk (s.startRecord d v) = true

/-- The map of the image area, as the record's own roots give it. -/
def State.startMap (s : State) (d k : Nat) (v : Dword) : Option (List (Nat × Nat × Nat)) :=
  (s.trial d k v (ctxOfRecord (s.startRecord d v))).imageMap (ctxOfRecord (s.startRecord d v)).id (ctxOfRecord (s.startRecord d v))

/-- How a start goes on once its record has been read and its image area mapped, where `c` is the context without its map. -/
def State.startMapped (s : State) (d k : Nat) (v : Dword) (c : Ctx) (m : List (Nat × Nat × Nat)) : State :=
  if s.conflict c then (s.begun d k v).failStart d k (recordAddr v) 0x0607 true
  else match (s.trial d k v { c with imap := m }).rootNode c.id { c with imap := m } with
    | .error e => (s.begun d k v).failStart d k (recordAddr v) e true
    | .ok (r, args) => (s.begun d k v).startCtx d k (recordAddr v) { c with imap := m } r args

/-- How a start goes on once its record lies in memory. -/
def State.startRead (s : State) (d k : Nat) (v : Dword) : State :=
  if (ctxOfRecord (s.startRecord d v)).first ≠ d || !s.recordOk (s.startRecord d v) then (s.begun d k v).failStart d k (recordAddr v) 0x0606 true
  else match s.startMap d k v with
    | none => (s.begun d k v).failStart d k (recordAddr v) 0x0606 true
    | some m => s.startMapped d k v (ctxOfRecord (s.startRecord d v)) m

theorem ctxStart_eq (s : State) (d k : Nat) (v : Dword) : s.ctxStart d k v =
    if !s.accepted || (s.die d).lost || 8 ≤ d || 16 ≤ k || (s.slotState d k).1 ≠ .free then s
    else if (s.die d).cap ≤ recordAddr v then (s.begun d k v).failStart d k (recordAddr v) 0x0606 false
    else if (s.firstPoison d (recordAddr v) 0x7F0).isSome then (s.begun d k v).failStart d k (recordAddr v) 0x030C true
    else s.startRead d k v := by
  unfold State.startRead State.startMap State.startMapped State.trial State.begun State.startRecord recordAddr State.ctxStart
  dsimp only <;>
  · generalize ctxOfRecord (s.physRead d (bitsOf v.toNat 43 12 * 4096) 0x7F0) = c
    generalize (s.modSlotReg d k fun x => { x with start := BitVec.ofNat 64 (bitsOf v.toNat 43 12 * 4096) }) = s0
    generalize State.imageMap _ _ _ = map
    cases map with
    | none => rfl
    | some m =>
      dsimp only
      generalize State.rootNode _ _ _ = root
      cases root <;> rfl

section
variable {s : State} {d k : Nat} {v : Dword}

theorem ctxStart_taken (h : s.TakesStart d k v) : s.ctxStart d k v = s.startRead d k v := by
  obtain ⟨haccepted, hd, hlost, hk, hfree, hcap, hpoison⟩ := h
  rw [ctxStart_eq, if_neg (by simp [haccepted, hlost, hfree, hd, hk]), if_neg (not_le.mpr hcap), if_neg (by simp [hpoison])]

theorem exec_ctxstart_mapped {m : List (Nat × Nat × Nat)} (h : s.TakesStart d k v) (hgood : s.RecordGood d v) (hmap : s.startMap d k v = some m) :
    exec (.ctxstart d k v) s = .next (s.startMapped d k v (ctxOfRecord (s.startRecord d v)) m) := by
  obtain ⟨hfirst, hok⟩ := hgood
  rw [exec_ctxstart, execCtxstart, ctxStart_taken h, State.startRead, if_neg (by simp [hfirst, hok]), hmap]

theorem exec_ctxstart_bad (h : s.TakesStart d k v) (hbad : ¬s.RecordGood d v ∨ s.startMap d k v = none) :
    exec (.ctxstart d k v) s = .next ((s.begun d k v).failStart d k (recordAddr v) 0x0606 true) := by
  rw [exec_ctxstart, execCtxstart, ctxStart_taken h, State.startRead]
  split
  · rfl
  · next hgood =>
    have hgood : s.RecordGood d v := by simpa [State.RecordGood] using hgood
    rw [hbad.resolve_left (not_not.mpr hgood)]

theorem exec_ctxstart_unaccepted (h : s.accepted = false) : exec (.ctxstart d k v) s = .next s := by
  rw [exec_ctxstart, execCtxstart, ctxStart_eq, if_pos (by simp [h])]

section
variable {c : Ctx} {m : List (Nat × Nat × Nat)}

theorem startMapped_conflict (h : s.conflict { c with imap := m } = true) :
    s.startMapped d k v c m = (s.begun d k v).failStart d k (recordAddr v) 0x0607 true := if_pos h

variable (hfree : s.conflict { c with imap := m } = false)
include hfree

theorem startMapped_badRoot {e : Half} (h : (s.trial d k v { c with imap := m }).rootNode c.id { c with imap := m } = .error e) :
    s.startMapped d k v c m = (s.begun d k v).failStart d k (recordAddr v) e true := by
  have hfree : s.conflict c = false := hfree
  rw [State.startMapped, if_neg (by simp [hfree]), h]

theorem startMapped_starts {r : NodeRec} {args : List Byte}
    (h : (s.trial d k v { c with imap := m }).rootNode c.id { c with imap := m } = .ok (r, args)) :
    s.startMapped d k v c m = (s.begun d k v).startCtx d k (recordAddr v) { c with imap := m } r args := by
  have hfree : s.conflict c = false := hfree
  rw [State.startMapped, if_neg (by simp [hfree]), h]

end

end

/-! ### The commands of CTXCTL (R378, R381, R385) -/

/-- A command on slot `k` of die `d` acts on context `c`, of number `id`. -/
def State.Commands (s : State) (d k id : Nat) (c : Ctx) : Prop :=
  (s.slotOf d k).ctx = some id ∧ s.ctxs.get? id = some c ∧ c.first = d ∧ (s.die d).lost = false

section
variable {s : State} {d k id : Nat} {c : Ctx}

theorem commanded_eq (h : s.Commands d k id c) : s.commanded d k = some (id, c) := by
  obtain ⟨hslot, hctx, hfirst, hlost⟩ := h
  unfold State.commanded
  simp only [hslot, hctx, hfirst, hlost, decide_true, Bool.not_false, Bool.and_self, if_true]

theorem exec_ctxctlSwapOut_commanded (h : s.Commands d k id c) : exec (.ctxctlSwapOut d k) s =
    .next (if c.state = .running then s.modCtx id (fun x => { x with state := .swappingOut }) else s) := by
  rw [exec_ctxctlSwapOut, execCtxctlSwapOut, State.ctxSwapOut, commanded_eq h]

theorem exec_ctxctlSwapIn_commanded (h : s.Commands d k id c) : exec (.ctxctlSwapIn d k) s =
    .next (if c.state = .swapped then (s.modCtx id (fun x => { x with state := .swappingIn })).autoSwap c else s) := by
  rw [exec_ctxctlSwapIn, execCtxctlSwapIn, State.ctxSwapIn, commanded_eq h]

theorem exec_ctxctlEnd_commanded (h : s.Commands d k id c) : exec (.ctxctlEnd d k) s =
    .next (if c.state = .ended then (s.freeSlots id).modCtx id (fun y => { y with state := .free, cause := 0 }) else s.beginEnding id 0x0608) := by
  obtain ⟨hslot, hctx, hfirst, hlost⟩ := h
  rw [exec_ctxctlEnd, execCtxctlEnd, State.ctxEnd]
  simp only [hslot, hctx, if_neg (not_not.mpr hfirst)]

end

/-! ### The swap and the teardown (R382, R383, R385, R386) -/

section
variable {s : State} {ctx : Nat} {c : Ctx} (hctx : s.ctxs.get? ctx = some c)
include hctx

theorem exec_swapOutSaveDone_saved (hstate : c.state = .swappingOut) (hsave : (s.ctxResidents ctx).all s.canSave = true)
    (hquiet : ∀ k e, (k, e) ∈ s.entries → e.ctx = ctx → e.sent = false) : exec (.swapOutSaveDone ctx) s = .next (
      let s1 := ((s.saveAll ctx).wakeAll ctx).dropCtxLines ctx
      let s2 := (c.dies.filter (fun d => s.shadowFree d ctx)).foldl (fun (s : State) d => s.modDie d (fun x => { x with shadow := some ctx })) s1
      ((s2.saveGroups ctx).modCtx ctx (fun x => { x with state := .swapped })).endIfDue ctx) := by
  have hnone : s.entries.any (fun e => e.2.ctx == ctx && e.2.sent) = false := by
    rw [List.any_eq_false]
    rintro ⟨k, e⟩ he
    by_cases hmine : e.ctx = ctx
    · simp [hquiet k e he hmine]
    · simp [hmine]
  rw [exec_swapOutSaveDone, execSwapOutSaveDone, hctx]
  exact if_neg (by simp [hstate, hsave, hnone])

theorem exec_swapInRestoreDone_back (hstate : c.state = .swappingIn) (hcause : c.cause = 0) (hfit : s.groupsFit c = true) :
    exec (.swapInRestoreDone ctx) s =
      .next ((((s.restoreGroups ctx c).modCtx ctx (fun x => { x with state := .running })).clearShadow ctx).retakeLeases ctx) := by
  rw [exec_swapInRestoreDone, execSwapInRestoreDone, hctx]
  exact (if_neg (not_not.mpr hstate)).trans ((if_neg (not_not.mpr hcause)).trans (if_neg (by simp [hfit])))

theorem exec_teardownDone_drained (hstate : c.state = .ending) (hdrained : s.drained ctx = true) : exec (.teardownDone ctx) s = .next (
    let s1 := (c.layers.map (fun l => l.1)).foldl (fun (s : State) l => s.endLayer ctx l) s
    let s2 := (((s1.dropCtxLines ctx).clearCtx ctx).writeStatus c.recDie c.recPa c.cause).modCtx ctx (fun x =>
      { x with state := .ended, imap := [], kernels := [], saveUsed := [], rlogUsed := [], groups := [] })
    ((s2.ctxs.filter (fun x => x.2.state == .swapped && x.2.dies.any (fun d => c.dies.contains d))).insertionSort
      (fun a b => decide (b.2.prio ≤ a.2.prio))).foldl (fun s x => s.swapBack x.1 x.2) s2) := by
  rw [exec_teardownDone, execTeardownDone, hctx]
  exact if_neg (by simp [hstate, hdrained])

end

end Sys2Proof.Machine
end

section
/-! Contexts start, halt, resume and end (R368, R378 to R383, R385, R386). -/

namespace Sys2Proof

open Sys2Proof.Machine

/-- Settles O48: a start goes by its record, its image map, its conflicts and its root node in turn, a command by the state of its context, and the
swap and the teardown by what is still under way. -/
theorem contextEvents : Obligations.ContextEvents := by
  unfold Obligations.ContextEvents
  refine ⟨?starts, fun s d k v => exec_ctxstart_bad, fun s d k v => exec_ctxstart_unaccepted, ?commands,
    fun s ctx c => exec_swapOutSaveDone_saved, fun s ctx c => exec_swapInRestoreDone_back, fun s ctx c => exec_teardownDone_drained⟩
  case starts =>
    intro s d k v htaken hgood m hmap
    have hexec := exec_ctxstart_mapped htaken hgood hmap
    refine ⟨fun hconflict => ?_, fun e hfree hroot => ?_, fun r args hfree hroot => ?_⟩
    · exact hexec.trans (congrArg _ (startMapped_conflict hconflict))
    · exact hexec.trans (congrArg _ (startMapped_badRoot hfree hroot))
    · exact hexec.trans (congrArg _ (startMapped_starts hfree hroot))
  case commands =>
    intro s d k id c h
    refine ⟨fun hrun => ?_, fun hrun => ?_, fun hswapped => ?_, fun hswapped => ?_, fun hended => ?_, fun hended => ?_⟩
    · rw [exec_ctxctlSwapOut_commanded h, if_pos hrun]
    · rw [exec_ctxctlSwapOut_commanded h, if_neg hrun]
    · rw [exec_ctxctlSwapIn_commanded h, if_pos hswapped]
    · rw [exec_ctxctlSwapIn_commanded h, if_neg hswapped]
    · rw [exec_ctxctlEnd_commanded h, if_neg hended]
    · rw [exec_ctxctlEnd_commanded h, if_pos hended]

end Sys2Proof
end

section
/-! SUPPORT. The events of the pod links: what each does where its conditions hold (R426, R428 to R432). -/

namespace Sys2Proof.Machine

/-! ### Ports (R25, R462) -/

theorem State.portOpen_iff (s : State) (port : Nat) : s.portOpen port = true ↔ port < 16 ∧ s.portWidth port ≠ 0 ∧ s.feature 2 = true := by
  simp [State.portOpen, and_assoc]

section
variable {s : State} {port : Nat} (h : s.portOpen port = false)
include h

theorem exec_flitReceive_closed (f : List Byte) : exec (.flitReceive port f) s = .next s := by
  rw [exec_flitReceive, execFlitReceive]
  exact if_pos (by simp [h])

theorem exec_flitNak_closed (n : Nat) : exec (.flitNak port n) s = .next s := by
  rw [exec_flitNak, execFlitNak, if_pos (by simp [h])]

theorem exec_packetRequest_closed (p : Packet) : exec (.packetRequest port p) s = .next s := by
  rw [exec_packetRequest, execPacketRequest, if_pos (by simp [h])]

theorem exec_packetReply_closed (p : Packet) : exec (.packetReply port p) s = .next s := by
  rw [exec_packetReply, execPacketReply, if_pos (by simp [h])]

end

/-! ### Flits (R426) -/

/-- The record of a port. -/
def State.link (s : State) (port : Nat) : LinkPort := (s.links.get? port).getD LinkPort.reset

/-- A NAK sent for the next flit that is expected. -/
def State.nak (s : State) (port : Nat) : State := s.modLink port (fun l => { l with sent := l.sent ++ [ctlFlit 2 l.rxSeq] })

/-- A flit of 256 bytes whose CRC is right. -/
def FlitGood (f : List Byte) : Prop := f.length = 256 ∧ leNat (f.drop 248) = (crc64 (f.take 248)).toNat

section
variable {s : State} {port : Nat} {f : List Byte} (hopen : s.portOpen port = true)
include hopen

theorem exec_flitReceive_bad (h : ¬FlitGood f) : exec (.flitReceive port f) s = .next (s.nak port) := by
  have hbad : (f.length == 256 && leNat (f.drop 248) == (crc64 (f.take 248)).toNat) = false := by
    rw [Bool.eq_false_iff]
    simpa [FlitGood] using h
  rw [exec_flitReceive, execFlitReceive]
  exact (if_neg (by simp [hopen])).trans (if_pos (by rw [hbad]; rfl))

/-- A data flit whose CRC is right. -/
theorem exec_flitReceive_data (h : FlitGood f) (hkind : leNat (f.take 2) / 16384 = 0) : exec (.flitReceive port f) s =
    if leNat (f.take 2) % 4096 ≠ (s.link port).rxSeq then .next (s.nak port)
    else
      let s1 := s.modLink port (fun l => { l with rxSeq := (l.rxSeq + 1) % 4096, sent := l.sent ++ [ctlFlit 1 l.rxSeq] })
      let r := State.parseRx port 8 s1 (((s.link port).rx.get? (leNat (f.take 2) / 4096 % 4)).getD [] ++ (f.drop 2).take 246)
      .next (r.1.modLink port (fun l => { l with rx := l.rx.put (leNat (f.take 2) / 4096 % 4) r.2 })) := by
  have hgood : (f.length == 256 && leNat (f.drop 248) == (crc64 (f.take 248)).toNat) = true := by
    simpa [FlitGood] using h
  rw [exec_flitReceive, execFlitReceive]
  refine (if_neg (by simp [hopen])).trans ((if_neg (by rw [hgood]; decide)).trans ?_)
  rw [hkind]
  rfl

theorem exec_flitNak_open (n : Nat) : exec (.flitNak port n) s = .next (s.modLink port (fun l => l.replayFrom n)) := by
  rw [exec_flitNak, execFlitNak, if_neg (by simp [hopen])]

end

/-! ### Requests (R428, R430) -/

/-- The window of a request's target for its requester. -/
def State.window (s : State) (p : Packet) : Option Replay := (s.die (p.dst.toNat % 8)).replay.get? p.src.toNat

/-- A request without SYN that comes on an open port to a die of the package that stands. -/
def State.Ours (s : State) (port : Nat) (p : Packet) : Prop :=
  s.portOpen port = true ∧ p.nul = false ∧ p.dst.toNat / 8 = s.fuses.pkg ∧ (s.die (p.dst.toNat % 8)).lost = false ∧ p.type.toNat ≤ 2 ∧
    p.flags.getLsbD 0 = false

/-- A window put back. -/
def State.keepWindow (s : State) (p : Packet) (w : Replay) : State :=
  s.modDie (p.dst.toNat % 8) (fun x => { x with replay := x.replay.put p.src.toNat w })

/-- What a request without SYN meets at its target, where it is not to be held. -/
def State.atWindow (s : State) (port : Nat) (p : Packet) : Option Replay → State × Option Packet
  | none => (s, some (p.failReply 0x0702))
  | some w =>
    if p.seq = w.expected then
      if meetsAny w.held p then (s.keepWindow p { w.accept p.seq with held := w.held ++ [(port, p)] }, none)
      else ((s.targetPerform p).1.keepWindow p ((w.accept p.seq).record p.seq (s.targetPerform p).2 (p.type != 0)), some (s.targetPerform p).2)
    else if w.recorded p.seq then
      if w.held.any (fun q => q.2.seq == p.seq) then (s, none)
      else if p.type = 0 then ((s.targetPerform p).1.keepWindow p w, some (s.targetPerform p).2)
      else (s, some ((w.answers.get? p.seq.toNat).getD (p.failReply 0x0702)))
    else if (p.seq - w.expected).toNat < 2 ^ 31 then (s, none)
    else (s, some (p.failReply 0x0702))

/-- The answer that goes out, where there is one. -/
def State.answer (port : Nat) : State × Option Packet → State
  | (s, some r) => s.emit port r
  | (s, none) => s

section
variable {s s1 : State} {port : Nat} {p r : Packet} {w : Replay} {w? : Option Replay}

theorem targetRequest_plain (hsyn : p.flags.getLsbD 0 = false) : s.targetRequest port false p = s.atWindow port p (s.window p) := by
  unfold State.targetRequest State.atWindow State.window State.keepWindow
  simp only [hsyn, Bool.false_and, Bool.false_eq_true, if_false, Bool.false_or] <;> rfl

variable (h : s.Ours port p)
include h

theorem exec_packetRequest_ours : exec (.packetRequest port p) s = .next (State.answer port (s.atWindow port p (s.window p))) := by
  obtain ⟨hopen, hnul, hpkg, hlost, htype, hsyn⟩ := h
  have hours : ¬(p.nul || decide (p.dst.toNat / 8 ≠ s.fuses.pkg) || (s.die (p.dst.toNat % 8)).lost || decide (2 < p.type.toNat)) = true := by
    simp [hnul, hpkg, hlost, htype]
  rw [exec_packetRequest, execPacketRequest, if_neg (by simp [hopen]), State.takeRequest, if_neg hours, targetRequest_plain hsyn]
  unfold State.answer
  generalize s.atWindow port p (s.window p) = q
  obtain ⟨t, _ | r⟩ := q <;> rfl

theorem exec_packetRequest_stale (hw : s.window p = none) : exec (.packetRequest port p) s = .next (s.emit port (p.failReply 0x0702)) := by
  rw [exec_packetRequest_ours h, hw]
  rfl

variable (hw : s.window p = some w)
include hw

theorem exec_packetRequest_performed (hseq : p.seq = w.expected) (hmeets : meetsAny w.held p = false) (hr : s.targetPerform p = (s1, r)) :
    exec (.packetRequest port p) s = .next ((s1.keepWindow p ((w.accept p.seq).record p.seq r (p.type != 0))).emit port r) := by
  rw [exec_packetRequest_ours h, hw, State.atWindow, if_pos hseq, if_neg (by simp [hmeets]), hr]
  rfl

theorem exec_packetRequest_held (hseq : p.seq = w.expected) (hmeets : meetsAny w.held p = true) :
    exec (.packetRequest port p) s = .next (s.keepWindow p { w.accept p.seq with held := w.held ++ [(port, p)] }) := by
  rw [exec_packetRequest_ours h, hw, State.atWindow, if_pos hseq, if_pos hmeets]
  rfl

theorem exec_packetRequest_answered (hseq : p.seq ≠ w.expected) (hrecent : (w.expected - p.seq).toNat ≤ 256) (htype : p.type ≠ 0)
    (hheld : ∀ q ∈ w.held, q.2.seq ≠ p.seq) (hanswer : w.answers.get? p.seq.toNat = some r) :
    exec (.packetRequest port p) s = .next (s.emit port r) := by
  have hrecorded : w.recorded p.seq = true := by
    rw [Replay.recorded, decide_eq_true hrecent, Bool.and_true, bne_iff_ne]
    exact hseq
  have hheld : ¬w.held.any (fun q => q.2.seq == p.seq) = true := by simpa using fun a b hab => hheld (a, b) hab
  rw [exec_packetRequest_ours h, hw, State.atWindow, if_neg hseq, if_pos hrecorded, if_neg hheld, if_neg htype, hanswer]
  rfl

theorem exec_packetRequest_early (hseq : p.seq ≠ w.expected) (hpast : 256 < (w.expected - p.seq).toNat)
    (hearly : (p.seq - w.expected).toNat < 2 ^ 31) : exec (.packetRequest port p) s = .next s := by
  have hrecorded : ¬w.recorded p.seq = true := by
    rw [Replay.recorded, decide_eq_false (by omega), Bool.and_false]
    decide
  rw [exec_packetRequest_ours h, hw, State.atWindow, if_neg hseq, if_neg hrecorded, if_pos hearly]
  rfl

end

/-! ### Replies (R429, R431) -/

theorem exec_packetReply_nul {s : State} {port : Nat} {p : Packet} (h : p.nul = true) : exec (.packetReply port p) s = .next s := by
  rw [exec_packetReply, execPacketReply, if_pos (by simp [h])]

/-- A pair once the request of a reply's number has ended. -/
def State.ended (s : State) (p : Packet) : State :=
  s.modPair (p.src.toNat % 8) p.dst.toNat (fun q => { q with out := q.out.filter (fun x => x.pkt.seq != p.seq), rounds := 0 })

/-- A reply that comes on an open port for the request `o` of its number. -/
structure State.Replied (s : State) (port : Nat) (p : Packet) (o : Outstanding) : Prop where
  isOpen : s.portOpen port = true
  answers : p.nul = false
  here : p.src.toNat / 8 = s.fuses.pkg
  found : (s.pair (p.src.toNat % 8) p.dst.toNat).out.find? (fun o => o.pkt.seq == p.seq) = some o

section
variable {s : State} {port : Nat} {p : Packet} {o : Outstanding} (h : s.Replied port p o)
include h

theorem exec_packetReply_taken (htype : 8 ≤ p.type.toNat) : exec (.packetReply port p) s = .next (s.peerReply p) := by
  have hours : ¬(p.nul || !s.portOpen port || decide (p.src.toNat / 8 ≠ s.fuses.pkg) || decide (p.type.toNat < 8)) = true := by
    simp [h.answers, h.isOpen, h.here, htype]
  rw [exec_packetReply, execPacketReply, if_neg hours]

theorem exec_packetReply_bytes (htype : p.type = 8 ∨ p.type = 10) (hslice : o.entry = none) :
    exec (.packetReply port p) s = .next ((s.ended p).fillPart o.fill (leNat (p.payload.take p.len.toNat))) := by
  have hfound := h.found
  rcases htype with htype | htype
  · rw [exec_packetReply_taken h (by rw [htype]; decide), State.peerReply]
    simp only [hfound, htype, hslice]
    rfl
  · rw [exec_packetReply_taken h (by rw [htype]; decide), State.peerReply]
    simp only [hfound, htype]
    rfl

theorem exec_packetReply_written (htype : p.type = 9) (hslice : o.entry = none) :
    exec (.packetReply port p) s = .next ((s.ended p).issueDone o.issue) := by
  have hfound := h.found
  rw [exec_packetReply_taken h (by rw [htype]; decide), State.peerReply]
  simp only [hfound, htype, hslice]
  rfl

theorem exec_packetReply_failed (htype : p.type = 11) (hcause : p.keys.setWidth 16 ≠ (0x0702 : Half)) :
    exec (.packetReply port p) s = .next ((s.ended p).failOut o (p.keys.setWidth 16)) := by
  have hfound := h.found
  rw [exec_packetReply_taken h (by rw [htype]; decide), State.peerReply]
  simp only [hfound, htype]
  exact congrArg _ (if_neg hcause)

end

/-! ### Timers, notices and training (R26, R429, R432) -/

/-- Every request of a list is sent again on its pair. -/
def State.sendAgain (s : State) (die peer : Nat) (out : List Outstanding) : State :=
  out.foldl (fun s o =>
    match s.portFor die peer with
    | some port => s.emit port { o.pkt with flags := o.pkt.flags ||| 2 }
    | none => s) s

section
variable {s : State} {die peer : Nat} (h : (s.pair die peer).out ≠ [])
include h

theorem exec_replayTimeout_fails (hrounds : 8 ≤ (s.pair die peer).rounds) :
    exec (.replayTimeout die peer) s = .next (s.failPair die peer 0x0701) := by
  rw [exec_replayTimeout, execReplayTimeout]
  exact (if_neg (by simpa using h)).trans (if_pos hrounds)

theorem exec_replayTimeout_again (hrounds : (s.pair die peer).rounds < 8) : exec (.replayTimeout die peer) s =
    .next ((s.modPair die peer (fun p => { p with rounds := p.rounds + 1 })).sendAgain die peer (s.pair die peer).out) := by
  rw [exec_replayTimeout, execReplayTimeout]
  exact (if_neg (by simpa using h)).trans (if_neg (by omega))

end

theorem exec_switchDownNotice_port {s : State} {port : Nat} (peer : Nat) (whole : Bool) (h : port < 16) :
    let hit := fun (k : Nat) => if whole then k / 8 == peer / 8 else k == peer
    exec (.switchDownNotice port peer whole) s = .next (
      let s1 := (s.pairs.filter (fun p => hit (p.1 % 8192))).foldl (fun s p => s.failPair (p.1 / 8192) (p.1 % 8192) 0x0701) s
      { s1 with dies := s1.dies.map (fun (d : Nat × Die) => (d.1, { d.2 with replay := d.2.replay.filter (fun r => !hit r.1) })) }.membersDown hit) := by
  rw [exec_switchDownNotice, execSwitchDownNotice]
  exact if_neg (by omega)

theorem exec_petixaRetrain_trains {s : State} {port width : Nat} (hport : port < 16) (hwidth : width ≤ 2)
    (hfeature : s.accepted = false ∨ s.feature 2 = true) : exec (.petixaRetrain port width) s =
      .next (s.modDie (port / 2) (fun x => if port % 2 = 0 then { x with pxa := width } else { x with pxb := width })) := by
  have htrains : (s.accepted && !s.feature 2) = false := by
    obtain h | h := hfeature <;> simp [h]
  rw [exec_petixaRetrain, execPetixaRetrain, htrains]
  exact if_neg (by simp; omega)

end Sys2Proof.Machine
end

section
/-! Flits, packets, replays and notices at the ports (R426, R428 to R432). -/

namespace Sys2Proof

open Sys2Proof.Machine

/-- Settles O50: a flit goes by its CRC and its number, a request by its target's window, a reply by its type, and a timer and a notice by the
requests that are outstanding. -/
theorem linkEvents : Obligations.LinkEvents := by
  unfold Obligations.LinkEvents
  refine ⟨?closed, fun s port f hopen => exec_flitReceive_bad hopen, ?sequence, ?inSequence, fun s port n hopen => exec_flitNak_open hopen n,
    fun s port p w s1 r => exec_packetRequest_performed, fun s port p w => exec_packetRequest_held,
    fun s port p w r => exec_packetRequest_answered, fun s port p w => exec_packetRequest_early, fun s port p => exec_packetRequest_stale,
    ?replies, fun s port p => exec_packetReply_nul, ?timers, fun s port peer whole => exec_switchDownNotice_port peer whole,
    fun s port width => exec_petixaRetrain_trains⟩
  case closed =>
    exact fun s port => ⟨s.portOpen_iff port, fun hclosed => ⟨exec_flitReceive_closed hclosed, exec_flitNak_closed hclosed,
      exec_packetRequest_closed hclosed, exec_packetReply_closed hclosed⟩⟩
  case sequence =>
    intro s port f hopen hgood hkind hseq
    exact (exec_flitReceive_data hopen hgood hkind).trans (if_pos hseq)
  case inSequence =>
    intro s port f s2 rest hopen hgood hkind hseq hparse
    refine (exec_flitReceive_data hopen hgood hkind).trans ((if_neg (not_not.mpr hseq)).trans ?_)
    exact congrArg (fun r : State × List Byte => Host.Outcome.next (r.1.modLink port (fun l => { l with rx := l.rx.put _ r.2 }))) hparse
  case replies =>
    intro s port p o hopen hnul hpkg hfound
    have hreplied : s.Replied port p o := ⟨hopen, hnul, hpkg, hfound⟩
    exact ⟨exec_packetReply_bytes hreplied, exec_packetReply_written hreplied, exec_packetReply_failed hreplied⟩
  case timers =>
    exact fun s die peer hout => ⟨exec_replayTimeout_fails hout, exec_replayTimeout_again hout⟩

end Sys2Proof
end
